-- ==== Sys2Proof/Word.lean ====
section
/-! DEFINITION. The word types of the device. -/
namespace Sys2Proof

/-- A byte of memory. -/
abbrev Byte := BitVec 8
/-- A register half, and every 32-bit field (R13). -/
abbrev Word32 := BitVec 32
/-- A 64-bit register, counter or address. -/
abbrev Word64 := BitVec 64
/-- A 64-byte descriptor, entry or line, byte 0 in bits 7:0 (R10, R213). -/
abbrev Line := BitVec 512

end Sys2Proof
end

