-- ==== Sys2Proof/Syntax.lean ====
section
/-! DEFINITION. The commands of the device: one constructor per row of the table of operations and events, and the types of
their operands. A row's operands are what the event brings from outside: the descriptor that is armed, the value written,
the carriage or frame that arrives, the unit on which a limit passes. -/
namespace Sys2Proof

/-- Who makes a register access: the host through the upstream port, the Coachman complex, the Guard (R17), or the board
management controller, which reads over I3C at the 7-bit address it names (R540, R583). -/
inductive Agent where
  | host
  | coachman
  | guard
  | bmc (addr : Nat)
deriving DecidableEq, Repr

/-- Where a command was armed from (R592): ring r, the Coachman complex's own queues, or the tile sequencer of a Coach. -/
inductive Source where
  | ring (r : Nat)
  | coachman
  | seq (n : Nat)
deriving DecidableEq, Repr

/-- The condition of a memory line (R298, R299). -/
inductive LineState where
  | good
  | ce
  | ue
  | poison
deriving DecidableEq, Repr

/-- Why a command is killed (Table 06-15, R219). -/
inductive KillCause where
  /-- a residue or duplicated-adder mismatch: run again until KILLMAX -/
  | residue
  /-- a fault after which the command completes FAILED -/
  | failed
  /-- pre-emption or job end: completes ABORTED -/
  | aborted
  /-- fabric loss of a GROUP-class command: run again -/
  | fabric
deriving DecidableEq, Repr

/-- A host configuration request: one of no effect in this model, the write that sets CXL.cache, a read of Interrupt Pin, a
search of the capability list for a PCI capability (R441), or a DOE Table Access (R440). -/
inductive CfgReq where
  | plain
  | cacheEnable (on : Bool)
  | interruptPin
  | findCap (id : Nat)
  | tableAccess
deriving DecidableEq, Repr

/-- A device that enumeration finds below a downstream port (R448): its bus, device and function word, whether it is a
Type 3 device directly attached or below one switch, and its capacity in bytes. -/
structure DsDevice where
  bdf   : Nat
  used  : Bool
  bytes : Nat
deriving DecidableEq, Repr

/-- The fields of a Harness request (Table 19-4). A request with a reserved OP may come by any row of the port. -/
structure HReq where
  op     : Nat
  target : Nat
  idx    : Nat
  space  : Bool
  rsv    : Nat
  addr   : Word64
  data   : Word64
deriving DecidableEq, Repr

/-- An error that an array makes while it forms a sum (R170): the exact pass sum is off by `d` units of its last place, the
addition into an integer accumulator is off by `d`, the two adders of a duplicated addition into a floating accumulator
disagree, or those of the final subtraction of a three-product element, which follows its last pass. -/
inductive FaultAt where
  | sum (d : Int)
  | acc (d : Int)
  | adder
  | final
deriving DecidableEq, Repr

/-- An error in a command pass, at a row of its chunk and a column of its tile. -/
structure PassFault where
  row : Nat
  col : Nat
  at_ : FaultAt
deriving DecidableEq, Repr

/-- A pass as it begins: its Coach, and the errors that the arrays make in it. -/
structure PassStart where
  coach  : Nat
  faults : List PassFault
deriving DecidableEq, Repr

/-- An error in a fill pass of an array. -/
structure FillFault where
  array : Nat
  at_   : FaultAt
deriving DecidableEq, Repr

/-- A carriage as it travels: the 64-byte header (Table 03-11) and the payload bytes. -/
structure Carriage where
  hdr     : Line
  payload : List Byte
deriving DecidableEq, Repr

/-- A management message (Table 10-2) without its MSG code, which the row names. -/
structure Mgmt where
  level : Nat
  pairs : Nat
  lfail : Nat
deriving DecidableEq, Repr

/-- The TYPE of a link frame (Table 10-1). -/
inductive FrameType where
  | data
  | reserved
  | retry
  | mgmt
deriving DecidableEq, Repr

/-- A power domain that the device gates by itself (Table 17-1). -/
inductive Domain where
  | coachArrays (n : Nat)
  | coachControl (n : Nat)
  | postilion (p : Nat)
  | core (k : Nat)
  | hitchPair (m : Nat)
  | dsPort (q : Nat)
  | collective
  | dray
  | fabricAgent
deriving DecidableEq, Repr

/-- The straps sampled at a reset release (R583), whether CORECLK runs, and the planes whose FABCLK runs, as a mask (R581). -/
structure Straps where
  i3cAddr : Nat
  refmode : Bool
  testen  : Bool
  coreclk : Bool
  fabclk  : Nat
deriving DecidableEq, Repr

/-- A Guard command (R542) without its CMD, which the row names: the I3C controller that sent it, the 7-bit address it sent it to, LEN, NONCE, UID, whether
the bytes that must be zero are zero, the payload, and whether both signatures verify against the keys of Table 18-6: the
Guard holds a hash of those keys, and where it has the keys from is not stated (log entry 69). -/
structure GReq where
  ctl     : Nat
  addr    : Nat
  len     : Nat
  nonce   : Word64
  uid     : BitVec 128
  zeros   : Bool
  payload : List Byte
  sigOk   : Bool
deriving DecidableEq, Repr

/-- The commands: those with operands in the order of the table, then those without. -/
inductive Instr where
  /-- A register write to a register without a row of its own takes effect field by field according to the access
  tags, including the GW, reserved-encoding and W1C/W1S collision rules (R15). -/
  | registerWrite (ag : Agent) (bar off width : Nat) (v : Word64)
  /-- A misaligned or narrower register access is answered as R13 states and records HOST/0x005 where R13 says so
  (R13). -/
  | misalignedAccess (ag : Agent) (bar off size : Nat) (wr : Bool)
  /-- A read of the low word of a 64-bit register latches the high word, so that the two halves read as a consistent
  pair (R14). -/
  | lowWordReadLatch (ag : Agent) (off width : Nat)
  /-- A routing-pass descriptor is armed: it is checked in the order of R86, copies its profiles, takes its stream
  sequence number and starts, or is refused (R46). -/
  | routepass (src : Source) (d : Line)
  /-- The counter at WAIT_ADDR reaches WAIT_TARGET, so the routing pass begins scoring (R36). -/
  | routepassWaitSatisfied (g : Nat)
  /-- A Postilion that can take work takes the ready share of the earliest-armed pass that names it (R84). -/
  | postilionShareDispatch (p : Nat)
  /-- A reduction of a routing pass completes, and every member advances its selection, tie, cap, refill or
  dispatch-scan decisions, or kills the pass on a digest or refusal mismatch (R58). -/
  | routeReductionComplete (g ord : Nat)
  /-- The scatter stage commits the send area and the token table, and then increments SCAT_CNT (R104). -/
  | scatterCommit (g : Nat)
  /-- An exchange descriptor is armed, checked, given its stream sequence number and queued, or is refused (R108). -/
  | exchange (src : Source) (d : Line)
  /-- Once the exchange is armed and the dispatch scan has written the count table, the forward exchange fixes its
  slots and derives the expected rows of each (R114). -/
  | exchangeFixSlots (g : Nat)
  /-- An exchange step begins once its wait counter is satisfied and the step lies within WINDOW of the completed
  steps (R110). -/
  | exchangeStepStart (g : Nat)
  /-- The unpacker places or rejects each record of a landed segment, frees its barrows and commits slots and the
  exchange when their counts are met (R114). -/
  | unpackSegment (g rank : Nat)
  /-- After the forward exchange it returns has committed, the return exchange begins packing return records (R117). -/
  | returnExchangeStart (g : Nat)
  /-- The combine unit reads a returned record, checks it, accumulates it in ordered or arrival mode, and commits
  the combine stage when every token is done (R119). -/
  | combineReturnRecord (x rank i : Nat)
  /-- A write to WYB_UPDIDX or WYB_UPDDATA while GO reads 1 is discarded (R126). -/
  | waybillRegWrite (off : Nat) (v : Word32)
  /-- A MATMUL command is armed, checked and run as passes on one Coach (R221). -/
  | matmul (n : Nat)
  /-- A gated-expert command is armed and runs prediction, gate, make-up, up and down per chunk of rows (R222). -/
  | gexpert (n : Nat)
  /-- A compress command writes a stored-tile array in the requested layout, or falls back to dense per tile (R223). -/
  | compress (n : Nat)
  /-- A vector command performs its VOP over COUNT elements on the vector unit (R224). -/
  | vector (n : Nat)
  /-- A COPY command moves ROWS rows between a Coach store and memory without changing any byte (R225). -/
  | copy (n : Nat)
  /-- A pass begins once the previous pass's last row has entered and the shadow weight load has completed (R134). -/
  | arrayPassStart (p : PassStart)
  /-- The residue verdict of a pass returns; a mismatch kills and re-queues the command, and a repeated mismatch
  within the window fences the Coach (R171). -/
  | residueVerdict (n : Nat) (fill : Option (List FillFault))
  /-- The arrays start fill passes when a command pass ends, no command pass is ready and fill is enabled (R177). -/
  | idleFillStart (n : Nat)
  /-- No command pass has become ready within LEN x 10 ns, so fill activity falls in eight steps over RAMP (R179). -/
  | fillRampDown (n : Nat)
  /-- The ramp ends and the arrays are clock-gated (R179). -/
  | fillRampEnd (n : Nat)
  /-- A write to CCH_IDLEFILL takes effect at the start of the next gap (R180). -/
  | cchIdlefillWrite (v : Word32)
  /-- RUNPROG is armed, captures CCH_STEP and queues one instance per named enabled Coach, or is refused (R226). -/
  | runprog (src : Source) (d : Line)
  /-- An instance starts on its Coach once that Coach has no other instance (R226). -/
  | instStart (n : Nat)
  /-- The WAIT control operation begins waiting until the counter at ADDR reaches TARGET (R227). -/
  | wait (n : Nat)
  /-- The counter at ADDR reaches TARGET, and the waiting instance moves on (R227). -/
  | waitSatisfied (n : Nat)
  /-- After earlier commands of the instance commit, SIGNAL adds VALUE, per instance or once for the team (R227). -/
  | signal (n : Nat)
  /-- A SCOPE 1 SIGNAL fires once every live instance of the team has reached it (R236). -/
  | signalTeamFire (g : Nat)
  /-- TAKE issues a take on a counter record for the instance's next work index (R232). -/
  | take (n : Nat)
  /-- TAKEQ takes from its own queue record, and steals from the team's other queues when STEAL = 1 (R235). -/
  | takeq (n : Nat)
  /-- The bank answers a take with an index or with none, and the instance runs that index's descriptors or moves on
  (R232). -/
  | takeAnswer (n : Nat) (lost : Bool)
  /-- An unanswered take is retried with the same tag after 2 µs, and after 8 tries the team stops with JOB/0x045
  (R233). -/
  | takeTimeout (n : Nat)
  /-- The instance ends, and RUNPROG commits and writes its status block once every live instance has ended (R227). -/
  | progEnd (n : Nat)
  /-- All of a command's outputs are acknowledged and its checks pass, so its report, counters, records, HAND
  increment and status become visible together (R237). -/
  | commandCommit (g : Nat)
  /-- A command's passes and transfers are stopped, together with the later uncommitted commands of its instance
  (R243). -/
  | commandKill (g : Nat) (cause : KillCause)
  /-- Every write of the killed run has landed or been dropped, so barrows are freed and any rerun begins with a new
  generation (R243). -/
  | killComplete (g : Nat)
  /-- A write to CCH_STEP is applied, or is discarded with HOST/0x007 while teams are in flight (R261). -/
  | cchStepWrite (v : Word64)
  /-- A write to CCH_SEED is applied, or is discarded with HOST/0x007 while teams are in flight (R264). -/
  | cchSeedWrite (v : Word32)
  /-- GO with OP = 0 starts a page-table entry write from the data registers (R275). -/
  | ptEntryWrite (v : Word32)
  /-- GO with OP = 1 starts a copy of a page-table entry into the data registers (R275). -/
  | ptEntryRead (v : Word32)
  /-- A write to MEM_PTUPDIDX, OP or the data registers while GO reads 1 is discarded (R275). -/
  | ptRegWrite (off : Nat) (v : Word32)
  /-- A MOVE command is armed and starts moves of its pages to the target tier, or is refused with MEM/0x00A (R292). -/
  | move (src : Source) (d : Line)
  /-- The move's last sector is copied, and the page enters DRAINING, where new writes are held (R279). -/
  | moveSweepDone (page : Nat)
  /-- Every dirty sector has been re-copied and acknowledged, so the page's home switches, held writes are released
  and the source is freed (R279). -/
  | moveSwitch (page : Nat)
  /-- A move's destination fails, so the move is cancelled and the page stays at its source with MEM/0x00B (R279). -/
  | moveDestFail (page : Nat)
  /-- A write to a Timetable configuration register while TTRUN reads 1 is discarded and records MEM/0x00D (R291). -/
  | timetableConfigWrite (off : Nat) (v : Word64)
  /-- Every 100 ns the Dray samples the HBM and CXL queue depths and sets or clears its holds (R295). -/
  | saturationSample (hbm p0 p1 : Nat)
  /-- A stack's HBM retraining slot falls due, and starts or is deferred (R297). -/
  | retrainSlotDue (st occ : Nat)
  /-- A 100 µs deferral step ends, and the slot starts, defers again or is forced after DEFER (R297). -/
  | retrainSlotDefer (st occ : Nat)
  /-- The patrol scrubber reads an HBM line and corrects it or poisons it (R298). -/
  | scrubRead (frame line : Nat) (found : LineState)
  /-- A unit's ALLOC request joins the queue of its class (R309). -/
  | alloc (owner : Nat) (ret : Bool) (gen : Nat)
  /-- The owner's FREE frees the barrow, or marks it pending while holds remain (R309). -/
  | free (owner ptr : Nat)
  /-- SHARE adds a hold and passes ownership of the barrow (R309). -/
  | share (owner ptr dst : Nat)
  /-- DROP releases a hold and frees the barrow when the last hold goes with PEND set (R309). -/
  | drop (owner ptr : Nat)
  /-- A write to LVY_WIN, RESERVE or DRYLIM is taken while EN = 0 and discarded with MEM/0x013 while EN = 1 (R305). -/
  | liveryConfigWrite (off : Nat) (v : Word64)
  /-- A write of the high word of LVY_FREE frees a barrow as owner 0x11 (R320). -/
  | lvyFreeWrite (ptr : Word64)
  /-- A link frame is decoded: XOFF, ACKSEQ and the flits are taken, or the frame is discarded and a retry is
  requested (R329). -/
  | linkFrameReceive (h : Nat) (lanes : List (List Nat))
  /-- A Hitch sends its next data, idle, retry or management frame, keeping data frames for replay (R328). -/
  | linkFrameTransmit (h : Nat)
  /-- RETRY_TO passes without the expected frame, so the retry request is repeated or the link goes down after
  RETRY_MAX (R329). -/
  | retryRequestTimeout (h : Nat)
  /-- A stored frame stays unacknowledged for ACK_TO, and the link goes down (R329). -/
  | ackTimeout (h : Nat)
  /-- No good frame arrives for 1 µs, and the link goes down with cause 0x4 (R337). -/
  | linkIdleTimeout (h : Nat)
  /-- A lane that carries traffic loses signal or lock, and the link goes down with cause 0x1 (R337). -/
  | laneSignalLoss (h lane : Nat)
  /-- A management message that expects an answer is sent again after 1 µs (R327). -/
  | mgmtMessageResend (h : Nat)
  /-- A received training-status message is used in training and level negotiation (R341). -/
  | ts (h : Nat) (m : Mgmt)
  /-- A received width request is answered with WIDTH_ACK or WIDTH_NAK, and any own request is withdrawn (R347). -/
  | widthReq (h : Nat) (m : Mgmt)
  /-- A received width acknowledgement makes the device send WIDTH_SWITCH and change width (R343). -/
  | widthAck (h : Nat) (m : Mgmt)
  /-- A received refusal of a width request abandons the requested change (R347). -/
  | widthNak (h : Nat) (m : Mgmt)
  /-- A received WIDTH_SWITCH moves reception to the new width from the next frame (R343). -/
  | widthSwitch (h : Nat) (m : Mgmt)
  /-- A DOWN message from the partner takes the link down with cause 0x5 (R337). -/
  | down (h : Nat)
  /-- A training attempt ends: the link comes UP, or another attempt starts, a lane fails, or the Hitch fails with
  FAB/0x002 (R336). -/
  | trainingAttemptEnd (h reached precode : Nat)
  /-- A write of 1 to HCH_PCTL.EN starts training (R335). -/
  | hitchEnable (h : Nat)
  /-- A write of 0 to HCH_PCTL.EN stops taking carriages and waits for the stored frames to be acknowledged (R339). -/
  | hitchDisable (h : Nat)
  /-- Every stored frame is acknowledged or ACK_TO passes, so DOWN is sent and the Hitch goes DISABLED (R339). -/
  | hitchDisableDrainDone (h : Nat)
  /-- A write of 1 to HCH_PCTL.RETRAIN takes a FAILED Hitch back to TRAINING (R335). -/
  | hitchRetrainRequest (h : Nat)
  /-- A write of 1 to HCH_PCTL.DECONF deconfigures the Hitch permanently with FAB/0x004 (R342). -/
  | hitchDeconfigure (h : Nat)
  /-- A scheduled retrain falls due and starts, waits for its plane, is deferred or is skipped (R343). -/
  | hitchRetrainDue (h : Nat)
  /-- Each millisecond a Hitch's corrected symbols are compared with SYMTHR, and an early retrain may start (R343). -/
  | symbolRateCheck (h : Nat)
  /-- The pair being retrained reaches the target, so traffic returns to four lanes or the other pair is retrained
  (R343). -/
  | retrainPairTrained (h : Nat)
  /-- A pair misses the target within 2 ms and is retrained once more or has its lanes failed (R344). -/
  | retrainPairTimeout (h missed : Nat)
  /-- A 100 µs deferral step of a retrain ends, and the retrain starts, defers again or is forced with FAB/0x006
  (R345). -/
  | hitchRetrainDefer (h : Nat)
  /-- A carriage received whole from a Hitch is checked and then delivered locally, relayed or discarded (R361). -/
  | carriageArrival (h : Nat)
  /-- A local endpoint presents a carriage, and the plane selector chooses its plane (R357). -/
  | carriageSubmit (e : Nat)
  /-- A waiting local carriage tries again to enter its ingress queue when q or F changes (R365). -/
  | localEntryRetry (e : Nat)
  /-- A carriage with no plane retries the plane selection after 1 µs (R360). -/
  | noRouteRetry (e : Nat)
  /-- NOROUTE_TO passes, so the carriage is given up and FAB/0x013 is recorded (R360). -/
  | norouteTimeout (e : Nat)
  /-- A Hitch that can start a carriage chooses an eligible VC queue under XOFF, the shaper, the gate and deficit
  round robin (R368). -/
  | hitchCarriageStart (h : Nat)
  /-- A write to STG_COORD sets the device's coordinate, or is discarded with FAB/0x014 while a Hitch is up (R351). -/
  | stgCoordWrite (v : Word32)
  /-- After 8 sent frames, each shaper of the Hitch adds credit and applies pending configuration writes (R375). -/
  | shaperRefill (h : Nat)
  /-- After 8 received frames, the policer buckets refill and pauses are released where Tp permits (R386). -/
  | policerRefill (h : Nat)
  /-- A write to TPK_CFG that sets SHAPE_EN or POLICE_EN fills the credits and buckets (R375). -/
  | tpkCfgWrite (v : Word32)
  /-- A write to TPK_SHAPE takes effect at the next refill of the Hitch (R376). -/
  | tpkShapeWrite (h c : Nat) (v : Word32)
  /-- A write to TPK_POLICE takes effect at the next policer refill (R388). -/
  | tpkPoliceWrite (h c : Nat) (v : Word64)
  /-- A write of TPK_TIMEADJ slews or steps fabric time, or is discarded with FAB/0x023 on a synchronised member
  (R378). -/
  | timeAdjust (v : Word64)
  /-- The reference stamps a received timestamp request and answers it (R379). -/
  | tsyncRequest (rank : Nat) (c : Carriage)
  /-- A member computes the offset from the answer, adjusts fabric time and updates LOCKED (R379). -/
  | tsyncResponse (rank : Nat) (c : Carriage)
  /-- A write of 1 to TPK_GCTL.ARM arms the inactive bank for a switch-over at GBASE, or is refused with FAB/0x020
  (R382). -/
  | gateArm (p : Nat)
  /-- A write of 1 to TPK_GCTL.CANCEL withdraws the armed switch-over (R382). -/
  | gateCancel (p : Nat)
  /-- Fabric time reaches GBASE, and the armed bank becomes active at its entry 0 (R382). -/
  | gateSwitchover (p : Nat)
  /-- A gate-list entry's DURATION ends, and the next entry's gate states apply (R381). -/
  | gateEntryAdvance (p : Nat)
  /-- A write to an armed or active bank, its length or GBASE is discarded with FAB/0x022 (R383). -/
  | gateListWrite (off : Nat) (v : Word64)
  /-- GFORM is armed: the group reserve is taken, the entry goes FORMING and JOINs are sent, or the command is
  refused (R393). -/
  | gform (src : Source) (d : Line)
  /-- GDISSOLVE kills the group's commands with ABORT cause 0x5, releases the reserve and frees the entry (R398). -/
  | gdissolve (src : Source) (d : Line)
  /-- A SHIFT collective is armed and sends SRC to the rank DIST ahead (R403). -/
  | shift (src : Source) (d : Line)
  /-- A PERMUTE collective is armed and sends by its permutation table (R403). -/
  | permute (src : Source) (d : Line)
  /-- An ALLTOALL collective is armed and runs N steps of block exchange (R403). -/
  | alltoall (src : Source) (d : Line)
  /-- An ALLREDUCE collective is armed and runs its two phases (R404). -/
  | allreduce (src : Source) (d : Line)
  /-- A queued stream-0 command is admitted when fewer than 4 are in flight in its group (R400). -/
  | collectiveAdmit (gid : Nat)
  /-- A received JOIN is answered with a JOINACK carrying MATCH, or is discarded for a group that is not held
  (R397). -/
  | join (c : Carriage)
  /-- A received JOINACK advances formation; all matching acknowledgements make the group FORMED, and a mismatch
  frees the entry (R396). -/
  | joinack (c : Carriage)
  /-- Each PROBE period, an unanswered JOIN is sent again (R397). -/
  | joinRepeat (gid rank : Nat)
  /-- FORM_TO passes without every JOINACK, so GFORM fails with FAB/0x033 (R396). -/
  | formTimeout (gid : Nat)
  /-- A received OFFER is checked by PDIGEST and answered with tickets, or is held in the reserve before the
  instance is armed (R402). -/
  | offer (c : Carriage)
  /-- Once its instance is armed, the step lies within WINDOW and landing places are held, a receiver sends TICKETs
  (R407). -/
  | ticketGrant (g step phase : Nat)
  /-- A received TICKET lets the sender send the granted chunks (R407). -/
  | ticket (c : Carriage)
  /-- A received exchange or collective chunk is matched, placed by its index, counted, or discarded as stale or
  duplicate (R407). -/
  | chunkReceive (c : Carriage)
  /-- A received COMPL counts the chunks it names, returns eager credits and may commit the collective (R407). -/
  | compl (c : Carriage)
  /-- The coalescing interval ends or 64 chunks have accumulated, so a COMPL is sent (R407). -/
  | complCoalesceFlush (g step phase : Nat)
  /-- A received MISSING makes the sender resend the listed chunks (R413). -/
  | missing (c : Carriage)
  /-- A received ABORT kills the named instance, or the whole group for cause 0x3, and records FAB/0x035 (R415). -/
  | abort (c : Carriage)
  /-- A received PROBE is answered with PROBEACK when the group is held (R414). -/
  | probe (c : Carriage)
  /-- A received PROBEACK restarts the peer's probe and failure timers and counts a slow member (R414). -/
  | probeack (c : Carriage)
  /-- Each PROBE period, the sender repeats every unanswered OFFER (R408). -/
  | offerRepeat (g : Nat)
  /-- Within 200 ns of a link down, the engine resends every uncounted chunk that it sent on that plane (R413). -/
  | linkDownRetransmit (p : Nat)
  /-- COMPL_TO passes without a chunk being counted, so it is sent again or its receiver is declared failed (R413). -/
  | chunkCompletionTimeout (g step phase chunk : Nat)
  /-- A FLOWSEQ gap persists for GAP_TO, so the receiver sends MISSING (R413). -/
  | gapTimeout (gid rank : Nat)
  /-- A peer is silent for one PROBE period while an instance waits on it, so a PROBE is sent (R414). -/
  | probeTimeout (gid rank : Nat)
  /-- A peer is silent for FAIL_TO, so it is declared failed, commands are killed and the group goes BROKEN (R414). -/
  | peerFailTimeout (gid rank : Nat)
  /-- An instance makes no progress for STALL_TO, so it is killed by ABORT cause 0x4 and re-armed once (R415). -/
  | stallTimeout (g : Nat)
  /-- An MFX command is armed and runs in line mode or gateway mode, or is refused with MEM/0x020 (R428). -/
  | mfx (src : Source) (d : Line)
  /-- A MATOMIC command is armed and sends one atomic line request (R428). -/
  | matomic (src : Source) (d : Line)
  /-- An arriving LOAD request is checked against its region or loan and answered with lines or a status (R425). -/
  | load (c : Carriage)
  /-- An arriving STORE request is checked and writes whole lines before it is answered (R425). -/
  | store (c : Carriage)
  /-- An arriving atomic is applied indivisibly and saved in the atomic table, or answered from the table or BUSY
  (R426). -/
  | atomic (c : Carriage)
  /-- An arriving bulk read makes the exporter stream the chunks back on VC4 (R429). -/
  | bulkrd (c : Carriage)
  /-- A received BULKACK counts the chunks placed (R429). -/
  | bulkack (c : Carriage)
  /-- A gateway chunk is checked and written at its place, and acknowledged in a coalesced BULKACK (R429). -/
  | bulkChunkReceive (c : Carriage)
  /-- A line response is matched by TAG and GEN and completes its request, or kills the command, or is stale (R435). -/
  | lineResponseReceive (c : Carriage)
  /-- REQ_TO passes without a response, so the request is resent with RETRY = 1, or the command is killed after
  RETRY_MAX (R435). -/
  | requestTimeout (tag : Nat)
  /-- A chunk unacknowledged for BULK_TO is sent again on another general plane (R429). -/
  | bulkChunkTimeout (coord g chunk : Nat)
  /-- An atomic-table entry's hold time ends, and the entry is released (R427). -/
  | atomEntryExpire (coord tag : Nat)
  /-- A write to a region register is held until the requests already checked are applied, and VALID is checked as
  R422 states (R424). -/
  | regionWrite (off : Nat) (v : Word64)
  /-- The requests checked against the old entry have been applied, so the new entry takes effect and BUSY clears
  (R424). -/
  | regionChangeApply (i : Nat)
  /-- A write to MMF_LOAN grants HBM units to a borrower, or is refused with MEM/0x025 (R431). -/
  | loanWrite (j : Nat) (v : Word64)
  /-- A lender's write of 0 to a loan's VALID ends the loan and starts zeroing its frames (R433). -/
  | loanEnd (j : Nat)
  /-- The loan's frames are zeroed and return to the lender's free frames (R433). -/
  | loanClearDone (j : Nat)
  /-- A write to MMF_BORROW records or ends a loan taken, or is refused with MEM/0x025 (R433). -/
  | borrowWrite (k : Nat) (v : Word64)
  /-- A write of 1 to RECHECK sends a LOAD of the loan's first line, and an OK answer clears LOST (R434). -/
  | borrowRecheck (k : Nat)
  /-- A host write of SQTAIL is checked and accepted, or discarded with a HOST error (R451). -/
  | doorbellSqtail (r v : Nat)
  /-- A host write of CQHEAD frees completion slots, releasing held records, or is discarded (R451). -/
  | doorbellCqhead (r v : Nat)
  /-- The device fetches up to FETCHMAX descriptors of one ring in round robin and arms them in ring order (R452). -/
  | ringFetch (r : Nat) (ds : List (Option Line))
  /-- A write of 1 to HST_RCFG.EN resets the ring's indices and moves it to RUN, or is discarded with HOST/0x012
  (R449). -/
  | ringEnable (r : Nat) (v : Word32)
  /-- A write of 0 to HST_RCFG.EN moves the ring to DRAIN (R455). -/
  | ringDisable (r : Nat) (v : Word32)
  /-- A write of a ring's base or size while the ring is not IDLE is discarded with HOST/0x012 (R449). -/
  | ringConfigWrite (off : Nat) (v : Word64)
  /-- The upstream link comes back up, and the held records are written in order (R457). -/
  | upstreamLinkUp (speed width : Nat)
  /-- A host configuration request is completed normally, or with Configuration Request Retry Status before READY
  (R532). -/
  | configRequest (q : CfgReq)
  /-- The host commits the HDM decoder, and HST_HDMBASE mirrors HDM_BASE (R444). -/
  | hdmDecoderCommit (base : Word64)
  /-- A host read through HDM is translated and returns its line, or poisoned data on a fault or poison (R445). -/
  | hostHdmRead (hpa : Nat) (own : Bool)
  /-- A host write through HDM is translated and applied, or is discarded as a fault (R445). -/
  | hostHdmWrite (hpa : Nat) (data : List Byte)
  /-- The host answers a back-invalidation snoop, and the waiting device access proceeds (R446). -/
  | bisnpResponse (line : Nat) (data : Option Line)
  /-- A host-to-device snoop is answered RspIHitI (R440). -/
  | h2dSnoop (hpa : Nat)
  /-- A write of 1 to HST_DSCTL.EN lets the downstream port train once HBM3E is zeroed (R447). -/
  | dsPortEnable (q : Nat)
  /-- A host write of 0 to HST_DSCTL.EN disables the port as JUNIT action 0x04 with FAILMOVES = 1 (R501). -/
  | dsPortDisableWrite (q : Nat)
  /-- The downstream link comes up, and the device enumerates and maps its Type 3 devices (R448). -/
  | dsPortLinkUp (q : Nat) (devs : List DsDevice)
  /-- SLOOP starts the serving loop, or is refused with HOST/0x020 (R459). -/
  | sloop (src : Source) (d : Line)
  /-- SSTOP ends the loop after the frame in progress (R472). -/
  | sstop (src : Source) (d : Line)
  /-- A write to HST_SESSBASE or HST_SESSCFG while the loop runs is discarded with HOST/0x012 (R459). -/
  | sessionConfigWrite (off : Nat) (v : Word64)
  /-- JADMIT admits one launch of JOBID on an IDLE device (R478). -/
  | jadmit (src : Source) (d : Line)
  /-- JLAUNCH starts round 1 of a launch or resize from the root, or is refused (R479). -/
  | jlaunch (src : Source) (d : Line)
  /-- JORDER with ORDER PREEMPT requests job-wide pre-emption through the root (R492). -/
  | jorderPreempt (src : Source) (d : Line)
  /-- JORDER with ORDER RESUME requests a job-wide resume through the root (R494). -/
  | jorderResume (src : Source) (d : Line)
  /-- JORDER with ORDER END requests the job-wide end, with an optional CXL wipe (R495). -/
  | jorderEnd (src : Source) (d : Line)
  /-- JUNIT action 0x01 deconfigures a Coach, re-queues its work and power-gates it (R499). -/
  | junitDeconfigureCoach (src : Source) (d : Line)
  /-- JUNIT action 0x02 parks a Postilion and moves its shares to other Postilions (R500). -/
  | junitParkPostilion (src : Source) (d : Line)
  /-- JUNIT action 0x03 unparks a Postilion and sets its POSTMAP bit (R500). -/
  | junitUnparkPostilion (src : Source) (d : Line)
  /-- JUNIT action 0x04 disables a downstream port after draining or cancelling moves, leaving its pages UNREACHABLE
  (R501). -/
  | junitDisablePort (src : Source) (d : Line)
  /-- JUNIT action 0x05 enables a downstream port and maps it again (R501). -/
  | junitEnablePort (src : Source) (d : Line)
  /-- DRAIN_TO passes, so moves that have not switched are cancelled and the port goes down (R501). -/
  | portDrainTimeout (q : Nat)
  /-- A received manifest is accepted and forwarded down the tree, or refused with JOB/0x004 (R483). -/
  | manifest (c : Carriage)
  /-- A received ARM is forwarded to the node's children and starts the node's ARMACK wait (R480). -/
  | arm (c : Carriage)
  /-- A received ARMACK is gathered, and the node answers its parent when every child has answered (R483). -/
  | armack (c : Carriage)
  /-- A received GO whose LSEQ and LISTCRC match is forwarded and acknowledged, and the node waits for T_GO (R485). -/
  | go (c : Carriage)
  /-- A received LABORT is forwarded, and the node returns to IDLE (R484). -/
  | labort (c : Carriage)
  /-- An unanswered launch or order message is repeated after 100 µs (R481). -/
  | launchMessageResend (node type : Nat)
  /-- A child does not acknowledge GO or ORDER within ARM_STEP, and its parent records JOB/0x008 (R485). -/
  | childAckTimeout (node type : Nat)
  /-- The root receives an order request, assigns ORDSEQ, applies the order and sends ORDER down the tree, or holds
  it during a resize (R489). -/
  | ordreq (c : Carriage)
  /-- A received ORDER with a higher ORDSEQ is applied, forwarded and acknowledged (R490). -/
  | order (c : Carriage)
  /-- A received acknowledgement of GO, LABORT, ORDREQ or ORDER ends the repeat of that message (R489). -/
  | ack (c : Carriage)
  /-- A wake source reaches a gated domain, which becomes active within the latency of Table 17-2 (R511). -/
  | domainWake (dm : Domain)
  /-- A clock-gated domain idle for PGIDLE µs is power-gated (R510). -/
  | powerGateIdle (dm : Domain)
  /-- A new 40 ns or 500 ns wake window opens, and deferred wakes are served in order (R513). -/
  | wakeWindow (cluster : Bool)
  /-- Every 1 µs the fast loop compares estimated power with PL_FAST and lowers or raises the duty d (R519). -/
  | fastLoopTick (est pred : Nat)
  /-- Every 100 µs the slow loop compares average power with PL_SUST and temperature with its target, and changes
  array steps (R520). -/
  | slowLoopTick (arr : Nat) (others : Nat × Nat)
  /-- The rail reports settled and the PLL relocks, so the cluster runs at its new array step (R515). -/
  | stepChangeSettled (c : Nat)
  /-- Every 10 µs each VID rail's voltage and current are read and integrated into the energy meter (R516). -/
  | railTelemetryRead (i mv ma : Nat)
  /-- Every 10 µs the Guard samples the IMON inputs for board telemetry (R579). -/
  | imonSample (x mv : Nat)
  /-- A rail unanswered for 1 ms sets TELELOST, and the on-die estimate is used (R517). -/
  | telemetryTimeout (i : Nat)
  /-- A voltage write unacknowledged after three tries is a regulator fault, and the device trips (R517). -/
  | vidWriteFail (i : Nat)
  /-- Every 10 µs the on-die sensors are read, Tj is formed and the thermal rules act (R523). -/
  | sensorRead (ts : List Int)
  /-- Every 1 ms each HBM3E stack's sensor is read, and refresh or command-rate limits apply (R524). -/
  | hbmSensorRead (s : Nat) (t : Int)
  /-- Every 10 s each sensor is checked, and a failing sensor is excluded with GUARD/0x033 (R523). -/
  | sensorCalibrationCheck (s : Nat) (good : Bool)
  /-- A main rail stays out of tolerance for 1 µs after reset release, and the device trips with cause 0x3 (R578). -/
  | railOutOfRange (rail : Nat)
  /-- The standby supply rises into range, and a power-on reset starts (R528). -/
  | standbyPowerUp (aoclk : Bool)
  /-- RESET_N or PERST_N is asserted, and a cold reset begins (R528). -/
  | coldResetPin (perst : Bool)
  /-- Cold or power-on reset is released, so the straps are sampled and the start-up timeline begins (R531). -/
  | resetRelease (st : Straps)
  /-- The image checks complete, and boot proceeds or enters RECOVERY with the first failing check's error (R536). -/
  | imageVerifyDone (readFail : Option Nat)
  /-- The Guard's wipe engine finishes zeroing the CXL tier and clears the pending lifecycle record (R546). -/
  | lifecycleCxlWipeDone (bad : List Nat)
  /-- The signed Guard command writes the power limits and the thermal target (R543). -/
  | setLimits (q : GReq)
  /-- The signed Guard command moves the lifecycle state forward with wipes and a cold reset (R545). -/
  | lifecycle (q : GReq)
  /-- The signed Guard command advances FUSE_SVN (R537). -/
  | svnCommit (q : GReq)
  /-- The signed Guard command erases the image area of the flash (R538). -/
  | imageBegin (q : GReq)
  /-- The Guard command writes 4,096 bytes at the next image offset (R538). -/
  | imageBlock (q : GReq)
  /-- The Guard command verifies the new image and answers with the first failing check (R538). -/
  | imageEnd (q : GReq) (readFail : Option Nat)
  /-- The signed Guard command removes entries of the named kinds at the next power-on or cold reset (R547). -/
  | fenceClear (q : GReq)
  /-- The signed Guard command grants Harness rights bound to a job, and records GUARD/0x041 (R566). -/
  | debugUnlock (q : GReq)
  /-- The signed Guard command performs a cold reset 1 ms after its response (R543). -/
  | coldReset (q : GReq)
  /-- The Guard command returns the meters and GRD_JOBID under identity signatures (R543). -/
  | readMeters (q : GReq)
  /-- The Guard command returns the meter log in ascending SEQ under identity signatures (R548). -/
  | readMeterlog (q : GReq)
  /-- The Guard command returns the fence record under identity signatures (R543). -/
  | readFence (q : GReq)
  /-- The SPDM request selects RSASSA-PSS-3072 and SHA-384 (R549). -/
  | negotiateAlgorithms (asym hash : Nat)
  /-- The SPDM request returns the identity certificate chain of a slot (R549). -/
  | getCertificate (slot off len : Nat)
  /-- The SPDM request is answered with a signed challenge response (R549). -/
  | challenge (slot : Nat) (nonce : List Byte)
  /-- The SPDM request returns the measurement blocks, signed where requested (R549). -/
  | getMeasurements (idx : Nat) (sign : Bool) (nonce : List Byte)
  /-- A write to ERR_HEAD frees the log slots that have been read (R557). -/
  | errHeadWrite (v : Word32)
  /-- The Harness STATUS operation returns the target state and the rights (R566). -/
  | harnessStatus (q : HReq)
  /-- The Harness HALT operation halts a core, or a sequencer once its commands have committed or been killed
  (R567). -/
  | harnessHalt (q : HReq)
  /-- The Harness RESUME operation lets the target run again (R567). -/
  | harnessResume (q : HReq)
  /-- The Harness STEP operation executes one instruction or arms one entry and halts again (R568). -/
  | harnessStep (q : HReq)
  /-- The Harness BPSET operation sets a breakpoint slot (R567). -/
  | harnessBpset (q : HReq)
  /-- The Harness BPCLR operation clears a breakpoint slot (R567). -/
  | harnessBpclr (q : HReq)
  /-- The Harness RDREG operation reads a register of a halted target (R566). -/
  | harnessRdreg (q : HReq)
  /-- The Harness WRREG operation writes a register of a core (R566). -/
  | harnessWrreg (q : HReq)
  /-- The Harness RDMEM operation reads 8 bytes at a job address or a Coach-store offset (R569). -/
  | harnessRdmem (q : HReq)
  /-- The Harness WRMEM operation writes 8 bytes at a job address or a Coach-store offset (R569). -/
  | harnessWrmem (q : HReq)
  /-- The halting sequencer's armed commands have committed or been killed, so the halt completes (R567). -/
  | sequencerHaltComplete (n : Nat)
  /-- A core or sequencer reaches a breakpoint address and halts (R567). -/
  | breakpointHit (target : Nat)
  /-- The link of an enabled downstream CXL port goes down, and every page homed on that port becomes UNREACHABLE
  while moves to or from it are cancelled (R279). -/
  | dsPortLinkDown (q : Nat)
  /-- A read of an error-gating counter (STG_CNT_CRC and kin, HCH_CNT_OVERRUN, TPK_CNT_RED, COL_CNT_LEVEL,
  HST_CNT_HDMFAULT, DBG_CNT_LOCKED) re-arms the once-only error record that goes with it (R361). -/
  | counterRead (ag : Agent) (off width : Nat)
  /-- The 1 µs coalescing interval of gateway chunks ends, and the receiver sends the pending BULKACK (R429). -/
  | bulkackCoalesceFlush (coord gen : Nat)
  /-- A write of 1 to WYB_UPDGO.GO starts the replacement of Waybill entry INDEX (R92). -/
  | waybillUpdate
  /-- The Waybill entry is replaced whole, or the update is refused with ROUTE/0x012, and GO reads 0 (R92). -/
  | waybillUpdateDone
  /-- A write of 1 to PST_CQHWM.CLR sets the conflict-queue high-water mark to 0 (R127). -/
  | cqhwmClear
  /-- The page-table operation completes: the entry is replaced with cached translations invalidated, or the write
  is refused with MEM/0x007, and GO reads 0 (R276). -/
  | ptUpdateDone
  /-- Every AGEPER x 10 µs the ager updates AGE and ACC of every HBM-homed page (R284). -/
  | agerSweep
  /-- A write of 1 to DRY_TTCTL.START starts the Timetable at entry 0 of lap 0, or refuses with MEM/0x00C (R289). -/
  | timetableStart
  /-- A write of 1 to DRY_TTCTL.STOP starts no further Timetable move (R290). -/
  | timetableStop
  /-- An entry's trigger counter reaches its lap target with fewer than AHEAD entries unsettled, so its moves start
  (R289). -/
  | timetableEntryTrigger
  /-- The retraining slot ends, and controller s resumes oldest request first (R297). -/
  | retrainSlotEnd
  /-- Once per cycle the Livery serves the head request that may take a barrow, giving it the lowest free barrow
  (R312). -/
  | liveryAllocServe
  /-- A write of 1 to LVY_CTL.EN checks the window, frees every barrow and begins serving, or leaves EN at 0 with
  MEM/0x013 (R305). -/
  | liveryEnable
  /-- A write of 0 to LVY_CTL.EN stops allocation while keeping the records and the queues (R305). -/
  | liveryDisable
  /-- A dry spell outlasts DRYLIM, and MEM/0x012 is recorded once (R316). -/
  | liveryDryLimit
  /-- A write of 1 to LVY_ALLOC.GO allocates a barrow for the host, or reports EMPTY (R320). -/
  | hostBarrowAlloc
  /-- A write of 1 to LVY_LOWWM.CLR sets LOW to FREE (R321). -/
  | lowwmClear
  /-- Both signatures and every image check pass, so the firmware starts and the Hitches move from HOLD to DISABLED
  (R536). -/
  | firmwareVerified
  /-- Every 100 ns each plane's backlog is sampled, and its saturation mark is set or cleared (R369). -/
  | planeSaturationSample
  /-- A new HEADROOM or STATLIM is applied once no Hitch is training or up (R363). -/
  | stgReserveApply
  /-- A write of 1 to STG_BUFLOW.CLR sets LOW to FREE (R371). -/
  | buflowClear
  /-- Every PERIOD ms a member sends a timestamp request to the reference (R379). -/
  | tsyncExchange
  /-- The upstream link goes down, and fetches and record writes wait (R457). -/
  | upstreamLinkDown
  /-- The idle loop polls the frame queue every POLL interval, and takes a frame, runs an empty step, or ends on
  overrun (R464). -/
  | frameQueuePoll
  /-- The loop checks a frame's slices, writes the row table and arms the step program (R464). -/
  | loopFrameStart
  /-- With no frame and a waiting OFFER of its group, the loop runs the step program with ROWS = 0 (R466). -/
  | loopEmptyStep
  /-- Every step-program command has completed, so the loop samples and updates the sessions or fails the frame,
  closes sessions and ends the frame (R464). -/
  | loopStepComplete
  /-- A node's ARMACK wait ends; the root then sends GO, starts the next round, or aborts the launch (R484). -/
  | armWaitExpire
  /-- Fabric time reaches T_GO, so the node enters RUNNING, the meters start and the root's JLAUNCH commits (R486). -/
  | tGoReached
  /-- ADMIT_TO passes without a MANIFEST, and the admission lapses (R478). -/
  | admitTimeout
  /-- A node in MANIFEST or ARMED gets no GO within its hold, so it returns to IDLE with JOB/0x007 (R487). -/
  | launchHoldExpire
  /-- The root does not acknowledge within 2 x D x ARM_STEP, so JORDER fails with JOB/0x00F (R489). -/
  | ordreqTimeout
  /-- The between-job scrub completes, the meters are sealed and the device becomes IDLE (R497). -/
  | scrubComplete
  /-- THROTTLE_N is asserted, and d is forced to 1 (R521). -/
  | throttleAssert
  /-- THROTTLE_N is released, and the fast loop resumes control of d (R521). -/
  | throttleDeassert
  /-- Within 2 µs of a trip every domain except the Guard and wake domains is power-gated (R525). -/
  | tripDomainsGated
  /-- Within 50 µs of a trip, VID writes of 0 V turn the core rails off (R525). -/
  | tripRailsOff
  /-- A hot reset, secondary bus reset or link disable on the upstream port runs a warm reset (R528). -/
  | warmReset
  /-- A function-level reset applies END without the CXL wipe and returns every ring to IDLE (R530). -/
  | functionLevelReset
  /-- The on-chip SRAM has been zeroed during start-up (R531). -/
  | sramZeroDone
  /-- HBM3E is trained, and its zeroing begins (R531). -/
  | hbmTrainingDone
  /-- HBM3E is zeroed, so enabled downstream ports may leave reset and a pending CXL wipe may start (R531). -/
  | hbmZeroDone
  /-- The device reaches READY, and configuration requests complete normally (R531). -/
  | bootReady
  /-- The SPDM request is answered with the supported version (R549). -/
  | getVersion
  /-- The SPDM request is answered with the advertised capabilities (R549). -/
  | getCapabilities
  /-- The SPDM request returns the certificate chain digests (R549). -/
  | getDigests
  /-- Ziholt's vendor-defined SPDM request returns the SLH-DSA signature over the last signed transcript (R549). -/
  | slhSignatureRequest
  /-- HSEL_N rises before a request is complete, and the request is discarded (R564). -/
  | harnessDeselect
  /-- An operation is not done within 10 µs, and it is answered TIMEOUT (R565). -/
  | harnessTimeout
  /-- One ms after the response to a COLD_RESET Guard command, the device performs the cold reset (R543). -/
  | coldResetDelayExpire
  /-- The standby supply leaves its range at power-down, and the device, Guard included, stops and leaves every
  interface undriven (R577). -/
  | standbyPowerLoss
deriving DecidableEq, Repr

end Sys2Proof
end

