-- ==== Sys2Proof/Machine/Bits.lean ====
section
/-! DEFINITION. Bit fields, byte order, CRC-32C and sparse tables: the helpers that every family of commands uses. -/
namespace Sys2Proof.Machine

/-- Bits `lo + w - 1 : lo` of `x` (R9). -/
def bits (x lo w : Nat) : Nat := x / 2 ^ lo % 2 ^ w

/-- Bit `i` of `x`. -/
def bit (x i : Nat) : Bool := x.testBit i

/-- `x` with bits `lo + w - 1 : lo` replaced by the low `w` bits of `v`. -/
def setBits (x lo w v : Nat) : Nat := x - bits x lo w * 2 ^ lo + v % 2 ^ w * 2 ^ lo

/-- `x` with bit `i` set to `b`. -/
def setBit (x i : Nat) (b : Bool) : Nat := setBits x i 1 b.toNat

/-- The positions below `n` whose bit is set in `x`, ascending. -/
def bitsSet (n x : Nat) : List Nat := (List.range n).filter fun i => x.testBit i

/-- A number from its `w`-bit two's complement. -/
def toSigned (w x : Nat) : Int := if x % 2 ^ w < 2 ^ (w - 1) then (x % 2 ^ w : Nat) else ((x % 2 ^ w : Nat) : Int) - 2 ^ w

/-- The `w`-bit two's complement of a number. -/
def ofSigned (w : Nat) (x : Int) : Nat := (x % (2 ^ w : Int)).toNat

/-- `x` rounded up to a multiple of `m`. -/
def roundUp (x m : Nat) : Nat := (x + (m - 1)) / m * m

/-- Ceiling division. -/
def ceilDiv (x m : Nat) : Nat := (x + (m - 1)) / m

/-- The `n` bytes of `x`, least significant first (R10). -/
def leBytes : Nat → Nat → List Byte
  | 0, _ => []
  | n + 1, x => BitVec.ofNat 8 x :: leBytes n (x / 256)

/-- The number that bytes spell, least significant first (R10). -/
def leNat : List Byte → Nat
  | [] => 0
  | b :: bs => b.toNat + 256 * leNat bs

/-- Bits `lo + w - 1 : lo` of the field that begins at byte `n` of a 64-byte line (R10). -/
def lfield (d : Line) (n lo w : Nat) : Nat := bits d.toNat (8 * n + lo) w

/-- `k` bytes from byte `n` of a line, as a number. -/
def lnum (d : Line) (n k : Nat) : Nat := bits d.toNat (8 * n) (8 * k)

/-- Whether bytes `a` to `b` of a line are all zero. -/
def lzeros (d : Line) (a b : Nat) : Bool := lnum d a (b + 1 - a) == 0

/-- One step of the reflected CRC-32C (polynomial 0x82F63B78 in reflected form, R63). -/
def crcBit (c : Nat) : Nat := if c.testBit 0 then (c / 2) ^^^ 0x82F63B78 else c / 2

/-- One byte into the CRC-32C register. -/
def crcByte (c : Nat) (b : Byte) : Nat :=
  crcBit (crcBit (crcBit (crcBit (crcBit (crcBit (crcBit (crcBit (c ^^^ b.toNat))))))))

/-- CRC-32C of a run of bytes (R63). -/
def crc32c (bs : List Byte) : Nat := (bs.foldl crcByte 0xFFFFFFFF) ^^^ 0xFFFFFFFF

/-! A sparse table is a list of (key, value) pairs in one canonical form: keys strictly rising, and no value equal to
what a key that is not listed reads as. -/
section
variable {α : Type} [DecidableEq α]

/-- What key `k` reads as, where a key that is not listed reads as `d k`. -/
def Sparse.get (d : Nat → α) : List (Nat × α) → Nat → α
  | [], k => d k
  | (j, v) :: m, k => if k = j then v else Sparse.get d m k

/-- The table without key `k`. -/
def Sparse.erase : List (Nat × α) → Nat → List (Nat × α)
  | [], _ => []
  | (j, v) :: m, k => if k = j then Sparse.erase m k else (j, v) :: Sparse.erase m k

/-- The table with `v` listed at key `k`, which it does not list yet. -/
def Sparse.insert : List (Nat × α) → Nat → α → List (Nat × α)
  | [], k, v => [(k, v)]
  | (j, w) :: m, k, v => if k < j then (k, v) :: (j, w) :: m else (j, w) :: Sparse.insert m k v

/-- The table that reads `v` at key `k`: the entry is removed where `v` is what an unlisted key reads as. -/
def Sparse.put (d : Nat → α) (m : List (Nat × α)) (k : Nat) (v : α) : List (Nat × α) :=
  if v = d k then Sparse.erase m k else Sparse.insert (Sparse.erase m k) k v

/-- The canonical form, above a bound on the first key. -/
def Sparse.wfFrom (d : Nat → α) : Nat → List (Nat × α) → Bool
  | _, [] => true
  | lo, (j, v) :: m => decide (lo ≤ j) && decide (v ≠ d j) && Sparse.wfFrom d (j + 1) m

/-- The canonical form of a sparse table. -/
def Sparse.wf (d : Nat → α) (m : List (Nat × α)) : Bool := Sparse.wfFrom d 0 m

end

/-- The first element that satisfies `p` replaced by `f` of it. -/
def updFirst {α : Type} (p : α → Bool) (f : α → α) : List α → List α
  | [] => []
  | x :: xs => if p x then f x :: xs else x :: updFirst p f xs

/-- The element at `i`, or `d`. -/
def nth {α : Type} (xs : List α) (i : Nat) (d : α) : α := xs.getD i d

/-- The greatest `y` with `y ^ e ≤ v`, found bit by bit from `x` with `k` bits to go. -/
def floorRoot (e v : Nat) : Nat → Nat → Nat
  | 0, x => x
  | k + 1, x => floorRoot e v k (if (x + 2 ^ k) ^ e ≤ v then x + 2 ^ k else x)

end Sys2Proof.Machine
end

