-- ==== Sys2Proof/Machine/Units.lean ====
section
/-! DEFINITION. What the units of the device hold besides their registers and memory: plain records, one per unit or per
thing a unit keeps. State.lean puts them together. -/
namespace Sys2Proof.Machine

/-! ### Errors (Tables 19-1 and 19-2) -/

/-- An error record (Table 19-1) without its CRC, which R554 computes from the rest. -/
structure ErrRec where
  code   : Nat
  cls    : Nat
  detail : Nat
  gen    : Nat
  block  : Nat
  inst   : Nat
  psafe  : Bool
  genv   : Bool
  time   : Nat
  seq    : Nat
deriving DecidableEq, Repr

/-- The error log: slots by index, the next SEQ, and the power-safe records oldest first (R557, R560, R561). -/
structure ErrLog where
  slots  : List (Nat × Option ErrRec)
  seq    : Nat
  psafe  : List ErrRec
deriving DecidableEq, Repr

/-! ### What leaves the device -/

/-- A transmitted link frame (Table 10-1). -/
structure TxFrame where
  seq    : Nat
  ackseq : Nat
  xoff   : Nat
  type   : FrameType
  nflit  : Nat
  flits  : List Line
deriving DecidableEq, Repr

/-- A link frame as it leaves the receiver's decoder (R325): `good` is false where a codeword could not be corrected; `cwCorr` and
`symCorr` are the codewords and symbols that were. -/
structure RxFrame where
  good    : Bool
  seq     : Nat
  ackseq  : Nat
  xoff    : Nat
  type    : FrameType
  nflit   : Nat
  flits   : List Line
  cwCorr  : Nat
  symCorr : Nat
deriving DecidableEq, Repr

/-- What the device sends or drives, in the order in which it does so. -/
inductive Out where
  /-- a D2H write of the upstream port: completion records and counters in host memory (R453) -/
  | hostWrite (addr : Nat) (bs : List Byte)
  /-- a link frame sent on Hitch h: the symbols of each active lane, ascending (R325) -/
  | frame (h : Nat) (lanes : List (List Nat))
  /-- a barrow given to a requester (R309) -/
  | barrow (owner ptr gen : Nat)
  /-- a back-invalidation snoop of a line of host-visible memory (R446) -/
  | bisnp (line : Nat)
  /-- data returned to a host HDM read, and whether it is poisoned (R445) -/
  | hdm (hpa : Nat) (bs : List Byte) (poison : Bool)
  /-- the answer to a host-to-device snoop (R440) -/
  | rspIHitI (hpa : Nat)
  /-- a configuration request completed, with Configuration Request Retry Status or normally (R531) -/
  | config (retry : Bool)
  /-- the value of a configuration read (R441), and whether the capability list holds a capability -/
  | cfgValue (v : Nat)
  | cfgCap (id : Nat) (present : Bool)
  /-- the CDAT of the HDM range: its first device address and its length (R440) -/
  | cdat (dpa len : Nat)
  /-- an I3C transaction not acknowledged (R532) -/
  | i3cNack
  /-- a register read that returned a value (R14) -/
  | readData (off : Nat) (v : Word64)
  /-- a Guard response: the 64-byte header, the data that follow, and the bytes that both identity signatures cover where they
  follow (R543) -/
  | guard (resp data : List Byte) (signed : Option (List Byte))
  /-- an SPDM response: code, content, and the transcript that the RSA identity key signs, where it signs one (R549) -/
  | spdm (code : Nat) (bs : List Byte) (signed : Option (List Byte))
  /-- the SLH-DSA signature over a transcript (R549) -/
  | slh (transcript : List Byte)
  /-- a Harness response: STATUS and DATA (Table 19-5) -/
  | harness (status : Nat) (data : Word64)
  /-- an AVSBus voltage write in mV (R514) -/
  | vid (rail mv : Nat)
  /-- an output pin driven: THERMTRIP_N and DS_PERST_N(q) low or high -/
  | thermtrip (low : Bool)
  | dsPerst (q : Nat) (low : Bool)
  | dsRefclk (q : Nat) (on : Bool)
deriving DecidableEq, Repr

/-! ### The Livery (R304 to R320) -/

/-- The record of a barrow that is not free. -/
structure Barrow where
  owner   : Nat
  holders : Nat
  pend    : Bool
  gen     : Nat
deriving DecidableEq, Repr

/-- A request that waits in a queue, and whether it waited. -/
structure AllocReq where
  owner  : Nat
  gen    : Nat
  waited : Bool
deriving DecidableEq, Repr

structure Livery where
  barrows : List (Nat × Option Barrow)
  retq    : List AllocReq
  norq    : List AllocReq
  dryRec  : Bool
  /-- LVY_WIN as it stood when EN was last set (R305) -/
  win     : Nat
deriving DecidableEq, Repr

/-! ### The Hitches (R323 to R347) -/

/-- Where a retrain of a Hitch stands (Table 10-7): the pair being retrained, whether its second try runs, and whether the
retrain is quiet. -/
inductive Retrain where
  | none
  /-- WIDTH_REQ sent with PAIRS `pairs`, to retrain `pair` after it -/
  | asking (pairs pair : Nat)
  /-- `pair` retrains while the other carries traffic; `again` on its second try -/
  | pair (pair : Nat) (again : Bool)
  /-- pair `pair` is back: the return to four lanes is asked for -/
  | restoring (pair : Nat)
  /-- a narrowed Hitch: waiting for the stored frames, then retraining its pair -/
  | quiet (again : Bool)
deriving DecidableEq, Repr

/-- A carriage in the Staging buffer: the ingress queue (endpoint, VC) whose reserve it fills and whether that is its
headroom, its sel of R357, the plane and VC of the queue in which it waits (no plane: R360), and for a relay the plane on
which it arrived. `via` where its plane is a relayed one. -/
structure Staged where
  car   : Carriage
  ep    : Nat
  vc    : Nat
  head  : Bool
  sel   : Nat
  plane : Option Nat
  evc   : Nat
  arr   : Option Nat
  via   : Bool
deriving DecidableEq, Repr

/-- A carriage that the Hitch has taken: as it lay in the buffer, the flits not yet framed, and whether framing has begun. -/
structure TxCar where
  x     : Staged
  flits : List Line
  begun : Bool
deriving DecidableEq, Repr

/-- A data frame kept for replay (R328). -/
structure Stored where
  seq   : Nat
  flits : List Line
deriving DecidableEq, Repr

structure Hitch where
  rxExp    : Nat
  rxLast   : Nat
  rxBad    : Bool
  retries  : Nat
  wantRetry : Bool
  xoffIn   : Nat
  rxPart   : List Line
  rxDone   : List Carriage
  txSeq    : Nat
  stored   : List Stored
  replay   : List Stored
  txCars   : List TxCar
  mgmtOut  : List (Nat × Mgmt)
  mgmtWait : Option (Nat × Mgmt)
  drain    : Bool
  partner  : Option Mgmt
  trains   : Nat
  reachAnd : Nat
  missAnd  : Nat
  retrain  : Retrain
  due      : Bool
  /-- its own retrain was withdrawn for the partner's request, and starts again when it is next UP at four lanes (R347) -/
  yielded  : Bool
  deferred : Nat
  symMs    : Nat
  headroom : List (Nat × Nat)
  ovrRec   : Nat
  /-- the pairs on which it receives, while they are not those on which it transmits; 0 otherwise (R343) -/
  rxPairs  : Nat
deriving DecidableEq, Repr

def Hitch.zero : Hitch :=
  { rxExp := 0, rxLast := 0, rxBad := false, retries := 0, wantRetry := false, xoffIn := 0, rxPart := [], rxDone := [],
    txSeq := 0, stored := [], replay := [], txCars := [], mgmtOut := [], mgmtWait := none, drain := false, partner := none,
    trains := 0, reachAnd := 3, missAnd := 15, retrain := .none, due := false, yielded := false, deferred := 0, symMs := 0, headroom := [],
    ovrRec := 0, rxPairs := 0 }

/-! ### The Staging switch (R351 to R370) -/

/-- A carriage of a local endpoint that has not entered the buffer: it waits for space, or for a plane (R360, R365). -/
structure Waiting where
  car     : Carriage
  ep      : Nat
  excl    : Option Nat
  noRoute : Bool
deriving DecidableEq, Repr

/-- A carriage that an endpoint has formed and not yet presented: for a repeated chunk, the plane to leave out (R413). -/
structure Formed where
  ep   : Nat
  car  : Carriage
  excl : Option Nat
deriving DecidableEq, Repr

structure Staging where
  /-- carriages that endpoints have formed and not yet presented, oldest first -/
  outbox  : List Formed
  /-- carriages delivered to local endpoints and not yet handled, oldest first -/
  inbox   : List (Nat × Carriage)
  queue   : List Staged
  waiting : List Waiting
  /-- signed plane counters acc of R357, by 8 sel + plane -/
  acc     : List (Nat × Int)
  /-- deficits of R368, by 8 plane + VC, and the VC whose turn it is on each plane -/
  deficit : List (Nat × Int)
  turn    : List (Nat × Nat)
  /-- HEADROOM, VC6LIM and VC7LIM in force (R363) -/
  headKiB : Nat
  vc6Lim  : Nat
  vc7Lim  : Nat
  /-- endpoints that have recorded FAB/0x010, 0x011, 0x012 and 0x013 since the counter was read -/
  onceCrc : List Nat
  onceMal : List Nat
  onceMis : List Nat
  onceNor : List Nat
deriving DecidableEq, Repr

/-! ### The Turnpike (R373 to R388) -/

structure Turnpike where
  /-- TPK_SHAPE and TPK_POLICE values in effect where a later write waits for a refill (R376, R388), by 8 h + c -/
  shape  : List (Nat × Option Nat)
  police : List (Nat × Option Nat)
  /-- committed and peak buckets Tc and Tp, by 8 h + c -/
  tc     : List (Nat × Nat)
  tp     : List (Nat × Nat)
  /-- pairs 8 h + c that have recorded FAB/0x024 since TPK_CNT_RED(h) was read -/
  onceRed : List Nat
  /-- pauses: pair 8 h + c and the VC held off -/
  paused : List (Nat × Nat)
  /-- frames sent and received toward the next refill of each Hitch: 1 to 8, and 8 once the eighth has brought it (R374) -/
  txFrames : List (Nat × Nat)
  rxFrames : List (Nat × Nat)
  /-- head carriages already counted in TPK_CNT_GUARDHOLD, by 8 h + VC -/
  held   : List Nat
  /-- fabric time: nanoseconds still to slew, and the phase of the slew -/
  slew   : Int
  slewPh : Nat
  /-- fabric-time refinement: t1 of the request sent, good exchanges in a row, unanswered exchanges in a row -/
  t1     : Option Word64
  good   : Nat
  missed : Nat
  /-- fabric time at which entry 0 of each plane's running bank began -/
  base   : List (Nat × Option Nat)
deriving DecidableEq, Repr

/-! ### The collective engine (R391 to R417) -/

/-- A chunk that a sender has sent: its index, the plane it left on, how often it was sent again, whether it was counted,
and whether it used an eager credit. -/
structure SentChunk where
  chunk   : Nat
  plane   : Option Nat
  retx    : Nat
  counted : Bool
  eager   : Bool
  /-- when it was last sent, in ns (R413) -/
  sentAt  : Nat
deriving DecidableEq, Repr

/-- Where the bytes of a send step come from: a job address, the carriage slots of a segment of a send area (R101), or a run
of bytes that the engine holds. -/
inductive ChunkSrc where
  | mem (addr : Nat)
  | slots (addr : Nat)
  | bytes (bs : List Byte)
deriving DecidableEq, Repr

/-- A step's stream to one peer (R403): `answered` where a TICKET has come since the OFFER was last sent. -/
structure SendStep where
  step    : Nat
  phase   : Nat
  peer    : Nat
  src     : ChunkSrc
  len     : Nat
  begun   : Bool
  answered : Bool
  grants  : List Nat
  sent    : List SentChunk
  /-- a return exchange: the barrow in which the packer holds each chunk (R117) -/
  places  : List (Nat × Nat)
deriving DecidableEq, Repr

/-- Where the chunks of a receive step land: a region at a job address, or barrows. -/
inductive ChunkDst where
  | mem (addr : Nat)
  | barrows
  /-- thrown away as they come: the contributions to a routing pass that was refused here (R64) -/
  | drop
deriving DecidableEq, Repr

/-- A step's stream from one peer: the chunk count and GEN of its OFFER, the chunks granted, the barrow of each chunk that
lands in one, the chunks placed (in order of arrival), those that the next COMPL reports, and the payload bytes of the last chunk. -/
structure RecvStep where
  step    : Nat
  phase   : Nat
  peer    : Nat
  dst     : ChunkDst
  len     : Nat
  offer   : Option (Nat × Nat)
  grants  : List Nat
  places  : List (Nat × Nat)
  placed  : List Nat
  report  : List Nat
  tail    : Nat
  /-- an exchange: the Postilion port through which each chunk's payload moved into its barrow (Table 11-2) -/
  ports   : List (Nat × Nat)
deriving DecidableEq, Repr

/-- The transfers of one GROUP-class command on this member. -/
structure Xfer where
  gid     : Nat
  stream  : Nat
  xid     : Nat
  ord     : Nat
  window  : Nat
  pdigest : Nat
  tc      : Nat
  /-- an exchange: the Postilions of its POSTMASK, ascending -/
  posts   : List Nat
  sends   : List SendStep
  recvs   : List RecvStep
  stalls  : Nat
  active  : Bool
  /-- contributions to an ALLREDUCE with ORDER = 1, peer and chunk, in order of arrival (R405) -/
  arrived : List (Nat × Nat)
deriving DecidableEq, Repr

/-- A receive step of a command that has committed: its stream, XID, ordinal, generation, step, phase and peer, the GEN of
its OFFER, and its chunk count. Its tickets have not lapsed, so that a chunk that arrives again is reported again (R409). -/
structure EndedRecv where
  stream  : Nat
  xid     : Nat
  ord     : Nat
  gen     : Nat
  step    : Nat
  phase   : Nat
  peer    : Nat
  sgen    : Nat
  chunks  : Nat
deriving DecidableEq, Repr

/-- A group-table entry (R393 to R400): what its COL registers show and what it keeps besides. -/
structure Group where
  slot    : Nat
  gid     : Nat
  state   : Nat
  members : List Nat
  rank    : Nat
  eager   : Nat
  epoch   : Nat
  digest  : Nat
  level   : Nat
  reserve : Nat
  /-- the next sequence number of each stream -/
  seqs    : List Nat
  /-- ranks that answered JOINACK with MATCH = 1, and the levels offered by rank -/
  acked   : List Nat
  levels  : List (Nat × Nat)
  /-- the generation of the GFORM that has not committed -/
  formGen : Nat
  /-- stream-0 commands that wait for admission, oldest first -/
  queue   : List Nat
  /-- OFFERs and ABORTs held in offer slots (rank, stream, whether it is an ABORT), and chunks and other carriages held -/
  slots   : List (Nat × Nat × Bool × Carriage)
  early   : List Carriage
  /-- per rank: FLOWSEQ next to send; the lowest FLOWSEQ not received, and those received beyond it (R413); eager credits in
  use -/
  txFlow  : List (Nat × Nat)
  rxFlow  : List (Nat × Nat × List Nat)
  used    : List (Nat × Nat)
  /-- ranks with an unanswered probe -/
  probed  : List Nat
  /-- receive steps of the commands that have committed -/
  ended   : List EndedRecv
deriving DecidableEq, Repr

/-- A routing pass refused at its arm, which still sends its first reduction (R64, R401): a key by which the transfer is
named in place of a generation, of which it has none, and the transfer. -/
structure RefusedPass where
  key : Nat
  x   : Xfer
deriving DecidableEq, Repr

structure Collective where
  groups    : List Group
  refusals  : List RefusedPass
  /-- FAB/0x037 has been recorded since COL_CNT_LEVEL was read -/
  onceLevel : Bool
deriving DecidableEq, Repr

/-- A slot that a forward exchange fixed (R114): the entry as it was read, the rows expected and handled, whether it has
committed, and the rows placed with the coordinate of the source of each. -/
structure LSlot where
  phys     : Nat
  inA      : Nat
  outA     : Nat
  tagA     : Nat
  hand     : Nat
  rowsMax  : Nat
  version  : Nat
  expected : Nat
  handled  : Nat
  done     : Bool
  rows     : List (Nat × Nat)
deriving DecidableEq, Repr

/-- What a forward exchange landed, from the fixing of its slots to the commit of the exchange that returns it (R114, R115,
R117): the routing pass it serves and that pass's combine area, its slots, the slots that failed a test with their REASON,
the rows rejected (coordinate of the source, landed tag), and whether it has committed. -/
structure Landed where
  gen     : Nat
  gid     : Nat
  xid     : Nat
  pass    : Nat
  comb    : Nat
  slots   : List LSlot
  failed  : List (Nat × Nat)
  rejects : List (Nat × List Byte)
  done    : Bool
deriving DecidableEq, Repr

/-! ### The Coaches (R129 to R182) -/

/-- A pass whose residue verdict is not out (R171): its Coach, the command (fill: no command), the arrays that ran it as a mask,
and the arrays whose check failed, each with whether it was the adders'. An entry for fill stands for the fill passes of a gap. -/
structure PassOut where
  coach : Nat
  fill  : Bool
  gen   : Nat
  mask  : Nat
  bad   : List (Nat × Bool)
deriving DecidableEq, Repr

/-- What the Coaches keep besides their registers: SEQ by Coach and record (R232), the value of CCH_IDLEFILL under which
each gap began, and whether the fill ramps down (R180), and the passes whose verdicts are not out, oldest first. -/
structure Coaches where
  seqs : List (Nat × Nat × Nat)
  gaps : List (Nat × Nat × Bool)
  out  : List PassOut
deriving DecidableEq, Repr

/-! ### The memory-fabric agent (R420 to R437) -/

/-- What a line request serves. -/
inductive ReqUse where
  | unit (g : Nat)
  | atomic (g : Nat)
  | recheck (k : Nat)
  /-- a line of lent HBM, for command `g` or for a unit outside a command (0) (R432) -/
  | lent (g : Nat)
  /-- the BULKRD of a sector that the Dray moves from lent HBM (R432) -/
  | sector (page sec : Nat)
deriving DecidableEq, Repr

/-- A line request outstanding (Table 14-1). -/
structure LineReq where
  tag    : Nat
  gen    : Nat
  remote : Nat
  op     : Nat
  space  : Nat
  region : Nat
  offset : Nat
  nlines : Nat
  aop    : Nat
  w64    : Bool
  operand : Word64
  compare : Word64
  tries  : Nat
  /-- the plane on which it left last, none before it has left -/
  plane  : Option Nat
  /-- the last answer was BUSY -/
  busy   : Bool
  use    : ReqUse
deriving DecidableEq, Repr

/-- A saved atomic result (R427). -/
structure AtomEntry where
  coord : Nat
  tag   : Nat
  old   : Word64
deriving DecidableEq, Repr

/-- Chunks of a gateway transfer placed and not yet acknowledged to their sender: coordinate, GEN, chunks. -/
structure AckPend where
  coord  : Nat
  gen    : Nat
  chunks : List Nat
deriving DecidableEq, Repr

/-- A load that the exporter streams back as bulk chunks (R429): who asked, under which GEN, the window and the chunks
acknowledged. -/
structure BulkServe where
  coord  : Nat
  gen    : Nat
  space  : Nat
  region : Nat
  offset : Nat
  len    : Nat
  next   : Nat
  acked  : List Nat
  /-- the plane on which each chunk left last -/
  planes : List (Nat × Nat)
  /-- the job address, or the key in lent frames, of its first byte, as the entry in force when it was checked gives it -/
  start  : Nat
  /-- the region was written after this load was checked -/
  old    : Bool
deriving DecidableEq, Repr

/-- A sector of a page that the Dray moves to lent HBM (`store`) or from it, as a gateway transfer of 16 chunks (R432). -/
structure SectorXfer where
  page   : Nat
  sec    : Nat
  lender : Nat
  /-- the byte offset of the sector in the HBM of the lender -/
  off    : Nat
  /-- the memory key of the other end of the move -/
  key    : Nat
  /-- the chunk of the sector from which the load under way counts -/
  base   : Nat
  /-- its chunks or its BULKRD have been sent -/
  begun  : Bool
  store  : Bool
  done   : List Nat
  /-- the plane on which each chunk left last -/
  planes : List (Nat × Nat)
deriving DecidableEq, Repr

structure Mmf where
  nextTag : Nat
  reqs    : List LineReq
  /-- requests that wait for room, or for an earlier one for their line (R429) -/
  queue   : List LineReq
  /-- lines of lent HBM that a command has, or a unit outside a command (0): command, key / 64 -/
  lines   : List (Nat × Nat)
  sectors : List SectorXfer
  atoms   : List AtomEntry
  acks    : List AckPend
  serves  : List BulkServe
  /-- region values written and held until the old requests are applied, by register offset -/
  pend    : List (Nat × Word64)
deriving DecidableEq, Repr

/-! ### Jobs (R475 to R501) -/

/-- A launch or order message that a neighbour in the tree has not answered (R481): its type, the tree index and coordinate
of the neighbour, and the carriages of which it consists. -/
structure LMsg where
  type  : Nat
  node  : Nat
  coord : Nat
  cars  : List Carriage
deriving DecidableEq, Repr

/-- The chunks of a MANIFEST that has not come whole, with the fields of its header (Table 16-6). -/
structure Gather where
  jobid   : Nat
  lseq    : Nat
  n       : Nat
  fanout  : Nat
  policy  : Nat
  resize  : Bool
  armStep : Nat
  rounds  : Nat
  goLead  : Nat
  chunks  : List (Nat × List Byte)
deriving DecidableEq, Repr

/-- A launch or resize under way on this node (R480 to R488): on the root the generation of its JLAUNCH, ACCT, MINN and the
rounds run; the round's list and tree; whether ARM has come, the children that have answered, the indices listed as silent,
whether the node has answered its parent, and T_GO. -/
structure Launch where
  root    : Bool
  cmd     : Nat
  jobid   : Nat
  acct    : Nat
  lseq    : Nat
  list    : List Nat
  fanout  : Nat
  resize  : Bool
  policy  : Nat
  minn    : Nat
  armStep : Nat
  rounds  : Nat
  goLead  : Nat
  index   : Nat
  ran     : Nat
  armed   : Bool
  acked   : List Nat
  silent  : List Nat
  overflow : Bool
  answered : Bool
  tgo     : Option Nat
deriving DecidableEq, Repr

/-- An order asked for: the requester's coordinate, ORDER and WIPECXL; `own` is the generation of a JORDER of this device. -/
structure OrderReq where
  coord : Nat
  order : Nat
  wipe  : Bool
  own   : Option Nat
deriving DecidableEq, Repr

/-- The JORDER of this device that has not completed: generation, ORDER, and the ORDSEQ that the root gave it. -/
structure OwnOrder where
  gen    : Nat
  order  : Nat
  ordseq : Option Nat
deriving DecidableEq, Repr

structure Job where
  launch  : Option Launch
  gather  : Option Gather
  unacked : List LMsg
  /-- member list and FANOUT of the job in hand -/
  list    : List Nat
  fanout  : Nat
  lastLseq : Nat
  nextOrd : Nat
  /-- order requests that the root holds during a resize -/
  heldReq : List OrderReq
  ownReq  : Option OwnOrder
  tgoTime : Nat
  wipeCxl : Bool
  /-- ports that drain: port and generation of the JUNIT -/
  drains  : List (Nat × Nat)
deriving DecidableEq, Repr

/-! ### The serving loop (R458 to R472) -/

/-- A slice of the frame that runs: its session, KIND and LAST, the rows it gives, and its REASON (0: accepted). -/
structure SliceRun where
  session : Nat
  kind    : Nat
  last    : Bool
  rows    : Nat
  reason  : Nat
deriving DecidableEq, Repr

/-- The frame or empty step in progress (R464): HEAD and addresses, its slices, the step read, ROWS, the next descriptor of
the step program to be armed, the generation of each that is armed, and the first that did not end OK with its generation. -/
structure FrameRun where
  empty  : Bool
  head   : Nat
  out    : Nat
  done   : Nat
  slices : List SliceRun
  step   : Nat
  rows   : Nat
  next   : Nat
  gens   : List (Nat × Nat)
  bad    : Option (Nat × Nat)
deriving DecidableEq, Repr

/-- Descriptor `i` of the step program, of generation `g`, does not end OK: the first such is kept. -/
def FrameRun.fails (f : FrameRun) (i g : Nat) : FrameRun :=
  { f with bad := match f.bad with | some b => if b.1 ≤ i then some b else some (i, g) | none => some (i, g) }

/-- The serving loop: the SLOOP that started it, the frame in progress, frames run, and the SSTOP that waits. -/
structure Serving where
  desc  : Option Line
  frame : Option FrameRun
  ran   : Nat
  stop  : Option Nat
deriving DecidableEq, Repr

/-- A step-program command of generation `g` has ended with `status`. -/
def Serving.ended (v : Serving) (g status : Nat) : Serving :=
  match v.frame with
  | none => v
  | some f =>
    match f.gens.find? fun x => x.2 == g with
    | none => v
    | some x =>
      let f := { f with gens := f.gens.filter fun y => y.2 != g }
      { v with frame := some (if status = 0 then f else f.fails x.1 g) }

/-- A step-program command runs again under a new generation. -/
def Serving.renamed (v : Serving) (old new : Nat) : Serving :=
  { v with frame := v.frame.map fun f => { f with gens := f.gens.map fun x => if x.2 = old then (x.1, new) else x } }

/-! ### The Harness port (R564 to R570) -/

/-- What the Harness holds: breakpoints (target, slot, address), halted sequencers with the team whose instance each held,
sequencers whose HALT has not completed, those that step (and whether the entry has been armed), those resumed or stepped at a
breakpoint's address, core registers written while halted (core · 64 + register, value), the number of free values drawn and
the draw of each core, whether the first LOCKED answer since DBG_CNT_LOCKED was read has been recorded, and the target of
the request under way. -/
structure Harness where
  bps     : List (Nat × Nat × Nat)
  halts   : List (Nat × Option Nat)
  halting : List Nat
  steps   : List (Nat × Bool)
  passes  : List Nat
  coreRegs : List (Nat × Word64)
  coreRuns : Nat
  coreAt  : List (Nat × Nat)
  lockRec : Bool
  busy    : Option Nat
  /-- HSEL_N is low -/
  sel     : Bool
deriving DecidableEq, Repr

/-! ### Power, clocks and thermal control (R507 to R526) -/

/-- The telemetry of a rail, in units of 10 µW: the sum and the number of its readings since the last slow tick, and the
last of them. -/
structure RailMeter where
  sum  : Nat
  n    : Nat
  last : Nat
deriving DecidableEq, Repr

structure Power where
  /-- power-gated domains other than those of Coaches; CCH_CSTAT tells those of Coach arrays -/
  gated    : List Domain
  /-- Coaches whose control domain was woken since their arrays were power-gated -/
  awake    : List Nat
  /-- Coaches woken in the open 40 ns window, the cluster that left power-gated in the open 500 ns window, and the Coaches
  whose wakes are deferred, in order -/
  woken    : Nat
  wokenCl  : Option Nat
  deferred : List Nat
  /-- microseconds since d last rose, slow ticks since a thermal step, the clusters whose step change settles with their
  target, and microseconds since the power rule's last change -/
  sinceUp  : Nat
  sinceDrop : Nat
  target   : List (Nat × Nat)
  winUs    : Nat
  /-- thermal conditions in force: Tj at or above the target, Tj forced d, refresh doubled and command rate halved stacks -/
  hot      : Bool
  forced   : Bool
  refresh2 : Nat
  half     : Nat
  /-- the second in which GUARD/0x034 was last recorded, and the loops that find their limit exceeded at the floor -/
  thr34    : Option Nat
  fastLim  : Bool
  slowLim  : Bool
  /-- rails over their package limit at the last sample, rails silent for 1 ms, and the energy not yet a whole mJ, in
  units of 10^-10 J -/
  overLim  : Nat
  lost     : Nat
  energy   : Nat
  /-- how far a trip has run: 0 none, 1 tripped, 2 domains gated, 3 rails off -/
  trip     : Nat
  /-- THROTTLE_N is held low (R521) -/
  throttle : Bool
  /-- the set-points of VDD_ARR, VDD_LOG and VDD_SRAM in mV (Table 17-3) -/
  vid      : List Nat
  /-- the telemetry of the three VID rails and of the seven rails behind IMON, the power of each slow tick, newest first, and
  the slow ticks in a row whose average was at or below 95 % of PL_SUST (R520) -/
  meters   : List RailMeter
  hist     : List Nat
  lowTicks : Nat
deriving DecidableEq, Repr

/-! ### The Guard and start-up (R528 to R553) -/

/-- Where the start-up stands. -/
inductive BootStage where
  /-- no standby supply, or AOCLK absent: nothing runs -/
  | off
  /-- reset held; the cause that GRD_RESETCAUSE will name -/
  | held (cause : Nat)
  | run
deriving DecidableEq, Repr

/-- A sealed job (Table 18-9). -/
structure MeterEntry where
  seq    : Nat
  jobid  : Nat
  acct   : Nat
  ended  : Nat
  epoch  : Nat
  ordseq : Nat
  tgo    : Word64
  tend   : Word64
  meters : List Word64
deriving DecidableEq, Repr

structure Guard where
  stage    : BootStage
  straps   : Straps
  /-- on-chip SRAM zeroed, HBM3E trained, HBM3E zeroed, the start-up's 900 ms passed -/
  sram     : Bool
  trained  : Bool
  hbm      : Bool
  served   : Bool
  /-- the fence record, and the kinds that FENCE_CLEAR has named since the last power-on or cold reset -/
  fence    : List Nat
  clearing : Nat
  meterLog : List MeterEntry
  meterSeq : Nat
  sealed   : Bool
  /-- FW_RSA_HASH, FW_SLH_HASH and MFG_CMD_HASH, as the fuses hold them (Table 18-5) -/
  fwRsa    : List Byte
  fwSlh    : List Byte
  mfgHash  : List Byte
  /-- the target of a lifecycle change that is pending, OWN_CMD_HASH, and whether the identity keys exist -/
  lcTarget : Option Nat
  ownHash  : Option (List Byte)
  keys     : Bool
  /-- the boot flash, the image being written (controller, next offset, length), and whether the flash holds none -/
  flash    : List Host.Cell
  opened   : Option (Nat × Nat × Nat)
  flashBad : Bool
  /-- header bytes 0 to 511 of the image verified in this boot -/
  image    : List Byte
  coldWait : Bool
  draws    : Nat
  /-- SPDM: the messages of version, capabilities and algorithms, those of certificates, those of measurements that no
  signature has covered, and the transcript last signed (R549) -/
  spdmA    : List Byte
  spdmB    : List Byte
  spdmM    : List Byte
  spdmLast : Option (List Byte)
  /-- the wipe engine zeroes the CXL tier (R546) -/
  wiping   : Bool
  /-- SIZ_IDENT.GRADE and the Coaches enabled as shipped -/
  grade    : Nat
  ship     : Nat
deriving DecidableEq, Repr

/-! ### The tiers and the Dray (R265 to R303) -/

/-- Who asked for a move (R278): a MOVE command, a Timetable entry by lap and number, an eviction, a retired frame. -/
inductive MoveBy where
  | cmd (g : Nat)
  | entry (lap n : Nat)
  | evict
  | retire
deriving DecidableEq, Repr

/-- A move in progress (R278 to R280): its page, its destination, the sectors that its sweep has begun (in ascending order, so
a number), the dirty ones of these, and the writes held in DRAINING (generation, offset in the page, bytes). -/
structure PageMove where
  page   : Nat
  home   : Nat
  frame  : Nat
  lender : Nat
  pool   : Nat
  by_    : MoveBy
  begun  : Nat
  dirty  : List Nat
  held   : List (Nat × Nat × List Byte)
  /-- the dirty sectors have been taken for the second time -/
  again  : Bool
deriving DecidableEq, Repr

/-- Pages still to be moved, ascending from `first`. -/
structure MoveReq where
  first  : Nat
  count  : Nat
  target : Nat
  pool   : Nat
  urgent : Bool
  by_    : MoveBy
deriving DecidableEq, Repr

/-- A page whose promotion waits for the eviction of `victim` (R285). -/
structure MoveWait where
  page   : Nat
  target : Nat
  pool   : Nat
  urgent : Bool
  by_    : MoveBy
  victim : Nat
deriving DecidableEq, Repr

/-- A Timetable entry that has fired and not settled (R289): lap, number, pages without an outcome,
and its pages, target and pool. -/
structure OpenEntry where
  lap  : Nat
  n    : Nat
  left : Nat
  first  : Nat
  count  : Nat
  target : Nat
  pool   : Nat
deriving DecidableEq, Repr

structure Tiers where
  moves    : List PageMove
  reqs     : List MoveReq
  waits    : List MoveWait
  opens    : List OpenEntry
  /-- the Timetable starts no further entry: stopped, malformed or past its last entry -/
  ttEnd    : Bool
  /-- the Timetable was stopped, or met a malformed entry: no further move starts for it (R290) -/
  ttHalted : Bool
  /-- the bytes of the entry that the Timetable has reached and not triggered; none where it has reached none (R288) -/
  ttNow    : List Byte
  /-- generations with a held write whose page became UNREACHABLE: their commands are killed (R282) -/
  lost     : List Nat
  /-- MOVE commands and Timetable entries that have recorded MEM/0x00E -/
  noted    : List MoveBy
  retired  : List Nat
  /-- corrected errors by frame -/
  ce       : List (Nat × Nat)
  /-- deferral steps of a stack's retraining slot -/
  rtSteps  : List (Nat × Nat)
  /-- downstream ports that are disabled (R501) -/
  portsOff : List Nat
  /-- ports whose devices were enumerated since they were last enabled, the devices that were mapped below each port then
  (R448), and for each page whose port was lost the devices that were mapped while it was homed there (R279) -/
  listed   : List Nat
  found    : List (Nat × List DsDevice)
  lostBy   : List (Nat × List DsDevice)
  /-- the snoop filter, oldest first: line and whether the host may have modified it; snoops not answered; and the bytes of
  their lines, as a mask, that the device has written before the answer (R446) -/
  filter   : List (Nat × Bool)
  snoops   : List Nat
  laid     : List (Nat × Nat)
  /-- accesses that met a line whose bytes the device must wait for (R446) -/
  stalls   : Nat
  /-- HOST/0x011 has been recorded since HST_CNT_HDMFAULT was read (R445) -/
  hdmRec   : Bool
deriving DecidableEq, Repr

/-! ### Commands armed and not completed (R213, R214) -/

/-- A SHIFT, PERMUTE, ALLTOALL or ALLREDUCE that runs (Tables 13-1 and 13-2). -/
structure CollRun where
  x       : Xfer
  op      : Nat
  dst     : Nat
  size    : Nat
  rop     : Nat
  rtype   : Nat
  arrival : Bool
  count   : Nat
  /-- ALLREDUCE: this member's contribution to its own segment, and whether the segment has been written -/
  own     : List Byte
  segDone : Bool
  /-- SIZ_COACHMAP as it was at the arm (R251, R253) -/
  coaches : Nat
  /-- the number of final units that the chunk signal has shown (R410) -/
  shown   : Nat
  /-- saturations of its reductions, which COL_CNT_SAT counts at the commit (R237) -/
  sats    : Nat
deriving DecidableEq, Repr

/-- An MFX that runs (R429): bytes (line mode) or chunks (gateway mode) issued, chunks acknowledged or placed, the plane on
which each chunk left last, repeats. -/
structure MfxRun where
  store   : Bool
  gateway : Bool
  remote  : Nat
  region  : Nat
  loc     : Nat
  offset  : Nat
  len     : Nat
  rpt     : Nat
  issued  : Nat
  done    : List Nat
  planes  : List (Nat × Nat)
  repeats : Nat
deriving DecidableEq, Repr

/-- A MATOMIC that runs: whether its request has been issued, where its old value goes, the old value once it is known, and
whether it has been written. -/
structure MatomicRun where
  issued : Bool
  remote : Nat
  result : Nat
  got    : Option Nat
  wrote  : Bool
deriving DecidableEq, Repr

/-- A MOVE that runs (R292 to R294): pages without an outcome yet, and the counts of its report (Table 08-9). -/
structure MoveRun where
  rpt      : Nat
  left     : Nat
  moved    : Nat
  resident : Nat
  busy     : Nat
  noevict  : Nat
  unmapped : Nat
  evicted  : Nat
  bytes    : Nat
deriving DecidableEq, Repr

/-- A JUNIT that waits for a port to drain (R501). -/
structure PortRun where
  port      : Nat
  cancelled : Nat
deriving DecidableEq, Repr

end Sys2Proof.Machine
end

