-- ==== Sys2Proof/Machine/Fec.lean ====
section
/-! DEFINITION. The link frame on the line (R325, Table 10-1): its data bits, the two RS(544,514) codewords over GF(2^10) that
carry them, their interleave and the stripe over the active lanes, and the receiver's correction of up to 15 symbols each. The
code is that of IEEE 802.3 Clause 91, which R325 names: field polynomial x^10 + x^3 + 1 with root a = 2, and the generator with
the roots a^0 to a^29 (PRESUMED from that standard, log entry 172). -/
namespace Sys2Proof.Machine

/-! ### GF(2^10) -/

/-- Shift-and-add product of ten bits: `a` times the low bits of `b`, onto `p`. -/
def gfStep : Nat → Nat → Nat → Nat → Nat
  | 0, _, _, p => p
  | k + 1, a, b, p =>
    gfStep k (if a < 512 then 2 * a else (2 * a) ^^^ 0x409) (b / 2) (if b % 2 = 1 then p ^^^ a else p)

def gfMul (a b : Nat) : Nat := if a = 0 || b = 0 then 0 else gfStep 10 a b 0

/-- `a ^ n` for n below 2^10, by squaring. -/
def gfPow (a n : Nat) : Nat :=
  ((List.range 10).foldl (fun (z : Nat × Nat) i => (if bit n i then gfMul z.1 z.2 else z.1, gfMul z.2 z.2)) (1, a)).1

def gfInv (a : Nat) : Nat := gfPow a 1022

/-- A polynomial, lowest coefficient first, at a point. -/
def gfEval (p : List Nat) (x : Nat) : Nat := p.foldr (fun c a => gfMul a x ^^^ c) 0

/-- The coefficient-wise sum of a polynomial and a multiple, by `c x^k`, of another. -/
def gfAddMul (p : List Nat) (c k : Nat) (q : List Nat) : List Nat :=
  (List.range (max p.length (k + q.length))).map fun i => nth p i 0 ^^^ if k ≤ i then gfMul c (nth q (i - k) 0) else 0

/-! ### The code -/

/-- The generator polynomial, highest coefficient first, without its leading 1. -/
def rsGen : List Nat :=
  ((List.range 30).foldl (fun (g : List Nat) j => gfAddMul (0 :: g) (gfPow 2 j) 0 g) [1]).reverse.drop 1

/-- The 30 parity symbols of 514 message symbols, first symbol highest. -/
def rsParity (msg : List Nat) : List Nat :=
  msg.foldl (fun r m =>
    let f := m ^^^ r.headD 0
    ((r.drop 1 ++ [0]).zip rsGen).map fun (x : Nat × Nat) => x.1 ^^^ gfMul f x.2) (List.replicate 30 0)

/-- The syndromes of a received word. -/
def rsSyn (w : List Nat) : List Nat := (List.range 30).map fun j => w.foldl (fun a c => gfMul a (gfPow 2 j) ^^^ c) 0

/-- The state of the search for the error locator: the locator and its length, the one before the last change of length, its
discrepancy, and the steps since. -/
structure RsLoc where
  c   : List Nat
  len : Nat
  b   : List Nat
  bd  : Nat
  m   : Nat

/-- One syndrome taken into the search. -/
def rsLocStep (ss : List Nat) (z : RsLoc) (n : Nat) : RsLoc :=
  let d := ((List.range (z.len + 1)).map fun i => gfMul (nth z.c i 0) (if i ≤ n then nth ss (n - i) 0 else 0)).foldl (· ^^^ ·) 0
  if d = 0 then { z with m := z.m + 1 }
  else
    let c := gfAddMul z.c (gfMul d (gfInv z.bd)) z.m z.b
    if 2 * z.len ≤ n then { c := c, len := n + 1 - z.len, b := z.c, bd := d, m := 1 } else { z with c := c, m := z.m + 1 }

/-- A received codeword corrected: its symbols and how many were wrong, or none where more than 15 are. -/
def rsDecode (w : List Nat) : Option (List Nat × Nat) :=
  let ss := rsSyn w
  if ss.all (· == 0) then some (w, 0)
  else
    let z := (List.range 30).foldl (rsLocStep ss) ⟨[1], 0, [1], 1, 1⟩
    let bad := (List.range 544).filter fun d => gfEval z.c (gfInv (gfPow 2 d)) == 0
    if 15 < z.len || bad.length ≠ z.len then none
    else
      -- the error at power d: X times the evaluator at 1/X, over the derivative of the locator there
      let ev := (gfAddMul [] 1 0 ((List.range 30).map fun k =>
        ((List.range (k + 1)).map fun i => gfMul (nth z.c i 0) (nth ss (k - i) 0)).foldl (· ^^^ ·) 0))
      let dv := (List.range (z.c.length - 1)).map fun i => if i % 2 = 0 then nth z.c (i + 1) 0 else 0
      let mag (d : Nat) : Nat :=
        let x := gfPow 2 d
        let y := gfInv x
        gfMul x (gfMul (gfEval ev y) (gfInv (gfEval dv y)))
      some (w.mapIdx fun i c => if bad.contains (543 - i) then c ^^^ mag (543 - i) else c, bad.length)

/-! ### Data bits, interleave and stripe -/

def frameTypeCode : FrameType → Nat
  | .data => 0
  | .reserved => 1
  | .retry => 2
  | .mgmt => 3

def frameTypeOf (c : Nat) : FrameType := if c = 0 then .data else if c = 1 then .reserved else if c = 2 then .retry else .mgmt

/-- The 10,280 data bits of Table 10-1 as a number. -/
def frameData (f : TxFrame) : Nat :=
  f.seq % 2 ^ 12 + f.ackseq % 2 ^ 12 * 2 ^ 12 + f.xoff % 2 ^ 8 * 2 ^ 24 + frameTypeCode f.type * 2 ^ 32 + f.nflit % 2 ^ 5 * 2 ^ 34
    + 2 ^ 40 * leNat ((f.flits.take 20).flatMap fun l => leBytes 64 l.toNat)

/-- Every second element, from the first or the second. -/
def alternate (odd : Bool) (xs : List Nat) : List Nat :=
  (List.range ((xs.length + if odd then 0 else 1) / 2)).map fun i => nth xs (2 * i + odd.toNat) 0

def interleave (a b : List Nat) : List Nat := (a.zip b).flatMap fun x => [x.1, x.2]

/-- The 1,088 symbols of a frame in line order: the two codewords symbol by symbol (DEDUCED, log entry 172: data symbol i, bits
10 i to 10 i + 9, goes to codeword i mod 2). -/
def frameSymbols (f : TxFrame) : List Nat :=
  let n := frameData f
  let ds := (List.range 1028).map fun i => bits n (10 * i) 10
  ds ++ interleave (rsParity (alternate false ds)) (rsParity (alternate true ds))

/-- Symbols striped over `k` lanes, lane by lane. -/
def stripe (k : Nat) (xs : List Nat) : List (List Nat) :=
  (List.range k).map fun l => (List.range ((xs.length + k - 1 - l) / k)).map fun i => nth xs (k * i + l) 0

/-- Symbols gathered from lanes in ascending lane order. -/
def destripe (ls : List (List Nat)) : List Nat :=
  (List.range 1088).map fun i => nth (nth ls (i % ls.length) []) (i / ls.length) 0

/-- A frame as the lanes of a width carry it. -/
def frameLine (width : Nat) (f : TxFrame) : List (List Nat) := stripe width (frameSymbols f)

/-- A frame received on its lanes: corrected, or uncorrectable as a whole where either codeword is. What an uncorrectable frame
was is read from its symbols as they came (DEDUCED, log entry 172). -/
def frameOf (ls : List (List Nat)) : RxFrame :=
  let xs := destripe ls
  let ws := [alternate false xs, alternate true xs]
  let cs := ws.map rsDecode
  let errs := cs.filterMap fun c => c.map (·.2)
  let out := (ws.zip cs).map fun x => match x.2 with | some c => c.1 | none => x.1
  let ds := interleave ((nth out 0 []).take 514) ((nth out 1 []).take 514)
  let n := ds.foldr (fun c acc => c % 1024 + 1024 * acc) 0
  { good := errs.length == 2, seq := bits n 0 12, ackseq := bits n 12 12, xoff := bits n 24 8, type := frameTypeOf (bits n 32 2),
    nflit := bits n 34 5, flits := (List.range 20).map fun i => BitVec.ofNat 512 (bits n (40 + 512 * i) 512),
    cwCorr := (errs.filter (· != 0)).length, symCorr := errs.sum }

end Sys2Proof.Machine
end

