-- ==== Sys2Proof/Machine/Carriage.lean ====
section
/-! DEFINITION. The carriage: the fields of its header (Table 03-11), its KSPEC (Table 13-6) and its CRC (R107). -/
namespace Sys2Proof
open Sys2Proof.Machine

/-- The kinds of Table 03-12 and the virtual channel of each. -/
def kindVC (k : Nat) : Nat := nth [0, 0, 1, 6, 2, 3, 4, 7] k 0

def kFWD : Nat := 0
def kRET : Nat := 1
def kCOLL : Nat := 2
def kCTRL : Nat := 3
def kMREQ : Nat := 4
def kMRSP : Nat := 5
def kBULK : Nat := 6
def kMGMT : Nat := 7

/-- Bits `lo + w - 1 : lo` of the header field that begins at byte `n`. -/
def Carriage.f (c : Carriage) (n lo w : Nat) : Nat := lfield c.hdr n lo w

def Carriage.dst (c : Carriage) : Nat := c.f 0 0 16
def Carriage.src (c : Carriage) : Nat := c.f 2 0 16
def Carriage.vc (c : Carriage) : Nat := c.f 4 0 3
def Carriage.tc (c : Carriage) : Nat := c.f 4 3 3
def Carriage.relayed (c : Carriage) : Bool := c.f 4 6 1 == 1
def Carriage.plen (c : Carriage) : Nat := c.f 5 0 5
def Carriage.kind (c : Carriage) : Nat := c.f 5 5 3
def Carriage.plane (c : Carriage) : Nat := c.f 6 0 3
def Carriage.level (c : Carriage) : Nat := c.f 7 0 8
def Carriage.flowseq (c : Carriage) : Nat := c.f 8 0 32
def Carriage.xid (c : Carriage) : Nat := c.f 12 0 32
def Carriage.chunk (c : Carriage) : Nat := c.f 16 0 32
def Carriage.gen (c : Carriage) : Nat := c.f 20 0 32
def Carriage.xlen (c : Carriage) : Nat := c.f 24 0 32
def Carriage.step (c : Carriage) : Nat := c.f 28 0 32
def Carriage.crc (c : Carriage) : Nat := c.f 60 0 32

/-- KSPEC of Table 13-6. -/
def Carriage.gdigest (c : Carriage) : Nat := c.f 32 0 32
def Carriage.group (c : Carriage) : Nat := c.f 36 0 16
def Carriage.stream (c : Carriage) : Nat := c.f 38 0 2
def Carriage.eager (c : Carriage) : Bool := c.f 38 2 1 == 1
def Carriage.retx (c : Carriage) : Bool := c.f 38 3 1 == 1
def Carriage.phase (c : Carriage) : Nat := c.f 39 0 1
def Carriage.srank (c : Carriage) : Nat := c.f 40 0 16
def Carriage.drank (c : Carriage) : Nat := c.f 42 0 16
def Carriage.ord (c : Carriage) : Nat := c.f 44 0 8

/-- Bytes that the carriage takes in the buffer and on a Hitch (R364, R326). -/
def Carriage.size (c : Carriage) : Nat := 64 + 256 * c.plen

/-- The header with a field replaced. -/
def hdrSet (h : Line) (n lo w v : Nat) : Line := BitVec.ofNat 512 (setBits h.toNat (8 * n + lo) w v)

/-- Fields written into a header: byte, bit, width, value. -/
def hdrPut (h : Line) (fs : List (Nat × Nat × Nat × Nat)) : Line :=
  fs.foldl (fun h x => hdrSet h x.1 x.2.1 x.2.2.1 x.2.2.2) h
/-- A header from fields. -/
def mkHdr (fs : List (Nat × Nat × Nat × Nat)) : Line := hdrPut 0 fs

/-- The CRC of the carriage as it stands: header bytes 0 to 59 with RELAYED taken as 0, then the payload (R107). -/
def Carriage.crcNow (c : Carriage) : Nat :=
  crc32c ((leBytes 64 (hdrSet c.hdr 4 6 1 0).toNat).take 60 ++ c.payload)

/-- The CRC written. -/
def Carriage.seal (c : Carriage) : Carriage := { c with hdr := hdrSet c.hdr 60 0 32 c.crcNow }

/-- PLANE written, then the CRC (R357). -/
def Carriage.setPlane (c : Carriage) (p : Nat) : Carriage := Carriage.seal { c with hdr := hdrSet c.hdr 6 0 3 p }

def Carriage.crcOk (c : Carriage) : Bool := c.crc == c.crcNow && c.payload.length == 256 * c.plen

/-- Malformed: VC not that of the KIND, or PLEN reserved (R106). -/
def Carriage.malformed (c : Carriage) : Bool := c.vc != kindVC c.kind || decide (16 < c.plen)

/-- Payload bytes filled up with zeros to whole units of 256 bytes. -/
def padUnits (bs : List Byte) : List Byte := bs ++ List.replicate (roundUp bs.length 256 - bs.length) 0

/-- The 64-byte flits of a carriage: the header, then the payload (R326). -/
def Carriage.flits (c : Carriage) : List Line :=
  c.hdr :: (List.range (4 * c.plen)).map fun i => BitVec.ofNat 512 (leNat ((c.payload.drop (64 * i)).take 64))

end Sys2Proof
end

