-- ==== Sys2Proof/Config.lean ====
section
/-! DEFINITION. What an implementation fixes and what the spec leaves open. Every constant here is a free value: it has
no body, so no proof can see what it is, and a statement holds whatever it is. The assumption log names each. -/
namespace Sys2Proof

/-- The start of accumulator `p` (0 to 2) of a three-product complex element whose C input has real and imaginary codes
`cr` and `ci` (R146 states only that C starts the real and imaginary sums). -/
opaque Config.threeProductStart (p cr ci : Nat) : Nat

/-- How far the vector unit's value of function `vop` of Table 06-9 at FP32 code `x` lies from the correctly rounded one:
modulo 5, less 2, in units of the last place (R163 bounds it and does not fix it). -/
opaque Config.vectorUlps (vop x : Nat) : Nat

/-- The FP32 code that it returns where the function has no value (R163 states none). -/
opaque Config.vectorPole (vop x : Nat) : Nat

/-- An INT32 vector sum, difference, product or FMA that falls outside 32 bits: the code written (R163 states none). -/
opaque Config.vectorOverflow (vop a b c : Nat) : Nat

/-- A vector shift by a count outside 0 to 31: the code written (Table 06-9 states none). -/
opaque Config.vectorShift (vop a b : Nat) : Nat

/-- MIN or MAX of two zeros of opposite sign: whether the first operand is taken. -/
opaque Config.vectorZeroTie (vop a b : Nat) : Bool

/-- The second index of a 2:4 group that has one valid position only (R192 names two and never one beyond KLEN). -/
opaque Config.loneGroupIndex : Nat

/-- How far the Postilion's exponential and quotient lie from the correctly rounded value, modulo 5, less 2, in units of the
last place (R74 bounds it and does not fix it). -/
opaque Config.routeExpUlps (x : Nat) : Nat
opaque Config.routeDivUlps (x y : Nat) : Nat

/-- A byte of the scratch area H of a GEXPERT after its commit: generation and Coach-store offset (R240: unspecified). -/
opaque Config.scratchByte (gen off : Nat) : Byte

/-- ACCT in GRD_JOBID on a member other than the root: the MANIFEST carries none (R486). -/
opaque Config.nodeAcct (jobid : Nat) : Nat

/-- The nth draw of 64 bits from the device's entropy source (R461, R542). -/
opaque Config.entropy (n : Nat) : Word64

/-- Register `idx` of Coachman core `core` after it has run for the nth time: what firmware leaves there (R566). -/
opaque Config.coreWord (core idx n : Nat) : Word64

/-- The Guard ROM's bytes, and the certificate chain of a slot (R549). -/
opaque Config.guardRom : List Byte
opaque Config.certChain (slot : Nat) : List Byte

/-- POS in the output record of a slice whose SESSION is not below COUNT: no session has it (R470). -/
opaque Config.noSessionPos (i : Nat) : Nat

/-- POS in the output record of a session whose entry cannot be read (R470, R593), and FRAMEID in the row table of the nth empty
step, which has no frame (R463, R466). -/
opaque Config.unreadPos (i : Nat) : Nat
opaque Config.emptyFrame (n : Nat) : Nat

/-- The Coachman core, modulo 8, that runs the serving loop, and which breakpoint of a core a hit is of, by its draw (R567). -/
opaque Config.loopCore : Nat
opaque Config.breakpointHit (core n : Nat) : Nat

/-- The VDD_ARR voltage in mV that calibration sets for an array step (R515). -/
opaque Config.stepMv (step : Nat) : Nat

/-- The non-zero STATUS of an IMAGE_END whose image fails check `code` of Table 18-4 (R538), less 1, modulo 5. -/
opaque Config.imageEndStatus (code : Nat) : Nat

/-- How the instance state of a halted sequencer reads through the Harness port (R566): the coding is not given. -/
opaque Config.instStateCode (k : Nat) : Word64

/-- What a sequencer register reads that has no value, ENTRY without an instance or a work index without work: Coach,
register, and the number of the draw (R566). -/
opaque Config.idleSeqWord (coach idx n : Nat) : Word64

/-- How many more sectors of a page that moves its sweep begins in a nanosecond, modulo the number that is left and one (R278
gives the order and no rate). -/
opaque Config.sectorsBegun (ns page : Nat) : Nat

/-- A byte of a line that the host holds modified, as the nth access that does not wait for the host's answer reads it (R446). -/
opaque Config.hostByte (n addr : Nat) : Byte

/-- A byte of a line of lent HBM, as the nth access that does not wait for the lender's answer reads it (R432). -/
opaque Config.lentByte (n addr : Nat) : Byte

/-- The capability list of the configuration space holds a capability, where the spec does not say (R441). -/
opaque Config.hasCap (id : Nat) : Bool

/-- A 32-bit word of the CXL component registers of BAR4 that holds `held`, by offset (R443 names them and gives none). -/
opaque Config.componentWord (off held : Nat) : Nat

/-- What the nth read of a held region through the Harness port gives at an address (R239, R569). -/
opaque Config.heldByte (n addr : Nat) : Byte

end Sys2Proof
end

