-- ==== Sys2Proof/Machine/Float.lean ====
section
/-! DEFINITION. Number formats and exact arithmetic (R136, R137, R139, R142 to R152, R163, R164) and the generator of
R255. A value is exact until it is rounded once into a format. -/
namespace Sys2Proof.Machine

/-- An exact value: a NaN, a signed infinity, or (-1)^neg * m * 2^e, where m = 0 is a signed zero. -/
inductive FV where
  | nan
  | inf (neg : Bool)
  | fin (neg : Bool) (m : Nat) (e : Int)
deriving DecidableEq, Repr

/-- The specials of a format: which codes of the highest exponent are infinities and NaNs (Table 04-5). -/
inductive Specials where
  | ieee
  | e4m3
  | none
deriving DecidableEq, Repr

/-- A floating format: exponent and mantissa widths, bias, specials (Table 04-5). -/
structure Fmt where
  eb   : Nat
  mb   : Nat
  bias : Nat
  sp   : Specials
deriving DecidableEq, Repr

def fmtFP64 : Fmt := ⟨11, 52, 1023, .ieee⟩
def fmtFP32 : Fmt := ⟨8, 23, 127, .ieee⟩
def fmtBF16 : Fmt := ⟨8, 7, 127, .ieee⟩
def fmtFP16 : Fmt := ⟨5, 10, 15, .ieee⟩
def fmtE4M3 : Fmt := ⟨4, 3, 7, .e4m3⟩
def fmtE5M2 : Fmt := ⟨5, 2, 15, .ieee⟩
def fmtE2M3 : Fmt := ⟨2, 3, 1, .none⟩
def fmtE3M2 : Fmt := ⟨3, 2, 3, .none⟩
def fmtE2M1 : Fmt := ⟨2, 1, 1, .none⟩

/-- Element bits of a format, sign included. -/
def Fmt.width (f : Fmt) : Nat := 1 + f.eb + f.mb

/-- The canonical NaN of a format that has one (R139). -/
def canonNaN (f : Fmt) : Nat :=
  match f.sp with
  | .ieee => (2 ^ f.eb - 1) * 2 ^ f.mb + 2 ^ (f.mb - 1)
  | .e4m3 => 0x7F
  | .none => 0

/-- The code of the largest finite magnitude. -/
def maxFinite (f : Fmt) : Nat :=
  match f.sp with
  | .ieee => (2 ^ f.eb - 1) * 2 ^ f.mb - 1
  | .e4m3 => 0x7E
  | .none => 2 ^ (f.eb + f.mb) - 1

/-- The exact value of a code (Table 04-5). -/
def decodeF (f : Fmt) (x : Nat) : FV :=
  let neg := bit x (f.eb + f.mb)
  let e := bits x f.mb f.eb
  let m := bits x 0 f.mb
  let top := e == 2 ^ f.eb - 1
  if f.sp == .ieee && top then (if m == 0 then .inf neg else .nan)
  else if f.sp == .e4m3 && top && m == 7 then .nan
  else if e == 0 then .fin neg m (1 - (f.bias : Int) - f.mb)
  else .fin neg (2 ^ f.mb + m) ((e : Int) - f.bias - f.mb)

/-- `m * 2^e` cut at `2^q`: the kept integer, and what was discarded as a fraction of one unit (numerator, log2 of the
denominator). -/
def cutAt (m : Nat) (e q : Int) : Nat × Nat × Nat :=
  if q ≤ e then (m * 2 ^ (e - q).toNat, 0, 0)
  else let d := (q - e).toNat; (m / 2 ^ d, m % 2 ^ d, d)

/-- Rounding modes (Table 04-7). -/
inductive Rnd where
  | rne
  | rtz
  | sr
deriving DecidableEq, Repr

/-- Whether the kept integer `k` steps away from zero for a discarded fraction `n / 2^d`; `r` is the element's random
word (R151). -/
def roundUpBit (rnd : Rnd) (k n d r : Nat) : Bool :=
  match rnd with
  | .rtz => false
  | .rne => decide (2 * n > 2 ^ d) || (decide (2 * n = 2 ^ d) && decide (0 < d) && k % 2 == 1)
  | .sr => decide (r < n * 2 ^ 32 / 2 ^ d)

/-- What a conversion did, for the counters of R149 and R152. -/
structure ConvFlags where
  nan : Nat
  ovf : Nat
  sat : Nat
deriving DecidableEq, Repr

def ConvFlags.zero : ConvFlags := ⟨0, 0, 0⟩
def ConvFlags.add (a b : ConvFlags) : ConvFlags := ⟨a.nan + b.nan, a.ovf + b.ovf, a.sat + b.sat⟩

/-- The exponent of the unit in the last place of `m * 2^e`, m > 0, in format `f` (subnormals kept, R139). -/
def ulpExp (f : Fmt) (m : Nat) (e : Int) : Int :=
  max ((Nat.log2 m : Int) + e - f.mb) (1 - (f.bias : Int) - f.mb)

/-- The magnitude code of `m * 2^e` in format `f` by one rounding; a code above `maxFinite` means beyond the range. -/
def roundMag (f : Fmt) (rnd : Rnd) (r m : Nat) (e : Int) : Nat :=
  if m = 0 then 0
  else
    let q := ulpExp f m e
    let (k, n, d) := cutAt m e q
    let k := k + (roundUpBit rnd k n d r).toNat
    -- k units of 2^q: the exponent field follows from q, and a carry out of the mantissa steps it
    if k < 2 ^ f.mb then k
    else ((q + f.mb + f.bias).toNat - 1) * 2 ^ f.mb + k

/-- Conversion with one rounding, by Table 04-10. -/
def encodeF (f : Fmt) (rnd : Rnd) (sat : Bool) (r : Nat) (v : FV) : Nat × ConvFlags :=
  let sgn (neg : Bool) := neg.toNat * 2 ^ (f.eb + f.mb)
  let big (neg fromInf : Bool) : Nat × ConvFlags :=
    if sat || f.sp == .none then (sgn neg + maxFinite f, ⟨0, 0, 1⟩)
    else match f.sp with
      | .e4m3 => (canonNaN f, ⟨1, (!fromInf).toNat, 0⟩)
      | _ => (sgn neg + (2 ^ f.eb - 1) * 2 ^ f.mb, ⟨0, (!fromInf).toNat, 0⟩)
  match v with
  | .nan => (canonNaN f, ⟨1, 0, 0⟩)
  | .inf neg => big neg true
  | .fin neg m e =>
    let c := roundMag f rnd r m e
    if c ≤ maxFinite f then (sgn neg + c, .zero)
    else match rnd with
      | .rtz => (sgn neg + maxFinite f, if sat then ⟨0, 0, 1⟩ else ⟨0, 1, 0⟩)
      | _ => big neg false

/-- One RNE rounding into a format with infinities, as an accumulator add makes it (R143). -/
def roundF (f : Fmt) (v : FV) : Nat := (encodeF f .rne false 0 v).1

/-- The FP32-to-BF16 rule (R150). -/
def toBF16 (x : Nat) : Nat := roundF fmtBF16 (decodeF fmtFP32 x)

def FV.neg : FV → FV
  | .nan => .nan
  | .inf n => .inf (!n)
  | .fin n m e => .fin (!n) m e

/-- The signed integer numerator over `2^e`. -/
def signedM (neg : Bool) (m : Nat) : Int := if neg then -(m : Int) else m

/-- Exact sum; an exact zero is +0 unless both addends are -0 (IEEE 754, R137). -/
def FV.add : FV → FV → FV
  | .nan, _ => .nan
  | _, .nan => .nan
  | .inf a, .inf b => if a = b then .inf a else .nan
  | .inf a, _ => .inf a
  | _, .inf b => .inf b
  | .fin na ma ea, .fin nb mb eb =>
    let e := min ea eb
    let x := signedM na (ma * 2 ^ (ea - e).toNat) + signedM nb (mb * 2 ^ (eb - e).toNat)
    if x = 0 then .fin (na && nb) 0 e else .fin (decide (x < 0)) x.natAbs e

/-- Exact product; zero times infinity is NaN (R143). -/
def FV.mul : FV → FV → FV
  | .nan, _ => .nan
  | _, .nan => .nan
  | .inf a, .inf b => .inf (a != b)
  | .inf a, .fin nb m _ => if m = 0 then .nan else .inf (a != nb)
  | .fin na m _, .inf b => if m = 0 then .nan else .inf (na != b)
  | .fin na ma ea, .fin nb mb eb => .fin (na != nb) (ma * mb) (ea + eb)

/-- Exact scaling by a power of two. -/
def FV.scale (v : FV) (k : Int) : FV :=
  match v with
  | .fin n m e => .fin n m (e + k)
  | v => v

def FV.isNaN : FV → Bool
  | .nan => true
  | _ => false

def FV.isFinite : FV → Bool
  | .fin .. => true
  | _ => false

def FV.isZero : FV → Bool
  | .fin _ 0 _ => true
  | _ => false

def FV.isNeg : FV → Bool
  | .nan => false
  | .inf n => n
  | .fin n _ _ => n

def FV.abs : FV → FV
  | .nan => .nan
  | .inf _ => .inf false
  | .fin _ m e => .fin false m e

def FV.zero : FV := .fin false 0 0
def FV.ofInt (x : Int) : FV := .fin (decide (x < 0)) x.natAbs 0
def FV.one : FV := .fin false 1 0

/-- Less-than on numbers; false when either is NaN; zeros are equal. -/
def FV.lt : FV → FV → Bool
  | .nan, _ => false
  | _, .nan => false
  | .inf a, .inf b => a && !b
  | .inf a, _ => a
  | _, .inf b => !b
  | .fin na ma ea, .fin nb mb eb =>
    let e := min ea eb
    decide (signedM na (ma * 2 ^ (ea - e).toNat) < signedM nb (mb * 2 ^ (eb - e).toNat))

/-- Equality on numbers; false when either is NaN. -/
def FV.feq (a b : FV) : Bool := !a.isNaN && !b.isNaN && !a.lt b && !b.lt a

def FV.le (a b : FV) : Bool := a.lt b || a.feq b

/-- The exact value rounded to an integer (R152); none for a NaN or an infinity. -/
def roundInt (rnd : Rnd) (r : Nat) : FV → Option Int
  | .fin n m e =>
    let (k, num, d) := cutAt m e 0
    some (signedM n (k + (roundUpBit rnd k num d r).toNat))
  | _ => none

/-- Conversion to a `w`-bit two's complement integer (R152). -/
def encodeInt (w : Nat) (rnd : Rnd) (r : Nat) (v : FV) : Nat × ConvFlags :=
  let hi : Int := 2 ^ (w - 1) - 1
  let lo : Int := -(2 ^ (w - 1))
  match v with
  | .nan => (0, ⟨1, 0, 0⟩)
  | .inf n => (ofSigned w (if n then lo else hi), ⟨0, 0, 1⟩)
  | .fin .. =>
    match roundInt rnd r v with
    | none => (0, .zero)
    | some x => if x > hi then (ofSigned w hi, ⟨0, 0, 1⟩) else if x < lo then (ofSigned w lo, ⟨0, 0, 1⟩)
                else (ofSigned w x, .zero)

/-- FP32 arithmetic with one RNE rounding, on codes. -/
def f32 (x : Nat) : FV := decodeF fmtFP32 x
def f32add (a b : Nat) : Nat := roundF fmtFP32 ((f32 a).add (f32 b))
def f32sub (a b : Nat) : Nat := roundF fmtFP32 ((f32 a).add (f32 b).neg)
def f32mul (a b : Nat) : Nat := roundF fmtFP32 ((f32 a).mul (f32 b))
def f64 (x : Nat) : FV := decodeF fmtFP64 x
def f64add (a b : Nat) : Nat := roundF fmtFP64 ((f64 a).add (f64 b))

/-- FP32 quotient with one RNE rounding: enough quotient bits are formed, and a remainder is kept as a sticky bit. -/
def fvDiv (a b : FV) : FV :=
  match a, b with
  | .nan, _ => .nan
  | _, .nan => .nan
  | .inf _, .inf _ => .nan
  | .inf n, .fin nb _ _ => .inf (n != nb)
  | .fin n _ _, .inf nb => .fin (n != nb) 0 0
  | .fin na ma ea, .fin nb mb eb =>
    if mb = 0 then (if ma = 0 then .nan else .inf (na != nb))
    else
      let sh := 2 * 64 + Nat.log2 mb
      let q := ma * 2 ^ sh / mb
      let sticky := if ma * 2 ^ sh % mb = 0 then 0 else 1
      .fin (na != nb) (2 * q + sticky) (ea - eb - sh - 1)

def f32div (a b : Nat) : Nat := roundF fmtFP32 (fvDiv (f32 a) (f32 b))

/-- One round of the generator of R255 on (c0, c1, c2, c3) with key (k0, k1). -/
def philoxRound (c : Nat × Nat × Nat × Nat) (k0 k1 : Nat) : Nat × Nat × Nat × Nat :=
  let (c0, c1, c2, c3) := c
  let p0 := 0xD2511F53 * c0
  let p1 := 0xCD9E8D57 * c2
  ((p1 / 2 ^ 32) ^^^ c1 ^^^ k0, p1 % 2 ^ 32, (p0 / 2 ^ 32) ^^^ c3 ^^^ k1, p0 % 2 ^ 32)

/-- `n` rounds, the key advancing between rounds. -/
def philoxRounds : Nat → Nat × Nat × Nat × Nat → Nat → Nat → Nat × Nat × Nat × Nat
  | 0, c, _, _ => c
  | n + 1, c, k0, k1 =>
    philoxRounds n (philoxRound c k0 k1) ((k0 + 0x9E3779B9) % 2 ^ 32) ((k1 + 0xBB67AE85) % 2 ^ 32)

/-- Word 0 of a generator call (R255). -/
def philox (c0 c1 c2 c3 k0 k1 : Nat) : Nat := (philoxRounds 10 (c0, c1, c2, c3) k0 k1).1

/-! The operand types (Table 04-4). -/

/-- DTYPE codes that are reserved. -/
def dtypeReserved (t : Nat) : Bool := t == 3 || decide (0x0F ≤ t)

/-- Bits per element. -/
def dtypeBits (t : Nat) : Nat :=
  match t with
  | 0x00 => 4 | 0x01 => 8 | 0x02 => 32 | 0x04 => 8 | 0x05 => 8 | 0x06 => 16 | 0x07 => 16 | 0x08 => 32
  | 0x09 => 64 | 0x0A => 8 | 0x0B => 8 | 0x0C => 6 | 0x0D => 6 | 0x0E => 4 | _ => 8

def isMX (t : Nat) : Bool := decide (0x0A ≤ t) && decide (t ≤ 0x0E)
def isIntT (t : Nat) : Bool := t == 0 || t == 1 || t == 2

/-- The element format of a floating type. -/
def dtypeFmt (t : Nat) : Fmt :=
  match t with
  | 0x04 => fmtE4M3 | 0x05 => fmtE5M2 | 0x06 => fmtFP16 | 0x07 => fmtBF16 | 0x08 => fmtFP32 | 0x09 => fmtFP64
  | 0x0A => fmtE4M3 | 0x0B => fmtE5M2 | 0x0C => fmtE2M3 | 0x0D => fmtE3M2 | 0x0E => fmtE2M1 | _ => fmtFP32

/-- The exact value of an element code of a type, without its block scale. -/
def decodeT (t x : Nat) : FV :=
  if isIntT t then .ofInt (toSigned (dtypeBits t) x) else decodeF (dtypeFmt t) x

/-- emax of R164. -/
def mxEmax (t : Nat) : Int :=
  match t with
  | 0x0A => 8 | 0x0B => 15 | 0x0C => 2 | 0x0D => 4 | _ => 2

/-- The scale code of a block of values (R164). -/
def mxScaleCode (t : Nat) (vs : List FV) : Nat :=
  if vs.any fun v => !v.isFinite then 0xFF
  else
    let top := vs.foldl (fun (a : Option Int) v =>
      match v with
      | .fin _ m e => if m = 0 then a else let l := (Nat.log2 m : Int) + e
                      match a with
                      | none => some l
                      | some b => some (max b l)
      | _ => a) none
    match top with
    | none => 0
    | some l => ((max (-127) (min 127 (l - mxEmax t))) + 127).toNat

/-- One element of an MX block with scale code `sc` (R164): always saturated; zero in a block of scale code 0xFF. -/
def mxElement (t sc : Nat) (rnd : Rnd) (r : Nat) (v : FV) : Nat × ConvFlags :=
  if sc = 0xFF then (0, .zero) else encodeF (dtypeFmt t) rnd true r (v.scale (127 - (sc : Int)))

end Sys2Proof.Machine
end

