-- ==== Sys2Proof/Machine/Arith.lean ====
section
/-! DEFINITION. The arithmetic of the Coach arrays on operands as the Coach store holds them (R131, R138, R142 to R161,
R185 to R201). A store is passed as the function that reads one of its bytes. -/
namespace Sys2Proof.Machine

/-! ### The arithmetic word (Table 04-6) -/

def awA (w : Nat) : Nat := bits w 0 5
def awW (w : Nat) : Nat := bits w 5 5
def awO (w : Nat) : Nat := bits w 10 5
def awPrec (w : Nat) : Nat := bits w 15 2
def awCplx (w : Nat) : Nat := bits w 17 2
def awRnd (w : Nat) : Nat := bits w 19 2
def awSat (w : Nat) : Bool := bit w 21
def awCin (w : Nat) : Bool := bit w 22
def awShift (w : Nat) : Int := toSigned 8 (bits w 24 8)

/-- The rounding mode of a code (Table 04-7). -/
def rndOf (c : Nat) : Rnd := match c with | 0 => .rne | 1 => .rtz | _ => .sr

def is16T (t : Nat) : Bool := t == 6 || t == 7
def isFp8T (t : Nat) : Bool := t == 4 || t == 5
def is8T (t : Nat) : Bool := isFp8T t || isMX t
def isSmallIntT (t : Nat) : Bool := t == 0 || t == 1
def isFloatResT (t : Nat) : Bool := t == 8 || t == 7 || t == 6 || t == 4 || t == 5

/-- The first bad bit of an arithmetic word by Table 04-8, or none where the word is accepted (R141). Reserved codes and
bits come first, then the combination field by field in bit order. -/
def awordBad (w : Nat) : Option Nat :=
  let a := awA w; let wt := awW w; let o := awO w; let p := awPrec w; let c := awCplx w; let r := awRnd w
  if dtypeReserved a then some 0
  else if dtypeReserved wt then some 5
  else if dtypeReserved o then some 10
  else if p = 3 then some 15
  else if c = 3 then some 17
  else if r = 3 then some 19
  else if bit w 23 then some 23
  else if p = 1 then
    if a ≠ 8 then some 0 else if wt ≠ 8 then some 5 else if o ≠ 8 && o ≠ 7 then some 10
    else if r ≠ 0 then some 19 else none
  else if p = 2 then
    if a ≠ 9 then some 0 else if wt ≠ 9 then some 5 else if o ≠ 9 && o ≠ 8 then some 10
    else if r ≠ 0 then some 19 else none
  else if isSmallIntT a then
    if !isSmallIntT wt then some 5 else if o ≠ 2 && o ≠ 1 then some 10
    else if c ≠ 0 then some 17 else if r = 2 then some 19 else none
  else if is16T a then
    if wt ≠ a then some 5 else if !isFloatResT o then some 10
    else if r = 2 && o == 8 then some 19 else none
  else if is8T a then
    if !is8T wt then some 5 else if !isFloatResT o then some 10
    else if c = 2 || (c = 1 && !(isFp8T a && isFp8T wt)) then some 17
    else if r = 2 && o == 8 then some 19 else none
  else some 0

/-- KD of a dense pass (Table 04-2). -/
def kdBase (a w : Nat) : Nat := if (a = 0x0E && w = 0x0E) || (a = 0 && w = 0) then 64 else 32

/-! ### Plain operands (R138) -/

/-- The `b` bits at bit position `pos` of a store. -/
def bitsAt (rd : Nat → Byte) (pos b : Nat) : Nat :=
  let n := (pos % 8 + b + 7) / 8
  bits (leNat ((List.range n).map fun i => rd (pos / 8 + i))) (pos % 8) b

/-- A plain operand: type, base, row stride in bytes, rows of the plane, positions per row. -/
structure Opnd where
  ty     : Nat
  base   : Nat
  stride : Nat
  rows   : Nat
  kk     : Nat
deriving DecidableEq, Repr

/-- Row bytes of `k` elements of type `t`. -/
def rowBytes (t k : Nat) : Nat := (k * dtypeBits t + 7) / 8

/-- Stride of the scale plane of an MX operand with `k` positions per row. -/
def scaleStride (k : Nat) : Nat := roundUp (ceilDiv k 32) 64

/-- Bytes of one plane of an operand, scale plane included. -/
def planeBytes (o : Opnd) : Nat := o.rows * o.stride + (if isMX o.ty then o.rows * scaleStride o.kk else 0)

/-- The span from the base to the last byte of the valid region (R240), both planes of a complex operand included. -/
def opndSpan (o : Opnd) (cplx : Bool) : Nat :=
  let one := if isMX o.ty then o.rows * o.stride + (o.rows - 1) * scaleStride o.kk + ceilDiv o.kk 32
             else (o.rows - 1) * o.stride + rowBytes o.ty o.kk
  if cplx then o.rows * o.stride + one else one

/-- The value of element (row, k) of component `c` (0 real plane, 1 imaginary plane). -/
def plainVal (rd : Nat → Byte) (o : Opnd) (c row k : Nat) : FV :=
  let base := o.base + c * o.rows * o.stride
  let v := decodeT o.ty (bitsAt rd (8 * (base + row * o.stride) + k * dtypeBits o.ty) (dtypeBits o.ty))
  if isMX o.ty then
    let sc := (rd (base + o.rows * o.stride + row * scaleStride o.kk + k / 32)).toNat
    if sc = 0xFF then .nan else v.scale ((sc : Int) - 127)
  else v

/-- Address of the scale byte of position `k` of a row of an MX operand. -/
def plainScaleAt (o : Opnd) (c row k : Nat) : Nat :=
  o.base + c * o.rows * o.stride + o.rows * o.stride + row * scaleStride o.kk + k / 32

/-- The bytes of `len` positions from `k0`, a multiple of 32, of one row of a plain operand, scales included (R166). -/
def plainReads (o : Opnd) (c row k0 len : Nat) : List (Nat × Nat) :=
  (o.base + c * o.rows * o.stride + row * o.stride + k0 * dtypeBits o.ty / 8, rowBytes o.ty len) ::
    (if isMX o.ty then [(plainScaleAt o c row k0, ceilDiv len 32)] else [])

/-- The scale bytes of those positions. -/
def plainScales (o : Opnd) (c row k0 len : Nat) : List Nat :=
  if isMX o.ty then (List.range (ceilDiv len 32)).map fun i => plainScaleAt o c row (k0 + 32 * i) else []

/-! ### Stored tiles (R184 to R191) -/

def up64 (x : Nat) : Nat := roundUp x 64

/-- A tile header as it lies (Table 05-1), with the address of the header. -/
structure TileHdr where
  addr   : Nat
  fmt    : Nat
  wtype  : Nat
  rows   : Nat
  klen   : Nat
  nblk   : Nat
  pbytes : Nat
  rsv    : Bool
deriving DecidableEq, Repr

/-- Address of the directory entry of tile (nt, kt). -/
def dirAddr (base kt_n nt kt : Nat) : Nat := base + 8 * (nt * kt_n + kt)

/-- The byte offset held in a directory entry. -/
def dirOffset (rd : Nat → Byte) (base kk nt kt : Nat) : Nat := bitsAt rd (8 * dirAddr base (ceilDiv kk 256) nt kt) 40

def tileHdr (rd : Nat → Byte) (base kk nt kt : Nat) : TileHdr :=
  let a := base + dirOffset rd base kk nt kt
  let h := leNat ((List.range 64).map fun i => rd (a + i))
  { addr := a, fmt := bits h 0 8, wtype := bits h 8 5, rows := bits h 16 9, klen := bits h 32 9,
    nblk := bits h 56 7, pbytes := bits h 64 32,
    rsv := bits h 13 3 != 0 || bits h 25 7 != 0 || bits h 41 7 != 0 || bits h 50 6 != 0 || bit h 63
           || bits h 96 416 != 0 }

/-- BS and BS24 of Table 05-3. -/
def blkBytes (t : Nat) : Nat := up64 (128 * dtypeBits t + if isMX t then 32 else 0)
def blkBytes24 (t : Nat) : Nat := up64 (64 * dtypeBits t + 128 + if isMX t then 32 else 0)

/-- PBYTES of a layout (Table 05-3). -/
def tilePBytes (fmt t r l nblk : Nat) : Nat :=
  let b := dtypeBits t
  let sc := if isMX t then up64 (r * ceilDiv l 32) else 0
  match fmt with
  | 1 => r * up64 ((2 * ceilDiv l 4 * b + 7) / 8) + up64 (r * ceilDiv (ceilDiv l 4) 2) + sc
  | 2 => 64 + nblk * blkBytes t
  | 3 => 64 + nblk * blkBytes24 t
  | _ => r * up64 ((l * b + 7) / 8) + sc

/-- The block bitmap of a block-sparse tile. -/
def tileBitmap (rd : Nat → Byte) (h : TileHdr) : Nat := bitsAt rd (8 * (h.addr + 64)) 64

def popcount (n x : Nat) : Nat := (bitsSet n x).length

def storedType (t : Nat) : Bool := t == 0 || t == 1 || t == 4 || t == 5 || t == 6 || t == 7 || isMX t
def tileFmtOk (f : Nat) : Bool := decide (f ≤ 3) || f == 0x80

/-- The address at which a tile's header or directory entry fails a check of R196, or none. -/
def tileBad (rd : Nat → Byte) (base nn kk wty nt kt : Nat) : Option Nat :=
  let da := dirAddr base (ceilDiv kk 256) nt kt
  let off := dirOffset rd base kk nt kt
  let h := tileHdr rd base kk nt kt
  if off % 64 ≠ 0 || bitsAt rd (8 * da + 40) 24 ≠ 0 then some da
  else if !tileFmtOk h.fmt || !storedType h.wtype || h.wtype ≠ wty || h.rsv
       || h.rows ≠ min 256 (nn - 256 * nt) || h.klen ≠ min 256 (kk - 256 * kt)
       || (if h.fmt = 2 || h.fmt = 3 then h.nblk ≠ popcount 64 (tileBitmap rd h) else h.nblk ≠ 0)
       || h.pbytes ≠ tilePBytes h.fmt h.wtype h.rows h.klen h.nblk then some h.addr
  else none

/-- Whether a format is 2:4 within its rows. -/
def is24 (fmt : Nat) : Bool := fmt == 1 || fmt == 3

/-- The byte address of metadata byte and the nibble of group `g`, given where the row's metadata begins. -/
def metaNib (rd : Nat → Byte) (at0 g : Nat) : Nat := bits (rd (at0 + g / 2)).toNat (4 * (g % 2)) 4

/-- Which kept value (0 or 1) of a group stands at position `i` of it (R190, R200): a repeated index drops the second. -/
def keptAt (nib i : Nat) : Option Nat :=
  if bits nib 0 2 = i then some 0 else if bits nib 2 2 = i then some 1 else none

/-- Where a tile keeps the row data of one place: values base address, row metadata address (2:4), position within the
stored row, and the address of the scale byte. None where the block is absent or dropped. -/
def tilePlace (rd : Nat → Byte) (h : TileHdr) (r p : Nat) : Option (Nat × Nat × Nat × Nat) :=
  let b := dtypeBits h.wtype
  let v0 := h.addr + 64
  let g := ceilDiv h.klen 4
  match h.fmt with
  | 1 =>
    let vs := up64 ((2 * g * b + 7) / 8)
    let m0 := v0 + h.rows * vs
    some (v0 + r * vs, m0 + r * ceilDiv g 2, p, m0 + up64 (h.rows * ceilDiv g 2) + r * ceilDiv h.klen 32 + p / 32)
  | 2 =>
    let bm := tileBitmap rd h
    let bi := 8 * (r / 32) + p / 32
    if bit bm bi then
      let a := h.addr + 128 + popcount bi bm * blkBytes h.wtype
      some (a + (r % 32) * 4 * b, 0, p % 32, a + 128 * b + r % 32)
    else none
  | 3 =>
    let bm := tileBitmap rd h
    let bi := 8 * (r / 32) + p / 32
    if bit bm bi then
      let a := h.addr + 128 + popcount bi bm * blkBytes24 h.wtype
      some (a + (r % 32) * 2 * b, a + 64 * b + (r % 32) * 4, p % 32, a + 64 * b + 128 + r % 32)
    else none
  | _ =>
    let vs := up64 ((h.klen * b + 7) / 8)
    some (v0 + r * vs, 0, p, v0 + h.rows * vs + r * ceilDiv h.klen 32 + p / 32)

/-- The value that a stored-tile array holds for W row `n` and position `k`; none where the tile holds none (R199). -/
def tileVal (rd : Nat → Byte) (base kk n k : Nat) : Option FV :=
  let h := tileHdr rd base kk (n / 256) (k / 256)
  let b := dtypeBits h.wtype
  match tilePlace rd h (n % 256) (k % 256) with
  | none => none
  | some (va, ma, p, sa) =>
    let code : Option Nat :=
      if is24 h.fmt then
        (keptAt (metaNib rd ma (p / 4)) (p % 4)).map fun j => bitsAt rd (8 * va + (2 * (p / 4) + j) * b) b
      else some (bitsAt rd (8 * va + p * b) b)
    code.map fun c =>
      let v := decodeT h.wtype c
      if isMX h.wtype then
        let sc := (rd sa).toNat
        if sc = 0xFF then .nan else v.scale ((sc : Int) - 127)
      else v

/-- The KD of the passes of a tile: twice the dense KD for a 2:4 format (R197). -/
def tileKd (aty wty fmt : Nat) : Nat := if is24 fmt then 2 * kdBase aty wty else kdBase aty wty

/-- Whether a pass over columns 32c.. of positions p0 .. p0 + kd - 1 of a tile spans absent blocks only (R198). -/
def passAbsent (rd : Nat → Byte) (h : TileHdr) (br p0 kd : Nat) : Bool :=
  (h.fmt == 2 || h.fmt == 3) &&
    (List.range (kd / 32)).all fun i => decide (h.klen ≤ p0 + 32 * i) || !bit (tileBitmap rd h) (8 * br + p0 / 32 + i)

/-- Offences of a tile (R200, R201): counts of repeated indices, indices beyond KLEN and blocks beyond the tile, each
with the lowest offending address. -/
structure Offence where
  count : Nat
  first : Option Nat
deriving DecidableEq, Repr

def Offence.zero : Offence := ⟨0, none⟩
def Offence.hit (o : Offence) (a : Nat) : Offence :=
  ⟨o.count + 1, match o.first with | none => some a | some b => some (min a b)⟩

structure Offences where
  dup : Offence
  rng : Offence
  blk : Offence
deriving DecidableEq, Repr

def Offences.zero : Offences := ⟨.zero, .zero, .zero⟩

/-- The offences of one metadata nibble at byte `a` for the group that starts at position `p0`. A second index equal to the first
is a repeated index only, whether or not it lies beyond KLEN (DESIGN CHOICE, log entry 228). -/
def nibOffence (klen p0 nib a : Nat) (o : Offences) : Offences :=
  let i0 := bits nib 0 2; let i1 := bits nib 2 2
  let o := if klen ≤ p0 + i0 then { o with rng := o.rng.hit a } else o
  if i1 = i0 then { o with dup := o.dup.hit a }
  else if klen ≤ p0 + i1 then { o with rng := o.rng.hit a } else o

/-- The offences of one tile added to a command's. -/
def tileOffences (rd : Nat → Byte) (h : TileHdr) (o : Offences) : Offences :=
  let b := dtypeBits h.wtype
  let o := if h.fmt = 2 || h.fmt = 3 then
      (bitsSet 64 (tileBitmap rd h)).foldl (fun o i =>
        if ceilDiv h.rows 32 ≤ i / 8 || ceilDiv h.klen 32 ≤ i % 8
        then { o with blk := o.blk.hit (h.addr + 64 + i / 8) } else o) o
    else o
  match h.fmt with
  | 1 =>
    let g := ceilDiv h.klen 4
    let m0 := h.addr + 64 + h.rows * up64 ((2 * g * b + 7) / 8)
    (List.range h.rows).foldl (fun o r => (List.range g).foldl (fun o j =>
      nibOffence h.klen (4 * j) (metaNib rd (m0 + r * ceilDiv g 2) j) (m0 + r * ceilDiv g 2 + j / 2) o) o) o
  | 3 =>
    let bm := tileBitmap rd h
    (bitsSet 64 bm).foldl (fun o i =>
      if ceilDiv h.rows 32 ≤ i / 8 || ceilDiv h.klen 32 ≤ i % 8 then o
      else
        let m0 := h.addr + 128 + popcount i bm * blkBytes24 h.wtype + 64 * b
        (List.range (min 32 (h.rows - 32 * (i / 8)))).foldl (fun o r =>
          (List.range (ceilDiv (min 32 (h.klen - 32 * (i % 8))) 4)).foldl (fun o j =>
            nibOffence h.klen (32 * (i % 8) + 4 * j) (metaNib rd (m0 + 4 * r) j) (m0 + 4 * r + j / 2) o) o) o) o
  | _ => o

/-- What the feed reads of positions `p0` to `p0 + len - 1` of row `r` of a tile, `p0` a multiple of 32 (R166, R191): values,
metadata and scale of each 32 positions whose block the tile holds. -/
def tileReads (rd : Nat → Byte) (h : TileHdr) (r p0 len : Nat) : List (Nat × Nat) :=
  let b := dtypeBits h.wtype
  (List.range (ceilDiv len 32)).flatMap fun i =>
    let n := min 32 (len - 32 * i)
    match tilePlace rd h r (p0 + 32 * i) with
    | none => []
    | some (va, ma, p, sa) =>
      (if is24 h.fmt then [(va + p / 2 * b / 8, (2 * ceilDiv n 4 * b + 7) / 8), (ma + p / 8, ceilDiv (ceilDiv n 4) 2)]
       else [(va + p * b / 8, (n * b + 7) / 8)]) ++ (if isMX h.wtype then [(sa, 1)] else [])

/-- The scale bytes among them. -/
def tileScales (rd : Nat → Byte) (h : TileHdr) (r p0 len : Nat) : List Nat :=
  if isMX h.wtype then (List.range (ceilDiv len 32)).filterMap fun i => (tilePlace rd h r (p0 + 32 * i)).map (·.2.2.2) else []

/-! ### Products and accumulation -/

/-- An accumulator: FP32 code, saturating INT32, or the FP64-grade pair (Table 04-9). -/
inductive Acc where
  | f (c : Nat)
  | i (x : Int)
  | d (blk : Int) (run : Nat)
deriving DecidableEq, Repr

/-- The exact sum of the products of a pass (R142, R143); a position that W does not hold is not multiplied (R199). The sum starts
at +0, so that a sum whose products are all -0 is +0 (DESIGN CHOICE, log entry 225: the spec gives no sign). -/
def passSum (as : List FV) (ws : List (Option FV)) : FV :=
  (as.zip ws).foldl (fun s p => match p.2 with | some w => s.add (p.1.mul w) | none => s) .zero

/-- The exact integer pass sum (R144). -/
def fvInt : FV → Int
  | .fin n m e => signedM n (m * 2 ^ e.toNat)
  | _ => 0

/-! ### The residue check (R169, R170) -/

/-- An integer modulo 7. -/
def res7 (x : Int) : Nat := (x % 7).toNat

/-- The residue of `x * 2^p`, by p mod 3. -/
def res7At (x : Int) (p : Int) : Nat := res7 (x * 2 ^ (p % 3).toNat)

/-- The residue of an exact number; an infinity or a NaN has none. -/
def FV.res7 : FV → Option Nat
  | .fin n m e => some (res7At (signedM n m) e)
  | _ => none

/-- The expected residue of a pass: the sum of the residues of the products that it forms. A position that takes no part adds
nothing (R169). -/
def passRes (as : List FV) (ws : List (Option FV)) : Nat :=
  (as.zip ws).foldl (fun s p => match p.2 with
    | some w => (s + p.1.res7.getD 0 * w.res7.getD 0) % 7
    | none => s) 0

/-- A saturating INT32 add, and whether it saturated (R144). -/
def satAdd32 (a b : Int) : Int × Nat :=
  let x := a + b
  if x > 2 ^ 31 - 1 then (2 ^ 31 - 1, 1) else if x < -(2 ^ 31) then (-(2 ^ 31), 1) else (x, 0)

/-- hi and lo of an FP32 element (R153). -/
def splitHi (x : FV) : FV := decodeF fmtBF16 (roundF fmtBF16 x)
def splitLo (x : FV) : FV := decodeF fmtBF16 (roundF fmtBF16 (x.add (splitHi x).neg))

/-- The block exponent of R155: least e with |x| < 2^e for every element; 0 for all zeros. -/
def sliceExp (xs : List FV) : Int :=
  match xs.foldl (fun (a : Option Int) v => match v with
    | .fin _ m e => if m = 0 then a else
        let l := (Nat.log2 m : Int) + e + 1
        match a with
        | none => some l
        | some b => some (max b l)
    | _ => a) none with
  | none => 0
  | some e => e

/-- Slice `i` of `x * 2^-e` (R155): bits 7i+1 to 7i+7 after the binary point, with the sign of x. -/
def sliceOf (e : Int) (i : Nat) : FV → Int
  | .fin n m ex =>
    let sh : Int := ex - e + 7 * ((i : Int) + 1)
    let t := if 0 ≤ sh then m * 2 ^ sh.toNat else m / 2 ^ (-sh).toNat
    signedM n (t % 128)
  | _ => 0

/-- The slice pairs (i, j) of R156 in the order of the passes: j = 0 to 5, i = 0 to 5 - j. -/
def slicePairs : List (Nat × Nat) :=
  (List.range 6).flatMap fun j => (List.range (6 - j)).map fun i => (i, j)

/-- Passes per product of a PREC code. -/
def precPasses (prec : Nat) : Nat := match prec with | 1 => 3 | 2 => 21 | _ => 1

/-- The exact pass sum with the error of a fault, in units of its last place. -/
def faultySum (f : Option FaultAt) (s : FV) : FV :=
  match f, s with
  | some (.sum d), .fin n m e => .add (.fin n m e) (.fin (decide (d < 0)) d.natAbs e)
  | _, s => s

/-- What one pass leaves of an element: its accumulator, the saturating adds, whether the residues agree, and whether the
duplicated adders do. -/
structure StepOut where
  acc     : Acc
  sats    : Nat
  sumOk   : Bool
  adderOk : Bool
deriving DecidableEq, Repr

/-- One pass `q` of a product, added to (or, negated, taken from) an accumulator, under its residue check (R142 to R144,
R153 to R157, R170). `f` is the fault, if any, that the array has at this element. -/
def accPass (prec : Nat) (isInt neg : Bool) (q : Nat) (as : List FV) (ws : List (Option FV)) (acc : Acc) (f : Option FaultAt) :
    StepOut :=
  let sg (v : FV) : FV := if neg then v.neg else v
  -- only the additions into the floating accumulators are duplicated
  let adderOk := f != some .adder
  let off : Int := match f with | some (.acc d) => d | _ => 0
  match acc with
  | .f c =>
    let (as, ws) := if prec = 1 then
        match q with
        | 0 => (as.map splitHi, ws.map fun w => w.map splitLo)
        | 1 => (as.map splitLo, ws.map fun w => w.map splitHi)
        | _ => (as.map splitHi, ws.map fun w => w.map splitHi)
      else (as, ws)
    let s := faultySum f (passSum as ws)
    ⟨.f (f32add c (roundF fmtFP32 (sg s))), 0, match s.res7 with | some r => r == passRes as ws | none => true, adderOk⟩
  | .i x =>
    let p := fvInt (faultySum f (passSum as ws))
    let (p, e) : Int × Int := if isInt && neg then (-p, -(passRes as ws)) else (p, passRes as ws)
    let (y, n) := satAdd32 x (p + off)
    ⟨.i y, n, res7 p == res7 e && res7 (x + p + off) == res7 (x + e), true⟩
  | .d blk run =>
    let wv := ws.map fun w => w.getD .zero
    let ea := sliceExp as
    let ew := sliceExp wv
    let (i, j) := slicePairs.getD q (0, 0)
    let sa := as.map (sliceOf ea i)
    let sw := wv.map (sliceOf ew j)
    let p := fvInt (faultySum f (.ofInt ((sa.zip sw).map fun t => t.1 * t.2).sum))
    let e : Int := ((sa.zip sw).map fun t => (res7 t.1 * res7 t.2 : Nat)).sum
    let (p, e) := if neg then (-p, -e) else (p, e)
    let sh := 7 * (5 - i - j)
    let b := blk + p * 2 ^ sh + off
    let ok := res7 p == res7 e && res7 b == res7 (blk + res7At e sh)
    if q + 1 < 21 then ⟨.d b run, 0, ok, true⟩
    else if (as.any fun v => !v.isFinite) || (wv.any fun v => !v.isFinite) then ⟨.d 0 (canonNaN fmtFP64), 0, ok, adderOk⟩
    else ⟨.d 0 (roundF fmtFP64 ((f64 run).add ((FV.ofInt b).scale (ea + ew - 49)))), 0, ok, adderOk⟩

/-- The value an accumulator holds. -/
def Acc.val : Acc → FV
  | .f c => f32 c
  | .i x => .ofInt x
  | .d _ r => f64 r

/-- Difference of two accumulators, one RNE rounding in their type (R161). -/
def Acc.sub : Acc → Acc → Acc
  | .f a, .f b => .f (f32sub a b)
  | .d _ a, .d _ b => .d 0 (roundF fmtFP64 ((f64 a).add (f64 b).neg))
  | a, _ => a

/-- The products of a K-block (R160, R161): per product, the accumulator it adds to, the A and W components (2: the
pre-sum), and whether it is negated. -/
def products (cplx : Nat) : List (Nat × Nat × Nat × Bool) :=
  match cplx with
  | 1 => [(0, 0, 0, false), (1, 1, 0, false), (0, 1, 1, true), (1, 0, 1, false)]
  | 2 => [(0, 0, 0, false), (1, 1, 1, false), (2, 2, 2, false)]
  | _ => [(0, 0, 0, false)]

/-- RP of Table 04-9. -/
def rpOf (prec cplx : Nat) : Nat :=
  match cplx with
  | 1 => if prec = 2 then 128 else 256
  | 2 => if prec = 2 then 64 else 128
  | _ => if prec = 2 then 256 else 512

/-- The result components after the last block (R161 for the three-product form). -/
def accResult (cplx : Nat) (as : List Acc) : List Acc :=
  match cplx, as with
  | 2, [p1, p2, p3] => [p1.sub p2, (p3.sub p1).sub p2]
  | _, as => as

/-- Codes of a real and an imaginary part added or subtracted in the accumulator type, `n` negating the second. -/
def cAdd (prec : Nat) (n : Bool) (a b : Nat) : Nat :=
  let f := if prec = 2 then fmtFP64 else fmtFP32
  let y := decodeF f b
  roundF f ((decodeF f a).add (if n then y.neg else y))

/-- Splits of a complex C input over P1, P2 and P3, the sums P1 - P2 and (P3 - P1) - P2 of which are C's two parts, but for
rounding: P2 is 0, the imaginary part negated, what the sum of the parts loses, the real part negated, or half of it. -/
def cSplits (prec cr ci : Nat) : List (List Nat) :=
  let add := cAdd prec false
  let sub := cAdd prec true
  let neg (x : Nat) : Nat := sub 0 x
  let p := add cr ci
  let f := if prec = 2 then fmtFP64 else fmtFP32
  let half := roundF f ((decodeF f cr).scale (-1))
  [[cr, 0, p], [sub cr ci, neg ci, sub cr ci], [cr, sub (sub p cr) ci, p], [0, neg cr, sub ci cr], [half, neg half, ci]]

/-- Start of the accumulators of one element (R146): zeros, or the C input. In the three-product form a complex C input starts
the real and the imaginary sum, P1 - P2 and (P3 - P1) - P2; how it is split over the three is not stated: a free split that
gives those two sums, or, where the free value gives others, the first of `cSplits` that does. Where none does (a NaN or an
infinity in one part alone), it is the first. -/
def accStart (prec cplx : Nat) (isInt cin : Bool) (cr ci : Nat) : List Acc :=
  let mk (c : Nat) : Acc := if isInt then .i (toSigned 32 c) else if prec = 2 then .d 0 c else .f c
  match cplx with
  | 1 => if cin then [mk cr, mk ci] else [mk 0, mk 0]
  | 2 => if cin then
        let free := (List.range 3).map fun p => mk (Config.threeProductStart p cr ci % 2 ^ (if prec = 2 then 64 else 32))
        let all := free :: (cSplits prec cr ci).map (·.map mk)
        (all.find? fun x => decide (accResult 2 x = [mk cr, mk ci])).getD [mk cr, mk 0, mk (cAdd prec false cr ci)]
      else [mk 0, mk 0, mk 0]
  | _ => if cin then [mk cr] else [mk 0]

/-- A result element converted to OTYPE (R148 to R152). -/
def convOut (oty : Nat) (shift : Int) (rnd : Rnd) (sat : Bool) (r : Nat) (v : FV) : Nat × ConvFlags :=
  let v := v.scale shift
  if isIntT oty then encodeInt (dtypeBits oty) rnd r v else encodeF (dtypeFmt oty) rnd sat r v

/-- The feed's pre-sum in the operand's own type (R161). -/
def preSum (ty : Nat) (a b : FV) : FV := decodeF (dtypeFmt ty) (roundF (dtypeFmt ty) (a.add b))

end Sys2Proof.Machine
end

