-- ==== Sys2Proof/Machine/Functions.lean ====
section
/-! DEFINITION. The functions of the vector unit and of the Postilions (R74, R162, R163, R205): each value is formed in fixed
point far beyond FP32, rounded once, and then moved by a free value of at most two units in the last place, which is all that
the spec bounds. -/
namespace Sys2Proof.Machine

/-! ### Constants and the exponential in fixed point -/

/-- Fraction bits. -/
def fixP : Nat := 320

/-- ln 2 = sum of 1 / (k 2^k). -/
def fixLn2 : Nat := ((List.range 330).map fun k => 2 ^ fixP / ((k + 1) * 2 ^ (k + 1))).sum

/-- arctan (1 / n). -/
def fixAtan (n : Nat) : Int :=
  ((List.range 140).map fun k => signedM (k % 2 == 1) (2 ^ fixP / ((2 * k + 1) * n ^ (2 * k + 1)))).sum

/-- Pi, by 16 arctan (1/5) - 4 arctan (1/239). -/
def fixPi : Nat := (16 * fixAtan 5 - 4 * fixAtan 239).toNat

/-- 2 sqrt (2 / pi). -/
def fixGelu : Nat := floorRoot 2 (8 * 2 ^ (3 * fixP) / fixPi) (fixP + 3) 0

/-- The series of e^t for 0 <= t < 1, `t` in fixed point. -/
def fixExp (t : Nat) : Nat :=
  ((List.range 80).foldl (fun (a : Nat × Nat) k => (a.1 * t / ((k + 1) * 2 ^ fixP), a.2 + a.1)) (2 ^ fixP, 0)).2

/-- e^x for `x` in fixed point, its last bit sticky. -/
def expFix (x : Int) : FV :=
  let i := x / (fixLn2 : Int)
  .fin false (2 * fixExp (x - i * fixLn2).toNat + 1) (i - fixP - 1)

/-- An FP32 value in fixed point, exact where it is below 2^10. -/
def toFix : FV → Int
  | .fin n m e => if 0 ≤ e + fixP then signedM n (m * 2 ^ (e + fixP).toNat) else signedM n (m / 2 ^ (-(e + fixP)).toNat)
  | _ => 0

/-- A magnitude that rounds to zero, one that rounds beyond every format, and a value just below a magnitude. -/
def fvTiny (neg : Bool) : FV := .fin neg 1 (-2000)
def fvHuge : FV := .fin false 1 2000
def fvBelow (neg : Bool) (m : Nat) (e : Int) : FV := .fin neg (m * 2 ^ 400 - 1) (e - 400)

/-- Whether a magnitude is 2^9 or more. -/
def fvFar (x : FV) : Bool := !x.abs.lt (.fin false 1 9)

/-! ### The functions of Table 04-11 -/

def fvExp (x : FV) : FV :=
  match x with
  | .nan => .nan
  | .inf n => if n then .zero else .inf false
  | .fin n _ _ => if fvFar x then (if n then fvTiny false else fvHuge) else if x.isZero then .one else expFix (toFix x)

def fvExp2 (x : FV) : FV :=
  match x with
  | .nan => .nan
  | .inf n => if n then .zero else .inf false
  | .fin n _ _ =>
    if fvFar x then (if n then fvTiny false else fvHuge)
    else
      let t := toFix x
      let i := t / 2 ^ fixP
      let f := (t - i * 2 ^ fixP).toNat
      if f = 0 then .fin false 1 i else .fin false (2 * fixExp (f * fixLn2 / 2 ^ fixP) + 1) (i - fixP - 1)

/-- log2 of a positive number: the exponent, and log2 of the significand by 2 artanh ((y - 1) / (y + 1)) / ln 2. -/
def fvLog2 (m : Nat) (e : Int) : FV :=
  let k := Nat.log2 m
  if m = 2 ^ k then .ofInt (k + e)
  else
    let z := (m - 2 ^ k) * 2 ^ fixP / (m + 2 ^ k)
    let z2 := z * z / 2 ^ fixP
    let s := ((List.range 110).foldl (fun (a : Nat × Nat) i => (a.1 * z2 / 2 ^ fixP, a.2 + a.1 / (2 * i + 1))) (z, 0)).2
    let t : Int := (k + e) * 2 ^ fixP + (2 * s * 2 ^ fixP / fixLn2 : Nat)
    .fin (decide (t < 0)) (2 * t.natAbs + 1) (-(fixP : Int) - 1)

/-- Square root of a positive number: at least 128 bits of it, and a sticky bit. -/
def fvSqrt (m : Nat) (e : Int) : FV :=
  let sh := 256 + (e % 2).toNat
  let v := m * 2 ^ sh
  let r := floorRoot 2 v (Nat.log2 v / 2 + 1) 0
  .fin false (2 * r + if r * r = v then 0 else 1) ((e - sh) / 2 - 1)

/-- Reciprocal square root of a positive number. -/
def fvRsqrt (m : Nat) (e : Int) : FV :=
  let m := m * 2 ^ (e % 2).toNat
  let e := e - e % 2
  let v := 2 ^ 512 / m
  let r := floorRoot 2 v 257 0
  .fin false (2 * r + if r * r * m = 2 ^ 512 then 0 else 1) (-e / 2 - 257)

/-- 1 / (1 + e^-x) as the factor of `y`, for |x| < 2^9. -/
def fvLogistic (y : FV) (x : Int) : FV := fvDiv y (FV.one.add (expFix (-x)))

def fvSigmoid (x : FV) : FV :=
  match x with
  | .nan => .nan
  | .inf n => if n then .zero else .one
  | .fin n _ _ => if fvFar x then (if n then fvTiny false else fvBelow false 1 0) else fvLogistic .one (toFix x)

def fvTanh (x : FV) : FV :=
  match x with
  | .nan => .nan
  | .inf n => .fin n 1 0
  | .fin n _ _ =>
    if x.isZero then x
    else if fvFar x then fvBelow n 1 0
    else
      let q := expFix (-2 * (toFix x).natAbs)
      match fvDiv (FV.one.add q.neg) (FV.one.add q) with
      | .fin _ m e => .fin n m e
      | y => y

/-- x / (1 + e^-x). -/
def fvSilu (x : FV) : FV :=
  match x with
  | .fin n m e =>
    if x.isZero then x
    else if fvFar x then (if n then fvTiny true else fvBelow false m e)
    else fvLogistic x (toFix x)
  | x => x

/-- The tanh form of GELU, x / 2 * (1 + tanh (sqrt (2/pi) (x + 0.044715 x^3))), which is x / (1 + e^-2u) for the argument u of
its tanh (PRESUMED, log entry 171: the spec names the form only). -/
def fvGelu (x : FV) : FV :=
  match x with
  | .fin n m e =>
    if x.isZero then x
    else if !x.abs.lt (.fin false 1 4) then (if n then fvTiny true else fvBelow false m e)
    else
      let t := toFix x
      let u := t + 44715 * (t * t / 2 ^ fixP * t / 2 ^ fixP) / 1000000
      fvLogistic x (u * fixGelu / 2 ^ fixP)
  | x => x

/-! ### FP32 codes within two units of the rounded value -/

/-- An FP32 code moved by `d` mod 5, less 2, units in the last place, within the numbers and the infinities. -/
def ulpShift (d c : Nat) : Nat :=
  if d % 5 = 2 then c
  else
    let k : Int := signedM (bit c 31) (c % 2 ^ 31) + (d % 5 : Nat) - 2
    let k := max (-0x7F800000) (min 0x7F800000 k)
    if k < 0 then 2 ^ 31 + k.natAbs else k.natAbs

/-- A function's value as the device gives it (R74, R163): a NaN or an infinity as it is, a number rounded once and moved by the
free value `d`. -/
def fnCode (d : Nat) (v : FV) : Nat := if v.isFinite then ulpShift d (roundF fmtFP32 v) else roundF fmtFP32 v

/-- Function `v` of Table 06-9 at a value; none where the function has no value there: the logarithm of a number that is not
positive, the square root of a negative one, a reciprocal at zero, SiLU at minus infinity. GELU has the number 0x100 here. -/
def fnValue (v : Nat) (x : FV) : Option FV :=
  if x.isNaN then some .nan
  else match v with
  | 0x11 => some (fvExp2 x)
  | 0x12 => match x with
    | .fin n m e => if n || m = 0 then none else some (fvLog2 m e)
    | .inf n => if n then none else some x
    | .nan => some .nan
  | 0x13 => if x.isZero then none else some (fvDiv .one x)
  | 0x14 => match x with
    | .fin n m e => if m = 0 then some x else if n then none else some (fvSqrt m e)
    | .inf n => if n then none else some x
    | .nan => some .nan
  | 0x15 => match x with
    | .fin n m e => if n || m = 0 then none else some (fvRsqrt m e)
    | .inf n => if n then none else some .zero
    | .nan => some .nan
  | 0x16 => some (fvSigmoid x)
  | 0x17 => some (fvTanh x)
  | 0x18 => if x = .inf true then none else some (fvSilu x)
  | _ => if x = .inf true then none else some (fvGelu x)

/-- The FP32 code of function `v` at FP32 code `x`; a free value where the function has none. -/
def fnF32 (v x : Nat) : Nat :=
  match fnValue v (f32 x) with
  | some y => fnCode (Config.vectorUlps v x) y
  | none =>
    let r := Config.vectorPole v x % 2 ^ 32
    if (f32 r).isNaN then canonNaN fmtFP32 else r

/-- The Postilion's exponential and quotient (R74). -/
def routeExp (x : Nat) : Nat := fnCode (Config.routeExpUlps x) (fvExp (f32 x))
def routeDiv (x y : Nat) : Nat := fnCode (Config.routeDivUlps x y) (fvDiv (f32 x) (f32 y))

end Sys2Proof.Machine
end

