-- ==== Sys2Proof/Machine/Expert.lean ====
section
/-! DEFINITION. Whole-command arithmetic of one Coach: gated experts (R203 to R211, R222), the compressor (R192 to R194)
and the vector unit (R162 to R165, R224), as functions of the bytes that the Coach store holds. -/
namespace Sys2Proof.Machine

/-- A W operand: plain (R138) or a stored-tile array (R185). -/
structure WOpnd where
  stored : Bool
  op     : Opnd
deriving DecidableEq, Repr

def wVal (rd : Nat → Byte) (w : WOpnd) (c n k : Nat) : Option FV :=
  if w.stored then tileVal rd w.op.base w.op.kk n k else some (plainVal rd w.op c n k)

/-- The runs of K positions of the passes of tile (nt256, kt): first position, length, and whether the pass spans absent
blocks only, for the 32 columns from `n0`. -/
def tilePasses (rd : Nat → Byte) (aty : Nat) (w : WOpnd) (n0 kt : Nat) : List (Nat × Nat × Bool) :=
  let l := min 256 (w.op.kk - 256 * kt)
  let h := tileHdr rd w.op.base w.op.kk (n0 / 256) kt
  let kd := if w.stored then tileKd aty w.op.ty h.fmt else kdBase aty w.op.ty
  (List.range (ceilDiv l kd)).map fun b =>
    (256 * kt + b * kd, min kd (l - b * kd), w.stored && passAbsent rd h (n0 % 256 / 32) (b * kd) kd)

/-- All K passes of the 32 columns from `n0`, ascending (R132). -/
def colPasses (rd : Nat → Byte) (aty : Nat) (w : WOpnd) (n0 : Nat) : List (Nat × Nat × Bool) :=
  (List.range (ceilDiv w.op.kk 256)).flatMap fun kt => tilePasses rd aty w n0 kt

/-- What the feed reads of row `n` of a W operand for `len` positions from `k0` (R166), and the scale bytes among it. -/
def wReads (rd : Nat → Byte) (w : WOpnd) (c n k0 len : Nat) : List (Nat × Nat) :=
  if w.stored then tileReads rd (tileHdr rd w.op.base w.op.kk (n / 256) (k0 / 256)) (n % 256) (k0 % 256) len
  else plainReads w.op c n k0 len
def wScales (rd : Nat → Byte) (w : WOpnd) (c n k0 len : Nat) : List Nat :=
  if w.stored then tileScales rd (tileHdr rd w.op.base w.op.kk (n / 256) (k0 / 256)) (n % 256) (k0 % 256) len
  else plainScales w.op c n k0 len

/-- The FP32 code of an accumulator (R222: an INT32 sum converts with one RNE rounding). -/
def accF32 : Acc → Nat
  | .f c => c
  | .i x => roundF fmtFP32 (.ofInt x)
  | .d _ r => roundF fmtFP32 (f64 r)

/-- ReLU, SiLU and GELU of Table 05-5 on FP32 codes; SiLU and GELU by R163. ReLU of -0.0 is -0.0 (DESIGN CHOICE, log entry 230:
max(g, 0) does not say which of two equal zeros). -/
def actF32 (act x : Nat) : Nat :=
  if (f32 x).isNaN then canonNaN fmtFP32
  else match act with
    | 1 => if (f32 x).lt .zero then 0 else x
    | 0 => fnF32 0x18 x
    | _ => fnF32 0x100 x

/-- The largest of FP32 magnitudes, NaN above every number. -/
def maxMag (xs : List Nat) : FV :=
  xs.foldl (fun a x => let v := (f32 x).abs; if a.isNaN then a else if v.isNaN then v else if a.lt v then v else a) .zero

/-- The predictor block (Table 05-4). -/
structure Pred where
  mode : Nat
  act  : Nat
  rank : Nat
  bmin : Nat
  bmax : Nat
  tau  : Nat
  taus : Nat
  taup : Nat
  p    : Nat
  q    : Nat
  shadow : Nat
deriving DecidableEq, Repr

def predOf (rd : Nat → Byte) (a : Nat) : Pred :=
  let f (n k : Nat) := bitsAt rd (8 * (a + n)) k
  { mode := f 0 2, act := bits (rd a).toNat 2 2, rank := 16 * 2 ^ f 1 3, bmin := f 2 12, bmax := f 4 12, tau := f 8 32,
    taus := f 12 32, taup := f 16 32, p := f 24 64, q := f 32 64, shadow := f 40 64 }

/-- The first bad byte of a predictor block (R204), its fields in ascending offset. -/
def predBad (rd : Nat → Byte) (a aty : Nat) : Option Nat :=
  let p := predOf rd a
  let f (n k : Nat) := bitsAt rd (8 * (a + n)) k
  let fin (x : Nat) := (f32 x).isFinite
  if bits (rd a).toNat 4 4 ≠ 0 || p.act = 3 || (isIntT aty && decide (2 ≤ p.mode)) then some 0
  else if 4 ≤ f 1 8 then some 1
  else if f 2 16 / 4096 ≠ 0 || decide (p.bmax < p.bmin) then some 2
  else if f 4 16 / 4096 ≠ 0 || p.bmax = 0 || decide (2048 < p.bmax) then some 4
  else if f 6 16 ≠ 0 then some 6
  else if !fin p.tau || (f32 p.tau).lt .zero then some 8
  else if p.mode = 2 && (!fin p.taus || (f32 p.taus).lt .zero || (f32 p.tau).lt (f32 p.taus)) then some 12
  else if 2 ≤ p.mode && !fin p.taup then some 16
  else if f 20 32 ≠ 0 then some 20
  else if 2 ≤ p.mode && p.p % 64 ≠ 0 then some 24
  else if 2 ≤ p.mode && p.q % 64 ≠ 0 then some 32
  else if p.mode = 2 && p.shadow % 64 ≠ 0 then some 40
  else if f 48 64 ≠ 0 || f 56 64 ≠ 0 then some 48
  else none

/-- The counts of a sparsity report that a gated expert adds (Table 05-7). -/
structure PredCounts where
  active  : Nat
  skipped : Nat
  madeup  : Nat
  lost    : Nat
  tau     : Nat
deriving DecidableEq, Repr

def PredCounts.zero : PredCounts := ⟨0, 0, 0, 0, 0⟩
def PredCounts.add (a b : PredCounts) : PredCounts :=
  ⟨a.active + b.active, a.skipped + b.skipped, a.madeup + b.madeup, a.lost + b.lost, a.tau + b.tau⟩

/-- A row of the chunk of a GEXPERT, as far as its steps have gone (R205 to R208): u in BF16, the scores, the blocks whose
gate is computed by plan, the FP32 gates of each block computed, the shadow magnitudes, the blocks made up and those whose up and
down projections run. -/
structure ExpRow where
  u     : List Nat
  score : List FV
  pset  : List Nat
  gate  : List (Nat × List Nat)
  shade : List (Nat × FV)
  made  : List Nat
  runs  : List Nat
deriving DecidableEq, Repr

/-- Blocks by descending score, the lower index first among equals; NaN scores last. -/
def rankBlocks (scores : List FV) : List Nat :=
  let ix := (List.range scores.length).map fun j => (j, nth scores j .zero)
  (ix.mergeSort fun a b =>
    if a.2.isNaN then b.2.isNaN && decide (a.1 ≤ b.1)
    else if b.2.isNaN then true
    else if b.2.lt a.2 then true else if a.2.lt b.2 then false else decide (a.1 ≤ b.1)).map (·.1)

/-- The predicted set of R207. -/
def predictedSet (pr : Pred) (scores : List FV) : List Nat :=
  let ranked := rankBlocks scores
  let above := ranked.filter fun j => (f32 pr.taup).lt (nth scores j .zero)
  if pr.bmax < above.length then above.take pr.bmax
  else if above.length < pr.bmin then ranked.take pr.bmin else above

/-- A block of h in ATYPE (R222): its element codes, its scale code where ATYPE is an MX type, and what the conversion counts. -/
def hBlock (aw : Nat) (vs : List Nat) : List Nat × Option Nat × ConvFlags :=
  let ty := awA aw
  let fv := vs.map f32
  let sc := mxScaleCode ty fv
  let es := fv.map fun v =>
    if isMX ty then mxElement ty sc (rndOf (awRnd aw)) 0 v else convOut ty 0 (rndOf (awRnd aw)) (awSat aw) 0 v
  (es.map (·.1), if isMX ty then some sc else none, es.foldl (fun a e => a.add e.2) .zero)

/-- The MXFP8 E4M3 form of row `r` of A for the shadow gate where A is neither FP8 nor MX (R208). -/
def shadowRow (rd : Nat → Byte) (x : Opnd) (r : Nat) : Nat → FV := fun k =>
  if isMX x.ty || isFp8T x.ty then plainVal rd x 0 r k
  else
    let b := k / 32
    let blk := (List.range (min 32 (x.kk - 32 * b))).map fun i => plainVal rd x 0 r (32 * b + i)
    let sc := mxScaleCode 0x0A blk
    if sc = 0xFF then .nan
    else (decodeT 0x0A (mxElement 0x0A sc .rne 0 (plainVal rd x 0 r k)).1).scale ((sc : Int) - 127)

/-- The gate magnitude of a block (R205), from its FP32 gates. -/
def gateMag (act : Nat) (g : List Nat) : FV := maxMag (g.map (actF32 act))

def ExpRow.gateOf (x : ExpRow) (j : Nat) : List Nat := ((x.gate.find? fun g => g.1 == j).map (·.2)).getD []
def ExpRow.shadeOf (x : ExpRow) (j : Nat) : FV := ((x.shade.find? fun g => g.1 == j).map (·.2)).getD .nan

/-- A row before its first step: where nothing is predicted, every block is planned. -/
def expRow0 (pr : Pred) (nb : Nat) : ExpRow := ⟨[], [], if 2 ≤ pr.mode then [] else List.range nb, [], [], [], []⟩

/-- The predicted set, once z is known (R207), and its counts. -/
def ExpRow.predict (pr : Pred) (nb : Nat) (x : ExpRow) : ExpRow × PredCounts :=
  let p := predictedSet pr x.score
  ({ x with pset := p }, ⟨p.length, nb - p.length, 0, 0, 0⟩)

/-- The blocks made up, once the shadow gates are known (R208), and LOST_EST (R210: 2 TAU_S - TAU < m' <= TAU_S). -/
def ExpRow.makeUp (pr : Pred) (nb : Nat) (x : ExpRow) : ExpRow × PredCounts :=
  let skipped := (List.range nb).filter fun j => !x.pset.contains j
  let made := skipped.filter fun j => (f32 pr.taus).lt (x.shadeOf j)
  let band := ((f32 pr.taus).scale 1).add (f32 pr.tau).neg
  let lost := skipped.filter fun j => (x.shadeOf j).le (f32 pr.taus) && band.lt (x.shadeOf j)
  ({ x with made := made }, ⟨0, 0, made.length, lost.length, 0⟩)

/-- The blocks whose up and down projections run, once every gate is known: the tau rule (R205, R206), and TAU_SKIPPED. A block
whose m_j is NaN runs (DESIGN CHOICE, log entry 229: NaN is neither at least tau nor below it). -/
def ExpRow.tauRule (pr : Pred) (nb : Nat) (x : ExpRow) : ExpRow × PredCounts :=
  let computed := (List.range nb).filter fun j => x.pset.contains j || x.made.contains j
  let runs := computed.filter fun j => pr.mode == 0 || !(gateMag pr.act (x.gateOf j)).lt (f32 pr.tau)
  ({ x with runs := runs }, ⟨0, 0, 0, 0, computed.length - runs.length⟩)

/-! ### The compressor -/

/-- Codes packed at `b` bits each, least significant first, into `n` bytes. -/
def packCodes (b n : Nat) (cs : List Nat) : List Byte := leBytes n (cs.foldr (fun c a => c % 2 ^ b + 2 ^ b * a) 0)

def padTo (m : Nat) (bs : List Byte) : List Byte := bs ++ List.replicate (roundUp bs.length m - bs.length) 0

/-- The rank key of an element in a 2:4 group (R192): NaN above every number, then magnitude. -/
def keepBefore (t a b : Nat) : Bool :=
  let x := (decodeT t a).abs; let y := (decodeT t b).abs
  if x.isNaN then !y.isNaN else if y.isNaN then false else y.lt x

/-- The two positions kept of a group of codes, ascending (R192); a group of one takes a free second index. -/
def keepTwo (t : Nat) (g : List Nat) : Nat × Nat :=
  let best (ex : List Nat) : Option Nat := (List.range g.length).foldl (fun o i =>
    if ex.contains i then o else match o with
      | none => some i
      | some j => if keepBefore t (nth g i 0) (nth g j 0) then some i else some j) none
  match best [] with
  | none => (0, Config.loneGroupIndex % 4)
  | some i => match best [i] with
    | none => (i, Config.loneGroupIndex % 4)
    | some j => (min i j, max i j)

def codeZero (t c : Nat) : Bool := (decodeT t c).isZero

/-- One row in 2:4 form, of which `valid` positions lie within the tile: kept codes, metadata nibbles, groups that lost a
non-zero element. A group wholly beyond the tile holds zeros. -/
def row24 (t valid : Nat) (cs : List Nat) : List Nat × List Nat × Nat :=
  let gs := (List.range (ceilDiv cs.length 4)).map fun g => (cs.drop (4 * g)).take (min 4 (valid - 4 * g))
  let two (g : List Nat) : Nat × Nat := if g.isEmpty then (0, 0) else keepTwo t g
  (gs.flatMap fun g => [nth g (two g).1 0, nth g (two g).2 0], gs.map fun g => (two g).1 + 4 * (two g).2,
   (gs.filter fun g => (List.range g.length).any fun p => p != (two g).1 && p != (two g).2 && !codeZero t (nth g p 0)).length)

/-- A compressed tile: format, NBLK, payload, pruned groups, and whether it fell back. -/
structure TileOut where
  fmt     : Nat
  nblk    : Nat
  payload : List Byte
  pruned  : Nat
  fell    : Bool
deriving DecidableEq, Repr

/-- An element's code as a Coach writes it: a NaN is the canonical one of its type (R139). -/
def canonElem (t c : Nat) : Nat := if (decodeT t c).isNaN then canonNaN (dtypeFmt t) else c

/-- A tile of element codes (rows of codes) and scale bytes per row and 32-block, in layout `req` (R189, R192 to R194). -/
def compressTile (t req : Nat) (rows : List (List Nat)) (scales : List (List Byte)) (klen : Nat) : TileOut :=
  let b := dtypeBits t
  let r := rows.length
  let scPlane := if isMX t then padTo 64 scales.flatten else []
  let dense := (rows.flatMap fun cs => padTo 64 (packCodes b ((klen * b + 7) / 8) cs)) ++ scPlane
  let blkElems (br bk : Nat) : List (List Nat) := (List.range 32).map fun i => (List.range 32).map fun k =>
    nth (nth rows (32 * br + i) []) (32 * bk + k) 0
  let present := (List.range 64).filter fun i => decide (i / 8 < ceilDiv r 32) && decide (i % 8 < ceilDiv klen 32)
    && (blkElems (i / 8) (i % 8)).any fun cs => cs.any fun c => !codeZero t c
  let bitmap := padTo 64 (leBytes 8 ((present.map fun i => 2 ^ i).sum))
  let blkSc (i : Nat) : List Byte := if isMX t then (List.range 32).map fun q => nth (nth scales (32 * (i / 8) + q) []) (i % 8) 0
    else []
  let r24 := rows.map (row24 t klen)
  let out : TileOut := match req with
    | 1 =>
      let g := ceilDiv klen 4
      ⟨1, 0, (r24.flatMap fun x => padTo 64 (packCodes b ((2 * g * b + 7) / 8) x.1))
        ++ padTo 64 (r24.flatMap fun x => packCodes 4 (ceilDiv g 2) x.2.1) ++ scPlane, (r24.map (·.2.2)).sum, false⟩
    | 2 => ⟨2, present.length, bitmap ++ present.flatMap fun i =>
        padTo 64 ((blkElems (i / 8) (i % 8)).flatMap (packCodes b (4 * b)) ++ blkSc i), 0, false⟩
    | 3 =>
      let blk (i : Nat) := (blkElems (i / 8) (i % 8)).mapIdx fun q cs =>
        row24 t (if 32 * (i / 8) + q < r then min 32 (klen - 32 * (i % 8)) else 0) cs
      ⟨3, present.length, bitmap ++ present.flatMap fun i =>
        padTo 64 ((blk i).flatMap (fun x => packCodes b (2 * b) x.1) ++ (blk i).flatMap (fun x => packCodes 4 4 x.2.1)
          ++ blkSc i), (present.map fun i => ((blk i).map (·.2.2)).sum).sum, false⟩
    | _ => ⟨0, 0, dense, 0, false⟩
  if dense.length < out.payload.length then ⟨0x80, 0, dense, 0, true⟩ else out

/-- The bytes of a stored tile, header first, padded to 64 (R185, R186). -/
def tileBytes (t req r klen : Nat) (o : TileOut) : List Byte :=
  padTo 64 (leBytes 1 o.fmt ++ leBytes 1 t ++ leBytes 2 r ++ leBytes 2 klen ++ leBytes 1 req ++ leBytes 1 o.nblk
    ++ leBytes 4 o.payload.length) ++ padTo 64 o.payload

/-- The worst case of R223: directory and, per tile, 64 bytes and the dense payload, each rounded up. -/
def compressWorst (t nn kk : Nat) : Nat :=
  let nts := ceilDiv nn 256; let kts := ceilDiv kk 256
  up64 (8 * nts * kts) + ((List.range nts).map fun nt => ((List.range kts).map fun kt =>
    64 + up64 (tilePBytes 0 t (min 256 (nn - 256 * nt)) (min 256 (kk - 256 * kt)) 0)).sum).sum

/-- The whole stored-tile array of a compress command, the tiles pruned and fallen back. -/
def compressArray (rd : Nat → Byte) (o : Opnd) (req : Nat) : List Byte × Nat × Nat :=
  let nts := ceilDiv o.rows 256; let kts := ceilDiv o.kk 256
  let tiles := (List.range nts).flatMap fun nt => (List.range kts).map fun kt =>
    let r := min 256 (o.rows - 256 * nt); let l := min 256 (o.kk - 256 * kt)
    let rows := (List.range r).map fun i => (List.range l).map fun k =>
      canonElem o.ty
        (bitsAt rd (8 * (o.base + (256 * nt + i) * o.stride) + (256 * kt + k) * dtypeBits o.ty) (dtypeBits o.ty))
    let scs := (List.range r).map fun i => (List.range (ceilDiv l 32)).map fun b =>
      rd (o.base + o.rows * o.stride + (256 * nt + i) * scaleStride o.kk + 8 * kt + b)
    let t := compressTile o.ty req rows scs l
    (t, tileBytes o.ty req r l t)
  let dirB := up64 (8 * nts * kts)
  let offs := tiles.foldl (fun (a : Nat × List Nat) t => (a.1 + t.2.length, a.2 ++ [a.1])) (dirB, [])
  (padTo 64 (offs.2.flatMap (leBytes 8)) ++ tiles.flatMap (·.2), (tiles.map (·.1.pruned)).sum,
   (tiles.filter (·.1.fell)).length)

/-! ### The vector unit -/

/-- Operands B or C of an operation (Table 06-9). -/
def vopBinary (v : Nat) : Bool := (decide (1 ≤ v) && decide (v ≤ 9)) || v == 0x0A || (decide (0x0B ≤ v) && decide (v ≤ 0x0F))
def vopTernary (v : Nat) : Bool := v == 4 || v == 0x0A
def vopReduce (v : Nat) : Bool := v == 0x19 || v == 0x1A || v == 0x1B
def vopFunc (v : Nat) : Bool := decide (0x11 ≤ v) && decide (v ≤ 0x18)

/-- Whether Table 04-11 lists the types for the operation. -/
def vopTypesOk (v it ot : Nat) : Bool :=
  if v = 0x10 then !dtypeReserved it && !dtypeReserved ot
  else if 0x0B ≤ v && v ≤ 0x0F then it == 2 && ot == 2
  else if vopFunc v || vopReduce v then it == 8 && ot == 8
  else it == ot && (it == 8 || it == 2 || it == 7 || it == 6 || it == 9)

/-- An INT32 result, or the free value where it falls outside 32 bits. -/
def int32Of (v a b c : Nat) (x : Int) : Nat :=
  if -(2 ^ 31) ≤ x && x < 2 ^ 31 then ofSigned 32 x else Config.vectorOverflow v a b c % 2 ^ 32

/-- A code as a Coach writes it: a NaN is canonical, and counts (R139). -/
def canonCode (f : Fmt) (c : Nat) : Nat × ConvFlags := if (decodeF f c).isNaN then (canonNaN f, ⟨1, 0, 0⟩) else (c, .zero)

/-- One lane: operation `v` of type `t` on element codes a, b, c (R163). A finite result of ADD, SUB, MUL or FMA that rounds beyond
the range counts as an overflow whatever SAT is (DESIGN CHOICE, log entry 226: R149 speaks of conversions). -/
def vopLane (v t a b c : Nat) : Nat × ConvFlags :=
  if t = 2 then
    let x := toSigned 32 a; let y := toSigned 32 b; let z := toSigned 32 c
    let boolc (q : Bool) : Nat := if q then 1 else 0
    (match v with
    | 1 => int32Of v a b c (x + y)
    | 2 => int32Of v a b c (x - y)
    | 3 => int32Of v a b c (x * y)
    | 4 => int32Of v a b c (x * y + z)
    | 5 => if y < x then b else a
    | 6 => if x < y then b else a
    | 7 => boolc (decide (x < y))
    | 8 => boolc (decide (x = y))
    | 9 => boolc (decide (x ≤ y))
    | 0x0A => if z = 0 then b else a
    | 0x0B => if b < 32 then a * 2 ^ b % 2 ^ 32 else Config.vectorShift v a b % 2 ^ 32
    | 0x0C => if b < 32 then ofSigned 32 (x / 2 ^ b) else Config.vectorShift v a b % 2 ^ 32
    | 0x0D => a &&& b
    | 0x0E => a ||| b
    | _ => a ^^^ b, .zero)
  else
    let f := dtypeFmt t
    let x := decodeF f a; let y := decodeF f b; let z := decodeF f c
    let one := roundF f .one
    let boolc (q : Bool) : Nat × ConvFlags := (if q then one else 0, .zero)
    let pick (i : Bool) : Nat × ConvFlags :=
      if x.isNaN || y.isNaN then (canonNaN f, ⟨1, 0, 0⟩) else (if i then a else b, .zero)
    let tie := x.isZero && y.isZero && (x.isNeg != y.isNeg)
    match v with
    | 1 => encodeF f .rne false 0 (x.add y)
    | 2 => encodeF f .rne false 0 (x.add y.neg)
    | 3 => encodeF f .rne false 0 (x.mul y)
    | 4 => encodeF f .rne false 0 ((x.mul y).add z)
    | 5 => pick (if tie then Config.vectorZeroTie v a b else !y.lt x)
    | 6 => pick (if tie then Config.vectorZeroTie v a b else !x.lt y)
    | 7 => boolc (x.lt y)
    | 8 => boolc (x.feq y)
    | 9 => boolc (x.le y)
    | 0x0A => canonCode f (if z.isZero then b else a)
    | _ =>
      let r := fnF32 v a
      let big := x.isFinite && (r == 0x7F800000 || r == 0xFF800000) && match fnValue v x with
        | some y => y.isFinite
        | none => false
      (r, ⟨(f32 r).isNaN.toNat, big.toNat, 0⟩)

/-- Pairwise level of the reduction tree in lane order (R165); a lane without a partner goes on unchanged (DESIGN CHOICE, log entry
227: the spec gives the tree of a full group). -/
def treeLevel (g : Nat → Nat → Nat) : List Nat → List Nat
  | a :: b :: xs => g a b :: treeLevel g xs
  | xs => xs

/-- The tree over one group of at most 128 lanes: seven levels. -/
def treeReduce (g : Nat → Nat → Nat) (xs : List Nat) : Nat :=
  ((List.range 7).foldl (fun ys _ => treeLevel g ys) xs).headD 0

/-- A reduction (R165). The running value starts with the result of the first group (DESIGN CHOICE, log entry 227); an overflow
in it counts nowhere (log entry 226). -/
def vopReduceAll (v : Nat) (xs : List Nat) : Nat :=
  let g (a b : Nat) : Nat := match v with
    | 0x19 => f32add a b
    | 0x1A => (vopLane 6 8 a b 0).1
    | _ => (vopLane 5 8 a b 0).1
  let groups := (List.range (ceilDiv xs.length 128)).map fun i => treeReduce g ((xs.drop (128 * i)).take 128)
  match groups with
  | [] => 0
  | y :: ys => (canonCode fmtFP32 (ys.foldl g y)).1

/-- A value converted by CVT or by a command's conversion (R149, R152); `r` the random word where the mode is SR. -/
def convType (ot : Nat) (rnd : Rnd) (sat : Bool) (r : Nat) (v : FV) : Nat × ConvFlags := convOut ot 0 rnd sat r v

end Sys2Proof.Machine
end

