-- ==== Sys2Proof/Machine/Select.lean ====
section
/-! DEFINITION. Expert choice as functions of keys and reduced histograms (R51, R54, R58 to R75, R94, R99). -/
namespace Sys2Proof.Machine

/-- The order-preserving key of an FP32 score code (R54). -/
def scoreKey (s : Nat) : Nat :=
  if (f32 s).isNaN then 0
  else
    let b := if s = 0x80000000 then 0 else s
    if b / 2 ^ 31 = 0 then b + 0x80000000 else 0xFFFFFFFF - b

/-- The score recovered from its key (R73). -/
def keyScore (k : Nat) : Nat := if 2 ^ 31 ≤ k then k - 2 ^ 31 else 0xFFFFFFFF - k

/-- The FP32 score of one token for one expert (R51): blocks of 64, each summed exactly and rounded once. -/
def routeScore (width : Nat) (a w : Nat → FV) : Nat :=
  (List.range (ceilDiv width 64)).foldl (fun acc b =>
    let s := (List.range (min 64 (width - 64 * b))).foldl (fun s i => s.add ((a (64 * b + i)).mul (w (64 * b + i)))) FV.zero
    f32add acc (roundF fmtFP32 s)) 0

/-- The state of an expert in a selection round (R58). -/
inductive ESt where
  | off
  | unset
  | all
  | cut (p : Nat)
  | tie
deriving DecidableEq, Repr

/-- One expert in a round: target, prefix, need, state, and how many tokens it takes across the window. -/
structure ESel where
  target : Nat
  prefx  : Nat
  need   : Nat
  st     : ESt
  got    : Nat
deriving DecidableEq, Repr

/-- The start of a round for a target (R58). -/
def ESel.start (t : Nat) : ESel := if t = 0 then ⟨0, 0, 0, .off, 0⟩ else ⟨t, 0, t, .unset, 0⟩

/-- The scan from bin 255 down: the bin where cum + H reaches need, and cum before it; none where no bin reaches it. -/
def scanBins (need : Nat) (h : Nat → Nat) : Nat → Nat → Option (Nat × Nat)
  | 0, _ => none
  | n + 1, cum => if cum + h n < need then scanBins need h n (cum + h n) else some (n, cum)

/-- The decision for one open expert after pass `p` with its reduced histogram (R58). -/
def ESel.step (e : ESel) (p : Nat) (h : Nat → Nat) : ESel :=
  match e.st with
  | .unset =>
    match scanBins e.need h 256 0 with
    | none => { e with st := .all, got := e.target - e.need + ((List.range 256).map h).sum }
    | some (b, cum) =>
      let need := e.need - cum
      let pre := e.prefx * 256 + b
      if h b = need then { e with need := need, prefx := pre, st := .cut p, got := e.target }
      else if p = 4 then { e with need := need, prefx := pre, st := .tie, got := e.target }
      else { e with need := need, prefx := pre }
  | _ => e

def ESel.isOpen (e : ESel) : Bool := match e.st with | .unset => true | _ => false
def ESel.isTie (e : ESel) : Bool := match e.st with | .tie => true | _ => false

/-- The local histogram of an open expert in pass `p` over its candidate keys (R58). -/
def localHist (e : ESel) (p : Nat) (keys : List Nat) : List Nat :=
  let sh := 32 - 8 * p
  (List.range 256).map fun b => (keys.filter fun k => k / 2 ^ (sh + 8) == e.prefx && k / 2 ^ sh % 256 == b).length

/-- Whether an expert in its final state takes a candidate key, ties apart (R59). -/
def ESel.takes (e : ESel) (k : Nat) : Bool :=
  match e.st with
  | .all => true
  | .cut p => decide (e.prefx ≤ k / 2 ^ (32 - 8 * p))
  | .tie => decide (e.prefx < k)
  | _ => false

/-- The local tokens that an expert takes of its candidates (token, key), ascending token; `q` is the scan of R61. -/
def ESel.takeLocal (e : ESel) (q : Nat) (cands : List (Nat × Nat)) : List (Nat × Nat) :=
  let eq := cands.filter fun c => c.2 == e.prefx
  let allot := if e.isTie then eq.take (min eq.length (e.need - q)) else []
  cands.filter fun c => e.takes c.2 || allot.contains c

/-- A pick of a local token. -/
structure Pick where
  token  : Nat
  expert : Nat
  src    : Nat
  key    : Nat
deriving DecidableEq, Repr

/-- Among the picks of one token, the `m` kept by the cap: highest keys, the lower expert on equal keys (R65, R66). -/
def capKeep (m : Nat) (ps : List Pick) : List Pick :=
  let ranked := ps.mergeSort fun a b => decide (b.key < a.key) || (a.key == b.key && decide (a.expert ≤ b.expert))
  let kept := ranked.take m
  ps.filter fun p => kept.contains p

/-- The gates of a token's kept routed picks in ascending expert order (R73, R74), from their keys. 1 + e^-s, s - m and each
addition of a sum are rounded once to FP32 by RNE (DESIGN CHOICE, log entry 192). -/
def gateValues (fn : Nat) (norm : Bool) (keys : List Nat) : List Nat :=
  let live := keys.filter (· ≠ 0)
  let sc := live.map keyScore
  match fn with
  | 1 =>
    let sg (s : Nat) : Nat := routeDiv 0x3F800000 (f32add 0x3F800000 (routeExp (s ^^^ 0x80000000)))
    let tot := (sc.map sg).foldl f32add 0
    keys.map fun k => if k = 0 then 0 else if norm then routeDiv (sg (keyScore k)) tot else sg (keyScore k)
  | 2 =>
    let m := keyScore (live.foldl max 0)
    let ex (s : Nat) : Nat := routeExp (f32sub s m)
    let tot := (sc.map ex).foldl f32add 0
    keys.map fun k => if k = 0 then 0 else routeDiv (ex (keyScore k)) tot
  | _ => keys.map fun k => if k = 0 then 0 else keyScore k

/-- The 16 bytes of a pick record (Table 02-9). -/
def pickRecord (p : Pick) (rank gate : Nat) : List Byte :=
  leBytes 2 p.token ++ leBytes 2 (p.expert + 2 ^ 13 * p.src) ++ leBytes 1 rank ++ leBytes 3 0 ++ leBytes 4 p.key
    ++ leBytes 4 gate

/-- The local token's preferred expert (R77): the highest key, the lowest expert among equals. -/
def preferred (keys : List Nat) : Nat :=
  ((List.range keys.length).foldl (fun (a : Nat × Nat) e =>
    if a.2 < nth keys e 0 + 1 then (e, nth keys e 0 + 1) else a) (0, 0)).1

end Sys2Proof.Machine
end

