-- ==== Sys2Proof/Machine/Commands.lean ====
section
/-! DEFINITION. The commands that are armed and not completed, and what the units that run them hold for each. -/
namespace Sys2Proof.Machine

/-! ### Tile programs (R226 to R246) -/

/-- A take that has not been answered (R232, R233): the record and the Coach whose queue it is, SEQ, how often it was tried,
how the bank granted an index that was lost on the way (1 fresh, 2 returned), and the queues still to be visited. -/
structure TakeRun where
  wrec  : Nat
  owner : Nat
  seq   : Nat
  tries : Nat
  how   : Nat
  left  : List Nat
deriving DecidableEq, Repr

/-- The index whose descriptors an instance runs: its record, the index, the next descriptor, and the table that the TAKE
names. -/
structure WorkRun where
  wrec   : Nat
  index  : Nat
  pos    : Nat
  table  : Nat
  dcount : Nat
deriving DecidableEq, Repr

/-- What an instance does at its next entry. -/
inductive InstAt where
  /-- it may arm the entry -/
  | entry
  /-- a WAIT is armed -/
  | waiting (addr target : Nat)
  /-- it has reached a SIGNAL of SCOPE 1 -/
  | signal (addr value : Nat)
  | taking (t : TakeRun)
  /-- its commands are being killed -/
  | killed
deriving DecidableEq, Repr

inductive InstPhase where
  | queued
  | run
  | ended
  /-- left with the fence of its Coach -/
  | gone
deriving DecidableEq, Repr

/-- An instance of a team: its Coach, where it stands, the number of its program entry, the work index it runs, and the
generation of the control operation that is armed (0: none). -/
structure ProgInst where
  coach : Nat
  phase : InstPhase
  pc    : Nat
  work  : Option WorkRun
  doing : InstAt
  ctl   : Nat
deriving DecidableEq, Repr

/-- A RUNPROG that runs: its team as started, the step captured at arm, the status and entry that stopped it, the counts of
Table 06-16, and how often each command was killed by mismatches (Coach, or 64 for a table descriptor; address; kills). -/
structure ProgRun where
  prog    : Nat
  len     : Nat
  status  : Nat
  team    : List Nat
  insts   : List ProgInst
  step    : Nat
  stopped : Option (Nat × Nat)
  commits : Nat
  kills   : Nat
  takes   : Nat
  retries : Nat
  steals  : Nat
  retaken : Nat
  misses  : List (Nat × Nat × Nat)
deriving DecidableEq, Repr

/-- A Coach command or control operation that is armed: its team and Coach, where its entry lies, and, for a Coach command,
its passes: the place of the next one (chunk of rows, step of a GEXPERT, column tile, pass of the tile), the accumulators of the
column tile and the rows of a GEXPERT's chunk; the stored tiles and the scale bytes 0xFF that it has read; whether its outputs
are written; whether this run has counted toward KILLMAX; and what becomes visible at its commit. -/
structure CoachRun where
  team    : Nat
  coach   : Nat
  pc      : Nat
  pos     : Option Nat
  addr    : Nat
  ctl     : Bool
  chunk   : Nat
  phase   : Nat
  nt      : Nat
  kp      : Nat
  accs    : List (List Acc)
  rows    : List ExpRow
  tiles   : List Nat
  mxSeen  : List Nat
  done    : Bool
  counted : Bool
  flags   : ConvFlags
  skipped : Nat
  offs    : Offences
  pruned  : Nat
  fell    : Nat
  pred    : PredCounts
deriving DecidableEq, Repr

/-- Where a routing pass stands. Each stage that works on the Postilions waits for the share of each (R84); each reduction
stage waits for the collective engine (R58, R61, R67, R97). -/
inductive RStage where
  /-- waiting on WAIT_ADDR (R36) -/
  | wait
  | score
  | hist
  | histR
  | tie
  | tieR
  | cap
  | capR
  | count
  | countR
  | scatter
  /-- the scatter commit is due (R104) -/
  | scattered
  | combine
deriving DecidableEq, Repr

/-- What a reduction gives (R61, R62, R97): the sums of its body, the exclusive scan in rank order, or both. -/
inductive RedKind where
  | sum
  | scan
  | both
deriving DecidableEq, Repr

/-- A reduction of a routing pass under way (R62, R405): its transfers on stream 1, what it gives, the header and body that
this member contributes, where its result lands; and, once this member has the contributions to its segment, the reduced
header: the lowest rank whose DIGEST differs from rank 0's, the ranks with REFUSED = 1, and the WINTOK sum. -/
structure RedRun where
  x       : Xfer
  kind    : RedKind
  digest  : Nat
  refused : Bool
  wintok  : Nat
  body    : List Nat
  dst     : Nat
  head    : Option (Option Nat × List Nat × Nat)
deriving DecidableEq, Repr

/-- The result of a reduction of a routing pass on this member (Tables 02-3, 02-4, R97): the lowest rank whose DIGEST differs from rank 0's, the REFUSED sum, the WINTOK sum, the elementwise sums of the
body and, for the two scans, the exclusive scan of this member's rank. -/
structure Reduced where
  digestBad : Option Nat
  refused   : Nat
  wintok    : Nat
  sums      : List Nat
  scan      : List Nat
deriving DecidableEq, Repr

/-- A ROUTEPASS that runs: its group and sequence number, the copies of R47 and R90, the dispatch block, its stage and the
shares of it that remain, the number of its next reduction, the selection as far as it has come, the report's
group fields, the Waybill snapshot and count table, and the combine as far as it has come. -/
structure RouteRun where
  group    : Nat
  seq      : Nat
  selcfg   : Nat
  capC     : Nat
  width    : Nat
  fallback : Nat
  dspcfg   : Nat
  xbytes   : Nat
  owidth   : Nat
  wybBase  : Nat
  slotBase : Nat
  wybCfg   : Nat
  blk      : Nat
  stage    : RStage
  /-- the shares of the stage that remain: share number and Postilion -/
  left     : List (Nat × Nat)
  /-- the number of the next reduction, or of the one under way -/
  ord      : Nat
  red      : Option RedRun
  nans     : Nat
  round    : Nat
  pass     : Nat
  sel      : List ESel
  /-- the scan of R61 by expert -/
  scanQ    : List (Nat × Nat)
  /-- the picks that each expert took in the current round, and those of the first round, kept or declined -/
  took     : List Pick
  took1    : List Pick
  /-- the picks kept so far -/
  kept     : List Pick
  /-- group-wide kept count by expert -/
  keptG    : List Nat
  declined : Nat
  rdeclined : Nat
  passes   : Nat
  rpasses  : Nat
  flags    : Nat
  winTok   : Nat
  declG    : Nat
  maxDem   : Nat
  maxDemE  : Nat
  overC    : Nat
  tied     : Nat
  /-- the pick list: pick, rank, gate -/
  list     : List (Pick × Nat × Nat)
  snap     : List Nat
  /-- SCAN and TOTAL by snapshot entry and replica -/
  table    : List (Nat × Nat)
  /-- per token: rows that have come back; pick-list index of each, and whether it was discarded -/
  got      : List (Nat × Bool)
  badRet   : Bool
  /-- how often the pass has stalled (R415) -/
  stalls   : Nat
deriving DecidableEq, Repr

/-- The selection stage has committed (R81), and the dispatch scan is complete (R97). -/
def RouteRun.committed (r : RouteRun) : Bool :=
  match r.stage with
  | .count | .countR | .scatter | .scattered | .combine => true
  | _ => false
def RouteRun.scanned (r : RouteRun) : Bool :=
  match r.stage with
  | .scatter | .scattered | .combine => true
  | _ => false

/-- An EXCHANGE that runs: its transfers (XID is the exchange's own), whether it returns rows, the exchange it returns, the
routing pass it serves, the copies of R90, whether it has been let go (its slots fixed, or its forward exchange committed),
the segments unpacked and the records read, and whether it has recorded ROUTE/0x010. -/
structure ExchRun where
  x        : Xfer
  back     : Bool
  fwd      : Nat
  pass     : Nat
  dspcfg   : Nat
  xbytes   : Nat
  owidth   : Nat
  slotBase : Nat
  wybCfg   : Nat
  sbias    : Nat
  /-- SEND_ADDR and COMB_ADDR of the pass -/
  send     : Nat
  comb     : Nat
  /-- EXPERTS of the pass and the address of its snapshot, once the dispatch scan has written the count table (R114) -/
  table    : Option (Nat × Nat)
  unpacked : List Nat
  read     : List (Nat × Nat)
  rejRec   : Bool
deriving DecidableEq, Repr

/-- What a command does, and how far it has come. -/
inductive CmdBody where
  | prog (r : ProgRun)
  | coach (r : CoachRun)
  | route (r : RouteRun)
  | exch (r : ExchRun)
  | coll (r : CollRun)
  | gform (gid : Nat)
  | gdissolve (gid : Nat)
  | move (r : MoveRun)
  | mfx (r : MfxRun)
  | matomic (r : MatomicRun)
  | sstop
  | jlaunch
  /-- a command of class CONTROL that commits within its arm row -/
  | control
  | jorder (order : Nat)
  | port (r : PortRun)
deriving DecidableEq, Repr

/-- The body with its fabric transfers changed. -/
def CmdBody.mapXfer (f : Xfer → Xfer) : CmdBody → CmdBody
  | .coll r => .coll { r with x := f r.x }
  | .exch r => .exch { r with x := f r.x }
  | .route r => .route { r with red := r.red.map fun m => { m with x := f m.x } }
  | b => b

/-- The fabric transfers of a body. -/
def CmdBody.xfer : CmdBody → Option Xfer
  | .coll r => some r.x
  | .exch r => some r.x
  | .route r => r.red.map (·.x)
  | _ => none

/-- A command armed and not completed: its generation (R214), the point at which it was armed, its descriptor and where
that lies, the regions it reads and holds (R239: a key of a Coach store or jobKey of an address, and a length), its first error record as ERRID and DETAIL (R556), and its
body. -/
structure Cmd where
  gen    : Nat
  src    : Source
  desc   : Line
  entry  : Nat
  reads  : List (Nat × Nat)
  writes : List (Nat × Nat)
  err    : Option (Nat × Nat)
  body   : CmdBody
deriving DecidableEq, Repr

/-- A command that is being killed, the status with which it ends, and whether it runs again (R243). -/
structure Dying where
  cmd    : Cmd
  status : Nat
  rerun  : Bool
deriving DecidableEq, Repr

end Sys2Proof.Machine
end

