-- ==== Sys2Proof/Machine/RegMap.lean ====
section
/-! DEFINITION. The register map of BAR0: the byte offset of every register of the 18 blocks (R20, R21, Table 00-3) and,
for each, its width, which bits carry which access tag (Table 00-2) and its reset value. The rows are the register
tables of the chapters (Tables 01-6 to 01-28, 02-12 to 02-17, 03-15 to 03-18, 04-14, 04-15, 07-7, 07-8, 08-12 to 08-15,
09-4, 09-5, 10-8 to 10-11, 11-7, 11-8, 12-2, 12-3, 13-10, 13-11, 14-7, 14-8, 15-13, 15-14, 16-10, 16-11, 17-5, 17-6,
18-11, 18-12, 19-7, 19-8, 19-10, 19-11). A register the table gives an index takes the index as an argument. -/
namespace Sys2Proof.Machine

namespace Reg

/-- Table 01-6: grade and layout. -/
abbrev SIZ_IDENT : Nat := 0x100000
/-- Table 01-6: change sequence. -/
abbrev SIZ_GEN : Nat := 0x100004
/-- Table 01-6: Coach and array counts. -/
abbrev SIZ_COACH : Nat := 0x100008
/-- Table 01-6: enabled Coaches. -/
abbrev SIZ_COACHMAP : Nat := 0x100010
/-- Table 01-6: on-chip SRAM capacities. -/
abbrev SIZ_SRAM : Nat := 0x100018
/-- Table 01-6: HBM3E stacks. -/
abbrev SIZ_HBM : Nat := 0x10001c
/-- Table 01-6: CXL tier and lending. -/
abbrev SIZ_TIER : Nat := 0x100020
/-- Table 01-6: page table. -/
abbrev SIZ_PTAB : Nat := 0x100024
/-- Table 01-6: Postilions and selection. -/
abbrev SIZ_ROUTE : Nat := 0x100028
/-- Table 01-6: routing-window limits. -/
abbrev SIZ_WINDOW : Nat := 0x10002c
/-- Table 01-6: Waybill. -/
abbrev SIZ_WAYBILL : Nat := 0x100030
/-- Table 01-6: Livery. -/
abbrev SIZ_LIVERY : Nat := 0x100034
/-- Table 01-6: Hitches, planes, virtual channels. -/
abbrev SIZ_FABRIC : Nat := 0x100038
/-- Table 01-6: permanent width per Hitch. -/
abbrev SIZ_HITCHW : Nat := 0x100040
/-- Table 01-6: host rings and doorbells. -/
abbrev SIZ_HOST : Nat := 0x100048
/-- Table 01-6: serving sessions. -/
abbrev SIZ_SERVE : Nat := 0x10004c
/-- Table 01-6: clock and power domains, control cores. -/
abbrev SIZ_DOMAIN : Nat := 0x100050
/-- Table 01-6: teams, commands per instance, Dray moves, groups. -/
abbrev SIZ_ENGINE : Nat := 0x100054
/-- Table 01-6: regions, loans, borrows, atomic table. -/
abbrev SIZ_MMF : Nat := 0x100058
/-- Table 01-6: armed commands, fence-record entries. -/
abbrev SIZ_CMDLIM : Nat := 0x10005c
/-- Table 02-12: Postilions busy with selection. -/
abbrev PST_SELSTAT : Nat := 0x500000
/-- Table 02-12: selection-stage commits. -/
abbrev PST_CNT_RPASS : Nat := 0x500008
/-- Table 02-12: picks declined, both rounds, local. -/
abbrev PST_CNT_DECLINED : Nat := 0x500010
/-- Table 02-12: orphans, local. -/
abbrev PST_CNT_ORPHAN : Nat := 0x500018
/-- Table 02-12: orphans beyond FBCAP, local. -/
abbrev PST_CNT_FBOVF : Nat := 0x500020
/-- Table 02-12: NaN scores, local. -/
abbrev PST_CNT_NAN : Nat := 0x500028
/-- Table 02-12: commits with OVER_C > 0. -/
abbrev PST_CNT_SKEW : Nat := 0x500030
/-- Table 02-12: routing passes killed before their selection commit. -/
abbrev PST_CNT_KILLED : Nat := 0x500038
/-- Table 02-12: experts, k_max, modes. -/
abbrev PST_SELCFG (p : Nat) : Nat := 0x500100 + 0x20 * p
/-- Table 02-12: capacity C. -/
abbrev PST_CAP (p : Nat) : Nat := 0x500104 + 0x20 * p
/-- Table 02-12: hidden width. -/
abbrev PST_WIDTH (p : Nat) : Nat := 0x500108 + 0x20 * p
/-- Table 02-12: group. -/
abbrev PST_GROUP (p : Nat) : Nat := 0x50010c + 0x20 * p
/-- Table 02-12: fallback expert and cap. -/
abbrev PST_FALLBACK (p : Nat) : Nat := 0x500110 + 0x20 * p
/-- Table 03-15: Waybill address. -/
abbrev WYB_BASE : Nat := 0x600000
/-- Table 03-15: slot-table address. -/
abbrev WYB_SLOTBASE : Nat := 0x600008
/-- Table 03-15: slots. -/
abbrev WYB_CFG : Nat := 0x600010
/-- Table 03-15: entry to update. -/
abbrev WYB_UPDIDX : Nat := 0x600014
/-- Table 03-15: start update. -/
abbrev WYB_UPDGO : Nat := 0x600018
/-- Table 03-15: entry bits 31:0, 63:32, 95:64, 127:96. -/
abbrev WYB_UPDDATA (x : Nat) : Nat := 0x600020 + 0x4 * x
/-- Table 03-15: updates applied. -/
abbrev WYB_CNT_UPD : Nat := 0x600030
/-- Table 03-15: rows rejected, REASON 0b011. -/
abbrev WYB_CNT_STALE : Nat := 0x600038
/-- Table 03-15: rows rejected, REASON 0b001, 0b010 or 0b110. -/
abbrev WYB_CNT_NOSLOT : Nat := 0x600040
/-- Table 03-15: rows rejected, REASON 0b100. -/
abbrev WYB_CNT_OVERROW : Nat := 0x600048
/-- Table 03-15: rows rejected, REASON 0b101. -/
abbrev WYB_CNT_BUSY : Nat := 0x600050
/-- Table 03-17: Postilions busy by stage. -/
abbrev PST_DSPSTAT : Nat := 0x500040
/-- Table 03-17: conflict-queue high-water mark. -/
abbrev PST_CQHWM : Nat := 0x500044
/-- Table 03-17: rows scattered, local, at scatter commit. -/
abbrev PST_CNT_ROWSENT : Nat := 0x500048
/-- Table 03-17: picks not sent, invalid Waybill entry (R95). -/
abbrev PST_CNT_UNSENT : Nat := 0x500050
/-- Table 03-17: rows placed in slot input areas. -/
abbrev PST_CNT_LANDED : Nat := 0x500058
/-- Table 03-17: rows rejected at landing, all reasons. -/
abbrev PST_CNT_REJECT : Nat := 0x500060
/-- Table 03-17: returned rows added at combine. -/
abbrev PST_CNT_COMBINED : Nat := 0x500068
/-- Table 03-17: returned rows with DISCARD = 1. -/
abbrev PST_CNT_DISCRET : Nat := 0x500070
/-- Table 03-17: returned rows discarded (R122). -/
abbrev PST_CNT_BADRET : Nat := 0x500078
/-- Table 03-17: returned rows discarded for PGEN (R123). -/
abbrev PST_CNT_STALEGEN : Nat := 0x500080
/-- Table 03-17: adds that waited in a conflict queue. -/
abbrev PST_CNT_CONFLICT : Nat := 0x500088
/-- Table 03-17: 2.0 GHz cycles with a bank input stalled. -/
abbrev PST_CNT_CQSTALL : Nat := 0x500090
/-- Table 03-17: formats and modes. -/
abbrev PST_DSPCFG (p : Nat) : Nat := 0x500300 + 0x20 * p
/-- Table 03-17: forward row bytes. -/
abbrev PST_XBYTES (p : Nat) : Nat := 0x500304 + 0x20 * p
/-- Table 03-17: result row width. -/
abbrev PST_OWIDTH (p : Nat) : Nat := 0x500308 + 0x20 * p
/-- Table 04-14: Coaches running a command pass. -/
abbrev CCH_BUSY : Nat := 0x400000
/-- Table 04-14: Coaches in idle fill or ramp. -/
abbrev CCH_FILLMAP : Nat := 0x400008
/-- Table 04-14: idle-fill controls. -/
abbrev CCH_IDLEFILL : Nat := 0x400010
/-- Table 04-14: fencing window and kill limit. -/
abbrev CCH_RESWIN : Nat := 0x400014
/-- Table 04-14: command passes completed, all arrays. -/
abbrev CCH_CNT_PASS : Nat := 0x400020
/-- Table 04-14: mismatches in command passes. -/
abbrev CCH_CNT_RESIDUE : Nat := 0x400028
/-- Table 04-14: mismatches in fill passes. -/
abbrev CCH_CNT_FILLRES : Nat := 0x400030
/-- Table 04-14: Coaches fenced by R173. -/
abbrev CCH_CNT_FENCE : Nat := 0x400038
/-- Table 04-14: fill passes. -/
abbrev CCH_CNT_FILL : Nat := 0x400040
/-- Table 04-14: elements written as NaN, and integer elements converted from a NaN (R152). -/
abbrev CCH_CNT_NAN : Nat := 0x400048
/-- Table 04-14: finite elements that rounded beyond MAX under SAT = 0 (R149). -/
abbrev CCH_CNT_OVF : Nat := 0x400050
/-- Table 04-14: saturating accumulator adds and clamped elements. -/
abbrev CCH_CNT_SAT : Nat := 0x400058
/-- Table 04-14: MX blocks read with scale 0xFF. -/
abbrev CCH_CNT_MXNAN : Nat := 0x400060
/-- Table 04-14: state of Coach n. -/
abbrev CCH_CSTAT (n : Nat) : Nat := 0x401000 + 0x40 * n
/-- Table 04-14: residue log of array a of Coach n. -/
abbrev CCH_RESLOG (n : Nat) (a : Nat) : Nat := 0x401010 + 0x40 * n + 0x8 * a
/-- Table 07-7: generator seed, k1. -/
abbrev CCH_SEED : Nat := 0x400080
/-- Table 07-7: teams in flight. -/
abbrev CCH_DET : Nat := 0x400084
/-- Table 07-7: step counter. -/
abbrev CCH_STEP : Nat := 0x400088
/-- Table 08-12: entry to read or write. -/
abbrev MEM_PTUPDIDX : Nat := 0x900000
/-- Table 08-12: start and status. -/
abbrev MEM_PTUPDGO : Nat := 0x900004
/-- Table 08-12: entry bits 31:0, 63:32, 95:64, 127:96. -/
abbrev MEM_PTUPDDATA (x : Nat) : Nat := 0x900010 + 0x4 * x
/-- Table 08-12: usable HBM frames. -/
abbrev MEM_FRAMES : Nat := 0x900020
/-- Table 08-12: free HBM frames. -/
abbrev MEM_FREE : Nat := 0x900024
/-- Table 08-12: reserved and retired frames. -/
abbrev MEM_RETIRE : Nat := 0x900028
/-- Table 08-12: limits of pool i, i = 0 to 7. -/
abbrev MEM_POOL (i : Nat) : Nat := 0x900040 + 0x8 * i
/-- Table 08-12: frames in use by pool i. -/
abbrev MEM_POOLUSED (i : Nat) : Nat := 0x900080 + 0x4 * i
/-- Table 08-12: retirement and scrub. -/
abbrev MEM_ECCCFG : Nat := 0x9000a0
/-- Table 08-12: retraining slots. -/
abbrev MEM_RTCFG : Nat := 0x9000a4
/-- Table 08-12: retraining state. -/
abbrev MEM_RTSTAT : Nat := 0x9000a8
/-- Table 08-12: last poisoned line found. -/
abbrev MEM_POISONADDR : Nat := 0x9000b0
/-- Table 08-12: HBM corrected errors. -/
abbrev MEM_CNT_CE_HBM : Nat := 0x900100
/-- Table 08-12: HBM uncorrectable errors. -/
abbrev MEM_CNT_UE_HBM : Nat := 0x900108
/-- Table 08-12: Coach House corrected errors. -/
abbrev MEM_CNT_CE_CH : Nat := 0x900110
/-- Table 08-12: Coach House uncorrectable errors. -/
abbrev MEM_CNT_UE_CH : Nat := 0x900118
/-- Table 08-12: Coach store corrected errors, all Coaches. -/
abbrev MEM_CNT_CE_CS : Nat := 0x900120
/-- Table 08-12: Coach store uncorrectable errors. -/
abbrev MEM_CNT_UE_CS : Nat := 0x900128
/-- Table 08-12: poisoned lines read by commands (R299) and by reads outside a command (R593). -/
abbrev MEM_CNT_POISON : Nat := 0x900130
/-- Table 08-12: retraining slots run. -/
abbrev MEM_CNT_RTSLOT : Nat := 0x900138
/-- Table 08-12: 100 µs deferral steps. -/
abbrev MEM_CNT_RTDEFER : Nat := 0x900140
/-- Table 08-12: slots forced. -/
abbrev MEM_CNT_RTFORCED : Nat := 0x900148
/-- Table 08-12: accesses faulted with MEM/0x001, 0x002 or 0x008. -/
abbrev MEM_CNT_XLFAULT : Nat := 0x900150
/-- Table 08-12: page-table writes applied. -/
abbrev MEM_CNT_PTUPD : Nat := 0x900158
/-- Table 08-14: demotion target and ager. -/
abbrev DRY_CFG : Nat := 0x800000
/-- Table 08-14: moves, holds, Timetable. -/
abbrev DRY_STAT : Nat := 0x800004
/-- Table 08-14: saturation marks. -/
abbrev DRY_SATCFG : Nat := 0x800008
/-- Table 08-14: Timetable address. -/
abbrev DRY_TTBASE : Nat := 0x800010
/-- Table 08-14: Timetable length and mode. -/
abbrev DRY_TTCFG : Nat := 0x800018
/-- Table 08-14: trigger increment per lap. -/
abbrev DRY_TTLAPINC : Nat := 0x800020
/-- Table 08-14: entry-settled counter address. -/
abbrev DRY_TTDONE : Nat := 0x800028
/-- Table 08-14: start and stop. -/
abbrev DRY_TTCTL : Nat := 0x800030
/-- Table 08-14: Timetable position. -/
abbrev DRY_TTPOS : Nat := 0x800038
/-- Table 08-14: moves into HBM switched. -/
abbrev DRY_CNT_PROMO : Nat := 0x800100
/-- Table 08-14: moves out of HBM switched. -/
abbrev DRY_CNT_DEMO : Nat := 0x800108
/-- Table 08-14: evictions (R285). -/
abbrev DRY_CNT_EVICT : Nat := 0x800110
/-- Table 08-14: moves cancelled. -/
abbrev DRY_CNT_CANCEL : Nat := 0x800118
/-- Table 08-14: requests already at target (R281). -/
abbrev DRY_CNT_RESIDENT : Nat := 0x800120
/-- Table 08-14: requests for pages not STABLE, or pinned (R281). -/
abbrev DRY_CNT_BUSY : Nat := 0x800128
/-- Table 08-14: pages not admitted (R286). -/
abbrev DRY_CNT_NOEVICT : Nat := 0x800130
/-- Table 08-14: ns with any hold set (R295). -/
abbrev DRY_CNT_HOLD : Nat := 0x800138
/-- Table 08-14: bytes copied by moves. -/
abbrev DRY_CNT_BYTES : Nat := 0x800140
/-- Table 08-14: retirement moves (R300). -/
abbrev DRY_CNT_RETIREMV : Nat := 0x800148
/-- Table 09-4: enable. -/
abbrev LVY_CTL : Nat := 0x700000
/-- Table 09-4: reserve and dry limit. -/
abbrev LVY_CFG : Nat := 0x700004
/-- Table 09-4: window base and count. -/
abbrev LVY_WIN : Nat := 0x700008
/-- Table 09-4: free count, queues, dry. -/
abbrev LVY_STAT : Nat := 0x700010
/-- Table 09-4: least free count. -/
abbrev LVY_LOWWM : Nat := 0x700014
/-- Table 09-4: host allocation. -/
abbrev LVY_ALLOC : Nat := 0x700040
/-- Table 09-4: pointer from the last host allocation. -/
abbrev LVY_ALLOCPTR : Nat := 0x700048
/-- Table 09-4: host free. -/
abbrev LVY_FREE : Nat := 0x700050
/-- Table 09-4: barrows allocated. -/
abbrev LVY_CNT_ALLOC : Nat := 0x700100
/-- Table 09-4: barrows freed, kills included. -/
abbrev LVY_CNT_FREE : Nat := 0x700108
/-- Table 09-4: allocations that waited in a queue. -/
abbrev LVY_CNT_WAIT : Nat := 0x700110
/-- Table 09-4: 2.0 GHz cycles with the pool dry (R316). -/
abbrev LVY_CNT_DRYCYC : Nat := 0x700118
/-- Table 09-4: operations refused (R311). -/
abbrev LVY_CNT_BADOP : Nat := 0x700120
/-- Table 09-4: barrows freed by kills (R318). -/
abbrev LVY_CNT_KILLFREE : Nat := 0x700128
/-- Table 09-4: host allocations answered EMPTY. -/
abbrev LVY_CNT_EMPTY : Nat := 0x700130
/-- Table 10-8: Cyster levels. -/
abbrev HCH_CFG : Nat := 0xa00000
/-- Table 10-8: XOFF headroom. -/
abbrev HCH_XCFG : Nat := 0xa00004
/-- Table 10-8: Hitches UP or RETRAIN. -/
abbrev HCH_UPMAP : Nat := 0xa00008
/-- Table 10-8: Hitches at two lanes now. -/
abbrev HCH_HALFMAP : Nat := 0xa0000c
/-- Table 10-8: retry and training limits. -/
abbrev HCH_RTO : Nat := 0xa00010
/-- Table 10-8: control. -/
abbrev HCH_PCTL (h : Nat) : Nat := 0xa01000 + 0x100 * h
/-- Table 10-8: state. -/
abbrev HCH_PSTAT (h : Nat) : Nat := 0xa01004 + 0x100 * h
/-- Table 10-8: lane states. -/
abbrev HCH_LSTAT (h : Nat) : Nat := 0xa01008 + 0x100 * h
/-- Table 10-8: codewords received. -/
abbrev HCH_CNT_CW (h : Nat) : Nat := 0xa01010 + 0x100 * h
/-- Table 10-8: codewords corrected. -/
abbrev HCH_CNT_CWCORR (h : Nat) : Nat := 0xa01018 + 0x100 * h
/-- Table 10-8: symbols corrected. -/
abbrev HCH_CNT_SYMCORR (h : Nat) : Nat := 0xa01020 + 0x100 * h
/-- Table 10-8: uncorrectable frames. -/
abbrev HCH_CNT_UNCORR (h : Nat) : Nat := 0xa01028 + 0x100 * h
/-- Table 10-8: retry requests sent. -/
abbrev HCH_CNT_RETRYREQ (h : Nat) : Nat := 0xa01030 + 0x100 * h
/-- Table 10-8: frames resent. -/
abbrev HCH_CNT_REPLAY (h : Nat) : Nat := 0xa01038 + 0x100 * h
/-- Table 10-8: frames discarded (R326, R329). -/
abbrev HCH_CNT_DISCARD (h : Nat) : Nat := 0xa01040 + 0x100 * h
/-- Table 10-8: link-down events. -/
abbrev HCH_CNT_LINKDOWN (h : Nat) : Nat := 0xa01048 + 0x100 * h
/-- Table 10-8: unacknowledged data frames emptied from the replay buffer at link down, once each (R338). -/
abbrev HCH_CNT_LOSTFR (h : Nat) : Nat := 0xa01050 + 0x100 * h
/-- Table 10-8: carriages discarded (R334). -/
abbrev HCH_CNT_OVERRUN (h : Nat) : Nat := 0xa01058 + 0x100 * h
/-- Table 10-8: µs at two lanes while retraining. -/
abbrev HCH_CNT_HALFUS (h : Nat) : Nat := 0xa01060 + 0x100 * h
/-- Table 10-10: schedule and deferral. -/
abbrev WHL_HCFG : Nat := 0xf00000
/-- Table 10-10: early-retrain threshold. -/
abbrev WHL_HTHR : Nat := 0xf00004
/-- Table 10-10: Hitches retraining. -/
abbrev WHL_HBUSY : Nat := 0xf00008
/-- Table 10-10: retrains deferred. -/
abbrev WHL_HDEFER : Nat := 0xf0000c
/-- Table 10-10: retrains completed. -/
abbrev WHL_CNT_RETRAIN : Nat := 0xf00100
/-- Table 10-10: retrains started by SYMTHR. -/
abbrev WHL_CNT_EARLY : Nat := 0xf00108
/-- Table 10-10: 100 µs deferral steps. -/
abbrev WHL_CNT_DEFER : Nat := 0xf00110
/-- Table 10-10: retrains forced. -/
abbrev WHL_CNT_FORCED : Nat := 0xf00118
/-- Table 10-10: pairs that missed the target. -/
abbrev WHL_CNT_PAIRFAIL : Nat := 0xf00120
/-- Table 10-10: own width requests withdrawn. -/
abbrev WHL_CNT_YIELD : Nat := 0xf00128
/-- Table 11-7: own coordinate. -/
abbrev STG_COORD : Nat := 0xb00000
/-- Table 11-7: relay, reachability, route timeout. -/
abbrev STG_CFG : Nat := 0xb00004
/-- Table 11-7: reachability table address. -/
abbrev STG_REACHBASE : Nat := 0xb00008
/-- Table 11-7: α of VC0 to VC5. -/
abbrev STG_ALPHA : Nat := 0xb00010
/-- Table 11-7: static limits. -/
abbrev STG_STATLIM : Nat := 0xb00014
/-- Table 11-7: saturation marks. -/
abbrev STG_SATCFG : Nat := 0xb00018
/-- Table 11-7: saturated planes. -/
abbrev STG_SATMAP : Nat := 0xb0001c
/-- Table 11-7: plane weights of VC v, v = 0 to 7. -/
abbrev STG_PLANEW (v : Nat) : Nat := 0xb00020 + 0x4 * v
/-- Table 11-7: VC weights. -/
abbrev STG_VCW : Nat := 0xb00040
/-- Table 11-7: dynamic free space. -/
abbrev STG_BUFSTAT : Nat := 0xb00044
/-- Table 11-7: least free space. -/
abbrev STG_BUFLOW : Nat := 0xb00048
/-- Table 11-7: reserved space. -/
abbrev STG_RESV : Nat := 0xb0004c
/-- Table 11-7: carriages sent on Hitches. -/
abbrev STG_CNT_FWD : Nat := 0xb00100
/-- Table 11-7: carriages delivered to local endpoints. -/
abbrev STG_CNT_LOCAL : Nat := 0xb00108
/-- Table 11-7: carriages relayed by this device. -/
abbrev STG_CNT_RELAYED : Nat := 0xb00110
/-- Table 11-7: carriages sent on relayed planes. -/
abbrev STG_CNT_VIARELAY : Nat := 0xb00118
/-- Table 11-7: carriages with a wrong CRC. -/
abbrev STG_CNT_CRC : Nat := 0xb00120
/-- Table 11-7: malformed carriages. -/
abbrev STG_CNT_MALFORMED : Nat := 0xb00128
/-- Table 11-7: misdelivered carriages. -/
abbrev STG_CNT_MISDELIV : Nat := 0xb00130
/-- Table 11-7: carriages given up (R360). -/
abbrev STG_CNT_NOROUTE : Nat := 0xb00138
/-- Table 11-7: carriages given a new plane (R359). -/
abbrev STG_CNT_REPLANE : Nat := 0xb00140
/-- Table 11-7: ns a local endpoint waited to enter. -/
abbrev STG_CNT_WAITNS : Nat := 0xb00148
/-- Table 11-7: payload bytes sent on plane p. -/
abbrev STG_CNT_PBYTES (p : Nat) : Nat := 0xb00180 + 0x8 * p
/-- Table 11-7: µs with plane p saturated. -/
abbrev STG_CNT_SATUS (p : Nat) : Nat := 0xb001c0 + 0x8 * p
/-- Table 12-2: enables and guard band. -/
abbrev TPK_CFG : Nat := 0xc00000
/-- Table 12-2: fabric time. -/
abbrev TPK_TIME : Nat := 0xc00008
/-- Table 12-2: host time adjustment. -/
abbrev TPK_TIMEADJ : Nat := 0xc00010
/-- Table 12-2: group refinement. -/
abbrev TPK_TSYNC : Nat := 0xc00018
/-- Table 12-2: refinement state. -/
abbrev TPK_TSTAT : Nat := 0xc0001c
/-- Table 12-2: timestamp exchanges. -/
abbrev TPK_CNT_TSYNC : Nat := 0xc00020
/-- Table 12-2: gate control. -/
abbrev TPK_GCTL (p : Nat) : Nat := 0xc00100 + 0x20 * p
/-- Table 12-2: gate state. -/
abbrev TPK_GSTAT (p : Nat) : Nat := 0xc00104 + 0x20 * p
/-- Table 12-2: switch-over time. -/
abbrev TPK_GBASE (p : Nat) : Nat := 0xc00108 + 0x20 * p
/-- Table 12-2: switch-overs made. -/
abbrev TPK_CNT_GSWITCH (p : Nat) : Nat := 0xc00110 + 0x20 * p
/-- Table 12-2: shaper of TC c. -/
abbrev TPK_SHAPE (h : Nat) (c : Nat) : Nat := 0xc01000 + 0x100 * h + 0x4 * c
/-- Table 12-2: shaper credit. -/
abbrev TPK_CREDIT (h : Nat) (c : Nat) : Nat := 0xc01020 + 0x100 * h + 0x4 * c
/-- Table 12-2: policer of TC c. -/
abbrev TPK_POLICE (h : Nat) (c : Nat) : Nat := 0xc01040 + 0x100 * h + 0x8 * c
/-- Table 12-2: pauses in force. -/
abbrev TPK_PSTAT (h : Nat) : Nat := 0xc01080 + 0x100 * h
/-- Table 12-2: green carriages. -/
abbrev TPK_CNT_GREEN (h : Nat) : Nat := 0xc01088 + 0x100 * h
/-- Table 12-2: yellow carriages. -/
abbrev TPK_CNT_YELLOW (h : Nat) : Nat := 0xc01090 + 0x100 * h
/-- Table 12-2: red carriages. -/
abbrev TPK_CNT_RED (h : Nat) : Nat := 0xc01098 + 0x100 * h
/-- Table 12-2: starts held by the guard band. -/
abbrev TPK_CNT_GUARDHOLD (h : Nat) : Nat := 0xc010a0 + 0x100 * h
/-- Table 12-2: gate-list entry (Table 12-1). -/
abbrev TPK_GENTRY (p : Nat) (b : Nat) (i : Nat) : Nat := 0xc04000 + 0x400 * p + 0x200 * b + 0x8 * i
/-- Table 13-10: levels and tickets. -/
abbrev COL_CFG : Nat := 0xd00000
/-- Table 13-10: probe, failure, formation and stall times. -/
abbrev COL_TMR0 : Nat := 0xd00004
/-- Table 13-10: completion, gap, retransmission, coalescing. -/
abbrev COL_TMR1 : Nat := 0xd00008
/-- Table 13-10: groups and commands in flight. -/
abbrev COL_STAT : Nat := 0xd0000c
/-- Table 13-10: group-table entries in use. -/
abbrev COL_GRPMAP : Nat := 0xd00010
/-- Table 13-10: chunks sent, retransmissions excluded. -/
abbrev COL_CNT_CHUNKTX : Nat := 0xd00100
/-- Table 13-10: chunks placed. -/
abbrev COL_CNT_CHUNKRX : Nat := 0xd00108
/-- Table 13-10: chunks sent again (R413). -/
abbrev COL_CNT_RETX : Nat := 0xd00110
/-- Table 13-10: duplicates (R409). -/
abbrev COL_CNT_DUP : Nat := 0xd00118
/-- Table 13-10: stale carriages (R407). -/
abbrev COL_CNT_STALE : Nat := 0xd00120
/-- Table 13-10: offers and eager chunks held in a reserve (R408). -/
abbrev COL_CNT_EARLY : Nat := 0xd00128
/-- Table 13-10: MISSING messages sent. -/
abbrev COL_CNT_MISSING : Nat := 0xd00130
/-- Table 13-10: probes answered (R414). -/
abbrev COL_CNT_SLOW : Nat := 0xd00138
/-- Table 13-10: members declared failed. -/
abbrev COL_CNT_PEERFAIL : Nat := 0xd00140
/-- Table 13-10: carriages discarded for level (R417). -/
abbrev COL_CNT_LEVEL : Nat := 0xd00148
/-- Table 13-10: carriages for a group not held. -/
abbrev COL_CNT_NOGROUP : Nat := 0xd00150
/-- Table 13-10: saturating reduction adds. -/
abbrev COL_CNT_SAT : Nat := 0xd00158
/-- Table 13-10: stall kills (R415). -/
abbrev COL_CNT_STALL : Nat := 0xd00160
/-- Table 13-10: identifier, state, level. -/
abbrev COL_GID (i : Nat) : Nat := 0xd01000 + 0x40 * i
/-- Table 13-10: members. -/
abbrev COL_GSIZE (i : Nat) : Nat := 0xd01004 + 0x40 * i
/-- Table 13-10: own rank, eager credit. -/
abbrev COL_GRANK (i : Nat) : Nat := 0xd01008 + 0x40 * i
/-- Table 13-10: GDIGEST. -/
abbrev COL_GDIGEST (i : Nat) : Nat := 0xd0100c + 0x40 * i
/-- Table 13-10: stream sequences. -/
abbrev COL_GSEQ (i : Nat) : Nat := 0xd01010 + 0x40 * i
/-- Table 13-10: reserve address. -/
abbrev COL_GRES (i : Nat) : Nat := 0xd01018 + 0x40 * i
/-- Table 13-10: queue state. -/
abbrev COL_GQ (i : Nat) : Nat := 0xd01020 + 0x40 * i
/-- Table 14-7: enables, bulk threshold. -/
abbrev MMF_CFG : Nat := 0xe00000
/-- Table 14-7: timeouts. -/
abbrev MMF_TMR : Nat := 0xe00004
/-- Table 14-7: requests and atomics held. -/
abbrev MMF_STAT : Nat := 0xe00008
/-- Table 14-7: requests and chunks sent. -/
abbrev MMF_CNT_REQTX : Nat := 0xe00100
/-- Table 14-7: requests and chunks served. -/
abbrev MMF_CNT_REQRX : Nat := 0xe00108
/-- Table 14-7: repeats (R435). -/
abbrev MMF_CNT_RETRY : Nat := 0xe00110
/-- Table 14-7: stale responses (R436). -/
abbrev MMF_CNT_STALE : Nat := 0xe00118
/-- Table 14-7: requests answered other than OK or BUSY. -/
abbrev MMF_CNT_REFUSED : Nat := 0xe00120
/-- Table 14-7: BUSY answers (R427). -/
abbrev MMF_CNT_ATOMBUSY : Nat := 0xe00128
/-- Table 14-7: region base. -/
abbrev MMF_RBASE (i : Nat) : Nat := 0xe01000 + 0x10 * i
/-- Table 14-7: region size. -/
abbrev MMF_RSIZE (i : Nat) : Nat := 0xe01008 + 0x10 * i
/-- Table 14-7: region control. -/
abbrev MMF_RCTL (i : Nat) : Nat := 0xe0100c + 0x10 * i
/-- Table 14-7: loan given. -/
abbrev MMF_LOAN (j : Nat) : Nat := 0xe02000 + 0x8 * j
/-- Table 14-7: loan taken. -/
abbrev MMF_BORROW (k : Nat) : Nat := 0xe02100 + 0x8 * k
/-- Table 15-13: readiness and link. -/
abbrev HST_STAT : Nat := 0x200000
/-- Table 15-13: fetch burst. -/
abbrev HST_CFG : Nat := 0x200004
/-- Table 15-13: HDM base. -/
abbrev HST_HDMBASE : Nat := 0x200010
/-- Table 15-13: rings 32i to 32i + 31 not IDLE, i = 0 to 7. -/
abbrev HST_ACTMAP (i : Nat) : Nat := 0x200020 + 0x4 * i
/-- Table 15-13: session table. -/
abbrev HST_SESSBASE : Nat := 0x200040
/-- Table 15-13: sessions. -/
abbrev HST_SESSCFG : Nat := 0x200048
/-- Table 15-13: loop state. -/
abbrev HST_LOOPSTAT : Nat := 0x20004c
/-- Table 15-13: downstream port enable, q = 0, 1. -/
abbrev HST_DSCTL (q : Nat) : Nat := 0x200050 + 0x4 * q
/-- Table 15-13: downstream port state. -/
abbrev HST_DSSTAT (q : Nat) : Nat := 0x200058 + 0x4 * q
/-- Table 15-13: frames mapped. -/
abbrev HST_DSFRAMES (q : Nat) : Nat := 0x200060 + 0x4 * q
/-- Table 15-13: descriptors fetched. -/
abbrev HST_CNT_FETCH : Nat := 0x200100
/-- Table 15-13: completion records written. -/
abbrev HST_CNT_CPL : Nat := 0x200108
/-- Table 15-13: ns with a record held (R454). -/
abbrev HST_CNT_CQHOLD : Nat := 0x200110
/-- Table 15-13: doorbell writes discarded (R451). -/
abbrev HST_CNT_DBBAD : Nat := 0x200118
/-- Table 15-13: host faults (R445). -/
abbrev HST_CNT_HDMFAULT : Nat := 0x200120
/-- Table 15-13: BISnp sent (R446). -/
abbrev HST_CNT_BISNP : Nat := 0x200128
/-- Table 15-13: frames ended. -/
abbrev HST_CNT_FRAMES : Nat := 0x200130
/-- Table 15-13: steps, empty steps included. -/
abbrev HST_CNT_STEPS : Nat := 0x200138
/-- Table 15-13: empty steps (R466). -/
abbrev HST_CNT_EMPTY : Nat := 0x200140
/-- Table 15-13: tokens sampled. -/
abbrev HST_CNT_SAMPLED : Nat := 0x200148
/-- Table 15-13: slices refused (R462). -/
abbrev HST_CNT_SLICEREF : Nat := 0x200150
/-- Table 15-13: submission ring. -/
abbrev HST_SQBASE (r : Nat) : Nat := 0x201000 + 0x20 * r
/-- Table 15-13: completion ring. -/
abbrev HST_CQBASE (r : Nat) : Nat := 0x201008 + 0x20 * r
/-- Table 15-13: ring configuration. -/
abbrev HST_RCFG (r : Nat) : Nat := 0x201010 + 0x20 * r
/-- Table 15-13: ring state. -/
abbrev HST_RSTAT (r : Nat) : Nat := 0x201014 + 0x20 * r
/-- Table 15-13: device indices. -/
abbrev HST_RHEAD (r : Nat) : Nat := 0x201018 + 0x20 * r
/-- Table 16-10: state, epoch. -/
abbrev GRD_JOBSTAT : Nat := 0x200
/-- Table 16-10: job and account. -/
abbrev GRD_JOBID : Nat := 0x208
/-- Table 16-10: membership. -/
abbrev GRD_JOBMEMB : Nat := 0x210
/-- Table 16-10: admission. -/
abbrev GRD_JOBADMIT : Nat := 0x218
/-- Table 16-10: last order applied. -/
abbrev GRD_JOBORD : Nat := 0x220
/-- Table 16-10: ns in RUNNING. -/
abbrev GRD_MTR_RUNNS : Nat := 0x240
/-- Table 16-10: ns in PREEMPTED. -/
abbrev GRD_MTR_HELDNS : Nat := 0x248
/-- Table 16-10: Coach-ns enabled in RUNNING: SIZ_COACH.COACHES summed per ns. -/
abbrev GRD_MTR_COACHNS : Nat := 0x250
/-- Table 16-10: Coach-ns with a command pass running. -/
abbrev GRD_MTR_BUSYNS : Nat := 0x258
/-- Table 16-10: mJ drawn in RUNNING and PREEMPTED, from the regulator telemetry of "Power, Clocks and Thermal Control". -/
abbrev GRD_MTR_ENERGY : Nat := 0x260
/-- Table 16-10: HBM frames that are homes of mapped pages, summed per ms. -/
abbrev GRD_MTR_FRAMEMS : Nat := 0x268
/-- Table 16-10: payload bytes that this device's endpoints sent on Hitches. -/
abbrev GRD_MTR_TXBYTES : Nat := 0x270
/-- Table 16-10: payload bytes relayed for other devices. -/
abbrev GRD_MTR_RELAYB : Nat := 0x278
/-- Table 17-5: duty, flags, trip. -/
abbrev PWC_STAT : Nat := 0x300000
/-- Table 17-5: power limits. -/
abbrev PWC_LIMIT : Nat := 0x300004
/-- Table 17-5: hysteresis and thermal target. -/
abbrev PWC_THR : Nat := 0x300008
/-- Table 17-5: power-gating idle time. -/
abbrev PWC_GATECFG : Nat := 0x30000c
/-- Table 17-5: wake limits. -/
abbrev PWC_SLEW : Nat := 0x300010
/-- Table 17-5: VID bus. -/
abbrev PWC_VID : Nat := 0x300014
/-- Table 17-5: array step per cluster. -/
abbrev PWC_CLK : Nat := 0x300018
/-- Table 17-5: Tj. -/
abbrev PWC_TEMP : Nat := 0x300020
/-- Table 17-5: sensor s, s = 0 to 47. -/
abbrev PWC_SENSOR (s : Nat) : Nat := 0x300040 + 0x4 * s
/-- Table 17-5: rail i of Table 17-3, i = 0 to 2. -/
abbrev PWC_RAIL (i : Nat) : Nat := 0x300100 + 0x8 * i
/-- Table 17-5: µs with d < 8. -/
abbrev PWC_CNT_FASTUS : Nat := 0x300200
/-- Table 17-5: array step changes. -/
abbrev PWC_CNT_STEP : Nat := 0x300208
/-- Table 17-5: wakes from power-gated. -/
abbrev PWC_CNT_PGWAKE : Nat := 0x300210
/-- Table 17-5: wakes deferred (R513). -/
abbrev PWC_CNT_WAKEDEFER : Nat := 0x300218
/-- Table 17-5: µs with Tj at or above TJ_TARGET. -/
abbrev PWC_CNT_THERMUS : Nat := 0x300220
/-- Table 18-11: boot state. -/
abbrev GRD_BOOTSTAT : Nat := 0x0
/-- Table 18-11: lifecycle and security version. -/
abbrev GRD_LIFECYCLE : Nat := 0x4
/-- Table 18-11: last reset. -/
abbrev GRD_RESETCAUSE : Nat := 0x8
/-- Table 18-11: running image version. -/
abbrev GRD_FWVER : Nat := 0xc
/-- Table 18-11: UID bits 31:0, 63:32, 95:64, 127:96. -/
abbrev GRD_UID (x : Nat) : Nat := 0x10 + 0x4 * x
/-- Table 18-11: nonce for the next signed command. -/
abbrev GRD_NONCE : Nat := 0x20
/-- Table 18-11: fence record entries. -/
abbrev GRD_FENCECNT : Nat := 0x28
/-- Table 18-11: fence record entry i, i = 0 to 4,319. -/
abbrev GRD_FENCE (i : Nat) : Nat := 0x1000 + 0x4 * i
/-- Table 19-7: next record to read. -/
abbrev ERR_HEAD : Nat := 0x1000000
/-- Table 19-7: next slot to write. -/
abbrev ERR_TAIL : Nat := 0x1000004
/-- Table 19-7: power-safe records. -/
abbrev ERR_PSCNT : Nat := 0x1000008
/-- Table 19-7: records not appended (R559). -/
abbrev ERR_CNT_DROP : Nat := 0x1000010
/-- Table 19-7: records of class k, k = 1 to 8. -/
abbrev ERR_CNT (k : Nat) : Nat := 0x1000020 + 0x8 * k
/-- Table 19-7: power-safe record i, i = 0 to 63. -/
abbrev ERR_PSREC (i : Nat) : Nat := 0x1001000 + 0x20 * i
/-- Table 19-7: log slot i, i = 0 to 4,095. -/
abbrev ERR_LOG (i : Nat) : Nat := 0x1010000 + 0x20 * i
/-- Table 19-10: rights and job. -/
abbrev DBG_UNLOCK : Nat := 0x1100000
/-- Table 19-10: halted cores. -/
abbrev DBG_CORES : Nat := 0x1100008
/-- Table 19-10: halted sequencers. -/
abbrev DBG_SEQHALT : Nat := 0x1100010
/-- Table 19-10: port activity. -/
abbrev DBG_PORT : Nat := 0x1100018
/-- Table 19-10: requests answered. -/
abbrev DBG_CNT_REQ : Nat := 0x1100100
/-- Table 19-10: requests answered LOCKED. -/
abbrev DBG_CNT_LOCKED : Nat := 0x1100108

end Reg

/-- One row of the register map: the BAR0 offset of the first register, up to three index dimensions (count, stride),
the width in bits, the bits of each writable access tag of Table 00-2, and the reset value. A bit in none of the four
masks is RO or reserved. -/
structure RegRow where
  base  : Nat
  dims  : List (Nat × Nat)
  width : Nat
  rw    : Nat
  gw    : Nat
  w1s   : Nat
  wo    : Nat
  reset : Nat
deriving DecidableEq, Repr

/-- The rows of block GRD. -/
def regRowsGRD : List RegRow := [
  ⟨0x200, [], 32, 0x0, 0xff17, 0x0, 0x0, 0x0⟩,
  ⟨0x208, [], 64, 0x0, 0xffffffffffffffff, 0x0, 0x0, 0x0⟩,
  ⟨0x210, [], 64, 0x0, 0x1f1ffff0000ffff, 0x0, 0x0, 0x0⟩,
  ⟨0x218, [], 64, 0x0, 0x1ffffffff, 0x0, 0x0, 0x0⟩,
  ⟨0x220, [], 32, 0x0, 0xffffffff, 0x0, 0x0, 0x0⟩,
  ⟨0x240, [], 64, 0x0, 0xffffffffffffffff, 0x0, 0x0, 0x0⟩,
  ⟨0x248, [], 64, 0x0, 0xffffffffffffffff, 0x0, 0x0, 0x0⟩,
  ⟨0x250, [], 64, 0x0, 0xffffffffffffffff, 0x0, 0x0, 0x0⟩,
  ⟨0x258, [], 64, 0x0, 0xffffffffffffffff, 0x0, 0x0, 0x0⟩,
  ⟨0x260, [], 64, 0x0, 0xffffffffffffffff, 0x0, 0x0, 0x0⟩,
  ⟨0x268, [], 64, 0x0, 0xffffffffffffffff, 0x0, 0x0, 0x0⟩,
  ⟨0x270, [], 64, 0x0, 0xffffffffffffffff, 0x0, 0x0, 0x0⟩,
  ⟨0x278, [], 64, 0x0, 0xffffffffffffffff, 0x0, 0x0, 0x0⟩,
  ⟨0x0, [], 32, 0x0, 0xfff070f, 0x0, 0x0, 0x0⟩,
  ⟨0x4, [], 32, 0x0, 0x3f3f07, 0x0, 0x0, 0x0⟩,
  ⟨0x8, [], 32, 0x0, 0x1f, 0x0, 0x0, 0x0⟩,
  ⟨0xc, [], 32, 0x0, 0xffffffff, 0x0, 0x0, 0x0⟩,
  ⟨0x10, [(4, 0x4)], 32, 0x0, 0xffffffff, 0x0, 0x0, 0x0⟩,
  ⟨0x20, [], 64, 0x0, 0xffffffffffffffff, 0x0, 0x0, 0x0⟩,
  ⟨0x28, [], 32, 0x0, 0x1fff, 0x0, 0x0, 0x0⟩,
  ⟨0x1000, [(4320, 0x4)], 32, 0x0, 0xffffffff, 0x0, 0x0, 0x0⟩]

/-- The rows of block SIZ. -/
def regRowsSIZ : List RegRow := [
  ⟨0x100000, [], 32, 0x0, 0x0, 0x0, 0x0, 0x10140⟩,
  ⟨0x100004, [], 32, 0x0, 0x0, 0x0, 0x0, 0x0⟩,
  ⟨0x100008, [], 32, 0x0, 0x0, 0x0, 0x0, 0x1004040⟩,
  ⟨0x100010, [], 64, 0x0, 0x0, 0x0, 0x0, 0xffffffffffffffff⟩,
  ⟨0x100018, [], 32, 0x0, 0x0, 0x0, 0x0, 0x4403c030⟩,
  ⟨0x10001c, [], 32, 0x0, 0x0, 0x0, 0x0, 0x602408⟩,
  ⟨0x100020, [], 32, 0x0, 0x0, 0x0, 0x0, 0x1000402⟩,
  ⟨0x100024, [], 32, 0x0, 0x0, 0x0, 0x0, 0x15400000⟩,
  ⟨0x100028, [], 32, 0x0, 0x0, 0x0, 0x0, 0x410ff08⟩,
  ⟨0x10002c, [], 32, 0x0, 0x0, 0x0, 0x0, 0x40010000⟩,
  ⟨0x100030, [], 32, 0x0, 0x0, 0x0, 0x0, 0x44100000⟩,
  ⟨0x100034, [], 32, 0x0, 0x0, 0x0, 0x0, 0xc020000⟩,
  ⟨0x100038, [], 32, 0x0, 0x0, 0x0, 0x0, 0x846820⟩,
  ⟨0x100040, [], 64, 0x0, 0x0, 0x0, 0x0, 0xaaaaaaaaaaaaaaaa⟩,
  ⟨0x100048, [], 32, 0x0, 0x0, 0x0, 0x0, 0x100100⟩,
  ⟨0x10004c, [], 32, 0x0, 0x0, 0x0, 0x0, 0x10000⟩,
  ⟨0x100050, [], 32, 0x0, 0x0, 0x0, 0x0, 0x8b830⟩,
  ⟨0x100054, [], 32, 0x0, 0x0, 0x0, 0x0, 0x40100810⟩,
  ⟨0x100058, [], 32, 0x0, 0x0, 0x0, 0x0, 0xc101040⟩,
  ⟨0x10005c, [], 32, 0x0, 0x0, 0x0, 0x0, 0x10e02000⟩]

/-- The rows of block HST. -/
def regRowsHST : List RegRow := [
  ⟨0x200000, [], 32, 0x0, 0x0, 0x0, 0x0, 0x0⟩,
  ⟨0x200004, [], 32, 0xf, 0x0, 0x0, 0x0, 0x8⟩,
  ⟨0x200010, [], 64, 0x0, 0x0, 0x0, 0x0, 0x0⟩,
  ⟨0x200020, [(8, 0x4)], 32, 0x0, 0x0, 0x0, 0x0, 0x0⟩,
  ⟨0x200040, [], 64, 0xffffffffffffffc0, 0x0, 0x0, 0x0, 0x0⟩,
  ⟨0x200048, [], 32, 0x1ffff, 0x0, 0x0, 0x0, 0x0⟩,
  ⟨0x20004c, [], 32, 0x0, 0x0, 0x0, 0x0, 0x0⟩,
  ⟨0x200050, [(2, 0x4)], 32, 0x1, 0x0, 0x0, 0x0, 0x0⟩,
  ⟨0x200058, [(2, 0x4)], 32, 0x0, 0x0, 0x0, 0x0, 0x0⟩,
  ⟨0x200060, [(2, 0x4)], 32, 0x0, 0x0, 0x0, 0x0, 0x0⟩,
  ⟨0x200100, [], 64, 0x0, 0x0, 0x0, 0x0, 0x0⟩,
  ⟨0x200108, [], 64, 0x0, 0x0, 0x0, 0x0, 0x0⟩,
  ⟨0x200110, [], 64, 0x0, 0x0, 0x0, 0x0, 0x0⟩,
  ⟨0x200118, [], 64, 0x0, 0x0, 0x0, 0x0, 0x0⟩,
  ⟨0x200120, [], 64, 0x0, 0x0, 0x0, 0x0, 0x0⟩,
  ⟨0x200128, [], 64, 0x0, 0x0, 0x0, 0x0, 0x0⟩,
  ⟨0x200130, [], 64, 0x0, 0x0, 0x0, 0x0, 0x0⟩,
  ⟨0x200138, [], 64, 0x0, 0x0, 0x0, 0x0, 0x0⟩,
  ⟨0x200140, [], 64, 0x0, 0x0, 0x0, 0x0, 0x0⟩,
  ⟨0x200148, [], 64, 0x0, 0x0, 0x0, 0x0, 0x0⟩,
  ⟨0x200150, [], 64, 0x0, 0x0, 0x0, 0x0, 0x0⟩,
  ⟨0x201000, [(256, 0x20)], 64, 0xfffffffffffff000, 0x0, 0x0, 0x0, 0x0⟩,
  ⟨0x201008, [(256, 0x20)], 64, 0xfffffffffffff000, 0x0, 0x0, 0x0, 0x0⟩,
  ⟨0x201010, [(256, 0x20)], 32, 0x1f1f03, 0x0, 0x0, 0x0, 0x10100⟩,
  ⟨0x201014, [(256, 0x20)], 32, 0x0, 0x0, 0x0, 0x0, 0x0⟩,
  ⟨0x201018, [(256, 0x20)], 32, 0x0, 0x0, 0x0, 0x0, 0x0⟩]

/-- The rows of block PWC. -/
def regRowsPWC : List RegRow := [
  ⟨0x300000, [], 32, 0x0, 0x0, 0x0, 0x0, 0x8⟩,
  ⟨0x300004, [], 32, 0x0, 0xffffffff, 0x0, 0x0, 0x2b52640⟩,
  ⟨0x300008, [], 32, 0xff, 0x7f00, 0x0, 0x0, 0x6432⟩,
  ⟨0x30000c, [], 32, 0xffff, 0x0, 0x0, 0x0, 0x64⟩,
  ⟨0x300010, [], 32, 0x7f, 0x0, 0x0, 0x0, 0x2810⟩,
  ⟨0x300014, [], 32, 0xf, 0x0, 0x0, 0x0, 0x2⟩,
  ⟨0x300018, [], 64, 0x0, 0x0, 0x0, 0x0, 0x0⟩,
  ⟨0x300020, [], 32, 0x0, 0x0, 0x0, 0x0, 0x0⟩,
  ⟨0x300040, [(48, 0x4)], 32, 0x0, 0x0, 0x0, 0x0, 0x0⟩,
  ⟨0x300100, [(3, 0x8)], 64, 0x0, 0x0, 0x0, 0x0, 0x0⟩,
  ⟨0x300200, [], 64, 0x0, 0x0, 0x0, 0x0, 0x0⟩,
  ⟨0x300208, [], 64, 0x0, 0x0, 0x0, 0x0, 0x0⟩,
  ⟨0x300210, [], 64, 0x0, 0x0, 0x0, 0x0, 0x0⟩,
  ⟨0x300218, [], 64, 0x0, 0x0, 0x0, 0x0, 0x0⟩,
  ⟨0x300220, [], 64, 0x0, 0x0, 0x0, 0x0, 0x0⟩]

/-- The rows of block CCH. -/
def regRowsCCH : List RegRow := [
  ⟨0x400000, [], 64, 0x0, 0x0, 0x0, 0x0, 0x0⟩,
  ⟨0x400008, [], 64, 0x0, 0x0, 0x0, 0x0, 0x0⟩,
  ⟨0x400010, [], 32, 0xfffff7, 0x0, 0x0, 0x0, 0x640c83⟩,
  ⟨0x400014, [], 32, 0x0, 0x0, 0x0, 0x0, 0x40f4240⟩,
  ⟨0x400020, [], 64, 0x0, 0x0, 0x0, 0x0, 0x0⟩,
  ⟨0x400028, [], 64, 0x0, 0x0, 0x0, 0x0, 0x0⟩,
  ⟨0x400030, [], 64, 0x0, 0x0, 0x0, 0x0, 0x0⟩,
  ⟨0x400038, [], 64, 0x0, 0x0, 0x0, 0x0, 0x0⟩,
  ⟨0x400040, [], 64, 0x0, 0x0, 0x0, 0x0, 0x0⟩,
  ⟨0x400048, [], 64, 0x0, 0x0, 0x0, 0x0, 0x0⟩,
  ⟨0x400050, [], 64, 0x0, 0x0, 0x0, 0x0, 0x0⟩,
  ⟨0x400058, [], 64, 0x0, 0x0, 0x0, 0x0, 0x0⟩,
  ⟨0x400060, [], 64, 0x0, 0x0, 0x0, 0x0, 0x0⟩,
  ⟨0x401000, [(64, 0x40)], 32, 0x0, 0x0, 0x0, 0x0, 0x2⟩,
  ⟨0x401010, [(64, 0x40), (4, 0x8)], 64, 0x0, 0x0, 0x0, 0x0, 0xffffffff⟩,
  ⟨0x400080, [], 32, 0xffffffff, 0x0, 0x0, 0x0, 0x0⟩,
  ⟨0x400084, [], 32, 0x0, 0x0, 0x0, 0x0, 0x0⟩,
  ⟨0x400088, [], 64, 0xffffffffffffffff, 0x0, 0x0, 0x0, 0x0⟩]

/-- The rows of block PST. -/
def regRowsPST : List RegRow := [
  ⟨0x500000, [], 32, 0x0, 0x0, 0x0, 0x0, 0x0⟩,
  ⟨0x500008, [], 64, 0x0, 0x0, 0x0, 0x0, 0x0⟩,
  ⟨0x500010, [], 64, 0x0, 0x0, 0x0, 0x0, 0x0⟩,
  ⟨0x500018, [], 64, 0x0, 0x0, 0x0, 0x0, 0x0⟩,
  ⟨0x500020, [], 64, 0x0, 0x0, 0x0, 0x0, 0x0⟩,
  ⟨0x500028, [], 64, 0x0, 0x0, 0x0, 0x0, 0x0⟩,
  ⟨0x500030, [], 64, 0x0, 0x0, 0x0, 0x0, 0x0⟩,
  ⟨0x500038, [], 64, 0x0, 0x0, 0x0, 0x0, 0x0⟩,
  ⟨0x500100, [(16, 0x20)], 32, 0x7f1f3fff, 0x0, 0x0, 0x0, 0x10000⟩,
  ⟨0x500104, [(16, 0x20)], 32, 0xffffff, 0x0, 0x0, 0x0, 0x0⟩,
  ⟨0x500108, [(16, 0x20)], 32, 0xffff, 0x0, 0x0, 0x0, 0x0⟩,
  ⟨0x50010c, [(16, 0x20)], 32, 0xffff, 0x0, 0x0, 0x0, 0x0⟩,
  ⟨0x500110, [(16, 0x20)], 32, 0xffff1fff, 0x0, 0x0, 0x0, 0x0⟩,
  ⟨0x500040, [], 32, 0x0, 0x0, 0x0, 0x0, 0x0⟩,
  ⟨0x500044, [], 32, 0x0, 0x0, 0x80000000, 0x0, 0x0⟩,
  ⟨0x500048, [], 64, 0x0, 0x0, 0x0, 0x0, 0x0⟩,
  ⟨0x500050, [], 64, 0x0, 0x0, 0x0, 0x0, 0x0⟩,
  ⟨0x500058, [], 64, 0x0, 0x0, 0x0, 0x0, 0x0⟩,
  ⟨0x500060, [], 64, 0x0, 0x0, 0x0, 0x0, 0x0⟩,
  ⟨0x500068, [], 64, 0x0, 0x0, 0x0, 0x0, 0x0⟩,
  ⟨0x500070, [], 64, 0x0, 0x0, 0x0, 0x0, 0x0⟩,
  ⟨0x500078, [], 64, 0x0, 0x0, 0x0, 0x0, 0x0⟩,
  ⟨0x500080, [], 64, 0x0, 0x0, 0x0, 0x0, 0x0⟩,
  ⟨0x500088, [], 64, 0x0, 0x0, 0x0, 0x0, 0x0⟩,
  ⟨0x500090, [], 64, 0x0, 0x0, 0x0, 0x0, 0x0⟩,
  ⟨0x500300, [(16, 0x20)], 32, 0x7f, 0x0, 0x0, 0x0, 0x0⟩,
  ⟨0x500304, [(16, 0x20)], 32, 0x1ffff, 0x0, 0x0, 0x0, 0x0⟩,
  ⟨0x500308, [(16, 0x20)], 32, 0xffff, 0x0, 0x0, 0x0, 0x0⟩]

/-- The rows of block WYB. -/
def regRowsWYB : List RegRow := [
  ⟨0x600000, [], 64, 0xffffffffff000000, 0x0, 0x0, 0x0, 0x0⟩,
  ⟨0x600008, [], 64, 0xfffffffffffff000, 0x0, 0x0, 0x0, 0x0⟩,
  ⟨0x600010, [], 32, 0x1fff, 0x0, 0x0, 0x0, 0x0⟩,
  ⟨0x600014, [], 32, 0xfffff, 0x0, 0x0, 0x0, 0x0⟩,
  ⟨0x600018, [], 32, 0x0, 0x0, 0x1, 0x0, 0x0⟩,
  ⟨0x600020, [(4, 0x4)], 32, 0xffffffff, 0x0, 0x0, 0x0, 0x0⟩,
  ⟨0x600030, [], 64, 0x0, 0x0, 0x0, 0x0, 0x0⟩,
  ⟨0x600038, [], 64, 0x0, 0x0, 0x0, 0x0, 0x0⟩,
  ⟨0x600040, [], 64, 0x0, 0x0, 0x0, 0x0, 0x0⟩,
  ⟨0x600048, [], 64, 0x0, 0x0, 0x0, 0x0, 0x0⟩,
  ⟨0x600050, [], 64, 0x0, 0x0, 0x0, 0x0, 0x0⟩]

/-- The rows of block LVY. -/
def regRowsLVY : List RegRow := [
  ⟨0x700000, [], 32, 0x1, 0x0, 0x0, 0x0, 0x0⟩,
  ⟨0x700004, [], 32, 0xff03ffff, 0x0, 0x0, 0x0, 0x64000000⟩,
  ⟨0x700008, [], 64, 0x3ffff3ffff000, 0x0, 0x0, 0x0, 0x0⟩,
  ⟨0x700010, [], 32, 0x0, 0x0, 0x0, 0x0, 0x0⟩,
  ⟨0x700014, [], 32, 0x0, 0x0, 0x80000000, 0x0, 0x0⟩,
  ⟨0x700040, [], 32, 0x0, 0x0, 0x1, 0x0, 0x0⟩,
  ⟨0x700048, [], 64, 0x0, 0x0, 0x0, 0x0, 0x0⟩,
  ⟨0x700050, [], 64, 0x0, 0x0, 0x0, 0xffffffffffffffff, 0x0⟩,
  ⟨0x700100, [], 64, 0x0, 0x0, 0x0, 0x0, 0x0⟩,
  ⟨0x700108, [], 64, 0x0, 0x0, 0x0, 0x0, 0x0⟩,
  ⟨0x700110, [], 64, 0x0, 0x0, 0x0, 0x0, 0x0⟩,
  ⟨0x700118, [], 64, 0x0, 0x0, 0x0, 0x0, 0x0⟩,
  ⟨0x700120, [], 64, 0x0, 0x0, 0x0, 0x0, 0x0⟩,
  ⟨0x700128, [], 64, 0x0, 0x0, 0x0, 0x0, 0x0⟩,
  ⟨0x700130, [], 64, 0x0, 0x0, 0x0, 0x0, 0x0⟩]

/-- The rows of block DRY. -/
def regRowsDRY : List RegRow := [
  ⟨0x800000, [], 32, 0xff03, 0x0, 0x0, 0x0, 0xa02⟩,
  ⟨0x800004, [], 32, 0x0, 0x0, 0x0, 0x0, 0x0⟩,
  ⟨0x800008, [], 32, 0xffffffff, 0x0, 0x0, 0x0, 0x60c03060⟩,
  ⟨0x800010, [], 64, 0xffffffffffffffc0, 0x0, 0x0, 0x0, 0x0⟩,
  ⟨0x800018, [], 32, 0xf3ffff, 0x0, 0x0, 0x0, 0x200000⟩,
  ⟨0x800020, [], 64, 0xffffffffffffffff, 0x0, 0x0, 0x0, 0x0⟩,
  ⟨0x800028, [], 64, 0xffffffffffffffff, 0x0, 0x0, 0x0, 0x0⟩,
  ⟨0x800030, [], 32, 0x0, 0x0, 0x3, 0x0, 0x0⟩,
  ⟨0x800038, [], 64, 0x0, 0x0, 0x0, 0x0, 0x0⟩,
  ⟨0x800100, [], 64, 0x0, 0x0, 0x0, 0x0, 0x0⟩,
  ⟨0x800108, [], 64, 0x0, 0x0, 0x0, 0x0, 0x0⟩,
  ⟨0x800110, [], 64, 0x0, 0x0, 0x0, 0x0, 0x0⟩,
  ⟨0x800118, [], 64, 0x0, 0x0, 0x0, 0x0, 0x0⟩,
  ⟨0x800120, [], 64, 0x0, 0x0, 0x0, 0x0, 0x0⟩,
  ⟨0x800128, [], 64, 0x0, 0x0, 0x0, 0x0, 0x0⟩,
  ⟨0x800130, [], 64, 0x0, 0x0, 0x0, 0x0, 0x0⟩,
  ⟨0x800138, [], 64, 0x0, 0x0, 0x0, 0x0, 0x0⟩,
  ⟨0x800140, [], 64, 0x0, 0x0, 0x0, 0x0, 0x0⟩,
  ⟨0x800148, [], 64, 0x0, 0x0, 0x0, 0x0, 0x0⟩]

/-- The rows of block MEM. -/
def regRowsMEM : List RegRow := [
  ⟨0x900000, [], 32, 0x3fffff, 0x0, 0x0, 0x0, 0x0⟩,
  ⟨0x900004, [], 32, 0x2, 0x0, 0x1, 0x0, 0x0⟩,
  ⟨0x900010, [(4, 0x4)], 32, 0xffffffff, 0x0, 0x0, 0x0, 0x0⟩,
  ⟨0x900020, [], 32, 0x0, 0x0, 0x0, 0x0, 0x23e00⟩,
  ⟨0x900024, [], 32, 0x0, 0x0, 0x0, 0x0, 0x23e00⟩,
  ⟨0x900028, [], 32, 0x0, 0x0, 0x0, 0x0, 0x200⟩,
  ⟨0x900040, [(8, 0x8)], 64, 0x3ffff0003ffff, 0x0, 0x0, 0x0, 0x3ffff00000000⟩,
  ⟨0x900080, [(8, 0x4)], 32, 0x0, 0x0, 0x0, 0x0, 0x0⟩,
  ⟨0x9000a0, [], 32, 0xff01ff, 0x0, 0x0, 0x0, 0x180110⟩,
  ⟨0x9000a4, [], 32, 0xffff, 0x0, 0x0, 0x0, 0xa40⟩,
  ⟨0x9000a8, [], 32, 0x0, 0x0, 0x0, 0x0, 0x0⟩,
  ⟨0x9000b0, [], 64, 0x0, 0x0, 0x0, 0x0, 0x0⟩,
  ⟨0x900100, [], 64, 0x0, 0x0, 0x0, 0x0, 0x0⟩,
  ⟨0x900108, [], 64, 0x0, 0x0, 0x0, 0x0, 0x0⟩,
  ⟨0x900110, [], 64, 0x0, 0x0, 0x0, 0x0, 0x0⟩,
  ⟨0x900118, [], 64, 0x0, 0x0, 0x0, 0x0, 0x0⟩,
  ⟨0x900120, [], 64, 0x0, 0x0, 0x0, 0x0, 0x0⟩,
  ⟨0x900128, [], 64, 0x0, 0x0, 0x0, 0x0, 0x0⟩,
  ⟨0x900130, [], 64, 0x0, 0x0, 0x0, 0x0, 0x0⟩,
  ⟨0x900138, [], 64, 0x0, 0x0, 0x0, 0x0, 0x0⟩,
  ⟨0x900140, [], 64, 0x0, 0x0, 0x0, 0x0, 0x0⟩,
  ⟨0x900148, [], 64, 0x0, 0x0, 0x0, 0x0, 0x0⟩,
  ⟨0x900150, [], 64, 0x0, 0x0, 0x0, 0x0, 0x0⟩,
  ⟨0x900158, [], 64, 0x0, 0x0, 0x0, 0x0, 0x0⟩]

/-- The rows of block HCH. -/
def regRowsHCH : List RegRow := [
  ⟨0xa00000, [], 32, 0xffff, 0x0, 0x0, 0x0, 0x101⟩,
  ⟨0xa00004, [], 32, 0x7f, 0x0, 0x0, 0x0, 0x10⟩,
  ⟨0xa00008, [], 32, 0x0, 0x0, 0x0, 0x0, 0x0⟩,
  ⟨0xa0000c, [], 32, 0x0, 0x0, 0x0, 0x0, 0x0⟩,
  ⟨0xa00010, [], 32, 0xffffff, 0x0, 0x0, 0x0, 0x314814⟩,
  ⟨0xa01000, [(32, 0x100)], 32, 0x1, 0x0, 0x6, 0x0, 0x0⟩,
  ⟨0xa01004, [(32, 0x100)], 32, 0x0, 0x0, 0x0, 0x0, 0x1⟩,
  ⟨0xa01008, [(32, 0x100)], 32, 0x0, 0x0, 0x0, 0x0, 0x0⟩,
  ⟨0xa01010, [(32, 0x100)], 64, 0x0, 0x0, 0x0, 0x0, 0x0⟩,
  ⟨0xa01018, [(32, 0x100)], 64, 0x0, 0x0, 0x0, 0x0, 0x0⟩,
  ⟨0xa01020, [(32, 0x100)], 64, 0x0, 0x0, 0x0, 0x0, 0x0⟩,
  ⟨0xa01028, [(32, 0x100)], 64, 0x0, 0x0, 0x0, 0x0, 0x0⟩,
  ⟨0xa01030, [(32, 0x100)], 64, 0x0, 0x0, 0x0, 0x0, 0x0⟩,
  ⟨0xa01038, [(32, 0x100)], 64, 0x0, 0x0, 0x0, 0x0, 0x0⟩,
  ⟨0xa01040, [(32, 0x100)], 64, 0x0, 0x0, 0x0, 0x0, 0x0⟩,
  ⟨0xa01048, [(32, 0x100)], 64, 0x0, 0x0, 0x0, 0x0, 0x0⟩,
  ⟨0xa01050, [(32, 0x100)], 64, 0x0, 0x0, 0x0, 0x0, 0x0⟩,
  ⟨0xa01058, [(32, 0x100)], 64, 0x0, 0x0, 0x0, 0x0, 0x0⟩,
  ⟨0xa01060, [(32, 0x100)], 64, 0x0, 0x0, 0x0, 0x0, 0x0⟩]

/-- The rows of block STG. -/
def regRowsSTG : List RegRow := [
  ⟨0xb00000, [], 32, 0x1ffff, 0x0, 0x0, 0x0, 0x0⟩,
  ⟨0xb00004, [], 32, 0xff03, 0x0, 0x0, 0x0, 0xa01⟩,
  ⟨0xb00008, [], 64, 0xfffffffffffff000, 0x0, 0x0, 0x0, 0x0⟩,
  ⟨0xb00010, [], 32, 0xffffff, 0x0, 0x0, 0x0, 0x545566⟩,
  ⟨0xb00014, [], 32, 0xffff, 0x0, 0x0, 0x0, 0x1010⟩,
  ⟨0xb00018, [], 32, 0x7ffff, 0x0, 0x0, 0x0, 0x22040⟩,
  ⟨0xb0001c, [], 32, 0x0, 0x0, 0x0, 0x0, 0x0⟩,
  ⟨0xb00020, [], 32, 0xffffffff, 0x0, 0x0, 0x0, 0x888888⟩,
  ⟨0xb00024, [], 32, 0xffffffff, 0x0, 0x0, 0x0, 0x888888⟩,
  ⟨0xb00028, [], 32, 0xffffffff, 0x0, 0x0, 0x0, 0x88000000⟩,
  ⟨0xb0002c, [], 32, 0xffffffff, 0x0, 0x0, 0x0, 0x88000000⟩,
  ⟨0xb00030, [], 32, 0xffffffff, 0x0, 0x0, 0x0, 0x88000000⟩,
  ⟨0xb00034, [], 32, 0xffffffff, 0x0, 0x0, 0x0, 0x88888888⟩,
  ⟨0xb00038, [], 32, 0xffffffff, 0x0, 0x0, 0x0, 0x88888888⟩,
  ⟨0xb0003c, [], 32, 0xffffffff, 0x0, 0x0, 0x0, 0x88000000⟩,
  ⟨0xb00040, [], 32, 0xffffff, 0x0, 0x0, 0x0, 0x424488⟩,
  ⟨0xb00044, [], 32, 0x0, 0x0, 0x0, 0x0, 0xeaa0⟩,
  ⟨0xb00048, [], 32, 0x0, 0x0, 0x80000000, 0x0, 0xeaa0⟩,
  ⟨0xb0004c, [], 32, 0x0, 0x0, 0x0, 0x0, 0x1560⟩,
  ⟨0xb00100, [], 64, 0x0, 0x0, 0x0, 0x0, 0x0⟩,
  ⟨0xb00108, [], 64, 0x0, 0x0, 0x0, 0x0, 0x0⟩,
  ⟨0xb00110, [], 64, 0x0, 0x0, 0x0, 0x0, 0x0⟩,
  ⟨0xb00118, [], 64, 0x0, 0x0, 0x0, 0x0, 0x0⟩,
  ⟨0xb00120, [], 64, 0x0, 0x0, 0x0, 0x0, 0x0⟩,
  ⟨0xb00128, [], 64, 0x0, 0x0, 0x0, 0x0, 0x0⟩,
  ⟨0xb00130, [], 64, 0x0, 0x0, 0x0, 0x0, 0x0⟩,
  ⟨0xb00138, [], 64, 0x0, 0x0, 0x0, 0x0, 0x0⟩,
  ⟨0xb00140, [], 64, 0x0, 0x0, 0x0, 0x0, 0x0⟩,
  ⟨0xb00148, [], 64, 0x0, 0x0, 0x0, 0x0, 0x0⟩,
  ⟨0xb00180, [(8, 0x8)], 64, 0x0, 0x0, 0x0, 0x0, 0x0⟩,
  ⟨0xb001c0, [(8, 0x8)], 64, 0x0, 0x0, 0x0, 0x0, 0x0⟩]

/-- The rows of block TPK. -/
def regRowsTPK : List RegRow := [
  ⟨0xc00000, [], 32, 0x3ff03, 0x0, 0x0, 0x0, 0x6400⟩,
  ⟨0xc00008, [], 64, 0x0, 0x0, 0x0, 0x0, 0x0⟩,
  ⟨0xc00010, [], 64, 0x0, 0x0, 0x0, 0xffffffffffffffff, 0x0⟩,
  ⟨0xc00018, [], 32, 0xffffff01, 0x0, 0x0, 0x0, 0xa00⟩,
  ⟨0xc0001c, [], 32, 0x0, 0x0, 0x0, 0x0, 0x0⟩,
  ⟨0xc00020, [], 64, 0x0, 0x0, 0x0, 0x0, 0x0⟩,
  ⟨0xc00100, [(8, 0x20)], 32, 0x7f7f01, 0x0, 0x6, 0x0, 0x0⟩,
  ⟨0xc00104, [(8, 0x20)], 32, 0x0, 0x0, 0x0, 0x0, 0xff0000⟩,
  ⟨0xc00108, [(8, 0x20)], 64, 0xffffffffffffffff, 0x0, 0x0, 0x0, 0x0⟩,
  ⟨0xc00110, [(8, 0x20)], 64, 0x0, 0x0, 0x0, 0x0, 0x0⟩,
  ⟨0xc01000, [(32, 0x100), (8, 0x4)], 32, 0xff03ff, 0x0, 0x0, 0x0, 0x100000⟩,
  ⟨0xc01020, [(32, 0x100), (8, 0x4)], 32, 0x0, 0x0, 0x0, 0x0, 0x4000⟩,
  ⟨0xc01040, [(32, 0x100), (8, 0x8)], 64, 0xfff03ff00ff03ff, 0x0, 0x0, 0x0, 0x10000000100000⟩,
  ⟨0xc01080, [(32, 0x100)], 32, 0x0, 0x0, 0x0, 0x0, 0x0⟩,
  ⟨0xc01088, [(32, 0x100)], 64, 0x0, 0x0, 0x0, 0x0, 0x0⟩,
  ⟨0xc01090, [(32, 0x100)], 64, 0x0, 0x0, 0x0, 0x0, 0x0⟩,
  ⟨0xc01098, [(32, 0x100)], 64, 0x0, 0x0, 0x0, 0x0, 0x0⟩,
  ⟨0xc010a0, [(32, 0x100)], 64, 0x0, 0x0, 0x0, 0x0, 0x0⟩,
  ⟨0xc04000, [(8, 0x400), (2, 0x200), (64, 0x8)], 64, 0xffffffff000000ff, 0x0, 0x0, 0x0, 0x0⟩]

/-- The rows of block COL. -/
def regRowsCOL : List RegRow := [
  ⟨0xd00000, [], 32, 0xffffff, 0x0, 0x0, 0x0, 0x100101⟩,
  ⟨0xd00004, [], 32, 0xffffffff, 0x0, 0x0, 0x0, 0x6464140a⟩,
  ⟨0xd00008, [], 32, 0xff0fffff, 0x0, 0x0, 0x0, 0x5081464⟩,
  ⟨0xd0000c, [], 32, 0x0, 0x0, 0x0, 0x0, 0x0⟩,
  ⟨0xd00010, [], 64, 0x0, 0x0, 0x0, 0x0, 0x0⟩,
  ⟨0xd00100, [], 64, 0x0, 0x0, 0x0, 0x0, 0x0⟩,
  ⟨0xd00108, [], 64, 0x0, 0x0, 0x0, 0x0, 0x0⟩,
  ⟨0xd00110, [], 64, 0x0, 0x0, 0x0, 0x0, 0x0⟩,
  ⟨0xd00118, [], 64, 0x0, 0x0, 0x0, 0x0, 0x0⟩,
  ⟨0xd00120, [], 64, 0x0, 0x0, 0x0, 0x0, 0x0⟩,
  ⟨0xd00128, [], 64, 0x0, 0x0, 0x0, 0x0, 0x0⟩,
  ⟨0xd00130, [], 64, 0x0, 0x0, 0x0, 0x0, 0x0⟩,
  ⟨0xd00138, [], 64, 0x0, 0x0, 0x0, 0x0, 0x0⟩,
  ⟨0xd00140, [], 64, 0x0, 0x0, 0x0, 0x0, 0x0⟩,
  ⟨0xd00148, [], 64, 0x0, 0x0, 0x0, 0x0, 0x0⟩,
  ⟨0xd00150, [], 64, 0x0, 0x0, 0x0, 0x0, 0x0⟩,
  ⟨0xd00158, [], 64, 0x0, 0x0, 0x0, 0x0, 0x0⟩,
  ⟨0xd00160, [], 64, 0x0, 0x0, 0x0, 0x0, 0x0⟩,
  ⟨0xd01000, [(64, 0x40)], 32, 0x0, 0x0, 0x0, 0x0, 0x0⟩,
  ⟨0xd01004, [(64, 0x40)], 32, 0x0, 0x0, 0x0, 0x0, 0x0⟩,
  ⟨0xd01008, [(64, 0x40)], 32, 0x0, 0x0, 0x0, 0x0, 0x0⟩,
  ⟨0xd0100c, [(64, 0x40)], 32, 0x0, 0x0, 0x0, 0x0, 0x0⟩,
  ⟨0xd01010, [(64, 0x40)], 64, 0x0, 0x0, 0x0, 0x0, 0x0⟩,
  ⟨0xd01018, [(64, 0x40)], 64, 0x0, 0x0, 0x0, 0x0, 0x0⟩,
  ⟨0xd01020, [(64, 0x40)], 32, 0x0, 0x0, 0x0, 0x0, 0x0⟩]

/-- The rows of block MMF. -/
def regRowsMMF : List RegRow := [
  ⟨0xe00000, [], 32, 0xff03, 0x0, 0x0, 0x0, 0x4000⟩,
  ⟨0xe00004, [], 32, 0xff0fff, 0x0, 0x0, 0x0, 0x32040a⟩,
  ⟨0xe00008, [], 32, 0x0, 0x0, 0x0, 0x0, 0x0⟩,
  ⟨0xe00100, [], 64, 0x0, 0x0, 0x0, 0x0, 0x0⟩,
  ⟨0xe00108, [], 64, 0x0, 0x0, 0x0, 0x0, 0x0⟩,
  ⟨0xe00110, [], 64, 0x0, 0x0, 0x0, 0x0, 0x0⟩,
  ⟨0xe00118, [], 64, 0x0, 0x0, 0x0, 0x0, 0x0⟩,
  ⟨0xe00120, [], 64, 0x0, 0x0, 0x0, 0x0, 0x0⟩,
  ⟨0xe00128, [], 64, 0x0, 0x0, 0x0, 0x0, 0x0⟩,
  ⟨0xe01000, [(64, 0x10)], 64, 0xfffffffffffff000, 0x0, 0x0, 0x0, 0x0⟩,
  ⟨0xe01008, [(64, 0x10)], 32, 0xfffffff, 0x0, 0x0, 0x0, 0x0⟩,
  ⟨0xe0100c, [(64, 0x10)], 32, 0xffff0f, 0x0, 0x0, 0x0, 0x0⟩,
  ⟨0xe02000, [(16, 0x8)], 64, 0x101ff01ffffff, 0x0, 0x0, 0x0, 0x0⟩,
  ⟨0xe02100, [(16, 0x8)], 64, 0x101ff01ffffff, 0x0, 0x4000000000000, 0x0, 0x0⟩]

/-- The rows of block WHL. -/
def regRowsWHL : List RegRow := [
  ⟨0xf00000, [], 32, 0x3fff01, 0x0, 0x0, 0x0, 0x323c01⟩,
  ⟨0xf00004, [], 32, 0xffff, 0x0, 0x0, 0x0, 0x40⟩,
  ⟨0xf00008, [], 32, 0x0, 0x0, 0x0, 0x0, 0x0⟩,
  ⟨0xf0000c, [], 32, 0x0, 0x0, 0x0, 0x0, 0x0⟩,
  ⟨0xf00100, [], 64, 0x0, 0x0, 0x0, 0x0, 0x0⟩,
  ⟨0xf00108, [], 64, 0x0, 0x0, 0x0, 0x0, 0x0⟩,
  ⟨0xf00110, [], 64, 0x0, 0x0, 0x0, 0x0, 0x0⟩,
  ⟨0xf00118, [], 64, 0x0, 0x0, 0x0, 0x0, 0x0⟩,
  ⟨0xf00120, [], 64, 0x0, 0x0, 0x0, 0x0, 0x0⟩,
  ⟨0xf00128, [], 64, 0x0, 0x0, 0x0, 0x0, 0x0⟩]

/-- The rows of block ERR. -/
def regRowsERR : List RegRow := [
  ⟨0x1000000, [], 32, 0xfff, 0x0, 0x0, 0x0, 0x0⟩,
  ⟨0x1000004, [], 32, 0x0, 0x0, 0x0, 0x0, 0x0⟩,
  ⟨0x1000008, [], 32, 0x0, 0x0, 0x0, 0x0, 0x0⟩,
  ⟨0x1000010, [], 64, 0x0, 0x0, 0x0, 0x0, 0x0⟩,
  ⟨0x1000028, [(8, 0x8)], 64, 0x0, 0x0, 0x0, 0x0, 0x0⟩,
  ⟨0x1001000, [(64, 0x20)], 256, 0x0, 0x0, 0x0, 0x0, 0x0⟩,
  ⟨0x1010000, [(4096, 0x20)], 256, 0x0, 0x0, 0x0, 0x0, 0x0⟩]

/-- The rows of block DBG. -/
def regRowsDBG : List RegRow := [
  ⟨0x1100000, [], 64, 0x0, 0xffffffff00000007, 0x0, 0x0, 0x0⟩,
  ⟨0x1100008, [], 32, 0x0, 0x0, 0x0, 0x0, 0x0⟩,
  ⟨0x1100010, [], 64, 0x0, 0x0, 0x0, 0x0, 0x0⟩,
  ⟨0x1100018, [], 32, 0x0, 0x0, 0x0, 0x0, 0x0⟩,
  ⟨0x1100100, [], 64, 0x0, 0x0, 0x0, 0x0, 0x0⟩,
  ⟨0x1100108, [], 64, 0x0, 0x0, 0x0, 0x0, 0x0⟩]

/-- The rows of the block that stands at position `b` of Table 00-3. -/
def regRowsOf (b : Nat) : List RegRow :=
  match b with
  | 0 => regRowsGRD
  | 1 => regRowsSIZ
  | 2 => regRowsHST
  | 3 => regRowsPWC
  | 4 => regRowsCCH
  | 5 => regRowsPST
  | 6 => regRowsWYB
  | 7 => regRowsLVY
  | 8 => regRowsDRY
  | 9 => regRowsMEM
  | 10 => regRowsHCH
  | 11 => regRowsSTG
  | 12 => regRowsTPK
  | 13 => regRowsCOL
  | 14 => regRowsMMF
  | 15 => regRowsWHL
  | 16 => regRowsERR
  | 17 => regRowsDBG
  | _ => []

/-- Whether displacement `d` is one of the places that the index dimensions reach. -/
def dimsReach : List (Nat × Nat) → Nat → Bool
  | [], d => d == 0
  | (n, st) :: ds, d =>
    match ds with
    | [] => d % st == 0 && decide (d / st < n)
    | _ => decide (d / st < n) && dimsReach ds (d % st)

/-- The row whose register begins at BAR0 offset `off`, or none (R19: an offset not assigned to a register). -/
def findRow (off : Nat) : Option RegRow :=
  (regRowsOf (off / 0x100000)).find? fun r => decide (r.base ≤ off) && dimsReach r.dims (off - r.base)

/-- The value that the register at `off` holds after reset: the Reset column of its table; 0 where no register is. -/
def regReset (off : Nat) : Nat :=
  match findRow off with
  | some r => r.reset
  | none => 0

/-- Offsets within their block of the counters that R85 and the chapters that refer to it name. -/
def counterBases : Nat → List Nat
  | 2 => [0x100, 0x108, 0x110, 0x118, 0x120, 0x128, 0x130, 0x138, 0x140, 0x148, 0x150]
  | 3 => [0x200, 0x208, 0x210, 0x218, 0x220]
  | 4 => [0x20, 0x28, 0x30, 0x38, 0x40, 0x48, 0x50, 0x58, 0x60]
  | 5 => [0x8, 0x10, 0x18, 0x20, 0x28, 0x30, 0x38, 0x48, 0x50, 0x58, 0x60, 0x68, 0x70, 0x78, 0x80, 0x88, 
      0x90]
  | 6 => [0x30, 0x38, 0x40, 0x48, 0x50]
  | 7 => [0x100, 0x108, 0x110, 0x118, 0x120, 0x128, 0x130]
  | 8 => [0x100, 0x108, 0x110, 0x118, 0x120, 0x128, 0x130, 0x138, 0x140, 0x148]
  | 9 => [0x100, 0x108, 0x110, 0x118, 0x120, 0x128, 0x130, 0x138, 0x140, 0x148, 0x150, 0x158]
  | 10 => [0x1010, 0x1018, 0x1020, 0x1028, 0x1030, 0x1038, 0x1040, 0x1048, 0x1050, 0x1058, 0x1060]
  | 11 => [0x100, 0x108, 0x110, 0x118, 0x120, 0x128, 0x130, 0x138, 0x140, 0x148, 0x180, 0x1c0]
  | 12 => [0x20, 0x110, 0x1088, 0x1090, 0x1098, 0x10a0]
  | 13 => [0x100, 0x108, 0x110, 0x118, 0x120, 0x128, 0x130, 0x138, 0x140, 0x148, 0x150, 0x158, 0x160]
  | 14 => [0x100, 0x108, 0x110, 0x118, 0x120, 0x128]
  | 15 => [0x100, 0x108, 0x110, 0x118, 0x120, 0x128]
  | 16 => [0x10, 0x28]
  | 17 => [0x100, 0x108]
  | _ => []

/-- The register at an offset is one of those counters. -/
def isCounter (off : Nat) : Bool :=
  match findRow off with
  | some r => (counterBases (off / 0x100000)).contains (r.base % 0x100000)
  | none => false

end Sys2Proof.Machine
end

