-- ==== Sys2Proof/Machine/State.lean ====
section
/-! DEFINITION. The state of the device, plain data, and the state right after a power-on reset. -/
namespace Sys2Proof.Machine

/-- Why a step can stop with a fault: nothing in this model does. The one constructor is never answered. -/
inductive Fault where
  /-- kept so that the type is not empty; no meaning answers it (safe) -/
  | none
deriving DecidableEq, Repr

/-- Why a step can refuse a command. -/
inductive Refusal where
  /-- answered by the arm of a command that has no meaning in this model (safe: the step stops) -/
  | notModelled (mnemonic : String)
deriving DecidableEq, Repr

/-- A completion record that has not been written (Table 15-5), without PHASE and SQHEAD, which the write supplies. -/
structure CplRec where
  tag    : Nat
  gen    : Nat
  status : Nat
  opcode : Nat
  errid  : Nat
  detail : Nat
  result : Nat
deriving DecidableEq, Repr

/-- What a ring keeps besides its registers: descriptors fetched and not armed, records held, the phase of the next
record, commands in flight. -/
structure Ring where
  fetched : List Line
  held    : List CplRec
  phase   : Bool
  inflight : Nat
deriving DecidableEq, Repr

/-- A half of a 64-bit register latched for an agent (R14): register offset and 32-bit value. -/
structure Latch where
  agent : Agent
  off   : Nat
  val   : Nat
deriving DecidableEq, Repr

/-- The device: every register, memory, buffer, counter and mode. -/
structure Dev where
  /-- registers by BAR0 offset (doorbells at 2^32 + BAR2 offset), those that differ from their reset value -/
  regs    : List (Nat × Word64)
  wlatch  : List Latch
  rlatch  : List Latch
  /-- memory bytes by key, those that are not zero -/
  mem     : List Host.Cell
  /-- lines (key / 64) that are not good -/
  bad     : List (Nat × LineState)
  /-- page-table entries (Table 08-3), those that are not 0 -/
  pt      : List (Nat × BitVec 128)
  /-- the next generation (R214) -/
  genNext : Nat
  cmds    : List Cmd
  dying   : List Dying
  log     : ErrLog
  outs    : List Out
  rings   : List (Nat × Ring)
  /-- the CXL component registers of BAR4 as they were last written, by offset (R443) -/
  comp    : List (Nat × Nat)
  /-- the lowest ring that the next turn of fetching serves (R452) -/
  ringTurn : Nat
  liv     : Livery
  tiers   : Tiers
  hitches : List (Nat × Hitch)
  stg     : Staging
  tpk     : Turnpike
  col     : Collective
  landed  : List Landed
  mmf     : Mmf
  cch     : Coaches
  job     : Job
  srv     : Serving
  dbg     : Harness
  /-- nanoseconds passed, for the counters of microseconds and milliseconds -/
  ns      : Nat
  pwr     : Power
  grd     : Guard
deriving DecidableEq, Repr

/-- The device and the commands that wait, first in, first out. -/
structure State where
  pending : List Instr
  dev     : Dev
deriving DecidableEq, Repr

/-- The device in its power-on reset, not yet released: registers at their reset values (GRD_LIFECYCLE and GRD_RESETCAUSE
as the log names them), memory zero, nothing under way, and the Guard's non-volatile contents as the log names them. -/
def Dev.reset : Dev :=
  { regs := [(0x4, 2), (0x8, 1)], wlatch := [], rlatch := [], mem := [], bad := [], pt := [], genNext := 1, cmds := [], dying := [],
    log := ⟨[], 1, []⟩, outs := [], rings := [], comp := [], ringTurn := 0, liv := ⟨[], [], [], false, 0⟩,
    tiers := { moves := [], reqs := [], waits := [], opens := [], ttEnd := false, ttHalted := false, ttNow := [], lost := [],
               noted := [], retired := [], ce := [], rtSteps := [], portsOff := [], listed := [], found := [], lostBy := [],
               filter := [], snoops := [], laid := [], stalls := 0, hdmRec := false }
    hitches := [],
    stg := { outbox := [], inbox := [], queue := [], waiting := [], acc := [], deficit := [], turn := [], headKiB := 16,
             vc6Lim := 16, vc7Lim := 16, onceCrc := [], onceMal := [], onceMis := [], onceNor := [] },
    tpk := { shape := [], police := [], tc := [], tp := [], onceRed := [], paused := [], txFrames := [], rxFrames := [], held := [], slew := 0, slewPh := 0,
             t1 := none, good := 0, missed := 0, base := [] },
    col := ⟨[], [], false⟩, landed := [], mmf := ⟨0, [], [], [], [], [], [], [], []⟩, cch := ⟨[], [], []⟩,
    job := { launch := none, gather := none, unacked := [], list := [], fanout := 2, lastLseq := 0, nextOrd := 0, heldReq := [],
             ownReq := none, tgoTime := 0, wipeCxl := false, drains := [] },
    srv := ⟨none, none, 0, none⟩, dbg := ⟨[], [], [], [], [], [], 0, [], false, none, false⟩, ns := 0,
    pwr := { gated := [.dsPort 0, .dsPort 1], awake := [], woken := 0, wokenCl := none, deferred := [], sinceUp := 10, sinceDrop := 100,
             target := [], winUs := 1000000, hot := false, forced := false, refresh2 := 0, half := 0, thr34 := none,
             fastLim := false, slowLim := false, overLim := 0, lost := 0, energy := 0, trip := 0, throttle := false,
             vid := [750, 750, 800], meters := List.replicate 10 ⟨0, 0, 0⟩, hist := [], lowTicks := 0 },
    grd := { stage := .held 1, straps := ⟨0, false, false, true, 0xFF⟩, sram := false, trained := false, hbm := false,
             served := false, fence := [], clearing := 0, meterLog := [], meterSeq := 0, sealed := true,
             fwRsa := List.replicate 48 0, fwSlh := List.replicate 48 0, mfgHash := List.replicate 96 0, lcTarget := none,
             ownHash := none, keys := false, flash := [], opened := none, flashBad := false, image := [], coldWait := false,
             draws := 0, spdmA := [], spdmB := [], spdmM := [], spdmLast := none, wiping := false, grade := 0x40, ship := 2 ^ 64 - 1 } }

/-- The device right after reset, with no command waiting. -/
def State.reset : State := ⟨[], Dev.reset⟩

end Sys2Proof.Machine
end

