-- ==== Sys2Proof/Machine/Ops.lean ====
section
/-! DEFINITION. The named operations over registers, memory, the error log and commands that every family uses. -/
namespace Sys2Proof.Machine

/-! ### Registers -/

/-- What a register that is not listed holds: its reset value. -/
def regDefault (k : Nat) : Word64 := BitVec.ofNat 64 (regReset k)

/-- The register at a BAR0 offset. -/
def Dev.reg (s : Dev) (off : Nat) : Nat := (Sparse.get regDefault s.regs off).toNat

def Dev.setReg (s : Dev) (off v : Nat) : Dev :=
  { s with regs := Sparse.put regDefault s.regs off (BitVec.ofNat 64 v) }

/-- Bits lo + w - 1 : lo of a register. -/
def Dev.fld (s : Dev) (off lo w : Nat) : Nat := bits (s.reg off) lo w
def Dev.flag (s : Dev) (off i : Nat) : Bool := bit (s.reg off) i
def Dev.setFld (s : Dev) (off lo w v : Nat) : Dev := s.setReg off (setBits (s.reg off) lo w v)
def Dev.setFlag (s : Dev) (off i : Nat) (b : Bool) : Dev := s.setFld off i 1 b.toNat

/-- A 64-bit counter advanced by `n`, wrapping (R85). -/
def Dev.bump (s : Dev) (off n : Nat) : Dev := s.setReg off (s.reg off + n)

/-- A power-gated domain leaves its gate, which counts (R510, R512); any other is left as it is. -/
def Dev.ungate (s : Dev) (dm : Domain) : Dev :=
  if s.pwr.gated.contains dm then
    { s.bump Reg.PWC_CNT_PGWAKE 1 with pwr := { s.pwr with gated := s.pwr.gated.filter (· != dm) } }
  else s

/-- Downstream port q has its clock and leaves reset (R580): its domain is powered. -/
def Dev.dsRelease (s : Dev) (q : Nat) : Dev :=
  let s := s.ungate (.dsPort q)
  { s with outs := s.outs ++ [.dsRefclk q true, .dsPerst q false] }
/-- Downstream port q is held in reset with its clock stopped, and is power-gated (R580, Table 17-1). -/
def Dev.dsHold (s : Dev) (q : Nat) : Dev :=
  { s with outs := s.outs ++ [.dsPerst q true, .dsRefclk q false]
           pwr := { s.pwr with gated := s.pwr.gated.filter (· != .dsPort q) ++ [.dsPort q] } }

/-- The device works (R532, R533, R525, R577): reset is released, the firmware is verified and nothing has tripped. Before
that no partner can make it do anything, and only the Guard and its boot act. -/
def Dev.alive (s : Dev) : Bool :=
  s.grd.stage == .run && s.flag Reg.GRD_BOOTSTAT 8 && s.fld Reg.GRD_BOOTSTAT 0 4 != 8

/-- A command's effect on the device; the queue stays. A device that does not work takes no effect. -/
def State.upd (s : State) (f : Dev → Dev) : Host.Outcome State Fault Refusal :=
  .next { s with dev := if s.dev.alive then f s.dev else s.dev }

/-- The effect of an event that the Guard, its boot, a supply or a reset pin takes, in any state. -/
def State.guard (s : State) (f : Dev → Dev) : Host.Outcome State Fault Refusal := .next { s with dev := f s.dev }

/-- The effect of an event of the power and thermal controllers, which the always-on domain runs whenever reset is released,
before the firmware is verified and after a trip (R507, R525). -/
def State.always (s : State) (f : Dev → Dev) : Host.Outcome State Fault Refusal :=
  .next { s with dev := if s.dev.grd.stage = .run then f s.dev else s.dev }

/-- BAR0 serves an offset to the host (R532, R533): every one in READY, the GRD and ERR blocks in RECOVERY once the
start-up's 900 ms have passed. -/
def Dev.barOpen (s : Dev) (off : Nat) : Bool :=
  s.grd.stage == .run && match s.fld Reg.GRD_BOOTSTAT 0 4 with
    | 5 => true
    | 6 => s.grd.served && (off / 0x100000 == 0 || off / 0x100000 == 16)
    | _ => false

/-- A step for every element of a list. -/
def Dev.each {α : Type} (s : Dev) (xs : List α) (f : Dev → α → Dev) : Dev := xs.foldl f s

/-- Fabric time (R377). -/
def Dev.now (s : Dev) : Nat := s.reg Reg.TPK_TIME

def Dev.emit (s : Dev) (o : Out) : Dev := { s with outs := s.outs ++ [o] }

/-! ### Memory: one list of bytes, the tier in bits 63:60 of the key -/

def keyTier (t off : Nat) : Nat := t * 2 ^ 60 + off
/-- A byte of the Coach store of Coach n. -/
def csKey (n off : Nat) : Nat := n * 2 ^ 26 + off
def chKey (off : Nat) : Nat := keyTier 1 off
def hbmKey (frame off : Nat) : Nat := keyTier 2 (frame * 2 ^ 21 + off)
def cxlKey (q frame off : Nat) : Nat := keyTier (3 + q) (frame * 2 ^ 21 + off)
/-- A job address in the regions that a command holds (Cmd.reads, Cmd.writes), beside the keys of the Coach stores. -/
def jobKey (a : Nat) : Nat := 2 ^ 60 + a
def lentKey (lender frame off : Nat) : Nat := keyTier 5 (lender * 2 ^ 40 + frame * 2 ^ 21 + off)

/-- What a byte of memory that is not listed reads as. -/
def memDefault (_ : Nat) : Byte := 0

def Dev.rd (s : Dev) (k : Nat) : Byte := Sparse.get memDefault s.mem k
def Dev.wr (s : Dev) (k : Nat) (v : Byte) : Dev := { s with mem := Sparse.put memDefault s.mem k v }

def Dev.rdBytes (s : Dev) (k n : Nat) : List Byte := (List.range n).map fun i => s.rd (k + i)
def Dev.rdNum (s : Dev) (k n : Nat) : Nat := leNat (s.rdBytes k n)
def Dev.rdLine (s : Dev) (k : Nat) : Line := BitVec.ofNat 512 (s.rdNum k 64)

def badDefault (_ : Nat) : LineState := .good
/-- The condition of the line that holds a byte. -/
def Dev.lineOf (s : Dev) (k : Nat) : LineState := Sparse.get badDefault s.bad (k / 64)
def Dev.setLine (s : Dev) (k : Nat) (l : LineState) : Dev :=
  { s with bad := Sparse.put badDefault s.bad (k / 64) l }

/-- Bytes written from key `k` on. A write that covers a line whole makes the line good (R299). -/
def Dev.wrBytes (s : Dev) (k : Nat) (bs : List Byte) : Dev :=
  let s1 := ((List.range bs.length).zip bs).foldl (fun s p => s.wr (k + p.1) p.2) s
  let lo := (k + 63) / 64
  let hi := (k + bs.length) / 64
  { s1 with bad := s1.bad.filter fun l => !(decide (lo ≤ l.1) && decide (l.1 < hi)) }

def Dev.wrNum (s : Dev) (k n v : Nat) : Dev := s.wrBytes k (leBytes n v)

/-- The lines that a span of bytes touches. -/
def linesOf (k n : Nat) : List Nat := (List.range ((k % 64 + n + 63) / 64)).map fun i => (k / 64 + i) * 64

/-! ### Job addresses (R268 to R271) -/

def chBase : Nat := 0x080000000000
def chSize : Nat := 0x3C000000

def ptDefault (_ : Nat) : BitVec 128 := 0
def Dev.pte (s : Dev) (p : Nat) : Nat := (Sparse.get ptDefault s.pt p).toNat
def Dev.setPte (s : Dev) (p e : Nat) : Dev :=
  { s with pt := Sparse.put ptDefault s.pt p (BitVec.ofNat 128 e) }

def pteHome (e : Nat) : Nat := bits e 0 3
def ptePin (e : Nat) : Bool := bit e 3
def pteWp (e : Nat) : Bool := bit e 4
def pteMstate (e : Nat) : Nat := bits e 5 3
def ptePool (e : Nat) : Nat := bits e 9 3
def pteFrame (e : Nat) : Nat := bits e 32 32
def pteLender (e : Nat) : Nat := bits e 64 16

/-- Whether a span lies wholly in the Coach House window. -/
def inCH (a n : Nat) : Bool := decide (chBase ≤ a) && decide (a + n ≤ chBase + chSize)

/-- The pages that a span of the paged region touches. -/
def pagesOf (a n : Nat) : List Nat := (List.range ((a % 2 ^ 21 + n + (2 ^ 21 - 1)) / 2 ^ 21)).map fun i => a / 2 ^ 21 + i

/-- A range in HBM (R270): every page HBM-homed and pinned. -/
def Dev.inHBM (s : Dev) (a n : Nat) : Bool :=
  decide (a + n ≤ 2 ^ 43) && (pagesOf a n).all fun p => pteHome (s.pte p) == 1 && ptePin (s.pte p)

/-- The memory key of a byte of a page's home. -/
def homeKey (e off : Nat) : Nat :=
  match pteHome e with
  | 1 => hbmKey (pteFrame e) off
  | 2 => cxlKey 0 (pteFrame e) off
  | 3 => cxlKey 1 (pteFrame e) off
  | _ => lentKey (pteLender e) (pteFrame e) off

/-- A job address translated: the memory key, or the MEM code of the fault (R269, R282). -/
inductive Xlat where
  | key (k : Nat)
  | bad (code : Nat)
deriving DecidableEq, Repr

/-- MSTATE code of an unreachable page (Table 08-5). -/
def mstUnreachable : Nat := 3

def Dev.xlate (s : Dev) (a : Nat) (wr : Bool) : Xlat :=
  if chBase ≤ a then (if a < chBase + chSize then .key (chKey (a - chBase)) else .bad 1)
  else if 2 ^ 43 ≤ a then .bad 1
  else
    let e := s.pte (a / 2 ^ 21)
    if pteHome e = 0 then .bad 1
    else if pteMstate e = mstUnreachable then .bad 8
    else if wr && pteWp e then .bad 2
    else .key (homeKey e (a % 2 ^ 21))

/-- The key of an address in the Coach House. -/
def chAddr (a : Nat) : Nat := chKey (a - chBase)

/-- A valid address of a counter: 0, or 8-byte aligned in the Coach House. -/
def ctrOk (a : Nat) : Bool := a == 0 || (a % 8 == 0 && inCH a 8)

/-- The first address of a span that faults, with the MEM code; page by page in ascending order. -/
def Dev.spanFault (s : Dev) (a n : Nat) (wr : Bool) : Option (Nat × Nat) :=
  if n = 0 then none
  else if inCH a n then none
  else ((pagesOf a n).map fun p => max a (p * 2 ^ 21)).findSome? fun x =>
    match s.xlate x wr with | .bad c => some (c, x) | .key _ => none

/-- The bytes of a span of job addresses; bytes that do not translate read as 0 (the caller checks spanFault first). -/
def Dev.rdJob (s : Dev) (a n : Nat) : List Byte :=
  (List.range n).map fun i => match s.xlate (a + i) false with | .key k => s.rd k | .bad _ => 0

/-- The part of a span that lies in one page or in the Coach House, cut at page boundaries. -/
def cutPages (a : Nat) : Nat → List Byte → List (Nat × List Byte)
  | 0, _ => []
  | fuel + 1, bs =>
    match bs with
    | [] => []
    | _ =>
      let n := 2 ^ 21 - a % 2 ^ 21
      (a, bs.take n) :: cutPages (a + n) fuel (bs.drop n)

/-- Bytes written to a span of job addresses that translates. -/
def Dev.wrJob (s : Dev) (a : Nat) (bs : List Byte) : Dev :=
  (cutPages a (bs.length / 2 ^ 21 + 2) bs).foldl (fun s p =>
    match s.xlate p.1 true with | .key k => s.wrBytes k p.2 | .bad _ => s) s

/-! ### Errors (R554 to R561, R592) -/

def clsARITH : Nat := 1
def clsMEM : Nat := 2
def clsFAB : Nat := 3
def clsROUTE : Nat := 4
def clsSPARSE : Nat := 5
def clsHOST : Nat := 6
def clsJOB : Nat := 7
def clsGUARD : Nat := 8

/-- Positions in Table 00-3. -/
def blkGRD : Nat := 0
def blkHST : Nat := 2
def blkPWC : Nat := 3
def blkCCH : Nat := 4
def blkPST : Nat := 5
def blkWYB : Nat := 6
def blkLVY : Nat := 7
def blkDRY : Nat := 8
def blkMEM : Nat := 9
def blkHCH : Nat := 10
def blkSTG : Nat := 11
def blkTPK : Nat := 12
def blkCOL : Nat := 13
def blkMMF : Nat := 14
def blkWHL : Nat := 15

/-- The codes kept as power-safe records (R560). -/
def isPsafe (cls code : Nat) : Bool :=
  cls == 8 || [(1, 2), (2, 3), (2, 5), (2, 9), (3, 3), (3, 4), (7, 9)].contains (cls, code)

def logDefault (_ : Nat) : Option ErrRec := none

/-- The 28 bytes before the CRC of Table 19-1, and the whole record. -/
def ErrRec.body (r : ErrRec) : List Byte :=
  leBytes 4 (r.code + r.cls * 2 ^ 16) ++ leBytes 4 r.detail ++ leBytes 4 r.gen ++ leBytes 1 r.block ++ leBytes 1 r.inst
    ++ leBytes 1 (r.psafe.toNat + 2 * r.genv.toNat) ++ leBytes 1 0 ++ leBytes 8 r.time ++ leBytes 4 r.seq
def ErrRec.bytes (r : ErrRec) : List Byte := r.body ++ leBytes 4 (crc32c r.body)

/-- The ERRID word of an error name. -/
def errId (cls code : Nat) : Nat := cls * 2 ^ 16 + code

/-- An error record is made (R556, R557, R559, R560): it takes a SEQ, counts in its class, is appended unless 4,095 records
are unread, is kept power-safe where R560 says so, and becomes the first record of the command it names. -/
def Dev.record (s : Dev) (cls code detail gen : Nat) (block inst : Nat) : Dev :=
  let genv := gen != 0
  let r : ErrRec := ⟨code, cls, detail % 2 ^ 32, gen % 2 ^ 32, block, inst, isPsafe cls code, genv, s.now, s.log.seq % 2 ^ 32⟩
  let head := s.fld Reg.ERR_HEAD 0 12
  let tail := s.fld Reg.ERR_TAIL 0 12
  let full := (tail + 1) % 4096 == head
  let log : ErrLog :=
    { slots := if full then s.log.slots else Sparse.put logDefault s.log.slots tail (some r)
      seq := s.log.seq + 1
      psafe := if r.psafe then (s.log.psafe ++ [r]).drop (s.log.psafe.length + 1 - 64) else s.log.psafe }
  let mine (c : Cmd) : Bool := genv && c.gen % 2 ^ 32 == gen % 2 ^ 32
  let note (c : Cmd) : Cmd := { c with err := c.err <|> some (errId cls code, detail % 2 ^ 32) }
  let s1 : Dev := { s with
    log := log
    cmds := updFirst mine note s.cmds
    dying := updFirst (fun x => mine x.cmd) (fun x => { x with cmd := note x.cmd }) s.dying }
  let s2 := if full then s1.bump Reg.ERR_CNT_DROP 1 else s1.setFld Reg.ERR_TAIL 0 12 ((tail + 1) % 4096)
  s2.bump (Reg.ERR_CNT cls) 1

/-! ### The size table and the fence record (R39, R40, R547) -/

/-- A change of the size table: SIZ_GEN goes odd, the fields change, SIZ_GEN goes even (R40). -/
def Dev.sizChange (s : Dev) (f : Dev → Dev) : Dev :=
  let up (s : Dev) : Dev := s.setReg Reg.SIZ_GEN ((s.reg Reg.SIZ_GEN + 1) % 2 ^ 32)
  up (f (up s))

/-- An entry of the fence record: KIND and INDEX (Table 18-8). -/
def fenceEntry (kind index : Nat) : Nat := kind * 2 ^ 28 + index

/-- The Guard enters a unit in its fence record, which holds 4,320 entries (R547). -/
def Dev.fenceEnter (s : Dev) (kind index : Nat) : Dev :=
  if 4320 ≤ s.grd.fence.length then s.record clsGUARD 0x00B (fenceEntry kind index) 0 blkGRD 0
  else { s with grd := { s.grd with fence := s.grd.fence ++ [fenceEntry kind index] } }

/-! ### Generations (R214) -/

/-- Generations that are live: armed or dying commands, barrows, outstanding requests. -/
def Dev.liveGens (s : Dev) : List Nat :=
  s.cmds.map (·.gen) ++ s.dying.map (·.cmd.gen) ++ s.mmf.reqs.map (·.gen)
    ++ s.liv.barrows.filterMap fun b => b.2.map (·.gen)

/-- The first value from `g` on whose low 32 bits are neither 0 nor those of a live generation. -/
def freshGen (live : List Nat) : Nat → Nat → Nat
  | 0, g => g
  | fuel + 1, g =>
    if g % 2 ^ 32 = 0 || live.any fun x => x % 2 ^ 32 == g % 2 ^ 32 then freshGen live fuel (g + 1) else g

/-- The generation that the next arm takes. -/
def Dev.nextGen (s : Dev) : Nat := freshGen s.liveGens (s.liveGens.length + 2) s.genNext

/-! ### Command headers (Tables 06-1 to 06-4, R594) -/

def dOp (d : Line) : Nat := lnum d 0 2
def dV (d : Line) : Bool := lfield d 2 0 1 == 1
def dPort (d : Line) : Bool := lfield d 2 1 1 == 1
def dClass (d : Line) : Nat := lfield d 3 0 4
def dTag (d : Line) : Nat := lnum d 4 4
def dHand (d : Line) : Nat := lnum d 8 8

/-- The commit class of an opcode (Table 06-3). -/
def classOf (op : Nat) : Nat :=
  if op < 0x0200 then 0 else if op < 0x0400 then 1 else if op < 0x0600 then 2 else 3

/-- The JOB states of Table 16-1. -/
def jIDLE : Nat := 0
def jMANIFEST : Nat := 1
def jARMED : Nat := 2
def jRUNNING : Nat := 3
def jPREEMPTED : Nat := 4
def jSCRUBBING : Nat := 5
def Dev.jobState (s : Dev) : Nat := s.fld Reg.GRD_JOBSTAT 0 3

/-- The meters count from T_GO until the scrub completes (R502). -/
def Dev.metering (s : Dev) : Bool := decide (jRUNNING ≤ s.jobState) && decide (s.jobState ≤ jSCRUBBING)
def Dev.meter (s : Dev) (off n : Nat) : Dev := if s.metering then s.bump off n else s

/-- Whether the job state accepts an opcode (Table 16-3). -/
def jobAccepts (st op : Nat) (resize : Bool) : Bool :=
  match st with
  | 0 => op == 0x0700 || op == 0x0701 || op == 0x0703
  | 1 | 2 => op == 0x0703
  | 3 => op != 0x0701 || resize
  | 4 => op == 0x0702 || op == 0x0703
  | _ => false

/-- The first byte offset at which the header breaks Table 06-1: reserved bits, then HAND. -/
def headBad (d : Line) : Option Nat :=
  if lfield d 2 2 6 ≠ 0 then some 2
  else if lfield d 3 4 4 ≠ 0 then some 3
  else if !ctrOk (dHand d) then some 8
  else none

/-- A refusal: class, code, detail. -/
structure Refuse where
  cls    : Nat
  code   : Nat
  detail : Nat
deriving DecidableEq, Repr

/-- Steps 2 to 4 of R594. -/
def Dev.headCheck (s : Dev) (d : Line) : Option Refuse :=
  if dClass d ≠ classOf (dOp d) then some ⟨clsJOB, 0x042, dClass d⟩
  else if !jobAccepts s.jobState (dOp d) (dOp d == 0x0701 && lfield d 32 22 1 == 1 && s.fld Reg.GRD_JOBMEMB 0 16 == 0)
  then some ⟨clsJOB, 0x001, dOp d + s.jobState * 2 ^ 16⟩
  else match headBad d with
    | some n => some ⟨clsJOB, 0x041, n⟩
    | none => none

/-! ### Rings: completion records (R453 to R455) -/

def ringDefault (_ : Nat) : Ring := ⟨[], [], true, 0⟩
def Dev.ring (s : Dev) (r : Nat) : Ring := Sparse.get ringDefault s.rings r
def Dev.setRing (s : Dev) (r : Nat) (x : Ring) : Dev := { s with rings := Sparse.put ringDefault s.rings r x }

/-- The doorbell registers of ring r, kept at 2^32 plus their BAR2 offset (R450). -/
def dbSqTail (r : Nat) : Nat := 2 ^ 32 + 0x1000 * r
def dbCqHead (r : Nat) : Nat := 2 ^ 32 + 0x1000 * r + 4

def Dev.cqSize (s : Dev) (r : Nat) : Nat := 2 ^ s.fld (Reg.HST_RCFG r) 16 5
def Dev.cqFull (s : Dev) (r : Nat) : Bool :=
  (s.fld (Reg.HST_RHEAD r) 16 16 + 1) % s.cqSize r == s.reg (dbCqHead r) % s.cqSize r

/-- The upstream link is up. -/
def Dev.upLink (s : Dev) : Bool := s.fld Reg.HST_STAT 8 3 != 0

/-- The 32 bytes of a completion record (Table 15-5). -/
def CplRec.bytes (c : CplRec) (r sqhead : Nat) (phase : Bool) : List Byte :=
  leBytes 4 c.tag ++ leBytes 4 c.gen ++ leBytes 1 c.status ++ leBytes 1 phase.toNat ++ leBytes 2 sqhead ++ leBytes 1 r
    ++ leBytes 1 0 ++ leBytes 2 c.opcode ++ leBytes 4 c.errid ++ leBytes 4 c.detail ++ leBytes 8 c.result

/-- One held record written where a slot is free. -/
def Dev.writeRec (s : Dev) (r : Nat) (c : CplRec) : Dev :=
  let x := s.ring r
  let t := s.fld (Reg.HST_RHEAD r) 16 16
  let sq := s.fld (Reg.HST_RHEAD r) 0 16
  let t' := (t + 1) % s.cqSize r
  let s := s.emit (.hostWrite (s.reg (Reg.HST_CQBASE r) + 32 * t) (c.bytes r sq x.phase))
  let s := s.setRing r { x with phase := if t' = 0 then !x.phase else x.phase }
  (s.setFld (Reg.HST_RHEAD r) 16 16 t').bump Reg.HST_CNT_CPL 1

/-- Held records written in order while slots are free and the link is up (R454, R457). -/
def Dev.drainRecs (s : Dev) (r : Nat) : Nat → Dev
  | 0 => s
  | fuel + 1 =>
    match (s.ring r).held with
    | [] => s
    | c :: cs =>
      if s.cqFull r || !s.upLink then s
      else Dev.drainRecs ((s.setRing r { s.ring r with held := cs }).writeRec r c) r fuel

/-- A ring in DRAIN with nothing in flight and nothing held reads IDLE (R455). -/
def Dev.ringSettle (s : Dev) (r : Nat) : Dev :=
  if s.fld (Reg.HST_RSTAT r) 0 2 = 2 && (s.ring r).inflight = 0 && (s.ring r).held.isEmpty && (s.ring r).fetched.isEmpty
  then s.setFld (Reg.HST_RSTAT r) 0 2 0 else s

/-- A completion record joins the records held and is written as soon as it may be. -/
def Dev.postRec (s : Dev) (r : Nat) (c : CplRec) : Dev :=
  let x := s.ring r
  let s := s.setRing r { x with held := x.held ++ [c] }
  (s.drainRecs r (x.held.length + 1)).ringSettle r

/-! ### Commands: arm, refuse, complete, kill (R214, R219, R237, R243) -/

/-- The command that has generation `g`. -/
def Dev.cmd (s : Dev) (g : Nat) : Option Cmd := s.cmds.find? fun c => c.gen == g

def Dev.updCmd (s : Dev) (g : Nat) (f : Cmd → Cmd) : Dev := { s with cmds := updFirst (fun c => c.gen == g) f s.cmds }
def Dev.setBody (s : Dev) (g : Nat) (b : CmdBody) : Dev := s.updCmd g fun c => { c with body := b }

/-- The block and unit that R592 names for a refusal at arm. -/
def refuseAt (src : Source) (cls code : Nat) : Nat × Nat :=
  if cls = clsJOB then
    if code < 0x040 then (blkGRD, 0)
    else match src with
      | .ring r => (blkHST, r)
      | .coachman => (blkHST, 0xFF)
      | .seq n => (blkCCH, n)
  else if cls = clsHOST then (blkHST, match src with | .ring r => r | _ => 0)
  else if cls = clsFAB then (blkCOL, 0)
  else if cls = clsROUTE then (blkPST, 0)
  else if cls = clsMEM then (if code = 0x00A then blkDRY else blkMMF, 0)
  else (blkCCH, match src with | .seq n => n | _ => 0)

/-- A command refused at arm: its record, and its completion record with GEN 0 (R219, R556). -/
def Dev.refuse (s : Dev) (src : Source) (d : Line) (r : Refuse) : Dev :=
  let (b, i) := refuseAt src r.cls r.code
  let s := s.record r.cls r.code r.detail 0 b i
  match src with
  | .ring q => s.postRec q ⟨dTag d, 0, 1, dOp d, errId r.cls r.code, r.detail % 2 ^ 32, 0⟩
  | _ => s

/-- A command armed: it takes the next generation. -/
def Dev.arm (s : Dev) (src : Source) (d : Line) (entry : Nat) (reads writes : List (Nat × Nat)) (body : CmdBody) : Dev × Nat :=
  let g := s.nextGen
  let s := { s with genNext := g + 1, cmds := s.cmds ++ [⟨g, src, d, entry, reads, writes, none, body⟩] }
  match src with
  | .ring r => (s.setRing r { s.ring r with inflight := (s.ring r).inflight + 1 }, g)
  | _ => (s, g)

/-- The completion of a command that is no longer held (R453). -/
def Dev.complete (s : Dev) (c : Cmd) (status result : Nat) : Dev :=
  match c.src with
  | .ring r =>
    let s := s.setRing r { s.ring r with inflight := (s.ring r).inflight - 1 }
    let (e, d) := c.err.getD (0, 0)
    s.postRec r ⟨dTag c.desc, c.gen % 2 ^ 32, status, dOp c.desc, e, d, result⟩
  | .coachman => { s with srv := s.srv.ended c.gen status }
  | .seq _ => s

/-- What a command had asked of the lenders of lent HBM ends with it (R421, R436): its requests and its carriages that have not
entered the switch, and the lines that it has. -/
def Dev.lentEnd (s : Dev) (g : Nat) : Dev :=
  if !(s.mmf.lines.any (fun l => l.1 == g) || (s.mmf.reqs ++ s.mmf.queue).any fun q => q.use == .lent g) then s
  else
    let own (x : Formed) : Bool := x.ep == 41 && x.car.gen == g % 2 ^ 32 && x.car.kind == kMREQ
    { s with
      mmf := { s.mmf with
        reqs := s.mmf.reqs.filter fun q => q.use != .lent g
        queue := s.mmf.queue.filter fun q => q.use != .lent g
        lines := s.mmf.lines.filter fun l => l.1 != g }
      stg := { s.stg with
        outbox := s.stg.outbox.filter fun x => !own x
        waiting := s.stg.waiting.filter fun x => !own ⟨x.ep, x.car, none⟩ } }

/-- A command ends: it is removed and completed. -/
def Dev.finish (s : Dev) (g status result : Nat) : Dev :=
  match s.cmd g with
  | none => s
  | some c => Dev.complete { s.lentEnd g with cmds := s.cmds.filter fun x => x.gen != g } c status result

/-- A command is killed (R243): it ends with a status, or runs again, once its kill completes. -/
def Dev.kill (s : Dev) (g status : Nat) (rerun : Bool) : Dev :=
  match s.cmd g with
  | none => s
  | some c => { s.lentEnd g with cmds := s.cmds.filter fun x => x.gen != g, dying := s.dying ++ [⟨c, status, rerun⟩] }

/-- MEM_POISONADDR after a bad line is found (R299, R593). -/
def Dev.poisonAt (s : Dev) (tier a : Nat) : Dev := s.setReg Reg.MEM_POISONADDR (a / 64 * 64 + tier)

/-- Why the line of a counter cannot be read and written: MEM/0x006 poisoned, MEM/0x004 uncorrectable. -/
def Dev.ctrBad (s : Dev) (a : Nat) : Option Nat :=
  if a = 0 then none
  else match s.lineOf (chAddr a) with
    | .poison => some 6
    | .ue => some 4
    | _ => none

/-- A counter's line found bad by a command (R298, R299). -/
def Dev.ctrFault (s : Dev) (a g : Nat) : Dev :=
  match s.ctrBad a with
  | some 6 => ((s.bump Reg.MEM_CNT_POISON 1).poisonAt 5 a).record clsMEM 6 a g blkMEM 0
  | some _ =>
    let s := (s.bump Reg.MEM_CNT_UE_CH 1).setLine (chAddr a) .poison
    (s.poisonAt 5 a).record clsMEM 4 (a - chBase) g blkMEM 0
  | none => s

def Dev.ctr (s : Dev) (a : Nat) : Nat := s.rdNum (chAddr a) 8

/-- A counter advanced by `n`, modulo 2^64; a correctable error of its line is corrected. -/
def Dev.ctrAdd (s : Dev) (a n : Nat) : Dev :=
  if a = 0 then s
  else
    let s := if s.lineOf (chAddr a) = .ce then (s.setLine (chAddr a) .good).bump Reg.MEM_CNT_CE_CH 1 else s
    s.wrNum (chAddr a) 8 ((s.ctr a + n) % 2 ^ 64)

/-- A counter advanced outside a command (R593): where its line is bad, the counter is left. -/
def Dev.unitAdd (s : Dev) (a n : Nat) : Dev :=
  match s.ctrBad a with
  | some 6 => (s.bump Reg.MEM_CNT_POISON 1).poisonAt 5 a
  | some _ => s.ctrFault a 0
  | none => s.ctrAdd a n

/-- A command commits: HAND is the last act, and a bad line there kills the command instead (R237). -/
def Dev.commit (s : Dev) (g result : Nat) : Dev :=
  match s.cmd g with
  | none => s
  | some c =>
    if (s.ctrBad (dHand c.desc)).isSome then (s.ctrFault (dHand c.desc) g).kill g 2 false
    else (s.ctrAdd (dHand c.desc) 1).finish g 0 result

end Sys2Proof.Machine
end

