-- ==== Sys2Proof/Machine/RegWrite.lean ====
section
/-! DEFINITION. A write of a whole register by the access tags of its fields (R15 to R19): the shared operation behind
REGISTER_WRITE and behind every row that takes the write of a register of its own. -/
namespace Sys2Proof.Machine

/-- Whether the nibbles `lo` to `hi` of `v` all satisfy `p`. -/
def nibsAll (p : Nat → Bool) (lo hi v : Nat) : Bool :=
  (List.range (hi + 1 - lo)).all fun i => p (bits v (4 * (lo + i)) 4)

/-- The class of planes of a virtual channel (Table 11-4): whether plane `p` is in the class of VC `v` where `ex` planes
are express. VC5 and VC6 have no class of their own here. -/
def vcClass (ex v p : Nat) : Bool :=
  match v with
  | 0 | 1 => decide (p < ex)
  | 5 | 6 => true
  | _ => decide (ex ≤ p)

/-- Whether a value that a write would leave in the register at a BAR0 offset holds a reserved encoding of an RW field
(R18): the ranges that the field tables of the chapters state. -/
def regReserved (express : Nat) (off v : Nat) : Bool :=
  let f := bits v
  let lo := off % 0x100000
  match off / 0x100000 with
  | 2 =>
    if lo = 0x004 then f 0 4 == 0 || decide (8 < f 0 4)
    else if lo = 0x048 then decide (65536 < f 0 17)
    else if 0x1000 ≤ lo && lo < 0x3000 && lo % 0x20 = 0x10 then
      f 8 5 == 0 || decide (16 < f 8 5) || decide (f 16 5 < f 8 5) || decide (16 < f 16 5)
    else false
  | 3 =>
    if lo = 0x010 then f 0 7 == 0 || decide (64 < f 0 7)
    else if lo = 0x014 then f 0 4 == 0
    else false
  | 5 =>
    if 0x100 ≤ lo && lo < 0x300 then
      (if lo % 0x20 = 0 then decide (8192 < f 0 14) || f 16 5 == 0 || decide (16 < f 16 5) || decide (2 ≤ f 25 2) || f 27 2 == 3
       else false)
    else false
  | 6 => lo == 0x010 && decide (4096 < f 0 13)
  | 7 =>
    if lo = 0x004 then f 24 8 == 0
    else if lo = 0x008 then f 32 18 == 0 || decide (131072 < f 32 18)
    else false
  | 8 =>
    if lo = 0x000 then f 8 8 == 0
    else if lo = 0x008 then decide (f 0 8 ≤ f 8 8) || decide (f 16 8 ≤ f 24 8)
    else if lo = 0x018 then decide (65536 < f 0 17)
    else false
  | 9 =>
    if 0x040 ≤ lo && lo < 0x080 then decide (f 32 18 < f 0 18)
    else if lo = 0x0A0 then f 16 8 == 0
    else if lo = 0x0A4 then decide (f 0 8 < 8) || decide (100 < f 8 8)
    else false
  | 10 =>
    if lo = 0x000 then decide (f 0 8 < f 8 8)
    else if lo = 0x004 then decide (f 0 7 < 8) || decide (64 < f 0 7)
    else if lo = 0x010 then decide (f 0 8 < 5) || f 8 4 == 0 || decide (f 12 8 < 5) || f 20 4 == 0
    else false
  | 11 =>
    if lo = 0x004 then f 8 8 == 0
    else if lo = 0x010 then !nibsAll (fun x => decide (x ≤ 8)) 0 5 v
    else if lo = 0x014 then decide (f 0 8 < 8) || decide (f 8 8 < 8)
    else if lo = 0x018 then decide (f 0 8 ≤ f 8 8) || decide (4 < f 16 3)
    else if 0x020 ≤ lo && lo < 0x040 then
      !(List.range 8).all fun p => f (4 * p) 4 == 0 || vcClass express ((lo - 0x020) / 4) p
    else if lo = 0x040 then !nibsAll (fun x => decide (1 ≤ x)) 0 5 v
    else false
  | 12 =>
    if lo = 0x018 then f 8 8 == 0
    else if 0x1000 ≤ lo && lo < 0x3000 then
      let r := lo % 0x100
      if r < 0x20 then decide (f 16 8 < 5)
      else if 0x40 ≤ r && r < 0x80 then
        decide (f 16 8 < 5) || decide (f 32 10 < f 0 10) || decide (f 48 8 < 5) || f 56 2 == 3
      else false
    else if 0x4000 ≤ lo then decide (f 32 32 < 100)
    else false
  | 13 =>
    if lo = 0x000 then decide (f 0 8 < f 8 8) || f 16 8 == 0 || decide (64 < f 16 8)
    else if lo = 0x004 then f 0 8 == 0 || f 8 8 == 0 || f 16 8 == 0
    else if lo = 0x008 then decide (f 0 8 < 5) || f 8 8 == 0 || f 16 4 == 0
    else false
  | 14 =>
    if lo = 0x004 then f 0 8 == 0 || f 8 4 == 0 || f 16 8 == 0
    else if 0x1000 ≤ lo && lo < 0x1400 && lo % 0x10 = 0xC then f 1 2 == 3
    else if 0x2000 ≤ lo && lo < 0x2200 then
      f 48 1 == 1 && (f 16 9 == 0 || decide (287 < f 16 9) || f 32 9 == 0 || decide (288 < f 16 9 + f 32 9))
    else false
  | 15 => lo == 0x000 && (f 8 8 == 0 || decide (50 < f 16 6))
  | _ => false

/-- The block that R592 names for an access at a BAR0 offset. -/
def blockAt (off : Nat) : Nat := if off / 0x100000 < 18 then off / 0x100000 else blkHST

/-- The number of express planes. -/
def Dev.express (s : Dev) : Nat := s.fld Reg.SIZ_FABRIC 12 4

/-- The value that a write by an agent leaves in a register: RW bits, and GW bits where the Guard writes. -/
def mergeWrite (r : RegRow) (ag : Agent) (old v : Nat) : Nat :=
  let mask := r.rw ||| (if ag = .guard then r.gw else 0)
  (old ^^^ (old &&& mask)) ||| (v &&& mask)

/-- A job runs or is held (R503). -/
def Dev.jobHeld (s : Dev) : Bool := s.jobState == jRUNNING || s.jobState == jPREEMPTED

/-- What a register of block GRD reads: the fence record as the Guard keeps it (R547), the meters of a job that runs or is
held (R503), and the rest as it is held. -/
def Dev.grdShown (s : Dev) (off : Nat) : Nat :=
  if off = Reg.GRD_FENCECNT then s.grd.fence.length
  else if 0x1000 ≤ off then nth s.grd.fence ((off - 0x1000) / 4) 0
  else if 0x240 ≤ off && off < 0x280 && !s.jobHeld then 0
  else s.reg off

/-- What a GW field holds, as a read shows it. -/
def Dev.gwShown (s : Dev) (off : Nat) : Nat := if off < 0x100000 then s.grdShown off else s.reg off

/-- A register put: the count and the entries of the fence record lie in the Guard's store. -/
def Dev.putReg (s : Dev) (off v : Nat) : Dev :=
  if off = Reg.GRD_FENCECNT then
    { s with grd := { s.grd with fence := (List.range (v % 2 ^ 13)).map fun i => nth s.grd.fence i 0 } }
  else if 0x1000 ≤ off && off < 0x100000 then { s with grd := { s.grd with fence := s.grd.fence.set ((off - 0x1000) / 4) v } }
  else s.setReg off v

/-- A whole register written (R15 to R19): a write that would change a GW field leaves it and is recorded (R17). -/
def Dev.regWrite (s : Dev) (ag : Agent) (off v : Nat) : Dev :=
  match findRow off with
  | none => s
  | some r =>
    let old := s.gwShown off
    let new := mergeWrite r ag old v
    if regReserved s.express off new then s.record clsHOST 0x004 off 0 (blockAt off) 0
    else
      let s1 := if new = old then s else s.putReg off new
      if ag ≠ .guard && (old ^^^ v) &&& r.gw ≠ 0 then s1.record clsHOST 0x006 off 0 (blockAt off) 0 else s1

/-- The offset of the access in the records of HOST/0x004 and HOST/0x006 that it has made since sequence number `from_`: an
access to the upper word of a register, or to the second of two registers, names its own offset (R591). -/
def Dev.accessAt (s : Dev) (from_ acc : Nat) : Dev :=
  { s with log := { s.log with slots := s.log.slots.map fun x => (x.1, x.2.map fun r =>
      if (r.seq + 2 ^ 32 - from_ % 2 ^ 32) % 2 ^ 32 < s.log.seq - from_ && r.cls == clsHOST && (r.code == 4 || r.code == 6) then { r with detail := acc % 2 ^ 26 } else r) } }

/-- A write discarded because of the state in which it arrives: the error that the rule names, with the offset within the
block as detail. -/
def Dev.discard (s : Dev) (cls code off : Nat) (inst : Nat) : Dev :=
  s.record cls code (off % 0x100000) 0 (blockAt off) inst

end Sys2Proof.Machine
end

