-- ==== Sys2Proof/Machine/Livery.lean ====
section
/-! DEFINITION. The Livery: barrows, its two queues, host access (R304 to R322). -/
namespace Sys2Proof.Machine

/-! ### The pool -/

def barrowDefault (_ : Nat) : Option Barrow := none
def Dev.barrow (s : Dev) (i : Nat) : Option Barrow := Sparse.get barrowDefault s.liv.barrows i
def Dev.setBarrow (s : Dev) (i : Nat) (b : Option Barrow) : Dev :=
  { s with liv := { s.liv with barrows := Sparse.put barrowDefault s.liv.barrows i b } }

def Dev.livEn (s : Dev) : Bool := s.flag Reg.LVY_CTL 0
/-- BASE and COUNT of the window whose records are kept. -/
def Dev.livBase (s : Dev) : Nat := bits s.liv.win 12 18
def Dev.livCount (s : Dev) : Nat := bits s.liv.win 32 18
def Dev.livFree (s : Dev) : Nat := s.livCount - s.liv.barrows.length
def Dev.livReserve (s : Dev) : Nat := s.fld Reg.LVY_CFG 0 18
def Dev.livWaiting (s : Dev) : Nat := s.liv.retq.length + s.liv.norq.length

/-- The lowest free barrow (R313). -/
def lowestFree (bs : List (Nat × Option Barrow)) : Nat → Nat
  | 0 => 0
  | fuel + 1 => let i := lowestFree bs fuel; if (Sparse.get barrowDefault bs i).isSome then i + 1 else i

/-- Whether the head of the return queue, or of the normal queue, may take a barrow (R312). -/
def Dev.retMay (s : Dev) : Bool := s.livEn && !s.liv.retq.isEmpty && decide (0 < s.livFree)
def Dev.norMay (s : Dev) : Bool := s.livEn && !s.liv.norq.isEmpty && decide (s.livReserve < s.livFree)

/-- The pool is dry (R316). -/
def Dev.livDry (s : Dev) : Bool := s.livEn && decide (0 < s.livWaiting) && !s.retMay && !s.norMay

/-- The pointer of barrow `i` (R304). -/
def Dev.barrowPtr (s : Dev) (i : Nat) : Nat := chBase + (s.livBase + i) * 4096

/-- The barrow that a pointer names, or none (R311). -/
def Dev.barrowOf (s : Dev) (p : Nat) : Option Nat :=
  let b0 := chBase + s.livBase * 4096
  if p % 4096 = 0 && b0 ≤ p && p < b0 + s.livCount * 4096 then some ((p - b0) / 4096) else none

/-- Requests that cannot take a barrow now have waited (R321), and a dry spell that has ended forgets its record (R316). -/
def Dev.livSettle (s : Dev) : Dev :=
  let mark (may : Bool) (qs : List AllocReq) : List AllocReq := if may then qs else qs.map fun q => { q with waited := true }
  let s := { s with liv := { s.liv with retq := mark s.retMay s.liv.retq, norq := mark s.norMay s.liv.norq } }
  if s.livDry then s else { s with liv := { s.liv with dryRec := false } }

/-- The lowest free barrow given to a requester. -/
def Dev.livTake (s : Dev) (owner gen : Nat) : Dev × Nat :=
  let i := lowestFree s.liv.barrows (s.liv.barrows.length)
  let s := s.setBarrow i (some ⟨owner, 0, false, gen⟩)
  let s := s.bump Reg.LVY_CNT_ALLOC 1
  let s := if s.livFree < s.fld Reg.LVY_LOWWM 0 18 then s.setFld Reg.LVY_LOWWM 0 18 s.livFree else s
  (s, s.barrowPtr i)

/-- A barrow becomes free. -/
def Dev.livRelease (s : Dev) (i : Nat) : Dev := (s.setBarrow i none).bump Reg.LVY_CNT_FREE 1

/-- An operation refused (R311, R322): MEM/0x010 or 0x011, and LVY_CNT_BADOP. -/
def Dev.livBad (s : Dev) (code detail gen : Nat) : Dev :=
  (s.record clsMEM code detail gen blkLVY 0).bump Reg.LVY_CNT_BADOP 1

/-- MEM/0x011 on barrow `i` by an agent (R322: firmware and the host carry GEN 0). -/
def Dev.livRefuse (s : Dev) (who i : Nat) : Dev :=
  let g := match s.barrow i with | some b => b.gen | none => 0
  s.livBad 0x011 (i + who * 2 ^ 24) (if who = 0x10 || who = 0x11 then 0 else g)

/-- The checks common to FREE, SHARE and DROP, then the operation on the barrow named. -/
def Dev.livOp (s : Dev) (who p : Nat) (f : Dev → Nat → Barrow → Dev) : Dev :=
  match s.barrowOf p with
  | none => (s.livBad 0x010 p 0).livSettle
  | some i =>
    match s.barrow i with
    | none => (s.livRefuse who i).livSettle
    | some b => (f s i b).livSettle

/-- FREE (Table 09-2). -/
def Dev.livFreeOp (s : Dev) (who p : Nat) : Dev :=
  s.livOp who p fun s i b =>
    if b.owner ≠ who then s.livRefuse who i
    else if b.holders = 0 then s.livRelease i
    else s.setBarrow i (some { b with pend := true })

/-- A code of Table 09-1 that names an owner. -/
def ownerOk (c : Nat) : Bool := c == 1 || (decide (0x08 ≤ c) && decide (c ≤ 0x11))

/-- SHARE. -/
def Dev.livShareOp (s : Dev) (who p dst : Nat) : Dev :=
  s.livOp who p fun s i b =>
    if b.owner ≠ who || 15 ≤ b.holders || !ownerOk dst then s.livRefuse who i
    else s.setBarrow i (some { b with holders := b.holders + 1, owner := dst })

/-- DROP. -/
def Dev.livDropOp (s : Dev) (who p : Nat) : Dev :=
  s.livOp who p fun s i b =>
    if b.holders = 0 then s.livRefuse who i
    else if b.holders = 1 && b.pend then s.livRelease i
    else s.setBarrow i (some { b with holders := b.holders - 1 })

/-- What a completed kill does to the barrows and requests of its generation (R318). -/
def Dev.livKill (s : Dev) (gen : Nat) : Dev :=
  if gen % 2 ^ 32 = 0 then s
  else
    let mine := s.liv.barrows.filter fun b => match b.2 with | some x => x.gen % 2 ^ 32 == gen % 2 ^ 32 | none => false
    let s := s.each mine fun s b => (s.livRelease b.1).bump Reg.LVY_CNT_KILLFREE 1
    let keep (q : AllocReq) : Bool := q.gen % 2 ^ 32 != gen % 2 ^ 32
    Dev.livSettle { s with liv := { s.liv with retq := s.liv.retq.filter keep, norq := s.liv.norq.filter keep } }

/-- The between-job scrub (R319): every barrow of the window whose records are kept is free. -/
def Dev.livClear (s : Dev) : Dev :=
  let s := s.setReg Reg.LVY_CTL 0
  let s := { s with liv := ⟨[], [], [], false, s.liv.win⟩ }
  s.each [Reg.LVY_CNT_ALLOC, Reg.LVY_CNT_FREE, Reg.LVY_CNT_WAIT, Reg.LVY_CNT_DRYCYC, Reg.LVY_CNT_BADOP,
    Reg.LVY_CNT_KILLFREE, Reg.LVY_CNT_EMPTY] fun s o => s.setReg o 0

/-! ### The commands -/

/-- ALLOC joins the queue of its class (R309, R312); each hardware owner has at most four requests waiting (R314). -/
def execAlloc (owner : Nat) (ret : Bool) (gen : Nat) (s : State) : Host.Outcome State Fault Refusal := s.upd fun s =>
  let mine := ((s.liv.retq ++ s.liv.norq).filter fun q => q.owner == owner).length
  if !ownerOk owner || owner = 0x11 || 4 ≤ mine then s
    else if ret then
      Dev.livSettle { s with liv := { s.liv with
        retq := s.liv.retq ++ [⟨owner, gen, !s.liv.retq.isEmpty⟩] } }
    else
      Dev.livSettle { s with liv := { s.liv with
        norq := s.liv.norq ++ [⟨owner, gen, !s.liv.norq.isEmpty⟩] } }

/-- One allocation served: the head of the return queue where it may take a barrow, else that of the normal queue
(R312, R313). -/
def execLiveryAllocServe (s : State) : Host.Outcome State Fault Refusal := s.upd fun s =>
  let give (s : Dev) (q : AllocReq) : Dev :=
    let (s, p) := s.livTake q.owner q.gen
    let s := if q.waited then s.bump Reg.LVY_CNT_WAIT 1 else s
    (s.emit (.barrow q.owner p q.gen)).livSettle
  if s.retMay then
      match s.liv.retq with
      | q :: qs => give { s with liv := { s.liv with retq := qs } } q
      | [] => s
    else if s.norMay then
      match s.liv.norq with
      | q :: qs => give { s with liv := { s.liv with norq := qs } } q
      | [] => s
    else s.livSettle

def execFree (owner ptr : Nat) (s : State) : Host.Outcome State Fault Refusal := s.upd fun s => s.livFreeOp owner ptr

def execShare (owner ptr dst : Nat) (s : State) : Host.Outcome State Fault Refusal := s.upd fun s => s.livShareOp owner ptr dst

def execDrop (owner ptr : Nat) (s : State) : Host.Outcome State Fault Refusal := s.upd fun s => s.livDropOp owner ptr

/-- The window check of R304 and R305. -/
def winOk (win reserve : Nat) : Bool :=
  let base := bits win 12 18; let count := bits win 32 18
  decide (1 ≤ count) && decide (count ≤ 131072) && decide ((base + count) * 4096 ≤ chSize) && decide (reserve < count)

/-- EN written 1 (R305): the window is checked, every barrow is free, and serving begins. -/
def execLiveryEnable (s : State) : Host.Outcome State Fault Refusal := s.upd fun s =>
  let win := s.reg Reg.LVY_WIN
  if s.livEn then s
    else if winOk win s.livReserve then
      let s := { s with liv := { s.liv with barrows := [], win := win } }
      (s.setFlag Reg.LVY_CTL 0 true).setFld Reg.LVY_LOWWM 0 18 (bits win 32 18)
    else s.record clsMEM 0x013 0xFFFFFFFF 0 blkLVY 0

/-- EN written 0 (R305): the records and the queues are kept. -/
def execLiveryDisable (s : State) : Host.Outcome State Fault Refusal := s.upd fun s =>
  (s.setFlag Reg.LVY_CTL 0 false).livSettle

/-- LVY_CFG or LVY_WIN written (R305). -/
def execLiveryConfigWrite (off : Nat) (v : Word64) (s : State) : Host.Outcome State Fault Refusal := s.upd fun s =>
  if off ≠ Reg.LVY_CFG && off ≠ Reg.LVY_WIN then s
    else if s.livEn then s.discard clsMEM 0x013 off 0
    else s.regWrite .host off v.toNat

/-- A dry spell has lasted DRYLIM microseconds (R316). -/
def execLiveryDryLimit (s : State) : Host.Outcome State Fault Refusal := s.upd fun s =>
  if s.livDry && !s.liv.dryRec then
      let s := s.record clsMEM 0x012 s.livWaiting 0 blkLVY 0
      { s with liv := { s.liv with dryRec := true } }
    else s

/-- LVY_ALLOC.GO written 1 (R320). -/
def execHostBarrowAlloc (s : State) : Host.Outcome State Fault Refusal := s.upd fun s =>
  if s.livEn && s.liv.norq.isEmpty && decide (s.livReserve < s.livFree) then
      let (s, p) := s.livTake 0x11 0
      ((s.setReg Reg.LVY_ALLOCPTR p).setReg Reg.LVY_ALLOC 0).livSettle
    else (s.setReg Reg.LVY_ALLOC 2).bump Reg.LVY_CNT_EMPTY 1

/-- The high word of LVY_FREE written (R14, R320). -/
def execLvyFreeWrite (ptr : Word64) (s : State) : Host.Outcome State Fault Refusal := s.upd fun s =>
  s.livFreeOp 0x11 ptr.toNat

/-- LVY_LOWWM.CLR written 1. -/
def execLowwmClear (s : State) : Host.Outcome State Fault Refusal := s.upd fun s =>
  s.setReg Reg.LVY_LOWWM s.livFree

end Sys2Proof.Machine
end

