-- ==== Sys2Proof/Machine/Requests.lean ====
section
/-! DEFINITION. Carriages that endpoints form, and the requests of the memory-fabric agent (R429, R430): their fields, their tags, and
the requests for lines and sectors of lent HBM (R432). -/
namespace Sys2Proof.Machine

/-- The coordinate of the device (R351). -/
def Dev.coord (s : Dev) : Nat := s.fld Reg.STG_COORD 0 16

def Dev.colLevel (s : Dev) : Nat := s.fld Reg.COL_CFG 0 8

/-- A carriage formed by an endpoint. -/
def Dev.formed (s : Dev) (ep : Nat) (c : Carriage) (excl : Option Nat) : Dev :=
  { s with stg := { s.stg with outbox := s.stg.outbox ++ [⟨ep, c, excl⟩] } }

def Dev.setMmf (s : Dev) (f : Mmf → Mmf) : Dev := { s with mmf := f s.mmf }

/-! ### Requests and responses (Table 14-1) -/

def oLOAD : Nat := 1
def oSTORE : Nat := 2
def oATOMIC : Nat := 3
def oBULKACK : Nat := 4
def oBULKRD : Nat := 5

def mOp (c : Carriage) : Nat := c.f 28 0 8
def mLines (c : Carriage) : Nat := c.f 29 0 2 + 1
def mAop (c : Carriage) : Nat := c.f 30 0 4
def mW64 (c : Carriage) : Bool := c.f 30 4 1 == 1
def mStatus (c : Carriage) : Nat := c.f 31 0 8
def mTag (c : Carriage) : Nat := c.f 32 0 16
def mSpace (c : Carriage) : Nat := c.f 34 0 1
def mRetry (c : Carriage) : Bool := c.f 34 1 1 == 1
def mRegion (c : Carriage) : Nat := c.f 35 0 6
def mOffset (c : Carriage) : Nat := c.f 36 0 64
def mOperand (c : Carriage) : Nat := c.f 44 0 64
def mCompare (c : Carriage) : Nat := c.f 52 0 64

/-- A carriage of the memory-fabric agent: kind, payload, and its own fields. -/
def Dev.mmfSend (s : Dev) (dst kind gen : Nat) (fs : List (Nat × Nat × Nat × Nat)) (pay : List Byte) (excl : Option Nat) : Dev :=
  let pay := padUnits pay
  s.formed 41 ⟨mkHdr ([(0, 0, 16, dst), (2, 0, 16, s.coord), (4, 0, 3, kindVC kind), (5, 0, 5, pay.length / 256), (5, 5, 3, kind),
    (7, 0, 8, s.colLevel), (20, 0, 32, gen)] ++ fs), pay⟩ excl

/-- The first tag from `t` on that no outstanding request has. -/
def freshTag (used : List Nat) : Nat → Nat → Nat
  | 0, t => t
  | fuel + 1, t => if used.contains t then freshTag used fuel ((t + 1) % 65536) else t

/-- A line request sent, or sent again with RETRY = 1: a store reads its lines at `loc`. -/
def Dev.putReq (s : Dev) (r : LineReq) (retry : Bool) (pay : List Byte) (excl : Option Nat) : Dev :=
  let s := s.bump Reg.MMF_CNT_REQTX 1
  let s := if retry then s.bump Reg.MMF_CNT_RETRY 1 else s
  s.mmfSend r.remote kMREQ r.gen
    [(28, 0, 8, r.op), (29, 0, 2, r.nlines - 1), (30, 0, 4, r.aop), (30, 4, 1, r.w64.toNat), (32, 0, 16, r.tag),
     (34, 0, 1, r.space), (34, 1, 1, retry.toNat), (35, 0, 6, r.region), (36, 0, 64, r.offset), (44, 0, 64, r.operand.toNat),
     (52, 0, 64, r.compare.toNat)] pay excl

/-- A new request takes a tag and is outstanding. -/
def Dev.newReq (s : Dev) (r : LineReq) (pay : List Byte) : Dev :=
  let t := freshTag (s.mmf.reqs.map (·.tag)) (s.mmf.reqs.length + 1) s.mmf.nextTag
  let r := { r with tag := t }
  (s.setMmf fun m => { m with nextTag := (t + 1) % 65536, reqs := m.reqs ++ [r] }).putReq r false pay none

def Dev.dropReq (s : Dev) (t : Nat) : Dev := s.setMmf fun m => { m with reqs := m.reqs.filter fun r => r.tag != t }


/-! ### Lent HBM (R432, R434): a line is the request of a command, or of a unit outside a command (0) -/

/-- The lender and the byte offset in its HBM of a key of lent HBM. -/
def keyLender (k : Nat) : Nat := k % 2 ^ 60 / 2 ^ 40
def keyLentOff (k : Nat) : Nat := k % 2 ^ 40
/-- The key of the line that a request with SPACE = 1 names. -/
def LineReq.key (q : LineReq) : Nat := lentKey q.remote 0 q.offset

/-- A request for one line of lent HBM, at key `k`. -/
def lentReq (g op k : Nat) : LineReq :=
  ⟨0, g, keyLender k, op, 1, 0, keyLentOff k, 1, 0, false, 0, 0, 1, none, false, .lent g⟩

/-- The payload of a request for lent HBM: a store sends its line as it stands when it leaves. -/
def Dev.lentPay (s : Dev) (q : LineReq) : List Byte := if q.op = oSTORE then s.rdBytes q.key 64 else []

/-- Two requests for one line of lent HBM. -/
def LineReq.meets (q r : LineReq) : Bool := q.space == 1 && r.space == 1 && q.remote == r.remote && q.offset == r.offset

/-- Requests that wait are sent in order while fewer than 1,024 are outstanding (R429); one for a line of lent HBM waits for an
earlier one for the line. -/
def Dev.reqPump : Nat → Dev → Dev
  | 0, s => s
  | fuel + 1, s =>
    if 1024 ≤ s.mmf.reqs.length then s
    else match s.mmf.queue.find? fun q => !s.mmf.reqs.any q.meets with
      | none => s
      | some q => Dev.reqPump fuel ((s.setMmf fun m => { m with queue := m.queue.erase q }).newReq q (s.lentPay q))

/-- A request of no command of the agent, which waits where there is no room for it. -/
def Dev.askReq (s : Dev) (q : LineReq) : Dev :=
  if s.mmf.queue.contains q then s
  else
    let s := s.setMmf fun m => { m with queue := m.queue ++ [q] }
    Dev.reqPump s.mmf.queue.length s

/-- A request for a line of lent HBM is outstanding or waits. -/
def Dev.lentOut (s : Dev) (g op k : Nat) : Bool :=
  (s.mmf.reqs ++ s.mmf.queue).any fun q => q.use == .lent g && q.op == op && q.key == k

/-- Command g, or a unit outside a command, has line `k / 64` of lent HBM: a command keeps it until it ends (R421). -/
def Dev.lentHas (s : Dev) (g k : Nat) : Bool := s.mmf.lines.contains (g, k / 64) || s.mmf.lines.contains (0, k / 64)
def Dev.lentGot (s : Dev) (g k : Nat) : Dev :=
  if s.mmf.lines.contains (g, k / 64) then s else s.setMmf fun m => { m with lines := m.lines ++ [(g, k / 64)] }

/-- The lines at the keys `ks` are asked of their lenders, once each. -/
def Dev.lentLoad (s : Dev) (g : Nat) (ks : List Nat) : Dev :=
  s.each ks fun s k => if s.lentHas g k || s.lentOut g oLOAD k then s else s.askReq (lentReq g oLOAD k)

/-- Bytes written at key `k` of lent HBM are sent to the lender, each line as one store (R432, R563). -/
def Dev.lentStore (s : Dev) (g k n : Nat) : Dev :=
  s.each (linesOf k n) fun s l => (s.askReq (lentReq g oSTORE l)).lentGot g l

/-- GEN of the transfer of a sector. -/
def sectorGen (page sec : Nat) : Nat := 2 ^ 31 + page * 32 + sec
def SectorXfer.gen (x : SectorXfer) : Nat := sectorGen x.page x.sec
def SectorXfer.left (x : SectorXfer) : List Nat := (List.range 16).filter fun c => !x.done.contains c

/-- The gateway loads of sectors that may begin: no store to a line of the sector is outstanding. -/
def Dev.sectorPump (s : Dev) : Dev :=
  s.each (s.mmf.sectors.filter fun x => !x.store && !x.begun) fun s x =>
    let inside (q : LineReq) : Bool := q.space == 1 && q.op == oSTORE && q.remote == x.lender && decide (x.off ≤ q.offset)
      && decide (q.offset < x.off + 65536)
    if (s.mmf.reqs ++ s.mmf.queue).any inside then s
    else
      let b := x.left.headD 0
      let s := s.setMmf fun m => { m with
        sectors := updFirst (fun y => y.page == x.page && y.sec == x.sec) (fun y => { y with base := b, begun := true }) m.sectors }
      s.askReq ⟨0, x.gen, x.lender, oBULKRD, 1, 0, x.off + 4096 * b, 1, 0, false, 0, BitVec.ofNat 64 (65536 - 4096 * b), 1, none, false,
        .sector x.page x.sec⟩

/-- What is left of the transfers of a page whose move is over. -/
def Dev.sectorsDrop (s : Dev) (page : Nat) : Dev :=
  let mine (q : LineReq) : Bool := match q.use with | .sector p _ => p == page | _ => false
  s.setMmf fun m => { m with
    sectors := m.sectors.filter fun x => x.page != page
    reqs := m.reqs.filter fun q => !mine q
    queue := m.queue.filter fun q => !mine q }

/-- A transfer of the page is under way. -/
def Dev.sectorsOn (s : Dev) (page : Nat) : Bool := s.mmf.sectors.any fun x => x.page == page

/-- A chunk of a gateway transfer (KIND 0b110): its operation, its place at the exporter, and its bytes. -/
def Dev.putBulk (s : Dev) (dst gen op space region off chunk total : Nat) (bs : List Byte) (excl : Option Nat) : Dev :=
  (s.mmfSend dst kBULK gen
    [(16, 0, 32, chunk), (24, 0, 32, total), (28, 0, 8, op), (34, 0, 1, space), (35, 0, 6, region), (36, 0, 64, off),
     (52, 0, 64, bs.length)] bs excl).bump Reg.MMF_CNT_REQTX 1

/-- Chunk `c` of a sector leaves for the lender. -/
def Dev.sectorChunk (s : Dev) (x : SectorXfer) (c : Nat) (excl : Option Nat) : Dev :=
  s.putBulk x.lender x.gen oSTORE 1 0 (x.off + 4096 * c) c 16 (s.rdBytes (x.key + 4096 * c) 4096) excl

/-- A sector of page `page` moves to or from lent HBM (R432): `lent` is its key there, `key` that of its other end. A repeat takes the
place of what was under way. -/
def Dev.sectorMove (s : Dev) (page sec lent key : Nat) (store : Bool) : Dev :=
  let x : SectorXfer := ⟨page, sec, keyLender lent, keyLentOff lent, key, 0, store, store, [], []⟩
  let s := s.setMmf fun m => { m with sectors := m.sectors.filter (fun y => !(y.page == page && y.sec == sec)) ++ [x] }
  if store then s.each (List.range 16) fun s c => s.sectorChunk x c none else s.sectorPump

end Sys2Proof.Machine
end

