-- ==== Sys2Proof/Machine/Tiers.lean ====
section
/-! DEFINITION. Memory tiers: accesses to the job range, memory errors, the page table, the Dray and its moves, the
Timetable, holds, retraining slots, the scrubber (R265 to R303, R593), and the snoop filter's gate (R446). -/
namespace Sys2Proof.Machine

def Dev.setTiers (s : Dev) (f : Tiers → Tiers) : Dev := { s with tiers := f s.tiers }

/-! ### The snoop filter (R446) -/

/-- Back-invalidation snoops of lines, each counted. -/
def Dev.snoopSend (s : Dev) (ls : List Nat) : Dev :=
  let s := s.each ls fun s l => (s.emit (.bisnp l)).bump Reg.HST_CNT_BISNP 1
  s.setTiers fun t => { t with snoops := t.snoops ++ ls }

/-- Before an access to the lines that `p` names, snoops are sent for those that the host may hold (`any`: whether or not
it may have modified them). The access goes on only where none is outstanding. -/
def Dev.snoopGate (s : Dev) (any : Bool) (p : Nat → Bool) : Dev × Bool :=
  let hits := (s.tiers.filter.filter fun x => p x.1 && (any || x.2)).map (·.1)
  (s.snoopSend (hits.filter fun l => !s.tiers.snoops.contains l), hits.isEmpty)

/-- The snoops and the lines of lent HBM that the state `t` has asked for and `s` has not, asked for from `s`: an access that waits
does nothing else. -/
def Dev.askOnly (s t : Dev) : Dev :=
  let s := s.snoopSend (t.tiers.snoops.filter fun l => !s.tiers.snoops.contains l)
  s.each (t.mmf.reqs ++ t.mmf.queue) fun s q =>
    match q.use with
    | .lent g => if q.op = oLOAD then s.lentLoad (if (s.cmd g).isSome then g else 0) [q.key] else s
    | _ => s

/-- A step of the device that waits for what an access of it must wait for (R432, R446): it is then not taken, and is taken after the
answer. A step that holds this one has to wait too. -/
def Dev.attempt (s : Dev) (f : Dev → Dev) : Dev :=
  let t := f s
  if t.tiers.stalls = s.tiers.stalls then t else (s.askOnly t).setTiers fun x => { x with stalls := t.tiers.stalls }

/-- Lines that a unit outside a command has are not kept (R421). -/
def Dev.unitEnd (s : Dev) : Dev :=
  if s.mmf.lines.any fun l => l.1 == 0 then s.setMmf fun m => { m with lines := m.lines.filter fun l => l.1 != 0 } else s

/-- The same for an event of the debug port. -/
def State.guardUnit (s : State) (f : Dev → Dev) : Host.Outcome State Fault Refusal :=
  s.guard fun d => d.attempt fun d => (f d).unitEnd

/-- The effect of an event of the device's own units that may have to wait for an access: the event has then not come, and comes again
after the answer. -/
def State.unit (s : State) (f : Dev → Dev) : Host.Outcome State Fault Refusal :=
  s.upd fun d => d.attempt fun d => (f d).unitEnd

/-- The lines of a page, and of a span of job addresses. -/
def pageLine (p l : Nat) : Bool := l / 2 ^ 15 == p
def spanLine (a n l : Nat) : Bool := decide (a / 64 ≤ l) && decide (l * 64 < a + n)

/-! ### Frames and pools (R265, R272, R283, R431) -/

def isEntry : MoveBy → Bool | .entry _ _ => true | _ => false

/-- HBM frames that a loan holds on the lender, until they are zeroed (R431, R433). -/
def Dev.loanRanges (s : Dev) : List (Nat × Nat) :=
  ((List.range 16).map fun j => s.reg (Reg.MMF_LOAN j)).filterMap fun w =>
    if bit w 48 || bit w 49 then some (bits w 16 9 * 512, bits w 32 9 * 512) else none
def Dev.loaned (s : Dev) (f : Nat) : Bool := s.loanRanges.any fun r => decide (r.1 ≤ f) && decide (f < r.1 + r.2)

/-- Frames of a home tier that are a page's home or a move's destination. -/
def Dev.usedFrames (s : Dev) (home lender : Nat) : List Nat :=
  (s.pt.filterMap fun e =>
    let x := e.2.toNat
    if pteHome x = home && (home != 4 || pteLender x == lender) then some (pteFrame x) else none)
  ++ (s.tiers.moves.filterMap fun m => if m.home = home && (home != 4 || m.lender == lender) then some m.frame else none)

def Dev.poolUsed (s : Dev) (i : Nat) : Nat :=
  (s.pt.filter fun e => pteHome e.2.toNat == 1 && ptePool e.2.toNat == i).length
    + (s.tiers.moves.filter fun m => m.home == 1 && m.pool == i).length

def hbmFrames : Nat := 147456
def rsvdFrames : Nat := 512
def Dev.usable (s : Dev) : Nat := hbmFrames - rsvdFrames - s.tiers.retired.length
/-- Frames of loans that are not retired. -/
def Dev.loanCount (s : Dev) : Nat := (s.loanRanges.map (·.2)).sum - (s.tiers.retired.filter s.loaned).length
/-- MEM_FREE: frames neither home nor move destination. A frame that is retired and still a home is not usable. -/
def Dev.freeFrames (s : Dev) : Nat :=
  s.usable - ((s.usedFrames 1 0).filter fun f => !s.tiers.retired.contains f).length - s.loanCount

def Dev.hbmFree (s : Dev) (f : Nat) : Bool :=
  decide (rsvdFrames ≤ f) && decide (f < hbmFrames) && !s.tiers.retired.contains f && !(s.usedFrames 1 0).contains f
    && !s.loaned f

/-- The lowest number from `f` on that satisfies `p`, within a number of tries. -/
def lowestFrom (p : Nat → Bool) : Nat → Nat → Option Nat
  | 0, _ => none
  | fuel + 1, f => if p f then some f else lowestFrom p fuel (f + 1)

/-- The lowest free HBM frame. -/
def Dev.lowestHbm (s : Dev) : Option Nat := lowestFrom s.hbmFree (hbmFrames - rsvdFrames) rsvdFrames

def Dev.poolMin (s : Dev) (i : Nat) : Nat := s.fld (Reg.MEM_POOL i) 0 18
def Dev.poolMax (s : Dev) (i : Nat) : Nat := s.fld (Reg.MEM_POOL i) 32 18

/-- A move into HBM for pool `i` may take a free frame (R283). -/
def Dev.mayTake (s : Dev) (i : Nat) : Bool :=
  decide (s.poolUsed i < s.poolMax i)
    && decide ((((List.range 8).filter (· != i)).map fun j => s.poolMin j - s.poolUsed j).sum < s.freeFrames)

/-- A downstream port is enabled, and its link is up. -/
def Dev.portOn (s : Dev) (q : Nat) : Bool := !s.tiers.portsOff.contains q
def Dev.portUp (s : Dev) (q : Nat) : Bool := s.portOn q && s.flag (Reg.HST_DSSTAT q) 0

/-- The lowest free frame of a port (R287). -/
def Dev.lowestCxl (s : Dev) (q : Nat) : Option Nat :=
  let used := s.usedFrames (2 + q) 0
  let n := s.fld (Reg.HST_DSFRAMES q) 0 22
  if !s.portUp q then none
  else match lowestFrom (fun f => !used.contains f) (used.length + 1) 0 with
    | some f => if f < n then some f else none
    | none => none

/-- The units granted to this device, lost ones among them where `lost`: lender, first frame, frames (R432, R434). -/
def Dev.granted (s : Dev) (lost : Bool) : List (Nat × Nat × Nat) :=
  ((List.range 16).map fun k => s.reg (Reg.MMF_BORROW k)).filterMap fun w =>
    if bit w 48 && (lost || !bit w 49) then some (bits w 0 16, bits w 16 9 * 512, bits w 32 9 * 512) else none
def Dev.grants (s : Dev) : List (Nat × Nat × Nat) := s.granted false

/-- The lowest free frame among the units granted that are not lost: lender and frame (R287). -/
def Dev.lowestLent (s : Dev) : Option (Nat × Nat) :=
  (s.grants.filterMap fun g =>
    let used := s.usedFrames 4 g.1
    (lowestFrom (fun f => !used.contains f) g.2.2 g.2.1).map fun f => (g.1, f)).foldl
      (fun (b : Option (Nat × Nat)) x => match b with
        | some y => if x.2 < y.2 then some x else some y
        | none => some x) none

/-- The home of an entry cannot be reached: its port is disabled or its link down, or its lender is lost (Table 08-6). -/
def Dev.homeLost (s : Dev) (e : Nat) : Bool :=
  match pteHome e with
  | 2 => !s.portUp 0
  | 3 => !s.portUp 1
  | 4 => !s.grants.any fun g => g.1 == pteLender e && decide (g.2.1 ≤ pteFrame e) && decide (pteFrame e < g.2.1 + g.2.2)
  | _ => false

/-- The job address homed at a frame of a tier, or 0. -/
def Dev.jobOf (s : Dev) (home frame off : Nat) : Nat :=
  match s.pt.find? fun e => pteHome e.2.toNat == home && pteFrame e.2.toNat == frame with
  | some e => e.1 * 2 ^ 21 + off
  | none => 0

/-! ### Settling (R286, R289) -/

def MoveRun.add (r : MoveRun) (what : Nat) : MoveRun :=
  let r := { r with left := r.left - 1 }
  match what with
  | 1 => { r with moved := r.moved + 1 }
  | 2 => { r with resident := r.resident + 1 }
  | 3 => { r with busy := r.busy + 1 }
  | 4 => { r with noevict := r.noevict + 1 }
  | 5 => { r with unmapped := r.unmapped + 1 }
  | _ => r

def Dev.updMove (s : Dev) (g : Nat) (f : MoveRun → MoveRun) : Dev :=
  s.updCmd g fun c => match c.body with
    | .move r => { c with body := .move (f r) }
    | _ => c

/-- Entries that have settled, in order, add 1 each to DRY_TTDONE; the Timetable ends with its last page (R289, R290). -/
def Dev.ttSettle (s : Dev) : Nat → Dev
  | 0 => s
  | fuel + 1 =>
    match s.tiers.opens with
    | e :: es =>
      if e.left = 0 then
        let s := s.setTiers fun t => { t with opens := es }
        Dev.ttSettle (s.unitAdd (s.reg Reg.DRY_TTDONE) 1) fuel
      else s
    | [] => s

def Dev.ttEndCheck (s : Dev) : Dev :=
  let busy := s.tiers.moves.any (fun m => isEntry m.by_) || s.tiers.reqs.any (fun m => isEntry m.by_)
    || s.tiers.waits.any fun m => isEntry m.by_
  if s.flag Reg.DRY_STAT 12 && s.tiers.ttEnd && !busy then
    let s := (s.setFlag Reg.DRY_STAT 12 false).setReg Reg.DRY_TTCTL 0
    s.setTiers fun t => { t with opens := [], ttEnd := false, ttHalted := false, ttNow := [] }
  else s

/-- A page of a request has its outcome: 1 switched, 2 resident, 3 busy, 4 not admitted, 5 unmapped, 0 cancelled. -/
def Dev.settle (s : Dev) (b : MoveBy) (what : Nat) : Dev :=
  match b with
  | .cmd g => s.updMove g (·.add what)
  | .entry lap n =>
    let s := s.setTiers fun t => { t with
      opens := updFirst (fun e => e.lap == lap && e.n == n) (fun e => { e with left := e.left - 1 }) t.opens }
    s.ttSettle (s.tiers.opens.length + 1)
  | _ => s

def moveGen : MoveBy → Nat | .cmd g => g | _ => 0

/-- The generation of the command for which a move runs, an eviction's that of the MOVE whose page waits for it; else 0
(R303). -/
def Dev.moveGenOf (s : Dev) (m : PageMove) : Nat :=
  match m.by_ with
  | .evict => ((s.tiers.waits.find? fun w => w.victim == m.page).map fun w => moveGen w.by_).getD 0
  | b => moveGen b

/-- A page that could not be admitted (R286). -/
def Dev.notAdmitted (s : Dev) (b : MoveBy) (page : Nat) : Dev :=
  let s := s.bump Reg.DRY_CNT_NOEVICT 1
  let s := if s.tiers.noted.contains b then s
    else (s.record clsMEM 0x00E page (moveGen b) blkDRY 0).setTiers fun t => { t with noted := t.noted ++ [b] }
  s.settle b 4

/-! ### Moves (R278 to R287) -/

def pteWith (e lo w v : Nat) : Nat := setBits e lo w v
def Dev.foundAt (s : Dev) (q : Nat) : List DsDevice := Sparse.get (fun _ => []) s.tiers.found q
/-- A page homed below a port is lost: the devices mapped there now are those that must return (R279). -/
def Dev.noteLost (s : Dev) (p : Nat) : Dev :=
  match pteHome (s.pte p) with
  | 2 => s.setTiers fun t => { t with lostBy := Sparse.put (fun _ => []) t.lostBy p (s.foundAt 0) }
  | 3 => s.setTiers fun t => { t with lostBy := Sparse.put (fun _ => []) t.lostBy p (s.foundAt 1) }
  | _ => s
/-- MSTATE of a page. -/
def Dev.setMstate (s : Dev) (p m : Nat) : Dev :=
  let s := if m = mstUnreachable then s.noteLost p else s
  s.setPte p (pteWith (s.pte p) 5 3 m)

/-- DRY_STAT.MOVES follows. -/
def Dev.showMoves (s : Dev) : Dev := s.setFld Reg.DRY_STAT 0 5 s.tiers.moves.length

/-- A move starts: the destination is reserved, and the page is COPYING. -/
def Dev.moveStart (s : Dev) (m : PageMove) : Dev :=
  let s := if m.by_ = .retire then s.bump Reg.DRY_CNT_RETIREMV 1 else s
  ((s.setMstate m.page 1).setTiers fun t => { t with moves := t.moves ++ [m] }).showMoves

/-- A tier's hold is set (R296): HBM, port 0, port 1. -/
def Dev.held (s : Dev) (home : Nat) : Bool :=
  match home with
  | 1 => s.flag Reg.DRY_STAT 8
  | 2 => s.flag Reg.DRY_STAT 9
  | 3 => s.flag Reg.DRY_STAT 10
  | _ => false

/-- The HOME code to which page `p` is demoted (R287). -/
def Dev.demoteHome (s : Dev) (p : Nat) : Nat :=
  match s.fld Reg.DRY_CFG 0 2 with
  | 0 => 2
  | 1 => 3
  | 3 => 4
  | _ => if s.portOn 0 && s.portOn 1 then 2 + p % 2 else if s.portOn 0 then 2 else 3

/-- A destination outside HBM: lender and frame. -/
def Dev.destOut (s : Dev) (home : Nat) : Option (Nat × Nat) :=
  match home with
  | 2 => (s.lowestCxl 0).map fun f => (0, f)
  | 3 => (s.lowestCxl 1).map fun f => (0, f)
  | 4 => s.lowestLent
  | _ => none

/-- The victim of R285 for pool `i`. -/
def Dev.victim (s : Dev) (i : Nat) : Option Nat :=
  let age (e : Nat × BitVec 128) : Nat := bits e.2.toNat 16 8
  let ok (e : Nat × BitVec 128) : Bool :=
    let x := e.2.toNat
    pteHome x == 1 && pteMstate x == 0 && !ptePin x &&
      (if s.poolMax i ≤ s.poolUsed i then ptePool x == i else decide (s.poolMin (ptePool x) < s.poolUsed (ptePool x)))
  ((s.pt.filter ok).foldl (fun (b : Option (Nat × BitVec 128)) e => match b with
    | none => some e
    | some x => if age x < age e then some e else some x) none).map (·.1)

/-- One page of a request is tried: the state after it, and whether the request need not wait for it. -/
def Dev.tryPage (s : Dev) (page target pool : Nat) (urgent : Bool) (b : MoveBy) : Dev × Bool :=
  let e := s.pte page
  let free := urgent || b == .retire
  if b == .retire && !(pteHome e == 1 && s.tiers.retired.contains (pteFrame e)) then (s, true)
  else if pteHome e = 0 then
    match b with
    | .cmd _ => (s.settle b 5, true)
    | _ => ((s.bump Reg.DRY_CNT_BUSY 1).settle b 3, true)
  else if pteMstate e ≠ 0 || ptePin e then ((s.bump Reg.DRY_CNT_BUSY 1).settle b 3, true)
  else if pteHome e = target && b != .retire then ((s.bump Reg.DRY_CNT_RESIDENT 1).settle b 2, true)
  else if (pteHome e = 2 && !s.portOn 0) || (pteHome e = 3 && !s.portOn 1) then (s.notAdmitted b page, true)
  else if 16 ≤ s.tiers.moves.length then (s, false)
  else if !free && (s.held (pteHome e) || s.held target) then (s, false)
  else if target = 1 then
    if s.mayTake pool then
      match s.lowestHbm with
      | some f => (s.moveStart ⟨page, 1, f, 0, pool, b, 0, [], [], false⟩, true)
      | none => (s.notAdmitted b page, true)
    else if b = .retire then
      match s.destOut (s.demoteHome page) with
      | some (l, f) => (s.moveStart ⟨page, s.demoteHome page, f, l, pool, b, 0, [], [], false⟩, true)
      | none => (s, false)
    else match s.victim pool with
      | none => (s.notAdmitted b page, true)
      | some v =>
        let h := s.demoteHome v
        if !free && s.held h then (s, false)
        else match s.destOut h with
          | none => (s.notAdmitted b page, true)
          | some (l, f) =>
            let s := s.bump Reg.DRY_CNT_EVICT 1
            let s := match b with | .cmd g => s.updMove g fun r => { r with evicted := r.evicted + 1 } | _ => s
            let s := s.moveStart ⟨v, h, f, l, ptePool (s.pte v), .evict, 0, [], [], false⟩
            (s.setTiers fun t => { t with waits := t.waits ++ [⟨page, target, pool, urgent, b, v⟩] }, true)
  else match s.destOut target with
    | some (l, f) => (s.moveStart ⟨page, target, f, l, ptePool e, b, 0, [], [], false⟩, true)
    | none => (s.notAdmitted b page, true)

/-- The pages of one request, ascending, until one must wait: what is left of it. -/
def Dev.pumpReq : Nat → Dev → MoveReq → Dev × Option MoveReq
  | 0, s, r => (s, if r.count = 0 then none else some r)
  | fuel + 1, s, r =>
    if r.count = 0 then (s, none)
    else
      let (s1, ok) := s.tryPage r.first r.target r.pool r.urgent r.by_
      if ok then Dev.pumpReq fuel s1 { r with first := r.first + 1, count := r.count - 1 } else (s, some r)

/-- The requests in order; behind one that waits, only urgent and retirement moves go on (R296). -/
def Dev.pumpAll : List MoveReq → Bool → Dev → Dev × List MoveReq
  | [], _, s => (s, [])
  | r :: rs, blocked, s =>
    if blocked && !(r.urgent || r.by_ == .retire) then
      let (s, rest) := Dev.pumpAll rs true s
      (s, r :: rest)
    else
      let (s, q) := Dev.pumpReq (r.count + 1) s r
      match q with
      | some r' =>
        let (s, rest) := Dev.pumpAll rs (blocked || r.by_ != .retire) s
        (s, r' :: rest)
      | none => Dev.pumpAll rs blocked s

/-- The Dray starts what it may. -/
def Dev.pump (s : Dev) : Dev :=
  let (s, rest) := Dev.pumpAll s.tiers.reqs false s
  (s.setTiers fun t => { t with reqs := rest }).ttEndCheck

/-- Promotions that waited for the eviction of page `v` ask again, but those of a Timetable that has stopped (R290). -/
def Dev.afterVictim (s : Dev) (v : Nat) : Dev :=
  let mine := s.tiers.waits.filter fun w => w.victim == v && !(s.tiers.ttHalted && isEntry w.by_)
  s.setTiers fun t => { t with
    waits := t.waits.filter fun w => w.victim != v
    reqs := mine.map (fun w => ⟨w.page, 1, w.target, w.pool, w.urgent, w.by_⟩) ++ t.reqs }

/-- A host access faults (R445). -/
def Dev.hostFault (s : Dev) (a : Nat) : Dev :=
  let first := !s.tiers.hdmRec
  let s := ((s.bump Reg.MEM_CNT_XLFAULT 1).bump Reg.HST_CNT_HDMFAULT 1).setTiers fun t => { t with hdmRec := true }
  if first then s.record clsHOST 0x011 (bits a 6 32) 0 blkHST 0 else s

/-! ### Accesses to the job range -/

/-- A page is accessed: its ACC bit (Table 08-3). -/
def Dev.touchPage (s : Dev) (p : Nat) : Dev :=
  let e := s.pte p
  if pteHome e = 0 || bit e 8 then s else s.setPte p (setBit e 8 true)
def Dev.touch (s : Dev) (a n : Nat) : Dev := if n = 0 || inCH a n then s else s.each (pagesOf a n) Dev.touchPage

/-- The generation that marks a write of the host; 0 marks one of a unit outside a command. -/
def hostWr : Nat := 2 ^ 64

/-- Bytes written at home `e` of a page; to lent HBM they go as stores (R432). -/
def Dev.homeWrite (s : Dev) (g e off : Nat) (bs : List Byte) : Dev :=
  let s := s.wrBytes (homeKey e off) bs
  if pteHome e = 4 then s.lentStore (if g = hostWr then 0 else g) (homeKey e off) bs.length else s

/-- Bytes written into one page by a command of generation `g` (R280): a sector that the sweep has begun is dirty. -/
def Dev.pageWrite (s : Dev) (g p off : Nat) (bs : List Byte) : Dev :=
  let e := s.pte p
  let secs := (List.range (((off % 65536) + bs.length + 65535) / 65536)).map fun i => off / 65536 + i
  let upd (f : PageMove → PageMove) : Dev := s.setTiers fun t => { t with moves := updFirst (fun m => m.page == p) f t.moves }
  if pteMstate e = 2 then upd fun m => { m with held := m.held ++ [(g, off, bs)] }
  else if pteMstate e = 1 then
    (upd fun m => { m with dirty := m.dirty ++ secs.filter fun x => decide (x < m.begun) && !m.dirty.contains x }).homeWrite g e off bs
  else s.homeWrite g e off bs

/-- The mask of the bytes of line `l` that a span covers. -/
def spanMask (a n l : Nat) : Nat :=
  ((List.range 64).map fun i => if decide (a ≤ l * 64 + i) && decide (l * 64 + i < a + n) then 2 ^ i else 0).sum

/-- A unit reads (`wr` false) or writes a span: the snoops that R446 asks for first are sent. A read of a line that the host may
have modified has to wait for the answer (State.unit). A write is laid over the host's bytes when they come, as if it had waited
(log entry 185); the commit of a command waits for the answers of its outputs. -/
def Dev.snooped (s : Dev) (wr : Bool) (a n : Nat) : Dev :=
  if s.tiers.filter.isEmpty then s
  else
    let (s, ok) := s.snoopGate wr (spanLine a n)
    if ok then s
    else if !wr then s.setTiers fun t => { t with stalls := t.stalls + 1 }
    else s.each (s.tiers.snoops.filter (spanLine a n)) fun s l => s.setTiers fun t => { t with
      laid := Sparse.put (fun _ => 0) t.laid l (Sparse.get (fun _ => 0) t.laid l ||| spanMask a n l) }

/-- The lines of lent HBM in a span of job addresses, by key, with the job address of the first byte in each. -/
def Dev.lentLines (s : Dev) (a n : Nat) : List (Nat × Nat) :=
  if n = 0 || inCH a n || !s.pt.any (fun e => pteHome e.2.toNat == 4) then []
  else (linesOf a n).filterMap fun l => match s.xlate (max a l) false with
    | .key k => if k / 2 ^ 60 = 5 then some (k / 64 * 64, max a l) else none
    | .bad _ => none

/-- Lines of lent HBM that command g, or a unit outside a command, has to have before an access goes on (R432): those that it has not
are asked for, and the access waits. -/
def Dev.lentNeed (s : Dev) (g : Nat) (ks : List Nat) : Dev :=
  let ks := ks.filter fun k => !s.lentHas g k
  if ks.isEmpty then s else (s.lentLoad g ks).setTiers fun t => { t with stalls := t.stalls + 1 }

/-- A write of a part of a line of lent HBM needs the line first: each line is stored whole (R425). -/
def Dev.lentParts (s : Dev) (g a n : Nat) : Dev :=
  s.lentNeed g (((s.lentLines a n).filter fun x => x.2 % 64 != 0 || decide (a + n < x.2 / 64 * 64 + 64)).map (·.1))

/-- The bytes of a span as command g reads them, before the lender has answered where the access does not wait. -/
def Dev.lentBytes (s : Dev) (g a : Nat) (bs : List Byte) : List Byte :=
  let ls := ((s.lentLines a bs.length).filter fun x => !s.lentHas g x.1).map fun x => x.2 / 64
  if ls.isEmpty then bs
  else ((List.range bs.length).zip bs).map fun x =>
    if ls.contains ((a + x.1) / 64) then Config.lentByte s.tiers.stalls (a + x.1) else x.2

/-- The bytes of a span as a unit reads them that does not wait: what the host holds modified is not known here before its
answer, and is free, but for the bytes that the device has written since it asked. -/
def Dev.hostBytes (s : Dev) (a : Nat) (bs : List Byte) : List Byte :=
  let own (k : Nat) : Bool := s.tiers.filter.any (fun x => x.1 == k / 64 && x.2)
    && !bit (Sparse.get (fun _ => 0) s.tiers.laid (k / 64)) (k % 64)
  if s.tiers.filter.isEmpty then bs
  else ((List.range bs.length).zip bs).map fun x =>
    if own (a + x.1) then Config.hostByte s.tiers.stalls (a + x.1) else x.2

/-- Bytes written to a span of job addresses that translates; a span of the paged region may run on into the Coach House. -/
def Dev.jobWrite (s : Dev) (g a : Nat) (bs : List Byte) : Dev :=
  let s := if g = hostWr then s else s.snooped true a bs.length
  let s := s.lentParts (if g = hostWr then 0 else g) a bs.length
  if bs.isEmpty then s
  else if inCH a bs.length then s.wrBytes (chAddr a) bs
  else (s.touch a bs.length).each (cutPages a (bs.length / 2 ^ 21 + 2) bs) fun s x =>
    if chBase ≤ x.1 then s.wrBytes (chAddr x.1) x.2 else s.pageWrite g (x.1 / 2 ^ 21) (x.1 % 2 ^ 21) x.2

/-- A line that the host gives up or writes back: its bytes but for those that the device has written since it asked (R446). -/
def Dev.hostLine (s : Dev) (l : Nat) (bs : List Byte) : Dev :=
  let m := Sparse.get (fun _ => 0) s.tiers.laid l
  if m = 0 then s.jobWrite hostWr (l * 64) bs
  else s.each (((List.range bs.length).zip bs).filter fun x => !bit m x.1) fun s x => s.jobWrite hostWr (l * 64 + x.1) [x.2]

/-- A write of generation `g` is held by a page that moves, is not acknowledged by its lender (R562), or was lost with its page. -/
def Dev.writeHeld (s : Dev) (g : Nat) : Bool :=
  s.tiers.lost.contains g || (s.mmf.reqs ++ s.mmf.queue).any (fun q => q.use == .lent g) || s.tiers.moves.any fun m => m.held.any fun h => h.1 == g

/-- The outputs of a command have landed: no write of it is held by a move, and no snoop that its outputs need is
outstanding (R237, R446). -/
def Dev.outGate (s : Dev) (c : Cmd) : Dev × Bool :=
  if s.writeHeld c.gen then (s, false)
  else s.snoopGate true fun l => c.writes.any fun w => decide (2 ^ 60 ≤ w.1) && spanLine (w.1 - 2 ^ 60) w.2 l

/-- The HOME code of the tier that holds a key, as MEM_POISONADDR.TIER shows it. -/
def keyHome (k : Nat) : Nat := match k / 2 ^ 60 with | 1 => 5 | 2 => 1 | 3 => 2 | 4 => 3 | 5 => 4 | _ => 0

/-- The page is homed in a retired HBM frame, and nothing moves or pins it: its retirement move is asked for (R300). -/
def Dev.retireAsk (s : Dev) (p : Nat) : Dev :=
  let x := s.pte p
  if pteHome x = 1 && s.tiers.retired.contains (pteFrame x) && pteMstate x = 0 && !ptePin x then
    let r : MoveReq := ⟨p, 1, 1, ptePool x, true, .retire⟩
    s.setTiers fun t => { t with reqs := r :: t.reqs }
  else s

/-- A move taken off the list. -/
def Dev.dropMove (s : Dev) (p : Nat) : Dev :=
  ((s.sectorsDrop p).setTiers fun t => { t with moves := t.moves.filter fun m => m.page != p }).showMoves

/-- The writes that a move holds are released to a page that has become UNREACHABLE: each faults with MEM/0x008 and its
command is to be killed (R282), a host's is a host fault (R445). -/
def Dev.heldLost (s : Dev) (m : PageMove) : Dev :=
  s.each m.held fun s h =>
    let a := m.page * 2 ^ 21 + h.2.1
    if h.1 = hostWr then s.hostFault a
    else if h.1 = 0 then s.bump Reg.MEM_CNT_XLFAULT 1
    else
      ((s.bump Reg.MEM_CNT_XLFAULT 1).record clsMEM 0x008 a h.1 blkMEM 0).setTiers fun t => { t with
        lost := if t.lost.contains h.1 then t.lost else t.lost ++ [h.1] }

/-- A move is cancelled: the page is left in state `mst` at its source (Table 08-6). A page whose frame was retired while it
moved has its retirement move now (R300). -/
def Dev.moveCancel (s : Dev) (m : PageMove) (mst : Nat) : Dev :=
  let s := ((s.dropMove m.page).setMstate m.page mst).bump Reg.DRY_CNT_CANCEL 1
  let s := if mst = 0 then s.each m.held fun s h => s.pageWrite h.1 m.page h.2.1 h.2.2 else s.heldLost m
  ((s.settle m.by_ 0).afterVictim m.page).retireAsk m.page

/-- A move's destination fails (Table 08-6). -/
def Dev.destFail (s : Dev) (m : PageMove) : Dev :=
  ((s.record clsMEM 0x00B m.page (s.moveGenOf m) blkDRY 0).moveCancel m 0).pump

/-- An HBM frame is retired (R300), found by a command of generation `g` or by none (0). A move whose destination it is
fails. -/
def Dev.retireFrame (s : Dev) (g f : Nat) : Dev :=
  if s.tiers.retired.contains f then s
  else
    let kept := (s.grd.fence.filter fun e => e / 2 ^ 28 == 4).length
    let s := s.record clsMEM 0x009 (if 4096 ≤ kept then f + 2 ^ 31 else f) g blkMEM 0
    let s := if 4096 ≤ kept then s else s.fenceEnter 4 f
    let s := s.setTiers fun t => { t with retired := t.retired ++ [f] }
    let s := s.each (s.tiers.moves.filter fun m => m.home == 1 && m.frame == f) Dev.destFail
    match s.pt.find? fun e => pteHome e.2.toNat == 1 && pteFrame e.2.toNat == f with
    | some e => (s.retireAsk e.1).pump
    | none => s

/-- A corrected error of an HBM frame (R298, R300). -/
def Dev.frameCe (s : Dev) (g f : Nat) : Dev :=
  let n := Sparse.get (fun _ => 0) s.tiers.ce f + 1
  let s := s.setTiers fun t => { t with ce := Sparse.put (fun _ => 0) t.ce f n }
  let lim := s.fld Reg.MEM_ECCCFG 0 8
  if lim ≠ 0 && lim < n then s.retireFrame g f else s

def keyFrame (k : Nat) : Nat := k % 2 ^ 60 / 2 ^ 21

/-- The line at key `k`, job address `a`, is read by a command of generation `g`, or outside a command (R298, R299, R593):
the state after it and whether the line is good. -/
def Dev.lineRead (s : Dev) (cmd : Bool) (g a k : Nat) : Dev × Bool :=
  let hbm := keyHome k == 1
  let g := if cmd then g else 0
  match s.lineOf k with
  | .good => (s, true)
  | .ce =>
    let s := (s.setLine k .good).bump (if hbm then Reg.MEM_CNT_CE_HBM else Reg.MEM_CNT_CE_CH) 1
    (if hbm then s.frameCe g (keyFrame k) else s, true)
  | .ue =>
    let s := (s.setLine k .poison).poisonAt (keyHome k) a
    if hbm then
      (((s.bump Reg.MEM_CNT_UE_HBM 1).record clsMEM 0x003 a g blkMEM 0).retireFrame g (keyFrame k), false)
    else ((s.bump Reg.MEM_CNT_UE_CH 1).record clsMEM 0x004 (a - chBase) g blkMEM 0, false)
  | .poison =>
    let s := (s.bump Reg.MEM_CNT_POISON 1).poisonAt (keyHome k) a
    (if cmd then s.record clsMEM 0x006 a g blkMEM 0 else s, false)

/-- The first address in each line of a span. -/
def lineAddrs (a n : Nat) : List Nat := if n = 0 then [] else (linesOf a n).map (max a)

/-- A span read line by line: translation faults, then the line. -/
def Dev.readLines (cmd : Bool) (g : Nat) : List Nat → Dev → Dev × Bool
  | [], s => (s, true)
  | x :: xs, s =>
    match s.xlate x false with
    | .bad c =>
      (if cmd then (s.bump Reg.MEM_CNT_XLFAULT 1).record clsMEM c x g blkMEM 0 else s, false)
    | .key k =>
      let (s, ok) := s.lineRead cmd g x k
      if ok then Dev.readLines cmd g xs s else (s, false)

/-- A span of good lines read by command g, or by a unit outside a command (0). -/
def Dev.spanRead (s : Dev) (g a n : Nat) : Dev × List Byte :=
  (((s.touch a n).snooped false a n).lentNeed g ((s.lentLines a n).map (·.1)), s.lentBytes g a (s.hostBytes a (s.rdJob a n)))

/-- A command reads a span of job addresses: its bytes, or none where the read faults and is recorded. -/
def Dev.cmdRead (s : Dev) (g a n : Nat) : Dev × Option (List Byte) :=
  let (s, ok) := Dev.readLines true g (lineAddrs a n) s
  if ok then let (s, bs) := s.spanRead g a n; (s, some bs) else (s, none)

/-- A read outside a command (R593). -/
def Dev.unitRead (s : Dev) (a n : Nat) : Dev × Option (List Byte) :=
  let (s, ok) := Dev.readLines false 0 (lineAddrs a n) s
  if ok then let (s, bs) := s.spanRead 0 a n; (s, some bs) else (s, none)

/-- A command writes a span of job addresses: false where the write faults and is recorded. -/
def Dev.cmdWrite (s : Dev) (g a : Nat) (bs : List Byte) : Dev × Bool :=
  match s.spanFault a bs.length true with
  | some (c, x) => ((s.bump Reg.MEM_CNT_XLFAULT 1).record clsMEM c x g blkMEM 0, false)
  | none => (s.jobWrite g a bs, true)

/-! ### Switches and cancels -/

/-- One sector copied from key to key (R278): every line of it is read outside a command (R593), and poison travels
(R299). `a` is the job address of the sector. -/
def Dev.copySector (s : Dev) (a src dst : Nat) : Dev :=
  let n := 65536
  let s := s.snooped false a n
  let inR (base k : Nat) : Bool := decide (base ≤ k) && decide (k < base + n)
  let found := (s.bad.filter fun l => inR src (l.1 * 64)).map (·.1)
  let s := s.each found fun s l => (s.lineRead false 0 (a + (l * 64 - src)) (l * 64)).1
  let es := s.mem.filter fun c => inR src c.1
  let ls := s.bad.filter fun l => inR src (l.1 * 64) && l.2 == .poison
  let s := { s with mem := s.mem.filter (fun c => !inR dst c.1), bad := s.bad.filter fun l => !inR dst (l.1 * 64) }
  let s := s.each es fun s c => s.wr (dst + (c.1 - src)) c.2
  s.each ls fun s l => s.setLine (dst + (l.1 * 64 - src)) .poison

/-- The page-table entry that a move's switch writes over entry `e` (Table 08-6). -/
def PageMove.entry (m : PageMove) (e : Nat) : Nat :=
  let e := pteWith (pteWith (pteWith e 0 3 m.home) 5 4 0) 9 3 m.pool
  pteWith (pteWith (pteWith (pteWith e 16 8 0) 32 32 m.frame) 64 16 m.lender) 80 16 (bits e 80 16 + 1)

/-- Sectors of a move's page copied to its destination, in the order given; those of lent HBM as gateway chunks (R432). An error found
on the way may end the move. -/
def Dev.copySectors (s : Dev) (m : PageMove) (is : List Nat) : Dev :=
  s.each is fun s i =>
    if s.tiers.moves.any fun x => x.page == m.page then
      let e := s.pte m.page
      let a := m.page * 2 ^ 21 + 65536 * i
      let src := homeKey e (65536 * i)
      let dst := homeKey (m.entry e) (65536 * i)
      if pteHome e = 4 then (s.snooped false a 65536).sectorMove m.page i src dst false
      else
        let s := s.copySector a src dst
        if m.home = 4 && s.tiers.moves.any (fun x => x.page == m.page) then s.sectorMove m.page i dst src true else s
    else s

/-- The sweep of a move begins the next `n` sectors, in ascending order (R278, R279). -/
def Dev.sweep (s : Dev) (m : PageMove) (n : Nat) : Dev :=
  let n := min n (32 - m.begun)
  (s.setTiers fun t => { t with
    moves := updFirst (fun x => x.page == m.page) (fun x => { x with begun := m.begun + n }) t.moves }).copySectors m
    ((List.range n).map (m.begun + ·))

/-- In a nanosecond each page that is COPYING has as many sectors begun as the implementation has time for. -/
def Dev.sweepNs (s : Dev) : Dev :=
  s.each (s.tiers.moves.filter fun m => pteMstate (s.pte m.page) == 1) fun s m =>
    s.sweep m (Config.sectorsBegun s.ns m.page % (33 - m.begun))

/-- The switch of a page (Table 08-6): the data are at the destination, which becomes the home. -/
def Dev.moveDone (s : Dev) (m : PageMove) : Dev :=
  let e := s.pte m.page
  let src := pteHome e
  let bytes := 2 ^ 21 + 65536 * m.dirty.length
  let s := ((s.setPte m.page (m.entry e)).bump Reg.DRY_CNT_BYTES bytes).dropMove m.page
  let s := if src ≠ 4 then s
    else s.setMmf fun x => { x with lines := x.lines.filter fun l => l.2 / 2 ^ 15 != homeKey e 0 / 2 ^ 21 }
  let s := if m.home = 1 && src ≠ 1 then s.bump Reg.DRY_CNT_PROMO 1
    else if m.home ≠ 1 && src = 1 then s.bump Reg.DRY_CNT_DEMO 1 else s
  let s := s.each m.held fun s h => (s.touchPage m.page).pageWrite h.1 m.page h.2.1 h.2.2
  let s := match m.by_ with | .cmd g => s.updMove g fun r => { r with bytes := r.bytes + bytes } | _ => s
  ((s.settle m.by_ 1).afterVictim m.page).pump

/-- Pages homed on a tier that is lost, and moves to or from it (Table 08-6). `lost` tells a home of the tier by HOME code
and lender. -/
def Dev.tierLost (s : Dev) (lost : Nat → Nat → Bool) : Dev :=
  let s := s.each (s.tiers.moves.filter fun m => lost m.home m.lender) fun s m => s.moveCancel m 0
  let s := s.each s.pt fun s e =>
    let x := s.pte e.1
    if !lost (pteHome x) (pteLender x) then s
    else match s.tiers.moves.find? fun m => m.page == e.1 with
      | none => if pteMstate x = 0 then s.setMstate e.1 mstUnreachable else s
      | some m => if pteMstate x = 2 && m.dirty.isEmpty then s.moveDone m else s.moveCancel m mstUnreachable
  s.pump

/-- Pages homed below port q that were lost with the devices that are mapped there now are reachable again (R279, Table
08-6). -/
def Dev.portBack (s : Dev) (q : Nat) : Dev :=
  s.each s.pt fun s e =>
    let x := s.pte e.1
    if pteHome x = 2 + q && pteMstate x = mstUnreachable && Sparse.get (fun _ => []) s.tiers.lostBy e.1 == s.foundAt q then
      (s.setMstate e.1 0).setTiers fun t => { t with lostBy := Sparse.put (fun _ => []) t.lostBy e.1 [] }
    else s

/-! ### The page table (R272 to R276) -/

def Dev.ptGo (s : Dev) : Bool := s.flag Reg.MEM_PTUPDGO 0

/-- MEM_PTUPDGO written with GO = 1: the operation starts. -/
def Dev.ptStart (s : Dev) (op : Nat) : Dev :=
  if s.ptGo then s else s.setReg Reg.MEM_PTUPDGO (1 + 2 * op)

/-- FRAME lies in the range of its home (Table 08-4). -/
def Dev.frameInRange (s : Dev) (e : Nat) : Bool :=
  let f := pteFrame e
  match pteHome e with
  | 1 => decide (rsvdFrames ≤ f) && decide (f < hbmFrames)
  | 2 => decide (f < s.fld (Reg.HST_DSFRAMES 0) 0 22)
  | 3 => decide (f < s.fld (Reg.HST_DSFRAMES 1) 0 22)
  | 4 => (s.granted true).any fun g => g.1 == pteLender e && decide (g.2.1 ≤ f) && decide (f < g.2.1 + g.2.2)
  | _ => true

/-- The reasons of R276 to refuse a write of entry `e` at page `p`. -/
def Dev.ptRefused (s : Dev) (p e : Nat) : Bool :=
  let old := s.pte p
  let t := { s with pt := Sparse.put ptDefault s.pt p 0 }
  let h := pteHome e
  pteMstate old == 1 || pteMstate old == 2 || decide (4 < h) || pteMstate e != 0 || !s.frameInRange e
    || (h != 0 && (t.usedFrames h (pteLender e)).contains (pteFrame e))
    || (h == 1 && (s.tiers.retired.contains (pteFrame e) || s.loaned (pteFrame e)
          || decide (s.poolMax (ptePool e) < t.poolUsed (ptePool e) + 1)))
    || bits e 12 4 != 0 || bits e 24 8 != 0 || bits e 96 32 != 0

/-- GO with OP = 0 (R275). -/
def execPtEntryWrite (v : Word32) (s : State) : Host.Outcome State Fault Refusal := s.upd fun s =>
  if bits v.toNat 0 1 = 1 then s.ptStart 0 else s

/-- GO with OP = 1 (R275). -/
def execPtEntryRead (v : Word32) (s : State) : Host.Outcome State Fault Refusal := s.upd fun s =>
  if bits v.toNat 0 1 = 1 then s.ptStart 1 else s

/-- The page-table operation completes (R275, R276); a write waits for the snoops of its page (R446). A page given a home that
cannot be reached is UNREACHABLE at once (Table 08-6). -/
def execPtUpdateDone (s : State) : Host.Outcome State Fault Refusal := s.upd fun s =>
  let p := s.fld Reg.MEM_PTUPDIDX 0 22
  if !s.ptGo then s
  else if s.flag Reg.MEM_PTUPDGO 1 then
    let e := s.pte p
    let s := s.each (List.range 4) fun s i => s.setReg (Reg.MEM_PTUPDDATA i) (bits e (32 * i) 32)
    s.setFlag Reg.MEM_PTUPDGO 0 false
  else
    let e := ((List.range 4).map fun i => s.fld (Reg.MEM_PTUPDDATA i) 0 32 * 2 ^ (32 * i)).sum
    if s.ptRefused p e then
      ((s.setFlag Reg.MEM_PTUPDGO 0 false).setFlag Reg.MEM_PTUPDGO 2 true).record clsMEM 0x007 p 0 blkMEM 0
    else
      let (s, ok) := s.snoopGate true (pageLine p)
      if !ok then s
      else
        let seq := bits (s.pte p) 80 16 + 1
        let new := pteWith (pteWith (pteWith e 5 4 0) 16 8 0) 80 16 seq
        let new := if s.homeLost new then pteWith new 5 3 mstUnreachable else new
        let s := (s.setPte p new).bump Reg.MEM_CNT_PTUPD 1
        let s := if s.homeLost new then s.noteLost p else s
        (s.setFlag Reg.MEM_PTUPDGO 0 false).pump

/-- MEM_PTUPDIDX, MEM_PTUPDGO.OP or a data register written (R275). -/
def execPtRegWrite (off : Nat) (v : Word32) (s : State) : Host.Outcome State Fault Refusal := s.upd fun s =>
  if s.ptGo then s
  else if off = Reg.MEM_PTUPDIDX || off = Reg.MEM_PTUPDGO || (List.range 4).any (fun i => off == Reg.MEM_PTUPDDATA i)
  then s.regWrite .host off v.toNat
  else s

/-! ### The MOVE command (R292 to R294) -/

/-- SIZ_TIER.DS_PORTS counts port q: it is enabled, or drains and is not down yet (R293, R501). -/
def Dev.portCounted (s : Dev) (q : Nat) : Bool := s.portOn q || s.job.drains.any fun x => x.1 == q

/-- What breaks Table 08-8 or R293: the byte offset of the first bad field. -/
def Dev.moveBad (s : Dev) (d : Line) : Option Nat :=
  let n := lfield d 20 0 23
  let t := lfield d 24 0 3
  if lfield d 16 22 10 ≠ 0 then some 16
  else if lfield d 20 23 9 ≠ 0 || n = 0 || 4194304 < n || 4194304 < lfield d 16 0 22 + n then some 20
  else if t = 0 || 4 < t || lfield d 24 7 1 ≠ 0 || (t = 2 && !s.portCounted 0) || (t = 3 && !s.portCounted 1)
    || (t = 4 && (s.granted true).isEmpty) then some 24
  else if !lzeros d 25 31 then some 25
  else if lnum d 32 8 % 64 ≠ 0 || !inCH (lnum d 32 8) 64 then some 32
  else if !lzeros d 40 63 then some 40
  else none

/-- MOVE armed (R292, R293). -/
def execMove (src : Source) (d : Line) (s : State) : Host.Outcome State Fault Refusal := s.upd fun s =>
  if dOp d ≠ 0x0400 then s
  else match s.headCheck d with
    | some r => s.refuse src d r
    | none =>
      match s.moveBad d with
      | some n => s.refuse src d ⟨clsMEM, 0x00A, n⟩
      | none =>
        let n := lfield d 20 0 23
        let rpt := lnum d 32 8
        let (s, g) := s.arm src d 0 [] [(jobKey rpt, 64)] (.move ⟨rpt, n, 0, 0, 0, 0, 0, 0, 0⟩)
        let r : MoveReq := ⟨lfield d 16 0 22, n, lfield d 24 0 3, lfield d 24 3 3, lfield d 24 6 1 == 1, .cmd g⟩
        Dev.pump (s.setTiers fun t => { t with reqs := t.reqs ++ [r] })

/-- Every page of a MOVE has settled. -/
def Dev.moveSettled (s : Dev) (g : Nat) (r : MoveRun) : Bool :=
  r.left == 0 && !s.tiers.moves.any fun m => m.by_ == .cmd g

/-- The report of Table 08-9. -/
def MoveRun.report (r : MoveRun) (g : Nat) : List Byte :=
  leBytes 4 g ++ leBytes 4 0 ++ leBytes 4 r.moved ++ leBytes 4 r.resident ++ leBytes 4 r.busy ++ leBytes 4 r.noevict
    ++ leBytes 4 r.unmapped ++ leBytes 4 r.evicted ++ leBytes 8 r.bytes ++ leBytes 24 0

/-- A MOVE commits: the report is written last, then HAND (R293, R237). -/
def Dev.moveCommit (s : Dev) (g : Nat) (c : Cmd) (r : MoveRun) : Dev :=
  if !s.moveSettled g r then s
  else
    let s := if (s.ctrBad (dHand c.desc)).isNone then s.wrBytes (chAddr r.rpt) (r.report g) else s
    (s.commit g 0).setTiers fun t => { t with noted := t.noted.filter (· != .cmd g) }

/-- A MOVE is killed: its moves in progress are cancelled, and it starts none (R294). -/
def Dev.moveKill (s : Dev) (g status : Nat) : Dev :=
  let s := s.setTiers fun t => { t with
    reqs := t.reqs.filter (fun r => r.by_ != .cmd g), waits := t.waits.filter fun w => w.by_ != .cmd g }
  let s := s.each (s.tiers.moves.filter fun m => m.by_ == .cmd g) fun s m => s.moveCancel m 0
  (s.kill g status false).pump

/-- The move of a page. -/
def Dev.moveOf (s : Dev) (page : Nat) : Option PageMove := s.tiers.moves.find? fun m => m.page == page

/-- The sweep's last sector is copied, after every sector before it (Table 08-6); chunks to or from lent HBM have been acknowledged. -/
def execMoveSweepDone (page : Nat) (s : State) : Host.Outcome State Fault Refusal := s.upd fun s =>
  match s.moveOf page with
  | none => s
  | some m =>
    if pteMstate (s.pte page) ≠ 1 then s
    else
      let s := s.sweep m 32
      if (s.moveOf page).isSome && !s.sectorsOn page then s.setMstate page 2 else s

/-- Every dirty sector is copied again: the page switches (Table 08-6), after the snoops of its lines (R446), and once chunks to or from
lent HBM have been acknowledged. -/
def execMoveSwitch (page : Nat) (s : State) : Host.Outcome State Fault Refusal := s.upd fun s =>
  match s.moveOf page with
  | none => s
  | some m =>
    if pteMstate (s.pte page) ≠ 2 then s
    else
      let (s, ok) := s.snoopGate true (pageLine page)
      if !ok then s
      else
        let s := if m.again then s
          else (s.setTiers fun t => { t with
            moves := updFirst (fun x => x.page == page) (fun x => { x with again := true }) t.moves }).copySectors m
              ((List.range 32).filter m.dirty.contains)
        match s.moveOf page with
        | some m => if s.sectorsOn page then s else s.moveDone m
        | none => s

/-- A move's destination fails (Table 08-6). -/
def execMoveDestFail (page : Nat) (s : State) : Host.Outcome State Fault Refusal := s.upd fun s =>
  match s.moveOf page with
  | none => s
  | some m => s.destFail m

/-- The ager's sweep (R284). -/
def execAgerSweep (s : State) : Host.Outcome State Fault Refusal := s.upd fun s =>
  s.each s.pt fun s e =>
    let x := s.pte e.1
    if pteHome x ≠ 1 then s
    else if bit x 8 then s.setPte e.1 (pteWith (setBit x 8 false) 16 8 0)
    else s.setPte e.1 (pteWith x 16 8 (min 255 (bits x 16 8 + 1)))

/-! ### The Timetable (R288 to R291) -/

def Dev.ttRun (s : Dev) : Bool := s.flag Reg.DRY_STAT 12
def Dev.ttLen (s : Dev) : Nat := s.fld Reg.DRY_TTCFG 0 17
def Dev.ttAhead (s : Dev) : Nat := s.fld Reg.DRY_TTCFG 20 4

/-- A Timetable entry breaks R290. -/
def entryBad (e : List Byte) : Bool :=
  let n := leNat e
  let f := bits n
  let trig := f 0 64
  f 150 10 != 0 || f 183 9 != 0 || f 160 23 == 0 || decide (4194304 < f 128 22 + f 160 23) || f 198 2 != 0 || f 200 56 != 0
    || f 192 3 == 0 || decide (4 < f 192 3) || !ctrOk trig

/-- No further move is started for the Timetable (R290). Moves already started run to their end, the evictions made for it
among them. -/
def Dev.ttHalt (s : Dev) : Dev :=
  (s.setTiers fun t => { t with ttEnd := true, ttHalted := true, reqs := t.reqs.filter fun r => !isEntry r.by_ }).ttEndCheck

/-- The Timetable reaches the entry of DRY_TTPOS and reads it; a malformed one stops it (R288 to R290). -/
def Dev.ttReach (s : Dev) : Dev :=
  let n := s.fld Reg.DRY_TTPOS 0 17
  match s.unitRead (s.reg Reg.DRY_TTBASE + 32 * n) 32 with
  | (s, none) => (s.record clsMEM 0x00C n 0 blkDRY 0).ttHalt
  | (s, some e) =>
    if entryBad e then (s.record clsMEM 0x00C n 0 blkDRY 0).ttHalt else s.setTiers fun t => { t with ttNow := e }

/-- DRY_TTCTL.START written 1 (R289, R291). -/
def execTimetableStart (s : State) : Host.Outcome State Fault Refusal := s.unit fun s =>
  let base := s.reg Reg.DRY_TTBASE
  if s.ttRun then s
  else if s.ttLen = 0 || s.ttAhead = 0 || base % 64 ≠ 0 then s.record clsMEM 0x00C 0xFFFFFFFF 0 blkDRY 0
  else
    let s := (s.setFlag Reg.DRY_STAT 12 true).setReg Reg.DRY_TTPOS 0
    (s.setTiers fun t => { t with
      ttEnd := false, ttHalted := false, opens := [], noted := t.noted.filter fun b => !isEntry b }).ttReach

/-- DRY_TTCTL.STOP written 1 (R290). -/
def execTimetableStop (s : State) : Host.Outcome State Fault Refusal := s.upd fun s =>
  if s.ttRun then (s.setFlag Reg.DRY_TTCTL 1 true).ttHalt else s

/-- The trigger of the entry reached holds with fewer than AHEAD entries unsettled: its moves start, and the Timetable goes on
to the next entry (R289). -/
def execTimetableEntryTrigger (s : State) : Host.Outcome State Fault Refusal := s.unit fun s =>
  let n := s.fld Reg.DRY_TTPOS 0 17
  let k := s.fld Reg.DRY_TTPOS 17 47
  if !s.ttRun || s.jobState = jPREEMPTED || s.tiers.ttEnd || s.tiers.ttNow.isEmpty then s
  else
    let x := leNat s.tiers.ttNow
    let trig := bits x 0 64
    let target := (bits x 64 64 + k * s.reg Reg.DRY_TTLAPINC) % 2 ^ 64
    let (s, ok) := if trig = 0 then (s, true) else
      match s.unitRead trig 8 with
      | (s, some c) => (s, decide ((leNat c + 2 ^ 64 - target) % 2 ^ 64 < 2 ^ 63))
      | (s, none) => (s, false)
    if !ok || s.ttAhead ≤ s.tiers.opens.length then s
    else
      let cnt := bits x 160 23
      let r : MoveReq := ⟨bits x 128 22, cnt, bits x 192 3, bits x 195 3, false, .entry k n⟩
      let loop := s.flag Reg.DRY_TTCFG 17
      let s := s.setTiers fun t => { t with
        opens := t.opens ++ [⟨k, n, cnt, r.first, cnt, r.target, r.pool⟩], reqs := t.reqs ++ [r], ttNow := [] }
      if n + 1 = s.ttLen then
        if loop then ((s.setReg Reg.DRY_TTPOS ((k + 1) * 2 ^ 17)).pump).ttReach
        else ((s.setFld Reg.DRY_TTPOS 0 17 (n + 1)).setTiers fun t => { t with ttEnd := true }).pump
      else ((s.setFld Reg.DRY_TTPOS 0 17 (n + 1)).pump).ttReach

/-- A Timetable configuration register written (R291). -/
def execTimetableConfigWrite (off : Nat) (v : Word64) (s : State) : Host.Outcome State Fault Refusal := s.upd fun s =>
  if !([Reg.DRY_TTBASE, Reg.DRY_TTCFG, Reg.DRY_TTLAPINC, Reg.DRY_TTDONE].contains off) then s
  else if s.ttRun then s.discard clsMEM 0x00D off 0
  else s.regWrite .host off v.toNat

/-! ### Holds, retraining slots, scrubbing -/

/-- A hold set at or above a mark and cleared below another. -/
def holdOf (was : Bool) (x high low : Nat) : Bool := if high ≤ x then true else if x < low then false else was

/-- The saturation sample (R295, R296). -/
def execSaturationSample (hbm p0 p1 : Nat) (s : State) : Host.Outcome State Fault Refusal := s.upd fun s =>
  let f := s.fld Reg.DRY_SATCFG
  let s := s.setFlag Reg.DRY_STAT 8 (holdOf (s.flag Reg.DRY_STAT 8) hbm (f 0 8) (f 8 8))
  let s := s.setFlag Reg.DRY_STAT 9 (holdOf (s.flag Reg.DRY_STAT 9) p0 (f 16 8) (f 24 8))
  let s := s.setFlag Reg.DRY_STAT 10 (holdOf (s.flag Reg.DRY_STAT 10) p1 (f 16 8) (f 24 8))
  s.pump

def Dev.rtSteps (s : Dev) (st : Nat) : Nat := Sparse.get (fun _ => 0) s.tiers.rtSteps st
def Dev.setRtSteps (s : Dev) (st n : Nat) : Dev :=
  let s := s.setTiers fun t => { t with rtSteps := Sparse.put (fun _ => 0) t.rtSteps st n }
  s.setFlag Reg.MEM_RTSTAT (8 + st) (n != 0)

/-- A slot starts (Table 08-10). -/
def Dev.rtStart (s : Dev) (st : Nat) : Dev :=
  ((s.setRtSteps st 0).setFld Reg.MEM_RTSTAT 0 3 st).setFlag Reg.MEM_RTSTAT 3 true

/-- A stack's slot falls due (R297): `occ` is its queue occupancy. -/
def execRetrainSlotDue (st occ : Nat) (s : State) : Host.Outcome State Fault Refusal := s.upd fun s =>
  if 8 ≤ st || s.rtSteps st ≠ 0 then s
  else if s.flag Reg.MEM_RTSTAT 3 then (s.setRtSteps st 1).bump Reg.MEM_CNT_RTDEFER 1
  else if s.fld Reg.DRY_SATCFG 0 8 ≤ occ then
    if s.fld Reg.MEM_RTCFG 8 8 = 0 then (s.bump Reg.MEM_CNT_RTFORCED 1).rtStart st
    else (s.setRtSteps st 1).bump Reg.MEM_CNT_RTDEFER 1
  else s.rtStart st

/-- A 100 us deferral step ends (R297). -/
def execRetrainSlotDefer (st occ : Nat) (s : State) : Host.Outcome State Fault Refusal := s.upd fun s =>
  let n := s.rtSteps st
  if 8 ≤ st || n = 0 then s
  else if s.flag Reg.MEM_RTSTAT 3 then (s.setRtSteps st (n + 1)).bump Reg.MEM_CNT_RTDEFER 1
  else if occ < s.fld Reg.DRY_SATCFG 0 8 then s.rtStart st
  else if s.fld Reg.MEM_RTCFG 8 8 * 10 ≤ n then (s.bump Reg.MEM_CNT_RTFORCED 1).rtStart st
  else (s.setRtSteps st (n + 1)).bump Reg.MEM_CNT_RTDEFER 1

/-- The slot ends (Table 08-10). -/
def execRetrainSlotEnd (s : State) : Host.Outcome State Fault Refusal := s.upd fun s =>
  if s.flag Reg.MEM_RTSTAT 3 then (s.setFlag Reg.MEM_RTSTAT 3 false).bump Reg.MEM_CNT_RTSLOT 1 else s

/-- The patrol scrubber reads a line of an HBM frame (R298, R593); `found` is what the line code finds there. -/
def execScrubRead (frame line : Nat) (found : LineState) (s : State) : Host.Outcome State Fault Refusal := s.upd fun s =>
  let k := hbmKey frame (64 * line)
  if !s.flag Reg.MEM_ECCCFG 8 || hbmFrames ≤ frame || 32768 ≤ line then s
  else
    let s := if found = .good || s.lineOf k = .poison then s else s.setLine k found
    (s.lineRead false 0 (s.jobOf 1 frame (64 * line)) k).1

/-! ### Downstream ports taken out of service (R40, R501, R580) -/

/-- The moves to or from port q. -/
def Dev.portMoves (s : Dev) (q : Nat) : List PageMove :=
  s.tiers.moves.filter fun m => m.home == 2 + q || pteHome (s.pte m.page) == 2 + q

/-- From now on no move to or from port q is started (R501). -/
def Dev.portOff (s : Dev) (q : Nat) : Dev := s.setTiers fun t => { t with portsOff := t.portsOff ++ [q] }

/-- Port q goes down: its moves are cancelled, the size table changes, its pages become UNREACHABLE, and JOB/0x00B is
recorded with the number of moves cancelled, `n` before this. -/
def Dev.portDown (s : Dev) (q n gen : Nat) : Dev × Nat :=
  let ms := s.portMoves q
  let k := n + ms.length
  let s := s.each ms fun s m => s.moveCancel m 0
  let s := s.sizChange fun s => s.setFld Reg.SIZ_TIER 0 2 (s.fld Reg.SIZ_TIER 0 2 - 1)
  let s := ((s.setReg (Reg.HST_DSCTL q) 0).setReg (Reg.HST_DSSTAT q) 0).setReg (Reg.HST_DSFRAMES q) 0
  let s := s.setTiers fun t => { t with listed := t.listed.filter (· != q) }
  let s := s.dsHold q
  let s := s.tierLost fun home _ => home == 2 + q
  (s.record clsJOB 0x00B (q + k % 2 ^ 24 * 2 ^ 8) gen blkGRD 0, k)

/-- A JUNIT of a port commits once the port is down (R501). -/
def Dev.portCommit (s : Dev) (g : Nat) (r : PortRun) : Dev :=
  if (s.portMoves r.port).isEmpty then
    let (s, k) := s.portDown r.port r.cancelled g
    Dev.commit { s with job := { s.job with drains := s.job.drains.filter fun x => x.1 != r.port } } g k
  else s

end Sys2Proof.Machine
end

