-- ==== Sys2Proof/Machine/Turnpike.lean ====
section
/-! DEFINITION. The Turnpike: shapers, fabric time, gate lists, policers (R373 to R390). -/
namespace Sys2Proof.Machine

def natDefault (_ : Nat) : Nat := 0
def optDefault (_ : Nat) : Option Nat := none

/-! ### Shapers and policers in effect -/

/-- TPK_SHAPE(h, c) in effect (R376). -/
def Dev.shapeEff (s : Dev) (h c : Nat) : Nat :=
  match Sparse.get optDefault s.tpk.shape (8 * h + c) with
  | some v => v
  | none => s.reg (Reg.TPK_SHAPE h c)

/-- TPK_POLICE(h, c) in effect (R388). -/
def Dev.polEff (s : Dev) (h c : Nat) : Nat :=
  match Sparse.get optDefault s.tpk.police (8 * h + c) with
  | some v => v
  | none => s.reg (Reg.TPK_POLICE h c)

def Dev.credit (s : Dev) (h c : Nat) : Int := toSigned 32 (s.reg (Reg.TPK_CREDIT h c))
def Dev.setCredit (s : Dev) (h c : Nat) (x : Int) : Dev := s.setReg (Reg.TPK_CREDIT h c) (ofSigned 32 x)

def Dev.bucketC (s : Dev) (h c : Nat) : Nat := Sparse.get natDefault s.tpk.tc (8 * h + c)
def Dev.bucketP (s : Dev) (h c : Nat) : Nat := Sparse.get natDefault s.tpk.tp (8 * h + c)
def Dev.setBuckets (s : Dev) (h c x y : Nat) : Dev :=
  { s with tpk := { s.tpk with
      tc := Sparse.put natDefault s.tpk.tc (8 * h + c) x, tp := Sparse.put natDefault s.tpk.tp (8 * h + c) y } }

def Dev.shapeEn (s : Dev) : Bool := s.flag Reg.TPK_CFG 0
def Dev.policeEn (s : Dev) : Bool := s.flag Reg.TPK_CFG 1

/-- The credit after a refill with a shaper value in effect (R375). -/
def refillCredit (shape : Nat) (x : Int) : Int :=
  let cap : Int := bits shape 16 8 * 1024
  if bits shape 0 10 = 0 then cap else min cap (x + 10 * (bits shape 0 10 : Nat))

/-- The shaper lets a carriage of class `c` start on Hitch `h` (R373). -/
def Dev.shaperOk (s : Dev) (h c : Nat) : Bool :=
  !s.shapeEn || bits (s.shapeEff h c) 0 10 == 0 || decide (0 ≤ s.credit h c)

/-- What a start costs (R375). -/
def Dev.shaperSpend (s : Dev) (h c bytes : Nat) : Dev :=
  if s.shapeEn && bits (s.shapeEff h c) 0 10 ≠ 0 then s.setCredit h c (s.credit h c - (bytes : Nat)) else s

inductive Colour where
  | green
  | yellow
  | red
deriving DecidableEq, Repr

/-- The colour of a carriage of `b` bytes with buckets tc and tp, and the buckets after it (R386). -/
def colourOf (pol tc tp b : Nat) : Colour × Nat × Nat :=
  let pre := if bit pol 58 then bits pol 56 2 else 0
  if pre = 2 || tp < b then (.red, tc, tp)
  else if pre = 1 || tc < b then (.yellow, tc, tp - b)
  else (.green, tc - b, tp - b)

/-- An arriving carriage metered: counted by colour, and a red one may set XOFF for its VC (R386, R387). -/
def Dev.police (s : Dev) (h c b vc : Nat) : Dev :=
  let pol := s.polEff h c
  if !s.policeEn then s
  else if bits pol 0 10 = 0 then s.bump (Reg.TPK_CNT_GREEN h) 1
  else
    let (col, tc, tp) := colourOf pol (s.bucketC h c) (s.bucketP h c) b
    let s := s.setBuckets h c tc tp
    match col with
    | .green => s.bump (Reg.TPK_CNT_GREEN h) 1
    | .yellow => s.bump (Reg.TPK_CNT_YELLOW h) 1
    | .red =>
      let s := s.bump (Reg.TPK_CNT_RED h) 1
      if bit pol 59 then
        let k := 8 * h + c
        let s := s.setFlag (Reg.TPK_PSTAT h) c true
        let s := { s with tpk := { s.tpk with paused := if s.tpk.paused.contains (k, vc) then s.tpk.paused else s.tpk.paused ++ [(k, vc)] } }
        if s.tpk.onceRed.contains k then s
        else
          let s := s.record clsFAB 0x024 (h + c * 2 ^ 8) 0 blkTPK h
          { s with tpk := { s.tpk with onceRed := s.tpk.onceRed ++ [k] } }
      else s

/-- The VCs that pauses hold off toward the partner of Hitch `h`. -/
def Dev.pausedVCs (s : Dev) (h : Nat) : List Nat := (s.tpk.paused.filter fun p => p.1 / 8 == h).map (·.2)

/-! ### Gate lists (R381 to R385) -/

def Dev.gateEn (s : Dev) (p : Nat) : Bool := s.flag (Reg.TPK_GCTL p) 0
def Dev.gateArmed (s : Dev) (p : Nat) : Bool := s.flag (Reg.TPK_GCTL p) 1
def Dev.gateBank (s : Dev) (p : Nat) : Nat := s.fld (Reg.TPK_GSTAT p) 0 1
def Dev.bankLen (s : Dev) (p b : Nat) : Nat := s.fld (Reg.TPK_GCTL p) (8 + 8 * b) 7
def Dev.gateEntry (s : Dev) (p b i : Nat) : Nat := s.reg (Reg.TPK_GENTRY p b i)
def entryOpen (e : Nat) : Nat := bits e 0 8
def entryDur (e : Nat) : Nat := bits e 32 32

/-- A bank's entries: OPEN and DURATION. -/
def Dev.bankList (s : Dev) (p b : Nat) : List (Nat × Nat) :=
  (List.range (s.bankLen p b)).map fun i => let e := s.gateEntry p b i; (entryOpen e, entryDur e)

/-- Entry number and time still to run at position `pos` of a list. -/
def listPos : List (Nat × Nat) → Nat → Nat → Nat × Nat
  | [], _, i => (i, 0)
  | (_, d) :: es, pos, i => if pos < d then (i, d - pos) else listPos es (pos - d) (i + 1)

def cycleTime (es : List (Nat × Nat)) : Nat := (es.map (·.2)).sum

/-- The position of a running bank: entry and time left in it. -/
def Dev.gatePos (s : Dev) (p : Nat) : Option (Nat × Nat) :=
  match Sparse.get optDefault s.tpk.base p with
  | none => none
  | some b =>
    let es := s.bankList p (s.gateBank p)
    if cycleTime es = 0 then none
    else some (listPos es (((s.now : Int) - (b : Nat)) % (cycleTime es : Nat)).toNat 0)

/-- How long class `c` stays open from the head of a list of entries, or none where it never closes in it. -/
def openFor (c : Nat) : List (Nat × Nat) → Option Nat
  | [] => none
  | (o, d) :: es => if bit o c then (openFor c es).map (d + ·) else some 0

/-- Time until class `c` closes on plane `p`, its gate being open now; none where nothing closes it (R385). -/
def Dev.closesIn (s : Dev) (p c : Nat) : Option Nat :=
  let own : Option Nat := match s.gatePos p with
    | none => none
    | some (i, left) =>
      let es := s.bankList p (s.gateBank p)
      (openFor c (es.drop (i + 1) ++ es.take (i + 1))).map (left + ·)
  if s.gateArmed p then
    let g := s.reg (Reg.TPK_GBASE p) - s.now
    let es := s.bankList p (1 - s.gateBank p)
    match own with
    | some x => if x < g then some x else (openFor c es).map (g + ·)
    | none => (openFor c es).map (g + ·)
  else own

/-- The gate of class `c` on plane `p` is open. -/
def Dev.gateOpen (s : Dev) (p c : Nat) : Bool := !s.gateEn p || bit (s.fld (Reg.TPK_GSTAT p) 16 8) c

/-- The guard band lets a carriage of PLEN `plen` start at `w` lanes (R385). -/
def Dev.guardOk (s : Dev) (p c plen w : Nat) : Bool :=
  if !s.gateEn p then true
  else match s.closesIn p c with
    | none => true
    | some r =>
      let g := s.fld Reg.TPK_CFG 8 10
      decide (g ≤ r) && decide ((1 + 4 * plen) * 85 * 4 ≤ (r - g) * 140 * w)

/-- Entry `i` of the active bank runs: GSTAT shows it. -/
def Dev.showEntry (s : Dev) (p i : Nat) : Dev :=
  let e := s.gateEntry p (s.gateBank p) i
  (s.setFld (Reg.TPK_GSTAT p) 8 6 i).setFld (Reg.TPK_GSTAT p) 16 8 (entryOpen e)

/-- The armed bank becomes active at its entry 0 (R382). -/
def Dev.gateSwitch (s : Dev) (p : Nat) : Dev :=
  let s := s.setFld (Reg.TPK_GSTAT p) 0 1 (1 - s.gateBank p)
  let s := s.setFlag (Reg.TPK_GCTL p) 1 false
  let s := { s with tpk := { s.tpk with base := Sparse.put optDefault s.tpk.base p (some (s.reg (Reg.TPK_GBASE p))) } }
  (s.showEntry p 0).bump (Reg.TPK_CNT_GSWITCH p) 1

/-- The gates follow a step of fabric time (R384). -/
def Dev.gateFollow (s : Dev) : Dev :=
  s.each (List.range 8) fun s p =>
    let s := if s.gateArmed p && s.reg (Reg.TPK_GBASE p) ≤ s.now then s.gateSwitch p else s
    match s.gatePos p with
    | some (i, _) => s.showEntry p i
    | none => s

/-! ### Fabric time (R377 to R380) -/

/-- A signed offset removed from, or added to, fabric time: slewed up to 1 ms, stepped beyond (R378). -/
def Dev.timeOffset (s : Dev) (x : Int) : Dev :=
  if x.natAbs ≤ 1000000 then { s with tpk := { s.tpk with slew := x, slewPh := 0 } }
  else
    let s := { s with tpk := { s.tpk with slew := 0, slewPh := 0 } }
    (s.setReg Reg.TPK_TIME (ofSigned 64 ((s.now : Int) + x))).gateFollow

/-- One nanosecond of the always-on domain: fabric time advances by 1, and a slew in progress adds or takes 1 in 2,000. -/
def Dev.timeTick (s : Dev) : Dev :=
  let done := s.tpk.slewPh + 1 = 2000
  let d : Int := if done then (if 0 < s.tpk.slew then 1 else if s.tpk.slew < 0 then -1 else 0) else 0
  let s := { s with tpk := { s.tpk with
      slew := s.tpk.slew - d, slewPh := if s.tpk.slew = 0 || done then 0 else s.tpk.slewPh + 1 } }
  s.setReg Reg.TPK_TIME (ofSigned 64 ((s.now : Int) + 1 + d))

def Dev.tsyncEn (s : Dev) : Bool := s.flag Reg.TPK_TSYNC 0
def Dev.tsyncGroup (s : Dev) : Nat := s.fld Reg.TPK_TSYNC 16 16
/-- REF: this device is rank 0 of GROUP (R379). -/
def Dev.tsyncRef (s : Dev) : Bool := s.col.groups.any fun g => g.gid == s.tsyncGroup && g.rank == 0

/-- A signed offset saturated to 24 bits (TPK_TSTAT.OFFSET). -/
def sat24 (x : Int) : Int := max (-(2 ^ 23)) (min (2 ^ 23 - 1) x)

/-- The lock is lost (R379). -/
def Dev.lockLost (s : Dev) (detail : Nat) : Dev :=
  if s.flag Reg.TPK_TSTAT 0 then (s.setFlag Reg.TPK_TSTAT 0 false).record clsFAB 0x021 detail 0 blkTPK 0 else s

/-! ### The commands -/

/-- Eight frames sent on Hitch `h`: pending writes take effect, then every class refills (R374 to R376). -/
def Dev.shaperRefill (s : Dev) (h : Nat) : Dev :=
  s.each (List.range 8) fun s c =>
    let s := { s with tpk := { s.tpk with shape := Sparse.put optDefault s.tpk.shape (8 * h + c) none } }
    s.setCredit h c (refillCredit (s.reg (Reg.TPK_SHAPE h c)) (s.credit h c))

/-- A pause of class `c` on Hitch `h` ends once Tp reaches 4,160 bytes (R387). -/
def Dev.pauseSettle (s : Dev) (h c : Nat) : Dev :=
  if s.bucketP h c < 4160 then s
  else
    let s := s.setFlag (Reg.TPK_PSTAT h) c false
    { s with tpk := { s.tpk with paused := s.tpk.paused.filter fun p => p.1 != 8 * h + c } }

/-- Eight frames received on Hitch `h`: pending writes take effect, the buckets refill, and pauses end (R386 to R388). -/
def Dev.policerRefill (s : Dev) (h : Nat) : Dev :=
  s.each (List.range 8) fun s c =>
    let s := { s with tpk := { s.tpk with police := Sparse.put optDefault s.tpk.police (8 * h + c) none } }
    let pol := s.reg (Reg.TPK_POLICE h c)
    (s.setBuckets h c (min (bits pol 16 8 * 1024) (s.bucketC h c + 10 * bits pol 0 10))
      (min (bits pol 48 8 * 1024) (s.bucketP h c + 10 * bits pol 32 10))).pauseSettle h c

/-- Frames counted toward the next refill (R374): 8 once the eighth has brought it. -/
def Dev.txCount (s : Dev) (h : Nat) : Nat := Sparse.get natDefault s.tpk.txFrames h
def Dev.rxCount (s : Dev) (h : Nat) : Nat := Sparse.get natDefault s.tpk.rxFrames h
def Dev.setTxCount (s : Dev) (h n : Nat) : Dev :=
  { s with tpk := { s.tpk with txFrames := Sparse.put natDefault s.tpk.txFrames h n } }
def Dev.setRxCount (s : Dev) (h n : Nat) : Dev :=
  { s with tpk := { s.tpk with rxFrames := Sparse.put natDefault s.tpk.rxFrames h n } }

/-- A frame sent on Hitch `h`, of any type: the eighth brings a refill of its shapers (R374). -/
def Dev.frameSent (s : Dev) (h : Nat) : Dev :=
  let n := s.txCount h % 8 + 1
  let s := s.setTxCount h n
  if n = 8 then s.shaperRefill h else s

/-- A frame received on Hitch `h`, of any type or decode: the eighth brings a refill of its policers (R374). -/
def Dev.frameReceived (s : Dev) (h : Nat) : Dev :=
  let n := s.rxCount h % 8 + 1
  let s := s.setRxCount h n
  if n = 8 then s.policerRefill h else s

/-- SHAPER_REFILL (R374, R375): the refill that the eighth frame has just brought, or that of frames which no
LINK_FRAME_TRANSMIT spells out; `frames` says whether the Hitch sends any. -/
def Dev.shaperRow (s : Dev) (h : Nat) (frames : Bool) : Dev :=
  if 32 ≤ h || !frames then s
  else if s.txCount h = 8 then s.setTxCount h 0
  else (s.setTxCount h 0).shaperRefill h

/-- POLICER_REFILL (R374, R386), in the same way for the frames that Hitch `h` receives. -/
def execPolicerRefill (h : Nat) (s : State) : Host.Outcome State Fault Refusal := s.upd fun s =>
  if 32 ≤ h then s
  else if s.rxCount h = 8 then s.setRxCount h 0
  else (s.setRxCount h 0).policerRefill h

/-- TPK_CFG written: SHAPE_EN set to 1 fills the credits, POLICE_EN set to 1 the buckets, and with them ends the pauses (R375,
R386, R387). -/
def execTpkCfgWrite (v : Word32) (s : State) : Host.Outcome State Fault Refusal := s.upd fun s =>
  let s1 := s.regWrite .host Reg.TPK_CFG v.toNat
  let pairs := (List.range 32).flatMap fun h => (List.range 8).map fun c => (h, c)
  let s2 := if s1.shapeEn && !s.shapeEn then
      s1.each pairs fun t p => t.setCredit p.1 p.2 ((bits (t.shapeEff p.1 p.2) 16 8 * 1024 : Nat) : Int) else s1
  if s1.policeEn && !s.policeEn then
      s2.each pairs fun t p =>
        let pol := t.polEff p.1 p.2
        (t.setBuckets p.1 p.2 (bits pol 16 8 * 1024) (bits pol 48 8 * 1024)).pauseSettle p.1 p.2
    else s2

/-- TPK_SHAPE(h, c) written: it takes effect at the next refill (R376). -/
def execTpkShapeWrite (h c : Nat) (v : Word32) (s : State) : Host.Outcome State Fault Refusal := s.upd fun s =>
  if 32 ≤ h || 8 ≤ c then s
    else
      let old := s.shapeEff h c
      let s := s.regWrite .host (Reg.TPK_SHAPE h c) v.toNat
      { s with tpk := { s.tpk with shape := Sparse.put optDefault s.tpk.shape (8 * h + c) (some old) } }

/-- TPK_POLICE(h, c) written: it takes effect at the next policer refill (R388). -/
def execTpkPoliceWrite (h c : Nat) (v : Word64) (s : State) : Host.Outcome State Fault Refusal := s.upd fun s =>
  if 32 ≤ h || 8 ≤ c then s
    else
      let old := s.polEff h c
      let s := s.regWrite .host (Reg.TPK_POLICE h c) v.toNat
      { s with tpk := { s.tpk with police := Sparse.put optDefault s.tpk.police (8 * h + c) (some old) } }

/-- The high word of TPK_TIMEADJ written (R378, R380). -/
def execTimeAdjust (v : Word64) (s : State) : Host.Outcome State Fault Refusal := s.upd fun s =>
  if s.tsyncEn && !s.tsyncRef then s.record clsFAB 0x023 s.tsyncGroup 0 blkTPK 0
    else s.timeOffset (toSigned 64 v.toNat)

/-- GCTL.ARM written 1 (R382, R383). -/
def execGateArm (p : Nat) (s : State) : Host.Outcome State Fault Refusal := s.upd fun s =>
  let b := 1 - s.gateBank p
  let n := s.bankLen p b
  let badE := (List.range n).find? fun i => let e := s.gateEntry p b i; bits e 8 24 != 0 || decide (entryDur e < 100)
  if 8 ≤ p || s.gateArmed p then s
    else if s.reg (Reg.TPK_GBASE p) ≤ s.now || n = 0 || 64 < n then s.record clsFAB 0x020 (p + 0x3F * 2 ^ 8) 0 blkTPK 0
    else match badE with
      | some i => s.record clsFAB 0x020 (p + i * 2 ^ 8) 0 blkTPK 0
      | none => s.setFlag (Reg.TPK_GCTL p) 1 true

/-- GCTL.CANCEL written 1. -/
def execGateCancel (p : Nat) (s : State) : Host.Outcome State Fault Refusal := s.upd fun s =>
  if 8 ≤ p then s else s.setFlag (Reg.TPK_GCTL p) 1 false

/-- Fabric time reaches GBASE of an armed plane. -/
def execGateSwitchover (p : Nat) (s : State) : Host.Outcome State Fault Refusal := s.upd fun s =>
  if 8 ≤ p || !s.gateArmed p then s else s.gateSwitch p

/-- A running entry's DURATION ends (R381). -/
def execGateEntryAdvance (p : Nat) (s : State) : Host.Outcome State Fault Refusal := s.upd fun s =>
  let n := s.bankLen p (s.gateBank p)
  if 8 ≤ p || n = 0 || (Sparse.get optDefault s.tpk.base p).isNone then s
    else s.showEntry p ((s.fld (Reg.TPK_GSTAT p) 8 6 + 1) % n)

/-- A write of a gate-list register: TPK_GENTRY, TPK_GBASE or TPK_GCTL (R383). -/
def execGateListWrite (off : Nat) (v : Word64) (s : State) : Host.Outcome State Fault Refusal := s.upd fun s =>
  let lo := off - 0xC00000
  if 0x4000 ≤ lo && lo < 0x6000 then
      let p := (lo - 0x4000) / 0x400; let b := (lo - 0x4000) / 0x200 % 2
      if b = s.gateBank p || s.gateArmed p then s.discard clsFAB 0x022 off 0 else s.regWrite .host off v.toNat
    else if 0x100 ≤ lo && lo < 0x200 && lo % 0x20 = 8 then
      if s.gateArmed ((lo - 0x100) / 0x20) then s.discard clsFAB 0x022 off 0 else s.regWrite .host off v.toNat
    else if 0x100 ≤ lo && lo < 0x200 && lo % 0x20 = 0 then
      let p := (lo - 0x100) / 0x20; let b := s.gateBank p
      if bits v.toNat (8 + 8 * b) 7 ≠ s.bankLen p b
          || (s.gateArmed p && bits v.toNat (8 + 8 * (1 - b)) 7 ≠ s.bankLen p (1 - b))
      then s.discard clsFAB 0x022 off 0 else s.regWrite .host off v.toNat
    else s

end Sys2Proof.Machine
end

