-- ==== Sys2Proof/Machine/Staging.lean ====
section
/-! DEFINITION. The Staging switch: addresses, plane choice, the shared buffer, the VC scheduler (R351 to R372). -/
namespace Sys2Proof.Machine

/-! ### Hitch state that the switch reads -/

def hitchDefault (_ : Nat) : Hitch := Hitch.zero
def Dev.hitch (s : Dev) (h : Nat) : Hitch := Sparse.get hitchDefault s.hitches h
def Dev.setHitch (s : Dev) (h : Nat) (x : Hitch) : Dev := { s with hitches := Sparse.put hitchDefault s.hitches h x }

/-- HCH_PSTAT.STATE codes (Table 10-3). -/
def hsDISABLED : Nat := 0
def hsHOLD : Nat := 1
def hsTRAINING : Nat := 2
def hsUP : Nat := 3
def hsRETRAIN : Nat := 4
def hsFAILED : Nat := 5
def hsDECONF : Nat := 6

def Dev.hState (s : Dev) (h : Nat) : Nat := s.fld (Reg.HCH_PSTAT h) 0 3
def Dev.hWidth (s : Dev) (h : Nat) : Nat := s.fld (Reg.HCH_PSTAT h) 3 3
/-- UP or RETRAIN. -/
def Dev.hUp (s : Dev) (h : Nat) : Bool := s.hState h == hsUP || s.hState h == hsRETRAIN
/-- TRAINING, UP or RETRAIN. -/
def Dev.hActive (s : Dev) (h : Nat) : Bool := s.hUp h || s.hState h == hsTRAINING
def Dev.anyActive (s : Dev) : Bool := (List.range 32).any s.hActive

/-- The Hitches of a plane (R324), and the sum of their widths. -/
def planeHitches (p : Nat) : List Nat := (List.range 4).map (4 * p + ·)
def Dev.planeLanes (s : Dev) (p : Nat) : Nat := ((planeHitches p).map s.hWidth).sum
def Dev.planeLive (s : Dev) (p : Nat) : Bool := decide (0 < s.planeLanes p)

/-! ### The shared buffer (R363 to R366) -/

def sizes (xs : List Staged) : Nat := (xs.map (·.car.size)).sum

/-- RESV, in KiB. -/
def Dev.stgResv (s : Dev) : Nat := 32 * 8 * s.stg.headKiB + 43 * (s.stg.vc6Lim + s.stg.vc7Lim)
/-- F, in bytes. -/
def Dev.stgFree (s : Dev) : Nat :=
  (65536 - s.stgResv) * 1024 - sizes (s.stg.queue.filter fun x => !x.head && decide (x.vc < 6))
/-- q of an ingress queue: its bytes in the pool or the static reserve. -/
def Dev.ingress (s : Dev) (ep vc : Nat) : Nat :=
  sizes (s.stg.queue.filter fun x => x.ep == ep && x.vc == vc && !x.head)
def Dev.headUsed (s : Dev) (h vc : Nat) : Nat :=
  sizes (s.stg.queue.filter fun x => x.ep == h && x.vc == vc && x.head)

/-- Whether `n` bytes are within the limit of an ingress queue (R364; Table 11-6: alpha is 2 ^ code / 64). -/
def Dev.withinLimit (s : Dev) (vc n : Nat) : Bool :=
  if vc = 6 then decide (n ≤ s.stg.vc6Lim * 1024)
  else if vc = 7 then decide (n ≤ s.stg.vc7Lim * 1024)
  else decide (n * 64 ≤ 2 ^ s.fld Reg.STG_ALPHA (4 * vc) 4 * s.stgFree)

def Dev.fits (s : Dev) (ep vc n : Nat) : Bool := s.withinLimit vc (s.ingress ep vc + n)

/-- XOFF toward the partner of Hitch h for a VC (R330, R365, R387). -/
def Dev.xoffOut (s : Dev) (h : Nat) : Nat :=
  ((List.range 8).map fun v =>
    if !s.withinLimit v (s.ingress h v + 4160) || (s.pausedVCs h).contains v then 2 ^ v else 0).sum

/-- STG_BUFSTAT, STG_BUFLOW and STG_RESV follow the buffer. -/
def Dev.stgSettle (s : Dev) : Dev :=
  let f := s.stgFree / 1024
  let s := s.setFld Reg.STG_BUFSTAT 0 17 f
  let s := if f < s.fld Reg.STG_BUFLOW 0 17 then s.setFld Reg.STG_BUFLOW 0 17 f else s
  s.setFld Reg.STG_RESV 0 17 s.stgResv

/-- A carriage enters the buffer. -/
def Dev.stgEnter (s : Dev) (x : Staged) : Dev :=
  Dev.stgSettle { s with stg := { s.stg with queue := s.stg.queue ++ [x] } }

/-- A carriage leaves the buffer. -/
def Dev.stgLeave (s : Dev) (x : Staged) : Dev :=
  Dev.stgSettle { s with stg := { s.stg with queue := s.stg.queue.erase x } }

/-! ### Choosing a plane (R354 to R357) -/

def Dev.coordValid (s : Dev) : Bool := s.flag Reg.STG_COORD 16

/-- The selector reads the entry of a destination once: a bad line has the effects of R593 (R355), and one that the host may have
modified is asked back first (R446). -/
def Dev.reachRead (s : Dev) (dst : Nat) : Dev :=
  let a := s.reg Reg.STG_REACHBASE / 4096 * 4096 + 2 * dst
  if s.flag Reg.STG_CFG 1 && inCH a 2 then
    ((s.lineRead false 0 a (chAddr a)).1).snooped false a 2 else s

/-- The reachability code of every plane for a destination (R354, R355). -/
def Dev.reachCodes (s : Dev) (dst : Nat) : List Nat :=
  let a := s.reg Reg.STG_REACHBASE / 4096 * 4096 + 2 * dst
  let e :=
    if !s.flag Reg.STG_CFG 1 then 0x5555
    else if !inCH a 2 then 0
    else if s.lineOf (chAddr a) = .ue || s.lineOf (chAddr a) = .poison then 0
    else leNat (s.hostBytes a (s.rdBytes (chAddr a) 2))
  (List.range 8).map fun p => let c := bits e (2 * p) 2; if c = 3 || !s.planeLive p then 0 else c

def intDefault (_ : Nat) : Int := 0
def Dev.accOf (s : Dev) (sel p : Nat) : Int := Sparse.get intDefault s.stg.acc (8 * sel + p)
def Dev.setAcc (s : Dev) (sel p : Nat) (x : Int) : Dev :=
  { s with stg := { s.stg with acc := Sparse.put intDefault s.stg.acc (8 * sel + p) x } }

/-- The candidates of R357 and whether they are relayed planes. -/
def Dev.planeCands (s : Dev) (sel vc dst : Nat) (relay : Bool) (bar : Option Nat) : List Nat × Bool :=
  let codes := s.reachCodes dst
  let ok (p : Nat) : Bool := vcClass s.express vc p && s.fld (Reg.STG_PLANEW sel) (4 * p) 4 != 0 && bar != some p
  let pick (c : Nat) : List Nat := (List.range 8).filter fun p => nth codes p 0 == c && ok p
  if (pick 1).isEmpty && !relay then (pick 2, true) else (pick 1, false)

/-- e[p] of R357 (R370). -/
def Dev.planeWeight (s : Dev) (sel p : Nat) : Nat :=
  let w := s.fld (Reg.STG_PLANEW sel) (4 * p) 4
  if s.flag Reg.STG_SATMAP p then max 1 (w / 2 ^ s.fld Reg.STG_SATCFG 16 3) else w

/-- The plane with the largest counter, the lowest among equals. -/
def bestPlane (acc : Nat → Int) : List Nat → Option Nat
  | [] => none
  | p :: ps => match bestPlane acc ps with
    | none => some p
    | some q => if acc q ≤ acc p then some p else some q

/-- The plane selector (R357): the plane, and whether it is a relayed one. -/
def Dev.selPlane (s : Dev) (sel vc dst : Nat) (relay : Bool) (bar : Option Nat) : Dev × Option (Nat × Bool) :=
  let (cand, via) := s.planeCands sel vc dst relay bar
  let s1 := s.each cand fun s p => s.setAcc sel p (s.accOf sel p + (s.planeWeight sel p : Nat))
  match bestPlane (s1.accOf sel) cand with
  | none => (s, none)
  | some q => (s1.setAcc sel q (s1.accOf sel q - ((cand.map (s.planeWeight sel)).sum : Nat)), some (q, via))

/-- The source endpoint learns the plane of its chunk (R357, R359, R413). -/
def Dev.planeReport (s : Dev) (c : Carriage) (q : Nat) : Dev :=
  let note (x : SentChunk) : SentChunk := { x with plane := some q }
  let step (y : SendStep) : SendStep :=
    if y.step = c.step && y.phase = c.phase && y.peer = c.drank
    then { y with sent := updFirst (fun x => x.chunk == c.chunk) note y.sent } else y
  let chunk (x : List (Nat × Nat)) : List (Nat × Nat) := (x.filter fun y => y.1 != c.chunk) ++ [(c.chunk, q)]
  let req (x : LineReq) : LineReq := { x with plane := some q }
  let serve (x : BulkServe) : BulkServe := { x with planes := chunk x.planes }
  if c.kind = kMREQ then
    let reqs := updFirst (fun x => x.tag == c.f 32 0 16 && x.gen % 2 ^ 32 == c.gen) req s.mmf.reqs
    { s with mmf := { s.mmf with reqs := reqs } }
  else if c.kind = kBULK then
    let upd (k : Cmd) : Cmd := match k.body with
      | .mfx r => if r.store && r.remote == c.dst then { k with body := .mfx { r with planes := chunk r.planes } } else k
      | _ => k
    let sector (x : SectorXfer) : SectorXfer := { x with planes := chunk x.planes }
    if c.f 28 0 8 = 2 then
      let s := s.setMmf fun m => { m with sectors := updFirst (fun x => x.store && x.lender == c.dst && x.gen == c.gen) sector m.sectors }
      { s with cmds := updFirst (fun k => k.gen % 2 ^ 32 == c.gen) upd s.cmds }
    else
      let serves := updFirst (fun x => x.coord == c.dst && x.gen == c.gen) serve s.mmf.serves
      { s with mmf := { s.mmf with serves := serves } }
  else if 2 < c.kind then s
  else
    let upd (k : Cmd) : Cmd := { k with body := k.body.mapXfer fun x => { x with sends := x.sends.map step } }
    { s with cmds := updFirst (fun k => k.gen % 2 ^ 32 == c.gen) upd s.cmds }

/-! ### Local carriages (R353, R357 to R360, R365) -/

/-- The endpoint to which a carriage for this device is delivered (Table 11-2); of an exchange carriage, the collective engine
has the arrival notice, and `landPort` says where its payload goes. -/
def deliverTo (c : Carriage) : Nat :=
  if c.kind ≤ 2 then 40 else if c.kind = 3 || c.kind = 7 then 42 else 41

/-- The Postilion carriage port (Table 11-1) through which the payload of chunk `c` of an exchange moves: that of the
Postilion at set bit (c mod n) of POSTMASK, `posts` being its set bits (Table 11-2). -/
def landPort (posts : List Nat) (c : Nat) : Nat := 32 + nth posts (c % posts.length) 0

/-- A carriage that has entered the buffer is delivered and leaves it. -/
def Dev.deliver (s : Dev) (x : Staged) : Dev :=
  let s := s.bump Reg.STG_CNT_LOCAL 1
  Dev.stgLeave { s with stg := { s.stg with inbox := s.stg.inbox ++ [(deliverTo x.car, x.car)] } } x

def Dev.stgWait (s : Dev) (w : Waiting) : Dev := { s with stg := { s.stg with waiting := s.stg.waiting ++ [w] } }

/-- A local carriage presented, or presented again: it enters when its queue has room, and takes its plane then. While the
device has no coordinate it waits (R351). -/
def Dev.present (s : Dev) (w : Waiting) : Dev :=
  let c := w.car
  if !s.coordValid || !s.fits w.ep c.vc c.size then s.stgWait { w with noRoute := false }
  else if c.dst = s.coord then
    let x : Staged := ⟨c.setPlane 0, w.ep, c.vc, false, c.vc, none, c.vc, none, false⟩
    (s.stgEnter x).deliver x
  else
    let s := s.reachRead c.dst
    let (s1, q) := match s.selPlane c.vc c.vc c.dst false w.excl with
      | (_, none) => s.selPlane c.vc c.vc c.dst false none
      | r => r
    match q with
    | none => s1.stgWait { w with noRoute := true }
    | some (p, via) =>
      let c := c.setPlane p
      (s1.stgEnter ⟨c, w.ep, c.vc, false, c.vc, some p, c.vc, none, via⟩).planeReport c p

/-- A carriage held in the buffer without a plane asks again (R359, R360): a local one takes a new PLANE and CRC, a relay
keeps its own. -/
def Dev.rePlane (s : Dev) (x : Staged) : Dev :=
  let s := s.reachRead x.car.dst
  let (s1, q) := s.selPlane x.sel x.car.vc x.car.dst x.arr.isSome x.arr
  let put (s : Dev) (y : Staged) : Dev :=
    { s with stg := { s.stg with queue := updFirst (fun z => decide (z = x)) (fun _ => y) s.stg.queue } }
  match q with
  | none => put s { x with plane := none, via := false }
  | some (p, via) =>
    if x.arr.isSome then put s1 { x with plane := some p }
    else
      let c := x.car.setPlane p
      ((put s1 { x with car := c, plane := some p, via := via }).bump Reg.STG_CNT_REPLANE 1).planeReport c p

/-- A once-only record of Table 11-5 for an endpoint. -/
def Dev.once (s : Dev) (seen : List Nat) (code detail ep : Nat) : Dev :=
  if seen.contains ep then s else s.record clsFAB code detail 0 blkSTG 0

def Dev.noteCrc (s : Dev) (ep : Nat) (c : Carriage) : Dev :=
  let s1 := (s.bump Reg.STG_CNT_CRC 1).once s.stg.onceCrc 0x010 (ep + c.src * 2 ^ 16) ep
  { s1 with stg := { s1.stg with onceCrc := if s.stg.onceCrc.contains ep then s.stg.onceCrc else s.stg.onceCrc ++ [ep] } }

def Dev.noteMal (s : Dev) (ep : Nat) (c : Carriage) : Dev :=
  let s1 := (s.bump Reg.STG_CNT_MALFORMED 1).once s.stg.onceMal 0x011 (ep + c.f 4 0 16 * 2 ^ 16) ep
  { s1 with stg := { s1.stg with onceMal := if s.stg.onceMal.contains ep then s.stg.onceMal else s.stg.onceMal ++ [ep] } }

def Dev.noteMis (s : Dev) (ep : Nat) (c : Carriage) : Dev :=
  let s1 := (s.bump Reg.STG_CNT_MISDELIV 1).once s.stg.onceMis 0x012
    (ep + c.relayed.toNat * 2 ^ 8 + c.dst * 2 ^ 16) ep
  { s1 with stg := { s1.stg with onceMis := if s.stg.onceMis.contains ep then s.stg.onceMis else s.stg.onceMis ++ [ep] } }

def Dev.noteNor (s : Dev) (ep vc : Nat) (c : Carriage) : Dev :=
  let s1 := (s.bump Reg.STG_CNT_NOROUTE 1).once s.stg.onceNor 0x013 (ep + vc * 2 ^ 8 + c.dst * 2 ^ 16) ep
  { s1 with stg := { s1.stg with onceNor := if s.stg.onceNor.contains ep then s.stg.onceNor else s.stg.onceNor ++ [ep] } }

/-- Carriages queued on a plane that has lost every Hitch are given a new plane (R359). -/
def Dev.replane (s : Dev) (p : Nat) : Dev :=
  if s.planeLive p then s
  else Dev.each { s with tpk := { s.tpk with held := s.tpk.held.filter fun k => k / 32 != p } } (s.stg.queue.filter fun x => x.plane == some p) fun s x =>
    if x.arr.isNone && !x.car.crcOk then (s.noteCrc x.ep x.car).stgLeave x else s.rePlane x

/-- The carriage of an endpoint that is given up for want of a plane, and the state without it (R360). -/
def Dev.giveUp (s : Dev) (e : Nat) : Dev × Option Carriage :=
  match s.stg.waiting.find? fun w => w.ep == e && w.noRoute with
  | some w =>
    let s := { s with stg := { s.stg with waiting := s.stg.waiting.erase w } }
    (s.noteNor e w.car.vc w.car, some w.car)
  | none =>
    match s.stg.queue.find? fun x => x.ep == e && x.plane == none with
    | some x => ((s.noteNor e x.evc x.car).stgLeave x, if x.arr.isSome then none else some x.car)
    | none => (s, none)

/-! ### The VC scheduler (R368) -/

/-- The head of the queue of a plane and VC. -/
def Dev.headOf (s : Dev) (p v : Nat) : Option Staged := s.stg.queue.find? fun x => x.plane == some p && x.evc == v

def Dev.deficitOf (s : Dev) (p v : Nat) : Int := Sparse.get intDefault s.stg.deficit (8 * p + v)
def Dev.setDeficit (s : Dev) (p v : Nat) (x : Int) : Dev :=
  { s with stg := { s.stg with deficit := Sparse.put intDefault s.stg.deficit (8 * p + v) x } }
/-- The VC whose turn runs on a plane; 5 at first, so that VC0 comes first. -/
def turnDefault (_ : Nat) : Nat := 5
def Dev.turnOf (s : Dev) (p : Nat) : Nat := Sparse.get turnDefault s.stg.turn p
def Dev.setTurn (s : Dev) (p v : Nat) : Dev :=
  { s with stg := { s.stg with turn := Sparse.put turnDefault s.stg.turn p v } }

/-- Whether the Turnpike and the partner let the head carriage of a VC queue start on Hitch h (R332, R373), and whether
the guard band alone holds it (R385). -/
def Dev.mayStart (s : Dev) (h v : Nat) (c : Carriage) : Bool × Bool :=
  let p := h / 4
  let pre := !bit (s.hitch h).xoffIn v && s.shaperOk h c.tc && s.gateOpen p c.tc
  let g := s.guardOk p c.tc c.plen (s.hWidth h)
  (pre && g, pre && !g)

/-- Heads held by the guard band alone are counted once each (R385). -/
def Dev.countGuard (s : Dev) (h : Nat) : Dev :=
  s.each (List.range 8) fun s v =>
    match s.headOf (h / 4) v with
    | none => s
    | some x =>
      let k := 8 * h + v
      if (s.mayStart h v x.car).2 && !s.tpk.held.contains k then
        let s := s.bump (Reg.TPK_CNT_GUARDHOLD h) 1
        { s with tpk := { s.tpk with held := s.tpk.held ++ [k] } }
      else s

def Dev.eligible (s : Dev) (h v : Nat) : Bool :=
  match s.headOf (h / 4) v with
  | none => false
  | some x => (s.mayStart h v x.car).1

/-- The deficit round robin over VC0 to VC5: the VC served, with the deficits and the turn after it. -/
def Dev.drrPick (s : Dev) (h : Nat) : Dev × Option Nat :=
  let p := h / 4
  let cur := s.turnOf p
  let need (v : Nat) : Int := match s.headOf p v with | some x => ((x.car.size : Nat) : Int) | none => 0
  if s.eligible h cur && decide (need cur ≤ s.deficitOf p cur) then (s.setDeficit p cur (s.deficitOf p cur - need cur), some cur)
  else
    match ((List.range 6).map fun i => (cur + 1 + i) % 6).find? (s.eligible h) with
    | none => (s, none)
    | some v =>
      let s1 := s.each (List.range 6) fun s u => if (s.headOf p u).isNone then s.setDeficit p u 0 else s
      let q : Int := ((s.fld Reg.STG_VCW (4 * v) 4 * 4160 : Nat) : Int)
      ((s1.setDeficit p v (s1.deficitOf p v + q - need v)).setTurn p v, some v)

/-! ### The commands -/

/-- CARRIAGE_ARRIVAL (R361, R362, R365, Table 11-5). -/
def execCarriageArrival (h : Nat) (s : State) : Host.Outcome State Fault Refusal := s.upd fun s => s.attempt fun s =>
  match (s.hitch h).rxDone with
  | [] => s
  | c :: cs =>
    let s := s.setHitch h { s.hitch h with rxDone := cs }
    let vc := if c.relayed then 5 else c.vc
    let room := s.fits h vc c.size
    if !room && decide (s.stg.headKiB * 1024 < s.headUsed h vc + c.size) then
      let s1 := s.bump (Reg.HCH_CNT_OVERRUN h) 1
      if bit (s.hitch h).ovrRec vc then s1
      else (s1.setHitch h { s.hitch h with ovrRec := (s.hitch h).ovrRec + 2 ^ vc }).record
        clsFAB 0x005 (h + vc * 2 ^ 8) 0 blkHCH h
    else
      let x : Staged := ⟨c, h, vc, !room, 5, none, 5, some (h / 4), false⟩
      let s := s.stgEnter x
      if !c.crcOk then (s.noteCrc h c).stgLeave x
      else if c.malformed then (s.noteMal h c).stgLeave x
      else
        let s := s.police h c.tc c.size vc
        if s.coordValid && c.dst = s.coord then s.deliver x
        else if s.coordValid && !c.relayed && s.flag Reg.STG_CFG 0 then s.rePlane x
        else (s.noteMis h c).stgLeave x

/-- CARRIAGE_SUBMIT: the oldest carriage that endpoint `e` has formed (R351, R357, R365). -/
def execCarriageSubmit (e : Nat) (s : State) : Host.Outcome State Fault Refusal := s.upd fun s => s.attempt fun s =>
  match s.stg.outbox.find? fun x => x.ep == e with
  | none => s
  | some x =>
    if !s.coordValid then s
    else Dev.present { s with stg := { s.stg with outbox := s.stg.outbox.erase x } } ⟨x.car, e, x.excl, false⟩

/-- LOCAL_ENTRY_RETRY: the oldest carriage of `e` that waits for space and whose own ingress queue now has it (R364, R365). -/
def execLocalEntryRetry (e : Nat) (s : State) : Host.Outcome State Fault Refusal := s.upd fun s => s.attempt fun s =>
  match s.stg.waiting.find? fun w => w.ep == e && !w.noRoute && s.fits e w.car.vc w.car.size with
  | none => s
  | some w =>
    if s.coordValid then Dev.present { s with stg := { s.stg with waiting := s.stg.waiting.erase w } } w else s

/-- NO_ROUTE_RETRY: every carriage of `e` that has no plane asks again (R360). -/
def execNoRouteRetry (e : Nat) (s : State) : Host.Outcome State Fault Refusal := s.upd fun s => s.attempt fun s =>
  if !s.coordValid then s else
  let ws := s.stg.waiting.filter fun w => w.ep == e && w.noRoute
  let s := { s with stg := { s.stg with waiting := s.stg.waiting.filter fun w => !(w.ep == e && w.noRoute) } }
  let s := s.each ws fun s w => s.present w
  s.each (s.stg.queue.filter fun x => x.ep == e && x.plane == none) fun s x => s.rePlane x

/-- A carriage leaves on Hitch `h` (R361, R371, Table 16-10). -/
def Dev.departs (s : Dev) (h : Nat) (t : TxCar) : Dev :=
  let n := 256 * t.x.car.plen
  let s := (s.bump Reg.STG_CNT_FWD 1).bump (Reg.STG_CNT_PBYTES (h / 4)) n
  let s := if t.x.arr.isSome then (s.bump Reg.STG_CNT_RELAYED 1).meter Reg.GRD_MTR_RELAYB n
    else s.meter Reg.GRD_MTR_TXBYTES n
  if t.x.via then s.bump Reg.STG_CNT_VIARELAY 1 else s

/-- HITCH_CARRIAGE_START: Hitch `h` chooses a VC queue and takes its head carriage (R358, R368). -/
def execHitchCarriageStart (h : Nat) (s : State) : Host.Outcome State Fault Refusal := s.upd fun s =>
  let x := s.hitch h
  let quiet := match x.retrain with | .quiet _ => true | _ => false
  if !s.hUp h || s.hWidth h = 0 || x.drain || quiet || 20 ≤ (x.txCars.map (·.flits.length)).sum then s
  else
    let s := s.countGuard h
    let (s, pick) :=
      if s.eligible h 6 then (s, some 6) else if s.eligible h 7 then (s, some 7) else s.drrPick h
    match pick with
    | none => s
    | some v =>
      match s.headOf (h / 4) v with
      | none => s
      | some y =>
        let s := s.stgLeave y
        let s := if (s.headOf (h / 4) v).isNone && decide (v < 6) then s.setDeficit (h / 4) v 0 else s
        let s := { s with tpk := { s.tpk with held := s.tpk.held.filter fun k => !(k / 32 == h / 4 && k % 8 == v) } }
        let c : Carriage := if y.arr.isSome then { y.car with hdr := hdrSet y.car.hdr 4 6 1 1 } else y.car
        let s := s.shaperSpend h c.tc c.size
        s.setHitch h { s.hitch h with txCars := (s.hitch h).txCars ++ [⟨y, c.flits, false⟩] }

/-- PLANE_SATURATION_SAMPLE (R369). -/
def execPlaneSaturationSample (s : State) : Host.Outcome State Fault Refusal := s.upd fun s =>
  s.each (List.range 8) fun s p =>
    let l := s.planeLanes p
    let back := sizes (s.stg.queue.filter fun x => x.plane == some p && decide (x.evc < 6))
    if l = 0 then s.setFlag Reg.STG_SATMAP p false
    else if s.fld Reg.STG_SATCFG 0 8 * l * 1024 ≤ back then s.setFlag Reg.STG_SATMAP p true
    else if back < s.fld Reg.STG_SATCFG 8 8 * l * 1024 then s.setFlag Reg.STG_SATMAP p false
    else s

/-- STG_COORD written (R351). -/
def execStgCoordWrite (v : Word32) (s : State) : Host.Outcome State Fault Refusal := s.upd fun s =>
  if s.anyActive then s.record clsFAB 0x014 (s.reg Reg.HCH_UPMAP % 2 ^ 16) 0 blkSTG 0
  else s.regWrite .host Reg.STG_COORD v.toNat

/-- A new HEADROOM or STATLIM applied while no Hitch trains or is up (R363). -/
def execStgReserveApply (s : State) : Host.Outcome State Fault Refusal := s.upd fun s =>
  if s.anyActive then s
  else Dev.stgSettle { s with stg := { s.stg with
    headKiB := s.fld Reg.HCH_XCFG 0 7, vc6Lim := s.fld Reg.STG_STATLIM 0 8, vc7Lim := s.fld Reg.STG_STATLIM 8 8 } }

/-- STG_BUFLOW.CLR written 1. -/
def execBuflowClear (s : State) : Host.Outcome State Fault Refusal := s.upd fun s =>
  s.setReg Reg.STG_BUFLOW (s.stgFree / 1024)

end Sys2Proof.Machine
end

