-- ==== Sys2Proof/Machine/Transfer.lean ====
section
/-! DEFINITION. The transfers of GROUP-class commands: offers, tickets, chunks, completions (R399 to R413). -/
namespace Sys2Proof.Machine

/-! ### Groups -/

def gFORMING : Nat := 1
def gFORMED : Nat := 2
def gBROKEN : Nat := 3

def Dev.group (s : Dev) (gid : Nat) : Option Group := s.col.groups.find? fun x => x.gid == gid
def Dev.updGroup (s : Dev) (gid : Nat) (f : Group → Group) : Dev :=
  { s with col := { s.col with groups := updFirst (fun x => x.gid == gid) f s.col.groups } }
def Group.n (g : Group) : Nat := g.members.length
def Group.coordOf (g : Group) (rank : Nat) : Nat := nth g.members rank 0
/-- The rank of a coordinate in a group. -/
def Group.rankOf (g : Group) (c : Nat) : Option Nat := g.members.findIdx? (· == c)
def Group.others (g : Group) : List Nat := (List.range g.n).filter (· != g.rank)

/-- The group of a GROUP-class command that works in one. -/
def cmdGid (c : Cmd) : Option Nat :=
  match c.body with
  | .route r => some r.group
  | b => b.xfer.map (·.gid)

/-- The instance of a GROUP-class command: its group, stream and identifier. -/
def cmdInst (c : Cmd) : Option (Nat × Nat × Nat) :=
  match c.body with
  | .route r => some (r.group, 1, r.seq)
  | b => b.xfer.map fun x => (x.gid, x.stream, x.xid)

/-- The commands of a group that are armed and not completed (R400). -/
def Dev.groupCmds (s : Dev) (gid : Nat) : List Nat := (s.cmds.filter fun c => cmdGid c == some gid).map (·.gen)
def Dev.groupHeld (s : Dev) (gid : Nat) : Nat :=
  (s.groupCmds gid).length + (s.dying.filter fun c => cmdGid c.cmd == some gid).length

/-- Stream-0 commands in flight in a group: admitted and not completed, those whose kill runs among them (R400). -/
def Dev.active0 (s : Dev) (gid : Nat) : Nat :=
  ((s.cmds ++ s.dying.map (·.cmd)).filter fun c => match c.body.xfer with
    | some x => x.gid == gid && x.stream == 0 && x.active
    | none => false).length

/-- A stream's sequence number taken (R399). -/
def Dev.takeSeq (s : Dev) (gid stream : Nat) : Dev :=
  s.updGroup gid fun g => { g with seqs := g.seqs.set stream (nth g.seqs stream 0 + 1) }

/-! ### Carriages -/

def cJOIN : Nat := 1
def cJOINACK : Nat := 2
def cOFFER : Nat := 3
def cTICKET : Nat := 4
def cCOMPL : Nat := 5
def cMISSING : Nat := 6
def cABORT : Nat := 7
def cPROBE : Nat := 8
def cPROBEACK : Nat := 9

/-- The level at which carriages of a group are formed (R417): while it forms, the lowest that is known among its members. -/
def Dev.groupLevel (s : Dev) (g : Group) : Nat :=
  if g.state = gFORMING then (g.levels.map (·.2)).foldl min s.colLevel else g.level

/-- A control carriage to a member (R406, Table 13-7): `fs` are its own fields. -/
def Dev.sendCtl (s : Dev) (g : Group) (rank type stream xid gen : Nat) (fs : List (Nat × Nat × Nat × Nat)) : Dev :=
  let level := if type = cJOIN || type = cJOINACK then s.colLevel else s.groupLevel g
  s.formed 42 ⟨mkHdr ([(0, 0, 16, g.coordOf rank), (2, 0, 16, s.coord), (4, 0, 3, 6), (5, 5, 3, kCTRL), (7, 0, 8, level),
    (12, 0, 32, xid), (20, 0, 32, gen), (28, 0, 8, type), (30, 0, 16, g.gid), (32, 0, 32, g.digest), (36, 0, 8, stream)] ++ fs),
    []⟩ none

/-- ABORT of an instance to every other member (Table 13-9). -/
def Dev.sendAborts (s : Dev) (g : Group) (stream xid cause : Nat) : Dev :=
  s.each g.others fun s r => s.sendCtl g r cABORT stream xid 0 [(40, 0, 8, cause)]

/-! ### Steps -/

def segChunks (len : Nat) : Nat := ceilDiv len 4096
/-- Carriages of a stream: one where it is empty (R403). -/
def stepChunks (len : Nat) : Nat := max 1 (segChunks len)
def RecvStep.chunks (r : RecvStep) : Nat := match r.offer with | some (n, _) => max 1 n | none => stepChunks r.len
def RecvStep.done (r : RecvStep) : Bool := decide (r.chunks ≤ r.placed.length)
def SendStep.done (y : SendStep) : Bool :=
  y.begun && decide (stepChunks y.len ≤ (y.sent.filter fun z => z.counted).length)

/-- The transfers of a command, or, under the key that stands for its generation, of a routing pass refused at its arm. -/
def Dev.xf (s : Dev) (g : Nat) : Option Xfer :=
  match s.cmd g with
  | some c => c.body.xfer
  | none => (s.col.refusals.find? fun z => z.key == g).map (·.x)
def Dev.updX (s : Dev) (g : Nat) (f : Xfer → Xfer) : Dev :=
  let s := s.updCmd g fun c => { c with body := c.body.mapXfer f }
  { s with col := { s.col with refusals := updFirst (fun z => z.key == g) (fun z => { z with x := f z.x }) s.col.refusals } }
/-- Every transfer of this member, with the generation or key of its command. -/
def Dev.xfers (s : Dev) : List (Nat × Xfer) :=
  (s.cmds.filterMap fun c => c.body.xfer.map fun x => (c.gen, x)) ++ s.col.refusals.map fun z => (z.key, z.x)
def Xfer.send (x : Xfer) (step phase : Nat) : Option SendStep := x.sends.find? fun y => y.step == step && y.phase == phase
def Xfer.recv (x : Xfer) (step phase : Nat) : Option RecvStep := x.recvs.find? fun y => y.step == step && y.phase == phase
def Xfer.updSend (x : Xfer) (step phase : Nat) (f : SendStep → SendStep) : Xfer :=
  { x with sends := updFirst (fun y => y.step == step && y.phase == phase) f x.sends }
def Xfer.updRecv (x : Xfer) (step phase : Nat) (f : RecvStep → RecvStep) : Xfer :=
  { x with recvs := updFirst (fun y => y.step == step && y.phase == phase) f x.recvs }

/-- Steps up to this one lie within WINDOW of the steps that are done (R110, R403). -/
def Xfer.limit (x : Xfer) (phase : Nat) : Nat :=
  let ys := x.sends.filter fun y => y.phase == phase
  let lead := (ys.takeWhile (·.done)).length
  match ys.head? with
  | some y => y.step + lead + x.window
  | none => x.window

/-- An instance waits on a peer (R414). -/
def Xfer.waitsOn (x : Xfer) (rank : Nat) : Bool :=
  x.active && ((x.sends.any fun y => y.peer == rank && y.begun && !y.done) || x.recvs.any fun r => r.peer == rank && !r.done)

/-- The header of chunk `c` as its packer forms it (R102): DST, SRC, VC, TC, KIND, PLEN, CHUNK and XLEN. -/
def packHdr (own : Nat) (gr : Group) (x : Xfer) (y : SendStep) (c plen : Nat) : Line :=
  let kind := match x.stream with | 2 => kFWD | 3 => kRET | _ => kCOLL
  mkHdr [(0, 0, 16, gr.coordOf y.peer), (2, 0, 16, own), (4, 0, 3, kindVC kind), (4, 3, 3, x.tc), (5, 0, 5, plen), (5, 5, 3, kind),
    (16, 0, 32, c), (24, 0, 32, segChunks y.len)]

/-- Chunk `c` of a step, its header as packed and its payload, or none where a read faults and is recorded (R415). The chunk
of a send area is the carriage that the packer left in its slot (R101, R102). -/
def Dev.chunkCar (s : Dev) (g : Nat) (gr : Group) (x : Xfer) (y : SendStep) (c : Nat) : Dev × Option Carriage :=
  let n := min 4096 (y.len - 4096 * c)
  let made (bs : List Byte) : Carriage :=
    let pay := padUnits bs
    ⟨packHdr s.coord gr x y c (pay.length / 256), pay⟩
  match y.src with
  | .bytes bs => (s, some (made ((bs.drop (4096 * c)).take n)))
  | .mem a => if n = 0 then (s, some (made []))
    else match s.cmdRead g (a + 4096 * c) n with
      | (s, some bs) => (s, some (made bs))
      | (s, none) => (s, none)
  | .slots a => match s.cmdRead g (a + 4160 * c) 64 with
    | (s, none) => (s, none)
    | (s, some hb) =>
      let h : Line := BitVec.ofNat 512 (leNat hb)
      let z := 256 * min 16 (lfield h 5 0 5)
      if z = 0 then (s, some ⟨h, []⟩)
      else match s.cmdRead g (a + 4160 * c + 64) z with
        | (s, some bs) => (s, some ⟨h, bs⟩)
        | (s, none) => (s, none)

/-- What the collective engine writes into the header of a chunk that it sends (R102, Table 13-6): LEVEL, FLOWSEQ, XID, GEN,
STEP and KSPEC; PLANE and CRC follow with the plane (R357). -/
def engineHdr (h : Line) (gr : Group) (x : Xfer) (y : SendStep) (g flow : Nat) (retx eager : Bool) : Line :=
  hdrPut h [(7, 0, 8, gr.level), (8, 0, 32, flow), (12, 0, 32, x.xid), (20, 0, 32, g), (28, 0, 32, y.step), (32, 0, 224, 0),
    (32, 0, 32, gr.digest), (36, 0, 16, gr.gid), (38, 0, 2, x.stream), (38, 2, 1, eager.toNat),
    (38, 3, 1, retx.toNat), (39, 0, 1, y.phase), (40, 0, 16, gr.rank), (42, 0, 16, y.peer), (44, 0, 8, x.ord)]

def Group.flow (gr : Group) (rank : Nat) : Nat := Sparse.get (fun _ => 0) gr.txFlow rank
def Group.usedBy (gr : Group) (rank : Nat) : Nat := Sparse.get (fun _ => 0) gr.used rank
def Group.setUsed (gr : Group) (rank n : Nat) : Group := { gr with used := Sparse.put (fun _ => 0) gr.used rank n }

/-- A chunk leaves (R407, R413): false where its source cannot be read. -/
def Dev.putChunk (s : Dev) (g step phase c : Nat) (retx eager : Bool) (excl : Option Nat) : Dev × Bool :=
  match s.xf g with
  | none => (s, true)
  | some x =>
    match s.group x.gid, x.send step phase with
    | some gr, some y =>
      let (s, car) := s.chunkCar g gr x y c
      match car with
      | none => (s, false)
      | some car =>
        let flow := gr.flow y.peer
        let s := s.updGroup x.gid fun gr => { gr with txFlow := Sparse.put (fun _ => 0) gr.txFlow y.peer (flow + 1) }
        -- a return carriage leaves by the port of the Postilion that packed it (Table 11-1)
        let ep := if x.stream = 3 then landPort x.posts c else 40
        let s := s.formed ep { car with hdr := engineHdr car.hdr gr x y g flow retx eager } excl
        let s := if retx then s.bump Reg.COL_CNT_RETX 1 else s.bump Reg.COL_CNT_CHUNKTX 1
        let note (y : SendStep) : SendStep :=
          if y.sent.any fun z => z.chunk == c then
            let again (z : SentChunk) : SentChunk := { z with plane := none, retx := z.retx + 1, sentAt := s.ns }
            { y with sent := updFirst (fun z => z.chunk == c) again y.sent }
          else { y with sent := y.sent ++ [⟨c, none, 0, false, eager, s.ns⟩] }
        (s.updX g fun x => x.updSend step phase note, true)
    | _, _ => (s, true)

/-- Several chunks leave, until one cannot be read. -/
def Dev.putChunks (g step phase : Nat) (retx eager : Bool) : List (Nat × Option Nat) → Dev → Dev × Bool
  | [], s => (s, true)
  | (c, excl) :: cs, s =>
    let (s, ok) := s.putChunk g step phase c retx eager excl
    if ok then Dev.putChunks g step phase retx eager cs s else (s, false)

/-- A chunk lands at a receiver (R407, R409): false where its place cannot be written. -/
def Dev.landChunk (s : Dev) (g step phase c : Nat) (bs : List Byte) : Dev × Bool :=
  match s.xf g with
  | none => (s, true)
  | some x =>
    match x.recv step phase with
    | none => (s, true)
    | some r =>
      let (s, ok) : Dev × Bool := match r.dst with
        | .mem a =>
          let b := bs.take (min 4096 (r.len - 4096 * c))
          if b.isEmpty then (s, true) else s.cmdWrite g (a + 4096 * c) b
        | .barrows => match r.places.find? fun p => p.1 == c with
          | some p => (s.wrBytes (chAddr p.2) bs, true)
          | none => (s, true)
        | .drop => (s, true)
      if !ok then (s, false)
      else
        let dup := r.placed.contains c
        let s := if dup then s.bump Reg.COL_CNT_DUP 1 else s.bump Reg.COL_CNT_CHUNKRX 1
        let s := if dup || r.dst != ChunkDst.barrows || x.stream != 0 then s
          else s.updX g fun x => { x with arrived := x.arrived ++ [(r.peer, c)] }
        (s.updX g fun x => x.updRecv step phase fun r => { r with
          placed := if dup then r.placed else r.placed ++ [c]
          report := if r.report.contains c then r.report else r.report ++ [c]
          tail := if c + 1 = r.chunks then bs.length else r.tail
          ports := if x.stream < 2 || c ≥ r.chunks then r.ports
            else (r.ports.filter fun p => p.1 != c) ++ [(c, landPort x.posts c)] }, true)

/-- What a barrow step has received in chunk `c`. -/
def Dev.landedBytes (s : Dev) (r : RecvStep) (c n : Nat) : List Byte :=
  match r.places.find? fun p => p.1 == c with
  | some p => s.rdBytes (chAddr p.2) n
  | none => List.replicate n 0

/-- The bytes of a landed segment. -/
def Dev.segBytes (s : Dev) (y : RecvStep) : List Byte :=
  let n := match y.offer with | some (n, _) => n | none => 0
  (List.range n).flatMap fun c => s.landedBytes y c (if c + 1 = n then y.tail else 4096)

/-- COMPL or MISSING for a set of chunks: one message for each run of 64 from its lowest chunk on (Table 13-7). -/
def Dev.sendMap (gr : Group) (type stream xid gen step phase ord rank : Nat) : Nat → List Nat → Dev → Dev
  | 0, _, s => s
  | fuel + 1, cs, s =>
    match cs.min? with
    | none => s
    | some b =>
      let now := cs.filter (· < b + 64)
      let m := (now.map fun c => 2 ^ (c - b)).sum
      let s := s.sendCtl gr rank type stream xid gen
        [(40, 0, 32, b), (44, 0, 64, m), (52, 0, 32, step), (56, 0, 8, phase), (57, 0, 8, ord)]
      let s := if type = cMISSING then s.bump Reg.COL_CNT_MISSING 1 else s
      Dev.sendMap gr type stream xid gen step phase ord rank fuel (cs.filter (b + 64 ≤ ·)) s

/-- The chunks that a map message names. -/
def mapChunks (c : Carriage) : List Nat := (bitsSet 64 (c.f 44 0 64)).map (c.f 40 0 32 + ·)

/-- A pending report is sent (R407). -/
def Dev.flushCompl (s : Dev) (g step phase : Nat) : Dev :=
  match s.xf g with
  | none => s
  | some x =>
    match s.group x.gid, x.recv step phase with
    | some gr, some r =>
      let s := Dev.sendMap gr cCOMPL x.stream x.xid g step phase x.ord r.peer r.report.length r.report.dedup s
      s.updX g fun x => x.updRecv step phase fun r => { r with report := [] }
    | _, _ => s

/-- A command of a group is about to commit: the reports still pending are sent, so that its peers can count their chunks
(R407), and its receive steps are noted, so that a chunk sent again after a lost COMPL is reported again (R409, R413). -/
def Dev.closeX (s : Dev) (g : Nat) : Dev :=
  match s.xf g with
  | none => s
  | some x =>
    let s := s.each (x.recvs.filter fun y => !y.report.isEmpty) fun s y => s.flushCompl g y.step y.phase
    s.updGroup x.gid fun gr =>
      let new := x.recvs.filterMap fun y => match y.offer with
        | some (_, gen) => if y.peer = gr.rank then none else some ⟨x.stream, x.xid, x.ord, g, y.step, y.phase, y.peer, gen, y.chunks⟩
        | none => none
      { gr with ended := (gr.ended.filter fun e => !(e.stream == x.stream && e.xid == x.xid)) ++ new }

/-- A report that is due at once: 64 chunks, or no coalescing. -/
def Dev.complDue (s : Dev) (g step phase : Nat) : Dev :=
  match s.xf g with
  | none => s
  | some x =>
    match x.recv step phase with
    | some r => if 64 ≤ r.report.length || s.fld Reg.COL_TMR1 24 8 = 0 then s.flushCompl g step phase else s
    | none => s

/-- Chunks of this member's own step are copied and counted through the on-chip network (R110, R403). -/
def Dev.selfChunks (g step phase : Nat) : List Nat → Dev → Dev × Bool
  | [], s => (s, true)
  | c :: cs, s =>
    match s.xf g with
    | none => (s, true)
    | some x =>
      match s.group x.gid, x.send step phase with
      | some gr, some y =>
        match s.chunkCar g gr x y c with
        | (s, none) => (s, false)
        | (s, some car) =>
          let (s, ok) := s.landChunk g step phase c car.payload
          if !ok then (s, false)
          else
            let s := s.updX g fun x => (x.updSend step phase fun y =>
              { y with sent := y.sent ++ [⟨c, none, 0, true, false, s.ns⟩] }).updRecv step phase fun r => { r with report := [] }
            Dev.selfChunks g step phase cs s
      | _, _ => (s, true)

/-- An OFFER to the peer of a step. -/
def Dev.sendOffer (s : Dev) (gr : Group) (x : Xfer) (y : SendStep) (g : Nat) : Dev :=
  s.sendCtl gr y.peer cOFFER x.stream x.xid g
    [(40, 0, 32, segChunks y.len), (44, 0, 32, x.pdigest), (48, 0, 32, y.step), (56, 0, 8, y.phase), (57, 0, 8, x.ord)]

/-- A step begins (R407, R408): its OFFER, and eager chunks where credits are left; the own step of a region is copied. -/
def Dev.beginStep (s : Dev) (g step phase : Nat) : Dev × Bool :=
  match s.xf g with
  | none => (s, true)
  | some x =>
    match s.group x.gid, x.send step phase with
    | some gr, some y =>
      if y.begun then (s, true)
      else
        let s := s.updX g fun x => x.updSend step phase fun y => { y with begun := true }
        if y.peer = gr.rank then
          let s := s.updX g fun x => x.updRecv step phase fun r => { r with offer := some (segChunks y.len, g) }
          match x.recv step phase with
          | some r => match r.dst with
            | .mem _ => Dev.selfChunks g step phase (List.range (stepChunks y.len)) s
            | .barrows => if y.len = 0 then Dev.selfChunks g step phase [0] s else (s, true)
            | .drop => (s, true)
          | none => (s, true)
        else
          let s := s.sendOffer gr x y g
          let k := if x.stream = 0 then min (stepChunks y.len) (gr.eager - gr.usedBy y.peer) else 0
          let k := min k gr.eager
          let s := s.updGroup x.gid fun gr => gr.setUsed y.peer (gr.usedBy y.peer + k)
          Dev.putChunks g step phase false true ((List.range k).map fun c => (c, none)) s
    | _, _ => (s, true)

/-- Every step within WINDOW that has not begun begins. -/
def Dev.beginSteps (g phase : Nat) : List SendStep → Dev → Dev × Bool
  | [], s => (s, true)
  | y :: ys, s =>
    match s.xf g with
    | none => (s, true)
    | some x =>
      if y.phase = phase && !y.begun && decide (y.step < x.limit phase) then
        let (s, ok) := s.beginStep g y.step phase
        if ok then Dev.beginSteps g phase ys s else (s, false)
      else Dev.beginSteps g phase ys s

/-- Pointers of the barrows that the collective engine holds for command `g` and that no chunk has yet; none while the Livery is
not enabled (R306). A chunk keeps the pointer of its barrow, and no later change of the window moves it (R305). -/
def Dev.spareBarrows (s : Dev) (g : Nat) (x : Xfer) : List Nat := if !s.livEn then [] else
  let bound := x.recvs.flatMap fun r => r.places.map (·.2)
  (s.liv.barrows.filterMap fun b => match b.2 with
    | some v => if v.owner = 0x01 && v.gen % 2 ^ 32 = g % 2 ^ 32 && !bound.contains (s.barrowPtr b.1) then some (s.barrowPtr b.1) else none
    | none => none)

/-- The first run of consecutive numbers of an ascending list. -/
def firstRun : List Nat → List Nat
  | [] => []
  | [a] => [a]
  | a :: b :: cs => if b = a + 1 then a :: firstRun (b :: cs) else [a]

/-- A receiver grants chunks of a step against landing places that it holds (R407). The carriage of an empty segment has no
payload and is granted with no barrow held for it (DESIGN CHOICE, log entry 173: R112 speaks of chunks that land). -/
def Dev.grant (s : Dev) (g step phase : Nat) : Dev × Bool :=
  match s.xf g with
  | none => (s, true)
  | some x =>
    match s.group x.gid, x.recv step phase with
    | some gr, some r =>
      match r.offer with
      | none => (s, true)
      | some (n, sgen) =>
        let open_ := (r.grants.filter fun c => !r.placed.contains c).length
        let room := s.fld Reg.COL_CFG 16 8 - open_
        let want := firstRun (((List.range (max 1 n)).filter fun c => !r.grants.contains c && !r.placed.contains c).take room)
        let (cs, pl) := match r.dst with
          | .mem _ => (want, [])
          | .drop => (want, [])
          | .barrows =>
            if n = 0 then (want, [])
            else
              let bs := s.spareBarrows g x
              (want.take bs.length, want.zip bs)
        if !x.active || x.limit phase ≤ step || cs.isEmpty then (s, true)
        else
          let s := s.updX g fun x => x.updRecv step phase fun r =>
            { r with grants := r.grants ++ cs, places := r.places ++ pl }
          if r.peer = gr.rank then Dev.selfChunks g step phase cs s
          else
            (s.sendCtl gr r.peer cTICKET x.stream x.xid g
              [(40, 0, 32, cs.headD 0), (44, 0, 32, cs.length), (48, 0, 32, sgen), (52, 0, 32, step), (56, 0, 8, phase),
               (57, 0, 8, x.ord)], true)
    | _, _ => (s, true)

/-- The instance that a stream's identifier and ORD name on this member (R406, R407), the newest where several do: the
generation or key of its command, and its transfers. -/
def Dev.instOf (s : Dev) (gid stream xid ord : Nat) : Option (Nat × Xfer) :=
  (s.xfers.filter fun k => k.2.gid == gid && k.2.stream == stream && k.2.xid % 2 ^ 32 == xid && k.2.ord == ord).getLast?

end Sys2Proof.Machine
end

