-- ==== Sys2Proof/Machine/Hitches.lean ====
section
/-! DEFINITION. The Hitches: frames, retry, training, link down, width changes and retraining (R323 to R350). -/
namespace Sys2Proof.Machine

/-! ### Registers that show a Hitch -/

def Dev.hPairs (s : Dev) (h : Nat) : Nat := s.fld (Reg.HCH_PSTAT h) 6 2
def Dev.hLfail (s : Dev) (h : Nat) : Nat := s.fld (Reg.HCH_PSTAT h) 20 4
def Dev.hAttempt (s : Dev) (h : Nat) : Nat := s.fld (Reg.HCH_PSTAT h) 16 4

/-- The lanes of a pair, as a mask of four bits. -/
def pairMask (p : Nat) : Nat := if p = 0 then 3 else 12
/-- The pairs without a failed lane, as two bits. -/
def soundPairs (lfail : Nat) : Nat :=
  (if lfail &&& 3 = 0 then 1 else 0) + (if lfail &&& 12 = 0 then 2 else 0)
/-- Lanes of a set of pairs. -/
def pairsLanes (ps : Nat) : Nat := (if bit ps 0 then 3 else 0) + (if bit ps 1 then 12 else 0)
def pairsWidth (ps : Nat) : Nat := (if bit ps 0 then 2 else 0) + (if bit ps 1 then 2 else 0)

/-- The state of lane `l` (Table 10-5). -/
def Dev.laneState (s : Dev) (h l : Nat) : Nat :=
  let p := l / 2; let pairs := s.hPairs h
  if bit (s.hLfail h) l then 4
  else if !bit (soundPairs (s.hLfail h)) p then 0
  else if s.hState h = hsTRAINING then 1
  else if s.hUp h then (if bit pairs p then 2 else if pairs = 0 then 1 else 3)
  else 0

/-- HCH_LSTAT, HCH_UPMAP and HCH_HALFMAP follow HCH_PSTAT. -/
def Dev.hShow (s : Dev) (h : Nat) : Dev :=
  let s := s.each (List.range 4) fun s l => s.setFld (Reg.HCH_LSTAT h) (8 * l) 3 (s.laneState h l)
  let s := s.setFlag Reg.HCH_UPMAP h (s.hUp h)
  s.setFlag Reg.HCH_HALFMAP h (s.hUp h && s.hWidth h == 2 && s.hLfail h == 0)

/-- A state entered, with the pairs that carry traffic. -/
def Dev.hEnter (s : Dev) (h st pairs : Nat) : Dev :=
  let s := (s.setFld (Reg.HCH_PSTAT h) 0 3 st).setFld (Reg.HCH_PSTAT h) 6 2 pairs
  let s := s.setFld (Reg.HCH_PSTAT h) 3 3 (pairsWidth pairs)
  let s := if s.hUp h then s else s.setFld (Reg.HCH_PSTAT h) 8 8 0
  s.hShow h

/-! ### Management messages (Table 10-2) -/

def mTS : Nat := 1
def mREQ : Nat := 2
def mACK : Nat := 3
def mNAK : Nat := 4
def mSWITCH : Nat := 5
def mDOWN : Nat := 6

def Dev.mgmtOf (s : Dev) (h pairs : Nat) : Mgmt := ⟨s.fld Reg.HCH_CFG 0 8, pairs, s.hLfail h⟩

/-- A message that expects no answer is put in the queue of frames to send. -/
def Dev.mgmtPut (s : Dev) (h msg pairs : Nat) : Dev :=
  s.setHitch h { s.hitch h with mgmtOut := (s.hitch h).mgmtOut ++ [(msg, s.mgmtOf h pairs)] }

/-- A message that expects an answer is sent, and again until the answer arrives (R327). -/
def Dev.mgmtAsk (s : Dev) (h msg pairs : Nat) : Dev :=
  let s := s.mgmtPut h msg pairs
  s.setHitch h { s.hitch h with mgmtWait := some (msg, s.mgmtOf h pairs) }

/-- Flit 0 of a management frame. -/
def mgmtFlit (msg : Nat) (m : Mgmt) : Line :=
  mkHdr [(0, 0, 8, msg), (1, 0, 8, m.level), (2, 0, 2, m.pairs), (3, 0, 4, m.lfail)]

/-! ### Training -/

/-- A new series of training attempts (R336). The domain of the Hitch leaves its gate: it is gated only while both of its
Hitches are off (R324). -/
def Dev.hTrain (s : Dev) (h : Nat) : Dev :=
  let s := (s.ungate (.hitchPair (h / 2))).setFld (Reg.HCH_PSTAT h) 16 4 0
  let s := s.setHitch h { s.hitch h with partner := none, reachAnd := 3, missAnd := 15, mgmtOut := [], mgmtWait := none }
  (s.hEnter h hsTRAINING 0).mgmtAsk h mTS 0

/-! ### Retraining (R343 to R347) -/

/-- A retrain of Hitch h is over, or abandoned. -/
def Dev.retrainEnd (s : Dev) (h : Nat) : Dev :=
  (s.setFlag Reg.WHL_HBUSY h false).setHitch h { s.hitch h with retrain := .none }

/-- A chunk sent on plane `p` is not yet counted (R345). -/
def Dev.phaseOn (s : Dev) (p : Nat) : Bool :=
  s.xfers.any fun x => x.2.sends.any fun y => y.sent.any fun z => z.plane == some p && !z.counted

/-- A carriage that Hitch `h` took and has not begun goes back to its queue, with what its start cost (R343, R358, R375): the
credit of its shaper, and the deficit of its VC (R368). -/
def Dev.unstart (s : Dev) (h : Nat) (t : TxCar) : Dev :=
  let c := t.x.car.tc
  let v := t.x.evc
  let s := if v < 6 then s.setDeficit (h / 4) v (s.deficitOf (h / 4) v + (t.x.car.size : Nat)) else s
  let s := if s.shapeEn && bits (s.shapeEff h c) 0 10 ≠ 0 then
      s.setCredit h c (min (s.credit h c + (t.x.car.size : Nat)) ((bits (s.shapeEff h c) 16 8 * 1024 : Nat) : Int)) else s
  s.stgEnter t.x

/-- A quiet retrain begins once every stored frame is acknowledged: WIDTH reads 0 (R343). -/
def Dev.quietSettle (s : Dev) (h : Nat) : Dev :=
  match (s.hitch h).retrain with
  | .quiet _ =>
    let x := s.hitch h
    if x.stored.isEmpty && !(x.txCars.any fun t => t.begun) && s.hWidth h != 0 then
      let s := s.each x.txCars fun s t => s.unstart h t
      ((s.setHitch h { s.hitch h with txCars := [] }).hEnter h hsRETRAIN 0).replane (h / 4)
    else s
  | _ => s

/-- A retrain starts (Table 10-7). -/
def Dev.retrainStart (s : Dev) (h : Nat) : Dev :=
  let s := (s.setFlag Reg.WHL_HBUSY h true).setFlag Reg.WHL_HDEFER h false
  let s := s.setHitch h { s.hitch h with due := false, yielded := false, deferred := 0 }
  let s := s.hEnter h hsRETRAIN (s.hPairs h)
  if s.hLfail h = 0 then
    (s.setHitch h { s.hitch h with retrain := .asking 1 1 }).mgmtAsk h mREQ 1
  else (s.setHitch h { s.hitch h with retrain := .quiet false }).quietSettle h

def Dev.planeBusy (s : Dev) (p : Nat) : Bool := (planeHitches p).any fun h => s.flag Reg.WHL_HBUSY h

/-- A retrain that is due starts, waits for its plane, or is deferred (R343, R345). -/
def Dev.retrainTry (s : Dev) (h : Nat) : Dev :=
  if s.hState h ≠ hsUP then s.setHitch h { s.hitch h with due := false }
  else if s.planeBusy (h / 4) then s.setHitch h { s.hitch h with due := true }
  else if s.phaseOn (h / 4) then
    if s.fld Reg.WHL_HCFG 16 6 = 0 then
      ((s.bump Reg.WHL_CNT_FORCED 1).record clsFAB 0x006 h 0 blkWHL 0).retrainStart h
    else
      let s := (s.setFlag Reg.WHL_HDEFER h true).bump Reg.WHL_CNT_DEFER 1
      s.setHitch h { s.hitch h with due := false, deferred := 1 }
  else s.retrainStart h

/-- A retrain that waited for its plane, or was withdrawn, may start: the Hitch is at its full width (R343, R347). -/
def Dev.retrainWaits (s : Dev) (g : Nat) : Bool :=
  ((s.hitch g).due && decide (s.hWidth g = pairsWidth (soundPairs (s.hLfail g))))
    || ((s.hitch g).yielded && s.hState g == hsUP && s.hWidth g == 4)

/-- A retrain of plane `p` that waited comes next, where none is under way. -/
def Dev.retrainNext (s : Dev) (p : Nat) : Dev :=
  if s.planeBusy p then s
  else match (planeHitches p).find? s.retrainWaits with
  | some g => s.retrainTry g
  | none => s

/-- A retrain of Hitch h is over. -/
def Dev.retrainOver (s : Dev) (h : Nat) : Dev := (s.retrainEnd h).retrainNext (h / 4)

/-! ### Link down and narrowing -/

/-- What a Hitch loses when its link goes down (R338). -/
def Dev.hDrop (s : Dev) (h : Nat) : Dev :=
  let x := s.hitch h
  let s := s.bump (Reg.HCH_CNT_LOSTFR h) x.stored.length
  let s := s.setHitch h { x with
    stored := [], replay := [], txCars := [], rxPart := [], xoffIn := 0, rxExp := 0, rxLast := 0, txSeq := 0,
    rxBad := false, retries := 0, wantRetry := false, mgmtOut := [], mgmtWait := none, deferred := 0, due := false,
    rxPairs := 0 }
  let s := (s.retrainEnd h).setFlag Reg.WHL_HDEFER h false
  s.each (x.txCars.filter fun t => !t.begun) fun s t => s.unstart h t

/-- The link of Hitch h goes down (R337, R338) into a state. -/
def Dev.linkDown (s : Dev) (h cause st : Nat) : Dev :=
  let s := s.bump (Reg.HCH_CNT_LINKDOWN h) 1
  let s := s.record clsFAB 0x001 (h + cause * 2 ^ 8) 0 blkHCH h
  let s := s.hDrop h
  let s := if st = hsTRAINING then s.hTrain h else s.hEnter h st 0
  (s.replane (h / 4)).retrainNext (h / 4)

/-- A link-down cause 0x1 to 0x5 (Table 10-4). -/
def Dev.linkFails (s : Dev) (h cause : Nat) : Dev := if s.hUp h then s.linkDown h cause hsTRAINING else s

/-- A Hitch is deconfigured (Table 10-4, R547, R40): the power-safe record comes before the entry of the fence record (R560). -/
def Dev.hDeconf (s : Dev) (h : Nat) : Dev :=
  if s.hState h = hsDECONF then s
  else
    let s := (s.record clsFAB 0x004 h 0 blkHCH h).fenceEnter 3 h
    let s := s.sizChange fun s => s.setFld Reg.SIZ_HITCHW (2 * h) 2 0
    (((s.hDrop h).hEnter h hsDECONF 0).replane (h / 4)).retrainNext (h / 4)

/-- A lane is failed (R342): the Hitch is narrowed, or, with a failed lane in each pair, deconfigured; a Hitch that is narrow or
deconfigured already stays so. The record comes before the fence entry (R560). -/
def Dev.laneFail (s : Dev) (h l : Nat) : Dev :=
  let s := (s.record clsFAB 0x003 (h + l * 2 ^ 8) 0 blkHCH h).fenceEnter 2 (4 * h + l)
  let s := s.setFlag (Reg.HCH_PSTAT h) (20 + l) true
  let s := if s.fld Reg.SIZ_HITCHW (2 * h) 2 ≤ 1 then s else s.sizChange fun s => s.setFld Reg.SIZ_HITCHW (2 * h) 2 1
  let s := s.hShow h
  if soundPairs (s.hLfail h) = 0 then s.hDeconf h else s

/-- A retrain that completes (Table 10-4). -/
def Dev.retrainDone (s : Dev) (h pairs : Nat) : Dev :=
  ((s.hEnter h hsUP pairs).bump Reg.WHL_CNT_RETRAIN 1).retrainOver h

/-! ### Frames -/

/-- Flits parsed into carriages: those complete, and the flits of one still arriving (R326). -/
def parseCars : Nat → List Line → List Carriage × List Line
  | 0, fs => ([], fs)
  | fuel + 1, fs =>
    match fs with
    | [] => ([], [])
    | hd :: _ =>
      let n := 1 + 4 * lfield hd 5 0 5
      if fs.length < n then ([], fs)
      else
        let c : Carriage := ⟨hd, ((fs.take n).drop 1).flatMap fun f => leBytes 64 f.toNat⟩
        let (cs, rest) := parseCars fuel (fs.drop n)
        (c :: cs, rest)

/-- Frames that an ACKSEQ leaves unacknowledged: those after it, where it covers one stored. -/
def afterAck (ack : Nat) (st : List Stored) : List Stored :=
  if st.any fun f => f.seq == ack then (st.dropWhile fun f => f.seq != ack).drop 1 else st

/-- The flits of the next data frame, taken from the carriages in order: the flits, the carriages that they begin, and what
remains, one that goes on in the next frame at its head. A carriage not begun whose VC is in the XOFF map `off` is passed over
(R332). -/
def gather (off : Nat) : Nat → List TxCar → List Line × List TxCar × List TxCar
  | _, [] => ([], [], [])
  | room, t :: ts =>
    if room = 0 then ([], [], t :: ts)
    else if !t.begun && bit off t.x.evc then
      let (fs, new, rest) := gather off room ts
      match rest with
      | r :: rs => if r.begun then (fs, new, r :: t :: rs) else (fs, new, t :: r :: rs)
      | [] => (fs, new, [t])
    else
      let now := t.flits.take room
      let later := t.flits.drop room
      let new := if t.begun then [] else [t]
      if later.isEmpty then
        let (fs, more, rest) := gather off (room - now.length) ts
        (now ++ fs, new ++ more, rest)
      else (now, new, { t with flits := later, begun := true } :: ts)

/-- A retry request for the expected frame (R329). -/
def askRetry (x : Hitch) : Hitch :=
  if x.rxBad then x else { x with rxBad := true, retries := 0, wantRetry := true }

/-- The lanes of a set of pairs, ascending. -/
def laneList (ps : Nat) : List Nat := bitsSet 4 (pairsLanes ps)

/-- What Hitch `h` hears of a frame: the lanes on which it receives, which follow the WIDTH_SWITCH of the partner (R343). -/
def Dev.heard (s : Dev) (h : Nat) (lanes : List (List Nat)) : List (List Nat) :=
  let ls := laneList (if (s.hitch h).rxPairs = 0 then s.hPairs h else (s.hitch h).rxPairs)
  if ls.isEmpty || lanes.length = ls.length then lanes else ls.map fun l => nth lanes l []

/-- LINK_FRAME_RECEIVE (R325, R326, R328 to R331). In TRAINING the frames carry TS messages alone, and count for the policers
(R374). -/
def execLinkFrameReceive (h : Nat) (lanes : List (List Nat)) (s : State) : Host.Outcome State Fault Refusal := s.upd fun s =>
  if s.hState h = hsTRAINING then s.frameReceived h
  else if !s.hUp h then s
  else
    let f := frameOf (s.heard h lanes)
    let s := s.frameReceived h
    let s := (s.bump (Reg.HCH_CNT_CW h) 2).bump (Reg.HCH_CNT_CWCORR h) f.cwCorr
    let s := s.bump (Reg.HCH_CNT_SYMCORR h) f.symCorr
    let x := { s.hitch h with symMs := (s.hitch h).symMs + f.symCorr }
    let data := f.type == .data && f.nflit != 0
    if !f.good then
      let s := s.bump (Reg.HCH_CNT_UNCORR h) 1
      if data then (s.bump (Reg.HCH_CNT_DISCARD h) 1).setHitch h (askRetry x) else s.setHitch h x
    else
      let x := { x with xoffIn := f.xoff % 256 }
      if f.type == .reserved || decide (20 < f.nflit) then (s.bump (Reg.HCH_CNT_DISCARD h) 1).setHitch h x
      else
        let x := { x with stored := afterAck f.ackseq x.stored, replay := afterAck f.ackseq x.replay }
        let x := if f.type == .retry then { x with replay := x.stored } else x
        let s :=
          if !data then s.setHitch h x
          else if f.seq = x.rxExp then
            let (cs, rest) := parseCars 21 (x.rxPart ++ f.flits.take f.nflit)
            s.setHitch h { x with rxExp := (x.rxExp + 1) % 4096, rxLast := f.seq, rxBad := false, retries := 0,
                                  wantRetry := false, rxPart := rest, rxDone := x.rxDone ++ cs }
          else (s.bump (Reg.HCH_CNT_DISCARD h) 1).setHitch h (askRetry x)
        s.quietSettle h

/-- A frame sent on the lanes that carry traffic, or, in training, on those that train (R325, R336, R374). -/
def Dev.sendFrame (s : Dev) (h : Nat) (f : TxFrame) : Dev :=
  let w := if s.hWidth h = 0 then pairsWidth (soundPairs (s.hLfail h)) else s.hWidth h
  (s.emit (.frame h (frameLine w f))).frameSent h

/-- SHAPER_REFILL: none in a quiet retrain, in which the Hitch sends no frames (R374). -/
def execShaperRefill (h : Nat) (s : State) : Host.Outcome State Fault Refusal := s.upd fun s =>
  s.shaperRow h !(s.hState h == hsRETRAIN && s.hWidth h == 0)

/-- WIDTH_SWITCH has left as the last frame at the old width (R343, Table 10-7): the Hitch now transmits on the pairs that it
names, and WIDTH shows them (DEDUCED, log entry 224); it receives as before, until the partner's WIDTH_SWITCH comes. -/
def Dev.widthSent (s : Dev) (h pairs : Nat) : Dev :=
  let old := s.hPairs h
  let ps := pairs &&& soundPairs (s.hLfail h)
  let rx := if (s.hitch h).rxPairs = 0 then old else (s.hitch h).rxPairs
  let s := s.setHitch h { s.hitch h with rxPairs := if rx = ps then 0 else rx }
  match (s.hitch h).retrain with
  | .asking ps p => (s.setHitch h { s.hitch h with retrain := .pair p false }).hEnter h hsRETRAIN ps
  | .restoring p =>
    if p = 1 then
      let s := s.hEnter h hsRETRAIN 3
      (s.setHitch h { s.hitch h with retrain := .asking 2 0 }).mgmtAsk h mREQ 2
    else s.retrainDone h 3
  | _ => if ps = 0 then s else (s.hEnter h (s.hState h) ps).retrainNext (h / 4)

/-- LINK_FRAME_TRANSMIT (R325 to R330): a retry request, a management message, a replayed frame, data, or an idle frame. -/
def execLinkFrameTransmit (h : Nat) (s : State) : Host.Outcome State Fault Refusal := s.upd fun s =>
  let x := s.hitch h
  let send (s : Dev) (seq : Nat) (ty : FrameType) (fs : List Line) : Dev :=
    s.sendFrame h ⟨seq, (s.hitch h).rxLast, s.xoffOut h, ty, fs.length, fs⟩
  if s.hState h = hsTRAINING then
    match x.mgmtOut with
    | m :: ms => send (s.setHitch h { x with mgmtOut := ms }) x.txSeq .mgmt [mgmtFlit m.1 m.2]
    | [] => s
  else if !s.hUp h || s.hWidth h = 0 then s
  else if x.wantRetry then
    let s := (s.setHitch h { x with wantRetry := false, retries := x.retries + 1 }).bump (Reg.HCH_CNT_RETRYREQ h) 1
    send s x.txSeq .retry []
  else match x.mgmtOut with
    | m :: ms =>
      let s := send (s.setHitch h { x with mgmtOut := ms }) x.txSeq .mgmt [mgmtFlit m.1 m.2]
      if m.1 = mSWITCH then s.widthSent h m.2.pairs else s
    | [] =>
      match x.replay with
      | f :: fs => send ((s.setHitch h { x with replay := fs }).bump (Reg.HCH_CNT_REPLAY h) 1) f.seq .data f.flits
      | [] =>
        let (fs, new, rest) := gather x.xoffIn 20 x.txCars
        if fs.isEmpty || 409 ≤ x.stored.length then send s x.txSeq .data []
        else
          let s := s.setHitch h { x with
            txCars := rest, stored := x.stored ++ [⟨x.txSeq, fs⟩], txSeq := (x.txSeq + 1) % 4096 }
          send (s.each new fun s t => s.departs h t) x.txSeq .data fs

/-- RETRY_REQUEST_TIMEOUT (R329). -/
def execRetryRequestTimeout (h : Nat) (s : State) : Host.Outcome State Fault Refusal := s.upd fun s =>
  let x := s.hitch h
  if !s.hUp h || !x.rxBad then s
  else if s.fld Reg.HCH_RTO 8 4 ≤ x.retries then s.linkFails h 2
  else s.setHitch h { x with wantRetry := true }

/-- ACK_TIMEOUT (R329); a Hitch that drains goes down as R339 states instead. -/
def execAckTimeout (h : Nat) (s : State) : Host.Outcome State Fault Refusal := s.upd fun s =>
  if (s.hitch h).stored.isEmpty || (s.hitch h).drain then s else s.linkFails h 3

/-- LINK_IDLE_TIMEOUT (R337, cause 0x4); a quiet retrain sends and receives no frames. -/
def execLinkIdleTimeout (h : Nat) (s : State) : Host.Outcome State Fault Refusal := s.upd fun s =>
  if s.hWidth h = 0 then s else s.linkFails h 4

/-- LANE_SIGNAL_LOSS on a lane that carries traffic (R337, R346). -/
def execLaneSignalLoss (h lane : Nat) (s : State) : Host.Outcome State Fault Refusal := s.upd fun s =>
  if bit (pairsLanes (s.hPairs h ||| (s.hitch h).rxPairs)) lane then s.linkFails h 1 else s

/-- MGMT_MESSAGE_RESEND (R327). -/
def execMgmtMessageResend (h : Nat) (s : State) : Host.Outcome State Fault Refusal := s.upd fun s =>
  match (s.hitch h).mgmtWait with
  | some m => s.setHitch h { s.hitch h with mgmtOut := (s.hitch h).mgmtOut ++ [m] }
  | none => s

/-- TS: used in training only (R336, R340, R341). -/
def execTs (h : Nat) (m : Mgmt) (s : State) : Host.Outcome State Fault Refusal := s.upd fun s =>
  if s.hState h ≠ hsTRAINING then s
  else
    let first := (s.hitch h).partner.isNone
    let s := s.setHitch h { s.hitch h with partner := some m, mgmtWait := none }
    if first then s.mgmtPut h mTS 0 else s

/-- WIDTH_REQ (R347). -/
def execWidthReq (h : Nat) (m : Mgmt) (s : State) : Host.Outcome State Fault Refusal := s.upd fun s =>
  if !s.hUp h then s
  else
    let own := match (s.hitch h).mgmtWait with | some (k, _) => k == mREQ | none => false
    let s := if own then
        let s := (s.bump Reg.WHL_CNT_YIELD 1).retrainEnd h
        let s := s.setHitch h { s.hitch h with mgmtWait := none,
                                               mgmtOut := (s.hitch h).mgmtOut.filter fun k => k.1 != mREQ }
        let s := (s.hEnter h hsUP (s.hPairs h)).retrainNext (h / 4)
        s.setHitch h { s.hitch h with yielded := true }
      else s
    let want := m.pairs % 4
    let during := (s.hitch h).retrain != .none
    if want = 0 || want &&& soundPairs (s.hLfail h) != want || (during && (want &&& s.hPairs h) != s.hPairs h) then s.mgmtPut h mNAK want
    else (s.mgmtPut h mACK want).mgmtPut h mSWITCH want

/-- WIDTH_ACK (R343, Table 10-7): WIDTH_SWITCH is put among the frames to send, and the width changes behind it. -/
def execWidthAck (h : Nat) (_m : Mgmt) (s : State) : Host.Outcome State Fault Refusal := s.upd fun s =>
  match (s.hitch h).mgmtWait with
  | none => s
  | some (k, q) =>
    if !s.hUp h || k ≠ mREQ then s
    else
      (s.setHitch h { s.hitch h with mgmtWait := none }).mgmtPut h mSWITCH q.pairs

/-- WIDTH_NAK: the change that was asked for is abandoned (R347). -/
def execWidthNak (h : Nat) (_m : Mgmt) (s : State) : Host.Outcome State Fault Refusal := s.upd fun s =>
  match (s.hitch h).mgmtWait with
  | none => s
  | some (k, _) =>
    if !s.hUp h || k ≠ mREQ then s
    else
      let s := s.setHitch h { s.hitch h with mgmtWait := none }
      (s.hEnter h hsUP (s.hPairs h)).retrainOver h

/-- WIDTH_SWITCH from the partner: reception moves to the new pairs (R343), whatever those on which this side transmits. -/
def execWidthSwitch (h : Nat) (m : Mgmt) (s : State) : Host.Outcome State Fault Refusal := s.upd fun s =>
  let ps := m.pairs % 4
  let rx := ps &&& soundPairs (s.hLfail h)
  if !s.hUp h || rx = 0 then s
  else s.setHitch h { s.hitch h with rxPairs := if rx = s.hPairs h then 0 else rx }

/-- DOWN from the partner (R337, cause 0x5). -/
def execDown (h : Nat) (s : State) : Host.Outcome State Fault Refusal := s.upd fun s => s.linkFails h 5

/-- TRAINING_ATTEMPT_END (R336, R341, Table 10-4): `reached` and `precode` are masks of lanes. Without the FABCLK of its plane no
lane of a Hitch reaches the target (R581). -/
def execTrainingAttemptEnd (h reached precode : Nat) (s : State) : Host.Outcome State Fault Refusal := s.upd fun s =>
  if s.hState h ≠ hsTRAINING then s
  else
    let x := s.hitch h
    let ps := soundPairs (s.hLfail h)
    let want := pairsLanes ps
    let missed := if bit s.grd.straps.fabclk (h / 4) then want ^^^ (want &&& reached) else want
    let level := match x.partner with | some m => min (s.fld Reg.HCH_CFG 0 8) m.level | none => 0
    let low := match x.partner with | some m => if level < s.fld Reg.HCH_CFG 8 8 then some m.level else none | none => none
    let s := match low with
      | some l => s.record clsFAB 0x007 (h + l * 2 ^ 8) 0 blkHCH h
      | none => s
    if missed = 0 && x.partner.isSome && low.isNone then
      let s := s.setFld (Reg.HCH_PSTAT h) 16 4 0
      let s := s.each (List.range 4) fun s l => s.setFlag (Reg.HCH_LSTAT h) (8 * l + 3) (bit precode l && bit want l)
      let s := s.setHitch h { s.hitch h with mgmtOut := [], mgmtWait := none, symMs := 0, rxPairs := 0 }
      let s := s.hEnter h hsUP ps
      (s.setFld (Reg.HCH_PSTAT h) 8 8 level).retrainNext (h / 4)
    else
      let got := (if missed &&& 3 = 0 && bit ps 0 then 1 else 0) + (if missed &&& 12 = 0 && bit ps 1 then 2 else 0)
      let ra := x.reachAnd &&& got
      let ma := x.missAnd &&& missed
      let n := s.hAttempt h + 1
      let s := s.setHitch h { x with reachAnd := ra, missAnd := ma, partner := none }
      if n < s.fld Reg.HCH_RTO 20 4 then (s.setFld (Reg.HCH_PSTAT h) 16 4 n).mgmtAsk h mTS 0
      else
        let other := if ra = 1 then 12 else if ra = 2 then 3 else 0
        let fail := ma &&& other
        if ps = 3 && fail ≠ 0 then (s.each (bitsSet 4 fail) fun s l => s.laneFail h l).hTrain h
        else
          let s := s.setFld (Reg.HCH_PSTAT h) 16 4 n
          (s.hEnter h hsFAILED 0).record clsFAB 0x002 (h + missed * 2 ^ 8) 0 blkHCH h

/-- HCH_PCTL.EN written 1 (Table 10-4). -/
def execHitchEnable (h : Nat) (s : State) : Host.Outcome State Fault Refusal := s.upd fun s =>
  if 32 ≤ h then s
  else
    let was := s.flag (Reg.HCH_PCTL h) 0
    let s := s.setFlag (Reg.HCH_PCTL h) 0 true
    if s.hState h == hsDISABLED || (!was && s.hState h == hsFAILED) then s.hTrain h else s

/-- HCH_PCTL.EN written 0 (R339, Table 10-4). -/
def execHitchDisable (h : Nat) (s : State) : Host.Outcome State Fault Refusal := s.upd fun s =>
  if 32 ≤ h then s
  else
    let s := s.setFlag (Reg.HCH_PCTL h) 0 false
    if s.hUp h then s.setHitch h { s.hitch h with drain := true }
    else if s.hState h = hsTRAINING then (s.hDrop h).hEnter h hsDISABLED 0
    else s

/-- HITCH_DISABLE_DRAIN_DONE (R339): DOWN is sent and the Hitch goes DISABLED. -/
def execHitchDisableDrainDone (h : Nat) (s : State) : Host.Outcome State Fault Refusal := s.upd fun s =>
  if !(s.hitch h).drain then s
  else
    let s := s.setHitch h { s.hitch h with drain := false }
    if s.hUp h then
      let x := s.hitch h
      let s := s.sendFrame h ⟨x.txSeq, x.rxLast, s.xoffOut h, .mgmt, 1, [mgmtFlit mDOWN (s.mgmtOf h 0)]⟩
      s.linkDown h 6 hsDISABLED
    else if s.hState h = hsTRAINING then (s.hDrop h).hEnter h hsDISABLED 0
    else s

/-- HCH_PCTL.RETRAIN written 1 (Table 10-4). -/
def execHitchRetrainRequest (h : Nat) (s : State) : Host.Outcome State Fault Refusal := s.upd fun s =>
  if s.hState h = hsFAILED then s.hTrain h else s

/-- HCH_PCTL.DECONF written 1 (R342). -/
def execHitchDeconfigure (h : Nat) (s : State) : Host.Outcome State Fault Refusal := s.upd fun s =>
  if 32 ≤ h then s else s.hDeconf h

/-- HITCH_RETRAIN_DUE (R343, R345). -/
def execHitchRetrainDue (h : Nat) (s : State) : Host.Outcome State Fault Refusal := s.upd fun s =>
  if s.flag Reg.WHL_HCFG 0 && (s.hitch h).deferred = 0 && !s.flag Reg.WHL_HBUSY h then s.retrainTry h else s

/-- SYMBOL_RATE_CHECK, each millisecond (R343). -/
def execSymbolRateCheck (h : Nat) (s : State) : Host.Outcome State Fault Refusal := s.upd fun s =>
  let x := s.hitch h
  let t := s.fld Reg.WHL_HTHR 0 16
  let s := s.setHitch h { x with symMs := 0 }
  if s.flag Reg.WHL_HCFG 0 && t != 0 && decide (t * 256 < x.symMs) && s.hState h == hsUP && x.deferred == 0 && !x.due
  then (s.bump Reg.WHL_CNT_EARLY 1).retrainTry h else s

/-- RETRAIN_PAIR_TRAINED (Table 10-7, R343). -/
def execRetrainPairTrained (h : Nat) (s : State) : Host.Outcome State Fault Refusal := s.upd fun s =>
  match (s.hitch h).retrain with
  | .pair p _ => (s.setHitch h { s.hitch h with retrain := .restoring p }).mgmtAsk h mREQ 3
  | .quiet _ => if s.hWidth h = 0 then s.retrainDone h (soundPairs (s.hLfail h)) else s
  | _ => s

/-- RETRAIN_PAIR_TIMEOUT (R344): `missed` is a mask of lanes. -/
def execRetrainPairTimeout (h missed : Nat) (s : State) : Host.Outcome State Fault Refusal := s.upd fun s =>
  let fail (s : Dev) (lanes : Nat) : Dev :=
    let s := s.hEnter h hsUP (s.hPairs h)
    let s := s.each (bitsSet 4 (missed &&& lanes)) fun s l => s.laneFail h l
    s.retrainOver h
  match (s.hitch h).retrain with
  | .pair p false => (s.bump Reg.WHL_CNT_PAIRFAIL 1).setHitch h { s.hitch h with retrain := .pair p true }
  | .pair p true => fail (s.bump Reg.WHL_CNT_PAIRFAIL 1) (pairMask p)
  | .quiet false => (s.bump Reg.WHL_CNT_PAIRFAIL 1).setHitch h { s.hitch h with retrain := .quiet true }
  | .quiet true => fail (s.bump Reg.WHL_CNT_PAIRFAIL 1) 15
  | _ => s

/-- HITCH_RETRAIN_DEFER: a 100 us step ends (R345). -/
def execHitchRetrainDefer (h : Nat) (s : State) : Host.Outcome State Fault Refusal := s.upd fun s =>
  let n := (s.hitch h).deferred
  let off (s : Dev) : Dev := (s.setFlag Reg.WHL_HDEFER h false).setHitch h { s.hitch h with deferred := 0 }
  if n = 0 then s
  else if s.hState h ≠ hsUP then off s
  else if s.planeBusy (h / 4) || !s.phaseOn (h / 4) then (off s).retrainTry h
  else if s.fld Reg.WHL_HCFG 16 6 * 100 ≤ n then
    ((s.bump Reg.WHL_CNT_FORCED 1).record clsFAB 0x006 h 0 blkWHL 0).retrainStart h
  else (s.bump Reg.WHL_CNT_DEFER 1).setHitch h { s.hitch h with deferred := n + 1 }

end Sys2Proof.Machine
end

