-- ==== Sys2Proof/Machine/Collectives.lean ====
section
/-! DEFINITION. Groups, collective commands and their arithmetic (R391 to R419): everything but the carriage events that
exchanges share, which Fabric.lean holds. -/
namespace Sys2Proof.Machine

/-! ### Reduction arithmetic (R404, R405, Table 13-5) -/

def rtypeOk (t : Nat) : Bool := [1, 2, 6, 7, 8, 9].contains t
/-- Bytes of an element, and of an accumulator. -/
def rtypeSize (t : Nat) : Nat := match t with | 1 => 1 | 6 => 2 | 7 => 2 | 9 => 8 | _ => 4
def accSize (t : Nat) : Nat := if t = 9 then 8 else 4
def accFmt (t : Nat) : Fmt := if t = 9 then fmtFP64 else fmtFP32

/-- An element converted exactly to the accumulation type. -/
def toAccT (t x : Nat) : Nat :=
  match t with
  | 1 => ofSigned 32 (toSigned 8 x)
  | 2 => x
  | _ => roundF (accFmt t) (decodeT t x)

/-- One operation of a reduction in the accumulation type, and the saturations it counts. -/
def redOp (rop t a b : Nat) : Nat × Nat :=
  if t = 1 || t = 2 then
    let x := toSigned 32 a; let y := toSigned 32 b
    match rop with
    | 0 => let (z, n) := satAdd32 x y; (ofSigned 32 z, n)
    | 1 => (if x < y then b else a, 0)
    | _ => (if y < x then b else a, 0)
  else
    let f := accFmt t
    let x := decodeF f a; let y := decodeF f b
    match rop with
    | 0 => (roundF f (x.add y), 0)
    | _ =>
      if x.isNaN || y.isNaN then (canonNaN f, 0)
      else if x.isZero && y.isZero then
        (if rop = 1 then (if x.isNeg then b else a) else (if x.isNeg then a else b), 0)
      else if rop = 1 then (if x.lt y then b else a, 0)
      else (if y.lt x then b else a, 0)

/-- One level of the order of R405. -/
def redLevel (op : Nat → Nat → Nat × Nat) : List Nat → List Nat × Nat
  | a :: b :: xs =>
    let (z, n) := op a b
    let (zs, m) := redLevel op xs
    (z :: zs, n + m)
  | xs => (xs, 0)

/-- The order of R405 over the contributions to one element. -/
def redTree (op : Nat → Nat → Nat × Nat) : Nat → List Nat → Nat × Nat
  | 0, xs => (xs.headD 0, 0)
  | fuel + 1, xs =>
    if xs.length ≤ 1 then (xs.headD 0, 0)
    else
      let (ys, n) := redLevel op xs
      let (z, m) := redTree op fuel ys
      (z, n + m)

/-- A sum from the first on, one at a time. -/
def redFold (op : Nat → Nat → Nat × Nat) : List Nat → Nat × Nat
  | [] => (0, 0)
  | a :: xs => xs.foldl (fun z x => let (y, n) := op z.1 x; (y, z.2 + n)) (a, 0)

/-- The result in RTYPE (Table 13-5). -/
def redResult (t a : Nat) : Nat :=
  match t with
  | 1 => ofSigned 8 (max (-128) (min 127 (toSigned 32 a)))
  | 2 | 8 | 9 => a
  | _ => (convOut t 0 .rne false 0 (decodeF fmtFP32 a)).1

/-- Element `i` of size `n` of a run of bytes. -/
def elemAt (bs : List Byte) (n i : Nat) : Nat := leNat ((bs.drop (n * i)).take n)

/-! ### Checks at arm (R391 to R393, R403) -/

def cpGroup (d : Line) : Nat := lnum d 16 2
def cpWindow (d : Line) : Nat := lnum d 18 2
def cpParam (d : Line) : Nat := lnum d 20 4
def cpSrc (d : Line) : Nat := lnum d 24 8
def cpDst (d : Line) : Nat := lnum d 32 8
def cpLen (d : Line) : Nat := lnum d 40 4
def cpAux (d : Line) : Nat := lnum d 44 4
def cpSig (d : Line) : Nat := lnum d 48 8
def cpSigBase (d : Line) : Nat := lnum d 56 8

/-- A region lies wholly in the Coach House or wholly in HBM (R392); an empty one lies anywhere. -/
def Dev.placed (s : Dev) (a n : Nat) : Bool := n == 0 || inCH a n || s.inHBM a n
def overlaps (a n b m : Nat) : Bool := decide (0 < n) && decide (0 < m) && decide (a < b + m) && decide (b < a + n)

/-- The bytes of SRC and of DST of a stream-0 command in a group of `n` members. -/
def collSizes (d : Line) (n : Nat) : Nat × Nat :=
  let len := cpLen d
  match dOp d with
  | 0x0304 => let z := up64 len * (n - 1) + len; (z, z)
  | 0x0305 =>
    let e := rtypeSize (lfield d 20 2 5) * len
    (if lfield d 21 0 1 = 1 then (if len = 0 then 0 else 63 * cpAux d * 64 + e) else e, e)
  | _ => (len, len)

/-- The permutation table of a PERMUTE: its entries, or none where it cannot be read. -/
def Dev.permTable (s : Dev) (d : Line) (n : Nat) : Dev × Option (List Nat) :=
  let a := chBase + cpAux d
  if !inCH a (2 * n) then (s, none)
  else match s.unitRead a (2 * n) with
    | (s, some bs) => (s, some ((List.range n).map (elemAt bs 2)))
    | (s, none) => (s, none)

/-- A table that names a rank twice or holds another value at or above N (R403). -/
def permOk (n : Nat) (t : List Nat) : Bool :=
  let xs := t.filter (· != 0xFFFF)
  decide xs.Nodup && xs.all fun x => decide (x < n)

/-- The first bad field of a stream-0 command (R392, R403), `n` the members of its group. Where this member does not hold the
group, `n` is 0: what N bounds is not tested, and a region that grows with N is tested as for one member (DESIGN CHOICE, log
entry 174). -/
def Dev.collBad (s : Dev) (d : Line) (n : Nat) : Dev × Option Nat :=
  let op := dOp d
  let p := cpParam d
  let w := cpWindow d
  let m := max 1 n
  let (a, b) := collSizes d m
  let table := op == 0x0303 && overlaps (chBase + cpAux d) (2 * m) (cpDst d) b
  let single := op == 0x0302 || op == 0x0303
  if cpGroup d = 0xFFFF then (s, some 16)
  else if (if single then w ≠ 1 else w = 0 || 1024 < w) then (s, some 18)
  else if (match op with
      | 0x0302 => decide (2 ^ 16 ≤ p) || (n != 0 && decide (n ≤ p))
      | 0x0305 => decide (2 ^ 9 ≤ p) || bits p 0 2 == 3 || !rtypeOk (bits p 2 5)
      | _ => p != 0) then (s, some 20)
  else if cpSrc d % 64 ≠ 0 || !s.placed (cpSrc d) a then (s, some 24)
  else if cpDst d % 64 ≠ 0 || !s.placed (cpDst d) b || overlaps (cpSrc d) a (cpDst d) b || table then (s, some 32)
  else if op = 0x0305 && 2 ^ 31 < cpLen d then (s, some 40)
  else
    let (s, aux) : Dev × Bool := match op with
      | 0x0303 =>
        if cpAux d % 64 ≠ 0 || !inCH (chBase + cpAux d) (2 * m) then (s, true)
        else if n = 0 then (s, false)
        else match s.permTable d n with
          | (s, some t) => (s, !permOk n t)
          | (s, none) => (s, true)
      | 0x0305 => (s, !bit p 8 && cpAux d != 0)
      | _ => (s, cpAux d != 0)
    if aux then (s, some 44)
    else if !ctrOk (cpSig d) then (s, some 48)
    else (s, none)

/-- A GROUP-class command refused: while its group is FORMED it still takes its sequence number, and its matched instances
are aborted (R401). -/
def Dev.groupRefuse (s : Dev) (src : Source) (d : Line) (gid stream xid : Nat) (r : Refuse) : Dev :=
  let s := s.refuse src d r
  match s.group gid with
  | some g =>
    if g.state = gFORMED then (s.takeSeq gid stream).sendAborts g stream (if stream < 2 then nth g.seqs stream 0 else xid) 1
    else s
  | none => s

/-! ### Building the steps (R403, R404) -/

def sendOf (step phase peer : Nat) (src : ChunkSrc) (len : Nat) : SendStep := ⟨step, phase, peer, src, len, false, false, [], [], []⟩
def recvOf (step phase peer : Nat) (dst : ChunkDst) (len : Nat) : RecvStep := ⟨step, phase, peer, dst, len, none, [], [], [], [], 0, []⟩

/-- The first element of segment `j` of an ALLREDUCE. -/
def segLo (count n j : Nat) : Nat := j * count / n

/-- The steps of a stream-0 command on the member of rank `r` of `n`. -/
def collSteps (d : Line) (n r : Nat) (perm : List Nat) : List SendStep × List RecvStep :=
  let src := cpSrc d; let dst := cpDst d; let len := cpLen d
  match dOp d with
  | 0x0302 =>
    let k := bits (cpParam d) 0 16
    ([sendOf 0 0 ((r + k) % n) (.mem src) len], [recvOf 0 0 ((r + n - k) % n) (.mem dst) len])
  | 0x0303 =>
    let dest := nth perm r 0xFFFF
    (if dest = 0xFFFF then [] else [sendOf 0 0 dest (.mem src) len],
     match perm.findIdx? (· == r) with
     | some q => [recvOf 0 0 q (.mem dst) len]
     | none => [])
  | 0x0304 =>
    let st := up64 len
    ((List.range n).map fun i => let p := (r + i) % n; sendOf i 0 p (.mem (src + p * st)) len,
     (List.range n).map fun i => let p := (r + n - i) % n; recvOf i 0 p (.mem (dst + p * st)) len)
  | _ =>
    let t := lfield d 20 2 5
    let ez := rtypeSize t; let az := accSize t
    let lo (j : Nat) : Nat := segLo len n j
    let cnt (j : Nat) : Nat := lo (j + 1) - lo j
    let ss := (List.range n).filter (· != 0)
    ((ss.map fun i => let p := (r + i) % n; sendOf i 0 p (.bytes []) (cnt p * az))
      ++ ss.map (fun i => sendOf i 1 ((r + i) % n) (.mem (dst + lo r * ez)) (cnt r * ez)),
     (ss.map fun i => recvOf i 0 ((r + n - i) % n) .barrows (cnt r * az))
      ++ ss.map (fun i => let p := (r + n - i) % n; recvOf i 1 p (.mem (dst + lo p * ez)) (cnt p * ez)))

/-- PDIGEST of a stream-0 command (R402, R403). -/
def pdigestOf (d : Line) (perm : List Nat) : Nat :=
  crc32c (leBytes 8 (lnum d 16 8) ++ leBytes 16 0 ++ leBytes 8 (lnum d 40 8) ++ perm.flatMap (leBytes 2))

/-- The body of a stream-0 command at its arm. -/
def collBody (d : Line) (g : Group) (perm : List Nat) (stalls coaches : Nat) : CollRun :=
  let (ss, rs) := collSteps d g.n g.rank perm
  { x := ⟨g.gid, 0, nth g.seqs 0 0, 0, cpWindow d, pdigestOf d perm, 0, [], ss, rs, stalls, false, []⟩
    op := dOp d, dst := cpDst d, size := (collSizes d g.n).2, rop := lfield d 20 0 2, rtype := lfield d 20 2 5,
    arrival := dOp d == 0x0305 && lfield d 20 7 1 == 1, count := cpLen d, own := [], segDone := false, coaches := coaches, shown := 0, sats := 0 }

/-! ### Kills -/

/-- The barrow of each chunk of a killed or finished transfer is freed by the unit `who` that holds it, by the pointer that the unit
keeps (R305); the Livery checks each FREE (R311). -/
def Dev.freePlaces (s : Dev) (who : Nat) (ps : List (Nat × Nat)) : Dev :=
  s.each ps fun s p => s.livFreeOp who p.2

/-- A command killed, and taken from the queue of its group. -/
def Dev.killQueued (s : Dev) (g status : Nat) (rerun : Bool) : Dev :=
  let s := s.kill g status rerun
  { s with col := { s.col with groups := s.col.groups.map fun x => { x with queue := x.queue.filter (· != g) } } }

/-- A forward exchange ends with a status other than OK: the exchange that returns it is killed, without ABORT (R117). -/
def Dev.killReturns (s : Dev) (gid xid : Nat) : Dev :=
  let gs := (s.cmds.filter fun c => match c.body with
    | .exch r => r.back && r.x.gid == gid && r.fwd == xid
    | _ => false).map (·.gen)
  s.each gs fun s g => s.killQueued g 2 false

/-- A routing pass killed before its dispatch scan: the forward exchange that serves it is killed, without ABORT (R114). -/
def Dev.killForward (s : Dev) (pass : Nat) : Dev :=
  let cs := s.cmds.filter fun c => match c.body with
    | .exch r => !r.back && r.pass == pass
    | _ => false
  s.each cs fun s c => match c.body with
    | .exch r => (s.killQueued c.gen 2 false).killReturns r.x.gid r.x.xid
    | _ => s

/-- The barrows in which returns for a killed routing pass wait are freed (R124). -/
def Dev.dropReturns (s : Dev) (pass : Nat) : Dev :=
  let xids := (s.landed.filter fun l => l.pass == pass).map fun l => (l.gid, l.xid)
  let cs := s.cmds.filter fun c => match c.body with
    | .exch r => r.back && xids.contains (r.x.gid, r.fwd)
    | _ => false
  s.each cs fun s c => match c.body with
    | .exch r =>
      let s := s.freePlaces 1 ((r.x.recvs.filter (·.done)).flatMap (·.places))
      s.setBody c.gen (.exch { r with
        unpacked := r.unpacked ++ ((r.x.recvs.filter fun y => y.done && !r.unpacked.contains y.peer).map (·.peer))
        x := { r.x with recvs := r.x.recvs.map fun y => if y.done then { y with places := [] } else y } })
    | _ => s

/-- A GROUP-class command killed on this member, with what hangs on it. -/
def Dev.groupKill (s : Dev) (g status : Nat) (rerun : Bool) : Dev :=
  match s.cmd g with
  | none => s
  | some c =>
    let s := s.killQueued g status rerun
    match c.body with
    | .route r =>
      let s := if r.committed then s else s.bump Reg.PST_CNT_KILLED 1
      if r.scanned then s.dropReturns g else s.killForward g
    | .exch r => if r.back || rerun then s else s.killReturns r.x.gid r.x.xid
    | _ => s

/-- A fault of this member kills an instance here and, by ABORT, on its peers (R415). -/
def Dev.groupFault (s : Dev) (g cause status : Nat) : Dev :=
  match (s.cmd g).bind cmdInst with
  | none => s
  | some (gid, stream, xid) => match s.group gid with
    | some gr => (s.groupKill g status false).sendAborts gr stream xid cause
    | none => s.groupKill g status false

/-- INST of a ROUTE record of a routing pass or exchange that runs: the lowest Postilion of its POSTMASK (R592). -/
def maskInst (d : Line) : Nat := (bitsSet 8 (lnum d 17 1)).headD 0

/-- The record of a GROUP-class command that a member's failure or a dissolve ends (R83, R414). -/
def Dev.failRecord (s : Dev) (g code detail slot gid : Nat) : Dev :=
  match s.cmd g with
  | none => s
  | some c => match c.body with
    | .route _ => s.record clsROUTE 0x006 gid g blkPST (maskInst c.desc)
    | _ => s.record clsFAB code detail g blkCOL slot

/-- A group becomes BROKEN: its commands are killed by the caller, and what refused passes still send ends. -/
def Dev.groupBroken (s : Dev) (gid : Nat) : Dev :=
  let s := s.updGroup gid fun g => { g with state := gBROKEN }
  { s with col := { s.col with refusals := s.col.refusals.filter fun z => z.x.gid != gid } }

/-- How often an instance has stalled. -/
def cmdStalls (c : Cmd) : Nat :=
  match c.body with
  | .route r => r.stalls
  | b => match b.xfer with | some x => x.stalls | none => 0

/-- The record of an instance that a received ABORT kills (R415); a routing pass that a member's failure or a dissolve ends
records ROUTE/0x006 in its place (R83, R414). -/
def Dev.abortRecord (s : Dev) (k : Cmd) (gr : Group) (cause rank : Nat) : Dev :=
  match k.body with
  | .route _ => if cause = 3 || cause = 5 then s.record clsROUTE 0x006 gr.gid k.gen blkPST (maskInst k.desc)
    else s.record clsFAB 0x035 (cause + rank * 2 ^ 16) k.gen blkCOL gr.slot
  | _ => s.record clsFAB 0x035 (cause + rank * 2 ^ 16) k.gen blkCOL gr.slot

/-- One command of a group killed by a received ABORT. -/
def Dev.abortOne (s : Dev) (k : Cmd) (gr : Group) (cause rank : Nat) : Dev :=
  (s.abortRecord k gr cause rank).groupKill k.gen 2 (cause == 4 && cmdStalls k == 0)

/-- ABORT with cause 0x3 (R415): the group becomes BROKEN, and every command of it is killed. -/
def Dev.abortGroup (s : Dev) (g : Group) (rank : Nat) : Dev :=
  let ks := s.cmds.filter fun k => cmdGid k == some g.gid
  let s := s.groupBroken g.gid
  if ks.isEmpty then s.record clsFAB 0x035 (3 + rank * 2 ^ 16) 0 blkCOL g.slot
  else s.each ks fun s k => if (s.cmd k.gen).isSome then s.abortOne k g 3 rank else s

/-- A peer is declared failed (R414): 0x033 by silence, 0x034 by retransmission. -/
def Dev.peerFail (s : Dev) (gid rank code : Nat) : Dev :=
  match s.group gid with
  | none => s
  | some gr =>
    let gens := s.groupCmds gid
    let detail := rank + gid * 2 ^ 16
    let s := if gens.isEmpty then s.record clsFAB code detail 0 blkCOL gr.slot else s
    let s := s.each gens fun s g => (s.failRecord g code detail gr.slot gid).groupKill g 2 false
    let s := s.bump Reg.COL_CNT_PEERFAIL 1
    let s := s.groupBroken gid
    s.sendAborts gr 0 0 3

/-! ### Running (R404, R405, R410, R411) -/

/-- The job address range of DST that is not final (R410): the lowest byte offset at which something is still missing. What a
PERMUTE that receives nothing holds in DST no run has written. -/
def CollRun.missing (r : CollRun) (gr : Group) : Option Nat :=
  let ez := rtypeSize r.rtype
  let first (y : RecvStep) : Option Nat :=
    match y.dst with
    | .mem a => ((List.range (segChunks y.len)).find? fun c => !y.placed.contains c).map fun c => a - r.dst + 4096 * c
    | _ => none
  let lo (j : Nat) : Nat := segLo r.count gr.n j
  let own := if r.op = 0x0305 && !r.segDone && lo gr.rank != lo (gr.rank + 1) then [lo gr.rank * ez] else []
  let none_ := if r.op = 0x0303 && r.x.recvs.isEmpty && r.size != 0 then [0] else []
  (r.x.recvs.filterMap first ++ own ++ none_).min?

/-- The chunk signal (R410): the counter rises to SIG_BASE + P. -/
def Dev.signalTo (s : Dev) (d : Line) (p : Nat) : Dev :=
  let a := cpSig d
  let v := (cpSigBase d + p) % 2 ^ 64
  if a = 0 || (s.ctrBad a).isSome || v ≤ s.ctr a then s else s.wrNum (chAddr a) 8 v

def Dev.setColl (s : Dev) (g : Nat) (f : CollRun → CollRun) : Dev :=
  s.updCmd g fun c => match c.body with
    | .coll r => { c with body := .coll (f r) }
    | _ => c

/-- The result of this member's segment in the accumulation type (R405): by rank in the fixed order, or in order of arrival
per chunk. -/
def Dev.reduceSegment (s : Dev) (r : CollRun) (gr : Group) : List Nat × Nat :=
  let t := r.rtype
  let az := accSize t
  let n := segLo r.count gr.n (gr.rank + 1) - segLo r.count gr.n gr.rank
  let steps := r.x.recvs.filter fun y => y.phase == 0
  let piece (y : RecvStep) : List Byte :=
    ((List.range (segChunks y.len)).flatMap fun c => s.landedBytes y c (min 4096 (y.len - 4096 * c)))
  let byRank := (List.range gr.n).map fun q =>
    if q = gr.rank then r.own else match steps.find? fun y => y.peer == q with | some y => piece y | none => []
  let arrived (c : Nat) : List (List Byte) :=
    let order := (r.x.arrived.filter fun a => a.2 == c).map (·.1)
    r.own :: order.filterMap fun q => (steps.find? fun y => y.peer == q).map piece
  let out := (List.range n).map fun i =>
    if r.arrival then redFold (redOp r.rop t) ((arrived (i * az / 4096)).map fun b => elemAt b az i)
    else redTree (redOp r.rop t) gr.n (byRank.map fun b => elemAt b az i)
  (out.map (·.1), (out.map (·.2)).sum)

/-- A command's barrows are freed. -/
def Dev.freeBarrows (s : Dev) (r : CollRun) : Dev :=
  let bs := r.x.recvs.flatMap fun y => y.places.map (·.2)
  s.each bs fun s b => s.livFreeOp 1 b

/-- Phase 0 is whole: the segment is formed, converted and written to DST (R404). -/
def Dev.closePhase0 (s : Dev) (g : Nat) (r : CollRun) (gr : Group) : Dev × Bool :=
  let (vs, sats) := s.reduceSegment r gr
  let ez := rtypeSize r.rtype
  let bs := vs.flatMap fun v => leBytes ez (redResult r.rtype v)
  let (s, ok) := if bs.isEmpty then (s, true) else s.cmdWrite g (r.dst + segLo r.count gr.n gr.rank * ez) bs
  if !ok then (s, false)
  else
    let s := s.freeBarrows r
    (s.setColl g fun r => { r with segDone := true, sats := r.sats + sats, x := { r.x with recvs := r.x.recvs.map fun y =>
      if y.phase = 0 then { y with places := [] } else y } }, true)

/-- The stream-0 command `g`, while it is armed. -/
def Dev.collOf (s : Dev) (g : Nat) : Option CollRun :=
  match s.cmd g with
  | some c => match c.body with
    | .coll r => some r
    | _ => none
  | none => none

/-- A collective goes on after an event: steps begin, the segment is formed, the signal rises, and it commits (R411). -/
def Dev.collProgress (s : Dev) (g : Nat) : Dev :=
  match s.cmd g with
  | none => s
  | some c => match c.body with
    | .coll r0 =>
      match s.group r0.x.gid with
      | none => s
      | some gr =>
        if !r0.x.active then s
        else
          let (s, ok) := Dev.beginSteps g 0 r0.x.sends s
          if !ok then s.groupFault g 7 2
          else match s.collOf g with
            | some r =>
              let ready := r.op == 0x0305 && !r.segDone && (r.x.recvs.filter fun y => y.phase == 0).all (·.done)
              let (s, ok) := if ready then s.closePhase0 g r gr else (s, true)
              if !ok then s.groupFault g 7 2
              else
                let phase1 := match s.collOf g with | some r => r.segDone | none => false
                let (s, ok) := if phase1 then Dev.beginSteps g 1 r.x.sends s else (s, true)
                if !ok then s.groupFault g 7 2
                else match s.collOf g with
                  | some r =>
                    let whole := r.x.sends.all (·.done) && r.x.recvs.all (·.done) && (r.op != 0x0305 || r.segDone)
                    let p := match r.missing gr with | some b => b / 4096 | none => ceilDiv r.size 4096
                    let s := if r.arrival || p ≤ r.shown then s
                      else (s.signalTo c.desc p).setColl g fun r => { r with shown := p }
                    let (s, out) := if whole then s.outGate c else (s, false)
                    if !out then s
                    else if (s.ctrBad (cpSig c.desc)).isSome then (s.ctrFault (cpSig c.desc) g).groupFault g 7 2
                    else if (s.ctrBad (dHand c.desc)).isSome then (s.ctrFault (dHand c.desc) g).groupFault g 7 2
                    else (((s.signalTo c.desc (ceilDiv r.size 4096)).closeX g).bump Reg.COL_CNT_SAT r.sats).commit g 0
                  | none => s
            | none => s
    | _ => s

/-- The contribution of this member to every segment (R404): its SRC elements in the accumulation type, or the sum of the
slots (R251, R252), `coaches` being SIZ_COACHMAP as it was at the arm; none where a read faults. -/
def Dev.contribution (s : Dev) (g : Nat) (d : Line) (coaches : Nat) : Dev × Option (List Nat × Nat) :=
  let t := lfield d 20 2 5
  let ez := rtypeSize t
  let n := cpLen d
  let read (s : Dev) (a : Nat) : Dev × Option (List Nat) :=
    if n = 0 then (s, some [])
    else match s.cmdRead g a (n * ez) with
      | (s, some bs) => (s, some ((List.range n).map fun i => toAccT t (elemAt bs ez i)))
      | (s, none) => (s, none)
  if lfield d 21 0 1 = 0 then
    match read s (cpSrc d) with
    | (s, some xs) => (s, some (xs, 0))
    | (s, none) => (s, none)
  else
    let slots := if dPort d then List.range 64 else bitsSet 64 coaches
    let (s, all) := slots.foldl (fun (z : Dev × Option (List (List Nat))) k =>
      match z.2 with
      | none => z
      | some xs => match read z.1 (cpSrc d + k * cpAux d * 64) with
        | (s, some ys) => (s, some (xs ++ [ys]))
        | (s, none) => (s, none)) (s, some [])
    match all with
    | none => (s, none)
    | some xss =>
      let out := (List.range n).map fun i =>
        let ys := xss.map fun xs => nth xs i 0
        if dPort d then redTree (redOp 0 t) 6 ys else redFold (redOp 0 t) ys
      (s, some (out.map (·.1), (out.map (·.2)).sum))

/-- A stream-0 command is admitted (R400) and its first steps begin. -/
def Dev.collStart (s : Dev) (g : Nat) : Dev :=
  match s.cmd g with
  | none => s
  | some c => match c.body with
    | .coll r =>
      match s.group r.x.gid with
      | none => s
      | some gr =>
        let s := s.updGroup gr.gid fun x => { x with queue := x.queue.filter (· != g) }
        let s := s.updX g fun x => { x with active := true }
        if r.op ≠ 0x0305 then s.collProgress g
        else match s.contribution g c.desc r.coaches with
          | (s, none) => s.groupFault g 7 2
          | (s, some (xs, sats)) =>
            let az := accSize r.rtype
            let seg (j : Nat) : List Byte :=
              let lo := segLo r.count gr.n j
              ((xs.drop lo).take (segLo r.count gr.n (j + 1) - lo)).flatMap (leBytes az)
            let s := s.setColl g fun r => { r with
              own := seg gr.rank
              sats := r.sats + sats
              x := { r.x with sends := r.x.sends.map fun y => if y.phase = 0 then { y with src := .bytes (seg y.peer) } else y } }
            s.collProgress g
    | _ => s

/-- A PDIGEST that differs kills the instance on every member (R402). -/
def Dev.digestKill (s : Dev) (g rank : Nat) : Dev :=
  match s.xf g with
  | none => s
  | some x => match s.group x.gid with
    | some gr => (s.record clsFAB 0x038 rank g blkCOL gr.slot).groupFault g 2 2
    | none => s

/-- A carriage for a group that is not held (R397, R398). -/
def Dev.noGroup (s : Dev) : Dev := s.bump Reg.COL_CNT_NOGROUP 1
def Dev.stale (s : Dev) : Dev := s.bump Reg.COL_CNT_STALE 1

/-- An OFFER of rank `rank` for the step that it names of instance `g` is kept, where the step is one of that rank's
(R407, R408). -/
def Dev.acceptOffer (s : Dev) (g rank : Nat) (c : Carriage) : Dev :=
  match (s.xf g).bind fun x => x.recv (c.f 48 0 32) (c.f 56 0 8) with
  | none => s.stale
  | some r =>
    if r.peer ≠ rank then s.stale
    else match r.offer with
      | none => s.updX g fun x => x.updRecv r.step r.phase fun y => { y with offer := some (c.f 40 0 32, c.gen) }
      | some (_, gen) => if gen ≠ c.gen then s.stale else s

/-- An eager contribution takes a barrow that the engine holds (R404, R408): false where there is none. A chunk placed before
needs none (R409). -/
def Dev.bindBarrow (s : Dev) (g : Nat) (x : Xfer) (r : RecvStep) (c : Nat) (bs : List Byte) : Dev × Bool :=
  if r.dst ≠ .barrows || bs.isEmpty || r.placed.contains c || r.places.any fun p => p.1 == c then (s, true)
  else match s.spareBarrows g x with
    | b :: _ => (s.updX g fun x => x.updRecv r.step r.phase fun y => { y with places := y.places ++ [(c, b)] }, true)
    | [] => (s, false)

/-- A chunk for an instance that is armed (R407, R408): stale, or placed and counted, or, an eager contribution for which no
barrow is held, kept in the reserve until one is. False where its place cannot be written. -/
def Dev.acceptChunk (s : Dev) (gr : Group) (g : Nat) (c : Carriage) : Dev × Bool :=
  match s.xf g with
  | none => (s.stale, true)
  | some x =>
    let eager := c.stream == 0 && c.eager && decide (c.chunk < gr.eager)
    match x.recv c.step c.phase with
    | none => (s.stale, true)
    | some r =>
      let sender := match r.offer with | some (_, gen) => gen == c.gen | none => eager
      if gr.rankOf c.src ≠ some r.peer || c.srank ≠ r.peer || c.drank ≠ gr.rank || !sender || r.chunks ≤ c.chunk
          || !(eager || r.grants.contains c.chunk) then (s.stale, true)
      else match s.bindBarrow g x r c.chunk c.payload with
        | (s, false) => (s.updGroup gr.gid fun y => { y with early := y.early ++ [c] }, true)
        | (s, true) =>
          let (s, ok) := s.landChunk g c.step c.phase c.chunk c.payload
          (s.complDue g c.step c.phase, ok)

/-- Several chunks, until one cannot be placed. -/
def Dev.acceptChunks (gr : Group) (g : Nat) : List Carriage → Dev → Dev × Bool
  | [], s => (s, true)
  | c :: cs, s =>
    let (s, ok) := s.acceptChunk gr g c
    if ok then Dev.acceptChunks gr g cs s else (s, false)

/-- Eager chunks of a step that wait in the reserve for a barrow are tried again (R404, R408). -/
def Dev.takeEarly (s : Dev) (g step phase : Nat) : Dev × Bool :=
  match s.xf g with
  | none => (s, true)
  | some x => match s.group x.gid with
    | none => (s, true)
    | some gr =>
      let mine (c : Carriage) : Bool :=
        x.stream == 0 && c.stream == 0 && c.xid == x.xid % 2 ^ 32 && c.step == step && c.phase == phase
      let cs := gr.early.filter mine
      Dev.acceptChunks gr g cs (s.updGroup gr.gid fun y => { y with early := y.early.filter fun c => !mine c })

/-- A collective is armed in its group: it takes its number, and is admitted or queued; an ABORT that waits for it kills it,
an OFFER that waits is checked and kept, and eager chunks that wait land (R401, R402, R408). -/
def Dev.collArm (s : Dev) (src : Source) (d : Line) (gr : Group) (perm : List Nat) (stalls : Nat) (front : Bool) : Dev :=
  let r := collBody d gr perm stalls (s.reg Reg.SIZ_COACHMAP)
  let s := s.takeSeq gr.gid 0
  let (a, b) := collSizes d gr.n
  let (s, g) := s.arm src d 0 [(jobKey (cpSrc d), a)] [(jobKey (cpDst d), b)] (.coll r)
  let mine (c : Carriage) : Bool := c.xid == r.x.xid % 2 ^ 32
  let held := gr.slots.filter fun x => x.2.1 == 0 && mine x.2.2.2
  let eager := gr.early.filter fun c => c.kind == kCOLL && c.stream == 0 && mine c
  let s := s.updGroup gr.gid fun x => { x with
    slots := x.slots.filter (fun y => !held.contains y), early := x.early.filter (fun c => !eager.contains c)
    queue := if front then g :: x.queue else x.queue ++ [g] }
  let aborted := held.filter fun x => x.2.2.1
  match aborted.head? with
  | some x =>
    (s.record clsFAB 0x035 (x.2.2.2.f 40 0 8 + x.1 * 2 ^ 16) g blkCOL gr.slot).groupKill g 2 false
  | none =>
    let bad := held.find? fun x => x.2.2.2.f 44 0 32 != r.x.pdigest
    match bad with
    | some x => s.digestKill g x.1
    | none =>
      let s := s.each held fun s x => s.acceptOffer g x.1 x.2.2.2
      let (s, ok) := Dev.acceptChunks gr g eager s
      if !ok then s.groupFault g 7 2
      else if s.active0 gr.gid < 4 && (s.group gr.gid).map (·.queue) == some [g] then s.collStart g else s

/-- SHIFT, PERMUTE, ALLTOALL or ALLREDUCE at its arm (R391, R392, R400, R401, R594). -/
def Dev.collective (s : Dev) (src : Source) (d : Line) : Dev :=
  let gid := cpGroup d
  let gr := s.group gid
  let n := match gr with | some g => g.n | none => 0
  let no (s : Dev) (r : Refuse) : Dev := s.groupRefuse src d gid 0 0 r
  match s.headCheck d with
  | some r => no s r
  | none =>
    if dOp d = 0x0305 && lfield d 20 7 1 = 1 && !dV d then no s ⟨clsJOB, 0x043, 20⟩
    else match s.collBad d n with
      | (s, some k) => no s ⟨clsFAB, 0x030, k⟩
      | (s, none) =>
        match gr with
        | some g =>
          if g.state ≠ gFORMED then no s ⟨clsFAB, 0x03B, gid⟩
          else if 64 ≤ s.groupHeld gid then no s ⟨clsFAB, 0x031, gid⟩
          else
            let perm := if dOp d = 0x0303 then ((s.permTable d g.n).2).getD [] else []
            s.collArm src d g perm 0 false
        | none => no s ⟨clsFAB, 0x03B, gid⟩

/-- A stalled collective is armed once more at the head of its group's queue (R415). -/
def Dev.collRearm (s : Dev) (c : Cmd) (r : CollRun) : Dev :=
  match s.group r.x.gid with
  | some g =>
    if g.state ≠ gFORMED then s.complete c 2 0
    else
      let s := match c.src with
        | .ring q => s.setRing q { s.ring q with inflight := (s.ring q).inflight - 1 }
        | _ => s
      let perm := if r.op = 0x0303 then ((s.permTable c.desc g.n).2).getD [] else []
      s.collArm c.src c.desc g perm 1 true
  | none => s.complete c 2 0

def execShift (src : Source) (d : Line) (s : State) : Host.Outcome State Fault Refusal := s.unit fun s =>
  if dOp d = 0x0302 then s.collective src d else s

def execPermute (src : Source) (d : Line) (s : State) : Host.Outcome State Fault Refusal := s.unit fun s =>
  if dOp d = 0x0303 then s.collective src d else s

def execAlltoall (src : Source) (d : Line) (s : State) : Host.Outcome State Fault Refusal := s.unit fun s =>
  if dOp d = 0x0304 then s.collective src d else s

def execAllreduce (src : Source) (d : Line) (s : State) : Host.Outcome State Fault Refusal := s.unit fun s =>
  if dOp d = 0x0305 then s.collective src d else s

/-- A queued stream-0 command is admitted (R400). -/
def execCollectiveAdmit (gid : Nat) (s : State) : Host.Outcome State Fault Refusal := s.unit fun s =>
  match s.group gid with
  | none => s
  | some gr => match gr.queue with
    | g :: _ => if s.active0 gid < 4 then s.collStart g else s
    | [] => s

/-! ### Forming and dissolving groups (R393 to R398, R417) -/

/-- The bytes that a group reserve needs (R395). -/
def reserveBytes (n eager : Nat) : Nat := roundUp (up64 (2 * n) + 256 * (n - 1) + 4160 * eager * (n - 1)) 4096

/-- GDIGEST (R394). -/
def gdigestOf (gid n eager epoch : Nat) (members : List Nat) : Nat :=
  crc32c (leBytes 2 gid ++ leBytes 4 n ++ leBytes 1 eager ++ leBytes 1 0 ++ leBytes 4 epoch ++ members.flatMap (leBytes 2))

/-- The first bad field of a GFORM (Tables 13-1 and 13-2, R392). -/
def Dev.gformBad (s : Dev) (d : Line) : Option Nat :=
  let p := cpParam d
  let n := bits p 0 17
  if cpGroup d = 0xFFFF then some 16
  else if cpWindow d ≠ 0 then some 18
  else if n = 0 || 65536 < n || bits p 17 3 ≠ 0 || 4 < bits p 20 3 || bits p 23 9 ≠ 0 then some 20
  else if cpSrc d % 64 ≠ 0 || !s.placed (cpSrc d) (2 * n) then some 24
  else if cpDst d % 4096 ≠ 0 || !s.placed (cpDst d) (cpLen d) || overlaps (cpSrc d) (2 * n) (cpDst d) (cpLen d) then some 32
  else if cpSig d ≠ 0 then some 48
  else none

/-- The lowest free entry of the group table. -/
def Dev.freeSlot (s : Dev) : Option Nat := (List.range 64).find? fun i => !s.col.groups.any fun g => g.slot == i

/-- A carriage of a group at a level that is not the group's (R417). -/
def Dev.badLevel (s : Dev) (gid : Nat) (c : Carriage) : Dev :=
  let s := s.bump Reg.COL_CNT_LEVEL 1
  if s.col.onceLevel then s
  else
    let s := s.record clsFAB 0x037 (c.level + gid * 2 ^ 16) 0 blkCOL 0
    { s with col := { s.col with onceLevel := true } }

/-- The group becomes FORMED, what it held is checked for its level (R417), and its GFORM commits (Table 13-4); an ABORT with
cause 0x3 that waited then breaks it (R397, R415). -/
def Dev.groupFormed (s : Dev) (gid : Nat) : Dev :=
  match s.group gid with
  | none => s
  | some g =>
    let level := (g.levels.map (·.2)).foldl min s.colLevel
    let wrong (c : Carriage) : Bool := c.level != level
    let bad := (g.slots.map (·.2.2.2) ++ g.early).filter wrong
    let s := s.each bad fun s c => s.badLevel gid c
    let fatal (y : Nat × Nat × Bool × Carriage) : Bool := y.2.2.1 && decide (y.2.2.2.f 40 0 8 = 3)
    let ended := g.slots.find? fun y => fatal y && !wrong y.2.2.2
    let s := s.updGroup gid fun x => { x with
      state := gFORMED, level := level, formGen := 0
      slots := x.slots.filter (fun y => !wrong y.2.2.2 && !fatal y), early := x.early.filter fun c => !wrong c }
    let s := s.commit g.formGen 0
    match ended with
    | some y => s.abortGroup g y.1
    | none => s

/-- The group is not formed: its entry is freed and GFORM fails (Table 13-4). -/
def Dev.groupLost (s : Dev) (gid code detail status : Nat) : Dev :=
  match s.group gid with
  | none => s
  | some g =>
    let s := { s with col := { s.col with groups := s.col.groups.filter fun x => x.gid != gid } }
    let s := if code = 0 then s else s.record clsFAB code detail g.formGen blkCOL g.slot
    s.finish g.formGen status 0

/-- GFORM armed (R393, R395, R397). -/
def execGform (src : Source) (d : Line) (s : State) : Host.Outcome State Fault Refusal := s.unit fun s =>
  let gid := cpGroup d
  let no (s : Dev) (code detail : Nat) : Dev := s.refuse src d ⟨clsFAB, code, detail⟩
  if dOp d ≠ 0x0300 then s
  else match s.headCheck d with
    | some r => s.refuse src d r
    | none =>
      match s.gformBad d with
      | some k => no s 0x030 k
      | none =>
        let n := bits (cpParam d) 0 17
        let eager := bits (cpParam d) 20 3
        if cpLen d < reserveBytes n eager then no s 0x03A (reserveBytes n eager)
        else if (s.group gid).isSome then no s 0x030 16
        else match s.freeSlot with
          | none => no s 0x030 16
          | some slot =>
            match s.unitRead (cpSrc d) (2 * n) with
            | (s, none) => no s 0x030 24
            | (s, some bs) =>
              let ms := (List.range n).map (elemAt bs 2)
              if !(decide ms.Nodup) || !ms.contains s.coord then no s 0x030 24
              else
                let (s, g) := s.arm src d 0 [(jobKey (cpSrc d), 2 * n)] [(jobKey (cpDst d), cpLen d)] (.gform gid)
                let rank := ms.findIdx (· == s.coord)
                let gr : Group :=
                  { slot := slot, gid := gid, state := gFORMING, members := ms, rank := rank, eager := eager, epoch := cpAux d,
                    digest := gdigestOf gid n eager (cpAux d) ms, level := 0, reserve := cpDst d, seqs := [0, 0, 0, 0], acked := [],
                    levels := [], formGen := g, queue := [], slots := [], early := [], txFlow := [], rxFlow := [], used := [], probed := [], ended := [] }
                let s := { s with col := { s.col with groups := s.col.groups ++ [gr] } }
                let s := s.each gr.others fun s r =>
                  s.sendCtl gr r cJOIN 0 0 g [(40, 0, 8, s.colLevel), (42, 0, 16, rank)]
                if n = 1 then s.groupFormed gid else s

/-- The first bad field of a GDISSOLVE. -/
def gdissolveBad (d : Line) : Option Nat :=
  if cpGroup d = 0xFFFF then some 16
  else if cpWindow d ≠ 0 then some 18
  else if cpParam d ≠ 0 then some 20
  else if cpSrc d ≠ 0 then some 24
  else if cpDst d ≠ 0 then some 32
  else if cpLen d ≠ 0 then some 40
  else if cpAux d ≠ 0 then some 44
  else if cpSig d ≠ 0 then some 48
  else none

/-- GDISSOLVE armed (R398): it kills the group's commands, those whose kill runs and that would run again among them, frees the
entry and commits. -/
def execGdissolve (src : Source) (d : Line) (s : State) : Host.Outcome State Fault Refusal := s.upd fun s =>
  let gid := cpGroup d
  if dOp d ≠ 0x0301 then s
  else match s.headCheck d with
    | some r => s.refuse src d r
    | none =>
      match gdissolveBad d with
      | some k => s.refuse src d ⟨clsFAB, 0x030, k⟩
      | none =>
        let (s, g) := s.arm src d 0 [] [] (.gdissolve gid)
        match s.group gid with
        | none => s.commit g 0
        | some gr =>
          -- an exchange that the kill of another command has ended is still one of those in flight, and named
          let s := s.each (s.cmds.filter fun k => cmdGid k == some gid) fun s k =>
            let (stream, xid) := ((cmdInst k).map (·.2)).getD (0, 0)
            let s := match k.body with
              | .route _ => s.record clsROUTE 0x006 gid k.gen blkPST (maskInst k.desc)
              | _ => s
            (s.groupKill k.gen 2 false).sendAborts gr stream xid 5
          let again (k : Dying) : Bool := cmdGid k.cmd == some gid && k.rerun
          let runs := s.dying.filter again
          let s : Dev := { s with dying := s.dying.map fun k => if again k then { k with rerun := false, status := 2 } else k }
          let s := s.each runs fun s k => match cmdInst k.cmd with
            | some (_, stream, xid) => s.sendAborts gr stream xid 5
            | none => s
          let s := if gr.state = gFORMING then s.finish gr.formGen 3 0 else s
          let s : Dev := { s with col := { s.col with
            groups := s.col.groups.filter (fun x => x.gid != gid), refusals := s.col.refusals.filter fun z => z.x.gid != gid } }
          s.commit g 0

/-- A carriage taken from those delivered and not yet handled. -/
def Dev.taken (s : Dev) (c : Carriage) : Dev :=
  { s with stg := { s.stg with inbox := s.stg.inbox.eraseP fun x => decide (x.2 = c) } }

/-- GROUP of a control carriage. -/
def ctlGroup (c : Carriage) : Nat := c.f 30 0 16
def ctlStream (c : Carriage) : Nat := c.f 36 0 8

/-- The level that a member offers is noted; below MINLEVEL the formation fails (R417). -/
def Dev.noteLevel (s : Dev) (gid rank level : Nat) : Dev × Bool :=
  if level < s.fld Reg.COL_CFG 8 8 then (s.groupLost gid 0x036 level 2, false)
  else (s.updGroup gid fun g => { g with levels := (g.levels.filter fun x => x.1 != rank) ++ [(rank, level)] }, true)

/-- JOINACK to the coordinate that sent a JOIN, a member or not (R397). -/
def Dev.joinAck (s : Dev) (g : Group) (dst : Nat) (ok : Bool) : Dev :=
  s.formed 42 ⟨mkHdr [(0, 0, 16, dst), (2, 0, 16, s.coord), (4, 0, 3, 6), (5, 5, 3, kCTRL), (7, 0, 8, s.colLevel),
    (20, 0, 32, g.formGen), (28, 0, 8, cJOINACK), (30, 0, 16, g.gid), (32, 0, 32, g.digest), (40, 0, 1, ok.toNat),
    (41, 0, 8, s.colLevel)], []⟩ none

/-- JOIN received (R397, R417). -/
def execJoin (c : Carriage) (s : State) : Host.Outcome State Fault Refusal := s.upd fun s =>
  let s := s.taken c
  match s.group (ctlGroup c) with
  | none => s.noGroup
  | some g =>
    if g.state ≠ gFORMING && g.state ≠ gFORMED then s
    else
      let ok := c.gdigest == g.digest
      let s := s.joinAck g c.src ok
      match g.rankOf c.src with
      | none => s
      | some rank => if ok && g.state = gFORMING then (s.noteLevel g.gid rank (c.f 40 0 8)).1 else s

/-- JOINACK received (Table 13-4). -/
def execJoinack (c : Carriage) (s : State) : Host.Outcome State Fault Refusal := s.upd fun s =>
  let s := s.taken c
  match s.group (ctlGroup c) with
  | none => s.noGroup
  | some g =>
    match g.rankOf c.src with
    | none => s.stale
    | some rank =>
      if g.state ≠ gFORMING then s
      else if c.f 40 0 1 = 0 then s.groupLost g.gid 0x032 rank 2
      else if c.gdigest ≠ g.digest then s.stale
      else
        let (s, ok) := s.noteLevel g.gid rank (c.f 41 0 8)
        if !ok then s
        else
          let s := s.updGroup g.gid fun x => { x with acked := if x.acked.contains rank then x.acked else x.acked ++ [rank] }
          match s.group g.gid with
          | some x => if x.others.all x.acked.contains then s.groupFormed g.gid else s
          | none => s

/-- An unanswered JOIN is sent again (R397). -/
def execJoinRepeat (gid rank : Nat) (s : State) : Host.Outcome State Fault Refusal := s.upd fun s =>
  match s.group gid with
  | none => s
  | some g =>
    if g.state = gFORMING && g.others.contains rank && !g.acked.contains rank then
      s.sendCtl g rank cJOIN 0 0 g.formGen [(40, 0, 8, s.colLevel), (42, 0, 16, g.rank)]
    else s

/-- FORM_TO passes (Table 13-4). -/
def execFormTimeout (gid : Nat) (s : State) : Host.Outcome State Fault Refusal := s.upd fun s =>
  match s.group gid with
  | none => s
  | some g =>
    if g.state ≠ gFORMING then s
    else
      let rank := (g.others.find? fun r => !g.acked.contains r).getD 0
      s.groupLost gid 0x033 (rank + gid * 2 ^ 16) 2

end Sys2Proof.Machine
end

