-- ==== Sys2Proof/Machine/Route.lean ====
section
/-! DEFINITION. Routing passes: arm, scoring, expert choice, dispatch and scatter (R46 to R104). -/
namespace Sys2Proof.Machine

/-! ### Descriptor, profile and dispatch block (Tables 02-1, 02-14, 03-1, 03-2) -/

def rpProfile (d : Line) : Nat := lfield d 16 0 4
def rpScores (d : Line) : Bool := lfield d 16 4 1 == 1
def rpMask (d : Line) : Nat := lnum d 17 1
def rpLayer (d : Line) : Nat := lnum d 18 2
def rpTokens (d : Line) : Nat := lfield d 20 0 17
def rpSrc (d : Line) : Nat := lnum d 24 8
def rpRw (d : Line) : Nat := lnum d 32 8
def rpWork (d : Line) : Nat := lnum d 40 8
def rpBlk (d : Line) : Nat := lnum d 48 8
def rpWbase (d : Line) : Nat := lfield d 56 0 20
def rpDprof (d : Line) : Nat := lfield d 56 20 4

def RouteRun.experts (r : RouteRun) : Nat := bits r.selcfg 0 14
def RouteRun.kmax (r : RouteRun) : Nat := bits r.selcfg 16 5
def RouteRun.orphan (r : RouteRun) : Nat := bits r.selcfg 25 2
def RouteRun.fbexp (r : RouteRun) : Nat := bits r.fallback 0 13
def RouteRun.fbcap (r : RouteRun) : Nat := bits r.fallback 16 16
/-- RFMT, OFMT, CMODE and RESADD of a dispatch profile. -/
def dspRfmt (c : Nat) : Nat := bits c 0 1
def dspOfmt (c : Nat) : Nat := bits c 1 1
def dspArrival (c : Nat) : Bool := bit c 2
def dspResadd (c : Nat) : Bool := bit c 3
def dspTc (c : Nat) : Nat := bits c 4 3

/-- `n` bytes of the dispatch block from byte `o`. -/
def blkF (b o n : Nat) : Nat := bits b (8 * o) (8 * n)

/-- Row stride of `n` bytes, the record size (R100), and RSTRIDE (Table 03-10). -/
def recBytes (xbytes : Nat) : Nat := 64 + up64 xbytes
def rstride (owidth fmt : Nat) : Nat := up64 (owidth * (if fmt = 0 then 2 else 4))

/-- The work area (Table 02-6): scratch size, key-row stride, and the whole. -/
def scratchBytes (e : Nat) : Nat := roundUp (1024 * e + 4 * e + 128) 4096
def keyStride (e : Nat) : Nat := up64 (4 * e)
def workBytes (e t k : Nat) : Nat := 4096 + scratchBytes e + t * keyStride e + t * k * 16

/-- The Postilions of a mask. -/
def postsOf (m : Nat) : List Nat := bitsSet 8 m
def Dev.postmap (s : Dev) : Nat := s.fld Reg.SIZ_ROUTE 8 8
/-- The Postilion that does the work which a POSTMASK `posts` gives to `p` (R500): where it is parked, the lowest of the
POSTMASK that is available, or else the lowest available. -/
def Dev.postFor (s : Dev) (posts : List Nat) (p : Nat) : Nat :=
  if bit s.postmap p then p else (posts.filter (bit s.postmap) ++ bitsSet 8 s.postmap).headD p
/-- An armed command has work for Postilion `p`: a routing pass or an exchange that names it, or names one in whose place it
works (Table 17-1). DEDUCED (log entry 189): the work is held until the command completes, since no later stage of a command is
among the sources that wake a Postilion. -/
def Dev.postHeld (s : Dev) (p : Nat) : Bool :=
  let named (posts : List Nat) : Bool := posts.any fun q => s.postFor posts q == p
  s.cmds.any fun c => match c.body with
    | .route _ => named (postsOf (rpMask c.desc))
    | .exch r => named r.x.posts
    | _ => false
/-- A Postilion that has work leaves its gate (Table 17-1). -/
def Dev.postsWake (s : Dev) : Dev := s.each ((List.range 8).filter s.postHeld) fun s p => s.ungate (.postilion p)
/-- A POSTMASK of 0, or one that names a Postilion that is not available. -/
def Dev.maskBad (s : Dev) (m : Nat) : Bool := m == 0 || (postsOf m).any fun p => !bit s.postmap p

/-- The parameter block of R63, and that of R97. -/
def paramDigest (layer selcfg capC fallback seq : Nat) : Nat :=
  crc32c (leBytes 2 layer ++ leBytes 2 (bits selcfg 0 14) ++ leBytes 4 capC ++ leBytes 1 (bits selcfg 16 5)
    ++ leBytes 1 (bits selcfg 24 6) ++ leBytes 2 (bits fallback 0 13) ++ leBytes 4 seq ++ leBytes 16 0)
def dispatchDigest (wbase xbytes owidth rfmt seq : Nat) : Nat :=
  crc32c (leBytes 4 wbase ++ leBytes 4 xbytes ++ leBytes 2 owidth ++ leBytes 1 rfmt ++ leBytes 1 0 ++ leBytes 4 seq)

/-! ### Checks at arm (R86, R89) -/

/-- ROUTE/0x001 and ROUTE/0x002, in ascending byte offset. -/
def Dev.routeSelBad (s : Dev) (d : Line) : Option Refuse :=
  let p := rpProfile d
  let e := s.fld (Reg.PST_SELCFG p) 0 14
  let k := s.fld (Reg.PST_SELCFG p) 16 5
  let w := rpWork d
  let n := workBytes e (rpTokens d) k
  if lfield d 16 5 3 ≠ 0 || e = 0 || s.fld (Reg.PST_CAP p) 0 24 = 0 || (!rpScores d && s.fld (Reg.PST_WIDTH p) 0 16 == 0)
  then some ⟨clsROUTE, 1, 16⟩
  else if s.maskBad (rpMask d) then some ⟨clsROUTE, 1, 17⟩
  else if lfield d 20 17 15 ≠ 0 || 65536 < rpTokens d then some ⟨clsROUTE, 1, 20⟩
  else if rpSrc d % 64 ≠ 0 then some ⟨clsROUTE, 2, rpSrc d⟩
  else if !rpScores d && rpRw d % 64 != 0 then some ⟨clsROUTE, 2, rpRw d⟩
  else if w % 4096 ≠ 0 || !s.placed w n then some ⟨clsROUTE, 2, w⟩
  else none

/-- The dispatch block (R88): read once at arm; none where it cannot be. -/
def Dev.readBlk (s : Dev) (a : Nat) : Dev × Option Nat :=
  if a % 64 ≠ 0 || !inCH a 128 then (s, none)
  else match s.unitRead a 128 with
    | (s, some bs) => (s, some (leNat bs))
    | (s, none) => (s, none)

/-- A dispatch profile or the WYB registers break R89. -/
def Dev.dspProfBad (s : Dev) (p : Nat) (v : Bool) : Bool :=
  let c := s.reg (Reg.PST_DSPCFG p)
  let x := s.fld (Reg.PST_XBYTES p) 0 17
  let o := s.fld (Reg.PST_OWIDTH p) 0 16
  x == 0 || o == 0 || (dspResadd c && x != 2 * o) || (dspArrival c && !v)
def Dev.slotTableBad (s : Dev) : Bool := !inCH (s.reg Reg.WYB_SLOTBASE) (max 1 (64 * s.fld Reg.WYB_CFG 0 13))
def Dev.waybillBad (s : Dev) : Bool := !inCH (s.reg Reg.WYB_BASE) (2 ^ 24) || s.slotTableBad

/-- An area lies wholly in the Coach House or wholly in HBM (R89); one of no bytes has its address there. -/
def Dev.areaIn (s : Dev) (a n : Nat) : Bool := s.placed a (max 1 n)

/-- The first bad field of a dispatch block, as its offset in the block. -/
def Dev.blkBad (s : Dev) (d : Line) (b : Nat) : Option Nat :=
  let c := s.reg (Reg.PST_DSPCFG (rpDprof d))
  let o := s.fld (Reg.PST_OWIDTH (rpDprof d)) 0 16
  let a (n : Nat) : Nat := blkF b n 8
  if a 0 % 64 ≠ 0 then some 0
  else if a 8 % 4096 ≠ 0 || !s.areaIn (a 8) (4096 * blkF b 48 4) then some 8
  else if a 16 % 4096 ≠ 0 || !s.areaIn (a 16) (4096 * blkF b 52 4) then some 16
  else if a 24 % 64 ≠ 0 || !s.areaIn (a 24) (rpTokens d * rstride o (dspOfmt c)) then some 24
  else if a 32 ≠ rpWork d then some 32
  else if a 40 = 0 || !ctrOk (a 40) then some 40
  else if bits b (8 * 56 + 12) 4 ≠ 0 then some 56
  else if blkF b 58 6 ≠ 0 then some 58
  else if !ctrOk (a 64) then some 64
  else if blkF b 80 48 ≠ 0 then some 80
  else none

/-- ROUTE/0x00E, in the order of R89: its detail. -/
def Dev.routeDspBad (s : Dev) (d : Line) (blk : Option Nat) : Option Nat :=
  let p := rpProfile d
  let e := s.fld (Reg.PST_SELCFG p) 0 14
  let fb := s.fld (Reg.PST_SELCFG p) 25 2 == 1 && decide (1048575 < rpWbase d + s.fld (Reg.PST_FALLBACK p) 0 13)
  match blk with
  | none => some 48
  | some b =>
    if lfield d 56 24 8 ≠ 0 || 1048575 < rpWbase d + e - 1 || fb || s.dspProfBad (rpDprof d) (dV d) || s.waybillBad then some 56
    else if lnum d 60 4 ≠ 0 then some 60
    else (s.blkBad d b).map (0x100 + ·)

/-- The routing pass in flight whose work area a new one overlaps (R84, R86): where it overlaps several, the earliest armed,
and those that are being killed last (DESIGN CHOICE, log entry 175: Table 02-11 names one generation). -/
def Dev.workClash (s : Dev) (a n : Nat) : Option Nat :=
  ((s.cmds ++ s.dying.map (·.cmd)).find? fun c => match c.body with
    | .route r => overlaps a n (rpWork c.desc) (workBytes r.experts (rpTokens c.desc) r.kmax)
    | _ => false).map (·.gen)

/-- What refuses a routing pass, in the order of R594 and R86. -/
def Dev.routeBad (s : Dev) (d : Line) : Dev × Option Refuse :=
  let p := rpProfile d
  let gid := s.fld (Reg.PST_GROUP p) 0 16
  match s.headCheck d with
  | some r => (s, some r)
  | none => match s.routeSelBad d with
    | some r => (s, some r)
    | none =>
      let (s, blk) := s.readBlk (rpBlk d)
      match s.routeDspBad d blk with
      | some k => (s, some ⟨clsROUTE, 0x00E, k⟩)
      | none =>
        let formed := match s.group gid with | some g => g.state == gFORMED | none => false
        if !formed then (s, some ⟨clsROUTE, 0x00A, gid⟩)
        else match s.workClash (rpWork d) (workBytes (s.fld (Reg.PST_SELCFG p) 0 14) (rpTokens d) (s.fld (Reg.PST_SELCFG p) 16 5)) with
          | some g => (s, some ⟨clsROUTE, 3, g⟩)
          | none => if 64 ≤ s.groupHeld gid then (s, some ⟨clsFAB, 0x031, gid⟩) else (s, none)

/-! ### Stages and shares (R48, R84) -/

def Dev.routeOf (s : Dev) (g : Nat) : Option RouteRun :=
  match s.cmd g with
  | some c => match c.body with
    | .route r => some r
    | _ => none
  | none => none
def Dev.setRoute (s : Dev) (g : Nat) (f : RouteRun → RouteRun) : Dev :=
  s.updCmd g fun c => match c.body with
    | .route r => { c with body := .route (f r) }
    | _ => c

/-- Shares of a pass: the Postilions of its POSTMASK, in order. -/
def routeShares (d : Line) : List (Nat × Nat) := (List.range (postsOf (rpMask d)).length).zip (postsOf (rpMask d))

/-- A stage begins, with a share for every Postilion; a share that JUNIT moved stays moved (R500). -/
def Dev.stageTo (s : Dev) (g : Nat) (st : RStage) : Dev :=
  match s.cmd g with
  | none => s
  | some c =>
    let on := s.postFor (postsOf (rpMask c.desc))
    s.setRoute g fun r => { r with stage := st, left := (routeShares c.desc).map fun x => (x.1, on x.2) }

/-- The stage is a stage of shares. -/
def RStage.shared : RStage → Bool
  | .score | .hist | .tie | .cap | .count | .scatter => true
  | _ => false

/-- The experts of share `i` of `n` (R48; DESIGN CHOICE, log entry 220: the rule says contiguous ranges and not where they are
cut). -/
def shareExperts (e n i : Nat) : List Nat := (List.range e).filter fun x => decide (i * e / n ≤ x) && decide (x < (i + 1) * e / n)

/-- A run of reads: the bytes of each span, or none from the first that faults. -/
def Dev.readSpans (g : Nat) : List (Nat × Nat) → Dev → Dev × Option (List (List Byte))
  | [], s => (s, some [])
  | (a, n) :: xs, s =>
    match (if n = 0 then (s, some []) else s.cmdRead g a n) with
    | (s, none) => (s, none)
    | (s, some b) => match Dev.readSpans g xs s with
      | (s, some bs) => (s, some (b :: bs))
      | (s, none) => (s, none)

/-- Several spans written together (R81, R104, R124): all of them, or none where one faults, and then false. -/
def Dev.writeSpans (g : Nat) (xs : List (Nat × List Byte)) (s : Dev) : Dev × Bool :=
  let xs := xs.filter fun x => !x.2.isEmpty
  match xs.find? fun x => (s.spanFault x.1 x.2.length true).isSome with
  | some x => s.cmdWrite g x.1 x.2
  | none => (s.each xs fun s x => (s.cmdWrite g x.1 x.2).1, true)

/-- Element `i` of a row of BF16 values. -/
def bf16At (row : List Byte) (i : Nat) : FV := decodeF fmtBF16 (elemAt row 2 i)

/-- The scoring share of the experts `es` (R51, R53, R54, R55): keys into the key matrix, NaN scores counted. The first NaN
score of the pass, which ROUTE/0x007 names, is taken in the first share dispatched that holds one, there of the lowest token,
and of that token the lowest expert (DESIGN CHOICE, log entry 176: R55 gives the scores no order). -/
def Dev.scoreShare (s : Dev) (g : Nat) (d : Line) (r : RouteRun) (es : List Nat) : Dev × Bool :=
  let t := rpTokens d
  let w := r.width
  let st := up64 (2 * w)
  let ks := keyStride r.experts
  let lo := es.headD 0
  let m := rpWork d + 4096 + scratchBytes r.experts
  let (s, rows) := Dev.readSpans g ((List.range t).map fun i =>
    if rpScores d then (rpSrc d + i * ks + 4 * lo, 4 * es.length) else (rpSrc d + i * st, 2 * w)) s
  match rows with
  | none => (s, false)
  | some rows =>
    let (s, ws) := if rpScores d || t = 0 then (s, some []) else Dev.readSpans g (es.map fun e => (rpRw d + e * st, 2 * w)) s
    match ws with
    | none => (s, false)
    | some ws =>
      let score (row : List Byte) (i : Nat) : Nat :=
        if rpScores d then elemAt row 4 i else routeScore w (bf16At row) (bf16At (nth ws i []))
      let scores := rows.map fun row => (List.range es.length).map (score row)
      let nan (x : Nat) : Bool := (f32 x).isNaN
      let n := (scores.map fun row => (row.filter nan).length).sum
      let first := (List.range t).findSome? fun i => ((nth scores i []).findIdx? nan).map fun j => (i, lo + j)
      let s := match first with
        | some (i, e) => if r.nans = 0 then s.record clsROUTE 7 (i + e * 2 ^ 16) g blkPST (maskInst d) else s
        | none => s
      let s := s.setRoute g fun r => { r with nans := r.nans + n }
      Dev.writeSpans g ((List.range t).map fun i =>
        (m + i * ks + 4 * lo, (nth scores i []).flatMap fun x => leBytes 4 (scoreKey x))) s

/-- The key matrix of a pass. -/
def Dev.routeKeys (s : Dev) (g : Nat) (d : Line) (r : RouteRun) : Dev × Option (List (List Nat)) :=
  let m := rpWork d + 4096 + scratchBytes r.experts
  let (s, rows) := Dev.readSpans g ((List.range (rpTokens d)).map fun i => (m + i * keyStride r.experts, 4 * r.experts)) s
  (s, rows.map fun rows => rows.map fun row => (List.range r.experts).map (elemAt row 4))

/-! ### Selection on this member -/

/-- Kept picks of a token. -/
def keptOf (ps : List Pick) (t : Nat) : List Pick := ps.filter fun p => p.token == t

/-- The local candidates of expert `e` in the current round: token and key (R58, R68). -/
def RouteRun.cands (r : RouteRun) (keys : List (List Nat)) (e : Nat) : List (Nat × Nat) :=
  let all := (List.range keys.length).map fun t => (t, nth (nth keys t []) e 0)
  if r.round = 1 then all
  else all.filter fun c => !(r.took1.any fun p => p.token == c.1 && p.expert == e)
    && decide ((keptOf r.kept c.1).length < r.kmax)

def RouteRun.openEs (r : RouteRun) : List Nat := (List.range r.experts).filter fun e => (nth r.sel e (ESel.start 0)).isOpen
def RouteRun.tiedEs (r : RouteRun) : List Nat := (List.range r.experts).filter fun e => (nth r.sel e (ESel.start 0)).isTie
def RouteRun.eSel (r : RouteRun) (e : Nat) : ESel := nth r.sel e (ESel.start 0)

/-- The body of a histogram reduction (Table 02-4). -/
def RouteRun.histBody (r : RouteRun) (keys : List (List Nat)) : List Nat :=
  let bins := r.openEs.flatMap fun e => localHist (r.eSel e) r.pass ((r.cands keys e).map (·.2))
  let demand := if r.round = 1 && r.pass = 1 then
    let pref := keys.map preferred
    (List.range r.experts).map fun e => (pref.filter (· == e)).length
  else []
  bins ++ demand

/-- The body of a tie step. -/
def RouteRun.tieBody (r : RouteRun) (keys : List (List Nat)) : List Nat :=
  r.tiedEs.map fun e => ((r.cands keys e).filter fun c => c.2 == (r.eSel e).prefx).length

/-- The picks that the experts take in this round (R59, R61). -/
def RouteRun.taken (r : RouteRun) (keys : List (List Nat)) : List Pick :=
  (List.range r.experts).flatMap fun e =>
    let q := match r.scanQ.find? fun x => x.1 == e with | some x => x.2 | none => 0
    ((r.eSel e).takeLocal q (r.cands keys e)).map fun c => ⟨c.1, e, if r.round = 1 then 0 else 1, c.2⟩

/-- Of the picks taken in this round, those that the cap keeps (R65, R66, R68). -/
def RouteRun.capped (r : RouteRun) (t : Nat) (took : List Pick) : List Pick :=
  (List.range t).flatMap fun i => capKeep (r.kmax - (keptOf r.kept i).length) (keptOf took i)

/-! ### Reductions (R62, R64, R404, R405) -/

/-- The reduction header (Table 02-3). -/
def redHeader (digest : Nat) (refused : Bool) (wintok : Nat) : List Byte :=
  leBytes 4 digest ++ leBytes 4 refused.toNat ++ leBytes 8 wintok ++ leBytes 48 0

/-- Bytes of the result for one count. -/
def RedKind.width : RedKind → Nat
  | .both => 8
  | _ => 4

/-- What this member sends to the owner of segment `j` in phase 0: the header, then its counts of that segment (DESIGN CHOICE,
log entry 145: R62 gives header and body, and R404 the segments, but not which stream carries the header). -/
def RedRun.part (m : RedRun) (n j : Nat) : List Byte :=
  let lo := segLo m.body.length n j
  redHeader m.digest m.refused m.wintok
    ++ ((m.body.drop lo).take (segLo m.body.length n (j + 1) - lo)).flatMap (leBytes 4)

/-- The transfers of a reduction in the two phases of R404, each with a window of 16 steps (R62): contributions land in
barrows, results at `dst`. -/
def RedRun.xfer (m : RedRun) (gr : Group) (xid ord stalls : Nat) : Xfer :=
  let n := gr.n
  let w := m.kind.width
  let lo (j : Nat) : Nat := segLo m.body.length n j
  let cnt (j : Nat) : Nat := lo (j + 1) - lo j
  let ss := (List.range n).filter (· != 0)
  let to_ (i : Nat) : Nat := (gr.rank + i) % n
  let from_ (i : Nat) : Nat := (gr.rank + n - i) % n
  ⟨gr.gid, 1, xid, ord, 16, 0, 0, [],
    (ss.map fun i => let b := m.part n (to_ i); sendOf i 0 (to_ i) (.bytes b) b.length)
      ++ ss.map (fun i => sendOf i 1 (to_ i) (.bytes []) (w * cnt gr.rank)),
    (ss.map fun i => recvOf i 0 (from_ i) .barrows (64 + 4 * cnt gr.rank))
      ++ ss.map (fun i => let p := from_ i; recvOf i 1 p (.mem (m.dst + w * lo p)) (w * cnt p)),
    stalls, true, []⟩

/-- A reduced header at which the pass is killed (R57, R64, R98): in the first reduction and in the dispatch scan. -/
def RedRun.fails (m : RedRun) (h : Option Nat × List Nat × Nat) : Bool :=
  ((m.x.ord == 0 || m.kind == .both) && (h.1.isSome || !h.2.1.isEmpty)) || (m.x.ord == 0 && decide (4294967295 < h.2.2))

/-- Running sums modulo 2^32 of one count over the ranks in order: one more than there are ranks. -/
def runSums (acc : Nat) : List Nat → List Nat
  | [] => [acc]
  | x :: xs => acc :: runSums ((acc + x) % 2 ^ 32) xs

/-- This member has every contribution to its segment (R62, R405): it reduces the header and, unless that kills the pass,
sums its counts modulo 2^32, forms the scans in rank order, writes its own result, and makes ready what phase 1 sends. -/
def Dev.closeRed (s : Dev) (g : Nat) (m : RedRun) (gr : Group) : Dev × Bool :=
  let n := gr.n
  let steps := m.x.recvs.filter fun y => y.phase == 0
  let got := (List.range n).map fun q => if q = gr.rank then m.part n q
    else match steps.find? fun y => y.peer == q with | some y => s.segBytes y | none => []
  let hd (q o k : Nat) : Nat := leNat (((nth got q []).drop o).take k)
  let head : Option Nat × List Nat × Nat :=
    ((List.range n).find? fun q => hd q 0 4 != hd 0 0 4, (List.range n).filter fun q => hd q 4 4 != 0,
      ((List.range n).map fun q => hd q 8 8).sum % 2 ^ 64)
  let s := s.freePlaces 1 (steps.flatMap (·.places))
  let lo := segLo m.body.length n gr.rank
  let cnt := segLo m.body.length n (gr.rank + 1) - lo
  let sums := (List.range cnt).map fun i => runSums 0 (got.map fun b => elemAt (b.drop 64) 4 i)
  let out (q : Nat) : List Byte := sums.flatMap fun c => match m.kind with
    | .sum => leBytes 4 (nth c n 0)
    | .scan => leBytes 4 (nth c q 0)
    | .both => leBytes 4 (nth c q 0) ++ leBytes 4 (nth c n 0)
  let fin (x : Xfer) : Xfer := { x with
    recvs := x.recvs.map fun y => if y.phase = 0 then { y with places := [] } else y
    sends := if m.fails head then x.sends
      else x.sends.map fun y => if y.phase = 1 then { y with src := .bytes (out y.peer) } else y }
  let s := s.setRoute g fun r => { r with red := r.red.map fun m => { m with head := some head, x := fin m.x } }
  if m.fails head || cnt = 0 then (s, true) else s.cmdWrite g (m.dst + m.kind.width * lo) (out gr.rank)

/-- A reduction goes on after an event: its steps begin, phase 1 once this member's segment is written (R404). -/
def Dev.redProgress (s : Dev) (g : Nat) : Dev :=
  let red (s : Dev) : Option RedRun := (s.routeOf g).bind fun r => r.red
  match s.routeOf g, red s with
  | some r, some m => match s.group r.group with
    | none => s
    | some gr =>
      let (s, ok) := Dev.beginSteps g 0 m.x.sends s
      if !ok then s.groupFault g 7 2
      else match red s with
        | none => s
        | some m =>
          let whole := m.head.isNone && (m.x.recvs.filter fun y => y.phase == 0).all (·.done)
          let (s, ok) := if whole then s.closeRed g m gr else (s, true)
          if !ok then s.groupFault g 7 2
          else match red s with
            | none => s
            | some m => match m.head with
              | none => s
              | some h =>
                let (s, ok) := if m.fails h then (s, true) else Dev.beginSteps g 1 m.x.sends s
                if ok then s else s.groupFault g 7 2
  | _, _ => s

/-- The reduction under way is complete on this member: its result has landed and all that it sent is counted; or its header
kills the pass, and every member has this member's contribution (R64). -/
def RedRun.ready (m : RedRun) : Bool :=
  match m.head with
  | none => false
  | some h =>
    if m.fails h then (m.x.sends.filter fun y => y.phase == 0).all (·.done)
    else m.x.sends.all (·.done) && m.x.recvs.all (·.done)

/-- This member takes part in the next reduction of a pass: an OFFER that waits for it is kept, and its steps begin. -/
def Dev.contribute (s : Dev) (g digest : Nat) (refused : Bool) (wintok : Nat) (body : List Nat) (st : RStage) (kind : RedKind)
    (dst : Nat) : Dev :=
  match s.routeOf g with
  | none => s
  | some r => match s.group r.group with
    | none => s
    | some gr =>
      let m0 : RedRun := ⟨⟨gr.gid, 1, r.seq, r.ord, 16, 0, 0, [], [], [], r.stalls, true, []⟩, kind, digest, refused, wintok, body, dst, none⟩
      let m := { m0 with x := m0.xfer gr r.seq r.ord r.stalls }
      let s := s.setRoute g fun r => { r with stage := st, left := [], red := some m }
      let held := gr.slots.filter fun y => y.2.1 == 1 && !y.2.2.1 && y.2.2.2.xid == r.seq % 2 ^ 32 && y.2.2.2.f 57 0 8 == r.ord % 256
      let s := s.updGroup gr.gid fun x => { x with slots := x.slots.filter fun y => !held.contains y }
      (s.each held fun s y => s.acceptOffer g y.1 y.2.2.2).redProgress g

/-- A refused pass takes part in its first reduction (R64, R401): it is done once all that it sends is counted, and all that the
others send it has come. -/
def Dev.refusalProgress (s : Dev) (k : Nat) : Dev :=
  match s.col.refusals.find? fun z => z.key == k with
  | none => s
  | some z =>
    if z.x.sends.all (·.done) && z.x.recvs.all (·.done) then
      let s := s.closeX k
      { s with col := { s.col with refusals := s.col.refusals.filter fun z => z.key != k } }
    else (Dev.beginSteps k 0 z.x.sends s).1

/-- A refused pass takes part in its first reduction with REFUSED = 1 and an empty body (R64): it sends its header to every
other member, and grants and reports what the others send it, so that their steps end; nothing of that is kept. Its carriages
show GEN 0 (DESIGN CHOICE, log entry 145: a refused command has no generation, and the spec gives what comes to it no place).
An ABORT that waits for the instance ends it. -/
def Dev.refusePass (s : Dev) (gr : Group) (digest tokens : Nat) : Dev :=
  let seq := nth gr.seqs 1 0
  let k := 2 ^ 64 * (seq * 65536 + gr.gid + 1)
  let b := redHeader digest true tokens
  let ss := (List.range gr.n).filter (· != 0)
  let x : Xfer := ⟨gr.gid, 1, seq, 0, 16, 0, 0, [],
    ss.map (fun i => sendOf i 0 ((gr.rank + i) % gr.n) (.bytes b) b.length),
    ss.map (fun i => recvOf i 0 ((gr.rank + gr.n - i) % gr.n) .drop 64), 0, true, []⟩
  let s := s.takeSeq gr.gid 1
  let held := gr.slots.filter fun y => y.2.1 == 1 && y.2.2.2.xid == seq % 2 ^ 32 && (y.2.2.1 || y.2.2.2.f 57 0 8 == 0)
  let s := s.updGroup gr.gid fun x => { x with slots := x.slots.filter fun y => !held.contains y }
  if held.any (·.2.2.1) then s
  else
    let s : Dev := { s with col := { s.col with refusals := s.col.refusals ++ [⟨k, x⟩] } }
    (s.each held fun s y => s.acceptOffer k y.1 y.2.2.2).refusalProgress k

/-- Where the result of a selection reduction lands in the reduction scratch (Table 02-6): behind 128 bytes (DESIGN CHOICE, log
entry 145: the table gives the scratch its size and no layout). -/
def redDst (d : Line) : Nat := rpWork d + 4096 + 128

/-- DIGEST of the selection reductions of a pass. -/
def routeDigest (d : Line) (r : RouteRun) : Nat := paramDigest (rpLayer d) r.selcfg r.capC r.fallback r.seq

/-- The shares of a counting stage are done: this member's contribution (R58, R61, R67). -/
def Dev.selContribute (s : Dev) (g : Nat) (d : Line) (r : RouteRun) : Dev :=
  match s.routeKeys g d r with
  | (s, none) => s.groupFault g 7 2
  | (s, some keys) =>
    let dg := routeDigest d r
    match r.stage with
    | .hist => s.contribute g dg false (if r.ord = 0 then rpTokens d else 0) (r.histBody keys) .histR .sum (redDst d)
    | .tie => s.contribute g dg false 0 (r.tieBody keys) .tieR .scan (redDst d)
    | _ =>
      let took := r.taken keys
      let keep := r.capped (rpTokens d) took
      let dec := (List.range r.experts).map fun e =>
        (took.filter fun p => p.expert == e).length - (keep.filter fun p => p.expert == e).length
      let s := s.setRoute g fun r => { r with
        took := took
        took1 := if r.round = 1 then took else r.took1
        kept := r.kept ++ keep
        declined := if r.round = 1 then dec.sum else r.declined
        rdeclined := if r.round = 1 then r.rdeclined else dec.sum }
      s.contribute g dg false 0 dec .capR .sum (redDst d)

/-! ### The selection commit (R70 to R81) -/

/-- Tokens with no kept pick. -/
def RouteRun.orphans (r : RouteRun) (t : Nat) : List Nat := (List.range t).filter fun i => (keptOf r.kept i).isEmpty

/-- The pick list: pick, rank, gate (R73 to R75). -/
def RouteRun.pickList (r : RouteRun) (t : Nat) : List (Pick × Nat × Nat) :=
  let fb := if r.orphan = 1 then (r.orphans t).take r.fbcap else []
  (List.range t).flatMap fun i =>
    let ps := (keptOf r.kept i).mergeSort fun a b => decide (a.expert ≤ b.expert)
    let gs := gateValues (bits r.selcfg 27 2) (bit r.selcfg 29) (ps.map (·.key))
    let own := (List.range ps.length).map fun k => (nth ps k ⟨i, 0, 0, 0⟩, k, nth gs k 0)
    if fb.contains i then [(⟨i, r.fbexp, 2, 0⟩, 0, 0x3F800000)] else own

/-- The selection report (Table 02-10). -/
def RouteRun.report (r : RouteRun) (g t picks fbTaken fbOver orphans : Nat) : List Byte :=
  let refilled := (r.kept.filter fun p => p.src == 1).length
  let short := (r.keptG.filter (· < r.capC)).length
  let total := (r.keptG.map (r.capC - ·)).sum
  leBytes 4 g ++ leBytes 1 r.passes ++ leBytes 1 r.rpasses ++ leBytes 1 r.flags ++ leBytes 1 0 ++ leBytes 8 r.winTok
    ++ leBytes 4 t ++ leBytes 4 picks ++ leBytes 4 r.declined ++ leBytes 4 refilled ++ leBytes 4 r.rdeclined
    ++ leBytes 4 orphans ++ leBytes 4 fbTaken ++ leBytes 4 fbOver ++ leBytes 4 r.nans ++ leBytes 4 short ++ leBytes 8 total
    ++ leBytes 8 r.declG ++ leBytes 4 r.maxDem ++ leBytes 2 r.maxDemE ++ leBytes 2 0 ++ leBytes 4 r.overC
    ++ leBytes 4 r.tied ++ leBytes 168 0

/-- The selection stage commits (R81), and dispatch begins. Each pass with orphans beyond FBCAP records ROUTE/0x008 once, at
its commit (DEDUCED, log entry 177: Table 02-11 speaks of the first orphan in the pass, R71 of the first such pass). -/
def Dev.selCommit (s : Dev) (g : Nat) : Dev :=
  match s.cmd g, s.routeOf g with
  | some c, some r =>
    let d := c.desc
    let t := rpTokens d
    let w := rpWork d
    let list := r.pickList t
    let orph := (r.orphans t).length
    let taken := (list.filter fun x => x.1.src == 2).length
    let beyond := if r.orphan = 1 then orph - taken else 0
    let m := w + 4096 + scratchBytes r.experts + t * keyStride r.experts
    let (s, ok) := Dev.writeSpans g
      [(w, r.report g t (list.length - taken) taken beyond orph), (w + 4096, r.keptG.flatMap (leBytes 4)),
       (m, list.flatMap fun x => pickRecord x.1 x.2.1 x.2.2)] s
    if !ok then s.groupFault g 7 2
    else
      let s := if beyond ≠ 0 then s.record clsROUTE 8 beyond g blkPST (maskInst d) else s
      let s := if bit r.selcfg 30 && r.overC != 0 then s.record clsROUTE 9 r.maxDemE g blkPST (maskInst d) else s
      let s := ((s.bump Reg.PST_CNT_RPASS 1).bump Reg.PST_CNT_DECLINED (r.declined + r.rdeclined)).bump Reg.PST_CNT_ORPHAN orph
      let s := (s.bump Reg.PST_CNT_FBOVF beyond).bump Reg.PST_CNT_NAN r.nans
      let s := if r.overC ≠ 0 then s.bump Reg.PST_CNT_SKEW 1 else s
      (s.setRoute g fun r => { r with list := list }).stageTo g .count
  | _, _ => s

/-! ### Reductions complete -/

/-- A pass killed on every member by what its reduction shows. -/
def Dev.routeDie (s : Dev) (g code detail : Nat) : Dev :=
  let i := match s.cmd g with | some c => maskInst c.desc | none => 0
  (s.record clsROUTE code detail g blkPST i).groupKill g 2 false

/-- A histogram reduction is complete (R57, R58, R64, R77). A first reduction that shows both a mismatch and a total above the
limit records ROUTE/0x004 only (DESIGN CHOICE, log entry 178: the spec gives no order). -/
def Dev.histDone (s : Dev) (g : Nat) (r : RouteRun) (x : Reduced) : Dev :=
  if r.ord = 0 && (x.digestBad.isSome || x.refused != 0) then s.routeDie g 4 (x.digestBad.getD 0xFFFF)
  else if r.ord = 0 && decide (4294967295 < x.wintok) then s.routeDie g 5 x.wintok
  else
    let es := r.openEs
    let sel := (List.range r.experts).map fun e => match es.findIdx? (· == e) with
      | some k => (r.eSel e).step r.pass fun b => nth x.sums (256 * k + b) 0
      | none => r.eSel e
    let dem := (List.range r.experts).map fun e => nth x.sums (256 * es.length + e) 0
    let top := dem.foldl max 0
    let r1 : RouteRun := { r with
      sel := sel, ord := r.ord + 1, scanQ := []
      passes := if r.round = 1 then r.pass else r.passes
      rpasses := if r.round = 1 then r.rpasses else r.pass
      winTok := if r.ord = 0 then x.wintok else r.winTok
      maxDem := if r.ord = 0 then top else r.maxDem
      maxDemE := if r.ord = 0 then dem.findIdx (· == top) else r.maxDemE
      overC := if r.ord = 0 then (dem.filter (r.capC < ·)).length else r.overC }
    let ties := r1.tiedEs.length
    if r1.openEs.isEmpty || r.pass = 4 then
      let r1 := if ties = 0 then r1 else { r1 with
        flags := r1.flags ||| (if r.round = 1 then 1 else 4), tied := if r.round = 1 then ties else r1.tied }
      (s.setRoute g fun _ => r1).stageTo g (if ties = 0 then .cap else .tie)
    else (s.setRoute g fun _ => { r1 with pass := r.pass + 1 }).stageTo g .hist

/-- A cap step is complete (R67, R68, R69). -/
def Dev.capDone (s : Dev) (g : Nat) (r : RouteRun) (x : Reduced) : Dev :=
  let kept := (List.range r.experts).map fun e =>
    (if r.round = 1 then 0 else nth r.keptG e 0) + ((r.eSel e).got - nth x.sums e 0)
  let r1 : RouteRun := { r with
    keptG := kept, ord := r.ord + 1, declG := if r.round = 1 then x.sums.sum else r.declG }
  if r.round = 1 && bit r.selcfg 24 && kept.any (· < r.capC) then
    let r1 := { r1 with round := 2, pass := 1, flags := r1.flags ||| 2, scanQ := []
                        sel := kept.map fun k => ESel.start (r.capC - k) }
    (s.setRoute g fun _ => r1).stageTo g .hist
  else (s.setRoute g fun _ => r1).selCommit g

/-! ### Dispatch (R91 to R99) -/

def wbValid (e : Nat) : Bool := bit e 114
def wbNrep (e : Nat) : Nat := bits e 112 2
def wbRep (e j : Nat) : Nat := bits e (16 * j) 16
def wbSlot (e j : Nat) : Nat := bits e (64 + 12 * j) 12
def wbVersion (e : Nat) : Nat := bits e 117 11

/-- The snapshot entry of a pick. -/
def RouteRun.entryOf (r : RouteRun) (p : Pick) : Nat := if p.src = 2 then r.experts else p.expert
/-- The replica to which the member of rank `rank` sends a pick (R94). -/
def RouteRun.replica (r : RouteRun) (rank : Nat) (p : Pick) : Nat := (rank + p.expert) % (wbNrep (nth r.snap (r.entryOf p) 0) + 1)
def RouteRun.sent (r : RouteRun) (p : Pick) : Bool := wbValid (nth r.snap (r.entryOf p) 0)
/-- The picks sent for snapshot entry `x`, ascending local token. -/
def RouteRun.rowsOf (r : RouteRun) (x : Nat) : List (Pick × Nat × Nat) := r.list.filter fun y => r.entryOf y.1 == x && r.sent y.1

/-- The coordinate to which entry `x` sends, where it sends any row. -/
def RouteRun.destOf (r : RouteRun) (rank x : Nat) : Option Nat :=
  match r.rowsOf x with
  | [] => none
  | y :: _ => some (wbRep (nth r.snap x 0) (r.replica rank y.1))

/-- The rows for each rank (R101): ascending snapshot entry, then ascending token. -/
def RouteRun.segment (r : RouteRun) (gr : Group) (k : Nat) : List (Pick × Nat × Nat) :=
  (List.range (r.experts + 1)).flatMap fun x => if (r.destOf gr.rank x).bind gr.rankOf = some k then r.rowsOf x else []

/-- Bytes of the send area and of the combine area (Tables 03-9, 03-10). -/
def sendBytes (n rrec : Nat) (rows : List Nat) : Nat := up64 (8 * n) + (rows.map fun k => 4160 * max 1 (ceilDiv (k * rrec) 4096)).sum
def combBytes (t picks owidth cfg : Nat) : Nat :=
  roundUp (8 * t) 4096 + (if dspArrival cfg then t * up64 (4 * owidth) else picks * rstride owidth (dspRfmt cfg))

/-- The counting shares are done: snapshot, counts, and the checks of R98. A snapshot entry has a chosen replica where this
member sends a row to it (DEDUCED, log entry 179: R94 chooses a replica for the rows of an entry). -/
def Dev.dispContribute (s : Dev) (g : Nat) (d : Line) (r : RouteRun) (gr : Group) : Dev :=
  let e := r.experts
  let sc := rpWork d + 4096
  let entry (i : Nat) : Nat × Nat := (r.wybBase + 16 * (rpWbase d + i), 16)
  let (s, bs) := Dev.readSpans g ((List.range e).map entry ++ (if r.orphan = 1 then [entry r.fbexp] else [])) s
  match bs with
  | none => s.groupFault g 7 2
  | some bs =>
    let snap := (bs.map leNat) ++ (if r.orphan = 1 then [] else [0])
    let (s, ok) := Dev.writeSpans g [(sc + 4 * e, snap.flatMap (leBytes 16))] s
    if !ok then s.groupFault g 7 2
    else
      let r := { r with snap := snap }
      let s := s.setRoute g fun x => { x with snap := snap }
      let un := r.list.filter fun y => !r.sent y.1
      let s := s.bump Reg.PST_CNT_UNSENT un.length
      let s := match un.head? with
        | some y => s.record clsROUTE 0x00F y.1.expert g blkPST (maskInst d)
        | none => s
      let outside := ((List.range (e + 1)).filter fun x => match r.destOf gr.rank x with
        | some c => (gr.rankOf c).isNone
        | none => false).map fun x => if x = e then r.fbexp else x
      let rows := (List.range gr.n).map fun k => (r.segment gr k).length
      let sp := ceilDiv (sendBytes gr.n (recBytes r.xbytes) rows) 4096
      let cp := ceilDiv (combBytes (rpTokens d) r.list.length r.owidth r.dspcfg) 4096
      let s := match outside.min? with
        | some x => s.record clsROUTE 0x00C x g blkPST (maskInst d)
        | none => s
      let badS := blkF r.blk 48 4 < sp
      let badC := blkF r.blk 52 4 < cp
      let s := if badS then s.record clsROUTE 0x00D (bits sp 0 31) g blkPST (maskInst d) else s
      let s := if badC then s.record clsROUTE 0x00D (bits cp 0 31 + 2 ^ 31) g blkPST (maskInst d) else s
      let refused := !outside.isEmpty || badS || badC
      let body := (List.range (e + 1)).flatMap fun x => (List.range 4).map fun j =>
        ((r.rowsOf x).filter fun y => r.replica gr.rank y.1 == j).length
      s.contribute g (dispatchDigest (rpWbase d) r.xbytes r.owidth (dspRfmt r.dspcfg) r.seq) refused 0
        (if refused then [] else body) .countR .both (sc + 20 * e + 16)

/-- The forward exchanges that serve a pass may fix their slots (R114). -/
def Dev.scanReady (s : Dev) (g e sc : Nat) : Dev :=
  { s with cmds := s.cmds.map fun c => match c.body with
    | .exch r => if !r.back && r.pass = g then { c with body := .exch { r with table := some (e, sc) } } else c
    | _ => c }

/-- The dispatch scan is complete (R97, R98). -/
def Dev.countDone (s : Dev) (g : Nat) (d : Line) (r : RouteRun) (x : Reduced) : Dev :=
  if x.digestBad.isSome || x.refused ≠ 0 then s.routeDie g 0x00B (x.digestBad.getD 0xFFFF)
  else
    let s := s.setRoute g fun r => { r with table := x.scan.zip x.sums, ord := r.ord + 1 }
    (s.stageTo g .scatter).scanReady g r.experts (rpWork d + 4096)

/-- The row number of the pick at position `i` among those of its entry (R99). -/
def RouteRun.rowNumber (r : RouteRun) (rank : Nat) (p : Pick) (i : Nat) : Nat :=
  let x := r.entryOf p
  let j := r.replica rank p
  let scan := (nth r.table (4 * x + j) (0, 0)).1
  let before := if p.src = 2 && decide (r.fbexp < r.experts) then (nth r.table (4 * r.fbexp + j) (0, 0)).2 else 0
  (scan + i + before) % 2 ^ 32

/-- The row tag as the source writes it (Table 03-7). -/
def RouteRun.tag (r : RouteRun) (rank g : Nat) (y : Pick × Nat × Nat) (row : Nat) : List Byte :=
  let en := nth r.snap (r.entryOf y.1) 0
  leBytes 2 y.1.token ++ leBytes 1 (y.2.1 + 16 * y.1.src) ++ leBytes 1 0 ++ leBytes 2 (wbSlot en (r.replica rank y.1))
    ++ leBytes 2 (wbVersion en) ++ leBytes 4 row ++ leBytes 2 y.1.expert ++ leBytes 2 0 ++ leBytes 4 g ++ leBytes 44 0

/-- The carriages of one segment (R101, R102): 64-byte header, then the padded chunk, each in a slot of 4,160 bytes. -/
def segSlots (own dst tc : Nat) (bs : List Byte) : List (Nat × List Byte) :=
  let n := ceilDiv bs.length 4096
  (List.range (max 1 n)).map fun c =>
    let pay := padUnits ((bs.drop (4096 * c)).take 4096)
    let h := mkHdr [(0, 0, 16, dst), (2, 0, 16, own), (4, 3, 3, tc), (5, 0, 5, pay.length / 256), (16, 0, 32, c), (24, 0, 32, n)]
    (4160 * c, leBytes 64 h.toNat ++ pay)

/-- The token table (Table 03-10): FIRST, COUNT and FLAGS of each token. -/
def RouteRun.tokenRow (r : RouteRun) (t arrived flags : Nat) : List Byte :=
  let first := (r.list.filter fun y => decide (y.1.token < t)).length
  let mine := r.list.filter fun y => y.1.token == t
  let sent := (mine.filter fun y => r.sent y.1).length
  leBytes 4 first ++ leBytes 1 sent ++ leBytes 1 arrived ++ leBytes 1 (flags + (if sent < mine.length then 1 else 0)) ++ leBytes 1 0

/-! ### The combine stage ends (R119, R120, R124) -/

/-- The pick-list index of the pick of a token at a rank. -/
def RouteRun.pickAt (r : RouteRun) (t rank : Nat) : Option Nat := r.list.findIdx? fun y => y.1.token == t && y.2.1 == rank
def RouteRun.countOf (r : RouteRun) (t : Nat) : Nat := (r.list.filter fun y => y.1.token == t && r.sent y.1).length
def RouteRun.arrivedOf (r : RouteRun) (t : Nat) : Nat :=
  (r.got.filter fun x => match r.list[x.1]? with | some y => y.1.token == t | none => false).length

/-- acc + g * y rounded once to FP32 (R119). -/
def fmaF32 (acc g y : Nat) : Nat := roundF fmtFP32 ((f32 acc).add ((f32 g).mul (f32 y)))
/-- Element `i` of a result row, as FP32. -/
def rowElem (fmt : Nat) (row : List Byte) (i : Nat) : Nat := if fmt = 0 then elemAt row 2 i * 2 ^ 16 else elemAt row 4 i

/-- The starting values of a token (R119). -/
def Dev.accStart (s : Dev) (g : Nat) (r : RouteRun) (t : Nat) : Dev × Option (List Nat) :=
  if dspResadd r.dspcfg then
    match s.cmdRead g (blkF r.blk 0 8 + t * up64 r.xbytes) (2 * r.owidth) with
    | (s, some row) => (s, some ((List.range r.owidth).map (rowElem 0 row)))
    | (s, none) => (s, none)
  else (s, some (List.replicate r.owidth 0))

/-- The address of the ordered slot of a pick, and of the accumulator row of a token. -/
def RouteRun.slotAddr (r : RouteRun) (t i : Nat) : Nat :=
  blkF r.blk 16 8 + roundUp (8 * t) 4096 + i * rstride r.owidth (dspRfmt r.dspcfg)
def RouteRun.accAddr (r : RouteRun) (t i : Nat) : Nat := blkF r.blk 16 8 + roundUp (8 * t) 4096 + i * up64 (4 * r.owidth)

/-- The sum of a token (R119, R120): none where a read faults. -/
def Dev.tokenSum (s : Dev) (g t : Nat) (r : RouteRun) (k : Nat) : Dev × Option (List Nat) :=
  let idx := (List.range r.list.length).filter fun i => match r.list[i]? with
    | some y => y.1.token == k && r.got.contains (i, false)
    | none => false
  if dspArrival r.dspcfg && !idx.isEmpty then
    match s.cmdRead g (r.accAddr t k) (4 * r.owidth) with
    | (s, some row) => (s, some ((List.range r.owidth).map (rowElem 1 row)))
    | (s, none) => (s, none)
  else
    let (s, st) := s.accStart g r k
    match st with
    | none => (s, none)
    | some st =>
      let w := if dspRfmt r.dspcfg = 0 then 2 else 4
      let (s, rows) := Dev.readSpans g (idx.map fun i => (r.slotAddr t i, w * r.owidth)) s
      match rows with
      | none => (s, none)
      | some rows =>
        let gs := idx.map fun i => match r.list[i]? with | some y => y.2.2 | none => 0
        (s, some ((List.range r.owidth).map fun i => (gs.zip rows).foldl (fun acc p =>
          fmaF32 acc p.1 (rowElem (dspRfmt r.dspcfg) p.2 i)) (nth st i 0)))

/-- The sums of several tokens. -/
def Dev.tokenSums (g t : Nat) (r : RouteRun) : List Nat → Dev → Dev × Option (List (List Nat))
  | [], s => (s, some [])
  | k :: ks, s =>
    match s.tokenSum g t r k with
    | (s, none) => (s, none)
    | (s, some x) => match Dev.tokenSums g t r ks s with
      | (s, some xs) => (s, some (x :: xs))
      | (s, none) => (s, none)

/-- Every row of every token has come back: the combine stage commits, and the pass completes (R118, R124). Nothing is written
before the commit can take place. FLAGS bit 1 says that a row of the token came back with DISCARD = 1; a record that R122
discards is no row of it (DEDUCED, log entry 180). -/
def Dev.combineProgress (s : Dev) (g : Nat) : Dev :=
  match s.cmd g, s.routeOf g with
  | some c, some r =>
    let t := rpTokens c.desc
    let (s, out) := if r.stage ≠ .combine || !(List.range t).all (fun k => r.arrivedOf k == r.countOf k) then (s, false)
      else s.outGate c
    if !out then s
    else match Dev.tokenSums g t r (List.range t) s with
      | (s, none) => s.groupFault g 7 2
      | (s, some sums) =>
        if (s.ctrBad (dHand c.desc)).isSome then (s.ctrFault (dHand c.desc) g).groupFault g 7 2
        else
          let o := dspOfmt r.dspcfg
          let row (xs : List Nat) : List Byte := xs.flatMap fun x => if o = 0 then leBytes 2 (toBF16 x) else leBytes 4 x
          let disc (k : Nat) : Bool := r.got.any fun x => x.2 && (match r.list[x.1]? with | some y => y.1.token == k | none => false)
          let (s, ok) := Dev.writeSpans g
            (((List.range t).map fun k => (blkF r.blk 24 8 + k * rstride r.owidth o, row (nth sums k [])))
              ++ [(blkF r.blk 16 8, (List.range t).flatMap fun k => r.tokenRow k (r.arrivedOf k) (if disc k then 6 else 4))]) s
          if ok then s.commit g 0 else s.groupFault g 7 2
  | _, _ => s

/-! ### The commands -/

/-- An ABORT that waits in an offer slot for the instance that is armed (R401). -/
def heldAbort (gr : Group) (stream xid : Nat) : Option (Nat × Carriage) :=
  (gr.slots.find? fun x => x.2.1 == stream && x.2.2.1 && x.2.2.2.xid == xid % 2 ^ 32).map fun x => (x.1, x.2.2.2)

/-- The ABORT that was held kills the instance at its arm. -/
def Dev.abortArmed (s : Dev) (gr : Group) (stream xid g : Nat) : Dev × Bool :=
  match heldAbort gr stream xid with
  | none => (s, false)
  | some (rank, c) =>
    let s := s.updGroup gr.gid fun x => { x with
      slots := x.slots.filter fun y => !(y.2.1 == stream && y.2.2.1 && y.2.2.2.xid == xid % 2 ^ 32) }
    let s := match s.cmd g with
      | some k => s.abortRecord k gr (c.f 40 0 8) rank
      | none => s
    (s.groupKill g 2 false, true)

/-- The run of a pass at its arm (R47, R90). -/
def Dev.routeRun (s : Dev) (d : Line) (gr : Group) (blk stalls : Nat) : RouteRun :=
  let p := rpProfile d
  let q := rpDprof d
  let e := s.fld (Reg.PST_SELCFG p) 0 14
  let cap := s.fld (Reg.PST_CAP p) 0 24
  { group := gr.gid, seq := nth gr.seqs 1 0, selcfg := s.reg (Reg.PST_SELCFG p), capC := cap,
    width := s.fld (Reg.PST_WIDTH p) 0 16, fallback := s.reg (Reg.PST_FALLBACK p), dspcfg := s.reg (Reg.PST_DSPCFG q),
    xbytes := s.fld (Reg.PST_XBYTES q) 0 17, owidth := s.fld (Reg.PST_OWIDTH q) 0 16, wybBase := s.reg Reg.WYB_BASE,
    slotBase := s.reg Reg.WYB_SLOTBASE, wybCfg := s.reg Reg.WYB_CFG, blk := blk, stage := .wait, left := [], ord := 0, red := none, nans := 0,
    round := 1, pass := 1, sel := List.replicate e (ESel.start cap), scanQ := [], took := [], took1 := [], kept := [],
    keptG := [], declined := 0, rdeclined := 0, passes := 0, rpasses := 0, flags := 0, winTok := 0, declG := 0, maxDem := 0,
    maxDemE := 0, overC := 0, tied := 0, list := [], snap := [], table := [], got := [], badRet := false, stalls := stalls }

/-- A routing pass armed (R46, R49, R86, R401). -/
def Dev.routeArm (s : Dev) (src : Source) (d : Line) (stalls : Nat) : Dev :=
  let p := rpProfile d
  let gid := s.fld (Reg.PST_GROUP p) 0 16
  match s.routeBad d with
  | (s, some r) =>
    let s := s.refuse src d r
    match s.group gid with
    | some gr =>
      if gr.state ≠ gFORMED then s
      else
        let seq := nth gr.seqs 1 0
        let dg := paramDigest (rpLayer d) (s.reg (Reg.PST_SELCFG p)) (s.fld (Reg.PST_CAP p) 0 24) (s.reg (Reg.PST_FALLBACK p)) seq
        s.refusePass gr dg (rpTokens d)
    | none => s
  | (s, none) =>
    match s.group gid, s.readBlk (rpBlk d) with
    | some gr, (s, some blk) =>
      let r := s.routeRun d gr blk stalls
      let t := rpTokens d
      let w := rpWork d
      let s := s.takeSeq gid 1
      let out := t * rstride r.owidth (dspOfmt r.dspcfg)
      let outs := [(jobKey w, workBytes r.experts t r.kmax), (jobKey (blkF blk 8 8), 4096 * blkF blk 48 4),
        (jobKey (blkF blk 16 8), 4096 * blkF blk 52 4), (jobKey (blkF blk 24 8), out)]
      let (s, g) := s.arm src d 0 [] (outs.filter fun x => x.2 != 0) (.route r)
      let (s, dead) := s.postsWake.abortArmed gr 1 r.seq g
      if dead then s
      else if blkF blk 64 8 = 0 then s.stageTo g .score else s
    | _, (s, _) => s

def execRoutepass (src : Source) (d : Line) (s : State) : Host.Outcome State Fault Refusal := s.unit fun s =>
  if dOp d = 0x0200 then s.routeArm src d 0 else s

/-- The counter at WAIT_ADDR has reached WAIT_TARGET (R36). -/
def execRoutepassWaitSatisfied (g : Nat) (s : State) : Host.Outcome State Fault Refusal := s.unit fun s =>
  match s.routeOf g with
  | none => s
  | some r =>
    let a := blkF r.blk 64 8
    if r.stage ≠ .wait || a = 0 then s
    else if (s.ctrBad a).isSome then (s.ctrFault a g).groupFault g 7 2
    else if blkF r.blk 72 8 ≤ s.ctr a then s.stageTo g .score else s

/-- The share of a selection or dispatch stage that Postilion `p` holds of pass `g` is done (R48, R84). -/
def Dev.stageShare (s : Dev) (c : Cmd) (r : RouteRun) (p : Nat) : Dev :=
  let g := c.gen
  let i := ((r.left.find? fun x => x.2 == p).getD (0, p)).1
  let n := (routeShares c.desc).length
  let (s, ok) := if r.stage = .score then s.scoreShare g c.desc r (shareExperts r.experts n i) else (s, true)
  if !ok then s.groupFault g 7 2
  else
    let left := r.left.filter fun x => x.1 != i
    let s := s.setRoute g fun r => { r with left := left }
    if !left.isEmpty then s
    else match r.stage with
      | .score => s.stageTo g .hist
      | .count => match s.group r.group with
        | some gr => s.dispContribute g c.desc r gr
        | none => s
      | .scatter => s.setRoute g fun r => { r with stage := .scattered }
      | _ => s.selContribute g c.desc r

/-- The result of the reduction under way as it lies at its landing place (R58, R61, R97), or none where a read faults. -/
def Dev.redResult (s : Dev) (g : Nat) (m : RedRun) : Dev × Option Reduced :=
  match m.head with
  | none => (s, none)
  | some h =>
    let n := m.body.length
    let x (sums scan : List Nat) : Reduced := ⟨h.1, h.2.1.length, h.2.2, sums, scan⟩
    if m.fails h || n = 0 then (s, some (x [] []))
    else match s.cmdRead g m.dst (m.kind.width * n) with
      | (s, none) => (s, none)
      | (s, some bs) =>
        let at_ (k : Nat) : List Nat := (List.range n).map fun i => elemAt (bs.drop k) m.kind.width i % 2 ^ 32
        (s, some (match m.kind with
          | .sum => x (at_ 0) []
          | .scan => x [] (at_ 0)
          | .both => x (at_ 4) (at_ 0)))

/-- The reduction under way of a pass, its number ORD, is complete on this member, and the pass goes on with its result (R58,
R61, R64, R67, R97). -/
def execRouteReductionComplete (g ord : Nat) (s : State) : Host.Outcome State Fault Refusal := s.unit fun s =>
  match s.cmd g, s.routeOf g with
  | some c, some r => match r.red with
    | none => s
    | some m =>
      if m.x.ord ≠ ord || !m.ready then s
      else match s.redResult g m with
        | (s, none) => s.groupFault g 7 2
        | (s, some x) =>
          let s := (s.closeX g).setRoute g fun r => { r with red := none }
          let r := { r with red := none }
          match r.stage with
          | .histR => s.histDone g r x
          | .tieR => (s.setRoute g fun r => { r with ord := r.ord + 1, scanQ := r.tiedEs.zip x.scan }).stageTo g .cap
          | .capR => s.capDone g r x
          | .countR => s.countDone g c.desc r x
          | _ => s
  | _, _ => s

/-- The address and length of the activation row of token `k`. -/
def RouteRun.actRow (r : RouteRun) (k : Nat) : Nat × Nat := (blkF r.blk 0 8 + k * up64 r.xbytes, r.xbytes)

/-- What the scatter stage writes: the directory and the carriage slots of its send area, and the token table (R101, R102);
`rows` are the activation rows by token. -/
def RouteRun.scatterSpans (r : RouteRun) (own g : Nat) (gr : Group) (t : Nat) (rows : List (List Byte)) : List (Nat × List Byte) :=
  let one (y : Pick × Nat × Nat) : List Byte :=
    let pos := ((r.rowsOf (r.entryOf y.1)).findIdx fun z => z == y)
    r.tag gr.rank g y (r.rowNumber gr.rank y.1 pos) ++ padTo64 (nth rows y.1.token [])
  let segs := (List.range gr.n).map fun k => (r.segment gr k).flatMap one
  let base := blkF r.blk 8 8
  let offs := segs.foldl (fun (a : Nat × List Nat) b => (a.1 + 4160 * max 1 (ceilDiv b.length 4096), a.2 ++ [a.1]))
    (up64 (8 * gr.n), [])
  let dir := (offs.2.zip segs).flatMap fun x => leBytes 4 (x.1 / 64) ++ leBytes 4 (ceilDiv x.2.length 4096)
  let cars := ((List.range gr.n).zip (offs.2.zip segs)).flatMap fun x =>
    (segSlots own (gr.coordOf x.1) (dspTc r.dspcfg) x.2.2).map fun z => (base + x.2.1 + z.1, z.2)
  let toks := (List.range t).flatMap fun k => r.tokenRow k 0 0
  [(base, dir)] ++ cars ++ [(blkF r.blk 16 8, toks)]
where
  padTo64 (bs : List Byte) : List Byte := bs ++ List.replicate (roundUp bs.length 64 - bs.length) 0

/-- The scatter stage commits its send area and token table, then SCAT_CNT (R101, R104, R237). -/
def execScatterCommit (g : Nat) (s : State) : Host.Outcome State Fault Refusal := s.unit fun s =>
  match s.cmd g, s.routeOf g with
  | some c, some r =>
    match s.group r.group with
    | none => s
    | some gr =>
      let cnt := blkF r.blk 40 8
      let t := rpTokens c.desc
      if r.stage ≠ .scattered then s
      else if (s.ctrBad cnt).isSome then (s.ctrFault cnt g).groupFault g 7 2
      else
        match Dev.readSpans g ((List.range t).map r.actRow) s with
        | (s, none) => s.groupFault g 7 2
        | (s, some rows) =>
          let (s, ok) := Dev.writeSpans g (r.scatterSpans s.coord g gr t rows) s
          if !ok then s.groupFault g 7 2
          else
            let sent := (r.list.filter fun y => r.sent y.1).length
            let s := ((s.ctrAdd cnt 1).bump Reg.PST_CNT_ROWSENT sent).setRoute g fun r => { r with stage := .combine }
            s.combineProgress g
  | _, _ => s

/-! ### The Waybill and the high-water mark (R92, R126, R127) -/

/-- WYB_UPDGO.GO written 1. -/
def execWaybillUpdate (s : State) : Host.Outcome State Fault Refusal := s.upd fun s => s.setFlag Reg.WYB_UPDGO 0 true

/-- The entry is replaced whole, or the update is refused (R92); poison of its line stays (R299). -/
def execWaybillUpdateDone (s : State) : Host.Outcome State Fault Refusal := s.upd fun s =>
  if !s.flag Reg.WYB_UPDGO 0 then s
  else
    let i := s.fld Reg.WYB_UPDIDX 0 20
    let a := s.reg Reg.WYB_BASE + 16 * i
    let e := ((List.range 4).map fun k => s.fld (Reg.WYB_UPDDATA k) 0 32 * 2 ^ (32 * k)).sum
    let s := s.setFlag Reg.WYB_UPDGO 0 false
    if bits e 115 2 = 3 || !inCH a 16 then s.record clsROUTE 0x012 i 0 blkWYB 0
    else (s.wrNum (chAddr a) 16 e).bump Reg.WYB_CNT_UPD 1

/-- WYB_UPDIDX or WYB_UPDDATAi written (R126). -/
def execWaybillRegWrite (off : Nat) (v : Word32) (s : State) : Host.Outcome State Fault Refusal := s.upd fun s =>
  if s.flag Reg.WYB_UPDGO 0 then s
  else if off = Reg.WYB_UPDIDX || (List.range 4).any (fun k => off == Reg.WYB_UPDDATA k) then s.regWrite .host off v.toNat
  else s

/-- PST_CQHWM.CLR written 1 (R127). -/
def execCqhwmClear (s : State) : Host.Outcome State Fault Refusal := s.upd fun s => s.setReg Reg.PST_CQHWM 0

end Sys2Proof.Machine
end

