-- ==== Sys2Proof/Machine/Exchange.lean ====
section
/-! DEFINITION. Exchanges: arm, schedule, landing and unpacking, the return, and the combine of returned rows (R108 to
R124). -/
namespace Sys2Proof.Machine

/-! ### Descriptor (Table 03-13) -/

def xpBack (d : Line) : Bool := lfield d 16 0 1 == 1
def xpDprof (d : Line) : Nat := lfield d 16 1 4
def xpMask (d : Line) : Nat := lnum d 17 1
def xpGroup (d : Line) : Nat := lnum d 18 2
def xpWindow (d : Line) : Nat := lnum d 20 2
def xpXid (d : Line) : Nat := lnum d 24 4
def xpFwd (d : Line) : Nat := lnum d 28 4
def xpBlk (d : Line) : Nat := lnum d 32 8
def xpWait (d : Line) : Nat := lnum d 40 8
def xpTarget (d : Line) : Nat := lnum d 48 8
def xpDone (d : Line) : Nat := lnum d 56 8

def Dev.exchOf (s : Dev) (g : Nat) : Option ExchRun :=
  match s.cmd g with
  | some c => match c.body with
    | .exch r => some r
    | _ => none
  | none => none
def Dev.setExch (s : Dev) (g : Nat) (f : ExchRun → ExchRun) : Dev :=
  s.updCmd g fun c => match c.body with
    | .exch r => { c with body := .exch (f r) }
    | _ => c

/-! ### What an exchange serves and returns (R109, R115) -/

/-- Exchanges that are armed. -/
def Dev.exchs (s : Dev) : List ExchRun := s.cmds.filterMap fun c => match c.body with | .exch r => some r | _ => none

/-- The routing pass whose dispatch block a forward exchange names, which no other forward exchange serves. -/
def Dev.passServed (s : Dev) (blk : Nat) : Option (Cmd × RouteRun) :=
  s.cmds.findSome? fun c => match c.body with
    | .route r =>
      if rpBlk c.desc = blk && !(s.exchs.any fun x => !x.back && x.pass == c.gen) && !s.landed.any (fun l => l.pass == c.gen)
      then some (c, r) else none
    | _ => none

/-- The forward exchange that a return exchange names: its dispatch profile, pass and combine area. -/
def Dev.fwdNamed (s : Dev) (gid xid : Nat) : Option (Nat × Nat) :=
  if s.exchs.any fun x => x.back && x.x.gid == gid && x.fwd == xid then none
  else match s.exchs.find? fun x => !x.back && x.x.gid == gid && x.x.xid == xid with
    | some x => some (x.pass, x.comb)
    | none => (s.landed.find? fun l => l.gid == gid && l.xid == xid && l.done).map fun l => (l.pass, l.comb)

/-- ROUTE/0x00E of an exchange: the first bad field in ascending byte offset (R109). A GROUP that is not that of the pass it serves
is bad (DESIGN CHOICE, log entry 221: Table 03-13 calls the field the routing pass's group, and R109 does not list the case). -/
def Dev.exchBad (s : Dev) (d : Line) : Option Nat :=
  let back := xpBack d
  let pass := if back then none else s.passServed (xpBlk d)
  let prof := match pass with
    | some (c, _) => rpDprof c.desc != xpDprof d
    | none => false
  let group := match pass with
    | some (_, r) => r.group != xpGroup d
    | none => false
  if lfield d 16 5 3 ≠ 0 || s.dspProfBad (xpDprof d) true || s.slotTableBad || prof then some 16
  else if s.maskBad (xpMask d) then some 17
  else if group then some 18
  else if xpWindow d = 0 || 1024 < xpWindow d then some 20
  else if lnum d 22 2 ≠ 0 then some 22
  else if (if back then (s.fwdNamed (xpGroup d) (xpFwd d)).isNone else xpFwd d != 0) then some 28
  else if (if back then xpBlk d != 0 else pass.isNone) then some 32
  else if !ctrOk (xpWait d) then some 40
  else if !ctrOk (xpDone d) then some 56
  else none

/-- The run of an exchange at its arm (R90, R110). -/
def Dev.exchRun (s : Dev) (d : Line) (gr : Group) (stalls : Nat) : ExchRun :=
  let back := xpBack d
  let q := xpDprof d
  let n := gr.n
  let (pass, sb, send, comb, table) : Nat × Nat × Nat × Nat × Option (Nat × Nat) :=
    if back then let (p, c) := (s.fwdNamed gr.gid (xpFwd d)).getD (0, 0); (p, 0, 0, c, none)
    else match s.passServed (xpBlk d) with
      | some (c, r) => (c.gen, bits r.blk (8 * 56) 12, blkF r.blk 8 8, blkF r.blk 16 8,
          if r.scanned then some (r.experts, rpWork c.desc + 4096) else none)
      | none => (0, 0, 0, 0, none)
  { x := ⟨gr.gid, if back then 3 else 2, xpXid d, 0, xpWindow d, 0, dspTc (s.reg (Reg.PST_DSPCFG q)), postsOf (xpMask d),
      (List.range n).map (fun i => sendOf i 0 ((gr.rank + i) % n) (.bytes []) 0),
      (List.range n).map (fun i => recvOf i 0 ((gr.rank + n - i) % n) .barrows 0), stalls, false, []⟩
    back := back, fwd := xpFwd d, pass := pass, dspcfg := s.reg (Reg.PST_DSPCFG q), xbytes := s.fld (Reg.PST_XBYTES q) 0 17,
    owidth := s.fld (Reg.PST_OWIDTH q) 0 16, slotBase := s.reg Reg.WYB_SLOTBASE, wybCfg := s.fld Reg.WYB_CFG 0 13,
    sbias := sb, send := send, comb := comb, table := table, unpacked := [], read := [], rejRec := false }

/-- An exchange takes its stream number and its place; what waited for it in the reserve is taken (R401, R408). -/
def Dev.exchTake (s : Dev) (src : Source) (d : Line) (gr : Group) (stalls : Nat) : Dev :=
  let r := s.exchRun d gr stalls
  let st := r.x.stream
  let s := s.takeSeq gr.gid st
  let (s, g) := s.arm src d 0 [] [] (.exch r)
  let (s, dead) := s.postsWake.abortArmed gr st r.x.xid g
  if dead then s
  else
    let held := gr.slots.filter fun x => x.2.1 == st && !x.2.2.1 && x.2.2.2.xid == r.x.xid % 2 ^ 32
    let s := s.updGroup gr.gid fun x => { x with slots := x.slots.filter fun y => !held.contains y }
    s.each held fun s x => s.acceptOffer g x.1 x.2.2.2

/-- An exchange armed (R108, R109, R401). -/
def Dev.exchArm (s : Dev) (src : Source) (d : Line) (stalls : Nat) : Dev :=
  let gid := xpGroup d
  let no (s : Dev) (r : Refuse) : Dev := s.groupRefuse src d gid (if xpBack d then 3 else 2) (xpXid d) r
  match s.headCheck d with
  | some r => no s r
  | none => match s.exchBad d with
    | some k => no s ⟨clsROUTE, 0x00E, k⟩
    | none => match s.group gid with
      | none => no s ⟨clsFAB, 0x03B, gid⟩
      | some gr =>
        if gr.state ≠ gFORMED then no s ⟨clsFAB, 0x03B, gid⟩
        else if 64 ≤ s.groupHeld gid then no s ⟨clsFAB, 0x031, gid⟩
        else s.exchTake src d gr stalls

def execExchange (src : Source) (d : Line) (s : State) : Host.Outcome State Fault Refusal := s.unit fun s =>
  if dOp d = 0x0201 then s.exchArm src d 0 else s

/-! ### The commit of an exchange (R114, R117, R237) -/

/-- The slots that a forward exchange has landed in. -/
def Dev.landedOf (s : Dev) (g : Nat) : Option Landed := s.landed.find? fun l => l.gen == g
def Dev.updLanded (s : Dev) (g : Nat) (f : Landed → Landed) : Dev :=
  { s with landed := updFirst (fun l => l.gen == g) f s.landed }

/-- Bytes of a record of an exchange (R100, R117). -/
def ExchRun.recSize (r : ExchRun) : Nat := if r.back then 64 + rstride r.owidth (dspRfmt r.dspcfg) else recBytes r.xbytes

/-- The records of a segment. A tag of zeros is the padding of the last chunk (DEDUCED, log entry 223: R101 pads a chunk with zeros,
and the GEN of a tag is never 0, by R214). -/
def cutRecords (z : Nat) : Nat → List Byte → List (List Byte)
  | 0, _ => []
  | fuel + 1, bs =>
    if z = 0 || bs.length < z || (bs.take 64).all (· == 0) then []
    else bs.take z :: cutRecords z fuel (bs.drop z)
def recordsOf (z : Nat) (bs : List Byte) : List (List Byte) := cutRecords z (bs.length + 1) bs

/-- Every segment addressed to an exchange has landed and been handled. -/
def Dev.segsHandled (s : Dev) (r : ExchRun) : Bool :=
  r.x.recvs.all fun y => y.done && (r.unpacked.contains y.peer || (recordsOf r.recSize (s.segBytes y)).isEmpty)

/-- An exchange that has nothing left to do commits. -/
def Dev.exchProgress (s : Dev) (g : Nat) : Dev :=
  match s.cmd g, s.exchOf g with
  | some c, some r =>
    let slotsDone := r.back || (match s.landedOf g with | some l => l.slots.all (·.done) | none => false)
    let (s, out) := if !r.x.active || !slotsDone || !r.x.sends.all (·.done) || !s.segsHandled r then (s, false) else s.outGate c
    if !out then s
    else if (s.ctrBad (dHand c.desc)).isSome then (s.ctrFault (dHand c.desc) g).groupFault g 7 2
    else if (s.ctrBad (xpDone c.desc)).isSome then (s.ctrFault (xpDone c.desc) g).groupFault g 7 2
    else
      let s := (s.closeX g).freePlaces 1 (r.x.recvs.flatMap (·.places))
      let s := (s.ctrAdd (xpDone c.desc) 1).commit g 0
      if r.back then { s with landed := s.landed.filter fun l => !(l.gid == r.x.gid && l.xid == r.fwd) }
      else s.updLanded g fun l => { l with done := true }
  | _, _ => s

/-! ### Fixing slots (R113, R114, R115) -/

/-- A slot-table entry as read, or none where it cannot be or fails a test. -/
def Dev.slotEntry (s : Dev) (r : ExchRun) (phys : Nat) : Dev × Option LSlot :=
  match s.unitRead (r.slotBase + 64 * phys) 64 with
  | (s, none) => (s, none)
  | (s, some bs) =>
    let e := leNat bs
    let f (o n : Nat) : Nat := bits e (8 * o) (8 * n)
    let ok := bit e 304 && f 35 1 == 0 && bits e (8 * 36 + 11) 5 == 0 && bits e (8 * 38 + 2) 6 == 0 && f 39 1 == 0
      && f 48 16 == 0 && f 0 8 % 64 == 0 && f 8 8 % 64 == 0 && f 16 8 % 64 == 0 && ctrOk (f 24 8) && bits e 305 1 == dspRfmt r.dspcfg
    (s, if ok then some ⟨phys, f 0 8, f 8 8, f 16 8, f 24 8, f 32 3, bits e (8 * 36) 11, 0, 0, false, []⟩ else none)

/-- A slot is busy with a forward exchange other than `g` (R115). -/
def Dev.slotBusy (s : Dev) (g phys : Nat) : Bool := s.landed.any fun l => l.gen != g && l.slots.any fun x => x.phys == phys

/-- A slot commits (R114): NROWS, LGEN and HAND_ADDR; false where its counter cannot be incremented (R237). -/
def Dev.slotCommit (s : Dev) (g : Nat) (r : ExchRun) (x : LSlot) : Dev × Bool :=
  if (s.ctrBad x.hand).isSome then (s.ctrFault x.hand g, false)
  else
    let s := s.wrNum (chAddr (r.slotBase + 64 * x.phys + 40)) 8 (min x.expected x.rowsMax + g % 2 ^ 32 * 2 ^ 32)
    let s := s.ctrAdd x.hand 1
    (s.updLanded g fun l => { l with slots := updFirst (fun y => y.phys == x.phys) (fun y => { y with done := true }) l.slots }, true)

/-- Every slot whose rows are all handled commits. -/
def Dev.slotsCommit (g : Nat) (r : ExchRun) : List LSlot → Dev → Dev × Bool
  | [], s => (s, true)
  | x :: xs, s =>
    if !x.done && decide (x.expected ≤ x.handled) then
      let (s, ok) := s.slotCommit g r x
      if ok then Dev.slotsCommit g r xs s else (s, false)
    else Dev.slotsCommit g r xs s

def Dev.settleSlots (s : Dev) (g : Nat) (r : ExchRun) : Dev × Bool :=
  match s.landedOf g with
  | some l => Dev.slotsCommit g r l.slots s
  | none => (s, true)

/-- The physical slots that the count table names for this member, with the rows expected, ascending (R114). -/
def namedSlots (own sbias : Nat) (snap : List Nat) (totals : List Nat) : List (Nat × Nat) :=
  let hits := (List.range snap.length).flatMap fun x =>
    let e := nth snap x 0
    if wbValid e then ((List.range (wbNrep e + 1)).filter fun j => wbRep e j == own).map fun j =>
      (wbSlot e j + sbias, nth totals (4 * x + j) 0)
    else []
  ((hits.map (·.1)).dedup.mergeSort (· ≤ ·)).map fun p => (p, ((hits.filter fun h => h.1 == p).map (·.2)).sum)

/-- Each named slot tested in turn (R114): the slots fixed, and those that fail with their REASON. -/
def Dev.fixSlots (s : Dev) (g : Nat) (r : ExchRun) (named : List (Nat × Nat)) : Dev × List LSlot × List (Nat × Nat) :=
  named.foldl (fun (z : Dev × List LSlot × List (Nat × Nat)) p =>
    let (s, slots, failed) := z
    if r.wybCfg ≤ p.1 then (s, slots, failed ++ [(p.1, 1)])
    else match s.slotEntry r p.1 with
      | (s, none) => (s, slots, failed ++ [(p.1, 2)])
      | (s, some x) => if s.slotBusy g p.1 then (s, slots, failed ++ [(p.1, 5)])
        else (s, slots ++ [{ x with expected := p.2 }], failed)) (s, [], [])

/-- The forward exchange fixes its slots (R114). -/
def execExchangeFixSlots (g : Nat) (s : State) : Host.Outcome State Fault Refusal := s.unit fun s =>
  match s.exchOf g with
  | none => s
  | some r =>
    let earlier := (s.cmds.takeWhile fun c => c.gen != g).any fun c => match c.body with
      | .exch x => !x.back && !x.x.active
      | _ => false
    match r.table with
    | none => s
    | some (e, sc) =>
      if r.back || r.x.active || earlier then s
      else match Dev.readSpans g [(sc + 4 * e, 16 * (e + 1)), (sc + 20 * e + 16, 32 * (e + 1))] s with
        | (s, some [sn, ct]) =>
          let snap := (List.range (e + 1)).map (elemAt sn 16)
          let totals := (List.range (4 * (e + 1))).map fun i => elemAt ct 4 (2 * i + 1)
          let (s, slots, failed) := s.fixSlots g r (namedSlots s.coord r.sbias snap totals)
          let l : Landed := ⟨g, r.x.gid, r.x.xid, r.pass, r.comb, slots, failed, [], false⟩
          let s : Dev := { s with landed := s.landed ++ [l] }
          let s := s.updX g fun x => { x with active := true }
          let z := up64 r.xbytes
          let areas := slots.flatMap fun x => [(jobKey x.inA, x.rowsMax * z), (jobKey x.tagA, x.rowsMax * 32)]
          let s := s.updCmd g fun c => { c with writes := c.writes ++ areas.filter fun y => y.2 != 0 }
          let (s, ok) := s.settleSlots g r
          if ok then s.exchProgress g else s.groupFault g 7 2
        | (s, _) => s.groupFault g 7 2

/-! ### Steps (R110, R117) -/

/-- A segment of the send area: where its carriage slots begin, and its bytes (R101). -/
def Dev.fwdSegment (s : Dev) (g send rank : Nat) : Dev × Option (Nat × Nat) :=
  match s.cmdRead g (send + 8 * rank) 8 with
  | (s, none) => (s, none)
  | (s, some bs) =>
    let e := leNat bs
    let a := send + 64 * bits e 0 32
    let n := bits e 32 32
    if n = 0 then (s, some (a, 0))
    else match s.cmdRead g (a + 4160 * (n - 1) + 5) 1 with
      | (s, some h) => (s, some (a, 4096 * (n - 1) + 256 * bits (leNat h) 0 5))
      | (s, none) => (s, none)

/-- FMT set in a landed tag, with bytes 32 to 63 zero (R117). -/
def returnTag (tag : List Byte) (fmt : Nat) : List Byte :=
  let t := leNat (tag.take 32)
  leBytes 64 (setBits t 25 1 fmt)
def tagToken (t : List Byte) : Nat := bits (leNat (t.take 32)) 0 16
def tagRank (t : List Byte) : Nat := bits (leNat (t.take 32)) 16 4

/-- The return segment for the rows that came from coordinate `c` (R117), or none where a read faults. -/
def Dev.retSegment (s : Dev) (g : Nat) (r : ExchRun) (l : Landed) (c : Nat) : Dev × Option (List Byte) :=
  let fmt := dspRfmt r.dspcfg
  let rs := rstride r.owidth fmt
  let rows := (l.slots.mergeSort fun a b => decide (a.phys ≤ b.phys)).flatMap fun x =>
    ((x.rows.filter fun y => y.2 == c).mergeSort fun a b => decide (a.1 ≤ b.1)).map fun y =>
      (x.tagA + 32 * y.1, x.outA + rs * y.1)
  let rej := ((l.rejects.filter fun y => y.1 == c).map (·.2)).mergeSort fun a b =>
    decide (tagToken a < tagToken b) || (tagToken a == tagToken b && decide (tagRank a ≤ tagRank b))
  let (s, tags) := Dev.readSpans g (rows.map fun y => (y.1, 32)) s
  let (s, outs) := Dev.readSpans g (rows.map fun y => (y.2, rs)) s
  match tags, outs with
  | some ts, some os => (s, some (((ts.zip os).flatMap fun p => returnTag p.1 fmt ++ p.2)
      ++ rej.flatMap fun t => returnTag t fmt ++ leBytes rs 0))
  | _, _ => (s, none)

/-- The Postilion that packs chunk `c` of a return exchange: that of the port through which it leaves, or the one that works in
its place (R500; DESIGN CHOICE, log entry 182: R117 does not divide the packing). -/
def Dev.packPost (s : Dev) (x : Xfer) (c : Nat) : Nat := s.postFor x.posts (landPort x.posts c - 32)

/-- A barrow for each of some chunks, among those that the Postilion of the chunk holds for the exchange and that no chunk has
(R117). -/
def Dev.packPlaces (s : Dev) (g : Nat) (x : Xfer) : List Nat → List (Nat × Nat) → List (Nat × Nat)
  | [], _ => []
  | c :: cs, used =>
    let free (b : Nat × Option Barrow) : Bool := match b.2 with
      | some v => v.owner == 0x08 + s.packPost x c && v.gen % 2 ^ 32 == g % 2 ^ 32 && !used.any fun p => p.2 == s.barrowPtr b.1
      | none => false
    match s.liv.barrows.find? free with
    | some b => (c, s.barrowPtr b.1) :: s.packPlaces g x cs (used ++ [(c, s.barrowPtr b.1)])
    | none => s.packPlaces g x cs used

/-- Chunks of a step that are granted and not sent. -/
def SendStep.due (y : SendStep) : List Nat := y.grants.filter fun c => !y.sent.any fun z => z.chunk == c

/-- The due chunks of a return step that can be packed: those for which a barrow is held, and the carriage of an empty segment,
which needs none. -/
def Dev.packable (s : Dev) (g : Nat) (x : Xfer) (y : SendStep) : List (Nat × Option Nat) :=
  if y.len = 0 then y.due.map fun c => (c, none)
  else (s.packPlaces g x y.due (x.sends.flatMap (·.places))).map fun p => (p.1, some p.2)

/-! ### Shares of Postilions (R84) -/

/-- A row tag field (Table 03-7). -/
def tagF (rec : List Byte) (n lo w : Nat) : Nat := bits (leNat (rec.take 64)) (8 * n + lo) w

/-- The routing pass armed with a combine area: where two passes name one area, the first armed (DESIGN CHOICE, log entry 222: the
spec does not say which). -/
def Dev.combPass (s : Dev) (comb : Nat) : Option (Cmd × RouteRun) :=
  s.cmds.findSome? fun c => match c.body with
    | .route r => if blkF r.blk 16 8 = comb then some (c, r) else none
    | _ => none

/-- The Postilion that unpacks the segment of rank `rank` (DESIGN CHOICE, log entry 182: the segments are dealt to the set bits
of POSTMASK in turn). -/
def Dev.unpackPost (s : Dev) (x : Xfer) (rank : Nat) : Nat := s.postFor x.posts (nth x.posts (rank % x.posts.length) 0)

/-- The command for which a returned record is read, and the Postilion that reads it: the one that serves its token's range
(R121), or, where no pass takes it, that of its segment. -/
def Dev.recordPost (s : Dev) (x : Nat) (r : ExchRun) (rank : Nat) (rec : List Byte) : Nat × Nat :=
  match s.combPass r.comb with
  | some (c, _) =>
    let posts := postsOf (rpMask c.desc)
    let n := posts.length
    let t := rpTokens c.desc
    let i := ((List.range n).find? fun i => decide (tagF rec 0 0 16 < (i + 1) * t / n)).getD (n - 1)
    (c.gen, s.postFor posts (nth posts i 0))
  | none => (x, s.unpackPost r.x rank)

/-- Work of a Postilion that is ready. -/
inductive Share where
  /-- of a selection or dispatch stage -/
  | stage (g : Nat)
  | unpack (g rank : Nat)
  | pack (g step phase : Nat)
  | combine (x rank i : Nat)
deriving DecidableEq, Repr

/-- The records of landed return segments that are not read, by exchange, rank and number. -/
def Dev.unread (s : Dev) : List (Nat × ExchRun × Nat × Nat × List Byte) :=
  s.cmds.flatMap fun c => match c.body with
    | .exch r =>
      if !r.back then []
      else (r.x.recvs.filter fun y => y.done && !r.unpacked.contains y.peer).flatMap fun y =>
        let recs := recordsOf r.recSize (s.segBytes y)
        ((List.range recs.length).filter fun i => !r.read.contains (y.peer, i)).map fun i => (c.gen, r, y.peer, i, nth recs i [])
    | _ => []

/-- The combine share of command `g` that is ready on Postilion `p`. -/
def Dev.combineShare (s : Dev) (g p : Nat) : Option Share :=
  (s.unread.find? fun z => s.recordPost z.1 z.2.1 z.2.2.1 z.2.2.2.2 == (g, p)).map fun z => .combine z.1 z.2.2.1 z.2.2.2.1

/-- The share of a command that is ready on Postilion `p`: none that waits on a reduction, a counter, a landing or a return. -/
def Dev.readyShare (s : Dev) (c : Cmd) (p : Nat) : Option Share :=
  match c.body with
  | .route r =>
    if r.stage.shared && r.left.any fun x => x.2 == p then some (.stage c.gen)
    else if r.stage = .combine then s.combineShare c.gen p else none
  | .exch r =>
    if !r.x.active then none
    else if !r.back then
      (r.x.recvs.find? fun y => y.done && !r.unpacked.contains y.peer && s.unpackPost r.x y.peer == p).map
        fun y => .unpack c.gen y.peer
    else match r.x.sends.find? fun y => y.begun && (s.packable c.gen r.x y).any fun z => s.packPost r.x z.1 == p with
      | some y => some (.pack c.gen y.step y.phase)
      | none => s.combineShare c.gen p
  | _ => none

/-- Postilion `p` may work for command `g`: no command armed earlier has a share ready on it (R84). -/
def Dev.mayWork (s : Dev) (g p : Nat) : Bool :=
  (s.cmds.takeWhile fun c => c.gen != g).all fun c => (s.readyShare c p).isNone

/-- The chunks of a step that are granted and not yet sent leave (R407); a return exchange packs each in a barrow first, on the
Postilion whose turn it is (R84, R117). -/
def Dev.sendGranted (s : Dev) (g step phase : Nat) : Dev × Bool :=
  match s.xf g with
  | none => (s, true)
  | some x =>
    match x.send step phase with
    | none => (s, true)
    | some y =>
      if x.stream ≠ 3 then Dev.putChunks g step phase false false (y.due.map fun c => (c, none)) s
      else
        let now := (s.packable g x y).filter fun z => s.mayWork g (s.packPost x z.1)
        let bs := now.filterMap fun z => z.2.map fun b => (z.1, b)
        let s := s.each bs fun s p => match y.src with
          | .bytes b => s.wrBytes (chAddr p.2) ((b.drop (4096 * p.1)).take 4096)
          | _ => s
        let s := s.updX g fun x => x.updSend step phase fun y => { y with places := y.places ++ bs }
        Dev.putChunks g step phase false false (now.map fun z => (z.1, none)) s

/-- Granted chunks of every step that could not be packed before leave now. -/
def Dev.sendWaiting (g : Nat) : List SendStep → Dev → Dev × Bool
  | [], s => (s, true)
  | y :: ys, s =>
    if y.begun then
      let (s, ok) := s.sendGranted g y.step y.phase
      if ok then Dev.sendWaiting g ys s else (s, false)
    else Dev.sendWaiting g ys s

/-- The next step within WINDOW begins (R110); the first, once the counter at WAIT_ADDR has reached WAIT_TARGET (R108). -/
def execExchangeStepStart (g : Nat) (s : State) : Host.Outcome State Fault Refusal := s.unit fun s =>
  match s.cmd g, s.exchOf g with
  | some c, some r =>
    let a := xpWait c.desc
    let first := !(r.x.sends.any (·.begun))
    if !r.x.active then s
    else if first && (s.ctrBad a).isSome then (s.ctrFault a g).groupFault g 7 2
    else if first && a ≠ 0 && decide (s.ctr a < xpTarget c.desc) then s
    else
      let (s, ok) := Dev.sendWaiting g r.x.sends s
      if !ok then s.groupFault g 7 2
      else match r.x.sends.find? fun y => !y.begun with
        | none => s
        | some y =>
          if r.x.limit 0 ≤ y.step then s
          else
            let (s, seg) : Dev × Option (ChunkSrc × Nat) :=
              if r.back then
                match s.landed.find? fun l => l.gid == r.x.gid && l.xid == r.fwd, s.group r.x.gid with
                | some l, some gr => match s.retSegment g r l (gr.coordOf y.peer) with
                  | (s, some bs) => (s, some (.bytes bs, (padUnits bs).length))
                  | (s, none) => (s, none)
                | _, _ => (s, some (.bytes [], 0))
              else match s.fwdSegment g r.send y.peer with
                | (s, some (a, n)) => (s, some (.slots a, n))
                | (s, none) => (s, none)
            match seg with
            | none => s.groupFault g 7 2
            | some (src, n) =>
              let s := s.updX g fun x => x.updSend y.step 0 fun z => { z with src := src, len := n }
              let (s, ok) := s.beginStep g y.step 0
              if ok then s.exchProgress g else s.groupFault g 7 2
  | _, _ => s

/-- The forward exchange that a return exchange returns has committed (R117): the return exchange begins. -/
def execReturnExchangeStart (g : Nat) (s : State) : Host.Outcome State Fault Refusal := s.unit fun s =>
  match s.exchOf g with
  | none => s
  | some r =>
    if r.back && !r.x.active && s.landed.any fun l => l.gid == r.x.gid && l.xid == r.fwd && l.done then
      s.updX g fun x => { x with active := true }
    else s

/-! ### Unpacking (R113, R114, R116) -/

/-- The REASON for which a row is rejected, 0 where it is placed (Table 03-8, R116). For a slot that the exchange did not fix,
the entry is read again when the row is unpacked (DESIGN CHOICE, log entry 181: R113 says when the entries of the exchange's
slots are read, and of no other). -/
def Dev.rowReason (s : Dev) (g : Nat) (r : ExchRun) (l : Landed) (phys version row : Nat) : Dev × Nat :=
  if r.wybCfg ≤ phys then (s, 1)
  else match l.slots.find? fun x => x.phys == phys with
    | some x => (s, if version ≠ x.version then 3 else if x.rowsMax ≤ row then 4 else 0)
    | none =>
      if l.failed.contains (phys, 2) then (s, 2)
      else match s.slotEntry r phys with
        | (s, none) => (s, 2)
        | (s, some x) =>
          (s, if version ≠ x.version then 3 else if x.rowsMax ≤ row then 4
            else if s.slotBusy g phys || l.failed.contains (phys, 5) then 5 else 6)

/-- One record placed or rejected: false where a write faults. -/
def Dev.unpackRow (s : Dev) (g coord : Nat) (r : ExchRun) (rec : List Byte) : Dev × Bool :=
  match s.landedOf g with
  | none => (s, true)
  | some l =>
    let phys := tagF rec 4 0 12 + r.sbias
    let row := tagF rec 8 0 32
    let z := up64 r.xbytes
    let (s, why) := s.rowReason g r l phys (tagF rec 6 0 11) row
    let tag := setBits (leNat (rec.take 32)) (8 * 14) 16 coord
    let slot := l.slots.find? fun x => x.phys == phys
    let count (f : LSlot → LSlot) (s : Dev) : Dev := s.updLanded g fun l => { l with
      slots := updFirst (fun x => x.phys == phys) (fun x => f { x with handled := x.handled + 1 }) l.slots }
    match why, slot with
    | 0, some x =>
      let (s, ok) := Dev.writeSpans g [(x.inA + row * z, (rec.drop 64).take z), (x.tagA + 32 * row, leBytes 32 tag)] s
      (count (fun x => { x with rows := (x.rows.filter fun y => y.1 != row) ++ [(row, coord)] }) (s.bump Reg.PST_CNT_LANDED 1), ok)
    | _, _ =>
      let (s, ok) := match slot with
        | some x => if row < x.rowsMax then s.cmdWrite g (x.inA + row * z) (leBytes z 0) else (s, true)
        | none => (s, true)
      let s := (s.bump Reg.PST_CNT_REJECT 1).bump
        (match why with | 3 => Reg.WYB_CNT_STALE | 4 => Reg.WYB_CNT_OVERROW | 5 => Reg.WYB_CNT_BUSY | _ => Reg.WYB_CNT_NOSLOT) 1
      let first := match s.exchOf g with | some r => !r.rejRec | none => false
      let s := if first then
          (s.record clsROUTE 0x010 (why + phys % 2 ^ 12 * 2 ^ 16) g blkPST ((r.x.posts).headD 0)).setExch g fun r => { r with rejRec := true }
        else s
      let s := s.updLanded g fun l => { l with
        rejects := l.rejects ++ [(coord, leBytes 32 (setBits (setBits tag 24 1 1) 26 3 why))] }
      (count id s, ok)

/-- The records of a segment in order. -/
def Dev.unpackRows (g coord : Nat) (r : ExchRun) : List (List Byte) → Dev → Dev × Bool
  | [], s => (s, true)
  | x :: xs, s =>
    let (s, ok) := s.unpackRow g coord r x
    if ok then Dev.unpackRows g coord r xs s else (s, false)

/-- A landed segment of a forward exchange is unpacked (R114). -/
def Dev.unpackSegment (s : Dev) (g rank : Nat) : Dev :=
  match s.exchOf g with
  | none => s
  | some r =>
    match r.x.recvs.find? fun y => y.peer == rank, s.group r.x.gid with
    | some y, some gr =>
      if r.back || !r.x.active || !y.done || r.unpacked.contains rank then s
      else
        let (s, ok) := Dev.unpackRows g (gr.coordOf rank) r (recordsOf r.recSize (s.segBytes y)) s
        if !ok then s.groupFault g 7 2
        else
          let s := s.freePlaces 1 y.places
          let s := s.setExch g fun r => { r with
            unpacked := r.unpacked ++ [rank]
            x := r.x.updRecv y.step 0 fun z => { z with places := [] } }
          let (s, ok) := s.settleSlots g r
          if ok then s.exchProgress g else s.groupFault g 7 2
    | _, _ => s

/-- A landed segment is unpacked when it is its turn on its Postilion (R84). -/
def execUnpackSegment (g rank : Nat) (s : State) : Host.Outcome State Fault Refusal := s.unit fun s =>
  match s.exchOf g with
  | some r => if s.mayWork g (s.unpackPost r.x rank) then s.unpackSegment g rank else s
  | none => s

/-! ### Combining returned rows (R118 to R123) -/

/-- A returned record given to the routing pass armed with combine area `comb`. -/
def Dev.combineRecord (s : Dev) (comb : Nat) (rec : List Byte) : Dev :=
  match s.combPass comb with
  | none => s.bump Reg.PST_CNT_STALEGEN 1
  | some (c, r) =>
    let g := c.gen
    let t := rpTokens c.desc
    let k := tagF rec 0 0 16
    let rank := tagF rec 2 0 4
    let disc := tagF rec 3 0 1 == 1
    if tagF rec 16 0 32 ≠ g % 2 ^ 32 || r.stage ≠ .combine then s.bump Reg.PST_CNT_STALEGEN 1
    else
      let bad (s : Dev) : Dev :=
        let s := s.bump Reg.PST_CNT_BADRET 1
        if r.badRet then s
        else (s.record clsROUTE 0x011 (k + rank * 2 ^ 16) g blkPST (maskInst c.desc)).setRoute g fun r => { r with badRet := true }
      match r.pickAt k rank with
      | none => bad s
      | some i =>
        let y := nth r.list i (⟨0, 0, 0, 0⟩, 0, 0)
        let full := if dspArrival r.dspcfg then decide (r.countOf k ≤ r.arrivedOf k) else r.got.any fun x => x.1 == i
        if t ≤ k || !r.sent y.1 || tagF rec 3 1 1 ≠ dspRfmt r.dspcfg || full || r.countOf k ≤ r.arrivedOf k then bad s
        else
          let row := rec.drop 64
          let got := r.got ++ [(i, disc)]
          let (s, ok) : Dev × Bool :=
            if disc then (s, true)
            else if !dspArrival r.dspcfg then s.cmdWrite g (r.slotAddr t i) row
            else
              let begun := r.got.any fun x => !x.2 && (match r.list[x.1]? with | some z => z.1.token == k | none => false)
              let (s, acc) := if begun then
                  match s.cmdRead g (r.accAddr t k) (4 * r.owidth) with
                  | (s, some b) => (s, some ((List.range r.owidth).map (rowElem 1 b)))
                  | (s, none) => (s, none)
                else s.accStart g r k
              match acc with
              | none => (s, false)
              | some acc => s.cmdWrite g (r.accAddr t k) ((List.range r.owidth).flatMap fun e =>
                  leBytes 4 (fmaF32 (nth acc e 0) y.2.2 (rowElem (dspRfmt r.dspcfg) row e)))
          if !ok then s.groupFault g 7 2
          else
            let s := s.bump (if disc then Reg.PST_CNT_DISCRET else Reg.PST_CNT_COMBINED) 1
            (s.setRoute g fun r => { r with got := got }).combineProgress g

/-- Record `i` of the segment that rank `rank` returned through exchange `x` (R118, R119). -/
def Dev.combineAt (s : Dev) (x rank i : Nat) : Dev :=
  match s.exchOf x with
  | none => s
  | some r =>
    match r.x.recvs.find? fun y => y.peer == rank with
    | none => s
    | some y =>
      let recs := recordsOf r.recSize (s.segBytes y)
      if !r.back || !y.done || r.unpacked.contains rank || recs.length ≤ i || r.read.contains (rank, i) then s
      else
        let s := s.combineRecord r.comb (nth recs i [])
        let read := r.read ++ [(rank, i)]
        let all := (List.range recs.length).all fun j => read.contains (rank, j)
        let s := if all then s.freePlaces 1 y.places else s
        let s := s.setExch x fun r => { r with
          read := read
          unpacked := if all then r.unpacked ++ [rank] else r.unpacked
          x := if all then r.x.updRecv y.step 0 (fun z => { z with places := [] }) else r.x }
        s.exchProgress x

/-- A returned record is read when it is its turn on the Postilion that serves its token (R84, R121). -/
def execCombineReturnRecord (x rank i : Nat) (s : State) : Host.Outcome State Fault Refusal := s.unit fun s =>
  match s.unread.find? fun z => z.1 == x && z.2.2.1 == rank && z.2.2.2.1 == i with
  | none => s
  | some z =>
    let (g, p) := s.recordPost x z.2.1 rank z.2.2.2.2
    if s.mayWork g p then s.combineAt x rank i else s

/-- A share of a Postilion is done. -/
def Dev.doShare (s : Dev) (p : Nat) : Share → Dev
  | .stage g => match s.cmd g, s.routeOf g with
    | some c, some r => s.stageShare c r p
    | _, _ => s
  | .unpack g rank => s.unpackSegment g rank
  | .pack g step phase =>
    let (s, ok) := s.sendGranted g step phase
    if ok then s.exchProgress g else s.groupFault g 7 2
  | .combine x rank i => s.combineAt x rank i

/-- A Postilion takes the ready share of the earliest-armed command that has one on it (R84). -/
def execPostilionShareDispatch (p : Nat) (s : State) : Host.Outcome State Fault Refusal := s.unit fun s =>
  match s.cmds.findSome? fun c => s.readyShare c p with
  | some sh => s.doShare p sh
  | none => s

/-! ### Runs again (R399, R415) -/

/-- The place of a killed command in its ring is given up before it is armed again. -/
def Dev.unflight (s : Dev) (c : Cmd) : Dev :=
  match c.src with
  | .ring q => s.setRing q { s.ring q with inflight := (s.ring q).inflight - 1 }
  | _ => s

def Dev.routeRearm (s : Dev) (c : Cmd) (r : RouteRun) : Dev :=
  match s.group r.group with
  | some g => if g.state = gFORMED then (s.unflight c).routeArm c.src c.desc (r.stalls + 1) else s.complete c 2 0
  | none => s.complete c 2 0

/-- A forward exchange that is not armed again has ended without OK, and the exchange that returns it is killed (R117). -/
def Dev.exchRearm (s : Dev) (c : Cmd) (r : ExchRun) : Dev :=
  let s := match s.group r.x.gid with
    | some g => if g.state = gFORMED then (s.unflight c).exchArm c.src c.desc (r.x.stalls + 1) else s.complete c 2 0
    | none => s.complete c 2 0
  if r.back || s.exchs.any fun y => !y.back && y.x.gid == r.x.gid && y.x.xid == r.x.xid then s
  else s.killReturns r.x.gid r.x.xid

end Sys2Proof.Machine
end

