-- ==== Sys2Proof/Machine/Fabric.lean ====
section
/-! DEFINITION. The carriages and time limits of transfers in groups (R402, R407 to R409, R413 to R415). -/
namespace Sys2Proof.Machine

/-! ### Matching (R406, R407) -/

/-- A GROUP-class command goes on after an event. -/
def Dev.xferProgress (s : Dev) (g : Nat) : Dev :=
  match s.cmd g with
  | some c => match c.body with
    | .coll _ => s.collProgress g
    | .exch _ => s.exchProgress g
    | .route _ => s.redProgress g
    | _ => s
  | none => s.refusalProgress g

/-- A result of a transfer step: the command goes on, or a fault of this member ends it. -/
def Dev.orFault (x : Dev × Bool) (g : Nat) : Dev := if x.2 then x.1.xferProgress g else x.1.groupFault g 7 2

/-- A sequence number that no command has taken yet; the identifiers of exchanges are not sequence numbers. -/
def Group.ahead (g : Group) (stream xid : Nat) : Bool :=
  decide (2 ≤ stream) || decide ((xid + 2 ^ 32 - nth g.seqs stream 0 % 2 ^ 32) % 2 ^ 32 < 2 ^ 31)

/-- What a carriage of a group meets before its own handling: the group, and the rank of its sender. -/
inductive Gate where
  /-- discarded or counted: nothing more to do -/
  | out (s : Dev)
  /-- the group is FORMING: what may be held is held -/
  | hold (g : Group) (rank : Nat)
  | pass (g : Group) (rank : Nat)

/-- The checks that every carriage of a group but JOIN and JOINACK meets (R397, R407, R417). -/
def Dev.gate (s : Dev) (gid : Nat) (c : Carriage) : Gate :=
  match s.group gid with
  | none => .out s.noGroup
  | some g =>
    match g.rankOf c.src with
    | none => .out s.stale
    | some rank =>
      if c.gdigest ≠ g.digest || g.state = gBROKEN then .out s.stale
      else if g.state = gFORMING then .hold g rank
      else if c.level ≠ g.level then .out (s.badLevel gid c)
      else .pass g rank

/-- An OFFER or ABORT for an instance that is not armed waits in the slot of its sender and stream (R395, R401, R408). -/
def Dev.holdSlot (s : Dev) (g : Group) (rank stream : Nat) (isAbort : Bool) (c : Carriage) : Dev :=
  let mine (x : Nat × Nat × Bool × Carriage) : Bool := x.1 == rank && x.2.1 == stream
  if !isAbort && g.slots.any mine then s
  else
    let s := s.updGroup g.gid fun x => { x with slots := x.slots.filter (fun y => !mine y) ++ [(rank, stream, isAbort, c)] }
    if isAbort then s else s.bump Reg.COL_CNT_EARLY 1

/-- An eager chunk for an instance that is not armed waits in the reserve, at most EAGER of one sender (R408). -/
def Dev.holdChunk (s : Dev) (g : Group) (c : Carriage) : Dev :=
  if (g.early.filter fun x => x.src == c.src).length < g.eager then
    (s.updGroup g.gid fun x => { x with early := x.early ++ [c] }).bump Reg.COL_CNT_EARLY 1
  else s.stale

/-- A stream-1 carriage names a reduction that a pass armed here has not come to (R62, R408). -/
def Dev.passAhead (s : Dev) (gid stream xid ord : Nat) : Bool :=
  stream == 1 && s.cmds.any fun c => match c.body with
    | .route r => r.group == gid && r.seq % 2 ^ 32 == xid && decide ((ord + 256 - r.ord % 256) % 256 < 128)
    | _ => false

/-- FLOWSEQ of a carriage of KIND 0b000 to 0b010 from a rank is noted (R413): the lowest number not received, and those received
beyond it. -/
def Dev.noteFlow (s : Dev) (gid rank n : Nat) : Dev :=
  s.updGroup gid fun g =>
    let (lo, more) := Sparse.get (fun _ => (0, [])) g.rxFlow rank
    if (n + 2 ^ 32 - lo) % 2 ^ 32 < 2 ^ 31 then
      let more := if more.contains n then more else more ++ [n]
      -- the numbers that follow the lowest in sequence are passed over
      let up (z : Nat × List Nat) : Nat × List Nat :=
        if z.2.contains z.1 then ((z.1 + 1) % 2 ^ 32, z.2.filter (· != z.1)) else z
      { g with rxFlow := Sparse.put (fun _ => (0, [])) g.rxFlow rank ((List.range more.length).foldl (fun z _ => up z) (lo, more)) }
    else g

/-- Step, phase and ordinal of a control carriage whose step lies at byte `n`. -/
def ctlStep (c : Carriage) (n : Nat) : Nat := c.f n 0 32
def ctlPhase (c : Carriage) : Nat := c.f 56 0 8
def ctlOrd (c : Carriage) : Nat := c.f 57 0 8

/-! ### Data -/

/-- The step of a committed command that a chunk or OFFER of a sender names, by its GEN. -/
def Group.endedOf (g : Group) (rank stream xid ord step phase sgen : Nat) : Option EndedRecv :=
  g.ended.find? fun e => e.peer == rank && e.stream == stream && e.xid % 2 ^ 32 == xid && e.ord == ord && e.step == step
    && e.phase == phase && e.sgen == sgen

/-- A chunk of a step whose command has committed arrives again: it is counted and reported, and written nowhere. -/
def Dev.lateChunk (s : Dev) (g : Group) (e : EndedRecv) (c : Nat) : Dev :=
  Dev.sendMap g cCOMPL e.stream e.xid e.gen e.step e.phase e.ord e.peer 1 [c] (s.bump Reg.COL_CNT_DUP 1)

/-- A chunk received (R407, R408, R409). -/
def execChunkReceive (c : Carriage) (s : State) : Host.Outcome State Fault Refusal := s.unit fun s =>
  let s := s.taken c
  match s.gate c.group c with
  | .out s => s
  | .hold g rank =>
    let s := s.noteFlow g.gid rank c.flowseq
    if c.stream = 0 && c.eager then s.holdChunk g c else s.stale
  | .pass g rank =>
    let s := s.noteFlow g.gid rank c.flowseq
    if c.srank ≠ rank || c.drank ≠ g.rank then s.stale
    else
      let eager := c.stream == 0 && c.eager && decide (c.chunk < g.eager)
      match s.instOf g.gid c.stream c.xid c.ord with
      | none => match g.endedOf rank c.stream c.xid c.ord c.step c.phase c.gen with
        | some e => if c.chunk < e.chunks then s.lateChunk g e c.chunk else s.stale
        | none => if eager && g.ahead 0 c.xid then s.holdChunk g c else s.stale
      | some k => Dev.orFault (s.acceptChunk g k.1 c) k.1

/-! ### Offers and tickets -/

/-- The chunks granted and not yet placed are named again to their sender (R407). -/
def Dev.ticketsAgain (g : Nat) (gr : Group) (x : Xfer) (r : RecvStep) (sgen : Nat) : Nat → List Nat → Dev → Dev
  | 0, _, s => s
  | fuel + 1, cs, s =>
    let now := firstRun cs
    if now.isEmpty then s
    else
      let s := s.sendCtl gr r.peer cTICKET x.stream x.xid g
        [(40, 0, 32, now.headD 0), (44, 0, 32, now.length), (48, 0, 32, sgen), (52, 0, 32, r.step), (56, 0, 8, r.phase),
         (57, 0, 8, x.ord)]
      Dev.ticketsAgain g gr x r sgen fuel (cs.drop now.length) s

/-- OFFER received (R402, R407, R408). -/
def execOffer (c : Carriage) (s : State) : Host.Outcome State Fault Refusal := s.unit fun s =>
  let s := s.taken c
  let st := ctlStream c
  match s.gate (ctlGroup c) c with
  | .out s => s
  | .hold g rank => s.holdSlot g rank st false c
  | .pass g rank =>
    match s.instOf g.gid st c.xid (ctlOrd c) with
      | none =>
        if (g.endedOf rank st c.xid (ctlOrd c) (ctlStep c 48) (ctlPhase c) c.gen).isSome then s
        else if g.ahead st c.xid || s.passAhead g.gid st c.xid (ctlOrd c) then s.holdSlot g rank st false c else s.stale
      | some (k, x) =>
        if st = 0 && c.f 44 0 32 ≠ x.pdigest then s.digestKill k rank
        else match x.recv (ctlStep c 48) (ctlPhase c) with
          | some r =>
            if r.peer = rank && (match r.offer with | some (_, gen) => gen == c.gen | none => false) then
              let out := (r.grants.filter fun n => !r.placed.contains n).mergeSort (· ≤ ·)
              let s := Dev.ticketsAgain k g x r c.gen out.length out s
              Dev.orFault (s.grant k r.step r.phase) k
            else s.acceptOffer k rank c
          | none => s.stale

/-- TICKETs for a step (R407, R112); an eager contribution that waits for a barrow comes first (R404). -/
def execTicketGrant (g step phase : Nat) (s : State) : Host.Outcome State Fault Refusal := s.unit fun s =>
  match s.xf g with
  | none => s
  | some _ =>
    let (s, ok) := s.takeEarly g step phase
    if ok then Dev.orFault (s.grant g step phase) g else s.groupFault g 7 2

/-- TICKET received: the granted chunks leave (R407). -/
def execTicket (c : Carriage) (s : State) : Host.Outcome State Fault Refusal := s.unit fun s =>
  let s := s.taken c
  let st := ctlStream c
  match s.gate (ctlGroup c) c with
  | .out s => s
  | .hold _ _ => s.stale
  | .pass g rank =>
    match s.instOf g.gid st c.xid (ctlOrd c) with
      | none => s.stale
      | some (k, x) =>
        let step := ctlStep c 52
        let phase := ctlPhase c
        match x.send step phase with
        | none => s.stale
        | some y =>
          if y.peer ≠ rank || !y.begun || c.f 48 0 32 ≠ k % 2 ^ 32 then s.stale
          else
            let lo := c.f 40 0 32
            let n := min (c.f 44 0 32) (stepChunks y.len - lo)
            let new := ((List.range n).map (lo + ·)).filter fun i => !y.grants.contains i
            let s := s.updX k fun x => x.updSend step phase fun y => { y with grants := y.grants ++ new, answered := true }
            Dev.orFault (s.sendGranted k step phase) k

/-! ### Completions -/

/-- The Postilion that holds the barrow packed for a chunk: the owner on its record, or, where the window has moved since (R305),
the one whose turn the chunk is. -/
def Dev.packer (s : Dev) (k : Nat) (p : Nat × Nat) : Nat :=
  let turn := match s.xf k with | some x => 0x08 + s.packPost x p.1 | none => 0x08
  match (s.barrowOf p.2).bind s.barrow with
  | some v => if v.gen % 2 ^ 32 = k % 2 ^ 32 then v.owner else turn
  | none => turn

/-- Chunks counted: eager credits come back, and the packer's barrows are freed (R407, R408, R117). -/
def Dev.countChunks (s : Dev) (k gid : Nat) (y : SendStep) (cs : List Nat) : Dev :=
  let new := y.sent.filter fun z => cs.contains z.chunk && !z.counted
  let back := (new.filter fun z => z.eager).length
  let s := s.updGroup gid fun g => g.setUsed y.peer (g.usedBy y.peer - back)
  let mine (p : Nat × Nat) : Bool := new.any fun z => z.chunk == p.1
  let s := s.each (y.places.filter mine) fun s p => s.freePlaces (s.packer k p) [p]
  s.updX k fun x => x.updSend y.step y.phase fun z => { z with
    sent := z.sent.map fun w => if cs.contains w.chunk then { w with counted := true } else w
    places := z.places.filter fun p => !mine p }

/-- The instance and send step that a COMPL or MISSING names. -/
def Dev.mapTarget (s : Dev) (g : Group) (rank : Nat) (c : Carriage) : Option (Nat × SendStep) :=
  match s.instOf g.gid (ctlStream c) c.xid (ctlOrd c) with
  | none => none
  | some (k, x) => match x.send (ctlStep c 52) (ctlPhase c) with
    | none => none
    | some y => if y.peer = rank && y.begun then some (k, y) else none

/-- COMPL received (R407). -/
def execCompl (c : Carriage) (s : State) : Host.Outcome State Fault Refusal := s.unit fun s =>
  let s := s.taken c
  match s.gate (ctlGroup c) c with
  | .out s => s
  | .hold _ _ => s.stale
  | .pass g rank =>
    match s.mapTarget g rank c with
      | none => s.stale
      | some (k, y) => (s.countChunks k g.gid y (mapChunks c)).xferProgress k

/-- The coalescing interval ends (R407). -/
def execComplCoalesceFlush (g step phase : Nat) (s : State) : Host.Outcome State Fault Refusal := s.upd fun s =>
  s.flushCompl g step phase

/-- A chunk that was sent and is not counted leaves again on another plane (R413). -/
def Dev.chunkAgain (s : Dev) (g step phase : Nat) (z : SentChunk) : Dev × Bool :=
  s.putChunk g step phase z.chunk true z.eager z.plane

/-- Several chunks of a step again. -/
def Dev.chunksAgain (g step phase : Nat) : List SentChunk → Dev → Dev × Bool
  | [], s => (s, true)
  | z :: zs, s =>
    let (s, ok) := s.chunkAgain g step phase z
    if ok then Dev.chunksAgain g step phase zs s else (s, false)

/-- MISSING received (R413): listed chunks that were sent at least GAP_TO ago leave again, those that were not leave now. -/
def execMissing (c : Carriage) (s : State) : Host.Outcome State Fault Refusal := s.unit fun s =>
  let s := s.taken c
  match s.gate (ctlGroup c) c with
  | .out s => s
  | .hold _ _ => s.stale
  | .pass g rank =>
    match s.mapTarget g rank c with
      | none => s.stale
      | some (k, y) =>
        let cs := (mapChunks c).filter (· < stepChunks y.len)
        let old := s.fld Reg.COL_TMR1 8 8 * 1000
        let again := y.sent.filter fun z => cs.contains z.chunk && !z.counted && decide (z.sentAt + old ≤ s.ns)
        let new := cs.filter fun i => !y.grants.contains i && !y.sent.any fun z => z.chunk == i
        let s := s.updX k fun x => x.updSend y.step y.phase fun z => { z with grants := z.grants ++ new }
        let (s, ok) := Dev.chunksAgain k y.step y.phase again s
        if ok then Dev.orFault (s.sendGranted k y.step y.phase) k else s.groupFault k 7 2

/-! ### Aborts and probes (R414, R415) -/

/-- ABORT received (R415, Table 13-9). -/
def execAbort (c : Carriage) (s : State) : Host.Outcome State Fault Refusal := s.upd fun s =>
  let s := s.taken c
  let st := ctlStream c
  let cause := c.f 40 0 8
  match s.gate (ctlGroup c) c with
  | .out s => s
  | .hold g rank => s.holdSlot g rank st true c
  | .pass g rank =>
    if cause = 3 then s.abortGroup g rank
    else
      let k := (s.cmds.filter fun k => match cmdInst k with
        | some (gid, stream, xid) => gid == g.gid && stream == st && xid % 2 ^ 32 == c.xid
        | none => false).getLast?
      match k with
      | some k => s.abortOne k g cause rank
      | none =>
        -- a pass refused here that still sends its first reduction ends with it
        if s.col.refusals.any fun z => z.x.gid == g.gid && st == 1 && z.x.xid % 2 ^ 32 == c.xid then
          { s with col := { s.col with
            refusals := s.col.refusals.filter fun z => !(z.x.gid == g.gid && z.x.xid % 2 ^ 32 == c.xid) } }
        -- an exchange whose own stall kill still runs keeps its XID when it runs again: the stall of a peer is that same stall
        else if cause = 4 && s.dying.any fun k => cmdInst k.cmd == some (g.gid, st, c.xid) then s.stale
        else if g.ahead st c.xid then s.holdSlot g rank st true c else s.stale

/-- PROBE received (R414). -/
def execProbe (c : Carriage) (s : State) : Host.Outcome State Fault Refusal := s.upd fun s =>
  let s := s.taken c
  let answer (s : Dev) (g : Group) (rank : Nat) : Dev :=
    s.sendCtl g rank cPROBEACK 0 0 0 [(40, 0, 32, nth g.seqs 0 0 + 2 ^ 32 - 1)]
  match s.gate (ctlGroup c) c with
  | .out s => s
  | .hold g rank => answer s g rank
  | .pass g rank => answer s g rank

/-- PROBEACK received (R414). -/
def execProbeack (c : Carriage) (s : State) : Host.Outcome State Fault Refusal := s.upd fun s =>
  let s := s.taken c
  match s.gate (ctlGroup c) c with
  | .out s => s
  | .hold _ _ => s.stale
  | .pass g rank =>
    if g.probed.contains rank then
      (s.updGroup g.gid fun x => { x with probed := x.probed.erase rank }).bump Reg.COL_CNT_SLOW 1
    else s

/-! ### Time limits (R408, R413 to R415) -/

/-- Each PROBE period every unanswered OFFER of a command is sent again (R408). -/
def execOfferRepeat (g : Nat) (s : State) : Host.Outcome State Fault Refusal := s.unit fun s =>
  match s.xf g with
  | none => s
  | some x =>
    match s.group x.gid with
    | none => s
    | some gr =>
      s.each (x.sends.filter fun y => y.begun && y.peer != gr.rank) fun s y =>
        let rest := (List.range (stepChunks y.len)).any fun c => !y.grants.contains c && !y.sent.any fun z => z.chunk == c
        let s := if rest && !y.answered then s.sendOffer gr x y g else s
        s.updX g fun x => x.updSend y.step y.phase fun z => { z with answered := false }

/-- Chunks of one step that were sent on plane `p` and are not counted leave again. -/
def Dev.planeAgain (s : Dev) (g p : Nat) (y : SendStep) : Dev :=
  match s.xf g with
  | none => s
  | some _ =>
    let (s, ok) := Dev.chunksAgain g y.step y.phase (y.sent.filter fun z => z.plane == some p && !z.counted) s
    if ok then s else s.groupFault g 7 2

/-- A link of plane `p` has gone down (R413). -/
def execLinkDownRetransmit (p : Nat) (s : State) : Host.Outcome State Fault Refusal := s.unit fun s =>
  s.each s.xfers fun s k => s.each k.2.sends fun s y => s.planeAgain k.1 p y

/-- COMPL_TO passes for a chunk (R413). -/
def execChunkCompletionTimeout (g step phase chunk : Nat) (s : State) : Host.Outcome State Fault Refusal := s.unit fun s =>
  match s.xf g with
  | none => s
  | some x =>
    match x.send step phase with
    | none => s
    | some y =>
      match y.sent.find? fun z => z.chunk == chunk && !z.counted with
      | none => s
      | some z =>
        if z.retx < s.fld Reg.COL_TMR1 16 4 then
          let (s, ok) := s.chunkAgain g step phase z
          if ok then s else s.groupFault g 7 2
        else s.peerFail x.gid y.peer 0x034

/-- A gap in FLOWSEQ from a peer has lasted GAP_TO: MISSING for every step with granted chunks not placed, and the numbers of
the gap are passed over (R413). -/
def execGapTimeout (gid rank : Nat) (s : State) : Host.Outcome State Fault Refusal := s.unit fun s =>
  match s.group gid with
  | none => s
  | some gr =>
    let (lo, more) := Sparse.get (fun _ => (0, [])) gr.rxFlow rank
    if more.isEmpty then s
    else
      let ahead := (more.map fun n => (n + 2 ^ 32 - lo) % 2 ^ 32).foldl max 0
      let s := s.updGroup gid fun g => { g with
        rxFlow := Sparse.put (fun _ => (0, [])) g.rxFlow rank ((lo + ahead + 1) % 2 ^ 32, []) }
      s.each s.xfers fun s k =>
        let x := k.2
        if x.gid ≠ gid then s
        else s.each (x.recvs.filter fun r => r.peer == rank && rank != gr.rank) fun s r =>
          let cs := r.grants.filter fun c => !r.placed.contains c
          Dev.sendMap gr cMISSING x.stream x.xid k.1 r.step r.phase x.ord rank cs.length cs s

/-- A command of the group waits on a rank (R414). -/
def Dev.waitsOn (s : Dev) (gid rank : Nat) : Bool :=
  s.xfers.any fun k => k.2.gid == gid && k.2.waitsOn rank

/-- A peer on which an instance waits has been silent for one PROBE period (R414). -/
def execProbeTimeout (gid rank : Nat) (s : State) : Host.Outcome State Fault Refusal := s.upd fun s =>
  match s.group gid with
  | none => s
  | some gr =>
    if gr.state = gFORMED && gr.others.contains rank && s.waitsOn gid rank then
      (s.updGroup gid fun x => { x with probed := x.probed ++ [rank] }).sendCtl gr rank cPROBE 0 0 0 []
    else s

/-- A peer on which an instance waits has been silent for FAIL_TO (R414). -/
def execPeerFailTimeout (gid rank : Nat) (s : State) : Host.Outcome State Fault Refusal := s.upd fun s =>
  match s.group gid with
  | none => s
  | some gr =>
    if gr.state = gFORMED && gr.others.contains rank && s.waitsOn gid rank then s.peerFail gid rank 0x033 else s

/-- An instance has made no progress for STALL_TO (R415). -/
def execStallTimeout (g : Nat) (s : State) : Host.Outcome State Fault Refusal := s.upd fun s =>
  match s.cmd g with
  | none => s
  | some c => match cmdInst c with
    | none => s
    | some (gid, stream, xid) => match s.group gid with
      | none => s
      | some gr =>
        let running := match c.body.xfer with | some x => x.active | none => true
        if s.fld Reg.COL_TMR0 24 8 = 0 || !running then s
        else
          let s := (s.record clsFAB 0x039 gid g blkCOL gr.slot).bump Reg.COL_CNT_STALL 1
          (s.groupKill g 2 (cmdStalls c == 0)).sendAborts gr stream xid 4

/-! ### Fabric time in a group (R379) -/

def cTSREQ : Nat := 0x10
def cTSANS : Nat := 0x11

/-- A member sends a timestamp request to the reference (R379), stamped t1 as it leaves: a control carriage on VC6, of type
0x10 (PRESUMED, log entry 183: Table 13-7 gives the types 0x10 to 0x17 to the exchange and no layout). Its XID is bits 31:0 of
t1, which the answer carries back, so that an answer later than PERIOD is told from that to the next request. One that no answer
has met is counted. -/
def execTsyncExchange (s : State) : Host.Outcome State Fault Refusal := s.upd fun s =>
  match s.group s.tsyncGroup with
  | none => s
  | some gr =>
    if !s.tsyncEn || s.tsyncRef then s
    else
      let s := match s.tpk.t1 with
        | none => s
        | some _ =>
          let s := { s with tpk := { s.tpk with good := 0, missed := s.tpk.missed + 1 } }
          if 4 ≤ s.tpk.missed then s.lockLost 0x7FFFFFFF else s
      let s := { s with tpk := { s.tpk with t1 := some (BitVec.ofNat 64 s.now) } }
      (s.sendCtl gr 0 cTSREQ 0 (s.now % 2 ^ 32) 0 []).bump Reg.TPK_CNT_TSYNC 1

/-- The reference stamps t2 as a request arrives and t3 as its answer leaves (R379): type 0x11, with t2 in bytes 40 to 47 and t3
in bytes 48 to 55. `rank` is that of the member that asks. -/
def execTsyncRequest (rank : Nat) (c : Carriage) (s : State) : Host.Outcome State Fault Refusal := s.upd fun s =>
  let s := s.taken c
  match s.gate (ctlGroup c) c with
  | .out s => s
  | .hold _ _ => s.stale
  | .pass g r =>
    if r = rank && s.tsyncEn && s.tsyncRef && g.gid = s.tsyncGroup then
      s.sendCtl g rank cTSANS 0 c.xid 0 [(40, 0, 64, s.now), (48, 0, 64, s.now)]
    else s

/-- A member computes the offset from an answer, t4 being its arrival, and removes it; LOCKED after four good exchanges in a row
(R379). -/
def Dev.tsyncAnswer (s : Dev) (t1 t2 t3 : Word64) : Dev :=
  let off := Int.tdiv (toSigned 64 (t2 - t1).toNat + toSigned 64 (t3 - BitVec.ofNat 64 s.now).toNat) 2
  let s := { s with tpk := { s.tpk with t1 := none, missed := 0, good := if off.natAbs ≤ 50 then s.tpk.good + 1 else 0 } }
  let s := s.setFld Reg.TPK_TSTAT 8 24 (ofSigned 24 (sat24 off))
  let s := if 50 < off.natAbs then s.lockLost (ofSigned 32 (sat24 off))
    else if 4 ≤ s.tpk.good then s.setFlag Reg.TPK_TSTAT 0 true else s
  s.timeOffset off

/-- An answer comes from the member of rank `rank`; only that of rank 0, the reference, to the request that waits counts, while
TPK_TSYNC.EN is 1. -/
def execTsyncResponse (rank : Nat) (c : Carriage) (s : State) : Host.Outcome State Fault Refusal := s.upd fun s =>
  let s := s.taken c
  match s.gate (ctlGroup c) c, s.tpk.t1 with
  | .out s, _ => s
  | .hold _ _, _ => s.stale
  | .pass g r, some t1 =>
    if r = rank && g.gid = s.tsyncGroup && rank = 0 && s.tsyncEn && !s.tsyncRef && c.xid = t1.toNat % 2 ^ 32 then
      s.tsyncAnswer t1 (BitVec.ofNat 64 (c.f 40 0 64)) (BitVec.ofNat 64 (c.f 48 0 64))
    else s
  | .pass _ _, none => s

end Sys2Proof.Machine
end

