-- ==== Sys2Proof/Machine/Mmf.lean ====
section
/-! DEFINITION. The memory-fabric agent: regions, line requests, atomics, gateway transfers, lent HBM (R420 to R439), and the
loss of a lender (R434). -/
namespace Sys2Proof.Machine

/-- STATUS codes of Table 14-2. -/
def stOK : Nat := 0
def stBUSY : Nat := 1
def stNOREGION : Nat := 2
def stDENIED : Nat := 3
def stRANGE : Nat := 4
def stNOLOAN : Nat := 5
def stPOISON : Nat := 6
def stFAULT : Nat := 7

/-- Two devices within one switch stage (R420). -/
def sameStage (a b : Nat) : Bool := a / 256 == b / 256

/-! ### Serving: checks (R422, R423, Table 14-2) -/

/-- A region register as arriving requests see it: a value that waits counts at once (R424). -/
def Dev.mmfReg (s : Dev) (off : Nat) : Nat :=
  match s.mmf.pend.find? fun p => p.1 == off with
  | some p => p.2.toNat
  | none => s.reg off

/-- A requester is a member of the exporter's group (R423): its group byte is the same, or a formed group holds it. -/
def Dev.mmfMember (s : Dev) (c : Nat) : Bool :=
  sameStage s.coord c || s.col.groups.any fun g => g.state == gFORMED && g.members.contains c

/-- The lent units in force toward a borrower: first frame and frames. -/
def Dev.lentTo (s : Dev) (c : Nat) : List (Nat × Nat) :=
  ((List.range 16).map fun j => s.reg (Reg.MMF_LOAN j)).filterMap fun w =>
    if bit w 48 && bits w 0 16 == c then some (bits w 16 9 * 512, bits w 32 9 * 512) else none

/-- The lines of a region or loan that a request names: a job address, or a memory key of lent frames. -/
inductive Place where
  | job (a : Nat)
  | lent (k : Nat)
deriving DecidableEq, Repr

/-- What a request meets, in the order of Table 14-2 but for BUSY and POISON: a status, or the place. -/
def Dev.mmfCheck (s : Dev) (src space region off n width : Nat) (wr atomic : Bool) : Nat × Place :=
  let ctl := s.mmfReg (Reg.MMF_RCTL region)
  let base := s.mmfReg (Reg.MMF_RBASE region) / 4096 * 4096
  let size := bits (s.mmfReg (Reg.MMF_RSIZE region)) 0 28 * 4096
  if !s.flag Reg.MMF_CFG 0 || (space = 0 && !bit ctl 0) then (stNOREGION, .job 0)
  else if space = 1 then
    if (List.range ((off % 2 ^ 21 + n + (2 ^ 21 - 1)) / 2 ^ 21)).all fun i =>
        (s.lentTo src).any fun r => decide (r.1 ≤ off / 2 ^ 21 + i) && decide (off / 2 ^ 21 + i < r.1 + r.2)
    then (if atomic && off % width ≠ 0 then (stRANGE, .lent 0) else (stOK, .lent (hbmKey 0 off)))
    else (stNOLOAN, .lent 0)
  else
    let a := base + off
    if size < off + n || (atomic && off % width ≠ 0) then (stRANGE, .job 0)
    else if !s.mmfMember src
        || (wr && !(bits ctl 1 2 == 2 || (bits ctl 1 2 == 1 && bits ctl 8 16 == src)))
        || (atomic && !bit ctl 3) then (stDENIED, .job 0)
    else if !(inCH a n || s.inHBM a n) || (wr && (s.spanFault a n true).isSome) then (stFAULT, .job 0)
    else (stOK, .job a)

/-- The key of a byte of a place. -/
def Dev.placeKey (s : Dev) (p : Place) (i : Nat) : Nat :=
  match p with
  | .lent k => k + i
  | .job a => match s.xlate (a + i) false with | .key k => k | .bad _ => 0
/-- The start of the line that holds a place. -/
def Place.line : Place → Place
  | .job a => .job (a / 64 * 64)
  | .lent k => .lent (k / 64 * 64)
def placeAddr (p : Place) (i : Nat) : Nat := match p with | .job a => a + i | .lent _ => 0

/-- Lines read at the exporter (R593): the worst status, FAULT before POISON. -/
def Dev.placeLines (p : Place) : List Nat → Dev → Dev × Nat
  | [], s => (s, stOK)
  | i :: is, s =>
    let k := s.placeKey p i
    let ue := s.lineOf k == .ue
    let (s, ok) := s.lineRead false 0 (placeAddr p i) k
    if ue then (s, stFAULT)
    else
      let (s, st) := Dev.placeLines p is s
      (s, if ok || st = stFAULT then st else stPOISON)

def Dev.placeRead (s : Dev) (p : Place) (n : Nat) : List Byte :=
  let bs := (List.range n).map fun i => s.rd (s.placeKey p i)
  match p with
  | .job a => s.hostBytes a bs
  | .lent _ => bs
def Dev.placeWrite (s : Dev) (p : Place) (bs : List Byte) : Dev :=
  match p with
  | .job a => s.jobWrite 0 a bs
  | .lent k => s.wrBytes k bs
def Dev.placeTouch (s : Dev) (p : Place) (n : Nat) : Dev := match p with | .job a => (s.touch a n).snooped false a n | .lent _ => s

/-- The lines, by byte from the start, that a span of `n` bytes takes. -/
def lineSteps (n : Nat) : List Nat := (List.range (ceilDiv n 64)).map (64 * ·)

/-- The response to a request. -/
def Dev.mmfReply (s : Dev) (c : Carriage) (status old : Nat) (pay : List Byte) : Dev :=
  let s := s.bump Reg.MMF_CNT_REQRX 1
  let s := if status = stOK || status = stBUSY then s else s.bump Reg.MMF_CNT_REFUSED 1
  s.mmfSend c.src kMRSP c.gen
    [(28, 0, 8, mOp c), (29, 0, 2, mLines c - 1), (30, 0, 4, mAop c), (30, 4, 1, (mW64 c).toNat), (31, 0, 8, status),
     (32, 0, 16, mTag c), (34, 0, 1, mSpace c), (35, 0, 6, mRegion c), (36, 0, 64, mOffset c), (44, 0, 64, old)] pay none

/-- LOAD (R425). -/
def execLoad (c : Carriage) (s : State) : Host.Outcome State Fault Refusal := s.unit fun s =>
  let s := s.taken c
  let n := 64 * mLines c
  let (st, p) := s.mmfCheck c.src (mSpace c) (mRegion c) (mOffset c / 64 * 64) n 64 false false
  if c.kind ≠ kMREQ || mOp c ≠ oLOAD then s
  else if st ≠ stOK then s.mmfReply c st 0 []
  else
    let (s, st) := Dev.placeLines p (lineSteps n) (s.placeTouch p n)
    s.mmfReply c st 0 (if st = stFAULT then [] else s.placeRead p n)

/-- STORE (R425). -/
def execStore (c : Carriage) (s : State) : Host.Outcome State Fault Refusal := s.upd fun s =>
  let s := s.taken c
  let n := 64 * mLines c
  let (st, p) := s.mmfCheck c.src (mSpace c) (mRegion c) (mOffset c / 64 * 64) n 64 true false
  if c.kind ≠ kMREQ || mOp c ≠ oSTORE then s
  else if st ≠ stOK then s.mmfReply c st 0 []
  else (s.placeWrite p (c.payload.take n)).mmfReply c stOK 0 []

/-- An atomic operation of Table 14-3 on a word of `w` bits. -/
def atomicOp (aop w old x cmp : Nat) : Nat :=
  match aop with
  | 1 => (old + x) % 2 ^ w
  | 2 => x
  | 3 => if old = cmp then x else old
  | 4 => old &&& x
  | 5 => old ||| x
  | 6 => old ^^^ x
  | 7 => max old x
  | 8 => min old x
  | 9 => if toSigned w old < toSigned w x then x else old
  | 10 => if toSigned w x < toSigned w old then x else old
  | _ => old

def aopOk (a : Nat) : Bool := decide (1 ≤ a) && decide (a ≤ 10)

/-- ATOMIC (R426, R427). -/
def execAtomic (c : Carriage) (s : State) : Host.Outcome State Fault Refusal := s.unit fun s =>
  let s := s.taken c
  let b := if mW64 c then 8 else 4
  let mine (e : AtomEntry) : Bool := e.coord == c.src && e.tag == mTag c
  if c.kind ≠ kMREQ || mOp c ≠ oATOMIC || !aopOk (mAop c) then s
  else
    match (if mRetry c then s.mmf.atoms.find? mine else none) with
    | some e => s.mmfReply c stOK e.old.toNat []
    | none =>
      if 4096 ≤ s.mmf.atoms.length then (s.mmfReply c stBUSY 0 []).bump Reg.MMF_CNT_ATOMBUSY 1
      else
        let (st, p) := s.mmfCheck c.src (mSpace c) (mRegion c) (mOffset c) b b true true
        if st ≠ stOK then s.mmfReply c st 0 []
        else
          let (s, st) := Dev.placeLines p [0] (s.placeTouch p b)
          if st ≠ stOK then s.mmfReply c st 0 (if st = stPOISON then s.placeRead p.line 64 else [])
          else
            let old := leNat (s.placeRead p b)
            let new := atomicOp (mAop c) (8 * b) old (mOperand c % 2 ^ (8 * b)) (mCompare c % 2 ^ (8 * b))
            let s := s.placeWrite p (leBytes b new)
            let s := s.setMmf fun m => { m with
              atoms := m.atoms.filter (fun e => !mine e) ++ [⟨c.src, mTag c, BitVec.ofNat 64 old⟩] }
            s.mmfReply c stOK old []

/-- The hold time of an atomic's saved result ends (R427). -/
def execAtomEntryExpire (coord tag : Nat) (s : State) : Host.Outcome State Fault Refusal := s.upd fun s =>
  s.setMmf fun m => { m with atoms := m.atoms.filter fun e => !(e.coord == coord && e.tag == tag) }

/-! ### Serving: gateway transfers (R429) -/

/-- BULKACK to the other end of a transfer: chunks placed, or the status that ends it. -/
def Dev.sendBulkAck (s : Dev) (dst gen base map status : Nat) : Dev :=
  s.mmfSend dst kMRSP gen [(16, 0, 32, base), (28, 0, 8, oBULKACK), (31, 0, 8, status), (44, 0, 64, map)] [] none

/-- The chunks of a pending acknowledgement, one message for each run of 64 from the lowest on. -/
def Dev.bulkAcks (dst gen : Nat) : Nat → List Nat → Dev → Dev
  | 0, _, s => s
  | fuel + 1, cs, s =>
    match cs.min? with
    | none => s
    | some b =>
      let now := cs.filter (· < b + 64)
      Dev.bulkAcks dst gen fuel (cs.filter (b + 64 ≤ ·)) (s.sendBulkAck dst gen b (now.map fun c => 2 ^ (c - b)).sum stOK)

/-- The acknowledgements that wait for a transfer are sent. -/
def Dev.flushAcks (s : Dev) (coord gen : Nat) : Dev :=
  let mine (a : AckPend) : Bool := a.coord == coord && a.gen == gen
  match s.mmf.acks.find? mine with
  | none => s
  | some a =>
    let s := s.setMmf fun m => { m with acks := m.acks.filter fun x => !mine x }
    Dev.bulkAcks coord gen a.chunks.length a.chunks s

/-- A chunk placed joins the acknowledgement of its transfer, which is sent at 64 chunks. -/
def Dev.noteAck (s : Dev) (coord gen chunk : Nat) : Dev :=
  let mine (a : AckPend) : Bool := a.coord == coord && a.gen == gen
  let add (a : AckPend) : AckPend := { a with chunks := if a.chunks.contains chunk then a.chunks else a.chunks ++ [chunk] }
  let acks := if s.mmf.acks.any mine then updFirst mine add s.mmf.acks else s.mmf.acks ++ [⟨coord, gen, [chunk]⟩]
  let s := s.setMmf fun m => { m with acks := acks }
  if s.mmf.acks.any fun a => mine a && decide (64 ≤ a.chunks.length) then s.flushAcks coord gen else s

def BulkServe.chunks (b : BulkServe) : Nat := ceilDiv b.len 4096

def Dev.dropServe (s : Dev) (b : BulkServe) : Dev :=
  s.setMmf fun m => { m with serves := m.serves.filter fun x => !(x.coord == b.coord && x.gen == b.gen) }

/-- Chunk `c` of a load that this exporter streams: read and sent, or the load ends with a status. It runs on by the entry
of its region that it was checked against (R424). -/
def Dev.serveChunk (s : Dev) (b : BulkServe) (c : Nat) (excl : Option Nat) : Dev × Bool :=
  let off := b.offset + 4096 * c
  let n := min 4096 (b.len - 4096 * c)
  let fail (s : Dev) (st : Nat) : Dev × Bool :=
    (((s.dropServe b).bump Reg.MMF_CNT_REFUSED 1).mmfSend b.coord kMRSP b.gen
      [(16, 0, 32, c), (28, 0, 8, oBULKRD), (31, 0, 8, st), (34, 0, 1, b.space), (35, 0, 6, b.region), (36, 0, 64, off)] [] none, false)
  let p : Place := if b.space = 1 then .lent (b.start + 4096 * c) else .job (b.start + 4096 * c)
  let here := match p with | .lent _ => true | .job a => inCH a n || s.inHBM a n
  if !here then fail s stFAULT
  else
    let (s, st) := Dev.placeLines p (lineSteps n) (s.placeTouch p n)
    if st ≠ stOK then fail s st
    else (s.putBulk b.coord b.gen oLOAD b.space b.region off c b.chunks (s.placeRead p n) excl, true)

/-- A load streams while at most 64 of its chunks are unacknowledged, up to one that the host has to give up first (R446). -/
def Dev.servePump (coord gen : Nat) : Nat → Dev → Dev
  | 0, s => s
  | fuel + 1, s =>
    match s.mmf.serves.find? fun x => x.coord == coord && x.gen == gen with
    | none => s
    | some b =>
      if b.chunks ≤ b.next || 64 + b.acked.length ≤ b.next then s
      else
        let (t, ok) := s.serveChunk b b.next none
        if !ok then t
        else if t.tiers.stalls ≠ s.tiers.stalls then s.askOnly t
        else Dev.servePump coord gen fuel (t.setMmf fun m => { m with
          serves := updFirst (fun x => x.coord == coord && x.gen == gen) (fun x => { x with next := x.next + 1 }) m.serves })

/-- BULKRD (R429): the whole span is checked, then its chunks stream. A repeated BULKRD finds its transfer running. -/
def execBulkrd (c : Carriage) (s : State) : Host.Outcome State Fault Refusal := s.unit fun s =>
  let s := s.taken c
  let n := mCompare c
  let off := mOffset c / 64 * 64
  if c.kind ≠ kMREQ || mOp c ≠ oBULKRD || n = 0 then s
  else if s.mmf.serves.any fun b => b.coord == c.src && b.gen == c.gen then s
  else
    let (st, p) := s.mmfCheck c.src (mSpace c) (mRegion c) off n 64 false false
    if st ≠ stOK then s.mmfReply c st 0 []
    else
      let start := match p with | .job a => a | .lent k => k
      let s := (s.setMmf fun m => { m with
        serves := m.serves ++ [⟨c.src, c.gen, mSpace c, mRegion c, off, n, 0, [], [], start, false⟩] }).bump Reg.MMF_CNT_REQRX 1
      Dev.servePump c.src c.gen 65 s

/-! ### Requesting (R429, R430, R435) -/

def Dev.setMfx (s : Dev) (g : Nat) (f : MfxRun → MfxRun) : Dev :=
  s.updCmd g fun c => match c.body with
    | .mfx r => { c with body := .mfx (f r) }
    | _ => c

/-- What ends with a command of the agent (R436): its requests, and its carriages that have not entered the switch. -/
def Dev.mmfStop (s : Dev) (g : Nat) : Dev :=
  let own (c : Carriage) : Bool := c.gen == g % 2 ^ 32 && (c.kind == kMREQ || (c.kind == kBULK && mOp c == oSTORE))
  { s with
    mmf := { s.mmf with reqs := s.mmf.reqs.filter fun r => r.use != .unit g && r.use != .atomic g }
    stg := { s.stg with
      outbox := s.stg.outbox.filter fun x => !(x.ep == 41 && own x.car)
      waiting := s.stg.waiting.filter fun x => !(x.ep == 41 && own x.car) } }

/-- A MATOMIC's request has left the device (R437). -/
def Dev.atomicLeft (s : Dev) (g : Nat) (r : MatomicRun) : Bool :=
  r.got.isSome || s.mmf.reqs.any fun x => x.use == .atomic g && (x.plane.isSome || x.busy || decide (1 < x.tries))

/-- A command of the agent is killed (R435 to R437): a MATOMIC whose request has left is not run again. -/
def Dev.mmfKill (s : Dev) (g status : Nat) (rerun : Bool) : Dev :=
  match s.cmd g with
  | some c => match c.body with
    | .matomic r =>
      if s.atomicLeft g r then
        ((s.mmfStop g).record clsMEM 0x023 (r.remote * 2 ^ 16) g blkMMF 0).kill g status false
      else (s.mmfStop g).kill g status rerun
    | _ => (s.mmfStop g).kill g status rerun
  | none => s

/-- An MFX issues line requests while it may (R429), up to one whose source has to be waited for: false where its source cannot be
read. -/
def Dev.linePump (g : Nat) : Nat → Dev → Dev × Bool
  | 0, s => (s, true)
  | fuel + 1, s =>
    match s.cmd g with
    | some c => match c.body with
      | .mfx r =>
        if r.len ≤ r.issued || 1024 ≤ s.mmf.reqs.length then (s, true)
        else
          let off := r.offset + r.issued
          let n := min (min 4 ((4096 - off % 4096) / 64)) ((r.len - r.issued) / 64)
          let (t, bs) := if r.store then s.cmdRead g (r.loc + r.issued) (64 * n) else (s, some [])
          match bs with
          | none => (t, false)
          | some bs =>
            if t.tiers.stalls ≠ s.tiers.stalls then (s.askOnly t, true) else
            let s := t
            let q : LineReq := ⟨0, g, r.remote, if r.store then oSTORE else oLOAD, 0, r.region, off, n, 0, false, 0, 0, 1, none, false, .unit g⟩
            Dev.linePump g fuel ((s.newReq q bs).setMfx g fun r => { r with issued := r.issued + 64 * n })
      | _ => (s, true)
    | none => (s, true)

def MfxRun.chunks (r : MfxRun) : Nat := ceilDiv r.len 4096

/-- Chunk `c` of a gateway store leaves. -/
def Dev.storeChunk (s : Dev) (g : Nat) (r : MfxRun) (c : Nat) (excl : Option Nat) : Dev × Bool :=
  let n := min 4096 (r.len - 4096 * c)
  match s.cmdRead g (r.loc + 4096 * c) n with
  | (s, none) => (s, false)
  | (s, some bs) => (s.putBulk r.remote g oSTORE 0 r.region (r.offset + 4096 * c) c r.chunks bs excl, true)

/-- A gateway store sends chunks while at most 64 are unacknowledged. -/
def Dev.storePump (g : Nat) : Nat → Dev → Dev × Bool
  | 0, s => (s, true)
  | fuel + 1, s =>
    match s.cmd g with
    | some c => match c.body with
      | .mfx r =>
        if r.chunks ≤ r.issued || 64 + r.done.length ≤ r.issued then (s, true)
        else
          let (t, ok) := s.storeChunk g r r.issued none
          if !ok then (t, false)
          else if t.tiers.stalls ≠ s.tiers.stalls then (s.askOnly t, true)
          else Dev.storePump g fuel (t.setMfx g fun r => { r with issued := r.issued + 1 })
      | _ => (s, true)
    | none => (s, true)

/-- The BULKRD of a gateway load is issued when there is room. -/
def Dev.bulkrdPump (s : Dev) (g : Nat) (r : MfxRun) : Dev :=
  if r.issued ≠ 0 || 1024 ≤ s.mmf.reqs.length then s
  else
    let q : LineReq := ⟨0, g, r.remote, oBULKRD, 0, r.region, r.offset, 1, 0, false, 0, BitVec.ofNat 64 r.len, 1, none, false, .unit g⟩
    (s.setMfx g fun r => { r with issued := 1 }).newReq q []

/-- The one request of a MATOMIC is issued when there is room. -/
def Dev.atomicPump (s : Dev) (g : Nat) (d : Line) (r : MatomicRun) : Dev :=
  if r.issued || 1024 ≤ s.mmf.reqs.length then s
  else
    let q : LineReq := ⟨0, g, r.remote, oATOMIC, 0, lfield d 17 0 6, lnum d 24 8, 1, lfield d 16 0 4, lfield d 16 4 1 == 1,
      BitVec.ofNat 64 (lnum d 32 8), BitVec.ofNat 64 (lnum d 40 8), 1, none, false, .atomic g⟩
    (s.setBody g (.matomic { r with issued := true })).newReq q []

/-- A command of the agent goes on; a fault of its own memory kills it. -/
def Dev.mfxGo (s : Dev) (g : Nat) : Dev :=
  match s.cmd g with
  | some c => match c.body with
    | .mfx r =>
      let (s, ok) := if !r.gateway then Dev.linePump g 1025 s else if r.store then Dev.storePump g 65 s else (s.bulkrdPump g r, true)
      if ok then s else s.mmfKill g 2 false
    | .matomic r => s.atomicPump g c.desc r
    | _ => s
  | none => s

/-- What waits for room or for an answer goes on. -/
def Dev.mfxGoAll (s : Dev) : Dev :=
  let s := (Dev.reqPump s.mmf.queue.length s).sectorPump
  let s := s.each (s.cmds.map (·.gen)) Dev.mfxGo
  s.each s.mmf.serves fun s b => Dev.servePump b.coord b.gen 65 s

/-! ### The commands MFX and MATOMIC (R428) -/

/-- The first bad field of Table 14-4. -/
def Dev.mfxBad (s : Dev) (d : Line) : Option Nat :=
  let len := lnum d 40 8
  if lfield d 16 1 7 ≠ 0 then some 16
  else if lfield d 17 6 2 ≠ 0 then some 17
  else if lnum d 18 2 = s.coord then some 18
  else if !lzeros d 20 23 then some 20
  else if lnum d 24 8 % 64 ≠ 0 then some 24
  else if lnum d 32 8 % 64 ≠ 0 then some 32
  else if len % 64 ≠ 0 || len = 0 || 2 ^ 40 < len then some 40
  else if lnum d 48 8 % 64 ≠ 0 || !inCH (lnum d 48 8) 64 then some 48
  else if !lzeros d 56 63 then some 56
  else none

/-- MFX armed (R428, R429, R240). -/
def execMfx (src : Source) (d : Line) (s : State) : Host.Outcome State Fault Refusal := s.upd fun s =>
  if dOp d ≠ 0x0500 then s
  else match s.headCheck d with
    | some r => s.refuse src d r
    | none =>
      match s.mfxBad d with
      | some n => s.refuse src d ⟨clsMEM, 0x020, n⟩
      | none =>
        let store := lfield d 16 0 1 == 1
        let remote := lnum d 18 2
        let loc := lnum d 24 8
        let len := lnum d 40 8
        let rpt := lnum d 48 8
        if store && loc < rpt + 64 && rpt < loc + len then s.refuse src d ⟨clsJOB, 0x044, max loc rpt⟩
        else
          let min_ := s.fld Reg.MMF_CFG 8 8
          let gateway := !(sameStage s.coord remote && (min_ == 0 || decide (len < min_ * 1024)))
          let run : MfxRun := ⟨store, gateway, remote, lfield d 17 0 6, loc, lnum d 32 8, len, rpt, 0, [], [], 0⟩
          let (s, g) := s.arm src d 0 (if store then [(jobKey loc, len)] else [])
            (if store then [(jobKey rpt, 64)] else [(jobKey loc, len), (jobKey rpt, 64)]) (.mfx run)
          s.mfxGo g

/-- The first bad field of Table 14-5. -/
def Dev.matomicBad (s : Dev) (d : Line) : Option Nat :=
  let b := if lfield d 16 4 1 = 1 then 8 else 4
  if !aopOk (lfield d 16 0 4) || lfield d 16 5 3 ≠ 0 then some 16
  else if lfield d 17 6 2 ≠ 0 then some 17
  else if lnum d 18 2 = s.coord || !sameStage s.coord (lnum d 18 2) then some 18
  else if !lzeros d 20 23 then some 20
  else if lnum d 24 8 % b ≠ 0 then some 24
  else if lfield d 16 0 4 ≠ 3 && lnum d 40 8 ≠ 0 then some 40
  else if lnum d 48 8 % 8 ≠ 0 then some 48
  else if !lzeros d 56 63 then some 56
  else none

/-- MATOMIC armed: its one request (R428). It waits where 1,024 requests are outstanding. -/
def execMatomic (src : Source) (d : Line) (s : State) : Host.Outcome State Fault Refusal := s.upd fun s =>
  if dOp d ≠ 0x0501 then s
  else match s.headCheck d with
    | some r => s.refuse src d r
    | none =>
      match s.matomicBad d with
      | some n => s.refuse src d ⟨clsMEM, 0x020, n⟩
      | none =>
        let remote := lnum d 18 2
        let res := lnum d 48 8
        let (s, g) := s.arm src d 0 [] [(jobKey res, 8)] (.matomic ⟨false, remote, res, none, false⟩)
        s.mfxGo g

/-! ### The loss of a lender (R434) -/

/-- The job address of a byte of lent HBM, or 0. -/
def Dev.lentAddr (s : Dev) (k : Nat) : Nat :=
  match s.pt.find? fun e => pteHome e.2.toNat == 4 && pteLender e.2.toNat == keyLender k && pteFrame e.2.toNat == keyLentOff k / 2 ^ 21 with
  | some e => e.1 * 2 ^ 21 + k % 2 ^ 21
  | none => 0

/-- A lender is lost: `who` tells the entries of MMF_BORROW, `g` is the generation of the command whose request or carriage shows it,
or 0 (R439). -/
def Dev.lenderLost (s : Dev) (g : Nat) (who : Nat → Nat → Bool) : Dev :=
  let hit := (List.range 16).filter fun k =>
    let w := s.reg (Reg.MMF_BORROW k)
    bit w 48 && !bit w 49 && who k (bits w 0 16)
  s.each hit fun s k =>
    let l := s.fld (Reg.MMF_BORROW k) 0 16
    let s := (s.setFlag (Reg.MMF_BORROW k) 49 true).record clsMEM 0x024 (k + l * 2 ^ 16) g blkMMF 0
    s.tierLost fun home lender => home == 4 && lender == l

/-- A request of lent HBM fails with its lender: its command is to be killed with MEM/0x008 (R434, R282). -/
def Dev.lentFail (s : Dev) (g k : Nat) : Dev :=
  let s := s.bump Reg.MEM_CNT_XLFAULT 1
  if g = 0 then s
  else (s.record clsMEM 0x008 (s.lentAddr k) g blkMEM 0).setTiers fun t => { t with
    lost := if t.lost.contains g then t.lost else t.lost ++ [g] }

/-- The generation that a request is made for, in a record. -/
def Dev.reqGen (s : Dev) (q : LineReq) : Nat :=
  match q.use with
  | .sector p _ => ((s.moveOf p).map s.moveGenOf).getD 0
  | _ => q.gen

/-- A carriage to a lender given up for lack of a route (R360, R434). -/
def Dev.norouteTimeout (s : Dev) (e : Nat) : Dev :=
  let (s, c) := s.giveUp e
  match c with
  | some c =>
    let req := if c.kind ≠ kMREQ then none
      else s.mmf.reqs.find? fun q => q.tag == mTag c && q.remote == c.dst && q.gen % 2 ^ 32 == c.gen
    let g := if c.kind = kMRSP then 0
      else match req with
        | some q => s.reqGen q
        | none => ((s.cmds.find? fun k => k.gen % 2 ^ 32 == c.gen).map (·.gen)).getD 0
    let lent := (s.granted false).any fun x => x.1 == c.dst
    let s := s.lenderLost g fun _ l => l == c.dst
    match req with
    | some q => match q.use with
      | .lent g => if lent then (s.dropReq q.tag).lentFail g q.key else s
      | _ => s
    | none => s
  | none => s

/-- An answer to a recheck (R434): OK brings the pages back. -/
def Dev.recheckDone (s : Dev) (k status : Nat) : Dev :=
  let s := s.setFlag (Reg.MMF_BORROW k) 50 false
  if status = stOK then
    let s := s.setFlag (Reg.MMF_BORROW k) 49 false
    let l := s.fld (Reg.MMF_BORROW k) 0 16
    let ok (f : Nat) : Bool := s.grants.any fun g => g.1 == l && decide (g.2.1 ≤ f) && decide (f < g.2.1 + g.2.2)
    s.each s.pt fun s e =>
      let x := s.pte e.1
      if pteHome x = 4 && pteLender x = l && ok (pteFrame x) && pteMstate x = mstUnreachable then s.setMstate e.1 0 else s
  else if status = stNOLOAN then s.lenderLost 0 fun i _ => i == k
  else s

/-- The first line of a loan is loaded (R434). -/
def Dev.recheck (s : Dev) (k : Nat) : Dev :=
  let w := s.reg (Reg.MMF_BORROW k)
  if !bit w 48 || (s.mmf.reqs ++ s.mmf.queue).any (fun r => r.use == .recheck k) then s
  else
    (s.setFlag (Reg.MMF_BORROW k) 50 true).askReq
      ⟨0, 0, bits w 0 16, oLOAD, 1, 0, bits w 16 9 * 512 * 2 ^ 21, 1, 0, false, 0, 0, 1, none, false, .recheck k⟩

/-- RECHECK written 1. -/
def execBorrowRecheck (k : Nat) (s : State) : Host.Outcome State Fault Refusal := s.upd fun s => if 16 ≤ k then s else s.recheck k

/-! ### Answers -/

/-- A status that kills the command of a request (R435): poison as R299 states (the line lies in the memory of another device,
so MEM_POISONADDR names the tier of lent HBM and the local address), every other with MEM/0x021. -/
def Dev.mmfRefused (s : Dev) (g status remote loc : Nat) : Dev :=
  if status = stPOISON then
    (((s.bump Reg.MEM_CNT_POISON 1).poisonAt 4 loc).record clsMEM 0x006 loc g blkMEM 0).mmfKill g 2 false
  else (s.record clsMEM 0x021 (status + remote * 2 ^ 16) g blkMMF 0).mmfKill g 2 false

/-- An answer to a request for a line of lent HBM (R432, R434, R435). What a load brings is laid where the device has no store to
the line under way; poison, and for a unit outside a command a line that the lender could not read, goes into the line. -/
def Dev.lentAnswer (s : Dev) (q : LineReq) (g st : Nat) (pay : List Byte) : Dev :=
  let s := s.dropReq q.tag
  let load := q.op == oLOAD
  let lay (s : Dev) : Dev := (if (s.mmf.reqs ++ s.mmf.queue).any fun r => r.op == oSTORE && r.meets q then s
    else s.wrBytes q.key (pay.take 64 ++ List.replicate (64 - pay.length) 0)).lentGot g q.key
  if st = stOK then (if load then lay s else s)
  else if st = stNOLOAN then
    let f := keyLentOff q.key / 2 ^ 21
    let s := s.lenderLost g fun k l => l == q.remote && decide (s.fld (Reg.MMF_BORROW k) 16 9 * 512 ≤ f)
      && decide (f < (s.fld (Reg.MMF_BORROW k) 16 9 + s.fld (Reg.MMF_BORROW k) 32 9) * 512)
    s.lentFail g q.key
  else if load && (st = stPOISON || g = 0) then (lay s).setLine q.key .poison
  else if g = 0 then s
  else (s.record clsMEM 0x021 (st + q.remote * 2 ^ 16) g blkMMF 0).setTiers fun t => { t with
    lost := if t.lost.contains g then t.lost else t.lost ++ [g] }

/-- Chunk `c` of a sector is done; the transfer ends with its last. -/
def Dev.sectorDone (s : Dev) (x : SectorXfer) (c : Nat) : Dev :=
  let y := { x with done := if x.done.contains c then x.done else x.done ++ [c] }
  s.setMmf fun m => { m with sectors :=
    if y.left.isEmpty then m.sectors.erase x else updFirst (fun z => z == x) (fun _ => y) m.sectors }

/-- A transfer of the Dray fails (R434, Table 08-6): the lender is lost, or the move is cancelled. -/
def Dev.sectorFail (s : Dev) (x : SectorXfer) (st : Nat) : Dev :=
  match s.moveOf x.page with
  | none => s.sectorsDrop x.page
  | some m =>
    if st = stNOLOAN then
      let f := x.off / 2 ^ 21
      s.lenderLost (s.moveGenOf m) fun k l => l == x.lender && decide (s.fld (Reg.MMF_BORROW k) 16 9 * 512 ≤ f)
        && decide (f < (s.fld (Reg.MMF_BORROW k) 16 9 + s.fld (Reg.MMF_BORROW k) 32 9) * 512)
    else if x.store then s.destFail m
    else (s.moveCancel m 0).pump

/-- The answer to the BULKRD of a sector: a chunk that the lender cannot read carries poison to its destination (R435), and what is
left of the sector is asked for again. -/
def Dev.sectorAnswer (s : Dev) (x : SectorXfer) (st chunk : Nat) : Dev :=
  let s := s.setMmf fun m => { m with reqs := m.reqs.filter fun q => q.use != .sector x.page x.sec }
  let c := x.base + chunk
  if (st = stPOISON || st = stFAULT) && decide (c < 16) then
    let s := s.each (List.range 64) fun s l => s.setLine (x.key + 4096 * c + 64 * l) .poison
    let y := { x with begun := false }
    ((s.setMmf fun m => { m with sectors := updFirst (fun z => z == x) (fun _ => y) m.sectors }).sectorDone y c).sectorPump
  else s.sectorFail x st

/-- The gateway load, or store, of a sector that a carriage belongs to. -/
def Dev.sectorOf (s : Dev) (store : Bool) (c : Carriage) : Option SectorXfer :=
  s.mmf.sectors.find? fun x => x.store == store && x.begun && x.lender == c.src && x.gen == c.gen

/-- A line response (R430, R435, R436). -/
def Dev.lineResponse (s : Dev) (c : Carriage) : Dev :=
  let s := s.taken c
  if c.kind ≠ kMRSP || mOp c = oBULKACK then s
  else if mOp c = oBULKRD then
    match s.sectorOf false c with
    | some x => (s.sectorAnswer x (mStatus c) c.chunk).mfxGoAll
    | none =>
    match s.cmds.find? fun k => match k.body with
      | .mfx r => r.gateway && !r.store && r.remote == c.src && k.gen % 2 ^ 32 == c.gen
      | _ => false with
    | some k => match k.body with
      | .mfx r => s.mmfRefused k.gen (mStatus c) c.src (r.loc + (mOffset c - r.offset))
      | _ => s
    | none => s.bump Reg.MMF_CNT_STALE 1
  else
    match s.mmf.reqs.find? fun r => r.tag == mTag c && r.gen % 2 ^ 32 == c.gen && r.remote == c.src && r.op == mOp c with
    | none => s.bump Reg.MMF_CNT_STALE 1
    | some q =>
      let st := mStatus c
      if st = stBUSY then
        s.setMmf fun m => { m with reqs := updFirst (fun r => r.tag == q.tag) (fun r => { r with busy := true }) m.reqs }
      else match q.use with
        | .recheck k => ((s.dropReq q.tag).recheckDone k st).mfxGoAll
        | .lent g => (s.lentAnswer q g st c.payload).mfxGoAll
        | .sector _ _ => s
        | .atomic g =>
          match s.cmd g with
          | some k => match k.body with
            | .matomic r =>
              if st = stOK then
                ((s.dropReq q.tag).setBody g (.matomic { r with got := some (mOperand c % 2 ^ (if q.w64 then 64 else 32)) })).mfxGoAll
              else (s.mmfRefused g st q.remote r.result).mfxGoAll
            | _ => s
          | none => s
        | .unit g =>
          match s.cmd g with
          | some k => match k.body with
            | .mfx r =>
              let loc := r.loc + (q.offset - r.offset)
              if st ≠ stOK then (s.mmfRefused g st q.remote loc).mfxGoAll
              else
                let (s, ok) := if r.store then (s, true) else s.cmdWrite g loc (c.payload.take (64 * q.nlines))
                if ok then (s.dropReq q.tag).mfxGoAll else (s.mmfKill g 2 false).mfxGoAll
            | _ => s
          | none => s

/-- The chunks that a BULKACK names. -/
def ackChunks (c : Carriage) : List Nat := (bitsSet 64 (mOperand c)).map (c.chunk + ·)

/-- BULKACK (R429): to the source of a store, or to the exporter that streams a load. -/
def Dev.bulkack (s : Dev) (c : Carriage) : Dev :=
  let s := s.taken c
  if c.kind ≠ kMRSP || mOp c ≠ oBULKACK then s
  else
    let cs := ackChunks c
    match s.sectorOf true c with
    | some x =>
      if mStatus c ≠ stOK then (s.sectorFail x (mStatus c)).mfxGoAll
      else s.each (cs.filter (· < 16)) fun s k => match s.sectorOf true c with
        | some x => s.sectorDone x k
        | none => s
    | none =>
    match s.cmds.find? fun k => match k.body with
      | .mfx r => r.gateway && r.store && r.remote == c.src && k.gen % 2 ^ 32 == c.gen
      | _ => false with
    | some k => match k.body with
      | .mfx r =>
        if mStatus c ≠ stOK then s.mmfRefused k.gen (mStatus c) c.src r.loc
        else (s.setMfx k.gen fun r => { r with done := r.done ++ cs.filter fun x => decide (x < r.issued) && !r.done.contains x }).mfxGo k.gen
      | _ => s
    | none =>
      let mine (b : BulkServe) : Bool := b.coord == c.src && b.gen == c.gen
      match s.mmf.serves.find? mine with
      | some b =>
        let acked := b.acked ++ cs.filter fun x => decide (x < b.next) && !b.acked.contains x
        if b.chunks ≤ acked.length then s.dropServe b
        else Dev.servePump b.coord b.gen 65
          (s.setMmf fun m => { m with serves := updFirst mine (fun x => { x with acked := acked }) m.serves })
      | none => s.bump Reg.MMF_CNT_STALE 1

/-- A gateway chunk (R429): a store's chunk at the exporter, or a load's chunk at the device that asked. -/
def Dev.bulkChunk (s : Dev) (c : Carriage) : Dev :=
  let s := s.taken c
  let n := mCompare c
  if c.kind ≠ kBULK || n = 0 || 4096 < n then s
  else if mOp c = oSTORE then
    let (st, p) := s.mmfCheck c.src (mSpace c) (mRegion c) (mOffset c / 64 * 64) n 64 true false
    let s := s.bump Reg.MMF_CNT_REQRX 1
    if st ≠ stOK then (s.bump Reg.MMF_CNT_REFUSED 1).sendBulkAck c.src c.gen c.chunk 0 st
    else (s.placeWrite p (c.payload.take n)).noteAck c.src c.gen c.chunk
  else if mOp c = oLOAD then
    match s.sectorOf false c with
    | some x =>
      let k := x.base + c.chunk
      let s := s.setMmf fun m => { m with reqs := m.reqs.filter fun q => q.use != .sector x.page x.sec }
      if 16 ≤ k then s
      else
        let bs := c.payload.take 4096
        let s := if x.done.contains k then s else (s.wrBytes (x.key + 4096 * k) bs).sectorDone x k
        (s.noteAck c.src c.gen c.chunk).mfxGoAll
    | none =>
    match s.cmds.find? fun k => match k.body with
      | .mfx r => r.gateway && !r.store && r.remote == c.src && k.gen % 2 ^ 32 == c.gen
      | _ => false with
    | some k => match k.body with
      | .mfx r =>
        if r.chunks ≤ c.chunk then s
        else
          let s := s.setMmf fun m => { m with reqs := m.reqs.filter fun q => q.use != .unit k.gen }
          let (s, ok) := s.cmdWrite k.gen (r.loc + 4096 * c.chunk) (c.payload.take (min 4096 (r.len - 4096 * c.chunk)))
          if !ok then s.mmfKill k.gen 2 false
          else
            ((s.setMfx k.gen fun r => { r with done := if r.done.contains c.chunk then r.done else r.done ++ [c.chunk] }).noteAck
              c.src c.gen c.chunk).mfxGoAll
      | _ => s
    | none => s.bump Reg.MMF_CNT_STALE 1
  else s

/-- The 1 us coalescing interval ends (R429). -/
def execBulkackCoalesceFlush (coord gen : Nat) (s : State) : Host.Outcome State Fault Refusal := s.upd fun s =>
  s.flushAcks coord gen

/-! ### Time limits -/

/-- The payload of a request sent again: a store reads its lines once more. -/
def Dev.reqPay (s : Dev) (q : LineReq) : Dev × Option (List Byte) :=
  match q.use with
  | .unit g => match s.cmd g with
    | some k => match k.body with
      | .mfx r => if q.op = oSTORE then s.cmdRead g (r.loc + (q.offset - r.offset)) (64 * q.nlines) else (s, some [])
      | _ => (s, some [])
    | none => (s, some [])
  | .lent _ => (s, some (s.lentPay q))
  | _ => (s, some [])

/-- REQ_TO without a response (R427, R434, R435). -/
def Dev.requestTimeout (s : Dev) (tag : Nat) : Dev :=
  match s.mmf.reqs.find? fun r => r.tag == tag with
  | none => s
  | some q =>
    if !q.busy && s.fld Reg.MMF_TMR 8 4 ≤ q.tries then
      let gen := s.reqGen q
      let s := match q.use with
        | .recheck _ | .lent _ | .sector _ _ => s.dropReq tag
        | .unit g | .atomic g => (s.record clsMEM 0x022 (q.remote * 2 ^ 16) g blkMMF 0).mmfKill g 2 false
      let s := s.lenderLost gen fun _ l => l == q.remote
      (match q.use with | .lent g => s.lentFail g q.key | _ => s).mfxGoAll
    else
      let again (r : LineReq) : LineReq := { r with tries := if r.busy then r.tries else r.tries + 1, busy := false }
      let s := s.setMmf fun m => { m with reqs := updFirst (fun r => r.tag == tag) again m.reqs }
      match s.reqPay q with
      | (s, none) => match q.use with | .unit g => (s.mmfKill g 2 false).mfxGoAll | _ => s
      | (s, some bs) =>
        let s := match q.use with | .unit g => s.setMfx g fun r => { r with repeats := r.repeats + 1 } | _ => s
        s.putReq q true bs q.plane

/-- BULK_TO without an acknowledgement: chunk `chunk` of the transfer of generation `g` with device `coord` (R429). -/
def execBulkChunkTimeout (coord g chunk : Nat) (s : State) : Host.Outcome State Fault Refusal := s.unit fun s =>
  let plane (x : List (Nat × Nat)) : Option Nat := (x.find? fun y => y.1 == chunk).map (·.2)
  match s.mmf.sectors.find? fun x => x.store && x.lender == coord && x.gen == g with
  | some x => if 16 ≤ chunk || x.done.contains chunk then s else s.sectorChunk x chunk (plane x.planes)
  | none =>
  match s.cmds.find? fun k => match k.body with
    | .mfx r => r.gateway && r.store && r.remote == coord && k.gen == g
    | _ => false with
  | some k => match k.body with
    | .mfx r =>
      if r.issued ≤ chunk || r.done.contains chunk then s
      else
        let (s, ok) := s.storeChunk g r chunk (plane r.planes)
        if ok then s.setMfx g fun r => { r with repeats := r.repeats + 1 } else s.mmfKill g 2 false
    | _ => s
  | none =>
    match s.mmf.serves.find? fun b => b.coord == coord && b.gen == g with
    | some b => if b.next ≤ chunk || b.acked.contains chunk then s else (s.serveChunk b chunk (plane b.planes)).1
    | none => s

/-! ### Commit (R430, R562) -/

/-- The report of Table 14-6. -/
def MfxRun.report (r : MfxRun) (g : Nat) : List Byte :=
  leBytes 4 g ++ leBytes 1 r.gateway.toNat ++ leBytes 3 0 ++ leBytes 8 (if r.gateway then r.chunks else r.len / 64)
    ++ leBytes 4 r.repeats ++ leBytes 44 0

/-- Every line or chunk of an MFX has been answered, and its writes have landed. -/
def Dev.mfxSettled (s : Dev) (g : Nat) (r : MfxRun) : Bool :=
  (if r.gateway then decide (r.chunks ≤ r.done.length) else decide (r.len ≤ r.issued))
    && !s.writeHeld g && !s.mmf.reqs.any fun q => q.use == .unit g

/-- An MFX commits: the report is written last, then HAND. -/
def Dev.mfxCommit (s : Dev) (g : Nat) (c : Cmd) (r : MfxRun) : Dev :=
  if !s.mfxSettled g r then s
  else
    let s := if (s.ctrBad (dHand c.desc)).isNone then s.wrBytes (chAddr r.rpt) (r.report g) else s
    s.commit g 0

/-- A MATOMIC commits: its old value is written at RESULT_ADDR, then HAND. -/
def Dev.matomicCommit (s : Dev) (g : Nat) (c : Cmd) (r : MatomicRun) : Dev :=
  match r.got with
  | none => s
  | some old =>
    if r.wrote then (if s.writeHeld g then s else s.commit g 0)
    else if (s.ctrBad (dHand c.desc)).isSome then (s.ctrFault (dHand c.desc) g).mmfKill g 2 false
    else
      match s.cmdWrite g r.result (leBytes 8 old) with
      | (s, false) => s.mmfKill g 2 false
      | (s, true) =>
        if s.writeHeld g then s.setBody g (.matomic { r with wrote := true }) else s.commit g 0

/-! ### Regions and loans (R422, R424, R431, R433) -/

/-- The entry and kind (0 base, 1 size, 2 control) of a region register. -/
def regionOf (off : Nat) : Option (Nat × Nat) :=
  let x := off - Reg.MMF_RBASE 0
  if Reg.MMF_RBASE 0 ≤ off && x < 0x400 then
    match x % 16 with
    | 0 => some (x / 16, 0)
    | 8 => some (x / 16, 1)
    | 12 => some (x / 16, 2)
    | _ => none
  else none

/-- The range of region `i` as written lies in the Coach House or in HBM and is not empty (R422). -/
def Dev.regionOk (s : Dev) (i : Nat) : Bool :=
  let base := s.mmfReg (Reg.MMF_RBASE i) / 4096 * 4096
  let n := bits (s.mmfReg (Reg.MMF_RSIZE i)) 0 28 * 4096
  n != 0 && (inCH base n || s.inHBM base n)

/-- A region register written (R422, R424): the value waits, and requests that arrive from now on see it. A write that would
leave a VALID region of no bytes or outside the Coach House and HBM is discarded whole, before any other check (R18). -/
def execRegionWrite (off : Nat) (v : Word64) (s : State) : Host.Outcome State Fault Refusal := s.upd fun s =>
  match regionOf off, findRow off with
  | some (i, kind), some row =>
    let old := s.mmfReg off
    let new := mergeWrite row .host old v.toNat
    if (kind = 2 && bit new 0 && !s.regionOk i) || (kind = 1 && bits new 0 28 = 0 && bit (s.mmfReg (Reg.MMF_RCTL i)) 0)
    then s.discard clsMEM 0x025 off 0
    else if regReserved s.express off new then s.record clsHOST 0x004 off 0 (blockAt off) 0
    else
      let s := s.setMmf fun m => { m with
        pend := m.pend.filter (fun p => p.1 != off) ++ [(off, BitVec.ofNat 64 new)]
        serves := m.serves.map fun b => if b.space = 0 && b.region = i then { b with old := true } else b }
      s.setFlag (Reg.MMF_RCTL i) 31 true
  | _, _ => s

/-- The requests checked against the old entry have been applied (R424). -/
def execRegionChangeApply (i : Nat) (s : State) : Host.Outcome State Fault Refusal := s.upd fun s =>
  if s.mmf.serves.any fun b => b.space == 0 && b.region == i && b.old then s
  else
    let mine (p : Nat × Word64) : Bool := match regionOf p.1 with | some x => x.1 == i | none => false
    let s := s.each (s.mmf.pend.filter mine) fun s p => s.setReg p.1 p.2.toNat
    let s := s.setMmf fun m => { m with pend := m.pend.filter fun p => !mine p }
    if i < 64 then s.setFlag (Reg.MMF_RCTL i) 31 false else s

/-- A loan ends (R433): its frames are being zeroed. -/
def Dev.loanStop (s : Dev) (j : Nat) : Dev :=
  if s.flag (Reg.MMF_LOAN j) 48 then (s.setFlag (Reg.MMF_LOAN j) 48 false).setFlag (Reg.MMF_LOAN j) 49 true else s

/-- MMF_LOAN(j) written (R431, R433). -/
def execLoanWrite (j : Nat) (v : Word64) (s : State) : Host.Outcome State Fault Refusal := s.upd fun s =>
  let off := Reg.MMF_LOAN j
  let w := v.toNat
  let frames := (List.range (bits w 32 9 * 512)).map (bits w 16 9 * 512 + ·)
  if 16 ≤ j then s
  else if !sameStage s.coord (bits w 0 16) then s.discard clsMEM 0x025 off 0
  else if s.flag off 48 && !bit w 48 then s.loanStop j
  else if s.flag off 49 || (bit w 48 && (!s.flag Reg.MMF_CFG 1 || !frames.all s.hbmFree)) then s.discard clsMEM 0x025 off 0
  else s.regWrite .host off w

/-- VALID of a loan written 0 (R433). -/
def execLoanEnd (j : Nat) (s : State) : Host.Outcome State Fault Refusal := s.upd fun s => if 16 ≤ j then s else s.loanStop j

/-- The frames of a loan are zeroed (R433). -/
def execLoanClearDone (j : Nat) (s : State) : Host.Outcome State Fault Refusal := s.upd fun s =>
  let off := Reg.MMF_LOAN j
  if 16 ≤ j || !s.flag off 49 then s
  else
    let lo := hbmKey (s.fld off 16 9 * 512) 0
    let hi := lo + s.fld off 32 9 * 2 ^ 30
    let out (k : Nat) : Bool := decide (k < lo) || decide (hi ≤ k)
    Dev.pump (Dev.setFlag { s with mem := s.mem.filter (fun c => out c.1), bad := s.bad.filter fun l => out (l.1 * 64) } off 49 false)

/-- A page is homed in the loan that a value of MMF_BORROW names. -/
def Dev.homedIn (s : Dev) (w : Nat) : Bool :=
  s.pt.any fun e => pteHome e.2.toNat == 4 && pteLender e.2.toNat == bits w 0 16
    && decide (bits w 16 9 * 512 ≤ pteFrame e.2.toNat) && decide (pteFrame e.2.toNat < (bits w 16 9 + bits w 32 9) * 512)

/-- MMF_BORROW(k) written (R431, R433, R434). -/
def execBorrowWrite (k : Nat) (v : Word64) (s : State) : Host.Outcome State Fault Refusal := s.upd fun s =>
  let off := Reg.MMF_BORROW k
  let w := v.toNat
  let old := s.reg off
  let same := bit w 48 && bits w 0 16 == bits old 0 16 && bits w 16 9 == bits old 16 9 && bits w 32 9 == bits old 32 9
  if 16 ≤ k then s
  else if !sameStage s.coord (bits w 0 16) || (bit old 48 && !same && s.homedIn old) then s.discard clsMEM 0x025 off 0
  else
    let bad := regReserved s.express off w
    let s := s.regWrite .host off w
    if !bad && bit w 50 then s.recheck k else s

end Sys2Proof.Machine
end

