-- ==== Sys2Proof/Machine/Sequencer.lean ====
section
/-! DEFINITION. Tile programs: teams, instances, work sharing, stops, fences (R173, R226 to R246, R261, R264, R498, R499). -/
namespace Sys2Proof.Machine

/-! ### Coaches -/

def Dev.coachOn (s : Dev) (n : Nat) : Bool := decide (n < 64) && bit (s.reg Reg.SIZ_COACHMAP) n
def csSize : Nat := 48 * 2 ^ 20

/-- CCH_CSTAT.STATE codes (Table 04-16). -/
def csFENCED : Nat := 1
def csPGATED : Nat := 2
def csCGATED : Nat := 3
def csFILL : Nat := 4
def csRUN : Nat := 5
def Dev.cState (s : Dev) (n : Nat) : Nat := s.fld (Reg.CCH_CSTAT n) 0 3
def Dev.setCState (s : Dev) (n x : Nat) : Dev := s.setFld (Reg.CCH_CSTAT n) 0 3 x

def Dev.setCch (s : Dev) (f : Coaches → Coaches) : Dev := { s with cch := f s.cch }

/-! ### Teams and instances -/

def Dev.team (s : Dev) (g : Nat) : Option ProgRun :=
  (s.cmd g).bind fun c => match c.body with
    | .prog r => some r
    | _ => none
def Dev.setTeam (s : Dev) (g : Nat) (f : ProgRun → ProgRun) : Dev :=
  s.updCmd g fun c => match c.body with
    | .prog r => { c with body := .prog (f r) }
    | _ => c
def Dev.setInst (s : Dev) (g n : Nat) (f : ProgInst → ProgInst) : Dev :=
  s.setTeam g fun r => { r with insts := updFirst (fun i => i.coach == n) f r.insts }

def isProg : CmdBody → Bool | .prog _ => true | _ => false
/-- RUNPROGs armed and not completed (CCH_DET.TEAMS). -/
def Dev.teams (s : Dev) : Nat :=
  (s.cmds.filter fun c => isProg c.body).length + (s.dying.filter fun c => isProg c.cmd.body).length

/-- The instance that runs on Coach n: its team's generation, the team, the instance. -/
def Dev.instOn (s : Dev) (n : Nat) : Option (Nat × ProgRun × ProgInst) :=
  s.cmds.findSome? fun c => match c.body with
    | .prog r => (r.insts.find? fun i => i.coach == n && i.phase == .run).map fun i => (c.gen, r, i)
    | _ => none

/-- An instance runs on Coach n or waits for it. -/
def Dev.instWaits (s : Dev) (n : Nat) : Bool :=
  s.cmds.any fun c => match c.body with
    | .prog r => r.insts.any fun i => i.coach == n && (i.phase == .queued || i.phase == .run)
    | _ => false

/-- A command of the instance of a team on Coach n. -/
def ofInst (g n : Nat) (c : Cmd) : Bool :=
  match c.body with
  | .coach r => r.team == g && r.coach == n
  | _ => false
/-- Commands of an instance that are armed and not committed, and those whose kill has not completed. -/
def Dev.instCmds (s : Dev) (g n : Nat) : List Cmd := s.cmds.filter (ofInst g n)
def Dev.instDying (s : Dev) (g n : Nat) : List Dying := s.dying.filter fun x => ofInst g n x.cmd

/-- The status block of Table 06-16. -/
def ProgRun.block (r : ProgRun) (g state status entry : Nat) : List Byte :=
  leBytes 4 g ++ leBytes 1 state ++ leBytes 1 status ++ leBytes 2 0 ++ leBytes 8 entry ++ leBytes 8 r.commits ++ leBytes 8 r.kills
    ++ leBytes 8 r.takes ++ leBytes 8 r.retries ++ leBytes 8 r.steals ++ leBytes 8 r.retaken

/-- A RUNPROG ends once no instance is queued or runs (R226, R244, R245, R246). -/
def Dev.teamFinish (s : Dev) (g : Nat) : Dev :=
  match s.cmd g, s.team g with
  | some c, some r =>
    if r.insts.any fun i => i.phase == .queued || i.phase == .run then s
    else match r.stopped with
      | some (st, e) => (s.wrBytes (chAddr r.status) (r.block g 2 st e)).finish g 2 0
      | none =>
        if r.team.all fun n => !s.coachOn n then
          let s := s.record clsJOB 0x04A (lnum c.desc 24 8 % 2 ^ 32) g blkCCH 0xFF
          (s.wrBytes (chAddr r.status) (r.block g 2 2 0)).finish g 2 0
        else if (s.ctrBad (dHand c.desc)).isSome then s.commit g 0
        else (s.wrBytes (chAddr r.status) (r.block g 1 0 0)).commit g 0
  | _, _ => s

/-- An instance whose team has stopped ends when none of its commands is armed or being killed. -/
def Dev.instCheck (s : Dev) (g n : Nat) : Dev :=
  match s.team g with
  | none => s
  | some r =>
    if r.stopped.isSome && (s.instCmds g n).isEmpty && (s.instDying g n).isEmpty then
      (s.setInst g n fun i => if i.phase = .run then { i with phase := .ended } else i).teamFinish g
    else s

/-- The control operation that an instance has armed is dropped. -/
def Dev.dropCtl (s : Dev) (g n ctl : Nat) : Dev :=
  if ctl = 0 then s
  else
    let s := { s with cmds := s.cmds.filter fun c => c.gen != ctl }
    (s.setInst g n fun i => { i with ctl := 0 }).setTeam g fun r => { r with kills := r.kills + 1 }

/-- A team stops (R244): it is recorded with the error that stops it, no instance arms a further command, and armed control
operations are killed. -/
def Dev.teamStop (s : Dev) (g n entry status : Nat) (err : Option (Nat × Nat)) : Dev :=
  match s.team g with
  | none => s
  | some r =>
    if r.stopped.isSome then s
    else
      let s := match err with
        | some (code, detail) => s.record clsJOB code detail g blkCCH n
        | none => s
      let s := s.setTeam g fun r => { r with
        stopped := some (status, entry)
        insts := r.insts.map fun i => if i.phase = .queued then { i with phase := .ended } else i }
      let s := s.each r.insts fun s i => s.dropCtl g i.coach i.ctl
      let s := s.each (r.insts.filter fun i => i.phase == .run) fun s i => s.instCheck g i.coach
      s.teamFinish g

/-! ### The next entry of an instance (R227) -/

/-- Where the sequencer of a Coach stands: team, instance, address of the next entry, whether it lies in a table. -/
structure SeqAt where
  g     : Nat
  team  : ProgRun
  inst  : ProgInst
  addr  : Nat
  table : Bool

def ProgRun.entryAddr (r : ProgRun) (i : ProgInst) : Nat :=
  match i.work with
  | some w => w.table + 64 * (w.dcount * w.index + w.pos)
  | none => r.prog + 64 * i.pc

def Dev.setDbg (s : Dev) (f : Harness → Harness) : Dev := { s with dbg := f s.dbg }

/-- The sequencer of Coach n is halted (R567): a halt ends with the instance that it holds (R570). -/
def Dev.seqHalted (s : Dev) (n : Nat) : Bool :=
  s.dbg.halts.any fun h => h.1 == n && match h.2 with
    | none => true
    | some g => match s.instOn n with
      | some (g', _, _) => g == g'
      | none => false

/-- A breakpoint of the sequencer of Coach n at an address. -/
def Dev.seqBp (s : Dev) (n a : Nat) : Bool := s.dbg.bps.any fun b => b.1 == 0x40 + n && b.2.2 == a

/-- The Harness lets the sequencer of Coach n arm the entry at `a` (R567, R568): it is neither halted nor halting, but for
the one entry of a STEP, and no breakpoint stops it. -/
def Dev.seqFree (s : Dev) (n a : Nat) : Bool :=
  if s.dbg.steps.contains (n, false) then true
  else if s.dbg.steps.contains (n, true) || s.dbg.halting.contains n || s.seqHalted n then false
  else s.dbg.passes.contains n || !s.seqBp n a

/-- The sequencer of Coach n has armed an entry: a STEP has had its entry, and a breakpoint passed is behind it. -/
def Dev.seqPassed (s : Dev) (n : Nat) : Dev :=
  s.setDbg fun h => { h with
    steps := h.steps.map fun x => if x.1 = n then (n, true) else x
    passes := h.passes.filter fun x => x != n }

/-- Where the instance on Coach n stands, if its team has not stopped and it is at an entry. -/
def Dev.seqPos (s : Dev) (n : Nat) : Option SeqAt :=
  match s.instOn n with
  | none => none
  | some (g, r, i) =>
    let inside := match i.work with | some w => decide (w.pos < w.dcount) | none => decide (i.pc < r.len)
    if r.stopped.isNone && i.doing == .entry && inside then some ⟨g, r, i, r.entryAddr i, i.work.isSome⟩ else none

/-- The sequencer of Coach n may arm the entry at which its instance stands. -/
def Dev.seqAt (s : Dev) (n : Nat) : Option SeqAt := (s.seqPos n).filter fun q => s.seqFree n q.addr

/-- A command refused at its entry stops its team (R244). -/
def Dev.seqRefuse (s : Dev) (q : SeqAt) (d : Line) (r : Refuse) : Dev :=
  (s.refuse (.seq q.inst.coach) d r).teamStop q.g q.inst.coach q.addr 1 (some (0x047, q.addr))

/-- The entry read: one that cannot be read stops the team; an opcode that may not stand there is refused (R216, R227). -/
def Dev.seqEntry (s : Dev) (n op : Nat) (f : Dev → SeqAt → Line → Dev) : Dev :=
  match s.seqAt n with
  | none => s
  | some q =>
    match s.cmdRead q.g q.addr 64 with
    | (s, none) => s.teamStop q.g n q.addr 2 none
    | (s, some bs) =>
      let d : Line := BitVec.ofNat 512 (leNat bs)
      let coachOp := decide (0x0100 ≤ dOp d) && decide (dOp d ≤ 0x0104)
      let ctlOp := decide (1 ≤ dOp d) && decide (dOp d ≤ 5)
      if !(coachOp || (ctlOp && !q.table)) then s.seqRefuse q d ⟨clsJOB, 0x040, dOp d⟩
      else if dOp d ≠ op then s
      else f s q d

def coachRun (q : SeqAt) (ctl : Bool) : CoachRun :=
  { team := q.g, coach := q.inst.coach, pc := q.inst.pc, pos := q.inst.work.map (·.pos), addr := q.addr, ctl := ctl, chunk := 0,
    phase := 0, nt := 0, kp := 0, accs := [], rows := [], tiles := [], mxSeen := [], done := false, counted := false,
    flags := .zero, skipped := 0, offs := .zero, pruned := 0, fell := 0, pred := .zero }

/-! ### Control operations (Table 06-12) -/

/-- The first bad byte of a control operation: the header bytes 2 to 15, the bytes that `named` does not name, then the
addresses and counts. -/
def ctlBad (d : Line) (op : Nat) : Option Nat :=
  let ch (n : Nat) : Bool := lnum d n 8 % 8 == 0 && inCH (lnum d n 8) 8
  let tbl : Option Nat :=
    if !ch 32 then some 32
    else if lnum d 40 2 = 0 || 64 < lnum d 40 2 then some 40 else none
  if lnum d 2 1 ≠ 0 then some 2
  else if lnum d 3 1 ≠ 0 then some 3
  else if lnum d 4 4 ≠ 0 then some 4
  else if lnum d 8 8 ≠ 0 then some 8
  else match op with
    | 1 => if !ch 16 then some 16 else if !lzeros d 32 63 then some 32 else none
    | 2 => if !ch 16 then some 16 else if lfield d 32 1 7 ≠ 0 then some 32 else if !lzeros d 33 63 then some 33 else none
    | 3 => if !ch 16 then some 16 else if !lzeros d 24 31 then some 24 else
        match tbl with
        | some n => some n
        | none => if !lzeros d 42 63 then some 42 else none
    | 4 => if !ch 16 then some 16 else if !lzeros d 28 31 then some 28 else
        match tbl with
        | some n => some n
        | none => if lfield d 42 1 7 ≠ 0 then some 42 else if !lzeros d 43 63 then some 43 else none
    | _ => if !lzeros d 16 63 then some 16 else none

/-- A control operation armed at an entry, with its generation. -/
def Dev.ctlEntry (s : Dev) (q : SeqAt) (n : Nat) (d : Line) : Dev × Nat :=
  let ag := s.arm (.seq n) d q.addr [] [] (.coach (coachRun q true))
  ((ag.1.setInst q.g n fun i => { i with ctl := ag.2 }).seqPassed n, ag.2)

/-- A control operation at the entry of Coach n: it is armed once every earlier command of its instance has committed. -/
def Dev.ctlArm (s : Dev) (n op : Nat) (f : Dev → SeqAt → Line → Nat → Dev) : Dev :=
  s.seqEntry n op fun s q d =>
    if !((s.instCmds q.g n).filter fun c => c.gen != q.inst.ctl).isEmpty then s
    else
      let bad := (s.headCheck d).map fun r => if r.code = 0x041 then ⟨clsJOB, 0x041, (ctlBad d op).getD r.detail⟩ else r
      match bad with
      | some r => s.seqRefuse q d r
      | none =>
        match ctlBad d op with
        | some b => s.seqRefuse q d ⟨clsJOB, 0x041, b⟩
        | none =>
          let (s, g) := s.ctlEntry q n d
          f s q d g

/-- A control operation commits: the instance moves on. -/
def Dev.ctlCommit (s : Dev) (g n ctl : Nat) : Dev :=
  let s := { s with cmds := s.cmds.filter fun c => c.gen != ctl }
  (s.setTeam g fun r => { r with commits := r.commits + 1 }).setInst g n fun i =>
    { i with ctl := 0, doing := .entry, pc := i.pc + 1, work := none }

/-- A control operation killed by a fault that is recorded: it fails, and the team stops. -/
def Dev.ctlFail (s : Dev) (g n entry : Nat) (err : Nat × Nat) : Dev := s.teamStop g n entry 2 (some err)

/-- WAIT (R227). -/
def execWait (n : Nat) (s : State) : Host.Outcome State Fault Refusal := s.unit fun s =>
  s.ctlArm n 1 fun s q d _ => s.setInst q.g n fun i => { i with doing := .waiting (lnum d 16 8) (lnum d 24 8) }

/-- The counter of a WAIT is at or above its target (R227, R30). -/
def execWaitSatisfied (n : Nat) (s : State) : Host.Outcome State Fault Refusal := s.unit fun s =>
  match s.instOn n with
  | some (g, r, i) =>
    match i.doing with
    | .waiting a t =>
      match s.cmdRead i.ctl a 8 with
      | (s, none) => s.ctlFail g n (r.entryAddr i) (0x047, r.entryAddr i)
      | (s, some bs) => if t ≤ leNat bs then s.ctlCommit g n i.ctl else s
    | _ => s
  | none => s

/-- SIGNAL (R227): of SCOPE 0 its add, of SCOPE 1 the arrival of this instance. -/
def execSignal (n : Nat) (s : State) : Host.Outcome State Fault Refusal := s.unit fun s =>
  s.ctlArm n 2 fun s q d g =>
    let a := lnum d 16 8
    let v := lnum d 24 8
    if lfield d 32 0 1 = 1 then s.setInst q.g n fun i => { i with doing := .signal a v }
    else if (s.ctrBad a).isSome then (s.ctrFault a g).ctlFail q.g n q.addr (0x047, q.addr)
    else (s.ctrAdd a v).ctlCommit q.g n g

/-- A SIGNAL of SCOPE 1 fires (R227, R236): every live instance of team g has reached it. -/
def execSignalTeamFire (g : Nat) (s : State) : Host.Outcome State Fault Refusal := s.unit fun s =>
  match s.team g with
  | none => s
  | some r =>
    let live := r.insts.filter fun i => i.phase == .queued || i.phase == .run
    match live.head? with
    | none => s
    | some i0 =>
      match i0.doing with
      | .signal a v =>
        if r.stopped.isSome || !live.all fun i => i.phase == .run && i.pc == i0.pc && i.doing == .signal a v then s
        else
          let last := live.foldl (fun (b : ProgInst) i => if b.ctl ≤ i.ctl then i else b) i0
          if (s.ctrBad a).isSome then
            (s.ctrFault a last.ctl).ctlFail g last.coach (r.entryAddr last) (0x047, r.entryAddr last)
          else s.each live (fun s i => s.ctlCommit g i.coach i.ctl) |>.ctrAdd a v
      | _ => s

/-! ### Takes (R231 to R236) -/

def Dev.seqOf (s : Dev) (n rec : Nat) : Nat := ((s.cch.seqs.find? fun x => x.1 == n && x.2.1 == rec).map (·.2.2)).getD 0
def Dev.setSeq (s : Dev) (n rec v : Nat) : Dev :=
  s.setCch fun c => { c with seqs := c.seqs.filter (fun x => !(x.1 == n && x.2.1 == rec)) ++ [(n, rec, v)] }

/-- An instance sends a new take to a record. -/
def Dev.takeSend (s : Dev) (g n rec owner : Nat) (left : List Nat) : Dev :=
  let q := (s.seqOf n rec + 1) % 65536
  (s.setSeq n rec q).setInst g n fun i => { i with doing := .taking ⟨rec, owner, q, 0, 0, left⟩ }

/-- The bits `on` set in entry n of a record where it is VALID and has not the bits `off`. The device reads the entry for itself,
and one in a bad line it leaves (R593). -/
def Dev.entryMark (s : Dev) (rec n on : Nat) (off : List Nat) : Dev :=
  let a := rec + 64 + 8 * n
  if !inCH rec 576 then s
  else match s.unitRead a 8 with
    | (s, none) => s
    | (s, some bs) =>
      let e := leNat bs
      if bit e 63 && off.all fun b => !bit e b then s.wrNum (chAddr a) 8 (setBit e on true) else s

/-- The commands of the current index have committed: DONE is set in the own entry of its record (R234). -/
def Dev.workDone (s : Dev) (n : Nat) (w : WorkRun) : Dev := s.entryMark w.wrec n 61 []

/-- The queues that a TAKEQ visits after that of its own Coach (R235). -/
def stealOrder (team : List Nat) (n : Nat) : List Nat :=
  ((List.range 63).map fun k => (n + 1 + k) % 64).filter team.contains

/-- The TAKE or TAKEQ that an instance has armed, where its index has been run through. -/
def Dev.takeAgain (s : Dev) (n op : Nat) : Option (Nat × ProgInst × WorkRun × Line) :=
  match s.instOn n with
  | some (g, r, i) =>
    match i.work, s.cmd i.ctl with
    | some w, some c =>
      if r.stopped.isNone && i.doing == .entry && w.dcount ≤ w.pos && dOp c.desc == op
        && ((s.instCmds g n).filter fun c => c.gen != i.ctl).isEmpty && (s.instDying g n).isEmpty
      then some (g, i, w, c.desc) else none
    | _, _ => none
  | none => none

/-- TAKE: a take on its counter record, at its entry or for the next index (R232, R234). -/
def execTake (n : Nat) (s : State) : Host.Outcome State Fault Refusal := s.unit fun s =>
  match s.takeAgain n 3 with
  | some (g, _, w, d) =>
    let s := (s.workDone n w).setInst g n fun i => { i with work := none }
    s.takeSend g n (lnum d 16 8) n []
  | none => s.ctlArm n 3 fun s q d _ => s.takeSend q.g n (lnum d 16 8) n []

/-- TAKEQ: a take on the queue of its own Coach, and then on those of the team (R235). -/
def execTakeq (n : Nat) (s : State) : Host.Outcome State Fault Refusal := s.unit fun s =>
  let send (s : Dev) (g : Nat) (d : Line) : Dev :=
    let team := match s.team g with | some r => r.team | none => []
    s.takeSend g n (lnum d 16 8 + n * lnum d 24 4) n (if lfield d 42 0 1 = 1 then stealOrder team n else [])
  match s.takeAgain n 4 with
  | some (g, _, w, d) => send ((s.workDone n w).setInst g n fun i => { i with work := none }) g d
  | none => s.ctlArm n 4 fun s q d _ => send s q.g d

/-- A record is malformed (R231). -/
def recBad (queue : Bool) (a : Nat) (bs : List Byte) : Bool :=
  let f (n k : Nat) : Nat := leNat ((bs.drop n).take k)
  a % 64 != 0 || if queue then decide (20 < f 16 1) || decide (f 8 8 < f 0 8) || decide (2 ^ f 16 1 < f 8 8 - f 0 8)
    else decide (f 8 8 < f 0 8) || decide (2 ^ 40 < f 8 8)

/-- The item that a take from a queue record reads: that of a fresh index (R232). -/
def Dev.takeItem (s : Dev) (rec n seq : Nat) : Option Nat :=
  let rd (off k : Nat) : Nat := s.rdNum (chAddr (rec + off)) k
  let ent (m : Nat) : Nat := rd (64 + 8 * m) 8
  let e := ent n
  if (bit e 63 && bits e 40 16 == seq) || ((List.range 64).any fun m => bit (ent m) 62) || rd 8 8 ≤ rd 0 8 then none
  else some (rec + 576 + 8 * (rd 0 8 % 2 ^ rd 16 1))

/-- One take at the bank (R232): the state after it, the index or none, and how it was granted (0 retried, 1 fresh,
2 returned). -/
def Dev.bankTake (s : Dev) (queue : Bool) (rec n seq : Nat) : Dev × Option Nat × Nat :=
  let rd (off k : Nat) : Nat := s.rdNum (chAddr (rec + off)) k
  let ent (m : Nat) : Nat := rd (64 + 8 * m) 8
  let grant (s : Dev) (i : Nat) : Dev := s.wrNum (chAddr (rec + 64 + 8 * n)) 8 (2 ^ 63 + seq * 2 ^ 40 + i)
  let e := ent n
  if bit e 63 && bits e 40 16 == seq then (s, some (bits e 0 40), 0)
  else match (List.range 64).find? fun m => bit (ent m) 62 with
    | some m => (grant (s.wrNum (chAddr (rec + 64 + 8 * m)) 8 0) (bits (ent m) 0 40), some (bits (ent m) 0 40), 2)
    | none =>
      let h := rd 0 8
      if rd 8 8 ≤ h then (s, none, 1)
      else
        let i := if queue then bits (rd (576 + 8 * (h % 2 ^ rd 16 1)) 8) 0 40 else h
        (grant (s.wrNum (chAddr rec) 8 (h + 1)) i, some i, 1)

/-- Bytes of a record that a take reads: the record, and for a queue its items. -/
def recLen (queue : Bool) (cap : Nat) : Nat := if queue then 576 + 8 * 2 ^ cap else 576

/-- The bank serves a take; its answer reaches the instance, or is lost (R231 to R235). -/
def execTakeAnswer (n : Nat) (lost : Bool) (s : State) : Host.Outcome State Fault Refusal := s.unit fun s =>
  match s.instOn n with
  | some (g, r, i) =>
    match i.doing with
    | .taking t =>
      let entry := r.entryAddr { i with work := none }
      match s.cmd i.ctl with
      | none => s
      | some c =>
        let queue := dOp c.desc == 4
        if !inCH t.wrec 576 then s.teamStop g n entry 2 (some (0x049, t.wrec))
        else match s.cmdRead i.ctl t.wrec 576 with
        | (s, none) => s.ctlFail g n entry (0x047, entry)
        | (s, some bs) =>
          if recBad queue t.wrec bs || !inCH t.wrec (recLen queue (leNat ((bs.drop 16).take 1)))
          then s.teamStop g n entry 2 (some (0x049, t.wrec))
          else match (if queue then s.takeItem t.wrec n t.seq else none).elim (s, some []) fun a => s.cmdRead i.ctl a 8 with
          | (s, none) => s.ctlFail g n entry (0x047, entry)
          | (s, some _) =>
            let (s, idx, how) := s.bankTake queue t.wrec n t.seq
            let how := if how = 0 then t.how else how
            if lost then s.setInst g n fun i => { i with doing := .taking { t with how := how } }
            else match idx with
            | some x =>
              let steal := queue && t.owner != n
              let s := s.setTeam g fun r => { r with
                takes := r.takes + 1, retaken := r.retaken + (how == 2).toNat, steals := r.steals + steal.toNat }
              s.setInst g n fun i => { i with
                doing := .entry, work := some ⟨t.wrec, x, 0, lnum c.desc 32 8, lnum c.desc 40 2⟩ }
            | none =>
              match t.left with
              | m :: ms => s.takeSend g n (lnum c.desc 16 8 + m * lnum c.desc 24 4) m ms
              | [] => s.ctlCommit g n i.ctl
    | _ => s
  | none => s

/-- 2 us without an answer (R233). -/
def execTakeTimeout (n : Nat) (s : State) : Host.Outcome State Fault Refusal := s.unit fun s =>
  match s.instOn n with
  | some (g, r, i) =>
    match i.doing with
    | .taking t =>
      if 8 ≤ t.tries + 1 then s.teamStop g n (r.entryAddr { i with work := none }) 2 (some (0x045, t.wrec))
      else (s.setInst g n fun i => { i with doing := .taking { t with tries := t.tries + 1 } }).setTeam g fun r =>
        { r with retries := r.retries + 1 }
    | _ => s
  | none => s

/-- END (R226, R227), or the end of a program that has no END. -/
def execProgEnd (n : Nat) (s : State) : Host.Outcome State Fault Refusal := s.unit fun s =>
  let stop (s : Dev) (g : Nat) : Dev := (s.setInst g n fun i => { i with phase := .ended, ctl := 0 }).teamFinish g
  match s.instOn n with
  | some (g, r, i) =>
    if r.stopped.isNone && i.doing == .entry && i.work.isNone && r.len ≤ i.pc then
      (if (s.instCmds g n).isEmpty && (s.instDying g n).isEmpty then stop s g else s)
    else s.ctlArm n 5 fun s q _ c => stop (s.ctlCommit q.g n c) q.g
  | none => s

/-! ### RUNPROG and INSTANCE_START (R226, R228, R259) -/

/-- The first bad field of Table 06-11. -/
def Dev.runprogBad (s : Dev) (d : Line) : Option Nat :=
  let p := lnum d 16 8
  let len := lnum d 40 4
  let n := 64 * (if 1 ≤ len && len ≤ 65536 then len else 1)
  if p % 64 ≠ 0 || !(inCH p n || s.inHBM p n) then some 16
  else if lnum d 24 8 &&& s.reg Reg.SIZ_COACHMAP = 0 then some 24
  else if lnum d 32 8 % 64 ≠ 0 || !inCH (lnum d 32 8) 64 then some 32
  else if len = 0 || 65536 < len then some 40
  else if !lzeros d 44 63 then some 44
  else none

/-- RUNPROG armed: CCH_STEP is captured and one instance queued on each named enabled Coach. -/
def execRunprog (src : Source) (d : Line) (s : State) : Host.Outcome State Fault Refusal := s.unit fun s =>
  if dOp d ≠ 0x0105 || 16 ≤ s.teams then s
  else match s.headCheck d with
    | some r => s.refuse src d r
    | none =>
      match s.runprogBad d with
      | some n => s.refuse src d ⟨clsJOB, 0x046, n⟩
      | none =>
        let team := bitsSet 64 (lnum d 24 8 &&& s.reg Reg.SIZ_COACHMAP)
        let run : ProgRun :=
          { prog := lnum d 16 8, len := lnum d 40 4, status := lnum d 32 8, team := team,
            insts := team.map fun n => ⟨n, .queued, 0, none, .entry, 0⟩, step := s.reg Reg.CCH_STEP, stopped := none,
            commits := 0, kills := 0, takes := 0, retries := 0, steals := 0, retaken := 0, misses := [] }
        (s.arm src d 0 [(jobKey run.prog, 64 * run.len)] [(jobKey run.status, 64)] (.prog run)).1

/-- An instance starts on Coach n: the first that waits for it, in the order of the RUNPROGs. -/
def execInstStart (n : Nat) (s : State) : Host.Outcome State Fault Refusal := s.unit fun s =>
  if (s.instOn n).isSome || !s.coachOn n || s.jobState != jRUNNING then s
  else
    let first := s.cmds.findSome? fun c => match c.body with
      | .prog r => if r.insts.any fun i => i.coach == n && i.phase == .queued then some c.gen else none
      | _ => none
    match first with
    | some g =>
      let s := s.setDbg fun h => { h with
        halts := (h.halts.filter fun x => x.1 != n || x.2.isNone).map fun x => if x.1 = n then (n, some g) else x
        passes := h.passes.filter (· != n) }
      s.setInst g n fun i => { i with phase := .run }
    | none => s

/-- CCH_STEP written (R261). -/
def execCchStepWrite (v : Word64) (s : State) : Host.Outcome State Fault Refusal := s.upd fun s =>
  if s.teams ≠ 0 then s.record clsHOST 0x007 s.teams 0 blkCCH 0 else s.setReg Reg.CCH_STEP v.toNat

/-- CCH_SEED written (R264). -/
def execCchSeedWrite (v : Word32) (s : State) : Host.Outcome State Fault Refusal := s.upd fun s =>
  if s.teams ≠ 0 then s.record clsHOST 0x007 s.teams 0 blkCCH 0 else s.setReg Reg.CCH_SEED v.toNat

/-! ### Gaps between passes (R177 to R180) -/

/-- The command whose pass comes next on Coach n. -/
def Dev.readyPass (s : Dev) (n : Nat) : Option (Cmd × CoachRun) :=
  s.cmds.findSome? fun c => match c.body with
    | .coach r => if r.coach == n && !r.ctl && !r.done && (dOp c.desc == 0x0100 || dOp c.desc == 0x0101) then some (c, r) else none
    | _ => none

/-- The oldest command pass of Coach n whose verdict is not out. -/
def Dev.passDue (s : Dev) (n : Nat) : Option PassOut := s.cch.out.find? fun p => p.coach == n && !p.fill

/-- A verdict of command g is not out. -/
def Dev.verdictDue (s : Dev) (g : Nat) : Bool := s.cch.out.any fun p => !p.fill && p.gen == g

/-- The array duty d (R519). -/
def Dev.duty (s : Dev) : Nat := s.fld Reg.PWC_STAT 0 4

/-- Fill on Coach n follows the duty (R519): at d = 8 its arrays run fill passes, whose verdicts are then due; below that fill
starts no pass. -/
def Dev.fillDuty (s : Dev) (n : Nat) : Dev :=
  if s.duty = 8 then
    let s := s.setFld (Reg.CCH_CSTAT n) 4 4 0xF
    match (s.cch.out.filter fun p => p.coach == n).getLast? with
    | some ⟨_, true, _, _, _⟩ => s
    | _ => s.setCch fun c => { c with out := c.out ++ [⟨n, true, 0, 0, []⟩] }
  else s.setFld (Reg.CCH_CSTAT n) 4 4 0

/-- The duty changes (R519), with the fill of every gap. -/
def Dev.setDuty (s : Dev) (d : Nat) : Dev :=
  let was := s.duty
  let s := s.setFld Reg.PWC_STAT 0 4 d
  if (was == 8) = (d == 8) then s else s.each (s.cch.gaps.map (·.1)) Dev.fillDuty

/-- The arrays of Coach n have finished a command pass and none is ready (R177, R179): the value of CCH_IDLEFILL now holds for
the whole gap (R180), which begins in fill, or, where fill is off, in clock gating. -/
def Dev.gapBegin (s : Dev) (n : Nat) : Dev :=
  let v := s.reg Reg.CCH_IDLEFILL
  let s := s.setFlag Reg.CCH_BUSY n false
  if bit v 0 && bits v 4 12 != 0 then
    Dev.fillDuty (((s.setFlag Reg.CCH_FILLMAP n true).setCState n csFILL).setCch fun c => { c with gaps := c.gaps ++ [(n, v, false)] }) n
  else (s.setCState n csCGATED).setFld (Reg.CCH_CSTAT n) 4 4 0

/-- The gap of Coach n begins once its last pass is over, at the latest with its verdict or its kill. -/
def Dev.passGap (s : Dev) (n : Nat) : Dev :=
  if s.cState n ≠ csRUN || (s.passDue n).isSome || (s.readyPass n).isSome then s else s.gapBegin n

/-! ### Kills of an instance, and fences (R236, R243, R499) -/

/-- Command g of an instance and every later uncommitted one are killed; the instance stands again at the entry of g. -/
def Dev.instKill (s : Dev) (g : Nat) (r : CoachRun) (status : Nat) (rerun : Bool) : Dev :=
  let later := (s.instCmds r.team r.coach).dropWhile fun c => c.gen != g
  let later := later.filter fun c => match c.body with | .coach x => !x.ctl | _ => false
  let s := s.each later fun s c => s.kill c.gen (if c.gen = g then status else 2) (if c.gen = g then rerun else true)
  let s := s.setTeam r.team fun t => { t with kills := t.kills + later.length }
  (s.setInst r.team r.coach fun i =>
    { i with doing := .killed, pc := r.pc, work := i.work.map fun w => { w with pos := r.pos.getD w.pos } }).passGap r.coach

/-- A kill completes (R243): writes of the generation that a move holds are dropped, its barrows freed (R318), and its passes are
over. -/
def Dev.killSettle (s : Dev) (g : Nat) : Dev :=
  let s := s.setTiers fun t => { t with moves := t.moves.map fun m => { m with held := m.held.filter fun h => h.1 != g } }
  let s := s.setCch fun c => { c with out := c.out.filter fun p => p.fill || p.gen != g }
  Dev.livKill { s with dying := s.dying.filter fun y => y.cmd.gen != g } g

/-- The kill of a Coach command has completed: a failed one stops its team (R244), and its instance stands at its entry again. -/
def Dev.coachKilled (s : Dev) (x : Dying) (r : CoachRun) : Dev :=
  let s := if x.status = 2 && !x.rerun then s.teamStop r.team r.coach r.addr 2 (some (0x047, r.addr)) else s
  let s := if (s.instDying r.team r.coach).isEmpty then
      s.setInst r.team r.coach fun i => if i.doing = .killed then { i with doing := .entry } else i
    else s
  s.instCheck r.team r.coach

/-- Every kill under way on Coach n completes. -/
def Dev.coachKills (s : Dev) (n : Nat) : Dev :=
  s.each (s.dying.filter fun x => match x.cmd.body with | .coach r => r.coach == n | _ => false) fun s x =>
    match x.cmd.body with
    | .coach r => (s.killSettle x.cmd.gen).coachKilled x r
    | _ => s

/-- What a fence does to the instances of Coach n (R236, R499): its work index goes back to its record, and its commands are
killed; the teams that had it. -/
def Dev.fenceInsts (s : Dev) (n : Nat) (ts : List Nat) : Dev :=
  s.each ts fun s g =>
    match s.team g with
    | none => s
    | some r =>
      match r.insts.find? fun i => i.coach == n && (i.phase == .queued || i.phase == .run) with
      | none => s
      | some i =>
        let held : Option Nat := match i.doing, i.work with
          | .taking t, _ => some t.wrec
          | _, some w => some w.wrec
          | _, none => none
        let s := match held with
          | some rec => s.entryMark rec n 62 [61]
          | none => s
        let mine := s.instCmds g n
        let s := s.each mine fun s c => if c.gen = i.ctl then { s with cmds := s.cmds.filter fun x => x.gen != c.gen } else s.kill c.gen 2 true
        let s := s.setTeam g fun r => { r with kills := r.kills + mine.length }
        s.setInst g n fun i => { i with phase := .gone, ctl := 0, work := none, doing := .entry }

/-- Coach n is fenced or deconfigured (R39, R40, R173, R236, R498, R560): its work is killed and the kills complete; the power-safe
record `note` is made, then the entry of the fence record; and then the size table changes. A RUNPROG that has no live instance
left ends with that. -/
def Dev.fenceCoach (s : Dev) (n : Nat) (note : Dev → Dev) : Dev :=
  if !s.coachOn n then note s
  else
    let ts := s.cmds.filterMap fun c => match c.body with | .prog _ => some c.gen | _ => none
    let s := (note ((s.fenceInsts n ts).coachKills n)).fenceEnter 1 n
    let s := s.sizChange fun s =>
      let k := s.fld Reg.SIZ_COACH 0 8 - 1
      ((s.setFld Reg.SIZ_COACH 0 8 k).setFld Reg.SIZ_COACH 16 9 (4 * k)).setFlag Reg.SIZ_COACHMAP n false
    let s := ((s.setFld (Reg.CCH_CSTAT n) 0 8 csFENCED).setFlag Reg.CCH_BUSY n false).setFlag Reg.CCH_FILLMAP n false
    let s := s.setCch fun c => { c with
      gaps := c.gaps.filter fun x => x.1 != n
      out := c.out.filter fun p => !(p.coach == n && p.fill) }
    let s := s.setDbg fun h => { h with
      bps := h.bps.filter fun b => b.1 != 0x40 + n
      halts := h.halts.filter fun x => x.1 != n
      halting := h.halting.filter (· != n) }
    s.each ts Dev.teamFinish

end Sys2Proof.Machine
end

