-- ==== Sys2Proof/Machine/Coach.lean ====
section
/-! DEFINITION. Coach commands, their passes, residue verdicts, idle fill and their commit (R130 to R180, R192 to R225,
R237 to R241). -/
namespace Sys2Proof.Machine

/-! ### The Coach store -/

/-- The key of a granule's condition, beside the lines of the other memories. -/
def csGran (n off : Nat) : Nat := 2 ^ 57 + n * 2 ^ 23 + off / 8

/-- Granules of Coach n that a list of spans touches and whose condition is `l`, ascending. -/
def Dev.csBad (s : Dev) (n : Nat) (spans : List (Nat × Nat)) (l : LineState) : List Nat :=
  (s.bad.filter fun x => x.1 / 2 ^ 23 == 2 ^ 34 + n && x.2 == l
    && spans.any fun p => decide (8 * (x.1 % 2 ^ 23) < p.1 + p.2) && decide (p.1 < 8 * (x.1 % 2 ^ 23) + 8)).map (·.1 % 2 ^ 23)

/-- Bytes written to the Coach store; a granule written whole is good again. -/
def Dev.csWrite (s : Dev) (n off : Nat) (bs : List Byte) : Dev :=
  let s := s.wrBytes (csKey n off) bs
  let lo := csGran n (off + 7)
  let hi := csGran n (off + bs.length)
  { s with bad := s.bad.filter fun l => !(decide (lo ≤ l.1) && decide (l.1 < hi)) }

/-- An uncorrectable granule read by a command (Table 08-11): the Coach is fenced, and the record names the command. -/
def Dev.csUE (s : Dev) (n g gran : Nat) : Dev :=
  let s := { s with bad := s.bad.filter fun l => l.1 != csGran n (8 * gran) }
  (s.bump Reg.MEM_CNT_UE_CS 1).fenceCoach n fun s => s.record clsMEM 5 (n + gran * 256) g blkCCH n

/-- The spans that a command reads are checked: false where an uncorrectable granule fences the Coach; corrected errors
count. -/
def Dev.csCheck (s : Dev) (n g : Nat) (spans : List (Nat × Nat)) : Dev × Bool :=
  match s.csBad n spans .ue with
  | x :: _ => (s.csUE n g x, false)
  | [] =>
    let ces := s.csBad n spans .ce
    let s := { s with bad := s.bad.filter fun l => !(ces.map fun x => csGran n (8 * x)).contains l.1 }
    (s.bump Reg.MEM_CNT_CE_CS ces.length, true)

def Dev.csRd (s : Dev) (n : Nat) : Nat → Byte := fun off => s.rd (csKey n off)

/-! ### Checks at arm (R220 to R225, R240, R594) -/

def chk (bad : Bool) (r : Refuse) : Option Refuse := if bad then some r else none
def chkArg (bad : Bool) (off : Nat) : Option Refuse := chk bad ⟨clsJOB, 0x041, off⟩
def chkAddr (bad : Bool) (a : Nat) : Option Refuse := chk bad ⟨clsARITH, 0x005, a⟩

/-- An operand region that breaks R130 or reaches beyond the store (R220). -/
def regionBad (base span : Nat) : Bool := base % 64 != 0 || decide (csSize < base + span)

def ovl (a b : Nat × Nat) : Bool := decide (a.1 < b.1 + b.2) && decide (b.1 < a.1 + a.2)

/-- The lowest address that two lists of regions share. -/
def overlapMin (xs ys : List (Nat × Nat)) : Option Nat :=
  (xs.flatMap fun x => (ys.filter (ovl x)).map fun y => max x.1 y.1).foldl
    (fun a b => match a with | none => some b | some c => some (min b c)) none
def chkOverlap (xs ys : List (Nat × Nat)) : Option Refuse := (overlapMin xs ys).map fun a => ⟨clsJOB, 0x044, a⟩

/-- The tiles of a stored-tile array. -/
def storedTiles (o : Opnd) : List (Nat × Nat) :=
  (List.range (ceilDiv o.rows 256)).flatMap fun nt => (List.range (ceilDiv o.kk 256)).map fun kt => (nt, kt)
def dirBytes (o : Opnd) : Nat := up64 (8 * ceilDiv o.rows 256 * ceilDiv o.kk 256)

/-- Bytes of a stored-tile array up to the end of its highest tile (R240). -/
def storedSpan (rd : Nat → Byte) (o : Opnd) : Nat :=
  if csSize < o.base + dirBytes o then dirBytes o
  else ((storedTiles o).map fun t =>
    let off := dirOffset rd o.base o.kk t.1 t.2
    if csSize < o.base + off + 64 then off + 64 else off + 64 + up64 (tileHdr rd o.base o.kk t.1 t.2).pbytes).foldl max (dirBytes o)

def wSpan (rd : Nat → Byte) (w : WOpnd) (cplx : Bool) : Nat := if w.stored then storedSpan rd w.op else opndSpan w.op cplx

/-- The spans that hold the valid region of a plain operand (R166). -/
def opndRows (o : Opnd) (cplx : Bool) : List (Nat × Nat) :=
  (List.range (if cplx then 2 else 1)).flatMap fun c => (List.range o.rows).flatMap fun r => plainReads o c r 0 o.kk

/-- The scale bytes of a plain operand. -/
def opndScales (o : Opnd) : List Nat := (List.range o.rows).flatMap fun r => plainScales o 0 r 0 o.kk

/-- Directory entries, headers and bitmaps that the feed reads before the passes of column tile `nt` of a W operand. -/
def wHdrReads (rd : Nat → Byte) (w : WOpnd) (nt : Nat) : List (Nat × Nat) :=
  if w.stored then (List.range (ceilDiv w.op.kk 256)).flatMap fun kt =>
    let h := tileHdr rd w.op.base w.op.kk nt kt
    [(dirAddr w.op.base (ceilDiv w.op.kk 256) nt kt, 8), (h.addr, if h.fmt = 2 || h.fmt = 3 then 72 else 64)]
  else []

/-- A failing tile of column tile `nt` (of 256 columns) of a W operand (R196). -/
def wTileBad (rd : Nat → Byte) (w : WOpnd) (wty nt : Nat) : Option Nat :=
  if w.stored then (List.range (ceilDiv w.op.kk 256)).findSome? fun kt => tileBad rd w.op.base w.op.rows w.op.kk wty nt kt
  else none

/-- Offences of the tiles of column tile `nt` added (R200, R201). -/
def wOffences (rd : Nat → Byte) (w : WOpnd) (nt : Nat) (o : Offences) : Offences :=
  if w.stored then (List.range (ceilDiv w.op.kk 256)).foldl (fun o kt =>
    tileOffences rd (tileHdr rd w.op.base w.op.kk nt kt) o) o
  else o

/-! ### MATMUL (Table 06-5) -/

structure MatIn where
  aw  : Nat
  a   : Opnd
  w   : WOpnd
  c   : Opnd
  o   : Opnd
  rpt : Nat
  key : Nat

def MatIn.cplx (m : MatIn) : Bool := awCplx m.aw != 0
def MatIn.isInt (m : MatIn) : Bool := isIntT (awA m.aw)

def matIn (d : Line) : MatIn :=
  let aw := lnum d 16 4
  let mm := lnum d 20 3; let nn := lnum d 24 3; let kk := lnum d 28 3
  let cty := if isIntT (awA aw) then 2 else if awPrec aw = 2 then 9 else 8
  { aw := aw, a := ⟨awA aw, lnum d 32 4, 64 * lnum d 48 2, mm, kk⟩,
    w := ⟨lfield d 23 0 1 == 1, ⟨awW aw, lnum d 36 4, 64 * lnum d 50 2, nn, kk⟩⟩,
    c := ⟨cty, lnum d 40 4, 64 * lnum d 52 2, mm, nn⟩,
    o := ⟨awO aw, lnum d 44 4, 64 * lnum d 54 2, mm, nn⟩, rpt := lnum d 56 4, key := lnum d 60 4 }

def matReads (rd : Nat → Byte) (m : MatIn) : List (Nat × Nat) :=
  [(m.a.base, opndSpan m.a m.cplx), (m.w.op.base, wSpan rd m.w m.cplx)]
    ++ (if awCin m.aw then [(m.c.base, opndSpan m.c m.cplx)] else [])
def matWrites (m : MatIn) : List (Nat × Nat) :=
  (m.o.base, opndSpan m.o m.cplx) :: (if m.w.stored then [(m.rpt, 64)] else [])

/-- Why a MATMUL is refused (R130, R141, R195, R220, R221, R240), in ascending offset of the field checked. -/
def matmulBad (rd : Nat → Byte) (d : Line) : Option Refuse :=
  let m := matIn d
  let cin := awCin m.aw
  ((awordBad m.aw).map fun b => ⟨clsARITH, 0x004, b⟩)
  <|> chkArg (m.a.rows == 0) 20 <|> chkArg (lfield d 23 1 7 != 0) 23 <|> chkArg (m.o.kk == 0) 24
  <|> chkArg (lnum d 27 1 != 0) 27 <|> chkArg (m.a.kk == 0) 28 <|> chkArg (lnum d 31 1 != 0) 31
  <|> chkAddr (regionBad m.a.base (opndSpan m.a m.cplx)) m.a.base
  <|> chk (m.w.stored && (awPrec m.aw != 0 || m.cplx || !storedType (awW m.aw))) ⟨clsSPARSE, 0x005, 36⟩
  <|> chkAddr (regionBad m.w.op.base (wSpan rd m.w m.cplx)) m.w.op.base
  <|> chkAddr (cin && regionBad m.c.base (opndSpan m.c m.cplx)) m.c.base
  <|> chkAddr (regionBad m.o.base (opndSpan m.o m.cplx)) m.o.base
  <|> chkAddr (decide (m.a.stride < rowBytes m.a.ty m.a.kk)) m.a.base
  <|> (if m.w.stored then chkArg (m.w.op.stride != 0) 50
       else chkAddr (decide (m.w.op.stride < rowBytes m.w.op.ty m.w.op.kk)) m.w.op.base)
  <|> chkAddr (cin && decide (m.c.stride < rowBytes m.c.ty m.c.kk)) m.c.base
  <|> chkAddr (decide (m.o.stride < rowBytes m.o.ty m.o.kk)) m.o.base
  <|> chkArg (if m.w.stored then regionBad m.rpt 64 else m.rpt != 0xFFFFFFFF && m.rpt % 64 != 0) 56
  <|> chkArg (m.key != 0 && awRnd m.aw != 2) 60
  <|> chkOverlap (matReads rd m) (matWrites m)

/-! ### GEXPERT (Table 06-6) -/

structure ExpertCmd where
  aw  : Nat
  wst : Bool
  x   : Opnd
  wg  : WOpnd
  wu  : WOpnd
  wd  : WOpnd
  y   : Opnd
  h   : Opnd
  pred : Nat
  rpt : Nat

/-- A plain operand at the least row stride that R130 allows. -/
def leastOpnd (ty base rows kk : Nat) : Opnd := ⟨ty, base, roundUp (rowBytes ty kk) 64, rows, kk⟩

def expertCmd (d : Line) : ExpertCmd :=
  let aw := lnum d 16 4
  let mm := lnum d 20 3; let dd := lnum d 24 3; let ff := lnum d 28 3
  let st := lfield d 23 0 1 == 1
  { aw := aw, wst := st, x := leastOpnd (awA aw) (lnum d 32 4) mm dd, wg := ⟨st, leastOpnd (awW aw) (lnum d 36 4) ff dd⟩,
    wu := ⟨st, leastOpnd (awW aw) (lnum d 40 4) ff dd⟩, wd := ⟨st, leastOpnd (awW aw) (lnum d 44 4) dd ff⟩,
    y := leastOpnd (awO aw) (lnum d 48 4) mm dd, h := leastOpnd (awA aw) (lnum d 52 4) mm ff,
    pred := lnum d 56 4, rpt := lnum d 60 4 }

/-- P and Q, stored as R138 stores a W operand: one row for each column of u and of z. -/
def ExpertCmd.p (e : ExpertCmd) (pr : Pred) : Opnd := leastOpnd (awA e.aw) pr.p pr.rank e.x.kk
def ExpertCmd.q (e : ExpertCmd) (pr : Pred) : Opnd := leastOpnd 7 pr.q e.h.kk pr.rank
def ExpertCmd.shadow (e : ExpertCmd) (pr : Pred) : WOpnd := ⟨e.wst, leastOpnd 0x0E pr.shadow e.h.kk e.x.kk⟩

def expertReads (rd : Nat → Byte) (e : ExpertCmd) : List (Nat × Nat) :=
  let pr := predOf rd e.pred
  [(e.x.base, opndSpan e.x false), (e.wg.op.base, wSpan rd e.wg false), (e.wu.op.base, wSpan rd e.wu false),
   (e.wd.op.base, wSpan rd e.wd false), (e.pred, 64)]
  ++ (if 2 ≤ pr.mode then [(pr.p, opndSpan (e.p pr) false), (pr.q, opndSpan (e.q pr) false)] else [])
  ++ (if pr.mode = 2 then [(pr.shadow, wSpan rd (e.shadow pr) false)] else [])
def expertWrites (e : ExpertCmd) : List (Nat × Nat) := [(e.y.base, opndSpan e.y false), (e.rpt, 64)]
def expertScratch (e : ExpertCmd) : Nat × Nat := (e.h.base, opndSpan e.h false)

/-- The first bad bit of a gated expert's arithmetic word (R141, R222). -/
def expertAw (aw : Nat) : Option Nat :=
  ([awordBad aw, if awPrec aw ≠ 0 then some 15 else none, if awCplx aw ≠ 0 then some 17 else none,
    if awRnd aw = 2 then some 19 else none, if awCin aw then some 22 else none].filterMap id).foldl
    (fun a b => match a with | none => some b | some c => some (min b c)) none

/-- Why a GEXPERT is refused (R130, R141, R195, R204, R220, R222, R240). -/
def gexpertBad (rd : Nat → Byte) (d : Line) : Option Refuse :=
  let e := expertCmd d
  let pr := predOf rd e.pred
  ((expertAw e.aw).map fun b => ⟨clsARITH, 0x004, b⟩)
  <|> chkArg (e.x.rows == 0) 20 <|> chkArg (lfield d 23 1 7 != 0) 23 <|> chkArg (e.x.kk == 0) 24
  <|> chkArg (lnum d 27 1 != 0) 27 <|> chkArg (e.h.kk == 0 || e.h.kk % 32 != 0) 28 <|> chkArg (lnum d 31 1 != 0) 31
  <|> chkAddr (regionBad e.x.base (opndSpan e.x false)) e.x.base
  <|> chk (e.wst && !storedType (awW e.aw)) ⟨clsSPARSE, 0x005, 36⟩
  <|> chkAddr (regionBad e.wg.op.base (wSpan rd e.wg false)) e.wg.op.base
  <|> chkAddr (regionBad e.wu.op.base (wSpan rd e.wu false)) e.wu.op.base
  <|> chkAddr (regionBad e.wd.op.base (wSpan rd e.wd false)) e.wd.op.base
  <|> chkAddr (regionBad e.y.base (opndSpan e.y false)) e.y.base
  <|> chkAddr (regionBad e.h.base (opndSpan e.h false)) e.h.base
  <|> chkArg (decide (csSize < e.pred + 64)) 56
  <|> ((predBad rd e.pred (awA e.aw)).map fun b => ⟨clsSPARSE, 0x006, b⟩)
  <|> chk (decide (2 ≤ pr.mode) && regionBad pr.p (opndSpan (e.p pr) false)) ⟨clsSPARSE, 0x006, pr.p⟩
  <|> chk (decide (2 ≤ pr.mode) && regionBad pr.q (opndSpan (e.q pr) false)) ⟨clsSPARSE, 0x006, pr.q⟩
  <|> chk (pr.mode == 2 && regionBad pr.shadow (wSpan rd (e.shadow pr) false)) ⟨clsSPARSE, 0x006, pr.shadow⟩
  <|> chkArg (regionBad e.rpt 64) 60
  <|> (match overlapMin (expertReads rd e ++ [expertScratch e]) (expertWrites e), overlapMin (expertReads rd e) [expertScratch e] with
      | some a, some b => some ⟨clsJOB, 0x044, min a b⟩
      | a, b => (a <|> b).map fun x => ⟨clsJOB, 0x044, x⟩)

/-! ### COMPRESS (Table 06-7), VECTOR (Table 06-8), COPY (Table 06-10) -/

def compressSrc (d : Line) : Opnd := ⟨lfield d 17 0 5, lnum d 28 4, 64 * lnum d 32 2, lnum d 20 3, lnum d 24 3⟩

/-- Why a COMPRESS is refused (R212, R220, R223, R240). -/
def compressBad (_ : Nat → Byte) (d : Line) : Option Refuse :=
  let o := compressSrc d
  let need := compressWorst o.ty o.rows o.kk
  let sp : Refuse := ⟨clsSPARSE, 0x007, lnum d 16 1 + o.ty * 256⟩
  chk (decide (3 < lnum d 16 1)) sp <|> chkArg (lfield d 17 5 3 != 0) 17 <|> chk (!storedType o.ty) sp
  <|> chkArg (lnum d 18 2 != 0) 18 <|> chkArg (o.rows == 0 || lnum d 23 1 != 0) 20
  <|> chkArg (o.kk == 0 || lnum d 27 1 != 0) 24 <|> chkArg (decide (csSize < o.base + opndSpan o false)) 28
  <|> chkArg (!lzeros d 34 39) 34 <|> chkArg (regionBad (lnum d 40 4) need) 40
  <|> chk (decide (lnum d 44 4 < need)) ⟨clsJOB, 0x048, need⟩
  <|> chkArg (regionBad (lnum d 48 4) 64) 48 <|> chkArg (!lzeros d 52 63) 52
  <|> chkOverlap [(o.base, opndSpan o false)] [(lnum d 40 4, need), (lnum d 48 4, 64)]

structure VecIn where
  op  : Nat
  ity : Nat
  oty : Nat
  cnt : Nat
  a   : Nat
  b   : Nat
  c   : Nat
  o   : Nat
  scalar : Nat
  key : Nat

def vecIn (d : Line) : VecIn :=
  { op := lnum d 16 1, ity := lfield d 17 0 5, oty := lfield d 18 0 5, cnt := lnum d 20 4, a := lnum d 24 4, b := lnum d 28 4,
    c := lnum d 32 4, o := lnum d 36 4, scalar := lnum d 40 4, key := lnum d 44 4 }

/-- A flat run as an operand of one row. -/
def flatRun (ty base cnt : Nat) : Opnd := leastOpnd ty base 1 cnt
def flatSpan (ty base cnt : Nat) : Nat × Nat := (base, opndSpan (flatRun ty base cnt) false)

def VecIn.useB (v : VecIn) : Bool := vopBinary v.op && v.b != 0xFFFFFFFF
def VecIn.outCnt (v : VecIn) : Nat := if vopReduce v.op then 1 else v.cnt
def vecReads (v : VecIn) : List (Nat × Nat) :=
  flatSpan v.ity v.a v.cnt :: ((if v.useB then [flatSpan v.ity v.b v.cnt] else [])
    ++ (if vopTernary v.op then [flatSpan v.ity v.c v.cnt] else []))
def vecWrites (v : VecIn) : List (Nat × Nat) := [flatSpan v.oty v.o v.outCnt]

/-- Why a VECTOR is refused (R220, R224, R240). -/
def vectorBad (_ : Nat → Byte) (d : Line) : Option Refuse :=
  let v := vecIn d
  let out (x : Nat × Nat) : Bool := decide (csSize < x.1 + x.2)
  chkArg (v.op == 0 || decide (0x1C ≤ v.op)) 16
  <|> chkArg (lfield d 17 5 3 != 0 || dtypeReserved v.ity || (!dtypeReserved v.oty && !vopTypesOk v.op v.ity v.oty)) 17
  <|> chkArg (lfield d 18 5 3 != 0 || dtypeReserved v.oty) 18 <|> chkArg (lfield d 19 3 5 != 0 || lfield d 19 0 2 == 3) 19
  <|> chkArg (v.cnt == 0 || decide (2 ^ 31 < v.cnt)) 20 <|> chkArg (out (flatSpan v.ity v.a v.cnt)) 24
  <|> chkArg (v.useB && out (flatSpan v.ity v.b v.cnt)) 28
  <|> chkArg (vopTernary v.op && out (flatSpan v.ity v.c v.cnt)) 32
  <|> chkArg (out (flatSpan v.oty v.o v.outCnt)) 36
  <|> chkArg (v.key != 0 && lfield d 19 0 2 != 2) 44 <|> chkArg (!lzeros d 48 63) 48
  <|> chkOverlap (vecReads v) (vecWrites v)

structure CopyIn where
  sloc : Bool
  dloc : Bool
  rows : Nat
  src  : Nat
  dst  : Nat
  len  : Nat
  ss   : Nat
  ds   : Nat

def copyIn (d : Line) : CopyIn :=
  { sloc := lfield d 16 0 1 == 1, dloc := lfield d 16 1 1 == 1, rows := lnum d 20 4, src := lnum d 24 8, dst := lnum d 32 8,
    len := lnum d 40 4, ss := lnum d 48 8, ds := lnum d 56 8 }
def CopyIn.srcSpan (c : CopyIn) : Nat := (c.rows - 1) * c.ss + c.len
def CopyIn.dstSpan (c : CopyIn) : Nat := (c.rows - 1) * c.ds + c.len

/-- Why a COPY is refused (R220, R225, R240). -/
def copyBad (_ : Nat → Byte) (d : Line) : Option Refuse :=
  let c := copyIn d
  chkArg (lfield d 16 2 6 != 0 || !(c.sloc || c.dloc)) 16 <|> chkArg (!lzeros d 17 19) 17 <|> chkArg (c.rows == 0) 20
  <|> chkArg (c.src % 64 != 0 || (c.sloc && decide (csSize < c.src + c.srcSpan))) 24
  <|> chkArg (c.dst % 64 != 0 || (c.dloc && decide (csSize < c.dst + c.dstSpan))) 32
  <|> chkArg (c.len == 0) 40 <|> chkArg (!lzeros d 44 47) 44 <|> chkArg (c.ss % 64 != 0) 48 <|> chkArg (c.ds % 64 != 0) 56
  <|> (if c.sloc && c.dloc then chkOverlap [(c.src, c.srcSpan)] [(c.dst, c.dstSpan)] else none)

/-! ### Arming a Coach command (R227, R228, R238, R241) -/

/-- An earlier uncommitted command holds what a new one reads or writes, or reads what it writes (R241). -/
def regConflict (c : Cmd) (rs ws : List (Nat × Nat)) : Bool :=
  c.writes.any (fun x => (rs ++ ws).any (ovl x)) || c.reads.any fun x => ws.any (ovl x)

def Dev.coachOf (s : Dev) (g : Nat) : Option (Cmd × CoachRun) :=
  (s.cmd g).bind fun c => match c.body with
    | .coach r => some (c, r)
    | _ => none
def Dev.setCoach (s : Dev) (g : Nat) (f : CoachRun → CoachRun) : Dev :=
  s.updCmd g fun c => match c.body with
    | .coach r => { c with body := .coach (f r) }
    | _ => c

def keyed (n : Nat) (xs : List (Nat × Nat)) : List (Nat × Nat) := xs.map fun x => (csKey n x.1, x.2)

/-- A Coach command armed at an entry with the regions it reads and holds, and its generation; the instance moves on. -/
def Dev.coachEntry (s : Dev) (q : SeqAt) (n : Nat) (d : Line) (rw : List (Nat × Nat) × List (Nat × Nat)) : Dev × Nat :=
  let ag := s.arm (.seq n) d q.addr rw.1 rw.2 (.coach (coachRun q false))
  ((ag.1.setInst q.g n fun i => match i.work with
    | some w => { i with work := some { w with pos := w.pos + 1 } }
    | none => { i with pc := i.pc + 1 }).seqPassed n, ag.2)

/-- The Coach command at the entry of Coach n: refused, held (eight commands armed, or a region conflict), or armed and
then acted on. -/
def Dev.coachArm (s : Dev) (n op : Nat) (bad : (Nat → Byte) → Line → Option Refuse)
    (regs : (Nat → Byte) → Line → List (Nat × Nat) × List (Nat × Nat)) (act : Dev → Nat → Line → Dev) : Dev :=
  s.seqEntry n op fun s q d =>
    let mine := s.instCmds q.g n
    if 8 ≤ mine.length then s
    else match s.headCheck d <|> bad (s.csRd n) d with
      | some r => s.seqRefuse q d r
      | none =>
        let rw := regs (s.csRd n) d
        if mine.any fun c => regConflict c rw.1 rw.2 then s
        else
          let (s, g) := s.coachEntry q n d rw
          act s g d

/-- A Coach command fails (R243, R244). -/
def Dev.coachFail (s : Dev) (g : Nat) : Dev :=
  match s.coachOf g with
  | some (_, r) => s.instKill g r 2 false
  | none => s

/-! ### What COPY, COMPRESS and VECTOR do -/

def copyRows (n g : Nat) (c : CopyIn) : List Nat → Dev → Dev × Bool
  | [], s => (s, true)
  | i :: is, s =>
    let a := c.src + i * c.ss
    let b := c.dst + i * c.ds
    let got : Dev × Option (List Byte) :=
      if c.sloc then
        match s.csCheck n g [(a, c.len)] with
        | (s, true) => (s, some (s.rdBytes (csKey n a) c.len))
        | (s, false) => (s, none)
      else s.cmdRead g a c.len
    match got with
    | (s, none) => (s, false)
    | (s, some bs) =>
      let put : Dev × Bool := if c.dloc then (s.csWrite n b bs, true) else s.cmdWrite g b bs
      if put.2 then copyRows n g c is put.1 else put

def Dev.copyAct (s : Dev) (n g : Nat) (d : Line) : Dev :=
  match copyRows n g (copyIn d) (List.range (copyIn d).rows) s with
  | (s, true) => s.setCoach g fun r => { r with done := true }
  | (s, false) => s.coachFail g

/-- A run of a command reads bytes of its Coach store (R143, R166, R298): an uncorrectable granule fences the Coach and ends the
run (none); the first MX scale 0xFF records ARITH/0x006, that of a weight tile before those of the rows that stream past it, and
each such block counts once. -/
def Dev.coachRead (s : Dev) (n g : Nat) (r : CoachRun) (spans : List (Nat × Nat)) (wScales aScales : List Nat) : Dev × Option CoachRun :=
  match s.csCheck n g spans with
  | (s, false) => (s, none)
  | (s, true) =>
    let new (xs : List Nat) : List Nat := (xs.filter fun a => s.csRd n a == 0xFF && !r.mxSeen.contains a).dedup
    let ws := new wScales
    let as := (new aScales).filter fun a => !ws.contains a
    let s := if r.mxSeen.isEmpty && !(ws ++ as).isEmpty then s.record clsARITH 0x006 (n + if ws.isEmpty then 0 else 256) g blkCCH n
      else s
    (s, some { r with mxSeen := r.mxSeen ++ ws ++ as })

def Dev.compressAct (s : Dev) (n g : Nat) (d : Line) : Dev :=
  let o := compressSrc d
  match s.coachOf g with
  | none => s
  | some (_, r) => match s.coachRead n g r (opndRows o false) [] (opndScales o) with
    | (s, none) => s
    | (s, some r) =>
      let (bs, pruned, fell) := compressArray (s.csRd n) o (lnum d 16 1)
      (s.csWrite n (lnum d 40 4) bs).setCoach g fun _ => { r with done := true, pruned := pruned, fell := fell }

/-- The random word of an output element (Table 07-4). -/
def Dev.srWord (s : Dev) (team key purpose pos : Nat) : Nat :=
  let step := match s.team team with | some r => r.step | none => 0
  philox (pos % 2 ^ 32) purpose (step % 2 ^ 32) (step / 2 ^ 32) key (s.reg Reg.CCH_SEED)

/-- The codes of a flat run. -/
def flatCodes (rd : Nat → Byte) (ty base cnt : Nat) : List Nat :=
  (List.range cnt).map fun i => bitsAt rd (8 * base + i * dtypeBits ty) (dtypeBits ty)

/-- The elements and, for an MX output, the scales that a VECTOR writes. -/
def vecOut (rd : Nat → Byte) (d : Line) (word : Nat → Nat) : List Nat × List Nat × ConvFlags :=
  let v := vecIn d
  let b := dtypeBits v.oty
  if v.op = 0x10 then
    let vals := (List.range v.cnt).map fun i => plainVal rd (flatRun v.ity v.a v.cnt) 0 0 i
    let rnd := rndOf (lfield d 19 0 2)
    let w (i : Nat) : Nat := word (8 * v.o + i * b)
    if isMX v.oty then
      let scs := (List.range (ceilDiv v.cnt 32)).map fun k => mxScaleCode v.oty ((vals.drop (32 * k)).take 32)
      let es := (List.range v.cnt).map fun i => mxElement v.oty (nth scs (i / 32) 0) rnd (w i) (nth vals i .zero)
      (es.map (·.1), scs, es.foldl (fun a e => a.add e.2) .zero)
    else
      let es := (List.range v.cnt).map fun i => convType v.oty rnd (lfield d 19 2 1 == 1) (w i) (nth vals i .zero)
      (es.map (·.1), [], es.foldl (fun a e => a.add e.2) .zero)
  else
    let as := flatCodes rd v.ity v.a v.cnt
    if vopReduce v.op then
      let x := vopReduceAll v.op as
      ([x], [], if (f32 x).isNaN then ⟨1, 0, 0⟩ else .zero)
    else
      let bs := if v.useB then flatCodes rd v.ity v.b v.cnt else as.map fun _ => v.scalar % 2 ^ dtypeBits v.ity
      let cs := if vopTernary v.op then flatCodes rd v.ity v.c v.cnt else as.map fun _ => 0
      let es := (as.zip (bs.zip cs)).map fun x => vopLane v.op v.ity x.1 x.2.1 x.2.2
      (es.map (·.1), [], es.foldl (fun a e => a.add e.2) .zero)

def Dev.vectorAct (s : Dev) (n g : Nat) (d : Line) : Dev :=
  let v := vecIn d
  let a := flatRun v.ity v.a v.cnt
  match s.coachOf g with
  | none => s
  | some (_, r) =>
    match s.coachRead n g r (opndRows a false ++ (vecReads v).drop 1) [] (opndScales a) with
    | (s, none) => s
    | (s, some r) =>
      let (es, scs, fl) := vecOut (s.csRd n) d (s.srWord r.team v.key 2)
      let o := flatRun v.oty v.o v.outCnt
      let s := s.csWrite n v.o (packCodes (dtypeBits v.oty) (rowBytes v.oty v.outCnt) es)
      let s := if scs.isEmpty then s else s.csWrite n (v.o + o.stride) (scs.map (BitVec.ofNat 8))
      s.setCoach g fun _ => { r with done := true, flags := r.flags.add fl }

/-! ### The arming rows -/

/-- MATMUL at the entry of Coach n (R221). -/
def execMatmul (n : Nat) (s : State) : Host.Outcome State Fault Refusal := s.unit fun s =>
  s.coachArm n 0x0100 matmulBad (fun rd d => (keyed n (matReads rd (matIn d)), keyed n (matWrites (matIn d)))) fun s _ _ => s

/-- GEXPERT at the entry of Coach n (R222). -/
def execGexpert (n : Nat) (s : State) : Host.Outcome State Fault Refusal := s.unit fun s =>
  s.coachArm n 0x0101 gexpertBad (fun rd d =>
    let e := expertCmd d
    (keyed n (expertReads rd e), keyed n (expertScratch e :: expertWrites e))) fun s _ _ => s

/-- COMPRESS at the entry of Coach n (R223). -/
def execCompress (n : Nat) (s : State) : Host.Outcome State Fault Refusal := s.unit fun s =>
  s.coachArm n 0x0102 compressBad (fun _ d =>
    let o := compressSrc d
    (keyed n [(o.base, opndSpan o false)], keyed n [(lnum d 40 4, compressWorst o.ty o.rows o.kk), (lnum d 48 4, 64)]))
    fun s g d => s.compressAct n g d

/-- VECTOR at the entry of Coach n (R224). -/
def execVector (n : Nat) (s : State) : Host.Outcome State Fault Refusal := s.unit fun s =>
  s.coachArm n 0x0103 vectorBad (fun _ d => (keyed n (vecReads (vecIn d)), keyed n (vecWrites (vecIn d)))) fun s g d =>
    s.vectorAct n g d

/-- COPY at the entry of Coach n (R225), after the snoops of the lines it touches (R446). -/
def execCopy (n : Nat) (s : State) : Host.Outcome State Fault Refusal := s.unit fun s =>
  let lines (s : Dev) : Dev × Bool :=
    match s.seqAt n with
    | none => (s, true)
    | some q =>
      let d : Line := BitVec.ofNat 512 (leNat (s.rdJob q.addr 64))
      let c := copyIn d
      if dOp d ≠ 0x0104 || (copyBad (s.csRd n) d).isSome then (s, true)
      else if !c.sloc then s.snoopGate false (spanLine c.src c.srcSpan)
      else if !c.dloc then s.snoopGate true (spanLine c.dst c.dstSpan)
      else (s, true)
  match lines s with
  | (s, false) => s
  | (s, true) =>
    s.coachArm n 0x0104 copyBad (fun _ d =>
      let c := copyIn d
      ([(if c.sloc then csKey n c.src else jobKey c.src, c.srcSpan)],
       [(if c.dloc then csKey n c.dst else jobKey c.dst, c.dstSpan)])) fun s g d => s.copyAct n g d

/-! ### Passes (R131 to R134) -/

/-- The array that takes row `i` of a chunk of `mc` rows (R133). -/
def rowArray (mc i : Nat) : Nat := ((List.range 4).find? fun a => decide (i < (a + 1) * mc / 4)).getD 3

/-- The rows of a chunk that stream in a pass, as the mask of their arrays. -/
def arrayMask (mc : Nat) (rows : List Nat) : Nat :=
  ((List.range 4).map fun a => if rows.any fun i => rowArray mc i == a then 2 ^ a else 0).sum

/-- The arrays whose check failed in a pass, ascending, from the array and the outcome of each element; `true` where only the
duplicated adders disagree. -/
def passBad (xs : List (Nat × StepOut)) : List (Nat × Bool) :=
  (List.range 4).filterMap fun a =>
    if xs.any fun x => x.1 == a && !x.2.sumOk then some (a, false)
    else if xs.any fun x => x.1 == a && !x.2.adderOk then some (a, true)
    else none

/-- Coach n runs a pass of command g on the arrays of a mask: a fill or ramp ends (R178), and the verdict of the pass is due. -/
def Dev.passOn (s : Dev) (n g mask : Nat) (bad : List (Nat × Bool)) : Dev :=
  let s := ((s.setCState n csRUN).setFld (Reg.CCH_CSTAT n) 4 4 mask).setFlag Reg.CCH_BUSY n true
  (s.setFlag Reg.CCH_FILLMAP n false).setCch fun c => { c with
    gaps := c.gaps.filter fun x => x.1 != n
    out := c.out ++ [⟨n, false, g, mask, bad⟩] }

/-- The fault that strikes an element of a pass. -/
def faultAt (fs : List PassFault) (row col : Nat) : Option FaultAt :=
  (fs.find? fun f => f.row == row && f.col == col).map (·.at_)

/-- The tiles of the 256 columns around `n0` of a W operand are read and checked before their first pass (R196); a failing one
ends the command (none). Their offences count once per command (R200 to R202). -/
def Dev.wEnter (s : Dev) (n g : Nat) (r : CoachRun) (w : WOpnd) (wty n0 : Nat) : Dev × Option CoachRun :=
  let nt := n0 / 256
  match s.coachRead n g r (wHdrReads (s.csRd n) w nt) [] [] with
  | (s, none) => (s, none)
  | (s, some r) =>
    match wTileBad (s.csRd n) w wty nt with
    | some a => ((s.record clsSPARSE 0x001 a g blkCCH n).coachFail g, none)
    | none =>
      let key := w.op.base * 2 ^ 20 + nt
      if !w.stored || r.tiles.contains key then (s, some r)
      else (s, some { r with tiles := r.tiles ++ [key], offs := wOffences (s.csRd n) w nt r.offs })

/-! ### The passes of a MATMUL -/

/-- One step of a column tile: the K positions, the product and the pass of the product. -/
abbrev MatStep := (Nat × Nat × Bool) × (Nat × Nat × Nat × Bool) × Nat

def matSteps (rd : Nat → Byte) (m : MatIn) (n0 : Nat) : List MatStep :=
  ((colPasses rd (awA m.aw) m.w n0).filter fun p => !p.2.2).flatMap fun p => (products (awCplx m.aw)).flatMap fun pr =>
    (List.range (precPasses (awPrec m.aw))).map fun q => (p, pr, q)

/-- An element of A or W: its real or imaginary part, or the pre-sum of R161. -/
def matA (rd : Nat → Byte) (m : MatIn) (comp row k : Nat) : FV :=
  if comp = 2 then preSum m.a.ty (plainVal rd m.a 0 row k) (plainVal rd m.a 1 row k) else plainVal rd m.a comp row k
def matW (rd : Nat → Byte) (m : MatIn) (comp col k : Nat) : Option FV :=
  if comp = 2 then some (preSum m.w.op.ty (plainVal rd m.w.op 0 col k) (plainVal rd m.w.op 1 col k))
  else wVal rd m.w comp col k

/-- The planes that component `comp` reads. -/
def planesOf (comp : Nat) : List Nat := if comp = 2 then [0, 1] else [comp]

/-- The start of the accumulators of an element (R146). -/
def matStart (rd : Nat → Byte) (m : MatIn) (row col : Nat) : List Acc :=
  let b := dtypeBits m.c.ty
  let code (c : Nat) : Nat := bitsAt rd (8 * (m.c.base + c * m.c.rows * m.c.stride + row * m.c.stride) + col * b) b
  accStart (awPrec m.aw) (awCplx m.aw) m.isInt (awCin m.aw) (code 0) (code 1)

/-- A step applied to the accumulators of an element. `last` says that no pass of its column tile follows, so that the final
subtraction of R161 comes next, a disagreement in which the verdict of that pass shows (DESIGN CHOICE, log entry 231: R172
speaks of a pass, and the subtraction is no pass of its own). -/
def matStepAcc (rd : Nat → Byte) (m : MatIn) (st : MatStep) (last : Bool) (row col : Nat) (f : Option FaultAt) (as : List Acc) : List Acc × StepOut :=
  let ((k0, len, _), (dst, ca, cw, neg), q) := st
  let ks := (List.range len).map (k0 + ·)
  let o := accPass (awPrec m.aw) m.isInt neg q (ks.map (matA rd m ca row)) (ks.map (matW rd m cw col)) (nth as dst (.f 0)) f
  -- the final subtraction of the three-product form has duplicated adders of its own
  let o := if last && awCplx m.aw == 2 && f == some .final then { o with adderOk := false } else o
  (as.set dst o.acc, o)

/-- Where a MATMUL stands: first row and rows of its chunk, first column and columns of its tile. -/
def matPlace (m : MatIn) (r : CoachRun) : Nat × Nat × Nat × Nat :=
  let rp := 4 * rpOf (awPrec m.aw) (awCplx m.aw)
  (r.chunk * rp, min rp (m.a.rows - r.chunk * rp), 32 * r.nt, min 32 (m.o.kk - 32 * r.nt))

/-- A column tile begins: its stored tiles are checked, the C input read and the accumulators started (R132, R146). -/
def Dev.matEnter (s : Dev) (n : Nat) (c : Cmd) (r : CoachRun) : Dev × Option CoachRun :=
  let m := matIn c.desc
  let (row0, rows, n0, cols) := matPlace m r
  match s.wEnter n c.gen r m.w (awW m.aw) n0 with
  | (s, none) => (s, none)
  | (s, some r) =>
    let cs := if awCin m.aw then (List.range (if m.cplx then 2 else 1)).flatMap fun p => (List.range rows).flatMap fun i =>
        plainReads m.c p (row0 + i) n0 cols
      else []
    match s.coachRead n c.gen r cs [] [] with
    | (s, none) => (s, none)
    | (s, some r) =>
      let rd := s.csRd n
      (s, some { r with
        kp := 0
        accs := (List.range (rows * cols)).map fun i => matStart rd m (row0 + i / cols) (n0 + i % cols)
        skipped := r.skipped + ((colPasses rd (awA m.aw) m.w n0).filter (·.2.2)).length })

/-- One pass of a MATMUL (R142 to R146, R153 to R161, R166 to R170). -/
def Dev.matPass (s : Dev) (n : Nat) (c : Cmd) (r : CoachRun) (fs : List PassFault) : Dev × Option CoachRun :=
  let m := matIn c.desc
  let (row0, rows, n0, cols) := matPlace m r
  match (matSteps (s.csRd n) m n0)[r.kp]? with
  | none => (s, some r)
  | some st =>
    let ((k0, len, _), (_, ca, cw, _), _) := st
    let rd := s.csRd n
    let is := List.range rows
    let js := List.range cols
    let spans := (js.flatMap fun j => (planesOf cw).flatMap fun p => wReads rd m.w p (n0 + j) k0 len)
      ++ is.flatMap fun i => (planesOf ca).flatMap fun p => plainReads m.a p (row0 + i) k0 len
    match s.coachRead n c.gen r spans (js.flatMap fun j => wScales rd m.w 0 (n0 + j) k0 len)
        (is.flatMap fun i => plainScales m.a 0 (row0 + i) k0 len) with
    | (s, none) => (s, none)
    | (s, some r) =>
      let rd := s.csRd n
      let out := (List.range (rows * cols)).map fun i =>
        matStepAcc rd m st (decide ((matSteps rd m n0).length ≤ r.kp + 1)) (row0 + i / cols) (n0 + i % cols) (faultAt fs (i / cols) (i % cols)) (nth r.accs i [])
      let bad := passBad (out.mapIdx fun i x => (rowArray rows (i / cols), x.2))
      (s.passOn n c.gen (arrayMask rows is) bad, some { r with
        kp := r.kp + 1, accs := out.map (·.1), flags := r.flags.add ⟨0, 0, (out.map (·.2.sats)).sum⟩ })

/-- The rows of a chunk of a column tile converted and written (R132, R148 to R152, R168). -/
def Dev.matWrite (s : Dev) (n : Nat) (r : CoachRun) (m : MatIn) (row0 rows n0 cols : Nat) (accs : List (List Acc)) :
    Dev × ConvFlags :=
  let b := dtypeBits m.o.ty
  ((List.range rows).flatMap fun i => (List.range (if m.cplx then 2 else 1)).map fun c => (i, c)).foldl (fun (x : Dev × ConvFlags) ic =>
    let base := m.o.base + ic.2 * m.o.rows * m.o.stride + (row0 + ic.1) * m.o.stride + n0 * b / 8
    let es := (List.range cols).map fun j =>
      let acc := nth (accResult (awCplx m.aw) (nth accs (ic.1 * cols + j) [])) ic.2 (.f 0)
      let word := if awRnd m.aw = 2 then x.1.srWord r.team m.key 1 (8 * base + j * b) else 0
      convOut m.o.ty (awShift m.aw) (rndOf (awRnd m.aw)) (awSat m.aw) word acc.val
    (x.1.csWrite n base (packCodes b (cols * b / 8) (es.map (·.1))), es.foldl (fun a e => a.add e.2) x.2)) (s, .zero)

/-- A column tile ends: its results are written, and the next one, or the next chunk of rows, follows. -/
def Dev.matFinish (s : Dev) (n : Nat) (c : Cmd) (r : CoachRun) : Dev × CoachRun :=
  let m := matIn c.desc
  let (row0, rows, n0, cols) := matPlace m r
  let (s, fl) := s.matWrite n r m row0 rows n0 cols r.accs
  let last := decide (m.o.kk ≤ n0 + 32)
  (s, { r with
    flags := r.flags.add fl, accs := [], kp := 0, nt := if last then 0 else r.nt + 1,
    chunk := if last then r.chunk + 1 else r.chunk, done := last && decide (m.a.rows ≤ row0 + rows) })

/-! ### The passes of a GEXPERT -/

/-- The W operand of a step of a GEXPERT (R205 to R208, R222). The steps of a chunk, in order: 0 u = xP, 1 z = uQ, 2 the gates,
3 the shadow gates, 4 the make-up, 5 up, 6 down. -/
def expW (e : ExpertCmd) (pr : Pred) (ph : Nat) : WOpnd :=
  match ph with
  | 0 => ⟨false, e.p pr⟩
  | 1 => ⟨false, e.q pr⟩
  | 3 => e.shadow pr
  | 5 => e.wu
  | 6 => e.wd
  | _ => e.wg

/-- The type of A by which a step's passes have their class (Table 04-2, R195). -/
def expAty (e : ExpertCmd) (ph : Nat) : Nat :=
  let t := awA e.aw
  match ph with
  | 1 => 7
  | 3 => if isMX t || isFp8T t then t else 0x0A
  | _ => t

/-- Column tiles of a step. -/
def expTiles (e : ExpertCmd) (pr : Pred) (ph : Nat) : Nat :=
  if (ph < 2 && pr.mode < 2) || ((ph == 3 || ph == 4) && pr.mode != 2) then 0 else ceilDiv (expW e pr ph).op.rows 32

/-- Whether a row takes part in column tile `t` of a step. -/
def ExpRow.takes (x : ExpRow) (ph t : Nat) : Bool :=
  match ph with
  | 2 => x.pset.contains t
  | 3 => !x.pset.contains t
  | 4 => x.made.contains t
  | 5 => x.runs.contains t
  | _ => true

/-- Whether a row takes part in a pass: in the down projection only where a block that runs for it lies in the pass. -/
def ExpRow.inPass (x : ExpRow) (ph t k0 len : Nat) : Bool :=
  x.takes ph t && (ph != 6 || (List.range (ceilDiv len 32)).any fun i => x.runs.contains (k0 / 32 + i))

/-- A's element for a row in a step; none where it takes no part. -/
def expA (rd : Nat → Byte) (e : ExpertCmd) (ph row : Nat) (x : ExpRow) (k : Nat) : Option FV :=
  match ph with
  | 1 => some (decodeF fmtBF16 (nth x.u k 0))
  | 3 => some (shadowRow rd e.x row k)
  | 6 => if x.runs.contains (k / 32) then some (plainVal rd e.h 0 row k) else none
  | _ => some (plainVal rd e.x 0 row k)

/-- What a pass reads of a row of A, as (spans, scale bytes). -/
def expAReads (e : ExpertCmd) (ph row : Nat) (x : ExpRow) (k0 len : Nat) : List (Nat × Nat) × List Nat :=
  match ph with
  | 1 => ([], [])
  | 6 =>
    let ks := ((List.range (ceilDiv len 32)).map fun i => k0 + 32 * i).filter fun k => x.runs.contains (k / 32)
    (ks.flatMap fun k => plainReads e.h 0 row k 32, ks.flatMap fun k => plainScales e.h 0 row k 32)
  | _ => (plainReads e.x 0 row k0 len, plainScales e.x 0 row k0 len)

/-- The passes of a column tile of a step that some row takes part in, absent ones apart (R198). -/
def expPasses (rd : Nat → Byte) (e : ExpertCmd) (pr : Pred) (ph t : Nat) (rows : List ExpRow) : List (Nat × Nat × Bool) :=
  (colPasses rd (expAty e ph) (expW e pr ph) (32 * t)).filter fun p => rows.any fun x => x.inPass ph t p.1 p.2.1

/-- The first row of the chunk of a GEXPERT. -/
def expRow0At (r : CoachRun) : Nat := r.chunk * 2048

/-- A column tile of a step begins, for the rows that take part in it. The first of a chunk reads the predictor block. -/
def Dev.expEnter (s : Dev) (n : Nat) (c : Cmd) (r : CoachRun) : Dev × Option CoachRun :=
  let e := expertCmd c.desc
  let first : Dev × Option CoachRun :=
    if r.rows.isEmpty then
      match s.coachRead n c.gen r [(e.pred, 64)] [] [] with
      | (s, some r) => (s, some { r with
          rows := List.replicate (min 2048 (e.x.rows - expRow0At r)) (expRow0 (predOf (s.csRd n) e.pred) (e.h.kk / 32)) })
      | x => x
    else (s, some r)
  match first with
  | (s, none) => (s, none)
  | (s, some r) =>
    let pr := predOf (s.csRd n) e.pred
    if expTiles e pr r.phase ≤ r.nt || !(r.rows.any fun x => x.takes r.phase r.nt) then (s, some r)
    else
      let w := expW e pr r.phase
      match s.wEnter n c.gen r w (if r.phase = 3 then 0x0E else awW e.aw) (32 * r.nt) with
      | (s, none) => (s, none)
      | (s, some r) =>
        let cols := min 32 (w.op.rows - 32 * r.nt)
        (s, some { r with
          kp := 0
          accs := List.replicate (r.rows.length * cols) [if isIntT (expAty e r.phase) then .i 0 else .f 0]
          skipped := r.skipped + ((expPasses (s.csRd n) e pr r.phase r.nt r.rows).filter (·.2.2)).length })

/-- The passes that the column tile of a GEXPERT runs. -/
def expSteps (rd : Nat → Byte) (e : ExpertCmd) (r : CoachRun) : List (Nat × Nat × Bool) :=
  let pr := predOf rd e.pred
  if expTiles e pr r.phase ≤ r.nt || !(r.rows.any fun x => x.takes r.phase r.nt) then []
  else (expPasses rd e pr r.phase r.nt r.rows).filter fun p => !p.2.2

/-- One pass of a GEXPERT: the rows that take part stream past its weight tile. -/
def Dev.expPass (s : Dev) (n : Nat) (c : Cmd) (r : CoachRun) (fs : List PassFault) : Dev × Option CoachRun :=
  let e := expertCmd c.desc
  match (expSteps (s.csRd n) e r)[r.kp]? with
  | none => (s, some r)
  | some (k0, len, _) =>
    let rd := s.csRd n
    let w := expW e (predOf rd e.pred) r.phase
    let row0 := expRow0At r
    let mc := r.rows.length
    let n0 := 32 * r.nt
    let cols := min 32 (w.op.rows - n0)
    let js := List.range cols
    let row (i : Nat) : ExpRow := nth r.rows i ⟨[], [], [], [], [], [], []⟩
    let is := (List.range mc).filter fun i => (row i).inPass r.phase r.nt k0 len
    let ar := is.map fun i => expAReads e r.phase (row0 + i) (row i) k0 len
    match s.coachRead n c.gen r ((js.flatMap fun j => wReads rd w 0 (n0 + j) k0 len) ++ ar.flatMap (·.1))
        (js.flatMap fun j => wScales rd w 0 (n0 + j) k0 len) (ar.flatMap (·.2)) with
    | (s, none) => (s, none)
    | (s, some r) =>
      let rd := s.csRd n
      let ks := (List.range len).map (k0 + ·)
      let isInt := isIntT (expAty e r.phase)
      let out : List (Nat × Nat × StepOut) := is.flatMap fun i =>
        let av := ks.map (expA rd e r.phase (row0 + i) (row i))
        js.map fun j =>
          let ws := (ks.zip av).map fun k => if k.2.isSome then wVal rd w 0 (n0 + j) k.1 else none
          (i, i * cols + j, accPass 0 isInt false 0 (av.map fun x => x.getD .zero) ws
            ((nth r.accs (i * cols + j) []).headD (.f 0)) (faultAt fs i j))
      let bad := passBad (out.map fun x => (rowArray mc x.1, x.2.2))
      (s.passOn n c.gen (arrayMask mc is) bad, some { r with
        kp := r.kp + 1
        accs := out.foldl (fun a x => a.set x.2.1 [x.2.2.acc]) r.accs
        flags := r.flags.add ⟨0, 0, (out.map (·.2.2.sats)).sum⟩ })

/-- A row's sums of a column tile taken up by its step: u in BF16 (R207), a score, the gates, a shadow magnitude, a block of h
in the scratch area (R222), or elements of y. -/
def Dev.expTake (s : Dev) (n : Nat) (e : ExpertCmd) (pr : Pred) (ph t row : Nat) (x : ExpRow) (as : List Acc) :
    Dev × ExpRow × ConvFlags :=
  let cs := as.map accF32
  match ph with
  | 0 =>
    let es := cs.map fun v => encodeF fmtBF16 .rne false 0 (f32 v)
    (s, { x with u := x.u ++ es.map (·.1) }, es.foldl (fun a q => a.add q.2) .zero)
  | 1 => (s, { x with score := x.score ++ [maxMag cs] }, .zero)
  | 3 => (s, { x with shade := x.shade ++ [(t, gateMag pr.act cs)] }, .zero)
  | 5 =>
    let g := x.gateOf t
    let (es, sc, fl) := hBlock e.aw (cs.mapIdx fun i u => f32mul (actF32 pr.act (nth g i 0)) u)
    let b := dtypeBits e.h.ty
    let s := s.csWrite n (e.h.base + row * e.h.stride + 4 * b * t) (packCodes b (4 * b) es)
    (match sc with
      | some v => s.csWrite n (plainScaleAt e.h 0 row (32 * t)) [BitVec.ofNat 8 v]
      | none => s, x, fl)
  | 6 =>
    let b := dtypeBits e.y.ty
    let es := as.map fun a => convOut e.y.ty (awShift e.aw) (rndOf (awRnd e.aw)) (awSat e.aw) 0 a.val
    (s.csWrite n (e.y.base + row * e.y.stride + 4 * b * t) (packCodes b (rowBytes e.y.ty es.length) (es.map (·.1))), x,
      es.foldl (fun a q => a.add q.2) .zero)
  | _ => (s, { x with gate := x.gate ++ [(t, cs)] }, .zero)

/-- What a step decides of a row once its last column tile is done. -/
def ExpRow.stepEnd (pr : Pred) (nb ph : Nat) (x : ExpRow) : ExpRow × PredCounts :=
  match ph with
  | 1 => if 2 ≤ pr.mode then x.predict pr nb else (x, .zero)
  | 3 => if pr.mode = 2 then x.makeUp pr nb else (x, .zero)
  | 4 => x.tauRule pr nb
  | _ => (x, .zero)

/-- Bytes of the scratch area after its last chunk: unspecified (R240). -/
def Dev.scratch (s : Dev) (n g : Nat) (h : Opnd) : Dev :=
  s.each (opndRows h false) fun s x => s.csWrite n x.1 ((List.range x.2).map fun i => Config.scratchByte g (x.1 + i))

/-- A column tile of a step ends, or the step, or the chunk. -/
def Dev.expFinish (s : Dev) (n : Nat) (c : Cmd) (r : CoachRun) : Dev × CoachRun :=
  let e := expertCmd c.desc
  let pr := predOf (s.csRd n) e.pred
  let row0 := expRow0At r
  if expTiles e pr r.phase ≤ r.nt then
    let out : List (ExpRow × PredCounts) := r.rows.map fun x => x.stepEnd pr (e.h.kk / 32) r.phase
    let r : CoachRun := { r with rows := out.map (·.1), pred := out.foldl (fun a x => a.add x.2) r.pred, nt := 0 }
    if r.phase < 6 then (s, { r with phase := r.phase + 1 })
    else
      let last := decide (e.x.rows ≤ row0 + 2048)
      (if last then s.scratch n c.gen e.h else s, { r with phase := 0, rows := [], chunk := r.chunk + 1, done := last })
  else if !(r.rows.any fun x => x.takes r.phase r.nt) then (s, { r with nt := r.nt + 1 })
  else
    let cols := min 32 ((expW e pr r.phase).op.rows - 32 * r.nt)
    let out := (r.rows.mapIdx fun i x => (i, x)).foldl (fun (z : Dev × List ExpRow × ConvFlags) ix =>
      if ix.2.takes r.phase r.nt then
        let as := (List.range cols).map fun j => (nth r.accs (ix.1 * cols + j) []).headD (.f 0)
        let (s, x, fl) := z.1.expTake n e pr r.phase r.nt (row0 + ix.1) ix.2 as
        (s, z.2.1 ++ [x], z.2.2.add fl)
      else (z.1, z.2.1 ++ [ix.2], z.2.2)) (s, [], .zero)
    (out.1, { r with rows := out.2.1, flags := r.flags.add out.2.2, accs := [], kp := 0, nt := r.nt + 1 })

/-! ### Running a command's passes -/

def Dev.tileEnter (s : Dev) (n : Nat) (c : Cmd) (r : CoachRun) : Dev × Option CoachRun :=
  if dOp c.desc = 0x0100 then s.matEnter n c r else s.expEnter n c r
/-- Passes of the column tile that has begun. -/
def Dev.tileLen (s : Dev) (n : Nat) (c : Cmd) (r : CoachRun) : Nat :=
  if dOp c.desc = 0x0100 then (matSteps (s.csRd n) (matIn c.desc) (32 * r.nt)).length
  else (expSteps (s.csRd n) (expertCmd c.desc) r).length
def Dev.tilePass (s : Dev) (n : Nat) (c : Cmd) (r : CoachRun) (fs : List PassFault) : Dev × Option CoachRun :=
  if dOp c.desc = 0x0100 then s.matPass n c r fs else s.expPass n c r fs
def Dev.tileFinish (s : Dev) (n : Nat) (c : Cmd) (r : CoachRun) : Dev × CoachRun :=
  if dOp c.desc = 0x0100 then s.matFinish n c r else s.expFinish n c r

/-- Column tiles that a command goes through, each step of a GEXPERT counting one more for its end. -/
def Dev.tileCount (s : Dev) (n : Nat) (d : Line) : Nat :=
  if dOp d = 0x0100 then
    let m := matIn d
    ceilDiv m.a.rows (4 * rpOf (awPrec m.aw) (awCplx m.aw)) * ceilDiv m.o.kk 32
  else
    let e := expertCmd d
    ceilDiv e.x.rows 2048 * ((List.range 7).map fun ph => expTiles e (predOf (s.csRd n) e.pred) ph + 1).sum

/-- The next column tile that has a pass to run begins; those without one end at once (R198). None where the run has ended. -/
def Dev.tileNext (n : Nat) (c : Cmd) : Nat → Dev → CoachRun → Dev × Option CoachRun
  | 0, s, r => (s, some r)
  | fuel + 1, s, r =>
    if r.done then (s, some r)
    else match s.tileEnter n c r with
      | (s, none) => (s, none)
      | (s, some r) =>
        if s.tileLen n c r = 0 then
          let x := s.tileFinish n c r
          Dev.tileNext n c fuel x.1 x.2
        else (s, some r)

/-- One pass of command c on Coach n; after the last of its column tile the results are written and the next tile begins. -/
def Dev.coachPass (s : Dev) (n : Nat) (c : Cmd) (r : CoachRun) (fs : List PassFault) : Dev :=
  let next (s : Dev) (r : CoachRun) : Dev × Option CoachRun := Dev.tileNext n c (s.tileCount n c.desc + 1) s r
  let keep (x : Dev × Option CoachRun) : Dev :=
    match x with
    | (s, some r) => s.setCoach c.gen fun _ => r
    | (s, none) => s
  match (if r.accs.isEmpty then next s r else (s, some r)) with
  | (s, none) => s
  | (s, some r) =>
    if r.done then keep (s, some r)
    else match s.tilePass n c r fs with
      | (s, none) => s
      | (s, some r) =>
        if r.kp < s.tileLen n c r then keep (s, some r)
        else
          let x := s.tileFinish n c r
          keep (next x.1 x.2)

/-- A pass begins on a Coach (R134), in which the arrays make the errors listed. -/
def execArrayPassStart (p : PassStart) (s : State) : Host.Outcome State Fault Refusal := s.unit fun s =>
  match s.readyPass p.coach with
  | none => s
  | some (c, r) =>
    if s.cState p.coach ≠ csRUN && s.cState p.coach ≠ csFILL then s else (s.coachPass p.coach c r p.faults).passGap p.coach

/-! ### Residue verdicts (R171 to R176) -/

def Dev.since (s : Dev) (n a : Nat) : Nat := s.fld (Reg.CCH_RESLOG n a) 0 32
def Dev.resWindow (s : Dev) : Nat := s.fld Reg.CCH_RESWIN 0 24

/-- Array a of Coach n has completed a pass. -/
def Dev.arrClean (s : Dev) (n a : Nat) : Dev :=
  let x := min (2 ^ 32 - 1) (s.since n a + 1)
  (s.setFld (Reg.CCH_RESLOG n a) 0 32 x).setFlag (Reg.CCH_CSTAT n) (8 + a) (decide (x < s.resWindow))

/-- Array a of Coach n has mismatched. -/
def Dev.arrMiss (s : Dev) (n a : Nat) : Dev :=
  let m := min 0xFFFF (s.fld (Reg.CCH_RESLOG n a) 32 16 + 1)
  (s.setFld (Reg.CCH_RESLOG n a) 0 48 (m * 2 ^ 32)).setFlag (Reg.CCH_CSTAT n) (8 + a) (decide (0 < s.resWindow))

/-- The fence of R173, once for a Coach. -/
def Dev.resFence (s : Dev) (n a : Nat) : Dev :=
  if !s.coachOn n then s
  else s.fenceCoach n fun s => (s.bump Reg.CCH_CNT_FENCE 1).record clsARITH 0x002 (n + a * 256) 0 blkCCH n

/-- Array a of Coach n has mismatched: logged, and noted in `xs` where it had mismatched within the window (R173). -/
def Dev.arrNote (n : Nat) (z : Dev × List Nat) (a : Nat) : Dev × List Nat :=
  (z.1.arrMiss n a, if z.1.since n a < z.1.resWindow then z.2 ++ [a] else z.2)

/-- The key under which a team counts the kills of a command: its descriptor in a table, or its entry on one Coach. -/
def missKey (r : CoachRun) : Nat × Nat := (if r.pos.isSome then 64 else r.coach, r.addr)

/-- A kill by mismatch counts toward KILLMAX (R174, R175): the count that the command now has. -/
def Dev.missCount (s : Dev) (r : CoachRun) : Dev × Nat :=
  let k := missKey r
  match s.team r.team with
  | none => (s, 0)
  | some t =>
    let x := ((t.misses.find? fun (y : Nat × Nat × Nat) => y.1 == k.1 && y.2.1 == k.2).map (·.2.2)).getD 0 + 1
    (s.setTeam r.team fun t => { t with misses := t.misses.filter (fun (y : Nat × Nat × Nat) => !(y.1 == k.1 && y.2.1 == k.2)) ++ [(k.1, k.2, x)] }, x)

/-- Command g is killed by a mismatch: to run again, or, at KILLMAX, not (R172, R174). One whose kill is under way only counts,
and once (R175). -/
def Dev.missKill (s : Dev) (g : Nat) : Dev :=
  match s.coachOf g with
  | some (_, r) =>
    let (s, k) := s.missCount r
    let s := s.setCoach g fun r => { r with counted := true }
    if s.fld Reg.CCH_RESWIN 24 4 ≤ k then (s.record clsARITH 0x007 g g blkCCH r.coach).instKill g r 2 false
    else s.instKill g r 2 true
  | none =>
    match s.dying.find? fun x => x.cmd.gen == g with
    | some x => match x.cmd.body with
      | .coach r =>
        if r.counted then s
        else
          let s := (s.missCount r).1
          { s with dying := updFirst (fun x => x.cmd.gen == g) (fun x => { x with cmd := { x.cmd with body := .coach { r with counted := true } } }) s.dying }
      | _ => s
    | none => s

/-- The entries of Coach n up to its oldest command pass leave the list: a gap's fill before that pass is over. -/
def dropPass (n : Nat) : List PassOut → List PassOut
  | [] => []
  | p :: ps => if p.coach == n then (if p.fill then dropPass n ps else ps) else p :: dropPass n ps

/-- The verdict of the oldest command pass of Coach n (R171 to R175): every array that ran it counts it, an array that
mismatched is recorded, and the command is killed once. -/
def Dev.cmdVerdict (s : Dev) (n : Nat) : Dev :=
  match s.passDue n with
  | none => s
  | some p =>
    let s := s.setCch fun c => { c with out := dropPass n c.out }
    let arrs := bitsSet 4 p.mask
    let s := s.bump Reg.CCH_CNT_PASS arrs.length
    let s := s.each (arrs.filter fun a => !p.bad.any fun b => b.1 == a) fun s a => s.arrClean n a
    if p.bad.isEmpty then s.passGap n
    else
      let s := s.each p.bad fun s b =>
        (s.record clsARITH 0x001 (n + b.1 * 256 + b.2.toNat * 4096) p.gen blkCCH n).bump Reg.CCH_CNT_RESIDUE 1
      let (s, win) := (p.bad.map (·.1)).foldl (Dev.arrNote n) (s, [])
      ((s.missKill p.gen).each win fun s a => s.resFence n a).passGap n

/-- Whether the check of an array finds an error (R170): one that is a multiple of 7 is not found. -/
def faultFound : FaultAt → Bool
  | .sum d => d % 7 != 0
  | .acc d => d % 7 != 0
  | .adder => true
  | .final => false

/-- The verdict of a fill pass of the four arrays (R176): it may come after its gap, but not after that of a later pass.
CCH_CNT_FILL counts the fill pass of each array (DESIGN CHOICE, log entry 232: Table 04-14 does not say whether the four count
as one). -/
def Dev.fillVerdict (s : Dev) (n : Nat) (fs : List FillFault) : Dev :=
  match s.cch.out.find? fun p => p.coach == n with
  | none => s
  | some p =>
    if !p.fill then s
    else
      let s := s.bump Reg.CCH_CNT_FILL 4
      let bad := (List.range 4).filter fun a => fs.any fun f => f.array == a && faultFound f.at_
      let s := s.each ((List.range 4).filter fun a => !bad.contains a) fun s a => s.arrClean n a
      let s := s.each bad fun s a => (s.record clsARITH 0x003 (n + a * 256) 0 blkCCH n).bump Reg.CCH_CNT_FILLRES 1
      let (s, win) := bad.foldl (Dev.arrNote n) (s, [])
      s.each win fun s a => s.resFence n a

/-- The residue verdict of the oldest command pass of Coach n, or of a fill pass with the errors its arrays made (R171, R176). -/
def execResidueVerdict (n : Nat) (fill : Option (List FillFault)) (s : State) : Host.Outcome State Fault Refusal := s.unit fun s =>
  match fill with
  | some fs => s.fillVerdict n fs
  | none => s.cmdVerdict n

/-! ### Idle fill (R177 to R180) -/

/-- The arrays of Coach n finish a command pass, no pass is ready, and fill is on: fill begins at once, before the verdict of
that pass is out (R177). -/
def execIdleFillStart (n : Nat) (s : State) : Host.Outcome State Fault Refusal := s.upd fun s =>
  if !s.coachOn n || s.cState n ≠ csRUN || (s.readyPass n).isSome || !s.flag Reg.CCH_IDLEFILL 0 || s.fld Reg.CCH_IDLEFILL 4 12 == 0
  then s else s.gapBegin n

/-- The fill or ramp of Coach n ends in clock gating. -/
def Dev.fillEnd (s : Dev) (n : Nat) : Dev :=
  let s := ((s.setFlag Reg.CCH_FILLMAP n false).setCState n csCGATED).setFld (Reg.CCH_CSTAT n) 4 4 0
  s.setCch fun c => { c with gaps := c.gaps.filter fun x => x.1 != n }

/-- LEN x 10 ns have passed with no command pass ready (R179); with RAMP = 0 the fill stops at once. -/
def execFillRampDown (n : Nat) (s : State) : Host.Outcome State Fault Refusal := s.upd fun s =>
  match s.cch.gaps.find? fun x => x.1 == n && !x.2.2 with
  | none => s
  | some (_, v, _) =>
    if (s.readyPass n).isSome then s
    else if bits v 16 8 = 0 then s.fillEnd n
    else s.setCch fun c => { c with gaps := updFirst (fun x => x.1 == n) (fun x => (x.1, x.2.1, true)) c.gaps }

/-- The ramp has run its RAMP x 10 ns (R179). -/
def execFillRampEnd (n : Nat) (s : State) : Host.Outcome State Fault Refusal := s.upd fun s =>
  if (s.cch.gaps.any fun x => x.1 == n && x.2.2) && (s.readyPass n).isNone then s.fillEnd n else s

/-- CCH_IDLEFILL written (R180). -/
def execCchIdlefillWrite (v : Word32) (s : State) : Host.Outcome State Fault Refusal := s.upd fun s =>
  s.setReg Reg.CCH_IDLEFILL (v.toNat &&& 0x00FFFFF7)

/-! ### Commit of a Coach command (R202, R211, R237, R238) -/

/-- The sparsity report (Table 05-7). -/
def CoachRun.report (r : CoachRun) (g mode : Nat) : List Byte :=
  let c4 (x : Nat) : List Byte := leBytes 4 (min (2 ^ 32 - 1) x)
  let low := ([r.offs.dup.first, r.offs.rng.first, r.offs.blk.first].filterMap id).foldl
    (fun (a : Option Nat) b => match a with | none => some b | some c => some (min b c)) none
  leBytes 4 g ++ leBytes 1 mode ++ leBytes 3 0 ++ leBytes 8 (min (2 ^ 64 - 1) r.skipped) ++ c4 r.offs.dup.count
    ++ c4 r.offs.rng.count ++ c4 r.offs.blk.count ++ c4 r.fell ++ c4 r.pruned ++ c4 r.pred.active ++ c4 r.pred.skipped
    ++ c4 r.pred.madeup ++ c4 r.pred.lost ++ c4 r.pred.tau ++ leBytes 8 (low.getD 0)

/-- The report address of a command that writes one, and its MODE. -/
def Dev.reportAt (s : Dev) (n : Nat) (d : Line) : Option (Nat × Nat) :=
  match dOp d with
  | 0x0100 => if (matIn d).w.stored then some ((matIn d).rpt, 0) else none
  | 0x0101 => some ((expertCmd d).rpt, (predOf (s.csRd n) (expertCmd d).pred).mode)
  | 0x0102 => some (lnum d 48 4, 0)
  | _ => none

/-- A Coach command commits: records, counters, report and HAND together. It is the first of its instance that has not
committed, its outputs are written and all its verdicts are clean. -/
def Dev.coachCommit (s : Dev) (g : Nat) (c : Cmd) (r : CoachRun) : Dev :=
  let first := ((s.instCmds r.team r.coach).find? fun x => match x.body with | .coach y => !y.ctl | _ => false).map (·.gen)
  if !r.done || s.verdictDue g || r.ctl || first ≠ some g then s
  else if (s.ctrBad (dHand c.desc)).isSome then (s.ctrFault (dHand c.desc) g).instKill g r 2 false
  else
    let n := r.coach
    let note (s : Dev) (code : Nat) (o : Offence) : Dev :=
      match o.first with
      | some a => s.record clsSPARSE code a g blkCCH n
      | none => s
    let s := note (note (note s 0x002 r.offs.dup) 0x003 r.offs.rng) 0x004 r.offs.blk
    let s := (s.bump Reg.CCH_CNT_NAN r.flags.nan).bump Reg.CCH_CNT_OVF r.flags.ovf
    let s := (s.bump Reg.CCH_CNT_SAT r.flags.sat).bump Reg.CCH_CNT_MXNAN r.mxSeen.length
    let s := match s.reportAt n c.desc with
      | some (a, mode) => s.csWrite n a (r.report g mode)
      | none => s
    let k := missKey r
    let s := s.setTeam r.team fun t => { t with
      commits := t.commits + 1, misses := t.misses.filter fun (y : Nat × Nat × Nat) => !(y.1 == k.1 && y.2.1 == k.2) }
    (s.commit g 0).instCheck r.team n

end Sys2Proof.Machine
end

