-- ==== Sys2Proof/Machine/Kills.lean ====
section
/-! DEFINITION. Commit, kill and the completion of a kill (R115, R214, R237, R243, R318, R415, R437, R492). -/
namespace Sys2Proof.Machine

/-- A command has done all that its commit waits for, so that the snoops of its output (R446) may begin. -/
def Dev.commitReady (s : Dev) (g : Nat) (c : Cmd) : Bool :=
  match c.body with
  | .coach r => r.done && !s.verdictDue g && !r.ctl
  | .move r => s.moveSettled g r
  | .mfx r => s.mfxSettled g r
  | .matomic r => r.got.isSome
  | .port r => (s.portMoves r.port).isEmpty
  | _ => false

/-- Every output of command g is acknowledged and its checks pass: it commits (R237). A control operation, a GFORM, a
GDISSOLVE, a RUNPROG and, but for a JUNIT of a port, the CONTROL class commit within their own commands. -/
def execCommandCommit (g : Nat) (s : State) : Host.Outcome State Fault Refusal := s.unit fun s =>
  match s.cmd g with
  | none => s
  | some c =>
    match c.body with
    | .coll _ => s.collProgress g
    | .exch _ => s.exchProgress g
    | .route _ => s.combineProgress g
    | b =>
      if !s.commitReady g c then s
      else match s.outGate c with
      | (s, false) => s
      | (s, true) =>
        match b with
        | .coach r => s.coachCommit g c r
        | .move r => s.moveCommit g c r
        | .mfx r => s.mfxCommit g c r
        | .matomic r => s.matomicCommit g c r
        | .port r => s.portCommit g r
        | _ => s

/-- A RUNPROG killed by pre-emption or the end of its job, with the commands of its team (Table 16-8). -/
def Dev.progAbort (s : Dev) (g : Nat) : Dev :=
  let mine (c : Cmd) : Bool := match c.body with | .coach r => r.team == g | _ => false
  let ctl (c : Cmd) : Bool := match c.body with | .coach r => r.ctl | _ => false
  let cs := s.cmds.filter mine
  let s := s.each cs fun s c => if ctl c then { s with cmds := s.cmds.filter fun x => x.gen != c.gen } else s.kill c.gen 3 false
  (s.setTeam g fun r => { r with kills := r.kills + cs.length }).kill g 3 false

/-- A command killed by pre-emption or job end: it ends ABORTED, and a GROUP-class command sends ABORT 0x6 (Table 16-8). A JORDER
is left to the order that is applied. -/
def Dev.cmdAbort (s : Dev) (g : Nat) : Dev :=
  match s.cmd g with
  | none => s
  | some c =>
    match c.body with
    | .coach r => if (s.team r.team).isSome then s.progAbort r.team else s.kill g 3 false
    | .prog _ => s.progAbort g
    | .route _ => s.groupFault g 6 3
    | .exch _ => s.groupFault g 6 3
    | .coll _ => s.groupFault g 6 3
    | .gform gid => match s.group gid with
      | some gr => (s.groupLost gid 0 0 3).sendAborts gr 0 0 6
      | none => s
    | .gdissolve _ => s.kill g 3 false
    | .move _ => s.moveKill g 3
    | .mfx _ => s.mmfKill g 3 false
    | .matomic _ => s.mmfKill g 3 false
    | .port r =>
      let s := { s with job := { s.job with drains := s.job.drains.filter fun x => x.1 != r.port } }
      (s.setTiers fun t => { t with portsOff := t.portsOff.filter (· != r.port) }).kill g 3 false
    | .jorder _ => s
    | .sstop => s.kill g 3 false
    | .jlaunch => s.kill g 3 false
    | .control => s.kill g 3 false

/-- Every command killed by pre-emption or job end, exchanges before the passes whose kill would end them without an ABORT; a
GROUP-class command whose kill is under way and that was to run again is killed with the others (Table 16-8). -/
def Dev.abortAll (s : Dev) : Dev :=
  let back (c : Cmd) : Bool := match c.body with | .exch r => r.back | _ => false
  let fwd (c : Cmd) : Bool := match c.body with | .exch r => !r.back | _ => false
  let again (x : Dying) : Bool := x.rerun && (cmdInst x.cmd).isSome
  let s := s.each (s.dying.filter again) fun s x =>
    match cmdInst x.cmd with
    | some (gid, stream, xid) => match s.group gid with
      | some gr => s.sendAborts gr stream xid 6
      | none => s
    | none => s
  let s := { s with dying := s.dying.map fun x => if again x then { x with status := 3, rerun := false } else x }
  let cs := s.cmds.filter back ++ s.cmds.filter fwd ++ s.cmds.filter fun c => !back c && !fwd c
  s.each (cs.map (·.gen)) fun s g => s.cmdAbort g

/-- A command killed by a fault after which it fails (Table 06-15). -/
def Dev.cmdFail (s : Dev) (g : Nat) : Dev :=
  match s.cmd g with
  | none => s
  | some c =>
    match c.body with
    | .coach r => if r.ctl then s else s.instKill g r 2 false
    | .route _ => s.groupFault g 7 2
    | .exch _ => s.groupFault g 7 2
    | .coll _ => s.groupFault g 7 2
    | .move _ => s.moveKill g 2
    | .mfx _ => s.mmfKill g 2 false
    | .matomic _ => s.mmfKill g 2 false
    | _ => s

/-- Commands whose held writes met an UNREACHABLE page are killed, FAILED (R282). -/
def Dev.failLost (s : Dev) : Dev :=
  let gs := s.tiers.lost
  (s.each gs Dev.cmdFail).setTiers fun t => { t with lost := [] }

/-- NOROUTE_TIMEOUT: a carriage given up for lack of a route (R360, R434). -/
def execNorouteTimeout (e : Nat) (s : State) : Host.Outcome State Fault Refusal := s.upd fun s =>
  (s.norouteTimeout e).failLost

/-- A BULKACK (R429, R432). -/
def execBulkack (c : Carriage) (s : State) : Host.Outcome State Fault Refusal := s.upd fun s => (s.bulkack c).failLost

/-- A gateway chunk (R429, R432). -/
def execBulkChunkReceive (c : Carriage) (s : State) : Host.Outcome State Fault Refusal := s.upd fun s => (s.bulkChunk c).failLost

/-- REQ_TO without a response (R427, R434, R435). -/
def execRequestTimeout (tag : Nat) (s : State) : Host.Outcome State Fault Refusal := s.unit fun s =>
  (s.requestTimeout tag).failLost

/-- A kill of command g for one of the causes of Table 06-15. -/
def execCommandKill (g : Nat) (cause : KillCause) (s : State) : Host.Outcome State Fault Refusal := s.upd fun s =>
  match s.cmd g with
  | none => s
  | some c =>
    match cause with
    | .residue => match c.body with
      | .coach r => if r.ctl then s else s.missKill g
      | _ => s
    | .failed => s.cmdFail g
    | .aborted => s.cmdAbort g
    | .fabric => match cmdInst c with
      | some (gid, stream, xid) => match s.group gid with
        | some gr => (s.groupKill g 2 (cmdStalls c == 0)).sendAborts gr stream xid 4
        | none => s
      | none => s

/-- A killed command armed again: a step-program command stays that of its frame. -/
def Dev.rerun (s : Dev) (c : Cmd) (f : Dev → Dev) : Dev :=
  let g := s.nextGen
  let s := f s
  if c.src = .coachman then { s with srv := s.srv.renamed c.gen g } else s

/-- What a command whose kill has completed does next: it completes, or it runs again with a new generation. -/
def Dev.killed (s : Dev) (x : Dying) : Dev :=
  let c := x.cmd
  match c.body with
  | .coach r =>
    s.coachKilled x r
  | .prog r => (s.wrBytes (chAddr r.status) (r.block c.gen 2 x.status 0)).complete c x.status 0
  | .route r => if x.rerun then s.rerun c fun s => s.routeRearm c r else s.complete c x.status 0
  | .exch r =>
    let s := if r.back then s else { s with landed := s.landed.filter fun l => l.gen != c.gen }
    if x.rerun then s.rerun c fun s => s.exchRearm c r else s.complete c x.status 0
  | .coll r => if x.rerun then s.rerun c fun s => s.collRearm c r else s.complete c x.status 0
  | _ => s.complete c x.status 0

/-- A kill completes (R243), and what its command does next follows. -/
def Dev.killDone (s : Dev) (g : Nat) : Dev :=
  match s.dying.find? fun x => x.cmd.gen == g with
  | none => s
  | some x =>
    let s := (s.killSettle g).killed x
    match x.cmd.body with
    | .coach r => s.passGap r.coach
    | _ => s

/-- Every write of the killed run has landed or been dropped. -/
def execKillComplete (g : Nat) (s : State) : Host.Outcome State Fault Refusal := s.unit fun s => s.killDone g

/-- Every kill under way completes, in order: commands of the Coaches before the RUNPROGs they belong to. -/
def Dev.killAllDone (s : Dev) : Dev :=
  let isC (x : Dying) : Bool := match x.cmd.body with | .coach _ => true | _ => false
  s.each (s.dying.filter isC ++ s.dying.filter fun x => !isC x) fun s x => s.killDone x.cmd.gen

end Sys2Proof.Machine
end

