-- ==== Sys2Proof/Machine/Jobs.lean ====
section
/-! DEFINITION. Jobs: admission, the launch tree, resizing, orders, pre-emption, the end of a job and its scrub
(R475 to R497, R502 to R506). -/
namespace Sys2Proof.Machine

def Dev.setJob (s : Dev) (f : Job → Job) : Dev := { s with job := f s.job }
def Dev.setJobState (s : Dev) (x : Nat) : Dev := s.setFld Reg.GRD_JOBSTAT 0 3 x
def Dev.jobId (s : Dev) : Nat := s.fld Reg.GRD_JOBID 0 32
def Dev.jobIndex (s : Dev) : Nat := s.fld Reg.GRD_JOBMEMB 0 16
def Dev.jobRuns (s : Dev) : Bool := s.jobState == jRUNNING || s.jobState == jPREEMPTED

/-! ### Launch and order carriages (R480, R481, Table 16-6) -/

def lMANIFEST : Nat := 0x18
def lARM : Nat := 0x19
def lARMACK : Nat := 0x1A
def lGO : Nat := 0x1B
def lLABORT : Nat := 0x1C
def lORDREQ : Nat := 0x1D
def lORDER : Nat := 0x1E
def lACK : Nat := 0x1F

/-- Type, JOBID and LSEQ or ORDSEQ of a launch or order carriage. -/
def lType (c : Carriage) : Nat := c.f 28 0 8
def lJob (c : Carriage) : Nat := c.f 32 0 32
def lSeq (c : Carriage) : Nat := c.f 36 0 32

def Dev.jobCar (s : Dev) (dst type jobid seq : Nat) (fs : List (Nat × Nat × Nat × Nat)) (payload : List Byte) : Carriage :=
  ⟨mkHdr ([(0, 0, 16, dst), (2, 0, 16, s.coord), (4, 0, 3, 6), (5, 0, 5, payload.length / 256), (5, 5, 3, kCTRL),
    (7, 0, 8, s.colLevel), (28, 0, 8, type), (30, 0, 16, 0xFFFF), (32, 0, 32, jobid), (36, 0, 32, seq)] ++ fs), payload⟩

/-- A member list as it lies in memory, and its CRC. -/
def listBytes (l : List Nat) : List Byte := l.flatMap (leBytes 2)
def listCrc (l : List Nat) : Nat := crc32c (listBytes l)
def listOf (bs : List Byte) (n : Nat) : List Nat := (List.range n).map fun i => leNat ((bs.drop (2 * i)).take 2)

/-- The children and the parent of node i (R480). -/
def kidsOf (fanout n i : Nat) : List Nat := ((List.range fanout).map (fanout * i + 1 + ·)).filter (· < n)
def parentOf (fanout i : Nat) : Nat := (i - 1) / fanout

def Launch.kids (l : Launch) : List Nat := kidsOf l.fanout l.list.length l.index
def Launch.coordOf (l : Launch) (i : Nat) : Nat := nth l.list i 0

def Dev.setLaunch (s : Dev) (f : Launch → Launch) : Dev := s.setJob fun j => { j with launch := j.launch.map f }

/-- A message sent to a node of the tree and kept until it is answered (R481). -/
def Dev.jobSend (s : Dev) (type node coord : Nat) (cars : List Carriage) : Dev :=
  let s := s.each cars fun s c => s.formed 42 c none
  s.setJob fun j => { j with
    unacked := j.unacked.filter (fun m => !(m.type == type && m.node == node && m.coord == coord)) ++ [⟨type, node, coord, cars⟩] }

/-- Messages that are no longer repeated. -/
def Dev.unsend (s : Dev) (p : LMsg → Bool) : Dev := s.setJob fun j => { j with unacked := j.unacked.filter fun m => !p m }

/-- The MANIFEST of a launch, chunk by chunk. -/
def Dev.manifestCars (s : Dev) (l : Launch) (dst : Nat) : List Carriage :=
  let bs := listBytes l.list
  (List.range (ceilDiv bs.length 4096)).map fun c =>
    s.jobCar dst lMANIFEST l.jobid l.lseq [(40, 0, 32, c), (44, 0, 32, l.list.length), (48, 0, 8, l.fanout), (49, 0, 2, l.policy),
      (49, 2, 1, l.resize.toNat), (50, 0, 16, l.armStep), (52, 0, 8, l.rounds), (54, 0, 32, l.goLead)]
      (padUnits ((bs.drop (4096 * c)).take 4096))

/-- One message without payload to every child. -/
def Dev.tellKids (s : Dev) (l : Launch) (type : Nat) (fs : List (Nat × Nat × Nat × Nat)) : Dev :=
  s.each l.kids fun s k => s.jobSend type k (l.coordOf k) [s.jobCar (l.coordOf k) type l.jobid l.lseq fs []]

/-- The MANIFEST to every child (R482). -/
def Dev.manifestKids (s : Dev) (l : Launch) : Dev :=
  s.each l.kids fun s k => s.jobSend lMANIFEST k (l.coordOf k) (s.manifestCars l (l.coordOf k))

/-! ### Held descriptors and admission -/

/-- Descriptors held in MANIFEST or ARMED complete REFUSED when the launch fails (R476); a JUNIT is not held. -/
def Dev.refuseHeld (s : Dev) : Dev :=
  s.each s.rings fun s (r : Nat × Ring) =>
    let junit (d : Line) : Bool := dOp d == 0x0703
    let s := s.setRing r.1 { s.ring r.1 with fetched := r.2.fetched.filter junit }
    s.each (r.2.fetched.filter fun d => !junit d) fun s d =>
      s.refuse (.ring r.1) d ⟨clsJOB, 0x001, dOp d + s.jobState * 2 ^ 16⟩

/-- The admission of a job lapses (R478). -/
def Dev.admitClear (s : Dev) (jobid : Nat) : Dev :=
  if s.fld Reg.GRD_JOBADMIT 0 32 = jobid then s.setFlag Reg.GRD_JOBADMIT 32 false else s

/-- The first bad field of a JADMIT (R478). -/
def jadmitBad (d : Line) : Option Nat :=
  if lnum d 16 4 = 0 then some 16
  else if lnum d 20 2 = 0 then some 20
  else if !lzeros d 22 63 then some 22
  else none

/-- JADMIT (R478). -/
def execJadmit (src : Source) (d : Line) (s : State) : Host.Outcome State Fault Refusal := s.upd fun s =>
  if dOp d ≠ 0x0700 then s
  else match s.headCheck d with
    | some r => s.refuse src d r
    | none =>
      match jadmitBad d with
      | some n => s.refuse src d ⟨clsJOB, 0x003, n⟩
      | none =>
        if s.jobState ≠ jIDLE then s.refuse src d ⟨clsJOB, 0x002, s.jobState⟩
        else
          let (s, g) := s.arm src d 0 [] [] .control
          (s.setReg Reg.GRD_JOBADMIT (2 ^ 32 + lnum d 16 4)).commit g 0

/-- ADMIT_TO passes without a MANIFEST (R478). -/
def execAdmitTimeout (s : State) : Host.Outcome State Fault Refusal := s.upd fun s =>
  if s.jobState = jIDLE then s.setFlag Reg.GRD_JOBADMIT 32 false else s

/-! ### Pre-emption and the end of a job (R492 to R497) -/

/-- The JORDER under way is killed by the order `q` that is applied, 0 where none is, unless it is the command that this order
carries out: that of its ORDSEQ, or one that the root has not acknowledged and that asked for the same (Table 16-8). -/
def Dev.ownKill (s : Dev) (order q : Nat) : Dev :=
  match s.job.ownReq with
  | some o =>
    if q ≠ 0 && (o.ordseq == some q || (o.ordseq.isNone && o.order == order)) then s
    else ((s.unsend fun m => m.type == lORDREQ).setJob fun j => { j with ownReq := none }).kill o.gen 3 false
  | none => s

/-- What PREEMPT does to the work of the device (Table 16-8). Timetable entries that have not settled ask for all their pages
again at RESUME (R494); those of a Timetable that was stopped do not, and it ends (R290). -/
def Dev.preemptWork (s : Dev) (order q : Nat) : Dev :=
  let opens := s.tiers.opens
  let ended := s.tiers.ttEnd; let halted := s.tiers.ttHalted
  let s := s.setTiers fun t => { t with
    opens := [], ttEnd := false, reqs := t.reqs.filter (fun r => r.by_ == .retire), waits := t.waits.filter fun w => w.by_ == .retire }
  let s := (s.ownKill order q).abortAll
  let s := s.each s.tiers.moves fun s m => s.moveCancel m 0
  let s := s.killAllDone
  let s := s.setTiers fun t => { t with opens := opens.map fun e => { e with left := e.count }, ttEnd := ended }
  let s := if halted then (s.setTiers fun t => { t with opens := [], ttHalted := true }).ttEndCheck else s
  let s := { s with col := { s.col with refusals := [] } }
  { s with srv := { s.srv with frame := none, stop := none } }

def Dev.preempt (s : Dev) (q : Nat) : Dev := (s.preemptWork 1 q).setJobState jPREEMPTED

/-- RESUME (R494). -/
def Dev.resume (s : Dev) : Dev :=
  let s := s.setJobState jRUNNING
  let again := s.tiers.opens.map fun e => (⟨e.first, e.count, e.target, e.pool, false, .entry e.lap e.n⟩ : MoveReq)
  (s.setTiers fun t => { t with reqs := t.reqs ++ again }).pump

/-- END (R495) by order `q`, 0 where no order ends the job: the work as PREEMPT, then groups, serving loop and loans, and the scrub
begins. -/
def Dev.endJob (s : Dev) (wipe : Bool) (q : Nat) : Dev :=
  let s := s.preemptWork 3 q
  let s := { s with col := { s.col with groups := [] }, landed := [], srv := ⟨none, none, s.srv.ran, none⟩ }
  let s := s.setReg Reg.HST_LOOPSTAT 0
  let s := s.each (List.range 16) Dev.loanStop
  let s := s.each (List.range 16) fun s k => s.setReg (Reg.MMF_BORROW k) 0
  let s := s.setTiers fun t => { t with
    opens := [], reqs := [], waits := [], ttEnd := false, ttHalted := false, ttNow := [], lost := [] }
  let s := (s.setFlag Reg.DRY_STAT 12 false).setReg Reg.DRY_TTCTL 0
  (s.setJob fun j => { j with wipeCxl := wipe }).setJobState jSCRUBBING

/-- The meters and the identity of the job are sealed (R504, Table 18-9). -/
def Dev.seal (s : Dev) (ended : Nat) : Dev :=
  let e : MeterEntry :=
    { seq := s.grd.meterSeq + 1, jobid := s.jobId, acct := s.fld Reg.GRD_JOBID 32 32, ended := ended
      epoch := s.fld Reg.GRD_JOBSTAT 8 8, ordseq := s.fld Reg.GRD_JOBORD 0 32, tgo := BitVec.ofNat 64 s.job.tgoTime
      tend := BitVec.ofNat 64 s.now, meters := (List.range 8).map fun i => BitVec.ofNat 64 (s.reg (Reg.GRD_MTR_RUNNS + 8 * i)) }
  { s with grd := { s.grd with
    meterLog := (s.grd.meterLog ++ [e]).drop (s.grd.meterLog.length + 1 - 16), meterSeq := e.seq, sealed := true } }

/-- Whether a memory key is zeroed by the scrub or by a reset: Coach stores, Coach House and HBM but for its reserved frames, and
lent frames, which their lender zeroes as the loan ends (R433, R495); `cxl`: the CXL tier too. -/
def scrubbed (cxl : Bool) (k : Nat) : Bool :=
  match k / 2 ^ 60 with
  | 0 | 1 => true
  | 2 => decide (rsvdFrames ≤ keyFrame k)
  | 3 | 4 => cxl
  | _ => true

/-- Memory zeroed, with its lines good again. -/
def Dev.zeroMem (s : Dev) (cxl : Bool) : Dev :=
  { s with mem := s.mem.filter (fun c => !scrubbed cxl c.1), bad := s.bad.filter fun l => !scrubbed cxl (l.1 * 64) }

/-- Rights of DEBUG_UNLOCK end (R566); in MANUFACTURE they read 0b111. -/
def Dev.rightsEnd (s : Dev) : Dev :=
  s.setReg Reg.DBG_UNLOCK (if s.fld Reg.GRD_LIFECYCLE 0 3 = 1 then 7 else 0)

/-- The between-job scrub (Table 16-9). -/
def Dev.scrub (s : Dev) : Dev :=
  let s := s.zeroMem s.job.wipeCxl
  let s := s.each s.tiers.filter fun s l => s.emit (.bisnp l.1)
  let s := { s with pt := [] }
  let s := s.setTiers fun t => { t with moves := [], reqs := [], waits := [], opens := [], noted := [], filter := [], snoops := [] }
  let s := s.setFld Reg.DRY_STAT 0 5 0
  let s := s.livClear
  let s := (s.setReg Reg.CCH_SEED 0).setReg Reg.CCH_STEP 0
  let s := { s with regs := s.regs.filter fun r => !(decide (0xE01000 ≤ r.1) && decide (r.1 < 0xE03000)) }
  let s := s.setMmf fun m => { m with
    reqs := [], queue := [], lines := [], sectors := [], atoms := [], acks := [], serves := [], pend := [] }
  let s := Dev.stgSettle { s with stg := { s.stg with queue := [], waiting := [], acc := [] } }
  let s := s.setFlag Reg.STG_CFG 1 false
  let s := { s with col := { s.col with groups := [] }, landed := [] }
  { s with regs := s.regs.filter fun r => !isCounter r.1 }

/-! ### Orders (R489 to R491) -/

/-- A JORDER commits once its order has been applied here and acknowledged by the root; an END commits with the scrub. One whose
order can no longer be applied, the job having ended, ends ABORTED. -/
def Dev.orderSettle (s : Dev) : Dev :=
  match s.job.ownReq with
  | some o =>
    match o.ordseq with
    | some q =>
      let done (s : Dev) : Dev := s.setJob fun j => { j with ownReq := none }
      if s.fld Reg.GRD_JOBORD 0 32 < q then (if s.jobRuns then s else (done s).finish o.gen 3 0)
      else if o.order = 3 && s.jobState ≠ jIDLE then s
      else (done s).commit o.gen q
    | none => s
  | none => s

/-- The scrub completes (R497, R504, R558, R566). -/
def execScrubComplete (s : State) : Host.Outcome State Fault Refusal := s.upd fun s =>
  if s.jobState ≠ jSCRUBBING then s
  else
    let s := s.scrub.seal 1
    let s := ((s.setReg Reg.ERR_HEAD 0).setReg Reg.ERR_TAIL 0)
    let s := { s with log := { s.log with slots := [] } }
    let u := s.fld Reg.DBG_UNLOCK 32 32
    let s := if u ≠ 0 && u = s.jobId then s.rightsEnd else s
    let s := s.setJob fun j => { j with
      launch := none, gather := none, list := [], heldReq := [], wipeCxl := false, drains := [] }
    (s.setJobState jIDLE).orderSettle

/-- An order is applied (R490). -/
def Dev.orderApply (s : Dev) (order : Nat) (wipe : Bool) (q : Nat) : Dev :=
  if q ≤ s.fld Reg.GRD_JOBORD 0 32 || !s.jobRuns then s
  else
    let s := s.setReg Reg.GRD_JOBORD q
    let s := match order with
      | 1 => if s.jobState = jRUNNING then s.preempt q else s
      | 2 => if s.jobState = jPREEMPTED then s.resume else s
      | 3 => s.endJob wipe q
      | _ => s
    s.orderSettle

/-- ORDER to the children of this node in the list of the job. -/
def Dev.orderKids (s : Dev) (order : Nat) (wipe : Bool) (q : Nat) : Dev :=
  s.each (kidsOf s.job.fanout s.job.list.length s.jobIndex) fun s k =>
    let co := nth s.job.list k 0
    s.jobSend lORDER k co [s.jobCar co lORDER s.jobId q [(40, 0, 8, order), (41, 0, 1, wipe.toNat)] []]

/-- The next ORDSEQ (R489). -/
def Dev.nextOrdseq (s : Dev) : Nat := max s.job.nextOrd (s.fld Reg.GRD_JOBORD 0 32) + 1

/-- The root issues an order: ORDSEQ, the acknowledgement, the order down the tree, and the order itself. A request of its own whose
JORDER has been killed is not issued. -/
def Dev.orderIssue (s : Dev) (r : OrderReq) : Dev :=
  if !s.jobRuns || r.own.any (fun g => (s.cmd g).isNone) then s
  else
    let q := s.nextOrdseq
    let s := s.setJob fun j => { j with nextOrd := q }
    let s := match r.own with
      | some g => s.setJob fun j => { j with ownReq := j.ownReq.map fun (o : OwnOrder) => if o.gen = g then { o with ordseq := some q } else o }
      | none => s.formed 42 (s.jobCar r.coord lACK s.jobId q [(40, 0, 8, lORDREQ)] []) none
    (s.orderKids r.order r.wipe q).orderApply r.order r.wipe q

/-- A request reaches the root: it is held during a resize (R491). -/
def Dev.orderAsked (s : Dev) (r : OrderReq) : Dev :=
  if s.job.launch.isSome then s.setJob fun j => { j with heldReq := j.heldReq ++ [r] } else s.orderIssue r

/-- The resize has ended: the requests held are issued in order. -/
def Dev.heldIssue (s : Dev) : Dev :=
  let rs := s.job.heldReq
  (s.setJob fun j => { j with heldReq := [] }).each rs Dev.orderIssue

/-- The first bad field of a JORDER (R489). -/
def jorderBad (d : Line) : Option Nat :=
  if lnum d 16 1 = 0 || 3 < lnum d 16 1 then some 16
  else if lfield d 17 1 7 ≠ 0 then some 17
  else if !lzeros d 18 63 then some 18
  else none

/-- A JORDER with ORDER `k`: it is sent to the root, or issued where this device is the root. -/
def Dev.jorder (s : Dev) (src : Source) (d : Line) (k : Nat) : Dev :=
  let o := lnum d 16 1
  if dOp d ≠ 0x0702 || (o ≠ k && 1 ≤ o && o ≤ 3) then s
  else match s.headCheck d with
    | some r => s.refuse src d r
    | none =>
      if s.job.ownReq.isSome then s
      else match jorderBad d with
      | some n => s.refuse src d ⟨clsJOB, 0x003, n⟩
      | none =>
        let wipe := o == 3 && lfield d 17 0 1 == 1
        let (s, g) := s.arm src d 0 [] [] (.jorder o)
        let s := s.setJob fun j => { j with ownReq := some ⟨g, o, none⟩ }
        if s.jobIndex = 0 then s.orderAsked ⟨s.coord, o, wipe, some g⟩
        else
          let root := nth s.job.list 0 0
          s.jobSend lORDREQ 0 root [s.jobCar root lORDREQ s.jobId 0
            [(40, 0, 8, o), (41, 0, 1, wipe.toNat), (42, 0, 16, s.jobIndex)] []]

/-- JORDER with ORDER PREEMPT (R489, R492). -/
def execJorderPreempt (src : Source) (d : Line) (s : State) : Host.Outcome State Fault Refusal := s.upd fun s => s.jorder src d 1
/-- JORDER with ORDER END (R489, R495). -/
def execJorderEnd (src : Source) (d : Line) (s : State) : Host.Outcome State Fault Refusal := s.upd fun s => s.jorder src d 3

/-- ORDREQ received by the root (R489, R491). -/
def Dev.ordreq (s : Dev) (c : Carriage) : Dev :=
  let s := s.taken c
  let o := c.f 40 0 8
  if lType c ≠ lORDREQ || lJob c ≠ s.jobId || s.jobIndex ≠ 0 || !s.jobRuns || o = 0 || 3 < o then s
  else s.orderAsked ⟨c.src, o, o == 3 && c.f 41 0 1 == 1, none⟩

/-- ORDER received (R489, R490): from its parent it is applied, forwarded and acknowledged; from the root itself, which
removes this member (R488), it is applied and acknowledged. -/
def Dev.order (s : Dev) (c : Carriage) : Dev :=
  let s := s.taken c
  let o := c.f 40 0 8
  let wipe := o == 3 && c.f 41 0 1 == 1
  if lType c ≠ lORDER || lJob c ≠ s.jobId then s
  else
    let ack (s : Dev) : Dev := s.formed 42 (s.jobCar c.src lACK (lJob c) (lSeq c) [(40, 0, 8, lORDER)] []) none
    if !s.jobRuns then ack s
    else
      let parent := nth s.job.list (parentOf s.job.fanout s.jobIndex) 0
      let own := s.jobIndex != 0 && c.src == parent
      if !own && c.src ≠ nth s.job.list 0 0 then s
      else
        let fresh := decide (s.fld Reg.GRD_JOBORD 0 32 < lSeq c)
        let s := if own && fresh then s.orderKids o wipe (lSeq c) else s
        ack (s.orderApply o wipe (lSeq c))

/-- An acknowledgement received (R481, R489). -/
def execAck (c : Carriage) (s : State) : Host.Outcome State Fault Refusal := s.upd fun s =>
  let s := s.taken c
  let t := c.f 40 0 8
  if lType c ≠ lACK then s
  else
    let mine (m : LMsg) : Bool := m.type == t && m.coord == c.src && m.cars.all fun x => lJob x == lJob c
    let s := s.unsend mine
    if t = lORDREQ && lJob c = s.jobId then
      (s.setJob fun j => { j with
        ownReq := j.ownReq.map fun (o : OwnOrder) => if o.ordseq.isNone then { o with ordseq := some (lSeq c) } else o }).orderSettle
    else s

/-- The root does not acknowledge an ORDREQ (R489). -/
def execOrdreqTimeout (s : State) : Host.Outcome State Fault Refusal := s.upd fun s =>
  match s.job.ownReq with
  | some o =>
    if o.ordseq.isSome || s.jobIndex = 0 then s
    else
      let s := s.record clsJOB 0x00F (nth s.job.list 0 0) o.gen blkGRD 0
      ((s.unsend fun m => m.type == lORDREQ).setJob fun j => { j with ownReq := none }).finish o.gen 2 0
  | none => s

/-! ### Launch and resize (R479 to R488) -/

/-- The first bad field of a JLAUNCH (Table 16-5). -/
def jlaunchBad (d : Line) : Option Nat :=
  let a := lnum d 24 8
  let n := lfield d 32 0 17
  let fan := lfield d 32 17 5
  if lnum d 16 4 = 0 then some 16
  else if a % 64 ≠ 0 || !inCH a (2 * n) then some 24
  else if n = 0 || 65536 < n || fan < 2 || 16 < fan || 2 ≤ lfield d 32 23 2 || lfield d 32 25 7 ≠ 0 then some 32
  else if lfield d 36 0 17 = 0 || n < lfield d 36 0 17 || lfield d 36 17 15 ≠ 0 then some 36
  else if lnum d 40 2 < 200 then some 40
  else if lnum d 42 1 = 0 || 4 < lnum d 42 1 then some 42
  else if lnum d 43 1 ≠ 0 then some 43
  else if lnum d 44 4 = 0 || 1000000 < lnum d 44 4 then some 44
  else if !lzeros d 48 63 then some 48
  else none

/-- GO from the root (R485). -/
def Dev.rootGo (s : Dev) (l : Launch) : Dev :=
  let t := (s.now + l.goLead * 1000) % 2 ^ 64
  let s := s.setLaunch fun l => { l with tgo := some t }
  s.tellKids l lGO [(40, 0, 64, t), (48, 0, 32, listCrc l.list)]

/-- A round begins on the root (R482); a launch of one device needs no answer. -/
def Dev.roundStart (s : Dev) (l : Launch) : Dev :=
  let s := (s.unsend fun m => decide (m.type < lORDREQ)).setJob fun j => { j with launch := some l, lastLseq := l.lseq }
  let s := (s.manifestKids l).tellKids l lARM []
  if l.kids.isEmpty then s.rootGo l else s

/-- JLAUNCH (R479, R482, R488): the root starts round 1. -/
def execJlaunch (src : Source) (d : Line) (s : State) : Host.Outcome State Fault Refusal := s.unit fun s =>
  let n := lfield d 32 0 17
  let resize := lfield d 32 22 1 == 1
  if dOp d ≠ 0x0701 then s
  else match s.headCheck d with
    | some r => s.refuse src d r
    | none =>
      if s.job.launch.isSome then s
      else match jlaunchBad d with
      | some k => s.refuse src d ⟨clsJOB, 0x003, k⟩
      | none =>
        let no (s : Dev) : Dev := s.refuse src d ⟨clsJOB, 0x002, s.jobState⟩
        let (s1, g) := s.arm src d 0 [(jobKey (lnum d 24 8), 2 * n)] [] .jlaunch
        match s1.cmdRead g (lnum d 24 8) (2 * n) with
        | (s2, none) => s2.kill g 2 false
        | (s2, some bs) =>
          let list := listOf bs n
          if list.head? ≠ some s.coord || !decide list.Nodup then no s
          else if resize && (s.jobState = jIDLE || lnum d 16 4 ≠ s.jobId) then no s
          else
            let l : Launch :=
              { root := true, cmd := g, jobid := lnum d 16 4, acct := lnum d 20 4, lseq := (s.job.lastLseq + 1) % 2 ^ 32, list := list
                fanout := lfield d 32 17 5, resize := resize, policy := lfield d 32 23 2, minn := lfield d 36 0 17
                armStep := lnum d 40 2, rounds := lnum d 42 1, goLead := lnum d 44 4, index := 0, ran := 1, armed := true
                acked := [], silent := [], overflow := false, answered := false, tgo := none }
            (if resize then s2 else s2.setJobState jARMED).roundStart l

/-- The launch or resize of this node is over without a start: a node outside the job returns to IDLE. -/
def Dev.launchDrop (s : Dev) : Dev :=
  match s.job.launch with
  | none => s
  | some l =>
    let s := (s.unsend fun m => decide (m.type < lGO)).setJob fun j => { j with launch := none, gather := none }
    let s := if s.jobState = jMANIFEST || s.jobState = jARMED then (s.refuseHeld.setJobState jIDLE).admitClear l.jobid else s
    s.heldIssue

/-- The launch aborts at the root (R484, R488). -/
def Dev.launchAbort (s : Dev) (l : Launch) : Dev :=
  let s := s.tellKids l lLABORT []
  ((s.record clsJOB 0x006 l.list.length l.cmd blkGRD 0).finish l.cmd 2 0).launchDrop

/-- The wait of the root is over (R484). -/
def Dev.rootSettle (s : Dev) (l : Launch) : Dev :=
  let s := s.unsend fun m => m.type == lMANIFEST || m.type == lARM
  let bad := l.silent.eraseDups
  let s := s.each bad fun s i => s.record clsJOB 0x005 i l.cmd blkGRD 0
  let list := (((List.range l.list.length).zip l.list).filter fun x => !bad.contains x.1).map (·.2)
  if bad.isEmpty then s.rootGo l
  else if l.policy = 1 && l.minn ≤ list.length && !l.overflow && l.ran < l.rounds then
    s.roundStart { l with list := list, lseq := (l.lseq + 1) % 2 ^ 32, ran := l.ran + 1, acked := [], silent := [], overflow := false }
  else s.launchAbort l

/-- A node answers its parent (R483). -/
def Dev.nodeAnswer (s : Dev) (l : Launch) : Dev :=
  let s := s.unsend fun m => m.type == lMANIFEST || m.type == lARM
  let all := l.silent.eraseDups
  let out := all.take 1024
  let ovf := l.overflow || decide (1024 < all.length)
  let to_ := l.coordOf (parentOf l.fanout l.index)
  let s := s.setLaunch fun l => { l with answered := true }
  s.formed 42 (s.jobCar to_ lARMACK l.jobid l.lseq [(40, 0, 32, out.length), (44, 1, 1, ovf.toNat)]
    (padUnits (out.flatMap (leBytes 4)))) none

/-- Every child has answered, or the wait has ended: a node answers, the root settles. -/
def Dev.armSettle (s : Dev) : Dev :=
  match s.job.launch with
  | none => s
  | some l => if l.root then s.rootSettle l else s.nodeAnswer l

/-- Every child has answered. -/
def Dev.armCheck (s : Dev) : Dev :=
  match s.job.launch with
  | none => s
  | some l => if l.kids.all l.acked.contains then s.armSettle else s

/-- A MANIFEST refused (R483): recorded and answered. -/
def Dev.manifestRefuse (s : Dev) (c : Carriage) : Dev :=
  let s := s.record clsJOB 0x004 (lJob c) 0 blkGRD 0
  s.formed 42 (s.jobCar c.src lARMACK (lJob c) (lSeq c) [(44, 0, 1, 1)] []) none

/-- The state of the node lets it accept a manifest (R483, R488). -/
def Dev.manifestOk (s : Dev) (c : Carriage) : Bool :=
  let newer := match s.job.launch with
    | some l => l.jobid == lJob c && !l.root && decide (l.lseq < lSeq c)
    | none => false
  if s.jobState = jIDLE then s.flag Reg.GRD_JOBADMIT 32 && s.fld Reg.GRD_JOBADMIT 0 32 == lJob c
  else if s.jobState = jMANIFEST || s.jobState = jARMED then newer
  else s.jobState == jRUNNING && lJob c == s.jobId && c.f 49 2 1 == 1 && (newer || s.job.launch.isNone)

/-- A chunk of a MANIFEST received (R483): once the list is whole it is accepted and forwarded, or refused. -/
def execManifest (c : Carriage) (s : State) : Host.Outcome State Fault Refusal := s.upd fun s =>
  let s := s.taken c
  let n := c.f 44 0 32
  let fan := c.f 48 0 8
  let same := match s.job.launch with | some l => l.jobid == lJob c && l.lseq == lSeq c | none => false
  if lType c ≠ lMANIFEST || same then s
  else if !s.manifestOk c || n = 0 || 65536 < n || fan < 2 || 16 < fan then
    if c.f 40 0 32 = 0 then s.manifestRefuse c else s
  else
    let new : Gather :=
      { jobid := lJob c, lseq := lSeq c, n := n, fanout := fan, policy := c.f 49 0 2, resize := c.f 49 2 1 == 1
        armStep := c.f 50 0 16, rounds := c.f 52 0 8, goLead := c.f 54 0 32, chunks := [] }
    let g := match s.job.gather with
      | some g => if g.jobid = lJob c && g.lseq = lSeq c then g else new
      | none => new
    let g := { g with chunks := g.chunks.filter (fun x => x.1 != c.f 40 0 32) ++ [(c.f 40 0 32, c.payload)] }
    let cnt := ceilDiv (2 * g.n) 4096
    let part (i : Nat) : Option (List Byte) := (g.chunks.find? fun x => x.1 == i).map (·.2)
    if !(List.range cnt).all fun i => (part i).isSome then s.setJob fun j => { j with gather := some g }
    else
      let s := s.setJob fun j => { j with gather := none }
      let bs := (List.range cnt).flatMap fun i =>
        let b := ((part i).getD []).take (min 4096 (2 * g.n - 4096 * i))
        b ++ List.replicate (min 4096 (2 * g.n - 4096 * i) - b.length) 0
      let list := listOf bs g.n
      if list.count s.coord ≠ 1 then s.manifestRefuse c
      else
        let l : Launch :=
          { root := false, cmd := 0, jobid := g.jobid, acct := 0, lseq := g.lseq, list := list, fanout := g.fanout
            resize := g.resize, policy := g.policy, minn := 0, armStep := g.armStep, rounds := g.rounds, goLead := g.goLead
            index := list.idxOf s.coord, ran := 0, armed := false, acked := [], silent := [], overflow := false, answered := false
            tgo := none }
        let s := (s.unsend fun m => decide (m.type < lORDREQ)).setJob fun j => { j with launch := some l }
        (if s.jobState = jRUNNING then s else s.setJobState jMANIFEST).manifestKids l

/-- ARM received (R480): forwarded, and the wait for the children begins; a node without children answers at once. -/
def execArm (c : Carriage) (s : State) : Host.Outcome State Fault Refusal := s.upd fun s =>
  let s := s.taken c
  match s.job.launch with
  | none => s
  | some l =>
    if lType c ≠ lARM || lJob c ≠ l.jobid || lSeq c ≠ l.lseq || l.root then s
    else if l.answered then s.nodeAnswer l
    else if l.armed then s
    else
      let s := s.setLaunch fun l => { l with armed := true }
      let s := if s.jobState = jMANIFEST then s.setJobState jARMED else s
      (s.tellKids l lARM []).armCheck

/-- ARMACK received (R483). -/
def execArmack (c : Carriage) (s : State) : Host.Outcome State Fault Refusal := s.upd fun s =>
  let s := s.taken c
  match s.job.launch with
  | none => s
  | some l =>
    match l.kids.find? fun k => l.coordOf k == c.src with
    | none => s
    | some k =>
      if lType c ≠ lARMACK || lJob c ≠ l.jobid || lSeq c ≠ l.lseq || l.acked.contains k || l.answered || l.tgo.isSome then s
      else
        let n := min 1024 (c.f 40 0 32)
        let ids := (List.range n).map fun i => leNat ((c.payload.drop (4 * i)).take 4)
        let own := if c.f 44 0 1 = 1 then [k] else []
        let s := s.setLaunch fun l => { l with
          acked := l.acked ++ [k], silent := l.silent ++ own ++ ids, overflow := l.overflow || c.f 44 1 1 == 1 }
        let s := s.unsend fun m => (m.type == lMANIFEST || m.type == lARM) && m.node == k
        if l.armed then s.armCheck else s

/-- The wait for the children ends (R480, R484): those that have not answered are silent. -/
def execArmWaitExpire (s : State) : Host.Outcome State Fault Refusal := s.upd fun s =>
  match s.job.launch with
  | none => s
  | some l =>
    if !l.armed || l.answered || l.tgo.isSome then s
    else (s.setLaunch fun l => { l with silent := l.kids.filter (fun k => !l.acked.contains k) ++ l.silent }).armSettle

/-- T_GO (R486, R488): a device that is armed enters RUNNING, `late` ns after T_GO where GO came late; a member of the job
takes the new list. On the root the members left out are sent END, JLAUNCH commits, and held requests are issued. -/
def Dev.jobStart (s : Dev) (l : Launch) (late : Option Nat) : Dev :=
  let old := s.job.list
  let memb := l.index + l.list.length * 2 ^ 32 + l.fanout * 2 ^ 52
  let t := l.tgo.getD 0
  let fresh := s.jobState == jARMED
  let s := s.setReg Reg.GRD_JOBMEMB memb
  let s := if fresh then
      let s := s.each (List.range 8) fun s i => s.setReg (Reg.GRD_MTR_RUNNS + 8 * i) 0
      let s := s.setReg Reg.GRD_JOBID (l.jobid + (if l.root then l.acct else Config.nodeAcct l.jobid % 2 ^ 32) * 2 ^ 32)
      let s := s.setReg Reg.GRD_JOBSTAT (jRUNNING + (if late.isSome then 16 else 0))
      let s := if s.fld Reg.DBG_UNLOCK 32 32 = 0 then s.rightsEnd else s
      { s with grd := { s.grd with sealed := false } }
    else s.setFld Reg.GRD_JOBSTAT 8 8 (s.fld Reg.GRD_JOBSTAT 8 8 + 1)
  let s := match late with
    | some n => s.record clsJOB 0x00D (min n 0xFFFFFFFF) 0 blkGRD 0
    | none => s
  let s := (s.admitClear l.jobid).setJob fun j => { j with
    launch := none, list := l.list, fanout := l.fanout, tgoTime := if fresh then t else j.tgoTime }
  if !l.root then s
  else
    let gone := ((List.range old.length).zip old).filter fun x => !l.list.contains x.2
    let s := if fresh || gone.isEmpty then s
      else
        let q := s.nextOrdseq
        (s.setJob fun j => { j with nextOrd := q }).each gone fun s x =>
          s.jobSend lORDER x.1 x.2 [s.jobCar x.2 lORDER s.jobId q [(40, 0, 8, 3)] []]
    (s.commit l.cmd l.list.length).heldIssue

/-- GO received (R485). -/
def Dev.go (s : Dev) (c : Carriage) : Dev :=
  let s := s.taken c
  let t := c.f 40 0 64
  let ack (s : Dev) : Dev := s.formed 42 (s.jobCar c.src lACK (lJob c) (lSeq c) [(40, 0, 8, lGO)] []) none
  if lType c ≠ lGO then s
  else match s.job.launch with
    | none => if s.jobRuns && lJob c = s.jobId then ack s else s
    | some l =>
      if l.root || !l.armed || lJob c ≠ l.jobid || lSeq c ≠ l.lseq || c.f 48 0 32 ≠ listCrc l.list then s
      else if l.tgo.isSome then ack s
      else
        let s := s.unsend fun m => m.type == lMANIFEST || m.type == lARM
        let s := (ack s).setLaunch fun l => { l with tgo := some t }
        let s := s.tellKids l lGO [(40, 0, 64, t), (48, 0, 32, c.f 48 0 32)]
        if t < s.now then s.jobStart { l with tgo := some t } (if s.jobState = jARMED then some (s.now - t) else none) else s

/-- Fabric time reaches T_GO (R485, R486, R488). -/
def Dev.tGoReached (s : Dev) : Dev :=
  match s.job.launch with
  | some l => if l.tgo.isSome then s.jobStart l none else s
  | none => s

/-- LABORT received (R484, R488). -/
def execLabort (c : Carriage) (s : State) : Host.Outcome State Fault Refusal := s.upd fun s =>
  let s := s.taken c
  if lType c ≠ lLABORT then s
  else
    let s := s.formed 42 (s.jobCar c.src lACK (lJob c) (lSeq c) [(40, 0, 8, lLABORT)] []) none
    match s.job.launch with
    | none => s.setJob fun j => { j with gather := j.gather.filter fun g => g.jobid != lJob c }
    | some l =>
      if l.root || lJob c ≠ l.jobid || lSeq c ≠ l.lseq then s
      else
        let s := s.tellKids l lLABORT []
        let s := if s.jobState = jRUNNING then s else s.record clsJOB 0x006 l.list.length 0 blkGRD 0
        s.launchDrop

/-- The hold of a node passes without GO (R487). -/
def execLaunchHoldExpire (s : State) : Host.Outcome State Fault Refusal := s.upd fun s =>
  match s.job.launch with
  | none => s
  | some l =>
    if l.root || l.tgo.isSome || !(s.jobState == jMANIFEST || s.jobState == jARMED) then s
    else (s.record clsJOB 0x007 l.jobid 0 blkGRD 0).launchDrop

/-- An unanswered message is sent again (R481). -/
def execLaunchMessageResend (node type : Nat) (s : State) : Host.Outcome State Fault Refusal := s.upd fun s =>
  match s.job.unacked.find? fun m => m.node == node && m.type == type with
  | some m => s.each m.cars fun s c => s.formed 42 c none
  | none => s

/-- A child does not acknowledge GO or ORDER within ARM_STEP (R485, R489). -/
def execChildAckTimeout (node type : Nat) (s : State) : Host.Outcome State Fault Refusal := s.upd fun s =>
  match s.job.unacked.find? fun m => m.node == node && m.type == type with
  | some m =>
    if type ≠ lGO && type ≠ lORDER then s
    else
      let gen := match s.job.launch with
        | some l => if type = lGO then l.cmd else 0
        | none => 0
      (s.record clsJOB 0x008 node gen blkGRD 0).unsend fun x => decide (x = m)
  | none => s

end Sys2Proof.Machine
end

