-- ==== Sys2Proof/Machine/Junit.lean ====
section
/-! DEFINITION. JUNIT: a unit taken out of service or returned to it with work in flight (R498 to R501). -/
namespace Sys2Proof.Machine

def juAction (d : Line) : Nat := lnum d 16 1
def juIndex (d : Line) : Nat := lnum d 18 2
def juFail (d : Line) : Bool := lfield d 17 0 1 == 1

/-- The first bad field of a JUNIT (R498). -/
def junitBad (d : Line) : Option Nat :=
  if juAction d = 0 || 5 < juAction d then some 16
  else if lfield d 17 1 7 ≠ 0 then some 17
  else if lnum d 20 2 = 0 then some 20
  else if !lzeros d 22 63 then some 22
  else none

/-- A JUNIT of ACTION `k`: checked, refused with JOB/0x00C where its unit is absent or already so, and armed. -/
def Dev.junit (s : Dev) (src : Source) (d : Line) (k : Nat) (ok : Bool) (body : CmdBody) (f : Dev → Nat → Dev) : Dev :=
  if dOp d ≠ 0x0703 || (juAction d ≠ k && 1 ≤ juAction d && juAction d ≤ 5) then s
  else match s.headCheck d with
    | some r => s.refuse src d r
    | none =>
      match junitBad d with
      | some n => s.refuse src d ⟨clsJOB, 0x003, n⟩
      | none =>
        if !ok then s.refuse src d ⟨clsJOB, 0x00C, juIndex d⟩
        else
          let (s, g) := s.arm src d 0 [] [] body
          f s g

/-- JUNIT 0x01: Coach n is deconfigured (R498, R499), in the order of a fence. -/
def execJunitDeconfigureCoach (src : Source) (d : Line) (s : State) : Host.Outcome State Fault Refusal := s.upd fun s =>
  let n := juIndex d
  s.junit src d 1 (s.coachOn n) .control fun s g =>
    (s.fenceCoach n fun s => s.record clsJOB 0x009 n g blkGRD 0).commit g 0

/-- The shares that the `i`-th Postilion `q` of its POSTMASK has still to do of a command, beside those of a pass's own stages: the
tokens of its range in the combine of a pass; of an exchange, the segments that it unpacks and, for a return, the chunks that
it packs. -/
def Dev.sharesLeft (s : Dev) (c : Cmd) (i q : Nat) : Nat :=
  match c.body with
  | .route r =>
    let t := rpTokens c.desc
    let n := (postsOf (rpMask c.desc)).length
    let mine (k : Nat) : Bool := decide (i * t / n ≤ k) && decide (k < (i + 1) * t / n)
    if r.stage == .combine && (List.range t).any fun k => mine k && r.arrivedOf k != r.countOf k then 1 else 0
  | .exch r =>
    let unpack := (!r.back || (s.combPass r.comb).isNone) && r.x.recvs.any fun y =>
      !r.unpacked.contains y.peer && nth r.x.posts (y.peer % r.x.posts.length) 0 == q
    let pack := r.back && r.x.sends.any fun y =>
      !y.begun || (List.range (stepChunks y.len)).any fun k => landPort r.x.posts k == 32 + q && !y.sent.any fun z => z.chunk == k
    if r.x.active then unpack.toNat + pack.toNat else 0
  | _ => 0

/-- The shares beside those of a pass's own stages that Postilion p holds, its own or in place of one that is parked. They follow
SIZ_ROUTE (Dev.postFor). -/
def Dev.loosePosts (s : Dev) (p : Nat) : Nat :=
  (s.cmds.map fun c =>
    let posts := postsOf (match c.body with | .route _ => rpMask c.desc | .exch _ => xpMask c.desc | _ => 0)
    (posts.mapIdx fun i q => if s.postFor posts q = p then s.sharesLeft c i q else 0).sum).sum

/-- The shares of stages that Postilion p holds move (R500): the state after it and how many moved. -/
def Dev.moveShares (s : Dev) (p : Nat) : Dev × Nat :=
  let holds (c : Cmd) : Bool := match c.body with | .route r => r.stage.shared && r.left.any (fun x => x.2 == p) | _ => false
  (s.cmds.filter holds).foldl (fun (a : Dev × Nat) c =>
    match c.body with
    | .route r =>
      let to_ := a.1.postFor (postsOf (rpMask c.desc)) p
      let k := (r.left.filter fun x => x.2 == p).length
      (a.1.setRoute c.gen fun r => { r with left := r.left.map fun x => if x.2 = p then (x.1, to_) else x }, a.2 + k)
    | _ => a) (s, 0)

/-- JUNIT 0x02: Postilion p is parked, unless it is the last (R500). -/
def execJunitParkPostilion (src : Source) (d : Line) (s : State) : Host.Outcome State Fault Refusal := s.upd fun s =>
  let p := juIndex d
  s.junit src d 2 (decide (p < 8) && bit s.postmap p && decide (1 < (bitsSet 8 s.postmap).length)) .control fun s g =>
    let n := s.loosePosts p
    let (s, k) := (s.sizChange fun s => s.setFlag Reg.SIZ_ROUTE (8 + p) false).moveShares p
    let s := s.postsWake
    let k := n + k
    (s.record clsJOB 0x00A (p + k % 2 ^ 24 * 2 ^ 8) g blkGRD 0).commit g k

/-- JUNIT 0x03: Postilion p is unparked (R500). -/
def execJunitUnparkPostilion (src : Source) (d : Line) (s : State) : Host.Outcome State Fault Refusal := s.upd fun s =>
  let p := juIndex d
  s.junit src d 3 (decide (p < s.fld Reg.SIZ_ROUTE 0 4) && !bit s.postmap p) .control fun s g =>
    (s.sizChange fun s => s.setFlag Reg.SIZ_ROUTE (8 + p) true).commit g 0

/-- JUNIT 0x04: port q is disabled (R501). With FAILMOVES its moves are cancelled at once; else they may run for DRAIN_TO. -/
def execJunitDisablePort (src : Source) (d : Line) (s : State) : Host.Outcome State Fault Refusal := s.upd fun s =>
  let q := juIndex d
  s.junit src d 4 (decide (q < 2) && s.portOn q) (.port ⟨q, 0⟩) fun s g =>
    let s := s.portOff q
    if juFail d || (s.portMoves q).isEmpty then
      let (s, k) := s.portDown q 0 g
      s.commit g k
    else s.setJob fun j => { j with drains := j.drains ++ [(q, g)] }

/-- DRAIN_TO passes (R501). -/
def execPortDrainTimeout (q : Nat) (s : State) : Host.Outcome State Fault Refusal := s.upd fun s =>
  match s.job.drains.find? fun x => x.1 == q with
  | some x =>
    let (s, k) := s.portDown q 0 x.2
    (s.setJob fun j => { j with drains := j.drains.filter fun x => x.1 != q }).commit x.2 k
  | none => s

/-- Port q is in service again: it may train (R447, R501, R580). EN is not set during a wipe (R546), and the port follows EN after
it. -/
def Dev.portEnable (s : Dev) (q : Nat) : Dev :=
  let s := s.setTiers fun t => { t with portsOff := t.portsOff.filter (· != q) }
  let s := s.sizChange fun s => s.setFld Reg.SIZ_TIER 0 2 (s.fld Reg.SIZ_TIER 0 2 + 1)
  if s.flag Reg.GRD_BOOTSTAT 10 then s
  else
    let s := s.setReg (Reg.HST_DSCTL q) 1
    if s.grd.hbm then s.dsRelease q else s

/-- JUNIT 0x05: port q is enabled; DS_PORT_LINK_UP maps it (R501). -/
def execJunitEnablePort (src : Source) (d : Line) (s : State) : Host.Outcome State Fault Refusal := s.upd fun s =>
  let q := juIndex d
  s.junit src d 5 (decide (q < 2) && !s.portOn q && !(s.job.drains.any fun x => x.1 == q)) .control fun s g =>
    (s.portEnable q).commit g 0

end Sys2Proof.Machine
end

