-- ==== Sys2Proof/Machine/Arms.lean ====
section
/-! DEFINITION. The arm of a fetched descriptor by its opcode (R215, R216), for the points at which the device arms
descriptors by itself: the rings and the queues of the Coachman complex. -/
namespace Sys2Proof.Machine

/-- A meaning run on the device. -/
def Dev.run (s : Dev) (f : State → Host.Outcome State Fault Refusal) : Dev :=
  match f ⟨[], s⟩ with
  | .next t => t.dev
  | _ => s

/-- A command other than a serving or job command is armed or refused (R465); an opcode that may not stand on a ring or in
a Coachman queue is refused (R216). -/
def Dev.armWork (s : Dev) (src : Source) (d : Line) : Dev :=
  match dOp d with
  | 0x0105 => s.run (execRunprog src d)
  | 0x0200 => s.run (execRoutepass src d)
  | 0x0201 => s.run (execExchange src d)
  | 0x0300 => s.run (execGform src d)
  | 0x0301 => s.run (execGdissolve src d)
  | 0x0302 => s.run (execShift src d)
  | 0x0303 => s.run (execPermute src d)
  | 0x0304 => s.run (execAlltoall src d)
  | 0x0305 => s.run (execAllreduce src d)
  | 0x0400 => s.run (execMove src d)
  | 0x0500 => s.run (execMfx src d)
  | 0x0501 => s.run (execMatomic src d)
  | op => s.refuse src d ⟨clsJOB, 0x040, op⟩

/-- A job command is armed or refused. -/
def Dev.armJob (s : Dev) (src : Source) (d : Line) : Dev :=
  match dOp d with
  | 0x0700 => s.run (execJadmit src d)
  | 0x0701 => s.run (execJlaunch src d)
  | 0x0702 =>
    match lnum d 16 1 with
    | 2 => s.jorder src d 2
    | 3 => s.run (execJorderEnd src d)
    | _ => s.run (execJorderPreempt src d)
  | 0x0703 =>
    match juAction d with
    | 2 => s.run (execJunitParkPostilion src d)
    | 3 => s.run (execJunitUnparkPostilion src d)
    | 4 => s.run (execJunitDisablePort src d)
    | 5 => s.run (execJunitEnablePort src d)
    | _ => s.run (execJunitDeconfigureCoach src d)
  | op => s.refuse src d ⟨clsJOB, 0x040, op⟩

/-- A descriptor that must wait before it is armed, its header and the job state being no ground to refuse it (R476, R594): a RUNPROG
while 16 are in flight (R226), and a JORDER or JLAUNCH while one is under way. -/
def Dev.mustWait (s : Dev) (d : Line) : Bool :=
  (s.headCheck d).isNone && match dOp d with
  | 0x0105 => decide (16 ≤ s.teams)
  | 0x0701 => s.job.launch.isSome
  | 0x0702 => s.job.ownReq.isSome
  | _ => false

end Sys2Proof.Machine
end

