-- ==== Sys2Proof/Machine/Serving.lean ====
section
/-! DEFINITION. The serving loop: frames, slices, sessions, the row table, the step program, sampling (R458 to R472). -/
namespace Sys2Proof.Machine

def Dev.setSrv (s : Dev) (f : Serving → Serving) : Dev := { s with srv := f s.srv }

/-! ### SLOOP and SSTOP (R458, R459, R472) -/

def slFlags (d : Line) : Nat := lnum d 16 1
def slGroup (d : Line) : Nat := lnum d 18 2
def slRowMax (d : Line) : Nat := lfield d 20 0 17
def slFq (d : Line) : Nat := lnum d 24 8
def slLog2 (d : Line) : Nat := lfield d 32 0 5
def slStepLen (d : Line) : Nat := lnum d 34 2
def slVocab (d : Line) : Nat := lfield d 36 0 19
def slStep (d : Line) : Nat := lnum d 40 8
def slRowTab (d : Line) : Nat := lnum d 48 8
def slLogits (d : Line) : Nat := lnum d 56 8
/-- Bytes of the logits of one row. -/
def slStride (d : Line) : Nat := roundUp (4 * slVocab d) 64

/-- The first bad field of Table 15-7. -/
def Dev.sloopBad (s : Dev) (d : Line) : Option Nat :=
  let within (a n : Nat) : Bool := a % 64 == 0 && (inCH a n || s.inHBM a n)
  if lfield d 16 2 6 ≠ 0 then some 16
  else if lnum d 17 1 ≠ 0 then some 17
  else if slRowMax d = 0 || 65536 < slRowMax d || lfield d 20 17 15 ≠ 0 then some 20
  else if slFq d % 64 ≠ 0 || !inCH (slFq d) (64 + 64 * 2 ^ min (slLog2 d) 16) then some 24
  else if 16 < slLog2 d || lfield d 32 5 3 ≠ 0 then some 32
  else if lnum d 33 1 = 0 then some 33
  else if slStepLen d = 0 || 4096 < slStepLen d then some 34
  else if slVocab d = 0 || 262144 < slVocab d || lfield d 36 19 13 ≠ 0 then some 36
  else if slStep d % 64 ≠ 0 then some 40
  else if !within (slRowTab d) (64 + 16 * slRowMax d) then some 48
  else if !within (slLogits d) (slStride d) then some 56
  else none

/-- SLOOP (R459): the loop starts. -/
def execSloop (src : Source) (d : Line) (s : State) : Host.Outcome State Fault Refusal := s.unit fun s =>
  if dOp d ≠ 0x0600 then s
  else match s.headCheck d with
    | some r => s.refuse src d r
    | none =>
      if bit (slFlags d) 1 && !dV d then s.refuse src d ⟨clsJOB, 0x043, 16⟩
      else match s.sloopBad d with
        | some n => s.refuse src d ⟨clsHOST, 0x020, n⟩
        | none =>
          if s.fld Reg.HST_SESSCFG 0 17 = 0 || s.srv.desc.isSome then s.refuse src d ⟨clsHOST, 0x020, 0⟩
          else
            let (s, g) := s.arm src d 0 [] [] .control
            let s := s.setSrv fun _ => ⟨some d, none, 0, none⟩
            (s.setReg Reg.HST_LOOPSTAT (1 + 2 * lfield d 16 0 1)).commit g 0

/-- The loop ends: RUN reads 0, and every SSTOP that waits commits. -/
def Dev.loopEnd (s : Dev) : Dev :=
  let n := s.srv.ran
  let s := (s.setSrv fun v => { v with desc := none, frame := none, stop := none }).setReg Reg.HST_LOOPSTAT 0
  let stops := (s.cmds.filter fun c => match c.body with | .sstop => true | _ => false).map (·.gen)
  s.each stops fun s g => s.commit g n

/-- SSTOP (R472). -/
def execSstop (src : Source) (d : Line) (s : State) : Host.Outcome State Fault Refusal := s.unit fun s =>
  if dOp d ≠ 0x0601 then s
  else match s.headCheck d with
    | some r => s.refuse src d r
    | none =>
      let (s, g) := s.arm src d 0 [] [] .sstop
      if s.srv.desc.isNone then s.commit g 0
      else if s.srv.frame.isNone then s.loopEnd
      else s.setSrv fun v => { v with stop := some g }

/-! ### Sessions and slices (R460 to R463) -/

/-- STATE codes of a session (Table 15-10). -/
def ssFREE : Nat := 0
def ssPREFILL : Nat := 1
def ssDECODE : Nat := 2
def ssDONE : Nat := 3
def ssFAILED : Nat := 4

def Dev.sessAddr (s : Dev) (i : Nat) : Nat := s.reg Reg.HST_SESSBASE + 64 * i
/-- Bytes `n` to `n + k - 1` of the entry of session `i`. -/
def Dev.sess (s : Dev) (i n k : Nat) : Nat := leNat (s.rdJob (s.sessAddr i + n) k)
/-- Bytes that the loop writes; a span that does not translate is left as it is. -/
def Dev.loopWrite (s : Dev) (a : Nat) (bs : List Byte) : Dev :=
  if (s.spanFault a bs.length true).isSome then s else s.jobWrite 0 a bs
def Dev.setSess (s : Dev) (i n k v : Nat) : Dev := s.loopWrite (s.sessAddr i + n) (leBytes k v)
def Dev.sessState (s : Dev) (i : Nat) : Nat := s.sess i 0 1 % 8
def Dev.setSessState (s : Dev) (i x : Nat) : Dev := s.setSess i 0 1 (setBits (s.sess i 0 1) 0 3 x)
/-- The loop reads the entry of session `i` (R593): its STATE. An entry that cannot be read shows the reserved STATE 7 (DESIGN
CHOICE, log entry 184), so no slice but CLOSE fits it. -/
def Dev.sessLook (s : Dev) (i : Nat) : Dev × Nat :=
  match s.unitRead (s.sessAddr i) 64 with
  | (s, some e) => (s, leNat (e.take 1) % 8)
  | (s, none) => (s, 7)

/-- Sessions in PREFILL or DECODE (HST_LOOPSTAT.ACTIVE). -/
def Dev.sessActive (s : Dev) : Nat :=
  ((List.range (s.fld Reg.HST_SESSCFG 0 17)).filter fun i => s.sessState i == ssPREFILL || s.sessState i == ssDECODE).length

/-- A session image that OPEN may copy (R462): STATE, TOPK, TEMP, TOPP, ENTROPY. -/
def imageOk (im : List Byte) (entropy : Bool) : Bool :=
  let f (n k : Nat) : Nat := leNat ((im.drop n).take k)
  let st := f 0 1 % 8
  let temp := f32 (f 12 4)
  let topp := f32 (f 16 4)
  (st == ssPREFILL || st == ssDECODE) && f 0 1 / 16 == 0 && f 1 1 == 0 && decide (f 2 2 ≤ 1024) && temp.isFinite
    && FV.zero.le temp && FV.zero.lt topp && topp.le FV.one && (!bit (f 0 1) 3 || entropy)

/-- Fields of a slice (Table 15-9). -/
def scSession (x : List Byte) : Nat := leNat (x.take 2)
def scKind (x : List Byte) : Nat := leNat ((x.drop 2).take 1) % 4
def scLast (x : List Byte) : Bool := bit (leNat ((x.drop 2).take 1)) 2
def scNtok (x : List Byte) : Nat := leNat ((x.drop 4).take 4)
def scTok (x : List Byte) : Nat := leNat ((x.drop 8).take 8)
/-- A reserved field, or an address where none belongs, is not zero. -/
def scBad (x : List Byte) : Bool :=
  leNat ((x.drop 2).take 1) / 8 != 0 || leNat ((x.drop 3).take 1) != 0 || leNat (x.drop 16) != 0
    || (scLast x && scKind x != 0) || ((scKind x == 1 || scKind x == 3) && scTok x != 0)

/-- The REASON that the STATE of its session and its own NTOK give against a slice that is no CLOSE. `seen`: sessions of earlier
row slices; `rows`: rows so far. -/
def sliceFit (x : List Byte) (st : Nat) (seen : List Nat) (rows : Nat) (d : Line) : Nat :=
  let n := scNtok x
  match scKind x with
  | 0 =>
    if st ≠ ssPREFILL then 2 else if seen.contains (scSession x) then 3
    else if n = 0 || 65536 < n || slRowMax d < rows + n then 4 else 0
  | 1 => if st ≠ ssDECODE then 2 else if seen.contains (scSession x) then 3 else if n ≠ 1 || slRowMax d < rows + 1 then 4 else 0
  | _ => if st ≠ ssFREE then 2 else if n ≠ 0 then 4 else 0

/-- A slice that is no CLOSE is checked: the REASON for which it is refused, 0 for none (R462, Table 15-12), and the bytes of its
image. Tokens or an image that cannot be read refuse it as Table 15-12 has it of an NTOK or an image that is bad (log entry
184). -/
def Dev.sliceReason (s : Dev) (x : List Byte) (seen : List Nat) (rows : Nat) (d : Line) : Dev × Nat × List Byte :=
  if s.fld Reg.HST_SESSCFG 0 17 ≤ scSession x then (s, 1, [])
  else
    let (s, st) := s.sessLook (scSession x)
    let r := sliceFit x st seen rows d
    if r ≠ 0 then (s, r, [])
    else
      let last := if scBad x then 6 else 0
      match scKind x with
      | 0 => match s.unitRead (scTok x) (4 * scNtok x) with
        | (s, none) => (s, 4, [])
        | (s, some _) => (s, last, [])
      | 2 => match s.unitRead (scTok x) 64 with
        | (s, none) => (s, 5, [])
        | (s, some im) => (s, if !imageOk im (bit (slFlags d) 1) then 5 else last, im)
      | _ => (s, last, [])

/-- The REASON for which a CLOSE slice is refused by its own fields; its session's STATE is tested after the step. -/
def Dev.closeReason (s : Dev) (x : List Byte) : Nat :=
  if s.fld Reg.HST_SESSCFG 0 17 ≤ scSession x then 1 else if scNtok x ≠ 0 then 4 else if scBad x then 6 else 0

/-- A slice is refused: it is counted, and the first of a frame recorded. -/
def Dev.sliceRefused (s : Dev) (first : Bool) (i reason : Nat) : Dev :=
  let s := s.bump Reg.HST_CNT_SLICEREF 1
  if first then s.record clsHOST 0x021 (i % 2 ^ 16 + reason * 2 ^ 16) 0 blkHST 0 else s

/-- An OPEN slice copies its image; SKEY is drawn where the image has ENTROPY = 1. -/
def Dev.sessOpen (s : Dev) (i : Nat) (im : List Byte) : Dev :=
  let s := s.loopWrite (s.sessAddr i) im
  if bit (leNat (im.take 1)) 3 then
    Dev.setSess { s with grd := { s.grd with draws := s.grd.draws + 1 } } i 24 8 (Config.entropy s.grd.draws).toNat
  else s

/-- Pass 1 of R462 over the slices that remain: the state, and the reasons of OPEN slices. -/
def Dev.passOpenSlices (d : Line) : List (Nat × List Byte) → Bool → Dev → Dev × List (Nat × Nat)
  | [], _, s => (s, [])
  | (i, x) :: xs, clean, s =>
    if scKind x ≠ 2 then Dev.passOpenSlices d xs clean s
    else
      let (s, r, im) := s.sliceReason x [] 0 d
      let s := if r = 0 then s.sessOpen (scSession x) im else s.sliceRefused clean i r
      let (s, rs) := Dev.passOpenSlices d xs (clean && r == 0) s
      (s, (i, r) :: rs)

/-- Pass 2 of R462: the state, and the reasons and rows of row slices. -/
def Dev.passRowSlices (d : Line) : List (Nat × List Byte) → Bool → List Nat → Nat → Dev → Dev × List (Nat × Nat × Nat)
  | [], _, _, _, s => (s, [])
  | (i, x) :: xs, clean, seen, rows, s =>
    if 2 ≤ scKind x then Dev.passRowSlices d xs clean seen rows s
    else
      let (s, r, _) := s.sliceReason x seen rows d
      let n := if r = 0 then scNtok x else 0
      let s := if r = 0 then s else s.sliceRefused clean i r
      let (s, rs) := Dev.passRowSlices d xs (clean && r == 0) (scSession x :: seen) (rows + n) s
      (s, (i, r, n) :: rs)

/-- The rows of a slice in the row table (R463). -/
def Dev.sliceRows (s : Dev) (i : Nat) (x : List Byte) : List Byte :=
  let row (tok pos : Nat) (sample : Bool) : List Byte :=
    leBytes 4 tok ++ leBytes 4 pos ++ leBytes 2 (scSession x) ++ leBytes 1 sample.toNat ++ leBytes 1 0 ++ leBytes 4 i
  let pos := s.sess (scSession x) 4 4
  if scKind x = 0 then
    let n := scNtok x
    let toks := s.rdJob (scTok x) (4 * n)
    (List.range n).flatMap fun k => row (leNat ((toks.drop (4 * k)).take 4)) (pos + k) (scLast x && k + 1 == n)
  else row (s.sess (scSession x) 40 4) pos true

/-! ### The step program (R464 to R466) -/

/-- Descriptors of the step program armed in order from the next one, until one must wait. Each is armed from a copy in which
a ROUTEPASS has TOKENS = ROWS. -/
def Dev.stepArm (d : Line) : Nat → Dev → Dev
  | 0, s => s
  | fuel + 1, s =>
    match s.srv.frame with
    | none => s
    | some f =>
      if slStepLen d ≤ f.next then s
      else
        let fail (s : Dev) : Dev := s.setSrv fun v => { v with frame := v.frame.map fun f => f.fails (f.next - 1) 0 }
        let moved (s : Dev) : Dev := s.setSrv fun v => { v with frame := v.frame.map fun f => { f with next := f.next + 1 } }
        match s.unitRead (slStep d + 64 * f.next) 64 with
        | (s, none) => Dev.stepArm d fuel (fail (moved s))
        | (s, some bs) =>
          let c : Line := BitVec.ofNat 512 (leNat bs)
          let c : Line := if dOp c = 0x0200 then BitVec.ofNat 512 (setBits c.toNat 160 17 f.rows) else c
          if s.mustWait c then s
          else
            let g := s.nextGen
            let n := s.genNext
            let s := (moved s).setSrv fun v => { v with frame := v.frame.map fun f => { f with gens := f.gens ++ [(f.next - 1, g)] } }
            let s := s.armWork .coachman c
            let s := if s.genNext ≠ n then s
              else fail (s.setSrv fun v => { v with frame := v.frame.map fun f => { f with gens := f.gens.filter fun x => x.2 != g } })
            Dev.stepArm d fuel s

/-- A step begins: CCH_STEP is read and the step program armed. -/
def Dev.stepStart (s : Dev) (d : Line) (f : FrameRun) : Dev :=
  let s := s.setSrv fun v => { v with frame := some { f with step := s.reg Reg.CCH_STEP } }
  (s.bump Reg.HST_CNT_STEPS 1).stepArm d (slStepLen d)

/-- HEAD of the frame queue moves on from `head`, and the frame is counted (R464). -/
def Dev.frameEnd (s : Dev) (d : Line) (head done : Nat) : Dev :=
  let s := s.loopWrite (slFq d + 8) (leBytes 8 (head + 1))
  let s := if done ≠ 0 && ctrOk done then s.unitAdd done 1 else s
  let s := (s.bump Reg.HST_CNT_FRAMES 1).setSrv fun v => { v with frame := none, ran := v.ran + 1 }
  if s.srv.stop.isSome then s.loopEnd else s

/-- The header of the row table (R463): ROWS, NSAMPLE, FRAMEID. -/
def rowHead (rows samples frame : Nat) : List Byte := leBytes 4 rows ++ leBytes 4 samples ++ leBytes 4 frame ++ leBytes 52 0

/-- A frame descriptor is malformed (R464). -/
def frameBad (x : List Byte) : Bool :=
  let f (n k : Nat) : Nat := leNat ((x.drop n).take k)
  f 4 2 == 0 || decide (4096 < f 4 2) || f 6 2 != 0 || f 8 8 % 64 != 0 || f 16 8 % 64 != 0 || f 24 8 == 0 || !ctrOk (f 24 8)
    || leNat (x.drop 32) != 0

/-- The frame at HEAD is taken (R464): its slices are checked, the row table written, the step begun. -/
def Dev.frameStart (s : Dev) (d : Line) (head : Nat) : Dev :=
  let k := head % 2 ^ slLog2 d
  let skip (s : Dev) (done : Nat) : Dev := (s.record clsHOST 0x024 k 0 blkHST 0).frameEnd d head done
  match s.unitRead (slFq d + 64 + 64 * k) 64 with
  | (s, none) => skip s 0
  | (s, some x) =>
    let f (n k : Nat) : Nat := leNat ((x.drop n).take k)
    if frameBad x then skip s (f 24 8)
    else match s.unitRead (f 8 8) (32 * f 4 2) with
      | (s, none) => skip s (f 24 8)
      | (s, some bs) =>
        let xs := (List.range (f 4 2)).map fun i => (i, (bs.drop (32 * i)).take 32)
        let (s, r1) := Dev.passOpenSlices d xs true s
        let clean := r1.all fun x => x.2 == 0
        let (s, r2) := Dev.passRowSlices d xs clean [] 0 s
        let of1 (i : Nat) : Nat := ((r1.find? fun x => x.1 == i).map (·.2)).getD 0
        let of2 (i : Nat) : Nat × Nat := ((r2.find? fun x => x.1 == i).map (·.2)).getD (0, 0)
        let run (i : Nat) (x : List Byte) : SliceRun :=
          match scKind x with
          | 2 => ⟨scSession x, 2, false, 0, of1 i⟩
          | 3 => ⟨scSession x, 3, false, 0, s.closeReason x⟩
          | q => ⟨scSession x, q, scLast x, (of2 i).2, (of2 i).1⟩
        let runs := xs.map fun x => run x.1 x.2
        let rows := (runs.map (·.rows)).sum
        let samples := (runs.filter fun r => r.reason == 0 && (r.kind == 1 || (r.kind == 0 && r.last))).length
        let table := (xs.filter fun x => scKind x.2 < 2 && (of2 x.1).1 == 0).flatMap fun x => s.sliceRows x.1 x.2
        let s := s.loopWrite (slRowTab d) (rowHead rows samples (f 0 4) ++ table)
        s.stepStart d ⟨false, head, f 16 8, f 24 8, runs, 0, rows, 0, [], none⟩

/-! ### Sampling (R467, R468) -/

/-- The vector unit's exponential (R163). -/
def f32exp (x : Nat) : Nat := if (f32 x).isNaN then canonNaN fmtFP32 else fnCode (Config.vectorUlps 0x101 x) (fvExp (f32 x))

/-- An (index, value) put before the first entry that is not larger. -/
def insDesc (x : Nat × Nat) : List (Nat × Nat) → List (Nat × Nat)
  | [] => [x]
  | y :: ys => if (f32 x.2).lt (f32 y.2) then y :: insDesc x ys else x :: y :: ys

/-- In descending value, lower index first among equals. -/
def sortDesc (xs : List (Nat × Nat)) : List (Nat × Nat) := xs.foldr insDesc []

/-- `repeat T := T + p[n]; n := n + 1 until T >= target or n = K`. -/
def topP (target : Nat) : List Nat → Nat → Nat → Nat × Nat
  | [], t, n => (t, n)
  | p :: ps, t, n =>
    let t := f32add t p
    if (f32 target).le (f32 t) then (t, n + 1) else topP target ps t (n + 1)

/-- The index that the draw `u` picks: the first at which the running sum is above it, else the last. -/
def pickDraw (u : Nat) : List (Nat × Nat) → Nat → Nat → Nat
  | [], _, last => last
  | (i, p) :: xs, c, _ =>
    let c := f32add c p
    if (f32 u).lt (f32 c) then i else pickDraw u xs c i

/-- The token that R467 chooses from FP32 logits, none where every one is NaN. -/
def sampleTok (ls : List Nat) (temp topk topp word0 : Nat) : Option Nat :=
  match ((List.range ls.length).zip ls).filter fun x => !(f32 x.2).isNaN with
  | [] => none
  | x :: xs =>
    let best := xs.foldl (fun b y => if (f32 b.2).lt (f32 y.2) then y else b) x
    if (f32 temp).isZero || topk == 1 || f32 best.2 == .inf false then some best.1
    else
      let c := sortDesc ((x :: xs).map fun y => (y.1, f32div y.2 temp))
      let k := if 0 < topk && topk < c.length then topk else c.length
      let m := ((c.head?).getD (0, 0)).2
      let p := (c.take k).map fun y => (y.1, f32exp (f32sub y.2 m))
      let ps := p.map (·.2)
      let sum := match ps with | [] => 0 | q :: qs => qs.foldl f32add q
      let (t, n) := topP (f32mul topp sum) ps 0 0
      let u := f32mul (roundF fmtFP32 (.fin false word0 (-32))) t
      some (pickDraw u (p.take n) 0 0)

/-- word0 of R468: session `i`, its SKEY, the position after the slice, the step. -/
def sampleWord (i key pos step : Nat) : Nat :=
  philox (pos % 2 ^ 32) (3 + i % 2 ^ 16 * 2 ^ 8) (step % 2 ^ 32) (step / 2 ^ 32 % 2 ^ 32) (key % 2 ^ 32) (key / 2 ^ 32 % 2 ^ 32)

/-! ### The end of a frame (R464, R469 to R471) -/

/-- What an output record says besides POS: TOKEN, STATUS, FLAGS, REASON. -/
structure SliceOut where
  tok    : Nat
  status : Nat
  flags  : Nat
  reason : Nat
deriving DecidableEq, Repr

def noTok : Nat := 0xFFFFFFFF

/-- The session of a row slice after a step that completed OK (R469); `smp` is the number of its sampled row. -/
def Dev.sliceEnd (s : Dev) (d : Line) (step : Nat) (r : SliceRun) (smp : Nat) : Dev × SliceOut :=
  let i := r.session
  let fail (s : Dev) : Dev × SliceOut := (s.setSessState i ssFAILED, ⟨noTok, 2, 0, 0⟩)
  let (s, st) := s.sessLook i
  let pos := (s.sess i 4 4 + r.rows) % 2 ^ 32
  let s := if st = 7 then s else s.setSess i 4 4 pos
  let ended : Bool := decide (s.sess i 8 4 ≤ pos)
  if st = 7 then fail s
  else if r.kind = 1 || r.last then
    match s.unitRead (slLogits d + smp * slStride d) (4 * slVocab d) with
    | (s, none) => fail s
    | (s, some bs) =>
      let ls := (List.range (slVocab d)).map fun k => leNat ((bs.drop (4 * k)).take 4)
      match sampleTok ls (s.sess i 12 4) (s.sess i 2 2) (s.sess i 16 4) (sampleWord i (s.sess i 24 8) pos step) with
      | none => fail (s.record clsHOST 0x023 i 0 blkHST 0)
      | some t =>
        let stopped : Bool := t == s.sess i 20 4
        let s := (s.setSess i 40 4 t).setSess i 44 4 ((s.sess i 44 4 + 1) % 2 ^ 32)
        let s := (s.setSessState i (if stopped || ended then ssDONE else ssDECODE)).bump Reg.HST_CNT_SAMPLED 1
        (s, ⟨t, 0, 1 + 2 * stopped.toNat + 4 * ended.toNat, 0⟩)
  else (if ended then s.setSessState i ssDONE else s, ⟨noTok, 0, 4 * ended.toNat, 0⟩)

/-- The slices after the step, but for CLOSE: each one's output. -/
def Dev.slicesEnd (d : Line) (step : Nat) (ok : Bool) : List SliceRun → Nat → Dev → Dev × List SliceOut
  | [], _, s => (s, [])
  | r :: rs, smp, s =>
    if r.reason ≠ 0 then
      let (s, os) := Dev.slicesEnd d step ok rs smp s
      (s, ⟨noTok, 1, 0, r.reason⟩ :: os)
    else if 2 ≤ r.kind then
      let (s, os) := Dev.slicesEnd d step ok rs smp s
      (s, ⟨noTok, 0, 0, 0⟩ :: os)
    else if !ok then
      let (s, os) := Dev.slicesEnd d step ok rs smp ((s.sessLook r.session).1.setSessState r.session ssFAILED)
      (s, ⟨noTok, 2, 0, 0⟩ :: os)
    else
      let (s, o) := s.sliceEnd d step r smp
      let (s, os) := Dev.slicesEnd d step ok rs (if r.kind = 1 || r.last then smp + 1 else smp) s
      (s, o :: os)

/-- Pass 3 of R462: CLOSE slices, with the outputs of the others kept. `clean`: no slice of the frame has been refused. -/
def Dev.slicesClose : List (SliceRun × SliceOut) → Nat → Bool → Dev → Dev × List SliceOut
  | [], _, _, s => (s, [])
  | (r, o) :: xs, i, clean, s =>
    if r.kind ≠ 3 then
      let (s, os) := Dev.slicesClose xs (i + 1) clean s
      (s, o :: os)
    else
      let (s, st) := if r.reason = 1 then (s, 0) else s.sessLook r.session
      let why := if r.reason = 1 then 1 else if st = ssFREE then 2 else r.reason
      let s := if why = 0 then s.setSessState r.session ssFREE else s.sliceRefused clean i why
      let (s, os) := Dev.slicesClose xs (i + 1) (clean && why == 0) s
      (s, ⟨noTok, if why = 0 then 0 else 1, 0, why⟩ :: os)

/-- The output record of a slice (Table 15-12) is written at `a`; POS is read from the entry of its session. -/
def Dev.outRec (s : Dev) (a : Nat) (r : SliceRun) (o : SliceOut) : Dev :=
  let (s, pos) := if s.fld Reg.HST_SESSCFG 0 17 ≤ r.session then (s, Config.noSessionPos r.session)
    else match s.unitRead (s.sessAddr r.session) 64 with
      | (s, some e) => (s, leNat ((e.drop 4).take 4))
      | (s, none) => (s, Config.unreadPos r.session)
  s.loopWrite a (leBytes 4 o.tok ++ leBytes 4 pos ++ leBytes 1 o.status ++ leBytes 1 o.flags ++ leBytes 1 o.reason ++ leBytes 5 0)

/-- The step of a frame has completed (R464). -/
def Dev.frameDone (s : Dev) (d : Line) (f : FrameRun) : Dev :=
  let s := match f.bad with
    | some b => s.record clsHOST 0x022 b.1 b.2 blkHST 0
    | none => s
  let (s, os) := Dev.slicesEnd d f.step f.bad.isNone f.slices 0 s
  let clean := f.slices.all fun r => r.kind == 3 || r.reason == 0
  let (s, os) := Dev.slicesClose (f.slices.zip os) 0 clean s
  let s := s.each ((List.range f.slices.length).zip (f.slices.zip os)) fun (s : Dev) x =>
    s.outRec (f.out + 16 * x.1) x.2.1 x.2.2
  s.frameEnd d f.head f.done

/-- An empty step has completed (R466). -/
def Dev.emptyDone (s : Dev) : Dev :=
  let s := s.setSrv fun v => { v with frame := none }
  if s.srv.stop.isSome then s.loopEnd else s

/-! ### The loop (R464, R466) -/

/-- Frames in the queue: TAIL - HEAD. -/
def Dev.frames (s : Dev) (d : Line) : Nat :=
  (s.rdNum (chAddr (slFq d)) 8 + 2 ^ 64 - s.rdNum (chAddr (slFq d + 8)) 8) % 2 ^ 64

/-- A stream-1 OFFER of GROUP waits in its reserve (R464). -/
def Dev.offerWaits (s : Dev) (gid : Nat) : Bool :=
  s.col.groups.any fun g => g.gid == gid && g.slots.any fun x => x.2.1 == 1 && !x.2.2.1

/-- An empty step begins (R466): a frame of no rows, whose row table says so. -/
def Dev.emptyStart (s : Dev) (d : Line) : Dev :=
  let n := s.reg Reg.HST_CNT_EMPTY
  let s := (s.bump Reg.HST_CNT_EMPTY 1).loopWrite (slRowTab d) (rowHead 0 0 (Config.emptyFrame n))
  s.stepStart d ⟨true, 0, 0, 0, [], 0, 0, 0, [], none⟩

/-- The core that runs the loop is halted, so that the loop's events wait (R567). -/
def Dev.loopHeld (s : Dev) : Bool := s.flag Reg.DBG_CORES (Config.loopCore % 8)

/-- The loop is at its top: it runs, no frame is in progress, and the job runs. It reads the control block of its queue; one that
cannot be read shows no frame (R593, log entry 184). -/
def Dev.loopTop (s : Dev) (f : Line → Dev → Dev) : Dev :=
  match s.srv.desc with
  | none => s
  | some d =>
    if s.srv.frame.isSome || s.jobState ≠ jRUNNING || s.loopHeld then s
    else match s.unitRead (slFq d) 16 with
      | (s, none) => s
      | (s, some _) => f d s

/-- Whether the queue has been overrun, and the end of the loop in that case. -/
def Dev.overrunOr (s : Dev) (d : Line) (f : Dev) : Dev :=
  if 2 ^ slLog2 d < s.frames d then (s.record clsHOST 0x024 0xFFFFFFFF 0 blkHST 0).loopEnd else f

def Dev.takeFrame (s : Dev) (d : Line) : Dev := s.frameStart d (s.rdNum (chAddr (slFq d + 8)) 8)

/-- FRAME_QUEUE_POLL (R464): the top of the loop. -/
def execFrameQueuePoll (s : State) : Host.Outcome State Fault Refusal := s.unit fun s => s.loopTop fun d s =>
  s.overrunOr d
    (if s.frames d ≠ 0 then s.takeFrame d
     else if bit (slFlags d) 0 && s.offerWaits (slGroup d) then s.emptyStart d else s)

/-- LOOP_FRAME_START (R464). -/
def execLoopFrameStart (s : State) : Host.Outcome State Fault Refusal := s.unit fun s => s.loopTop fun d s =>
  s.overrunOr d (if s.frames d ≠ 0 then s.takeFrame d else s)

/-- LOOP_EMPTY_STEP (R466). -/
def execLoopEmptyStep (s : State) : Host.Outcome State Fault Refusal := s.unit fun s => s.loopTop fun d s =>
  if s.frames d = 0 && bit (slFlags d) 0 && s.offerWaits (slGroup d) then s.emptyStart d else s

/-- LOOP_STEP_COMPLETE (R464, R469 to R471): descriptors that had to wait are armed; once every one has completed, the frame
ends. -/
def execLoopStepComplete (s : State) : Host.Outcome State Fault Refusal := s.unit fun s =>
  match s.srv.desc, s.srv.frame with
  | some d, some f =>
    if s.jobState ≠ jRUNNING || s.loopHeld then s
    else if f.next < slStepLen d then s.stepArm d (slStepLen d)
    else if !f.gens.isEmpty then s
    else if f.empty then s.emptyDone else s.frameDone d f
  | _, _ => s

end Sys2Proof.Machine
end

