-- ==== Sys2Proof/Machine/Host.lean ====
section
/-! DEFINITION. The host interface: doorbells, rings, configuration, HDM, the snoop filter, the downstream ports (R440 to
R457, R501). -/
namespace Sys2Proof.Machine

/-! ### Doorbells (R450, R451) -/

/-- A doorbell write that is discarded: counted, and recorded with the ring and the value. -/
def Dev.dbBad (s : Dev) (r v code : Nat) : Dev :=
  (s.bump Reg.HST_CNT_DBBAD 1).record clsHOST code (if code = 0x014 then r else r + v * 2 ^ 16) 0 blkHST r

/-- Doorbells are taken (R450). -/
def Dev.dbOpen (s : Dev) (r : Nat) : Bool := decide (r < 256) && s.flag Reg.HST_STAT 0

def Dev.sqSize (s : Dev) (r : Nat) : Nat := 2 ^ s.fld (Reg.HST_RCFG r) 8 5

/-- DOORBELL_SQTAIL (R451). -/
def execDoorbellSqtail (r v : Nat) (s : State) : Host.Outcome State Fault Refusal := s.upd fun s =>
  let v := v % 2 ^ 16
  if !s.dbOpen r then s
  else if !s.flag (Reg.HST_RCFG r) 0 then s.dbBad r v 0x014
  else if s.sqSize r ≤ v then s.dbBad r v 0x010
  else s.setReg (dbSqTail r) v

/-- DOORBELL_CQHEAD (R451, R454). -/
def execDoorbellCqhead (r v : Nat) (s : State) : Host.Outcome State Fault Refusal := s.upd fun s =>
  let v := v % 2 ^ 16
  let n := s.cqSize r
  let head := s.reg (dbCqHead r)
  if !s.dbOpen r then s
  else if !s.flag (Reg.HST_RCFG r) 0 then s.dbBad r v 0x014
  else if n ≤ v then s.dbBad r v 0x010
  else if (s.fld (Reg.HST_RHEAD r) 16 16 + n - head) % n < (v + n - head) % n then s.dbBad r v 0x015
  else
    let s := s.setReg (dbCqHead r) v
    (s.drainRecs r ((s.ring r).held.length)).ringSettle r

/-! ### Ring configuration (R449, R455, R456) -/

def rsIDLE : Nat := 0
def rsRUN : Nat := 1
def rsDRAIN : Nat := 2
def rsSTOPPED : Nat := 3
def Dev.rState (s : Dev) (r : Nat) : Nat := s.fld (Reg.HST_RSTAT r) 0 2

/-- EN goes to 1. -/
def Dev.ringStart (s : Dev) (r : Nat) : Dev :=
  let s := s.setRing r ⟨[], [], true, 0⟩
  ((((s.setReg (Reg.HST_RHEAD r) 0).setReg (dbSqTail r) 0).setReg (dbCqHead r) 0).setFld (Reg.HST_RSTAT r) 0 2 rsRUN)

/-- EN goes to 0. -/
def Dev.ringStop (s : Dev) (r : Nat) : Dev := (s.setFld (Reg.HST_RSTAT r) 0 2 rsDRAIN).ringSettle r

/-- The configuration register of a ring written whole. -/
def Dev.rcfgWrite (s : Dev) (r v : Nat) : Dev :=
  let off := Reg.HST_RCFG r
  let old := s.reg off
  let resized := bits old 8 5 != bits v 8 5 || bits old 16 5 != bits v 16 5
  let starts := !bit old 0 && bit v 0
  if (s.rState r ≠ rsIDLE && (resized || starts)) || (starts && !s.flag Reg.HST_STAT 2) then s.discard clsHOST 0x012 off r
  else
    let t := s.regWrite .host off v
    if t.reg off = old then t
    else if starts && t.flag off 0 then t.ringStart r
    else if bit old 0 && !t.flag off 0 then t.ringStop r
    else t

/-- RING_ENABLE (R449). -/
def execRingEnable (r : Nat) (v : Word32) (s : State) : Host.Outcome State Fault Refusal := s.upd fun s =>
  if r < 256 && bit v.toNat 0 then s.rcfgWrite r v.toNat else s

/-- RING_DISABLE (R455). -/
def execRingDisable (r : Nat) (v : Word32) (s : State) : Host.Outcome State Fault Refusal := s.upd fun s =>
  if r < 256 && !bit v.toNat 0 then s.rcfgWrite r v.toNat else s

/-- RING_CONFIG_WRITE (R449): `off` is a base or configuration register of a ring. -/
def execRingConfigWrite (off : Nat) (v : Word64) (s : State) : Host.Outcome State Fault Refusal := s.upd fun s =>
  let r := (off - 0x201000) / 0x20
  if off < 0x201000 || 256 ≤ r then s
  else if off = Reg.HST_RCFG r then s.rcfgWrite r (v.toNat % 2 ^ 32)
  else if off = Reg.HST_SQBASE r || off = Reg.HST_CQBASE r then
    (if s.rState r ≠ rsIDLE then s.discard clsHOST 0x012 off r else s.regWrite .host off v.toNat)
  else s

/-! ### Fetching (R452, R456, R476) -/

/-- A descriptor armed from a ring (Table 06-2). -/
def Dev.armDesc (s : Dev) (r : Nat) (d : Line) : Dev :=
  if dOp d = 0x0600 then s.run (execSloop (.ring r) d)
  else if dOp d = 0x0601 then s.run (execSstop (.ring r) d)
  else if dOp d / 0x100 = 7 then s.armJob (.ring r) d
  else s.armWork (.ring r) d

/-- Commands armed from rings and not completed (R452). -/
def Dev.ringArmed (s : Dev) : Nat := (s.rings.map fun x => x.2.inflight).sum

/-- The next descriptor of a ring that may be armed: JUNIT alone while a launch is in hand, none while the job is
pre-empted (R476, R492). -/
def Dev.ringNext (s : Dev) (r : Nat) : Option Line :=
  let x := s.ring r
  if s.jobState = jPREEMPTED then none
  else if s.jobState = jMANIFEST || s.jobState = jARMED then x.fetched.find? fun d => dOp d == 0x0703
  else x.fetched.head?

/-- Descriptors of ring r armed in ring order until one must wait, for its turn or for a line that its arm reads (R446). -/
def Dev.ringArm (r : Nat) : Nat → Dev → Dev
  | 0, s => s
  | fuel + 1, s =>
    match s.ringNext r with
    | none => s
    | some d =>
      let x := s.ring r
      if 8192 ≤ s.ringArmed || (s.flag (Reg.HST_RCFG r) 1 && x.inflight ≠ 0) || s.mustWait d then s
      else
        let t := (s.setRing r { x with fetched := x.fetched.erase d }).armDesc r d
        if t.tiers.stalls = s.tiers.stalls then Dev.ringArm r fuel t.unitEnd else s.askOnly t

/-- Ring r may be fetched from. -/
def Dev.mayFetch (s : Dev) (r : Nat) : Bool :=
  decide (r < 256) && s.rState r == rsRUN && s.upLink && s.jobState != jPREEMPTED && decide ((s.ring r).held.length < 64)
    && decide (s.ringArmed < 8192)

/-- The burst of a turn: each descriptor that comes is copied and SQHEAD moves; poison or an error stops the ring. -/
def Dev.ringBurst (r : Nat) : List (Option Line) → Nat → Dev → Dev
  | [], _, s => s
  | _, 0, s => s
  | none :: _, _, s =>
    let a := s.reg (Reg.HST_SQBASE r) + 64 * s.fld (Reg.HST_RHEAD r) 0 16
    (s.setFld (Reg.HST_RSTAT r) 0 2 rsSTOPPED).record clsHOST 0x013 (bits a 6 32) 0 blkHST r
  | some d :: ds, n + 1, s =>
    let x := s.ring r
    let s := (s.setRing r { x with fetched := x.fetched ++ [d] }).bump Reg.HST_CNT_FETCH 1
    Dev.ringBurst r ds n (s.setFld (Reg.HST_RHEAD r) 0 16 ((s.fld (Reg.HST_RHEAD r) 0 16 + 1) % s.sqSize r))

/-- Descriptors that the host has written and the device has not fetched. -/
def Dev.sqLeft (s : Dev) (r : Nat) : Nat :=
  (s.reg (dbSqTail r) + s.sqSize r - s.fld (Reg.HST_RHEAD r) 0 16) % s.sqSize r

/-- The ring whose turn it is: the first from the turn on, in ascending order round robin, that may be fetched from and is not
empty. -/
def Dev.ringDue (s : Dev) : Option Nat :=
  ((List.range 256).map fun i => (s.ringTurn + i) % 256).find? fun r => s.mayFetch r && s.sqLeft r != 0

/-- RING_FETCH (R452): a turn of ring r, which fetches where the turn is its own; the next turn is that of a ring after it. `ds`:
what each RdCurr returned, none for poison or an error. -/
def execRingFetch (r : Nat) (ds : List (Option Line)) (s : State) : Host.Outcome State Fault Refusal := s.upd fun s =>
  let s := if s.ringDue = some r then
      Dev.ringBurst r ds (min (s.sqLeft r) (s.fld Reg.HST_CFG 0 4)) { s with ringTurn := (r + 1) % 256 }
    else s
  (Dev.ringArm r ((s.ring r).fetched.length) s).ringSettle r

/-- The job runs again: the descriptors that the rings held are armed in ring order (R476, R494). -/
def Dev.armRings (s : Dev) : Dev :=
  if s.jobState ≠ jRUNNING then s
  else s.each (s.rings.map (·.1)) fun s r => (Dev.ringArm r ((s.ring r).fetched.length) s).ringSettle r

/-- JORDER with ORDER RESUME (R489, R494). -/
def execJorderResume (src : Source) (d : Line) (s : State) : Host.Outcome State Fault Refusal := s.upd fun s =>
  (s.jorder src d 2).armRings

/-- ORDREQ received by the root (R489, R491). -/
def execOrdreq (c : Carriage) (s : State) : Host.Outcome State Fault Refusal := s.upd fun s => (s.ordreq c).armRings

/-- ORDER received (R489, R490). -/
def execOrder (c : Carriage) (s : State) : Host.Outcome State Fault Refusal := s.upd fun s => (s.order c).armRings

/-- GO received (R485); a node that it reaches after T_GO starts at once. -/
def execGo (c : Carriage) (s : State) : Host.Outcome State Fault Refusal := s.upd fun s => (s.go c).armRings

/-- Fabric time reaches T_GO (R485, R486, R488). -/
def execTGoReached (s : State) : Host.Outcome State Fault Refusal := s.upd fun s => s.tGoReached.armRings

/-! ### The upstream link and configuration (R440, R444, R457, R532) -/

/-- UPSTREAM_LINK_DOWN (R457). -/
def execUpstreamLinkDown (s : State) : Host.Outcome State Fault Refusal := s.guard fun s =>
  s.setFld Reg.HST_STAT 8 8 0

/-- UPSTREAM_LINK_UP (R457): `speed` and `width` as HST_STAT shows them. -/
def execUpstreamLinkUp (speed width : Nat) (s : State) : Host.Outcome State Fault Refusal := s.guard fun s =>
  if s.grd.stage ≠ .run || s.fld Reg.GRD_BOOTSTAT 0 4 = 8 || speed = 0 || 3 < speed || !([4, 8, 16].contains width) then s
  else
    let s := (s.setFld Reg.HST_STAT 8 3 speed).setFld Reg.HST_STAT 11 5 width
    s.each (s.rings.map (·.1)) fun s r => (s.drainRecs r ((s.ring r).held.length)).ringSettle r

/-- Configuration requests complete normally (R532, R533). -/
def Dev.configOpen (s : Dev) : Bool :=
  s.grd.served && (s.fld Reg.GRD_BOOTSTAT 0 4 == 5 || s.fld Reg.GRD_BOOTSTAT 0 4 == 6)

def hdmLen : Nat := 2 ^ 43 + 2 ^ 30

/-- The capability list holds a PCI capability: neither MSI nor MSI-X (R441); of the others nothing is said. -/
def capHeld (id : Nat) : Bool := id != 0x05 && id != 0x11 && Config.hasCap id

/-- CONFIG_REQUEST (R531, R532, R440, R441). -/
def execConfigRequest (q : CfgReq) (s : State) : Host.Outcome State Fault Refusal := s.guard fun s =>
  if s.grd.stage ≠ .run || s.fld Reg.GRD_BOOTSTAT 0 4 = 8 then s
  else if !s.configOpen then s.emit (.config true)
  else
    let s := s.emit (.config false)
    match q with
    | .plain => s
    | .cacheEnable on => if s.fld Reg.GRD_BOOTSTAT 0 4 = 5 then s.setFlag Reg.HST_STAT 2 on else s
    | .interruptPin => s.emit (.cfgValue 0)
    | .findCap id => s.emit (.cfgCap id (capHeld id))
    | .tableAccess => s.emit (.cdat 0 hdmLen)

/-- The host reaches the HDM range and its decoder: the device is READY, so that its memory has been zeroed (R532). -/
def Dev.hdmOpen (s : Dev) : Bool := s.alive && s.fld Reg.GRD_BOOTSTAT 0 4 == 5

/-- HDM_DECODER_COMMIT (R444). -/
def execHdmDecoderCommit (base : Word64) (s : State) : Host.Outcome State Fault Refusal := s.upd fun s =>
  if s.hdmOpen then (s.setReg Reg.HST_HDMBASE (base.toNat / 2 ^ 28 * 2 ^ 28)).setFlag Reg.HST_STAT 1 true else s

/-- A line response (R430, R432, R435, R436); a descriptor that waited for a line of lent HBM is armed. -/
def execLineResponseReceive (c : Carriage) (s : State) : Host.Outcome State Fault Refusal := s.upd fun s =>
  let s := (s.lineResponse c).failLost
  if s.mmf.lines.any fun l => l.1 == 0 then s.armRings else s

/-! ### Host accesses through HDM (R444 to R446) -/

/-- The job address of the line that holds a host physical address, where the decoder claims it. -/
def Dev.hdmLine (s : Dev) (hpa : Nat) : Option Nat :=
  let base := s.reg Reg.HST_HDMBASE
  if s.hdmOpen && s.flag Reg.HST_STAT 1 && base ≤ hpa && hpa < base + hdmLen then some ((hpa - base) / 64 * 64) else none

/-- The snoop filter holds 262,144 lines; its oldest is evicted to make room (R446). -/
def Dev.filterAdd (s : Dev) (l : Nat) (own : Bool) : Dev :=
  if s.tiers.filter.any fun x => x.1 == l then
    s.setTiers fun t => { t with filter := t.filter.map fun x => if x.1 = l then (l, x.2 || own) else x }
  else
    let s := if s.tiers.filter.length < 262144 then s else match s.tiers.filter with
      | x :: _ => (s.snoopGate true fun k => k == x.1).1
      | [] => s
    s.setTiers fun t => { t with filter := t.filter ++ [(l, own)] }

/-- A command holds the region of a byte for its writes (R239): the byte is named by its key in the regions of a command. -/
def Dev.heldRegion (s : Dev) (k : Nat) : Bool :=
  let has (c : Cmd) : Bool := c.writes.any fun w => decide (w.1 ≤ k) && decide (k < w.1 + w.2)
  s.cmds.any has || s.dying.any fun x => has x.cmd

/-- The bytes that a read outside a command gives: one of a held region is unspecified (R239, R569). -/
def Dev.heldBytes (s : Dev) (k : Nat) (bs : List Byte) : List Byte :=
  ((List.range bs.length).zip bs).map fun x => if s.heldRegion (k + x.1) then Config.heldByte s.dbg.coreRuns (k + x.1) else x.2

/-- One more read has taken its free bytes. -/
def Dev.readDone (s : Dev) : Dev := { s with dbg := { s.dbg with coreRuns := s.dbg.coreRuns + 1 } }

/-- HOST_HDM_READ (R445). Bytes of a region that a command holds are unspecified (R239). `own`: the host asks for the line so that it may modify it. -/
def execHostHdmRead (hpa : Nat) (own : Bool) (s : State) : Host.Outcome State Fault Refusal := s.unit fun s =>
  match s.hdmLine hpa with
  | none => s
  | some a =>
    match s.xlate a false with
    | .bad _ => (s.hostFault a).emit (.hdm hpa [] true)
    | .key k =>
      let (s, ok) := s.lineRead false 0 a k
      let s := (s.touch a 64).lentNeed 0 ((s.lentLines a 64).map (·.1))
      let bs := s.heldBytes (jobKey a) (s.lentBytes 0 a (s.rdJob a 64))
      if ok then (s.filterAdd (a / 64) own).readDone.emit (.hdm hpa bs false) else s.emit (.hdm hpa [] true)

/-- HOST_HDM_WRITE (R445): the line that the host writes back. -/
def execHostHdmWrite (hpa : Nat) (data : List Byte) (s : State) : Host.Outcome State Fault Refusal := s.unit fun s =>
  match s.hdmLine hpa with
  | none => s
  | some a =>
    match s.xlate a true with
    | .bad _ => s.hostFault a
    | .key _ =>
      (s.hostLine (a / 64) (data.take 64)).setTiers fun t => { t with
        filter := t.filter.map fun x => if x.1 = a / 64 then (x.1, false) else x }

/-- BISNP_RESPONSE (R446): the host gives the line up, with the bytes that it had modified; what waited for the line goes on. -/
def execBisnpResponse (line : Nat) (data : Option Line) (s : State) : Host.Outcome State Fault Refusal := s.unit fun s =>
  if !s.tiers.snoops.contains line then s
  else
    let s := match data with
      | some d => if (s.spanFault (line * 64) 64 true).isSome then s else s.hostLine line (leBytes 64 d.toNat)
      | none => s
    (s.setTiers fun t => { t with
      snoops := t.snoops.filter (· != line), filter := t.filter.filter fun x => x.1 != line
      laid := Sparse.put (fun _ => 0) t.laid line 0 }).armRings.mfxGoAll

/-- H2D_SNOOP (R440, R442). -/
def execH2dSnoop (hpa : Nat) (s : State) : Host.Outcome State Fault Refusal := s.upd fun s => s.emit (.rspIHitI hpa)

/-! ### The downstream ports (R447, R448, R501) -/

/-- DS_PORT_ENABLE (R447, R501, R546). -/
def execDsPortEnable (q : Nat) (s : State) : Host.Outcome State Fault Refusal := s.upd fun s =>
  if 2 ≤ q || s.flag Reg.GRD_BOOTSTAT 10 || s.flag (Reg.HST_DSCTL q) 0 then s
  else if !s.portOn q then s.portEnable q
  else
    let s := (s.setReg (Reg.HST_DSCTL q) 1).setTiers fun t => { t with listed := t.listed.filter (· != q) }
    if s.grd.hbm then s.dsRelease q else s

/-- DS_PORT_DISABLE_WRITE (R501): as JUNIT action 0x04 with FAILMOVES = 1. -/
def execDsPortDisableWrite (q : Nat) (s : State) : Host.Outcome State Fault Refusal := s.upd fun s =>
  if 2 ≤ q || !s.flag (Reg.HST_DSCTL q) 0 || !s.portOn q then s else ((s.portOff q).portDown q 0 0).1

/-- Devices in ascending bus, device and function order. -/
def dsInsert (d : DsDevice) : List DsDevice → List DsDevice
  | [] => [d]
  | x :: xs => if d.bdf ≤ x.bdf then d :: x :: xs else x :: dsInsert d xs
def dsSort (ds : List DsDevice) : List DsDevice := ds.foldr dsInsert []

/-- Frames of a device's capacity. -/
def dsFrames (d : DsDevice) : Nat := d.bytes / 2 ^ 21

/-- The devices below port q are enumerated and mapped (R448). -/
def Dev.dsMap (s : Dev) (q : Nat) (devs : List DsDevice) : Dev :=
  let all := dsSort devs
  let s := s.each (all.filter fun d => !d.used) fun s (d : DsDevice) =>
    s.record clsHOST 0x016 (q + d.bdf % 2 ^ 16 * 2 ^ 16) 0 blkHST q
  let mine := (all.filter fun d => d.used).take 16
  let n := (mine.map dsFrames).sum
  let s := if 2097152 < n then s.record clsHOST 0x017 q 0 blkHST q else s
  let s := s.setReg (Reg.HST_DSSTAT q) (1 + mine.length * 2 ^ 8)
  let s := s.setReg (Reg.HST_DSFRAMES q) (min n 2097152)
  let s := s.setTiers fun t => { t with
    found := Sparse.put (fun _ => []) t.found q mine, listed := t.listed.filter (· != q) ++ [q] }
  (s.portBack q).pump

/-- DS_PORT_LINK_UP (R447, R448). A link that returns while the port stays enabled brings back what was mapped; a device that
is new is not mapped. -/
def execDsPortLinkUp (q : Nat) (devs : List DsDevice) (s : State) : Host.Outcome State Fault Refusal := s.upd fun s =>
  if 2 ≤ q || !s.flag (Reg.HST_DSCTL q) 0 || !s.portOn q || !s.grd.hbm || s.flag (Reg.HST_DSSTAT q) 0
    || s.flag Reg.GRD_BOOTSTAT 10 then s
  else if !s.tiers.listed.contains q then s.dsMap q devs
  else
    let s := s.setFlag (Reg.HST_DSSTAT q) 0 true
    (if (s.foundAt q).all fun d => devs.contains d then s.portBack q else s).pump

/-- DS_PORT_LINK_DOWN (R279, Table 08-6). -/
def execDsPortLinkDown (q : Nat) (s : State) : Host.Outcome State Fault Refusal := s.upd fun s =>
  if 2 ≤ q || !s.flag (Reg.HST_DSSTAT q) 0 then s
  else ((s.setFlag (Reg.HST_DSSTAT q) 0 false).tierLost fun home _ => home == 2 + q).failLost

/-- SESSION_CONFIG_WRITE (R459). -/
def execSessionConfigWrite (off : Nat) (v : Word64) (s : State) : Host.Outcome State Fault Refusal := s.upd fun s =>
  if off ≠ Reg.HST_SESSBASE && off ≠ Reg.HST_SESSCFG then s
  else if s.srv.desc.isSome then s.discard clsHOST 0x012 off 0
  else s.regWrite .host off (if off = Reg.HST_SESSCFG then v.toNat % 2 ^ 32 else v.toNat)

end Sys2Proof.Machine
end

