-- ==== Sys2Proof/Machine/Power.lean ====
section
/-! DEFINITION. Power, clocks and thermal control (R507 to R527, R576 to R579, R584). -/
namespace Sys2Proof.Machine

def Dev.setPwr (s : Dev) (f : Power → Power) : Dev := { s with pwr := f s.pwr }

/-! ### Gating and wake (R510 to R513) -/

/-- The condition of a power domain (R510). -/
inductive Condition where
  | active
  | clockGated
  | powerGated
deriving DecidableEq, Repr

/-- Every command, transfer and message of the collective engine is over. -/
def Dev.colIdle (s : Dev) : Bool := !s.cmds.any fun c => classOf (dOp c.desc) == 1
/-- The condition in which a domain stands (Table 17-1). DESIGN CHOICE (log entry 217): a Coachman core waits for an event
between the rows that it runs, but while the serving loop has a frame in hand. -/
def Dev.condition (s : Dev) : Domain → Condition
  | .coachArrays n =>
    if !s.coachOn n || s.cState n == csPGATED then .powerGated else if s.cState n == csCGATED then .clockGated else .active
  | .coachControl n =>
    if !s.coachOn n || (s.cState n == csPGATED && !s.pwr.awake.contains n) then .powerGated
    else if (s.instOn n).isNone then .clockGated else .active
  | .postilion p =>
    if s.pwr.gated.contains (.postilion p) then .powerGated else if s.postHeld p then .active else .clockGated
  | .core k => if s.pwr.gated.contains (.core k) then .powerGated else if s.srv.frame.isSome then .active else .clockGated
  | .collective => if s.colIdle then .clockGated else .active
  | .dray => if s.tiers.moves.isEmpty && s.tiers.reqs.isEmpty && s.tiers.waits.isEmpty then .clockGated else .active
  | .fabricAgent => if s.mmf.reqs.isEmpty && s.mmf.serves.isEmpty && s.mmf.acks.isEmpty then .clockGated else .active
  | dm => if s.pwr.gated.contains dm then .powerGated else .active

/-- The arrays of Coach n leave their gate, unless the limits of R513 defer the wake: WAKEMAX bounds those that leave clock
gating, and one cluster in a window leaves power gating. `defer`: the wake has not been counted as deferred. Arrays that are
not gated need no wake. -/
def Dev.wakeCoach (s : Dev) (n : Nat) (defer : Bool) : Dev :=
  let st := s.fld (Reg.CCH_CSTAT n) 0 3
  let late (s : Dev) : Dev :=
    if defer then (s.bump Reg.PWC_CNT_WAKEDEFER 1).setPwr fun p => { p with deferred := p.deferred ++ [n] } else s
  let wake (s : Dev) : Dev :=
    (s.setFld (Reg.CCH_CSTAT n) 0 3 csRUN).setPwr fun p => { p with deferred := p.deferred.filter (· != n) }
  if st ≠ csCGATED && st ≠ csPGATED then
    (if defer then s else s.setPwr fun p => { p with deferred := p.deferred.filter (· != n) })
  else if st = csCGATED then
    (if s.fld Reg.PWC_SLEW 0 7 ≤ s.pwr.woken then late s else (wake s).setPwr fun p => { p with woken := p.woken + 1 })
  else
    match s.pwr.wokenCl with
    | some c => if c = n / 4 then (wake s).bump Reg.PWC_CNT_PGWAKE 1 else late s
    | none => ((wake s).bump Reg.PWC_CNT_PGWAKE 1).setPwr fun p => { p with wokenCl := some (n / 4) }

/-- A domain other than those of a Coach may be power-gated (Table 17-1, R324, R580). -/
def Dev.mayGate (s : Dev) : Domain → Bool
  | .postilion p => decide (p < 8) && s.fld Reg.PWC_GATECFG 0 16 != 0 && !s.postHeld p
  | .hitchPair m => decide (m < 16) && [2 * m, 2 * m + 1].all fun h =>
      s.hState h == hsDISABLED || s.hState h == hsFAILED || s.hState h == hsDECONF
  | .dsPort q => decide (q < 2) && (!s.flag (Reg.HST_DSCTL q) 0 || !s.grd.hbm) && !s.flag Reg.GRD_BOOTSTAT 10
  | .core k => decide (k < 8)
  | _ => false

/-- DOMAIN_WAKE (R510 to R513). A downstream port that is held in reset, and a pair of Hitches that are disabled, failed or
deconfigured, stay gated (R34, R324, R580). A domain that is clock-gated only runs again with the work that wakes it. -/
def execDomainWake (dm : Domain) (s : State) : Host.Outcome State Fault Refusal := s.upd fun s =>
  match dm with
  | .coachArrays n =>
    if s.coachOn n && !s.pwr.deferred.contains n then s.wakeCoach n true else s
  | .coachControl n =>
    if s.coachOn n && s.fld (Reg.CCH_CSTAT n) 0 3 == csPGATED && !s.pwr.awake.contains n then
      (s.bump Reg.PWC_CNT_PGWAKE 1).setPwr fun p => { p with awake := p.awake ++ [n] }
    else s
  | .dsPort q => if s.mayGate (.dsPort q) then s else s.ungate (.dsPort q)
  | .hitchPair m => if s.mayGate (.hitchPair m) then s else s.ungate (.hitchPair m)
  | dm => s.ungate dm

/-- POWER_GATE_IDLE (R510). A core is gated only where firmware asks for it. -/
def execPowerGateIdle (dm : Domain) (s : State) : Host.Outcome State Fault Refusal := s.upd fun s =>
  match dm with
  | .coachArrays n =>
    if s.condition (.coachArrays n) == .clockGated && s.fld Reg.PWC_GATECFG 0 16 != 0 && !s.instWaits n then
      (s.setFld (Reg.CCH_CSTAT n) 0 3 csPGATED).setPwr fun p => { p with awake := p.awake.filter (· != n) }
    else s
  | dm => if s.mayGate dm && !s.pwr.gated.contains dm then s.setPwr fun p => { p with gated := p.gated ++ [dm] } else s

/-- WAKE_WINDOW (R513): a new window opens and deferred wakes are served in order. -/
def execWakeWindow (cluster : Bool) (s : State) : Host.Outcome State Fault Refusal := s.upd fun s =>
  let s := s.setPwr fun p => if cluster then { p with wokenCl := none } else { p with woken := 0 }
  s.each s.pwr.deferred fun s n =>
    if s.coachOn n then s.wakeCoach n false else s.setPwr fun p => { p with deferred := p.deferred.filter (· != n) }

/-! ### The trip (R525, Table 17-4) -/

/-- Every command and transfer in flight ends without commit (R525, R529). -/
def Dev.dropWork (s : Dev) : Dev := { s with cmds := [], dying := [], landed := [] }

/-- A job runs or is held whose meters are not sealed. -/
def Dev.toSeal (s : Dev) : Bool := (s.jobState == jRUNNING || s.jobState == jPREEMPTED) && !s.grd.sealed

/-- The meters are sealed where a job runs or is held (R504, R529), once for a job (R548). -/
def Dev.sealIfJob (s : Dev) (ended : Nat) : Dev := if s.toSeal then s.seal ended else s

/-- The Guard trips the device: `who` is the sensor or rail. -/
def Dev.tripDev (s : Dev) (cause who : Nat) : Dev :=
  if s.grd.stage ≠ .run || s.pwr.trip ≠ 0 then s
  else
    let s := (s.emit (.thermtrip true)).record clsGUARD 0x030 (cause + who * 2 ^ 8) 0 blkGRD 0
    let s := s.sealIfJob 3
    let s := (s.dropWork.setFld Reg.PWC_STAT 8 3 cause).setFld Reg.GRD_BOOTSTAT 0 4 8
    s.setPwr fun p => { p with trip := 1 }

/-- The domains outside the Coaches that can be power-gated. -/
def gateable : List Domain :=
  (List.range 8).map Domain.postilion ++ (List.range 8).map Domain.core ++ (List.range 16).map Domain.hitchPair
    ++ (List.range 2).map Domain.dsPort ++ [.collective, .dray, .fabricAgent]

/-- TRIP_DOMAINS_GATED: every domain but those of the Guard and the wake logic is power-gated, and none is retained. A
downstream port that ran is held in reset with its clock stopped, as R580 says of a gated one. -/
def execTripDomainsGated (s : State) : Host.Outcome State Fault Refusal := s.guard fun s =>
  if s.pwr.trip ≠ 1 then s
  else
    let s := (s.zeroMem false).each ((List.range 2).filter fun q => !s.pwr.gated.contains (.dsPort q)) Dev.dsHold
    let s := s.each ((List.range 64).filter s.coachOn) fun s n => s.setFld (Reg.CCH_CSTAT n) 0 8 csPGATED
    s.setPwr fun p => { p with trip := 2, gated := gateable, awake := [] }

/-- A voltage written to a VID rail (R514): its set-point. -/
def Dev.setVid (s : Dev) (i mv : Nat) : Dev := (s.emit (.vid i mv)).setPwr fun p => { p with vid := p.vid.set i mv }

/-- TRIP_RAILS_OFF (R514, R576). -/
def execTripRailsOff (s : State) : Host.Outcome State Fault Refusal := s.guard fun s =>
  if s.pwr.trip ≠ 2 then s
  else
    let s := s.each (List.range 3) fun s i => s.setVid i 0
    (s.setFlag Reg.PWC_STAT 7 true).setPwr fun p => { p with trip := 3 }

/-- RAIL_OUT_OF_RANGE (R578). -/
def execRailOutOfRange (rail : Nat) (s : State) : Host.Outcome State Fault Refusal := s.guard fun s => s.tripDev 3 rail

/-- VID_WRITE_FAIL (R517). -/
def execVidWriteFail (i : Nat) (s : State) : Host.Outcome State Fault Refusal := s.guard fun s => s.tripDev 3 i

/-! ### Telemetry and energy (R502, R516, R517, R575, R579) -/

/-- Package limits of the VID rails, in units of 10 mA (Table 20-3): VDD_ARR, VDD_LOG, VDD_SRAM. -/
def railLimit : Nat → Nat
  | 0 => 200000
  | 1 => 60000
  | _ => 30000

/-- Package limit in A and nominal voltage in mV of the rail of IMON(x) (Tables 20-3 and 20-6). -/
def imonRail : Nat → Nat × Nat
  | 0 => (4, 1800)
  | 1 => (8, 1800)
  | 2 => (90, 1100)
  | 3 => (40, 1200)
  | 4 => (120, 850)
  | 5 => (30, 850)
  | _ => (60, 400)

/-- Energy enters the meter: `e` in units of 10^-10 J; the meter counts whole mJ in RUNNING and PREEMPTED (Table 16-10), until
it is sealed. -/
def Dev.energy (s : Dev) (e : Nat) : Dev :=
  if !s.toSeal then s
  else
    let t := s.pwr.energy + e
    (s.meter Reg.GRD_MTR_ENERGY (t / 10 ^ 7)).setPwr fun p => { p with energy := t % 10 ^ 7 }

/-- A sample of a rail (bit `b`) is or is not over its package limit: two in a row are 10 µs (R525). -/
def Dev.limitSample (s : Dev) (b who : Nat) (over_ : Bool) : Dev :=
  let was := bit s.pwr.overLim b
  let s := s.setPwr fun p => { p with overLim := setBit p.overLim b over_ }
  if over_ && was then s.tripDev 4 who else s

/-- A rail's power is read, in units of 10 µW: the VID rails are 0 to 2, those behind IMON(x) 3 + x. -/
def Dev.metered (s : Dev) (i p : Nat) : Dev :=
  s.setPwr fun w => { w with meters := w.meters.modify i fun m => ⟨m.sum + p, m.n + 1, p⟩ }

/-- RAIL_TELEMETRY_READ (R516): rail i of Table 17-3, in mV and units of 10 mA. -/
def execRailTelemetryRead (i mv ma : Nat) (s : State) : Host.Outcome State Fault Refusal := s.always fun s =>
  if 3 ≤ i then s
  else
    let mv := mv % 2 ^ 16
    let ma := ma % 2 ^ 20
    let s := s.setReg (Reg.PWC_RAIL i) (mv + ma * 2 ^ 32)
    let s := s.setPwr fun p => { p with lost := setBit p.lost i false }
    let s := ((s.setFlag Reg.PWC_STAT 5 (s.pwr.lost != 0)).energy (mv * ma)).metered i (mv * ma)
    s.limitSample i i (decide (railLimit i < ma))

/-- IMON_SAMPLE (R579): `mv` is 1,000 at the package limit; the board's rails follow those of Table 17-3. -/
def execImonSample (x mv : Nat) (s : State) : Host.Outcome State Fault Refusal := s.always fun s =>
  if 7 ≤ x then s
  else
    let (lim, nom) := imonRail x
    let p := mv * lim * nom / 10
    ((s.energy p).metered (3 + x) p).limitSample (3 + x) (3 + x) (decide (1000 < mv))

/-- TELEMETRY_TIMEOUT (R517): TELELOST. While it is set, the slow loop and the energy meter take the on-die estimate that each
slow tick brings. -/
def execTelemetryTimeout (i : Nat) (s : State) : Host.Outcome State Fault Refusal := s.always fun s =>
  if 3 ≤ i then s
  else (s.setPwr fun p => { p with lost := setBit p.lost i true }).setFlag Reg.PWC_STAT 5 true

/-! ### The loops (R515, R518 to R522) -/

def Dev.plSust (s : Dev) : Nat := s.fld Reg.PWC_LIMIT 0 11
def Dev.plFast (s : Dev) : Nat := s.fld Reg.PWC_LIMIT 11 11
def Dev.plWindow (s : Dev) : Nat := s.fld Reg.PWC_LIMIT 22 10

def Dev.arrayStep (s : Dev) (c : Nat) : Nat := s.fld Reg.PWC_CLK (4 * c) 3
/-- The step that a cluster has or goes to. -/
def Dev.stepGoal (s : Dev) (c : Nat) : Nat := ((s.pwr.target.find? fun x => x.1 == c).map (·.2)).getD (s.arrayStep c)

/-- d = 1 and every cluster at 2.0 GHz (R522). -/
def Dev.atFloor (s : Dev) : Bool := s.duty == 1 && (List.range 16).all fun c => s.arrayStep c == 4

/-- LIMITED follows the loops that find their limit exceeded at the floor (R522). -/
def Dev.limited (s : Dev) : Dev :=
  let now_ := s.pwr.fastLim || s.pwr.slowLim
  let was := s.flag Reg.PWC_STAT 4
  let s := s.setFlag Reg.PWC_STAT 4 now_
  if now_ && !was then s.record clsGUARD 0x035 (s.pwr.fastLim.toNat + 2 * s.pwr.slowLim.toNat) 0 blkGRD 0 else s

/-- FAST_LOOP_TICK (R519, R522): the estimate of the last microsecond, and the one predicted at d + 1. -/
def execFastLoopTick (est pred : Nat) (s : State) : Host.Outcome State Fault Refusal := s.always fun s =>
  let d := s.duty
  let stuck := s.atFloor && decide (s.plFast < est)
  let up := min (s.pwr.sinceUp + 1) 10
  let held := s.flag Reg.PWC_STAT 6 || s.pwr.forced
  let rises := !held && decide (est ≤ s.plFast) && decide (d < 8) && decide (pred + s.fld Reg.PWC_THR 0 8 ≤ s.plFast) && decide (10 ≤ up)
  let d' := if held then 1 else if s.plFast < est then max 1 (d - 1) else if rises then d + 1 else d
  let s := s.setDuty d'
  let s := s.setPwr fun p => { p with sinceUp := if rises then 0 else up, fastLim := stuck }
  let s := if d' < 8 then s.bump Reg.PWC_CNT_FASTUS 1 else s
  s.limited

/-- The VDD_ARR voltage of an array step, as calibration set it, within Table 17-3. -/
def stepMv (k : Nat) : Nat := max 600 (min 900 (Config.stepMv k))

/-- VDD_ARR follows the array steps (R515): it holds the highest voltage that a cluster needs for the step it has or goes to;
a higher one is written at once, a lower one once every change has settled. -/
def Dev.voltFit (s : Dev) : Dev :=
  let need := ((List.range 16).map fun c => max (stepMv (s.arrayStep c)) (stepMv (s.stepGoal c))).foldl max 0
  let has := nth s.pwr.vid 0 0
  if has < need || (s.pwr.target.isEmpty && decide (need < has)) then s.setVid 0 need else s

/-- Every cluster goes one array step: down (slower) or up. Where the step rises, the higher voltage is written first (R515). -/
def Dev.stepAll (s : Dev) (down : Bool) : Dev :=
  let goals := (List.range 16).map fun c =>
    let k := s.stepGoal c
    (c, if down then min 4 (k + 1) else k - 1)
  (s.setPwr fun p => { p with target := goals.filter fun x => x.2 != s.arrayStep x.1 }).voltFit

/-- The power of rail i over the last 100 µs, in units of 10 µW: the mean of its readings, the last one where it had none, and
the on-die estimate (mW) of a VID rail that is lost (R517). -/
def Dev.railPower (s : Dev) (est : List Nat) (i : Nat) : Nat :=
  let m := s.pwr.meters.getD i ⟨0, 0, 0⟩
  if bit s.pwr.lost i then 100 * nth est i 0 else if m.n = 0 then m.last else m.sum / m.n

/-- A slow tick takes the telemetry of the last 100 µs into its history of one WINDOW, and the estimates of lost rails into the
energy meter (R517, R520). -/
def Dev.slowSample (s : Dev) (est : List Nat) : Dev :=
  let p := ((List.range 10).map (s.railPower est)).sum
  let lost := ((List.range 3).map fun i => if bit s.pwr.lost i then 1000 * nth est i 0 else 0).sum
  (s.energy lost).setPwr fun w => { w with
    hist := (p :: w.hist).take (10 * s.plWindow), meters := w.meters.map fun m => ⟨0, 0, m.last⟩ }

/-- The average of the history is above `pct` % of PL_SUST. -/
def Dev.avgAbove (s : Dev) (pct : Nat) : Bool := decide (s.plSust * 1000 * pct * s.pwr.hist.length < s.pwr.hist.sum)

/-- SLOW_LOOP_TICK (R517, R520, R522, R524): the on-die estimates in mW of VDD_ARR and of VDD_LOG and VDD_SRAM, which stand in
for a rail that is lost. -/
def execSlowLoopTick (arr : Nat) (others : Nat × Nat) (s : State) : Host.Outcome State Fault Refusal := s.always fun s =>
  let s := s.slowSample [arr, others.1, others.2]
  let over_ := s.avgAbove 100
  let s := s.setPwr fun p => { p with lowTicks := if s.avgAbove 95 then 0 else min (p.lowTicks + 1) 10000 }
  let low := decide (10 * s.plWindow ≤ s.pwr.lowTicks)
  let since := s.pwr.winUs + 100
  let drop := s.pwr.sinceDrop + 1
  let free := decide (1000 * s.plWindow ≤ since)
  let goals := (List.range 16).map s.stepGoal
  let down := over_ && free && goals.any (· < 4)
  let up := !over_ && low && free && !s.pwr.hot && goals.any (0 < ·)
  let cool := s.pwr.hot && decide (100 ≤ drop) && goals.any (· < 4)
  let s := if down then s.stepAll true else if up then s.stepAll false else s
  let s := if cool then s.stepAll true else s
  let s := s.setPwr fun p => { p with
    winUs := if down || up then 0 else min since 1000000, sinceDrop := if cool then 0 else min drop 100
    slowLim := s.atFloor && over_ }
  s.limited

/-- STEP_CHANGE_SETTLED (R515): the cluster has gone one step toward its goal. -/
def execStepChangeSettled (c : Nat) (s : State) : Host.Outcome State Fault Refusal := s.always fun s =>
  match s.pwr.target.find? fun x => x.1 == c with
  | none => s
  | some x =>
    let k := if s.arrayStep c < x.2 then s.arrayStep c + 1 else s.arrayStep c - 1
    let s := (s.setFld Reg.PWC_CLK (4 * c) 3 k).bump Reg.PWC_CNT_STEP 1
    (s.setPwr fun p => { p with target := p.target.filter fun y => !(y.1 == c && y.2 == k) }).voltFit

/-- The pin THROTTLE_N is low (R521): PWC_STAT shows it and d is 1. -/
def Dev.throttled (s : Dev) : Dev := (s.setFlag Reg.PWC_STAT 6 true).setDuty 1

/-- THROTTLE_ASSERT (R521, R582): the level of the pin is kept; a device in reset meets it when the reset is over. -/
def execThrottleAssert (s : State) : Host.Outcome State Fault Refusal := s.guard fun s =>
  let was := s.pwr.throttle
  let s := s.setPwr fun p => { p with throttle := true }
  if s.grd.stage ≠ .run then s
  else
    let s := s.throttled
    let sec := s.ns / 10 ^ 9
    if was || s.pwr.thr34 = some sec then s
    else (s.setPwr fun p => { p with thr34 := some sec }).record clsGUARD 0x034 0 0 blkGRD 0

/-- THROTTLE_DEASSERT (R521). -/
def execThrottleDeassert (s : State) : Host.Outcome State Fault Refusal := s.guard fun s =>
  (s.setPwr fun p => { p with throttle := false }).setFlag Reg.PWC_STAT 6 false

/-! ### Temperature (R523 to R525) -/

/-- The hottest of the sensors in use: its reading and index. -/
def hottest (ts : List (Nat × Int)) : Option (Nat × Int) :=
  ts.foldl (fun b x => match b with
    | none => some x
    | some y => if y.2 < x.2 then some x else some y) none

/-- SENSOR_READ (R523, R524, R525): readings of sensors 0 to 39 in units of 1/16 °C. -/
def execSensorRead (ts : List Int) (s : State) : Host.Outcome State Fault Refusal := s.always fun s =>
  let xs := (List.range 40).zip ts
  let s := s.each xs fun s x => s.setFld (Reg.PWC_SENSOR x.1) 0 16 (ofSigned 16 x.2)
  let excl (i : Nat) : Bool := s.flag (Reg.PWC_SENSOR i) 16
  match hottest (xs.filter fun x => !excl x.1) with
  | none => s
  | some (i, t) =>
    let tj : Int := if (List.range 40).any excl then t + 80 else t
    let target : Int := 16 * (s.fld Reg.PWC_THR 8 7 : Nat)
    let s := s.setFld Reg.PWC_TEMP 0 16 (ofSigned 16 tj)
    let s := if target ≤ tj then s.bump Reg.PWC_CNT_THERMUS 10 else s
    let s := s.setPwr fun p => { p with hot := if target ≤ tj then true else if tj ≤ target - 48 then false else p.hot }
    let s := if 16 * 105 ≤ tj then
        let s := if s.pwr.forced then s else s.record clsGUARD 0x031 i 0 blkGRD 0
        (s.setPwr fun p => { p with forced := true }).setDuty 1
      else if tj < 16 * 103 then s.setPwr fun p => { p with forced := false } else s
    if 16 * 115 ≤ tj then s.tripDev 1 i else s

/-- HBM_SENSOR_READ (R523 to R525): stack `k`. -/
def execHbmSensorRead (k : Nat) (t : Int) (s : State) : Host.Outcome State Fault Refusal := s.always fun s =>
  if 8 ≤ k then s
  else
    let s := s.setFld (Reg.PWC_SENSOR (40 + k)) 0 16 (ofSigned 16 t)
    let s := s.setPwr fun p => { p with
      refresh2 := setBit p.refresh2 k (decide (16 * 85 ≤ t)), half := setBit p.half k (decide (16 * 95 ≤ t)) }
    if 16 * 105 ≤ t then s.tripDev 2 (40 + k) else s

/-- SENSOR_CALIBRATION_CHECK (R523). -/
def execSensorCalibrationCheck (k : Nat) (good : Bool) (s : State) : Host.Outcome State Fault Refusal := s.always fun s =>
  if 40 ≤ k || good || s.flag (Reg.PWC_SENSOR k) 16 then s
  else (s.setFlag (Reg.PWC_SENSOR k) 16 true).record clsGUARD 0x033 k 0 blkGRD 0

end Sys2Proof.Machine
end

