-- ==== Sys2Proof/Machine/Sha.lean ====
section
/-! DEFINITION. The SHA-2 hashes that the Guard uses, on bytes: SHA-384 of the measurements and of the checks of the image
(R534, R536, R549), and those that the two signature schemes of R534 are built on. PRESUMED (log entry 69): the spec names the
hashes and states none of their rounds. -/
namespace Sys2Proof.Machine

/-- The primes below `n`. -/
def primesBelow (n : Nat) : List Nat :=
  (List.range n).filter fun p => decide (2 ≤ p) && (List.range p).all fun d => decide (d < 2) || p % d != 0

/-- The first 64 bits after the binary point of the `e`-th root of `p` (below 32 for the primes used). -/
def rootFrac (e p : Nat) : Nat := floorRoot e (p * 2 ^ (64 * e)) 69 0 % 2 ^ 64

/-- What tells one hash of the family from another: bits of a word, round constants, and the distances of the two sums over a
working variable (three rotations) and of the two over a word of the message (two rotations and a shift). -/
structure ShaKind where
  w    : Nat
  k    : List Nat
  big0 : Nat × Nat × Nat
  big1 : Nat × Nat × Nat
  sm0  : Nat × Nat × Nat
  sm1  : Nat × Nat × Nat

/-- The round constants are the cube roots of the first primes. -/
def shaWide : ShaKind := ⟨64, (primesBelow 410).map (rootFrac 3), (28, 34, 39), (14, 18, 41), (1, 8, 7), (19, 61, 6)⟩
def shaNarrow : ShaKind :=
  ⟨32, (primesBelow 312).map fun p => rootFrac 3 p / 2 ^ 32, (2, 13, 22), (6, 11, 25), (7, 18, 3), (17, 19, 10)⟩

def ShaKind.rotr (h : ShaKind) (x n : Nat) : Nat := x / 2 ^ n + x % 2 ^ n * 2 ^ (h.w - n)
def ShaKind.big (h : ShaKind) (r : Nat × Nat × Nat) (x : Nat) : Nat := h.rotr x r.1 ^^^ h.rotr x r.2.1 ^^^ h.rotr x r.2.2
def ShaKind.sm (h : ShaKind) (r : Nat × Nat × Nat) (x : Nat) : Nat := h.rotr x r.1 ^^^ h.rotr x r.2.1 ^^^ (x / 2 ^ r.2.2)

/-- The bits of `y` where `x` has ones, and those of `z` elsewhere. -/
def ShaKind.pick (h : ShaKind) (x y z : Nat) : Nat := (x &&& y) ^^^ ((2 ^ h.w - 1 - x) &&& z)
/-- The bit that two of three words or more have. -/
def shaMost (x y z : Nat) : Nat := (x &&& y) ||| (z &&& (x ||| y))

/-- The number that bytes spell, most significant first. -/
def beNat (bs : List Byte) : Nat := bs.foldl (fun a b => a * 256 + b.toNat) 0
/-- The `n` bytes of `x`, most significant first. -/
def beBytes (n x : Nat) : List Byte := (leBytes n x).reverse

/-- The message schedule: the last sixteen words, newest first, extended `n` times. -/
def ShaKind.sched (h : ShaKind) : Nat → List Nat → List Nat
  | 0, ws => ws
  | n + 1, ws =>
    let g (i : Nat) : Nat := ws.getD i 0
    h.sched n ((h.sm h.sm1 (g 1) + g 6 + h.sm h.sm0 (g 14) + g 15) % 2 ^ h.w :: ws)

/-- One round on the working variables a to h, with the sum of its constant and its word. -/
def ShaKind.round (h : ShaKind) (v : List Nat) (kw : Nat) : List Nat :=
  let x (i : Nat) : Nat := v.getD i 0
  let t := x 7 + h.big h.big1 (x 4) + h.pick (x 4) (x 5) (x 6) + kw
  let new := (t + h.big h.big0 (x 0) + shaMost (x 0) (x 1) (x 2)) % 2 ^ h.w
  new :: ((v.take 7).set 3 ((x 3 + t) % 2 ^ h.w))

/-- One block of sixteen words. -/
def ShaKind.block (h : ShaKind) (hs : List Nat) (blk : List Byte) : List Nat :=
  let b := h.w / 8
  let ws := (List.range 16).map fun i => beNat ((blk.drop (b * i)).take b)
  let all := (h.sched (h.k.length - 16) ws.reverse).reverse
  let v := ((h.k.zip all).map fun p => p.1 + p.2).foldl h.round hs
  (hs.zip v).map fun p => (p.1 + p.2) % 2 ^ h.w

/-- The blocks of a message in order. -/
def ShaKind.blocks (h : ShaKind) : Nat → List Byte → List Nat → List Nat
  | 0, _, hs => hs
  | n + 1, bs, hs => h.blocks n (bs.drop (2 * h.w)) (h.block hs (bs.take (2 * h.w)))

/-- The message with its padding: a one bit, zeros, and the number of its bits in two words. -/
def ShaKind.pad (h : ShaKind) (bs : List Byte) : List Byte :=
  let n := 2 * h.w
  let z := (2 * n - 1 - h.w / 4 - bs.length % n) % n
  bs ++ [0x80] ++ List.replicate z 0 ++ beBytes (h.w / 4) (8 * bs.length)

/-- The first `n` bytes of the hash of bytes from an initial value. -/
def ShaKind.hash (h : ShaKind) (init : List Nat) (n : Nat) (bs : List Byte) : List Byte :=
  let m := h.pad bs
  ((h.blocks (m.length / (2 * h.w)) m init).flatMap (beBytes (h.w / 8))).take n

/-- The initial values: square roots of the first eight primes, and for SHA-384 of the next eight. -/
def shaFirst : List Nat := (primesBelow 20).map (rootFrac 2)
def sha256 (bs : List Byte) : List Byte := shaNarrow.hash (shaFirst.map (· / 2 ^ 32)) 32 bs
def sha384 (bs : List Byte) : List Byte := shaWide.hash ((primesBelow 54).drop 8 |>.map (rootFrac 2)) 48 bs
def sha512 (bs : List Byte) : List Byte := shaWide.hash shaFirst 64 bs

end Sys2Proof.Machine
end

