-- ==== Sys2Proof/Machine/Signatures.lean ====
section
/-! DEFINITION. The two signatures over an image header (R534, R536): RSASSA-PSS with RSA-3072, and SLH-DSA-SHA2-192s.
PRESUMED (log entry 69): the spec names the two schemes and their parameters; the steps of each verification are those of the
standards that it names. -/
namespace Sys2Proof.Machine

/-! ### RSASSA-PSS: SHA-384, MGF1 with SHA-384, a salt of 48 bytes, public exponent 65,537 -/

/-- The mask generation function over a hash of `h` bytes: `n` bytes from a seed. -/
def mgf1 (h : Nat) (hash : List Byte → List Byte) (seed : List Byte) (n : Nat) : List Byte :=
  ((List.range ((n + h - 1) / h)).flatMap fun i => hash (seed ++ beBytes 4 i)).take n

def xorBytes (xs ys : List Byte) : List Byte := (xs.zip ys).map fun p => p.1 ^^^ p.2

/-- `x` to the power 65,537 modulo `n`. -/
def rsaOpen (n x : Nat) : Nat := ((List.range 16).foldl (fun y _ => y * y % n) (x % n)) * x % n

/-- A signature of 384 bytes under a modulus of 384 bytes verifies over a message. -/
def rsaVerify (pub msg sig : List Byte) : Bool :=
  let n := beNat pub
  let em := beBytes 384 (rsaOpen n (beNat sig))
  let h := (em.drop 335).take 48
  let db := match xorBytes (em.take 335) (mgf1 48 sha384 h 335) with
    | [] => []
    | b :: bs => (b &&& 0x7F) :: bs
  decide (beNat sig < n) && em.getLast? == some 0xBC && decide ((em.headD 0).toNat < 128)
    && (db.take 286).all (· == 0) && (db.drop 286).take 1 == [1]
    && sha384 (List.replicate 8 0 ++ sha384 msg ++ db.drop 287) == h

/-! ### SLH-DSA-SHA2-192s: hashes of 24 bytes, 7 layers of 9 levels, 17 trees of 14 levels, chains of 16 -/

/-- What a hash of the scheme is of: its layer, tree, type and three words that the type uses. -/
structure SlhAt where
  layer : Nat
  tree  : Nat
  kind  : Nat
  pair  : Nat
  a     : Nat
  b     : Nat

def SlhAt.bytes (x : SlhAt) : List Byte :=
  beBytes 1 x.layer ++ beBytes 8 x.tree ++ beBytes 1 x.kind ++ beBytes 4 x.pair ++ beBytes 4 x.a ++ beBytes 4 x.b

/-- The hash of one value of 24 bytes, and that of several. -/
def slhOne (seed : List Byte) (x : SlhAt) (m : List Byte) : List Byte :=
  (sha256 (seed ++ List.replicate 40 0 ++ x.bytes ++ m)).take 24
def slhMany (seed : List Byte) (x : SlhAt) (m : List Byte) : List Byte :=
  (sha512 (seed ++ List.replicate 104 0 ++ x.bytes ++ m)).take 24

/-- Item `i` of 24 bytes. -/
def slhItem (bs : List Byte) (i : Nat) : List Byte := (bs.drop (24 * i)).take 24

/-- Digits of `w` bits of a number of `n` digits, most significant first. -/
def slhDigits (w n v : Nat) : List Nat := (List.range n).map fun i => v / 2 ^ (w * (n - 1 - i)) % 2 ^ w

/-- The root that a node and its siblings give: at height `k` the node has index `i` in a tree numbered from `base`. -/
def slhClimb (seed : List Byte) (x : SlhAt) : List (List Byte) → Nat → Nat → Nat → List Byte → List Byte
  | [], _, _, _, node => node
  | sib :: sibs, base, k, i, node =>
    let up : SlhAt := { x with a := k + 1, b := base / 2 ^ (k + 1) + i / 2 }
    slhClimb seed x sibs base (k + 1) (i / 2) (slhMany seed up (if i % 2 = 0 then node ++ sib else sib ++ node))

/-- The few-time public key that the first part of a signature gives for a digest. -/
def slhFors (seed : List Byte) (tree leaf : Nat) (sig : List Byte) (md : Nat) : List Byte :=
  let idx := slhDigits 14 17 md
  let roots := (List.range 17).flatMap fun t =>
    let part := sig.drop (360 * t)
    let i := idx.getD t 0
    let node := slhOne seed ⟨0, tree, 3, leaf, 0, t * 2 ^ 14 + i⟩ (part.take 24)
    slhClimb seed ⟨0, tree, 3, leaf, 0, 0⟩ ((List.range 14).map fun j => slhItem part (j + 1)) (t * 2 ^ 14) 0 i node
  slhMany seed ⟨0, tree, 4, leaf, 0, 0⟩ roots

/-- A chain from position `i`, `n` steps on. -/
def slhChain (seed : List Byte) (x : SlhAt) : Nat → Nat → List Byte → List Byte
  | _, 0, m => m
  | i, n + 1, m => slhChain seed x (i + 1) n (slhOne seed { x with b := i } m)

/-- The one-time public key that 51 chains give for a message of 24 bytes: 48 digits and three of their checksum. -/
def slhWots (seed : List Byte) (layer tree pair : Nat) (sig m : List Byte) : List Byte :=
  let ds := slhDigits 4 48 (beNat m)
  let all := ds ++ slhDigits 4 3 ((ds.map fun d => 15 - d).sum)
  let ends := (List.range 51).flatMap fun i =>
    let d := all.getD i 0
    slhChain seed ⟨layer, tree, 0, pair, i, 0⟩ d (15 - d) (slhItem sig i)
  slhMany seed ⟨layer, tree, 1, pair, 0, 0⟩ ends

/-- The roots of the layers in turn: each signs the root below it. -/
def slhLayers (seed sig : List Byte) : Nat → Nat → Nat → Nat → List Byte → List Byte
  | 0, _, _, _, m => m
  | n + 1, layer, tree, leaf, m =>
    let part := sig.drop (1440 * layer)
    let pk := slhWots seed layer tree leaf part m
    let root := slhClimb seed ⟨layer, tree, 2, 0, 0, 0⟩ ((List.range 9).map fun j => slhItem part (51 + j)) 0 0 leaf pk
    slhLayers seed sig n (layer + 1) (tree / 2 ^ 9) (tree % 2 ^ 9) root

/-- A signature of 16,224 bytes under a public key of 48 verifies over a message, pure and with an empty context. -/
def slhVerify (pub msg sig : List Byte) : Bool :=
  let seed := pub.take 24
  let m := [0, 0] ++ msg
  let r := sig.take 24
  let inner := sha512 (r ++ pub ++ m)
  let d := mgf1 64 sha512 (r ++ seed ++ inner) 39
  let md := beNat (d.take 30) / 4
  let tree := beNat ((d.drop 30).take 7) % 2 ^ 54
  let leaf := beNat ((d.drop 37).take 2) % 2 ^ 9
  let pk := slhFors seed tree leaf ((sig.drop 24).take 6120) md
  sig.length == 16224 && slhLayers seed ((sig.drop 6144).take 10080) 7 0 tree leaf pk == pub.drop 24

end Sys2Proof.Machine
end

