-- ==== Sys2Proof/Machine/Boot.lean ====
section
/-! DEFINITION. Resets and start-up, the firmware image, Guard commands, the lifecycle, attestation (R528 to R553, R577,
R581, R583). -/
namespace Sys2Proof.Machine

def Dev.setGrd (s : Dev) (f : Guard → Guard) : Dev := { s with grd := f s.grd }
def Dev.bootState (s : Dev) : Nat := s.fld Reg.GRD_BOOTSTAT 0 4
def Dev.setBoot (s : Dev) (x : Nat) : Dev := s.setFld Reg.GRD_BOOTSTAT 0 4 x

/-- GRD_BOOTSTAT.STATE codes. -/
def bsROM : Nat := 0
def bsLOADING : Nat := 1
def bsVERIFYING : Nat := 2
def bsTRAINING : Nat := 3
def bsWIPING : Nat := 4
def bsREADY : Nat := 5
def bsRECOVERY : Nat := 6
def bsLOCKED : Nat := 7
def bsTRIPPED : Nat := 8

/-- GRD_LIFECYCLE.STATE codes (Table 18-7). -/
def lcMANUFACTURE : Nat := 1
def lcPRODUCTION : Nat := 2
def lcRMA : Nat := 3
def lcDECOMMISSIONED : Nat := 4
def Dev.lifeState (s : Dev) : Nat := s.fld Reg.GRD_LIFECYCLE 0 3
def Dev.fuseSvn (s : Dev) : Nat := s.fld Reg.GRD_LIFECYCLE 8 6

/-- A fresh GRD_NONCE (R542). -/
def Dev.drawNonce (s : Dev) : Dev :=
  (s.setReg Reg.GRD_NONCE (Config.entropy s.grd.draws).toNat).setGrd fun g => { g with draws := g.draws + 1 }

/-! ### Resets (R528 to R531, R39) -/

/-- Nominal power of a grade in W (Table 00-1). -/
def nominalW (grade : Nat) : Nat := if grade = 0x30 then 1300 else if grade = 0x38 then 1450 else 1600

/-- SIZ, CCH_CSTAT and PWC_LIMIT as the grade is shipped. -/
def Dev.asShipped (s : Dev) : Dev :=
  let n := (bitsSet 64 s.grd.ship).length
  let s := s.setFld Reg.SIZ_IDENT 0 8 s.grd.grade
  let s := (s.setReg Reg.SIZ_COACH (n + n * 2 ^ 8 + 4 * n * 2 ^ 16)).setReg Reg.SIZ_COACHMAP s.grd.ship
  let s := s.each ((List.range 64).filter fun i => !bit s.grd.ship i) fun s i => s.setFld (Reg.CCH_CSTAT i) 0 3 0
  let w := nominalW s.grd.grade
  s.setReg Reg.PWC_LIMIT (w + (w + 100) * 2 ^ 11 + 10 * 2 ^ 22)

/-- An entry of the fence record applied before SIZ is first readable (R547, Table 18-8). -/
def Dev.fenceApply (s : Dev) (e : Nat) : Dev :=
  let i := e % 2 ^ 28
  match e / 2 ^ 28 with
  | 1 =>
    if !s.coachOn i then s
    else
      let k := s.fld Reg.SIZ_COACH 0 8 - 1
      let s := ((s.setFld Reg.SIZ_COACH 0 8 k).setFld Reg.SIZ_COACH 16 9 (4 * k)).setFlag Reg.SIZ_COACHMAP i false
      s.setFld (Reg.CCH_CSTAT i) 0 3 csFENCED
  | 2 =>
    let h := i / 4
    if 32 ≤ h then s
    else
      let s := s.setFlag (Reg.HCH_PSTAT h) (20 + i % 4) true
      if s.fld Reg.SIZ_HITCHW (2 * h) 2 = 0 then s.hShow h
      else if soundPairs (s.hLfail h) = 0 then (s.setFld Reg.SIZ_HITCHW (2 * h) 2 0).hEnter h hsDECONF 0
      else (s.setFld Reg.SIZ_HITCHW (2 * h) 2 1).hShow h
  | 3 => if 32 ≤ i then s else (s.setFld Reg.SIZ_HITCHW (2 * i) 2 0).hEnter i hsDECONF 0
  | 4 => s.setTiers fun t => { t with retired := if t.retired.contains i then t.retired else t.retired ++ [i] }
  | _ => s

/-- The device reset (Table 18-1, R529): what is kept, and reset values for everything else. -/
def Dev.resetAll (s : Dev) (stage : BootStage) (cause : Nat) (warm : Bool) : Dev :=
  let held := s.toSeal || (s.grd.stage == .off && s.flag Reg.GRD_RESETCAUSE 4)
  let s := s.sealIfJob 2
  let keep (e : Nat) : Bool := warm || !bit s.grd.clearing (e / 2 ^ 28 - 1)
  let g : Guard := { s.grd with
    stage := stage, sram := false, trained := false, hbm := false, served := false, image := [], coldWait := warm && s.grd.coldWait
    spdmA := if warm then s.grd.spdmA else [], spdmB := if warm then s.grd.spdmB else [], spdmM := if warm then s.grd.spdmM else []
    spdmLast := if warm then s.grd.spdmLast else none, wiping := false, fence := s.grd.fence.filter keep, clearing := if warm then s.grd.clearing else 0
    opened := if warm then s.grd.opened else none }
  let d : Dev := { Dev.reset with
    regs := [], mem := s.mem, bad := s.bad, outs := s.outs, ns := s.ns, log := ⟨[], 1, s.log.psafe⟩, grd := g
    dbg := { Dev.reset.dbg with coreRuns := s.dbg.coreRuns, sel := s.dbg.sel }
    pwr := { Dev.reset.pwr with throttle := s.pwr.throttle, vid := if s.pwr.trip = 0 then s.pwr.vid else Dev.reset.pwr.vid } }
  let d := d.setReg Reg.GRD_LIFECYCLE (s.lifeState + s.fuseSvn * 2 ^ 8)
  let d := d.setReg Reg.GRD_RESETCAUSE (cause + held.toNat * 2 ^ 4)
  let d := d.each (List.range 4) fun d i => d.setReg (Reg.GRD_UID i) (s.reg (Reg.GRD_UID i))
  let d := if warm then (d.setReg Reg.GRD_NONCE (s.reg Reg.GRD_NONCE)).setReg Reg.TPK_TIME s.now else d
  let d := d.setFlag Reg.GRD_BOOTSTAT 9 g.lcTarget.isSome
  let d := d.rightsEnd
  let d := d.each ((List.range 2).filter fun q => !s.pwr.gated.contains (.dsPort q)) Dev.dsHold
  let d := if s.pwr.throttle then d.throttled else d
  d.asShipped.each g.fence Dev.fenceApply

/-- Steps 3 and 4 of R545 and the programming of the fuses. -/
def Dev.lifecycleSteps (s : Dev) (t : Nat) : Dev :=
  let s := { s with mem := s.mem.filter (fun c => decide (3 ≤ c.1 / 2 ^ 60)), bad := s.bad.filter fun l => decide (3 ≤ l.1 * 64 / 2 ^ 60) }
  let s := if t = lcRMA || t = lcDECOMMISSIONED then
      Dev.setGrd { s with log := { s.log with psafe := [] } } fun g => { g with meterLog := [], ownHash := none }
    else s
  let s := if t = lcDECOMMISSIONED then s.setGrd fun g => { g with keys := false } else s
  s.setFld Reg.GRD_LIFECYCLE 0 3 t

/-- The timeline of R531 can run: CORECLK is there, and TESTEN was sampled 0 (R581, R583). -/
def Dev.bootOk (s : Dev) : Bool :=
  s.grd.stage == .run && s.grd.straps.coreclk && !s.grd.straps.testen && s.pwr.trip == 0

/-- The start of a boot: a pending lifecycle change is repeated first (R546); a decommissioned device is LOCKED. -/
def Dev.bootBegin (s : Dev) (st : Nat) : Dev :=
  let s := s.setBoot st
  if !s.bootOk then s
  else
    let s := match s.grd.lcTarget with
      | some t => (s.lifecycleSteps t).record clsGUARD 0x00C t 0 blkGRD 0
      | none => s
    if s.lifeState = lcDECOMMISSIONED then s.setBoot bsLOCKED else s

/-- The set-points of the VID rails return to their reset values (Table 17-3), each by a voltage write where it differs. -/
def Dev.vidReset (s : Dev) : Dev :=
  s.each ((List.range 3).filter fun i => nth s.pwr.vid i 0 != nth Dev.reset.pwr.vid i 0) fun s i => s.setVid i (nth Dev.reset.pwr.vid i 0)

/-- Tj has fallen below 100 °C, so that a trip may be left (R525). -/
def Dev.coolEnough (s : Dev) : Bool := decide (toSigned 16 (s.fld Reg.PWC_TEMP 0 16) < 1600)

/-- A cold reset begins, by a cause; a tripped device takes it only once it is cool, with cause 0x5. -/
def Dev.coldReset (s : Dev) (cause : Nat) : Dev :=
  if s.pwr.trip = 0 then s.resetAll (.held cause) cause false
  else if s.coolEnough then s.resetAll (.held 5) 5 false else s

/-- STANDBY_POWER_UP (R528, R577, R581). -/
def execStandbyPowerUp (aoclk : Bool) (s : State) : Host.Outcome State Fault Refusal := s.guard fun s =>
  if s.grd.stage = .off && aoclk then s.resetAll (.held 1) 1 false else s

/-- THERMTRIP_N is held low by a trip, or by a reset that leaves one and is not released (R584). -/
def Dev.tripHeld (s : Dev) : Bool := s.pwr.trip != 0 || s.grd.stage == .held 5

/-- STANDBY_POWER_LOSS (R577): the device stops, and what is volatile is lost. A job that runs or is held is sealed, as the
power-on reset that follows states (R529), and THERMTRIP_N is no longer driven (Table 20-7). -/
def execStandbyPowerLoss (s : State) : Host.Outcome State Fault Refusal := s.guard fun s =>
  if s.grd.stage = .off then s
  else
    let s := if s.tripHeld then s.emit (.thermtrip false) else s
    let s := { s with mem := s.mem.filter (fun c => decide (3 ≤ c.1 / 2 ^ 60)), bad := s.bad.filter fun l => decide (3 ≤ l.1 * 64 / 2 ^ 60) }
    Dev.setGrd ((s.resetAll .off 0 true).setPwr fun p => { p with vid := Dev.reset.pwr.vid }) fun g => { g with opened := none }

/-- COLD_RESET_PIN (R528): RESET_N or PERST_N is asserted; during a reset the first cause stays. -/
def execColdResetPin (perst : Bool) (s : State) : Host.Outcome State Fault Refusal := s.guard fun s =>
  if s.grd.stage = .run then s.coldReset (if perst then 3 else 2) else s

/-- RESET_RELEASE (R531, R583, R584). A device that waits for CORECLK starts its timeline when the clock has come; its straps
hold (R581; DESIGN CHOICE, log entry 218). -/
def execResetRelease (st : Straps) (s : State) : Host.Outcome State Fault Refusal := s.guard fun s =>
  match s.grd.stage with
  | .held c =>
    let s := ((s.setGrd fun g => { g with stage := .run, straps := st }).drawNonce).vidReset
    let s := if c = 5 then s.emit (.thermtrip false) else s
    s.bootBegin bsROM
  | .run =>
    if s.grd.straps.coreclk || !st.coreclk then s
    else (s.setGrd fun g => { g with straps := { g.straps with coreclk := true } }).bootBegin bsROM
  | .off => s

/-- WARM_RESET (R528, R531): the Guard keeps running, and boot runs from the image header read onward. -/
def execWarmReset (s : State) : Host.Outcome State Fault Refusal := s.guard fun s =>
  if s.bootOk then (s.resetAll .run 6 true).vidReset.bootBegin bsLOADING else s

/-- FUNCTION_LEVEL_RESET (R530). -/
def execFunctionLevelReset (s : State) : Host.Outcome State Fault Refusal := s.upd fun s =>
  let mute (c : Cmd) : Cmd := match c.src with | .ring _ => { c with src := .coachman } | _ => c
  let s := { s with cmds := s.cmds.map mute, dying := s.dying.map (fun (x : Dying) => { x with cmd := mute x.cmd }), rings := [] }
  let isRing (k : Nat) : Bool := (decide (0x201000 ≤ k) && decide (k < 0x203000)) || decide (2 ^ 32 ≤ k)
  let s := { s with regs := s.regs.filter fun r => !isRing r.1 }
  if s.jobState = jRUNNING || s.jobState = jPREEMPTED then s.endJob false 0
  else if s.jobState = jMANIFEST || s.jobState = jARMED then
    Dev.launchDrop { s with cmds := [], dying := [] }
  else s

/-! ### Start-up (R531, Table 18-2) -/

/-- The Guard's wipe engine starts once the on-chip SRAM and HBM3E have been zeroed and a lifecycle change is pending; it
trains both downstream ports itself (R546). -/
def Dev.wipeStart (s : Dev) : Dev :=
  if s.grd.lcTarget.isNone || !s.grd.sram || !s.grd.hbm || s.flag Reg.GRD_BOOTSTAT 10 then s
  else
    let s := (s.setFlag Reg.GRD_BOOTSTAT 10 true).setGrd fun g => { g with wiping := true }
    s.each ((List.range 2).filter fun q => s.pwr.gated.contains (.dsPort q)) Dev.dsRelease

/-- SRAM_ZERO_DONE: the header has been read by then, so STATE reads LOADING. -/
def execSramZeroDone (s : State) : Host.Outcome State Fault Refusal := s.guard fun s =>
  if !s.bootOk || s.grd.sram then s
  else
    let s := { s with mem := s.mem.filter (fun c => decide (2 ≤ c.1 / 2 ^ 60)), bad := s.bad.filter fun l => decide (2 ≤ l.1 * 64 / 2 ^ 60) }
    let s := (s.setGrd fun g => { g with sram := true }).wipeStart
    if s.bootState = bsROM then s.setBoot bsLOADING else s

def flashDefault (_ : Nat) : Byte := 0
/-- `k` bytes of the flash from `n` on. -/
def Dev.flashBytes (s : Dev) (n k : Nat) : List Byte := (List.range k).map fun i => Sparse.get flashDefault s.grd.flash (n + i)
def Dev.flashNum (s : Dev) (n k : Nat) : Nat := leNat (s.flashBytes n k)

/-- BODYLEN is in range (Table 18-3). -/
def bodyLenOk (n : Nat) : Bool := decide (4096 ≤ n) && decide (n ≤ 33554432) && n % 4096 == 0

/-- The first bad field of the image header (check 2 of Table 18-4). -/
def Dev.headerBad (s : Dev) : Option Nat :=
  let zero (n k : Nat) : Bool := (s.flashBytes n k).all (· == 0)
  if s.grd.flashBad || s.flashNum 0 4 ≠ 0x5A534631 then some 0
  else if s.flashNum 4 4 ≠ 1 then some 4
  else if !zero 13 3 then some 13
  else if !bodyLenOk (s.flashNum 16 4) then some 16
  else if !zero 500 12 then some 500
  else if !zero 17120 3360 then some 17120
  else none

/-- The checks of Table 18-4 in its order, on what the flash holds, and the first that fails: its GUARD code and detail.
`readFail` is the flash address of a read that did not complete. -/
def Dev.imageCheck (s : Dev) (readFail : Option Nat) : Option (Nat × Nat) :=
  match readFail with
  | some a => some (7, a)
  | none =>
    match s.headerBad with
    | some n => some (1, n)
    | none =>
      let svn := s.flashNum 12 1
      let rsa := s.flashBytes 68 384
      let slh := s.flashBytes 452 48
      let rsaOff := sha384 rsa != s.grd.fwRsa
      let slhOff := sha384 slh != s.grd.fwSlh
      if rsaOff || slhOff then some (2, rsaOff.toNat + 2 * slhOff.toNat)
      else if !rsaVerify rsa (s.flashBytes 0 512) (s.flashBytes 512 384) then some (3, 0)
      else if !slhVerify slh (s.flashBytes 0 512) (s.flashBytes 896 16224) then some (4, 0)
      else if svn < s.fuseSvn then some (6, svn % 64 + s.fuseSvn * 2 ^ 8)
      else if sha384 (s.flashBytes 20480 (s.flashNum 16 4)) != s.flashBytes 20 48 then some (5, 0)
      else none

/-- IMAGE_VERIFY_DONE (R533, R536). -/
def execImageVerifyDone (readFail : Option Nat) (s : State) : Host.Outcome State Fault Refusal := s.guard fun s =>
  if !s.bootOk || s.bootState ≠ bsLOADING then s
  else match s.imageCheck readFail with
    | some (code, detail) =>
      ((s.record clsGUARD code detail 0 blkGRD 0).setFld Reg.GRD_BOOTSTAT 16 12 code).setBoot bsRECOVERY
    | none => (s.setGrd fun g => { g with image := s.flashBytes 0 512 }).setBoot bsVERIFYING

/-- FIRMWARE_VERIFIED (R531, R541, Table 10-4). -/
def execFirmwareVerified (s : State) : Host.Outcome State Fault Refusal := s.guard fun s =>
  if !s.bootOk || s.bootState ≠ bsVERIFYING then s
  else
    let im (n k : Nat) : Nat := leNat ((s.grd.image.drop n).take k)
    let s := (s.setReg Reg.GRD_FWVER (im 8 4)).setFld Reg.GRD_LIFECYCLE 16 6 (im 12 1)
    let s := s.setGrd fun g => { g with keys := g.keys || s.lifeState == lcMANUFACTURE }
    let s := (s.setFlag Reg.GRD_BOOTSTAT 8 true).setBoot bsTRAINING
    s.each (List.range 32) fun s h => if s.hState h = hsHOLD then s.hEnter h hsDISABLED 0 else s

/-- HBM_TRAINING_DONE; the memory is also trained for a pending lifecycle wipe where boot ends in RECOVERY or LOCKED (R546). -/
def execHbmTrainingDone (s : State) : Host.Outcome State Fault Refusal := s.guard fun s =>
  let st := s.bootState
  let other := (st == bsRECOVERY || st == bsLOCKED) && s.grd.lcTarget.isSome
  if !s.bootOk || s.grd.trained || !(st == bsTRAINING || other) then s
  else
    let s := s.setGrd fun g => { g with trained := true }
    if st = bsTRAINING then s.setBoot bsWIPING else s

/-- HBM_ZERO_DONE (R531, R546, R580). -/
def execHbmZeroDone (s : State) : Host.Outcome State Fault Refusal := s.guard fun s =>
  if !s.bootOk || !s.grd.trained || s.grd.hbm then s
  else
    let s := { s with mem := s.mem.filter (fun c => !(c.1 / 2 ^ 60 == 2)), bad := s.bad.filter fun l => !(l.1 * 64 / 2 ^ 60 == 2) }
    let s := (s.setGrd fun g => { g with hbm := true }).wipeStart
    s.each ((List.range 2).filter fun q => s.flag (Reg.HST_DSCTL q) 0 && s.pwr.gated.contains (.dsPort q)) Dev.dsRelease

/-- BOOT_READY (R531, R533): 900 ms have passed. -/
def execBootReady (s : State) : Host.Outcome State Fault Refusal := s.guard fun s =>
  if !s.bootOk then s
  else if s.bootState = bsWIPING && s.grd.sram && s.grd.hbm then
    ((s.setGrd fun g => { g with served := true }).setBoot bsREADY).setFlag Reg.HST_STAT 0 true
  else if s.bootState = bsRECOVERY then s.setGrd fun g => { g with served := true }
  else s

/-- LIFECYCLE_CXL_WIPE_DONE (R546): `bad` lists the ports with a frame that could not be written. DEDUCED (log entry 219): a
wipe that fails has not completed, so CXLWIPE stays 1 and no agent reaches the CXL tier until the next boot tries again. -/
def execLifecycleCxlWipeDone (bad : List Nat) (s : State) : Host.Outcome State Fault Refusal := s.guard fun s =>
  if !s.grd.wiping then s
  else
    let fails := (List.range 2).filter bad.contains
    let wiped (k : Nat) : Bool := (k / 2 ^ 60 == 3 && !fails.contains 0) || (k / 2 ^ 60 == 4 && !fails.contains 1)
    let s := { s with mem := s.mem.filter (fun c => !wiped c.1), bad := s.bad.filter fun l => !wiped (l.1 * 64) }
    let s := s.each fails fun s q => s.record clsGUARD 0x00D q 0 blkGRD 0
    let s := s.setGrd fun g => { g with wiping := false }
    let s := if fails.isEmpty then
        ((s.setGrd fun g => { g with lcTarget := none }).setFlag Reg.GRD_BOOTSTAT 9 false).setFlag Reg.GRD_BOOTSTAT 10 false
      else s
    s.each ((List.range 2).filter fun q => !s.flag (Reg.HST_DSCTL q) 0) Dev.dsHold

/-! ### Guard commands (R542, R543) -/

/-- The response to a Guard command; `err` is its GUARD code, 0 for none. -/
def Dev.gAnswer (s : Dev) (cmd status err : Nat) (data : List Byte) (signed : Option (List Byte)) : Dev :=
  let resp := leBytes 2 cmd ++ leBytes 1 status ++ leBytes 1 0 ++ leBytes 4 (if err = 0 then 0 else errId clsGUARD err)
    ++ List.replicate 56 0
  s.emit (.guard resp data signed)
def Dev.gDone (s : Dev) (cmd : Nat) : Dev := s.gAnswer cmd 0 0 [] none

/-- A Guard command refused (Table 18-13). -/
def Dev.gRefuse (s : Dev) (cmd status code : Nat) : Dev :=
  let detail := if code = 0x00A then cmd + s.lifeState * 2 ^ 16 else cmd
  (s.record clsGUARD code detail 0 blkGRD 0).gAnswer cmd status code [] none

def Dev.uid (s : Dev) : Nat := ((List.range 4).map fun i => s.reg (Reg.GRD_UID i) * 2 ^ (32 * i)).sum

/-- The response to a READ command: both signatures cover the challenge, the UID and the data (R543). -/
def Dev.gData (s : Dev) (cmd : Nat) (q : GReq) (data : List Byte) : Dev :=
  s.gAnswer cmd 0 0 data (some (leBytes 8 q.nonce.toNat ++ leBytes 16 s.uid ++ data))

/-- The I3C port's static address (R583). -/
def Dev.i3cAddr (s : Dev) : Nat := 0x50 + s.grd.straps.i3cAddr % 8

/-- A Guard command in the order of R543: signature, nonce, state, fields. Before the firmware is verified it is not
acknowledged (R532). `ok`: allowed in this state of boot and lifecycle; `bad`: a field of its payload is. -/
def Dev.gCmd (s : Dev) (cmd : Nat) (q : GReq) (signed : Bool) (states : List Nat) (ok bad : Bool) (f : Dev → Dev) : Dev :=
  if s.grd.stage ≠ .run || !s.grd.straps.coreclk || s.grd.straps.testen || q.addr ≠ s.i3cAddr then s
  else if s.bootState < bsTRAINING then s.emit .i3cNack
  else
    let drawn := if signed then s.drawNonce else s
    if signed && !q.sigOk then drawn.gRefuse cmd 1 0x008
    else if signed && q.nonce.toNat ≠ s.reg Reg.GRD_NONCE then drawn.gRefuse cmd 2 0x009
    else if !states.contains s.bootState || !ok then drawn.gRefuse cmd 3 0x00A
    else if q.len ≠ q.payload.length || !q.zeros || q.uid.toNat ≠ s.uid || bad then drawn.gRefuse cmd 4 0x00A
    else f drawn

/-- Bytes of the payload as a number. -/
def gNum (q : GReq) (n k : Nat) : Nat := leNat ((q.payload.drop n).take k)
def gLenNot (q : GReq) (n : Nat) : Bool := q.payload.length != n

/-- SET_LIMITS (R518). -/
def execSetLimits (q : GReq) (s : State) : Host.Outcome State Fault Refusal := s.guard fun s =>
  let sust := gNum q 0 2
  let fast := gNum q 2 2
  let win := gNum q 4 2
  let tj := gNum q 6 1
  let bad := gLenNot q 7 || decide (sust < 600) || decide (1900 < sust) || decide (fast < sust) || decide (1900 < fast)
    || win == 0 || decide (1000 < win) || decide (tj < 80) || decide (105 < tj)
  s.gCmd 0x0001 q true [bsREADY] true bad fun s =>
    ((s.setReg Reg.PWC_LIMIT (sust + fast * 2 ^ 11 + win * 2 ^ 22)).setFld Reg.PWC_THR 8 7 tj).gDone 0x0001

/-- The next lifecycle states (Table 18-7). -/
def lcNext (lc t : Nat) : Bool :=
  match lc with
  | 1 => t == lcPRODUCTION || t == lcDECOMMISSIONED
  | 2 => t == lcRMA || t == lcDECOMMISSIONED
  | 3 => t == lcDECOMMISSIONED
  | _ => false

/-- LIFECYCLE (R544, R545): steps 1 to 5; steps 6 and 7 follow at the boot after the cold reset. -/
def execLifecycle (q : GReq) (s : State) : Host.Outcome State Fault Refusal := s.guard fun s =>
  let t := gNum q 0 1
  let ok := lcNext s.lifeState t && (s.bootState == bsREADY || t == lcDECOMMISSIONED)
  let bad := gLenNot q (if t = lcPRODUCTION then 97 else 1)
  s.gCmd 0x0002 q true [bsREADY, bsRECOVERY] ok bad fun s =>
    let s := s.gDone 0x0002
    let s := if s.jobState = jRUNNING || s.jobState = jPREEMPTED then ((s.endJob false 0).scrub.seal 1).setJobState jIDLE else s
    let s := (s.setGrd fun g => { g with
      lcTarget := some t, ownHash := if t = lcPRODUCTION then some (q.payload.drop 1) else g.ownHash }).setFlag Reg.GRD_BOOTSTAT 9 true
    (s.lifecycleSteps t).coldReset 4

/-- SVN_COMMIT (R537). -/
def execSvnCommit (q : GReq) (s : State) : Host.Outcome State Fault Refusal := s.guard fun s =>
  let n := gNum q 0 1
  let bad := gLenNot q 1 || decide (n < s.fuseSvn) || decide (s.fld Reg.GRD_LIFECYCLE 16 6 < n)
  s.gCmd 0x0003 q true [bsREADY] true bad fun s => (s.setFld Reg.GRD_LIFECYCLE 8 6 n).gDone 0x0003

def imgHeader : Nat := 20480

/-- IMAGE_BEGIN (R538, R539). -/
def execImageBegin (q : GReq) (s : State) : Host.Outcome State Fault Refusal := s.guard fun s =>
  s.gCmd 0x0004 q true [bsREADY, bsRECOVERY] true (gLenNot q 4 || !bodyLenOk (gNum q 0 4)) fun s =>
    (s.setGrd fun g => { g with flash := [], flashBad := true, opened := some (q.ctl, 0, imgHeader + gNum q 0 4) }).gDone 0x0004

/-- IMAGE_BEGIN is open for a controller (R539). -/
def Dev.imgOpen (s : Dev) (ctl : Nat) : Bool := match s.grd.opened with | some (c, _, _) => c == ctl | none => false

/-- IMAGE_BLOCK (R538, R539). -/
def execImageBlock (q : GReq) (s : State) : Host.Outcome State Fault Refusal := s.guard fun s =>
  let room := match s.grd.opened with | some (_, n, len) => decide (n < len) | none => false
  s.gCmd 0x0005 q false [bsREADY, bsRECOVERY] (s.imgOpen q.ctl && room) (gLenNot q 4096) fun s =>
    match s.grd.opened with
    | some (c, n, len) =>
      let put (m : List Host.Cell) (x : Nat × Byte) : List Host.Cell := Sparse.put flashDefault m (n + x.1) x.2
      (s.setGrd fun g => { g with
        flash := ((List.range 4096).zip q.payload).foldl put g.flash, opened := some (c, n + 4096, len) }).gDone 0x0005
    | none => s

/-- IMAGE_END (R538, R539). -/
def execImageEnd (q : GReq) (readFail : Option Nat) (s : State) : Host.Outcome State Fault Refusal := s.guard fun s =>
  s.gCmd 0x0006 q false [bsREADY, bsRECOVERY] (s.imgOpen q.ctl) (gLenNot q 0) fun s =>
    match Dev.imageCheck (s.setGrd fun g => { g with flashBad := false }) readFail with
    | some (code, detail) =>
      (s.record clsGUARD code detail 0 blkGRD 0).gAnswer 0x0006 (1 + Config.imageEndStatus code % 5) code [] none
    | none => (s.setGrd fun g => { g with flashBad := false, opened := none }).gDone 0x0006

/-- FENCE_CLEAR (R547). -/
def execFenceClear (q : GReq) (s : State) : Host.Outcome State Fault Refusal := s.guard fun s =>
  s.gCmd 0x0007 q true [bsREADY, bsRECOVERY] true (gLenNot q 1 || decide (16 ≤ gNum q 0 1)) fun s =>
    (s.setGrd fun g => { g with clearing := g.clearing ||| gNum q 0 1 }).gDone 0x0007

/-- DEBUG_UNLOCK (R566). -/
def execDebugUnlock (q : GReq) (s : State) : Host.Outcome State Fault Refusal := s.guard fun s =>
  let rights := gNum q 0 1
  let job := gNum q 4 4
  let jobOk := if job = 0 then s.jobState == jIDLE
    else (s.jobState == jRUNNING || s.jobState == jPREEMPTED) && s.jobId == job
  s.gCmd 0x0008 q true [bsREADY] jobOk (gLenNot q 8 || decide (8 ≤ rights) || gNum q 1 3 != 0) fun s =>
    let s := s.setReg Reg.DBG_UNLOCK (rights + job * 2 ^ 32)
    (s.record clsGUARD 0x041 rights 0 blkGRD 0).gDone 0x0008

/-- COLD_RESET (R543): the reset follows 1 ms after the response. -/
def execColdReset (q : GReq) (s : State) : Host.Outcome State Fault Refusal := s.guard fun s =>
  s.gCmd 0x0009 q true [bsTRAINING, bsWIPING, bsREADY, bsRECOVERY, bsTRIPPED] true (gLenNot q 0) fun s =>
    (s.setGrd fun g => { g with coldWait := true }).gDone 0x0009

/-- COLD_RESET_DELAY_EXPIRE (R543). -/
def execColdResetDelayExpire (s : State) : Host.Outcome State Fault Refusal := s.guard fun s =>
  if s.grd.coldWait then Dev.coldReset (s.setGrd fun g => { g with coldWait := false }) 4 else s

/-- READ_METERS (R543). -/
def execReadMeters (q : GReq) (s : State) : Host.Outcome State Fault Refusal := s.guard fun s =>
  s.gCmd 0x0080 q false [bsREADY] true (gLenNot q 0) fun s =>
    let ms := (List.range 8).flatMap fun i => leBytes 8 (s.reg (Reg.GRD_MTR_RUNNS + 8 * i))
    s.gData 0x0080 q (ms ++ leBytes 8 (s.reg Reg.GRD_JOBID))

/-- The 128 bytes of a meter log entry (Table 18-9). -/
def MeterEntry.bytes (e : MeterEntry) : List Byte :=
  leBytes 4 e.seq ++ leBytes 4 e.jobid ++ leBytes 4 e.acct ++ leBytes 1 e.ended ++ leBytes 1 e.epoch ++ leBytes 2 0
    ++ leBytes 4 e.ordseq ++ leBytes 4 0 ++ leBytes 8 e.tgo.toNat ++ leBytes 8 e.tend.toNat
    ++ e.meters.flatMap (fun m => leBytes 8 m.toNat) ++ List.replicate 24 0

/-- READ_METERLOG (R548). -/
def execReadMeterlog (q : GReq) (s : State) : Host.Outcome State Fault Refusal := s.guard fun s =>
  s.gCmd 0x0081 q false [bsREADY] true (gLenNot q 0) fun s =>
    s.gData 0x0081 q (s.grd.meterLog.flatMap MeterEntry.bytes)

def Dev.fenceBytes (s : Dev) : List Byte := s.grd.fence.flatMap (leBytes 4)

/-- READ_FENCE (R543, R547). -/
def execReadFence (q : GReq) (s : State) : Host.Outcome State Fault Refusal := s.guard fun s =>
  s.gCmd 0x0082 q false [bsREADY, bsRECOVERY] true (gLenNot q 0) fun s => s.gData 0x0082 q s.fenceBytes

/-! ### Attestation (R549). Codes and field layouts are those of SPDM 1.3. -/

/-- An SPDM message: version 1.3, code, two parameters, and what follows. -/
def spdmMsg (code p1 p2 : Nat) (bs : List Byte) : List Byte := [0x13, BitVec.ofNat 8 code, BitVec.ofNat 8 p1, BitVec.ofNat 8 p2] ++ bs

/-- An SPDM request: answered, or with ERROR Unspecified in the states of R549. -/
def Dev.spdmReq (s : Dev) (f : Dev → Dev) : Dev :=
  if s.grd.stage ≠ .run || s.grd.straps.testen then s
  else if [bsROM, bsLOADING, bsVERIFYING, bsRECOVERY, bsLOCKED].contains s.bootState then s.emit (.spdm 0x7F [0x05, 0] none)
  else f s

/-- ERROR InvalidRequest. -/
def Dev.spdmInvalid (s : Dev) : Dev := s.emit (.spdm 0x7F [0x01, 0] none)

/-- A response without a signature. -/
def Dev.spdmAnswer (s : Dev) (code : Nat) (bs : List Byte) : Dev := s.emit (.spdm code bs none)
/-- A response that the RSA identity key signs, over a transcript (R549). -/
def Dev.spdmSigned (s : Dev) (code : Nat) (bs transcript : List Byte) : Dev :=
  (s.setGrd fun g => { g with spdmLast := some transcript }).emit (.spdm code bs (some transcript))

/-- A request and its response join the transcript: A of the version, capabilities and algorithms, B of the certificates. -/
def Dev.spdmNoteA (s : Dev) (req resp : List Byte) : Dev := s.setGrd fun g => { g with spdmA := g.spdmA ++ req ++ resp }
def Dev.spdmNoteB (s : Dev) (req resp : List Byte) : Dev := s.setGrd fun g => { g with spdmB := g.spdmB ++ req ++ resp }

/-- 32 bytes of the entropy source. -/
def Dev.spdmNonce (s : Dev) : Dev × List Byte :=
  (s.setGrd fun g => { g with draws := g.draws + 4 },
    (List.range 4).flatMap fun i => leBytes 8 (Config.entropy (s.grd.draws + i)).toNat)

/-- GET_VERSION begins a new transcript. -/
def execGetVersion (s : State) : Host.Outcome State Fault Refusal := s.guard fun s =>
  s.spdmReq fun s =>
    let s := s.setGrd fun g => { g with spdmA := [], spdmB := [], spdmM := [] }
    (s.spdmNoteA (spdmMsg 0x84 0 0 []) (spdmMsg 0x04 0 0 [0x13])).spdmAnswer 0x04 [0x13]

/-- CERT_CAP, CHAL_CAP, MEAS_CAP with signatures, and CTExponent 21. -/
def execGetCapabilities (s : State) : Host.Outcome State Fault Refusal := s.guard fun s =>
  s.spdmReq fun s =>
    let bs := [21] ++ leBytes 4 0x16
    (s.spdmNoteA (spdmMsg 0xE1 0 0 []) (spdmMsg 0x61 0 0 bs)).spdmAnswer 0x61 bs

/-- TPM_ALG_RSAPSS_3072 (bit 3) and TPM_ALG_SHA_384 (bit 1) of what the requester offers. -/
def execNegotiateAlgorithms (asym hash : Nat) (s : State) : Host.Outcome State Fault Refusal := s.guard fun s =>
  s.spdmReq fun s =>
    let bs := leBytes 4 (asym &&& 8) ++ leBytes 4 (hash &&& 2)
    (s.spdmNoteA (spdmMsg 0xE3 0 0 (leBytes 4 asym ++ leBytes 4 hash)) (spdmMsg 0x63 0 0 bs)).spdmAnswer 0x63 bs

def execGetDigests (s : State) : Host.Outcome State Fault Refusal := s.guard fun s =>
  s.spdmReq fun s =>
    let bs := sha384 (Config.certChain 0) ++ sha384 (Config.certChain 1)
    (s.spdmNoteB (spdmMsg 0x81 0 0 []) (spdmMsg 0x01 0 3 bs)).spdmAnswer 0x01 bs

def execGetCertificate (slot off len : Nat) (s : State) : Host.Outcome State Fault Refusal := s.guard fun s =>
  s.spdmReq fun s =>
    if 2 ≤ slot then s.spdmInvalid
    else
      let bs := ((Config.certChain slot).drop off).take len
      (s.spdmNoteB (spdmMsg 0x82 slot 0 (leBytes 2 off ++ leBytes 2 len)) (spdmMsg 0x02 slot 0 bs)).spdmAnswer 0x02 bs

/-- CHALLENGE: the response carries the hash of the chain and a nonce of the device, and its signature covers the transcript of
A, B and this exchange, which R549's second signature may be asked over. -/
def execChallenge (slot : Nat) (nonce : List Byte) (s : State) : Host.Outcome State Fault Refusal := s.guard fun s =>
  s.spdmReq fun s =>
    if 2 ≤ slot then s.spdmInvalid
    else
      let (s, mine) := s.spdmNonce
      let bs := sha384 (Config.certChain slot) ++ mine ++ leBytes 2 0
      s.spdmSigned 0x03 bs (s.grd.spdmA ++ s.grd.spdmB ++ spdmMsg 0x83 slot 0 nonce ++ spdmMsg 0x03 slot 1 bs)

/-- The SHA-384 of measurement block `i` (Table 18-10). -/
def Dev.measure (s : Dev) (i : Nat) : List Byte :=
  match i with
  | 1 => sha384 Config.guardRom
  | 2 => sha384 s.grd.image
  | 3 => (s.grd.image.drop 20).take 48
  | 4 => sha384 (leBytes 4 (s.reg Reg.GRD_LIFECYCLE) ++ leBytes 1 (s.fld Reg.GRD_LIFECYCLE 16 6))
  | 5 => sha384 s.fenceBytes
  | _ => sha384 (leBytes 4 (s.reg Reg.PWC_LIMIT) ++ leBytes 1 (s.fld Reg.PWC_THR 8 7))

/-- GET_MEASUREMENTS: index 0 asks for their number, 0xFF for all. A signed response covers A and every exchange of
measurements since the last signed one. -/
def execGetMeasurements (idx : Nat) (sign : Bool) (nonce : List Byte) (s : State) : Host.Outcome State Fault Refusal :=
  s.guard fun s => s.spdmReq fun s =>
    let block (i : Nat) : List Byte := leBytes 1 i ++ s.measure i
    let some_ := decide (idx ≤ 6) || idx == 0xFF
    if !some_ then s.spdmInvalid
    else
      let blocks := if idx = 0 then [6] else if idx = 0xFF then ((List.range 6).map (· + 1)).flatMap block else block idx
      let (s, mine) := s.spdmNonce
      let bs := blocks ++ mine ++ leBytes 2 0
      let s := s.setGrd fun g => { g with
        spdmM := g.spdmM ++ spdmMsg 0xE0 sign.toNat idx (if sign then nonce else []) ++ spdmMsg 0x60 0 0 bs }
      if sign then (s.setGrd fun g => { g with spdmM := [] }).spdmSigned 0x60 bs (s.grd.spdmA ++ s.grd.spdmM)
      else s.spdmAnswer 0x60 bs

/-- Ziholt's request for the SLH-DSA signature over the transcript last signed. -/
def execSlhSignatureRequest (s : State) : Host.Outcome State Fault Refusal := s.guard fun s =>
  s.spdmReq fun s => match s.grd.spdmLast with
    | some t => s.emit (.slh t)
    | none => s.spdmInvalid

end Sys2Proof.Machine
end

