-- ==== Sys2Proof/Machine/Debug.lean ====
section
/-! DEFINITION. The Harness port (R564 to R570). -/
namespace Sys2Proof.Machine

/-- STATUS of a Harness response (Table 19-5). -/
def hsOK : Nat := 0
def hsLOCKED : Nat := 1
def hsABSENT : Nat := 2
def hsNOTHALTED : Nat := 3
def hsBADREQ : Nat := 4
def hsFAULT : Nat := 5
def hsTIMEOUT : Nat := 6
def hsGONE : Nat := 7

/-- A request is answered (R564, R565): it counts, and none is under way. -/
def Dev.hAnswer (s : Dev) (status : Nat) (data : Word64) : Dev :=
  ((s.bump Reg.DBG_CNT_REQ 1).setDbg fun h => { h with busy := none }).emit (.harness status data)

/-- An operation that runs and is answered later: its target. -/
def Dev.hWait (s : Dev) (target : Nat) : Dev := s.setDbg fun h => { h with busy := some target }

/-- A held-over operation of a target is done: it is answered unless its response is lost (R564, R565). -/
def Dev.hDone (s : Dev) (target status : Nat) : Dev :=
  if s.dbg.busy = some target then s.hAnswer status 0 else s

/-- A request without its right is answered LOCKED; the first one since DBG_CNT_LOCKED was read is recorded (R566). -/
def Dev.hLocked (s : Dev) (op : Nat) (q : HReq) : Dev :=
  let first := !s.dbg.lockRec
  let s := (s.bump Reg.DBG_CNT_LOCKED 1).setDbg fun h => { h with lockRec := true }
  let s := if first then s.record clsGUARD 0x040 (op % 2 ^ 8 + q.target % 2 ^ 8 * 2 ^ 8) 0 blkGRD 0 else s
  s.hAnswer hsLOCKED 0

/-- A target as TARGET codes it (Table 19-4). -/
inductive HTarget where
  | core (n : Nat)
  | seq (n : Nat)
  | none
  | reserved
deriving DecidableEq, Repr

def hTarget (t : Nat) : HTarget :=
  if t < 8 then .core t else if 0x40 ≤ t && t < 0x80 then .seq (t - 0x40) else if t = 0xFF then .none else .reserved

/-- A target is absent (Table 19-5): the device does not run, the core is power-gated, or the Coach is not in service. -/
def Dev.hAbsent (s : Dev) : HTarget → Bool
  | .core n => !s.alive || s.pwr.gated.contains (.core n)
  | .seq n => !s.alive || !s.coachOn n
  | _ => true

def Dev.coreHalted (s : Dev) (n : Nat) : Bool := s.flag Reg.DBG_CORES n

/-- The port takes requests: reset is released, the device has not tripped, and it is not decommissioned (R565, Table 20-7). -/
def Dev.hOpen (s : Dev) : Bool := s.grd.stage == .run && s.pwr.trip == 0 && s.lifeState != lcDECOMMISSIONED

/-- A request comes by the row of operation `op`: HSEL_N is low, and an open port takes it. A reserved OP needs no right and is
BADREQ by whichever row it comes; one with the OP of another row is that row's. -/
def Dev.hTake (s : Dev) (op : Nat) (q : HReq) (f : Dev → Dev) : Dev :=
  let s := s.setDbg fun h => { h with sel := true }
  if !s.hOpen then s
  else if q.op % 256 = 0 || 0x0A < q.op % 256 then s.hAnswer hsBADREQ 0
  else if q.op % 256 = op then f s
  else s

/-- A request of operation `op` that needs right `right` (bit of DBG_UNLOCK.RIGHTS) is checked; `f` runs for one that holds
its right and has no reserved bit set. -/
def Dev.hRequest (s : Dev) (op right : Nat) (q : HReq) (f : Dev → Dev) : Dev := s.hTake op q fun s =>
  if !s.flag Reg.DBG_UNLOCK right then s.hLocked op q
  else if q.rsv % 2 ^ 7 ≠ 0 then s.hAnswer hsBADREQ 0
  else f s

/-- The sequencer of a Coach whose control domain is power-gated is woken by a request (R570). -/
def Dev.hWake (s : Dev) (n : Nat) : Dev :=
  if s.fld (Reg.CCH_CSTAT n) 0 3 == csPGATED && !s.pwr.awake.contains n then
    (s.bump Reg.PWC_CNT_PGWAKE 1).setPwr fun p => { p with awake := p.awake ++ [n] }
  else s

/-- An operation on a core or a sequencer: another target is BADREQ, an absent one ABSENT. A sequencer whose control domain
is power-gated is woken first (R570). -/
def Dev.hOn (s : Dev) (q : HReq) (core seq : Nat → Dev → Dev) : Dev :=
  match hTarget q.target with
  | .core n => if s.hAbsent (.core n) then s.hAnswer hsABSENT 0 else core n s
  | .seq n =>
    if s.hAbsent (.seq n) then s.hAnswer hsABSENT 0
    else
      seq n (s.hWake n)
  | _ => s.hAnswer hsBADREQ 0

/-- Registers of a core become unknown: a free value each, of the next draw. -/
def Dev.coreRan (s : Dev) (n : Nat) : Dev := s.setDbg fun h => { h with
  coreRuns := h.coreRuns + 1
  coreAt := (n, h.coreRuns + 1) :: h.coreAt.filter (fun x => x.1 != n)
  coreRegs := h.coreRegs.filter fun x => x.1 / 64 != n }

/-- Register `idx` of core `n`. -/
def Dev.coreReg (s : Dev) (n idx : Nat) : Word64 :=
  match s.dbg.coreRegs.find? fun x => x.1 == 64 * n + idx with
  | some x => x.2
  | none => Config.coreWord n idx (((s.dbg.coreAt.find? fun x => x.1 == n).map (·.2)).getD 0)

/-- The halt of a sequencer whose instance has ended since (R570). -/
def Dev.seqGone (s : Dev) (n : Nat) : Bool := !s.seqHalted n && s.dbg.halts.any fun h => h.1 == n

/-- The sequencer of Coach n halts, with the instance that it has. -/
def Dev.seqHalt (s : Dev) (n : Nat) : Dev :=
  let g := (s.instOn n).map (·.1)
  s.setDbg fun h => { h with
    halts := h.halts.filter (fun x => x.1 != n) ++ [(n, g)]
    halting := h.halting.filter (· != n) }

/-- The instance on Coach n has an armed command or control operation, or one that is being killed. -/
def Dev.seqBusy (s : Dev) (n : Nat) : Bool :=
  match s.instOn n with
  | some (g, _, i) => !(s.instCmds g n).isEmpty || !(s.instDying g n).isEmpty || i.ctl != 0
  | none => false

/-- HARNESS_DESELECT (R564): an operation under way goes on, and its response is lost. -/
def execHarnessDeselect (s : State) : Host.Outcome State Fault Refusal := s.guard fun s =>
  s.setDbg fun h => { h with busy := none, sel := false }

/-- HARNESS_TIMEOUT (R565). -/
def execHarnessTimeout (s : State) : Host.Outcome State Fault Refusal := s.guard fun s =>
  if s.hOpen && s.dbg.busy.isSome then s.hAnswer hsTIMEOUT 0 else s

/-- HARNESS_STATUS: it needs no right, and wakes a sequencer as any request does. -/
def execHarnessStatus (q : HReq) (s : State) : Host.Outcome State Fault Refusal := s.guard fun s => s.hTake 0x01 q fun s =>
  let t := hTarget q.target
  let rights := s.fld Reg.DBG_UNLOCK 0 3
  let answer (st : Nat) (s : Dev) : Dev := s.hAnswer hsOK (BitVec.ofNat 64 (st + 4 * rights))
  if q.rsv % 2 ^ 7 ≠ 0 || t == .reserved then s.hAnswer hsBADREQ 0
  else if s.hAbsent t then answer 2 s
  else match t with
    | .core n => answer (s.coreHalted n).toNat s
    | .seq n => answer (s.seqHalted n).toNat (s.hWake n)
    | _ => answer 2 s

/-- HARNESS_HALT (R567). -/
def execHarnessHalt (q : HReq) (s : State) : Host.Outcome State Fault Refusal := s.guard fun s =>
  s.hRequest 0x02 0 q fun s => s.hOn q
    (fun n s =>
      if s.coreHalted n then s.hAnswer hsOK 0
      else ((s.setFlag Reg.DBG_CORES n true).coreRan n).hAnswer hsOK 0)
    (fun n s =>
      if s.seqHalted n then s.hAnswer hsOK 0
      else if s.seqBusy n then
        (s.setDbg fun h => { h with halting := h.halting.filter (· != n) ++ [n] }).hWait q.target
      else (s.seqHalt n).hAnswer hsOK 0)

/-- HARNESS_RESUME: the target runs again, past the breakpoint at which it stands. -/
def execHarnessResume (q : HReq) (s : State) : Host.Outcome State Fault Refusal := s.guard fun s =>
  s.hRequest 0x03 0 q fun s => s.hOn q
    (fun n s => if s.coreHalted n then ((s.setFlag Reg.DBG_CORES n false).coreRan n).hAnswer hsOK 0 else s.hAnswer hsOK 0)
    (fun n s =>
      let past := match s.seqPos n with
        | some a => s.seqBp n a.addr
        | none => false
      let s := s.setDbg fun h => { h with
        halts := h.halts.filter fun x => x.1 != n
        halting := h.halting.filter (· != n)
        steps := h.steps.filter fun x => x.1 != n
        passes := if past then h.passes.filter (· != n) ++ [n] else h.passes }
      s.hAnswer hsOK 0)

/-- HARNESS_STEP (R568): a core executes one instruction; a sequencer may arm one entry, and its answer follows. -/
def execHarnessStep (q : HReq) (s : State) : Host.Outcome State Fault Refusal := s.guard fun s =>
  s.hRequest 0x04 0 q fun s => s.hOn q
    (fun n s => if s.coreHalted n then (s.coreRan n).hAnswer hsOK 0 else s.hAnswer hsNOTHALTED 0)
    (fun n s =>
      if s.seqGone n then s.hAnswer hsGONE 0
      else if !s.seqHalted n then s.hAnswer hsNOTHALTED 0
      else (s.setDbg fun h => { h with steps := h.steps.filter (fun x => x.1 != n) ++ [(n, false)] }).hWait q.target)

/-- HARNESS_BPSET: slots 0 to 3 on a core, 0 to 1 on a sequencer. -/
def execHarnessBpset (q : HReq) (s : State) : Host.Outcome State Fault Refusal := s.guard fun s =>
  s.hRequest 0x05 0 q fun s =>
    let put (slots : Nat) (s : Dev) : Dev :=
      if slots ≤ q.idx then s.hAnswer hsBADREQ 0
      else
        let s := s.setDbg fun h => { h with
          bps := h.bps.filter (fun b => !(b.1 == q.target && b.2.1 == q.idx)) ++ [(q.target, q.idx, q.addr.toNat)] }
        s.hAnswer hsOK 0
    s.hOn q (fun _ s => put 4 s) (fun _ s => put 2 s)

/-- HARNESS_BPCLR. -/
def execHarnessBpclr (q : HReq) (s : State) : Host.Outcome State Fault Refusal := s.guard fun s =>
  s.hRequest 0x06 0 q fun s =>
    let drop (slots : Nat) (s : Dev) : Dev :=
      if slots ≤ q.idx then s.hAnswer hsBADREQ 0
      else
        let s := s.setDbg fun h => { h with bps := h.bps.filter fun b => !(b.1 == q.target && b.2.1 == q.idx) }
        s.hAnswer hsOK 0
    s.hOn q (fun _ s => drop 4 s) (fun _ s => drop 2 s)

/-- How the instance state stands, as the coding numbers it. -/
def instAtNum : InstAt → Nat
  | .entry => 0
  | .waiting _ _ => 1
  | .signal _ _ => 2
  | .taking _ => 3
  | .killed => 4

/-- A sequencer register: ENTRY, the instance state, the current work index. -/
def Dev.seqReg (s : Dev) (n idx : Nat) : Word64 :=
  match idx, s.instOn n with
  | 0, some (_, r, i) => BitVec.ofNat 64 (r.entryAddr i)
  | 1, some (_, _, i) => Config.instStateCode (instAtNum i.doing)
  | 1, none => Config.instStateCode 5
  | 2, some (_, _, ⟨_, _, _, some w, _, _⟩) => BitVec.ofNat 64 w.index
  | _, _ => Config.idleSeqWord n idx s.dbg.coreRuns

/-- HARNESS_RDREG (R566, R570). -/
def execHarnessRdreg (q : HReq) (s : State) : Host.Outcome State Fault Refusal := s.guard fun s =>
  s.hRequest 0x07 0 q fun s => s.hOn q
    (fun n s =>
      if 33 < q.idx then s.hAnswer hsBADREQ 0
      else if !s.coreHalted n then s.hAnswer hsNOTHALTED 0
      else s.hAnswer hsOK (s.coreReg n q.idx))
    (fun n s =>
      if 2 < q.idx then s.hAnswer hsBADREQ 0
      else if s.seqGone n then s.hAnswer hsGONE 0
      else if !s.seqHalted n then s.hAnswer hsNOTHALTED 0
      else (s.setDbg fun h => { h with coreRuns := h.coreRuns + 1 }).hAnswer hsOK (s.seqReg n q.idx))

/-- HARNESS_WRREG: a register of a core. -/
def execHarnessWrreg (q : HReq) (s : State) : Host.Outcome State Fault Refusal := s.guard fun s =>
  s.hRequest 0x08 0 q fun s => s.hOn q
    (fun n s =>
      if 33 < q.idx then s.hAnswer hsBADREQ 0
      else
        let k := 64 * n + q.idx
        let s := s.setDbg fun h => { h with coreRegs := h.coreRegs.filter (fun x => x.1 != k) ++ [(k, q.data)] }
        s.hAnswer hsOK 0)
    (fun _ s => s.hAnswer hsBADREQ 0)

/-- Eight bytes as the port reads them: those of a held region are unspecified (R569). -/
def Dev.hRead (s : Dev) (k : Nat) (bs : List Byte) : Dev :=
  let bs := s.heldBytes k bs
  s.readDone.hAnswer hsOK (BitVec.ofNat 64 (leNat bs))

/-- The memory can be reached: the on-chip SRAM and HBM3E have been zeroed since the last reset (R532). Before that an access
is answered FAULT (DESIGN CHOICE, log entry 190: no STATUS is named for it). -/
def Dev.memOpen (s : Dev) : Bool := s.grd.sram && s.grd.hbm

/-- The Coach whose store SPACE = 1 reaches: that of a sequencer target. -/
def Dev.hStore (s : Dev) (q : HReq) (f : Nat → Dev → Dev) : Dev :=
  match hTarget q.target with
  | .seq _ => s.hOn q (fun _ s => s) fun n s => if s.memOpen then f n s else s.hAnswer hsFAULT 0
  | _ => s.hAnswer hsBADREQ 0

/-- An access to a job address, translated as R271 states, with the snoop that R446 asks for. -/
def Dev.hJob (s : Dev) (q : HReq) (wr : Bool) (f : Dev → Dev) : Dev :=
  if hTarget q.target = .reserved then s.hAnswer hsBADREQ 0
  else if !s.memOpen then s.hAnswer hsFAULT 0
  else
    let a := q.addr.toNat
    match s.xlate a wr with
    | .bad _ => s.hAnswer hsFAULT 0
    | .key k =>
      let (s, ok) := if wr then (s, s.lineOf k != .poison) else s.lineRead false 0 a k
      let s := (s.touch a 8).snooped wr a 8
      if ok then f (if wr then s else s.lentNeed 0 ((s.lentLines a 8).map (·.1))) else s.hAnswer hsFAULT 0

/-- HARNESS_RDMEM (R569). An uncorrectable error of a Coach store is answered FAULT and has no other effect. -/
def execHarnessRdmem (q : HReq) (s : State) : Host.Outcome State Fault Refusal := s.guardUnit fun s =>
  s.hRequest 0x09 1 q fun s =>
    let a := q.addr.toNat
    if a % 8 ≠ 0 then s.hAnswer hsBADREQ 0
    else if q.space then s.hStore q fun n s =>
      if csSize < a + 8 then s.hAnswer hsFAULT 0
      else
        if (s.csBad n [(a, 8)] .ue).isEmpty then (s.csCheck n 0 [(a, 8)]).1.hRead (csKey n a) (s.rdBytes (csKey n a) 8)
        else s.hAnswer hsFAULT 0
    else s.hJob q false fun s => s.hRead (jobKey a) (s.lentBytes 0 a (s.hostBytes a (s.rdJob a 8)))

/-- HARNESS_WRMEM (R569). -/
def execHarnessWrmem (q : HReq) (s : State) : Host.Outcome State Fault Refusal := s.guardUnit fun s =>
  s.hRequest 0x0A 2 q fun s =>
    let a := q.addr.toNat
    let bs := leBytes 8 q.data.toNat
    if a % 8 ≠ 0 then s.hAnswer hsBADREQ 0
    else if q.space then s.hStore q fun n s =>
      if csSize < a + 8 then s.hAnswer hsFAULT 0 else (s.csWrite n a bs).hAnswer hsOK 0
    else s.hJob q true fun s => (s.jobWrite 0 a bs).hAnswer hsOK 0

/-- SEQUENCER_HALT_COMPLETE (R567, R568): what the instance has armed is done, so the HALT of its sequencer completes, or
its STEP. -/
def execSequencerHaltComplete (n : Nat) (s : State) : Host.Outcome State Fault Refusal := s.upd fun s =>
  if s.seqBusy n then s
  else if s.dbg.steps.contains (n, true) then
    let gone := !s.seqHalted n
    (s.setDbg fun h => { h with steps := h.steps.filter fun x => x.1 != n }).hDone (0x40 + n) (if gone then hsGONE else hsOK)
  else if s.dbg.halting.contains n then (s.seqHalt n).hDone (0x40 + n) hsOK
  else s

/-- BREAKPOINT_HIT (R567): before the instruction or entry at a breakpoint's address; a core that halts has it in its program
counter. -/
def execBreakpointHit (target : Nat) (s : State) : Host.Outcome State Fault Refusal := s.upd fun s =>
  match hTarget target with
  | .core n =>
    match s.dbg.bps.filter fun b => b.1 == target with
    | [] => s
    | b :: bs =>
      if s.hAbsent (.core n) || s.coreHalted n then s
      else
        let s := (s.setFlag Reg.DBG_CORES n true).coreRan n
        let x := ((b :: bs)[Config.breakpointHit n s.dbg.coreRuns % (bs.length + 1)]?).getD b
        s.setDbg fun h => { h with coreRegs := h.coreRegs ++ [(64 * n + 32, BitVec.ofNat 64 x.2.2)] }
  | .seq n =>
    match s.seqPos n with
    | none => s
    | some q =>
      if !s.seqBp n q.addr || s.dbg.passes.contains n || s.seqHalted n || s.dbg.steps.any (fun x => x.1 == n) then s
      else s.seqHalt n
  | _ => s

end Sys2Proof.Machine
end

