-- ==== Sys2Proof/Machine/Base.lean ====
section
/-! DEFINITION. Register accesses: what a read shows (R13, R14, R18, R19, R503), writes of registers in words and halves,
misaligned accesses, counters whose read lets an error be recorded again, and ERR_HEAD (R557). -/
namespace Sys2Proof.Machine

/-! ### What a register shows -/

/-- The group-table entry that COL registers of index `i` show. -/
def Dev.groupSlot (s : Dev) (i : Nat) : Option Group := s.col.groups.find? fun g => g.slot == i

/-- COL_GID to COL_GQ of a group (Table 13-11), by offset within the entry. -/
def Dev.groupView (s : Dev) (g : Group) (o : Nat) : Nat :=
  match o with
  | 0x00 => g.gid + g.state * 2 ^ 16 + (if g.state = gFORMING then 0 else g.level * 2 ^ 24)
  | 0x04 => g.n
  | 0x08 => g.rank + g.eager * 2 ^ 16
  | 0x0C => g.digest
  | 0x10 => ((List.range 4).map fun k => nth g.seqs k 0 % 2 ^ 16 * 2 ^ (16 * k)).sum
  | 0x18 => g.reserve / 4096 * 4096
  | 0x20 => g.queue.length + s.active0 g.gid * 2 ^ 8 + s.groupHeld g.gid * 2 ^ 16
  | _ => 0

/-- Postilions as a map. -/
def mapOf (xs : List Nat) : Nat := ((List.range 64).map fun p => if xs.contains p then 2 ^ p else 0).sum

/-- The Postilions that hold a share of a routing pass in one of the stages that `p` names. -/
def Dev.sharePosts (s : Dev) (p : RStage → Bool) : List Nat :=
  s.cmds.flatMap fun c => match c.body with
    | .route r => if p r.stage then r.left.map (·.2) else []
    | _ => []
/-- The Postilions on which a share that `p` names is ready (R127). -/
def Dev.readyPosts (s : Dev) (p : Share → Bool) : List Nat :=
  (List.range 8).filter fun q => s.cmds.any fun c => (s.readyShare c q).any p
def isUnpack : Share → Bool
  | .unpack _ _ | .pack _ _ _ => true
  | _ => false
/-- The Postilions that have a returned record to combine. -/
def Dev.combinePosts (s : Dev) : List Nat := s.unread.map fun z => (s.recordPost z.1 z.2.1 z.2.2.1 z.2.2.2.2).2
def isRoute (c : Cmd) : Bool := match c.body with | .route _ => true | _ => false
def isSelect : RStage → Bool
  | .score | .hist | .histR | .tie | .tieR | .cap | .capR => true
  | _ => false

/-- Commands armed and not completed that satisfy `p`. -/
def Dev.countCmds (s : Dev) (p : Cmd → Bool) : Nat :=
  (s.cmds.filter p).length + (s.dying.filter fun x => p x.cmd).length

/-- What a read of the whole register at BAR0 offset `b` returns: what it holds, or what the device's state makes it show. A count
that is larger than its field shows the field's largest value (DESIGN CHOICE, log entries 200 and 233: INFLIGHT of PST_SELSTAT has
8 bits, and the spec does not bound the passes in flight). -/
def Dev.view (s : Dev) (b : Nat) : Nat :=
  let v := s.reg b
  let lo := b % 0x100000
  match b / 0x100000 with
  | 0 => s.grdShown b
  | 2 =>
    if 0x20 ≤ lo && lo < 0x40 then
      mapOf ((List.range 32).filter fun j => s.fld (Reg.HST_RSTAT (32 * ((lo - 0x20) / 4) + j)) 0 2 != 0)
    else if b = Reg.HST_LOOPSTAT then setBits v 8 17 s.sessActive
    else if 0x1000 ≤ lo && lo % 0x20 = 0x14 then
      let x := s.ring ((lo - 0x1000) / 0x20)
      v % 2 ^ 2 + min x.held.length 64 * 2 ^ 8 + min x.inflight 65535 * 2 ^ 16
    else v
  | 4 => if b = Reg.CCH_DET then s.teams else v
  | 5 =>
    if b = Reg.PST_SELSTAT then mapOf (s.sharePosts isSelect) + min (s.countCmds isRoute) 255 * 2 ^ 8
    else if b = Reg.PST_DSPSTAT then
      mapOf (s.sharePosts fun x => x == .count || x == .scatter) + mapOf (s.readyPosts isUnpack) * 2 ^ 8
        + mapOf s.combinePosts * 2 ^ 16
    else v
  | 7 => if b = Reg.LVY_STAT then s.livFree + s.livWaiting * 2 ^ 24 + s.livDry.toNat * 2 ^ 31 else v
  | 9 =>
    if b = Reg.MEM_FRAMES then s.usable
    else if b = Reg.MEM_FREE then s.freeFrames
    else if b = Reg.MEM_RETIRE then rsvdFrames + s.tiers.retired.length * 2 ^ 16
    else if 0x80 ≤ lo && lo < 0xA0 then s.poolUsed ((lo - 0x80) / 4)
    else v
  | 12 =>
    if b = Reg.TPK_TSYNC then setBit v 1 s.tsyncRef
    else if 0x100 ≤ lo && lo < 0x200 && lo % 0x20 = 4 && !s.gateEn ((lo - 0x100) / 0x20) then setBits v 16 8 0xFF
    else v
  | 13 =>
    if b = Reg.COL_STAT then s.col.groups.length + min (s.countCmds fun c => classOf (dOp c.desc) == 1) 255 * 2 ^ 8
    else if b = Reg.COL_GRPMAP then mapOf (s.col.groups.map (·.slot))
    else if 0x1000 ≤ lo then
      match s.groupSlot ((lo - 0x1000) / 0x40) with
      | some g => s.groupView g (lo % 0x40)
      | none => 0
    else v
  | 14 => if b = Reg.MMF_STAT then s.mmf.reqs.length + s.mmf.atoms.length * 2 ^ 16 else v
  | 16 =>
    if b = Reg.ERR_PSCNT then s.log.psafe.length
    else if 0x10000 ≤ lo then
      match Sparse.get logDefault s.log.slots ((lo - 0x10000) / 0x20) with
      | some r => leNat r.bytes
      | none => 0
    else if 0x1000 ≤ lo then
      match s.log.psafe[(lo - 0x1000) / 0x20]? with
      | some r => leNat r.bytes
      | none => 0
    else v
  | 17 =>
    if b = Reg.DBG_SEQHALT then mapOf ((List.range 64).filter s.seqHalted)
    else if b = Reg.DBG_PORT then s.dbg.sel.toNat
    else v
  | _ => v

/-- The register that covers the 32-bit word at a BAR0 offset: its base and width. -/
def coverReg (off : Nat) : Option (Nat × Nat) :=
  (List.range 8).findSome? fun i =>
    if 4 * i ≤ off then
      (findRow (off - 4 * i)).bind fun r => if 32 * i < r.width then some (off - 4 * i, r.width) else none
    else none

/-- The 32-bit word at a BAR0 offset. -/
def Dev.word (s : Dev) (off : Nat) : Nat :=
  match coverReg off with
  | some (b, _) => bits (s.view b) (8 * (off - b)) 32
  | none => 0

/-! ### Reads -/

/-- The read of an error-gating counter lets its error be recorded again (R334, R361, R387, R417, R445, R566). -/
def Dev.rearm (s : Dev) (b : Nat) : Dev :=
  if b = Reg.STG_CNT_CRC then { s with stg := { s.stg with onceCrc := [] } }
  else if b = Reg.STG_CNT_MALFORMED then { s with stg := { s.stg with onceMal := [] } }
  else if b = Reg.STG_CNT_MISDELIV then { s with stg := { s.stg with onceMis := [] } }
  else if b = Reg.STG_CNT_NOROUTE then { s with stg := { s.stg with onceNor := [] } }
  else if b = Reg.COL_CNT_LEVEL then { s with col := { s.col with onceLevel := false } }
  else if b = Reg.HST_CNT_HDMFAULT then s.setTiers fun t => { t with hdmRec := false }
  else if b = Reg.DBG_CNT_LOCKED then s.setDbg fun h => { h with lockRec := false }
  else
    match (List.range 32).find? fun h => b == Reg.HCH_CNT_OVERRUN h || b == Reg.TPK_CNT_RED h with
    | none => s
    | some h =>
      if b = Reg.HCH_CNT_OVERRUN h then s.setHitch h { s.hitch h with ovrRec := 0 }
      else { s with tpk := { s.tpk with onceRed := s.tpk.onceRed.filter fun k => k / 8 != h } }

/-- A 32-bit word read by an agent: the read of a low word latches the high word, which the next read of that high word
returns (R14). -/
def Dev.readWord (s : Dev) (ag : Agent) (off : Nat) : Dev × Nat :=
  match coverReg off with
  | none => (s, 0)
  | some (b, w) =>
    let v := s.word off
    let mine (l : Latch) : Bool := l.agent == ag && l.off == b
    if w ≠ 64 then (s.rearm b, v)
    else if off = b then
      let l : Latch := ⟨ag, b, s.word (b + 4)⟩
      ((Dev.rearm { s with rlatch := s.rlatch.filter (fun l => !mine l) ++ [l] } b), v)
    else
      match s.rlatch.find? mine with
      | some l => (Dev.rearm { s with rlatch := s.rlatch.filter fun l => !mine l } b, l.val)
      | none => (s.rearm b, v)

/-- An aligned read of 32 or 64 bits at a BAR0 offset, with the value returned. -/
def Dev.readReg (s : Dev) (ag : Agent) (off width : Nat) : Dev :=
  if width = 64 then
    let v := s.word off + s.word (off + 4) * 2 ^ 32
    let s := match coverReg off with | some (b, _) => s.rearm b | none => s
    let s := match coverReg (off + 4) with | some (b, _) => s.rearm b | none => s
    s.emit (.readData off (BitVec.ofNat 64 v))
  else
    let (s, v) := s.readWord ag off
    s.emit (.readData off (BitVec.ofNat 64 v))

/-- The registers that the Guard's I3C port shows (R532, R540, R583, R585, Table 17-4): GRD_BOOTSTAT wherever the port answers,
PWC_STAT of a tripped device, and every GRD register once the firmware is verified and memory is zeroed. -/
def Dev.i3cShows (s : Dev) (off : Nat) : Bool :=
  match s.grd.stage with
  | .off => false
  | .held _ => off == Reg.GRD_BOOTSTAT
  | .run => off == Reg.GRD_BOOTSTAT || (s.bootState == bsTRIPPED && off == Reg.PWC_STAT)
      || (s.alive && s.memOpen && s.bootOk && decide (off < 0x100000))

/-- An agent's accesses reach the register: the host's where BAR0 serves the offset, the Coachman complex's while the device
works, the Guard's while it runs, the board management controller's where the I3C port shows it at the address named. -/
def Dev.reaches (s : Dev) (ag : Agent) (off : Nat) : Bool :=
  match ag with
  | .host => s.barOpen off
  | .coachman => s.alive
  | .guard => s.grd.stage == .run && !s.grd.straps.testen
  | .bmc a => a == s.i3cAddr && s.i3cShows off

/-- An access that its target does not serve: a read by the host or a core returns 0, the I3C port does not acknowledge one made at
its address, and a device without supply answers nothing. -/
def Dev.unserved (s : Dev) (ag : Agent) (off : Nat) (wr : Bool) : Dev :=
  match ag with
  | .bmc a => if a = s.i3cAddr && s.grd.stage ≠ .off then s.emit .i3cNack else s
  | _ => if wr || s.grd.stage ≠ .run then s else s.emit (.readData off 0)

/-- A doorbell page's access of another size or alignment, or a misaligned access of BAR0 (R13, R591, R592). -/
def Dev.access5 (s : Dev) (bar off : Nat) : Dev :=
  if bar = 2 then s.record clsHOST 0x005 (off % 2 ^ 26 + 2 ^ 31) 0 blkHST (off / 4096)
  else s.record clsHOST 0x005 (off % 2 ^ 26) 0 (blockAt off) 0

/-- An access that is aligned to its width of 32 or 64 bits. -/
def alignedAccess (off width : Nat) : Bool := (width == 32 && off % 4 == 0) || (width == 64 && off % 8 == 0)

/-- The host's doorbells lie in BAR2 (R450): one page a ring, taken once HST_STAT.READY reads 1. -/
def Dev.bar2Open (s : Dev) (off : Nat) : Bool := s.alive && decide (off < 2 ^ 20) && s.flag Reg.HST_STAT 0

/-- The host reaches the CXL component registers of BAR4, 64 KiB (R443), where configuration requests complete. -/
def Dev.bar4Open (s : Dev) (off : Nat) : Bool :=
  s.grd.stage == .run && s.fld Reg.GRD_BOOTSTAT 0 4 != 8 && s.configOpen && decide (off < 2 ^ 16)

/-- The 32-bit word of the component registers at an offset: what it shows of what was last written is not given. -/
def Dev.compWord (s : Dev) (off : Nat) : Nat := Config.componentWord off (Sparse.get (fun _ => 0) s.comp off) % 2 ^ 32

/-- What a read of BAR2 or BAR4 returns, by its offset from the BAR (R443, R450): the doorbell value last accepted, or component
registers; 0 where the BAR is not served. -/
def Dev.barRead (s : Dev) (bar off width : Nat) : Nat :=
  if bar = 2 then (if s.bar2Open off then s.reg (2 ^ 32 + off) + (if width = 64 then s.reg (2 ^ 32 + off + 4) * 2 ^ 32 else 0) else 0)
  else if s.bar4Open off then s.compWord off + (if width = 64 then s.compWord (off + 4) * 2 ^ 32 else 0)
  else 0

/-- A read by rule. An offset from 2^32 on is one of BAR2, from 2^33 on one of BAR4; the other agents have no BAR. -/
def Dev.readAt (s : Dev) (ag : Agent) (off width : Nat) : Dev :=
  if !alignedAccess off width then s
  else if 2 ^ 32 ≤ off then
    (if ag = .host && s.grd.stage = .run then
      s.emit (.readData off (BitVec.ofNat 64 (if off < 2 ^ 33 then s.barRead 2 (off - 2 ^ 32) width
        else s.barRead 4 (off - 2 ^ 33) width)))
    else s)
  else if s.reaches ag off then s.readReg ag off width
  else s.unserved ag off false

/-- LOW_WORD_READ_LATCH (R14): a 32-bit read, low word or high. -/
def execLowWordReadLatch (ag : Agent) (off width : Nat) (s : State) : Host.Outcome State Fault Refusal := s.guard fun s =>
  s.readAt ag off width

/-- COUNTER_READ (R361 and its kin): the counter is read, and its error may be recorded again. -/
def execCounterRead (ag : Agent) (off width : Nat) (s : State) : Host.Outcome State Fault Refusal := s.guard fun s =>
  s.readAt ag off width

/-! ### Writes -/

/-- ERR_HEAD takes a slot of the span from HEAD to TAIL; another value is a reserved encoding (R18, R557). -/
def Dev.headWrite (s : Dev) (v : Nat) : Dev :=
  let head := s.fld Reg.ERR_HEAD 0 12
  let tail := s.fld Reg.ERR_TAIL 0 12
  let v := v % 4096
  if (tail + 4096 - head) % 4096 < (v + 4096 - head) % 4096 then s.record clsHOST 0x004 Reg.ERR_HEAD 0 (blockAt Reg.ERR_HEAD) 0
  else s.setReg Reg.ERR_HEAD v

/-- ERR_HEAD_WRITE (R557). -/
def execErrHeadWrite (v : Word32) (s : State) : Host.Outcome State Fault Refusal := s.guard fun s =>
  if s.alive || s.barOpen Reg.ERR_HEAD then s.headWrite v.toNat else s

/-- GCTL written (R382, R383): a write that is discarded arms and withdraws nothing. -/
def Dev.gctlWrite (s : Dev) (p v : Nat) : Dev :=
  let t := s.run (execGateListWrite (Reg.TPK_GCTL p) (BitVec.ofNat 64 v))
  if t.log.seq ≠ s.log.seq then t
  else
    let t := if bit v 1 then t.run (execGateArm p) else t
    if bit v 2 then t.run (execGateCancel p) else t

/-- HCH_PCTL written (Table 10-4, R339, R342). -/
def Dev.pctlWrite (s : Dev) (h v : Nat) : Dev :=
  let s := s.run (if bit v 0 then execHitchEnable h else execHitchDisable h)
  let s := if bit v 1 then s.run (execHitchRetrainRequest h) else s
  if bit v 2 then s.run (execHitchDeconfigure h) else s

/-- A whole register written by an agent. Registers whose write the table gives a row of its own take the effect of that row;
every other one takes the write field by field (R15 to R19). -/
def Dev.writeReg (s : Dev) (ag : Agent) (off v : Nat) : Dev :=
  let w := BitVec.ofNat 64 v
  let h : Word32 := BitVec.ofNat 32 v
  let lo := off % 0x100000
  match off / 0x100000 with
  | 2 =>
    if off = Reg.HST_SESSBASE || off = Reg.HST_SESSCFG then s.run (execSessionConfigWrite off w)
    else if off = Reg.HST_DSCTL 0 || off = Reg.HST_DSCTL 1 then
      let q := (off - Reg.HST_DSCTL 0) / 4
      s.run (if bit v 0 then execDsPortEnable q else execDsPortDisableWrite q)
    else if 0x1000 ≤ lo && lo < 0x3000 && (lo % 0x20 = 0 || lo % 0x20 = 8 || lo % 0x20 = 0x10) then
      s.run (execRingConfigWrite off w)
    else s.regWrite ag off v
  | 4 =>
    if off = Reg.CCH_IDLEFILL then s.run (execCchIdlefillWrite h)
    else if off = Reg.CCH_STEP then s.run (execCchStepWrite w)
    else if off = Reg.CCH_SEED then s.run (execCchSeedWrite h)
    else s.regWrite ag off v
  | 5 => if off = Reg.PST_CQHWM then (if bit v 31 then s.run execCqhwmClear else s) else s.regWrite ag off v
  | 6 =>
    if off = Reg.WYB_UPDGO then (if bit v 0 then s.run execWaybillUpdate else s)
    else if off = Reg.WYB_UPDIDX || (0x20 ≤ lo && lo < 0x30) then s.run (execWaybillRegWrite off h)
    else s.regWrite ag off v
  | 7 =>
    if off = Reg.LVY_CTL then s.run (if bit v 0 then execLiveryEnable else execLiveryDisable)
    else if off = Reg.LVY_CFG || off = Reg.LVY_WIN then s.run (execLiveryConfigWrite off w)
    else if off = Reg.LVY_LOWWM then (if bit v 31 then s.run execLowwmClear else s)
    else if off = Reg.LVY_ALLOC then (if bit v 0 then s.run execHostBarrowAlloc else s)
    else if off = Reg.LVY_FREE then s.run (execLvyFreeWrite w)
    else s.regWrite ag off v
  | 8 =>
    if off = Reg.DRY_TTCTL then
      let s := if bit v 0 then s.run execTimetableStart else s
      if bit v 1 then s.run execTimetableStop else s
    else if [Reg.DRY_TTBASE, Reg.DRY_TTCFG, Reg.DRY_TTLAPINC, Reg.DRY_TTDONE].contains off then
      s.run (execTimetableConfigWrite off w)
    else s.regWrite ag off v
  | 9 =>
    if off = Reg.MEM_PTUPDGO then
      s.run (if bit v 0 then (if bit v 1 then execPtEntryRead h else execPtEntryWrite h) else execPtRegWrite off h)
    else if off = Reg.MEM_PTUPDIDX || (0x10 ≤ lo && lo < 0x20) then s.run (execPtRegWrite off h)
    else if 0x40 ≤ lo && lo < 0x80 then (s.regWrite ag off v).pump
    else s.regWrite ag off v
  | 10 => if 0x1000 ≤ lo && lo < 0x3000 && lo % 0x100 = 0 then s.pctlWrite ((lo - 0x1000) / 0x100) v else s.regWrite ag off v
  | 11 =>
    if off = Reg.STG_COORD then s.run (execStgCoordWrite h)
    else if off = Reg.STG_BUFLOW then (if bit v 31 then s.run execBuflowClear else s)
    else s.regWrite ag off v
  | 12 =>
    let hh := (lo - 0x1000) / 0x100
    let r := lo % 0x100
    if off = Reg.TPK_CFG then s.run (execTpkCfgWrite h)
    else if off = Reg.TPK_TIMEADJ then s.run (execTimeAdjust w)
    else if 0x100 ≤ lo && lo < 0x200 && lo % 0x20 = 0 then s.gctlWrite ((lo - 0x100) / 0x20) v
    else if (0x100 ≤ lo && lo < 0x200 && lo % 0x20 = 8) || (0x4000 ≤ lo && lo < 0x6000) then s.run (execGateListWrite off w)
    else if 0x1000 ≤ lo && lo < 0x3000 && r < 0x20 then s.run (execTpkShapeWrite hh (r / 4) h)
    else if 0x1000 ≤ lo && lo < 0x3000 && 0x40 ≤ r && r < 0x80 then s.run (execTpkPoliceWrite hh ((r - 0x40) / 8) w)
    else s.regWrite ag off v
  | 14 =>
    if 0x1000 ≤ lo && lo < 0x1400 then s.run (execRegionWrite off w)
    else if 0x2000 ≤ lo && lo < 0x2080 then s.run (execLoanWrite ((lo - 0x2000) / 8) w)
    else if 0x2100 ≤ lo && lo < 0x2180 then s.run (execBorrowWrite ((lo - 0x2100) / 8) w)
    else s.regWrite ag off v
  | 16 => if off = Reg.ERR_HEAD then s.headWrite v else s.regWrite ag off v
  | _ => s.regWrite ag off v

/-- A 32-bit word written: a 32-bit register whole; the low word of a 64-bit register is held in the write latch of the agent
until the high word is written, whose write writes the whole register (R14). A high word written without its low word takes
the low word that the register shows. -/
def Dev.writeWord (s : Dev) (ag : Agent) (off v : Nat) : Dev :=
  match findRow off with
  | some r =>
    if r.width = 32 then s.writeReg ag off v
    else if r.width = 64 then
      let keep (l : Latch) : Bool := !(l.agent == ag && l.off == off)
      { s with wlatch := s.wlatch.filter keep ++ [⟨ag, off, v⟩] }
    else s
  | none =>
    let b := off - 4
    match (if 4 ≤ off then findRow b else none) with
    | none => s
    | some r =>
      if r.width ≠ 64 then s
      else
        let mine (l : Latch) : Bool := l.agent == ag && l.off == b
        let low := ((s.wlatch.find? mine).map (·.val)).getD (s.word b)
        (Dev.writeReg { s with wlatch := s.wlatch.filter fun l => !mine l } ag b (low + v * 2 ^ 32)).accessAt s.log.seq off

/-- An aligned write of 32 or 64 bits. One of 64 bits that covers two registers writes the lower first, and what it records
carries the offset of the access (R591). -/
def Dev.writeBytes (s : Dev) (ag : Agent) (off width v : Nat) : Dev :=
  if width = 32 then s.writeWord ag off (v % 2 ^ 32)
  else
    match findRow off with
    | some r =>
      if r.width = 64 then s.writeReg ag off v
      else ((s.writeWord ag off (v % 2 ^ 32)).writeWord ag (off + 4) (v / 2 ^ 32 % 2 ^ 32)).accessAt s.log.seq off
    | none => (s.writeWord ag (off + 4) (v / 2 ^ 32 % 2 ^ 32)).accessAt s.log.seq off

/-- REGISTER_WRITE (R13 to R19): `width` in bits. -/
def execRegisterWrite (ag : Agent) (bar off width : Nat) (v : Word64) (s : State) : Host.Outcome State Fault Refusal :=
  s.guard fun s =>
    if bar = 2 then
      if !s.bar2Open off then s
      else if width ≠ 32 || off % 4 ≠ 0 then s.access5 2 off
      else if off % 4096 = 0 then s.run (execDoorbellSqtail (off / 4096) (v.toNat % 2 ^ 32))
      else if off % 4096 = 4 then s.run (execDoorbellCqhead (off / 4096) (v.toNat % 2 ^ 32))
      else s
    else if bar = 4 then
      if !s.bar4Open off || !alignedAccess off width then s
      else
        let s := { s with comp := Sparse.put (fun _ => 0) s.comp off (v.toNat % 2 ^ 32) }
        if width = 64 then { s with comp := Sparse.put (fun _ => 0) s.comp (off + 4) (v.toNat / 2 ^ 32) } else s
    else if bar ≠ 0 then s
    else match ag with
    | .bmc _ => s.unserved ag off true
    | _ =>
    if !s.reaches ag off then s
    else if !alignedAccess off width then s.access5 0 off
    else s.writeBytes ag off width v.toNat

/-- MISALIGNED_ACCESS (R13): `size` in bytes. A narrow read within one word returns its bytes; any other such read returns
zero and latches nothing, any such write is discarded, and both are recorded. DEDUCED (log entry 170): such an access to an
offset that no register has is recorded too, as R13 says of any other access; R19's "no record" is of accesses of a right
width there. -/
def execMisalignedAccess (ag : Agent) (bar off size : Nat) (wr : Bool) (s : State) : Host.Outcome State Fault Refusal :=
  s.guard fun s =>
    let good := size ≠ 0 && alignedAccess off (8 * size)
    let narrow := !wr && decide (size < 4) && decide (off % 4 + size ≤ 4)
    if good || size = 0 then s
    else if bar = 2 then
      if !s.bar2Open off then s
      else if narrow then
        s.emit (.readData (2 ^ 32 + off) (BitVec.ofNat 64 (bits (s.reg (2 ^ 32 + off / 4 * 4)) (8 * (off % 4)) (8 * size))))
      else
        let s := s.access5 2 off
        if wr then s else s.emit (.readData (2 ^ 32 + off) 0)
    else if bar ≠ 0 then s
    else if !s.reaches ag off then s.unserved ag off wr
    else if (match ag with | .bmc _ => wr | _ => false) then s.unserved ag off wr
    else if narrow then
      let (s, v) := s.readWord ag (off / 4 * 4)
      s.emit (.readData off (BitVec.ofNat 64 (bits v (8 * (off % 4)) (8 * size))))
    else
      let s := s.access5 0 off
      if wr then s else s.emit (.readData off 0)

end Sys2Proof.Machine
end

