-- ==== Sys2Proof/Machine/Dispatch.lean ====
section
/-! DEFINITION. The effect of each command: one arm per row of the table. -/
namespace Sys2Proof.Machine

def exec (i : Instr) (s : State) : Host.Outcome State Fault Refusal :=
  match i with
  | .registerWrite ag bar off width v => Sys2Proof.Machine.execRegisterWrite ag bar off width v s
  | .misalignedAccess ag bar off size wr => Sys2Proof.Machine.execMisalignedAccess ag bar off size wr s
  | .lowWordReadLatch ag off width => Sys2Proof.Machine.execLowWordReadLatch ag off width s
  | .routepass src d => Sys2Proof.Machine.execRoutepass src d s
  | .routepassWaitSatisfied g => Sys2Proof.Machine.execRoutepassWaitSatisfied g s
  | .postilionShareDispatch p => Sys2Proof.Machine.execPostilionShareDispatch p s
  | .routeReductionComplete g ord => Sys2Proof.Machine.execRouteReductionComplete g ord s
  | .scatterCommit g => Sys2Proof.Machine.execScatterCommit g s
  | .exchange src d => Sys2Proof.Machine.execExchange src d s
  | .exchangeFixSlots g => Sys2Proof.Machine.execExchangeFixSlots g s
  | .exchangeStepStart g => Sys2Proof.Machine.execExchangeStepStart g s
  | .unpackSegment g rank => Sys2Proof.Machine.execUnpackSegment g rank s
  | .returnExchangeStart g => Sys2Proof.Machine.execReturnExchangeStart g s
  | .combineReturnRecord x rank idx => Sys2Proof.Machine.execCombineReturnRecord x rank idx s
  | .waybillUpdate => Sys2Proof.Machine.execWaybillUpdate s
  | .waybillUpdateDone => Sys2Proof.Machine.execWaybillUpdateDone s
  | .waybillRegWrite off v => Sys2Proof.Machine.execWaybillRegWrite off v s
  | .cqhwmClear => Sys2Proof.Machine.execCqhwmClear s
  | .matmul n => Sys2Proof.Machine.execMatmul n s
  | .gexpert n => Sys2Proof.Machine.execGexpert n s
  | .compress n => Sys2Proof.Machine.execCompress n s
  | .vector n => Sys2Proof.Machine.execVector n s
  | .copy n => Sys2Proof.Machine.execCopy n s
  | .arrayPassStart p => Sys2Proof.Machine.execArrayPassStart p s
  | .residueVerdict n fill => Sys2Proof.Machine.execResidueVerdict n fill s
  | .idleFillStart n => Sys2Proof.Machine.execIdleFillStart n s
  | .fillRampDown n => Sys2Proof.Machine.execFillRampDown n s
  | .fillRampEnd n => Sys2Proof.Machine.execFillRampEnd n s
  | .cchIdlefillWrite v => Sys2Proof.Machine.execCchIdlefillWrite v s
  | .runprog src d => Sys2Proof.Machine.execRunprog src d s
  | .instStart n => Sys2Proof.Machine.execInstStart n s
  | .wait n => Sys2Proof.Machine.execWait n s
  | .waitSatisfied n => Sys2Proof.Machine.execWaitSatisfied n s
  | .signal n => Sys2Proof.Machine.execSignal n s
  | .signalTeamFire g => Sys2Proof.Machine.execSignalTeamFire g s
  | .take n => Sys2Proof.Machine.execTake n s
  | .takeq n => Sys2Proof.Machine.execTakeq n s
  | .takeAnswer n lost => Sys2Proof.Machine.execTakeAnswer n lost s
  | .takeTimeout n => Sys2Proof.Machine.execTakeTimeout n s
  | .progEnd n => Sys2Proof.Machine.execProgEnd n s
  | .commandCommit g => Sys2Proof.Machine.execCommandCommit g s
  | .commandKill g cause => Sys2Proof.Machine.execCommandKill g cause s
  | .killComplete g => Sys2Proof.Machine.execKillComplete g s
  | .cchStepWrite v => Sys2Proof.Machine.execCchStepWrite v s
  | .cchSeedWrite v => Sys2Proof.Machine.execCchSeedWrite v s
  | .ptEntryWrite v => Sys2Proof.Machine.execPtEntryWrite v s
  | .ptEntryRead v => Sys2Proof.Machine.execPtEntryRead v s
  | .ptUpdateDone => Sys2Proof.Machine.execPtUpdateDone s
  | .ptRegWrite off v => Sys2Proof.Machine.execPtRegWrite off v s
  | .move src d => Sys2Proof.Machine.execMove src d s
  | .moveSweepDone page => Sys2Proof.Machine.execMoveSweepDone page s
  | .moveSwitch page => Sys2Proof.Machine.execMoveSwitch page s
  | .moveDestFail page => Sys2Proof.Machine.execMoveDestFail page s
  | .agerSweep => Sys2Proof.Machine.execAgerSweep s
  | .timetableStart => Sys2Proof.Machine.execTimetableStart s
  | .timetableStop => Sys2Proof.Machine.execTimetableStop s
  | .timetableEntryTrigger => Sys2Proof.Machine.execTimetableEntryTrigger s
  | .timetableConfigWrite off v => Sys2Proof.Machine.execTimetableConfigWrite off v s
  | .saturationSample hbm p0 p1 => Sys2Proof.Machine.execSaturationSample hbm p0 p1 s
  | .retrainSlotDue st occ => Sys2Proof.Machine.execRetrainSlotDue st occ s
  | .retrainSlotDefer st occ => Sys2Proof.Machine.execRetrainSlotDefer st occ s
  | .retrainSlotEnd => Sys2Proof.Machine.execRetrainSlotEnd s
  | .scrubRead frame line found => Sys2Proof.Machine.execScrubRead frame line found s
  | .alloc owner ret gen => Sys2Proof.Machine.execAlloc owner ret gen s
  | .liveryAllocServe => Sys2Proof.Machine.execLiveryAllocServe s
  | .free owner ptr => Sys2Proof.Machine.execFree owner ptr s
  | .share owner ptr dst => Sys2Proof.Machine.execShare owner ptr dst s
  | .drop owner ptr => Sys2Proof.Machine.execDrop owner ptr s
  | .liveryEnable => Sys2Proof.Machine.execLiveryEnable s
  | .liveryDisable => Sys2Proof.Machine.execLiveryDisable s
  | .liveryConfigWrite off v => Sys2Proof.Machine.execLiveryConfigWrite off v s
  | .liveryDryLimit => Sys2Proof.Machine.execLiveryDryLimit s
  | .hostBarrowAlloc => Sys2Proof.Machine.execHostBarrowAlloc s
  | .lvyFreeWrite ptr => Sys2Proof.Machine.execLvyFreeWrite ptr s
  | .lowwmClear => Sys2Proof.Machine.execLowwmClear s
  | .linkFrameReceive h lanes => Sys2Proof.Machine.execLinkFrameReceive h lanes s
  | .linkFrameTransmit h => Sys2Proof.Machine.execLinkFrameTransmit h s
  | .retryRequestTimeout h => Sys2Proof.Machine.execRetryRequestTimeout h s
  | .ackTimeout h => Sys2Proof.Machine.execAckTimeout h s
  | .linkIdleTimeout h => Sys2Proof.Machine.execLinkIdleTimeout h s
  | .laneSignalLoss h lane => Sys2Proof.Machine.execLaneSignalLoss h lane s
  | .mgmtMessageResend h => Sys2Proof.Machine.execMgmtMessageResend h s
  | .ts h m => Sys2Proof.Machine.execTs h m s
  | .widthReq h m => Sys2Proof.Machine.execWidthReq h m s
  | .widthAck h m => Sys2Proof.Machine.execWidthAck h m s
  | .widthNak h m => Sys2Proof.Machine.execWidthNak h m s
  | .widthSwitch h m => Sys2Proof.Machine.execWidthSwitch h m s
  | .down h => Sys2Proof.Machine.execDown h s
  | .trainingAttemptEnd h reached precode => Sys2Proof.Machine.execTrainingAttemptEnd h reached precode s
  | .hitchEnable h => Sys2Proof.Machine.execHitchEnable h s
  | .hitchDisable h => Sys2Proof.Machine.execHitchDisable h s
  | .hitchDisableDrainDone h => Sys2Proof.Machine.execHitchDisableDrainDone h s
  | .hitchRetrainRequest h => Sys2Proof.Machine.execHitchRetrainRequest h s
  | .hitchDeconfigure h => Sys2Proof.Machine.execHitchDeconfigure h s
  | .firmwareVerified => Sys2Proof.Machine.execFirmwareVerified s
  | .hitchRetrainDue h => Sys2Proof.Machine.execHitchRetrainDue h s
  | .symbolRateCheck h => Sys2Proof.Machine.execSymbolRateCheck h s
  | .retrainPairTrained h => Sys2Proof.Machine.execRetrainPairTrained h s
  | .retrainPairTimeout h missed => Sys2Proof.Machine.execRetrainPairTimeout h missed s
  | .hitchRetrainDefer h => Sys2Proof.Machine.execHitchRetrainDefer h s
  | .carriageArrival h => Sys2Proof.Machine.execCarriageArrival h s
  | .carriageSubmit e => Sys2Proof.Machine.execCarriageSubmit e s
  | .localEntryRetry e => Sys2Proof.Machine.execLocalEntryRetry e s
  | .noRouteRetry e => Sys2Proof.Machine.execNoRouteRetry e s
  | .norouteTimeout e => Sys2Proof.Machine.execNorouteTimeout e s
  | .hitchCarriageStart h => Sys2Proof.Machine.execHitchCarriageStart h s
  | .planeSaturationSample => Sys2Proof.Machine.execPlaneSaturationSample s
  | .stgCoordWrite v => Sys2Proof.Machine.execStgCoordWrite v s
  | .stgReserveApply => Sys2Proof.Machine.execStgReserveApply s
  | .buflowClear => Sys2Proof.Machine.execBuflowClear s
  | .shaperRefill h => Sys2Proof.Machine.execShaperRefill h s
  | .policerRefill h => Sys2Proof.Machine.execPolicerRefill h s
  | .tpkCfgWrite v => Sys2Proof.Machine.execTpkCfgWrite v s
  | .tpkShapeWrite h c v => Sys2Proof.Machine.execTpkShapeWrite h c v s
  | .tpkPoliceWrite h c v => Sys2Proof.Machine.execTpkPoliceWrite h c v s
  | .timeAdjust v => Sys2Proof.Machine.execTimeAdjust v s
  | .tsyncExchange => Sys2Proof.Machine.execTsyncExchange s
  | .tsyncRequest rank c => Sys2Proof.Machine.execTsyncRequest rank c s
  | .tsyncResponse rank c => Sys2Proof.Machine.execTsyncResponse rank c s
  | .gateArm p => Sys2Proof.Machine.execGateArm p s
  | .gateCancel p => Sys2Proof.Machine.execGateCancel p s
  | .gateSwitchover p => Sys2Proof.Machine.execGateSwitchover p s
  | .gateEntryAdvance p => Sys2Proof.Machine.execGateEntryAdvance p s
  | .gateListWrite off v => Sys2Proof.Machine.execGateListWrite off v s
  | .gform src d => Sys2Proof.Machine.execGform src d s
  | .gdissolve src d => Sys2Proof.Machine.execGdissolve src d s
  | .shift src d => Sys2Proof.Machine.execShift src d s
  | .permute src d => Sys2Proof.Machine.execPermute src d s
  | .alltoall src d => Sys2Proof.Machine.execAlltoall src d s
  | .allreduce src d => Sys2Proof.Machine.execAllreduce src d s
  | .collectiveAdmit gid => Sys2Proof.Machine.execCollectiveAdmit gid s
  | .join c => Sys2Proof.Machine.execJoin c s
  | .joinack c => Sys2Proof.Machine.execJoinack c s
  | .joinRepeat gid rank => Sys2Proof.Machine.execJoinRepeat gid rank s
  | .formTimeout gid => Sys2Proof.Machine.execFormTimeout gid s
  | .offer c => Sys2Proof.Machine.execOffer c s
  | .ticketGrant g step phase => Sys2Proof.Machine.execTicketGrant g step phase s
  | .ticket c => Sys2Proof.Machine.execTicket c s
  | .chunkReceive c => Sys2Proof.Machine.execChunkReceive c s
  | .compl c => Sys2Proof.Machine.execCompl c s
  | .complCoalesceFlush g step phase => Sys2Proof.Machine.execComplCoalesceFlush g step phase s
  | .missing c => Sys2Proof.Machine.execMissing c s
  | .abort c => Sys2Proof.Machine.execAbort c s
  | .probe c => Sys2Proof.Machine.execProbe c s
  | .probeack c => Sys2Proof.Machine.execProbeack c s
  | .offerRepeat g => Sys2Proof.Machine.execOfferRepeat g s
  | .linkDownRetransmit p => Sys2Proof.Machine.execLinkDownRetransmit p s
  | .chunkCompletionTimeout g step phase chunk => Sys2Proof.Machine.execChunkCompletionTimeout g step phase chunk s
  | .gapTimeout gid rank => Sys2Proof.Machine.execGapTimeout gid rank s
  | .probeTimeout gid rank => Sys2Proof.Machine.execProbeTimeout gid rank s
  | .peerFailTimeout gid rank => Sys2Proof.Machine.execPeerFailTimeout gid rank s
  | .stallTimeout g => Sys2Proof.Machine.execStallTimeout g s
  | .mfx src d => Sys2Proof.Machine.execMfx src d s
  | .matomic src d => Sys2Proof.Machine.execMatomic src d s
  | .load c => Sys2Proof.Machine.execLoad c s
  | .store c => Sys2Proof.Machine.execStore c s
  | .atomic c => Sys2Proof.Machine.execAtomic c s
  | .bulkrd c => Sys2Proof.Machine.execBulkrd c s
  | .bulkack c => Sys2Proof.Machine.execBulkack c s
  | .bulkChunkReceive c => Sys2Proof.Machine.execBulkChunkReceive c s
  | .lineResponseReceive c => Sys2Proof.Machine.execLineResponseReceive c s
  | .requestTimeout tag => Sys2Proof.Machine.execRequestTimeout tag s
  | .bulkChunkTimeout coord g chunk => Sys2Proof.Machine.execBulkChunkTimeout coord g chunk s
  | .atomEntryExpire coord tag => Sys2Proof.Machine.execAtomEntryExpire coord tag s
  | .regionWrite off v => Sys2Proof.Machine.execRegionWrite off v s
  | .regionChangeApply idx => Sys2Proof.Machine.execRegionChangeApply idx s
  | .loanWrite j v => Sys2Proof.Machine.execLoanWrite j v s
  | .loanEnd j => Sys2Proof.Machine.execLoanEnd j s
  | .loanClearDone j => Sys2Proof.Machine.execLoanClearDone j s
  | .borrowWrite k v => Sys2Proof.Machine.execBorrowWrite k v s
  | .borrowRecheck k => Sys2Proof.Machine.execBorrowRecheck k s
  | .doorbellSqtail r v => Sys2Proof.Machine.execDoorbellSqtail r v s
  | .doorbellCqhead r v => Sys2Proof.Machine.execDoorbellCqhead r v s
  | .ringFetch r ds => Sys2Proof.Machine.execRingFetch r ds s
  | .ringEnable r v => Sys2Proof.Machine.execRingEnable r v s
  | .ringDisable r v => Sys2Proof.Machine.execRingDisable r v s
  | .ringConfigWrite off v => Sys2Proof.Machine.execRingConfigWrite off v s
  | .upstreamLinkDown => Sys2Proof.Machine.execUpstreamLinkDown s
  | .upstreamLinkUp speed width => Sys2Proof.Machine.execUpstreamLinkUp speed width s
  | .configRequest q => Sys2Proof.Machine.execConfigRequest q s
  | .hdmDecoderCommit base => Sys2Proof.Machine.execHdmDecoderCommit base s
  | .hostHdmRead hpa own => Sys2Proof.Machine.execHostHdmRead hpa own s
  | .hostHdmWrite hpa data => Sys2Proof.Machine.execHostHdmWrite hpa data s
  | .bisnpResponse line data => Sys2Proof.Machine.execBisnpResponse line data s
  | .h2dSnoop hpa => Sys2Proof.Machine.execH2dSnoop hpa s
  | .dsPortEnable q => Sys2Proof.Machine.execDsPortEnable q s
  | .dsPortDisableWrite q => Sys2Proof.Machine.execDsPortDisableWrite q s
  | .dsPortLinkUp q devs => Sys2Proof.Machine.execDsPortLinkUp q devs s
  | .sloop src d => Sys2Proof.Machine.execSloop src d s
  | .sstop src d => Sys2Proof.Machine.execSstop src d s
  | .sessionConfigWrite off v => Sys2Proof.Machine.execSessionConfigWrite off v s
  | .frameQueuePoll => Sys2Proof.Machine.execFrameQueuePoll s
  | .loopFrameStart => Sys2Proof.Machine.execLoopFrameStart s
  | .loopEmptyStep => Sys2Proof.Machine.execLoopEmptyStep s
  | .loopStepComplete => Sys2Proof.Machine.execLoopStepComplete s
  | .jadmit src d => Sys2Proof.Machine.execJadmit src d s
  | .jlaunch src d => Sys2Proof.Machine.execJlaunch src d s
  | .jorderPreempt src d => Sys2Proof.Machine.execJorderPreempt src d s
  | .jorderResume src d => Sys2Proof.Machine.execJorderResume src d s
  | .jorderEnd src d => Sys2Proof.Machine.execJorderEnd src d s
  | .junitDeconfigureCoach src d => Sys2Proof.Machine.execJunitDeconfigureCoach src d s
  | .junitParkPostilion src d => Sys2Proof.Machine.execJunitParkPostilion src d s
  | .junitUnparkPostilion src d => Sys2Proof.Machine.execJunitUnparkPostilion src d s
  | .junitDisablePort src d => Sys2Proof.Machine.execJunitDisablePort src d s
  | .junitEnablePort src d => Sys2Proof.Machine.execJunitEnablePort src d s
  | .portDrainTimeout q => Sys2Proof.Machine.execPortDrainTimeout q s
  | .manifest c => Sys2Proof.Machine.execManifest c s
  | .arm c => Sys2Proof.Machine.execArm c s
  | .armack c => Sys2Proof.Machine.execArmack c s
  | .armWaitExpire => Sys2Proof.Machine.execArmWaitExpire s
  | .go c => Sys2Proof.Machine.execGo c s
  | .tGoReached => Sys2Proof.Machine.execTGoReached s
  | .labort c => Sys2Proof.Machine.execLabort c s
  | .launchMessageResend node type => Sys2Proof.Machine.execLaunchMessageResend node type s
  | .childAckTimeout node type => Sys2Proof.Machine.execChildAckTimeout node type s
  | .admitTimeout => Sys2Proof.Machine.execAdmitTimeout s
  | .launchHoldExpire => Sys2Proof.Machine.execLaunchHoldExpire s
  | .ordreq c => Sys2Proof.Machine.execOrdreq c s
  | .order c => Sys2Proof.Machine.execOrder c s
  | .ack c => Sys2Proof.Machine.execAck c s
  | .ordreqTimeout => Sys2Proof.Machine.execOrdreqTimeout s
  | .scrubComplete => Sys2Proof.Machine.execScrubComplete s
  | .domainWake dm => Sys2Proof.Machine.execDomainWake dm s
  | .powerGateIdle dm => Sys2Proof.Machine.execPowerGateIdle dm s
  | .wakeWindow cluster => Sys2Proof.Machine.execWakeWindow cluster s
  | .fastLoopTick est pred => Sys2Proof.Machine.execFastLoopTick est pred s
  | .slowLoopTick arr others => Sys2Proof.Machine.execSlowLoopTick arr others s
  | .stepChangeSettled c => Sys2Proof.Machine.execStepChangeSettled c s
  | .railTelemetryRead idx mv ma => Sys2Proof.Machine.execRailTelemetryRead idx mv ma s
  | .imonSample x mv => Sys2Proof.Machine.execImonSample x mv s
  | .telemetryTimeout idx => Sys2Proof.Machine.execTelemetryTimeout idx s
  | .vidWriteFail idx => Sys2Proof.Machine.execVidWriteFail idx s
  | .throttleAssert => Sys2Proof.Machine.execThrottleAssert s
  | .throttleDeassert => Sys2Proof.Machine.execThrottleDeassert s
  | .sensorRead ts => Sys2Proof.Machine.execSensorRead ts s
  | .hbmSensorRead k t => Sys2Proof.Machine.execHbmSensorRead k t s
  | .sensorCalibrationCheck k good => Sys2Proof.Machine.execSensorCalibrationCheck k good s
  | .railOutOfRange rail => Sys2Proof.Machine.execRailOutOfRange rail s
  | .tripDomainsGated => Sys2Proof.Machine.execTripDomainsGated s
  | .tripRailsOff => Sys2Proof.Machine.execTripRailsOff s
  | .standbyPowerUp aoclk => Sys2Proof.Machine.execStandbyPowerUp aoclk s
  | .coldResetPin perst => Sys2Proof.Machine.execColdResetPin perst s
  | .resetRelease st => Sys2Proof.Machine.execResetRelease st s
  | .warmReset => Sys2Proof.Machine.execWarmReset s
  | .functionLevelReset => Sys2Proof.Machine.execFunctionLevelReset s
  | .sramZeroDone => Sys2Proof.Machine.execSramZeroDone s
  | .imageVerifyDone readFail => Sys2Proof.Machine.execImageVerifyDone readFail s
  | .hbmTrainingDone => Sys2Proof.Machine.execHbmTrainingDone s
  | .hbmZeroDone => Sys2Proof.Machine.execHbmZeroDone s
  | .bootReady => Sys2Proof.Machine.execBootReady s
  | .lifecycleCxlWipeDone bad => Sys2Proof.Machine.execLifecycleCxlWipeDone bad s
  | .setLimits q => Sys2Proof.Machine.execSetLimits q s
  | .lifecycle q => Sys2Proof.Machine.execLifecycle q s
  | .svnCommit q => Sys2Proof.Machine.execSvnCommit q s
  | .imageBegin q => Sys2Proof.Machine.execImageBegin q s
  | .imageBlock q => Sys2Proof.Machine.execImageBlock q s
  | .imageEnd q readFail => Sys2Proof.Machine.execImageEnd q readFail s
  | .fenceClear q => Sys2Proof.Machine.execFenceClear q s
  | .debugUnlock q => Sys2Proof.Machine.execDebugUnlock q s
  | .coldReset q => Sys2Proof.Machine.execColdReset q s
  | .readMeters q => Sys2Proof.Machine.execReadMeters q s
  | .readMeterlog q => Sys2Proof.Machine.execReadMeterlog q s
  | .readFence q => Sys2Proof.Machine.execReadFence q s
  | .getVersion => Sys2Proof.Machine.execGetVersion s
  | .getCapabilities => Sys2Proof.Machine.execGetCapabilities s
  | .negotiateAlgorithms asym hash => Sys2Proof.Machine.execNegotiateAlgorithms asym hash s
  | .getDigests => Sys2Proof.Machine.execGetDigests s
  | .getCertificate slot off len => Sys2Proof.Machine.execGetCertificate slot off len s
  | .challenge slot nonce => Sys2Proof.Machine.execChallenge slot nonce s
  | .getMeasurements idx sign nonce => Sys2Proof.Machine.execGetMeasurements idx sign nonce s
  | .slhSignatureRequest => Sys2Proof.Machine.execSlhSignatureRequest s
  | .errHeadWrite v => Sys2Proof.Machine.execErrHeadWrite v s
  | .harnessDeselect => Sys2Proof.Machine.execHarnessDeselect s
  | .harnessTimeout => Sys2Proof.Machine.execHarnessTimeout s
  | .harnessStatus q => Sys2Proof.Machine.execHarnessStatus q s
  | .harnessHalt q => Sys2Proof.Machine.execHarnessHalt q s
  | .harnessResume q => Sys2Proof.Machine.execHarnessResume q s
  | .harnessStep q => Sys2Proof.Machine.execHarnessStep q s
  | .harnessBpset q => Sys2Proof.Machine.execHarnessBpset q s
  | .harnessBpclr q => Sys2Proof.Machine.execHarnessBpclr q s
  | .harnessRdreg q => Sys2Proof.Machine.execHarnessRdreg q s
  | .harnessWrreg q => Sys2Proof.Machine.execHarnessWrreg q s
  | .harnessRdmem q => Sys2Proof.Machine.execHarnessRdmem q s
  | .harnessWrmem q => Sys2Proof.Machine.execHarnessWrmem q s
  | .sequencerHaltComplete n => Sys2Proof.Machine.execSequencerHaltComplete n s
  | .breakpointHit target => Sys2Proof.Machine.execBreakpointHit target s
  | .dsPortLinkDown q => Sys2Proof.Machine.execDsPortLinkDown q s
  | .counterRead ag off width => Sys2Proof.Machine.execCounterRead ag off width s
  | .bulkackCoalesceFlush coord gen => Sys2Proof.Machine.execBulkackCoalesceFlush coord gen s
  | .coldResetDelayExpire => Sys2Proof.Machine.execColdResetDelayExpire s
  | .standbyPowerLoss => Sys2Proof.Machine.execStandbyPowerLoss s

end Sys2Proof.Machine
end

