-- ==== Sys2Proof/Machine/Tick.lean ====
section
/-! DEFINITION. What passes with a nanosecond when no command waits: fabric time, and the counters of time. -/
namespace Sys2Proof.Machine

/-- Counters of nanoseconds (R295, R316, R365, R454, R502). LVY_CNT_DRYCYC counts cycles of 2.0 GHz, two a nanosecond. -/
def Dev.tickNs (s : Dev) : Dev :=
  let st := s.jobState
  let coaches := s.fld Reg.SIZ_COACH 0 8
  let busy := (bitsSet 64 (s.reg Reg.CCH_BUSY)).length
  let s := if st = jRUNNING then (s.bump Reg.GRD_MTR_RUNNS 1).bump Reg.GRD_MTR_COACHNS coaches else s
  let s := if st = jPREEMPTED then s.bump Reg.GRD_MTR_HELDNS 1 else s
  let s := s.meter Reg.GRD_MTR_BUSYNS busy
  let s := if s.livDry then s.bump Reg.LVY_CNT_DRYCYC 2 else s
  let s := if s.fld Reg.DRY_STAT 8 3 ≠ 0 then s.bump Reg.DRY_CNT_HOLD 1 else s
  let s := if s.rings.any fun x => !x.2.held.isEmpty then s.bump Reg.HST_CNT_CQHOLD 1 else s
  let eps := ((s.stg.waiting.filter fun w => !w.noRoute).map (·.ep)).dedup
  s.bump Reg.STG_CNT_WAITNS eps.length

/-- Counters of microseconds: Hitches at two lanes for a retrain (R344), saturated planes (R369). -/
def Dev.tickUs (s : Dev) : Dev :=
  let s := s.each (bitsSet 32 (s.reg Reg.HCH_HALFMAP)) fun s h => s.bump (Reg.HCH_CNT_HALFUS h) 1
  s.each (bitsSet 8 (s.reg Reg.STG_SATMAP)) fun s p => s.bump (Reg.STG_CNT_SATUS p) 1

/-- HBM frames that are homes of mapped pages, summed each millisecond (Table 16-10). -/
def Dev.tickMs (s : Dev) : Dev :=
  s.meter Reg.GRD_MTR_FRAMEMS (s.pt.filter fun e => pteHome e.2.toNat == 1).length

/-- One nanosecond of the always-on domain, which a trip does not stop (R377, Table 17-4): none passes for a device that is
held in reset. -/
def Dev.tick (s : Dev) : Dev :=
  if s.grd.stage ≠ .run then s
  else
    let s := Dev.timeTick { s with ns := s.ns + 1 }
    if !s.alive then s
    else
      let s := s.tickNs.sweepNs
      let s := if s.ns % 1000 = 0 then s.tickUs else s
      if s.ns % 1000000 = 0 then s.tickMs else s

end Sys2Proof.Machine
end

