-- ==== Sys2Proof/Safety.lean ====
section
/-! DEFINITION. The terms in which statements speak: the canonical form of the tables, an error recorded, what stays
unchanged, and a device that does not work with the commands that only a working device takes. -/
namespace Sys2Proof.Machine

/-- The canonical form of memory: addresses rising, and no byte listed that an unlisted address reads as. -/
def Memory.wf (m : List Host.Cell) : Bool := Sparse.wf memDefault m

/-- No retrain of a Hitch waits for its plane or was withdrawn (R343, R347). -/
def Dev.noRetrainWaits (s : Dev) : Bool := (List.range 32).all fun g => !(s.hitch g).due && !(s.hitch g).yielded

/-- Every sparse table of the device is in its canonical form. -/
def Dev.canonical (s : Dev) : Bool :=
  Memory.wf s.mem && Sparse.wf regDefault s.regs && Sparse.wf badDefault s.bad && Sparse.wf ptDefault s.pt
    && Sparse.wf logDefault s.log.slots && Sparse.wf ringDefault s.rings

/-- The error log holds 4,095 unread records, so that the next record is not appended (R557, R559). -/
def Dev.logFull (s : Dev) : Bool := (s.fld Reg.ERR_TAIL 0 12 + 1) % 4096 == s.fld Reg.ERR_HEAD 0 12

/-- No page is homed in lent HBM, and no line of lent HBM has been brought: no access has to wait for a lender (R432). -/
def Dev.noLent (s : Dev) : Bool := s.mmf.lines.isEmpty && !s.pt.any fun e => pteHome e.2.toNat == 4

/-- No access of the device has to wait: none for a lender, and the host holds no line of it (R446). -/
def Dev.calm (s : Dev) : Bool := s.tiers.filter.isEmpty && s.noLent

/-- The plane selector finds the reachability entry of a destination, if it reads one, in a good line, while the host holds none (R355,
R446, R593). -/
def Dev.reachGood (s : Dev) (dst : Nat) : Bool :=
  let a := s.reg Reg.STG_REACHBASE / 4096 * 4096 + 2 * dst
  !s.flag Reg.STG_CFG 1 || !inCH a 2 || (s.lineOf (chAddr a) == .good && s.tiers.filter.isEmpty)

/-- The same requests wait in the same order for a barrow, whether or not they have had to wait (R312, R321). -/
def SameRequests (a b : List AllocReq) : Prop := a.map (fun r => (r.owner, r.gen)) = b.map fun r => (r.owner, r.gen)

/-- From `s` to `t`, exactly one error record was made, of the class, code, detail, generation and place given: it took the
next SEQ, it counts in its class, and it stands in the slot to which ERR_TAIL pointed, unless the log was full (R554 to R559). -/
def Dev.Recorded (s t : Dev) (cls code detail gen block inst : Nat) : Prop :=
  t.log.seq = s.log.seq + 1
    ∧ t.reg (Reg.ERR_CNT cls) = (s.reg (Reg.ERR_CNT cls) + 1) % 2 ^ 64
    ∧ (s.logFull = false →
        ∃ r : ErrRec, Sparse.get logDefault t.log.slots (s.fld Reg.ERR_TAIL 0 12) = some r ∧ r.cls = cls ∧ r.code = code
          ∧ r.detail = detail % 2 ^ 32 ∧ r.gen = gen % 2 ^ 32 ∧ r.genv = (gen != 0) ∧ r.block = block ∧ r.inst = inst
          ∧ r.seq = s.log.seq % 2 ^ 32 ∧ r.psafe = isPsafe cls code)

/-- No error record was made. -/
def Dev.Silent (s t : Dev) : Prop := t.log = s.log

/-- Every register but those listed reads as before. -/
def Dev.RegsBut (s t : Dev) (ks : List Nat) : Prop := ∀ k, k ∉ ks → t.reg k = s.reg k

/-- Every byte of memory, every line's condition and every page-table entry is as before. -/
def Dev.SameMem (s t : Dev) : Prop := (∀ k, t.rd k = s.rd k) ∧ (∀ k, t.lineOf k = s.lineOf k) ∧ ∀ p, t.pte p = s.pte p

/-- Nothing but registers changed, and of those none but the ones listed. -/
def Dev.OnlyRegs (s t : Dev) (ks : List Nat) : Prop := t = { s with regs := t.regs } ∧ Dev.RegsBut s t ks

/-- Nothing but registers and what the device sends changed, and of the registers none but the ones listed. -/
def Dev.OnlyRegsOuts (s t : Dev) (ks : List Nat) : Prop := t = { s with regs := t.regs, outs := t.outs } ∧ Dev.RegsBut s t ks

/-- Nothing but the registers listed and what an error record touches changed: the log, ERR_TAIL, the counters of records,
and the first error of the commands in hand. -/
def Dev.OnlyRecord (s t : Dev) (ks : List Nat) : Prop :=
  t = { s with regs := t.regs, log := t.log, cmds := t.cmds, dying := t.dying }
    ∧ ∀ k, k ∉ ks → k < 0x1000000 → t.reg k = s.reg k

/-- `t` is `s` after a power-on, cold or warm reset of a cause (Table 18-1, R529, R547): no command, no record of a ring, no
page-table entry and no unread error record; memory is untouched until the start-up zeroes it; the lifecycle, the fuses, the
power-safe records, the meter log and the fence record stay, the meters of a job sealed as ended by reset; a warm reset
keeps the nonce, fabric time and the fence record whole, any other reset clears the kinds that FENCE_CLEAR named. A job is
sealed once (R548), and a power-on reset shows in JOBSEALED what the loss of standby power sealed. THROTTLE shows the level of its
pin. -/
def Dev.AfterReset (s t : Dev) (cause : Nat) (warm : Bool) : Prop :=
  t.cmds = [] ∧ t.dying = [] ∧ t.landed = [] ∧ t.rings = [] ∧ t.pt = [] ∧ t.log.slots = [] ∧ t.log.psafe = s.log.psafe
    ∧ t.mem = s.mem ∧ t.bad = s.bad ∧ t.jobState = jIDLE ∧ t.alive = false
    ∧ t.fld Reg.GRD_RESETCAUSE 0 4 = cause 
    ∧ (t.flag Reg.GRD_RESETCAUSE 4 = true ↔ s.toSeal = true ∨ s.grd.stage = .off ∧ s.flag Reg.GRD_RESETCAUSE 4 = true)
    ∧ t.lifeState = s.lifeState ∧ t.fuseSvn = s.fuseSvn ∧ (∀ i, i < 4 → t.reg (Reg.GRD_UID i) = s.reg (Reg.GRD_UID i))
    ∧ (s.toSeal = true → ∃ e, t.grd.meterLog.getLast? = some e ∧ e.jobid = s.jobId ∧ e.ended = 2)
    ∧ (s.toSeal = false → t.grd.meterLog = s.grd.meterLog) ∧ (t.flag Reg.PWC_STAT 6 = true ↔ s.pwr.throttle = true)
    ∧ (warm = true → t.now = s.now ∧ t.reg Reg.GRD_NONCE = s.reg Reg.GRD_NONCE ∧ t.grd.fence = s.grd.fence)
    ∧ (warm = false → t.now = 0 ∧ t.grd.fence = s.grd.fence.filter fun e => !bit s.grd.clearing (e / 2 ^ 28 - 1))

/-- The commands that the Guard, its start-up, a supply, a pin, a link, the power and thermal controllers, or an access that the host
may make before the device works can bring: these alone can act on a device that does not work (R507, R532, R577). -/
def early : Instr → Bool
  | .registerWrite _ _ _ _ _ => true
  | .misalignedAccess _ _ _ _ _ => true
  | .lowWordReadLatch _ _ _ => true
  | .firmwareVerified => true
  | .upstreamLinkDown => true
  | .upstreamLinkUp _ _ => true
  | .configRequest _ => true
  | .vidWriteFail _ => true
  | .railOutOfRange _ => true
  | .tripDomainsGated => true
  | .tripRailsOff => true
  | .standbyPowerUp _ => true
  | .coldResetPin _ => true
  | .resetRelease _ => true
  | .warmReset => true
  | .sramZeroDone => true
  | .imageVerifyDone _ => true
  | .hbmTrainingDone => true
  | .hbmZeroDone => true
  | .bootReady => true
  | .lifecycleCxlWipeDone _ => true
  | .setLimits _ => true
  | .lifecycle _ => true
  | .svnCommit _ => true
  | .imageBegin _ => true
  | .imageBlock _ => true
  | .imageEnd _ _ => true
  | .fenceClear _ => true
  | .debugUnlock _ => true
  | .coldReset _ => true
  | .readMeters _ => true
  | .readMeterlog _ => true
  | .readFence _ => true
  | .getVersion => true
  | .getCapabilities => true
  | .negotiateAlgorithms _ _ => true
  | .getDigests => true
  | .getCertificate _ _ _ => true
  | .challenge _ _ => true
  | .getMeasurements _ _ _ => true
  | .slhSignatureRequest => true
  | .errHeadWrite _ => true
  | .harnessDeselect => true
  | .harnessTimeout => true
  | .harnessStatus _ => true
  | .harnessHalt _ => true
  | .harnessResume _ => true
  | .harnessStep _ => true
  | .harnessBpset _ => true
  | .harnessBpclr _ => true
  | .harnessRdreg _ => true
  | .harnessWrreg _ => true
  | .harnessRdmem _ => true
  | .harnessWrmem _ => true
  | .counterRead _ _ _ => true
  | .coldResetDelayExpire => true
  | .standbyPowerLoss => true
  | .fastLoopTick _ _ => true
  | .slowLoopTick _ _ => true
  | .stepChangeSettled _ => true
  | .railTelemetryRead _ _ _ => true
  | .imonSample _ _ => true
  | .telemetryTimeout _ => true
  | .throttleAssert => true
  | .throttleDeassert => true
  | .sensorRead _ => true
  | .hbmSensorRead _ _ => true
  | .sensorCalibrationCheck _ _ => true
  | .routepass _ _ | .routepassWaitSatisfied _ | .postilionShareDispatch _ | .routeReductionComplete _ _
  | .scatterCommit _ | .exchange _ _ | .exchangeFixSlots _ | .exchangeStepStart _ | .unpackSegment _ _
  | .returnExchangeStart _ | .combineReturnRecord _ _ _ | .waybillUpdate | .waybillUpdateDone | .waybillRegWrite _ _
  | .cqhwmClear | .matmul _ | .gexpert _ | .compress _ | .vector _ | .copy _ | .arrayPassStart _ | .residueVerdict _ _
  | .idleFillStart _ | .fillRampDown _ | .fillRampEnd _ | .cchIdlefillWrite _ | .runprog _ _ | .instStart _ | .wait _
  | .waitSatisfied _ | .signal _ | .signalTeamFire _ | .take _ | .takeq _ | .takeAnswer _ _ | .takeTimeout _
  | .progEnd _ | .commandCommit _ | .commandKill _ _ | .killComplete _ | .cchStepWrite _ | .cchSeedWrite _
  | .ptEntryWrite _ | .ptEntryRead _ | .ptUpdateDone | .ptRegWrite _ _ | .move _ _ | .moveSweepDone _ | .moveSwitch _
  | .moveDestFail _ | .agerSweep | .timetableStart | .timetableStop | .timetableEntryTrigger
  | .timetableConfigWrite _ _ | .saturationSample _ _ _ | .retrainSlotDue _ _ | .retrainSlotDefer _ _
  | .retrainSlotEnd | .scrubRead _ _ _ | .alloc _ _ _ | .liveryAllocServe | .free _ _ | .share _ _ _ | .drop _ _
  | .liveryEnable | .liveryDisable | .liveryConfigWrite _ _ | .liveryDryLimit | .hostBarrowAlloc | .lvyFreeWrite _
  | .lowwmClear | .linkFrameReceive _ _ | .linkFrameTransmit _ | .retryRequestTimeout _ | .ackTimeout _
  | .linkIdleTimeout _ | .laneSignalLoss _ _ | .mgmtMessageResend _ | .ts _ _ | .widthReq _ _ | .widthAck _ _
  | .widthNak _ _ | .widthSwitch _ _ | .down _ | .trainingAttemptEnd _ _ _ | .hitchEnable _ | .hitchDisable _
  | .hitchDisableDrainDone _ | .hitchRetrainRequest _ | .hitchDeconfigure _ | .hitchRetrainDue _ | .symbolRateCheck _
  | .retrainPairTrained _ | .retrainPairTimeout _ _ | .hitchRetrainDefer _ | .carriageArrival _ | .carriageSubmit _
  | .localEntryRetry _ | .noRouteRetry _ | .norouteTimeout _ | .hitchCarriageStart _ | .planeSaturationSample
  | .stgCoordWrite _ | .stgReserveApply | .buflowClear | .shaperRefill _ | .policerRefill _ | .tpkCfgWrite _
  | .tpkShapeWrite _ _ _ | .tpkPoliceWrite _ _ _ | .timeAdjust _ | .tsyncExchange | .tsyncRequest _ _
  | .tsyncResponse _ _ | .gateArm _ | .gateCancel _ | .gateSwitchover _ | .gateEntryAdvance _ | .gateListWrite _ _
  | .gform _ _ | .gdissolve _ _ | .shift _ _ | .permute _ _ | .alltoall _ _ | .allreduce _ _ | .collectiveAdmit _
  | .join _ | .joinack _ | .joinRepeat _ _ | .formTimeout _ | .offer _ | .ticketGrant _ _ _ | .ticket _
  | .chunkReceive _ | .compl _ | .complCoalesceFlush _ _ _ | .missing _ | .abort _ | .probe _ | .probeack _
  | .offerRepeat _ | .linkDownRetransmit _ | .chunkCompletionTimeout _ _ _ _ | .gapTimeout _ _ | .probeTimeout _ _
  | .peerFailTimeout _ _ | .stallTimeout _ | .mfx _ _ | .matomic _ _ | .load _ | .store _ | .atomic _ | .bulkrd _
  | .bulkack _ | .bulkChunkReceive _ | .lineResponseReceive _ | .requestTimeout _ | .bulkChunkTimeout _ _ _
  | .atomEntryExpire _ _ | .regionWrite _ _ | .regionChangeApply _ | .loanWrite _ _ | .loanEnd _ | .loanClearDone _
  | .borrowWrite _ _ | .borrowRecheck _ | .doorbellSqtail _ _ | .doorbellCqhead _ _ | .ringFetch _ _ | .ringEnable _ _
  | .ringDisable _ _ | .ringConfigWrite _ _ | .hdmDecoderCommit _ | .hostHdmRead _ _ | .hostHdmWrite _ _
  | .bisnpResponse _ _ | .h2dSnoop _ | .dsPortEnable _ | .dsPortDisableWrite _ | .dsPortLinkUp _ _ | .sloop _ _
  | .sstop _ _ | .sessionConfigWrite _ _ | .frameQueuePoll | .loopFrameStart | .loopEmptyStep | .loopStepComplete
  | .jadmit _ _ | .jlaunch _ _ | .jorderPreempt _ _ | .jorderResume _ _ | .jorderEnd _ _ | .junitDeconfigureCoach _ _
  | .junitParkPostilion _ _ | .junitUnparkPostilion _ _ | .junitDisablePort _ _ | .junitEnablePort _ _
  | .portDrainTimeout _ | .manifest _ | .arm _ | .armack _ | .armWaitExpire | .go _ | .tGoReached | .labort _
  | .launchMessageResend _ _ | .childAckTimeout _ _ | .admitTimeout | .launchHoldExpire | .ordreq _ | .order _
  | .ack _ | .ordreqTimeout | .scrubComplete | .domainWake _ | .powerGateIdle _ | .wakeWindow _
  | .functionLevelReset | .sequencerHaltComplete _ | .breakpointHit _ | .dsPortLinkDown _ | .bulkackCoalesceFlush _ _ => false

/-- What COMMAND_COMMIT of a command that has nothing left to wait for writes beside HAND: the key of its report and its bytes. -/
def CommitReport (d : Dev) (g : Nat) (c : Cmd) (rep : Option (Nat × List Byte)) : Prop :=
  (∃ r old, c.body = .matomic r ∧ r.got = some old ∧ r.wrote = true ∧ rep = none)
    ∨ (∃ r, c.body = .move r ∧ d.moveSettled g r = true ∧ rep = some (chAddr r.rpt, r.report g))
    ∨ (∃ r, c.body = .mfx r ∧ d.mfxSettled g r = true ∧ rep = some (chAddr r.rpt, r.report g))
    ∨ ∃ r, c.body = .coach r ∧ r.done = true ∧ r.ctl = false ∧ d.verdictDue g = false
      ∧ ((d.instCmds r.team r.coach).find? fun x => match x.body with | .coach y => !y.ctl | _ => false).map (·.gen) = some g
      ∧ (∀ t, d.team r.team = some t → t.stopped = none)
      ∧ rep = (d.reportAt r.coach c.desc).map fun x => (csKey r.coach x.1, r.report g x.2)

end Sys2Proof.Machine
end

