-- ==== Sys2Proof/WellFormed.lean ====
section
/-! DEFINITION. Well-formed commands: the unit numbers, sizes and lengths that the hardware can present. A meaning takes
every command, well-formed or not; one that names a unit the device does not have changes nothing. -/
namespace Sys2Proof

/-- A BAR with registers (R21, R443, R450). -/
def barOk (bar : Nat) : Bool := bar == 0 || bar == 2 || bar == 4
/-- An access of 32 or 64 bits aligned to its width (R13). -/
def accessOk (off width : Nat) : Bool := (width == 32 && off % 4 == 0) || (width == 64 && off % 8 == 0)
/-- A Coach, a Hitch, a ring, a downstream port (Table 01-6). -/
def coachOk (n : Nat) : Bool := decide (n < 64)
def hitchOk (h : Nat) : Bool := decide (h < 32)
def ringOk (r : Nat) : Bool := decide (r < 256)
def portOk (q : Nat) : Bool := decide (q < 2)
/-- A code of Table 09-1 that can own a barrow. -/
def ownerCode (c : Nat) : Bool := c == 1 || (decide (0x08 ≤ c) && decide (c ≤ 0x11))
/-- A point at which a command is armed. -/
def sourceOk : Source → Bool
  | .ring r => ringOk r
  | .coachman => true
  | .seq n => coachOk n
/-- A carriage has at most sixteen units of 256 bytes of payload (R106). -/
def carriageOk (c : Carriage) : Bool := c.payload.length % 256 == 0 && decide (c.payload.length ≤ 4096)
/-- A link frame of 1,088 symbols of ten bits on two or four lanes (R325). -/
def frameOk (ls : List (List Nat)) : Bool :=
  (ls.length == 2 || ls.length == 4) && ls.all fun l => l.length == 1088 / ls.length && l.all fun x => decide (x < 1024)
/-- The fields of a Harness request fit their places (Table 19-4). -/
def hReqOk (q : HReq) : Bool := decide (q.op < 256) && decide (q.target < 256) && decide (q.idx < 256) && decide (q.rsv < 128)
/-- A Guard command's LEN fits its field of four bytes, its address has seven bits (R542, R583). -/
def gReqOk (q : GReq) : Bool := decide (q.addr < 2 ^ 7) && decide (q.len < 2 ^ 32)
/-- Straps: three address bits, one clock for each of eight planes (R583, Table 20-5). -/
def strapsOk (st : Straps) : Bool := decide (st.i3cAddr < 8) && decide (st.fabclk < 256)
/-- A domain of a unit that the device has (Table 17-1). -/
def domainOk : Domain → Bool
  | .coachArrays n => coachOk n
  | .coachControl n => coachOk n
  | .postilion p => decide (p < 8)
  | .core k => decide (k < 8)
  | .hitchPair m => decide (m < 16)
  | .dsPort q => portOk q
  | .collective => true
  | .dray => true
  | .fabricAgent => true

/-- A command that the hardware can present. -/
def Instr.wf : Instr → Bool
  | .registerWrite _ bar _ width _ => barOk bar && (width == 32 || width == 64)
  | .misalignedAccess _ bar off size _ => barOk bar && !accessOk off (8 * size)
  | .lowWordReadLatch _ off width => accessOk off width
  | .routepass src _ => sourceOk src
  | .routepassWaitSatisfied _ => true
  | .postilionShareDispatch p => decide (p < 8)
  | .routeReductionComplete _ _ => true
  | .scatterCommit _ => true
  | .exchange src _ => sourceOk src
  | .exchangeFixSlots _ => true
  | .exchangeStepStart _ => true
  | .unpackSegment _ _ => true
  | .returnExchangeStart _ => true
  | .combineReturnRecord _ _ _ => true
  | .waybillUpdate => true
  | .waybillUpdateDone => true
  | .waybillRegWrite _ _ => true
  | .cqhwmClear => true
  | .matmul n => coachOk n
  | .gexpert n => coachOk n
  | .compress n => coachOk n
  | .vector n => coachOk n
  | .copy n => coachOk n
  | .arrayPassStart p => coachOk p.coach && p.faults.all fun f => decide (f.row < 2048) && decide (f.col < 32)
  | .residueVerdict n fill => coachOk n && (fill.getD []).all fun f => decide (f.array < 4)
  | .idleFillStart n => coachOk n
  | .fillRampDown n => coachOk n
  | .fillRampEnd n => coachOk n
  | .cchIdlefillWrite _ => true
  | .runprog src _ => sourceOk src
  | .instStart n => coachOk n
  | .wait n => coachOk n
  | .waitSatisfied n => coachOk n
  | .signal n => coachOk n
  | .signalTeamFire _ => true
  | .take n => coachOk n
  | .takeq n => coachOk n
  | .takeAnswer n _ => coachOk n
  | .takeTimeout n => coachOk n
  | .progEnd n => coachOk n
  | .commandCommit _ => true
  | .commandKill _ _ => true
  | .killComplete _ => true
  | .cchStepWrite _ => true
  | .cchSeedWrite _ => true
  | .ptEntryWrite _ => true
  | .ptEntryRead _ => true
  | .ptUpdateDone => true
  | .ptRegWrite _ _ => true
  | .move src _ => sourceOk src
  | .moveSweepDone page => decide (page < 2 ^ 22)
  | .moveSwitch page => decide (page < 2 ^ 22)
  | .moveDestFail page => decide (page < 2 ^ 22)
  | .agerSweep => true
  | .timetableStart => true
  | .timetableStop => true
  | .timetableEntryTrigger => true
  | .timetableConfigWrite _ _ => true
  | .saturationSample _ _ _ => true
  | .retrainSlotDue st _ => decide (st < 8)
  | .retrainSlotDefer st _ => decide (st < 8)
  | .retrainSlotEnd => true
  | .scrubRead frame line _ => decide (frame < 147456) && decide (line < 32768)
  | .alloc owner _ _ => ownerCode owner
  | .liveryAllocServe => true
  | .free owner _ => ownerCode owner
  | .share owner _ dst => ownerCode owner && ownerCode dst
  | .drop owner _ => ownerCode owner
  | .liveryEnable => true
  | .liveryDisable => true
  | .liveryConfigWrite _ _ => true
  | .liveryDryLimit => true
  | .hostBarrowAlloc => true
  | .lvyFreeWrite _ => true
  | .lowwmClear => true
  | .linkFrameReceive h ls => hitchOk h && frameOk ls
  | .linkFrameTransmit h => hitchOk h
  | .retryRequestTimeout h => hitchOk h
  | .ackTimeout h => hitchOk h
  | .linkIdleTimeout h => hitchOk h
  | .laneSignalLoss h lane => hitchOk h && decide (lane < 4)
  | .mgmtMessageResend h => hitchOk h
  | .ts h _ => hitchOk h
  | .widthReq h _ => hitchOk h
  | .widthAck h _ => hitchOk h
  | .widthNak h _ => hitchOk h
  | .widthSwitch h _ => hitchOk h
  | .down h => hitchOk h
  | .trainingAttemptEnd h _ _ => hitchOk h
  | .hitchEnable h => hitchOk h
  | .hitchDisable h => hitchOk h
  | .hitchDisableDrainDone h => hitchOk h
  | .hitchRetrainRequest h => hitchOk h
  | .hitchDeconfigure h => hitchOk h
  | .firmwareVerified => true
  | .hitchRetrainDue h => hitchOk h
  | .symbolRateCheck h => hitchOk h
  | .retrainPairTrained h => hitchOk h
  | .retrainPairTimeout h _ => hitchOk h
  | .hitchRetrainDefer h => hitchOk h
  | .carriageArrival h => hitchOk h
  | .carriageSubmit e => decide (e < 43)
  | .localEntryRetry e => decide (e < 43)
  | .noRouteRetry e => decide (e < 43)
  | .norouteTimeout e => decide (e < 43)
  | .hitchCarriageStart h => hitchOk h
  | .planeSaturationSample => true
  | .stgCoordWrite _ => true
  | .stgReserveApply => true
  | .buflowClear => true
  | .shaperRefill h => hitchOk h
  | .policerRefill h => hitchOk h
  | .tpkCfgWrite _ => true
  | .tpkShapeWrite h c _ => hitchOk h && decide (c < 8)
  | .tpkPoliceWrite h c _ => hitchOk h && decide (c < 8)
  | .timeAdjust _ => true
  | .tsyncExchange => true
  | .tsyncRequest rank c => decide (rank < 65536) && carriageOk c
  | .tsyncResponse rank c => decide (rank < 65536) && carriageOk c
  | .gateArm p => decide (p < 8)
  | .gateCancel p => decide (p < 8)
  | .gateSwitchover p => decide (p < 8)
  | .gateEntryAdvance p => decide (p < 8)
  | .gateListWrite _ _ => true
  | .gform src _ => sourceOk src
  | .gdissolve src _ => sourceOk src
  | .shift src _ => sourceOk src
  | .permute src _ => sourceOk src
  | .alltoall src _ => sourceOk src
  | .allreduce src _ => sourceOk src
  | .collectiveAdmit _ => true
  | .join c => carriageOk c
  | .joinack c => carriageOk c
  | .joinRepeat _ _ => true
  | .formTimeout _ => true
  | .offer c => carriageOk c
  | .ticketGrant _ _ _ => true
  | .ticket c => carriageOk c
  | .chunkReceive c => carriageOk c
  | .compl c => carriageOk c
  | .complCoalesceFlush _ _ _ => true
  | .missing c => carriageOk c
  | .abort c => carriageOk c
  | .probe c => carriageOk c
  | .probeack c => carriageOk c
  | .offerRepeat _ => true
  | .linkDownRetransmit p => decide (p < 8)
  | .chunkCompletionTimeout _ _ _ _ => true
  | .gapTimeout _ _ => true
  | .probeTimeout _ _ => true
  | .peerFailTimeout _ _ => true
  | .stallTimeout _ => true
  | .mfx src _ => sourceOk src
  | .matomic src _ => sourceOk src
  | .load c => carriageOk c
  | .store c => carriageOk c
  | .atomic c => carriageOk c
  | .bulkrd c => carriageOk c
  | .bulkack c => carriageOk c
  | .bulkChunkReceive c => carriageOk c
  | .lineResponseReceive c => carriageOk c
  | .requestTimeout _ => true
  | .bulkChunkTimeout _ _ _ => true
  | .atomEntryExpire _ _ => true
  | .regionWrite _ _ => true
  | .regionChangeApply i => decide (i < 64)
  | .loanWrite j _ => decide (j < 16)
  | .loanEnd j => decide (j < 16)
  | .loanClearDone j => decide (j < 16)
  | .borrowWrite k _ => decide (k < 16)
  | .borrowRecheck k => decide (k < 16)
  | .doorbellSqtail r _ => ringOk r
  | .doorbellCqhead r _ => ringOk r
  | .ringFetch r ds => ringOk r && decide (ds.length ≤ 16)
  | .ringEnable r v => ringOk r && v.getLsbD 0
  | .ringDisable r v => ringOk r && !v.getLsbD 0
  | .ringConfigWrite _ _ => true
  | .upstreamLinkDown => true
  | .upstreamLinkUp speed width => decide (1 ≤ speed) && decide (speed ≤ 3) && [4, 8, 16].contains width
  | .configRequest _ => true
  | .hdmDecoderCommit _ => true
  | .hostHdmRead _ _ => true
  | .hostHdmWrite _ data => data.length == 64
  | .bisnpResponse _ _ => true
  | .h2dSnoop _ => true
  | .dsPortEnable q => portOk q
  | .dsPortDisableWrite q => portOk q
  | .dsPortLinkUp q _ => portOk q
  | .sloop src _ => sourceOk src
  | .sstop src _ => sourceOk src
  | .sessionConfigWrite _ _ => true
  | .frameQueuePoll => true
  | .loopFrameStart => true
  | .loopEmptyStep => true
  | .loopStepComplete => true
  | .jadmit src _ => sourceOk src
  | .jlaunch src _ => sourceOk src
  | .jorderPreempt src _ => sourceOk src
  | .jorderResume src _ => sourceOk src
  | .jorderEnd src _ => sourceOk src
  | .junitDeconfigureCoach src _ => sourceOk src
  | .junitParkPostilion src _ => sourceOk src
  | .junitUnparkPostilion src _ => sourceOk src
  | .junitDisablePort src _ => sourceOk src
  | .junitEnablePort src _ => sourceOk src
  | .portDrainTimeout q => portOk q
  | .manifest c => carriageOk c
  | .arm c => carriageOk c
  | .armack c => carriageOk c
  | .armWaitExpire => true
  | .go c => carriageOk c
  | .tGoReached => true
  | .labort c => carriageOk c
  | .launchMessageResend _ _ => true
  | .childAckTimeout _ _ => true
  | .admitTimeout => true
  | .launchHoldExpire => true
  | .ordreq c => carriageOk c
  | .order c => carriageOk c
  | .ack c => carriageOk c
  | .ordreqTimeout => true
  | .scrubComplete => true
  | .domainWake dm => domainOk dm
  | .powerGateIdle dm => domainOk dm
  | .wakeWindow _ => true
  | .fastLoopTick _ _ => true
  | .slowLoopTick _ _ => true
  | .stepChangeSettled c => decide (c < 16)
  | .railTelemetryRead i mv ma => decide (i < 3) && decide (mv < 2 ^ 16) && decide (ma < 2 ^ 20)
  | .imonSample x _ => decide (x < 7)
  | .telemetryTimeout i => decide (i < 3)
  | .vidWriteFail i => decide (i < 3)
  | .throttleAssert => true
  | .throttleDeassert => true
  | .sensorRead xs => xs.length == 40
  | .hbmSensorRead s _ => decide (s < 8)
  | .sensorCalibrationCheck s _ => decide (s < 40)
  | .railOutOfRange _ => true
  | .tripDomainsGated => true
  | .tripRailsOff => true
  | .standbyPowerUp _ => true
  | .coldResetPin _ => true
  | .resetRelease st => strapsOk st
  | .warmReset => true
  | .functionLevelReset => true
  | .sramZeroDone => true
  | .imageVerifyDone _ => true
  | .hbmTrainingDone => true
  | .hbmZeroDone => true
  | .bootReady => true
  | .lifecycleCxlWipeDone _ => true
  | .setLimits q => gReqOk q
  | .lifecycle q => gReqOk q
  | .svnCommit q => gReqOk q
  | .imageBegin q => gReqOk q
  | .imageBlock q => gReqOk q
  | .imageEnd q _ => gReqOk q
  | .fenceClear q => gReqOk q
  | .debugUnlock q => gReqOk q
  | .coldReset q => gReqOk q
  | .readMeters q => gReqOk q
  | .readMeterlog q => gReqOk q
  | .readFence q => gReqOk q
  | .getVersion => true
  | .getCapabilities => true
  | .negotiateAlgorithms _ _ => true
  | .getDigests => true
  | .getCertificate _ _ _ => true
  | .challenge _ nonce => nonce.length == 32
  | .getMeasurements _ _ nonce => nonce.length == 32
  | .slhSignatureRequest => true
  | .errHeadWrite _ => true
  | .harnessDeselect => true
  | .harnessTimeout => true
  | .harnessStatus q => hReqOk q
  | .harnessHalt q => hReqOk q
  | .harnessResume q => hReqOk q
  | .harnessStep q => hReqOk q
  | .harnessBpset q => hReqOk q
  | .harnessBpclr q => hReqOk q
  | .harnessRdreg q => hReqOk q
  | .harnessWrreg q => hReqOk q
  | .harnessRdmem q => hReqOk q
  | .harnessWrmem q => hReqOk q
  | .sequencerHaltComplete n => coachOk n
  | .breakpointHit target => decide (target < 8) || (decide (0x40 ≤ target) && decide (target < 0x80))
  | .dsPortLinkDown q => portOk q
  | .counterRead _ off width => accessOk off width
  | .bulkackCoalesceFlush _ _ => true
  | .coldResetDelayExpire => true
  | .standbyPowerLoss => true

end Sys2Proof
end

