-- ==== Sys2Proof/Certificates/Slice0/Obligations.lean ====
section
/-! DEFINITION. The statements about the device, one definition each: the families of commands in the order of the chapters,
then the device as a whole. -/
open Sys2Proof Sys2Proof.Machine

/-- R309 to R311, Table 09-2: what each operation does to the barrow it names; the results are whole devices, so that they
state the frame as well. -/
def Obligations.BarrowOperations : Prop := ∀ (q : List Instr) (d : Dev) (p i : Nat) (b : Barrow), d.alive = true →
    d.barrowOf p = some i → d.barrow i = some b →
  (b.holders = 0 → exec (.free b.owner p) ⟨q, d⟩
      = .next ⟨q, ((d.setBarrow i none).bump Reg.LVY_CNT_FREE 1).livSettle⟩)
  ∧ (b.holders ≠ 0 → exec (.free b.owner p) ⟨q, d⟩ = .next ⟨q, (d.setBarrow i (some { b with pend := true })).livSettle⟩)
  ∧ (∀ dst, b.holders < 15 → (dst = 0x01 ∨ 0x08 ≤ dst ∧ dst ≤ 0x11) → exec (.share b.owner p dst) ⟨q, d⟩
      = .next ⟨q, (d.setBarrow i (some { b with holders := b.holders + 1, owner := dst })).livSettle⟩)
  ∧ (∀ who, 1 ≤ b.holders → ¬ (b.holders = 1 ∧ b.pend = true) → exec (.drop who p) ⟨q, d⟩
      = .next ⟨q, (d.setBarrow i (some { b with holders := b.holders - 1 })).livSettle⟩)
  ∧ (∀ who, b.holders = 1 → b.pend = true → exec (.drop who p) ⟨q, d⟩
      = .next ⟨q, ((d.setBarrow i none).bump Reg.LVY_CNT_FREE 1).livSettle⟩)
  ∧ (∀ v : Word64, v.toNat = p → b.owner = 0x11 → b.holders = 0 → exec (.lvyFreeWrite v) ⟨q, d⟩
      = .next ⟨q, ((d.setBarrow i none).bump Reg.LVY_CNT_FREE 1).livSettle⟩)

/-- R311: the operations refused; each leaves every barrow record as it was. -/
def Obligations.BarrowOperationRefused : Prop := ∀ (q : List Instr) (d : Dev) (who p dst : Nat), d.alive = true →
  (d.barrowOf p = none → ∀ c ∈ [Instr.free who p, .share who p dst, .drop who p],
      ∃ t, exec c ⟨q, d⟩ = .next ⟨q, t⟩ ∧ d.Recorded t clsMEM 0x010 p 0 blkLVY 0 ∧ t.liv.barrows = d.liv.barrows
        ∧ t.reg Reg.LVY_CNT_BADOP = (d.reg Reg.LVY_CNT_BADOP + 1) % 2 ^ 64)
  ∧ (∀ i, d.barrowOf p = some i → d.barrow i = none → ∀ c ∈ [Instr.free who p, .share who p dst, .drop who p],
      ∃ t, exec c ⟨q, d⟩ = .next ⟨q, t⟩ ∧ d.Recorded t clsMEM 0x011 (i + who * 2 ^ 24) 0 blkLVY 0
        ∧ t.liv.barrows = d.liv.barrows ∧ t.reg Reg.LVY_CNT_BADOP = (d.reg Reg.LVY_CNT_BADOP + 1) % 2 ^ 64)
  ∧ (∀ i b c, d.barrowOf p = some i → d.barrow i = some b →
      (c = Instr.free who p ∧ b.owner ≠ who ∨ c = .drop who p ∧ b.holders = 0
        ∨ c = .share who p dst ∧ (b.owner ≠ who ∨ 15 ≤ b.holders ∨ ¬ (dst = 0x01 ∨ 0x08 ≤ dst ∧ dst ≤ 0x11))) →
      ∃ t, exec c ⟨q, d⟩ = .next ⟨q, t⟩
        ∧ d.Recorded t clsMEM 0x011 (i + who * 2 ^ 24) (if who = 0x10 ∨ who = 0x11 then 0 else b.gen) blkLVY 0
        ∧ t.liv.barrows = d.liv.barrows ∧ t.reg Reg.LVY_CNT_BADOP = (d.reg Reg.LVY_CNT_BADOP + 1) % 2 ^ 64)

/-- R312, R313: the queue served and the barrow given. -/
def Obligations.AllocationGivesLowestFreeBarrow : Prop := ∀ (q : List Instr) (d : Dev), d.alive = true →
    Sparse.wf barrowDefault d.liv.barrows = true → d.reg Reg.LVY_CNT_WAIT < 2 ^ 64 →
  (∀ r rs, d.livEn = true → d.liv.retq = r :: rs → 0 < d.livFree →
    ∃ t i, exec .liveryAllocServe ⟨q, d⟩ = .next ⟨q, t⟩ ∧ d.barrow i = none ∧ (∀ j, j < i → d.barrow j ≠ none)
      ∧ i < d.livCount ∧ t.barrow i = some ⟨r.owner, 0, false, r.gen⟩ ∧ (∀ j, j ≠ i → t.barrow j = d.barrow j)
      ∧ SameRequests t.liv.retq rs ∧ SameRequests t.liv.norq d.liv.norq ∧ t.outs = d.outs ++ [.barrow r.owner (d.barrowPtr i) r.gen]
      ∧ t.reg Reg.LVY_CNT_WAIT = (d.reg Reg.LVY_CNT_WAIT + r.waited.toNat) % 2 ^ 64)
  ∧ (∀ r rs, d.retMay = false → d.livEn = true → d.liv.norq = r :: rs → d.livReserve < d.livFree →
    ∃ t i, exec .liveryAllocServe ⟨q, d⟩ = .next ⟨q, t⟩ ∧ d.barrow i = none ∧ (∀ j, j < i → d.barrow j ≠ none)
      ∧ i < d.livCount ∧ t.barrow i = some ⟨r.owner, 0, false, r.gen⟩ ∧ (∀ j, j ≠ i → t.barrow j = d.barrow j)
      ∧ SameRequests t.liv.norq rs ∧ SameRequests t.liv.retq d.liv.retq ∧ t.outs = d.outs ++ [.barrow r.owner (d.barrowPtr i) r.gen]
      ∧ t.reg Reg.LVY_CNT_WAIT = (d.reg Reg.LVY_CNT_WAIT + r.waited.toNat) % 2 ^ 64)

/-- R304, R305, R309, R312, R316, R320. -/
def Obligations.LiveryRequestsAndControl : Prop := ∀ (q : List Instr) (d : Dev), d.alive = true →
  (∀ owner gen, (owner = 0x01 ∨ 0x08 ≤ owner ∧ owner ≤ 0x10) →
      ((d.liv.retq ++ d.liv.norq).filter fun r => r.owner == owner).length < 4 →
      (∃ w, exec (.alloc owner true gen) ⟨q, d⟩
        = .next ⟨q, Dev.livSettle { d with liv := { d.liv with retq := d.liv.retq ++ [⟨owner, gen, w⟩] } }⟩)
      ∧ ∃ w, exec (.alloc owner false gen) ⟨q, d⟩
        = .next ⟨q, Dev.livSettle { d with liv := { d.liv with norq := d.liv.norq ++ [⟨owner, gen, w⟩] } }⟩)
  ∧ (d.livEn = false → winOk (d.reg Reg.LVY_WIN) d.livReserve = true →
      ∃ t, exec .liveryEnable ⟨q, d⟩ = .next ⟨q, t⟩ ∧ t.livEn = true ∧ t.liv.barrows = []
        ∧ t.livCount = d.fld Reg.LVY_WIN 32 18 ∧ t.fld Reg.LVY_LOWWM 0 18 = d.fld Reg.LVY_WIN 32 18
        ∧ d.RegsBut t [Reg.LVY_CTL, Reg.LVY_LOWWM])
  ∧ (d.livEn = false → winOk (d.reg Reg.LVY_WIN) d.livReserve = false →
      ∃ t, exec .liveryEnable ⟨q, d⟩ = .next ⟨q, t⟩ ∧ t.livEn = false ∧ d.Recorded t clsMEM 0x013 0xFFFFFFFF 0 blkLVY 0)
  ∧ (∃ t, exec .liveryDisable ⟨q, d⟩ = .next ⟨q, t⟩ ∧ t.livEn = false ∧ t.liv.barrows = d.liv.barrows
        ∧ SameRequests t.liv.retq d.liv.retq ∧ SameRequests t.liv.norq d.liv.norq ∧ d.RegsBut t [Reg.LVY_CTL])
  ∧ (∀ v : Word64, d.livEn = false → v.toNat < 2 ^ 32 → bits v.toNat 24 8 ≠ 0 →
      ∃ t, exec (.liveryConfigWrite Reg.LVY_CFG v) ⟨q, d⟩ = .next ⟨q, t⟩ ∧ t.fld Reg.LVY_CFG 0 18 = bits v.toNat 0 18
        ∧ t.fld Reg.LVY_CFG 24 8 = bits v.toNat 24 8 ∧ d.OnlyRegs t [Reg.LVY_CFG])
  ∧ (∀ v : Word64, d.livEn = true → ∃ t, exec (.liveryConfigWrite Reg.LVY_CFG v) ⟨q, d⟩ = .next ⟨q, t⟩
        ∧ d.Recorded t clsMEM 0x013 (Reg.LVY_CFG % 2 ^ 20) 0 blkLVY 0 ∧ t.reg Reg.LVY_CFG = d.reg Reg.LVY_CFG)
  ∧ (d.livDry = true → d.liv.dryRec = false → ∃ t, exec .liveryDryLimit ⟨q, d⟩ = .next ⟨q, t⟩
        ∧ d.Recorded t clsMEM 0x012 d.livWaiting 0 blkLVY 0 ∧ t.liv.dryRec = true ∧ t.liv.retq = d.liv.retq
        ∧ t.liv.norq = d.liv.norq)
  ∧ (d.livEn = true → d.liv.norq = [] → d.livReserve < d.livFree → ∃ t, exec .hostBarrowAlloc ⟨q, d⟩ = .next ⟨q, t⟩
        ∧ t.reg Reg.LVY_ALLOC = 0
        ∧ t.reg Reg.LVY_ALLOCPTR = d.barrowPtr (lowestFree d.liv.barrows d.liv.barrows.length) % 2 ^ 64
        ∧ t.barrow (lowestFree d.liv.barrows d.liv.barrows.length) = some ⟨0x11, 0, false, 0⟩)
  ∧ (d.livFree ≤ d.livReserve → exec .hostBarrowAlloc ⟨q, d⟩
        = .next ⟨q, (d.setReg Reg.LVY_ALLOC 2).bump Reg.LVY_CNT_EMPTY 1⟩)
  ∧ exec .lowwmClear ⟨q, d⟩ = .next ⟨q, d.setReg Reg.LVY_LOWWM d.livFree⟩

/-- R374 to R376, R386 to R388: every class of the Hitch named, and nothing of another Hitch. -/
def Obligations.ShaperAndPolicerRefill : Prop := ∀ (q : List Instr) (d : Dev) (h : Nat), d.alive = true → h < 32 →
  (d.hState h = hsRETRAIN ∧ d.hWidth h = 0 → exec (.shaperRefill h) ⟨q, d⟩ = .next ⟨q, d⟩)
  ∧ (¬ (d.hState h = hsRETRAIN ∧ d.hWidth h = 0) → d.txCount h = 8 → exec (.shaperRefill h) ⟨q, d⟩ = .next ⟨q, d.setTxCount h 0⟩)
  ∧ (d.rxCount h = 8 → exec (.policerRefill h) ⟨q, d⟩ = .next ⟨q, d.setRxCount h 0⟩)
  ∧ (¬ (d.hState h = hsRETRAIN ∧ d.hWidth h = 0) → d.txCount h ≠ 8 → ∃ t, exec (.shaperRefill h) ⟨q, d⟩ = .next ⟨q, t⟩
    ∧ t.txCount h = 0
    ∧ (∀ c, c < 8 → t.shapeEff h c = d.reg (Reg.TPK_SHAPE h c)
        ∧ (d.fld (Reg.TPK_SHAPE h c) 0 10 = 0 → t.credit h c = ((d.fld (Reg.TPK_SHAPE h c) 16 8 * 1024 : Nat) : Int))
        ∧ (d.fld (Reg.TPK_SHAPE h c) 0 10 ≠ 0 → t.credit h c = min ((d.fld (Reg.TPK_SHAPE h c) 16 8 * 1024 : Nat) : Int)
            (d.credit h c + 10 * ((d.fld (Reg.TPK_SHAPE h c) 0 10 : Nat) : Int))))
    ∧ d.RegsBut t ((List.range 8).map (Reg.TPK_CREDIT h)) ∧ t.log = d.log ∧ t.mem = d.mem ∧ t.outs = d.outs)
  ∧ (d.rxCount h ≠ 8 → ∃ t, exec (.policerRefill h) ⟨q, d⟩ = .next ⟨q, t⟩
    ∧ t.rxCount h = 0
    ∧ (∀ c, c < 8 → t.polEff h c = d.reg (Reg.TPK_POLICE h c)
        ∧ t.bucketC h c = min (d.fld (Reg.TPK_POLICE h c) 16 8 * 1024) (d.bucketC h c + 10 * d.fld (Reg.TPK_POLICE h c) 0 10)
        ∧ t.bucketP h c = min (d.fld (Reg.TPK_POLICE h c) 48 8 * 1024) (d.bucketP h c + 10 * d.fld (Reg.TPK_POLICE h c) 32 10)
        ∧ t.flag (Reg.TPK_PSTAT h) c = (d.flag (Reg.TPK_PSTAT h) c && decide (t.bucketP h c < 4160)))
    ∧ d.RegsBut t [Reg.TPK_PSTAT h] ∧ t.log = d.log ∧ t.mem = d.mem ∧ t.outs = d.outs)

/-- R375, R376, R386, R388. -/
def Obligations.TurnpikeWritesTakeEffectAtRefill : Prop := ∀ (q : List Instr) (d : Dev), d.alive = true →
  (∀ h c, ∀ v : Word32, h < 32 → c < 8 → ∃ t, exec (.tpkShapeWrite h c v) ⟨q, d⟩ = .next ⟨q, t⟩
      ∧ t = { d.regWrite .host (Reg.TPK_SHAPE h c) v.toNat with tpk := t.tpk } ∧ t.shapeEff h c = d.shapeEff h c
      ∧ t.tpk = { d.tpk with shape := t.tpk.shape })
  ∧ (∀ h c, ∀ v : Word64, h < 32 → c < 8 → ∃ t, exec (.tpkPoliceWrite h c v) ⟨q, d⟩ = .next ⟨q, t⟩
      ∧ t = { d.regWrite .host (Reg.TPK_POLICE h c) v.toNat with tpk := t.tpk } ∧ t.polEff h c = d.polEff h c
      ∧ t.tpk = { d.tpk with police := t.tpk.police })
  ∧ (∀ v : Word32, ¬ (bit v.toNat 0 = true ∧ d.shapeEn = false) → ¬ (bit v.toNat 1 = true ∧ d.policeEn = false) →
      exec (.tpkCfgWrite v) ⟨q, d⟩ = .next ⟨q, d.regWrite .host Reg.TPK_CFG v.toNat⟩)
  ∧ (∀ v : Word32, bit v.toNat 0 = true → d.shapeEn = false → ∃ t, exec (.tpkCfgWrite v) ⟨q, d⟩ = .next ⟨q, t⟩
      ∧ t.shapeEn = true ∧ ∀ h c, h < 32 → c < 8 → t.credit h c = (bits (d.shapeEff h c) 16 8 * 1024 : Nat))
  ∧ (∀ v : Word32, bit v.toNat 1 = true → d.policeEn = false → ∃ t, exec (.tpkCfgWrite v) ⟨q, d⟩ = .next ⟨q, t⟩
      ∧ t.policeEn = true ∧ ∀ h c, h < 32 → c < 8 → t.bucketC h c = bits (d.polEff h c) 16 8 * 1024
        ∧ t.bucketP h c = bits (d.polEff h c) 48 8 * 1024)

/-- R378 to R380. The two times that the reference stamps are equal: the model answers within one step (see the log on
Turnpike timing). -/
def Obligations.FabricTime : Prop := ∀ (q : List Instr) (d : Dev), d.alive = true →
  (∀ v, d.tsyncEn = true → d.tsyncRef = false → ∃ t, exec (.timeAdjust v) ⟨q, d⟩ = .next ⟨q, t⟩
      ∧ d.Recorded t clsFAB 0x023 d.tsyncGroup 0 blkTPK 0 ∧ t.tpk = d.tpk ∧ t.now = d.now)
  ∧ (∀ v : Word64, (d.tsyncEn && !d.tsyncRef) = false → (toSigned 64 v.toNat).natAbs ≤ 1000000 →
      exec (.timeAdjust v) ⟨q, d⟩ = .next ⟨q, { d with tpk := { d.tpk with slew := toSigned 64 v.toNat, slewPh := 0 } }⟩)
  ∧ (∀ v : Word64, (d.tsyncEn && !d.tsyncRef) = false → 1000000 < (toSigned 64 v.toNat).natAbs →
      ∃ t, exec (.timeAdjust v) ⟨q, d⟩ = .next ⟨q, t⟩ ∧ t.now = ofSigned 64 ((d.now : Int) + toSigned 64 v.toNat)
        ∧ t.tpk.slew = 0)
  ∧ (∀ gr, d.group d.tsyncGroup = some gr → d.tsyncEn = true → d.tsyncRef = false → d.tpk.t1 = none →
      exec .tsyncExchange ⟨q, d⟩ = .next ⟨q, (Dev.sendCtl { d with tpk := { d.tpk with t1 := some (BitVec.ofNat 64 d.now) } }
          gr 0 cTSREQ 0 (d.now % 2 ^ 32) 0 []).bump Reg.TPK_CNT_TSYNC 1⟩)
  ∧ (∀ c gr rank, d.tsyncEn = true → d.tsyncRef = true → (d.taken c).gate (ctlGroup c) c = .pass gr rank → gr.gid = d.tsyncGroup →
      exec (.tsyncRequest rank c) ⟨q, d⟩
        = .next ⟨q, (d.taken c).sendCtl gr rank cTSANS 0 c.xid 0 [(40, 0, 64, d.now), (48, 0, 64, d.now)]⟩)
  ∧ (∀ c gr, ∀ t1 t2 t3 : Word64, ∀ off : Int, d.tpk.t1 = some t1 → d.tsyncEn = true → d.tsyncRef = false →
      c.xid = t1.toNat % 2 ^ 32 → (d.taken c).gate (ctlGroup c) c = .pass gr 0 →
      gr.gid = d.tsyncGroup → t2 = BitVec.ofNat 64 (c.f 40 0 64) → t3 = BitVec.ofNat 64 (c.f 48 0 64) →
      off = Int.tdiv (toSigned 64 (t2 - t1).toNat + toSigned 64 (t3 - BitVec.ofNat 64 d.now).toNat) 2 → off.natAbs ≤ 50 →
      ∃ t, exec (.tsyncResponse 0 c) ⟨q, d⟩ = .next ⟨q, t⟩ ∧ t.tpk.t1 = none ∧ t.tpk.good = d.tpk.good + 1
        ∧ t.tpk.slew = off ∧ t.fld Reg.TPK_TSTAT 8 24 = ofSigned 24 off
        ∧ t.flag Reg.TPK_TSTAT 0 = (d.flag Reg.TPK_TSTAT 0 || decide (3 ≤ d.tpk.good)) ∧ d.RegsBut t [Reg.TPK_TSTAT])

/-- R381 to R384. -/
def Obligations.GateLists : Prop := ∀ (q : List Instr) (d : Dev) (p : Nat), d.alive = true → p < 8 →
  (∀ b, b = 1 - d.gateBank p → d.gateArmed p = false → d.now < d.reg (Reg.TPK_GBASE p) → 1 ≤ d.bankLen p b →
      d.bankLen p b ≤ 64 → (∀ i, i < d.bankLen p b → bits (d.gateEntry p b i) 8 24 = 0 ∧ 100 ≤ entryDur (d.gateEntry p b i)) →
      exec (.gateArm p) ⟨q, d⟩ = .next ⟨q, d.setFlag (Reg.TPK_GCTL p) 1 true⟩)
  ∧ (d.gateArmed p = false → d.reg (Reg.TPK_GBASE p) ≤ d.now → ∃ t, exec (.gateArm p) ⟨q, d⟩ = .next ⟨q, t⟩
      ∧ d.Recorded t clsFAB 0x020 (p + 0x3F * 2 ^ 8) 0 blkTPK 0 ∧ t.gateArmed p = false)
  ∧ exec (.gateCancel p) ⟨q, d⟩ = .next ⟨q, d.setFlag (Reg.TPK_GCTL p) 1 false⟩
  ∧ (d.gateArmed p = true → ∃ t, exec (.gateSwitchover p) ⟨q, d⟩ = .next ⟨q, t⟩ ∧ t.gateBank p = 1 - d.gateBank p
      ∧ t.gateArmed p = false ∧ t.fld (Reg.TPK_GSTAT p) 8 6 = 0
      ∧ t.fld (Reg.TPK_GSTAT p) 16 8 = entryOpen (d.gateEntry p (1 - d.gateBank p) 0)
      ∧ t.reg (Reg.TPK_CNT_GSWITCH p) = (d.reg (Reg.TPK_CNT_GSWITCH p) + 1) % 2 ^ 64
      ∧ d.RegsBut t [Reg.TPK_GCTL p, Reg.TPK_GSTAT p, Reg.TPK_CNT_GSWITCH p])
  ∧ (∀ x, d.bankLen p (d.gateBank p) ≠ 0 → Sparse.get optDefault d.tpk.base p = some x →
      exec (.gateEntryAdvance p) ⟨q, d⟩
        = .next ⟨q, d.showEntry p ((d.fld (Reg.TPK_GSTAT p) 8 6 + 1) % d.bankLen p (d.gateBank p))⟩)
  ∧ (∀ b i, ∀ v : Word64, b < 2 → i < 64 → (b = d.gateBank p ∨ d.gateArmed p = true) →
      ∃ t, exec (.gateListWrite (Reg.TPK_GENTRY p b i) v) ⟨q, d⟩ = .next ⟨q, t⟩
        ∧ d.Recorded t clsFAB 0x022 (Reg.TPK_GENTRY p b i % 2 ^ 20) 0 blkTPK 0 ∧ t.gateEntry p b i = d.gateEntry p b i)
  ∧ (∀ b i, ∀ v : Word64, b < 2 → i < 64 → b ≠ d.gateBank p → d.gateArmed p = false →
      exec (.gateListWrite (Reg.TPK_GENTRY p b i) v) ⟨q, d⟩ = .next ⟨q, d.regWrite .host (Reg.TPK_GENTRY p b i) v.toNat⟩)

/-- R361, R362, Table 11-5: what becomes of an arriving carriage. -/
def Obligations.ArrivingCarriages : Prop := ∀ (q : List Instr) (d : Dev) (h vc : Nat) (c : Carriage) (cs : List Carriage),
    d.alive = true → (d.hitch h).rxDone = c :: cs → vc = (if c.relayed then 5 else c.vc) →
  ((d.fits h vc c.size = true ∨ d.headUsed h vc + c.size ≤ d.stg.headKiB * 1024) → d.policeEn = false →
    (c.crcOk = true → c.malformed = false → d.coordValid = true → c.dst = d.coord →
      ∃ t, exec (.carriageArrival h) ⟨q, d⟩ = .next ⟨q, t⟩ ∧ t.stg.inbox = d.stg.inbox ++ [(deliverTo c, c)]
        ∧ t.reg Reg.STG_CNT_LOCAL = (d.reg Reg.STG_CNT_LOCAL + 1) % 2 ^ 64 ∧ t.log = d.log
        ∧ (t.hitch h).rxDone = cs ∧ t.stg.queue.length = d.stg.queue.length)
    ∧ (c.crcOk = false →
      ∃ t, exec (.carriageArrival h) ⟨q, d⟩ = .next ⟨q, t⟩ ∧ t.stg.inbox = d.stg.inbox
        ∧ t.reg Reg.STG_CNT_CRC = (d.reg Reg.STG_CNT_CRC + 1) % 2 ^ 64
        ∧ (d.stg.onceCrc.contains h = false → d.Recorded t clsFAB 0x010 (h + c.src * 2 ^ 16) 0 blkSTG 0)
        ∧ (d.stg.onceCrc.contains h = true → t.log = d.log)
        ∧ (t.hitch h).rxDone = cs ∧ t.stg.queue.length = d.stg.queue.length)
    ∧ (c.crcOk = true → c.malformed = true →
      ∃ t, exec (.carriageArrival h) ⟨q, d⟩ = .next ⟨q, t⟩ ∧ t.stg.inbox = d.stg.inbox
        ∧ t.reg Reg.STG_CNT_MALFORMED = (d.reg Reg.STG_CNT_MALFORMED + 1) % 2 ^ 64
        ∧ (d.stg.onceMal.contains h = false → d.Recorded t clsFAB 0x011 (h + c.f 4 0 16 * 2 ^ 16) 0 blkSTG 0)
        ∧ (t.hitch h).rxDone = cs ∧ t.stg.queue.length = d.stg.queue.length)
    ∧ (c.crcOk = true → c.malformed = false →
      (d.coordValid = false ∨ c.dst ≠ d.coord ∧ (c.relayed = true ∨ d.flag Reg.STG_CFG 0 = false)) →
      ∃ t, exec (.carriageArrival h) ⟨q, d⟩ = .next ⟨q, t⟩ ∧ t.stg.inbox = d.stg.inbox
        ∧ t.reg Reg.STG_CNT_MISDELIV = (d.reg Reg.STG_CNT_MISDELIV + 1) % 2 ^ 64
        ∧ (d.stg.onceMis.contains h = false →
            d.Recorded t clsFAB 0x012 (h + c.relayed.toNat * 2 ^ 8 + c.dst * 2 ^ 16) 0 blkSTG 0)
        ∧ (t.hitch h).rxDone = cs ∧ t.stg.queue.length = d.stg.queue.length)
    ∧ (∀ x pick, c.crcOk = true → c.malformed = false → d.coordValid = true → c.dst ≠ d.coord → c.relayed = false →
        d.flag Reg.STG_CFG 0 = true → d.reachGood c.dst = true →
        x = ⟨c, h, vc, !d.fits h vc c.size, 5, none, 5, some (h / 4), false⟩ → x ∉ d.stg.queue →
        (((d.setHitch h { d.hitch h with rxDone := cs }).stgEnter x).selPlane 5 c.vc c.dst true (some (h / 4))).2 = pick →
      ∃ t, exec (.carriageArrival h) ⟨q, d⟩ = .next ⟨q, t⟩ ∧ t.stg.inbox = d.stg.inbox ∧ t.log = d.log
        ∧ t.stg.queue = d.stg.queue ++ [{ x with plane := pick.map (·.1) }] ∧ (t.hitch h).rxDone = cs))
  ∧ (d.fits h vc c.size = false → d.stg.headKiB * 1024 < d.headUsed h vc + c.size →
      ∃ t, exec (.carriageArrival h) ⟨q, d⟩ = .next ⟨q, t⟩ ∧ t.stg = d.stg ∧ (t.hitch h).rxDone = cs
        ∧ t.reg (Reg.HCH_CNT_OVERRUN h) = (d.reg (Reg.HCH_CNT_OVERRUN h) + 1) % 2 ^ 64
        ∧ (bit (d.hitch h).ovrRec vc = false → d.Recorded t clsFAB 0x005 (h + vc * 2 ^ 8) 0 blkHCH h))

/-- R351, R353, R357, R360, R365. -/
def Obligations.LocalCarriagesEnterTheSwitch : Prop := ∀ (q : List Instr) (d : Dev) (e : Nat), d.alive = true →
  (∀ x, d.coordValid = true → d.stg.outbox.find? (fun x => x.ep == e) = some x →
    (d.fits e x.car.vc x.car.size = true → x.car.dst = d.coord →
      ∃ t, exec (.carriageSubmit e) ⟨q, d⟩ = .next ⟨q, t⟩
        ∧ t.stg.inbox = d.stg.inbox ++ [(deliverTo (x.car.setPlane 0), x.car.setPlane 0)]
        ∧ t.stg.outbox = d.stg.outbox.erase x ∧ t.stg.waiting = d.stg.waiting)
    ∧ (∀ p via, d.fits e x.car.vc x.car.size = true → x.car.dst ≠ d.coord → d.reachGood x.car.dst = true →
        (d.selPlane x.car.vc x.car.vc x.car.dst false x.excl).2 = some (p, via) →
      ∃ t, exec (.carriageSubmit e) ⟨q, d⟩ = .next ⟨q, t⟩ ∧ t.stg.outbox = d.stg.outbox.erase x ∧ t.stg.waiting = d.stg.waiting
        ∧ t.stg.queue = d.stg.queue ++ [⟨x.car.setPlane p, e, x.car.vc, false, x.car.vc, some p, x.car.vc, none, via⟩])
    ∧ (d.fits e x.car.vc x.car.size = true → x.car.dst ≠ d.coord → d.reachGood x.car.dst = true →
        (d.selPlane x.car.vc x.car.vc x.car.dst false x.excl).2 = none →
        (d.selPlane x.car.vc x.car.vc x.car.dst false none).2 = none →
      ∃ t, exec (.carriageSubmit e) ⟨q, d⟩ = .next ⟨q, t⟩ ∧ t.stg.outbox = d.stg.outbox.erase x ∧ t.stg.queue = d.stg.queue
        ∧ t.stg.waiting = d.stg.waiting ++ [⟨x.car, e, x.excl, true⟩])
    ∧ (d.fits e x.car.vc x.car.size = false →
      exec (.carriageSubmit e) ⟨q, d⟩ = .next ⟨q, { d with stg := { d.stg with
        outbox := d.stg.outbox.erase x, waiting := d.stg.waiting ++ [⟨x.car, e, x.excl, false⟩] } }⟩))
  ∧ (d.coordValid = false → exec (.carriageSubmit e) ⟨q, d⟩ = .next ⟨q, d⟩)
  ∧ (∀ w, d.coordValid = true →
      d.stg.waiting.find? (fun w => w.ep == e && !w.noRoute && d.fits e w.car.vc w.car.size) = some w →
      (w.car.dst = d.coord → ∃ t, exec (.localEntryRetry e) ⟨q, d⟩ = .next ⟨q, t⟩
        ∧ t.stg.inbox = d.stg.inbox ++ [(deliverTo (w.car.setPlane 0), w.car.setPlane 0)]
        ∧ t.stg.waiting = d.stg.waiting.erase w)
      ∧ ∀ p via, w.car.dst ≠ d.coord → d.reachGood w.car.dst = true →
        (d.selPlane w.car.vc w.car.vc w.car.dst false w.excl).2 = some (p, via) →
        ∃ t, exec (.localEntryRetry e) ⟨q, d⟩ = .next ⟨q, t⟩ ∧ t.stg.waiting = d.stg.waiting.erase w
          ∧ t.stg.queue = d.stg.queue ++ [⟨w.car.setPlane p, e, w.car.vc, false, w.car.vc, some p, w.car.vc, none, via⟩])
  ∧ (∀ w p via, d.coordValid = true → d.stg.waiting = [w] → w.ep = e → w.noRoute = true → (d.stg.queue.all fun x => x.plane.isSome) = true →
      d.fits e w.car.vc w.car.size = true → w.car.dst ≠ d.coord → d.reachGood w.car.dst = true →
      (d.selPlane w.car.vc w.car.vc w.car.dst false w.excl).2 = some (p, via) →
      ∃ t, exec (.noRouteRetry e) ⟨q, d⟩ = .next ⟨q, t⟩ ∧ t.stg.waiting = []
        ∧ t.stg.queue = d.stg.queue ++ [⟨w.car.setPlane p, e, w.car.vc, false, w.car.vc, some p, w.car.vc, none, via⟩])
  ∧ (∀ w, d.stg.waiting.find? (fun w => w.ep == e && w.noRoute) = some w → d.stg.onceNor.contains e = false → d.tiers.lost = [] →
      (∀ k, k < 16 → d.fld (Reg.MMF_BORROW k) 0 16 ≠ w.car.dst) →
      ∃ t, exec (.norouteTimeout e) ⟨q, d⟩ = .next ⟨q, t⟩ ∧ t.stg.waiting = d.stg.waiting.erase w
        ∧ d.Recorded t clsFAB 0x013 (e + w.car.vc * 2 ^ 8 + w.car.dst * 2 ^ 16) 0 blkSTG 0
        ∧ t.reg Reg.STG_CNT_NOROUTE = (d.reg Reg.STG_CNT_NOROUTE + 1) % 2 ^ 64)

/-- R351, R358, R363, R368, R369. -/
def Obligations.StagingSwitchControl : Prop := ∀ (q : List Instr) (d : Dev), d.alive = true →
  (∀ h y v turn (n : Int), d.hUp h = true → d.hWidth h ≠ 0 → (d.hitch h).drain = false → (d.hitch h).retrain = .none →
      ((d.hitch h).txCars.map (·.flits.length)).sum < 20 → d.headOf (h / 4) v = some y → d.eligible h v = true →
      turn = d.turnOf (h / 4) → n = (y.car.size : Nat) →
      (v = 6 ∨ v = 7 ∧ d.eligible h 6 = false ∨ d.eligible h 6 = false ∧ d.eligible h 7 = false
        ∧ (v = turn ∧ n ≤ d.deficitOf (h / 4) v
          ∨ (d.eligible h turn = true → ∃ z, d.headOf (h / 4) turn = some z ∧ d.deficitOf (h / 4) turn < (z.car.size : Nat))
            ∧ ((List.range 6).map fun i => (turn + 1 + i) % 6).find? (d.eligible h) = some v)) →
      ∃ t, exec (.hitchCarriageStart h) ⟨q, d⟩ = .next ⟨q, t⟩ ∧ t.stg.queue = d.stg.queue.erase y
        ∧ (t.hitch h).txCars = (d.hitch h).txCars ++
            [⟨y, (if y.arr.isSome then { y.car with hdr := hdrSet y.car.hdr 4 6 1 1 } else y.car).flits, false⟩]
        ∧ (6 ≤ v → ∀ u, t.deficitOf (h / 4) u = d.deficitOf (h / 4) u)
        ∧ (v < 6 → t.turnOf (h / 4) = v ∧ t.deficitOf (h / 4) v = if (t.headOf (h / 4) v).isNone then 0
            else if v = turn ∧ n ≤ d.deficitOf (h / 4) v then d.deficitOf (h / 4) v - n
            else d.deficitOf (h / 4) v + (d.fld Reg.STG_VCW (4 * v) 4 * 4160 : Nat) - n)
        ∧ (v < 6 → ¬ (v = turn ∧ n ≤ d.deficitOf (h / 4) v) →
            ∀ u, u < 6 → (d.headOf (h / 4) u).isNone = true → t.deficitOf (h / 4) u = 0)
        ∧ t.reg Reg.STG_CNT_FWD = d.reg Reg.STG_CNT_FWD ∧ t.log = d.log ∧ t.mem = d.mem)
  ∧ (∃ t, exec .planeSaturationSample ⟨q, d⟩ = .next ⟨q, t⟩ ∧ d.OnlyRegs t [Reg.STG_SATMAP] ∧ ∀ p back, p < 8 →
      back = sizes (d.stg.queue.filter fun x => x.plane == some p && decide (x.evc < 6)) →
      (d.planeLanes p ≠ 0 → d.fld Reg.STG_SATCFG 0 8 * d.planeLanes p * 1024 ≤ back → t.flag Reg.STG_SATMAP p = true)
      ∧ (d.planeLanes p = 0 → t.flag Reg.STG_SATMAP p = false)
      ∧ (back < d.fld Reg.STG_SATCFG 0 8 * d.planeLanes p * 1024 → back < d.fld Reg.STG_SATCFG 8 8 * d.planeLanes p * 1024 →
          t.flag Reg.STG_SATMAP p = false)
      ∧ (back < d.fld Reg.STG_SATCFG 0 8 * d.planeLanes p * 1024 → d.fld Reg.STG_SATCFG 8 8 * d.planeLanes p * 1024 ≤ back →
          t.flag Reg.STG_SATMAP p = d.flag Reg.STG_SATMAP p))
  ∧ (∀ v : Word32, d.anyActive = false → exec (.stgCoordWrite v) ⟨q, d⟩ = .next ⟨q, d.regWrite .host Reg.STG_COORD v.toNat⟩)
  ∧ (∀ v : Word32, d.anyActive = true → ∃ t, exec (.stgCoordWrite v) ⟨q, d⟩ = .next ⟨q, t⟩
      ∧ d.Recorded t clsFAB 0x014 (d.fld Reg.HCH_UPMAP 0 16) 0 blkSTG 0 ∧ t.reg Reg.STG_COORD = d.reg Reg.STG_COORD)
  ∧ (d.anyActive = false → ∃ t, exec .stgReserveApply ⟨q, d⟩ = .next ⟨q, t⟩ ∧ t.stg.headKiB = d.fld Reg.HCH_XCFG 0 7
      ∧ t.stg.vc6Lim = d.fld Reg.STG_STATLIM 0 8 ∧ t.stg.vc7Lim = d.fld Reg.STG_STATLIM 8 8
      ∧ t.fld Reg.STG_RESV 0 17 = t.stgResv % 2 ^ 17 ∧ d.RegsBut t [Reg.STG_BUFSTAT, Reg.STG_BUFLOW, Reg.STG_RESV])
  ∧ (d.anyActive = true → exec .stgReserveApply ⟨q, d⟩ = .next ⟨q, d⟩)
  ∧ exec .buflowClear ⟨q, d⟩ = .next ⟨q, d.setReg Reg.STG_BUFLOW (d.stgFree / 1024)⟩

/-- R325 to R330: what a Hitch does with a frame, and what it sends. The order of what it sends is the model's (log entry 143). -/
def Obligations.LinkFrames : Prop := ∀ (q : List Instr) (d : Dev) (h : Nat) (x : Hitch), d.alive = true → h < 32 → d.hUp h = true →
    d.hitch h = x → x.retrain = .none →
  (∀ lanes f, frameOf (d.heard h lanes) = f → f.good = true → f.type = .data → 1 ≤ f.nflit → f.nflit ≤ 20 → f.seq = x.rxExp →
    ∃ t y, exec (.linkFrameReceive h lanes) ⟨q, d⟩ = .next ⟨q, t⟩ ∧ t.hitch h = y ∧ y.rxExp = (x.rxExp + 1) % 4096
      ∧ y.rxLast = f.seq ∧ y.rxDone = x.rxDone ++ (parseCars 21 (x.rxPart ++ f.flits.take f.nflit)).1
      ∧ y.rxPart = (parseCars 21 (x.rxPart ++ f.flits.take f.nflit)).2 ∧ y.xoffIn = f.xoff % 256
      ∧ y.stored = afterAck f.ackseq x.stored ∧ t.reg (Reg.HCH_CNT_CW h) = (d.reg (Reg.HCH_CNT_CW h) + 2) % 2 ^ 64
      ∧ t.log = d.log ∧ t.mem = d.mem ∧ t.outs = d.outs)
  ∧ (∀ lanes f, frameOf (d.heard h lanes) = f → f.good = false → f.type = .data → f.nflit ≠ 0 →
    ∃ t y, exec (.linkFrameReceive h lanes) ⟨q, d⟩ = .next ⟨q, t⟩ ∧ t.hitch h = y ∧ y.rxBad = true ∧ y.rxDone = x.rxDone
      ∧ y.rxExp = x.rxExp ∧ y.stored = x.stored ∧ (x.rxBad = false → y.wantRetry = true)
      ∧ t.reg (Reg.HCH_CNT_UNCORR h) = (d.reg (Reg.HCH_CNT_UNCORR h) + 1) % 2 ^ 64
      ∧ t.reg (Reg.HCH_CNT_DISCARD h) = (d.reg (Reg.HCH_CNT_DISCARD h) + 1) % 2 ^ 64)
  ∧ (d.hWidth h ≠ 0 → x.wantRetry = false → x.mgmtOut = [] → x.replay = [] → x.txCars = [] →
      exec (.linkFrameTransmit h) ⟨q, d⟩ = .next ⟨q, d.sendFrame h ⟨x.txSeq, x.rxLast, d.xoffOut h, .data, 0, []⟩⟩)
  ∧ (∀ c, d.hWidth h ≠ 0 → x.wantRetry = false → x.mgmtOut = [] → x.replay = [] → x.txCars = [c] → c.flits ≠ [] →
      c.flits.length ≤ 20 → x.stored.length < 409 → c.begun = false →
      (bit x.xoffIn c.x.evc = false → exec (.linkFrameTransmit h) ⟨q, d⟩ = .next ⟨q, ((d.setHitch h { x with
          txCars := [], stored := x.stored ++ [⟨x.txSeq, c.flits⟩], txSeq := (x.txSeq + 1) % 4096 }).departs h c).sendFrame h
        ⟨x.txSeq, x.rxLast, d.xoffOut h, .data, c.flits.length, c.flits⟩⟩)
      ∧ (bit x.xoffIn c.x.evc = true →
        exec (.linkFrameTransmit h) ⟨q, d⟩ = .next ⟨q, d.sendFrame h ⟨x.txSeq, x.rxLast, d.xoffOut h, .data, 0, []⟩⟩))
  ∧ (d.hWidth h ≠ 0 → x.wantRetry = true →
      exec (.linkFrameTransmit h) ⟨q, d⟩ = .next ⟨q, ((d.setHitch h { x with wantRetry := false, retries := x.retries + 1 }).bump
        (Reg.HCH_CNT_RETRYREQ h) 1).sendFrame h ⟨x.txSeq, x.rxLast, d.xoffOut h, .retry, 0, []⟩⟩)
  ∧ (∀ m ms, d.hWidth h ≠ 0 → x.wantRetry = false → x.mgmtOut = m :: ms →
      ∃ t, t = (d.setHitch h { x with mgmtOut := ms }).sendFrame h
          ⟨x.txSeq, x.rxLast, d.xoffOut h, .mgmt, 1, [mgmtFlit m.1 m.2]⟩
        ∧ exec (.linkFrameTransmit h) ⟨q, d⟩ = .next ⟨q, if m.1 = mSWITCH then t.widthSent h m.2.pairs else t⟩)
  ∧ (∀ f fs, d.hWidth h ≠ 0 → x.wantRetry = false → x.mgmtOut = [] → x.replay = f :: fs →
      exec (.linkFrameTransmit h) ⟨q, d⟩ = .next ⟨q, ((d.setHitch h { x with replay := fs }).bump (Reg.HCH_CNT_REPLAY h) 1).sendFrame h
        ⟨f.seq, x.rxLast, d.xoffOut h, .data, f.flits.length, f.flits⟩⟩)
  ∧ (x.rxBad = true → x.retries < d.fld Reg.HCH_RTO 8 4 →
      exec (.retryRequestTimeout h) ⟨q, d⟩ = .next ⟨q, d.setHitch h { x with wantRetry := true }⟩)
  ∧ (∀ m, x.mgmtWait = some m →
      exec (.mgmtMessageResend h) ⟨q, d⟩ = .next ⟨q, d.setHitch h { x with mgmtOut := x.mgmtOut ++ [m] }⟩)

/-- R329, R337, R338: the five causes, one effect. -/
def Obligations.LinkDown : Prop := ∀ (q : List Instr) (d : Dev) (h lane cause : Nat) (c : Instr), d.alive = true → h < 32 →
    d.hUp h = true →
    (c = .laneSignalLoss h lane ∧ cause = 1 ∧ bit (pairsLanes (d.hPairs h ||| (d.hitch h).rxPairs)) lane = true
      ∨ c = .retryRequestTimeout h ∧ cause = 2 ∧ (d.hitch h).rxBad = true ∧ d.fld Reg.HCH_RTO 8 4 ≤ (d.hitch h).retries
      ∨ c = .ackTimeout h ∧ cause = 3 ∧ (d.hitch h).stored ≠ [] ∧ (d.hitch h).drain = false
      ∨ c = .linkIdleTimeout h ∧ cause = 4 ∧ d.hWidth h ≠ 0
      ∨ c = .down h ∧ cause = 5) →
  ∃ t, exec c ⟨q, d⟩ = .next ⟨q, t⟩ ∧ t.hState h = hsTRAINING ∧ t.hWidth h = 0
    ∧ t.reg (Reg.HCH_CNT_LINKDOWN h) = (d.reg (Reg.HCH_CNT_LINKDOWN h) + 1) % 2 ^ 64
    ∧ t.reg (Reg.HCH_CNT_LOSTFR h) = (d.reg (Reg.HCH_CNT_LOSTFR h) + (d.hitch h).stored.length) % 2 ^ 64
    ∧ (t.hitch h).stored = [] ∧ (t.hitch h).rxPart = [] ∧ (∃ m, (t.hitch h).mgmtWait = some (mTS, m))
    ∧ (d.noRetrainWaits → d.stg.queue = [] → (d.hitch h).txCars = [] → d.Recorded t clsFAB 0x001 (h + cause * 2 ^ 8) 0 blkHCH h)
    ∧ (d.noRetrainWaits → ∀ g, g < 32 → g ≠ h → t.hState g = d.hState g ∧ t.hWidth g = d.hWidth g)

/-- R336, R339, R341, R342, Table 10-4. -/
def Obligations.TrainingAndHitchControl : Prop := ∀ (q : List Instr) (d : Dev) (h : Nat) (x : Hitch), d.alive = true → h < 32 →
    d.hitch h = x →
  (∀ m, d.hState h = hsTRAINING → x.partner = none → exec (.ts h m) ⟨q, d⟩
      = .next ⟨q, (d.setHitch h { x with partner := some m, mgmtWait := none }).mgmtPut h mTS 0⟩)
  ∧ (∀ m reached precode level, d.hState h = hsTRAINING → d.hLfail h = 0 → x.partner = some m → reached &&& 15 = 15 → bit d.grd.straps.fabclk (h / 4) = true →
      level = min (d.fld Reg.HCH_CFG 0 8) m.level → d.fld Reg.HCH_CFG 8 8 ≤ level → d.noRetrainWaits →
      ∃ t, exec (.trainingAttemptEnd h reached precode) ⟨q, d⟩ = .next ⟨q, t⟩ ∧ t.hState h = hsUP ∧ t.hWidth h = 4
        ∧ t.hAttempt h = 0 ∧ t.fld (Reg.HCH_PSTAT h) 8 8 = level ∧ (t.hitch h).mgmtOut = [] ∧ t.log = d.log)
  ∧ (∀ reached precode, d.hState h = hsTRAINING → x.partner = none → d.hAttempt h + 1 < d.fld Reg.HCH_RTO 20 4 →
      ∃ t, exec (.trainingAttemptEnd h reached precode) ⟨q, d⟩ = .next ⟨q, t⟩ ∧ t.hState h = hsTRAINING
        ∧ t.hAttempt h = d.hAttempt h + 1 ∧ (∃ m, (t.hitch h).mgmtWait = some (mTS, m)) ∧ t.log = d.log)
  ∧ (∀ reached precode, (reached = 0 ∨ bit d.grd.straps.fabclk (h / 4) = false) → d.hState h = hsTRAINING → x.partner = none →
      d.hLfail h = 0 → d.fld Reg.HCH_RTO 20 4 ≤ d.hAttempt h + 1 →
      ∃ t, exec (.trainingAttemptEnd h reached precode) ⟨q, d⟩ = .next ⟨q, t⟩ ∧ t.hState h = hsFAILED
        ∧ d.Recorded t clsFAB 0x002 (h + 15 * 2 ^ 8) 0 blkHCH h)
  ∧ (d.flag (Reg.HCH_PCTL h) 0 = false → d.hState h = hsDISABLED →
      exec (.hitchEnable h) ⟨q, d⟩ = .next ⟨q, (d.setFlag (Reg.HCH_PCTL h) 0 true).hTrain h⟩)
  ∧ (d.hUp h = true → exec (.hitchDisable h) ⟨q, d⟩
      = .next ⟨q, (d.setFlag (Reg.HCH_PCTL h) 0 false).setHitch h { x with drain := true }⟩)
  ∧ (d.hState h = hsTRAINING → ∃ t, exec (.hitchDisable h) ⟨q, d⟩ = .next ⟨q, t⟩ ∧ t.hState h = hsDISABLED
      ∧ t.flag (Reg.HCH_PCTL h) 0 = false)
  ∧ (d.hUp h = true → x.drain = true → ∃ t, exec (.hitchDisableDrainDone h) ⟨q, d⟩ = .next ⟨q, t⟩ ∧ t.hState h = hsDISABLED
      ∧ (d.stg.queue = [] → x.txCars = [] → t.outs = d.outs ++ [.frame h (frameLine
          (if d.hWidth h = 0 then pairsWidth (soundPairs (d.hLfail h)) else d.hWidth h)
          ⟨x.txSeq, x.rxLast, d.xoffOut h, .mgmt, 1, [mgmtFlit mDOWN (d.mgmtOf h 0)]⟩)])
      ∧ t.reg (Reg.HCH_CNT_LINKDOWN h) = (d.reg (Reg.HCH_CNT_LINKDOWN h) + 1) % 2 ^ 64 ∧ (t.hitch h).drain = false)
  ∧ (d.hState h = hsFAILED → exec (.hitchRetrainRequest h) ⟨q, d⟩ = .next ⟨q, d.hTrain h⟩)
  ∧ (d.hState h ≠ hsDECONF → d.grd.fence.length < 4320 → d.noRetrainWaits → d.stg.queue = [] → x.txCars = [] →
      ∃ t, exec (.hitchDeconfigure h) ⟨q, d⟩ = .next ⟨q, t⟩ ∧ t.hState h = hsDECONF
        ∧ t.grd.fence = d.grd.fence ++ [fenceEntry 3 h] ∧ t.fld Reg.SIZ_HITCHW (2 * h) 2 = 0
        ∧ t.reg Reg.SIZ_GEN = (d.reg Reg.SIZ_GEN + 2) % 2 ^ 32 ∧ d.Recorded t clsFAB 0x004 h 0 blkHCH h)

/-- R343 to R347, Table 10-7. -/
def Obligations.WidthChangesAndRetraining : Prop := ∀ (q : List Instr) (d : Dev) (h : Nat) (x : Hitch), d.alive = true → h < 32 →
    d.hUp h = true → d.hitch h = x →
  (∀ m : Mgmt, x.mgmtWait = none → x.retrain = .none → m.pairs % 4 ≠ 0 → m.pairs % 4 &&& soundPairs (d.hLfail h) = m.pairs % 4 →
      exec (.widthReq h m) ⟨q, d⟩ = .next ⟨q, (d.mgmtPut h mACK (m.pairs % 4)).mgmtPut h mSWITCH (m.pairs % 4)⟩)
  ∧ (∀ m : Mgmt, x.mgmtWait = none → (m.pairs % 4 = 0 ∨ m.pairs % 4 &&& soundPairs (d.hLfail h) ≠ m.pairs % 4) →
      exec (.widthReq h m) ⟨q, d⟩ = .next ⟨q, d.mgmtPut h mNAK (m.pairs % 4)⟩)
  ∧ (∀ m mq, x.mgmtWait = some (mREQ, mq) →
      exec (.widthAck h m) ⟨q, d⟩ = .next ⟨q, (d.setHitch h { x with mgmtWait := none }).mgmtPut h mSWITCH mq.pairs⟩)
  ∧ (∀ m ms ps p old rx, d.hWidth h ≠ 0 → x.wantRetry = false → x.mgmtOut = (mSWITCH, m) :: ms → x.retrain = .asking ps p → ps < 4 →
      old = d.hPairs h → rx = (if x.rxPairs = 0 then old else x.rxPairs) →
      ∃ t, exec (.linkFrameTransmit h) ⟨q, d⟩ = .next ⟨q, t⟩ ∧ t.hState h = hsRETRAIN ∧ t.hPairs h = ps
        ∧ t.hWidth h = pairsWidth ps ∧ (t.hitch h).retrain = .pair p false ∧ (t.hitch h).mgmtOut = ms ∧ t.log = d.log
        ∧ (t.hitch h).rxPairs = (if rx = m.pairs &&& soundPairs (d.hLfail h) then 0 else rx)
        ∧ t.outs = d.outs ++ [.frame h (frameLine (d.hWidth h)
            ⟨x.txSeq, x.rxLast, d.xoffOut h, .mgmt, 1, [mgmtFlit mSWITCH m]⟩)])
  ∧ (∀ m mq, x.mgmtWait = some (mREQ, mq) → d.noRetrainWaits →
      ∃ t, exec (.widthNak h m) ⟨q, d⟩ = .next ⟨q, t⟩ ∧ t.hState h = hsUP ∧ t.hPairs h = d.hPairs h
        ∧ t.flag Reg.WHL_HBUSY h = false ∧ (t.hitch h).retrain = .none ∧ (t.hitch h).mgmtWait = none)
  ∧ (∀ (m : Mgmt) rx, rx = m.pairs % 4 &&& soundPairs (d.hLfail h) → rx ≠ 0 →
      exec (.widthSwitch h m) ⟨q, d⟩ = .next ⟨q, d.setHitch h { x with rxPairs := if rx = d.hPairs h then 0 else rx }⟩)
  ∧ (∀ c, d.hState h = hsUP → d.planeBusy (h / 4) = false → d.phaseOn (h / 4) = false → d.hLfail h = 0 →
      d.flag Reg.WHL_HCFG 0 = true →
      (c = .hitchRetrainDue h ∧ x.deferred = 0
        ∨ c = .symbolRateCheck h ∧ x.deferred = 0 ∧ x.due = false ∧ d.fld Reg.WHL_HTHR 0 16 ≠ 0
            ∧ d.fld Reg.WHL_HTHR 0 16 * 256 < x.symMs
        ∨ c = .hitchRetrainDefer h ∧ x.deferred ≠ 0) →
      ∃ t, exec c ⟨q, d⟩ = .next ⟨q, t⟩ ∧ t.hState h = hsRETRAIN ∧ t.flag Reg.WHL_HBUSY h = true
        ∧ (t.hitch h).retrain = .asking 1 1 ∧ (t.hitch h).deferred = 0
        ∧ (t.hitch h).mgmtOut = x.mgmtOut ++ [(mREQ, d.mgmtOf h 1)] ∧ t.log = d.log)
  ∧ (x.symMs ≤ d.fld Reg.WHL_HTHR 0 16 * 256 → exec (.symbolRateCheck h) ⟨q, d⟩ = .next ⟨q, d.setHitch h { x with symMs := 0 }⟩)
  ∧ (∀ p b, x.retrain = .pair p b → exec (.retrainPairTrained h) ⟨q, d⟩
      = .next ⟨q, (d.setHitch h { x with retrain := .restoring p }).mgmtAsk h mREQ 3⟩)
  ∧ (∀ p missed, x.retrain = .pair p false → exec (.retrainPairTimeout h missed) ⟨q, d⟩
      = .next ⟨q, (d.bump Reg.WHL_CNT_PAIRFAIL 1).setHitch h { x with retrain := .pair p true }⟩)

/-- R272, R275, R276. -/
def Obligations.PageTableOperations : Prop := ∀ (q : List Instr) (d : Dev) (p : Nat), d.alive = true →
    p = d.fld Reg.MEM_PTUPDIDX 0 22 →
  (∀ v : Word32, d.ptGo = false → bits v.toNat 0 1 = 1 →
      exec (.ptEntryWrite v) ⟨q, d⟩ = .next ⟨q, d.setReg Reg.MEM_PTUPDGO 1⟩
      ∧ exec (.ptEntryRead v) ⟨q, d⟩ = .next ⟨q, d.setReg Reg.MEM_PTUPDGO 3⟩)
  ∧ (∀ off v, d.ptGo = true → exec (.ptRegWrite off v) ⟨q, d⟩ = .next ⟨q, d⟩)
  ∧ (∀ off, ∀ v : Word32, d.ptGo = false → off ∈ [Reg.MEM_PTUPDIDX, Reg.MEM_PTUPDDATA 0, Reg.MEM_PTUPDDATA 3] →
      exec (.ptRegWrite off v) ⟨q, d⟩ = .next ⟨q, d.regWrite .host off v.toNat⟩)
  ∧ (d.ptGo = true → d.flag Reg.MEM_PTUPDGO 1 = true → ∃ t, exec .ptUpdateDone ⟨q, d⟩ = .next ⟨q, t⟩
      ∧ (∀ i, i < 4 → t.reg (Reg.MEM_PTUPDDATA i) = bits (d.pte p) (32 * i) 32) ∧ t.ptGo = false
      ∧ d.OnlyRegs t ((List.range 4).map Reg.MEM_PTUPDDATA ++ [Reg.MEM_PTUPDGO]))
  ∧ (∀ e, d.ptGo = true → d.flag Reg.MEM_PTUPDGO 1 = false →
      e = ((List.range 4).map fun i => d.fld (Reg.MEM_PTUPDDATA i) 0 32 * 2 ^ (32 * i)).sum →
    (d.ptRefused p e = true → ∃ t, exec .ptUpdateDone ⟨q, d⟩ = .next ⟨q, t⟩ ∧ t.ptGo = false
      ∧ t.flag Reg.MEM_PTUPDGO 2 = true ∧ d.Recorded t clsMEM 0x007 p 0 blkMEM 0 ∧ t.pt = d.pt)
    ∧ (d.ptRefused p e = false → d.tiers.filter = [] → d.tiers.reqs = [] → d.ttRun = false →
      ∃ t, exec .ptUpdateDone ⟨q, d⟩ = .next ⟨q, t⟩ ∧ t.ptGo = false
        ∧ pteHome (t.pte p) = pteHome e ∧ ptePin (t.pte p) = ptePin e ∧ pteWp (t.pte p) = pteWp e
        ∧ ptePool (t.pte p) = ptePool e ∧ pteFrame (t.pte p) = pteFrame e ∧ pteLender (t.pte p) = pteLender e
        ∧ pteMstate (t.pte p) = (if d.homeLost e then mstUnreachable else 0) ∧ bit (t.pte p) 8 = false ∧ bits (t.pte p) 16 8 = 0 ∧ bits (t.pte p) 80 16 = (bits (d.pte p) 80 16 + 1) % 2 ^ 16
        ∧ (∀ r, r ≠ p → t.pte r = d.pte r) ∧ t.reg Reg.MEM_CNT_PTUPD = (d.reg Reg.MEM_CNT_PTUPD + 1) % 2 ^ 64
        ∧ t.mem = d.mem ∧ t.log = d.log ∧ d.RegsBut t [Reg.MEM_PTUPDGO, Reg.MEM_CNT_PTUPD]))

/-- R278, R279, Table 08-6: the sweep and the switch move every byte, whosever the move is. -/
def Obligations.MoveSwitchCopiesThePage : Prop := ∀ (q : List Instr) (d : Dev) (page : Nat) (m : PageMove) (e n : Nat), d.alive = true →
    Memory.wf d.mem = true → (∀ l ∈ d.bad, l.2 = .poison) → d.moveOf page = some m → e = d.pte page →
    1 ≤ m.home → m.home ≤ 4 → m.frame < 2 ^ 32 → m.lender < 2 ^ 16 → m.pool < 8 → d.tiers.filter = [] →
    n = 2 ^ 21 + 65536 * m.dirty.length →
  (pteMstate e = 1 → m.home ≠ 4 → pteHome e ≠ 4 → d.sectorsOn page = false →
    ∃ t, exec (.moveSweepDone page) ⟨q, d⟩ = .next ⟨q, t⟩
    ∧ t.pte page = (d.setMstate page 2).pte page ∧ (∀ r, r ≠ page → t.pte r = d.pte r)
    ∧ ∀ off, off < 2 ^ 21 → t.rd (homeKey (m.entry e) off)
        = d.rd (if m.begun ≤ off / 65536 then homeKey e off else homeKey (m.entry e) off))
  ∧ (pteMstate e = 2 → m.held = [] → d.tiers.reqs = [] → d.tiers.waits = [] → d.tiers.ttEnd = false → d.sectorsOn page = false →
      (m.again = false → m.home ≠ 4 ∧ pteHome e ≠ 4) →
      (∀ lap k, m.by_ = .entry lap k → ctrOk (d.reg Reg.DRY_TTDONE) = true ∧ d.ctrBad (d.reg Reg.DRY_TTDONE) = none) →
    ∃ t, exec (.moveSwitch page) ⟨q, d⟩ = .next ⟨q, t⟩
      ∧ pteHome (t.pte page) = m.home ∧ pteFrame (t.pte page) = m.frame ∧ pteLender (t.pte page) = m.lender
      ∧ ptePool (t.pte page) = m.pool ∧ pteMstate (t.pte page) = 0
      ∧ bits (t.pte page) 80 16 = (bits e 80 16 + 1) % 2 ^ 16
      ∧ (∀ off, off < 2 ^ 21 → t.rd (homeKey (t.pte page) off)
          = d.rd (if !m.again && m.dirty.contains (off / 65536) then homeKey e off else homeKey (t.pte page) off))
      ∧ t.tiers.moves = d.tiers.moves.filter (fun x => x.page != page)
      ∧ t.reg Reg.DRY_CNT_BYTES = (d.reg Reg.DRY_CNT_BYTES + n) % 2 ^ 64
      ∧ (∀ r, r ≠ page → t.pte r = d.pte r)
      ∧ (∀ g c r, m.by_ = .cmd g → d.cmd g = some c → c.body = .move r → t.cmd g
          = some { c with body := .move { r with moved := r.moved + 1, left := r.left - 1, bytes := r.bytes + n } })
      ∧ (∀ o os, d.tiers.opens = o :: os → m.by_ = .entry o.lap o.n →
          (2 ≤ o.left → t.tiers.opens = { o with left := o.left - 1 } :: os)
          ∧ (o.left = 1 → os = [] → d.reg Reg.DRY_TTDONE ≠ 0 →
              t.tiers.opens = [] ∧ t.ctr (d.reg Reg.DRY_TTDONE) = (d.ctr (d.reg Reg.DRY_TTDONE) + 1) % 2 ^ 64)))
  ∧ (pteMstate e = 2 → m.again = true → d.sectorsOn page = true → exec (.moveSwitch page) ⟨q, d⟩ = .next ⟨q, d⟩)
  ∧ (pteMstate e = 2 → m.again = false → m.home = 4 → pteHome e ≠ 4 → m.dirty ≠ [] → (∀ i ∈ m.dirty, i < 32) →
    ∃ t, exec (.moveSwitch page) ⟨q, d⟩ = .next ⟨q, t⟩ ∧ t.pte page = e ∧ t.moveOf page = some { m with again := true }
      ∧ ∀ i ∈ m.dirty, ∃ x ∈ t.mmf.sectors, x.page = page ∧ x.sec = i ∧ x.store = true
        ∧ x.lender = keyLender (homeKey (m.entry e) (65536 * i)) ∧ x.off = keyLentOff (homeKey (m.entry e) (65536 * i)))

/-- R278 to R286, R292, R293. -/
def Obligations.MoveCommandAndAger : Prop := ∀ (q : List Instr) (d : Dev), d.alive = true →
  (∀ src l g, dOp l = 0x0400 → d.headCheck l = none → d.moveBad l = none → g = d.nextGen →
      exec (.move src l) ⟨q, d⟩ = .next ⟨q, Dev.pump (((d.arm src l 0 [] [(jobKey (lnum l 32 8), 64)]
          (.move ⟨lnum l 32 8, lfield l 20 0 23, 0, 0, 0, 0, 0, 0, 0⟩)).1).setTiers fun t => { t with
        reqs := t.reqs ++ [⟨lfield l 16 0 22, lfield l 20 0 23, lfield l 24 0 3, lfield l 24 3 3, lfield l 24 6 1 == 1, .cmd g⟩] })⟩)
  ∧ (∀ src l n, dOp l = 0x0400 → d.headCheck l = none → d.moveBad l = some n →
      exec (.move src l) ⟨q, d⟩ = .next ⟨q, d.refuse src l ⟨clsMEM, 0x00A, n⟩⟩)
  ∧ (∀ page m, d.moveOf page = some m → pteMstate (d.pte page) = 1 → d.bad = [] → m.home ≠ 4 → pteHome (d.pte page) ≠ 4 →
      d.sectorsOn page = false → exec (.moveSweepDone page) ⟨q, d⟩ = .next ⟨q, (d.sweep m 32).setMstate page 2⟩)
  ∧ (∀ page m, d.moveOf page = some m → m.held = [] → d.tiers.reqs = [] → d.tiers.waits = [] → (∀ l ∈ d.bad, l.2 = .poison) →
      d.tiers.retired.contains (pteFrame (d.pte page)) = false →
      ∃ t, exec (.moveDestFail page) ⟨q, d⟩ = .next ⟨q, t⟩ ∧ d.Recorded t clsMEM 0x00B page (moveGen m.by_) blkDRY 0
        ∧ pteMstate (t.pte page) = 0 ∧ t.reg Reg.DRY_CNT_CANCEL = (d.reg Reg.DRY_CNT_CANCEL + 1) % 2 ^ 64
        ∧ t.tiers.moves = d.tiers.moves.filter (fun x => x.page != page))
  ∧ (Sparse.wf ptDefault d.pt = true → ∃ t, exec .agerSweep ⟨q, d⟩ = .next ⟨q, t⟩ ∧ t = { d with pt := t.pt } ∧ ∀ p,
      (pteHome (d.pte p) ≠ 1 → t.pte p = d.pte p)
      ∧ (pteHome (d.pte p) = 1 → pteHome (t.pte p) = 1 ∧ pteFrame (t.pte p) = pteFrame (d.pte p)
          ∧ bit (t.pte p) 8 = false
          ∧ bits (t.pte p) 16 8 = if bit (d.pte p) 8 then 0 else min 255 (bits (d.pte p) 16 8 + 1)))

/-- R288 to R291, R295 to R298. -/
def Obligations.TimetableHoldsAndSlots : Prop := ∀ (q : List Instr) (d : Dev), d.alive = true →
  (d.calm = true → d.ttRun = false → d.ttLen ≠ 0 → d.ttAhead ≠ 0 → d.reg Reg.DRY_TTBASE % 64 = 0 →
      exec .timetableStart ⟨q, d⟩ = .next ⟨q, (((d.setFlag Reg.DRY_STAT 12 true).setReg Reg.DRY_TTPOS 0).setTiers fun t => { t with
        ttEnd := false, ttHalted := false, opens := [], noted := t.noted.filter fun b => !isEntry b }).ttReach⟩)
  ∧ (∀ n, n = d.fld Reg.DRY_TTPOS 0 17 →
    (∀ s1, d.unitRead (d.reg Reg.DRY_TTBASE + 32 * n) 32 = (s1, none) →
      d.ttReach = (s1.record clsMEM 0x00C n 0 blkDRY 0).ttHalt)
    ∧ (∀ s1 e, d.unitRead (d.reg Reg.DRY_TTBASE + 32 * n) 32 = (s1, some e) → d.ttReach
        = if entryBad e then (s1.record clsMEM 0x00C n 0 blkDRY 0).ttHalt else s1.setTiers fun t => { t with ttNow := e }))
  ∧ (d.calm = true → d.ttRun = false → (d.ttLen = 0 ∨ d.ttAhead = 0 ∨ d.reg Reg.DRY_TTBASE % 64 ≠ 0) →
      exec .timetableStart ⟨q, d⟩ = .next ⟨q, d.record clsMEM 0x00C 0xFFFFFFFF 0 blkDRY 0⟩)
  ∧ (d.ttRun = true → ∃ t, exec .timetableStop ⟨q, d⟩ = .next ⟨q, t⟩ ∧ t.tiers.moves = d.tiers.moves
      ∧ t.tiers.reqs = d.tiers.reqs.filter (fun r => !isEntry r.by_) ∧ (t.ttRun = true → t.tiers.ttHalted = true)
      ∧ t.ttRun = ((d.tiers.moves.any fun m => isEntry m.by_) || d.tiers.waits.any fun w => isEntry w.by_))
  ∧ (∀ v : Word64, d.ttRun = true → exec (.timetableConfigWrite Reg.DRY_TTBASE v) ⟨q, d⟩
      = .next ⟨q, d.discard clsMEM 0x00D Reg.DRY_TTBASE 0⟩)
  ∧ (∀ v : Word64, d.ttRun = false → exec (.timetableConfigWrite Reg.DRY_TTBASE v) ⟨q, d⟩
      = .next ⟨q, d.regWrite .host Reg.DRY_TTBASE v.toNat⟩)
  ∧ (∀ n e, d.calm = true → d.ttRun = true → d.jobState ≠ jPREEMPTED → d.tiers.ttEnd = false → d.tiers.ttNow = e → e ≠ [] →
      bits (leNat e) 0 64 = 0 → n = d.fld Reg.DRY_TTPOS 0 17 →
    (d.ttAhead ≤ d.tiers.opens.length → exec .timetableEntryTrigger ⟨q, d⟩ = .next ⟨q, d⟩)
    ∧ (∀ k r, d.tiers.opens.length < d.ttAhead → n + 1 ≠ d.ttLen → k = d.fld Reg.DRY_TTPOS 17 47 →
        r = MoveReq.mk (bits (leNat e) 128 22) (bits (leNat e) 160 23) (bits (leNat e) 192 3) (bits (leNat e) 195 3) false
          (.entry k n) →
      exec .timetableEntryTrigger ⟨q, d⟩ = .next ⟨q, (((d.setTiers fun t => { t with
          opens := t.opens ++ [⟨k, n, r.count, r.first, r.count, r.target, r.pool⟩], reqs := t.reqs ++ [r],
          ttNow := [] }).setFld Reg.DRY_TTPOS 0 17 (n + 1)).pump).ttReach⟩))
  ∧ (∀ hbm p0 p1, d.tiers.reqs = [] → d.ttRun = false → ∃ t, exec (.saturationSample hbm p0 p1) ⟨q, d⟩ = .next ⟨q, t⟩
      ∧ d.OnlyRegs t [Reg.DRY_STAT]
      ∧ t.flag Reg.DRY_STAT 8
          = holdOf (d.flag Reg.DRY_STAT 8) hbm (d.fld Reg.DRY_SATCFG 0 8) (d.fld Reg.DRY_SATCFG 8 8)
      ∧ t.flag Reg.DRY_STAT 9
          = holdOf (d.flag Reg.DRY_STAT 9) p0 (d.fld Reg.DRY_SATCFG 16 8) (d.fld Reg.DRY_SATCFG 24 8)
      ∧ t.flag Reg.DRY_STAT 10
          = holdOf (d.flag Reg.DRY_STAT 10) p1 (d.fld Reg.DRY_SATCFG 16 8) (d.fld Reg.DRY_SATCFG 24 8))
  ∧ (∀ st occ, st < 8 → d.rtSteps st = 0 → d.flag Reg.MEM_RTSTAT 3 = false → occ < d.fld Reg.DRY_SATCFG 0 8 →
      exec (.retrainSlotDue st occ) ⟨q, d⟩ = .next ⟨q, d.rtStart st⟩)
  ∧ (∀ st occ, st < 8 → d.rtSteps st = 0 → d.flag Reg.MEM_RTSTAT 3 = true →
      exec (.retrainSlotDue st occ) ⟨q, d⟩ = .next ⟨q, (d.setRtSteps st 1).bump Reg.MEM_CNT_RTDEFER 1⟩)
  ∧ (∀ st occ, st < 8 → d.rtSteps st ≠ 0 → d.flag Reg.MEM_RTSTAT 3 = false → occ < d.fld Reg.DRY_SATCFG 0 8 →
      exec (.retrainSlotDefer st occ) ⟨q, d⟩ = .next ⟨q, d.rtStart st⟩)
  ∧ (d.flag Reg.MEM_RTSTAT 3 = true →
      exec .retrainSlotEnd ⟨q, d⟩ = .next ⟨q, (d.setFlag Reg.MEM_RTSTAT 3 false).bump Reg.MEM_CNT_RTSLOT 1⟩)
  ∧ (∀ frame line, d.flag Reg.MEM_ECCCFG 8 = true → frame < hbmFrames → line < 32768 → d.fld Reg.MEM_ECCCFG 0 8 = 0 →
      d.lineOf (hbmKey frame (64 * line)) = .good → ∃ t, exec (.scrubRead frame line .ce) ⟨q, d⟩ = .next ⟨q, t⟩
        ∧ t.reg Reg.MEM_CNT_CE_HBM = (d.reg Reg.MEM_CNT_CE_HBM + 1) % 2 ^ 64
        ∧ t.lineOf (hbmKey frame (64 * line)) = .good ∧ t.mem = d.mem ∧ t.log = d.log)
  ∧ (∀ frame line f, d.flag Reg.MEM_ECCCFG 8 = false → exec (.scrubRead frame line f) ⟨q, d⟩ = .next ⟨q, d⟩)

/-- R393 to R398, R417. -/
def Obligations.GroupFormation : Prop := ∀ (q : List Instr) (d : Dev) (gid : Nat), d.alive = true →
  (∀ src l n slot s1 bs ms, d.calm = true → dOp l = 0x0300 → cpGroup l = gid → d.headCheck l = none → d.gformBad l = none →
      n = bits (cpParam l) 0 17 → n ≠ 1 → reserveBytes n (bits (cpParam l) 20 3) ≤ cpLen l → d.group gid = none →
      d.freeSlot = some slot → d.unitRead (cpSrc l) (2 * n) = (s1, some bs) → ms = (List.range n).map (elemAt bs 2) →
      ms.Nodup → s1.coord ∈ ms →
      ∃ t g c, exec (.gform src l) ⟨q, d⟩ = .next ⟨q, t⟩ ∧ t.group gid = some g ∧ g.state = gFORMING ∧ g.members = ms
        ∧ g.rank = ms.findIdx (· == s1.coord) ∧ g.slot = slot
        ∧ g.digest = gdigestOf gid n (bits (cpParam l) 20 3) (cpAux l) ms ∧ g.formGen = d.nextGen
        ∧ c ∈ t.cmds ∧ c.gen = d.nextGen ∧ c.desc = l ∧ c.src = src ∧ t.genNext = d.nextGen + 1
        ∧ t.stg.outbox.length = d.stg.outbox.length + (n - 1))
  ∧ (∀ c, d.group (ctlGroup c) = none → ∀ i ∈ [Instr.join c, .joinack c],
      exec i ⟨q, d⟩ = .next ⟨q, (d.taken c).bump Reg.COL_CNT_NOGROUP 1⟩)
  ∧ (∀ g, d.group gid = some g → g.state = gFORMING →
    (∀ rank, rank ∈ g.others → rank ∉ g.acked → exec (.joinRepeat gid rank) ⟨q, d⟩
        = .next ⟨q, d.sendCtl g rank cJOIN 0 0 g.formGen [(40, 0, 8, d.colLevel), (42, 0, 16, g.rank)]⟩)
    ∧ (∀ c rank, ctlGroup c = gid → g.rankOf c.src = some rank → c.gdigest = g.digest →
        d.fld Reg.COL_CFG 8 8 ≤ c.f 40 0 8 → exec (.join c) ⟨q, d⟩
        = .next ⟨q, ((d.taken c).joinAck g c.src true).updGroup gid
            fun x => { x with levels := (x.levels.filter fun y => y.1 != rank) ++ [(rank, c.f 40 0 8)] }⟩)
    ∧ (∀ c, ctlGroup c = gid → c.gdigest ≠ g.digest → exec (.join c) ⟨q, d⟩
        = .next ⟨q, (d.taken c).joinAck g c.src false⟩)
    ∧ (∀ c rank, ctlGroup c = gid → g.rankOf c.src = some rank → c.f 40 0 1 ≠ 0 → c.gdigest = g.digest → d.fld Reg.COL_CFG 8 8 ≤ c.f 41 0 8 →
        (∀ r ∈ g.others, r = rank ∨ r ∈ g.acked) → g.slots = [] →
        ∃ t g', exec (.joinack c) ⟨q, d⟩ = .next ⟨q, t⟩ ∧ t.group gid = some g' ∧ g'.state = gFORMED
          ∧ g'.members = g.members ∧ g'.seqs = g.seqs
          ∧ g'.level = (((g.levels.filter fun y => y.1 != rank) ++ [(rank, c.f 41 0 8)]).map (·.2)).foldl min d.colLevel
          ∧ t.cmd g.formGen = none)
    ∧ (∀ c rank, ctlGroup c = gid → g.rankOf c.src = some rank → c.f 40 0 1 = 0 →
        ∃ t, exec (.joinack c) ⟨q, d⟩ = .next ⟨q, t⟩ ∧ t.group gid = none ∧ t.cmd g.formGen = none
          ∧ d.Recorded t clsFAB 0x032 rank g.formGen blkCOL g.slot)
    ∧ (∃ t, exec (.formTimeout gid) ⟨q, d⟩ = .next ⟨q, t⟩ ∧ t.group gid = none ∧ t.cmd g.formGen = none
        ∧ ∃ rank, d.Recorded t clsFAB 0x033 (rank + gid * 2 ^ 16) g.formGen blkCOL g.slot))
  ∧ (∀ src l g, dOp l = 0x0301 → cpGroup l = gid → d.headCheck l = none → gdissolveBad l = none → d.group gid = some g →
      g.state = gFORMED → d.groupCmds gid = [] →
      ∃ t, exec (.gdissolve src l) ⟨q, d⟩ = .next ⟨q, t⟩ ∧ t.group gid = none ∧ t.genNext = d.nextGen + 1
        ∧ t.cmd d.nextGen = none ∧ ∀ k, k ≠ gid → t.group k = d.group k)

/-- R391, R392, R399 to R403. The refusal without a group is the model's reading (log entry 174). -/
def Obligations.CollectivesTakeTheirNumberAndWait : Prop := ∀ (q : List Instr) (d : Dev) (src : Source) (l : Line) (c : Instr),
    d.alive = true → d.calm = true →
    (c = .shift src l ∧ dOp l = 0x0302 ∨ c = .permute src l ∧ dOp l = 0x0303 ∨ c = .alltoall src l ∧ dOp l = 0x0304
      ∨ c = .allreduce src l ∧ dOp l = 0x0305) →
    d.headCheck l = none → ¬ (dOp l = 0x0305 ∧ lfield l 20 7 1 = 1 ∧ dV l = false) →
  (∀ g s1, d.group (cpGroup l) = some g → g.state = gFORMED → d.collBad l g.n = (s1, none) → s1.groupHeld g.gid < 64 →
      g.slots = [] → g.early = [] → (g.queue ≠ [] ∨ 4 ≤ d.active0 g.gid) →
      ∃ t k x, exec c ⟨q, d⟩ = .next ⟨q, t⟩ ∧ t.group g.gid = some { g with
          seqs := g.seqs.set 0 (nth g.seqs 0 0 + 1), queue := g.queue ++ [d.nextGen] }
        ∧ k ∈ t.cmds ∧ k.gen = d.nextGen ∧ k.desc = l ∧ k.src = src ∧ k.body.xfer = some x ∧ x.gid = g.gid ∧ x.stream = 0
        ∧ x.xid = nth g.seqs 0 0 ∧ x.active = false ∧ t.genNext = d.nextGen + 1)
  ∧ (∀ n s1 bad, (d.group (cpGroup l) = none ∧ n = 0
        ∨ ∃ g, d.group (cpGroup l) = some g ∧ g.state ≠ gFORMED ∧ n = g.n ∧ s1.group (cpGroup l) = some g) → d.collBad l n = (s1, bad) →
      (bad = none → exec c ⟨q, d⟩ = .next ⟨q, s1.refuse src l ⟨clsFAB, 0x03B, cpGroup l⟩⟩)
      ∧ ∀ k, bad = some k → exec c ⟨q, d⟩ = .next ⟨q, s1.refuse src l ⟨clsFAB, 0x030, k⟩⟩)
  ∧ (∀ g s1 k, d.group (cpGroup l) = some g → g.gid = cpGroup l → g.state = gFORMED → d.collBad l g.n = (s1, some k) →
      s1.group (cpGroup l) = some g → exec c ⟨q, d⟩
        = .next ⟨q, ((s1.refuse src l ⟨clsFAB, 0x030, k⟩).takeSeq (cpGroup l) 0).sendAborts g 0 (nth g.seqs 0 0) 1⟩)
  ∧ (∀ gid g k r x, d.group gid = some g → g.queue = k :: r → d.active0 gid < 4 → d.xf k = some x → x.gid = gid →
      (∃ b, (d.cmd k).map (·.body) = some (.coll b)) →
      ∃ t, exec (.collectiveAdmit gid) ⟨q, d⟩ = .next ⟨q, t⟩
        ∧ (t.group gid).map (·.queue) = some (g.queue.filter (· != k))
        ∧ ∀ y, t.xf k = some y → y.active = true)

/-- R407 to R409, R413 to R415: the carriages, by row. The clause of a chunk whose command has committed is the model's
reading of R409 (log entry 97). -/
def Obligations.TransferCarriages : Prop := ∀ (q : List Instr) (d : Dev) (c : Carriage), d.alive = true →
  (d.group (ctlGroup c) = none → ∀ i, (i ∈ [Instr.abort c, .probe c, .probeack c]
        ∨ d.calm = true ∧ i ∈ [Instr.offer c, .ticket c, .compl c, .missing c]) →
      exec i ⟨q, d⟩ = .next ⟨q, (d.taken c).bump Reg.COL_CNT_NOGROUP 1⟩)
  ∧ (d.calm = true → d.group c.group = none → exec (.chunkReceive c) ⟨q, d⟩ = .next ⟨q, (d.taken c).bump Reg.COL_CNT_NOGROUP 1⟩)
  ∧ (∀ s g rank k x y s1 s2 ok, d.calm = true → s = d.taken c → s.gate c.group c = .pass g rank → c.srank = rank → c.drank = g.rank →
      c.stream = 0 → s1 = s.noteFlow g.gid rank c.flowseq → s1.instOf g.gid 0 c.xid c.ord = some (k, x) → s1.xf k = some x →
      x.recv c.step c.phase = some y → y.peer = rank → y.offer.map (·.2) = some c.gen → c.chunk < y.chunks → c.chunk ∈ y.grants →
      y.dst ≠ .barrows → s1.landChunk k c.step c.phase c.chunk c.payload = (s2, ok) →
      exec (.chunkReceive c) ⟨q, d⟩ = .next ⟨q, Dev.orFault (s2.complDue k c.step c.phase, ok) k⟩)
  ∧ (∀ s g rank e s1, d.calm = true → s = d.taken c → s.gate c.group c = .pass g rank → c.srank = rank → c.drank = g.rank → c.stream = 0 →
      s1 = s.noteFlow g.gid rank c.flowseq → s1.instOf g.gid 0 c.xid c.ord = none →
      g.endedOf rank 0 c.xid c.ord c.step c.phase c.gen = some e → c.chunk < e.chunks →
      exec (.chunkReceive c) ⟨q, d⟩ = .next ⟨q, Dev.sendMap g cCOMPL e.stream e.xid e.gen e.step e.phase e.ord e.peer 1 [c.chunk]
        (s1.bump Reg.COL_CNT_DUP 1)⟩)
  ∧ (∀ s g rank, s = d.taken c → s.gate (ctlGroup c) c = .pass g rank → ctlStream c = 0 →
    (∀ k x y, d.calm = true → s.instOf g.gid 0 c.xid (ctlOrd c) = some (k, x) → s.xf k = some x → k < 2 ^ 64 → c.f 44 0 32 = x.pdigest →
        x.recv (ctlStep c 48) (ctlPhase c) = some y → y.peer = rank → y.offer = none →
        exec (.offer c) ⟨q, d⟩ = .next ⟨q, s.updX k fun x => x.updRecv y.step y.phase fun z =>
          { z with offer := some (c.f 40 0 32, c.gen) }⟩)
    ∧ (d.calm = true → s.instOf g.gid 0 c.xid (ctlOrd c) = none → g.ahead 0 c.xid = false →
        g.endedOf rank 0 c.xid (ctlOrd c) (ctlStep c 48) (ctlPhase c) c.gen = none → ∀ i ∈ [Instr.offer c, .ticket c, .compl c, .missing c],
        exec i ⟨q, d⟩ = .next ⟨q, s.bump Reg.COL_CNT_STALE 1⟩)
    ∧ (∀ k x y new, d.calm = true → s.instOf g.gid 0 c.xid (ctlOrd c) = some (k, x) →
        x.send (ctlStep c 52) (ctlPhase c) = some y → y.peer = rank → y.begun = true → c.f 48 0 32 = k % 2 ^ 32 →
        new = ((List.range (min (c.f 44 0 32) (stepChunks y.len - c.f 40 0 32))).map (c.f 40 0 32 + ·)).filter
          (fun i => !y.grants.contains i) →
        exec (.ticket c) ⟨q, d⟩ = .next ⟨q, Dev.orFault ((s.updX k fun x => x.updSend (ctlStep c 52) (ctlPhase c) fun z =>
          { z with grants := z.grants ++ new, answered := true }).sendGranted k (ctlStep c 52) (ctlPhase c)) k⟩)
    ∧ (∀ k y, d.calm = true → s.mapTarget g rank c = some (k, y) →
        exec (.compl c) ⟨q, d⟩ = .next ⟨q, (s.countChunks k g.gid y (mapChunks c)).xferProgress k⟩
        ∧ ∀ cs again new s2, cs = (mapChunks c).filter (fun i => decide (i < stepChunks y.len)) →
            again = y.sent.filter (fun z => cs.contains z.chunk && !z.counted && decide (z.sentAt + d.fld Reg.COL_TMR1 8 8 * 1000 ≤ d.ns)) →
            new = cs.filter (fun i => !y.grants.contains i && !y.sent.any fun z => z.chunk == i) →
            Dev.chunksAgain k y.step y.phase again (s.updX k fun x => x.updSend y.step y.phase fun z =>
              { z with grants := z.grants ++ new }) = (s2, true) →
            exec (.missing c) ⟨q, d⟩ = .next ⟨q, Dev.orFault (s2.sendGranted k y.step y.phase) k⟩)
    ∧ (∀ k r, c.f 40 0 8 ≠ 3 → k.body = .coll r →
        (s.cmds.filter fun k => match cmdInst k with
          | some (a, st, xid) => a == g.gid && st == 0 && xid % 2 ^ 32 == c.xid
          | none => false).getLast? = some k → s.cmd k.gen = some k →
        ∃ t, exec (.abort c) ⟨q, d⟩ = .next ⟨q, t⟩ ∧ t.cmd k.gen = none
          ∧ d.Recorded t clsFAB 0x035 (c.f 40 0 8 + rank * 2 ^ 16) k.gen blkCOL g.slot)
    ∧ exec (.probe c) ⟨q, d⟩
        = .next ⟨q, s.sendCtl g rank cPROBEACK 0 0 0 [(40, 0, 32, nth g.seqs 0 0 + 2 ^ 32 - 1)]⟩
    ∧ (rank ∈ g.probed → exec (.probeack c) ⟨q, d⟩ = .next ⟨q, (s.updGroup g.gid fun x =>
          { x with probed := x.probed.erase rank }).bump Reg.COL_CNT_SLOW 1⟩))

/-- R407, R408, R413 to R415: the time limits, by row. -/
def Obligations.TransferTimeLimits : Prop := ∀ (q : List Instr) (d : Dev) (k step phase : Nat) (x : Xfer) (gr : Group),
    d.alive = true → d.xf k = some x → d.group x.gid = some gr →
  (∀ s0 s1, d.calm = true → d.takeEarly k step phase = (s0, true) → s0.grant k step phase = (s1, true) → exec (.ticketGrant k step phase) ⟨q, d⟩ = .next ⟨q, s1.xferProgress k⟩)
  ∧ (∀ r, x.recv step phase = some r → r.report ≠ [] →
      ∃ t y, exec (.complCoalesceFlush k step phase) ⟨q, d⟩ = .next ⟨q, t⟩
        ∧ d.stg.outbox.length < t.stg.outbox.length ∧ t.xf k = some y
        ∧ (y.recv step phase).map (·.report) = some [])
  ∧ (∀ y, d.calm = true → x.sends = [y] → y.begun = true → y.peer ≠ gr.rank → y.answered = false → y.grants = [] → y.sent = [] →
      exec (.offerRepeat k) ⟨q, d⟩ = .next ⟨q, (d.sendOffer gr x y k).updX k fun x =>
        x.updSend y.step y.phase fun z => { z with answered := false }⟩)
  ∧ (∀ c y p s1, d.calm = true → d.cmds = [c] → d.col.refusals = [] → c.gen = k → x.sends = [y] →
      Dev.chunksAgain k y.step y.phase (y.sent.filter fun z => z.plane == some p && !z.counted) d = (s1, true) →
      exec (.linkDownRetransmit p) ⟨q, d⟩ = .next ⟨q, s1⟩)
  ∧ (∀ y z chunk s1, d.calm = true → x.send step phase = some y → y.sent.find? (fun z => z.chunk == chunk && !z.counted) = some z →
      z.retx < d.fld Reg.COL_TMR1 16 4 → d.chunkAgain k step phase z = (s1, true) →
      exec (.chunkCompletionTimeout k step phase chunk) ⟨q, d⟩ = .next ⟨q, s1⟩)
  ∧ (∀ c r lo more, d.calm = true → d.cmds = [c] → d.col.refusals = [] → c.gen = k → x.recvs = [r] → r.peer ≠ gr.rank →
      Sparse.get (fun _ => (0, [])) gr.rxFlow r.peer = (lo, more) →
      exec (.gapTimeout x.gid r.peer) ⟨q, d⟩ = .next ⟨q, if more = [] then d else
        let cs := r.grants.filter fun c => !r.placed.contains c
        let ahead := (more.map fun n => (n + 2 ^ 32 - lo) % 2 ^ 32).foldl max 0
        Dev.sendMap gr cMISSING x.stream x.xid k r.step r.phase x.ord r.peer cs.length cs (d.updGroup x.gid fun g =>
          { g with rxFlow := Sparse.put (fun _ => (0, [])) g.rxFlow r.peer ((lo + ahead + 1) % 2 ^ 32, []) })⟩)
  ∧ (∀ rank, gr.state = gFORMED → rank ∈ gr.others → d.waitsOn x.gid rank = true →
      exec (.probeTimeout x.gid rank) ⟨q, d⟩ = .next ⟨q, (d.updGroup x.gid fun y => { y with
          probed := y.probed ++ [rank] }).sendCtl gr rank cPROBE 0 0 0 []⟩
      ∧ ∃ t g, exec (.peerFailTimeout x.gid rank) ⟨q, d⟩ = .next ⟨q, t⟩ ∧ t.group x.gid = some g ∧ g.state = gBROKEN
          ∧ t.groupCmds x.gid = [] ∧ t.reg Reg.COL_CNT_PEERFAIL = (d.reg Reg.COL_CNT_PEERFAIL + 1) % 2 ^ 64)
  ∧ (∀ y z chunk, d.calm = true → x.send step phase = some y → y.sent.find? (fun z => z.chunk == chunk && !z.counted) = some z →
      d.fld Reg.COL_TMR1 16 4 ≤ z.retx →
      ∃ t g, exec (.chunkCompletionTimeout k step phase chunk) ⟨q, d⟩ = .next ⟨q, t⟩ ∧ t.group x.gid = some g
        ∧ g.state = gBROKEN ∧ t.reg Reg.COL_CNT_PEERFAIL = (d.reg Reg.COL_CNT_PEERFAIL + 1) % 2 ^ 64)
  ∧ (∀ c r, d.cmd k = some c → c.body = .coll r → d.fld Reg.COL_TMR0 24 8 ≠ 0 → x.active = true →
      ∃ t, exec (.stallTimeout k) ⟨q, d⟩ = .next ⟨q, t⟩ ∧ t.cmd k = none
        ∧ d.Recorded t clsFAB 0x039 x.gid k blkCOL gr.slot
        ∧ t.reg Reg.COL_CNT_STALL = (d.reg Reg.COL_CNT_STALL + 1) % 2 ^ 64)

/-- R36, R46 to R49, R58, R61, R64, R67, R84, R86 to R89, R97, R98, R101, R104, R401. -/
def Obligations.RoutingPassStages : Prop := ∀ (q : List Instr) (d : Dev), d.alive = true → d.calm = true →
  (∀ src l gid s1 s2 gr blk, dOp l = 0x0200 → gid = d.fld (Reg.PST_GROUP (rpProfile l)) 0 16 → d.routeBad l = (s1, none) →
      s1.group gid = some gr → s1.readBlk (rpBlk l) = (s2, some blk) → heldAbort gr 1 (nth gr.seqs 1 0) = none →
      s2.cmd s2.nextGen = none → s2.group gid = some gr →
      ∃ t r, exec (.routepass src l) ⟨q, d⟩ = .next ⟨q, t⟩ ∧ t.routeOf s2.nextGen = some r
        ∧ (t.cmd s2.nextGen).map (fun c => (c.desc, c.src)) = some (l, src) ∧ t.genNext = s2.nextGen + 1
        ∧ r.group = gr.gid ∧ r.seq = nth gr.seqs 1 0 ∧ r.blk = blk ∧ r.selcfg = s2.reg (Reg.PST_SELCFG (rpProfile l))
        ∧ r.stage = (if blkF blk 64 8 = 0 then .score else .wait)
        ∧ t.group gid = some { gr with seqs := gr.seqs.set 1 (nth gr.seqs 1 0 + 1) })
  ∧ (∀ src l gid s1 s2 r, dOp l = 0x0200 → gid = d.fld (Reg.PST_GROUP (rpProfile l)) 0 16 → d.routeBad l = (s1, some r) →
      s2 = s1.refuse src l r →
      (s2.group gid = none → exec (.routepass src l) ⟨q, d⟩ = .next ⟨q, s2⟩)
      ∧ (∀ gr, s2.group gid = some gr → gr.state = gFORMED → exec (.routepass src l) ⟨q, d⟩ = .next ⟨q, s2.refusePass gr
            (paramDigest (rpLayer l) (s2.reg (Reg.PST_SELCFG (rpProfile l))) (s2.fld (Reg.PST_CAP (rpProfile l)) 0 24)
              (s2.reg (Reg.PST_FALLBACK (rpProfile l))) (nth gr.seqs 1 0)) (rpTokens l)⟩))
  ∧ (∀ g r, d.routeOf g = some r → r.stage = .wait → blkF r.blk 64 8 ≠ 0 → d.ctrBad (blkF r.blk 64 8) = none →
      blkF r.blk 72 8 ≤ d.ctr (blkF r.blk 64 8) → exec (.routepassWaitSatisfied g) ⟨q, d⟩ = .next ⟨q, d.stageTo g .score⟩)
  ∧ (∀ p c r i, d.cmds.findSome? (fun c => d.readyShare c p) = some (.stage c.gen) → d.cmd c.gen = some c →
      d.routeOf c.gen = some r → (r.left.find? fun x => x.2 == p) = some (i, p) →
      (r.stage ≠ .score → r.left.filter (fun x => x.1 != i) ≠ [] → exec (.postilionShareDispatch p) ⟨q, d⟩
          = .next ⟨q, d.setRoute c.gen fun z => { z with left := r.left.filter fun x => x.1 != i }⟩)
      ∧ (∀ s1, r.stage = .score → r.left = [(i, p)] →
          d.scoreShare c.gen c.desc r (shareExperts r.experts (routeShares c.desc).length i) = (s1, true) →
          exec (.postilionShareDispatch p) ⟨q, d⟩ = .next ⟨q, (s1.setRoute c.gen fun r => { r with left := [] }).stageTo c.gen .hist⟩)
      ∧ ((r.stage = .hist ∨ r.stage = .tie ∨ r.stage = .cap) → r.left = [(i, p)] → exec (.postilionShareDispatch p) ⟨q, d⟩
          = .next ⟨q, (d.setRoute c.gen fun r => { r with left := [] }).selContribute c.gen c.desc r⟩)
      ∧ (r.stage = .scatter → r.left = [(i, p)] → exec (.postilionShareDispatch p) ⟨q, d⟩
          = .next ⟨q, (d.setRoute c.gen fun r => { r with left := [] }).setRoute c.gen fun r => { r with stage := .scattered }⟩))
  ∧ (∀ g c r m, d.cmd g = some c → d.routeOf g = some r → r.red = some m →
      (∀ ord, m.ready = false ∨ m.x.ord ≠ ord → exec (.routeReductionComplete g ord) ⟨q, d⟩ = .next ⟨q, d⟩)
      ∧ (∀ s1 x s2, m.ready = true → d.redResult g m = (s1, some x) →
          s2 = ((s1.closeX g).setRoute g fun r => { r with red := none }) →
        (r.stage = .histR → r.ord = 0 → (x.digestBad ≠ none ∨ x.refused ≠ 0) → exec (.routeReductionComplete g m.x.ord) ⟨q, d⟩
          = .next ⟨q, (s2.record clsROUTE 4 (x.digestBad.getD 0xFFFF) g blkPST (maskInst c.desc)).groupKill g 2 false⟩)
        ∧ (r.stage = .histR → r.ord = 0 → x.digestBad = none → x.refused = 0 → 4294967295 < x.wintok →
          exec (.routeReductionComplete g m.x.ord) ⟨q, d⟩ = .next ⟨q, (s2.record clsROUTE 5 x.wintok g blkPST (maskInst c.desc)).groupKill g 2 false⟩)
        ∧ (r.stage = .countR → (x.digestBad ≠ none ∨ x.refused ≠ 0) → exec (.routeReductionComplete g m.x.ord) ⟨q, d⟩
          = .next ⟨q, (s2.record clsROUTE 0x00B (x.digestBad.getD 0xFFFF) g blkPST (maskInst c.desc)).groupKill g 2 false⟩)
        ∧ (r.stage = .tieR → exec (.routeReductionComplete g m.x.ord) ⟨q, d⟩
          = .next ⟨q, (s2.setRoute g fun z => { z with ord := z.ord + 1, scanQ := r.tiedEs.zip x.scan }).stageTo g .cap⟩)))
  ∧ (∀ g c r gr s1 rows s2, d.cmd g = some c → d.routeOf g = some r → d.group r.group = some gr → r.stage = .scattered →
      d.ctrBad (blkF r.blk 40 8) = none → Dev.readSpans g ((List.range (rpTokens c.desc)).map r.actRow) d = (s1, some rows) →
      Dev.writeSpans g (r.scatterSpans s1.coord g gr (rpTokens c.desc) rows) s1 = (s2, true) →
      exec (.scatterCommit g) ⟨q, d⟩ = .next ⟨q, ((((s2.ctrAdd (blkF r.blk 40 8) 1).bump Reg.PST_CNT_ROWSENT
        (r.list.filter fun y => r.sent y.1).length).setRoute g fun r => { r with stage := .combine }).combineProgress g)⟩)

/-- R92, R126, R127. -/
def Obligations.WaybillRows : Prop := ∀ (q : List Instr) (d : Dev) (i e : Nat), d.alive = true →
    i = d.fld Reg.WYB_UPDIDX 0 20 → e = ((List.range 4).map fun k => d.fld (Reg.WYB_UPDDATA k) 0 32 * 2 ^ (32 * k)).sum →
  exec .waybillUpdate ⟨q, d⟩ = .next ⟨q, d.setFlag Reg.WYB_UPDGO 0 true⟩
  ∧ exec .cqhwmClear ⟨q, d⟩ = .next ⟨q, d.setReg Reg.PST_CQHWM 0⟩
  ∧ (d.flag Reg.WYB_UPDGO 0 = false → exec .waybillUpdateDone ⟨q, d⟩ = .next ⟨q, d⟩
    ∧ (∀ v : Word32, ∃ t, exec (.waybillRegWrite Reg.WYB_UPDIDX v) ⟨q, d⟩ = .next ⟨q, t⟩
        ∧ d.OnlyRegs t [Reg.WYB_UPDIDX] ∧ t.fld Reg.WYB_UPDIDX 0 20 = v.toNat % 2 ^ 20)
    ∧ ∀ (v : Word32) (k : Nat), k < 4 → ∃ t, exec (.waybillRegWrite (Reg.WYB_UPDDATA k) v) ⟨q, d⟩ = .next ⟨q, t⟩
        ∧ d.OnlyRegs t [Reg.WYB_UPDDATA k] ∧ t.fld (Reg.WYB_UPDDATA k) 0 32 = v.toNat)
  ∧ (d.flag Reg.WYB_UPDGO 0 = true →
    (∀ off v, exec (.waybillRegWrite off v) ⟨q, d⟩ = .next ⟨q, d⟩)
    ∧ (bits e 115 2 ≠ 3 → inCH (d.reg Reg.WYB_BASE + 16 * i) 16 = true → exec .waybillUpdateDone ⟨q, d⟩
        = .next ⟨q, ((d.setFlag Reg.WYB_UPDGO 0 false).wrNum (chAddr (d.reg Reg.WYB_BASE + 16 * i)) 16 e).bump Reg.WYB_CNT_UPD 1⟩)
    ∧ ((bits e 115 2 = 3 ∨ inCH (d.reg Reg.WYB_BASE + 16 * i) 16 = false) → exec .waybillUpdateDone ⟨q, d⟩
        = .next ⟨q, (d.setFlag Reg.WYB_UPDGO 0 false).record clsROUTE 0x012 i 0 blkWYB 0⟩))

/-- R108 to R110, R113, R114, R117 to R119, R401. That exchBad refuses a GROUP other than that of the pass is the model's choice
(log entry 221). -/
def Obligations.Exchanges : Prop := ∀ (q : List Instr) (d : Dev), d.alive = true → d.calm = true →
  (∀ src l gr r st, dOp l = 0x0201 → d.headCheck l = none → d.exchBad l = none → d.group (xpGroup l) = some gr →
      gr.state = gFORMED → d.groupHeld gr.gid < 64 → gr.slots = [] → r = d.exchRun l gr 0 → st = (if xpBack l then 3 else 2) →
      ∃ t c, exec (.exchange src l) ⟨q, d⟩ = .next ⟨q, t⟩ ∧ c ∈ t.cmds ∧ c.gen = d.nextGen ∧ c.desc = l ∧ c.src = src
        ∧ c.body = .exch r ∧ r.x.gid = gr.gid ∧ r.x.stream = st ∧ r.x.xid = xpXid l ∧ r.x.active = false ∧ r.back = xpBack l
        ∧ t.group gr.gid = some { gr with seqs := gr.seqs.set st (nth gr.seqs st 0 + 1) } ∧ t.genNext = d.nextGen + 1)
  ∧ (∀ src l k s1, dOp l = 0x0201 → d.headCheck l = none → d.exchBad l = some k → s1 = d.refuse src l ⟨clsROUTE, 0x00E, k⟩ →
      (s1.group (xpGroup l) = none → exec (.exchange src l) ⟨q, d⟩ = .next ⟨q, s1⟩)
      ∧ (∀ gr st, s1.group (xpGroup l) = some gr → gr.state = gFORMED → st = (if xpBack l then 3 else 2) →
          exec (.exchange src l) ⟨q, d⟩ = .next ⟨q, (s1.takeSeq (xpGroup l) st).sendAborts gr st (xpXid l) 1⟩))
  ∧ (∀ g r c e sc s1 sn ct s2 slots failed s3, d.exchOf g = some r → d.cmds.head? = some c → c.gen = g → r.table = some (e, sc) →
      r.back = false → r.x.active = false →
      Dev.readSpans g [(sc + 4 * e, 16 * (e + 1)), (sc + 20 * e + 16, 32 * (e + 1))] d = (s1, some [sn, ct]) →
      s1.fixSlots g r (namedSlots s1.coord r.sbias ((List.range (e + 1)).map (elemAt sn 16))
        ((List.range (4 * (e + 1))).map fun i => elemAt ct 4 (2 * i + 1))) = (s2, slots, failed) →
      ((Dev.updX { s2 with landed := s2.landed ++ [⟨g, r.x.gid, r.x.xid, r.pass, r.comb, slots, failed, [], false⟩] } g
        fun x => { x with active := true }).updCmd g fun c => { c with writes := c.writes ++ (slots.flatMap fun x =>
          [(jobKey x.inA, x.rowsMax * up64 r.xbytes), (jobKey x.tagA, x.rowsMax * 32)]).filter fun y => y.2 != 0 }).settleSlots g r = (s3, true) →
      exec (.exchangeFixSlots g) ⟨q, d⟩ = .next ⟨q, s3.exchProgress g⟩)
  ∧ (∀ g r, d.exchOf g = some r → r.back = true → r.x.active = false →
      d.landed.any (fun l => l.gid == r.x.gid && l.xid == r.fwd && l.done) = true →
      exec (.returnExchangeStart g) ⟨q, d⟩ = .next ⟨q, d.updX g fun x => { x with active := true }⟩)
  ∧ (∀ g c r a s1 y s2 at_ n s3, d.cmd g = some c → d.exchOf g = some r → r.back = false → r.x.active = true →
      a = xpWait c.desc →
      (r.x.sends.any (·.begun) = true ∨ d.ctrBad a = none ∧ (a = 0 ∨ xpTarget c.desc ≤ d.ctr a)) → Dev.sendWaiting g r.x.sends d = (s1, true) →
      (r.x.sends.find? fun y => !y.begun) = some y → y.step < r.x.limit 0 → s1.fwdSegment g r.send y.peer = (s2, some (at_, n)) →
      (s2.updX g fun x => x.updSend y.step 0 fun z => { z with src := .slots at_, len := n }).beginStep g y.step 0 = (s3, true) →
      exec (.exchangeStepStart g) ⟨q, d⟩ = .next ⟨q, s3.exchProgress g⟩)
  ∧ (∀ g r rank y gr s1 s2, d.exchOf g = some r → (r.x.recvs.find? fun y => y.peer == rank) = some y → d.group r.x.gid = some gr →
      r.back = false → r.x.active = true → y.done = true → rank ∉ r.unpacked →
      d.mayWork g (d.unpackPost r.x rank) = true → Dev.unpackRows g (gr.coordOf rank) r (recordsOf r.recSize (d.segBytes y)) d = (s1, true) →
      ((s1.freePlaces 1 y.places).setExch g fun r => { r with
        unpacked := r.unpacked ++ [rank]
        x := r.x.updRecv y.step 0 fun z => { z with places := [] } }).settleSlots g r = (s2, true) →
      exec (.unpackSegment g rank) ⟨q, d⟩ = .next ⟨q, s2.exchProgress g⟩)
  ∧ (∀ x r rank y recs i z g p, d.unread.find? (fun z => z.1 == x && z.2.2.1 == rank && z.2.2.2.1 == i) = some z →
      d.recordPost x z.2.1 rank z.2.2.2.2 = (g, p) → d.mayWork g p = true → d.exchOf x = some r → (r.x.recvs.find? fun y => y.peer == rank) = some y → r.back = true →
      y.done = true → rank ∉ r.unpacked → recs = recordsOf r.recSize (d.segBytes y) → i < recs.length → (rank, i) ∉ r.read →
      (∀ j, j < recs.length → (rank, j) ∈ r.read ++ [(rank, i)]) →
      exec (.combineReturnRecord x rank i) ⟨q, d⟩
        = .next ⟨q, (((d.combineRecord r.comb (nth recs i [])).freePlaces 1 y.places).setExch x fun z => { z with
            read := r.read ++ [(rank, i)]
            unpacked := z.unpacked ++ [rank]
            x := z.x.updRecv y.step 0 fun z => { z with places := [] } }).exchProgress x⟩)
  ∧ (∀ comb rec, (∀ c r, c ∈ d.cmds → c.body = .route r → blkF r.blk 16 8 ≠ comb) →
      d.combineRecord comb rec = d.bump Reg.PST_CNT_STALEGEN 1)

/-- R428 to R430, R435, R436. -/
def Obligations.MemoryFabricCommands : Prop := ∀ (q : List Instr) (d : Dev), d.alive = true →
  (∀ src l s1 g run, dOp l = 0x0500 → d.headCheck l = none → d.mfxBad l = none →
      (lfield l 16 0 1 = 1 → lnum l 24 8 + lnum l 40 8 ≤ lnum l 48 8 ∨ lnum l 48 8 + 64 ≤ lnum l 24 8) →
      run = ⟨lfield l 16 0 1 == 1, !(sameStage d.coord (lnum l 18 2) && (d.fld Reg.MMF_CFG 8 8 == 0
        || decide (lnum l 40 8 < d.fld Reg.MMF_CFG 8 8 * 1024))), lnum l 18 2, lfield l 17 0 6, lnum l 24 8, lnum l 32 8,
        lnum l 40 8, lnum l 48 8, 0, [], [], 0⟩ →
      d.arm src l 0 (if lfield l 16 0 1 == 1 then [(jobKey (lnum l 24 8), lnum l 40 8)] else [])
        (if lfield l 16 0 1 == 1 then [(jobKey (lnum l 48 8), 64)]
          else [(jobKey (lnum l 24 8), lnum l 40 8), (jobKey (lnum l 48 8), 64)]) (.mfx run) = (s1, g) →
      exec (.mfx src l) ⟨q, d⟩ = .next ⟨q, s1.mfxGo g⟩ ∧ g = d.nextGen)
  ∧ (∀ src l s1 g, dOp l = 0x0501 → d.headCheck l = none → d.matomicBad l = none →
      d.arm src l 0 [] [(jobKey (lnum l 48 8), 8)] (.matomic ⟨false, lnum l 18 2, lnum l 48 8, none, false⟩) = (s1, g) →
      exec (.matomic src l) ⟨q, d⟩ = .next ⟨q, s1.mfxGo g⟩ ∧ g = d.nextGen)
  ∧ (∀ src l n, d.headCheck l = none →
      (dOp l = 0x0500 → d.mfxBad l = some n → exec (.mfx src l) ⟨q, d⟩ = .next ⟨q, d.refuse src l ⟨clsMEM, 0x020, n⟩⟩)
      ∧ (dOp l = 0x0501 → d.matomicBad l = some n →
          exec (.matomic src l) ⟨q, d⟩ = .next ⟨q, d.refuse src l ⟨clsMEM, 0x020, n⟩⟩))
  ∧ (∀ c f, c.kind = kMRSP → mOp c ≠ oBULKACK → mOp c ≠ oBULKRD → d.calm = true →
      f = (fun r : LineReq => r.tag == mTag c && r.gen % 2 ^ 32 == c.gen && r.remote == c.src && r.op == mOp c) →
      ((d.taken c).mmf.reqs.find? f = none →
        exec (.lineResponseReceive c) ⟨q, d⟩ = .next ⟨q, ((d.taken c).bump Reg.MMF_CNT_STALE 1).failLost⟩)
      ∧ ∀ r, (d.taken c).mmf.reqs.find? f = some r →
        (mStatus c = stBUSY → exec (.lineResponseReceive c) ⟨q, d⟩ = .next ⟨q, Dev.failLost ((d.taken c).setMmf fun m => { m with
            reqs := updFirst (fun x => x.tag == r.tag) (fun x => { x with busy := true }) m.reqs })⟩)
        ∧ (∀ g k x, r.use = .atomic g → d.cmd g = some k → k.body = .matomic x → mStatus c = stOK →
            exec (.lineResponseReceive c) ⟨q, d⟩ = .next ⟨q, (((d.taken c).dropReq r.tag).setBody g (.matomic { x with
              got := some (mOperand c % 2 ^ (if r.w64 then 64 else 32)) })).mfxGoAll.failLost⟩)
        ∧ (∀ g k x, r.use = .unit g → d.cmd g = some k → k.body = .mfx x →
            (∀ s1, mStatus c = stOK → x.store = false →
              (d.taken c).cmdWrite g (x.loc + (r.offset - x.offset)) (c.payload.take (64 * r.nlines)) = (s1, true) →
              exec (.lineResponseReceive c) ⟨q, d⟩ = .next ⟨q, (s1.dropReq r.tag).mfxGoAll.failLost⟩)
            ∧ (mStatus c ≠ stOK → mStatus c ≠ stBUSY → mStatus c ≠ stPOISON → exec (.lineResponseReceive c) ⟨q, d⟩
                = .next ⟨q, (((d.taken c).record clsMEM 0x021 (mStatus c + r.remote * 2 ^ 16) g blkMMF 0).mmfKill g 2 false).mfxGoAll.failLost⟩)))
  ∧ (∀ c r g s2, c.kind = kMRSP → mOp c = oLOAD → r.use = .lent g → r.op = oLOAD →
      (d.taken c).mmf.reqs.find? (fun r : LineReq => r.tag == mTag c && r.gen % 2 ^ 32 == c.gen && r.remote == c.src && r.op == mOp c)
        = some r →
      (mStatus c = stOK ∧ (d.mmf.reqs ++ d.mmf.queue).any (fun x => x.op == oSTORE && x.meets r) = false
          ∧ s2 = ((((d.taken c).dropReq r.tag).wrBytes r.key (c.payload.take 64 ++ List.replicate (64 - c.payload.length) 0)).lentGot g
            r.key).mfxGoAll.failLost
        ∨ mStatus c = stNOLOAN ∧ s2 = ((((d.taken c).dropReq r.tag).lenderLost g fun k l => l == r.remote
            && decide (d.fld (Reg.MMF_BORROW k) 16 9 * 512 ≤ keyLentOff r.key / 2 ^ 21)
            && decide (keyLentOff r.key / 2 ^ 21 < (d.fld (Reg.MMF_BORROW k) 16 9 + d.fld (Reg.MMF_BORROW k) 32 9) * 512)).lentFail g
            r.key).mfxGoAll.failLost) →
      exec (.lineResponseReceive c) ⟨q, d⟩ = .next ⟨q, if s2.mmf.lines.any (fun l => l.1 == 0) then s2.armRings else s2⟩)
  ∧ (∀ tag r g k x, d.calm = true → d.mmf.reqs.find? (fun r => r.tag == tag) = some r → r.use = .unit g → d.cmd g = some k → k.body = .mfx x →
      (r.busy = false → d.fld Reg.MMF_TMR 8 4 ≤ r.tries → exec (.requestTimeout tag) ⟨q, d⟩
          = .next ⟨q, (Dev.lenderLost ((d.record clsMEM 0x022 (r.remote * 2 ^ 16) g blkMMF 0).mmfKill g 2 false)
              r.gen fun _ l => l == r.remote).mfxGoAll.failLost⟩)
      ∧ (r.busy = false → r.tries < d.fld Reg.MMF_TMR 8 4 → r.op ≠ oSTORE → exec (.requestTimeout tag) ⟨q, d⟩
          = .next ⟨q, ((d.setMmf fun m => { m with
              reqs := updFirst (fun r => r.tag == tag) (fun r => { r with tries := r.tries + 1, busy := false }) m.reqs }).setMfx g
              fun x => { x with repeats := x.repeats + 1 }).putReq r true [] r.plane |>.failLost⟩))

/-- R422, R423, R425 to R427. -/
def Obligations.ServedRequests : Prop := ∀ (q : List Instr) (d : Dev) (c : Carriage) (s : Dev), d.alive = true → s = d.taken c →
    c.kind = kMREQ →
  (mOp c = oLOAD → d.calm = true →
    (∀ p s1, s.mmfCheck c.src (mSpace c) (mRegion c) (mOffset c / 64 * 64) (64 * mLines c) 64 false false = (stOK, p) →
      Dev.placeLines p (lineSteps (64 * mLines c)) (s.placeTouch p (64 * mLines c)) = (s1, stOK) →
      exec (.load c) ⟨q, d⟩ = .next ⟨q, s1.mmfReply c stOK 0 (s1.placeRead p (64 * mLines c))⟩)
    ∧ ∀ st p, s.mmfCheck c.src (mSpace c) (mRegion c) (mOffset c / 64 * 64) (64 * mLines c) 64 false false = (st, p) → st ≠ stOK →
      exec (.load c) ⟨q, d⟩ = .next ⟨q, s.mmfReply c st 0 []⟩)
  ∧ (mOp c = oSTORE →
    (∀ p, s.mmfCheck c.src (mSpace c) (mRegion c) (mOffset c / 64 * 64) (64 * mLines c) 64 true false = (stOK, p) →
      exec (.store c) ⟨q, d⟩ = .next ⟨q, (s.placeWrite p (c.payload.take (64 * mLines c))).mmfReply c stOK 0 []⟩)
    ∧ ∀ st p, s.mmfCheck c.src (mSpace c) (mRegion c) (mOffset c / 64 * 64) (64 * mLines c) 64 true false = (st, p) → st ≠ stOK →
      exec (.store c) ⟨q, d⟩ = .next ⟨q, s.mmfReply c st 0 []⟩)
  ∧ (mOp c = oATOMIC → d.calm = true → aopOk (mAop c) = true → ∀ b, b = (if mW64 c then 8 else 4) →
    (mRetry c = false → s.mmf.atoms.length < 4096 → ∀ p s1 old,
      s.mmfCheck c.src (mSpace c) (mRegion c) (mOffset c) b b true true = (stOK, p) →
      Dev.placeLines p [0] (s.placeTouch p b) = (s1, stOK) → old = leNat (s1.placeRead p b) →
      exec (.atomic c) ⟨q, d⟩ = .next ⟨q, Dev.mmfReply ((s1.placeWrite p (leBytes b (atomicOp (mAop c) (8 * b) old
          (mOperand c % 2 ^ (8 * b)) (mCompare c % 2 ^ (8 * b))))).setMmf fun m => { m with
            atoms := m.atoms.filter (fun e => !(e.coord == c.src && e.tag == mTag c)) ++ [⟨c.src, mTag c, BitVec.ofNat 64 old⟩] })
          c stOK old []⟩)
    ∧ (∀ e, mRetry c = true → s.mmf.atoms.find? (fun e => e.coord == c.src && e.tag == mTag c) = some e →
        exec (.atomic c) ⟨q, d⟩ = .next ⟨q, s.mmfReply c stOK e.old.toNat []⟩)
    ∧ (mRetry c = false → 4096 ≤ s.mmf.atoms.length →
        exec (.atomic c) ⟨q, d⟩ = .next ⟨q, (s.mmfReply c stBUSY 0 []).bump Reg.MMF_CNT_ATOMBUSY 1⟩))
  ∧ (∀ coord tag, exec (.atomEntryExpire coord tag) ⟨q, d⟩ = .next ⟨q, { d with mmf := { d.mmf with
        atoms := d.mmf.atoms.filter fun e => !(e.coord == coord && e.tag == tag) } }⟩)

/-- R429. -/
def Obligations.GatewayTransfers : Prop := ∀ (q : List Instr) (d : Dev), d.alive = true →
  (∀ c s, s = d.taken c →
    (c.kind = kMREQ → mOp c = oBULKRD → mCompare c ≠ 0 → d.calm = true →
      (s.mmf.serves.any (fun b => b.coord == c.src && b.gen == c.gen) = true → exec (.bulkrd c) ⟨q, d⟩ = .next ⟨q, s⟩)
      ∧ (∀ p, s.mmf.serves.any (fun b => b.coord == c.src && b.gen == c.gen) = false →
          s.mmfCheck c.src (mSpace c) (mRegion c) (mOffset c / 64 * 64) (mCompare c) 64 false false = (stOK, p) →
          exec (.bulkrd c) ⟨q, d⟩ = .next ⟨q, Dev.servePump c.src c.gen 65 ((s.setMmf fun m => { m with serves := m.serves
            ++ [⟨c.src, c.gen, mSpace c, mRegion c, mOffset c / 64 * 64, mCompare c, 0, [], [],
              (match p with | .job a => a | .lent k => k), false⟩] }).bump
              Reg.MMF_CNT_REQRX 1)⟩))
    ∧ (c.kind = kBULK → 0 < mCompare c → mCompare c ≤ 4096 →
      (∀ p s1, mOp c = oSTORE → s1 = s.bump Reg.MMF_CNT_REQRX 1 →
        s.mmfCheck c.src (mSpace c) (mRegion c) (mOffset c / 64 * 64) (mCompare c) 64 true false = (stOK, p) →
        exec (.bulkChunkReceive c) ⟨q, d⟩ = .next ⟨q, (s1.placeWrite p (c.payload.take (mCompare c))).noteAck c.src c.gen c.chunk |>.failLost⟩)
      ∧ (∀ st p s1, mOp c = oSTORE → s1 = s.bump Reg.MMF_CNT_REQRX 1 →
        s.mmfCheck c.src (mSpace c) (mRegion c) (mOffset c / 64 * 64) (mCompare c) 64 true false = (st, p) → st ≠ stOK →
        exec (.bulkChunkReceive c) ⟨q, d⟩
          = .next ⟨q, (s1.bump Reg.MMF_CNT_REFUSED 1).sendBulkAck c.src c.gen c.chunk 0 st |>.failLost⟩)
      ∧ (mOp c = oLOAD → s.mmf.sectors = [] → s.cmds = [] →
          exec (.bulkChunkReceive c) ⟨q, d⟩ = .next ⟨q, (s.bump Reg.MMF_CNT_STALE 1).failLost⟩)
      ∧ (∀ x n, mOp c = oLOAD → s.sectorOf false c = some x → n = x.base + c.chunk → n < 16 → n ∉ x.done →
        exec (.bulkChunkReceive c) ⟨q, d⟩ = .next ⟨q, ((((s.setMmf fun m => { m with
          reqs := m.reqs.filter fun q => q.use != .sector x.page x.sec }).wrBytes (x.key + 4096 * n) (c.payload.take 4096)).sectorDone x
            n).noteAck c.src c.gen c.chunk).mfxGoAll.failLost⟩)
      ∧ (∀ k x s1, mOp c = oLOAD → s.mmf.sectors = [] → s.cmds = [k] → k.body = .mfx x → x.gateway = true → x.store = false → x.remote = c.src →
        k.gen % 2 ^ 32 = c.gen → c.chunk < x.chunks →
        (s.setMmf fun m => { m with reqs := m.reqs.filter fun q => q.use != .unit k.gen }).cmdWrite k.gen (x.loc + 4096 * c.chunk)
          (c.payload.take (min 4096 (x.len - 4096 * c.chunk))) = (s1, true) →
        exec (.bulkChunkReceive c) ⟨q, d⟩ = .next ⟨q, ((s1.setMfx k.gen fun r => { r with
          done := if r.done.contains c.chunk then r.done else r.done ++ [c.chunk] }).noteAck c.src c.gen c.chunk).mfxGoAll.failLost⟩))
    ∧ (c.kind = kMRSP → mOp c = oBULKACK →
      (∀ x n, s.sectorOf true c = some x → mStatus c = stOK → ackChunks c = [n] → n < 16 →
        exec (.bulkack c) ⟨q, d⟩ = .next ⟨q, (s.sectorDone x n).failLost⟩)
      ∧ (∀ k x, s.mmf.sectors = [] → s.cmds = [k] → k.body = .mfx x → x.gateway = true → x.store = true → x.remote = c.src →
        k.gen % 2 ^ 32 = c.gen → mStatus c = stOK → exec (.bulkack c) ⟨q, d⟩ = .next ⟨q, (s.setMfx k.gen fun r => { r with
          done := r.done ++ (ackChunks c).filter fun z => decide (z < r.issued) && !r.done.contains z }).mfxGo k.gen |>.failLost⟩)
      ∧ (∀ b, s.mmf.sectors = [] → s.cmds = [] → s.mmf.serves.find? (fun b => b.coord == c.src && b.gen == c.gen) = some b →
        b.chunks ≤ (b.acked ++ (ackChunks c).filter fun z => decide (z < b.next) && !b.acked.contains z).length →
        exec (.bulkack c) ⟨q, d⟩ = .next ⟨q, (s.dropServe b).failLost⟩)))
  ∧ (∀ a, d.mmf.acks.find? (fun x => x.coord == a.coord && x.gen == a.gen) = some a →
      exec (.bulkackCoalesceFlush a.coord a.gen) ⟨q, d⟩ = .next ⟨q, Dev.bulkAcks a.coord a.gen a.chunks.length a.chunks
        (d.setMmf fun m => { m with acks := m.acks.filter fun x => !(x.coord == a.coord && x.gen == a.gen) })⟩)
  ∧ (∀ x chunk, d.calm = true → d.mmf.sectors = [x] → x.store = true → chunk < 16 → chunk ∉ x.done →
      exec (.bulkChunkTimeout x.lender x.gen chunk) ⟨q, d⟩
        = .next ⟨q, d.sectorChunk x chunk ((x.planes.find? fun y => y.1 == chunk).map (·.2))⟩)
  ∧ (∀ k x chunk s1, d.calm = true → d.mmf.sectors = [] → d.cmds = [k] → k.body = .mfx x → x.gateway = true → x.store = true → chunk < x.issued → chunk ∉ x.done →
      d.storeChunk k.gen x chunk ((x.planes.find? fun y => y.1 == chunk).map (·.2)) = (s1, true) →
      exec (.bulkChunkTimeout x.remote k.gen chunk) ⟨q, d⟩
        = .next ⟨q, s1.setMfx k.gen fun r => { r with repeats := r.repeats + 1 }⟩)

/-- R422, R424, R431, R433, R434. -/
def Obligations.RegionsAndLoans : Prop := ∀ (q : List Instr) (d : Dev), d.alive = true →
  (∀ off (v : Word64) i kind row new, regionOf off = some (i, kind) → findRow off = some row →
      new = mergeWrite row .host (d.mmfReg off) v.toNat →
      (¬ (kind = 2 ∧ bit new 0 = true ∧ d.regionOk i = false) →
        ¬ (kind = 1 ∧ bits new 0 28 = 0 ∧ bit (d.mmfReg (Reg.MMF_RCTL i)) 0 = true) → regReserved d.express off new = false →
        exec (.regionWrite off v) ⟨q, d⟩ = .next ⟨q, (d.setMmf fun m => { m with
          pend := m.pend.filter (fun p => p.1 != off) ++ [(off, BitVec.ofNat 64 new)]
          serves := m.serves.map fun b => if b.space = 0 && b.region = i then { b with old := true } else b }).setFlag
            (Reg.MMF_RCTL i) 31 true⟩)
      ∧ (kind = 2 ∧ bit new 0 = true ∧ d.regionOk i = false
          ∨ kind = 1 ∧ bits new 0 28 = 0 ∧ bit (d.mmfReg (Reg.MMF_RCTL i)) 0 = true →
        exec (.regionWrite off v) ⟨q, d⟩ = .next ⟨q, d.record clsMEM 0x025 (off % 0x100000) 0 (blockAt off) 0⟩))
  ∧ (∀ i p x, i < 64 → d.mmf.pend = [p] → regionOf p.1 = some x → x.1 = i →
      (d.mmf.serves.any fun b => b.space == 0 && b.region == i && b.old) = false →
      exec (.regionChangeApply i) ⟨q, d⟩ = .next ⟨q, ((d.setReg p.1 p.2.toNat).setMmf fun m => { m with pend := [] }).setFlag
        (Reg.MMF_RCTL i) 31 false⟩)
  ∧ (∀ j, j < 16 →
    (∀ v : Word64, bit v.toNat 48 = true → sameStage d.coord (bits v.toNat 0 16) = true →
      (regReserved d.express (Reg.MMF_LOAN j) v.toNat = false → d.flag (Reg.MMF_LOAN j) 49 = false → d.flag Reg.MMF_CFG 1 = true →
        ((List.range (bits v.toNat 32 9 * 512)).map (bits v.toNat 16 9 * 512 + ·)).all d.hbmFree = true →
        ∃ t, exec (.loanWrite j v) ⟨q, d⟩ = .next ⟨q, t⟩ ∧ d.OnlyRegs t [Reg.MMF_LOAN j] ∧ t.flag (Reg.MMF_LOAN j) 48 = true
          ∧ t.fld (Reg.MMF_LOAN j) 0 16 = bits v.toNat 0 16 ∧ t.fld (Reg.MMF_LOAN j) 16 9 = bits v.toNat 16 9
          ∧ t.fld (Reg.MMF_LOAN j) 32 9 = bits v.toNat 32 9)
      ∧ (d.flag (Reg.MMF_LOAN j) 49 = true → exec (.loanWrite j v) ⟨q, d⟩
          = .next ⟨q, d.record clsMEM 0x025 (Reg.MMF_LOAN j % 0x100000) 0 blkMMF 0⟩))
    ∧ (∀ v : Word64, sameStage d.coord (bits v.toNat 0 16) = false → exec (.loanWrite j v) ⟨q, d⟩
          = .next ⟨q, d.record clsMEM 0x025 (Reg.MMF_LOAN j % 0x100000) 0 blkMMF 0⟩)
    ∧ (∀ v : Word64, bit v.toNat 48 = false → d.flag (Reg.MMF_LOAN j) 48 = true → ∀ i,
        (i = Instr.loanWrite j v ∧ sameStage d.coord (bits v.toNat 0 16) = true ∨ i = .loanEnd j) → exec i ⟨q, d⟩
          = .next ⟨q, (d.setFlag (Reg.MMF_LOAN j) 48 false).setFlag (Reg.MMF_LOAN j) 49 true⟩)
    ∧ (d.flag (Reg.MMF_LOAN j) 49 = true → ∃ s1, exec (.loanClearDone j) ⟨q, d⟩ = .next ⟨q, Dev.pump s1⟩
        ∧ d.OnlyRegs { s1 with mem := d.mem, bad := d.bad } [Reg.MMF_LOAN j] ∧ s1.flag (Reg.MMF_LOAN j) 49 = false
        ∧ ∀ k lo, d.canonical = true → lo = hbmKey (d.fld (Reg.MMF_LOAN j) 16 9 * 512) 0 →
            s1.rd k = if lo ≤ k ∧ k < lo + d.fld (Reg.MMF_LOAN j) 32 9 * 2 ^ 30 then 0 else d.rd k))
  ∧ (∀ k, k < 16 →
    (∀ v : Word64, regReserved d.express (Reg.MMF_BORROW k) v.toNat = false → sameStage d.coord (bits v.toNat 0 16) = true →
        d.flag (Reg.MMF_BORROW k) 48 = false → bit v.toNat 50 = false →
        ∃ t, exec (.borrowWrite k v) ⟨q, d⟩ = .next ⟨q, t⟩ ∧ d.OnlyRegs t [Reg.MMF_BORROW k]
          ∧ t.fld (Reg.MMF_BORROW k) 0 16 = bits v.toNat 0 16 ∧ t.flag (Reg.MMF_BORROW k) 48 = bit v.toNat 48)
    ∧ (∀ w x, d.flag (Reg.MMF_BORROW k) 48 = true → w = d.reg (Reg.MMF_BORROW k) →
        x = ⟨0, 0, bits w 0 16, oLOAD, 1, 0, bits w 16 9 * 512 * 2 ^ 21, 1, 0, false, 0, 0, 1, none, false, .recheck k⟩ →
        ((d.mmf.reqs ++ d.mmf.queue).any fun r => r.use == .recheck k) = false →
        exec (.borrowRecheck k) ⟨q, d⟩ = .next ⟨q, (d.setFlag (Reg.MMF_BORROW k) 50 true).askReq x⟩
        ∧ (d.mmf.queue = [] → d.mmf.reqs.length < 1024 → (d.mmf.reqs.any fun r => x.meets r) = false →
            exec (.borrowRecheck k) ⟨q, d⟩ = .next ⟨q, (d.setFlag (Reg.MMF_BORROW k) 50 true).newReq x []⟩)))

/-- R214, R220 to R225, R227, R228, R238, R244. -/
def Obligations.CoachCommandsAtTheirEntries : Prop := ∀ (q : List Instr) (d d1 : Dev) (n : Nat) (p : SeqAt) (s1 : Dev) (bs : List Byte)
    (l : Line), d.alive = true → d.calm = true → d1.seqAt n = some p → d1.cmdRead p.g p.addr 64 = (s1, some bs) →
    l = BitVec.ofNat 512 (leNat bs) → (s1.instCmds p.g n).length < 8 →
  (d1 = d →
    (∀ rw, dOp l = 0x0100 → s1.headCheck l = none → matmulBad (s1.csRd n) l = none →
      rw = (keyed n (matReads (s1.csRd n) (matIn l)), keyed n (matWrites (matIn l))) →
      (s1.instCmds p.g n).any (fun c => regConflict c rw.1 rw.2) = false →
      exec (.matmul n) ⟨q, d⟩ = .next ⟨q, (s1.coachEntry p n l rw).1⟩ ∧ (s1.coachEntry p n l rw).2 = s1.nextGen)
    ∧ (∀ rw, dOp l = 0x0101 → s1.headCheck l = none → gexpertBad (s1.csRd n) l = none →
      rw = (keyed n (expertReads (s1.csRd n) (expertCmd l)), keyed n (expertScratch (expertCmd l) :: expertWrites (expertCmd l))) →
      (s1.instCmds p.g n).any (fun c => regConflict c rw.1 rw.2) = false →
      exec (.gexpert n) ⟨q, d⟩ = .next ⟨q, (s1.coachEntry p n l rw).1⟩ ∧ (s1.coachEntry p n l rw).2 = s1.nextGen)
    ∧ (∀ rw s2 g s3 o c0 r0 r1, dOp l = 0x0102 → s1.headCheck l = none → compressBad (s1.csRd n) l = none → o = compressSrc l →
      rw = (keyed n [(o.base, opndSpan o false)], keyed n [(lnum l 40 4, compressWorst o.ty o.rows o.kk), (lnum l 48 4, 64)]) →
      (s1.instCmds p.g n).any (fun c => regConflict c rw.1 rw.2) = false → s1.coachEntry p n l rw = (s2, g) →
      s2.coachOf g = some (c0, r0) → s2.coachRead n g r0 (opndRows o false) [] (opndScales o) = (s3, some r1) → ∀ out pruned fell,
      compressArray (s3.csRd n) o (lnum l 16 1) = (out, pruned, fell) →
      exec (.compress n) ⟨q, d⟩ = .next ⟨q, (s3.csWrite n (lnum l 40 4) out).setCoach g fun _ =>
        { r1 with done := true, pruned := pruned, fell := fell }⟩)
    ∧ (∀ rw s2 g s3, dOp l = 0x0103 → s1.headCheck l = none → vectorBad (s1.csRd n) l = none →
      rw = (keyed n (vecReads (vecIn l)), keyed n (vecWrites (vecIn l))) →
      (s1.instCmds p.g n).any (fun c => regConflict c rw.1 rw.2) = false → s1.coachEntry p n l rw = (s2, g) →
      ∀ c0 r0 r1 es scs fl, s2.coachOf g = some (c0, r0) →
      s2.coachRead n g r0 (opndRows (flatRun (vecIn l).ity (vecIn l).a (vecIn l).cnt) false ++ (vecReads (vecIn l)).drop 1) []
        (opndScales (flatRun (vecIn l).ity (vecIn l).a (vecIn l).cnt)) = (s3, some r1) →
      vecOut (s3.csRd n) l (s3.srWord r1.team (vecIn l).key 2) = (es, scs, fl) →
      exec (.vector n) ⟨q, d⟩ = .next ⟨q, Dev.setCoach (((s3.csWrite n (vecIn l).o (packCodes (dtypeBits (vecIn l).oty)
          (rowBytes (vecIn l).oty (vecIn l).outCnt) es))).each (if scs = [] then [] else [scs]) fun s x =>
            s.csWrite n ((vecIn l).o + (flatRun (vecIn l).oty (vecIn l).o (vecIn l).outCnt).stride) (x.map (BitVec.ofNat 8))) g
          fun _ => { r1 with done := true, flags := r1.flags.add fl }⟩)
    ∧ (∀ r, s1.headCheck l = none →
      (dOp l = 0x0100 → matmulBad (s1.csRd n) l = some r → exec (.matmul n) ⟨q, d⟩ = .next ⟨q, s1.seqRefuse p l r⟩)
      ∧ (dOp l = 0x0101 → gexpertBad (s1.csRd n) l = some r → exec (.gexpert n) ⟨q, d⟩ = .next ⟨q, s1.seqRefuse p l r⟩)
      ∧ (dOp l = 0x0102 → compressBad (s1.csRd n) l = some r → exec (.compress n) ⟨q, d⟩ = .next ⟨q, s1.seqRefuse p l r⟩)
      ∧ (dOp l = 0x0103 → vectorBad (s1.csRd n) l = some r → exec (.vector n) ⟨q, d⟩ = .next ⟨q, s1.seqRefuse p l r⟩)))
  ∧ (∀ c rw s2 g s3 p0, dOp l = 0x0104 → s1.headCheck l = none → copyBad (s1.csRd n) l = none → c = copyIn l →
      d.seqAt n = some p0 → bs = d.rdJob p0.addr 64 →
      ((c.sloc = true ∧ c.dloc = true ∧ d1 = d) ∨ (c.sloc = false ∧ d.snoopGate false (spanLine c.src c.srcSpan) = (d1, true))
        ∨ (c.sloc = true ∧ c.dloc = false ∧ d.snoopGate true (spanLine c.dst c.dstSpan) = (d1, true))) →
      rw = ([(if c.sloc then csKey n c.src else jobKey c.src, c.srcSpan)],
        [(if c.dloc then csKey n c.dst else jobKey c.dst, c.dstSpan)]) →
      (s1.instCmds p.g n).any (fun c => regConflict c rw.1 rw.2) = false → s1.coachEntry p n l rw = (s2, g) →
      copyRows n g c (List.range c.rows) s2 = (s3, true) →
      exec (.copy n) ⟨q, d⟩ = .next ⟨q, s3.setCoach g fun r => { r with done := true }⟩)

/-- R131 to R134, R169 to R176, R198. -/
def Obligations.PassesAndVerdicts : Prop := ∀ (q : List Instr) (d : Dev) (n : Nat), d.alive = true → d.calm = true →
  (∀ c r fs d0 r0 s1 r1, d.readyPass n = some (c, r) → (d.cState n = csRUN ∨ d.cState n = csFILL) →
    ((r.accs ≠ [] ∧ d0 = d ∧ r0 = r) ∨ (r.accs = [] ∧ Dev.tileNext n c (d.tileCount n c.desc + 1) d r = (d0, some r0))) →
    r0.done = false → d0.tilePass n c r0 fs = (s1, some r1) →
    (r1.kp < s1.tileLen n c r1 →
      exec (.arrayPassStart ⟨n, fs⟩) ⟨q, d⟩ = .next ⟨q, (s1.setCoach c.gen fun _ => r1).passGap n⟩)
    ∧ (∀ s2 r2 s3 r3, s1.tileLen n c r1 ≤ r1.kp → s1.tileFinish n c r1 = (s2, r2) →
      Dev.tileNext n c (s2.tileCount n c.desc + 1) s2 r2 = (s3, some r3) →
      exec (.arrayPassStart ⟨n, fs⟩) ⟨q, d⟩ = .next ⟨q, (s3.setCoach c.gen fun _ => r3).passGap n⟩))
  ∧ (∀ c r fs d0 r0, d.readyPass n = some (c, r) → (d.cState n = csRUN ∨ d.cState n = csFILL) → r.accs = [] →
    Dev.tileNext n c (d.tileCount n c.desc + 1) d r = (d0, some r0) → r0.done = true →
    exec (.arrayPassStart ⟨n, fs⟩) ⟨q, d⟩ = .next ⟨q, (d0.setCoach c.gen fun _ => r0).passGap n⟩)
  ∧ (∀ p arrs s1, d.passDue n = some p → arrs = bitsSet 4 p.mask →
      s1 = (((d.setCch fun c => { c with out := dropPass n c.out }).bump Reg.CCH_CNT_PASS arrs.length).each
        (arrs.filter fun a => !p.bad.any fun b => b.1 == a) fun s a => s.arrClean n a) →
      (p.bad = [] → exec (.residueVerdict n none) ⟨q, d⟩ = .next ⟨q, s1.passGap n⟩)
      ∧ ∀ s2 s3 win c r s4 k s5 s6, p.bad ≠ [] →
        s2 = (s1.each p.bad fun s b =>
          (s.record clsARITH 0x001 (n + b.1 * 256 + b.2.toNat * 4096) p.gen blkCCH n).bump Reg.CCH_CNT_RESIDUE 1) →
        (p.bad.map (·.1)).foldl (Dev.arrNote n) (s2, []) = (s3, win) →
        s3.coachOf p.gen = some (c, r) → s3.missCount r = (s4, k) →
        s5 = (s4.setCoach p.gen fun r => { r with counted := true }) →
        s6 = (if s5.fld Reg.CCH_RESWIN 24 4 ≤ k then (s5.record clsARITH 0x007 p.gen p.gen blkCCH r.coach).instKill p.gen r 2 false
          else s5.instKill p.gen r 2 true) →
        exec (.residueVerdict n none) ⟨q, d⟩ = .next ⟨q, (s6.each win fun s a => s.resFence n a).passGap n⟩)
  ∧ (∀ p fs bad s1 s2 s3 win, d.cch.out.find? (fun p => p.coach == n) = some p → p.fill = true →
      bad = (List.range 4).filter (fun a => fs.any fun f => f.array == a && faultFound f.at_) →
      s1 = ((d.bump Reg.CCH_CNT_FILL 4).each ((List.range 4).filter fun a => !bad.contains a) fun s a => s.arrClean n a) →
      s2 = (s1.each bad fun s a => (s.record clsARITH 0x003 (n + a * 256) 0 blkCCH n).bump Reg.CCH_CNT_FILLRES 1) →
      bad.foldl (Dev.arrNote n) (s2, []) = (s3, win) →
      exec (.residueVerdict n (some fs)) ⟨q, d⟩ = .next ⟨q, s3.each win fun s a => s.resFence n a⟩)

/-- R177 to R180, R519. -/
def Obligations.IdleFill : Prop := ∀ (q : List Instr) (d : Dev) (n : Nat), d.alive = true →
  (d.coachOn n = true → d.cState n = csRUN → d.readyPass n = none → d.flag Reg.CCH_IDLEFILL 0 = true →
      d.fld Reg.CCH_IDLEFILL 4 12 ≠ 0 →
      ∃ t, exec (.idleFillStart n) ⟨q, d⟩ = .next ⟨q, t⟩ ∧ t.cState n = csFILL ∧ t.flag Reg.CCH_FILLMAP n = true
        ∧ t.flag Reg.CCH_BUSY n = false ∧ t.cch.gaps = d.cch.gaps ++ [(n, d.reg Reg.CCH_IDLEFILL, false)]
        ∧ d.RegsBut t [Reg.CCH_FILLMAP, Reg.CCH_BUSY, Reg.CCH_CSTAT n]
        ∧ t.fld (Reg.CCH_CSTAT n) 4 4 = (if d.duty = 8 then 15 else 0)
        ∧ (d.duty = 8 → (∀ p, (d.cch.out.filter fun p => p.coach == n).getLast? = some p → p.fill = false) →
            t.cch.out = d.cch.out ++ [⟨n, true, 0, 0, []⟩])
        ∧ (d.duty ≠ 8 → t.cch.out = d.cch.out)
        ∧ t = { d with regs := t.regs, cch := { d.cch with gaps := t.cch.gaps, out := t.cch.out } })
  ∧ (∀ v, d.cch.gaps.find? (fun x => x.1 == n && !x.2.2) = some (n, v, false) → d.readyPass n = none → n < 64 →
      (bits v 16 8 = 0 → ∃ t, exec (.fillRampDown n) ⟨q, d⟩ = .next ⟨q, t⟩ ∧ t.cState n = csCGATED
        ∧ t.flag Reg.CCH_FILLMAP n = false ∧ t.cch.gaps = d.cch.gaps.filter (fun x => x.1 != n)
        ∧ d.RegsBut t [Reg.CCH_FILLMAP, Reg.CCH_CSTAT n])
      ∧ (bits v 16 8 ≠ 0 → exec (.fillRampDown n) ⟨q, d⟩ = .next ⟨q, { d with cch := { d.cch with
          gaps := updFirst (fun x => x.1 == n) (fun x => (x.1, x.2.1, true)) d.cch.gaps } }⟩))
  ∧ ((d.cch.gaps.any fun x => x.1 == n && x.2.2) = true → d.readyPass n = none → n < 64 →
      ∃ t, exec (.fillRampEnd n) ⟨q, d⟩ = .next ⟨q, t⟩ ∧ t.cState n = csCGATED ∧ t.flag Reg.CCH_FILLMAP n = false
        ∧ t.cch.gaps = d.cch.gaps.filter (fun x => x.1 != n) ∧ d.RegsBut t [Reg.CCH_FILLMAP, Reg.CCH_CSTAT n])
  ∧ (∀ v : Word32, exec (.cchIdlefillWrite v) ⟨q, d⟩ = .next ⟨q, d.setReg Reg.CCH_IDLEFILL (v.toNat &&& 0x00FFFFF7)⟩)

/-- R226 to R228, R244, R245, R259, R261, R264. -/
def Obligations.TileProgramsRun : Prop := ∀ (q : List Instr) (d : Dev), d.alive = true → d.calm = true →
  (∀ src l, dOp l = 0x0105 → d.teams < 16 → d.headCheck l = none →
    (d.runprogBad l = none → ∃ t c run, exec (.runprog src l) ⟨q, d⟩ = .next ⟨q, t⟩ ∧ t.cmds = d.cmds ++ [c] ∧ c.gen = d.nextGen
        ∧ c.desc = l ∧ c.src = src ∧ c.body = .prog run ∧ c.reads = [(jobKey (lnum l 16 8), 64 * lnum l 40 4)]
        ∧ c.writes = [(jobKey (lnum l 32 8), 64)] ∧ run.step = d.reg Reg.CCH_STEP
        ∧ run.team = bitsSet 64 (lnum l 24 8 &&& d.reg Reg.SIZ_COACHMAP)
        ∧ run.insts = run.team.map (fun n => ⟨n, .queued, 0, none, .entry, 0⟩) ∧ t.genNext = d.nextGen + 1 ∧ t.regs = d.regs)
    ∧ (∀ n, d.runprogBad l = some n → exec (.runprog src l) ⟨q, d⟩ = .next ⟨q, d.refuse src l ⟨clsJOB, 0x046, n⟩⟩))
  ∧ (∀ n g r, d.instOn n = none → d.coachOn n = true → d.jobState = jRUNNING →
      d.cmds.findSome? (fun c => match c.body with
        | .prog r => if r.insts.any fun i => i.coach == n && i.phase == .queued then some c.gen else none
        | _ => none) = some g → d.team g = some r →
      ∃ t, exec (.instStart n) ⟨q, d⟩ = .next ⟨q, t⟩ ∧ t.team g = some { r with
        insts := updFirst (fun i => i.coach == n) (fun i => { i with phase := .run }) r.insts } ∧ t.regs = d.regs ∧ t.mem = d.mem)
  ∧ (∀ n g r i, d.instOn n = some (g, r, i) → r.stopped = none → i.doing = .entry → i.work = none → r.len ≤ i.pc →
      d.instCmds g n = [] → d.instDying g n = [] →
      exec (.progEnd n) ⟨q, d⟩ = .next ⟨q, (d.setInst g n fun i => { i with phase := .ended, ctl := 0 }).teamFinish g⟩)
  ∧ (∀ n p s1 bs l s2 c g r i, d.seqAt n = some p → d.instOn n = some (g, r, i) → i.pc < r.len → d.cmdRead p.g p.addr 64 = (s1, some bs) →
      l = BitVec.ofNat 512 (leNat bs) → dOp l = 5 → p.table = false → s1.instCmds p.g n = [] → s1.headCheck l = none →
      ctlBad l 5 = none → s1.ctlEntry p n l = (s2, c) →
      exec (.progEnd n) ⟨q, d⟩
        = .next ⟨q, ((s2.ctlCommit p.g n c).setInst p.g n fun i => { i with phase := .ended, ctl := 0 }).teamFinish p.g⟩)
  ∧ (∀ (v : Word64) (w : Word32),
    (d.teams = 0 → exec (.cchStepWrite v) ⟨q, d⟩ = .next ⟨q, d.setReg Reg.CCH_STEP v.toNat⟩
      ∧ exec (.cchSeedWrite w) ⟨q, d⟩ = .next ⟨q, d.setReg Reg.CCH_SEED w.toNat⟩)
    ∧ (d.teams ≠ 0 → ∀ i ∈ [Instr.cchStepWrite v, .cchSeedWrite w],
      exec i ⟨q, d⟩ = .next ⟨q, d.record clsHOST 0x007 d.teams 0 blkCCH 0⟩))

/-- R30, R227, R231 to R236. -/
def Obligations.ControlOperations : Prop := ∀ (q : List Instr) (d : Dev) (n : Nat), d.alive = true → d.calm = true →
  (∀ p s1 bs l, d.seqAt n = some p → d.cmdRead p.g p.addr 64 = (s1, some bs) → l = BitVec.ofNat 512 (leNat bs) → p.table = false →
      (s1.instCmds p.g n).filter (fun c => c.gen != p.inst.ctl) = [] → s1.headCheck l = none →
    (∀ s2 g, s1.ctlEntry p n l = (s2, g) →
      (dOp l = 1 → ctlBad l 1 = none → exec (.wait n) ⟨q, d⟩
          = .next ⟨q, s2.setInst p.g n fun i => { i with doing := .waiting (lnum l 16 8) (lnum l 24 8) }⟩)
      ∧ (dOp l = 2 → ctlBad l 2 = none → lfield l 32 0 1 = 1 → exec (.signal n) ⟨q, d⟩
          = .next ⟨q, s2.setInst p.g n fun i => { i with doing := .signal (lnum l 16 8) (lnum l 24 8) }⟩)
      ∧ (dOp l = 2 → ctlBad l 2 = none → lfield l 32 0 1 = 0 → s2.ctrBad (lnum l 16 8) = none → exec (.signal n) ⟨q, d⟩
          = .next ⟨q, (s2.ctrAdd (lnum l 16 8) (lnum l 24 8)).ctlCommit p.g n g⟩)
      ∧ (dOp l = 3 → ctlBad l 3 = none → d.takeAgain n 3 = none → exec (.take n) ⟨q, d⟩
          = .next ⟨q, s2.takeSend p.g n (lnum l 16 8) n []⟩)
      ∧ (dOp l = 4 → ctlBad l 4 = none → d.takeAgain n 4 = none → ∀ r, s2.team p.g = some r → exec (.takeq n) ⟨q, d⟩
          = .next ⟨q, s2.takeSend p.g n (lnum l 16 8 + n * lnum l 24 4) n
              (if lfield l 42 0 1 = 1 then stealOrder r.team n else [])⟩))
    ∧ ∀ b, (dOp l = 1 → ctlBad l 1 = some b → exec (.wait n) ⟨q, d⟩ = .next ⟨q, s1.seqRefuse p l ⟨clsJOB, 0x041, b⟩⟩)
      ∧ (dOp l = 2 → ctlBad l 2 = some b → exec (.signal n) ⟨q, d⟩ = .next ⟨q, s1.seqRefuse p l ⟨clsJOB, 0x041, b⟩⟩))
  ∧ (∀ g i w l, d.takeAgain n 3 = some (g, i, w, l) → exec (.take n) ⟨q, d⟩
      = .next ⟨q, ((d.workDone n w).setInst g n fun i => { i with work := none }).takeSend g n (lnum l 16 8) n []⟩)
  ∧ (∀ g r i, d.instOn n = some (g, r, i) →
    (∀ a v s1 bs, i.doing = .waiting a v → d.cmdRead i.ctl a 8 = (s1, some bs) →
      (v ≤ leNat bs → exec (.waitSatisfied n) ⟨q, d⟩ = .next ⟨q, s1.ctlCommit g n i.ctl⟩)
      ∧ (leNat bs < v → exec (.waitSatisfied n) ⟨q, d⟩ = .next ⟨q, s1⟩))
    ∧ (∀ t, i.doing = .taking t →
      (t.tries + 1 < 8 → exec (.takeTimeout n) ⟨q, d⟩
        = .next ⟨q, (d.setInst g n fun i => { i with doing := .taking { t with tries := t.tries + 1 } }).setTeam g fun r =>
            { r with retries := r.retries + 1 }⟩)
      ∧ (8 ≤ t.tries + 1 → exec (.takeTimeout n) ⟨q, d⟩
        = .next ⟨q, d.teamStop g n (r.entryAddr { i with work := none }) 2 (some (0x045, t.wrec))⟩)
      ∧ (∀ c s1 bs s2 how, d.cmd i.ctl = some c → inCH t.wrec 576 = true → d.cmdRead i.ctl t.wrec 576 = (s1, some bs) →
          recBad (dOp c.desc == 4) t.wrec bs = false →
          inCH t.wrec (recLen (dOp c.desc == 4) (leNat ((bs.drop 16).take 1))) = true →
          ∀ s3 b, ((if (dOp c.desc == 4) = true then s1.takeItem t.wrec n t.seq else none).elim (s1, some []) fun a =>
            s1.cmdRead i.ctl a 8) = (s3, some b) →
          (∀ x, s3.bankTake (dOp c.desc == 4) t.wrec n t.seq = (s2, some x, how) → how ≠ 0 → exec (.takeAnswer n false) ⟨q, d⟩
            = .next ⟨q, (s2.setTeam g fun r => { r with
                takes := r.takes + 1
                retaken := r.retaken + (how == 2).toNat
                steals := r.steals + (dOp c.desc == 4 && t.owner != n).toNat }).setInst g n fun i => { i with
                  doing := .entry
                  work := some ⟨t.wrec, x, 0, lnum c.desc 32 8, lnum c.desc 40 2⟩ }⟩)
          ∧ (t.left = [] → s3.bankTake (dOp c.desc == 4) t.wrec n t.seq = (s2, none, how) → exec (.takeAnswer n false) ⟨q, d⟩
            = .next ⟨q, s2.ctlCommit g n i.ctl⟩))))
  ∧ (∀ g r i a v, d.team g = some r → r.stopped = none → r.insts = [i] → i.phase = .run → i.doing = .signal a v →
      d.ctrBad a = none → exec (.signalTeamFire g) ⟨q, d⟩ = .next ⟨q, (d.ctlCommit g i.coach i.ctl).ctrAdd a v⟩)

/-- R237, R238, R243, R318, R415, R430, R437. -/
def Obligations.CommitAndKill : Prop := ∀ (q : List Instr) (d : Dev) (g : Nat), d.alive = true → d.calm = true →
  (∀ c, d.cmd g = some c →
    (∀ r, c.body = .coll r → exec (.commandCommit g) ⟨q, d⟩ = .next ⟨q, d.collProgress g⟩)
    ∧ (∀ r, c.body = .exch r → exec (.commandCommit g) ⟨q, d⟩ = .next ⟨q, d.exchProgress g⟩)
    ∧ (∀ r, c.body = .route r → exec (.commandCommit g) ⟨q, d⟩ = .next ⟨q, d.combineProgress g⟩)
    ∧ (∀ s1 r k, c.body = .coach r → r.done = true → r.ctl = false → d.verdictDue g = false → d.outGate c = (s1, true) →
        s1.verdictDue g = false → k = missKey r →
        ((s1.instCmds r.team r.coach).find? fun x => match x.body with | .coach y => !y.ctl | _ => false).map (·.gen) = some g →
        s1.ctrBad (dHand c.desc) = none → r.offs.dup.first = none → r.offs.rng.first = none → r.offs.blk.first = none →
        s1.reportAt r.coach c.desc = none → exec (.commandCommit g) ⟨q, d⟩
          = .next ⟨q, (((((((s1.bump Reg.CCH_CNT_NAN r.flags.nan).bump Reg.CCH_CNT_OVF r.flags.ovf).bump Reg.CCH_CNT_SAT
              r.flags.sat).bump Reg.CCH_CNT_MXNAN r.mxSeen.length).setTeam r.team fun t => { t with
                commits := t.commits + 1
                misses := t.misses.filter fun (y : Nat × Nat × Nat) => !(y.1 == k.1 && y.2.1 == k.2) }).commit
                g 0).instCheck r.team r.coach)⟩)
    ∧ (∀ s1 r, c.body = .mfx r → d.mfxSettled g r = true → d.outGate c = (s1, true) → s1.mfxSettled g r = true →
        s1.ctrBad (dHand c.desc) = none →
        exec (.commandCommit g) ⟨q, d⟩ = .next ⟨q, (s1.wrBytes (chAddr r.rpt) (r.report g)).commit g 0⟩)
    ∧ (∀ s1 s2 r old, c.body = .matomic r → d.outGate c = (s1, true) → r.got = some old → r.wrote = false →
        s1.ctrBad (dHand c.desc) = none → s1.cmdWrite g r.result (leBytes 8 old) = (s2, true) → s2.writeHeld g = false →
        exec (.commandCommit g) ⟨q, d⟩ = .next ⟨q, s2.commit g 0⟩)
    ∧ (∀ r, c.body = .coach r → r.ctl = false →
        exec (.commandKill g .residue) ⟨q, d⟩ = .next ⟨q, d.missKill g⟩
        ∧ exec (.commandKill g .failed) ⟨q, d⟩ = .next ⟨q, d.instKill g r 2 false⟩)
    ∧ (∀ r gr, c.body = .coll r → d.group r.x.gid = some gr →
        exec (.commandKill g .failed) ⟨q, d⟩ = .next ⟨q, (d.groupKill g 2 false).sendAborts gr r.x.stream r.x.xid 7⟩
        ∧ exec (.commandKill g .fabric) ⟨q, d⟩ = .next ⟨q, (d.groupKill g 2 (r.x.stalls == 0)).sendAborts gr r.x.stream r.x.xid 4⟩)
    ∧ (∀ gid, c.body = .gdissolve gid ∨ c.body = .sstop ∨ c.body = .control → d.writeHeld g = false → exec (.commandKill g .aborted) ⟨q, d⟩
        = .next ⟨q, { d with cmds := d.cmds.filter fun x => x.gen != g, dying := d.dying ++ [⟨c, 3, false⟩] }⟩))
  ∧ (∀ x, d.dying.find? (fun x => x.cmd.gen == g) = some x →
      (∃ gid, x.cmd.body = .gdissolve gid) ∨ x.cmd.body = .sstop ∨ x.cmd.body = .control ∨ (∃ r, x.cmd.body = .mfx r)
        ∨ (∃ r, x.cmd.body = .move r) ∨ (∃ r, x.cmd.body = .coll r ∧ x.rerun = false) →
      exec (.killComplete g) ⟨q, d⟩ = .next ⟨q, Dev.complete (Dev.livKill { d with
        dying := d.dying.filter fun y => y.cmd.gen != g
        cch := { d.cch with out := d.cch.out.filter fun p => p.fill || p.gen != g }
        tiers := { d.tiers with moves := d.tiers.moves.map fun m => { m with held := m.held.filter fun h => h.1 != g } } } g)
          x.cmd x.status 0⟩)

/-- R237, R238, R202, R430: HAND and the report of a command are written by its commit, and nothing else is. -/
def Obligations.CommitIncrementsHand : Prop := ∀ (q : List Instr) (d : Dev) (g : Nat) (c : Cmd) (rep : Option (Nat × List Byte)),
    d.alive = true → d.canonical = true → d.calm = true → d.cmd g = some c → CommitReport d g c rep → d.writeHeld g = false →
    ctrOk (dHand c.desc) = true → (dHand c.desc ≠ 0 → d.lineOf (chAddr (dHand c.desc)) = .good) →
  ∃ t, exec (.commandCommit g) ⟨q, d⟩ = .next ⟨q, t⟩ ∧ t.cmd g = none
    ∧ (∀ k, (∀ x, rep = some x → ¬ (x.1 ≤ k ∧ k < x.1 + x.2.length)) →
        (dHand c.desc ≠ 0 → ¬ (chAddr (dHand c.desc) ≤ k ∧ k < chAddr (dHand c.desc) + 8)) → t.rd k = d.rd k)
    ∧ ((∀ x, rep = some x → dHand c.desc ≠ 0 →
          x.1 + x.2.length ≤ chAddr (dHand c.desc) ∨ chAddr (dHand c.desc) + 8 ≤ x.1) →
        (∀ x, rep = some x → t.rdBytes x.1 x.2.length = x.2)
        ∧ (dHand c.desc ≠ 0 → t.ctr (dHand c.desc) = (d.ctr (dHand c.desc) + 1) % 2 ^ 64))

/-- R449 to R452, R454 to R456. -/
def Obligations.DoorbellsAndRings : Prop := ∀ (q : List Instr) (d : Dev) (r : Nat), d.alive = true → r < 256 →
  (d.flag Reg.HST_STAT 0 = true →
    (d.flag (Reg.HST_RCFG r) 0 = true → ∀ v, v < 2 ^ 16 →
      (v < d.sqSize r → exec (.doorbellSqtail r v) ⟨q, d⟩ = .next ⟨q, d.setReg (dbSqTail r) v⟩)
      ∧ (d.sqSize r ≤ v → exec (.doorbellSqtail r v) ⟨q, d⟩
          = .next ⟨q, (d.bump Reg.HST_CNT_DBBAD 1).record clsHOST 0x010 (r + v * 2 ^ 16) 0 blkHST r⟩)
      ∧ (v < d.cqSize r → (v + d.cqSize r - d.reg (dbCqHead r)) % d.cqSize r
            ≤ (d.fld (Reg.HST_RHEAD r) 16 16 + d.cqSize r - d.reg (dbCqHead r)) % d.cqSize r →
          exec (.doorbellCqhead r v) ⟨q, d⟩
            = .next ⟨q, ((d.setReg (dbCqHead r) v).drainRecs r ((d.ring r).held.length)).ringSettle r⟩)
      ∧ (d.cqSize r ≤ v → exec (.doorbellCqhead r v) ⟨q, d⟩
          = .next ⟨q, (d.bump Reg.HST_CNT_DBBAD 1).record clsHOST 0x010 (r + v * 2 ^ 16) 0 blkHST r⟩))
    ∧ (d.flag (Reg.HST_RCFG r) 0 = false → ∀ v, ∀ i ∈ [Instr.doorbellSqtail r v, .doorbellCqhead r v],
        exec i ⟨q, d⟩ = .next ⟨q, (d.bump Reg.HST_CNT_DBBAD 1).record clsHOST 0x014 r 0 blkHST r⟩))
  ∧ (∀ v : Word32, bit v.toNat 0 = true → d.rState r = rsIDLE → d.flag (Reg.HST_RCFG r) 0 = false → d.flag Reg.HST_STAT 2 = true →
      regReserved d.express (Reg.HST_RCFG r) (mergeWrite ⟨0, [], 32, 0x1F1F03, 0, 0, 0, 0⟩ .host (d.reg (Reg.HST_RCFG r)) v.toNat) = false →
      ∃ t, exec (.ringEnable r v) ⟨q, d⟩ = .next ⟨q, t⟩ ∧ t.rState r = rsRUN ∧ t.flag (Reg.HST_RCFG r) 0 = true
        ∧ t.fld (Reg.HST_RCFG r) 8 5 = bits v.toNat 8 5 ∧ t.fld (Reg.HST_RCFG r) 16 5 = bits v.toNat 16 5
        ∧ t.reg (Reg.HST_RHEAD r) = 0 ∧ t.reg (dbSqTail r) = 0 ∧ t.reg (dbCqHead r) = 0 ∧ t.ring r = ⟨[], [], true, 0⟩
        ∧ d.RegsBut t [Reg.HST_RCFG r, Reg.HST_RSTAT r, Reg.HST_RHEAD r, dbSqTail r, dbCqHead r])
  ∧ (∀ v : Word32, bit v.toNat 0 = false → d.flag (Reg.HST_RCFG r) 0 = true → bits v.toNat 8 5 = d.fld (Reg.HST_RCFG r) 8 5 →
      bits v.toNat 16 5 = d.fld (Reg.HST_RCFG r) 16 5 →
      regReserved d.express (Reg.HST_RCFG r) (mergeWrite ⟨0, [], 32, 0x1F1F03, 0, 0, 0, 0⟩ .host (d.reg (Reg.HST_RCFG r)) v.toNat) = false →
      ∃ t, exec (.ringDisable r v) ⟨q, d⟩ = .next ⟨q, t⟩ ∧ t.flag (Reg.HST_RCFG r) 0 = false
        ∧ t.rState r = (if (d.ring r).inflight = 0 ∧ (d.ring r).held = [] ∧ (d.ring r).fetched = [] then rsIDLE else rsDRAIN)
        ∧ d.OnlyRegs t [Reg.HST_RCFG r, Reg.HST_RSTAT r])
  ∧ (∀ v : Word64, ∀ b ∈ [Reg.HST_SQBASE r, Reg.HST_CQBASE r],
      (d.rState r = rsIDLE → ∃ t, exec (.ringConfigWrite b v) ⟨q, d⟩ = .next ⟨q, t⟩ ∧ d.OnlyRegs t [b]
        ∧ t.reg b / 4096 = v.toNat / 4096)
      ∧ (d.rState r ≠ rsIDLE → exec (.ringConfigWrite b v) ⟨q, d⟩
          = .next ⟨q, d.record clsHOST 0x012 (b % 0x100000) 0 blkHST r⟩))
  ∧ (∀ v : Word64, d.rState r ≠ rsIDLE →
      (bits v.toNat 8 5 ≠ d.fld (Reg.HST_RCFG r) 8 5 ∨ bits v.toNat 16 5 ≠ d.fld (Reg.HST_RCFG r) 16 5) →
      exec (.ringConfigWrite (Reg.HST_RCFG r) v) ⟨q, d⟩
        = .next ⟨q, d.record clsHOST 0x012 (Reg.HST_RCFG r % 0x100000) 0 blkHST r⟩)
  ∧ (∀ ds s0, d.ringTurn < 256 → d.mayFetch r = true → d.sqLeft r ≠ 0 → s0 = { d with ringTurn := (r + 1) % 256 } →
      (∀ i, i < (r + 256 - d.ringTurn) % 256 → d.mayFetch ((d.ringTurn + i) % 256) = false ∨ d.sqLeft ((d.ringTurn + i) % 256) = 0) →
      (∀ s1, s1 = Dev.ringBurst r ds (min (d.sqLeft r) (d.fld Reg.HST_CFG 0 4)) s0 →
        exec (.ringFetch r ds) ⟨q, d⟩ = .next ⟨q, (Dev.ringArm r ((s1.ring r).fetched.length) s1).ringSettle r⟩)
      ∧ (ds = [none] → 0 < d.fld Reg.HST_CFG 0 4 → (d.ring r).fetched = [] →
          ∃ t, exec (.ringFetch r ds) ⟨q, d⟩ = .next ⟨q, t⟩ ∧ t.rState r = rsSTOPPED ∧ t.ringTurn = (r + 1) % 256
            ∧ t.reg (Reg.HST_RHEAD r) = d.reg (Reg.HST_RHEAD r)
            ∧ d.Recorded t clsHOST 0x013 (bits (d.reg (Reg.HST_SQBASE r) + 64 * d.fld (Reg.HST_RHEAD r) 0 16) 6 32) 0 blkHST r))
  ∧ (∀ ds, d.ringDue ≠ some r →
      exec (.ringFetch r ds) ⟨q, d⟩ = .next ⟨q, (Dev.ringArm r ((d.ring r).fetched.length) d).ringSettle r⟩)

/-- R440, R441, R444 to R446, R457, R531, R532. -/
def Obligations.HostMemoryAndLink : Prop := ∀ (q : List Instr) (d : Dev),
  (d.alive = true →
    (d.hdmOpen = false → ∀ b, exec (.hdmDecoderCommit b) ⟨q, d⟩ = .next ⟨q, d⟩)
    ∧ (d.hdmOpen = true → ∀ b : Word64, ∃ t, exec (.hdmDecoderCommit b) ⟨q, d⟩ = .next ⟨q, t⟩ ∧ t.flag Reg.HST_STAT 1 = true
        ∧ t.reg Reg.HST_HDMBASE = b.toNat / 2 ^ 28 * 2 ^ 28 ∧ d.OnlyRegs t [Reg.HST_HDMBASE, Reg.HST_STAT])
    ∧ (∀ hpa own a k, d.noLent = true → d.hdmLine hpa = some a → d.xlate a false = .key k → d.lineOf k = .good →
        exec (.hostHdmRead hpa own) ⟨q, d⟩
          = .next ⟨q, ((d.touch a 64).filterAdd (a / 64) own).readDone.emit
              (.hdm hpa ((d.touch a 64).heldBytes (jobKey a) ((d.touch a 64).rdJob a 64)) false)⟩
        ∧ ∀ i, i < ((d.touch a 64).rdJob a 64).length → (d.touch a 64).heldRegion (jobKey a + i) = false →
            ((d.touch a 64).heldBytes (jobKey a) ((d.touch a 64).rdJob a 64))[i]? = ((d.touch a 64).rdJob a 64)[i]?)
    ∧ (∀ hpa own a c, d.noLent = true → d.hdmLine hpa = some a → d.xlate a false = .bad c →
        exec (.hostHdmRead hpa own) ⟨q, d⟩ = .next ⟨q, (d.hostFault a).emit (.hdm hpa [] true)⟩)
    ∧ (∀ hpa data a k, d.noLent = true → Sparse.get (fun _ => 0) d.tiers.laid (a / 64) = 0 → d.hdmLine hpa = some a → d.xlate a true = .key k →
        exec (.hostHdmWrite hpa data) ⟨q, d⟩ = .next ⟨q, (d.jobWrite hostWr a (data.take 64)).setTiers fun t => { t with
          filter := t.filter.map fun x => if x.1 = a / 64 then (x.1, false) else x }⟩)
    ∧ (∀ hpa data a c, d.noLent = true → d.hdmLine hpa = some a → d.xlate a true = .bad c →
        exec (.hostHdmWrite hpa data) ⟨q, d⟩ = .next ⟨q, d.hostFault a⟩)
    ∧ (∀ hpa, exec (.h2dSnoop hpa) ⟨q, d⟩ = .next ⟨q, d.emit (.rspIHitI hpa)⟩)
    ∧ (∀ (line : Nat) (data : Option Line) (s0 s1 : Dev), line ∈ d.tiers.snoops →
        s0 = (match data with
          | none => d
          | some (l : Line) => if (d.spanFault (line * 64) 64 true).isSome then d else d.hostLine line (leBytes 64 l.toNat)) →
        s1 = (s0.setTiers fun t => { t with
          snoops := t.snoops.filter (· != line), filter := t.filter.filter fun x => x.1 != line
          laid := Sparse.put (fun _ => 0) t.laid line 0 }).armRings.mfxGoAll → s1.tiers.stalls = d.tiers.stalls →
        exec (.bisnpResponse line data) ⟨q, d⟩ = .next ⟨q, s1.unitEnd⟩)
    ∧ (∀ line data, line ∉ d.tiers.snoops → d.noLent = true → exec (.bisnpResponse line data) ⟨q, d⟩ = .next ⟨q, d⟩)
    ∧ (∀ line (l : Line), d.noLent = true → Sparse.get (fun _ => 0) d.tiers.laid line = 0 →
        d.hostLine line (leBytes 64 l.toNat) = d.jobWrite hostWr (line * 64) (leBytes 64 l.toNat)))
  ∧ exec .upstreamLinkDown ⟨q, d⟩ = .next ⟨q, d.setFld Reg.HST_STAT 8 8 0⟩
  ∧ (d.grd.stage = .run → d.fld Reg.GRD_BOOTSTAT 0 4 ≠ 8 →
    (∀ sp w, 1 ≤ sp → sp ≤ 3 → w ∈ [4, 8, 16] → exec (.upstreamLinkUp sp w) ⟨q, d⟩
        = .next ⟨q, ((d.setFld Reg.HST_STAT 8 3 sp).setFld Reg.HST_STAT 11 5 w).each (d.rings.map (·.1)) fun s r =>
            (s.drainRecs r ((s.ring r).held.length)).ringSettle r⟩)
    ∧ (d.configOpen = false → ∀ c, exec (.configRequest c) ⟨q, d⟩ = .next ⟨q, d.emit (.config true)⟩)
    ∧ (d.configOpen = true → exec (.configRequest .plain) ⟨q, d⟩ = .next ⟨q, d.emit (.config false)⟩
        ∧ exec (.configRequest .interruptPin) ⟨q, d⟩ = .next ⟨q, (d.emit (.config false)).emit (.cfgValue 0)⟩
        ∧ exec (.configRequest (.findCap 0x05)) ⟨q, d⟩ = .next ⟨q, (d.emit (.config false)).emit (.cfgCap 0x05 false)⟩
        ∧ exec (.configRequest (.findCap 0x11)) ⟨q, d⟩ = .next ⟨q, (d.emit (.config false)).emit (.cfgCap 0x11 false)⟩
        ∧ exec (.configRequest .tableAccess) ⟨q, d⟩ = .next ⟨q, (d.emit (.config false)).emit (.cdat 0 (2 ^ 43 + 2 ^ 30))⟩
        ∧ ∀ on, exec (.configRequest (.cacheEnable on)) ⟨q, d⟩ = .next ⟨q, if d.fld Reg.GRD_BOOTSTAT 0 4 = 5
            then (d.emit (.config false)).setFlag Reg.HST_STAT 2 on else d.emit (.config false)⟩))

/-- R279, R447, R448, R501. -/
def Obligations.DownstreamPorts : Prop := ∀ (q : List Instr) (d : Dev) (p : Nat), d.alive = true → p < 2 →
  (d.flag Reg.GRD_BOOTSTAT 10 = false → d.flag (Reg.HST_DSCTL p) 0 = false →
    (d.portOn p = true → ∀ s1, s1 = (d.setReg (Reg.HST_DSCTL p) 1).setTiers (fun t => { t with listed := t.listed.filter (· != p) }) →
      exec (.dsPortEnable p) ⟨q, d⟩ = .next ⟨q, if d.grd.hbm then s1.dsRelease p else s1⟩)
    ∧ (d.portOn p = false → ∃ t, exec (.dsPortEnable p) ⟨q, d⟩ = .next ⟨q, t⟩ ∧ t.portOn p = true
        ∧ t.reg (Reg.HST_DSCTL p) = 1 ∧ t.fld Reg.SIZ_TIER 0 2 = (d.fld Reg.SIZ_TIER 0 2 + 1) % 4
        ∧ t.reg Reg.SIZ_GEN = ((d.reg Reg.SIZ_GEN + 1) % 2 ^ 32 + 1) % 2 ^ 32
        ∧ d.RegsBut t [Reg.HST_DSCTL p, Reg.SIZ_TIER, Reg.SIZ_GEN, Reg.PWC_CNT_PGWAKE]))
  ∧ (d.flag (Reg.HST_DSCTL p) 0 = true → d.portOn p = true →
      exec (.dsPortDisableWrite p) ⟨q, d⟩ = .next ⟨q, ((d.portOff p).portDown p 0 0).1⟩
      ∧ (d.grd.hbm = true → d.flag (Reg.HST_DSSTAT p) 0 = false → d.flag Reg.GRD_BOOTSTAT 10 = false →
          ∀ devs, (p ∈ d.tiers.listed → ∀ s1, s1 = d.setFlag (Reg.HST_DSSTAT p) 0 true → exec (.dsPortLinkUp p devs) ⟨q, d⟩
              = .next ⟨q, (if (d.foundAt p).all (fun x => devs.contains x) then s1.portBack p else s1).pump⟩)
          ∧ (p ∉ d.tiers.listed → exec (.dsPortLinkUp p devs) ⟨q, d⟩ = .next ⟨q, d.dsMap p devs⟩)
          ∧ ∀ x s1, devs = [x] → x.used = true → x.bytes / 2 ^ 21 ≤ 2097152 → d.tiers.reqs = [] → d.tiers.opens = [] → d.tiers.waits = [] →
            d.flag Reg.DRY_STAT 0 = false →
            s1 = d.dsMap p devs → s1.flag (Reg.HST_DSSTAT p) 0 = true ∧ s1.fld (Reg.HST_DSSTAT p) 8 5 = 1
              ∧ s1.reg (Reg.HST_DSFRAMES p) = x.bytes / 2 ^ 21))
  ∧ (d.flag (Reg.HST_DSSTAT p) 0 = true → exec (.dsPortLinkDown p) ⟨q, d⟩
      = .next ⟨q, Dev.failLost ((d.setFlag (Reg.HST_DSSTAT p) 0 false).tierLost fun home _ => home == 2 + p)⟩)

/-- R458, R459, R464 to R466, R469 to R472, R567. -/
def Obligations.ServingLoop : Prop := ∀ (q : List Instr) (d : Dev), d.alive = true → d.calm = true →
  (∀ src l, dOp l = 0x0600 → d.headCheck l = none → ¬ (bit (slFlags l) 1 = true ∧ dV l = false) →
    (∀ s1 g, d.sloopBad l = none → d.fld Reg.HST_SESSCFG 0 17 ≠ 0 → d.srv.desc = none → d.arm src l 0 [] [] .control = (s1, g) →
      exec (.sloop src l) ⟨q, d⟩ = .next ⟨q, ((s1.setSrv fun _ => ⟨some l, none, 0, none⟩).setReg Reg.HST_LOOPSTAT
        (1 + 2 * lfield l 16 0 1)).commit g 0⟩)
    ∧ (∀ n, d.sloopBad l = some n → exec (.sloop src l) ⟨q, d⟩ = .next ⟨q, d.refuse src l ⟨clsHOST, 0x020, n⟩⟩)
    ∧ (d.sloopBad l = none → (d.fld Reg.HST_SESSCFG 0 17 = 0 ∨ d.srv.desc ≠ none) → exec (.sloop src l) ⟨q, d⟩ = .next ⟨q, d.refuse src l ⟨clsHOST, 0x020, 0⟩⟩))
  ∧ (∀ src l s1 g, dOp l = 0x0601 → d.headCheck l = none → d.arm src l 0 [] [] .sstop = (s1, g) →
    (d.srv.desc = none → exec (.sstop src l) ⟨q, d⟩ = .next ⟨q, s1.commit g 0⟩)
    ∧ (d.srv.desc ≠ none → d.srv.frame = none → exec (.sstop src l) ⟨q, d⟩ = .next ⟨q, s1.loopEnd⟩)
    ∧ (d.srv.desc ≠ none → d.srv.frame ≠ none → exec (.sstop src l) ⟨q, d⟩
        = .next ⟨q, s1.setSrv fun v => { v with stop := some g }⟩))
  ∧ (∀ v : Word64,
    (d.srv.desc = none → (∃ t, exec (.sessionConfigWrite Reg.HST_SESSBASE v) ⟨q, d⟩ = .next ⟨q, t⟩
          ∧ d.OnlyRegs t [Reg.HST_SESSBASE] ∧ t.reg Reg.HST_SESSBASE / 64 = v.toNat / 64)
        ∧ (bits v.toNat 0 17 ≤ 65536 → ∃ t, exec (.sessionConfigWrite Reg.HST_SESSCFG v) ⟨q, d⟩ = .next ⟨q, t⟩
          ∧ d.OnlyRegs t [Reg.HST_SESSCFG] ∧ t.fld Reg.HST_SESSCFG 0 17 = bits v.toNat 0 17))
    ∧ (d.srv.desc ≠ none → ∀ b ∈ [Reg.HST_SESSBASE, Reg.HST_SESSCFG], exec (.sessionConfigWrite b v) ⟨q, d⟩
        = .next ⟨q, d.record clsHOST 0x012 (b % 0x100000) 0 blkHST 0⟩))
  ∧ (∀ l s bs, d.srv.desc = some l → d.srv.frame = none → d.jobState = jRUNNING → d.loopHeld = false → d.unitRead (slFq l) 16 = (s, some bs) →
    (2 ^ slLog2 l < s.frames l → ∀ i ∈ [Instr.frameQueuePoll, .loopFrameStart],
        exec i ⟨q, d⟩ = .next ⟨q, (s.record clsHOST 0x024 0xFFFFFFFF 0 blkHST 0).loopEnd⟩)
    ∧ (s.frames l ≤ 2 ^ slLog2 l → s.frames l ≠ 0 → ∀ i ∈ [Instr.frameQueuePoll, .loopFrameStart],
        exec i ⟨q, d⟩ = .next ⟨q, s.frameStart l (s.rdNum (chAddr (slFq l + 8)) 8)⟩)
    ∧ (s.frames l = 0 → bit (slFlags l) 0 = true → s.offerWaits (slGroup l) = true → ∀ i ∈ [Instr.frameQueuePoll, .loopEmptyStep],
        exec i ⟨q, d⟩ = .next ⟨q, s.emptyStart l⟩))
  ∧ (∀ l f, d.srv.desc = some l → d.srv.frame = some f → d.jobState = jRUNNING → d.loopHeld = false →
    (f.next < slStepLen l → exec .loopStepComplete ⟨q, d⟩ = .next ⟨q, Dev.stepArm l (slStepLen l) d⟩)
    ∧ (slStepLen l ≤ f.next → f.gens = [] → exec .loopStepComplete ⟨q, d⟩
        = .next ⟨q, if f.empty then d.emptyDone else d.frameDone l f⟩)
    ∧ (slStepLen l ≤ f.next → f.gens ≠ [] → exec .loopStepComplete ⟨q, d⟩ = .next ⟨q, d⟩))
  ∧ (d.loopHeld = true → ∀ i ∈ [Instr.frameQueuePoll, .loopFrameStart, .loopEmptyStep, .loopStepComplete],
      exec i ⟨q, d⟩ = .next ⟨q, d⟩)

/-- R477 to R479, R481 to R488. -/
def Obligations.LaunchOfAJob : Prop := ∀ (q : List Instr) (d : Dev), d.alive = true →
  (∀ src l, dOp l = 0x0700 → d.headCheck l = none →
    (jadmitBad l = none → d.jobState = jIDLE → exec (.jadmit src l) ⟨q, d⟩
        = .next ⟨q, ((d.arm src l 0 [] [] .control).1.setReg Reg.GRD_JOBADMIT (2 ^ 32 + lnum l 16 4)).commit d.nextGen 0⟩)
    ∧ (jadmitBad l = none → d.jobState ≠ jIDLE →
        exec (.jadmit src l) ⟨q, d⟩ = .next ⟨q, d.refuse src l ⟨clsJOB, 0x002, d.jobState⟩⟩)
    ∧ (∀ n, jadmitBad l = some n → exec (.jadmit src l) ⟨q, d⟩ = .next ⟨q, d.refuse src l ⟨clsJOB, 0x003, n⟩⟩))
  ∧ (d.jobState = jIDLE → exec .admitTimeout ⟨q, d⟩ = .next ⟨q, d.setFlag Reg.GRD_JOBADMIT 32 false⟩)
  ∧ (∀ src l s bs, d.calm = true → dOp l = 0x0701 → d.job.launch = none → d.headCheck l = none → jlaunchBad l = none →
      (d.arm src l 0 [(jobKey (lnum l 24 8), 2 * lfield l 32 0 17)] [] .jlaunch).1.cmdRead d.nextGen (lnum l 24 8)
        (2 * lfield l 32 0 17) = (s, some bs) →
    (∀ L : Launch, (listOf bs (lfield l 32 0 17)).head? = some d.coord → (listOf bs (lfield l 32 0 17)).Nodup → lfield l 32 22 1 = 0 →
      L = ⟨true, d.nextGen, lnum l 16 4, lnum l 20 4, (d.job.lastLseq + 1) % 2 ^ 32, listOf bs (lfield l 32 0 17), lfield l 32 17 5,
        false, lfield l 32 23 2, lfield l 36 0 17, lnum l 40 2, lnum l 42 1, lnum l 44 4, 0, 1, true, [], [], false, false, none⟩ →
      ∀ t, t = ((((s.setJobState jARMED).unsend fun m => decide (m.type < lORDREQ)).setJob fun j => { j with
            launch := some L, lastLseq := L.lseq }).manifestKids L).tellKids L lARM [] →
        (L.kids ≠ [] → exec (.jlaunch src l) ⟨q, d⟩ = .next ⟨q, t⟩)
        ∧ (L.kids = [] → exec (.jlaunch src l) ⟨q, d⟩
            = .next ⟨q, t.setLaunch fun l => { l with tgo := some ((t.now + L.goLead * 1000) % 2 ^ 64) }⟩))
    ∧ ((listOf bs (lfield l 32 0 17)).head? ≠ some d.coord ∨ ¬ (listOf bs (lfield l 32 0 17)).Nodup →
      exec (.jlaunch src l) ⟨q, d⟩ = .next ⟨q, d.refuse src l ⟨clsJOB, 0x002, d.jobState⟩⟩))
  ∧ (∀ c n, lType c = lMANIFEST → n = c.f 44 0 32 → d.job.launch = none → c.f 40 0 32 = 0 →
    (d.jobState = jIDLE → d.flag Reg.GRD_JOBADMIT 32 = true → d.fld Reg.GRD_JOBADMIT 0 32 = lJob c → d.job.gather = none → 0 < n →
      n ≤ 2048 → 2 ≤ c.f 48 0 8 → c.f 48 0 8 ≤ 16 → 2 * n ≤ c.payload.length → (listOf c.payload n).count d.coord = 1 →
      ∃ t L, exec (.manifest c) ⟨q, d⟩ = .next ⟨q, t⟩ ∧ t.jobState = jMANIFEST ∧ t.job.launch = some L ∧ L.list = listOf c.payload n
        ∧ L.index = L.list.idxOf d.coord ∧ L.jobid = lJob c ∧ L.lseq = lSeq c ∧ L.fanout = c.f 48 0 8 ∧ L.armed = false ∧ L.root = false)
    ∧ (d.jobState = jIDLE → d.flag Reg.GRD_JOBADMIT 32 = false ∨ d.fld Reg.GRD_JOBADMIT 0 32 ≠ lJob c →
      exec (.manifest c) ⟨q, d⟩ = .next ⟨q, ((d.taken c).record clsJOB 0x004 (lJob c) 0 blkGRD 0).formed 42
        (d.jobCar c.src lARMACK (lJob c) (lSeq c) [(44, 0, 1, 1)] []) none⟩))
  ∧ (∀ L, d.job.launch = some L →
    (∀ c, lType c = lARM → lJob c = L.jobid → lSeq c = L.lseq → L.root = false → L.answered = false → L.armed = false → d.jobState = jMANIFEST →
      (L.kids ≠ [] → L.acked = [] → exec (.arm c) ⟨q, d⟩
        = .next ⟨q, (((d.taken c).setLaunch fun l => { l with armed := true }).setJobState jARMED).tellKids L lARM []⟩)
      ∧ (L.kids = [] → ∃ t, exec (.arm c) ⟨q, d⟩ = .next ⟨q, t⟩ ∧ t.jobState = jARMED
          ∧ t.job.launch = some { L with armed := true, answered := true }))
    ∧ (∀ c k, L.kids.find? (fun k => L.coordOf k == c.src) = some k → lType c = lARMACK → lJob c = L.jobid → lSeq c = L.lseq →
        L.acked.contains k = false → L.answered = false → L.tgo = none → L.armed = true → c.f 40 0 32 = 0 → c.f 44 0 2 = 0 →
      ∀ s, s = ((d.taken c).setLaunch fun l => { l with acked := l.acked ++ [k] }).unsend (fun m =>
            (m.type == lMANIFEST || m.type == lARM) && m.node == k) →
        (L.kids.all (L.acked ++ [k]).contains = false → exec (.armack c) ⟨q, d⟩ = .next ⟨q, s⟩)
        ∧ (L.kids.all (L.acked ++ [k]).contains = true → L.root = true → L.silent = [] → ∃ t, exec (.armack c) ⟨q, d⟩ = .next ⟨q, t⟩
            ∧ t.job.launch = some { L with acked := L.acked ++ [k], tgo := some ((d.now + L.goLead * 1000) % 2 ^ 64) }))
    ∧ (L.armed = true → L.answered = false → L.tgo = none → ∀ bad, bad = (L.kids.filter (fun k => !L.acked.contains k) ++ L.silent).eraseDups →
        (L.root = false → ∃ t, exec .armWaitExpire ⟨q, d⟩ = .next ⟨q, t⟩ ∧ t.job.launch = some { L with
            silent := L.kids.filter (fun k => !L.acked.contains k) ++ L.silent, answered := true })
        ∧ (L.root = true → L.index = 0 → bad ≠ [] → L.policy = 1 → L.overflow = false → L.ran < L.rounds → ∀ list,
            list = (((List.range L.list.length).zip L.list).filter fun x => !bad.contains x.1).map (·.2) → L.minn ≤ list.length →
            1 < list.length → 1 ≤ L.fanout → ∃ t, exec .armWaitExpire ⟨q, d⟩ = .next ⟨q, t⟩ ∧ t.job.launch = some { L with
              list := list, lseq := (L.lseq + 1) % 2 ^ 32, ran := L.ran + 1, acked := [], silent := [], overflow := false }))
    ∧ (∀ c, lType c = lGO → L.root = false → L.armed = true → lJob c = L.jobid → lSeq c = L.lseq → c.f 48 0 32 = listCrc L.list → L.tgo = none →
        d.jobState = jARMED →
        (d.now ≤ c.f 40 0 64 → ∃ t : Dev, exec (.go c) ⟨q, d⟩ = .next ⟨q, t.armRings⟩ ∧ t.job.launch = some { L with tgo := some (c.f 40 0 64) }
            ∧ t.jobState = jARMED)
        ∧ (c.f 40 0 64 < d.now → ∃ t : Dev, exec (.go c) ⟨q, d⟩ = .next ⟨q, t.armRings⟩ ∧ t.job.launch = none ∧ t.jobState = jRUNNING
            ∧ t.flag Reg.GRD_JOBSTAT 4 = true))
    ∧ (∀ g, L.tgo = some g → L.root = false →
        (d.jobState = jARMED → ∃ t : Dev, exec .tGoReached ⟨q, d⟩ = .next ⟨q, t.armRings⟩ ∧ t.jobState = jRUNNING ∧ t.job.launch = none
            ∧ t.job.list = L.list ∧ t.jobId = L.jobid % 2 ^ 32 ∧ t.jobIndex = L.index % 2 ^ 16 ∧ t.fld Reg.GRD_JOBSTAT 8 8 = 0
            ∧ (L.index < 2 ^ 16 → L.list.length < 2 ^ 17 → t.fld Reg.GRD_JOBMEMB 32 17 = L.list.length)
            ∧ (∀ i, i < 8 → t.reg (Reg.GRD_MTR_RUNNS + 8 * i) = 0) ∧ t.grd.sealed = false)
        ∧ (d.jobState = jRUNNING → ∃ t : Dev, exec .tGoReached ⟨q, d⟩ = .next ⟨q, t.armRings⟩ ∧ t.jobState = jRUNNING ∧ t.job.launch = none
            ∧ t.job.list = L.list ∧ t.fld Reg.GRD_JOBSTAT 8 8 = (d.fld Reg.GRD_JOBSTAT 8 8 + 1) % 256 ∧ t.jobId = d.jobId))
    ∧ (∀ c, lType c = lLABORT → L.root = false → lJob c = L.jobid → lSeq c = L.lseq → d.jobState = jARMED →
        ∃ t, exec (.labort c) ⟨q, d⟩ = .next ⟨q, t⟩ ∧ t.jobState = jIDLE ∧ t.job.launch = none)
    ∧ (L.root = false → L.tgo = none → d.jobState = jMANIFEST ∨ d.jobState = jARMED →
        ∃ t, exec .launchHoldExpire ⟨q, d⟩ = .next ⟨q, t⟩ ∧ t.jobState = jIDLE ∧ t.job.launch = none))
  ∧ (∀ node type m, d.job.unacked.find? (fun m => m.node == node && m.type == type) = some m →
    exec (.launchMessageResend node type) ⟨q, d⟩ = .next ⟨q, m.cars.foldl (fun s c => s.formed 42 c none) d⟩
    ∧ (type = lORDER → exec (.childAckTimeout node type) ⟨q, d⟩
        = .next ⟨q, (d.record clsJOB 0x008 node 0 blkGRD 0).unsend fun x => decide (x = m)⟩))

/-- R489 to R492, R494, R495, R497, R504. -/
def Obligations.OrdersAndTheirEnd : Prop := ∀ (q : List Instr) (d : Dev), d.alive = true →
  (∀ src l s, dOp l = 0x0702 → d.job.ownReq = none → d.headCheck l = none → jorderBad l = none →
      s = ((d.arm src l 0 [] [] (.jorder (lnum l 16 1))).1.setJob fun j => { j with ownReq := some ⟨d.nextGen, lnum l 16 1, none⟩ }) →
    ∀ i f, (i = .jorderPreempt src l ∧ lnum l 16 1 = 1 ∧ f = id) ∨ (i = .jorderResume src l ∧ lnum l 16 1 = 2 ∧ f = Dev.armRings)
        ∨ (i = .jorderEnd src l ∧ lnum l 16 1 = 3 ∧ f = id) →
    ∀ w, w = (lnum l 16 1 == 3 && lfield l 17 0 1 == 1) →
      (d.jobIndex ≠ 0 → exec i ⟨q, d⟩ = .next ⟨q, f (s.jobSend lORDREQ 0 (nth d.job.list 0 0) [d.jobCar (nth d.job.list 0 0) lORDREQ d.jobId 0
          [(40, 0, 8, lnum l 16 1), (41, 0, 1, w.toNat), (42, 0, 16, d.jobIndex)] []])⟩)
      ∧ (d.jobIndex = 0 → d.job.launch = none → d.jobRuns = true → exec i ⟨q, d⟩ = .next ⟨q, f (((s.setJob fun j => { j with
            nextOrd := d.nextOrdseq, ownReq := some ⟨d.nextGen, lnum l 16 1, some d.nextOrdseq⟩ }).orderKids (lnum l 16 1) w
              d.nextOrdseq).orderApply (lnum l 16 1) w d.nextOrdseq)⟩)
      ∧ (d.jobIndex = 0 → d.job.launch.isSome = true → exec i ⟨q, d⟩ = .next ⟨q, f (s.setJob fun j => { j with
            heldReq := j.heldReq ++ [⟨d.coord, lnum l 16 1, w, some d.nextGen⟩] })⟩))
  ∧ (∀ c o w, lType c = lORDREQ → lJob c = d.jobId → d.jobIndex = 0 → d.jobRuns = true → o = c.f 40 0 8 → 1 ≤ o → o ≤ 3 →
      w = (o == 3 && c.f 41 0 1 == 1) →
      (d.job.launch.isSome = true → exec (.ordreq c) ⟨q, d⟩
        = .next ⟨q, Dev.armRings ((d.taken c).setJob fun j => { j with heldReq := j.heldReq ++ [⟨c.src, o, w, none⟩] })⟩)
      ∧ (d.job.launch = none → exec (.ordreq c) ⟨q, d⟩ = .next ⟨q, ((((d.taken c).setJob fun j => { j with nextOrd := d.nextOrdseq }).formed
          42 (d.jobCar c.src lACK d.jobId d.nextOrdseq [(40, 0, 8, lORDREQ)] []) none).orderKids o w d.nextOrdseq).orderApply o w
            d.nextOrdseq |>.armRings⟩))
  ∧ (∀ c n ack, lType c = lORDER → lJob c = d.jobId → d.jobRuns = true → d.jobIndex ≠ 0 → c.src = nth d.job.list (parentOf d.job.fanout d.jobIndex) 0 →
      d.job.ownReq = none → n = lSeq c → ack = d.jobCar c.src lACK (lJob c) n [(40, 0, 8, lORDER)] [] →
      (n ≤ d.fld Reg.GRD_JOBORD 0 32 → exec (.order c) ⟨q, d⟩ = .next ⟨q, ((d.taken c).formed 42 ack none).armRings⟩)
      ∧ (d.fld Reg.GRD_JOBORD 0 32 < n →
        (c.f 40 0 8 = 1 → ∀ s, s = ((d.taken c).orderKids 1 false n).setReg Reg.GRD_JOBORD n →
          (d.jobState = jRUNNING → ∀ p, p = ((s.preemptWork 1 n).setJobState jPREEMPTED).orderSettle → exec (.order c) ⟨q, d⟩
              = .next ⟨q, (p.formed 42 (p.jobCar c.src lACK (lJob c) n [(40, 0, 8, lORDER)] []) none).armRings⟩)
          ∧ (d.jobState = jRUNNING → d.cmds = [] → d.dying = [] → d.tiers.moves = [] → ∃ t, exec (.order c) ⟨q, d⟩ = .next ⟨q, t⟩
              ∧ t.jobState = jPREEMPTED ∧ t.mem = d.mem ∧ t.srv.frame = none)
          ∧ (d.jobState = jPREEMPTED → exec (.order c) ⟨q, d⟩ = .next ⟨q, (s.formed 42 ack none).armRings⟩))
        ∧ (c.f 40 0 8 = 2 → ∀ s, s = ((d.taken c).orderKids 2 false n).setReg Reg.GRD_JOBORD n →
          (d.jobState = jRUNNING → exec (.order c) ⟨q, d⟩ = .next ⟨q, (s.formed 42 ack none).armRings⟩)
          ∧ (d.jobState = jPREEMPTED → d.tiers.opens = [] → d.tiers.reqs = [] → d.tiers.waits = [] → d.tiers.ttEnd = false →
            exec (.order c) ⟨q, d⟩ = .next ⟨q, ((s.setJobState jRUNNING).formed 42 ack none).armRings⟩))
        ∧ (c.f 40 0 8 = 3 → ∀ w, w = (c.f 41 0 1 == 1) → ∀ e, e = (((d.taken c).orderKids 3 w n).setReg Reg.GRD_JOBORD n).endJob w n →
          ∀ p, p = e.orderSettle → exec (.order c) ⟨q, d⟩ = .next ⟨q, (p.formed 42 (p.jobCar c.src lACK (lJob c) n [(40, 0, 8, lORDER)] []) none).armRings⟩
            ∧ e.jobState = jSCRUBBING ∧ e.job.wipeCxl = w)))
  ∧ (∀ c s, lType c = lACK → s = (d.taken c).unsend (fun m => m.type == c.f 40 0 8 && m.coord == c.src && m.cars.all fun x => lJob x == lJob c) →
      (c.f 40 0 8 ≠ lORDREQ → exec (.ack c) ⟨q, d⟩ = .next ⟨q, s⟩)
      ∧ (∀ g o, c.f 40 0 8 = lORDREQ → lJob c = d.jobId → d.job.ownReq = some ⟨g, o, none⟩ →
          ((if d.fld Reg.GRD_JOBORD 0 32 < lSeq c then d.jobRuns = true else o = 3 ∧ d.jobState ≠ jIDLE) → exec (.ack c) ⟨q, d⟩
            = .next ⟨q, s.setJob fun j => { j with ownReq := some ⟨g, o, some (lSeq c)⟩ }⟩)
          ∧ (d.fld Reg.GRD_JOBORD 0 32 < lSeq c → d.jobRuns = false → exec (.ack c) ⟨q, d⟩
            = .next ⟨q, (s.setJob fun j => { j with ownReq := none }).finish g 3 0⟩)
          ∧ (o ≠ 3 ∨ d.jobState = jIDLE → lSeq c ≤ d.fld Reg.GRD_JOBORD 0 32 → exec (.ack c) ⟨q, d⟩
            = .next ⟨q, (s.setJob fun j => { j with ownReq := none }).commit g (lSeq c)⟩)))
  ∧ (∀ g o, d.job.ownReq = some ⟨g, o, none⟩ → d.jobIndex ≠ 0 → exec .ordreqTimeout ⟨q, d⟩
      = .next ⟨q, (((d.record clsJOB 0x00F (nth d.job.list 0 0) g blkGRD 0).unsend fun m => m.type == lORDREQ).setJob fun j => { j with
          ownReq := none }).finish g 2 0⟩)
  ∧ (d.jobState = jSCRUBBING → d.job.ownReq = none → ∃ t e, exec .scrubComplete ⟨q, d⟩ = .next ⟨q, t⟩ ∧ t.jobState = jIDLE ∧ t.pt = []
      ∧ (∀ k, scrubbed d.job.wipeCxl k = true → t.rd k = 0) ∧ (∀ k, isCounter k = true → t.reg k = (regDefault k).toNat)
      ∧ t.log.slots = [] ∧ t.reg Reg.ERR_HEAD = 0 ∧ t.reg Reg.ERR_TAIL = 0 ∧ t.grd.sealed = true ∧ t.grd.meterLog.getLast? = some e
      ∧ e.jobid = d.jobId ∧ e.ended = 1 ∧ t.job.launch = none)

/-- R498 to R501. -/
def Obligations.UnitsTakenOutOfService : Prop := ∀ (q : List Instr) (d : Dev) (src : Source) (l : Line) (n g : Nat), d.alive = true →
  n = juIndex l → g = d.nextGen →
  (dOp l = 0x0703 → d.headCheck l = none → junitBad l = none → ∀ s, s = (d.arm src l 0 [] [] .control).1 →
    (juAction l = 1 →
      (d.coachOn n = true → exec (.junitDeconfigureCoach src l) ⟨q, d⟩
        = .next ⟨q, (s.fenceCoach n fun s => s.record clsJOB 0x009 n g blkGRD 0).commit g 0⟩)
      ∧ (d.coachOn n = false → exec (.junitDeconfigureCoach src l) ⟨q, d⟩ = .next ⟨q, d.refuse src l ⟨clsJOB, 0x00C, n⟩⟩))
    ∧ (juAction l = 2 →
      (n < 8 → bit d.postmap n = true → 1 < (bitsSet 8 d.postmap).length → ∀ s1 k,
        (s.sizChange fun s => s.setFlag Reg.SIZ_ROUTE (8 + n) false).moveShares n = (s1, k) → ∀ j, j = s.loosePosts n + k →
        exec (.junitParkPostilion src l) ⟨q, d⟩
          = .next ⟨q, (s1.postsWake.record clsJOB 0x00A (n + j % 2 ^ 24 * 2 ^ 8) g blkGRD 0).commit g j⟩)
      ∧ (8 ≤ n ∨ bit d.postmap n = false ∨ (bitsSet 8 d.postmap).length ≤ 1 →
        exec (.junitParkPostilion src l) ⟨q, d⟩ = .next ⟨q, d.refuse src l ⟨clsJOB, 0x00C, n⟩⟩))
    ∧ (juAction l = 3 →
      (n < d.fld Reg.SIZ_ROUTE 0 4 → bit d.postmap n = false →
        exec (.junitUnparkPostilion src l) ⟨q, d⟩ = .next ⟨q, (s.sizChange fun s => s.setFlag Reg.SIZ_ROUTE (8 + n) true).commit g 0⟩)
      ∧ (d.fld Reg.SIZ_ROUTE 0 4 ≤ n ∨ bit d.postmap n = true →
        exec (.junitUnparkPostilion src l) ⟨q, d⟩ = .next ⟨q, d.refuse src l ⟨clsJOB, 0x00C, n⟩⟩))
    ∧ (juAction l = 4 →
      (n < 2 → d.portOn n = true → ∀ s, s = (d.arm src l 0 [] [] (.port ⟨n, 0⟩)).1.portOff n →
        (juFail l = true ∨ d.portMoves n = [] → ∀ s1 k, s.portDown n 0 g = (s1, k) →
          exec (.junitDisablePort src l) ⟨q, d⟩ = .next ⟨q, s1.commit g k⟩)
        ∧ (juFail l = false → d.portMoves n ≠ [] →
          exec (.junitDisablePort src l) ⟨q, d⟩ = .next ⟨q, s.setJob fun j => { j with drains := j.drains ++ [(n, g)] }⟩))
      ∧ (2 ≤ n ∨ d.portOn n = false → exec (.junitDisablePort src l) ⟨q, d⟩ = .next ⟨q, d.refuse src l ⟨clsJOB, 0x00C, n⟩⟩))
    ∧ (juAction l = 5 →
      (n < 2 → d.portOn n = false → d.job.drains = [] →
        exec (.junitEnablePort src l) ⟨q, d⟩ = .next ⟨q, (s.portEnable n).commit g 0⟩)
      ∧ (2 ≤ n ∨ d.portOn n = true → exec (.junitEnablePort src l) ⟨q, d⟩ = .next ⟨q, d.refuse src l ⟨clsJOB, 0x00C, n⟩⟩)))
  ∧ (∀ p x s k, d.job.drains.find? (fun x => x.1 == p) = some (p, x) → d.portDown p 0 x = (s, k) → exec (.portDrainTimeout p) ⟨q, d⟩
      = .next ⟨q, (s.setJob fun j => { j with drains := j.drains.filter fun x => x.1 != p }).commit x k⟩)

/-- R510, R512, R513, R517, R525, R576, R578. -/
def Obligations.WakesGatesAndTrips : Prop := ∀ (q : List Instr) (d : Dev),
  (d.alive = true →
    (∀ n, d.coachOn n = true → d.pwr.deferred = [] →
      ∀ late, late = (d.bump Reg.PWC_CNT_WAKEDEFER 1).setPwr (fun p => { p with deferred := [n] }) →
      (d.fld (Reg.CCH_CSTAT n) 0 3 = csCGATED →
        (d.pwr.woken < d.fld Reg.PWC_SLEW 0 7 → exec (.domainWake (.coachArrays n)) ⟨q, d⟩
          = .next ⟨q, (d.setFld (Reg.CCH_CSTAT n) 0 3 csRUN).setPwr fun p => { p with woken := p.woken + 1 }⟩)
        ∧ (d.fld Reg.PWC_SLEW 0 7 ≤ d.pwr.woken → exec (.domainWake (.coachArrays n)) ⟨q, d⟩ = .next ⟨q, late⟩))
      ∧ (d.fld (Reg.CCH_CSTAT n) 0 3 = csPGATED →
        (d.pwr.wokenCl = none → exec (.domainWake (.coachArrays n)) ⟨q, d⟩
          = .next ⟨q, ((d.setFld (Reg.CCH_CSTAT n) 0 3 csRUN).bump Reg.PWC_CNT_PGWAKE 1).setPwr fun p =>
              { p with wokenCl := some (n / 4) }⟩)
        ∧ (d.pwr.wokenCl = some (n / 4) → exec (.domainWake (.coachArrays n)) ⟨q, d⟩
          = .next ⟨q, (d.setFld (Reg.CCH_CSTAT n) 0 3 csRUN).bump Reg.PWC_CNT_PGWAKE 1⟩)
        ∧ (∀ c, d.pwr.wokenCl = some c → c ≠ n / 4 → exec (.domainWake (.coachArrays n)) ⟨q, d⟩ = .next ⟨q, late⟩))
      ∧ (d.fld (Reg.CCH_CSTAT n) 0 3 = csPGATED → d.pwr.awake.contains n = false → exec (.domainWake (.coachControl n)) ⟨q, d⟩
          = .next ⟨q, (d.bump Reg.PWC_CNT_PGWAKE 1).setPwr fun p => { p with awake := p.awake ++ [n] }⟩)
      ∧ (d.fld (Reg.CCH_CSTAT n) 0 3 = csCGATED → d.fld Reg.PWC_GATECFG 0 16 ≠ 0 → d.instWaits n = false →
          exec (.powerGateIdle (.coachArrays n)) ⟨q, d⟩
            = .next ⟨q, (d.setFld (Reg.CCH_CSTAT n) 0 3 csPGATED).setPwr fun p => { p with awake := p.awake.filter (· != n) }⟩))
    ∧ (∀ k, ∀ dm ∈ [Domain.postilion k, .hitchPair k, .dsPort k, .core k],
      (d.pwr.gated.contains dm = true → ((∃ p, dm = .dsPort p ∨ dm = .hitchPair p) → d.mayGate dm = false) → exec (.domainWake dm) ⟨q, d⟩
        = .next ⟨q, (d.bump Reg.PWC_CNT_PGWAKE 1).setPwr fun p => { p with gated := p.gated.filter (· != dm) }⟩)
      ∧ (d.pwr.gated.contains dm = false → d.mayGate dm = true → exec (.powerGateIdle dm) ⟨q, d⟩
        = .next ⟨q, d.setPwr fun p => { p with gated := p.gated ++ [dm] }⟩))
    ∧ (∀ p, ∀ dm ∈ [Domain.dsPort p, .hitchPair p], d.mayGate dm = true → exec (.domainWake dm) ⟨q, d⟩ = .next ⟨q, d⟩)
    ∧ (d.pwr.deferred = [] → exec (.wakeWindow true) ⟨q, d⟩ = .next ⟨q, d.setPwr fun p => { p with wokenCl := none }⟩
        ∧ exec (.wakeWindow false) ⟨q, d⟩ = .next ⟨q, d.setPwr fun p => { p with woken := 0 }⟩))
  ∧ (d.grd.stage = .run → d.pwr.trip = 0 → ∀ r, ∀ i ∈ [Instr.railOutOfRange r, .vidWriteFail r],
      ∀ s, s = (d.emit (.thermtrip true)).record clsGUARD 0x030 (3 + r * 2 ^ 8) 0 blkGRD 0 →
        exec i ⟨q, d⟩ = .next ⟨q, ((((if d.toSeal = true then s.seal 3 else s).dropWork.setFld
          Reg.PWC_STAT 8 3 3).setFld Reg.GRD_BOOTSTAT 0 4 8).setPwr fun p => { p with trip := 1 })⟩)
  ∧ (d.pwr.trip = 1 → ∃ t, exec .tripDomainsGated ⟨q, d⟩ = .next ⟨q, t⟩ ∧ t.pwr.trip = 2 ∧ t.pwr.gated = gateable ∧ t.pwr.awake = []
      ∧ (∀ k, scrubbed false k = true → t.rd k = 0) ∧ (∀ n, d.coachOn n = true → t.fld (Reg.CCH_CSTAT n) 0 8 = csPGATED)
      ∧ (∀ k, (∀ n, n < 64 → k ≠ Reg.CCH_CSTAT n) → t.reg k = d.reg k)
      ∧ t.outs = d.outs ++ ((List.range 2).filter fun p => !d.pwr.gated.contains (.dsPort p)).flatMap fun p =>
          [.dsPerst p true, .dsRefclk p false])
  ∧ (d.pwr.trip = 2 → exec .tripRailsOff ⟨q, d⟩ = .next ⟨q, ((((d.setVid 0 0).setVid 1 0).setVid 2 0).setFlag
      Reg.PWC_STAT 7 true).setPwr fun p => { p with trip := 3 }⟩)

/-- R507, R515 to R517, R519 to R525, R575, R579, R582. -/
def Obligations.LoopsTelemetryAndTemperature : Prop := ∀ (q : List Instr) (d : Dev),
  (d.grd.stage ≠ .run → exec .throttleAssert ⟨q, d⟩ = .next ⟨q, d.setPwr fun p => { p with throttle := true }⟩)
  ∧ exec .throttleDeassert ⟨q, d⟩ = .next ⟨q, (d.setPwr fun p => { p with throttle := false }).setFlag Reg.PWC_STAT 6 false⟩
  ∧ (d.grd.stage = .run →
  (∀ est pred, d.flag Reg.PWC_STAT 6 = false → d.flag Reg.PWC_STAT 4 = false → d.pwr.forced = false → d.pwr.slowLim = false →
      2 ≤ d.duty → d.duty ≤ 8 →
    (d.plFast < est → ∃ t, exec (.fastLoopTick est pred) ⟨q, d⟩ = .next ⟨q, t⟩ ∧ t.duty = d.duty - 1 ∧ t.flag Reg.PWC_STAT 4 = false
        ∧ t.reg Reg.PWC_CNT_FASTUS = (d.reg Reg.PWC_CNT_FASTUS + 1) % 2 ^ 64
        ∧ (d.cch.gaps = [] → d.OnlyRegs { t with pwr := d.pwr } [Reg.PWC_STAT, Reg.PWC_CNT_FASTUS]))
    ∧ (est ≤ d.plFast → d.duty < 8 → pred + d.fld Reg.PWC_THR 0 8 ≤ d.plFast → 9 ≤ d.pwr.sinceUp →
        ∃ t, exec (.fastLoopTick est pred) ⟨q, d⟩ = .next ⟨q, t⟩ ∧ t.duty = d.duty + 1 ∧ t.pwr.sinceUp = 0)
    ∧ (est ≤ d.plFast → d.plFast < pred + d.fld Reg.PWC_THR 0 8 →
        ∃ t, exec (.fastLoopTick est pred) ⟨q, d⟩ = .next ⟨q, t⟩ ∧ t.duty = d.duty
          ∧ t.reg Reg.PWC_CNT_FASTUS = (d.reg Reg.PWC_CNT_FASTUS + (if d.duty < 8 then 1 else 0)) % 2 ^ 64))
  ∧ (∀ est pred, d.duty = 1 → d.plFast < est → ∃ t, exec (.fastLoopTick est pred) ⟨q, d⟩ = .next ⟨q, t⟩ ∧ t.duty = 1
      ∧ ((∀ c, c < 16 → d.arrayStep c = 4) → d.flag Reg.PWC_STAT 4 = false → d.pwr.slowLim = false →
        t.flag Reg.PWC_STAT 4 = true ∧ d.Recorded t clsGUARD 0x035 1 0 blkGRD 0))
  ∧ (∀ arr lg sr, d.pwr.target = [] → d.flag Reg.PWC_STAT 4 = false → d.pwr.fastLim = false → d.pwr.hot = false → d.duty ≠ 1 →
      1000 * d.plWindow ≤ d.pwr.winUs + 100 →
    ((d.slowSample [arr, lg, sr]).avgAbove 100 = true → (∃ c, c < 16 ∧ d.arrayStep c < 4) →
      ∃ t, exec (.slowLoopTick arr (lg, sr)) ⟨q, d⟩ = .next ⟨q, t⟩ ∧ t.pwr.winUs = 0
        ∧ (∀ c, c < 16 → d.arrayStep c ≤ 4 → t.stepGoal c = min 4 (d.arrayStep c + 1))
        ∧ ∀ k, k ≠ Reg.GRD_MTR_ENERGY → t.reg k = d.reg k)
    ∧ ((d.slowSample [arr, lg, sr]).avgAbove 95 = false → 10 * d.plWindow ≤ min (d.pwr.lowTicks + 1) 10000 →
        (∃ c, c < 16 ∧ 0 < d.arrayStep c) → ∃ t, exec (.slowLoopTick arr (lg, sr)) ⟨q, d⟩ = .next ⟨q, t⟩ ∧ t.pwr.winUs = 0
        ∧ (∀ c, c < 16 → t.stepGoal c = d.arrayStep c - 1) ∧ ∀ k, k ≠ Reg.GRD_MTR_ENERGY → t.reg k = d.reg k))
  ∧ (∀ c g k, c < 16 → d.pwr.target.find? (fun x => x.1 == c) = some (c, g) →
      k = (if d.arrayStep c < g then d.arrayStep c + 1 else d.arrayStep c - 1) → k < 8 →
      ∃ t, exec (.stepChangeSettled c) ⟨q, d⟩ = .next ⟨q, t⟩ ∧ t.arrayStep c = k
        ∧ t.reg Reg.PWC_CNT_STEP = (d.reg Reg.PWC_CNT_STEP + 1) % 2 ^ 64
        ∧ t.pwr.target = d.pwr.target.filter (fun e => !(e.1 == c && e.2 == k))
        ∧ d.OnlyRegsOuts { t with pwr := d.pwr } [Reg.PWC_CLK, Reg.PWC_CNT_STEP])
  ∧ (∀ i mv ma, i < 3 → mv < 2 ^ 16 → ma < 2 ^ 20 → d.jobState = jIDLE →
      ∃ t, exec (.railTelemetryRead i mv ma) ⟨q, d⟩ = .next ⟨q, t⟩ ∧ t.reg (Reg.PWC_RAIL i) = mv + ma * 2 ^ 32
        ∧ bit t.pwr.overLim i = decide (railLimit i < ma) ∧ (d.pwr.lost = 2 ^ i → t.flag Reg.PWC_STAT 5 = false)
        ∧ t.pwr.meters = d.pwr.meters.modify i (fun m => ⟨m.sum + mv * ma, m.n + 1, mv * ma⟩)
        ∧ (bit d.pwr.overLim i = false → t.pwr.trip = d.pwr.trip)
        ∧ (bit d.pwr.overLim i = true → railLimit i < ma → d.pwr.trip = 0 →
            t.pwr.trip = 1 ∧ t.fld Reg.PWC_STAT 8 3 = 4 ∧ t.fld Reg.GRD_BOOTSTAT 0 4 = 8))
  ∧ (∀ x mv, x < 7 → bit d.pwr.overLim (3 + x) = false → d.jobState = jIDLE → exec (.imonSample x mv) ⟨q, d⟩
      = .next ⟨q, (d.metered (3 + x) (mv * (imonRail x).1 * (imonRail x).2 / 10)).setPwr fun p => { p with
          overLim := setBit p.overLim (3 + x) (decide (1000 < mv)) }⟩)
  ∧ (∀ i, i < 3 → exec (.telemetryTimeout i) ⟨q, d⟩
      = .next ⟨q, (d.setPwr fun p => { p with lost := setBit p.lost i true }).setFlag Reg.PWC_STAT 5 true⟩)
  ∧ (d.pwr.throttle = false → ∀ s, s = ((d.setPwr fun p => { p with throttle := true }).setFlag Reg.PWC_STAT 6 true).setDuty 1 →
      s.duty = 1
      ∧ (d.pwr.thr34 ≠ some (d.ns / 10 ^ 9) → exec .throttleAssert ⟨q, d⟩
        = .next ⟨q, (s.setPwr fun p => { p with thr34 := some (d.ns / 10 ^ 9) }).record clsGUARD 0x034 0 0 blkGRD 0⟩)
      ∧ (d.pwr.thr34 = some (d.ns / 10 ^ 9) → exec .throttleAssert ⟨q, d⟩ = .next ⟨q, s⟩))
  ∧ (∀ ts i x, ts.length = 40 → (∀ k, k < 40 → d.flag (Reg.PWC_SENSOR k) 16 = false) → hottest ((List.range 40).zip ts) = some (i, x) →
    ∃ t, exec (.sensorRead ts) ⟨q, d⟩ = .next ⟨q, t⟩ ∧ t.fld Reg.PWC_TEMP 0 16 = ofSigned 16 x
      ∧ (x < 16 * 105 → t.log = d.log ∧ t.reg Reg.PWC_CNT_THERMUS
            = (d.reg Reg.PWC_CNT_THERMUS + (if (16 * (d.fld Reg.PWC_THR 8 7 : Nat) : Int) ≤ x then 10 else 0)) % 2 ^ 64)
      ∧ (16 * 105 ≤ x → t.duty = 1 ∧ t.pwr.forced = true)
      ∧ (16 * 105 ≤ x → x < 16 * 115 → d.pwr.forced = false → d.Recorded t clsGUARD 0x031 i 0 blkGRD 0)
      ∧ (16 * 115 ≤ x → d.pwr.trip = 0 → t.fld Reg.GRD_BOOTSTAT 0 4 = 8 ∧ t.fld Reg.PWC_STAT 8 3 = 1 ∧ t.cmds = [] ∧ t.alive = false))
  ∧ (∀ k x s1, k < 8 → s1 = (d.setFld (Reg.PWC_SENSOR (40 + k)) 0 16 (ofSigned 16 x)).setPwr (fun p => { p with
          refresh2 := setBit p.refresh2 k (decide (16 * 85 ≤ x)), half := setBit p.half k (decide (16 * 95 ≤ x)) }) →
      (x < 16 * 105 → exec (.hbmSensorRead k x) ⟨q, d⟩ = .next ⟨q, s1⟩)
      ∧ (16 * 105 ≤ x → exec (.hbmSensorRead k x) ⟨q, d⟩ = .next ⟨q, s1.tripDev 2 (40 + k)⟩))
  ∧ (∀ k, k < 40 → d.flag (Reg.PWC_SENSOR k) 16 = false →
      exec (.sensorCalibrationCheck k false) ⟨q, d⟩
        = .next ⟨q, (d.setFlag (Reg.PWC_SENSOR k) 16 true).record clsGUARD 0x033 k 0 blkGRD 0⟩
      ∧ exec (.sensorCalibrationCheck k true) ⟨q, d⟩ = .next ⟨q, d⟩))

/-- R525, R528 to R531, R546, R547. -/
def Obligations.Resets : Prop := ∀ (q : List Instr) (d : Dev),
  (d.grd.stage = .off → (∃ t, exec (.standbyPowerUp true) ⟨q, d⟩ = .next ⟨q, t⟩ ∧ t.grd.stage = .held 1 ∧ d.AfterReset t 1 false)
      ∧ exec (.standbyPowerUp false) ⟨q, d⟩ = .next ⟨q, d⟩)
  ∧ (d.grd.stage = .run → d.pwr.trip = 0 →
      (∃ t, exec (.coldResetPin false) ⟨q, d⟩ = .next ⟨q, t⟩ ∧ t.grd.stage = .held 2 ∧ d.AfterReset t 2 false)
      ∧ (∃ t, exec (.coldResetPin true) ⟨q, d⟩ = .next ⟨q, t⟩ ∧ t.grd.stage = .held 3 ∧ d.AfterReset t 3 false)
      ∧ (d.grd.coldWait = true → ∃ t, exec .coldResetDelayExpire ⟨q, d⟩ = .next ⟨q, t⟩ ∧ t.grd.stage = .held 4 ∧ d.AfterReset t 4 false))
  ∧ (d.grd.stage = .run → d.pwr.trip ≠ 0 → ∀ p,
      (toSigned 16 (d.fld Reg.PWC_TEMP 0 16) < 1600 →
        ∃ t, exec (.coldResetPin p) ⟨q, d⟩ = .next ⟨q, t⟩ ∧ t.grd.stage = .held 5 ∧ d.AfterReset t 5 false)
      ∧ (1600 ≤ toSigned 16 (d.fld Reg.PWC_TEMP 0 16) → exec (.coldResetPin p) ⟨q, d⟩ = .next ⟨q, d⟩))
  ∧ (d.bootOk = true → d.grd.lcTarget = none → d.lifeState ≠ lcDECOMMISSIONED →
      ∃ t, exec .warmReset ⟨q, d⟩ = .next ⟨q, t⟩ ∧ t.grd.stage = .run ∧ t.bootState = bsLOADING ∧ d.AfterReset t 6 true)
  ∧ (∀ st c s, d.grd.stage = .held c → s = ((d.setGrd fun g => { g with stage := .run, straps := st }).drawNonce).vidReset →
      (c ≠ 5 → d.grd.lcTarget = none → d.lifeState ≠ lcDECOMMISSIONED → exec (.resetRelease st) ⟨q, d⟩ = .next ⟨q, s.setBoot bsROM⟩)
      ∧ (c = 5 → d.grd.lcTarget = none → d.lifeState ≠ lcDECOMMISSIONED →
          exec (.resetRelease st) ⟨q, d⟩ = .next ⟨q, (s.emit (.thermtrip false)).setBoot bsROM⟩)
      ∧ (∀ x, c ≠ 5 → d.grd.lcTarget = some x → st.coreclk = true → st.testen = false → d.pwr.trip = 0 → x < 8 →
          exec (.resetRelease st) ⟨q, d⟩ = .next ⟨q, if x = lcDECOMMISSIONED
            then (((s.setBoot bsROM).lifecycleSteps x).record clsGUARD 0x00C x 0 blkGRD 0).setBoot bsLOCKED
            else ((s.setBoot bsROM).lifecycleSteps x).record clsGUARD 0x00C x 0 blkGRD 0⟩))
  ∧ (d.grd.stage = .run → ∀ st,
      (d.grd.straps.coreclk = true ∨ st.coreclk = false → exec (.resetRelease st) ⟨q, d⟩ = .next ⟨q, d⟩)
      ∧ (d.grd.straps.coreclk = false → st.coreclk = true → d.grd.lcTarget = none → d.lifeState ≠ lcDECOMMISSIONED →
          exec (.resetRelease st) ⟨q, d⟩ = .next ⟨q, (d.setGrd fun g => { g with straps := { g.straps with coreclk := true } }).setBoot bsROM⟩))
  ∧ (d.grd.stage ≠ .off → ∃ t, exec .standbyPowerLoss ⟨q, d⟩ = .next ⟨q, t⟩ ∧ t.grd.stage = .off ∧ t.cmds = [] ∧ t.grd.opened = none
      ∧ (d.tripHeld = true → Out.thermtrip false ∈ t.outs)
      ∧ (d.toSeal = true → t.flag Reg.GRD_RESETCAUSE 4 = true ∧ ∃ e, t.grd.meterLog.getLast? = some e ∧ e.jobid = d.jobId ∧ e.ended = 2)
      ∧ (∀ k, k < 3 * 2 ^ 60 → t.rd k = 0) ∧ (∀ k, 3 * 2 ^ 60 ≤ k → t.rd k = d.rd k))
  ∧ (d.alive = true → ∀ s m, m = (fun c : Cmd => match c.src with
        | .ring _ => { c with src := .coachman }
        | _ => c) →
      s = { d with
        cmds := d.cmds.map m, dying := d.dying.map (fun x => { x with cmd := m x.cmd }), rings := []
        regs := d.regs.filter fun r => !((decide (0x201000 ≤ r.1) && decide (r.1 < 0x203000)) || decide (2 ^ 32 ≤ r.1)) } →
      (d.jobState = jRUNNING ∨ d.jobState = jPREEMPTED →
        exec .functionLevelReset ⟨q, d⟩ = .next ⟨q, s.endJob false 0⟩ ∧ (s.endJob false 0).jobState = jSCRUBBING)
      ∧ (d.jobState = jMANIFEST ∨ d.jobState = jARMED →
        exec .functionLevelReset ⟨q, d⟩ = .next ⟨q, Dev.launchDrop { s with cmds := [], dying := [] }⟩)
      ∧ (d.jobState = jIDLE ∨ d.jobState = jSCRUBBING → exec .functionLevelReset ⟨q, d⟩ = .next ⟨q, s⟩))

/-- R531 to R533, R536, R546. -/
def Obligations.StartUp : Prop := ∀ (q : List Instr) (d : Dev), d.bootOk = true →
  (d.grd.sram = false → ∃ t, exec .sramZeroDone ⟨q, d⟩ = .next ⟨q, t⟩ ∧ (∀ k, k < 2 * 2 ^ 60 → t.rd k = 0)
      ∧ (∀ k, 2 * 2 ^ 60 ≤ k → t.rd k = d.rd k) ∧ t.grd.sram = true
      ∧ t.bootState = (if d.bootState = bsROM then bsLOADING else d.bootState))
  ∧ (d.bootState = bsLOADING → ∀ (k : Option Nat) (fl : Nat → Nat → List Byte) (ro so : Bool) (first : Option (Nat × Nat)),
      fl = d.flashBytes → ro = (sha384 (fl 68 384) != d.grd.fwRsa) → so = (sha384 (fl 452 48) != d.grd.fwSlh) →
      first = (match k, d.headerBad with
        | some a, _ => some (7, a)
        | none, some n => some (1, n)
        | none, none =>
          if ro = true ∨ so = true then some (2, ro.toNat + 2 * so.toNat)
          else if rsaVerify (fl 68 384) (fl 0 512) (fl 512 384) = false then some (3, 0)
          else if slhVerify (fl 452 48) (fl 0 512) (fl 896 16224) = false then some (4, 0)
          else if leNat (fl 12 1) < d.fuseSvn then some (6, leNat (fl 12 1) % 64 + d.fuseSvn * 2 ^ 8)
          else if sha384 (fl 20480 (leNat (fl 16 4))) = fl 20 48 then none else some (5, 0)) →
      exec (.imageVerifyDone k) ⟨q, d⟩ = .next ⟨q, match first with
        | some (c, x) => ((d.record clsGUARD c x 0 blkGRD 0).setFld Reg.GRD_BOOTSTAT 16 12 c).setBoot bsRECOVERY
        | none => (d.setGrd fun g => { g with image := fl 0 512 }).setBoot bsVERIFYING⟩)
  ∧ (d.bootState = bsVERIFYING → ∃ t, exec .firmwareVerified ⟨q, d⟩ = .next ⟨q, t⟩ ∧ t.alive = true ∧ t.bootState = bsTRAINING
      ∧ t.reg Reg.GRD_FWVER = leNat ((d.grd.image.drop 8).take 4)
      ∧ t.fld Reg.GRD_LIFECYCLE 16 6 = leNat ((d.grd.image.drop 12).take 1) % 64
      ∧ (∀ h, h < 32 → t.hState h = (if d.hState h = hsHOLD then hsDISABLED else d.hState h)))
  ∧ (d.bootState = bsTRAINING → d.grd.trained = false →
      exec .hbmTrainingDone ⟨q, d⟩ = .next ⟨q, (d.setGrd fun g => { g with trained := true }).setBoot bsWIPING⟩)
  ∧ (d.grd.trained = true → d.grd.hbm = false → d.grd.lcTarget = none →
      ∃ t, exec .hbmZeroDone ⟨q, d⟩ = .next ⟨q, t⟩ ∧ t.grd.hbm = true ∧ d.RegsBut t [Reg.PWC_CNT_PGWAKE]
        ∧ (∀ k, k / 2 ^ 60 = 2 → t.rd k = 0) ∧ (∀ k, k / 2 ^ 60 ≠ 2 → t.rd k = d.rd k)
        ∧ (∀ p, p < 2 → d.flag (Reg.HST_DSCTL p) 0 = true → Domain.dsPort p ∉ t.pwr.gated)
        ∧ t.outs = d.outs ++ ((List.range 2).filter fun p => d.flag (Reg.HST_DSCTL p) 0 && d.pwr.gated.contains (.dsPort p)).flatMap fun p => [.dsRefclk p true, .dsPerst p false])
  ∧ (d.bootState = bsWIPING → d.grd.sram = true → d.grd.hbm = true → exec .bootReady ⟨q, d⟩
      = .next ⟨q, ((d.setGrd fun g => { g with served := true }).setBoot bsREADY).setFlag Reg.HST_STAT 0 true⟩)
  ∧ (d.bootState = bsRECOVERY → exec .bootReady ⟨q, d⟩ = .next ⟨q, d.setGrd fun g => { g with served := true }⟩)
  ∧ (d.grd.wiping = true →
      (∃ t, exec (.lifecycleCxlWipeDone []) ⟨q, d⟩ = .next ⟨q, t⟩ ∧ t.grd.lcTarget = none ∧ t.flag Reg.GRD_BOOTSTAT 9 = false
        ∧ t.flag Reg.GRD_BOOTSTAT 10 = false ∧ (∀ k, k / 2 ^ 60 = 3 ∨ k / 2 ^ 60 = 4 → t.rd k = 0)
        ∧ ∀ p, p < 2 → d.flag (Reg.HST_DSCTL p) 0 = false → Domain.dsPort p ∈ t.pwr.gated)
      ∧ (∃ t, exec (.lifecycleCxlWipeDone [1]) ⟨q, d⟩ = .next ⟨q, t⟩ ∧ t.grd.lcTarget = d.grd.lcTarget ∧ t.flag Reg.GRD_BOOTSTAT 10 = d.flag Reg.GRD_BOOTSTAT 10
        ∧ t.flag Reg.GRD_BOOTSTAT 9 = d.flag Reg.GRD_BOOTSTAT 9 ∧ d.Recorded t clsGUARD 0x00D 1 0 blkGRD 0
        ∧ (∀ k, k / 2 ^ 60 = 3 → t.rd k = 0) ∧ ∀ k, k / 2 ^ 60 = 4 → t.rd k = d.rd k))

/-- R518, R537 to R539, R542 to R545, R547, R548, R566, R583. -/
def Obligations.GuardCommands : Prop := ∀ (q : List Instr) (d : Dev) (r : GReq), d.grd.stage = .run → d.grd.straps.coreclk = true →
  d.grd.straps.testen = false → bsTRAINING ≤ d.bootState →
  (r.addr ≠ d.i3cAddr → ∀ k, ∀ i ∈ [Instr.setLimits r, .lifecycle r, .svnCommit r, .imageBegin r, .imageBlock r, .imageEnd r k, .fenceClear r,
      .debugUnlock r, .coldReset r, .readMeters r, .readMeterlog r, .readFence r], exec i ⟨q, d⟩ = .next ⟨q, d⟩)
  ∧ (r.addr = d.i3cAddr →
  (∀ k, ∀ x ∈ [(Instr.setLimits r, 1), (.lifecycle r, 2), (.svnCommit r, 3), (.imageBegin r, 4), (.fenceClear r, 7), (.debugUnlock r, 8),
      (.coldReset r, 9)], x.2 = k →
    (r.sigOk = false → exec x.1 ⟨q, d⟩ = .next ⟨q, d.drawNonce.gRefuse k 1 0x008⟩)
    ∧ (r.sigOk = true → r.nonce.toNat ≠ d.reg Reg.GRD_NONCE → exec x.1 ⟨q, d⟩ = .next ⟨q, d.drawNonce.gRefuse k 2 0x009⟩)
    ∧ (r.sigOk = true → r.nonce.toNat = d.reg Reg.GRD_NONCE → d.bootState = bsLOCKED →
      exec x.1 ⟨q, d⟩ = .next ⟨q, d.drawNonce.gRefuse k 3 0x00A⟩))
  ∧ (d.bootState = bsREADY → r.len = r.payload.length → r.zeros = true → r.uid.toNat = d.uid →
    (r.sigOk = true → r.nonce.toNat = d.reg Reg.GRD_NONCE → ∀ s, s = d.drawNonce →
      (∀ sust fast win tj, sust = gNum r 0 2 → fast = gNum r 2 2 → win = gNum r 4 2 → tj = gNum r 6 1 → r.payload.length = 7 →
        600 ≤ sust → fast ≤ 1900 → sust ≤ fast → 1 ≤ win → win ≤ 1000 → 80 ≤ tj → tj ≤ 105 → exec (.setLimits r) ⟨q, d⟩
          = .next ⟨q, ((s.setReg Reg.PWC_LIMIT (sust + fast * 2 ^ 11 + win * 2 ^ 22)).setFld Reg.PWC_THR 8 7 tj).gDone 1⟩)
      ∧ (r.payload = [3] → d.lifeState = lcPRODUCTION → d.jobState = jIDLE → exec (.lifecycle r) ⟨q, d⟩
          = .next ⟨q, ((((s.gDone 2).setGrd fun g => { g with lcTarget := some lcRMA }).setFlag Reg.GRD_BOOTSTAT 9 true).lifecycleSteps
              lcRMA).coldReset 4⟩)
      ∧ (∀ n, n = gNum r 0 1 → r.payload.length = 1 → d.fuseSvn ≤ n → n ≤ d.fld Reg.GRD_LIFECYCLE 16 6 →
          exec (.svnCommit r) ⟨q, d⟩ = .next ⟨q, (s.setFld Reg.GRD_LIFECYCLE 8 6 n).gDone 3⟩)
      ∧ (r.payload.length = 4 → bodyLenOk (gNum r 0 4) = true → exec (.imageBegin r) ⟨q, d⟩
          = .next ⟨q, (s.setGrd fun g => { g with flash := [], flashBad := true, opened := some (r.ctl, 0, 20480 + gNum r 0 4) }).gDone 4⟩)
      ∧ (r.payload.length = 1 → gNum r 0 1 < 16 →
          exec (.fenceClear r) ⟨q, d⟩ = .next ⟨q, (s.setGrd fun g => { g with clearing := g.clearing ||| gNum r 0 1 }).gDone 7⟩)
      ∧ (r.payload.length = 8 → gNum r 0 1 < 8 → gNum r 1 3 = 0 → gNum r 4 4 = 0 → d.jobState = jIDLE → exec (.debugUnlock r) ⟨q, d⟩
          = .next ⟨q, ((s.setReg Reg.DBG_UNLOCK (gNum r 0 1)).record clsGUARD 0x041 (gNum r 0 1) 0 blkGRD 0).gDone 8⟩)
      ∧ (r.payload = [] → exec (.coldReset r) ⟨q, d⟩ = .next ⟨q, (s.setGrd fun g => { g with coldWait := true }).gDone 9⟩))
    ∧ (∀ n len, d.grd.opened = some (r.ctl, n, len) →
      (n < len → r.payload.length = 4096 → ∃ t, exec (.imageBlock r) ⟨q, d⟩ = .next ⟨q, t⟩ ∧ t.grd.opened = some (r.ctl, n + 4096, len)
        ∧ (∀ i, i < 4096 → some (Sparse.get flashDefault t.grd.flash (n + i)) = r.payload[i]?)
        ∧ (∀ a, a < n ∨ n + 4096 ≤ a → Sparse.get flashDefault t.grd.flash a = Sparse.get flashDefault d.grd.flash a) ∧ t.regs = d.regs)
      ∧ (∀ k first, r.payload = [] → first = (d.setGrd fun g => { g with flashBad := false }).imageCheck k → exec (.imageEnd r k) ⟨q, d⟩
          = .next ⟨q, match first with
            | none => (d.setGrd fun g => { g with flashBad := false, opened := none }).gDone 6
            | some (c, x) => (d.record clsGUARD c x 0 blkGRD 0).gAnswer 6 (1 + Config.imageEndStatus c % 5) c [] none⟩))
    ∧ (d.grd.opened = none → exec (.imageBlock r) ⟨q, d⟩ = .next ⟨q, d.gRefuse 5 3 0x00A⟩)
    ∧ (r.payload = [] →
      ∀ sg, sg = (fun data : List Byte => some (leBytes 8 r.nonce.toNat ++ leBytes 16 d.uid ++ data)) → ∀ m, m = ((List.range 8).flatMap fun i =>
          leBytes 8 (d.reg (Reg.GRD_MTR_RUNNS + 8 * i))) ++ leBytes 8 (d.reg Reg.GRD_JOBID) →
      exec (.readMeters r) ⟨q, d⟩ = .next ⟨q, d.gAnswer 0x80 0 0 m (sg m)⟩
      ∧ (∀ x, x = d.grd.meterLog.flatMap MeterEntry.bytes → exec (.readMeterlog r) ⟨q, d⟩ = .next ⟨q, d.gAnswer 0x81 0 0 x (sg x)⟩)
      ∧ ∀ x, x = d.grd.fence.flatMap (leBytes 4) → exec (.readFence r) ⟨q, d⟩ = .next ⟨q, d.gAnswer 0x82 0 0 x (sg x)⟩)))

/-- R549. The codes and layouts are the model's choice where the spec refers to SPDM 1.3 (log entry 96). -/
def Obligations.Attestation : Prop := ∀ (q : List Instr) (d : Dev), d.grd.stage = .run → d.grd.straps.testen = false →
  (d.bootState ∈ [bsROM, bsLOADING, bsVERIFYING, bsRECOVERY, bsLOCKED] → ∀ a h sl o n nn x g,
    ∀ i ∈ [Instr.getVersion, .getCapabilities, .negotiateAlgorithms a h, .getDigests, .getCertificate sl o n, .challenge sl nn,
      .getMeasurements x g nn, .slhSignatureRequest], exec i ⟨q, d⟩ = .next ⟨q, d.emit (.spdm 0x7F [0x05, 0] none)⟩)
  ∧ (d.bootState = bsREADY → ∀ mine, mine = ((List.range 4).flatMap fun i => leBytes 8 (Config.entropy (d.grd.draws + i)).toNat) →
    exec .getVersion ⟨q, d⟩ = .next ⟨q, (d.setGrd fun g => { g with
      spdmA := spdmMsg 0x84 0 0 [] ++ spdmMsg 0x04 0 0 [0x13], spdmB := [], spdmM := [] }).emit (.spdm 0x04 [0x13] none)⟩
    ∧ exec .getCapabilities ⟨q, d⟩ = .next ⟨q, (d.setGrd fun g => { g with
        spdmA := g.spdmA ++ spdmMsg 0xE1 0 0 [] ++ spdmMsg 0x61 0 0 [21, 0x16, 0, 0, 0] }).emit (.spdm 0x61 [21, 0x16, 0, 0, 0] none)⟩
    ∧ (∀ a h bs, bs = leBytes 4 (a &&& 8) ++ leBytes 4 (h &&& 2) → exec (.negotiateAlgorithms a h) ⟨q, d⟩ = .next ⟨q, (d.setGrd fun g =>
        { g with spdmA := g.spdmA ++ spdmMsg 0xE3 0 0 (leBytes 4 a ++ leBytes 4 h) ++ spdmMsg 0x63 0 0 bs }).emit (.spdm 0x63 bs none)⟩)
    ∧ (∀ bs, bs = sha384 (Config.certChain 0) ++ sha384 (Config.certChain 1) → exec .getDigests ⟨q, d⟩ = .next ⟨q, (d.setGrd fun g =>
        { g with spdmB := g.spdmB ++ spdmMsg 0x81 0 0 [] ++ spdmMsg 0x01 0 3 bs }).emit (.spdm 0x01 bs none)⟩)
    ∧ (∀ sl o n bs, sl < 2 → bs = ((Config.certChain sl).drop o).take n → exec (.getCertificate sl o n) ⟨q, d⟩ = .next ⟨q, (d.setGrd fun g =>
        { g with spdmB := g.spdmB ++ spdmMsg 0x82 sl 0 (leBytes 2 o ++ leBytes 2 n) ++ spdmMsg 0x02 sl 0 bs }).emit (.spdm 0x02 bs none)⟩)
    ∧ (∀ sl nn bs t, sl < 2 → bs = sha384 (Config.certChain sl) ++ mine ++ leBytes 2 0 →
        t = d.grd.spdmA ++ d.grd.spdmB ++ spdmMsg 0x83 sl 0 nn ++ spdmMsg 0x03 sl 1 bs → exec (.challenge sl nn) ⟨q, d⟩
          = .next ⟨q, (d.setGrd fun g => { g with draws := g.draws + 4, spdmLast := some t }).emit (.spdm 0x03 bs (some t))⟩)
    ∧ (∀ nn bs, bs = leBytes 1 3 ++ (d.grd.image.drop 20).take 48 ++ mine ++ leBytes 2 0 →
        exec (.getMeasurements 3 false nn) ⟨q, d⟩ = .next ⟨q, (d.setGrd fun g => { g with
          draws := g.draws + 4, spdmM := g.spdmM ++ spdmMsg 0xE0 0 3 [] ++ spdmMsg 0x60 0 0 bs }).emit (.spdm 0x60 bs none)⟩)
    ∧ (∀ nn bs t, bs = leBytes 1 5 ++ sha384 (d.grd.fence.flatMap (leBytes 4)) ++ mine ++ leBytes 2 0 →
        t = d.grd.spdmA ++ (d.grd.spdmM ++ spdmMsg 0xE0 1 5 nn ++ spdmMsg 0x60 0 0 bs) →
        exec (.getMeasurements 5 true nn) ⟨q, d⟩ = .next ⟨q, (d.setGrd fun g => { g with
          draws := g.draws + 4, spdmM := [], spdmLast := some t }).emit (.spdm 0x60 bs (some t))⟩)
    ∧ (∀ x, d.grd.spdmLast = some x → exec .slhSignatureRequest ⟨q, d⟩ = .next ⟨q, d.emit (.slh x)⟩))

/-- R564 to R568, R570. `c` is the device before the request, `d` the same with HSEL_N low; `rq op` is the request
with OP `op`. -/
def Obligations.HarnessRequests : Prop := ∀ (q : List Instr) (c d : Dev) (r : HReq) (rq : Nat → HReq), d = c.setDbg (fun h => { h with sel := true }) →
    (∀ op, rq op = { r with op := op }) →
  exec .harnessDeselect ⟨q, c⟩ = .next ⟨q, c.setDbg fun h => { h with busy := none, sel := false }⟩
  ∧ (d.hOpen = false → exec .harnessTimeout ⟨q, c⟩ = .next ⟨q, c⟩
    ∧ ∀ i ∈ [Instr.harnessStatus r, .harnessHalt r, .harnessResume r, .harnessStep r, .harnessBpset r, .harnessBpclr r,
      .harnessRdreg r, .harnessWrreg r], exec i ⟨q, c⟩ = .next ⟨q, d⟩)
  ∧ (d.hOpen = false → d.calm = true → ∀ i ∈ [Instr.harnessRdmem r, .harnessWrmem r], exec i ⟨q, c⟩ = .next ⟨q, d⟩)
  ∧ (d.hOpen = true →
    (∀ b, c.dbg.busy = some b → exec .harnessTimeout ⟨q, c⟩ = .next ⟨q, c.hAnswer hsTIMEOUT 0⟩)
    ∧ (∀ x ∈ [(Instr.harnessStatus r, 1), (Instr.harnessHalt r, 2), (.harnessResume r, 3), (.harnessStep r, 4), (.harnessBpset r, 5),
        (.harnessBpclr r, 6), (.harnessRdreg r, 7), (.harnessWrreg r, 8), (.harnessRdmem r, 9), (.harnessWrmem r, 10)],
        (9 ≤ x.2 → d.calm = true) →
      (r.op % 2 ^ 8 = 0 ∨ 10 < r.op % 2 ^ 8 → exec x.1 ⟨q, c⟩ = .next ⟨q, d.hAnswer hsBADREQ 0⟩)
      ∧ (0 < r.op % 2 ^ 8 → r.op % 2 ^ 8 ≤ 10 → r.op % 2 ^ 8 ≠ x.2 → exec x.1 ⟨q, c⟩ = .next ⟨q, d⟩))
    ∧ (∀ op right, ∀ x ∈ [(Instr.harnessHalt r, 2, 0), (.harnessResume r, 3, 0), (.harnessStep r, 4, 0), (.harnessBpset r, 5, 0),
        (.harnessBpclr r, 6, 0), (.harnessRdreg r, 7, 0), (.harnessWrreg r, 8, 0), (.harnessRdmem r, 9, 1), (.harnessWrmem r, 10, 2)],
        x.2 = (op, right) → r.op % 2 ^ 8 = op → (9 ≤ op → d.calm = true) →
      (d.flag Reg.DBG_UNLOCK right = false → ∀ s, s = (d.bump Reg.DBG_CNT_LOCKED 1).setDbg (fun h => { h with lockRec := true }) →
        (d.dbg.lockRec = false → exec x.1 ⟨q, c⟩
          = .next ⟨q, (s.record clsGUARD 0x040 (op + r.target % 2 ^ 8 * 2 ^ 8) 0 blkGRD 0).hAnswer hsLOCKED 0⟩)
        ∧ (d.dbg.lockRec = true → exec x.1 ⟨q, c⟩ = .next ⟨q, s.hAnswer hsLOCKED 0⟩))
      ∧ (d.flag Reg.DBG_UNLOCK right = true → r.rsv % 2 ^ 7 ≠ 0 → exec x.1 ⟨q, c⟩ = .next ⟨q, d.hAnswer hsBADREQ 0⟩)
      ∧ (d.flag Reg.DBG_UNLOCK right = true → r.rsv % 2 ^ 7 = 0 → r.target = 0xFF → op < 9 →
          exec x.1 ⟨q, c⟩ = .next ⟨q, d.hAnswer hsBADREQ 0⟩))
    ∧ (r.rsv % 2 ^ 7 = 0 →
      (r.target = 0xFF → exec (.harnessStatus (rq 1)) ⟨q, c⟩
        = .next ⟨q, d.hAnswer hsOK (BitVec.ofNat 64 (2 + 4 * d.fld Reg.DBG_UNLOCK 0 3))⟩)
      ∧ (r.target < 8 → d.alive = true → d.pwr.gated.contains (.core r.target) = false →
        exec (.harnessStatus (rq 1)) ⟨q, c⟩ = .next ⟨q, d.hAnswer hsOK (BitVec.ofNat 64 ((d.coreHalted r.target).toNat + 4 * d.fld Reg.DBG_UNLOCK 0 3))⟩
        ∧ (d.flag Reg.DBG_UNLOCK 0 = true →
          (d.coreHalted r.target = false →
            exec (.harnessHalt (rq 2)) ⟨q, c⟩ = .next ⟨q, ((d.setFlag Reg.DBG_CORES r.target true).coreRan r.target).hAnswer hsOK 0⟩
            ∧ exec (.harnessStep (rq 4)) ⟨q, c⟩ = .next ⟨q, d.hAnswer hsNOTHALTED 0⟩
            ∧ (r.idx ≤ 33 → exec (.harnessRdreg (rq 7)) ⟨q, c⟩ = .next ⟨q, d.hAnswer hsNOTHALTED 0⟩))
          ∧ (d.coreHalted r.target = true →
            exec (.harnessResume (rq 3)) ⟨q, c⟩ = .next ⟨q, ((d.setFlag Reg.DBG_CORES r.target false).coreRan r.target).hAnswer hsOK 0⟩
            ∧ exec (.harnessStep (rq 4)) ⟨q, c⟩ = .next ⟨q, (d.coreRan r.target).hAnswer hsOK 0⟩)
          ∧ (r.idx < 4 → ∃ t u, exec (.harnessBpset (rq 5)) ⟨q, c⟩ = .next ⟨q, t⟩ ∧ (r.target, r.idx, r.addr.toNat) ∈ t.dbg.bps ∧ t.mem = d.mem
              ∧ exec (.harnessBpclr (rq 6)) ⟨q, t⟩ = .next ⟨q, u⟩ ∧ ∀ b ∈ u.dbg.bps, ¬ (b.1 = r.target ∧ b.2.1 = r.idx))
          ∧ (4 ≤ r.idx → ∀ i ∈ [Instr.harnessBpset (rq 5), .harnessBpclr (rq 6)], exec i ⟨q, c⟩ = .next ⟨q, d.hAnswer hsBADREQ 0⟩)
          ∧ (r.idx ≤ 33 → ∃ t, exec (.harnessWrreg (rq 8)) ⟨q, c⟩ = .next ⟨q, t⟩
              ∧ (d.coreHalted r.target = true → exec (.harnessRdreg (rq 7)) ⟨q, t⟩ = .next ⟨q, t.hAnswer hsOK r.data⟩))
          ∧ (33 < r.idx → ∀ i ∈ [Instr.harnessRdreg (rq 7), .harnessWrreg (rq 8)], exec i ⟨q, c⟩ = .next ⟨q, d.hAnswer hsBADREQ 0⟩)))
      ∧ (∀ n, n < 64 → r.target = 0x40 + n → d.alive = true → d.coachOn n = true → d.fld (Reg.CCH_CSTAT n) 0 3 ≠ csPGATED →
          d.flag Reg.DBG_UNLOCK 0 = true →
        (d.seqHalted n = false → d.seqBusy n = false → exec (.harnessHalt (rq 2)) ⟨q, c⟩ = .next ⟨q, (d.seqHalt n).hAnswer hsOK 0⟩)
        ∧ (d.seqHalted n = false → d.seqBusy n = true → exec (.harnessHalt (rq 2)) ⟨q, c⟩ = .next ⟨q, d.setDbg fun h => { h with
            halting := h.halting.filter (· != n) ++ [n], busy := some r.target }⟩)
        ∧ (d.seqHalted n = true → d.seqPos n = none → exec (.harnessResume (rq 3)) ⟨q, c⟩ = .next ⟨q, (d.setDbg fun h => { h with
            halts := h.halts.filter fun x => x.1 != n
            halting := h.halting.filter (· != n)
            steps := h.steps.filter fun x => x.1 != n }).hAnswer hsOK 0⟩)
        ∧ (d.seqHalted n = true → exec (.harnessStep (rq 4)) ⟨q, c⟩ = .next ⟨q, d.setDbg fun h => { h with
            steps := h.steps.filter (fun x => x.1 != n) ++ [(n, false)], busy := some r.target }⟩)
        ∧ (d.seqHalted n = false → d.seqGone n = false → exec (.harnessStep (rq 4)) ⟨q, c⟩ = .next ⟨q, d.hAnswer hsNOTHALTED 0⟩)
        ∧ (d.seqGone n = true → exec (.harnessStep (rq 4)) ⟨q, c⟩ = .next ⟨q, d.hAnswer hsGONE 0⟩)
        ∧ (∀ g x i, d.seqHalted n = true → r.idx = 0 → d.instOn n = some (g, x, i) → exec (.harnessRdreg (rq 7)) ⟨q, c⟩
            = .next ⟨q, (d.setDbg fun h => { h with coreRuns := h.coreRuns + 1 }).hAnswer hsOK (BitVec.ofNat 64 (x.entryAddr i))⟩)
        ∧ exec (.harnessWrreg (rq 8)) ⟨q, c⟩ = .next ⟨q, d.hAnswer hsBADREQ 0⟩)))

/-- R567 to R569; the answer FAULT before memory is zeroed is the model's choice (log entry 190). -/
def Obligations.HarnessMemoryAndHalts : Prop := ∀ (q : List Instr) (d : Dev),
  (∀ r : HReq, d.dbg.sel = true → d.calm = true → d.hOpen = true → d.memOpen = true → r.rsv % 2 ^ 7 = 0 → r.target = 0xFF → r.space = false → r.addr.toNat % 8 = 0 →
    (∀ k, d.flag Reg.DBG_UNLOCK 1 = true → d.xlate r.addr.toNat false = .key k → d.lineOf k = .good → (∀ i < 8, d.heldRegion (jobKey r.addr.toNat + i) = false) →
      exec (.harnessRdmem { r with op := 9 }) ⟨q, d⟩ = .next ⟨q, ((d.touch r.addr.toNat 8).setDbg fun h => { h with coreRuns := h.coreRuns + 1 }).hAnswer hsOK
        (BitVec.ofNat 64 (leNat ((d.touch r.addr.toNat 8).rdJob r.addr.toNat 8)))⟩)
    ∧ (∀ c, d.flag Reg.DBG_UNLOCK 1 = true → d.xlate r.addr.toNat false = .bad c → exec (.harnessRdmem { r with op := 9 }) ⟨q, d⟩ = .next ⟨q, d.hAnswer hsFAULT 0⟩)
    ∧ (∀ k, d.flag Reg.DBG_UNLOCK 2 = true → d.xlate r.addr.toNat true = .key k → d.lineOf k = .good → exec (.harnessWrmem { r with op := 10 }) ⟨q, d⟩
        = .next ⟨q, ((d.touch r.addr.toNat 8).jobWrite 0 r.addr.toNat (leBytes 8 r.data.toNat)).hAnswer hsOK 0⟩)
    ∧ (∀ c, d.flag Reg.DBG_UNLOCK 2 = true → d.xlate r.addr.toNat true = .bad c → exec (.harnessWrmem { r with op := 10 }) ⟨q, d⟩ = .next ⟨q, d.hAnswer hsFAULT 0⟩))
  ∧ (∀ r : HReq, d.dbg.sel = true → d.calm = true → d.hOpen = true → r.rsv % 2 ^ 7 = 0 → r.addr.toNat % 8 ≠ 0 →
      (d.flag Reg.DBG_UNLOCK 1 = true → exec (.harnessRdmem { r with op := 9 }) ⟨q, d⟩ = .next ⟨q, d.hAnswer hsBADREQ 0⟩)
      ∧ (d.flag Reg.DBG_UNLOCK 2 = true → exec (.harnessWrmem { r with op := 10 }) ⟨q, d⟩ = .next ⟨q, d.hAnswer hsBADREQ 0⟩))
  ∧ (∀ (r : HReq) n, d.dbg.sel = true → d.calm = true → d.hOpen = true → r.rsv % 2 ^ 7 = 0 → r.addr.toNat % 8 = 0 → r.space = true → n < 64 → r.target = 0x40 + n → d.alive = true →
      d.coachOn n = true → d.fld (Reg.CCH_CSTAT n) 0 3 ≠ csPGATED → d.flag Reg.DBG_UNLOCK 2 = true →
      (r.addr.toNat + 8 ≤ csSize → d.memOpen = true → exec (.harnessWrmem { r with op := 10 }) ⟨q, d⟩
        = .next ⟨q, (d.csWrite n r.addr.toNat (leBytes 8 r.data.toNat)).hAnswer hsOK 0⟩)
      ∧ (csSize < r.addr.toNat + 8 → exec (.harnessWrmem { r with op := 10 }) ⟨q, d⟩ = .next ⟨q, d.hAnswer hsFAULT 0⟩)
      ∧ (d.csBad n [(r.addr.toNat, 8)] .ue ≠ [] → d.flag Reg.DBG_UNLOCK 1 = true →
        exec (.harnessRdmem { r with op := 9 }) ⟨q, d⟩ = .next ⟨q, d.hAnswer hsFAULT 0⟩))
  ∧ (∀ r : HReq, d.dbg.sel = true → d.calm = true → d.hOpen = true → d.memOpen = false → r.rsv % 2 ^ 7 = 0 → r.target = 0xFF → r.space = false → r.addr.toNat % 8 = 0 →
      (d.flag Reg.DBG_UNLOCK 1 = true → exec (.harnessRdmem { r with op := 9 }) ⟨q, d⟩ = .next ⟨q, d.hAnswer hsFAULT 0⟩)
      ∧ (d.flag Reg.DBG_UNLOCK 2 = true → exec (.harnessWrmem { r with op := 10 }) ⟨q, d⟩ = .next ⟨q, d.hAnswer hsFAULT 0⟩))
  ∧ (d.alive = true →
    (∀ n, d.seqBusy n = false →
      (d.dbg.steps.contains (n, true) = false → d.dbg.halting.contains n = true → d.dbg.busy = some (0x40 + n) →
        exec (.sequencerHaltComplete n) ⟨q, d⟩ = .next ⟨q, (d.seqHalt n).hAnswer hsOK 0⟩)
      ∧ (d.dbg.steps.contains (n, true) = true → d.dbg.busy = some (0x40 + n) → exec (.sequencerHaltComplete n) ⟨q, d⟩
        = .next ⟨q, (d.setDbg fun h => { h with steps := h.steps.filter fun x => x.1 != n }).hAnswer
            (if d.seqHalted n then hsOK else hsGONE) 0⟩))
    ∧ (∀ n p, n < 64 → d.seqPos n = some p → d.seqBp n p.addr = true → d.dbg.passes = [] → d.dbg.steps = [] → d.seqHalted n = false →
        exec (.breakpointHit (0x40 + n)) ⟨q, d⟩ = .next ⟨q, d.seqHalt n⟩)
    ∧ (∀ n, n < 8 → d.pwr.gated.contains (.core n) = false → d.coreHalted n = false → d.dbg.bps.any (fun b => b.1 == n) = true →
        ∃ t b, exec (.breakpointHit n) ⟨q, d⟩ = .next ⟨q, t⟩ ∧ b ∈ d.dbg.bps ∧ b.1 = n ∧ t.coreHalted n = true
          ∧ t.coreReg n 32 = BitVec.ofNat 64 b.2.2 ∧ t.mem = d.mem))

/-- R13, R15, R17, R18, R361, R450, R557, R591. -/
def Obligations.RegisterAccesses : Prop := ∀ (q : List Instr) (d : Dev) (v : Word64),
  (∀ ag off r, d.reaches ag off = true → findRow off = some r →
    (r.width = 32 → off % 4 = 0 → exec (.registerWrite ag 0 off 32 v) ⟨q, d⟩ = .next ⟨q, d.writeReg ag off (v.toNat % 2 ^ 32)⟩)
    ∧ (r.width = 64 → off % 8 = 0 → exec (.registerWrite ag 0 off 64 v) ⟨q, d⟩ = .next ⟨q, d.writeReg ag off v.toNat⟩))
  ∧ (d.barOpen Reg.PWC_THR = true → v.toNat < 2 ^ 15 → ∃ t, exec (.registerWrite .host 0 Reg.PWC_THR 32 v) ⟨q, d⟩ = .next ⟨q, t⟩
      ∧ t.fld Reg.PWC_THR 0 8 = bits v.toNat 0 8 ∧ t.fld Reg.PWC_THR 8 7 = d.fld Reg.PWC_THR 8 7
      ∧ (bits v.toNat 8 7 = d.fld Reg.PWC_THR 8 7 → t.log = d.log)
      ∧ (bits v.toNat 8 7 ≠ d.fld Reg.PWC_THR 8 7 → d.Recorded t clsHOST 0x006 Reg.PWC_THR 0 blkPWC 0))
  ∧ (d.grd.stage = .run → v.toNat < 2 ^ 15 → ∃ t, exec (.registerWrite .guard 0 Reg.PWC_THR 32 v) ⟨q, d⟩ = .next ⟨q, t⟩
      ∧ t.fld Reg.PWC_THR 0 15 = v.toNat ∧ t.log = d.log)
  ∧ (d.barOpen Reg.PWC_VID = true → v.toNat % 16 = 0 → exec (.registerWrite .host 0 Reg.PWC_VID 32 v) ⟨q, d⟩
      = .next ⟨q, d.record clsHOST 0x004 Reg.PWC_VID 0 blkPWC 0⟩)
  ∧ (∀ off width, d.barOpen off = false → exec (.registerWrite .host 0 off width v) ⟨q, d⟩ = .next ⟨q, d⟩
      ∧ (alignedAccess off width = true → exec (.lowWordReadLatch .host off width) ⟨q, d⟩ = .next ⟨q, d.emit (.readData off 0)⟩))
  ∧ (∀ off size, d.barOpen off = true → size ∈ [1, 2, 4, 8] → alignedAccess off (8 * size) = false → off < 2 ^ 26 →
      exec (.misalignedAccess .host 0 off size true) ⟨q, d⟩ = .next ⟨q, d.record clsHOST 0x005 off 0 (blockAt off) 0⟩
      ∧ (4 < off % 4 + size ∨ 4 ≤ size → exec (.misalignedAccess .host 0 off size false) ⟨q, d⟩
          = .next ⟨q, (d.record clsHOST 0x005 off 0 (blockAt off) 0).emit (.readData off 0)⟩)
      ∧ (∀ s w, size < 4 → off % 4 + size ≤ 4 → d.readWord .host (off / 4 * 4) = (s, w) →
          exec (.misalignedAccess .host 0 off size false) ⟨q, d⟩
            = .next ⟨q, s.emit (.readData off (BitVec.ofNat 64 (bits w (8 * (off % 4)) (8 * size))))⟩))
  ∧ (∀ r, r < 256 → d.alive = true → d.flag Reg.HST_STAT 0 = true →
      exec (.registerWrite .host 2 (4096 * r) 32 v) ⟨q, d⟩ = exec (.doorbellSqtail r (v.toNat % 2 ^ 32)) ⟨q, d⟩
      ∧ exec (.registerWrite .host 2 (4096 * r + 4) 32 v) ⟨q, d⟩ = exec (.doorbellCqhead r (v.toNat % 2 ^ 32)) ⟨q, d⟩
      ∧ exec (.registerWrite .host 2 (4096 * r) 64 v) ⟨q, d⟩
          = .next ⟨q, d.record clsHOST 0x005 (4096 * r + 2 ^ 31) 0 blkHST r⟩)
  ∧ (d.barOpen Reg.STG_CNT_CRC = true → exec (.counterRead .host Reg.STG_CNT_CRC 64) ⟨q, d⟩
      = .next ⟨q, Dev.emit { d with stg := { d.stg with onceCrc := [] } }
          (.readData Reg.STG_CNT_CRC (BitVec.ofNat 64 (d.reg Reg.STG_CNT_CRC)))⟩)
  ∧ (d.barOpen Reg.ERR_HEAD = true → ∀ w : Word32, w.toNat < 4096 →
      ((w.toNat + 4096 - d.fld Reg.ERR_HEAD 0 12) % 4096 ≤ (d.fld Reg.ERR_TAIL 0 12 + 4096 - d.fld Reg.ERR_HEAD 0 12) % 4096 →
        exec (.errHeadWrite w) ⟨q, d⟩ = .next ⟨q, d.setReg Reg.ERR_HEAD w.toNat⟩)
      ∧ ((d.fld Reg.ERR_TAIL 0 12 + 4096 - d.fld Reg.ERR_HEAD 0 12) % 4096 < (w.toNat + 4096 - d.fld Reg.ERR_HEAD 0 12) % 4096 →
        exec (.errHeadWrite w) ⟨q, d⟩ = .next ⟨q, d.record clsHOST 0x004 Reg.ERR_HEAD 0 16 0⟩))

/-- R14. No register of the map begins inside another, which the premise on b + 4 says of this one. -/
def Obligations.HalvesOf64BitRegisters : Prop := ∀ (q : List Instr) (d e : Dev) (ag : Agent) (b : Nat) (r : RegRow) (lo hi : Word64),
  findRow b = some r → r.width = 64 → findRow (b + 4) = none → b % 8 = 0 → d.reaches ag b = true → e.reaches ag (b + 4) = true →
  (∃ t, exec (.registerWrite ag 0 b 32 lo) ⟨q, d⟩ = .next ⟨q, t⟩ ∧ t = { d with wlatch := t.wlatch }
    ∧ (e.wlatch = t.wlatch → exec (.registerWrite ag 0 (b + 4) 32 hi) ⟨q, e⟩
        = .next ⟨q, (Dev.writeReg { e with wlatch := e.wlatch.filter fun l => !(l.agent == ag && l.off == b) } ag b
            (lo.toNat % 2 ^ 32 + hi.toNat % 2 ^ 32 * 2 ^ 32)).accessAt e.log.seq (b + 4)⟩))
  ∧ (∃ t, exec (.lowWordReadLatch ag b 32) ⟨q, d⟩ = .next ⟨q, t⟩
    ∧ t.outs = d.outs ++ [.readData b (BitVec.ofNat 64 (d.view b % 2 ^ 32))]
    ∧ (e.rlatch = t.rlatch → ∃ u, exec (.lowWordReadLatch ag (b + 4) 32) ⟨q, e⟩ = .next ⟨q, u⟩
        ∧ u.outs = e.outs ++ [.readData (b + 4) (BitVec.ofNat 64 (d.view b / 2 ^ 32 % 2 ^ 32))]))

/-- R19. -/
def Obligations.UnassignedOffsets : Prop := ∀ (q : List Instr) (d : Dev) (ag : Agent) (off : Nat) (v : Word64), coverReg off = none →
  (off % 4 = 0 → exec (.registerWrite ag 0 off 32 v) ⟨q, d⟩ = .next ⟨q, d⟩
    ∧ exec (.lowWordReadLatch ag off 32) ⟨q, d⟩ = .next ⟨q, d.emit (.readData off 0)⟩
    ∧ exec (.counterRead ag off 32) ⟨q, d⟩ = .next ⟨q, d.emit (.readData off 0)⟩
    ∧ ∀ k size, 0 < size → size < 4 → k + size ≤ 4 →
        exec (.misalignedAccess ag 0 (off + k) size false) ⟨q, d⟩ = .next ⟨q, d.emit (.readData (off + k) 0)⟩)
  ∧ (off % 8 = 0 → coverReg (off + 4) = none → exec (.registerWrite ag 0 off 64 v) ⟨q, d⟩ = .next ⟨q, d⟩
    ∧ exec (.lowWordReadLatch ag off 64) ⟨q, d⟩ = .next ⟨q, d.emit (.readData off 0)⟩
    ∧ exec (.counterRead ag off 64) ⟨q, d⟩ = .next ⟨q, d.emit (.readData off 0)⟩)

/-- The step of a block; the passing of time on an empty queue is the model's choice (log entry 2). -/
def Obligations.StepTakesTheFront : Prop := ∀ (c : Instr) (cs : List Instr) (d : Dev),
  step ⟨c :: cs, d⟩ = exec c ⟨cs, d⟩ ∧ step ⟨[], d⟩ = .next ⟨[], d.tick⟩

/-- R274, R528, R531, R558; the lifecycle state is the model's choice (log entry 9). -/
def Obligations.ResetState : Prop := ∀ d, d = State.reset.dev →
  State.reset.pending = [] ∧ d.mem = [] ∧ d.cmds = [] ∧ d.dying = [] ∧ d.pt = [] ∧ d.log.slots = [] ∧ d.rings = [] ∧ d.col.groups = []
    ∧ d.liv.barrows = [] ∧ d.mmf.reqs = [] ∧ d.tiers.moves = [] ∧ d.canonical = true ∧ d.grd.stage = .held 1 ∧ d.alive = false
    ∧ d.jobState = jIDLE ∧ d.fld Reg.GRD_RESETCAUSE 0 4 = 1 ∧ d.fld Reg.PWC_STAT 0 4 = 8 ∧ d.fld Reg.PWC_THR 0 8 = 50
    ∧ d.fld Reg.PWC_THR 8 7 = 100 ∧ d.fld Reg.PWC_GATECFG 0 16 = 100 ∧ d.fld Reg.PWC_SLEW 0 7 = 16
    ∧ d.fld Reg.GRD_LIFECYCLE 0 3 = 2 ∧ d.fld Reg.GRD_LIFECYCLE 8 6 = 0
    ∧ ∀ k, k ≠ Reg.GRD_LIFECYCLE → k ≠ Reg.GRD_RESETCAUSE → d.reg k = regReset k % 2 ^ 64

/-- R217, R219, R476, R594. -/
def Obligations.HeaderChecksAtArm : Prop := ∀ (q : List Instr) (d : Dev) (src : Source) (l : Line) (i : Instr) (op : Nat), d.alive = true →
  d.calm = true →
  ((i, op) ∈ [(Instr.gform src l, 0x0300), (.gdissolve src l, 0x0301), (.move src l, 0x0400), (.mfx src l, 0x0500), (.matomic src l, 0x0501),
      (.sloop src l, 0x0600), (.sstop src l, 0x0601), (.jadmit src l, 0x0700)]
    ∨ (i = .runprog src l ∧ op = 0x0105 ∧ d.teams < 16) ∨ (i = .jlaunch src l ∧ op = 0x0701 ∧ d.job.launch = none)
    ∨ (i = .jorderEnd src l ∧ op = 0x0702 ∧ d.job.ownReq = none ∧ lnum l 16 1 = 3)
    ∨ (i = .junitParkPostilion src l ∧ op = 0x0703 ∧ juAction l = 2)) →
  dOp l = op →
  (dClass l ≠ classOf op → exec i ⟨q, d⟩ = .next ⟨q, d.refuse src l ⟨clsJOB, 0x042, dClass l⟩⟩)
  ∧ (dClass l = classOf op →
    (d.jobState = jSCRUBBING ∨ (d.jobState = jIDLE ∧ op < 0x0700) →
      exec i ⟨q, d⟩ = .next ⟨q, d.refuse src l ⟨clsJOB, 0x001, op + d.jobState * 2 ^ 16⟩⟩)
    ∧ (d.jobState = jRUNNING → op ≠ 0x0701 →
      (lfield l 2 2 6 ≠ 0 → exec i ⟨q, d⟩ = .next ⟨q, d.refuse src l ⟨clsJOB, 0x041, 2⟩⟩)
      ∧ (lfield l 2 2 6 = 0 → lfield l 3 4 4 ≠ 0 → exec i ⟨q, d⟩ = .next ⟨q, d.refuse src l ⟨clsJOB, 0x041, 3⟩⟩)
      ∧ (lfield l 2 2 6 = 0 → lfield l 3 4 4 = 0 → ctrOk (dHand l) = false →
          exec i ⟨q, d⟩ = .next ⟨q, d.refuse src l ⟨clsJOB, 0x041, 8⟩⟩)))

/-- R429, R432, R434, R446; the form of the wait is the model's choice (log entry 236). -/
def Obligations.StepsThatWait : Prop := ∀ (q q' : List Instr) (d t : Dev) (g n x y z : Nat) (b : Bool) (src : Source) (l : Line) (c : Carriage)
    (k : Option (List FillFault)) (p : PassStart) (bs : List Byte) (o : Option Line) (i : Instr),
  i ∈ [Instr.routepass src l, .routepassWaitSatisfied g, .postilionShareDispatch n, .routeReductionComplete g n, .scatterCommit g,
      .exchange src l, .exchangeFixSlots g, .exchangeStepStart g, .unpackSegment g n, .returnExchangeStart g, .combineReturnRecord g n x,
      .matmul n, .gexpert n, .compress n, .vector n, .copy n, .arrayPassStart p, .residueVerdict n k, .runprog src l, .instStart n,
      .wait n, .waitSatisfied n, .signal n, .signalTeamFire g, .take n, .takeq n, .takeAnswer n b, .takeTimeout n, .progEnd n,
      .commandCommit g, .killComplete g, .timetableStart, .timetableEntryTrigger, .gform src l, .shift src l, .permute src l,
      .alltoall src l, .allreduce src l, .collectiveAdmit g, .offer c, .ticket c, .ticketGrant g n x, .chunkReceive c, .compl c,
      .missing c, .offerRepeat g, .linkDownRetransmit n, .chunkCompletionTimeout g x y z, .gapTimeout g n, .load c, .atomic c,
      .bulkrd c, .requestTimeout n, .bulkChunkTimeout n g x, .hostHdmRead n b, .hostHdmWrite n bs, .bisnpResponse n o, .sloop src l,
      .sstop src l, .frameQueuePoll, .loopFrameStart, .loopEmptyStep, .loopStepComplete, .jlaunch src l, .carriageArrival n] →
  exec i ⟨q, d⟩ = .next ⟨q', t⟩ → t.tiers.stalls ≠ d.tiers.stalls →
  q' = q
  ∧ t = { d with
      regs := t.regs, outs := t.outs
      tiers := { d.tiers with snoops := t.tiers.snoops, stalls := t.tiers.stalls }
      mmf := { d.mmf with reqs := t.mmf.reqs, queue := t.mmf.queue, nextTag := t.mmf.nextTag }
      stg := { d.stg with outbox := t.stg.outbox } }
  ∧ (∀ k, k ∉ [Reg.HST_CNT_BISNP, Reg.MMF_CNT_REQTX, Reg.MMF_CNT_RETRY] → t.reg k = d.reg k)

/-- R525, R532, R533, R577. -/
def Obligations.DarkDeviceStaysDark : Prop := ∀ s : State, s.dev.alive = false → (∀ c ∈ s.pending, early c = false) →
  ∃ t, step s = .next t ∧ t.dev.alive = false ∧ (∀ c ∈ t.pending, early c = false)
    ∧ (s.pending ≠ [] → t.dev = s.dev ∧ t.pending = s.pending.tail)
    ∧ (s.pending = [] → t.pending = [] ∧ t.dev.mem = s.dev.mem ∧ t.dev.pt = s.dev.pt ∧ t.dev.cmds = s.dev.cmds ∧ t.dev.outs = s.dev.outs
        ∧ t.dev.log = s.dev.log ∧ ∀ k, k ≠ Reg.TPK_TIME → t.dev.reg k = s.dev.reg k)
end

