-- ==== Sys2Proof/Laws/Sparse.lean ====
section
/-! SUPPORT. Laws of sparse tables and of bit fields: read after write, other places unchanged, the canonical form kept. -/
namespace Sys2Proof.Machine

section
variable {α : Type} [DecidableEq α] (d : Nat → α)

omit [DecidableEq α] in
theorem Sparse.get_erase_same (m : List (Nat × α)) (k : Nat) : Sparse.get d (Sparse.erase m k) k = d k := by
  induction m with
  | nil => rfl
  | cons e m ih =>
    obtain ⟨j, v⟩ := e
    by_cases h : k = j <;> simp [Sparse.erase, Sparse.get, h] <;> first | (subst h; exact ih) | exact ih

omit [DecidableEq α] in
theorem Sparse.get_erase_ne (m : List (Nat × α)) {k k' : Nat} (h : k' ≠ k) :
    Sparse.get d (Sparse.erase m k) k' = Sparse.get d m k' := by
  induction m with
  | nil => rfl
  | cons e m ih =>
    obtain ⟨j, v⟩ := e
    by_cases hj : k = j
    · subst hj; simp [Sparse.erase, Sparse.get, h, ih]
    · by_cases hk : k' = j <;> simp [Sparse.erase, Sparse.get, hj, hk, ih]

omit [DecidableEq α] in
theorem Sparse.get_insert_ne (m : List (Nat × α)) {k k' : Nat} (v : α) (h : k' ≠ k) :
    Sparse.get d (Sparse.insert m k v) k' = Sparse.get d m k' := by
  induction m with
  | nil => simp [Sparse.insert, Sparse.get, h]
  | cons e m ih =>
    obtain ⟨j, w⟩ := e
    by_cases hj : k < j
    · simp [Sparse.insert, Sparse.get, hj, h]
    · simp [Sparse.insert, Sparse.get, hj, ih]

omit [DecidableEq α] in
theorem Sparse.get_insert_same (m : List (Nat × α)) (k : Nat) (v : α) :
    Sparse.get d (Sparse.insert (Sparse.erase m k) k v) k = v := by
  induction m with
  | nil => simp [Sparse.insert, Sparse.erase, Sparse.get]
  | cons e m ih =>
    obtain ⟨j, w⟩ := e
    by_cases hj : k = j
    · subst hj; simpa [Sparse.erase] using ih
    · by_cases hl : k < j
      · simp [Sparse.erase, Sparse.insert, Sparse.get, hj, hl]
      · simp [Sparse.erase, Sparse.insert, Sparse.get, hj, hl, ih]

/-- A table read where it was written gives the value written. -/
@[simp] theorem Sparse.get_put_same (m : List (Nat × α)) (k : Nat) (v : α) : Sparse.get d (Sparse.put d m k v) k = v := by
  unfold Sparse.put
  split
  · rename_i h; rw [Sparse.get_erase_same, h]
  · exact Sparse.get_insert_same d m k v

/-- A write leaves every other place of a table as it was. -/
theorem Sparse.get_put_ne (m : List (Nat × α)) {k k' : Nat} (v : α) (h : k' ≠ k) :
    Sparse.get d (Sparse.put d m k v) k' = Sparse.get d m k' := by
  unfold Sparse.put
  split
  · exact Sparse.get_erase_ne d m h
  · rw [Sparse.get_insert_ne d _ v h, Sparse.get_erase_ne d m h]

theorem Sparse.wfFrom_mono {lo lo' : Nat} (h : lo' ≤ lo) {m : List (Nat × α)} (hm : Sparse.wfFrom d lo m = true) :
    Sparse.wfFrom d lo' m = true := by
  cases m with
  | nil => rfl
  | cons e m =>
    simp only [Sparse.wfFrom, Bool.and_eq_true, decide_eq_true_eq] at hm ⊢
    exact ⟨⟨by omega, hm.1.2⟩, hm.2⟩

theorem Sparse.wfFrom_filter (p : Nat × α → Bool) {lo : Nat} {m : List (Nat × α)} (hm : Sparse.wfFrom d lo m = true) :
    Sparse.wfFrom d lo (m.filter p) = true := by
  induction m generalizing lo with
  | nil => rfl
  | cons e m ih =>
    simp only [Sparse.wfFrom, Bool.and_eq_true, decide_eq_true_eq] at hm
    by_cases hp : p e = true
    · simp only [List.filter_cons, hp, ↓reduceIte, Sparse.wfFrom, Bool.and_eq_true, decide_eq_true_eq]
      exact ⟨hm.1, ih hm.2⟩
    · simp only [List.filter_cons, hp, Bool.false_eq_true, ↓reduceIte]
      exact ih (Sparse.wfFrom_mono d (by omega) hm.2)

/-- What is left of a canonical table is canonical. -/
theorem Sparse.wf_filter (p : Nat × α → Bool) {m : List (Nat × α)} (hm : Sparse.wf d m = true) :
    Sparse.wf d (m.filter p) = true := Sparse.wfFrom_filter d p hm

theorem Sparse.wfFrom_erase {lo : Nat} {m : List (Nat × α)} (k : Nat) (hm : Sparse.wfFrom d lo m = true) :
    Sparse.wfFrom d lo (Sparse.erase m k) = true := by
  induction m generalizing lo with
  | nil => rfl
  | cons e m ih =>
    obtain ⟨j, v⟩ := e
    simp only [Sparse.wfFrom, Bool.and_eq_true, decide_eq_true_eq] at hm
    by_cases h : k = j
    · simp only [Sparse.erase, h, ↓reduceIte]
      exact h ▸ ih (Sparse.wfFrom_mono d (by omega : lo ≤ j + 1) hm.2)
    · simp only [Sparse.erase, h, ↓reduceIte, Sparse.wfFrom, Bool.and_eq_true, decide_eq_true_eq]
      exact ⟨hm.1, ih hm.2⟩

omit [DecidableEq α] in
/-- No entry of an erased table has the key. -/
theorem Sparse.erase_ne {m : List (Nat × α)} {k : Nat} {e : Nat × α} (h : e ∈ Sparse.erase m k) : e.1 ≠ k := by
  induction m with
  | nil => simp [Sparse.erase] at h
  | cons x m ih =>
    obtain ⟨j, v⟩ := x
    by_cases hj : k = j
    · simp only [Sparse.erase, hj, ↓reduceIte] at h; exact hj ▸ ih (hj ▸ h)
    · simp only [Sparse.erase, hj, ↓reduceIte, List.mem_cons] at h
      rcases h with rfl | h
      · exact fun hk => hj hk.symm
      · exact ih h

theorem Sparse.wfFrom_insert {lo : Nat} {m : List (Nat × α)} {k : Nat} {v : α} (hk : lo ≤ k) (hv : v ≠ d k)
    (hne : ∀ e ∈ m, e.1 ≠ k) (hm : Sparse.wfFrom d lo m = true) : Sparse.wfFrom d lo (Sparse.insert m k v) = true := by
  induction m generalizing lo with
  | nil => simp [Sparse.insert, Sparse.wfFrom, hk, hv]
  | cons e m ih =>
    obtain ⟨j, w⟩ := e
    simp only [Sparse.wfFrom, Bool.and_eq_true, decide_eq_true_eq] at hm
    have hj : j ≠ k := hne (j, w) (by simp)
    by_cases h : k < j
    · simp only [Sparse.insert, h, ↓reduceIte, Sparse.wfFrom, Bool.and_eq_true, decide_eq_true_eq]
      exact ⟨⟨hk, hv⟩, ⟨⟨by omega, hm.1.2⟩, hm.2⟩⟩
    · simp only [Sparse.insert, h, ↓reduceIte, Sparse.wfFrom, Bool.and_eq_true, decide_eq_true_eq]
      exact ⟨hm.1, ih (by omega) (fun e he => hne e (by simp [he])) hm.2⟩

/-- A write keeps the canonical form. -/
theorem Sparse.wf_put {m : List (Nat × α)} (k : Nat) (v : α) (hm : Sparse.wf d m = true) :
    Sparse.wf d (Sparse.put d m k v) = true := by
  unfold Sparse.put
  split
  · exact Sparse.wfFrom_erase d k hm
  · rename_i hv
    exact Sparse.wfFrom_insert d (Nat.zero_le _) hv (fun e he => Sparse.erase_ne he) (Sparse.wfFrom_erase d k hm)

end

/-! ### Bit fields -/

theorem bits_lt (x lo w : Nat) : bits x lo w < 2 ^ w := Nat.mod_lt _ (by positivity)

theorem setBits_eq (x lo w v : Nat) :
    setBits x lo w v = x / 2 ^ (lo + w) * 2 ^ (lo + w) + v % 2 ^ w * 2 ^ lo + x % 2 ^ lo := by
  unfold setBits bits
  have h1 := Nat.div_add_mod x (2 ^ lo)
  have h2 := Nat.div_add_mod (x / 2 ^ lo) (2 ^ w)
  have h3 : x / 2 ^ (lo + w) = x / 2 ^ lo / 2 ^ w := by rw [pow_add, Nat.div_div_eq_div_mul]
  rw [h3, pow_add]
  generalize x / 2 ^ lo = q at *
  generalize x % 2 ^ lo = r at *
  generalize q / 2 ^ w = a at *
  generalize q % 2 ^ w = b at *
  have : x = a * (2 ^ lo * 2 ^ w) + b * 2 ^ lo + r := by rw [← h1, ← h2]; ring
  rw [this]
  omega

/-- A field that was written reads what was written. -/
theorem bits_setBits_same (x lo w v : Nat) : bits (setBits x lo w v) lo w = v % 2 ^ w := by
  rw [setBits_eq]; unfold bits
  have h2 : (x / 2 ^ (lo + w) * 2 ^ (lo + w) + v % 2 ^ w * 2 ^ lo + x % 2 ^ lo) / 2 ^ lo
      = x / 2 ^ (lo + w) * 2 ^ w + v % 2 ^ w := by
    rw [pow_add]
    have : x / (2 ^ lo * 2 ^ w) * (2 ^ lo * 2 ^ w) + v % 2 ^ w * 2 ^ lo + x % 2 ^ lo
        = x % 2 ^ lo + (x / (2 ^ lo * 2 ^ w) * 2 ^ w + v % 2 ^ w) * 2 ^ lo := by ring
    rw [this, Nat.add_mul_div_right _ _ (by positivity), Nat.div_eq_of_lt (Nat.mod_lt _ (by positivity))]
    omega
  rw [h2, Nat.mul_add_mod_self_right, Nat.mod_mod]

/-- A write of a field leaves a field below it as it was. -/
theorem bits_setBits_below (x lo w v : Nat) {lo' w' : Nat} (h : lo' + w' ≤ lo) :
    bits (setBits x lo w v) lo' w' = bits x lo' w' := by
  have key : ∀ y : Nat, bits y lo' w' = y % 2 ^ lo / 2 ^ lo' % 2 ^ w' := by
    intro y
    unfold bits
    obtain ⟨c, rfl⟩ := Nat.exists_eq_add_of_le h
    rw [show lo' + w' + c = lo' + (w' + c) from by ring, pow_add, Nat.mod_mul_right_div_self, pow_add,
      Nat.mod_mul_right_mod]
  rw [key, key x, setBits_eq]
  congr 2
  have : x / 2 ^ (lo + w) * 2 ^ (lo + w) + v % 2 ^ w * 2 ^ lo + x % 2 ^ lo
      = (x / 2 ^ (lo + w) * 2 ^ w + v % 2 ^ w) * 2 ^ lo + x % 2 ^ lo := by rw [pow_add]; ring
  rw [this, Nat.mul_add_mod_self_right, Nat.mod_mod]

/-- A write of a field leaves a field above it as it was. -/
theorem bits_setBits_above (x lo w v : Nat) {lo' w' : Nat} (h : lo + w ≤ lo') :
    bits (setBits x lo w v) lo' w' = bits x lo' w' := by
  unfold bits
  congr 1
  obtain ⟨c, rfl⟩ := Nat.exists_eq_add_of_le h
  rw [pow_add, ← Nat.div_div_eq_div_mul, ← Nat.div_div_eq_div_mul]
  congr 1
  rw [setBits_eq]
  have hlt : v % 2 ^ w * 2 ^ lo + x % 2 ^ lo < 2 ^ (lo + w) := by
    have h1 : v % 2 ^ w + 1 ≤ 2 ^ w := Nat.mod_lt _ (by positivity)
    have h2 : x % 2 ^ lo < 2 ^ lo := Nat.mod_lt _ (by positivity)
    have h3 : (v % 2 ^ w + 1) * 2 ^ lo ≤ 2 ^ w * 2 ^ lo := Nat.mul_le_mul_right _ h1
    rw [pow_add, Nat.mul_comm (2 ^ lo)]
    nlinarith
  rw [Nat.add_assoc, Nat.add_comm, Nat.add_mul_div_right _ _ (by positivity), Nat.div_eq_of_lt hlt]
  omega

/-- A field of a value taken modulo 2^n, where the field lies below bit n. -/
theorem bits_mod (x : Nat) {lo w n : Nat} (h : lo + w ≤ n) : bits (x % 2 ^ n) lo w = bits x lo w := by
  unfold bits
  obtain ⟨c, rfl⟩ := Nat.exists_eq_add_of_le h
  rw [show lo + w + c = lo + (w + c) from by ring, pow_add, Nat.mod_mul_right_div_self, pow_add, Nat.mod_mul_right_mod]

/-- A bit is the field of one bit. -/
theorem bit_eq_bits (x i : Nat) : bit x i = (bits x i 1 == 1) := by
  unfold bit bits
  rw [Nat.testBit_eq_decide_div_mod_eq]
  simp only [pow_one, beq_eq_decide]

end Sys2Proof.Machine
end

