-- ==== Sys2Proof/Laws/State.lean ====
section
/-! SUPPORT. One lemma per field of the device per update: what the named operations leave alone. -/
namespace Sys2Proof.Machine

variable (s : Dev)


@[simp] theorem Dev.setReg_wlatch (off v : Nat) : (s.setReg off v).wlatch = s.wlatch := rfl
@[simp] theorem Dev.setReg_rlatch (off v : Nat) : (s.setReg off v).rlatch = s.rlatch := rfl
@[simp] theorem Dev.setReg_mem (off v : Nat) : (s.setReg off v).mem = s.mem := rfl
@[simp] theorem Dev.setReg_bad (off v : Nat) : (s.setReg off v).bad = s.bad := rfl
@[simp] theorem Dev.setReg_pt (off v : Nat) : (s.setReg off v).pt = s.pt := rfl
@[simp] theorem Dev.setReg_genNext (off v : Nat) : (s.setReg off v).genNext = s.genNext := rfl
@[simp] theorem Dev.setReg_cmds (off v : Nat) : (s.setReg off v).cmds = s.cmds := rfl
@[simp] theorem Dev.setReg_dying (off v : Nat) : (s.setReg off v).dying = s.dying := rfl
@[simp] theorem Dev.setReg_log (off v : Nat) : (s.setReg off v).log = s.log := rfl
@[simp] theorem Dev.setReg_outs (off v : Nat) : (s.setReg off v).outs = s.outs := rfl
@[simp] theorem Dev.setReg_rings (off v : Nat) : (s.setReg off v).rings = s.rings := rfl
@[simp] theorem Dev.setReg_liv (off v : Nat) : (s.setReg off v).liv = s.liv := rfl
@[simp] theorem Dev.setReg_tiers (off v : Nat) : (s.setReg off v).tiers = s.tiers := rfl
@[simp] theorem Dev.setReg_hitches (off v : Nat) : (s.setReg off v).hitches = s.hitches := rfl
@[simp] theorem Dev.setReg_stg (off v : Nat) : (s.setReg off v).stg = s.stg := rfl
@[simp] theorem Dev.setReg_tpk (off v : Nat) : (s.setReg off v).tpk = s.tpk := rfl
@[simp] theorem Dev.setReg_col (off v : Nat) : (s.setReg off v).col = s.col := rfl
@[simp] theorem Dev.setReg_landed (off v : Nat) : (s.setReg off v).landed = s.landed := rfl
@[simp] theorem Dev.setReg_mmf (off v : Nat) : (s.setReg off v).mmf = s.mmf := rfl
@[simp] theorem Dev.setReg_cch (off v : Nat) : (s.setReg off v).cch = s.cch := rfl
@[simp] theorem Dev.setReg_job (off v : Nat) : (s.setReg off v).job = s.job := rfl
@[simp] theorem Dev.setReg_srv (off v : Nat) : (s.setReg off v).srv = s.srv := rfl
@[simp] theorem Dev.setReg_dbg (off v : Nat) : (s.setReg off v).dbg = s.dbg := rfl
@[simp] theorem Dev.setReg_ns (off v : Nat) : (s.setReg off v).ns = s.ns := rfl
@[simp] theorem Dev.setReg_pwr (off v : Nat) : (s.setReg off v).pwr = s.pwr := rfl
@[simp] theorem Dev.setReg_grd (off v : Nat) : (s.setReg off v).grd = s.grd := rfl
@[simp] theorem Dev.setReg_comp (off v : Nat) : (s.setReg off v).comp = s.comp := rfl
@[simp] theorem Dev.setReg_ringTurn (off v : Nat) : (s.setReg off v).ringTurn = s.ringTurn := rfl

@[simp] theorem Dev.setFld_wlatch (off lo w v : Nat) : (s.setFld off lo w v).wlatch = s.wlatch := rfl
@[simp] theorem Dev.setFld_rlatch (off lo w v : Nat) : (s.setFld off lo w v).rlatch = s.rlatch := rfl
@[simp] theorem Dev.setFld_mem (off lo w v : Nat) : (s.setFld off lo w v).mem = s.mem := rfl
@[simp] theorem Dev.setFld_bad (off lo w v : Nat) : (s.setFld off lo w v).bad = s.bad := rfl
@[simp] theorem Dev.setFld_pt (off lo w v : Nat) : (s.setFld off lo w v).pt = s.pt := rfl
@[simp] theorem Dev.setFld_genNext (off lo w v : Nat) : (s.setFld off lo w v).genNext = s.genNext := rfl
@[simp] theorem Dev.setFld_cmds (off lo w v : Nat) : (s.setFld off lo w v).cmds = s.cmds := rfl
@[simp] theorem Dev.setFld_dying (off lo w v : Nat) : (s.setFld off lo w v).dying = s.dying := rfl
@[simp] theorem Dev.setFld_log (off lo w v : Nat) : (s.setFld off lo w v).log = s.log := rfl
@[simp] theorem Dev.setFld_outs (off lo w v : Nat) : (s.setFld off lo w v).outs = s.outs := rfl
@[simp] theorem Dev.setFld_rings (off lo w v : Nat) : (s.setFld off lo w v).rings = s.rings := rfl
@[simp] theorem Dev.setFld_liv (off lo w v : Nat) : (s.setFld off lo w v).liv = s.liv := rfl
@[simp] theorem Dev.setFld_tiers (off lo w v : Nat) : (s.setFld off lo w v).tiers = s.tiers := rfl
@[simp] theorem Dev.setFld_hitches (off lo w v : Nat) : (s.setFld off lo w v).hitches = s.hitches := rfl
@[simp] theorem Dev.setFld_stg (off lo w v : Nat) : (s.setFld off lo w v).stg = s.stg := rfl
@[simp] theorem Dev.setFld_tpk (off lo w v : Nat) : (s.setFld off lo w v).tpk = s.tpk := rfl
@[simp] theorem Dev.setFld_col (off lo w v : Nat) : (s.setFld off lo w v).col = s.col := rfl
@[simp] theorem Dev.setFld_landed (off lo w v : Nat) : (s.setFld off lo w v).landed = s.landed := rfl
@[simp] theorem Dev.setFld_mmf (off lo w v : Nat) : (s.setFld off lo w v).mmf = s.mmf := rfl
@[simp] theorem Dev.setFld_cch (off lo w v : Nat) : (s.setFld off lo w v).cch = s.cch := rfl
@[simp] theorem Dev.setFld_job (off lo w v : Nat) : (s.setFld off lo w v).job = s.job := rfl
@[simp] theorem Dev.setFld_srv (off lo w v : Nat) : (s.setFld off lo w v).srv = s.srv := rfl
@[simp] theorem Dev.setFld_dbg (off lo w v : Nat) : (s.setFld off lo w v).dbg = s.dbg := rfl
@[simp] theorem Dev.setFld_ns (off lo w v : Nat) : (s.setFld off lo w v).ns = s.ns := rfl
@[simp] theorem Dev.setFld_pwr (off lo w v : Nat) : (s.setFld off lo w v).pwr = s.pwr := rfl
@[simp] theorem Dev.setFld_grd (off lo w v : Nat) : (s.setFld off lo w v).grd = s.grd := rfl
@[simp] theorem Dev.setFld_comp (off lo w v : Nat) : (s.setFld off lo w v).comp = s.comp := rfl
@[simp] theorem Dev.setFld_ringTurn (off lo w v : Nat) : (s.setFld off lo w v).ringTurn = s.ringTurn := rfl

@[simp] theorem Dev.setFlag_wlatch (off i : Nat) (b : Bool) : (s.setFlag off i b).wlatch = s.wlatch := rfl
@[simp] theorem Dev.setFlag_rlatch (off i : Nat) (b : Bool) : (s.setFlag off i b).rlatch = s.rlatch := rfl
@[simp] theorem Dev.setFlag_mem (off i : Nat) (b : Bool) : (s.setFlag off i b).mem = s.mem := rfl
@[simp] theorem Dev.setFlag_bad (off i : Nat) (b : Bool) : (s.setFlag off i b).bad = s.bad := rfl
@[simp] theorem Dev.setFlag_pt (off i : Nat) (b : Bool) : (s.setFlag off i b).pt = s.pt := rfl
@[simp] theorem Dev.setFlag_genNext (off i : Nat) (b : Bool) : (s.setFlag off i b).genNext = s.genNext := rfl
@[simp] theorem Dev.setFlag_cmds (off i : Nat) (b : Bool) : (s.setFlag off i b).cmds = s.cmds := rfl
@[simp] theorem Dev.setFlag_dying (off i : Nat) (b : Bool) : (s.setFlag off i b).dying = s.dying := rfl
@[simp] theorem Dev.setFlag_log (off i : Nat) (b : Bool) : (s.setFlag off i b).log = s.log := rfl
@[simp] theorem Dev.setFlag_outs (off i : Nat) (b : Bool) : (s.setFlag off i b).outs = s.outs := rfl
@[simp] theorem Dev.setFlag_rings (off i : Nat) (b : Bool) : (s.setFlag off i b).rings = s.rings := rfl
@[simp] theorem Dev.setFlag_liv (off i : Nat) (b : Bool) : (s.setFlag off i b).liv = s.liv := rfl
@[simp] theorem Dev.setFlag_tiers (off i : Nat) (b : Bool) : (s.setFlag off i b).tiers = s.tiers := rfl
@[simp] theorem Dev.setFlag_hitches (off i : Nat) (b : Bool) : (s.setFlag off i b).hitches = s.hitches := rfl
@[simp] theorem Dev.setFlag_stg (off i : Nat) (b : Bool) : (s.setFlag off i b).stg = s.stg := rfl
@[simp] theorem Dev.setFlag_tpk (off i : Nat) (b : Bool) : (s.setFlag off i b).tpk = s.tpk := rfl
@[simp] theorem Dev.setFlag_col (off i : Nat) (b : Bool) : (s.setFlag off i b).col = s.col := rfl
@[simp] theorem Dev.setFlag_landed (off i : Nat) (b : Bool) : (s.setFlag off i b).landed = s.landed := rfl
@[simp] theorem Dev.setFlag_mmf (off i : Nat) (b : Bool) : (s.setFlag off i b).mmf = s.mmf := rfl
@[simp] theorem Dev.setFlag_cch (off i : Nat) (b : Bool) : (s.setFlag off i b).cch = s.cch := rfl
@[simp] theorem Dev.setFlag_job (off i : Nat) (b : Bool) : (s.setFlag off i b).job = s.job := rfl
@[simp] theorem Dev.setFlag_srv (off i : Nat) (b : Bool) : (s.setFlag off i b).srv = s.srv := rfl
@[simp] theorem Dev.setFlag_dbg (off i : Nat) (b : Bool) : (s.setFlag off i b).dbg = s.dbg := rfl
@[simp] theorem Dev.setFlag_ns (off i : Nat) (b : Bool) : (s.setFlag off i b).ns = s.ns := rfl
@[simp] theorem Dev.setFlag_pwr (off i : Nat) (b : Bool) : (s.setFlag off i b).pwr = s.pwr := rfl
@[simp] theorem Dev.setFlag_grd (off i : Nat) (b : Bool) : (s.setFlag off i b).grd = s.grd := rfl
@[simp] theorem Dev.setFlag_comp (off i : Nat) (b : Bool) : (s.setFlag off i b).comp = s.comp := rfl
@[simp] theorem Dev.setFlag_ringTurn (off i : Nat) (b : Bool) : (s.setFlag off i b).ringTurn = s.ringTurn := rfl

@[simp] theorem Dev.bump_wlatch (off n : Nat) : (s.bump off n).wlatch = s.wlatch := rfl
@[simp] theorem Dev.bump_rlatch (off n : Nat) : (s.bump off n).rlatch = s.rlatch := rfl
@[simp] theorem Dev.bump_mem (off n : Nat) : (s.bump off n).mem = s.mem := rfl
@[simp] theorem Dev.bump_bad (off n : Nat) : (s.bump off n).bad = s.bad := rfl
@[simp] theorem Dev.bump_pt (off n : Nat) : (s.bump off n).pt = s.pt := rfl
@[simp] theorem Dev.bump_genNext (off n : Nat) : (s.bump off n).genNext = s.genNext := rfl
@[simp] theorem Dev.bump_cmds (off n : Nat) : (s.bump off n).cmds = s.cmds := rfl
@[simp] theorem Dev.bump_dying (off n : Nat) : (s.bump off n).dying = s.dying := rfl
@[simp] theorem Dev.bump_log (off n : Nat) : (s.bump off n).log = s.log := rfl
@[simp] theorem Dev.bump_outs (off n : Nat) : (s.bump off n).outs = s.outs := rfl
@[simp] theorem Dev.bump_rings (off n : Nat) : (s.bump off n).rings = s.rings := rfl
@[simp] theorem Dev.bump_liv (off n : Nat) : (s.bump off n).liv = s.liv := rfl
@[simp] theorem Dev.bump_tiers (off n : Nat) : (s.bump off n).tiers = s.tiers := rfl
@[simp] theorem Dev.bump_hitches (off n : Nat) : (s.bump off n).hitches = s.hitches := rfl
@[simp] theorem Dev.bump_stg (off n : Nat) : (s.bump off n).stg = s.stg := rfl
@[simp] theorem Dev.bump_tpk (off n : Nat) : (s.bump off n).tpk = s.tpk := rfl
@[simp] theorem Dev.bump_col (off n : Nat) : (s.bump off n).col = s.col := rfl
@[simp] theorem Dev.bump_landed (off n : Nat) : (s.bump off n).landed = s.landed := rfl
@[simp] theorem Dev.bump_mmf (off n : Nat) : (s.bump off n).mmf = s.mmf := rfl
@[simp] theorem Dev.bump_cch (off n : Nat) : (s.bump off n).cch = s.cch := rfl
@[simp] theorem Dev.bump_job (off n : Nat) : (s.bump off n).job = s.job := rfl
@[simp] theorem Dev.bump_srv (off n : Nat) : (s.bump off n).srv = s.srv := rfl
@[simp] theorem Dev.bump_dbg (off n : Nat) : (s.bump off n).dbg = s.dbg := rfl
@[simp] theorem Dev.bump_ns (off n : Nat) : (s.bump off n).ns = s.ns := rfl
@[simp] theorem Dev.bump_pwr (off n : Nat) : (s.bump off n).pwr = s.pwr := rfl
@[simp] theorem Dev.bump_grd (off n : Nat) : (s.bump off n).grd = s.grd := rfl
@[simp] theorem Dev.bump_comp (off n : Nat) : (s.bump off n).comp = s.comp := rfl
@[simp] theorem Dev.bump_ringTurn (off n : Nat) : (s.bump off n).ringTurn = s.ringTurn := rfl

@[simp] theorem Dev.emit_regs (o : Out) : (s.emit o).regs = s.regs := rfl
@[simp] theorem Dev.emit_wlatch (o : Out) : (s.emit o).wlatch = s.wlatch := rfl
@[simp] theorem Dev.emit_rlatch (o : Out) : (s.emit o).rlatch = s.rlatch := rfl
@[simp] theorem Dev.emit_mem (o : Out) : (s.emit o).mem = s.mem := rfl
@[simp] theorem Dev.emit_bad (o : Out) : (s.emit o).bad = s.bad := rfl
@[simp] theorem Dev.emit_pt (o : Out) : (s.emit o).pt = s.pt := rfl
@[simp] theorem Dev.emit_genNext (o : Out) : (s.emit o).genNext = s.genNext := rfl
@[simp] theorem Dev.emit_cmds (o : Out) : (s.emit o).cmds = s.cmds := rfl
@[simp] theorem Dev.emit_dying (o : Out) : (s.emit o).dying = s.dying := rfl
@[simp] theorem Dev.emit_log (o : Out) : (s.emit o).log = s.log := rfl
@[simp] theorem Dev.emit_rings (o : Out) : (s.emit o).rings = s.rings := rfl
@[simp] theorem Dev.emit_liv (o : Out) : (s.emit o).liv = s.liv := rfl
@[simp] theorem Dev.emit_tiers (o : Out) : (s.emit o).tiers = s.tiers := rfl
@[simp] theorem Dev.emit_hitches (o : Out) : (s.emit o).hitches = s.hitches := rfl
@[simp] theorem Dev.emit_stg (o : Out) : (s.emit o).stg = s.stg := rfl
@[simp] theorem Dev.emit_tpk (o : Out) : (s.emit o).tpk = s.tpk := rfl
@[simp] theorem Dev.emit_col (o : Out) : (s.emit o).col = s.col := rfl
@[simp] theorem Dev.emit_landed (o : Out) : (s.emit o).landed = s.landed := rfl
@[simp] theorem Dev.emit_mmf (o : Out) : (s.emit o).mmf = s.mmf := rfl
@[simp] theorem Dev.emit_cch (o : Out) : (s.emit o).cch = s.cch := rfl
@[simp] theorem Dev.emit_job (o : Out) : (s.emit o).job = s.job := rfl
@[simp] theorem Dev.emit_srv (o : Out) : (s.emit o).srv = s.srv := rfl
@[simp] theorem Dev.emit_dbg (o : Out) : (s.emit o).dbg = s.dbg := rfl
@[simp] theorem Dev.emit_ns (o : Out) : (s.emit o).ns = s.ns := rfl
@[simp] theorem Dev.emit_pwr (o : Out) : (s.emit o).pwr = s.pwr := rfl
@[simp] theorem Dev.emit_grd (o : Out) : (s.emit o).grd = s.grd := rfl
@[simp] theorem Dev.emit_comp (o : Out) : (s.emit o).comp = s.comp := rfl
@[simp] theorem Dev.emit_ringTurn (o : Out) : (s.emit o).ringTurn = s.ringTurn := rfl

@[simp] theorem Dev.wr_regs (k : Nat) (v : Byte) : (s.wr k v).regs = s.regs := rfl
@[simp] theorem Dev.wr_wlatch (k : Nat) (v : Byte) : (s.wr k v).wlatch = s.wlatch := rfl
@[simp] theorem Dev.wr_rlatch (k : Nat) (v : Byte) : (s.wr k v).rlatch = s.rlatch := rfl
@[simp] theorem Dev.wr_bad (k : Nat) (v : Byte) : (s.wr k v).bad = s.bad := rfl
@[simp] theorem Dev.wr_pt (k : Nat) (v : Byte) : (s.wr k v).pt = s.pt := rfl
@[simp] theorem Dev.wr_genNext (k : Nat) (v : Byte) : (s.wr k v).genNext = s.genNext := rfl
@[simp] theorem Dev.wr_cmds (k : Nat) (v : Byte) : (s.wr k v).cmds = s.cmds := rfl
@[simp] theorem Dev.wr_dying (k : Nat) (v : Byte) : (s.wr k v).dying = s.dying := rfl
@[simp] theorem Dev.wr_log (k : Nat) (v : Byte) : (s.wr k v).log = s.log := rfl
@[simp] theorem Dev.wr_outs (k : Nat) (v : Byte) : (s.wr k v).outs = s.outs := rfl
@[simp] theorem Dev.wr_rings (k : Nat) (v : Byte) : (s.wr k v).rings = s.rings := rfl
@[simp] theorem Dev.wr_liv (k : Nat) (v : Byte) : (s.wr k v).liv = s.liv := rfl
@[simp] theorem Dev.wr_tiers (k : Nat) (v : Byte) : (s.wr k v).tiers = s.tiers := rfl
@[simp] theorem Dev.wr_hitches (k : Nat) (v : Byte) : (s.wr k v).hitches = s.hitches := rfl
@[simp] theorem Dev.wr_stg (k : Nat) (v : Byte) : (s.wr k v).stg = s.stg := rfl
@[simp] theorem Dev.wr_tpk (k : Nat) (v : Byte) : (s.wr k v).tpk = s.tpk := rfl
@[simp] theorem Dev.wr_col (k : Nat) (v : Byte) : (s.wr k v).col = s.col := rfl
@[simp] theorem Dev.wr_landed (k : Nat) (v : Byte) : (s.wr k v).landed = s.landed := rfl
@[simp] theorem Dev.wr_mmf (k : Nat) (v : Byte) : (s.wr k v).mmf = s.mmf := rfl
@[simp] theorem Dev.wr_cch (k : Nat) (v : Byte) : (s.wr k v).cch = s.cch := rfl
@[simp] theorem Dev.wr_job (k : Nat) (v : Byte) : (s.wr k v).job = s.job := rfl
@[simp] theorem Dev.wr_srv (k : Nat) (v : Byte) : (s.wr k v).srv = s.srv := rfl
@[simp] theorem Dev.wr_dbg (k : Nat) (v : Byte) : (s.wr k v).dbg = s.dbg := rfl
@[simp] theorem Dev.wr_ns (k : Nat) (v : Byte) : (s.wr k v).ns = s.ns := rfl
@[simp] theorem Dev.wr_pwr (k : Nat) (v : Byte) : (s.wr k v).pwr = s.pwr := rfl
@[simp] theorem Dev.wr_grd (k : Nat) (v : Byte) : (s.wr k v).grd = s.grd := rfl
@[simp] theorem Dev.wr_comp (k : Nat) (v : Byte) : (s.wr k v).comp = s.comp := rfl
@[simp] theorem Dev.wr_ringTurn (k : Nat) (v : Byte) : (s.wr k v).ringTurn = s.ringTurn := rfl

@[simp] theorem Dev.setLine_regs (k : Nat) (l : LineState) : (s.setLine k l).regs = s.regs := rfl
@[simp] theorem Dev.setLine_wlatch (k : Nat) (l : LineState) : (s.setLine k l).wlatch = s.wlatch := rfl
@[simp] theorem Dev.setLine_rlatch (k : Nat) (l : LineState) : (s.setLine k l).rlatch = s.rlatch := rfl
@[simp] theorem Dev.setLine_mem (k : Nat) (l : LineState) : (s.setLine k l).mem = s.mem := rfl
@[simp] theorem Dev.setLine_pt (k : Nat) (l : LineState) : (s.setLine k l).pt = s.pt := rfl
@[simp] theorem Dev.setLine_genNext (k : Nat) (l : LineState) : (s.setLine k l).genNext = s.genNext := rfl
@[simp] theorem Dev.setLine_cmds (k : Nat) (l : LineState) : (s.setLine k l).cmds = s.cmds := rfl
@[simp] theorem Dev.setLine_dying (k : Nat) (l : LineState) : (s.setLine k l).dying = s.dying := rfl
@[simp] theorem Dev.setLine_log (k : Nat) (l : LineState) : (s.setLine k l).log = s.log := rfl
@[simp] theorem Dev.setLine_outs (k : Nat) (l : LineState) : (s.setLine k l).outs = s.outs := rfl
@[simp] theorem Dev.setLine_rings (k : Nat) (l : LineState) : (s.setLine k l).rings = s.rings := rfl
@[simp] theorem Dev.setLine_liv (k : Nat) (l : LineState) : (s.setLine k l).liv = s.liv := rfl
@[simp] theorem Dev.setLine_tiers (k : Nat) (l : LineState) : (s.setLine k l).tiers = s.tiers := rfl
@[simp] theorem Dev.setLine_hitches (k : Nat) (l : LineState) : (s.setLine k l).hitches = s.hitches := rfl
@[simp] theorem Dev.setLine_stg (k : Nat) (l : LineState) : (s.setLine k l).stg = s.stg := rfl
@[simp] theorem Dev.setLine_tpk (k : Nat) (l : LineState) : (s.setLine k l).tpk = s.tpk := rfl
@[simp] theorem Dev.setLine_col (k : Nat) (l : LineState) : (s.setLine k l).col = s.col := rfl
@[simp] theorem Dev.setLine_landed (k : Nat) (l : LineState) : (s.setLine k l).landed = s.landed := rfl
@[simp] theorem Dev.setLine_mmf (k : Nat) (l : LineState) : (s.setLine k l).mmf = s.mmf := rfl
@[simp] theorem Dev.setLine_cch (k : Nat) (l : LineState) : (s.setLine k l).cch = s.cch := rfl
@[simp] theorem Dev.setLine_job (k : Nat) (l : LineState) : (s.setLine k l).job = s.job := rfl
@[simp] theorem Dev.setLine_srv (k : Nat) (l : LineState) : (s.setLine k l).srv = s.srv := rfl
@[simp] theorem Dev.setLine_dbg (k : Nat) (l : LineState) : (s.setLine k l).dbg = s.dbg := rfl
@[simp] theorem Dev.setLine_ns (k : Nat) (l : LineState) : (s.setLine k l).ns = s.ns := rfl
@[simp] theorem Dev.setLine_pwr (k : Nat) (l : LineState) : (s.setLine k l).pwr = s.pwr := rfl
@[simp] theorem Dev.setLine_grd (k : Nat) (l : LineState) : (s.setLine k l).grd = s.grd := rfl
@[simp] theorem Dev.setLine_comp (k : Nat) (l : LineState) : (s.setLine k l).comp = s.comp := rfl
@[simp] theorem Dev.setLine_ringTurn (k : Nat) (l : LineState) : (s.setLine k l).ringTurn = s.ringTurn := rfl

@[simp] theorem Dev.setPte_regs (p e : Nat) : (s.setPte p e).regs = s.regs := rfl
@[simp] theorem Dev.setPte_wlatch (p e : Nat) : (s.setPte p e).wlatch = s.wlatch := rfl
@[simp] theorem Dev.setPte_rlatch (p e : Nat) : (s.setPte p e).rlatch = s.rlatch := rfl
@[simp] theorem Dev.setPte_mem (p e : Nat) : (s.setPte p e).mem = s.mem := rfl
@[simp] theorem Dev.setPte_bad (p e : Nat) : (s.setPte p e).bad = s.bad := rfl
@[simp] theorem Dev.setPte_genNext (p e : Nat) : (s.setPte p e).genNext = s.genNext := rfl
@[simp] theorem Dev.setPte_cmds (p e : Nat) : (s.setPte p e).cmds = s.cmds := rfl
@[simp] theorem Dev.setPte_dying (p e : Nat) : (s.setPte p e).dying = s.dying := rfl
@[simp] theorem Dev.setPte_log (p e : Nat) : (s.setPte p e).log = s.log := rfl
@[simp] theorem Dev.setPte_outs (p e : Nat) : (s.setPte p e).outs = s.outs := rfl
@[simp] theorem Dev.setPte_rings (p e : Nat) : (s.setPte p e).rings = s.rings := rfl
@[simp] theorem Dev.setPte_liv (p e : Nat) : (s.setPte p e).liv = s.liv := rfl
@[simp] theorem Dev.setPte_tiers (p e : Nat) : (s.setPte p e).tiers = s.tiers := rfl
@[simp] theorem Dev.setPte_hitches (p e : Nat) : (s.setPte p e).hitches = s.hitches := rfl
@[simp] theorem Dev.setPte_stg (p e : Nat) : (s.setPte p e).stg = s.stg := rfl
@[simp] theorem Dev.setPte_tpk (p e : Nat) : (s.setPte p e).tpk = s.tpk := rfl
@[simp] theorem Dev.setPte_col (p e : Nat) : (s.setPte p e).col = s.col := rfl
@[simp] theorem Dev.setPte_landed (p e : Nat) : (s.setPte p e).landed = s.landed := rfl
@[simp] theorem Dev.setPte_mmf (p e : Nat) : (s.setPte p e).mmf = s.mmf := rfl
@[simp] theorem Dev.setPte_cch (p e : Nat) : (s.setPte p e).cch = s.cch := rfl
@[simp] theorem Dev.setPte_job (p e : Nat) : (s.setPte p e).job = s.job := rfl
@[simp] theorem Dev.setPte_srv (p e : Nat) : (s.setPte p e).srv = s.srv := rfl
@[simp] theorem Dev.setPte_dbg (p e : Nat) : (s.setPte p e).dbg = s.dbg := rfl
@[simp] theorem Dev.setPte_ns (p e : Nat) : (s.setPte p e).ns = s.ns := rfl
@[simp] theorem Dev.setPte_pwr (p e : Nat) : (s.setPte p e).pwr = s.pwr := rfl
@[simp] theorem Dev.setPte_grd (p e : Nat) : (s.setPte p e).grd = s.grd := rfl
@[simp] theorem Dev.setPte_comp (p e : Nat) : (s.setPte p e).comp = s.comp := rfl
@[simp] theorem Dev.setPte_ringTurn (p e : Nat) : (s.setPte p e).ringTurn = s.ringTurn := rfl

@[simp] theorem Dev.setRing_regs (r : Nat) (x : Ring) : (s.setRing r x).regs = s.regs := rfl
@[simp] theorem Dev.setRing_wlatch (r : Nat) (x : Ring) : (s.setRing r x).wlatch = s.wlatch := rfl
@[simp] theorem Dev.setRing_rlatch (r : Nat) (x : Ring) : (s.setRing r x).rlatch = s.rlatch := rfl
@[simp] theorem Dev.setRing_mem (r : Nat) (x : Ring) : (s.setRing r x).mem = s.mem := rfl
@[simp] theorem Dev.setRing_bad (r : Nat) (x : Ring) : (s.setRing r x).bad = s.bad := rfl
@[simp] theorem Dev.setRing_pt (r : Nat) (x : Ring) : (s.setRing r x).pt = s.pt := rfl
@[simp] theorem Dev.setRing_genNext (r : Nat) (x : Ring) : (s.setRing r x).genNext = s.genNext := rfl
@[simp] theorem Dev.setRing_cmds (r : Nat) (x : Ring) : (s.setRing r x).cmds = s.cmds := rfl
@[simp] theorem Dev.setRing_dying (r : Nat) (x : Ring) : (s.setRing r x).dying = s.dying := rfl
@[simp] theorem Dev.setRing_log (r : Nat) (x : Ring) : (s.setRing r x).log = s.log := rfl
@[simp] theorem Dev.setRing_outs (r : Nat) (x : Ring) : (s.setRing r x).outs = s.outs := rfl
@[simp] theorem Dev.setRing_liv (r : Nat) (x : Ring) : (s.setRing r x).liv = s.liv := rfl
@[simp] theorem Dev.setRing_tiers (r : Nat) (x : Ring) : (s.setRing r x).tiers = s.tiers := rfl
@[simp] theorem Dev.setRing_hitches (r : Nat) (x : Ring) : (s.setRing r x).hitches = s.hitches := rfl
@[simp] theorem Dev.setRing_stg (r : Nat) (x : Ring) : (s.setRing r x).stg = s.stg := rfl
@[simp] theorem Dev.setRing_tpk (r : Nat) (x : Ring) : (s.setRing r x).tpk = s.tpk := rfl
@[simp] theorem Dev.setRing_col (r : Nat) (x : Ring) : (s.setRing r x).col = s.col := rfl
@[simp] theorem Dev.setRing_landed (r : Nat) (x : Ring) : (s.setRing r x).landed = s.landed := rfl
@[simp] theorem Dev.setRing_mmf (r : Nat) (x : Ring) : (s.setRing r x).mmf = s.mmf := rfl
@[simp] theorem Dev.setRing_cch (r : Nat) (x : Ring) : (s.setRing r x).cch = s.cch := rfl
@[simp] theorem Dev.setRing_job (r : Nat) (x : Ring) : (s.setRing r x).job = s.job := rfl
@[simp] theorem Dev.setRing_srv (r : Nat) (x : Ring) : (s.setRing r x).srv = s.srv := rfl
@[simp] theorem Dev.setRing_dbg (r : Nat) (x : Ring) : (s.setRing r x).dbg = s.dbg := rfl
@[simp] theorem Dev.setRing_ns (r : Nat) (x : Ring) : (s.setRing r x).ns = s.ns := rfl
@[simp] theorem Dev.setRing_pwr (r : Nat) (x : Ring) : (s.setRing r x).pwr = s.pwr := rfl
@[simp] theorem Dev.setRing_grd (r : Nat) (x : Ring) : (s.setRing r x).grd = s.grd := rfl
@[simp] theorem Dev.setRing_comp (r : Nat) (x : Ring) : (s.setRing r x).comp = s.comp := rfl
@[simp] theorem Dev.setRing_ringTurn (r : Nat) (x : Ring) : (s.setRing r x).ringTurn = s.ringTurn := rfl

@[simp] theorem Dev.updCmd_regs (g : Nat) (f : Cmd → Cmd) : (s.updCmd g f).regs = s.regs := rfl
@[simp] theorem Dev.updCmd_wlatch (g : Nat) (f : Cmd → Cmd) : (s.updCmd g f).wlatch = s.wlatch := rfl
@[simp] theorem Dev.updCmd_rlatch (g : Nat) (f : Cmd → Cmd) : (s.updCmd g f).rlatch = s.rlatch := rfl
@[simp] theorem Dev.updCmd_mem (g : Nat) (f : Cmd → Cmd) : (s.updCmd g f).mem = s.mem := rfl
@[simp] theorem Dev.updCmd_bad (g : Nat) (f : Cmd → Cmd) : (s.updCmd g f).bad = s.bad := rfl
@[simp] theorem Dev.updCmd_pt (g : Nat) (f : Cmd → Cmd) : (s.updCmd g f).pt = s.pt := rfl
@[simp] theorem Dev.updCmd_genNext (g : Nat) (f : Cmd → Cmd) : (s.updCmd g f).genNext = s.genNext := rfl
@[simp] theorem Dev.updCmd_dying (g : Nat) (f : Cmd → Cmd) : (s.updCmd g f).dying = s.dying := rfl
@[simp] theorem Dev.updCmd_log (g : Nat) (f : Cmd → Cmd) : (s.updCmd g f).log = s.log := rfl
@[simp] theorem Dev.updCmd_outs (g : Nat) (f : Cmd → Cmd) : (s.updCmd g f).outs = s.outs := rfl
@[simp] theorem Dev.updCmd_rings (g : Nat) (f : Cmd → Cmd) : (s.updCmd g f).rings = s.rings := rfl
@[simp] theorem Dev.updCmd_liv (g : Nat) (f : Cmd → Cmd) : (s.updCmd g f).liv = s.liv := rfl
@[simp] theorem Dev.updCmd_tiers (g : Nat) (f : Cmd → Cmd) : (s.updCmd g f).tiers = s.tiers := rfl
@[simp] theorem Dev.updCmd_hitches (g : Nat) (f : Cmd → Cmd) : (s.updCmd g f).hitches = s.hitches := rfl
@[simp] theorem Dev.updCmd_stg (g : Nat) (f : Cmd → Cmd) : (s.updCmd g f).stg = s.stg := rfl
@[simp] theorem Dev.updCmd_tpk (g : Nat) (f : Cmd → Cmd) : (s.updCmd g f).tpk = s.tpk := rfl
@[simp] theorem Dev.updCmd_col (g : Nat) (f : Cmd → Cmd) : (s.updCmd g f).col = s.col := rfl
@[simp] theorem Dev.updCmd_landed (g : Nat) (f : Cmd → Cmd) : (s.updCmd g f).landed = s.landed := rfl
@[simp] theorem Dev.updCmd_mmf (g : Nat) (f : Cmd → Cmd) : (s.updCmd g f).mmf = s.mmf := rfl
@[simp] theorem Dev.updCmd_cch (g : Nat) (f : Cmd → Cmd) : (s.updCmd g f).cch = s.cch := rfl
@[simp] theorem Dev.updCmd_job (g : Nat) (f : Cmd → Cmd) : (s.updCmd g f).job = s.job := rfl
@[simp] theorem Dev.updCmd_srv (g : Nat) (f : Cmd → Cmd) : (s.updCmd g f).srv = s.srv := rfl
@[simp] theorem Dev.updCmd_dbg (g : Nat) (f : Cmd → Cmd) : (s.updCmd g f).dbg = s.dbg := rfl
@[simp] theorem Dev.updCmd_ns (g : Nat) (f : Cmd → Cmd) : (s.updCmd g f).ns = s.ns := rfl
@[simp] theorem Dev.updCmd_pwr (g : Nat) (f : Cmd → Cmd) : (s.updCmd g f).pwr = s.pwr := rfl
@[simp] theorem Dev.updCmd_grd (g : Nat) (f : Cmd → Cmd) : (s.updCmd g f).grd = s.grd := rfl
@[simp] theorem Dev.updCmd_comp (g : Nat) (f : Cmd → Cmd) : (s.updCmd g f).comp = s.comp := rfl
@[simp] theorem Dev.updCmd_ringTurn (g : Nat) (f : Cmd → Cmd) : (s.updCmd g f).ringTurn = s.ringTurn := rfl

@[simp] theorem Dev.ungate_wlatch (dm : Domain) : (s.ungate dm).wlatch = s.wlatch := by
  unfold Dev.ungate; split <;> rfl
@[simp] theorem Dev.ungate_rlatch (dm : Domain) : (s.ungate dm).rlatch = s.rlatch := by
  unfold Dev.ungate; split <;> rfl
@[simp] theorem Dev.ungate_mem (dm : Domain) : (s.ungate dm).mem = s.mem := by
  unfold Dev.ungate; split <;> rfl
@[simp] theorem Dev.ungate_bad (dm : Domain) : (s.ungate dm).bad = s.bad := by
  unfold Dev.ungate; split <;> rfl
@[simp] theorem Dev.ungate_pt (dm : Domain) : (s.ungate dm).pt = s.pt := by
  unfold Dev.ungate; split <;> rfl
@[simp] theorem Dev.ungate_genNext (dm : Domain) : (s.ungate dm).genNext = s.genNext := by
  unfold Dev.ungate; split <;> rfl
@[simp] theorem Dev.ungate_cmds (dm : Domain) : (s.ungate dm).cmds = s.cmds := by
  unfold Dev.ungate; split <;> rfl
@[simp] theorem Dev.ungate_dying (dm : Domain) : (s.ungate dm).dying = s.dying := by
  unfold Dev.ungate; split <;> rfl
@[simp] theorem Dev.ungate_log (dm : Domain) : (s.ungate dm).log = s.log := by
  unfold Dev.ungate; split <;> rfl
@[simp] theorem Dev.ungate_outs (dm : Domain) : (s.ungate dm).outs = s.outs := by
  unfold Dev.ungate; split <;> rfl
@[simp] theorem Dev.ungate_rings (dm : Domain) : (s.ungate dm).rings = s.rings := by
  unfold Dev.ungate; split <;> rfl
@[simp] theorem Dev.ungate_liv (dm : Domain) : (s.ungate dm).liv = s.liv := by
  unfold Dev.ungate; split <;> rfl
@[simp] theorem Dev.ungate_tiers (dm : Domain) : (s.ungate dm).tiers = s.tiers := by
  unfold Dev.ungate; split <;> rfl
@[simp] theorem Dev.ungate_hitches (dm : Domain) : (s.ungate dm).hitches = s.hitches := by
  unfold Dev.ungate; split <;> rfl
@[simp] theorem Dev.ungate_stg (dm : Domain) : (s.ungate dm).stg = s.stg := by
  unfold Dev.ungate; split <;> rfl
@[simp] theorem Dev.ungate_tpk (dm : Domain) : (s.ungate dm).tpk = s.tpk := by
  unfold Dev.ungate; split <;> rfl
@[simp] theorem Dev.ungate_col (dm : Domain) : (s.ungate dm).col = s.col := by
  unfold Dev.ungate; split <;> rfl
@[simp] theorem Dev.ungate_landed (dm : Domain) : (s.ungate dm).landed = s.landed := by
  unfold Dev.ungate; split <;> rfl
@[simp] theorem Dev.ungate_mmf (dm : Domain) : (s.ungate dm).mmf = s.mmf := by
  unfold Dev.ungate; split <;> rfl
@[simp] theorem Dev.ungate_cch (dm : Domain) : (s.ungate dm).cch = s.cch := by
  unfold Dev.ungate; split <;> rfl
@[simp] theorem Dev.ungate_job (dm : Domain) : (s.ungate dm).job = s.job := by
  unfold Dev.ungate; split <;> rfl
@[simp] theorem Dev.ungate_srv (dm : Domain) : (s.ungate dm).srv = s.srv := by
  unfold Dev.ungate; split <;> rfl
@[simp] theorem Dev.ungate_dbg (dm : Domain) : (s.ungate dm).dbg = s.dbg := by
  unfold Dev.ungate; split <;> rfl
@[simp] theorem Dev.ungate_ns (dm : Domain) : (s.ungate dm).ns = s.ns := by
  unfold Dev.ungate; split <;> rfl
@[simp] theorem Dev.ungate_grd (dm : Domain) : (s.ungate dm).grd = s.grd := by
  unfold Dev.ungate; split <;> rfl
@[simp] theorem Dev.ungate_comp (dm : Domain) : (s.ungate dm).comp = s.comp := by
  unfold Dev.ungate; split <;> rfl
@[simp] theorem Dev.ungate_ringTurn (dm : Domain) : (s.ungate dm).ringTurn = s.ringTurn := by
  unfold Dev.ungate; split <;> rfl

@[simp] theorem Dev.dsHold_regs (q : Nat) : (s.dsHold q).regs = s.regs := rfl
@[simp] theorem Dev.dsHold_wlatch (q : Nat) : (s.dsHold q).wlatch = s.wlatch := rfl
@[simp] theorem Dev.dsHold_rlatch (q : Nat) : (s.dsHold q).rlatch = s.rlatch := rfl
@[simp] theorem Dev.dsHold_mem (q : Nat) : (s.dsHold q).mem = s.mem := rfl
@[simp] theorem Dev.dsHold_bad (q : Nat) : (s.dsHold q).bad = s.bad := rfl
@[simp] theorem Dev.dsHold_pt (q : Nat) : (s.dsHold q).pt = s.pt := rfl
@[simp] theorem Dev.dsHold_genNext (q : Nat) : (s.dsHold q).genNext = s.genNext := rfl
@[simp] theorem Dev.dsHold_cmds (q : Nat) : (s.dsHold q).cmds = s.cmds := rfl
@[simp] theorem Dev.dsHold_dying (q : Nat) : (s.dsHold q).dying = s.dying := rfl
@[simp] theorem Dev.dsHold_log (q : Nat) : (s.dsHold q).log = s.log := rfl
@[simp] theorem Dev.dsHold_rings (q : Nat) : (s.dsHold q).rings = s.rings := rfl
@[simp] theorem Dev.dsHold_liv (q : Nat) : (s.dsHold q).liv = s.liv := rfl
@[simp] theorem Dev.dsHold_tiers (q : Nat) : (s.dsHold q).tiers = s.tiers := rfl
@[simp] theorem Dev.dsHold_hitches (q : Nat) : (s.dsHold q).hitches = s.hitches := rfl
@[simp] theorem Dev.dsHold_stg (q : Nat) : (s.dsHold q).stg = s.stg := rfl
@[simp] theorem Dev.dsHold_tpk (q : Nat) : (s.dsHold q).tpk = s.tpk := rfl
@[simp] theorem Dev.dsHold_col (q : Nat) : (s.dsHold q).col = s.col := rfl
@[simp] theorem Dev.dsHold_landed (q : Nat) : (s.dsHold q).landed = s.landed := rfl
@[simp] theorem Dev.dsHold_mmf (q : Nat) : (s.dsHold q).mmf = s.mmf := rfl
@[simp] theorem Dev.dsHold_cch (q : Nat) : (s.dsHold q).cch = s.cch := rfl
@[simp] theorem Dev.dsHold_job (q : Nat) : (s.dsHold q).job = s.job := rfl
@[simp] theorem Dev.dsHold_srv (q : Nat) : (s.dsHold q).srv = s.srv := rfl
@[simp] theorem Dev.dsHold_dbg (q : Nat) : (s.dsHold q).dbg = s.dbg := rfl
@[simp] theorem Dev.dsHold_ns (q : Nat) : (s.dsHold q).ns = s.ns := rfl
@[simp] theorem Dev.dsHold_grd (q : Nat) : (s.dsHold q).grd = s.grd := rfl
@[simp] theorem Dev.dsHold_comp (q : Nat) : (s.dsHold q).comp = s.comp := rfl
@[simp] theorem Dev.dsHold_ringTurn (q : Nat) : (s.dsHold q).ringTurn = s.ringTurn := rfl

@[simp] theorem Dev.dsRelease_wlatch (q : Nat) : (s.dsRelease q).wlatch = s.wlatch := by
  simp [Dev.dsRelease]
@[simp] theorem Dev.dsRelease_rlatch (q : Nat) : (s.dsRelease q).rlatch = s.rlatch := by
  simp [Dev.dsRelease]
@[simp] theorem Dev.dsRelease_mem (q : Nat) : (s.dsRelease q).mem = s.mem := by
  simp [Dev.dsRelease]
@[simp] theorem Dev.dsRelease_bad (q : Nat) : (s.dsRelease q).bad = s.bad := by
  simp [Dev.dsRelease]
@[simp] theorem Dev.dsRelease_pt (q : Nat) : (s.dsRelease q).pt = s.pt := by
  simp [Dev.dsRelease]
@[simp] theorem Dev.dsRelease_genNext (q : Nat) : (s.dsRelease q).genNext = s.genNext := by
  simp [Dev.dsRelease]
@[simp] theorem Dev.dsRelease_cmds (q : Nat) : (s.dsRelease q).cmds = s.cmds := by
  simp [Dev.dsRelease]
@[simp] theorem Dev.dsRelease_dying (q : Nat) : (s.dsRelease q).dying = s.dying := by
  simp [Dev.dsRelease]
@[simp] theorem Dev.dsRelease_log (q : Nat) : (s.dsRelease q).log = s.log := by
  simp [Dev.dsRelease]
@[simp] theorem Dev.dsRelease_rings (q : Nat) : (s.dsRelease q).rings = s.rings := by
  simp [Dev.dsRelease]
@[simp] theorem Dev.dsRelease_liv (q : Nat) : (s.dsRelease q).liv = s.liv := by
  simp [Dev.dsRelease]
@[simp] theorem Dev.dsRelease_tiers (q : Nat) : (s.dsRelease q).tiers = s.tiers := by
  simp [Dev.dsRelease]
@[simp] theorem Dev.dsRelease_hitches (q : Nat) : (s.dsRelease q).hitches = s.hitches := by
  simp [Dev.dsRelease]
@[simp] theorem Dev.dsRelease_stg (q : Nat) : (s.dsRelease q).stg = s.stg := by
  simp [Dev.dsRelease]
@[simp] theorem Dev.dsRelease_tpk (q : Nat) : (s.dsRelease q).tpk = s.tpk := by
  simp [Dev.dsRelease]
@[simp] theorem Dev.dsRelease_col (q : Nat) : (s.dsRelease q).col = s.col := by
  simp [Dev.dsRelease]
@[simp] theorem Dev.dsRelease_landed (q : Nat) : (s.dsRelease q).landed = s.landed := by
  simp [Dev.dsRelease]
@[simp] theorem Dev.dsRelease_mmf (q : Nat) : (s.dsRelease q).mmf = s.mmf := by
  simp [Dev.dsRelease]
@[simp] theorem Dev.dsRelease_cch (q : Nat) : (s.dsRelease q).cch = s.cch := by
  simp [Dev.dsRelease]
@[simp] theorem Dev.dsRelease_job (q : Nat) : (s.dsRelease q).job = s.job := by
  simp [Dev.dsRelease]
@[simp] theorem Dev.dsRelease_srv (q : Nat) : (s.dsRelease q).srv = s.srv := by
  simp [Dev.dsRelease]
@[simp] theorem Dev.dsRelease_dbg (q : Nat) : (s.dsRelease q).dbg = s.dbg := by
  simp [Dev.dsRelease]
@[simp] theorem Dev.dsRelease_ns (q : Nat) : (s.dsRelease q).ns = s.ns := by
  simp [Dev.dsRelease]
@[simp] theorem Dev.dsRelease_grd (q : Nat) : (s.dsRelease q).grd = s.grd := by
  simp [Dev.dsRelease]
@[simp] theorem Dev.dsRelease_comp (q : Nat) : (s.dsRelease q).comp = s.comp := by
  simp [Dev.dsRelease]
@[simp] theorem Dev.dsRelease_ringTurn (q : Nat) : (s.dsRelease q).ringTurn = s.ringTurn := by
  simp [Dev.dsRelease]

@[simp] theorem Dev.setPwr_regs (f : Power → Power) : (s.setPwr f).regs = s.regs := rfl
@[simp] theorem Dev.setPwr_wlatch (f : Power → Power) : (s.setPwr f).wlatch = s.wlatch := rfl
@[simp] theorem Dev.setPwr_rlatch (f : Power → Power) : (s.setPwr f).rlatch = s.rlatch := rfl
@[simp] theorem Dev.setPwr_mem (f : Power → Power) : (s.setPwr f).mem = s.mem := rfl
@[simp] theorem Dev.setPwr_bad (f : Power → Power) : (s.setPwr f).bad = s.bad := rfl
@[simp] theorem Dev.setPwr_pt (f : Power → Power) : (s.setPwr f).pt = s.pt := rfl
@[simp] theorem Dev.setPwr_genNext (f : Power → Power) : (s.setPwr f).genNext = s.genNext := rfl
@[simp] theorem Dev.setPwr_cmds (f : Power → Power) : (s.setPwr f).cmds = s.cmds := rfl
@[simp] theorem Dev.setPwr_dying (f : Power → Power) : (s.setPwr f).dying = s.dying := rfl
@[simp] theorem Dev.setPwr_log (f : Power → Power) : (s.setPwr f).log = s.log := rfl
@[simp] theorem Dev.setPwr_outs (f : Power → Power) : (s.setPwr f).outs = s.outs := rfl
@[simp] theorem Dev.setPwr_rings (f : Power → Power) : (s.setPwr f).rings = s.rings := rfl
@[simp] theorem Dev.setPwr_liv (f : Power → Power) : (s.setPwr f).liv = s.liv := rfl
@[simp] theorem Dev.setPwr_tiers (f : Power → Power) : (s.setPwr f).tiers = s.tiers := rfl
@[simp] theorem Dev.setPwr_hitches (f : Power → Power) : (s.setPwr f).hitches = s.hitches := rfl
@[simp] theorem Dev.setPwr_stg (f : Power → Power) : (s.setPwr f).stg = s.stg := rfl
@[simp] theorem Dev.setPwr_tpk (f : Power → Power) : (s.setPwr f).tpk = s.tpk := rfl
@[simp] theorem Dev.setPwr_col (f : Power → Power) : (s.setPwr f).col = s.col := rfl
@[simp] theorem Dev.setPwr_landed (f : Power → Power) : (s.setPwr f).landed = s.landed := rfl
@[simp] theorem Dev.setPwr_mmf (f : Power → Power) : (s.setPwr f).mmf = s.mmf := rfl
@[simp] theorem Dev.setPwr_cch (f : Power → Power) : (s.setPwr f).cch = s.cch := rfl
@[simp] theorem Dev.setPwr_job (f : Power → Power) : (s.setPwr f).job = s.job := rfl
@[simp] theorem Dev.setPwr_srv (f : Power → Power) : (s.setPwr f).srv = s.srv := rfl
@[simp] theorem Dev.setPwr_dbg (f : Power → Power) : (s.setPwr f).dbg = s.dbg := rfl
@[simp] theorem Dev.setPwr_ns (f : Power → Power) : (s.setPwr f).ns = s.ns := rfl
@[simp] theorem Dev.setPwr_grd (f : Power → Power) : (s.setPwr f).grd = s.grd := rfl
@[simp] theorem Dev.setPwr_pwr (f : Power → Power) : (s.setPwr f).pwr = f s.pwr := rfl
@[simp] theorem Dev.setPwr_comp (f : Power → Power) : (s.setPwr f).comp = s.comp := rfl
@[simp] theorem Dev.setPwr_ringTurn (f : Power → Power) : (s.setPwr f).ringTurn = s.ringTurn := rfl

@[simp] theorem Dev.setGrd_regs (f : Guard → Guard) : (s.setGrd f).regs = s.regs := rfl
@[simp] theorem Dev.setGrd_wlatch (f : Guard → Guard) : (s.setGrd f).wlatch = s.wlatch := rfl
@[simp] theorem Dev.setGrd_rlatch (f : Guard → Guard) : (s.setGrd f).rlatch = s.rlatch := rfl
@[simp] theorem Dev.setGrd_mem (f : Guard → Guard) : (s.setGrd f).mem = s.mem := rfl
@[simp] theorem Dev.setGrd_bad (f : Guard → Guard) : (s.setGrd f).bad = s.bad := rfl
@[simp] theorem Dev.setGrd_pt (f : Guard → Guard) : (s.setGrd f).pt = s.pt := rfl
@[simp] theorem Dev.setGrd_genNext (f : Guard → Guard) : (s.setGrd f).genNext = s.genNext := rfl
@[simp] theorem Dev.setGrd_cmds (f : Guard → Guard) : (s.setGrd f).cmds = s.cmds := rfl
@[simp] theorem Dev.setGrd_dying (f : Guard → Guard) : (s.setGrd f).dying = s.dying := rfl
@[simp] theorem Dev.setGrd_log (f : Guard → Guard) : (s.setGrd f).log = s.log := rfl
@[simp] theorem Dev.setGrd_outs (f : Guard → Guard) : (s.setGrd f).outs = s.outs := rfl
@[simp] theorem Dev.setGrd_rings (f : Guard → Guard) : (s.setGrd f).rings = s.rings := rfl
@[simp] theorem Dev.setGrd_liv (f : Guard → Guard) : (s.setGrd f).liv = s.liv := rfl
@[simp] theorem Dev.setGrd_tiers (f : Guard → Guard) : (s.setGrd f).tiers = s.tiers := rfl
@[simp] theorem Dev.setGrd_hitches (f : Guard → Guard) : (s.setGrd f).hitches = s.hitches := rfl
@[simp] theorem Dev.setGrd_stg (f : Guard → Guard) : (s.setGrd f).stg = s.stg := rfl
@[simp] theorem Dev.setGrd_tpk (f : Guard → Guard) : (s.setGrd f).tpk = s.tpk := rfl
@[simp] theorem Dev.setGrd_col (f : Guard → Guard) : (s.setGrd f).col = s.col := rfl
@[simp] theorem Dev.setGrd_landed (f : Guard → Guard) : (s.setGrd f).landed = s.landed := rfl
@[simp] theorem Dev.setGrd_mmf (f : Guard → Guard) : (s.setGrd f).mmf = s.mmf := rfl
@[simp] theorem Dev.setGrd_cch (f : Guard → Guard) : (s.setGrd f).cch = s.cch := rfl
@[simp] theorem Dev.setGrd_job (f : Guard → Guard) : (s.setGrd f).job = s.job := rfl
@[simp] theorem Dev.setGrd_srv (f : Guard → Guard) : (s.setGrd f).srv = s.srv := rfl
@[simp] theorem Dev.setGrd_dbg (f : Guard → Guard) : (s.setGrd f).dbg = s.dbg := rfl
@[simp] theorem Dev.setGrd_ns (f : Guard → Guard) : (s.setGrd f).ns = s.ns := rfl
@[simp] theorem Dev.setGrd_pwr (f : Guard → Guard) : (s.setGrd f).pwr = s.pwr := rfl
@[simp] theorem Dev.setGrd_grd (f : Guard → Guard) : (s.setGrd f).grd = f s.grd := rfl
@[simp] theorem Dev.setGrd_comp (f : Guard → Guard) : (s.setGrd f).comp = s.comp := rfl
@[simp] theorem Dev.setGrd_ringTurn (f : Guard → Guard) : (s.setGrd f).ringTurn = s.ringTurn := rfl

@[simp] theorem Dev.setDbg_regs (f : Harness → Harness) : (s.setDbg f).regs = s.regs := rfl
@[simp] theorem Dev.setDbg_wlatch (f : Harness → Harness) : (s.setDbg f).wlatch = s.wlatch := rfl
@[simp] theorem Dev.setDbg_rlatch (f : Harness → Harness) : (s.setDbg f).rlatch = s.rlatch := rfl
@[simp] theorem Dev.setDbg_mem (f : Harness → Harness) : (s.setDbg f).mem = s.mem := rfl
@[simp] theorem Dev.setDbg_bad (f : Harness → Harness) : (s.setDbg f).bad = s.bad := rfl
@[simp] theorem Dev.setDbg_pt (f : Harness → Harness) : (s.setDbg f).pt = s.pt := rfl
@[simp] theorem Dev.setDbg_genNext (f : Harness → Harness) : (s.setDbg f).genNext = s.genNext := rfl
@[simp] theorem Dev.setDbg_cmds (f : Harness → Harness) : (s.setDbg f).cmds = s.cmds := rfl
@[simp] theorem Dev.setDbg_dying (f : Harness → Harness) : (s.setDbg f).dying = s.dying := rfl
@[simp] theorem Dev.setDbg_log (f : Harness → Harness) : (s.setDbg f).log = s.log := rfl
@[simp] theorem Dev.setDbg_outs (f : Harness → Harness) : (s.setDbg f).outs = s.outs := rfl
@[simp] theorem Dev.setDbg_rings (f : Harness → Harness) : (s.setDbg f).rings = s.rings := rfl
@[simp] theorem Dev.setDbg_liv (f : Harness → Harness) : (s.setDbg f).liv = s.liv := rfl
@[simp] theorem Dev.setDbg_tiers (f : Harness → Harness) : (s.setDbg f).tiers = s.tiers := rfl
@[simp] theorem Dev.setDbg_hitches (f : Harness → Harness) : (s.setDbg f).hitches = s.hitches := rfl
@[simp] theorem Dev.setDbg_stg (f : Harness → Harness) : (s.setDbg f).stg = s.stg := rfl
@[simp] theorem Dev.setDbg_tpk (f : Harness → Harness) : (s.setDbg f).tpk = s.tpk := rfl
@[simp] theorem Dev.setDbg_col (f : Harness → Harness) : (s.setDbg f).col = s.col := rfl
@[simp] theorem Dev.setDbg_landed (f : Harness → Harness) : (s.setDbg f).landed = s.landed := rfl
@[simp] theorem Dev.setDbg_mmf (f : Harness → Harness) : (s.setDbg f).mmf = s.mmf := rfl
@[simp] theorem Dev.setDbg_cch (f : Harness → Harness) : (s.setDbg f).cch = s.cch := rfl
@[simp] theorem Dev.setDbg_job (f : Harness → Harness) : (s.setDbg f).job = s.job := rfl
@[simp] theorem Dev.setDbg_srv (f : Harness → Harness) : (s.setDbg f).srv = s.srv := rfl
@[simp] theorem Dev.setDbg_ns (f : Harness → Harness) : (s.setDbg f).ns = s.ns := rfl
@[simp] theorem Dev.setDbg_pwr (f : Harness → Harness) : (s.setDbg f).pwr = s.pwr := rfl
@[simp] theorem Dev.setDbg_grd (f : Harness → Harness) : (s.setDbg f).grd = s.grd := rfl
@[simp] theorem Dev.setDbg_dbg (f : Harness → Harness) : (s.setDbg f).dbg = f s.dbg := rfl
@[simp] theorem Dev.setDbg_comp (f : Harness → Harness) : (s.setDbg f).comp = s.comp := rfl
@[simp] theorem Dev.setDbg_ringTurn (f : Harness → Harness) : (s.setDbg f).ringTurn = s.ringTurn := rfl

@[simp] theorem Dev.setTiers_regs (f : Tiers → Tiers) : (s.setTiers f).regs = s.regs := rfl
@[simp] theorem Dev.setTiers_wlatch (f : Tiers → Tiers) : (s.setTiers f).wlatch = s.wlatch := rfl
@[simp] theorem Dev.setTiers_rlatch (f : Tiers → Tiers) : (s.setTiers f).rlatch = s.rlatch := rfl
@[simp] theorem Dev.setTiers_mem (f : Tiers → Tiers) : (s.setTiers f).mem = s.mem := rfl
@[simp] theorem Dev.setTiers_bad (f : Tiers → Tiers) : (s.setTiers f).bad = s.bad := rfl
@[simp] theorem Dev.setTiers_pt (f : Tiers → Tiers) : (s.setTiers f).pt = s.pt := rfl
@[simp] theorem Dev.setTiers_genNext (f : Tiers → Tiers) : (s.setTiers f).genNext = s.genNext := rfl
@[simp] theorem Dev.setTiers_cmds (f : Tiers → Tiers) : (s.setTiers f).cmds = s.cmds := rfl
@[simp] theorem Dev.setTiers_dying (f : Tiers → Tiers) : (s.setTiers f).dying = s.dying := rfl
@[simp] theorem Dev.setTiers_log (f : Tiers → Tiers) : (s.setTiers f).log = s.log := rfl
@[simp] theorem Dev.setTiers_outs (f : Tiers → Tiers) : (s.setTiers f).outs = s.outs := rfl
@[simp] theorem Dev.setTiers_rings (f : Tiers → Tiers) : (s.setTiers f).rings = s.rings := rfl
@[simp] theorem Dev.setTiers_liv (f : Tiers → Tiers) : (s.setTiers f).liv = s.liv := rfl
@[simp] theorem Dev.setTiers_hitches (f : Tiers → Tiers) : (s.setTiers f).hitches = s.hitches := rfl
@[simp] theorem Dev.setTiers_stg (f : Tiers → Tiers) : (s.setTiers f).stg = s.stg := rfl
@[simp] theorem Dev.setTiers_tpk (f : Tiers → Tiers) : (s.setTiers f).tpk = s.tpk := rfl
@[simp] theorem Dev.setTiers_col (f : Tiers → Tiers) : (s.setTiers f).col = s.col := rfl
@[simp] theorem Dev.setTiers_landed (f : Tiers → Tiers) : (s.setTiers f).landed = s.landed := rfl
@[simp] theorem Dev.setTiers_mmf (f : Tiers → Tiers) : (s.setTiers f).mmf = s.mmf := rfl
@[simp] theorem Dev.setTiers_cch (f : Tiers → Tiers) : (s.setTiers f).cch = s.cch := rfl
@[simp] theorem Dev.setTiers_job (f : Tiers → Tiers) : (s.setTiers f).job = s.job := rfl
@[simp] theorem Dev.setTiers_srv (f : Tiers → Tiers) : (s.setTiers f).srv = s.srv := rfl
@[simp] theorem Dev.setTiers_dbg (f : Tiers → Tiers) : (s.setTiers f).dbg = s.dbg := rfl
@[simp] theorem Dev.setTiers_ns (f : Tiers → Tiers) : (s.setTiers f).ns = s.ns := rfl
@[simp] theorem Dev.setTiers_pwr (f : Tiers → Tiers) : (s.setTiers f).pwr = s.pwr := rfl
@[simp] theorem Dev.setTiers_grd (f : Tiers → Tiers) : (s.setTiers f).grd = s.grd := rfl
@[simp] theorem Dev.setTiers_tiers (f : Tiers → Tiers) : (s.setTiers f).tiers = f s.tiers := rfl
@[simp] theorem Dev.setTiers_comp (f : Tiers → Tiers) : (s.setTiers f).comp = s.comp := rfl
@[simp] theorem Dev.setTiers_ringTurn (f : Tiers → Tiers) : (s.setTiers f).ringTurn = s.ringTurn := rfl

@[simp] theorem Dev.setMmf_regs (f : Mmf → Mmf) : (s.setMmf f).regs = s.regs := rfl
@[simp] theorem Dev.setMmf_wlatch (f : Mmf → Mmf) : (s.setMmf f).wlatch = s.wlatch := rfl
@[simp] theorem Dev.setMmf_rlatch (f : Mmf → Mmf) : (s.setMmf f).rlatch = s.rlatch := rfl
@[simp] theorem Dev.setMmf_mem (f : Mmf → Mmf) : (s.setMmf f).mem = s.mem := rfl
@[simp] theorem Dev.setMmf_bad (f : Mmf → Mmf) : (s.setMmf f).bad = s.bad := rfl
@[simp] theorem Dev.setMmf_pt (f : Mmf → Mmf) : (s.setMmf f).pt = s.pt := rfl
@[simp] theorem Dev.setMmf_genNext (f : Mmf → Mmf) : (s.setMmf f).genNext = s.genNext := rfl
@[simp] theorem Dev.setMmf_cmds (f : Mmf → Mmf) : (s.setMmf f).cmds = s.cmds := rfl
@[simp] theorem Dev.setMmf_dying (f : Mmf → Mmf) : (s.setMmf f).dying = s.dying := rfl
@[simp] theorem Dev.setMmf_log (f : Mmf → Mmf) : (s.setMmf f).log = s.log := rfl
@[simp] theorem Dev.setMmf_outs (f : Mmf → Mmf) : (s.setMmf f).outs = s.outs := rfl
@[simp] theorem Dev.setMmf_rings (f : Mmf → Mmf) : (s.setMmf f).rings = s.rings := rfl
@[simp] theorem Dev.setMmf_liv (f : Mmf → Mmf) : (s.setMmf f).liv = s.liv := rfl
@[simp] theorem Dev.setMmf_tiers (f : Mmf → Mmf) : (s.setMmf f).tiers = s.tiers := rfl
@[simp] theorem Dev.setMmf_hitches (f : Mmf → Mmf) : (s.setMmf f).hitches = s.hitches := rfl
@[simp] theorem Dev.setMmf_stg (f : Mmf → Mmf) : (s.setMmf f).stg = s.stg := rfl
@[simp] theorem Dev.setMmf_tpk (f : Mmf → Mmf) : (s.setMmf f).tpk = s.tpk := rfl
@[simp] theorem Dev.setMmf_col (f : Mmf → Mmf) : (s.setMmf f).col = s.col := rfl
@[simp] theorem Dev.setMmf_landed (f : Mmf → Mmf) : (s.setMmf f).landed = s.landed := rfl
@[simp] theorem Dev.setMmf_cch (f : Mmf → Mmf) : (s.setMmf f).cch = s.cch := rfl
@[simp] theorem Dev.setMmf_job (f : Mmf → Mmf) : (s.setMmf f).job = s.job := rfl
@[simp] theorem Dev.setMmf_srv (f : Mmf → Mmf) : (s.setMmf f).srv = s.srv := rfl
@[simp] theorem Dev.setMmf_dbg (f : Mmf → Mmf) : (s.setMmf f).dbg = s.dbg := rfl
@[simp] theorem Dev.setMmf_ns (f : Mmf → Mmf) : (s.setMmf f).ns = s.ns := rfl
@[simp] theorem Dev.setMmf_pwr (f : Mmf → Mmf) : (s.setMmf f).pwr = s.pwr := rfl
@[simp] theorem Dev.setMmf_grd (f : Mmf → Mmf) : (s.setMmf f).grd = s.grd := rfl
@[simp] theorem Dev.setMmf_mmf (f : Mmf → Mmf) : (s.setMmf f).mmf = f s.mmf := rfl
@[simp] theorem Dev.setMmf_comp (f : Mmf → Mmf) : (s.setMmf f).comp = s.comp := rfl
@[simp] theorem Dev.setMmf_ringTurn (f : Mmf → Mmf) : (s.setMmf f).ringTurn = s.ringTurn := rfl

@[simp] theorem Dev.setCch_regs (f : Coaches → Coaches) : (s.setCch f).regs = s.regs := rfl
@[simp] theorem Dev.setCch_wlatch (f : Coaches → Coaches) : (s.setCch f).wlatch = s.wlatch := rfl
@[simp] theorem Dev.setCch_rlatch (f : Coaches → Coaches) : (s.setCch f).rlatch = s.rlatch := rfl
@[simp] theorem Dev.setCch_mem (f : Coaches → Coaches) : (s.setCch f).mem = s.mem := rfl
@[simp] theorem Dev.setCch_bad (f : Coaches → Coaches) : (s.setCch f).bad = s.bad := rfl
@[simp] theorem Dev.setCch_pt (f : Coaches → Coaches) : (s.setCch f).pt = s.pt := rfl
@[simp] theorem Dev.setCch_genNext (f : Coaches → Coaches) : (s.setCch f).genNext = s.genNext := rfl
@[simp] theorem Dev.setCch_cmds (f : Coaches → Coaches) : (s.setCch f).cmds = s.cmds := rfl
@[simp] theorem Dev.setCch_dying (f : Coaches → Coaches) : (s.setCch f).dying = s.dying := rfl
@[simp] theorem Dev.setCch_log (f : Coaches → Coaches) : (s.setCch f).log = s.log := rfl
@[simp] theorem Dev.setCch_outs (f : Coaches → Coaches) : (s.setCch f).outs = s.outs := rfl
@[simp] theorem Dev.setCch_rings (f : Coaches → Coaches) : (s.setCch f).rings = s.rings := rfl
@[simp] theorem Dev.setCch_liv (f : Coaches → Coaches) : (s.setCch f).liv = s.liv := rfl
@[simp] theorem Dev.setCch_tiers (f : Coaches → Coaches) : (s.setCch f).tiers = s.tiers := rfl
@[simp] theorem Dev.setCch_hitches (f : Coaches → Coaches) : (s.setCch f).hitches = s.hitches := rfl
@[simp] theorem Dev.setCch_stg (f : Coaches → Coaches) : (s.setCch f).stg = s.stg := rfl
@[simp] theorem Dev.setCch_tpk (f : Coaches → Coaches) : (s.setCch f).tpk = s.tpk := rfl
@[simp] theorem Dev.setCch_col (f : Coaches → Coaches) : (s.setCch f).col = s.col := rfl
@[simp] theorem Dev.setCch_landed (f : Coaches → Coaches) : (s.setCch f).landed = s.landed := rfl
@[simp] theorem Dev.setCch_mmf (f : Coaches → Coaches) : (s.setCch f).mmf = s.mmf := rfl
@[simp] theorem Dev.setCch_job (f : Coaches → Coaches) : (s.setCch f).job = s.job := rfl
@[simp] theorem Dev.setCch_srv (f : Coaches → Coaches) : (s.setCch f).srv = s.srv := rfl
@[simp] theorem Dev.setCch_dbg (f : Coaches → Coaches) : (s.setCch f).dbg = s.dbg := rfl
@[simp] theorem Dev.setCch_ns (f : Coaches → Coaches) : (s.setCch f).ns = s.ns := rfl
@[simp] theorem Dev.setCch_pwr (f : Coaches → Coaches) : (s.setCch f).pwr = s.pwr := rfl
@[simp] theorem Dev.setCch_grd (f : Coaches → Coaches) : (s.setCch f).grd = s.grd := rfl
@[simp] theorem Dev.setCch_cch (f : Coaches → Coaches) : (s.setCch f).cch = f s.cch := rfl
@[simp] theorem Dev.setCch_comp (f : Coaches → Coaches) : (s.setCch f).comp = s.comp := rfl
@[simp] theorem Dev.setCch_ringTurn (f : Coaches → Coaches) : (s.setCch f).ringTurn = s.ringTurn := rfl

@[simp] theorem Dev.setJob_regs (f : Job → Job) : (s.setJob f).regs = s.regs := rfl
@[simp] theorem Dev.setJob_wlatch (f : Job → Job) : (s.setJob f).wlatch = s.wlatch := rfl
@[simp] theorem Dev.setJob_rlatch (f : Job → Job) : (s.setJob f).rlatch = s.rlatch := rfl
@[simp] theorem Dev.setJob_mem (f : Job → Job) : (s.setJob f).mem = s.mem := rfl
@[simp] theorem Dev.setJob_bad (f : Job → Job) : (s.setJob f).bad = s.bad := rfl
@[simp] theorem Dev.setJob_pt (f : Job → Job) : (s.setJob f).pt = s.pt := rfl
@[simp] theorem Dev.setJob_genNext (f : Job → Job) : (s.setJob f).genNext = s.genNext := rfl
@[simp] theorem Dev.setJob_cmds (f : Job → Job) : (s.setJob f).cmds = s.cmds := rfl
@[simp] theorem Dev.setJob_dying (f : Job → Job) : (s.setJob f).dying = s.dying := rfl
@[simp] theorem Dev.setJob_log (f : Job → Job) : (s.setJob f).log = s.log := rfl
@[simp] theorem Dev.setJob_outs (f : Job → Job) : (s.setJob f).outs = s.outs := rfl
@[simp] theorem Dev.setJob_rings (f : Job → Job) : (s.setJob f).rings = s.rings := rfl
@[simp] theorem Dev.setJob_liv (f : Job → Job) : (s.setJob f).liv = s.liv := rfl
@[simp] theorem Dev.setJob_tiers (f : Job → Job) : (s.setJob f).tiers = s.tiers := rfl
@[simp] theorem Dev.setJob_hitches (f : Job → Job) : (s.setJob f).hitches = s.hitches := rfl
@[simp] theorem Dev.setJob_stg (f : Job → Job) : (s.setJob f).stg = s.stg := rfl
@[simp] theorem Dev.setJob_tpk (f : Job → Job) : (s.setJob f).tpk = s.tpk := rfl
@[simp] theorem Dev.setJob_col (f : Job → Job) : (s.setJob f).col = s.col := rfl
@[simp] theorem Dev.setJob_landed (f : Job → Job) : (s.setJob f).landed = s.landed := rfl
@[simp] theorem Dev.setJob_mmf (f : Job → Job) : (s.setJob f).mmf = s.mmf := rfl
@[simp] theorem Dev.setJob_cch (f : Job → Job) : (s.setJob f).cch = s.cch := rfl
@[simp] theorem Dev.setJob_srv (f : Job → Job) : (s.setJob f).srv = s.srv := rfl
@[simp] theorem Dev.setJob_dbg (f : Job → Job) : (s.setJob f).dbg = s.dbg := rfl
@[simp] theorem Dev.setJob_ns (f : Job → Job) : (s.setJob f).ns = s.ns := rfl
@[simp] theorem Dev.setJob_pwr (f : Job → Job) : (s.setJob f).pwr = s.pwr := rfl
@[simp] theorem Dev.setJob_grd (f : Job → Job) : (s.setJob f).grd = s.grd := rfl
@[simp] theorem Dev.setJob_job (f : Job → Job) : (s.setJob f).job = f s.job := rfl
@[simp] theorem Dev.setJob_comp (f : Job → Job) : (s.setJob f).comp = s.comp := rfl
@[simp] theorem Dev.setJob_ringTurn (f : Job → Job) : (s.setJob f).ringTurn = s.ringTurn := rfl

@[simp] theorem Dev.setSrv_regs (f : Serving → Serving) : (s.setSrv f).regs = s.regs := rfl
@[simp] theorem Dev.setSrv_wlatch (f : Serving → Serving) : (s.setSrv f).wlatch = s.wlatch := rfl
@[simp] theorem Dev.setSrv_rlatch (f : Serving → Serving) : (s.setSrv f).rlatch = s.rlatch := rfl
@[simp] theorem Dev.setSrv_mem (f : Serving → Serving) : (s.setSrv f).mem = s.mem := rfl
@[simp] theorem Dev.setSrv_bad (f : Serving → Serving) : (s.setSrv f).bad = s.bad := rfl
@[simp] theorem Dev.setSrv_pt (f : Serving → Serving) : (s.setSrv f).pt = s.pt := rfl
@[simp] theorem Dev.setSrv_genNext (f : Serving → Serving) : (s.setSrv f).genNext = s.genNext := rfl
@[simp] theorem Dev.setSrv_cmds (f : Serving → Serving) : (s.setSrv f).cmds = s.cmds := rfl
@[simp] theorem Dev.setSrv_dying (f : Serving → Serving) : (s.setSrv f).dying = s.dying := rfl
@[simp] theorem Dev.setSrv_log (f : Serving → Serving) : (s.setSrv f).log = s.log := rfl
@[simp] theorem Dev.setSrv_outs (f : Serving → Serving) : (s.setSrv f).outs = s.outs := rfl
@[simp] theorem Dev.setSrv_rings (f : Serving → Serving) : (s.setSrv f).rings = s.rings := rfl
@[simp] theorem Dev.setSrv_liv (f : Serving → Serving) : (s.setSrv f).liv = s.liv := rfl
@[simp] theorem Dev.setSrv_tiers (f : Serving → Serving) : (s.setSrv f).tiers = s.tiers := rfl
@[simp] theorem Dev.setSrv_hitches (f : Serving → Serving) : (s.setSrv f).hitches = s.hitches := rfl
@[simp] theorem Dev.setSrv_stg (f : Serving → Serving) : (s.setSrv f).stg = s.stg := rfl
@[simp] theorem Dev.setSrv_tpk (f : Serving → Serving) : (s.setSrv f).tpk = s.tpk := rfl
@[simp] theorem Dev.setSrv_col (f : Serving → Serving) : (s.setSrv f).col = s.col := rfl
@[simp] theorem Dev.setSrv_landed (f : Serving → Serving) : (s.setSrv f).landed = s.landed := rfl
@[simp] theorem Dev.setSrv_mmf (f : Serving → Serving) : (s.setSrv f).mmf = s.mmf := rfl
@[simp] theorem Dev.setSrv_cch (f : Serving → Serving) : (s.setSrv f).cch = s.cch := rfl
@[simp] theorem Dev.setSrv_job (f : Serving → Serving) : (s.setSrv f).job = s.job := rfl
@[simp] theorem Dev.setSrv_dbg (f : Serving → Serving) : (s.setSrv f).dbg = s.dbg := rfl
@[simp] theorem Dev.setSrv_ns (f : Serving → Serving) : (s.setSrv f).ns = s.ns := rfl
@[simp] theorem Dev.setSrv_pwr (f : Serving → Serving) : (s.setSrv f).pwr = s.pwr := rfl
@[simp] theorem Dev.setSrv_grd (f : Serving → Serving) : (s.setSrv f).grd = s.grd := rfl
@[simp] theorem Dev.setSrv_srv (f : Serving → Serving) : (s.setSrv f).srv = f s.srv := rfl
@[simp] theorem Dev.setSrv_comp (f : Serving → Serving) : (s.setSrv f).comp = s.comp := rfl
@[simp] theorem Dev.setSrv_ringTurn (f : Serving → Serving) : (s.setSrv f).ringTurn = s.ringTurn := rfl

@[simp] theorem Dev.setHitch_regs (h : Nat) (x : Hitch) : (s.setHitch h x).regs = s.regs := rfl
@[simp] theorem Dev.setHitch_wlatch (h : Nat) (x : Hitch) : (s.setHitch h x).wlatch = s.wlatch := rfl
@[simp] theorem Dev.setHitch_rlatch (h : Nat) (x : Hitch) : (s.setHitch h x).rlatch = s.rlatch := rfl
@[simp] theorem Dev.setHitch_mem (h : Nat) (x : Hitch) : (s.setHitch h x).mem = s.mem := rfl
@[simp] theorem Dev.setHitch_bad (h : Nat) (x : Hitch) : (s.setHitch h x).bad = s.bad := rfl
@[simp] theorem Dev.setHitch_pt (h : Nat) (x : Hitch) : (s.setHitch h x).pt = s.pt := rfl
@[simp] theorem Dev.setHitch_genNext (h : Nat) (x : Hitch) : (s.setHitch h x).genNext = s.genNext := rfl
@[simp] theorem Dev.setHitch_cmds (h : Nat) (x : Hitch) : (s.setHitch h x).cmds = s.cmds := rfl
@[simp] theorem Dev.setHitch_dying (h : Nat) (x : Hitch) : (s.setHitch h x).dying = s.dying := rfl
@[simp] theorem Dev.setHitch_log (h : Nat) (x : Hitch) : (s.setHitch h x).log = s.log := rfl
@[simp] theorem Dev.setHitch_outs (h : Nat) (x : Hitch) : (s.setHitch h x).outs = s.outs := rfl
@[simp] theorem Dev.setHitch_rings (h : Nat) (x : Hitch) : (s.setHitch h x).rings = s.rings := rfl
@[simp] theorem Dev.setHitch_liv (h : Nat) (x : Hitch) : (s.setHitch h x).liv = s.liv := rfl
@[simp] theorem Dev.setHitch_tiers (h : Nat) (x : Hitch) : (s.setHitch h x).tiers = s.tiers := rfl
@[simp] theorem Dev.setHitch_stg (h : Nat) (x : Hitch) : (s.setHitch h x).stg = s.stg := rfl
@[simp] theorem Dev.setHitch_tpk (h : Nat) (x : Hitch) : (s.setHitch h x).tpk = s.tpk := rfl
@[simp] theorem Dev.setHitch_col (h : Nat) (x : Hitch) : (s.setHitch h x).col = s.col := rfl
@[simp] theorem Dev.setHitch_landed (h : Nat) (x : Hitch) : (s.setHitch h x).landed = s.landed := rfl
@[simp] theorem Dev.setHitch_mmf (h : Nat) (x : Hitch) : (s.setHitch h x).mmf = s.mmf := rfl
@[simp] theorem Dev.setHitch_cch (h : Nat) (x : Hitch) : (s.setHitch h x).cch = s.cch := rfl
@[simp] theorem Dev.setHitch_job (h : Nat) (x : Hitch) : (s.setHitch h x).job = s.job := rfl
@[simp] theorem Dev.setHitch_srv (h : Nat) (x : Hitch) : (s.setHitch h x).srv = s.srv := rfl
@[simp] theorem Dev.setHitch_dbg (h : Nat) (x : Hitch) : (s.setHitch h x).dbg = s.dbg := rfl
@[simp] theorem Dev.setHitch_ns (h : Nat) (x : Hitch) : (s.setHitch h x).ns = s.ns := rfl
@[simp] theorem Dev.setHitch_pwr (h : Nat) (x : Hitch) : (s.setHitch h x).pwr = s.pwr := rfl
@[simp] theorem Dev.setHitch_grd (h : Nat) (x : Hitch) : (s.setHitch h x).grd = s.grd := rfl
@[simp] theorem Dev.setHitch_comp (h : Nat) (x : Hitch) : (s.setHitch h x).comp = s.comp := rfl
@[simp] theorem Dev.setHitch_ringTurn (h : Nat) (x : Hitch) : (s.setHitch h x).ringTurn = s.ringTurn := rfl

@[simp] theorem Dev.record_wlatch (cls code detail gen block inst : Nat) : (s.record cls code detail gen block inst).wlatch = s.wlatch := by
  unfold Dev.record; dsimp only; split <;> rfl
@[simp] theorem Dev.record_rlatch (cls code detail gen block inst : Nat) : (s.record cls code detail gen block inst).rlatch = s.rlatch := by
  unfold Dev.record; dsimp only; split <;> rfl
@[simp] theorem Dev.record_mem (cls code detail gen block inst : Nat) : (s.record cls code detail gen block inst).mem = s.mem := by
  unfold Dev.record; dsimp only; split <;> rfl
@[simp] theorem Dev.record_bad (cls code detail gen block inst : Nat) : (s.record cls code detail gen block inst).bad = s.bad := by
  unfold Dev.record; dsimp only; split <;> rfl
@[simp] theorem Dev.record_pt (cls code detail gen block inst : Nat) : (s.record cls code detail gen block inst).pt = s.pt := by
  unfold Dev.record; dsimp only; split <;> rfl
@[simp] theorem Dev.record_genNext (cls code detail gen block inst : Nat) : (s.record cls code detail gen block inst).genNext = s.genNext := by
  unfold Dev.record; dsimp only; split <;> rfl
@[simp] theorem Dev.record_outs (cls code detail gen block inst : Nat) : (s.record cls code detail gen block inst).outs = s.outs := by
  unfold Dev.record; dsimp only; split <;> rfl
@[simp] theorem Dev.record_rings (cls code detail gen block inst : Nat) : (s.record cls code detail gen block inst).rings = s.rings := by
  unfold Dev.record; dsimp only; split <;> rfl
@[simp] theorem Dev.record_liv (cls code detail gen block inst : Nat) : (s.record cls code detail gen block inst).liv = s.liv := by
  unfold Dev.record; dsimp only; split <;> rfl
@[simp] theorem Dev.record_tiers (cls code detail gen block inst : Nat) : (s.record cls code detail gen block inst).tiers = s.tiers := by
  unfold Dev.record; dsimp only; split <;> rfl
@[simp] theorem Dev.record_hitches (cls code detail gen block inst : Nat) : (s.record cls code detail gen block inst).hitches = s.hitches := by
  unfold Dev.record; dsimp only; split <;> rfl
@[simp] theorem Dev.record_stg (cls code detail gen block inst : Nat) : (s.record cls code detail gen block inst).stg = s.stg := by
  unfold Dev.record; dsimp only; split <;> rfl
@[simp] theorem Dev.record_tpk (cls code detail gen block inst : Nat) : (s.record cls code detail gen block inst).tpk = s.tpk := by
  unfold Dev.record; dsimp only; split <;> rfl
@[simp] theorem Dev.record_col (cls code detail gen block inst : Nat) : (s.record cls code detail gen block inst).col = s.col := by
  unfold Dev.record; dsimp only; split <;> rfl
@[simp] theorem Dev.record_landed (cls code detail gen block inst : Nat) : (s.record cls code detail gen block inst).landed = s.landed := by
  unfold Dev.record; dsimp only; split <;> rfl
@[simp] theorem Dev.record_mmf (cls code detail gen block inst : Nat) : (s.record cls code detail gen block inst).mmf = s.mmf := by
  unfold Dev.record; dsimp only; split <;> rfl
@[simp] theorem Dev.record_cch (cls code detail gen block inst : Nat) : (s.record cls code detail gen block inst).cch = s.cch := by
  unfold Dev.record; dsimp only; split <;> rfl
@[simp] theorem Dev.record_job (cls code detail gen block inst : Nat) : (s.record cls code detail gen block inst).job = s.job := by
  unfold Dev.record; dsimp only; split <;> rfl
@[simp] theorem Dev.record_srv (cls code detail gen block inst : Nat) : (s.record cls code detail gen block inst).srv = s.srv := by
  unfold Dev.record; dsimp only; split <;> rfl
@[simp] theorem Dev.record_dbg (cls code detail gen block inst : Nat) : (s.record cls code detail gen block inst).dbg = s.dbg := by
  unfold Dev.record; dsimp only; split <;> rfl
@[simp] theorem Dev.record_ns (cls code detail gen block inst : Nat) : (s.record cls code detail gen block inst).ns = s.ns := by
  unfold Dev.record; dsimp only; split <;> rfl
@[simp] theorem Dev.record_pwr (cls code detail gen block inst : Nat) : (s.record cls code detail gen block inst).pwr = s.pwr := by
  unfold Dev.record; dsimp only; split <;> rfl
@[simp] theorem Dev.record_grd (cls code detail gen block inst : Nat) : (s.record cls code detail gen block inst).grd = s.grd := by
  unfold Dev.record; dsimp only; split <;> rfl
@[simp] theorem Dev.record_comp (cls code detail gen block inst : Nat) : (s.record cls code detail gen block inst).comp = s.comp := by
  unfold Dev.record; dsimp only; split <;> rfl
@[simp] theorem Dev.record_ringTurn (cls code detail gen block inst : Nat) : (s.record cls code detail gen block inst).ringTurn = s.ringTurn := by
  unfold Dev.record; dsimp only; split <;> rfl

@[simp] theorem Dev.lentEnd_regs (g : Nat) : (s.lentEnd g).regs = s.regs := by unfold Dev.lentEnd; split <;> rfl
@[simp] theorem Dev.lentEnd_wlatch (g : Nat) : (s.lentEnd g).wlatch = s.wlatch := by unfold Dev.lentEnd; split <;> rfl
@[simp] theorem Dev.lentEnd_rlatch (g : Nat) : (s.lentEnd g).rlatch = s.rlatch := by unfold Dev.lentEnd; split <;> rfl
@[simp] theorem Dev.lentEnd_mem (g : Nat) : (s.lentEnd g).mem = s.mem := by unfold Dev.lentEnd; split <;> rfl
@[simp] theorem Dev.lentEnd_bad (g : Nat) : (s.lentEnd g).bad = s.bad := by unfold Dev.lentEnd; split <;> rfl
@[simp] theorem Dev.lentEnd_pt (g : Nat) : (s.lentEnd g).pt = s.pt := by unfold Dev.lentEnd; split <;> rfl
@[simp] theorem Dev.lentEnd_genNext (g : Nat) : (s.lentEnd g).genNext = s.genNext := by unfold Dev.lentEnd; split <;> rfl
@[simp] theorem Dev.lentEnd_cmds (g : Nat) : (s.lentEnd g).cmds = s.cmds := by unfold Dev.lentEnd; split <;> rfl
@[simp] theorem Dev.lentEnd_dying (g : Nat) : (s.lentEnd g).dying = s.dying := by unfold Dev.lentEnd; split <;> rfl
@[simp] theorem Dev.lentEnd_log (g : Nat) : (s.lentEnd g).log = s.log := by unfold Dev.lentEnd; split <;> rfl
@[simp] theorem Dev.lentEnd_outs (g : Nat) : (s.lentEnd g).outs = s.outs := by unfold Dev.lentEnd; split <;> rfl
@[simp] theorem Dev.lentEnd_rings (g : Nat) : (s.lentEnd g).rings = s.rings := by unfold Dev.lentEnd; split <;> rfl
@[simp] theorem Dev.lentEnd_comp (g : Nat) : (s.lentEnd g).comp = s.comp := by unfold Dev.lentEnd; split <;> rfl
@[simp] theorem Dev.lentEnd_ringTurn (g : Nat) : (s.lentEnd g).ringTurn = s.ringTurn := by unfold Dev.lentEnd; split <;> rfl
@[simp] theorem Dev.lentEnd_liv (g : Nat) : (s.lentEnd g).liv = s.liv := by unfold Dev.lentEnd; split <;> rfl
@[simp] theorem Dev.lentEnd_tiers (g : Nat) : (s.lentEnd g).tiers = s.tiers := by unfold Dev.lentEnd; split <;> rfl
@[simp] theorem Dev.lentEnd_hitches (g : Nat) : (s.lentEnd g).hitches = s.hitches := by unfold Dev.lentEnd; split <;> rfl
@[simp] theorem Dev.lentEnd_tpk (g : Nat) : (s.lentEnd g).tpk = s.tpk := by unfold Dev.lentEnd; split <;> rfl
@[simp] theorem Dev.lentEnd_col (g : Nat) : (s.lentEnd g).col = s.col := by unfold Dev.lentEnd; split <;> rfl
@[simp] theorem Dev.lentEnd_landed (g : Nat) : (s.lentEnd g).landed = s.landed := by unfold Dev.lentEnd; split <;> rfl
@[simp] theorem Dev.lentEnd_cch (g : Nat) : (s.lentEnd g).cch = s.cch := by unfold Dev.lentEnd; split <;> rfl
@[simp] theorem Dev.lentEnd_job (g : Nat) : (s.lentEnd g).job = s.job := by unfold Dev.lentEnd; split <;> rfl
@[simp] theorem Dev.lentEnd_srv (g : Nat) : (s.lentEnd g).srv = s.srv := by unfold Dev.lentEnd; split <;> rfl
@[simp] theorem Dev.lentEnd_dbg (g : Nat) : (s.lentEnd g).dbg = s.dbg := by unfold Dev.lentEnd; split <;> rfl
@[simp] theorem Dev.lentEnd_ns (g : Nat) : (s.lentEnd g).ns = s.ns := by unfold Dev.lentEnd; split <;> rfl
@[simp] theorem Dev.lentEnd_pwr (g : Nat) : (s.lentEnd g).pwr = s.pwr := by unfold Dev.lentEnd; split <;> rfl
@[simp] theorem Dev.lentEnd_grd (g : Nat) : (s.lentEnd g).grd = s.grd := by unfold Dev.lentEnd; split <;> rfl

end Sys2Proof.Machine
end

