-- ==== Sys2Proof/Laws/Reg.lean ====
section
/-! SUPPORT. Registers after the named operations: a register, a field or a flag read back, and everything else as it was;
the error record that `Dev.record` makes; and what the two forms of a command's effect answer. -/
namespace Sys2Proof.Machine

variable (s : Dev)

/-- Two devices with the same register table show the same registers. -/
theorem Dev.reg_congr {s t : Dev} (h : t.regs = s.regs) (k : Nat) : t.reg k = s.reg k := by unfold Dev.reg; rw [h]
theorem Dev.fld_congr {s t : Dev} {k : Nat} (h : t.reg k = s.reg k) (lo w : Nat) : t.fld k lo w = s.fld k lo w := by
  unfold Dev.fld; rw [h]
theorem Dev.flag_congr {s t : Dev} {k : Nat} (h : t.reg k = s.reg k) (i : Nat) : t.flag k i = s.flag k i := by
  unfold Dev.flag; rw [h]

/-- A register written reads what was written, in its 64 bits. -/
@[simp] theorem Dev.reg_setReg_same (off v : Nat) : (s.setReg off v).reg off = v % 2 ^ 64 := by
  simp [Dev.reg, Dev.setReg]

/-- A register write leaves every other register as it was. -/
theorem Dev.reg_setReg_ne {off k : Nat} (v : Nat) (h : k ≠ off) : (s.setReg off v).reg k = s.reg k := by
  simp [Dev.reg, Dev.setReg, Sparse.get_put_ne _ _ _ h]

theorem Dev.reg_lt (k : Nat) : s.reg k < 2 ^ 64 := (Sparse.get regDefault s.regs k).isLt

@[simp] theorem Dev.reg_setFld_same (off lo w v : Nat) :
    (s.setFld off lo w v).reg off = setBits (s.reg off) lo w v % 2 ^ 64 := Dev.reg_setReg_same _ _ _
theorem Dev.reg_setFld_ne {off k : Nat} (lo w v : Nat) (h : k ≠ off) : (s.setFld off lo w v).reg k = s.reg k :=
  Dev.reg_setReg_ne _ _ h
theorem Dev.reg_setFlag_ne {off k : Nat} (i : Nat) (b : Bool) (h : k ≠ off) : (s.setFlag off i b).reg k = s.reg k :=
  Dev.reg_setReg_ne _ _ h
@[simp] theorem Dev.reg_bump_same (off n : Nat) : (s.bump off n).reg off = (s.reg off + n) % 2 ^ 64 :=
  Dev.reg_setReg_same _ _ _
theorem Dev.reg_bump_ne {off k : Nat} (n : Nat) (h : k ≠ off) : (s.bump off n).reg k = s.reg k := Dev.reg_setReg_ne _ _ h

/-- A field written reads what was written. -/
theorem Dev.fld_setFld_same {lo w : Nat} (off v : Nat) (h : lo + w ≤ 64) : (s.setFld off lo w v).fld off lo w = v % 2 ^ w := by
  unfold Dev.fld; rw [Dev.reg_setFld_same, bits_mod _ h, bits_setBits_same]

/-- A write of a field leaves the fields below and above it as they were. -/
theorem Dev.fld_setFld_below {lo w lo' w' : Nat} (off v : Nat) (h : lo' + w' ≤ lo) (h64 : lo' + w' ≤ 64) :
    (s.setFld off lo w v).fld off lo' w' = s.fld off lo' w' := by
  unfold Dev.fld; rw [Dev.reg_setFld_same, bits_mod _ h64, bits_setBits_below _ _ _ _ h]
theorem Dev.fld_setFld_above {lo w lo' w' : Nat} (off v : Nat) (h : lo + w ≤ lo') (h64 : lo' + w' ≤ 64) :
    (s.setFld off lo w v).fld off lo' w' = s.fld off lo' w' := by
  unfold Dev.fld; rw [Dev.reg_setFld_same, bits_mod _ h64, bits_setBits_above _ _ _ _ h]
theorem Dev.fld_setFld_ne {off k : Nat} (lo w v lo' w' : Nat) (h : k ≠ off) :
    (s.setFld off lo w v).fld k lo' w' = s.fld k lo' w' := Dev.fld_congr (Dev.reg_setFld_ne s lo w v h) _ _
theorem Dev.fld_setReg_same {lo w : Nat} (off v : Nat) (h : lo + w ≤ 64) : (s.setReg off v).fld off lo w = bits v lo w := by
  unfold Dev.fld; rw [Dev.reg_setReg_same, bits_mod _ h]
theorem Dev.fld_setReg_ne {off k : Nat} (v lo w : Nat) (h : k ≠ off) : (s.setReg off v).fld k lo w = s.fld k lo w :=
  Dev.fld_congr (Dev.reg_setReg_ne s v h) _ _
theorem Dev.fld_bump_ne {off k : Nat} (n lo w : Nat) (h : k ≠ off) : (s.bump off n).fld k lo w = s.fld k lo w :=
  Dev.fld_congr (Dev.reg_bump_ne s n h) _ _

theorem Dev.flag_eq_fld (k i : Nat) : s.flag k i = (s.fld k i 1 == 1) := bit_eq_bits _ _

/-- A flag written reads what was written. -/
theorem Dev.flag_setFlag_same {i : Nat} (off : Nat) (b : Bool) (h : i < 64) : (s.setFlag off i b).flag off i = b := by
  rw [Dev.flag_eq_fld]; unfold Dev.setFlag
  rw [Dev.fld_setFld_same _ _ _ (by omega)]; cases b <;> rfl
theorem Dev.flag_setFlag_bit {i j : Nat} (off : Nat) (b : Bool) (h : j ≠ i) (hj : j < 64) :
    (s.setFlag off i b).flag off j = s.flag off j := by
  rw [Dev.flag_eq_fld, Dev.flag_eq_fld]; unfold Dev.setFlag
  rcases Nat.lt_or_gt_of_ne h with h | h
  · rw [Dev.fld_setFld_below _ _ _ (by omega) (by omega)]
  · rw [Dev.fld_setFld_above _ _ _ (by omega) (by omega)]
theorem Dev.flag_setFlag_ne {off k : Nat} (i j : Nat) (b : Bool) (h : k ≠ off) : (s.setFlag off i b).flag k j = s.flag k j :=
  Dev.flag_congr (Dev.reg_setFlag_ne s i b h) _
theorem Dev.flag_setReg_ne {off k : Nat} (v j : Nat) (h : k ≠ off) : (s.setReg off v).flag k j = s.flag k j :=
  Dev.flag_congr (Dev.reg_setReg_ne s v h) _
theorem Dev.flag_setFld_ne {off k : Nat} (lo w v j : Nat) (h : k ≠ off) : (s.setFld off lo w v).flag k j = s.flag k j :=
  Dev.flag_congr (Dev.reg_setFld_ne s lo w v h) _
theorem Dev.flag_bump_ne {off k : Nat} (n j : Nat) (h : k ≠ off) : (s.bump off n).flag k j = s.flag k j :=
  Dev.flag_congr (Dev.reg_bump_ne s n h) _

/-! ### Updates that leave the registers alone -/

@[simp] theorem Dev.reg_emit (o : Out) (k : Nat) : (s.emit o).reg k = s.reg k := rfl
@[simp] theorem Dev.reg_wr (k' : Nat) (v : Byte) (k : Nat) : (s.wr k' v).reg k = s.reg k := rfl
@[simp] theorem Dev.reg_setLine (k' : Nat) (l : LineState) (k : Nat) : (s.setLine k' l).reg k = s.reg k := rfl
@[simp] theorem Dev.reg_setPte (p e k : Nat) : (s.setPte p e).reg k = s.reg k := rfl
@[simp] theorem Dev.reg_setRing (r : Nat) (x : Ring) (k : Nat) : (s.setRing r x).reg k = s.reg k := rfl
@[simp] theorem Dev.reg_updCmd (g : Nat) (f : Cmd → Cmd) (k : Nat) : (s.updCmd g f).reg k = s.reg k := rfl
@[simp] theorem Dev.reg_setPwr (f : Power → Power) (k : Nat) : (s.setPwr f).reg k = s.reg k := rfl
@[simp] theorem Dev.reg_setGrd (f : Guard → Guard) (k : Nat) : (s.setGrd f).reg k = s.reg k := rfl
@[simp] theorem Dev.reg_setDbg (f : Harness → Harness) (k : Nat) : (s.setDbg f).reg k = s.reg k := rfl
@[simp] theorem Dev.reg_setTiers (f : Tiers → Tiers) (k : Nat) : (s.setTiers f).reg k = s.reg k := rfl
@[simp] theorem Dev.reg_setMmf (f : Mmf → Mmf) (k : Nat) : (s.setMmf f).reg k = s.reg k := rfl
@[simp] theorem Dev.reg_setCch (f : Coaches → Coaches) (k : Nat) : (s.setCch f).reg k = s.reg k := rfl
@[simp] theorem Dev.reg_setJob (f : Job → Job) (k : Nat) : (s.setJob f).reg k = s.reg k := rfl
@[simp] theorem Dev.reg_setSrv (f : Serving → Serving) (k : Nat) : (s.setSrv f).reg k = s.reg k := rfl
@[simp] theorem Dev.reg_setHitch (h : Nat) (x : Hitch) (k : Nat) : (s.setHitch h x).reg k = s.reg k := rfl

/-! ### Error records -/

/-- A record takes the next SEQ. -/
@[simp] theorem Dev.record_seq (cls code detail gen block inst : Nat) :
    (s.record cls code detail gen block inst).log.seq = s.log.seq + 1 := by
  unfold Dev.record; dsimp only; split <;> rfl

/-- A record changes no register but ERR_TAIL, ERR_CNT_DROP and the counter of its class. -/
theorem Dev.reg_record (cls code detail gen block inst : Nat) {k : Nat} (h1 : k ≠ Reg.ERR_TAIL)
    (h2 : k ≠ Reg.ERR_CNT_DROP) (h3 : k ≠ Reg.ERR_CNT cls) :
    (s.record cls code detail gen block inst).reg k = s.reg k := by
  unfold Dev.record; dsimp only
  split
  · rw [Dev.reg_bump_ne _ _ h3, Dev.reg_bump_ne _ _ h2]; rfl
  · rw [Dev.reg_bump_ne _ _ h3, Dev.reg_setFld_ne _ _ _ _ h1]; rfl

/-- A record below register block 16 leaves it alone. -/
theorem Dev.reg_record_lt (cls code detail gen block inst : Nat) {k : Nat} (h : k < 0x1000000) :
    (s.record cls code detail gen block inst).reg k = s.reg k := by
  have h3 : Reg.ERR_CNT cls = 0x1000020 + 0x8 * cls := rfl
  exact Dev.reg_record s _ _ _ _ _ _ (by show k ≠ 0x1000004; omega) (by show k ≠ 0x1000010; omega) (by rw [h3]; omega)

/-- A record counts in its class. -/
theorem Dev.record_count {cls : Nat} (code detail gen block inst : Nat) :
    (s.record cls code detail gen block inst).reg (Reg.ERR_CNT cls) = (s.reg (Reg.ERR_CNT cls) + 1) % 2 ^ 64 := by
  have h3 : Reg.ERR_CNT cls = 0x1000020 + 0x8 * cls := rfl
  have hd : Reg.ERR_CNT cls ≠ Reg.ERR_CNT_DROP := by rw [h3]; show _ ≠ 0x1000010; omega
  have ht : Reg.ERR_CNT cls ≠ Reg.ERR_TAIL := by rw [h3]; show _ ≠ 0x1000004; omega
  unfold Dev.record; dsimp only
  split
  · rw [Dev.reg_bump_same, Dev.reg_bump_ne _ _ hd]; rfl
  · rw [Dev.reg_bump_same, Dev.reg_setFld_ne _ _ _ _ ht]; rfl

/-! ### The two forms of a command's effect -/

/-- A working device takes the effect of a command. -/
theorem State.upd_alive {s : State} (h : s.dev.alive = true) (f : Dev → Dev) : s.upd f = .next { s with dev := f s.dev } := by
  simp [State.upd, h]
/-- A device that does not work takes none. -/
theorem State.upd_dead {s : State} (h : s.dev.alive = false) (f : Dev → Dev) : s.upd f = .next s := by
  simp [State.upd, h]
/-- A command's effect leaves the queue. -/
theorem State.upd_pending {s t : State} {f : Dev → Dev} (h : s.upd f = .next t) : t.pending = s.pending := by
  simp only [State.upd, Host.Outcome.next.injEq] at h; rw [← h]
theorem State.guard_pending {s t : State} {f : Dev → Dev} (h : s.guard f = .next t) : t.pending = s.pending := by
  simp only [State.guard, Host.Outcome.next.injEq] at h; rw [← h]

/-- Whether a device works rests on the Guard's stage and GRD_BOOTSTAT alone. -/
theorem Dev.alive_congr {s t : Dev} (hg : t.grd.stage = s.grd.stage) (hr : t.reg Reg.GRD_BOOTSTAT = s.reg Reg.GRD_BOOTSTAT) :
    t.alive = s.alive := by
  unfold Dev.alive; rw [hg, Dev.flag_congr hr, Dev.fld_congr hr]

end Sys2Proof.Machine
end

