-- ==== Sys2Proof/Laws/Memory.lean ====
section
/-! SUPPORT. Memory: a byte written reads back, every other byte is as it was, and every operation that writes memory keeps
its canonical form. Memory changes only by `Dev.wr` and by filters, so these are all the cases. -/
namespace Sys2Proof.Machine

variable (s : Dev)

/-- Memory lists nothing at reset, which is canonical. -/
theorem Memory.wf_reset : Memory.wf State.reset.dev.mem = true := rfl

/-! ### One byte -/

@[simp] theorem Dev.rd_wr_same (k : Nat) (v : Byte) : (s.wr k v).rd k = v := by simp [Dev.rd, Dev.wr]
theorem Dev.rd_wr_ne {k a : Nat} (v : Byte) (h : a ≠ k) : (s.wr k v).rd a = s.rd a := by
  simp [Dev.rd, Dev.wr, Sparse.get_put_ne _ _ _ h]
theorem Dev.rd_congr {s t : Dev} (h : t.mem = s.mem) (k : Nat) : t.rd k = s.rd k := by unfold Dev.rd; rw [h]

theorem Dev.wr_wf (k : Nat) (v : Byte) (h : Memory.wf s.mem = true) : Memory.wf (s.wr k v).mem = true := Sparse.wf_put (d := memDefault) k v h

/-- A filter of memory keeps its form: the zeroing of a range, of a tier, by a reset or by the scrub. -/
theorem Memory.wf_filter (p : Host.Cell → Bool) {m : List Host.Cell} (h : Memory.wf m = true) : Memory.wf (m.filter p) = true :=
  Sparse.wf_filter (d := memDefault) p h

/-! ### Spans of bytes -/

/-- The bytes of a span written one after the other, as `Dev.wrBytes` writes them. -/
theorem Dev.wrFold_wf (k : Nat) (ps : List (Nat × Byte)) (s : Dev) (h : Memory.wf s.mem = true) :
    Memory.wf (ps.foldl (fun s p => s.wr (k + p.1) p.2) s).mem = true := by
  induction ps generalizing s with
  | nil => exact h
  | cons p ps ih => exact ih _ (s.wr_wf _ _ h)

theorem Dev.wrFold_rd (k a : Nat) (ps : List (Nat × Byte)) (s : Dev) (h : ∀ p ∈ ps, a ≠ k + p.1) :
    (ps.foldl (fun s p => s.wr (k + p.1) p.2) s).rd a = s.rd a := by
  induction ps generalizing s with
  | nil => rfl
  | cons p ps ih =>
    rw [List.foldl_cons, ih _ fun x hx => h x (by simp [hx]), Dev.rd_wr_ne _ _ (h p (by simp))]

theorem Dev.wrBytes_wf (k : Nat) (bs : List Byte) (h : Memory.wf s.mem = true) : Memory.wf (s.wrBytes k bs).mem = true :=
  Dev.wrFold_wf k _ s h

theorem Dev.wrNum_wf (k n v : Nat) (h : Memory.wf s.mem = true) : Memory.wf (s.wrNum k n v).mem = true := s.wrBytes_wf _ _ h

/-- Bytes outside the span written read as before. -/
theorem Dev.rd_wrBytes_out {k a : Nat} (bs : List Byte) (h : ¬ (k ≤ a ∧ a < k + bs.length)) : (s.wrBytes k bs).rd a = s.rd a := by
  have : ∀ p ∈ (List.range bs.length).zip bs, a ≠ k + p.1 := by
    intro p hp
    have := List.of_mem_zip hp
    simp at this; omega
  exact Dev.wrFold_rd k a _ s this

/-- A byte of the span written reads what was written. -/
theorem Dev.wrFold_rd_in (k j : Nat) (bs : List Byte) (n : Nat) (s : Dev) (h : j < bs.length) :
    (((List.range' n bs.length).zip bs).foldl (fun s p => s.wr (k + p.1) p.2) s).rd (k + n + j) = bs[j] := by
  induction bs generalizing n s j with
  | nil => simp at h
  | cons b bs ih =>
    simp only [List.length_cons, List.range'_succ, List.zip_cons_cons, List.foldl_cons]
    cases j with
    | zero =>
      rw [Dev.wrFold_rd]
      · simp
      · intro p hp
        have := (List.of_mem_zip hp).1
        simp at this; omega
    | succ j =>
      have := ih j (n + 1) (s.wr (k + n) b) (by simpa using h)
      simpa [Nat.add_assoc, Nat.add_comm, Nat.add_left_comm] using this

theorem Dev.rd_wrBytes_in (k j : Nat) (bs : List Byte) (h : j < bs.length) : (s.wrBytes k bs).rd (k + j) = bs[j] := by
  have := Dev.wrFold_rd_in k j bs 0 s h
  rw [← List.range_eq_range', Nat.add_zero] at this
  exact this

@[simp] theorem Dev.wrBytes_regs (k : Nat) (bs : List Byte) : (s.wrBytes k bs).regs = s.regs := by
  have : ∀ (ps : List (Nat × Byte)) (s : Dev), (ps.foldl (fun s p => s.wr (k + p.1) p.2) s).regs = s.regs := by
    intro ps
    induction ps with
    | nil => intro s; rfl
    | cons p ps ih => intro s; rw [List.foldl_cons, ih]; rfl
  exact this _ _

/-! ### The operations built on them -/

/-- A span of job addresses written. -/
theorem Dev.wrJob_wf (a : Nat) (bs : List Byte) (h : Memory.wf s.mem = true) : Memory.wf (s.wrJob a bs).mem = true := by
  have : ∀ (ps : List (Nat × List Byte)) (s : Dev), Memory.wf s.mem = true →
      Memory.wf (ps.foldl (fun s p => match s.xlate p.1 true with | .key k => s.wrBytes k p.2 | .bad _ => s) s).mem = true := by
    intro ps
    induction ps with
    | nil => intro s h; exact h
    | cons p ps ih =>
      intro s h
      rw [List.foldl_cons]
      apply ih
      split
      · exact s.wrBytes_wf _ _ h
      · exact h
  exact this _ s h

/-- A request leaves memory as it is. -/
@[simp] theorem Dev.newReq_mem (q : LineReq) (pay : List Byte) : (s.newReq q pay).mem = s.mem := rfl

@[simp] theorem Dev.reqPump_mem (n : Nat) : (Dev.reqPump n s).mem = s.mem := by
  induction n generalizing s with
  | zero => rfl
  | succ n ih =>
    unfold Dev.reqPump
    split
    · rfl
    · split
      · rfl
      · rw [ih]; rfl

@[simp] theorem Dev.askReq_mem (q : LineReq) : (s.askReq q).mem = s.mem := by
  unfold Dev.askReq; dsimp only
  split
  · rfl
  · rw [Dev.reqPump_mem]; rfl

@[simp] theorem Dev.lentGot_mem (g k : Nat) : (s.lentGot g k).mem = s.mem := by
  unfold Dev.lentGot; split <;> rfl

/-- What goes to a lender leaves the bytes of this device as they are (R432). -/
@[simp] theorem Dev.lentStore_mem (g k n : Nat) : (s.lentStore g k n).mem = s.mem := by
  have : ∀ (ls : List Nat) (s : Dev), (s.each ls fun s l => (s.askReq (lentReq g oSTORE l)).lentGot g l).mem = s.mem := by
    intro ls
    induction ls with
    | nil => intro s; rfl
    | cons l ls ih => intro s; rw [show Dev.each s (l :: ls) _ = Dev.each _ ls _ from rfl, ih]; simp
  exact this _ s

theorem Dev.homeWrite_wf (g e off : Nat) (bs : List Byte) (h : Memory.wf s.mem = true) :
    Memory.wf (s.homeWrite g e off bs).mem = true := by
  unfold Dev.homeWrite; dsimp only
  split
  · rw [Dev.lentStore_mem]; exact s.wrBytes_wf _ _ h
  · exact s.wrBytes_wf _ _ h

/-- A page written by a command, held or not (R280). -/
theorem Dev.pageWrite_wf (g p off : Nat) (bs : List Byte) (h : Memory.wf s.mem = true) :
    Memory.wf (s.pageWrite g p off bs).mem = true := by
  unfold Dev.pageWrite; dsimp only
  split
  · exact h
  · split
    · exact Dev.homeWrite_wf _ _ _ _ _ h
    · exact s.homeWrite_wf _ _ _ _ h

/-- A counter advanced (R231, R237). -/
theorem Dev.ctrAdd_wf (a n : Nat) (h : Memory.wf s.mem = true) : Memory.wf (s.ctrAdd a n).mem = true := by
  unfold Dev.ctrAdd
  split
  · exact h
  · dsimp only
    split
    · exact Dev.wrNum_wf _ _ _ _ h
    · exact s.wrNum_wf _ _ _ h

/-- Memory zeroed by the scrub, a trip or a reset (R496, R525). -/
theorem Dev.zeroMem_wf (cxl : Bool) (h : Memory.wf s.mem = true) : Memory.wf (s.zeroMem cxl).mem = true := Memory.wf_filter _ h

/-- A byte that the scrub zeroes reads zero, and every other byte is as it was. -/
theorem Sparse.get_filter_key {α : Type} (d : Nat → α) (p : Nat → Bool) (m : List (Nat × α)) (k : Nat) :
    Sparse.get d (m.filter fun c => p c.1) k = if p k then Sparse.get d m k else d k := by
  induction m with
  | nil => simp [Sparse.get]
  | cons x m ih =>
    obtain ⟨a, v⟩ := x
    by_cases hk : a = k
    · subst hk
      by_cases hp : p a <;> simp_all [Sparse.get]
    · have hk' : ¬ k = a := fun h => hk h.symm
      by_cases hp : p a <;> by_cases hq : p k <;> simp_all [Sparse.get]

theorem Dev.rd_zeroMem (cxl : Bool) (k : Nat) : (s.zeroMem cxl).rd k = if scrubbed cxl k then 0 else s.rd k := by
  have := Sparse.get_filter_key memDefault (fun k => !scrubbed cxl k) s.mem k
  unfold Dev.rd Dev.zeroMem
  rw [this]
  by_cases h : scrubbed cxl k <;> simp [h, memDefault]

end Sys2Proof.Machine
end

