-- ==== Sys2Proof/Laws/Record.lean ====
section
/-! SUPPORT. What an error record does, said once: `Dev.record` records, and operations beside the log keep that true. -/
namespace Sys2Proof.Machine

/-- A record made is a record made: SEQ, the counter of the class, and the slot unless the log is full (R556, R557, R559). -/
theorem Dev.recorded_record (s : Dev) (cls code detail gen block inst : Nat) :
    s.Recorded (s.record cls code detail gen block inst) cls code detail gen block inst := by
  refine ⟨Dev.record_seq .., Dev.record_count .., fun hf => ?_⟩
  unfold Dev.logFull at hf
  unfold Dev.record; dsimp only
  rw [hf]
  simp [Dev.bump, Dev.setReg, Dev.setFld]

/-- A record stays made under a change that leaves the log and the counter of the class. -/
theorem Dev.Recorded.congr {s t t' : Dev} {cls code detail gen block inst : Nat}
    (h : s.Recorded t cls code detail gen block inst) (hl : t'.log = t.log)
    (hr : t'.reg (Reg.ERR_CNT cls) = t.reg (Reg.ERR_CNT cls)) : s.Recorded t' cls code detail gen block inst := by
  obtain ⟨h1, h2, h3⟩ := h
  exact ⟨by rw [hl]; exact h1, by rw [hr]; exact h2, by rw [hl]; exact h3⟩

/-- A record made from a state that differs from `s` neither in the log nor in the registers of the log. -/
theorem Dev.Recorded.from_congr {s s' t : Dev} {cls code detail gen block inst : Nat}
    (h : s'.Recorded t cls code detail gen block inst) (hl : s'.log = s.log)
    (hr : ∀ k, 0x1000000 ≤ k → k < 0x1100000 → s'.reg k = s.reg k) (hc : cls < 9) :
    s.Recorded t cls code detail gen block inst := by
  obtain ⟨h1, h2, h3⟩ := h
  have e3 : Reg.ERR_CNT cls = 0x1000020 + 0x8 * cls := rfl
  refine ⟨by rw [h1, hl], by rw [h2, hr _ (by omega) (by omega)], fun hf => ?_⟩
  have ht : s'.fld Reg.ERR_TAIL 0 12 = s.fld Reg.ERR_TAIL 0 12 := Dev.fld_congr (hr _ (by decide) (by decide)) _ _
  have hh : s'.fld Reg.ERR_HEAD 0 12 = s.fld Reg.ERR_HEAD 0 12 := Dev.fld_congr (hr _ (by decide) (by decide)) _ _
  have := h3 (by unfold Dev.logFull; rw [ht, hh]; exact hf)
  rwa [ht, hl] at this

/-- A register of another block written after a record leaves it made. -/
theorem Dev.Recorded.setReg {s t : Dev} {cls code detail gen block inst off : Nat} (v : Nat)
    (h : s.Recorded t cls code detail gen block inst) (ho : off < 0x1000000) :
    s.Recorded (t.setReg off v) cls code detail gen block inst := by
  have e3 : Reg.ERR_CNT cls = 0x1000020 + 0x8 * cls := rfl
  exact h.congr rfl (Dev.reg_setReg_ne _ _ (by omega))

theorem Dev.Recorded.bump {s t : Dev} {cls code detail gen block inst off : Nat} (n : Nat)
    (h : s.Recorded t cls code detail gen block inst) (ho : off < 0x1000000) :
    s.Recorded (t.bump off n) cls code detail gen block inst := h.setReg _ ho

/-- A discarded register access records its error with the offset within its block as detail (R17, R592). -/
theorem Dev.recorded_discard (s : Dev) (cls code off inst : Nat) :
    s.Recorded (s.discard cls code off inst) cls code (off % 0x100000) 0 (blockAt off) inst := Dev.recorded_record ..

/-- A record leaves memory, the page tables and everything but the log, its registers and the commands in hand. -/
theorem Dev.onlyRecord_record (s : Dev) (cls code detail gen block inst : Nat) :
    s.OnlyRecord (s.record cls code detail gen block inst) [] := by
  refine ⟨?_, fun k _ hk => Dev.reg_record_lt s _ _ _ _ _ _ hk⟩
  unfold Dev.record; dsimp only; split <;> rfl

end Sys2Proof.Machine
end

