-- ==== Sys2Proof/Laws/Commands.lean ====
section
/-! SUPPORT. The shared operations on commands, each said once: what the arm, a refusal, a completion, a kill and a commit can
do. -/
namespace Sys2Proof.Machine

variable (s : Dev)

/-! ### Completion records -/

/-- A record written or held touches only the ring, its registers, the count of records and what is sent to the host. -/
structure Dev.RingOnly (s t : Dev) : Prop where
  eq : t = { s with regs := t.regs, rings := t.rings, outs := t.outs }
  reg : ∀ k, (k < 0x200000 ∨ 0x300000 ≤ k) → t.reg k = s.reg k

theorem Dev.RingOnly.refl (s : Dev) : s.RingOnly s := ⟨rfl, fun _ _ => rfl⟩

theorem Dev.RingOnly.trans {s t u : Dev} (h : s.RingOnly t) (h' : t.RingOnly u) : s.RingOnly u := by
  refine ⟨?_, fun k hk => (h'.reg k hk).trans (h.reg k hk)⟩
  have e := h'.eq
  rw [h.eq] at e
  rw [e]

theorem Dev.RingOnly.setRing {s t : Dev} (h : s.RingOnly t) (r : Nat) (x : Ring) : s.RingOnly (t.setRing r x) :=
  h.trans ⟨rfl, fun _ _ => rfl⟩
theorem Dev.RingOnly.emit {s t : Dev} (h : s.RingOnly t) (o : Out) : s.RingOnly (t.emit o) := h.trans ⟨rfl, fun _ _ => rfl⟩
theorem Dev.RingOnly.setReg {s t : Dev} (h : s.RingOnly t) {off : Nat} (v : Nat) (h1 : 0x200000 ≤ off ∧ off < 0x300000) :
    s.RingOnly (t.setReg off v) := h.trans ⟨rfl, fun _ _ => Dev.reg_setReg_ne _ _ (by omega)⟩

/-- The registers of a ring lie in the HST block. -/
theorem rhead_range {r : Nat} (h : r < 256) : 0x200000 ≤ Reg.HST_RHEAD r ∧ Reg.HST_RHEAD r < 0x300000 := by
  have : Reg.HST_RHEAD r = 0x201018 + 0x20 * r := rfl
  omega
theorem rstat_range {r : Nat} (h : r < 256) : 0x200000 ≤ Reg.HST_RSTAT r ∧ Reg.HST_RSTAT r < 0x300000 := by
  have : Reg.HST_RSTAT r = 0x201014 + 0x20 * r := rfl
  omega

theorem Dev.writeRec_ringOnly {r : Nat} (c : CplRec) (h : r < 256) : s.RingOnly (s.writeRec r c) := by
  unfold Dev.writeRec; dsimp only
  exact ((((Dev.RingOnly.refl s).emit _).setRing r _).setReg _ (rhead_range h)).setReg _ ⟨by decide, by decide⟩

theorem Dev.drainRecs_ringOnly {r : Nat} (h : r < 256) (n : Nat) (s : Dev) : s.RingOnly (s.drainRecs r n) := by
  induction n generalizing s with
  | zero => exact .refl s
  | succ n ih =>
    unfold Dev.drainRecs
    split
    · exact .refl s
    · split
      · exact .refl s
      · exact (((Dev.RingOnly.refl s).setRing r _).trans (Dev.writeRec_ringOnly _ _ h)).trans (ih _)

theorem Dev.ringSettle_ringOnly {r : Nat} (h : r < 256) : s.RingOnly (s.ringSettle r) := by
  unfold Dev.ringSettle
  split
  · exact (Dev.RingOnly.refl s).setReg _ (rstat_range h)
  · exact .refl s

/-- A completion record posted (R454, R457). -/
theorem Dev.postRec_ringOnly {r : Nat} (c : CplRec) (h : r < 256) : s.RingOnly (s.postRec r c) := by
  unfold Dev.postRec; dsimp only
  exact (((Dev.RingOnly.refl s).setRing r _).trans (Dev.drainRecs_ringOnly h _ _)).trans (Dev.ringSettle_ringOnly _ h)

/-! ### Refusal at arm (R219) -/

/-- The ring of a source, if it is one, is one of the 256. -/
def Source.ok : Source → Bool
  | .ring r => decide (r < 256)
  | _ => true

/-- A refusal makes its record, whatever the source (R219, R556, R592). -/
theorem Dev.recorded_refuse {src : Source} (d : Line) (r : Refuse) (h : Source.ok src = true) :
    s.Recorded (s.refuse src d r) r.cls r.code r.detail 0 (refuseAt src r.cls r.code).1 (refuseAt src r.cls r.code).2 := by
  have hr := s.recorded_record r.cls r.code r.detail 0 (refuseAt src r.cls r.code).1 (refuseAt src r.cls r.code).2
  cases src with
  | ring q =>
    have hp := Dev.postRec_ringOnly (s.record r.cls r.code r.detail 0 (refuseAt (.ring q) r.cls r.code).1
      (refuseAt (.ring q) r.cls r.code).2) ⟨dTag d, 0, 1, dOp d, errId r.cls r.code, r.detail % 2 ^ 32, 0⟩ (r := q)
      (by simpa [Source.ok] using h)
    have e : Reg.ERR_CNT r.cls = 0x1000020 + 0x8 * r.cls := rfl
    exact hr.congr (by have := hp.eq; unfold Dev.refuse; dsimp only; rw [this]) (hp.reg _ (by omega))
  | coachman => exact hr
  | seq n => exact hr

/-- An update of the first element that satisfies what none does. -/
theorem updFirst_none {α : Type} {p : α → Bool} (f : α → α) (h : ∀ x, p x = false) (xs : List α) : updFirst p f xs = xs := by
  induction xs with
  | nil => rfl
  | cons x xs ih => simp [updFirst, h x, ih]

/-- A refusal leaves memory and the commands in hand, and uses no generation. -/
theorem Dev.refuse_frame {src : Source} (d : Line) (r : Refuse) (h : Source.ok src = true) :
    (s.refuse src d r).mem = s.mem ∧ (s.refuse src d r).pt = s.pt ∧ (s.refuse src d r).genNext = s.genNext
      ∧ (s.refuse src d r).cmds = s.cmds ∧ (s.refuse src d r).dying = s.dying := by
  have key : ∀ b i, (s.record r.cls r.code r.detail 0 b i).mem = s.mem ∧ (s.record r.cls r.code r.detail 0 b i).pt = s.pt
      ∧ (s.record r.cls r.code r.detail 0 b i).genNext = s.genNext
      ∧ (s.record r.cls r.code r.detail 0 b i).cmds = s.cmds ∧ (s.record r.cls r.code r.detail 0 b i).dying = s.dying := by
    intro b i
    have e1 := fun f => updFirst_none (p := fun c : Cmd => (0 : Nat) != 0 && c.gen % 2 ^ 32 == 0 % 2 ^ 32) f (fun _ => rfl) s.cmds
    have e2 := fun f => updFirst_none (p := fun c : Dying => (0 : Nat) != 0 && c.cmd.gen % 2 ^ 32 == 0 % 2 ^ 32) f (fun _ => rfl) s.dying
    unfold Dev.record; dsimp only
    split
    · exact ⟨rfl, rfl, rfl, e1 _, e2 _⟩
    · exact ⟨rfl, rfl, rfl, e1 _, e2 _⟩
  unfold Dev.refuse; dsimp only
  cases src with
  | ring q =>
    dsimp only
    have hp := Dev.postRec_ringOnly (s.record r.cls r.code r.detail 0 (refuseAt (.ring q) r.cls r.code).1
      (refuseAt (.ring q) r.cls r.code).2) ⟨dTag d, 0, 1, dOp d, errId r.cls r.code, r.detail % 2 ^ 32, 0⟩ (r := q)
      (by simpa [Source.ok] using h)
    rw [hp.eq]
    exact key _ _
  | coachman => exact key _ _
  | seq n => exact key _ _

/-! ### The arm (R214) -/

/-- The arm gives the command the next generation and appends it; nothing but the queue, the next generation and its ring
changes. -/
theorem Dev.arm_eq (src : Source) (d : Line) (entry : Nat) (reads writes : List (Nat × Nat)) (body : CmdBody) :
    (s.arm src d entry reads writes body).2 = s.nextGen
      ∧ (s.arm src d entry reads writes body).1.cmds = s.cmds ++ [⟨s.nextGen, src, d, entry, reads, writes, none, body⟩]
      ∧ (s.arm src d entry reads writes body).1.genNext = s.nextGen + 1
      ∧ (s.arm src d entry reads writes body).1 = { s with
          genNext := s.nextGen + 1
          cmds := s.cmds ++ [⟨s.nextGen, src, d, entry, reads, writes, none, body⟩]
          rings := (s.arm src d entry reads writes body).1.rings } := by
  unfold Dev.arm
  cases src <;> exact ⟨rfl, rfl, rfl, rfl⟩

/-! ### Ends (R237, R243, R453) -/

/-- A kill moves the command to those that are being killed, ends what it had asked of lenders, and changes nothing else (R243). -/
theorem Dev.kill_eq {g : Nat} {c : Cmd} (status : Nat) (rerun : Bool) (h : s.cmd g = some c) :
    s.kill g status rerun = { s.lentEnd g with cmds := s.cmds.filter fun x => x.gen != g, dying := s.dying ++ [⟨c, status, rerun⟩] } := by
  unfold Dev.kill; rw [h]

/-- All that a commit can do (R237): without the command, nothing; where the line of HAND is bad, its error and the kill of the
command; else HAND is advanced by one and the command completes with its result. -/
theorem Dev.commit_cases (g result : Nat) :
    (s.cmd g = none ∧ s.commit g result = s)
      ∨ ∃ c, s.cmd g = some c ∧
        ((∃ x, s.ctrBad (dHand c.desc) = some x ∧ s.commit g result = (s.ctrFault (dHand c.desc) g).kill g 2 false)
          ∨ (s.ctrBad (dHand c.desc) = none ∧ s.commit g result = (s.ctrAdd (dHand c.desc) 1).finish g 0 result)) := by
  cases h : s.cmd g with
  | none => exact .inl ⟨rfl, by unfold Dev.commit; rw [h]⟩
  | some c =>
    refine .inr ⟨c, rfl, ?_⟩
    cases hb : s.ctrBad (dHand c.desc) with
    | none => exact .inr ⟨rfl, by unfold Dev.commit; rw [h]; simp [hb]⟩
    | some x => exact .inl ⟨x, rfl, by unfold Dev.commit; rw [h]; simp [hb]⟩

/-- All that the end of a command can do (R453): without the command, nothing; else it leaves the queue, with what it had asked of
lenders, and completes. -/
theorem Dev.finish_cases (g status result : Nat) :
    (s.cmd g = none ∧ s.finish g status result = s)
      ∨ ∃ c, s.cmd g = some c
        ∧ s.finish g status result = Dev.complete { s.lentEnd g with cmds := s.cmds.filter fun x => x.gen != g } c status result := by
  cases h : s.cmd g with
  | none => exact .inl ⟨rfl, by unfold Dev.finish; rw [h]⟩
  | some c => exact .inr ⟨c, rfl, by unfold Dev.finish; rw [h]⟩

end Sys2Proof.Machine
end

