-- ==== Sys2Proof/Laws/Fec.lean ====
section
/-! SUPPORT. What the receiver does with a codeword whose syndromes are all zero, and how two lanes carry two codewords. -/
namespace Sys2Proof.Machine

theorem nth_map_range {α : Type} (n i : Nat) (f : Nat → α) (d : α) (h : i < n) : nth ((List.range n).map f) i d = f i := by
  simp [nth, List.getD_eq_getElem?_getD, h]

theorem alternate_get (odd : Bool) (xs : List Nat) (i : Nat) (h : i < (alternate odd xs).length) :
    (alternate odd xs)[i] = nth xs (2 * i + odd.toNat) 0 := by simp [alternate]

theorem alternate_length (odd : Bool) (xs : List Nat) :
    (alternate odd xs).length = (xs.length + if odd then 0 else 1) / 2 := by simp [alternate]

/-- Trailing zeros leave a zero syndrome zero. -/
theorem horner_zeros (g n : Nat) : (List.replicate n 0).foldl (fun a c => gfMul a g ^^^ c) 0 = 0 := by
  induction n with
  | zero => rfl
  | succ n ih => rw [List.replicate_succ, List.foldl_cons]; simpa [gfMul] using ih

/-- A word with all thirty syndromes zero is received as it is, with no symbol corrected. -/
theorem rsDecode_clean (w : List Nat) (h : ∀ j < 30, w.foldl (fun a c => gfMul a (gfPow 2 j) ^^^ c) 0 = 0) :
    rsDecode w = some (w, 0) := by
  have : (rsSyn w).all (· == 0) = true := by
    simp only [rsSyn, List.all_map, List.all_eq_true, List.mem_range, Function.comp, beq_iff_eq]; exact h
  simp [rsDecode, this]

/-- On two lanes each lane is one of the two codewords (R325). -/
theorem two_lanes (a b : List Nat) (ha : a.length = 544) (hb : b.length = 544) :
    alternate false (destripe [a, b]) = a ∧ alternate true (destripe [a, b]) = b := by
  have key (j : Nat) (hj : j < 1088) : nth (destripe [a, b]) j 0 = nth (nth [a, b] (j % 2) []) (j / 2) 0 :=
    nth_map_range _ _ _ _ hj
  have len : (destripe [a, b]).length = 1088 := by rw [destripe, List.length_map, List.length_range]
  generalize destripe [a, b] = xs at *
  refine ⟨List.ext_getElem (by rw [alternate_length, len, ha]; rfl) fun i h1 h2 => ?_,
    List.ext_getElem (by rw [alternate_length, len, hb]; rfl) fun i h1 h2 => ?_⟩
  · rw [alternate_get, key _ (by simp; omega)]
    simp [nth, List.getD_eq_getElem?_getD, h2]
  · have h : (2 * i + 1) / 2 = i := by omega
    rw [alternate_get, key _ (by simp; omega)]
    simp [nth, List.getD_eq_getElem?_getD, h2, Nat.add_mod, h]

end Sys2Proof.Machine
end

