-- ==== Sys2Proof/Laws/Waits.lean ====
section
/-! SUPPORT. A step of the device that waits for an access (R432, R446), said once: it asks, and does nothing else. -/
namespace Sys2Proof.Machine

/-- `t` is `s` with more asked: snoops and requests for lines of lent HBM, their counters and carriages. -/
structure Dev.AsksOnly (s t : Dev) : Prop where
  eq : t = { s with
    regs := t.regs, outs := t.outs
    tiers := { s.tiers with snoops := t.tiers.snoops, stalls := t.tiers.stalls }
    mmf := { s.mmf with reqs := t.mmf.reqs, queue := t.mmf.queue, nextTag := t.mmf.nextTag }
    stg := { s.stg with outbox := t.stg.outbox } }
  reg : ∀ k ∉ [Reg.HST_CNT_BISNP, Reg.MMF_CNT_REQTX, Reg.MMF_CNT_RETRY], t.reg k = s.reg k

namespace Dev.AsksOnly
variable {s t u : Dev}

theorem refl (s : Dev) : s.AsksOnly s := ⟨rfl, fun _ _ => rfl⟩

theorem trans (h : s.AsksOnly t) (h' : t.AsksOnly u) : s.AsksOnly u := by
  refine ⟨?_, fun k hk => (h'.reg k hk).trans (h.reg k hk)⟩
  have e := h'.eq
  rw [h.eq] at e
  rw [e]

theorem each {α : Type} {f : Dev → α → Dev} (h : ∀ (s : Dev) a, s.AsksOnly (f s a)) (l : List α) (s : Dev) : s.AsksOnly (s.each l f) := by
  induction l generalizing s with
  | nil => exact refl s
  | cons a l ih => exact (h s a).trans (ih (f s a))

theorem bump (s : Dev) {off : Nat} (n : Nat) (h : off ∈ [Reg.HST_CNT_BISNP, Reg.MMF_CNT_REQTX, Reg.MMF_CNT_RETRY]) :
    s.AsksOnly (s.bump off n) :=
  ⟨rfl, fun _ hk => Dev.reg_bump_ne s n fun e => hk (e ▸ h)⟩

theorem emit (s : Dev) (o : Out) : s.AsksOnly (s.emit o) := ⟨rfl, fun _ _ => rfl⟩
theorem formed (s : Dev) (ep : Nat) (c : Carriage) (x : Option Nat) : s.AsksOnly (s.formed ep c x) := ⟨rfl, fun _ _ => rfl⟩
theorem mmf (s : Dev) (n : Nat) (rs qs : List LineReq) :
    s.AsksOnly (s.setMmf fun m => { m with nextTag := n, reqs := rs, queue := qs }) := ⟨rfl, fun _ _ => rfl⟩

theorem snoopSend (s : Dev) (ls : List Nat) : s.AsksOnly (s.snoopSend ls) := by
  have h := each (f := fun s l => (s.emit (.bisnp l)).bump Reg.HST_CNT_BISNP 1)
    (fun s l => trans (emit s (.bisnp l)) (bump _ 1 (by simp))) ls s
  exact trans h ⟨rfl, fun _ _ => rfl⟩

theorem putReq (s : Dev) (r : LineReq) (retry : Bool) (pay : List Byte) (excl : Option Nat) :
    s.AsksOnly (s.putReq r retry pay excl) := by
  unfold Dev.putReq
  refine trans (bump s 1 (off := Reg.MMF_CNT_REQTX) (by simp)) ?_
  cases retry
  · exact formed _ _ _ _
  · exact trans (bump _ 1 (off := Reg.MMF_CNT_RETRY) (by simp)) (formed _ _ _ _)

theorem reqPump (n : Nat) (s : Dev) : s.AsksOnly (Dev.reqPump n s) := by
  induction n generalizing s with
  | zero => exact refl s
  | succ n ih =>
    unfold Dev.reqPump
    split
    · exact refl s
    · split
      · exact refl s
      · refine trans ?_ (ih _)
        unfold Dev.newReq
        exact trans (trans (mmf s s.mmf.nextTag s.mmf.reqs _) (mmf _ _ _ _)) (putReq _ _ _ _ _)

theorem askReq (s : Dev) (q : LineReq) : s.AsksOnly (s.askReq q) := by
  unfold Dev.askReq
  split
  · exact refl s
  · exact trans (mmf s s.mmf.nextTag s.mmf.reqs (s.mmf.queue ++ [q])) (reqPump _ _)

theorem lentLoad (s : Dev) (g : Nat) (ks : List Nat) : s.AsksOnly (s.lentLoad g ks) := by
  refine each (fun s k => ?_) ks s
  split
  · exact refl s
  · exact askReq s _

theorem askOnly (s t : Dev) : s.AsksOnly (s.askOnly t) := by
  refine trans (snoopSend s _) (each (fun s q => ?_) _ _)
  split
  · split
    · exact lentLoad _ _ _
    · exact refl s
  · exact refl s

end Dev.AsksOnly

/-- A step that has to wait is not taken: it only asks. -/
theorem Dev.attempt_waits (s : Dev) (f : Dev → Dev) (h : (s.attempt f).tiers.stalls ≠ s.tiers.stalls) : s.AsksOnly (s.attempt f) := by
  unfold Dev.attempt at h ⊢
  dsimp only at h ⊢
  split at h <;> rename_i hs
  · exact absurd hs h
  · rw [if_neg hs]
    exact (Dev.AsksOnly.askOnly s _).trans ⟨rfl, fun _ _ => rfl⟩

/-- A step that has not to wait is what its effect is. -/
theorem Dev.attempt_done (s : Dev) (f : Dev → Dev) (h : (f s).tiers.stalls = s.tiers.stalls) : s.attempt f = f s := by
  unfold Dev.attempt; dsimp only; rw [if_pos h]

/-- A unit without lines keeps none (R421). -/
theorem Dev.unitEnd_nil (s : Dev) (h : s.mmf.lines = []) : s.unitEnd = s := by
  unfold Dev.unitEnd; rw [h]; rfl

/-- An event of a unit that has to wait only asks. -/
theorem State.unit_waits {s t : State} {f : Dev → Dev} (h : s.unit f = .next t) (hs : t.dev.tiers.stalls ≠ s.dev.tiers.stalls) :
    s.dev.AsksOnly t.dev := by
  unfold State.unit State.upd at h
  cases h
  dsimp only at hs ⊢
  by_cases ha : s.dev.alive = true
  · rw [if_pos ha] at hs ⊢; exact Dev.attempt_waits _ _ hs
  · rw [if_neg ha] at hs; exact absurd rfl hs

end Sys2Proof.Machine
end

