-- ==== Sys2Proof/Tests/Slice0.lean ====
section
/-! SUPPORT. Tests: an ill-formed command for each check of WellFormed, and for each statement with hypotheses a state and operands
that meet them together. -/
namespace Sys2Proof.Tests
set_option Elab.async false

open Sys2Proof.Machine

/-- A device whose firmware is verified and which works: READY, released. -/
def up : Dev := { Dev.reset with regs := [(0x0, 0x105), (0x4, 2), (0x8, 1)], grd := { Dev.reset.grd with stage := .run } }

/-! Ill-formed commands: one for each check of WellFormed. -/

/-- A Guard command with a chosen LEN. -/
def gq (len : Nat) : GReq := ⟨0, 0x50, len, 0, 0, true, [], true⟩
/-- A Harness request with a chosen OP, target, index and reserved field. -/
def hq (op target idx rsv : Nat) : HReq := ⟨op, target, idx, false, rsv, 0, 0⟩
/-- A frame of `n` symbols, all `x`, on each of `k` lanes. -/
def lanes (k n x : Nat) : List (List Nat) := List.replicate k (List.replicate n x)

/-- There are registers in BAR0, BAR2 and BAR4 (R21, R443). -/
theorem test_wf_bar : Instr.wf (.registerWrite .host 1 0 32 0) = false := by decide
/-- A register write has 32 or 64 bits (R13). -/
theorem test_wf_width : Instr.wf (.registerWrite .host 0 0 16 0) = false := by decide
/-- An aligned access is no misaligned one (R13). -/
theorem test_wf_misaligned : Instr.wf (.misalignedAccess .host 0 4 4 true) = false := by decide
/-- An access is aligned to its width (R13). -/
theorem test_wf_access : Instr.wf (.lowWordReadLatch .host 2 32) = false
    ∧ Instr.wf (.counterRead .host 4 64) = false := by decide
/-- 64 Coaches, 32 Hitches, 256 rings, 2 downstream ports (Table 01-6). -/
theorem test_wf_units : Instr.wf (.matmul 64) = false ∧ Instr.wf (.linkFrameTransmit 32) = false
    ∧ Instr.wf (.doorbellSqtail 256 0) = false ∧ Instr.wf (.dsPortEnable 2) = false
    ∧ Instr.wf (.postilionShareDispatch 8) = false ∧ Instr.wf (.gateArm 8) = false := by decide
/-- Only codes of Table 09-1 own barrows. -/
theorem test_wf_owner : Instr.wf (.alloc 0 false 0) = false ∧ Instr.wf (.share 1 0 0x12) = false := by decide
/-- A command is armed from a ring or a sequencer that exists (R592). -/
theorem test_wf_source : Instr.wf (.gform (.ring 256) 0) = false ∧ Instr.wf (.move (.seq 64) 0) = false := by decide
/-- A payload is whole units of 256 bytes (R106). -/
theorem test_wf_carriage : Instr.wf (.join ⟨0, [0]⟩) = false := by decide
/-- A frame has 1,088 symbols of ten bits on two or four lanes (R325). -/
theorem test_wf_frame : Instr.wf (.linkFrameReceive 0 (lanes 3 544 0)) = false
    ∧ Instr.wf (.linkFrameReceive 0 (lanes 2 543 0)) = false
    ∧ Instr.wf (.linkFrameReceive 0 (lanes 2 544 1024)) = false := by decide +kernel
/-- An error lies in one of 2,048 rows and 32 columns (R134). -/
theorem test_wf_pass : Instr.wf (.arrayPassStart ⟨0, [⟨2048, 0, .adder⟩]⟩) = false
    ∧ Instr.wf (.arrayPassStart ⟨0, [⟨0, 32, .adder⟩]⟩) = false := by decide
/-- The fields of a Harness request fit (Table 19-4). -/
theorem test_wf_harness : Instr.wf (.harnessStatus (hq 256 0 0 0)) = false ∧ Instr.wf (.harnessStatus (hq 1 256 0 0)) = false
    ∧ Instr.wf (.harnessHalt (hq 2 0 256 0)) = false ∧ Instr.wf (.harnessStep (hq 4 0 0 128)) = false := by decide
/-- LEN of a Guard command has four bytes, its address seven bits (R542, R583). -/
theorem test_wf_guard : Instr.wf (.readFence (gq 4294967296)) = false
    ∧ Instr.wf (.coldReset { gq 0 with addr := 128 }) = false := by decide
/-- Straps sample three address bits and the clocks of eight planes (R583). -/
theorem test_wf_straps : Instr.wf (.resetRelease ⟨8, false, false, true, 255⟩) = false
    ∧ Instr.wf (.resetRelease ⟨0, false, false, true, 256⟩) = false := by decide
/-- A power domain of a unit that exists (Table 17-1). -/
theorem test_wf_domain : Instr.wf (.domainWake (.postilion 8)) = false
    ∧ Instr.wf (.powerGateIdle (.hitchPair 16)) = false ∧ Instr.wf (.domainWake (.coachArrays 64)) = false := by decide
/-- 2^22 pages, eight HBM stacks, 147,456 frames of 32,768 lines (Tables 01-6, 08-1). -/
theorem test_wf_memory : Instr.wf (.moveSwitch 4194304) = false ∧ Instr.wf (.retrainSlotDue 8 0) = false
    ∧ Instr.wf (.scrubRead 147456 0 .good) = false ∧ Instr.wf (.scrubRead 0 32768 .good) = false := by decide
/-- Four lanes, 43 local endpoints, eight classes. -/
theorem test_wf_fabric : Instr.wf (.laneSignalLoss 0 4) = false ∧ Instr.wf (.carriageSubmit 43) = false
    ∧ Instr.wf (.tpkShapeWrite 0 8 0) = false := by decide
/-- 64 regions, 16 loans, 16 borrows. -/
theorem test_wf_regions : Instr.wf (.regionChangeApply 64) = false ∧ Instr.wf (.loanEnd 16) = false
    ∧ Instr.wf (.borrowRecheck 16) = false := by decide
/-- A fetch brings at most sixteen descriptors; the enable rows write EN 1 and EN 0. -/
theorem test_wf_ring : Instr.wf (.ringFetch 0 (List.replicate 17 none)) = false
    ∧ Instr.wf (.ringEnable 0 0) = false ∧ Instr.wf (.ringDisable 0 1) = false := by decide
/-- The host's link: Gen speeds and widths of R456, writes of one line. -/
theorem test_wf_host : Instr.wf (.upstreamLinkUp 4 16) = false ∧ Instr.wf (.upstreamLinkUp 1 3) = false
    ∧ Instr.wf (.hostHdmWrite 0 [0]) = false := by decide
/-- Sixteen clusters, three rails, seven IMON inputs, forty sensors. -/
theorem test_wf_power : Instr.wf (.stepChangeSettled 16) = false ∧ Instr.wf (.railTelemetryRead 3 0 0) = false
    ∧ Instr.wf (.imonSample 7 0) = false ∧ Instr.wf (.sensorRead [0]) = false
    ∧ Instr.wf (.sensorCalibrationCheck 40 true) = false := by decide
/-- A nonce has 32 bytes; a breakpoint is reached on a core or a sequencer. -/
theorem test_wf_debug : Instr.wf (.challenge 0 []) = false ∧ Instr.wf (.getMeasurements 0 true [0]) = false
    ∧ Instr.wf (.breakpointHit 8) = false := by decide
/-- Well-formed commands of several families. -/
theorem test_wf_good : Instr.wf (.registerWrite .host 0 8 64 0) = true ∧ Instr.wf (.matmul 63) = true
    ∧ Instr.wf (.linkFrameReceive 31 (lanes 4 272 1023)) = true ∧ Instr.wf (.join ⟨0, []⟩) = true
    ∧ Instr.wf (.upstreamLinkUp 3 16) = true ∧ Instr.wf (.breakpointHit 0x7F) = true := by decide +kernel
/-- The table gives no row any bits, so no word spells a command. -/
theorem test_decode_none : decodeTableWord 32 0 = none := by decide
/-- A fetch word that spells no command changes nothing. -/
theorem test_fetch_word : State.withFetchWord State.reset 32 0 = State.reset := by rfl

/-- A Livery with a window of 16 barrows at Coach House byte 0, RESERVE 4. -/
def liv (bs : List (Nat × Option Barrow)) (retq norq : List AllocReq) : Dev :=
  let s := (up.setReg Reg.LVY_WIN (16 * 2 ^ 32)).setReg Reg.LVY_CFG (4 + 10 * 2 ^ 24)
  { s.setFlag Reg.LVY_CTL 0 true with liv := ⟨bs, retq, norq, false, 16 * 2 ^ 32⟩ }

/-- BarrowOperations: every clause's premises are met by a pointer to barrow 0. -/
theorem wit_barrow_operations :
    (∀ b ∈ [Barrow.mk 8 0 false 5, ⟨8, 1, false, 5⟩, ⟨8, 1, true, 5⟩, ⟨0x11, 0, false, 0⟩],
      (liv [(0, some b)] [] []).alive = true ∧ (liv [(0, some b)] [] []).barrowOf chBase = some 0
        ∧ (liv [(0, some b)] [] []).barrow 0 = some b) ∧ (BitVec.ofNat 64 chBase).toNat = chBase := by decide +kernel
/-- BarrowOperationRefused: a pointer past the window, a free barrow, a barrow of another owner, none held, 15 held. -/
theorem wit_barrow_refused :
    (liv [] [] []).barrowOf (chBase + 0x10000) = none ∧ (liv [] [] []).barrowOf (chBase + 0xF000) = some 15
      ∧ (liv [] [] []).barrow 15 = none ∧ (liv [(3, some ⟨9, 15, false, 5⟩)] [] []).barrow 3 = some ⟨9, 15, false, 5⟩
      ∧ (liv [(3, some ⟨9, 0, false, 5⟩)] [] []).barrowOf (chBase + 0x3000) = some 3
      ∧ (liv [] [] []).alive = true := by decide +kernel
/-- AllocationGivesLowestFreeBarrow: a return request with one barrow free, a normal one above RESERVE. -/
theorem wit_allocation :
    let r : AllocReq := ⟨1, 7, true⟩
    let a := liv [(0, some ⟨8, 0, false, 5⟩)] [r] [r]
    let b := liv [(0, some ⟨8, 0, false, 5⟩)] [] [r]
    a.alive = true ∧ Sparse.wf barrowDefault a.liv.barrows = true ∧ a.reg Reg.LVY_CNT_WAIT < 2 ^ 64 ∧ a.livEn = true ∧ 0 < a.livFree ∧ a.liv.retq = [r]
      ∧ b.retMay = false ∧ b.liv.norq = [r] ∧ b.livReserve < b.livFree := by decide +kernel
/-- LiveryRequestsAndControl: a window that is valid and one that is not, a dry pool, a free count above RESERVE and one not. -/
theorem wit_livery_control :
    let off := (liv [] [] []).setFlag Reg.LVY_CTL 0 false
    let bad := off.setReg Reg.LVY_WIN 0
    let full := (List.range 16).map fun i => (i, some (Barrow.mk 8 0 false 5))
    off.alive = true ∧ off.livEn = false ∧ winOk (off.reg Reg.LVY_WIN) off.livReserve = true
      ∧ winOk (bad.reg Reg.LVY_WIN) bad.livReserve = false ∧ bad.livEn = false ∧ (liv [] [] []).livEn = true
      ∧ (liv full [⟨1, 7, true⟩] []).livDry = true ∧ (liv full [⟨1, 7, true⟩] []).liv.dryRec = false
      ∧ (liv [] [] []).livReserve < (liv [] [] []).livFree
      ∧ (liv full [] []).livFree ≤ (liv full [] []).livReserve := by decide +kernel

/-- ShaperAndPolicerRefill, TurnpikeWritesTakeEffectAtRefill: the device, values that the registers may hold, the enables. -/
theorem wit_turnpike_writes :
    up.alive = true
      ∧ up.shapeEn = false ∧ up.policeEn = false ∧ bit (3 : Word32).toNat 0 = true ∧ bit (3 : Word32).toNat 1 = true
      ∧ ¬ (bit (0 : Word32).toNat 0 = true ∧ up.shapeEn = false) ∧ ¬ (bit (0 : Word32).toNat 1 = true ∧ up.policeEn = false) := by
  decide +kernel
/-- A shaper and a policer that the eighth frame has just refilled, and a Hitch in a quiet retrain. -/
theorem wit_refill_rows :
    up.txCount 3 ≠ 8 ∧ up.rxCount 3 ≠ 8 ∧ ¬ (up.hState 3 = hsRETRAIN ∧ up.hWidth 3 = 0)
      ∧ (up.setTxCount 3 8).txCount 3 = 8 ∧ (up.setRxCount 3 8).rxCount 3 = 8
      ∧ ¬ ((up.setTxCount 3 8).hState 3 = hsRETRAIN ∧ (up.setTxCount 3 8).hWidth 3 = 0)
      ∧ (let r := up.setReg (Reg.HCH_PSTAT 3) hsRETRAIN; r.alive = true ∧ r.hState 3 = hsRETRAIN ∧ r.hWidth 3 = 0) := by decide +kernel
/-- Rank 1 of the formed group 5 of the devices 7 and 9, and its rank 0, the reference. -/
def tsy (ref : Bool) : Dev :=
  let s := (up.setReg Reg.TPK_TSYNC (1 + 5 * 2 ^ 16)).setReg Reg.STG_COORD (if ref then 7 else 9)
  { s with col := ⟨[⟨0, 5, gFORMED, [7, 9], if ref then 0 else 1, 0, 0, 0x77, 0, 0, [], [], [], 0, [], [], [], [], [], [], [], []⟩], [], false⟩ }
/-- A carriage passes the checks of its group, from the member of a rank. -/
def passesAs (x : Gate) (gid rank : Nat) : Bool := match x with | .pass g r => g.gid == gid && r == rank | _ => false
/-- A control carriage of group 5 from a device, with a time in bytes 40 to 47. -/
def tsCar (src t : Nat) : Carriage :=
  ⟨mkHdr [(2, 0, 16, src), (5, 5, 3, kCTRL), (30, 0, 16, 5), (32, 0, 32, 0x77), (40, 0, 64, t)], []⟩
/-- FabricTime: a member, the reference, an offset of exactly 1 ms and one beyond it, a response 50 ns away. -/
theorem wit_fabric_time :
    (tsy false).alive = true ∧ (tsy false).tsyncEn = true ∧ (tsy false).tsyncRef = false ∧ (tsy true).tsyncRef = true
      ∧ (up.tsyncEn && !up.tsyncRef) = false ∧ (toSigned 64 (1000000 : Word64).toNat).natAbs = 1000000
      ∧ 1000000 < (toSigned 64 (0xFFFFFFFF00000000 : Word64).toNat).natAbs ∧ (tsy false).tpk.t1 = none
      ∧ ((tsy false).group (tsy false).tsyncGroup).isSome ∧ (tsy true).alive = true ∧ (tsy true).tsyncEn = true
      ∧ passesAs (((tsy true).taken (tsCar 9 0)).gate (ctlGroup (tsCar 9 0)) (tsCar 9 0)) (tsy true).tsyncGroup 1 = true
      ∧ passesAs (((tsy false).taken (tsCar 7 100)).gate (ctlGroup (tsCar 7 100)) (tsCar 7 100)) (tsy false).tsyncGroup 0 = true
      ∧ (tsCar 7 100).f 40 0 64 = 100 ∧ (tsCar 7 100).xid = (0 : Word64).toNat % 2 ^ 32
      ∧ ({ tsy false with tpk := { (tsy false).tpk with t1 := some 0 } } : Dev).tpk.t1 = some 0
      ∧ (Int.tdiv (toSigned 64 ((100 : Word64) - 0).toNat + toSigned 64 ((0 : Word64) - BitVec.ofNat 64 0).toNat) 2).natAbs = 50 := by
  decide +kernel
/-- A plane whose bank 1 holds one entry of 100 ns for class 0, due at fabric time 9. -/
def gat (armed : Bool) : Dev :=
  ((up.setReg (Reg.TPK_GCTL 7) (armed.toNat * 2 + 1 * 2 ^ 16 + 1 * 2 ^ 8)).setReg (Reg.TPK_GBASE 7) 9).setReg
    (Reg.TPK_GENTRY 7 1 0) (1 + 100 * 2 ^ 32)
/-- GateLists: a bank that may be armed, a base time that has passed, an armed plane, a running bank, the two banks. -/
theorem wit_gate_lists :
    (gat false).alive = true ∧ (gat false).gateBank 7 = 0 ∧ (gat false).gateArmed 7 = false
      ∧ (gat false).now < (gat false).reg (Reg.TPK_GBASE 7) ∧ (gat false).bankLen 7 1 = 1
      ∧ (∀ i, i < 1 → bits ((gat false).gateEntry 7 1 i) 8 24 = 0 ∧ 100 ≤ entryDur ((gat false).gateEntry 7 1 i))
      ∧ up.reg (Reg.TPK_GBASE 7) ≤ up.now ∧ up.gateArmed 7 = false ∧ (gat true).gateArmed 7 = true
      ∧ (gat false).bankLen 7 0 ≠ 0
      ∧ Sparse.get optDefault ({ gat false with tpk := { (gat false).tpk with base := [(7, some 1)] } } : Dev).tpk.base 7 = some 1 := by
  decide +kernel

/-- A carriage of 64 bytes with a good CRC for device `dst`, of control kind. -/
def car (dst : Nat) : Carriage := Carriage.seal ⟨mkHdr [(0, 0, 16, dst), (4, 0, 3, 3 - 1), (5, 5, 3, 4)], []⟩
/-- A device with coordinate 9 that holds a carriage on Hitch 3. -/
def arr (c : Carriage) : Dev := (up.setReg Reg.STG_COORD (9 + 2 ^ 16)).setHitch 3 { Hitch.zero with rxDone := [c] }
/-- ArrivingCarriages: for this device, with a CRC that fails, malformed, for another device, without room. -/
theorem wit_arriving :
    let good := car 9
    let bad : Carriage := { good with hdr := hdrSet good.hdr 60 0 32 0 }
    let mal : Carriage := Carriage.seal { good with hdr := hdrSet good.hdr 4 0 3 7 }
    let tight : Dev := { arr good with stg := { (arr good).stg with headKiB := 0, queue := [⟨good, 3, 2, true, 5, none, 5, some 0, false⟩] } }
    (arr good).alive = true ∧ ((arr good).hitch 3).rxDone = [good] ∧ (arr good).fits 3 2 good.size = true
      ∧ (arr good).policeEn = false ∧ good.relayed = false ∧ good.vc = 2 ∧ good.crcOk = true ∧ good.malformed = false
      ∧ (arr good).coordValid = true ∧ good.dst = (arr good).coord ∧ bad.crcOk = false ∧ mal.crcOk = true
      ∧ mal.malformed = true ∧ (car 8).crcOk = true ∧ (car 8).malformed = false ∧ (car 8).dst ≠ (arr (car 8)).coord
      ∧ ((arr (car 8)).setReg Reg.STG_CFG 0).flag Reg.STG_CFG 0 = false ∧ ((arr (car 8)).setReg Reg.STG_CFG 0).coordValid = true
      ∧ ((arr (car 8)).setReg Reg.STG_CFG 1).flag Reg.STG_CFG 0 = true ∧ ((arr (car 8)).setReg Reg.STG_CFG 1).reachGood 8 = true
      ∧ (car 8).relayed = false ∧ ((arr (car 8)).setReg Reg.STG_CFG 1).stg.queue = []
      ∧ (tight.setReg Reg.STG_ALPHA 0).stg.headKiB * 1024 < (tight.setReg Reg.STG_ALPHA 0).headUsed 3 2 + good.size := by
  decide +kernel
/-- LocalCarriagesEnterTheSwitch: submitted for this device, for another with one Hitch up on plane 7, without room, without a
coordinate; waiting for space; waiting for a plane. -/
theorem wit_local_carriages :
    let base : Dev := up.setReg Reg.STG_COORD (9 + 2 ^ 16)
    let live := base.setReg (Reg.HCH_PSTAT 31) (3 + 4 * 2 ^ 3)
    let f (x : Carriage) (s : Dev) : Dev := { s with stg := { s.stg with outbox := [⟨42, x, none⟩] } }
    let w (x : Carriage) (n : Bool) (s : Dev) : Dev := { s with stg := { s.stg with waiting := [⟨x, 42, none, n⟩] } }
    let m : Carriage := Carriage.seal { car 8 with hdr := hdrSet (hdrSet (car 8).hdr 5 5 3 3) 4 0 3 3 }
    (f (car 9) base).alive = true ∧ (f (car 9) base).coordValid = true
      ∧ (f (car 9) base).stg.outbox.find? (fun x => x.ep == 42) = some ⟨42, car 9, none⟩
      ∧ (f (car 9) base).fits 42 2 64 = true ∧ (car 9).vc = 2 ∧ (car 9).size = 64 ∧ (car 9).dst = (f (car 9) base).coord
      ∧ m.dst = 8
      ∧ ({ f (car 9) base with stg := { (f (car 9) base).stg with headKiB := 256 } } : Dev).fits 42 2 64 = false
      ∧ (f (car 9) up).coordValid = false
      ∧ (w (car 9) false base).stg.waiting.find? (fun w => w.ep == 42 && !w.noRoute) = some ⟨car 9, 42, none, false⟩
      ∧ (w (car 9) false base).stg.waiting.find? (fun x => x.ep == 42 && !x.noRoute && (w (car 9) false base).fits 42 x.car.vc x.car.size)
          = some ⟨car 9, 42, none, false⟩
      ∧ (w m true live).coordValid = true ∧ (w m true live).tiers.lost = []
      ∧ (w m true live).reachGood m.dst = true ∧ (f m live).reachGood m.dst = true
      ∧ ((f m live).selPlane m.vc m.vc m.dst false none).2 = some (7, false)
      ∧ ((f m base).selPlane m.vc m.vc m.dst false none).2 = none
      ∧ (f (car 8) live).fits 42 2 64 = true ∧ (car 8).kind ≠ kCTRL
      ∧ (w m true live).stg.waiting.find? (fun w => w.ep == 42 && w.noRoute) = some ⟨m, 42, none, true⟩
      ∧ (w m true live).stg.onceNor.contains 42 = false
      ∧ (∀ k, k < 16 → (w m true live).fld (Reg.MMF_BORROW k) 0 16 ≠ m.dst) := by decide +kernel
/-- StagingSwitchControl: a Hitch up with a carriage of VC6, VC7 or VC0 that may start, at its turn and after it; Hitches up and none. -/
theorem wit_staging_control :
    let y : Staged := ⟨car 8, 42, 6, false, 6, some 0, 6, none, false⟩
    let s : Dev := { up.setReg (Reg.HCH_PSTAT 0) (3 + 4 * 2 ^ 3) with stg := { up.stg with queue := [y] } }
    let s7 : Dev := { s with stg := { s.stg with queue := [{ y with vc := 7, sel := 7, evc := 7 }] } }
    let s0 : Dev := { s with stg := { s.stg with queue := [{ y with vc := 0, sel := 0, evc := 0 }] } }
    let late : Dev := (s0.setTurn 0 0).setDeficit 0 0 64
    (s7.eligible 0 7 = true ∧ s7.eligible 0 6 = false ∧ s0.eligible 0 6 = false ∧ s0.eligible 0 7 = false
      ∧ s0.turnOf 0 = 5 ∧ s0.eligible 0 5 = false ∧ ((List.range 6).map fun i => (5 + 1 + i) % 6).find? (s0.eligible 0) = some 0
      ∧ late.turnOf 0 = 0 ∧ late.eligible 0 0 = true ∧ (64 : Int) ≤ late.deficitOf 0 0) ∧
    s.alive = true ∧ s.hUp 0 = true ∧ s.hWidth 0 ≠ 0 ∧ (s.hitch 0).drain = false ∧ (s.hitch 0).retrain = .none
      ∧ ((s.hitch 0).txCars.map (·.flits.length)).sum < 20 ∧ s.headOf (0 / 4) 6 = some y ∧ s.eligible 0 6 = true
      ∧ s.anyActive = true ∧ up.anyActive = false ∧ s.planeLanes 0 ≠ 0
      ∧ (s.setReg Reg.STG_SATCFG 0).fld Reg.STG_SATCFG 0 8 = 0 := by decide +kernel

/-- Hitch 5 in state `st` with four lanes (pairs `p`), as `x`. -/
def hit (st p : Nat) (x : Hitch) : Dev :=
  (up.setReg (Reg.HCH_PSTAT 5) (st + pairsWidth p * 8 + p * 2 ^ 6)).setHitch 5 x
/-- 16 times the generator of the code, second symbol first: in the second codeword it makes a data frame of one flit. -/
def cwGood : List Nat := [0, 16, 952, 712, 930, 635, 712, 16, 713, 792, 388, 907, 337, 82, 489, 339, 719, 38, 670, 847, 853, 701,
  300, 609, 11, 182, 1017, 898, 498, 18, 69, 248]
/-- The same without the root a^29: every syndrome but the last is zero, so no locator of 15 errors fits. -/
def cwBad : List Nat := [0, 16, 468, 88, 346, 75, 821, 668, 839, 194, 299, 388, 15, 150, 531, 861, 6, 756, 853, 176, 684, 398, 781, 870, 32, 103, 888, 545, 776, 686, 319]
/-- Two lanes, each a codeword: zeros, and `cw` followed by zeros. -/
def twoLanes (cw : List Nat) : List (List Nat) := [List.replicate 544 0, cw ++ List.replicate (544 - cw.length) 0]
theorem cwGood_roots : ∀ j < 30, cwGood.foldl (fun a c => gfMul a (gfPow 2 j) ^^^ c) 0 = 0 := by decide +kernel
theorem cwBad_roots : ∀ j < 29, cwBad.foldl (fun a c => gfMul a (gfPow 2 j) ^^^ c) 0 = 0 := by decide +kernel
theorem cwBad_last : (cwBad ++ List.replicate 513 0).foldl (fun a c => gfMul a (gfPow 2 29) ^^^ c) 0 = 847 := by decide +kernel
theorem rs_zeros : rsDecode (List.replicate 544 0) = some (List.replicate 544 0, 0) := rsDecode_clean _ fun j _ => horner_zeros _ _
theorem rs_good : rsDecode (cwGood ++ List.replicate 512 0) = some (cwGood ++ List.replicate 512 0, 0) :=
  rsDecode_clean _ fun j hj => by rw [List.foldl_append, cwGood_roots j hj, horner_zeros]
theorem rs_bad : rsDecode (cwBad ++ List.replicate 513 0) = none := by
  have hs : rsSyn (cwBad ++ List.replicate 513 0) = List.replicate 29 0 ++ [847] := by
    unfold rsSyn
    rw [show List.range 30 = List.range 29 ++ [29] from rfl, List.map_append]
    refine congrArg₂ _ ?_ (congrArg (fun y => [y]) cwBad_last)
    rw [List.eq_replicate_iff]
    refine ⟨rfl, fun b hb => ?_⟩
    obtain ⟨j, hj, rfl⟩ := List.mem_map.1 hb
    rw [List.foldl_append, cwBad_roots j (List.mem_range.1 hj), horner_zeros]
  have hl : ((List.range 30).foldl (rsLocStep (List.replicate 29 0 ++ [847])) ⟨[1], 0, [1], 1, 1⟩).len = 30 := by decide +kernel
  unfold rsDecode
  dsimp only
  rw [hs, if_neg (by decide), hl]
  rfl
/-- LinkFrames: a good data frame with SEQ 0, and an uncorrectable one. -/
theorem wit_frames : (let f := frameOf (twoLanes cwGood); f.good = true ∧ f.type = .data ∧ f.nflit = 1 ∧ f.seq = 0)
    ∧ (let f := frameOf (twoLanes cwBad); f.good = false ∧ f.type = .data ∧ f.nflit = 1) := by
  have hg : (interleave ((List.replicate 544 0).take 514) ((cwGood ++ List.replicate 512 0).take 514)).foldr
      (fun c acc => c % 1024 + 1024 * acc) 0 = 0x3e00011400048007c800e0800fe4002d80002c00984004b000af400d5400d3c00a780009800b3c0054c007a4001480054400e2c0061000c6000b240004000b20009ec00e8800b2000ee0000400000000 := by decide +kernel
  have hb : (interleave ((List.replicate 544 0).take 514) ((cwBad ++ List.replicate 513 0).take 514)).foldr
      (fun c acc => c % 1024 + 1024 * acc) 0 = 0x4fc00ab800c200088400de00019c0008000d9800c340063800ab0002c000d5400bd00001800d740084c002580003c00610004ac0030800d1c00a7000cd40012c005680016000750000400000000 := by decide +kernel
  have eg := two_lanes (List.replicate 544 0) (cwGood ++ List.replicate 512 0) List.length_replicate
    (by rw [List.length_append, List.length_replicate]; rfl)
  have eb := two_lanes (List.replicate 544 0) (cwBad ++ List.replicate 513 0) List.length_replicate
    (by rw [List.length_append, List.length_replicate]; rfl)
  have lg : twoLanes cwGood = [List.replicate 544 0, cwGood ++ List.replicate 512 0] := rfl
  have lb : twoLanes cwBad = [List.replicate 544 0, cwBad ++ List.replicate 513 0] := rfl
  constructor
  · simp only [lg, frameOf, eg.1, eg.2, List.map_cons, List.map_nil, rs_zeros, rs_good, List.zip_cons_cons, List.zip_nil_left, nth,
      List.getD_cons_zero, List.getD_cons_succ]
    rw [hg]
    decide +kernel
  · simp only [lb, frameOf, eb.1, eb.2, List.map_cons, List.map_nil, rs_zeros, rs_bad, List.zip_cons_cons, List.zip_nil_left, nth,
      List.getD_cons_zero, List.getD_cons_succ]
    rw [hb]
    decide +kernel
/-- LinkFrames, LinkDown: a Hitch that is up, with each thing that it may have to send, and each cause. -/
theorem wit_link_frames :
    let z := Hitch.zero
    let y : Staged := ⟨car 8, 42, 3, false, 3, some 1, 3, none, false⟩
    (hit 3 3 z).alive = true ∧ (hit 3 3 z).hUp 5 = true ∧ (hit 3 3 z).hitch 5 = z ∧ z.retrain = .none
      ∧ (hit 3 3 z).hWidth 5 = 4 ∧ z.wantRetry = false ∧ z.mgmtOut = [] ∧ z.replay = [] ∧ z.txCars = [] ∧ z.rxExp = 0
      ∧ (car 8).flits ≠ [] ∧ (car 8).flits.length ≤ 20 ∧ z.stored.length < 409
      ∧ (hit 3 3 { z with txCars := [⟨y, (car 8).flits, false⟩] }).hitch 5 = { z with txCars := [⟨y, (car 8).flits, false⟩] }
      ∧ bit z.xoffIn y.evc = false ∧ bit 8 y.evc = true ∧ (hit 3 3 z).noRetrainWaits
      ∧ (hit 3 3 { z with rxBad := true }).fld Reg.HCH_RTO 8 4 ≤ 8 ∧ 0 < (hit 3 3 z).fld Reg.HCH_RTO 8 4
      ∧ bit (pairsLanes ((hit 3 3 z).hPairs 5)) 3 = true := by decide +kernel
/-- TrainingAndHitchControl: in TRAINING with and without the partner, at the first and the last attempt; DISABLED; UP and
draining; FAILED; not deconfigured. -/
theorem wit_training :
    let z := Hitch.zero
    let m : Mgmt := ⟨255, 0, 0⟩
    (hit 2 0 z).alive = true ∧ (hit 2 0 z).hState 5 = hsTRAINING ∧ z.partner = none ∧ (hit 2 0 z).hLfail 5 = 0
      ∧ ({ z with partner := some m } : Hitch).partner = some m ∧ 15 &&& 15 = 15
      ∧ bit (hit 2 0 z).grd.straps.fabclk (5 / 4) = true
      ∧ bit (Dev.setGrd (hit 2 0 z) fun g => { g with straps := { g.straps with fabclk := 0 } }).grd.straps.fabclk (5 / 4) = false
      ∧ (hit 2 0 z).fld Reg.HCH_CFG 8 8 ≤ min ((hit 2 0 z).fld Reg.HCH_CFG 0 8) m.level
      ∧ (hit 2 0 z).hAttempt 5 + 1 < (hit 2 0 z).fld Reg.HCH_RTO 20 4
      ∧ ((hit 2 0 z).setReg Reg.HCH_RTO 0).fld Reg.HCH_RTO 20 4 ≤ ((hit 2 0 z).setReg Reg.HCH_RTO 0).hAttempt 5 + 1
      ∧ (hit 0 0 z).flag (Reg.HCH_PCTL 5) 0 = false ∧ (hit 0 0 z).hState 5 = hsDISABLED
      ∧ (hit 3 3 { z with drain := true }).hUp 5 = true ∧ (hit 5 0 z).hState 5 = hsFAILED
      ∧ (hit 5 0 z).hState 5 ≠ hsDECONF ∧ (hit 5 0 z).grd.fence.length < 4320 ∧ (hit 5 0 z).stg.queue = [] := by decide +kernel
/-- WidthChangesAndRetraining: a sound pair and none; its own request under way; a retrain due on a quiet plane; a pair. -/
theorem wit_width :
    let z := Hitch.zero
    let m : Mgmt := ⟨10, 1, 0⟩
    let s := (hit 3 3 z).setReg Reg.WHL_HTHR 1
    m.pairs % 4 ≠ 0 ∧ m.pairs % 4 &&& soundPairs (s.hLfail 5) = m.pairs % 4 ∧ (⟨10, 4, 0⟩ : Mgmt).pairs % 4 = 0
      ∧ 3 &&& soundPairs ((s.setFlag (Reg.HCH_PSTAT 5) 20 true).hLfail 5) ≠ 3
      ∧ (hit 3 3 { z with retrain := .asking 1 1, mgmtOut := [(mSWITCH, m)] }).hWidth 5 = 4
      ∧ s.alive = true ∧ s.hUp 5 = true ∧ z.mgmtWait = none ∧ s.hState 5 = hsUP ∧ s.planeBusy (5 / 4) = false
      ∧ s.phaseOn (5 / 4) = false ∧ (s.setReg Reg.WHL_HCFG 1).flag Reg.WHL_HCFG 0 = true ∧ z.deferred = 0 ∧ z.due = false
      ∧ s.fld Reg.WHL_HTHR 0 16 * 256 < 257 ∧ s.fld Reg.WHL_HTHR 0 16 ≠ 0 ∧ z.symMs ≤ s.fld Reg.WHL_HTHR 0 16 * 256
      ∧ (hit 4 3 { z with retrain := .asking 1 1, mgmtWait := some (mREQ, m) }).hUp 5 = true
      ∧ (hit 4 3 { z with retrain := .asking 1 1, mgmtWait := some (mREQ, m) }).noRetrainWaits := by decide +kernel

/-- PageTableOperations: no operation under way; a read; a write refused (HOME 7) and one accepted (frame 600 of HBM). -/
theorem wit_page_table :
    let rd := up.setReg Reg.MEM_PTUPDGO 3
    let wr (x y : Nat) := ((up.setReg Reg.MEM_PTUPDGO 1).setReg (Reg.MEM_PTUPDDATA 0) x).setReg (Reg.MEM_PTUPDDATA 1) y
    let en (s : Dev) := ((List.range 4).map fun i => s.fld (Reg.MEM_PTUPDDATA i) 0 32 * 2 ^ (32 * i)).sum
    let ok := (wr 1 600).setReg (Reg.MEM_POOL 0) (5 * 2 ^ 32)
    up.alive = true ∧ up.ptGo = false ∧ bits (1 : Word32).toNat 0 1 = 1 ∧ rd.ptGo = true ∧ rd.flag Reg.MEM_PTUPDGO 1 = true
      ∧ (wr 7 0).ptGo = true ∧ (wr 7 0).flag Reg.MEM_PTUPDGO 1 = false ∧ (wr 7 0).ptRefused 0 (en (wr 7 0)) = true
      ∧ ok.ptRefused 0 (en ok) = false ∧ ok.tiers.filter = [] ∧ ok.tiers.reqs = [] ∧ ok.ttRun = false := by decide +kernel
/-- A device with a move of page 3 from HBM frame 600 to frame 0 of port 0, in MSTATE `st`. -/
def mvg (st : Nat) : Dev :=
  let s := up.setPte 3 (1 + st * 2 ^ 5 + 600 * 2 ^ 32)
  { s with tiers := { s.tiers with moves := [⟨3, 2, 0, 0, 0, .evict, 0, [], [], false⟩] } }
/-- The same with move `m`, and `n` pages of entry 7 of lap 0 to settle. -/
def mvgBy (m : PageMove) (n : Nat) : Dev := (mvg 2).setTiers fun t => { t with moves := [m], opens := [⟨0, 7, n, 3, n, 2, 0⟩] }
/-- MoveSwitchCopiesThePage: a move of a MOVE, of a Timetable entry with its last page and another, and to lent HBM. -/
theorem wit_move_by :
    let r : MoveRun := ⟨chBase, 1, 0, 0, 0, 0, 0, 0, 0⟩
    let mc : PageMove := ⟨3, 2, 0, 0, 0, .cmd 5, 0, [], [], false⟩
    let me : PageMove := ⟨3, 2, 0, 0, 0, .entry 0 7, 0, [], [], false⟩
    let ml : PageMove := ⟨3, 4, 0, 9, 0, .retire, 32, [0, 31], [], false⟩
    let c : Cmd := ⟨5, .ring 0, 0, 0, [], [], none, .move r⟩
    let sc := { mvgBy mc 1 with cmds := [c] }
    let se (n : Nat) := (mvgBy me n).setReg Reg.DRY_TTDONE chBase
    let x : SectorXfer := ⟨3, 0, 9, 0, 0, 0, true, true, [], []⟩
    sc.cmd 5 = some c ∧ sc.moveOf 3 = some mc ∧ (se 2).tiers.opens = [⟨0, 7, 2, 3, 2, 2, 0⟩] ∧ (se 2).moveOf 3 = some me
      ∧ (se 1).tiers.opens = [⟨0, 7, 1, 3, 1, 2, 0⟩] ∧ ctrOk ((se 1).reg Reg.DRY_TTDONE) = true
      ∧ (se 1).ctrBad ((se 1).reg Reg.DRY_TTDONE) = none ∧ (se 1).reg Reg.DRY_TTDONE ≠ 0
      ∧ (mvgBy ml 1).moveOf 3 = some ml ∧ ml.dirty ≠ [] ∧ ml.home = 4
      ∧ ((mvgBy { ml with again := true } 1).setMmf fun m => { m with sectors := [x] }).sectorsOn 3 = true
      ∧ (se 1).alive = true ∧ pteMstate ((se 1).pte 3) = 2 := by decide +kernel
/-- MoveSwitchCopiesThePage, MoveCommandAndAger: a move in DRAINING and one in COPYING; a MOVE that is valid (one page to HBM,
class MEMORY, report in the Coach House) and one with no pages. -/
theorem wit_moves :
    let m : PageMove := ⟨3, 2, 0, 0, 0, .evict, 0, [], [], false⟩
    let l (n : Nat) : Line := mkHdr [(0, 0, 16, 0x400), (3, 0, 4, 2), (20, 0, 23, n), (24, 0, 3, 1), (32, 0, 64, chBase)]
    let run := up.setReg Reg.GRD_JOBSTAT 3
    (mvg 2).alive = true ∧ Memory.wf (mvg 2).mem = true ∧ (mvg 2).bad = []
      ∧ (mvg 2).moveOf 3 = some m ∧ pteMstate ((mvg 2).pte 3) = 2
      ∧ pteHome ((mvg 2).pte 3) ≠ 4 ∧ (mvg 2).sectorsOn 3 = false ∧ (mvg 2).tiers.ttEnd = false
      ∧ (mvg 2).tiers.filter = [] ∧ (mvg 2).tiers.reqs = [] ∧ (mvg 2).tiers.waits = [] ∧ (mvg 2).ttRun = false
      ∧ pteMstate ((mvg 1).pte 3) = 1 ∧ (mvg 1).moveOf 3 = some m ∧ (mvg 2).tiers.retired.contains (pteFrame ((mvg 2).pte 3)) = false
      ∧ Sparse.wf ptDefault (mvg 1).pt = true ∧ run.alive = true
      ∧ dOp (l 1) = 0x0400 ∧ run.headCheck (l 1) = none ∧ run.moveBad (l 1) = none ∧ run.headCheck (l 0) = none
      ∧ run.moveBad (l 0) = some 20 := by decide +kernel
/-- TimetableHoldsAndSlots: a Timetable that may start and one that may not; running, with an entry that cannot be read, one
that is malformed (all zeros) and one of a page of HBM; the slots; the scrubber on and off. -/
theorem wit_timetable :
    let cfg := ((up.setReg Reg.DRY_TTCFG (2 + 2 ^ 20)).setReg Reg.DRY_TTBASE chBase).setReg Reg.GRD_JOBSTAT 3
    let run := cfg.setFlag Reg.DRY_STAT 12 true
    let far := run.setReg Reg.DRY_TTBASE 0
    let e : Nat := 1 * 2 ^ 160 + 1 * 2 ^ 192
    let good := run.wrNum (chAddr chBase) 32 e
    cfg.alive = true ∧ cfg.calm = true ∧ good.calm = true ∧ cfg.ttRun = false ∧ cfg.ttLen ≠ 0 ∧ cfg.ttAhead ≠ 0 ∧ cfg.reg Reg.DRY_TTBASE % 64 = 0 ∧ up.ttLen = 0
      ∧ up.ttRun = false ∧ run.ttRun = true ∧ run.jobState ≠ jPREEMPTED ∧ run.tiers.ttEnd = false
      ∧ (far.unitRead (far.reg Reg.DRY_TTBASE) 32).2 = none
      ∧ (run.unitRead (run.reg Reg.DRY_TTBASE) 32).2 = some (List.replicate 32 0) ∧ entryBad (List.replicate 32 0) = true
      ∧ (good.unitRead (good.reg Reg.DRY_TTBASE) 32).2 = some (leBytes 32 e) ∧ entryBad (leBytes 32 e) = false
      ∧ leBytes 32 e ≠ [] ∧ bits (leNat (leBytes 32 e)) 0 64 = 0 ∧ run.tiers.opens.length < run.ttAhead ∧ 0 + 1 ≠ run.ttLen
      ∧ run.ttAhead ≤ (run.setTiers fun t => { t with opens := [⟨0, 0, 1, 0, 1, 1, 0⟩] }).tiers.opens.length ∧ up.tiers.reqs = []
      ∧ up.rtSteps 7 = 0 ∧ up.flag Reg.MEM_RTSTAT 3 = false ∧ 0 < (up.setReg Reg.DRY_SATCFG 9).fld Reg.DRY_SATCFG 0 8
      ∧ (up.setReg Reg.MEM_RTSTAT 8).flag Reg.MEM_RTSTAT 3 = true ∧ (up.setRtSteps 7 1).rtSteps 7 ≠ 0
      ∧ (up.setReg Reg.MEM_ECCCFG 256).flag Reg.MEM_ECCCFG 8 = true ∧ (up.setReg Reg.MEM_ECCCFG 256).fld Reg.MEM_ECCCFG 0 8 = 0
      ∧ up.lineOf (hbmKey 147455 (64 * 32767)) = .good ∧ (up.setReg Reg.MEM_ECCCFG 0).flag Reg.MEM_ECCCFG 8 = false := by
  decide +kernel

/-- A group of two members, this device of rank 0 with coordinate 9, and the transfers of one SHIFT of 64 bytes in it. -/
def grp (state : Nat) : Group :=
  ⟨0, 5, state, [9, 8], 0, 0, 0, 0xAB, 0, chBase, [0, 0, 0, 0], [], [], 3, [], [], [], [], [], [], [], []⟩
def xfr : Xfer :=
  ⟨5, 0, 0, 0, 1, 0, 0, [], [⟨0, 0, 1, .mem chBase, 64, true, false, [], [], []⟩],
    [⟨0, 0, 1, .mem (chBase + 4096), 64, none, [], [], [], [], 0, []⟩], 0, true, []⟩
/-- The device with that group, and with the SHIFT armed as generation 7 with transfers `x`. -/
def colD (g : Group) (xs : List Xfer) : Dev :=
  let s := (up.setReg Reg.STG_COORD (9 + 2 ^ 16)).setReg Reg.GRD_JOBSTAT 3
  { s with
    col := ⟨[g], [], false⟩
    cmds := xs.map fun x => ⟨7, .ring 0, 0, 0, [], [], none, .coll ⟨x, 0x302, chBase + 4096, 64, 0, 0, false, 64, [], false, 0, 0, 0⟩⟩ }
/-- A control carriage from rank 1 in that group, with more fields. -/
def ctl (fs : List (Nat × Nat × Nat × Nat)) : Carriage :=
  ⟨mkHdr ([(0, 0, 16, 9), (2, 0, 16, 8), (30, 0, 16, 5), (32, 0, 32, 0xAB)] ++ fs), []⟩
/-- A descriptor of a GROUP-class command in group `gid`. -/
def gcmd (op gid window param src dst len : Nat) : Line :=
  mkHdr [(0, 0, 16, op), (3, 0, 4, 1), (16, 0, 16, gid), (18, 0, 16, window), (20, 0, 32, param), (24, 0, 64, src),
    (32, 0, 64, dst), (40, 0, 32, len)]
/-- GroupFormation: a valid GFORM of two members, a group in formation, answers that match and that do not, a GDISSOLVE. -/
theorem wit_group_formation :
    let s := (colD (grp 1) []).wrNum (chAddr chBase) 4 (9 + 8 * 65536)
    let l := gcmd 0x300 6 0 2 chBase (chBase + 0x10000) 4096
    dOp l = 0x0300 ∧ cpGroup l = 6 ∧ s.alive = true ∧ s.headCheck l = none ∧ s.gformBad l = none ∧ bits (cpParam l) 0 17 = 2
      ∧ reserveBytes 2 (bits (cpParam l) 20 3) ≤ cpLen l ∧ s.group 6 = none ∧ s.freeSlot = some 1
      ∧ ((s.unitRead (cpSrc l) 4).2.map fun bs => (List.range 2).map (elemAt bs 2)) = some [9, 8] ∧ s.coord ∈ [9, 8]
      ∧ [9, 8].Nodup ∧ s.group (ctlGroup (ctl [(30, 0, 16, 4)])) = none ∧ s.group 5 = some (grp 1)
      ∧ (grp 1).state = gFORMING ∧ 1 ∈ (grp 1).others ∧ 1 ∉ (grp 1).acked ∧ ctlGroup (ctl []) = 5
      ∧ (grp 1).rankOf (ctl []).src = some 1 ∧ (ctl []).gdigest = (grp 1).digest
      ∧ s.fld Reg.COL_CFG 8 8 ≤ (ctl [(40, 0, 8, 200)]).f 40 0 8 ∧ (ctl [(32, 0, 32, 1)]).gdigest ≠ (grp 1).digest
      ∧ (ctl [(40, 0, 1, 1), (41, 0, 8, 200)]).f 40 0 1 ≠ 0
      ∧ s.fld Reg.COL_CFG 8 8 ≤ (ctl [(40, 0, 1, 1), (41, 0, 8, 200)]).f 41 0 8
      ∧ (∀ r ∈ (grp 1).others, r = 1 ∨ r ∈ (grp 1).acked) ∧ (ctl []).f 40 0 1 = 0
      ∧ (let m := gcmd 0x301 5 0 0 0 0 0
         dOp m = 0x0301 ∧ (colD (grp 2) []).headCheck m = none ∧ gdissolveBad m = none ∧ (colD (grp 2) []).groupCmds 5 = [])
      := by decide +kernel
/-- CollectivesTakeTheirNumberAndWait: a SHIFT, a PERMUTE, an ALLTOALL and an ALLREDUCE that are valid, in a formed group whose
queue is not empty; without a group; a bad field; a queue with a head. -/
theorem wit_collectives :
    let g : Group := { grp 2 with queue := [7] }
    let s := (colD g [{ xfr with active := false }]).wrNum (chAddr (chBase + 128)) 4 (1 + 0 * 65536)
    let z := gcmd 0x302 5 1 1 chBase (chBase + 4096) 64
    let perm := BitVec.toNat (gcmd 0x303 5 1 0 chBase (chBase + 4096) 64) + 128 * 2 ^ 352
    let ok (l : Line) : Bool := decide (s.headCheck l = none) && decide ((s.collBad l 2).2 = none)
    s.alive = true ∧ dOp z = 0x0302 ∧ ok z ∧ ok (BitVec.ofNat 512 perm) ∧ dOp (BitVec.ofNat 512 perm) = 0x0303
      ∧ ok (gcmd 0x304 5 1 0 chBase (chBase + 4096) 64) ∧ ok (gcmd 0x305 5 1 (2 * 4) chBase (chBase + 4096) 64)
      ∧ s.group 5 = some g ∧ g.state = gFORMED ∧ s.groupHeld 5 < 64 ∧ g.slots = [] ∧ g.early = [] ∧ g.queue ≠ []
      ∧ s.group 6 = none ∧ (s.collBad (gcmd 0x302 6 1 1 chBase (chBase + 4096) 64) 0).2 = none
      ∧ (s.collBad (gcmd 0x302 6 0 1 chBase (chBase + 4096) 64) 0).2 = some 18
      ∧ s.calm = true ∧ (colD (grp 1) []).group 5 = some (grp 1) ∧ (grp 1).state ≠ gFORMED
      ∧ ((colD (grp 1) []).collBad z 2).2 = none ∧ ((colD (grp 1) []).collBad (gcmd 0x302 5 0 1 chBase (chBase + 4096) 64) 2).2 = some 18
      ∧ (s.collBad (gcmd 0x302 5 0 1 chBase (chBase + 4096) 64) 2).2 = some 18
      ∧ (s.collBad (gcmd 0x302 5 0 1 chBase (chBase + 4096) 64) 2).1.group 5 = some g
      ∧ s.active0 5 < 4 ∧ s.xf 7 = some { xfr with active := false } := by decide +kernel
/-- TransferCarriages: an unknown group; a chunk that was granted; a first OFFER; a late one; a TICKET; a report; an ABORT; a
probed rank. -/
theorem wit_transfer_carriages :
    let x : Xfer := { xfr with recvs := [⟨0, 0, 1, .mem (chBase + 4096), 64, some (1, 77), [0], [], [], [], 0, []⟩] }
    let ch : Carriage := ⟨mkHdr [(0, 0, 16, 9), (2, 0, 16, 8), (20, 0, 32, 77), (32, 0, 32, 0xAB), (36, 0, 16, 5), (40, 0, 16, 1)],
      List.replicate 256 0⟩
    let isPass (s : Dev) (gid : Nat) (c : Carriage) : Bool := match s.gate gid c with | .pass g r => g.gid == 5 && r == 1 | _ => false
    let s := colD (grp 2) [x]
    let fresh := colD (grp 2) [xfr]
    s.alive = true ∧ s.calm = true ∧ fresh.calm = true ∧ s.group (ctlGroup (ctl [(30, 0, 16, 4)])) = none ∧ s.group 4 = none ∧ isPass s ch.group ch ∧ ch.srank = 1
      ∧ ch.drank = 0 ∧ ch.stream = 0 ∧ (((s.noteFlow 5 1 ch.flowseq).instOf 5 0 ch.xid ch.ord).map (·.1)) = some 7
      ∧ (s.noteFlow 5 1 ch.flowseq).xf 7 = some x ∧ ((x.recv 0 0).map (·.dst)) = some (.mem (chBase + 4096))
      ∧ ((x.recv ch.step ch.phase).map fun y => (y.peer, y.offer, y.chunks)) = some (1, some (1, 77), 1) ∧ ch.gen = 77
      ∧ ch.chunk = 0 ∧ isPass fresh 5 (ctl []) ∧ ctlStream (ctl []) = 0 ∧ (ctl []).f 44 0 32 = xfr.pdigest
      ∧ ((xfr.recv 0 0).map (·.offer)) = some none ∧ ctlStep (ctl []) 48 = 0 ∧ ctlStep (ctl []) 52 = 0 ∧ ctlPhase (ctl []) = 0
      ∧ (colD (grp 2) []).instOf 5 0 0 0 = none ∧ ({ grp 2 with seqs := [9, 0, 0, 0] } : Group).ahead 0 0 = false
      ∧ (ctl [(48, 0, 32, 7)]).f 48 0 32 = 7 % 2 ^ 32 ∧ ((xfr.send 0 0).map fun y => (y.peer, y.begun)) = some (1, true)
      ∧ ((fresh.mapTarget (grp 2) 1 (ctl [])).map fun p => p.1) = some 7 ∧ fresh.xf 7 = some xfr ∧ (ctl [(40, 0, 8, 2)]).f 40 0 8 ≠ 3
      ∧ ((fresh.cmds.filter fun k => match cmdInst k with
          | some (a, st, xid) => a == 5 && st == 0 && xid % 2 ^ 32 == 0
          | none => false).getLast?.map (·.gen)) = some 7
      ∧ 1 ∈ ({ grp 2 with probed := [1] } : Group).probed ∧ (grp 2).endedOf 1 0 0 0 0 0 0 = none
      ∧ (let e : EndedRecv := ⟨0, 0, 0, 7, 0, 0, 1, 77, 1⟩
         let g : Group := { grp 2 with ended := [e] }
         isPass (colD g []) ch.group ch ∧ ((colD g []).noteFlow 5 1 ch.flowseq).instOf 5 0 ch.xid ch.ord = none
           ∧ g.endedOf 1 0 ch.xid ch.ord ch.step ch.phase ch.gen = some e ∧ ch.chunk < e.chunks) := by decide +kernel
/-- TransferTimeLimits: a transfer with an OFFER unanswered, with a report, with a chunk sent below and at the limit, and with a
peer on which it waits. -/
theorem wit_transfer_limits :
    let sent (n : Nat) : Xfer := { xfr with sends := [⟨0, 0, 1, .mem chBase, 64, true, true, [0], [⟨0, some 3, n, false, false, 0⟩], []⟩] }
    let off : Xfer := { xfr with recvs := [⟨0, 0, 1, .mem (chBase + 4096), 64, some (1, 77), [0], [], [0], [0], 64, []⟩] }
    let s := colD (grp 2) [xfr]
    let lim (s : Dev) := s.setReg Reg.COL_TMR1 (8 * 2 ^ 16)
    s.alive = true ∧ s.calm = true ∧ s.xf 7 = some xfr ∧ s.group xfr.gid = some (grp 2) ∧ (s.takeEarly 7 0 0).2 = true ∧ ((s.takeEarly 7 0 0).1.grant 7 0 0).2 = true
      ∧ s.col.refusals = [] ∧ Sparse.get (fun _ => (0, [])) ({ grp 2 with rxFlow := [(1, 0, [2])] } : Group).rxFlow 1 = (0, [2])
      ∧ ((off.recv 0 0).map (·.report)) = some [0] ∧ xfr.sends.length = 1 ∧ xfr.recvs.length = 1
      ∧ (Dev.chunksAgain 7 0 0 [⟨0, some 3, 1, false, false, 0⟩] (colD (grp 2) [sent 1])).2 = true
      ∧ 1 < (lim (colD (grp 2) [sent 1])).fld Reg.COL_TMR1 16 4
      ∧ ((lim (colD (grp 2) [sent 1])).chunkAgain 7 0 0 ⟨0, some 3, 1, false, false, 0⟩).2 = true
      ∧ (lim (colD (grp 2) [sent 8])).fld Reg.COL_TMR1 16 4 ≤ 8 ∧ (grp 2).state = gFORMED ∧ 1 ∈ (grp 2).others
      ∧ s.waitsOn 5 1 = true ∧ (s.setReg Reg.COL_TMR0 (1 * 2 ^ 24)).fld Reg.COL_TMR0 24 8 ≠ 0 ∧ xfr.active = true := by
  decide +kernel

/-- A routing pass in group 5 that stands in `stage` with the shares `left`; its dispatch block names SCAT_CNT at the start of
the Coach House and a wait on the next counter. -/
def rrun (stage : RStage) (left : List (Nat × Nat)) : RouteRun :=
  { group := 5, seq := 0, selcfg := 2 + 2 ^ 16, capC := 4, width := 2, fallback := 0, dspcfg := 0, xbytes := 64, owidth := 2,
    wybBase := chBase, slotBase := chBase, wybCfg := 4,
    blk := (chBase + 0x10000) * 2 ^ 64 + (chBase + 0x20000) * 2 ^ 128 + chBase * 2 ^ 320 + (chBase + 8) * 2 ^ 512, stage := stage,
    left := left, ord := 0, red := none, nans := 0, round := 1, pass := 1, sel := [ESel.start 4, ESel.start 4], scanQ := [], took := [],
    took1 := [], kept := [], keptG := [], declined := 0, rdeclined := 0, passes := 0, rpasses := 0, flags := 0, winTok := 0,
    declG := 0, maxDem := 0, maxDemE := 0, overC := 0, tied := 0, list := [], snap := [0, 0, 0], table := [], got := [],
    badRet := false, stalls := 0 }
/-- The device with group 5 formed and that pass armed as generation 7, with descriptor `l`. -/
def rteD (l : Line) (r : RouteRun) : Dev := { colD (grp 2) [] with cmds := [⟨7, .ring 0, l, 0, [], [], none, .route r⟩] }
/-- The registers of a profile and of a dispatch profile that are valid. -/
def rteRegs (s : Dev) : Dev :=
  let s := ((((s.setReg (Reg.PST_SELCFG 0) (2 + 2 ^ 16)).setReg (Reg.PST_CAP 0) 4).setReg (Reg.PST_WIDTH 0) 2).setReg
    (Reg.PST_GROUP 0) 5).setReg (Reg.PST_XBYTES 0) 64
  (((s.setReg (Reg.PST_OWIDTH 0) 2).setReg Reg.WYB_BASE chBase).setReg Reg.WYB_SLOTBASE chBase).setReg Reg.SIZ_ROUTE 0x301
/-- A ROUTEPASS of no tokens on both Postilions, with its dispatch block at 1 MiB and its work area at 2 MiB of the Coach House. -/
def rteL : Line :=
  mkHdr [(0, 0, 16, 0x200), (3, 0, 4, 1), (17, 0, 8, 3), (40, 0, 64, chBase + 0x200000), (48, 0, 64, chBase + 0x100000)]
/-- Its dispatch block: SCAT_CNT at the start of the Coach House, the areas of the pass, room of one page each. -/
def rteBlk (s : Dev) : Dev :=
  let b := chBase + 0x100000
  ((((((s.wrNum (chAddr (b + 24)) 8 (chBase + 0x30000)).wrNum (chAddr (b + 8)) 8 (chBase + 0x10000)).wrNum (chAddr (b + 16)) 8 (chBase + 0x20000)).wrNum (chAddr (b + 32)) 8
    (chBase + 0x200000)).wrNum (chAddr (b + 40)) 8 chBase).wrNum (chAddr (b + 48)) 4 1).wrNum (chAddr (b + 52)) 4 1
/-- A first reduction of which this member has the reduced header, of a group in which it is alone. -/
def redm (h : Option Nat × List Nat × Nat) : RedRun :=
  ⟨⟨5, 1, 0, 0, 16, 0, 0, [], [], [], 0, true, []⟩, .sum, 0, false, 0, [], chBase, some h⟩
/-- RoutingPassStages: a ROUTEPASS that passes every check, one that is refused, a wait that ends, a share of two, the last
shares of scoring and scatter, reductions that complete, a scatter that is due. -/
theorem wit_routing_pass :
    let s := rteBlk (rteRegs (colD (grp 2) []))
    let isR (s : Dev) (g : Nat) : Bool := (s.routeOf g).isSome
    let w := rteD rteL (rrun .wait [])
    s.alive = true ∧ s.calm = true ∧ w.calm = true ∧ dOp rteL = 0x0200 ∧ s.fld (Reg.PST_GROUP (rpProfile rteL)) 0 16 = 5 ∧ (s.routeBad rteL).2 = none
      ∧ (s.routeBad rteL).1.group 5 = some (grp 2) ∧ ((s.routeBad rteL).1.readBlk (rpBlk rteL)).2.isSome
      ∧ heldAbort (grp 2) 1 0 = none ∧ s.cmd s.nextGen = none
      ∧ ((colD (grp 2) []).routeBad rteL).2 = some ⟨clsROUTE, 1, 16⟩ ∧ (grp 2).state = gFORMED
      ∧ w.alive = true ∧ isR w 7 ∧ blkF (rrun .wait []).blk 64 8 ≠ 0 ∧ w.ctrBad (blkF (rrun .wait []).blk 64 8) = none
      ∧ blkF (rrun .wait []).blk 72 8 ≤ w.ctr (blkF (rrun .wait []).blk 64 8)
      ∧ RStage.shared .hist = true ∧ [(0, 0), (1, 1)].filter (fun x => x.1 != 0) ≠ []
      ∧ (Dev.scoreShare (rteD rteL (rrun .score [(1, 1)])) 7 rteL (rrun .score [(1, 1)]) (shareExperts 2 2 1)).2 = true
      ∧ (∃ x : Reduced, (w.redResult 7 (redm (some 1, [], 0))).2 = some x ∧ x.digestBad ≠ none)
      ∧ (∃ x : Reduced, (w.redResult 7 (redm (none, [], 2 ^ 32))).2 = some x ∧ x.digestBad = none ∧ x.refused = 0 ∧ 4294967295 < x.wintok)
      ∧ (redm (some 1, [], 0)).ready = true ∧ ({ redm (none, [], 0) with head := none } : RedRun).ready = false
      ∧ (let s := rteD rteL (rrun .hist [(0, 0), (1, 1)])
         s.cmds.findSome? (fun c => s.readyShare c 0) = some (.stage 7) ∧ (s.cmd 7).map (·.gen) = some 7)
      ∧ (rteD rteL (rrun .scattered [])).group 5 = some (grp 2)
      ∧ (rteD rteL (rrun .scattered [])).ctrBad (blkF (rrun .scattered []).blk 40 8) = none
      ∧ rpTokens rteL = 0
      ∧ (Dev.writeSpans 7 ((rrun .scattered []).scatterSpans 9 7 (grp 2) 0 []) (rteD rteL (rrun .scattered []))).2 = true := by
  refine ⟨?_, ?_, ?_, ?_, ?_, ?_, ?_, ?_, ?_, ?_, ?_, ?_, ?_, ?_, ?_, ?_, ?_, ?_, ?_, ?_, ⟨⟨some 1, 0, 0, [], []⟩, ?_⟩,
    ⟨⟨none, 0, 2 ^ 32, [], []⟩, ?_⟩, ?_, ?_, ?_, ?_, ?_, ?_, ?_⟩ <;> decide +kernel
/-- WaybillRows: an update of entry 0 that is valid, one of an entry with a reserved STATE, none under way. -/
theorem wit_waybill :
    let s := (up.setReg Reg.WYB_BASE chBase).setFlag Reg.WYB_UPDGO 0 true
    let e (s : Dev) : Nat := ((List.range 4).map fun k => s.fld (Reg.WYB_UPDDATA k) 0 32 * 2 ^ (32 * k)).sum
    up.alive = true ∧ up.flag Reg.WYB_UPDGO 0 = false ∧ s.alive = true ∧ s.flag Reg.WYB_UPDGO 0 = true ∧ bits (e s) 115 2 ≠ 3
      ∧ inCH (s.reg Reg.WYB_BASE + 16 * s.fld Reg.WYB_UPDIDX 0 20) 16 = true
      ∧ bits (e (s.setReg (Reg.WYB_UPDDATA 3) (3 * 2 ^ 19))) 115 2 = 3 := by decide +kernel
/-- An exchange of group 5, its own step and one to the other member, forward or back. -/
def xrun (back active : Bool) (recvs : List RecvStep) : ExchRun :=
  { x := ⟨5, if back then 3 else 2, 4, 0, 1, 0, 0, [0, 1], [⟨0, 0, 1, .bytes [], 0, false, false, [], [], []⟩], recvs, 0, active, []⟩,
    back := back, fwd := 4, pass := 7, dspcfg := 0, xbytes := 64, owidth := 2, slotBase := chBase, wybCfg := 4, sbias := 0,
    send := chBase + 0x10000, comb := chBase + 0x20000, table := some (2, chBase + 0x201000), unpacked := [], read := [],
    rejRec := false }
/-- The device with that exchange armed as generation 8 behind nothing else. -/
def xchD (r : ExchRun) : Dev := { colD (grp 2) [] with cmds := [⟨8, .ring 0, 0, 0, [], [], none, .exch r⟩] }
/-- An EXCHANGE of group 5 with WINDOW 1 on both Postilions. -/
def xchL (back fwd blk : Nat) : Line :=
  mkHdr [(0, 0, 16, 0x201), (3, 0, 4, 1), (16, 0, 1, back), (17, 0, 8, 3), (18, 0, 16, 5), (20, 0, 16, 1), (24, 0, 32, 4),
    (28, 0, 32, fwd), (32, 0, 64, blk)]
/-- Exchanges: a forward EXCHANGE of the armed pass that passes every check; one that is refused; slots to fix; a committed
forward exchange; a step to begin; a landed segment without rows; the last record of a returned segment. -/
theorem wit_exchanges :
    let s := rteRegs (rteD rteL (rrun .score []))
    let land : List RecvStep := [⟨0, 0, 1, .barrows, 0, some (0, 77), [0], [], [0], [], 0, []⟩]
    let one : List RecvStep := [⟨0, 0, 1, .barrows, 0, some (1, 77), [0], [(0, chBase + 0x40000)], [0], [], 128, []⟩]
    let f := xrun false false []
    let x := xchD f
    let y := xchD (xrun false true land)
    let rows := let z := xchD (xrun true true one); z.wrNum (chAddr (chBase + 0x40000)) 4 1
    s.alive = true ∧ s.calm = true ∧ x.calm = true ∧ rows.calm = true ∧ dOp (xchL 0 0 (chBase + 0x100000)) = 0x0201 ∧ s.headCheck (xchL 0 0 (chBase + 0x100000)) = none
      ∧ s.exchBad (xchL 0 0 (chBase + 0x100000)) = none ∧ s.group 5 = some (grp 2) ∧ xpGroup (xchL 0 0 (chBase + 0x100000)) = 5
      ∧ s.groupHeld 5 < 64 ∧ (grp 2).slots = [] ∧ s.exchBad (xchL 0 0 0) = some 32
      ∧ x.alive = true ∧ (Dev.readSpans 8 [(chBase + 0x201000 + 8, 48), (chBase + 0x201000 + 56, 96)] x).2.isSome
      ∧ (x.fixSlots 8 f []).2 = ([], [])
      ∧ ((Dev.updX { x with landed := [⟨8, 5, 4, 7, chBase + 0x20000, [], [], [], false⟩] } 8 fun x => { x with active := true }).settleSlots
          8 f).2 = true
      ∧ ({ x with landed := [⟨6, 5, 4, 7, 0, [], [], [], true⟩] } : Dev).landed.any (fun l => l.gid == 5 && l.xid == 4 && l.done) = true
      ∧ (xrun false true []).x.sends.length = 1 ∧ 0 < (xrun false true []).x.limit 0
      ∧ (y.fwdSegment 8 (chBase + 0x10000) 1).2 = some (chBase + 0x10000, 0) ∧ (y.beginStep 8 0 0).2 = true
      ∧ (land.map (·.done)) = [true] ∧ (y.segBytes (land.headD ⟨0, 0, 0, .barrows, 0, none, [], [], [], [], 0, []⟩)) = []
      ∧ (y.settleSlots 8 (xrun false true land)).2 = true
      ∧ (one.map (·.done)) = [true] ∧ (one.map fun z => (recordsOf (xrun true true one).recSize
          (rows.segBytes z)).length) = [1]
      ∧ (rows.unread.map fun z => (z.1, z.2.2.1, z.2.2.2.1)) = [(8, 1, 0)] ∧ rows.mayWork 8 0 = true ∧ y.mayWork 8 (y.unpackPost (xrun false true land).x 1) = true := by decide +kernel

/-- A device of stage 0 with coordinate 9 and a region 0 of one page at the start of the Coach House, open to its stage, with
atomics; `cs` armed. -/
def mmfD (cs : List Cmd) : Dev :=
  let s := ((up.setReg Reg.STG_COORD (9 + 2 ^ 16)).setReg Reg.GRD_JOBSTAT 3).setReg Reg.MMF_CFG (0x4003)
  let s := ((s.setReg (Reg.MMF_RBASE 0) chBase).setReg (Reg.MMF_RSIZE 0) 1).setReg (Reg.MMF_RCTL 0) 0xD
  { s with cmds := cs }
/-- A carriage of the agent from coordinate 8. -/
def mmfC (kind op : Nat) (fs : List (Nat × Nat × Nat × Nat)) : Carriage :=
  ⟨mkHdr ([(0, 0, 16, 9), (2, 0, 16, 8), (5, 5, 3, kind), (20, 0, 32, 7), (28, 0, 8, op)] ++ fs), List.replicate 256 5⟩
/-- An MFX armed as generation 7 toward coordinate 8, of 64 bytes at the start of the Coach House. -/
def mfxC (store gateway : Bool) (issued : Nat) : Cmd :=
  ⟨7, .ring 0, 0, 0, [], [], none, .mfx ⟨store, gateway, 8, 0, chBase, 0, 64, chBase + 128, issued, [], [], 0⟩⟩
/-- A request outstanding for generation 7. -/
def lreq (op : Nat) (busy : Bool) (tries : Nat) (use : ReqUse) : LineReq :=
  ⟨3, 7, 8, op, 0, 0, 0, 1, 1, true, 0, 0, tries, none, busy, use⟩
/-- MemoryFabricCommands: a load and a MATOMIC that are valid, and with a bad field; answers; a time limit below and at the
limit. -/
theorem wit_fabric_commands :
    let s := mmfD []
    let l : Line := mkHdr [(0, 0, 16, 0x500), (3, 0, 4, 2), (18, 0, 16, 8), (24, 0, 64, chBase), (40, 0, 64, 64), (48, 0, 64, chBase + 128)]
    let a : Line := mkHdr [(0, 0, 16, 0x501), (3, 0, 4, 2), (16, 0, 4, 1), (18, 0, 16, 8), (48, 0, 64, chBase)]
    let r := mmfC kMRSP oLOAD [(32, 0, 16, 3)]
    let two (u : LineReq) (c : Cmd) : Dev := { mmfD [c] with mmf := { up.mmf with reqs := [u] } }
    s.alive = true ∧ dOp l = 0x0500 ∧ s.headCheck l = none ∧ s.mfxBad l = none ∧ lfield l 16 0 1 ≠ 1
      ∧ s.mfxBad (l + 2 ^ 144) = some 18 ∧ dOp a = 0x0501 ∧ s.headCheck a = none ∧ s.matomicBad a = none
      ∧ s.matomicBad (a + 2 ^ 144) = some 18
      ∧ r.kind = kMRSP ∧ mOp r ≠ oBULKACK ∧ mOp r ≠ oBULKRD ∧ s.mmf.reqs = [] ∧ mTag r = 3 ∧ r.gen = 7 ∧ r.src = 8
      ∧ mStatus (mmfC kMRSP oLOAD [(31, 0, 8, 1)]) = stBUSY ∧ mStatus r = stOK
      ∧ mStatus (mmfC kMRSP oLOAD [(31, 0, 8, 3)]) = stDENIED
      ∧ s.calm = true ∧ (two (lreq oLOAD false 1 (.unit 7)) (mfxC false false 64)).calm = true
      ∧ (let x : LineReq := { lreq oLOAD false 1 (.lent 7) with space := 1 }
         ([x].find? fun y => y.tag == mTag r && y.gen % 2 ^ 32 == r.gen && y.remote == r.src && y.op == mOp r) = some x
           ∧ [x].any (fun y => y.op == oSTORE && y.meets x) = false ∧ mOp r = oLOAD
           ∧ mStatus (mmfC kMRSP oLOAD [(31, 0, 8, stNOLOAN)]) = stNOLOAN)
      ∧ (((two (lreq oLOAD false 1 (.unit 7)) (mfxC false false 64)).taken r).cmdWrite 7 chBase (r.payload.take 64)).2 = true
      ∧ (two (lreq oLOAD false 1 (.unit 7)) (mfxC false false 64)).fld Reg.MMF_TMR 8 4 = 4 := by decide +kernel
/-- ServedRequests: a LOAD, a STORE and an ATOMIC of region 0 that pass; one past its end; a saved result. -/
theorem wit_served :
    let s := mmfD []
    let c (op : Nat) := mmfC kMREQ op [(30, 0, 4, 1), (30, 4, 1, 1)]
    let far := mmfC kMREQ oLOAD [(36, 0, 64, 8192)]
    s.alive = true ∧ s.calm = true ∧ s = s.taken (c oLOAD) ∧ (c oLOAD).kind = kMREQ ∧ mOp (c oLOAD) = oLOAD ∧ mOp (c oSTORE) = oSTORE ∧ mOp (c oATOMIC) = oATOMIC
      ∧ s.mmfCheck 8 0 0 0 64 64 false false = (stOK, .job chBase)
      ∧ (Dev.placeLines (.job chBase) (lineSteps 64) (s.placeTouch (.job chBase) 64)).2 = stOK
      ∧ (s.mmfCheck 8 0 0 (mOffset far / 64 * 64) 64 64 false false).1 = stRANGE
      ∧ (s.setReg (Reg.MMF_RCTL 0) 0xD).mmfCheck 8 0 0 0 64 64 true false = (stOK, .job chBase)
      ∧ (s.mmfCheck 8 0 0 8192 64 64 true false).1 = stRANGE
      ∧ aopOk (mAop (c oATOMIC)) = true ∧ mRetry (c oATOMIC) = false ∧ s.mmf.atoms.length < 4096
      ∧ s.mmfCheck 8 0 0 0 8 8 true true = (stOK, .job chBase)
      ∧ (Dev.placeLines (.job chBase) [0] (s.placeTouch (.job chBase) 8)).2 = stOK
      ∧ mRetry (mmfC kMREQ oATOMIC [(34, 1, 1, 1)]) = true
      ∧ ([⟨8, 0, 5⟩] : List AtomEntry).find? (fun e => e.coord == (c oATOMIC).src && e.tag == mTag (c oATOMIC)) = some ⟨8, 0, 5⟩
      ∧ 4096 ≤ (List.replicate 4096 (⟨8, 1, 5⟩ : AtomEntry)).length := by decide +kernel
/-- GatewayTransfers: a BULKRD that passes, and one that runs; chunks of a store and of a load; acknowledgements; a chunk
unacknowledged. -/
theorem wit_gateway :
    let s := mmfD []
    let b : BulkServe := ⟨8, 7, 0, 0, 0, 64, 1, [], [], chBase, false⟩
    let ch (op : Nat) := mmfC kBULK op [(52, 0, 64, 64)]
    let x (st : Bool) : SectorXfer := ⟨3, 0, 8, 0, hbmKey 600 0, 0, true, st, [], []⟩
    let sec (st : Bool) : Dev := s.setMmf fun m => { m with sectors := [x st] }
    let ack (g n : Nat) : Carriage := ⟨hdrSet (mmfC kBULK oLOAD [(52, 0, 64, 4096), (44, 0, 64, n)]).hdr 20 0 32 g, []⟩
    s.calm = true ∧ s.mmf.sectors = [] ∧ (sec false).sectorOf false (ack (sectorGen 3 0) 0) = some (x false)
      ∧ (sec true).sectorOf true (ack (sectorGen 3 0) 1) = some (x true) ∧ ackChunks (ack 0 1) = [0] ∧ (sec true).calm = true
      ∧ 0 + (ack 0 0).chunk < 16 ∧ s.alive = true ∧ mCompare (mmfC kMREQ oBULKRD [(52, 0, 64, 64)]) = 64 ∧ s.mmfCheck 8 0 0 0 64 64 false false = (stOK, .job chBase)
      ∧ [b].any (fun b => b.coord == (ch oLOAD).src && b.gen == (ch oLOAD).gen) = true
      ∧ (ch oSTORE).kind = kBULK ∧ 0 < mCompare (ch oSTORE) ∧ mCompare (ch oSTORE) ≤ 4096
      ∧ s.mmfCheck 8 0 0 0 64 64 true false = (stOK, .job chBase) ∧ (s.mmfCheck 8 0 0 8192 64 64 true false).1 ≠ stOK
      ∧ (s.taken (ch oLOAD)).cmds = [] ∧ (ch oLOAD).chunk = 0
      ∧ ((mmfD [mfxC false true 1]).cmdWrite 7 chBase ((ch oLOAD).payload.take 64)).2 = true
      ∧ mStatus (mmfC kMRSP oBULKACK []) = stOK ∧ (mmfC kMRSP oBULKACK []).kind = kMRSP
      ∧ b.chunks ≤ ((ackChunks (mmfC kMRSP oBULKACK [(44, 0, 64, 1)])).filter fun z => decide (z < b.next)).length
      ∧ ([⟨8, 7, [0]⟩] : List AckPend).find? (fun x => x.coord == 8 && x.gen == 7) = some ⟨8, 7, [0]⟩
      ∧ ((mmfD [mfxC true true 1]).storeChunk 7 ⟨true, true, 8, 0, chBase, 0, 64, chBase + 128, 1, [], [], 0⟩ 0 none).2 = true := by
  decide +kernel
/-- RegionsAndLoans: a base written, an unplaced region made VALID, a change to apply, loans and borrowed entries. -/
theorem wit_regions_loans :
    let s := mmfD []
    let v : Word64 := 8 + 2 ^ 16 * 10 + 2 ^ 32 + 2 ^ 48
    regionOf (Reg.MMF_RBASE 0) = some (0, 0) ∧ (findRow (Reg.MMF_RBASE 0)).isSome ∧ regionOf (Reg.MMF_RCTL 1) = some (1, 2)
      ∧ (findRow (Reg.MMF_RCTL 1)).isSome ∧ s.regionOk 1 = false ∧ regReserved s.express (Reg.MMF_RCTL 1) 1 = false
      ∧ regReserved s.express (Reg.MMF_RBASE 0) chBase = false
      ∧ regReserved s.express (Reg.MMF_LOAN 0) v.toNat = false ∧ sameStage s.coord (bits v.toNat 0 16) = true
      ∧ s.flag (Reg.MMF_LOAN 0) 49 = false ∧ s.flag Reg.MMF_CFG 1 = true ∧ bit v.toNat 48 = true
      ∧ ((List.range (bits v.toNat 32 9 * 512)).map (bits v.toNat 16 9 * 512 + ·)).all s.hbmFree = true
      ∧ (s.setReg (Reg.MMF_LOAN 0) (2 ^ 49)).flag (Reg.MMF_LOAN 0) 49 = true ∧ s.canonical = true
      ∧ regReserved s.express (Reg.MMF_LOAN 0) 0 = false ∧ (s.setReg (Reg.MMF_LOAN 0) (2 ^ 48)).flag (Reg.MMF_LOAN 0) 48 = true
      ∧ regReserved s.express (Reg.MMF_BORROW 0) v.toNat = false ∧ s.flag (Reg.MMF_BORROW 0) 48 = false ∧ bit v.toNat 50 = false
      ∧ (s.setReg (Reg.MMF_BORROW 0) v.toNat).flag (Reg.MMF_BORROW 0) 48 = true ∧ s.mmf.reqs = [] ∧ s.mmf.serves = []
      ∧ s.mmf.queue = [] ∧ sameStage s.coord 300 = false := by
  decide +kernel

/-- A team of generation 3 whose instance runs on Coach 0 at entry `pc` of a program of 8 entries at the start of the Coach
House, doing `w`, with control operation `c` armed; `l` stands at entry 0. -/
def tpr (w : InstAt) (pc c : Nat) (work : Option WorkRun) : ProgRun :=
  ⟨chBase, 8, chBase + 0x1000, [0], [⟨0, .run, pc, work, w, c⟩], 0, none, 0, 0, 0, 0, 0, 0, []⟩
def tpD (r : ProgRun) (l : Line) (cs : List Cmd) : Dev :=
  let s := ((up.setReg Reg.SIZ_COACHMAP 3).setReg Reg.SIZ_COACH (2 + 8 * 2 ^ 16)).setReg Reg.GRD_JOBSTAT 3
  Dev.wrBytes { s with cmds := ⟨3, .ring 0, mkHdr [(24, 0, 64, 1)], 0, [], [], none, .prog r⟩ :: cs, genNext := 9 } (chAddr chBase)
    (leBytes 64 l.toNat)
/-- The five Coach commands, valid. -/
def cMat : Line := mkHdr [(0, 0, 16, 0x100), (16, 0, 5, 7), (16, 5, 5, 7), (16, 10, 5, 8), (20, 0, 24, 1), (24, 0, 24, 2),
  (28, 0, 24, 2), (36, 0, 32, 64), (44, 0, 32, 256), (48, 0, 16, 1), (50, 0, 16, 1), (54, 0, 16, 1), (56, 0, 32, 0xFFFFFFFF)]
def cExp : Line := mkHdr [(0, 0, 16, 0x101), (16, 0, 5, 7), (16, 5, 5, 7), (16, 10, 5, 7), (20, 0, 24, 1), (24, 0, 24, 1),
  (28, 0, 24, 32), (36, 0, 32, 4096), (40, 0, 32, 8192), (44, 0, 32, 12288), (48, 0, 32, 16384), (52, 0, 32, 16448),
  (56, 0, 32, 16512), (60, 0, 32, 16576)]
def cCmp : Line := mkHdr [(0, 0, 16, 0x102), (17, 0, 5, 7), (20, 0, 24, 1), (24, 0, 24, 32), (32, 0, 16, 1), (40, 0, 32, 4096),
  (44, 0, 32, 65536), (48, 0, 32, 131072)]
def cVec : Line := mkHdr [(0, 0, 16, 0x103), (16, 0, 8, 1), (17, 0, 5, 8), (18, 0, 5, 8), (20, 0, 32, 1), (28, 0, 32, 64),
  (36, 0, 32, 128)]
def cCpy : Line := mkHdr [(0, 0, 16, 0x104), (16, 0, 2, 3), (20, 0, 32, 1), (32, 0, 64, 64), (40, 0, 32, 64)]
/-- CoachCommandsAtTheirEntries: each of the five, valid at entry 0 of Coach 0, and with a bad field. -/
theorem wit_coach_entries :
    let at_ (l : Line) : Dev := (tpD (tpr .entry 0 0 none) l []).wrNum (csKey 0 16516) 2 1
    let s1 (l : Line) : Dev := ((at_ l).cmdRead 3 chBase 64).1
    let ok (l : Line) : Bool := ((at_ l).seqAt 0).isSome && (at_ l).alive
      && ((at_ l).cmdRead 3 chBase 64).2 == some (leBytes 64 l.toNat) && BitVec.ofNat 512 (leNat (leBytes 64 l.toNat)) == l
      && (s1 l).headCheck l == none && (s1 l).instCmds 3 0 == []
    (at_ cMat).calm = true ∧ (at_ cCmp).calm = true ∧ ok cMat ∧ dOp cMat = 0x0100 ∧ matmulBad ((s1 cMat).csRd 0) cMat = none ∧ ok cExp ∧ dOp cExp = 0x0101
      ∧ gexpertBad ((s1 cExp).csRd 0) cExp = none ∧ ok cCmp ∧ dOp cCmp = 0x0102 ∧ compressBad ((s1 cCmp).csRd 0) cCmp = none
      ∧ ((s1 cCmp).coachRead 0 9 (coachRun ⟨3, tpr .entry 0 0 none, ⟨0, .run, 0, none, .entry, 0⟩, chBase, false⟩ false)
          (opndRows (compressSrc cCmp) false) [] (opndScales (compressSrc cCmp))).2.isSome = true
      ∧ ok cVec ∧ dOp cVec = 0x0103 ∧ vectorBad ((s1 cVec).csRd 0) cVec = none
      ∧ ((s1 cVec).coachRead 0 9 (coachRun ⟨3, tpr .entry 0 0 none, ⟨0, .run, 0, none, .entry, 0⟩, chBase, false⟩ false)
          (opndRows (flatRun (vecIn cVec).ity (vecIn cVec).a (vecIn cVec).cnt) false ++ (vecReads (vecIn cVec)).drop 1) []
          (opndScales (flatRun (vecIn cVec).ity (vecIn cVec).a (vecIn cVec).cnt))).2.isSome = true
      ∧ ok cCpy ∧ dOp cCpy = 0x0104 ∧ copyBad ((s1 cCpy).csRd 0) cCpy = none ∧ (copyIn cCpy).sloc = true
      ∧ (copyIn cCpy).dloc = true ∧ (copyRows 0 9 (copyIn cCpy) (List.range (copyIn cCpy).rows) (s1 cCpy)).2 = true
      ∧ (matmulBad ((s1 cMat).csRd 0) (cMat + 2 ^ 185)).isSome ∧ (gexpertBad ((s1 cExp).csRd 0) (cExp + 2 ^ 185)).isSome
      ∧ (compressBad ((s1 cCmp).csRd 0) (cCmp + 2 ^ 141)).isSome ∧ (vectorBad ((s1 cVec).csRd 0) (cVec + 2 ^ 141)).isSome := by
  decide +kernel
/-- A Coach command of that team armed as generation 7, its run as `f` makes it of a run that begins. -/
def cCmd (l : Line) (f : CoachRun → CoachRun) : Cmd :=
  ⟨7, .seq 0, l, chBase, [], [], none, .coach (f (coachRun ⟨3, tpr .entry 0 0 none, ⟨0, .run, 0, none, .entry, 0⟩, chBase, false⟩ false))⟩
/-- PassesAndVerdicts: a pass that is first and one that is not, one that ends its tile and one that does not; verdicts of a
command, within the window and not; of fill. -/
theorem wit_passes :
    let s (l : Line) (f : CoachRun → CoachRun) := (tpD (tpr .entry 1 0 none) l [cCmd l f]).setCState 0 csRUN
    let mid : CoachRun → CoachRun := fun r => { r with accs := List.replicate 2 [.f 0] }
    let two := cMat + 2 ^ 229
    let due (b : List (Nat × Bool)) : Dev := (s cMat mid).setCch fun c => { c with out := [⟨0, false, 7, 1, b⟩] }
    let f := (up.setCState 0 csFILL).setCch fun c => { c with out := [⟨0, true, 0, 0, []⟩] }
    (s cMat mid).alive ∧ (s cMat mid).calm = true ∧ f.calm = true ∧ ((s cMat mid).readyPass 0).map (·.1.gen) = some 7 ∧ (s cMat mid).cState 0 = csRUN
      ∧ (match (s cMat id).coachOf 7 with
        | some (c, r) => r.accs.isEmpty && (match Dev.tileNext 0 c ((s cMat id).tileCount 0 c.desc + 1) (s cMat id) r with
          | (_, x) => (x.map (·.done)) == some false)
        | none => false) = true
      ∧ (match (s cMat mid).coachOf 7 with
        | some (c, r) => match (s cMat mid).tilePass 0 c r [⟨0, 0, .adder⟩] with
          | (s1, some r1) => decide (s1.tileLen 0 c r1 ≤ r1.kp) && (match s1.tileFinish 0 c r1 with
            | (s2, r2) => (Dev.tileNext 0 c (s2.tileCount 0 c.desc + 1) s2 r2).2.isSome)
          | _ => false
        | none => false) = true
      ∧ (match (s two mid).coachOf 7 with
        | some (c, r) => match (s two mid).tilePass 0 c r [] with
          | (s1, some r1) => decide (r1.kp < s1.tileLen 0 c r1)
          | _ => false
        | none => false) = true
      ∧ (due []).passDue 0 = some ⟨0, false, 7, 1, []⟩ ∧ ((due [(0, false)]).passDue 0).isSome
      ∧ (((due [(0, false)]).arrMiss 0 0).coachOf 7).isSome
      ∧ f.alive ∧ f.cch.out.find? (fun p => p.coach == 0) = some ⟨0, true, 0, 0, []⟩ := by
  decide +kernel
/-- IdleFill: a gap that begins, one whose length has passed with a ramp and without, one whose ramp has run. -/
theorem wit_idle_fill :
    let s := ((up.setReg Reg.SIZ_COACHMAP 3).setReg Reg.CCH_IDLEFILL 0x11).setCState 0 csRUN
    let g (v : Nat) (r : Bool) : Dev := { up with cch := { up.cch with gaps := [(0, v, r)] } }
    s.alive ∧ s.duty = 8 ∧ (s.setFld Reg.PWC_STAT 0 4 4).duty ≠ 8 ∧ s.cch.out = [] ∧ s.coachOn 0 ∧ s.cState 0 = csRUN ∧ s.readyPass 0 = none ∧ s.flag Reg.CCH_IDLEFILL 0 = true
      ∧ s.fld Reg.CCH_IDLEFILL 4 12 ≠ 0 ∧ (g 0x11 false).alive
      ∧ (g 0x11 false).cch.gaps.find? (fun x => x.1 == 0 && !x.2.2) = some (0, 0x11, false) ∧ (g 0x11 false).readyPass 0 = none
      ∧ bits 0x11 16 8 = 0 ∧ bits 0x20011 16 8 ≠ 0 ∧ (g 0x11 true).cch.gaps.any (fun x => x.1 == 0 && x.2.2) = true := by
  decide +kernel

/-- A program entry that holds a control operation. -/
def ctlL (op : Nat) (fs : List (Nat × Nat × Nat × Nat)) : Line := mkHdr ([(0, 0, 16, op), (16, 0, 64, chBase + 0x2000)] ++ fs)
/-- The control operation armed as generation 7. -/
def ctlCmd (l : Line) : Cmd :=
  ⟨7, .seq 0, l, chBase, [], [], none, .coach ⟨3, 0, 0, none, chBase, true, 0, 0, 0, 0, [], [], [], [], false, false, .zero, 0, .zero, 0, 0, .zero⟩⟩
/-- TileProgramsRun: a RUNPROG that is valid and one that is not; a queued instance; an END at its entry and at the length; no
team and one. -/
theorem wit_tile_programs :
    let s := tpD (tpr .entry 0 0 none) 0 []
    let rp : Line := mkHdr [(0, 0, 16, 0x105), (16, 0, 64, chBase), (24, 0, 64, 1), (32, 0, 64, chBase + 0x1000), (40, 0, 32, 4)]
    let w := tpD { tpr .entry 0 0 none with insts := [⟨0, .queued, 0, none, .entry, 0⟩] } 0 []
    let e := tpD (tpr .entry 0 0 none) (mkHdr [(0, 0, 16, 5)]) []
    let z := tpD (tpr .entry 8 0 none) 0 []
    s.alive ∧ s.calm = true ∧ w.calm = true ∧ e.calm = true ∧ z.calm = true ∧ dOp rp = 0x0105 ∧ s.teams < 16 ∧ s.headCheck rp = none ∧ s.runprogBad rp = none ∧ s.runprogBad (rp + 2 ^ 352) = some 44
      ∧ w.alive ∧ (w.instOn 0).isNone ∧ w.coachOn 0 = true ∧ w.jobState = jRUNNING ∧ (w.team 3).isSome
      ∧ ((z.instOn 0).map fun x => (x.1, x.2.2)) = some (3, ⟨0, .run, 8, none, .entry, 0⟩) ∧ z.instCmds 3 0 = [] ∧ z.instDying 3 0 = []
      ∧ ((e.seqAt 0).map fun p => (p.g, p.addr, p.table)) = some (3, chBase, false)
      ∧ (e.cmdRead 3 chBase 64).2 = some (leBytes 64 5) ∧ (e.cmdRead 3 chBase 64).1.headCheck (BitVec.ofNat 512 5) = none
      ∧ ctlBad (BitVec.ofNat 512 5) 5 = none ∧ (e.cmdRead 3 chBase 64).1.instCmds 3 0 = [] ∧ up.teams = 0 ∧ s.teams ≠ 0 := by
  decide +kernel
/-- ControlOperations: each at its entry, with a bad field, waiting below and at its target, taking, at the eighth try, reached
by every instance. -/
theorem wit_control :
    let at_ (l : Line) : Dev := tpD (tpr .entry 0 0 none) l []
    let ok (l : Line) : Bool := ((at_ l).seqAt 0).isSome && (at_ l).alive && (((at_ l).seqAt 0).map (·.table)) == some false
      && ((at_ l).cmdRead 3 chBase 64).2 == some (leBytes 64 l.toNat) && BitVec.ofNat 512 (leNat (leBytes 64 l.toNat)) == l
      && ((at_ l).cmdRead 3 chBase 64).1.headCheck l == none && ((at_ l).cmdRead 3 chBase 64).1.instCmds 3 0 == []
    let tb : List (Nat × Nat × Nat × Nat) := [(32, 0, 64, chBase), (40, 0, 16, 1)]
    let run (w : InstAt) : Dev := tpD (tpr w 0 7 none) 0 [ctlCmd (ctlL 3 tb)]
    let tk (k : Nat) : TakeRun := ⟨chBase + 0x2000, 0, 1, k, 0, []⟩
    let full : Dev := (run (.taking (tk 0))).wrNum (chAddr (chBase + 0x2008)) 8 1
    (at_ (ctlL 1 [])).calm = true ∧ full.calm = true ∧ ok (ctlL 1 []) ∧ ctlBad (ctlL 1 []) 1 = none ∧ ok (ctlL 2 [(32, 0, 1, 1)]) ∧ ctlBad (ctlL 2 [(32, 0, 1, 1)]) 2 = none
      ∧ ok (ctlL 2 []) ∧ ctlBad (ctlL 2 []) 2 = none ∧ (at_ (ctlL 2 [])).ctrBad (chBase + 0x2000) = none
      ∧ ok (ctlL 3 tb) ∧ ctlBad (ctlL 3 tb) 3 = none ∧ ((at_ (ctlL 3 tb)).takeAgain 0 3).isNone
      ∧ ok (ctlL 4 tb) ∧ ctlBad (ctlL 4 tb) 4 = none ∧ ((at_ (ctlL 4 tb)).takeAgain 0 4).isNone
      ∧ ctlBad (ctlL 1 [(16, 0, 8, 1)]) 1 = some 16 ∧ ok (ctlL 1 [(16, 0, 8, 1)])
      ∧ ((tpD (tpr .entry 0 7 (some ⟨chBase + 0x2000, 0, 1, chBase, 1⟩)) 0 [ctlCmd (ctlL 3 tb)]).takeAgain 0 3).isSome
      ∧ ((run (.waiting chBase 0)).cmdRead 7 chBase 8).2.isSome ∧ ((run (.waiting chBase 0)).instOn 0).isSome
      ∧ (run (.taking (tk 0))).cmd 7 = some (ctlCmd (ctlL 3 tb)) ∧ inCH (chBase + 0x2000) 576 = true
      ∧ ((full.cmdRead 7 (chBase + 0x2000) 576).2.map (recBad false (chBase + 0x2000))) = some false
      ∧ ((full.cmdRead 7 (chBase + 0x2000) 576).1.bankTake false (chBase + 0x2000) 0 1).2 = (some 0, 1)
      ∧ (((run (.taking (tk 0))).cmdRead 7 (chBase + 0x2000) 576).1.bankTake false (chBase + 0x2000) 0 1).2.1 = none
      ∧ ((run (.signal chBase 1)).team 3).isSome ∧ (run (.signal chBase 1)).ctrBad chBase = none := by decide +kernel
/-- CommitAndKill: one command of each kind that commits, those that are killed, and kills that complete. -/
theorem wit_commit_kill :
    let mk (b : CmdBody) (l : Line) : Cmd := ⟨7, .ring 0, l, 0, [], [], none, b⟩
    let dn : CoachRun := ⟨3, 0, 0, none, chBase, false, 0, 0, 0, 0, [], [], [], [], true, false, .zero, 0, .zero, 0, 0, .zero⟩
    let s := tpD (tpr .entry 1 0 none) 0 [mk (.coach dn) cVec]
    let f := mmfD [mk (.mfx ⟨false, false, 8, 0, chBase, 0, 64, chBase + 128, 64, [], [], 0⟩) 0]
    let a := mmfD [mk (.matomic ⟨true, 8, chBase, some 5, false⟩) 0]
    s.alive ∧ s.calm = true ∧ f.calm = true ∧ a.calm = true ∧ (mmfD [mk .sstop 0]).writeHeld 7 = false ∧ (s.cmd 7).isSome ∧ (s.outGate (mk (.coach dn) cVec)).2 = true ∧ s.instCmds 3 0 = [mk (.coach dn) cVec]
      ∧ s.ctrBad (dHand cVec) = none ∧ s.reportAt 0 cVec = none ∧ dn.offs.dup.first = none ∧ dn.offs.rng.first = none
      ∧ dn.offs.blk.first = none
      ∧ f.mfxSettled 7 ⟨false, false, 8, 0, chBase, 0, 64, chBase + 128, 64, [], [], 0⟩ = true ∧ f.alive
      ∧ (a.cmdWrite 7 chBase (leBytes 8 5)).2 = true ∧ (a.cmdWrite 7 chBase (leBytes 8 5)).1.writeHeld 7 = false ∧ a.alive
      ∧ (colD (grp 2) [xfr]).alive ∧ ((colD (grp 2) [xfr]).cmd 7).isSome ∧ (colD (grp 2) [xfr]).group xfr.gid = some (grp 2)
      ∧ (mmfD [mk .sstop 0]).cmd 7 = some (mk .sstop 0)
      ∧ ([⟨mk (.gdissolve 5) 0, 3, false⟩] : List Dying).find? (fun x => x.cmd.gen == 7) = some ⟨mk (.gdissolve 5) 0, 3, false⟩ := by
  decide +kernel
/-- CommitIncrementsHand: a MATOMIC that has written, with a counter and without; an MFX that is settled; a Coach command with a
report, and one without. -/
theorem wit_commit_hand :
    let mk (b : CmdBody) (l : Line) : Cmd := ⟨7, .ring 0, l, 0, [], [], none, b⟩
    let c (h : Nat) : Cmd := mk (.matomic ⟨true, 8, chBase, some 5, true⟩) (mkHdr [(8, 0, 64, h)])
    let s (h : Nat) := mmfD [c h]
    let x : MfxRun := ⟨false, false, 8, 0, chBase, 0, 64, chBase + 128, 64, [], [], 0⟩
    let f := mmfD [mk (.mfx x) (mkHdr [(8, 0, 64, chBase + 64)])]
    let mv : MoveRun := ⟨chBase + 128, 0, 1, 0, 0, 0, 0, 0, 0⟩
    let m := mmfD [mk (.move mv) (mkHdr [(8, 0, 64, chBase + 64)])]
    let dn : CoachRun := ⟨3, 0, 0, none, chBase, false, 0, 0, 0, 0, [], [], [], [], true, false, .zero, 0, .zero, 0, 0, .zero⟩
    let k (l : Line) := tpD (tpr .entry 1 0 none) 0 [mk (.coach dn) l]
    (s (chBase + 64)).alive ∧ (s (chBase + 64)).canonical = true ∧ (s (chBase + 64)).calm = true
      ∧ (s (chBase + 64)).cmd 7 = some (c (chBase + 64)) ∧ CommitReport (s 0) 7 (c 0) none
      ∧ (s 0).writeHeld 7 = false ∧ ctrOk (dHand (c (chBase + 64)).desc) = true
      ∧ (s (chBase + 64)).lineOf (chAddr (chBase + 64)) = .good ∧ dHand (c (chBase + 64)).desc ≠ 0 ∧ dHand (c 0).desc = 0
      ∧ ctrOk (dHand (c 0).desc) = true
      ∧ m.calm = true ∧ m.canonical = true ∧ m.moveSettled 7 mv = true ∧ m.writeHeld 7 = false ∧ chAddr (chBase + 64) + 8 ≤ chAddr mv.rpt
      ∧ f.calm = true ∧ f.canonical = true ∧ f.mfxSettled 7 x = true ∧ f.writeHeld 7 = false ∧ f.lineOf (chAddr (chBase + 64)) = .good
      ∧ chAddr (chBase + 64) + 8 ≤ chAddr x.rpt
      ∧ (k cCmp).calm = true ∧ (k cCmp).canonical = true ∧ (k cCmp).verdictDue 7 = false ∧ (k cCmp).writeHeld 7 = false
      ∧ ((k cCmp).instCmds 3 0).map (·.gen) = [7] ∧ ((k cCmp).team 3).map (·.stopped) = some none ∧ (k cCmp).reportAt 0 cCmp = some (131072, 0) ∧ (k cVec).reportAt 0 cVec = none := by
  refine ⟨by decide +kernel, by decide +kernel, by decide +kernel, by decide +kernel, Or.inl ⟨_, 5, rfl, rfl, rfl, rfl⟩, ?_⟩
  decide +kernel

/-- A device with ring 0 in `state`, its queues of 16 slots, enabled or not. -/
def rngD (state en : Nat) : Dev :=
  let s := (up.setReg Reg.HST_STAT (5 + 1 * 2 ^ 8 + 16 * 2 ^ 11)).setReg (Reg.HST_RCFG 0) (en + 4 * 2 ^ 8 + 4 * 2 ^ 16)
  (s.setReg (Reg.HST_RSTAT 0) state).setReg Reg.GRD_JOBSTAT 3
/-- DoorbellsAndRings: doorbells within and past the queue, of a ring that is not enabled; a ring to start and one to stop; a
ring that runs; a fetch with one descriptor due. -/
theorem wit_rings :
    let s := rngD 1 1
    let i := rngD 0 0
    let m (s : Dev) (v : Nat) : Nat := mergeWrite ⟨0, [], 32, 0x1F1F03, 0, 0, 0, 0⟩ .host (s.reg (Reg.HST_RCFG 0)) v
    let f := s.setReg (dbSqTail 0) 1
    s.alive ∧ s.flag Reg.HST_STAT 0 = true ∧ s.flag (Reg.HST_RCFG 0) 0 = true ∧ 3 < s.sqSize 0 ∧ s.sqSize 0 ≤ 20 ∧ 0 < s.cqSize 0
      ∧ (0 + s.cqSize 0 - s.reg (dbCqHead 0)) % s.cqSize 0
          ≤ (s.fld (Reg.HST_RHEAD 0) 16 16 + s.cqSize 0 - s.reg (dbCqHead 0)) % s.cqSize 0
      ∧ i.alive ∧ i.flag (Reg.HST_RCFG 0) 0 = false ∧ i.rState 0 = rsIDLE ∧ i.flag Reg.HST_STAT 2 = true
      ∧ regReserved i.express (Reg.HST_RCFG 0) (m i 0x40401) = false ∧ bit 0x40401 0 = true ∧ bit 0x40400 0 = false
      ∧ bits 0x40400 8 5 = s.fld (Reg.HST_RCFG 0) 8 5 ∧ bits 0x40400 16 5 = s.fld (Reg.HST_RCFG 0) 16 5
      ∧ regReserved s.express (Reg.HST_RCFG 0) (m s 0x40400) = false ∧ s.rState 0 ≠ rsIDLE ∧ f.mayFetch 0 = true
      ∧ f.ringTurn = 0 ∧ f.sqLeft 0 = 1 ∧ s.sqLeft 0 = 0 ∧ s.ringDue = none ∧ bits 0x40501 8 5 ≠ s.fld (Reg.HST_RCFG 0) 8 5 ∧ 0 < f.fld Reg.HST_CFG 0 4
      ∧ (f.ring 0).fetched = [] := by decide +kernel
/-- A device whose page 0 is homed in frame 600 of HBM, with the decoder committed at base 0. -/
def hdmD : Dev := (up.setFlag Reg.HST_STAT 1 true).setPte 0 (1 + 8 + 600 * 2 ^ 32)
/-- HostMemoryAndLink: a line that is mapped and one that is not; a snoop outstanding; a device that serves and one not yet. -/
theorem wit_host_memory :
    let w : Dev := { up with tiers := { up.tiers with snoops := [3] } }
    hdmD.alive ∧ hdmD.noLent = true ∧ w.noLent = true ∧ hdmD.hdmOpen = true ∧ (up.setReg Reg.GRD_BOOTSTAT 0x104).hdmOpen = false
      ∧ Sparse.get (fun _ => 0) hdmD.tiers.laid 1 = 0 ∧ 4 ∉ w.tiers.snoops
      ∧ ((w.setTiers fun t => { t with snoops := t.snoops.filter (· != 3), filter := t.filter.filter (fun x => x.1 != 3), laid := Sparse.put (fun _ => 0) t.laid 3 0 }).armRings.mfxGoAll).tiers.stalls = w.tiers.stalls ∧ hdmD.cmds = [] ∧ (hdmD.touch 64 64).heldRegion (jobKey 64) = false ∧ 0 < ((hdmD.touch 64 64).rdJob 64 64).length
      ∧ hdmD.hdmLine 70 = some 64 ∧ hdmD.xlate 64 false = .key (hbmKey 600 64) ∧ hdmD.lineOf (hbmKey 600 64) = .good
      ∧ hdmD.hdmLine 0x300000 = some 0x300000 ∧ hdmD.xlate 0x300000 false = .bad 1 ∧ hdmD.xlate 64 true = .key (hbmKey 600 64)
      ∧ hdmD.xlate 0x300000 true = .bad 1 ∧ 3 ∈ w.tiers.snoops ∧ (hdmD.spanFault 192 64 true) = none
      ∧ up.grd.stage = .run ∧ up.fld Reg.GRD_BOOTSTAT 0 4 ≠ 8 ∧ up.configOpen = false
      ∧ ({ up with grd := { up.grd with served := true } } : Dev).configOpen = true := by decide +kernel
/-- DownstreamPorts: a port off and in the table, one taken out, one that is on without and with a link. -/
theorem wit_ds_ports :
    let s := up.setReg (Reg.HST_DSCTL 0) 1
    let h (s : Dev) : Dev := { s with grd := { s.grd with hbm := true } }
    up.alive ∧ up.flag Reg.GRD_BOOTSTAT 10 = false ∧ up.flag (Reg.HST_DSCTL 0) 0 = false ∧ up.portOn 0 = true
      ∧ (up.portOff 0).portOn 0 = false ∧ s.alive ∧ s.flag (Reg.HST_DSCTL 0) 0 = true ∧ s.portOn 0 = true
      ∧ (h s).alive ∧ (h s).grd.hbm = true ∧ (h s).flag (Reg.HST_DSSTAT 0) 0 = false ∧ 0 ∉ (h s).tiers.listed ∧ 0 ∈ ((h s).setTiers fun t => { t with listed := [0] }).tiers.listed
      ∧ (h s).tiers.reqs = [] ∧ (h s).tiers.opens = [] ∧ (h s).tiers.waits = [] ∧ (h s).flag Reg.DRY_STAT 0 = false
      ∧ (s.setReg (Reg.HST_DSSTAT 0) 1).flag (Reg.HST_DSSTAT 0) 0 = true := by decide +kernel
/-- A SLOOP with frames of one row, GROUPED, and a step program of one entry. -/
def slpL (flags : Nat) : Line :=
  mkHdr [(0, 0, 16, 0x600), (3, 0, 4, 3), (16, 0, 8, flags), (18, 0, 16, 5), (20, 0, 17, 1), (24, 0, 64, chBase), (33, 0, 8, 1),
    (34, 0, 16, 1), (36, 0, 19, 16), (40, 0, 64, chBase + 0x1000), (48, 0, 64, chBase + 0x2000), (56, 0, 64, chBase + 0x3000)]
/-- The device with that loop running and a frame `f` in progress. -/
def slpD (f : Option FrameRun) : Dev :=
  let s := (colD { grp 2 with slots := [(1, 1, false, ctl [])] } []).setReg Reg.HST_SESSCFG 4
  { s with srv := ⟨some (slpL 1), f, 0, none⟩ }
/-- ServingLoop: the core that runs the loop is not halted, and is, whichever core it is. -/
theorem wit_serving_held : (slpD none).loopHeld = false ∧ ((slpD none).setReg Reg.DBG_CORES 0xFF).loopHeld = true := by
  have h0 : ∀ c, c < 8 → (slpD none).flag Reg.DBG_CORES c = false := by decide +kernel
  have h1 : ∀ c, c < 8 → ((slpD none).setReg Reg.DBG_CORES 0xFF).flag Reg.DBG_CORES c = true := by decide +kernel
  exact ⟨h0 _ (Nat.mod_lt _ (by decide)), h1 _ (Nat.mod_lt _ (by decide))⟩
/-- ServingLoop: a SLOOP that is valid, one with a bad field, one while a loop runs; SSTOPs; an overrun queue, a frame, an
empty step; a step that arms, that waits, that has ended. -/
theorem wit_serving :
    let s := (colD (grp 2) []).setReg Reg.HST_SESSCFG 4
    let z : Line := mkHdr [(0, 0, 16, 0x601), (3, 0, 4, 3)]
    let t (n : Nat) := (slpD none).wrNum (chAddr chBase) 8 n
    s.alive ∧ s.calm = true ∧ (t 2).calm = true ∧ (slpD none).calm = true ∧ (slpD none).reg Reg.DBG_CORES = 0
      ∧ (colD (grp 2) []).fld Reg.HST_SESSCFG 0 17 = 0 ∧ dOp (slpL 1) = 0x0600 ∧ s.headCheck (slpL 1) = none ∧ bit (slFlags (slpL 1)) 1 = false ∧ s.sloopBad (slpL 1) = none
      ∧ s.fld Reg.HST_SESSCFG 0 17 ≠ 0 ∧ s.srv.desc = none ∧ s.sloopBad (slpL 4) = some 16 ∧ (slpD none).sloopBad (slpL 1) = none
      ∧ (slpD none).srv.desc ≠ none ∧ dOp z = 0x0601 ∧ s.headCheck z = none ∧ (slpD none).alive ∧ (slpD none).jobState = jRUNNING
      ∧ ((t 2).unitRead chBase 16).2.isSome ∧ 2 ^ slLog2 (slpL 1) < ((t 2).unitRead chBase 16).1.frames (slpL 1)
      ∧ ((t 1).unitRead chBase 16).1.frames (slpL 1) = 1 ∧ ((slpD none).unitRead chBase 16).2.isSome
      ∧ ((slpD none).unitRead chBase 16).1.frames (slpL 1) = 0 ∧ slFq (slpL 1) = chBase
      ∧ bit (slFlags (slpL 1)) 0 = true ∧ (slpD none).offerWaits (slGroup (slpL 1)) = true ∧ slStepLen (slpL 1) = 1 := by
  decide +kernel

/-- A device in a job state, on no ring, with a job record. -/
def jobD (st : Nat) (f : Job → Job) : Dev := ((up.setJobState st).setReg Reg.STG_COORD 0x10009).setJob f
/-- A launch of two, three or four members on the node at `i`. -/
def lnch (root : Bool) (list : List Nat) (i : Nat) : Launch :=
  ⟨root, 7, 5, 1, 1, list, 2, false, 1, 1, 200, 2, 10, i, 1, true, [], [], false, false, none⟩
/-- A launch or order carriage from 8. -/
def lcar (type job seq : Nat) (fs : List (Nat × Nat × Nat × Nat)) (p : List Byte) : Carriage :=
  ⟨mkHdr ([(2, 0, 16, 8), (5, 5, 3, kCTRL), (28, 0, 8, type), (32, 0, 32, job), (36, 0, 32, seq)] ++ fs), p⟩
/-- The body of a job command. -/
def jcmd (op : Nat) (fs : List (Nat × Nat × Nat × Nat)) : Line := mkHdr ([(0, 0, 16, op), (3, 0, 4, 3)] ++ fs)
/-- LaunchOfAJob, the root: JADMIT good, bad and in another state; JLAUNCH with a good list, of one device, and with a bad one. -/
theorem wit_launch_root :
    let ad := jcmd 0x700 [(16, 0, 32, 5), (20, 0, 16, 100)]
    let jl (n : Nat) := jcmd 0x701 [(16, 0, 32, 5), (20, 0, 32, 1), (24, 0, 64, chBase), (32, 0, 17, n), (32, 17, 5, 2), (36, 0, 17, 1),
      (40, 0, 16, 200), (42, 0, 8, 1), (44, 0, 32, 10)]
    let i := jobD jIDLE id
    let r := jobD jRUNNING id
    let m (bs : List Byte) : Dev := i.wrBytes (chAddr chBase) bs
    let rd (bs : List Byte) (n : Nat) := (((m bs).arm .coachman (jl n) 0 [(jobKey chBase, 2 * n)] [] .jlaunch).1.cmdRead i.nextGen chBase (2 * n)).2
    i.alive ∧ (m [9, 0, 8, 0]).calm = true ∧ (m [9, 0, 9, 0]).calm = true ∧ r.alive ∧ dOp ad = 0x0700 ∧ i.headCheck ad = none ∧ r.headCheck ad = none ∧ jadmitBad ad = none
      ∧ jadmitBad (ad + 2 ^ 176) = some 22 ∧ i.jobState = jIDLE ∧ r.jobState ≠ jIDLE
      ∧ (m [9, 0, 8, 0]).headCheck (jl 2) = none ∧ jlaunchBad (jl 2) = none ∧ jlaunchBad (jl 1) = none ∧ (m []).job.launch.isNone
      ∧ rd [9, 0, 8, 0] 2 = some [9, 0, 8, 0] ∧ listOf [9, 0, 8, 0] 2 = [9, 8] ∧ i.coord = 9 ∧ rd [9, 0] 1 = some [9, 0]
      ∧ rd [9, 0, 9, 0] 2 = some [9, 0, 9, 0] ∧ ¬ (listOf [9, 0, 9, 0] 2).Nodup ∧ lfield (jl 2) 32 22 1 = 0
      ∧ (lnch true [9, 8] 0).kids = [1] ∧ (lnch true [9] 0).kids = [] := by decide +kernel
/-- LaunchOfAJob, the nodes: a MANIFEST accepted and refused; ARM, ARMACK, the end of the wait, GO, T_GO, LABORT and the hold. -/
theorem wit_launch_node :
    let mf := lcar lMANIFEST 5 1 [(44, 0, 32, 2), (48, 0, 8, 2)] (padUnits [8, 0, 9, 0])
    let a := (jobD jIDLE id).setReg Reg.GRD_JOBADMIT (2 ^ 32 + 5)
    let n (st : Nat) (l : Launch) := jobD st fun j => { j with launch := some l }
    let node := lnch false [8, 9, 7, 6] 1
    let leaf := lnch false [8, 9] 1
    let root := lnch true [9, 8, 7] 0
    lType mf = lMANIFEST ∧ mf.f 44 0 32 = 2 ∧ mf.f 40 0 32 = 0 ∧ a.alive ∧ a.jobState = jIDLE ∧ a.flag Reg.GRD_JOBADMIT 32 = true
      ∧ a.fld Reg.GRD_JOBADMIT 0 32 = lJob mf ∧ a.job.gather.isNone ∧ a.job.launch.isNone ∧ mf.f 48 0 8 = 2 ∧ 4 ≤ mf.payload.length
      ∧ (listOf mf.payload 2).count a.coord = 1 ∧ (jobD jIDLE id).flag Reg.GRD_JOBADMIT 32 = false
      ∧ node.kids = [3] ∧ leaf.kids = [] ∧ root.kids = [1, 2] ∧ (n jMANIFEST node).jobState = jMANIFEST ∧ (n jARMED node).jobState = jARMED
      ∧ (n jARMED node).alive ∧ lType (lcar lARM 5 1 [] []) = lARM ∧ lJob (lcar lARM 5 1 [] []) = 5 ∧ lSeq (lcar lARM 5 1 [] []) = 1
      ∧ root.kids.find? (fun k => root.coordOf k == (lcar lARMACK 5 1 [] []).src) = some 1
      ∧ root.kids.all (root.acked ++ [1]).contains = false ∧ root.kids.all ([2] ++ [1]).contains = true
      ∧ ((lcar lARMACK 5 1 [] []).f 40 0 32, (lcar lARMACK 5 1 [] []).f 44 0 2) = (0, 0)
      ∧ (root.kids.filter (fun k => !([2] : List Nat).contains k) ++ root.silent).eraseDups = [1]
      ∧ ((((List.range root.list.length).zip root.list).filter fun x => !([1] : List Nat).contains x.1).map (·.2)) = [9, 7]
      ∧ root.ran < root.rounds ∧ lType (lcar lGO 5 1 [(48, 0, 32, listCrc node.list)] []) = lGO
      ∧ (lcar lGO 5 1 [(48, 0, 32, listCrc node.list)] []).f 48 0 32 = listCrc node.list
      ∧ (n jARMED node).now ≤ (lcar lGO 5 1 [] []).f 40 0 64
      ∧ (lcar lGO 5 1 [] []).f 40 0 64 < ((n jARMED node).setReg Reg.TPK_TIME 5).now
      ∧ (n jRUNNING { node with tgo := some 3 }).jobState = jRUNNING ∧ lType (lcar lLABORT 5 1 [] []) = lLABORT
      ∧ (([⟨lORDER, 3, 7, []⟩] : List LMsg).find? fun m => m.node == 3 && m.type == lORDER).isSome := by decide +kernel
/-- OrdersAndTheirEnd: a JORDER on the root, during a resize and on a member; ORDREQ; ORDER of the parent, old and new; ACK with
and without the order applied; the scrub. -/
theorem wit_orders :
    let jo (k : Nat) := jcmd 0x702 [(16, 0, 8, k)]
    let w (st idx : Nat) (f : Job → Job) := ((jobD st fun j => f { j with list := [8, 9], fanout := 2 }).setReg Reg.GRD_JOBID 5).setReg Reg.GRD_JOBMEMB idx
    let r := w jRUNNING 0 id
    let m := w jRUNNING 1 id
    let o (k seq : Nat) := lcar lORDER 5 seq [(40, 0, 8, k)] []
    r.alive ∧ m.alive ∧ (w jSCRUBBING 0 id).alive ∧ dOp (jo 1) = 0x0702 ∧ r.job.ownReq.isNone ∧ r.headCheck (jo 1) = none ∧ jorderBad (jo 1) = none
      ∧ (w jPREEMPTED 0 id).headCheck (jo 2) = none ∧ jorderBad (jo 2) = none ∧ jorderBad (jo 3) = none ∧ r.headCheck (jo 3) = none
      ∧ lnum (jo 1) 16 1 = 1 ∧ lnum (jo 2) 16 1 = 2 ∧ lnum (jo 3) 16 1 = 3
      ∧ r.jobIndex = 0 ∧ m.jobIndex ≠ 0 ∧ r.jobRuns = true ∧ r.job.launch.isNone
      ∧ (w jRUNNING 0 fun j => { j with launch := some (lnch true [9, 8] 0) }).job.launch.isSome
      ∧ lType (lcar lORDREQ 5 0 [(40, 0, 8, 1)] []) = lORDREQ ∧ lJob (lcar lORDREQ 5 0 [(40, 0, 8, 1)] []) = r.jobId
      ∧ (lcar lORDREQ 5 0 [(40, 0, 8, 1)] []).f 40 0 8 = 1
      ∧ lType (o 1 3) = lORDER ∧ (o 1 3).src = nth m.job.list (parentOf m.job.fanout m.jobIndex) 0 ∧ m.jobRuns = true
      ∧ lSeq (o 1 3) = 3 ∧ m.fld Reg.GRD_JOBORD 0 32 < 3 ∧ (m.setReg Reg.GRD_JOBORD 3).fld Reg.GRD_JOBORD 0 32 = 3
      ∧ (o 1 3).f 40 0 8 = 1 ∧ (o 2 3).f 40 0 8 = 2 ∧ (o 3 3).f 40 0 8 = 3 ∧ m.cmds = [] ∧ m.dying = [] ∧ m.tiers.moves = []
      ∧ (w jPREEMPTED 1 id).jobState = jPREEMPTED ∧ (w jPREEMPTED 1 id).jobRuns = true ∧ m.tiers.opens = [] ∧ m.tiers.reqs = []
      ∧ m.tiers.waits = [] ∧ m.tiers.ttEnd = false
      ∧ lType (lcar lACK 5 3 [(40, 0, 8, lGO)] []) = lACK ∧ (lcar lACK 5 3 [(40, 0, 8, lORDREQ)] []).f 40 0 8 = lORDREQ
      ∧ (w jRUNNING 1 fun j => { j with ownReq := some ⟨7, 1, none⟩ }).job.ownReq = some ⟨7, 1, none⟩
      ∧ (w jSCRUBBING 0 id).jobState = jSCRUBBING ∧ (w jSCRUBBING 0 id).job.ownReq.isNone
      ∧ (w jSCRUBBING 1 id).jobRuns = false ∧ (w jIDLE 1 id).jobRuns = false := by decide +kernel
/-- UnitsTakenOutOfService: each ACTION on a unit that can take it and on one that cannot. -/
theorem wit_junit :
    let ju (a n : Nat) := jcmd 0x703 [(16, 0, 8, a), (18, 0, 16, n), (20, 0, 16, 1)]
    let s := (((jobD jIDLE id).setReg Reg.SIZ_COACHMAP 1).setReg Reg.SIZ_ROUTE 0x304).setReg Reg.SIZ_TIER 1
    let p := s.setReg (Reg.HST_DSCTL 0) 3
    s.alive ∧ (∀ a ∈ [1, 2, 3, 4, 5], s.headCheck (ju a 0) = none ∧ junitBad (ju a 0) = none ∧ juAction (ju a 0) = a)
      ∧ dOp (ju 1 0) = 0x0703 ∧ juIndex (ju 1 3) = 3 ∧ s.coachOn 0 = true ∧ s.coachOn 3 = false
      ∧ bit s.postmap 1 = true ∧ 1 < (bitsSet 8 s.postmap).length ∧ bit s.postmap 2 = false ∧ 2 < s.fld Reg.SIZ_ROUTE 0 4
      ∧ s.fld Reg.SIZ_ROUTE 0 4 ≤ 5 ∧ p.portOn 0 = true ∧ (p.portOff 1).portOn 1 = false ∧ p.portMoves 0 = [] ∧ s.job.drains = [] ∧ juFail (ju 4 0) = false
      ∧ juFail (ju 4 0 + 2 ^ 136) = true ∧ junitBad (ju 4 0 + 2 ^ 136) = none
      ∧ ([(0, 7)] : List (Nat × Nat)).find? (fun x => x.1 == 0) = some (0, 7) := by decide +kernel

/-- WakesGatesAndTrips: a clock-gated and a power-gated Coach, within the limits and beyond; domains of each kind; the trip. -/
theorem wit_power_wake :
    let s := (up.setReg Reg.SIZ_COACHMAP 0x11).setFld (Reg.CCH_CSTAT 0) 0 3 csCGATED
    let g := s.setFld (Reg.CCH_CSTAT 4) 0 3 csPGATED
    let full := g.setPwr fun p => { p with woken := 16 }
    let cl := g.setPwr fun p => { p with wokenCl := some 0 }
    let dn := (((g.setReg (Reg.HCH_PSTAT 2) 0).setReg (Reg.HCH_PSTAT 3) 0).setReg (Reg.HST_DSCTL 1) 0).setPwr fun p => { p with gated := [.core 1] }
    let tr (k : Nat) := up.setPwr fun p => { p with trip := k }
    g.alive ∧ g.coachOn 0 = true ∧ g.coachOn 4 = true ∧ g.pwr.deferred = [] ∧ g.pwr.woken < g.fld Reg.PWC_SLEW 0 7
      ∧ g.fld (Reg.CCH_CSTAT 0) 0 3 = csCGATED ∧ g.fld (Reg.CCH_CSTAT 4) 0 3 = csPGATED ∧ g.pwr.wokenCl = none
      ∧ cl.pwr.wokenCl = some 0 ∧ 0 ≠ 4 / 4 ∧ full.fld Reg.PWC_SLEW 0 7 ≤ full.pwr.woken ∧ g.pwr.awake.contains 4 = false
      ∧ (g.setPwr fun p => { p with wokenCl := some 1 }).pwr.wokenCl = some (4 / 4)
      ∧ g.fld Reg.PWC_GATECFG 0 16 ≠ 0 ∧ g.instWaits 0 = false ∧ dn.pwr.gated.contains (.core 1) = true
      ∧ (∀ dm ∈ [Domain.postilion 1, .hitchPair 1, .dsPort 1, .core 2], dn.pwr.gated.contains dm = false ∧ dn.mayGate dm = true)
      ∧ up.grd.stage = .run ∧ up.pwr.trip = 0 ∧ (tr 1).pwr.trip = 1 ∧ (tr 2).pwr.trip = 2 := by decide +kernel
/-- LoopsTelemetryAndTemperature: duties, steps, rails, THROTTLE_N and temperatures on each side of their limits. -/
theorem wit_power_loops :
    let s (k : Nat) := (up.setFld Reg.PWC_STAT 0 4 k).setPwr fun p => { p with sinceUp := 10, winUs := 20000 }
    let f := s 5
    let m := f.setFld Reg.PWC_CLK 0 3 2
    let ts (x : Int) : List Int := List.replicate 39 0 ++ [x]
    let hot (x : Int) := hottest ((List.range 40).zip (ts x))
    let low (n k : Nat) := ((s n).setFld Reg.PWC_CLK 0 3 k).setPwr fun p => { p with lowTicks := 10000, hist := [] }
    let fl := (List.range 16).foldl (fun (x : Dev) c => x.setFld Reg.PWC_CLK (4 * c) 3 4) (s 1)
    let loud := f.setPwr fun p => { p with meters := p.meters.modify 0 fun _ => ⟨0, 0, 10 ^ 12⟩ }
    f.alive ∧ Dev.reset.grd.stage ≠ .run ∧ f.grd.stage = .run ∧ (s 2).duty = 2 ∧ f.cch.gaps = [] ∧ f.pwr.throttle = false
      ∧ (∀ c, c < 16 → fl.arrayStep c = 4) ∧ fl.duty = 1 ∧ fl.flag Reg.PWC_STAT 4 = false ∧ fl.pwr.slowLim = false
      ∧ (loud.slowSample [0, 0, 0]).avgAbove 100 = true ∧ loud.duty ≠ 1 ∧ loud.pwr.target = [] ∧ loud.arrayStep 0 < 4
      ∧ 1000 * loud.plWindow ≤ loud.pwr.winUs + 100
      ∧ ((low 5 2).slowSample [0, 0, 0]).avgAbove 95 = false ∧ 10 * (low 5 2).plWindow ≤ min ((low 5 2).pwr.lowTicks + 1) 10000
      ∧ 0 < (low 5 2).arrayStep 0 ∧ bit (f.setPwr fun p => { p with overLim := 2 }).pwr.overLim 1 = true
      ∧ f.flag Reg.PWC_STAT 6 = false ∧ f.flag Reg.PWC_STAT 4 = false ∧ f.pwr.forced = false ∧ f.pwr.slowLim = false ∧ f.duty = 5
      ∧ f.plFast < 2000 ∧ 100 ≤ f.plFast ∧ 100 + f.fld Reg.PWC_THR 0 8 ≤ f.plFast ∧ f.plFast < f.plFast + f.fld Reg.PWC_THR 0 8
      ∧ 9 ≤ f.pwr.sinceUp ∧ (s 1).duty = 1
      ∧ f.pwr.target = [] ∧ f.pwr.fastLim = false ∧ f.pwr.hot = false ∧ 1000 * f.plWindow ≤ f.pwr.winUs + 100 ∧ f.plSust < 2000
      ∧ f.arrayStep 0 < 4 ∧ 100 ≤ m.plSust ∧ 0 < m.arrayStep 0
      ∧ ([(0, 3)] : List (Nat × Nat)).find? (fun x => x.1 == 0) = some (0, 3)
      ∧ bit f.pwr.overLim 1 = false ∧ f.jobState = jIDLE ∧ bit f.pwr.overLim 5 = false
      ∧ f.pwr.thr34 ≠ some (f.ns / 10 ^ 9) ∧ (f.setPwr fun p => { p with thr34 := some 0 }).pwr.thr34 = some (f.ns / 10 ^ 9)
      ∧ (ts 1).length = 40 ∧ (∀ k, k < 40 → f.flag (Reg.PWC_SENSOR k) 16 = false)
      ∧ hot 1600 = some (39, 1600) ∧ hot 1700 = some (39, 1700) ∧ hot 1900 = some (39, 1900) ∧ f.pwr.trip = 0 := by decide +kernel

/-- A released device with its clocks, in a boot state. -/
def bootD (st : Nat) (f : Guard → Guard) : Dev := (up.setGrd fun g => f { g with straps := ⟨0, false, false, true, 0xFFFFFFFF⟩ }).setBoot st
/-- A Guard command that is in order but for its payload. -/
def greq (p : List Byte) (nonce : Word64) : GReq := ⟨1, 0x50, p.length, nonce, 0, true, p, true⟩
/-- Resets: power off, released, tripped hot and cool, held, with a change pending, decommissioned, with a job and without. -/
theorem wit_resets :
    let off := Dev.setGrd up fun g => { g with stage := .off }
    let tr := up.setPwr fun p => { p with trip := 1 }
    let hot := tr.setReg Reg.PWC_TEMP 1700
    let held (c : Nat) := bootD 0 fun g => { g with stage := .held c }
    let pend := bootD 0 fun g => { g with stage := .held 2, lcTarget := some 3 }
    off.grd.stage = .off ∧ up.grd.stage = .run ∧ up.pwr.trip = 0 ∧ (bootD 5 fun g => { g with coldWait := true }).grd.coldWait = true
      ∧ tr.pwr.trip ≠ 0 ∧ toSigned 16 (tr.fld Reg.PWC_TEMP 0 16) < 1600 ∧ 1600 ≤ toSigned 16 (hot.fld Reg.PWC_TEMP 0 16)
      ∧ (bootD 5 id).bootOk = true ∧ (bootD 5 id).grd.lcTarget = none ∧ (bootD 5 id).lifeState ≠ lcDECOMMISSIONED
      ∧ (held 2).grd.stage = .held 2 ∧ (held 5).grd.stage = .held 5 ∧ (held 5).grd.lcTarget = none ∧ pend.grd.lcTarget = some 3
      ∧ (up.setJobState jRUNNING).alive ∧ (up.setJobState jRUNNING).jobState = jRUNNING ∧ up.jobState = jIDLE
      ∧ (bootD 5 fun g => { g with straps := { g.straps with coreclk := false } }).grd.straps.coreclk = false
      ∧ tr.tripHeld = true ∧ (Dev.setGrd (up.setJobState jRUNNING) fun g => { g with sealed := false }).toSeal = true := by decide +kernel
/-- StartUp: each state of the boot, an image with a good header and one without; the checks of an image need no hypothesis. -/
theorem wit_start_up :
    let s (st : Nat) := bootD st id
    let fl : List Host.Cell := [(0, 0x31), (1, 0x46), (2, 0x53), (3, 0x5A), (4, 1), (17, 0x10)]
    let ld := bootD 1 fun g => { g with flash := fl }
    let hb := bootD 4 fun g => { g with trained := true }
    let wp := (s 5).setFlag Reg.GRD_BOOTSTAT 10 true
    (s 0).bootOk = true ∧ (s 0).grd.sram = false ∧ (s 0).bootState = bsROM ∧ ld.bootOk = true ∧ ld.bootState = bsLOADING
      ∧ ld.headerBad = none ∧ (s 1).headerBad = some 0 ∧ ld.imageCheck (some 3) = some (7, 3)
      ∧ (s 1).imageCheck none = some (1, 0) ∧ (s 2).bootState = bsVERIFYING ∧ (s 3).bootState = bsTRAINING
      ∧ (s 3).grd.trained = false ∧ hb.bootOk = true ∧ hb.grd.trained = true ∧ hb.grd.hbm = false ∧ hb.grd.lcTarget = none
      ∧ (hb.setFlag (Reg.HST_DSCTL 1) 0 true).flag (Reg.HST_DSCTL 1) 0 = true
      ∧ (bootD 4 fun g => { g with hbm := true, sram := true }).bootState = bsWIPING
      ∧ (bootD 4 fun g => { g with hbm := true, sram := true }).grd.hbm = true ∧ wp.flag (Reg.HST_DSCTL 1) 0 = false
      ∧ (s 6).bootState = bsRECOVERY ∧ (s 6).bootOk = true ∧ (wp.setGrd fun g => { g with wiping := true }).grd.wiping = true ∧ wp.bootOk = true := by decide +kernel
/-- GuardCommands: each command with its payload in READY, one that is locked, a nonce that is not current. -/
theorem wit_guard_commands :
    let s := bootD 5 id
    let ok (d : Dev) (p : List Byte) : Bool := let r := greq p 0
      d.bootState == bsREADY && r.len == r.payload.length && r.zeros && r.uid.toNat == d.uid && r.sigOk && r.nonce.toNat == d.reg Reg.GRD_NONCE
    let lim : List Byte := [0xE8, 3, 0xE8, 3, 10, 0, 90]
    let op := bootD 5 fun g => { g with opened := some (1, 0, 24576) }
    s.grd.stage = .run ∧ (greq lim 0).addr = s.i3cAddr ∧ { greq lim 0 with addr := 0x51 }.addr ≠ s.i3cAddr
      ∧ s.grd.straps.coreclk = true ∧ s.grd.straps.testen = false ∧ bsTRAINING ≤ s.bootState
      ∧ (bootD 7 id).bootState = bsLOCKED ∧ (greq [] 1).nonce.toNat ≠ s.reg Reg.GRD_NONCE ∧ ok s lim = true
      ∧ gNum (greq lim 0) 0 2 = 1000 ∧ gNum (greq lim 0) 2 2 = 1000 ∧ gNum (greq lim 0) 4 2 = 10 ∧ gNum (greq lim 0) 6 1 = 90
      ∧ ok s [3] = true ∧ s.lifeState = lcPRODUCTION ∧ s.jobState = jIDLE
      ∧ ok ((s.setFld Reg.GRD_LIFECYCLE 8 6 1).setFld Reg.GRD_LIFECYCLE 16 6 2) [2] = true
      ∧ ((s.setFld Reg.GRD_LIFECYCLE 8 6 1).setFld Reg.GRD_LIFECYCLE 16 6 2).fuseSvn = 1
      ∧ ((s.setFld Reg.GRD_LIFECYCLE 8 6 1).setFld Reg.GRD_LIFECYCLE 16 6 2).fld Reg.GRD_LIFECYCLE 16 6 = 2
      ∧ ok s [0, 16, 0, 0] = true ∧ bodyLenOk (gNum (greq [0, 16, 0, 0] 0) 0 4) = true ∧ ok s [5] = true
      ∧ ok s [7, 0, 0, 0, 0, 0, 0, 0] = true ∧ ok s [] = true ∧ op.grd.opened = some ((greq [] 0).ctl, 0, 24576)
      ∧ ok op (List.replicate 4096 7) = true ∧ s.grd.opened = none := by decide +kernel
/-- Attestation: a device in ROM and one in READY, with a transcript signed. -/
theorem wit_attestation :
    (bootD 0 id).grd.stage = .run ∧ (bootD 0 id).grd.straps.testen = false ∧ (bootD 0 id).bootState ∈ [bsROM, bsLOADING, bsVERIFYING, bsRECOVERY, bsLOCKED]
      ∧ (bootD 5 id).bootState = bsREADY ∧ (bootD 5 fun g => { g with spdmLast := some [1] }).grd.spdmLast = some [1] := by decide +kernel

/-- The port with all rights, and a request. -/
def hdev (s : Dev) : Dev := (s.setReg Reg.DBG_UNLOCK 7).setDbg fun h => { h with sel := true }
def hreq (t idx : Nat) (space : Bool) (a : Word64) : HReq := ⟨1, t, idx, space, 0, a, 9⟩
/-- HarnessRequests: a port closed, without rights and with them; a core running and halted; a sequencer idle, busy, halted, gone. -/
theorem wit_harness :
    let s := (hdev (tpD (tpr .entry 0 0 none) 0 [])).setReg (Reg.CCH_CSTAT 0) csRUN
    let core := s.setFlag Reg.DBG_CORES 1 true
    let idle := hdev ((up.setReg Reg.SIZ_COACHMAP 3).setReg Reg.SIZ_COACH (2 + 8 * 2 ^ 16))
    let busy := (hdev (tpD (tpr .entry 0 7 none) 0 [])).setReg (Reg.CCH_CSTAT 0) csRUN
    let halt := s.setDbg fun h => { h with halts := [(0, some 3)] }
    let gone := s.setDbg fun h => { h with halts := [(0, some 2)] }
    let still := idle.setDbg fun h => { h with halts := [(1, none)] }
    s.hOpen = true ∧ Dev.reset.hOpen = false ∧ (s.setDbg fun h => { h with busy := some 1 }).dbg.busy = some 1
      ∧ s.flag Reg.DBG_UNLOCK 0 = true ∧ up.flag Reg.DBG_UNLOCK 0 = false ∧ up.hOpen = true ∧ up.dbg.lockRec = false
      ∧ (up.setDbg fun h => { h with lockRec := true }).dbg.lockRec = true
      ∧ ({ hreq 1 0 false 0 with rsv := 1 } : HReq).rsv % 2 ^ 7 ≠ 0 ∧ (hreq 0xFF 0 false 0).rsv % 2 ^ 7 = 0
      ∧ s.alive ∧ s.pwr.gated.contains (.core 1) = false ∧ s.coreHalted 1 = false ∧ core.coreHalted 1 = true ∧ core.alive
      ∧ s.coachOn 0 = true ∧ s.fld (Reg.CCH_CSTAT 0) 0 3 ≠ csPGATED ∧ s.seqHalted 0 = false ∧ s.seqBusy 0 = false
      ∧ busy.seqBusy 0 = true ∧ busy.seqHalted 0 = false ∧ halt.seqHalted 0 = true ∧ (halt.instOn 0).isSome ∧ gone.seqGone 0 = true
      ∧ s.seqGone 0 = false ∧ still.seqHalted 1 = true ∧ (still.seqPos 1).isNone := by decide +kernel
/-- HarnessMemoryAndHalts: an address in the Coach House and one unmapped; a halt and a step that complete; breakpoints. -/
theorem wit_harness_memory :
    let s := (hdev (tpD (tpr .entry 0 0 none) 0 [])).setReg (Reg.CCH_CSTAT 0) csRUN
    let m : Dev := { hdev up with grd := { up.grd with sram := true, hbm := true } }
    let hl := s.setDbg fun h => { h with halting := [0], busy := some 0x40 }
    let st := s.setDbg fun h => { h with steps := [(0, true)], busy := some 0x40 }
    let bp := s.setDbg fun h => { h with bps := [(0x40, 0, chBase), (1, 0, 16)] }
    m.hOpen = true ∧ m.memOpen = true ∧ (hdev up).memOpen = false ∧ (hdev up).hOpen = true ∧ (hdev up).flag Reg.DBG_UNLOCK 1 = true
      ∧ ({ s with grd := { s.grd with sram := true, hbm := true } } : Dev).memOpen = true ∧ m.calm = true ∧ m.dbg.sel = true ∧ s.calm = true ∧ s.dbg.sel = true ∧ (hdev up).calm = true ∧ m.flag Reg.DBG_UNLOCK 1 = true ∧ m.flag Reg.DBG_UNLOCK 2 = true
      ∧ (BitVec.ofNat 64 chBase).toNat % 8 = 0 ∧ m.xlate (BitVec.ofNat 64 chBase).toNat false = .key (chKey 0)
      ∧ m.xlate (BitVec.ofNat 64 chBase).toNat true = .key (chKey 0) ∧ m.lineOf (chKey 0) = .good
      ∧ (∀ i < 8, m.heldRegion (jobKey (BitVec.ofNat 64 chBase).toNat + i) = false) ∧ m.xlate 8 false = .bad 1 ∧ m.xlate 8 true = .bad 1
      ∧ (4 : Word64).toNat % 8 ≠ 0 ∧ (8 : Word64).toNat + 8 ≤ csSize ∧ csSize < (BitVec.ofNat 64 csSize).toNat + 8
      ∧ (BitVec.ofNat 64 csSize).toNat % 8 = 0 ∧ s.coachOn 0 = true ∧ s.fld (Reg.CCH_CSTAT 0) 0 3 ≠ csPGATED ∧ s.hOpen = true
      ∧ ({ s with bad := [(2 ^ 57 + 1, .ue)] } : Dev).csBad 0 [(8, 8)] .ue ≠ []
      ∧ hl.alive ∧ hl.seqBusy 0 = false ∧ hl.dbg.steps.contains (0, true) = false ∧ hl.dbg.halting.contains 0 = true
      ∧ hl.dbg.busy = some (0x40 + 0) ∧ st.dbg.steps.contains (0, true) = true ∧ st.seqBusy 0 = false
      ∧ ((bp.seqPos 0).map (·.addr)) = some chBase ∧ bp.seqBp 0 chBase = true ∧ bp.dbg.passes = [] ∧ bp.dbg.steps = []
      ∧ bp.seqHalted 0 = false ∧ bp.dbg.bps.any (fun b => b.1 == 1) = true ∧ bp.coreHalted 1 = false
      ∧ bp.pwr.gated.contains (.core 1) = false := by decide +kernel

/-- RegisterAccesses: a device that is READY and one in RECOVERY; values on both sides; spans of ERR_HEAD. -/
theorem wit_register_accesses :
    let s := up
    let rec_ := up.setFld Reg.GRD_BOOTSTAT 0 4 6
    let er := s.setReg Reg.ERR_TAIL 2
    s.reaches .host Reg.PWC_THR = true ∧ ((findRow Reg.PWC_THR).map (·.width)) = some 32 ∧ ((findRow Reg.PWC_CLK).map (·.width)) = some 64
      ∧ Reg.PWC_THR % 4 = 0 ∧ Reg.PWC_CLK % 8 = 0 ∧ s.barOpen Reg.PWC_THR = true ∧ s.grd.stage = .run
      ∧ bits (0x6432 : Word64).toNat 8 7 = s.fld Reg.PWC_THR 8 7 ∧ bits (0x5032 : Word64).toNat 8 7 ≠ s.fld Reg.PWC_THR 8 7
      ∧ s.barOpen Reg.PWC_VID = true ∧ (0x10 : Word64).toNat % 16 = 0 ∧ rec_.barOpen Reg.PWC_VID = false
      ∧ alignedAccess 6 (8 * 4) = false ∧ alignedAccess 4 (8 * 8) = false ∧ alignedAccess 6 (8 * 2) = false ∧ s.barOpen 6 = true
      ∧ 4 < 7 % 4 + 2 ∧ 6 % 4 + 2 ≤ 4 ∧ s.alive ∧ (s.setFlag Reg.HST_STAT 0 true).flag Reg.HST_STAT 0 = true
      ∧ (s.setFlag Reg.HST_STAT 0 true).alive ∧ s.barOpen Reg.STG_CNT_CRC = true ∧ s.barOpen Reg.ERR_HEAD = true
      ∧ (1 + 4096 - er.fld Reg.ERR_HEAD 0 12) % 4096 ≤ (er.fld Reg.ERR_TAIL 0 12 + 4096 - er.fld Reg.ERR_HEAD 0 12) % 4096
      ∧ (er.fld Reg.ERR_TAIL 0 12 + 4096 - er.fld Reg.ERR_HEAD 0 12) % 4096 < (3 + 4096 - er.fld Reg.ERR_HEAD 0 12) % 4096 := by
  decide +kernel
/-- HalvesOf64BitRegisters: CCH_STEP, reached by the host, with no register at its high word. -/
theorem wit_halves :
    ((findRow Reg.CCH_STEP).map (·.width)) = some 64 ∧ (findRow (Reg.CCH_STEP + 4)).isNone ∧ Reg.CCH_STEP % 8 = 0
      ∧ up.reaches .host Reg.CCH_STEP = true ∧ up.reaches .host (Reg.CCH_STEP + 4) = true := by decide +kernel
/-- UnassignedOffsets: a hole of the map. -/
theorem wit_unassigned : coverReg 0x300300 = none ∧ coverReg 0x300304 = none ∧ 0x300300 % 8 = 0 := by decide +kernel

/-- HeaderChecksAtArm: each check of the header, the state and the class fails for one descriptor. -/
theorem wit_header_checks :
    let r := up.setReg Reg.GRD_JOBSTAT 3
    let h (op cls : Nat) (fs : List (Nat × Nat × Nat × Nat)) : Line := mkHdr ([(0, 0, 16, op), (3, 0, 4, cls)] ++ fs)
    up.alive ∧ r.alive ∧ up.calm = true ∧ r.calm = true ∧ r.jobState = jRUNNING ∧ up.jobState = jIDLE ∧ (up.setReg Reg.GRD_JOBSTAT 5).jobState = jSCRUBBING
      ∧ dOp (h 0x400 1 []) = 0x400 ∧ dClass (h 0x400 1 []) ≠ classOf 0x400 ∧ dClass (h 0x400 2 []) = classOf 0x400
      ∧ lfield (h 0x400 2 [(2, 2, 1, 1)]) 2 2 6 ≠ 0 ∧ lfield (h 0x400 2 [(3, 4, 1, 1)]) 2 2 6 = 0
      ∧ lfield (h 0x400 2 [(3, 4, 1, 1)]) 3 4 4 ≠ 0 ∧ ctrOk (dHand (h 0x400 2 [(8, 0, 64, 4)])) = false
      ∧ r.teams < 16 ∧ r.job.launch.isNone ∧ r.job.ownReq.isNone ∧ lnum (h 0x702 3 [(16, 0, 8, 3)]) 16 1 = 3
      ∧ juAction (h 0x703 3 [(16, 0, 8, 2)]) = 2 := by decide +kernel
/-- StepsThatWait: a line of a page homed in lent HBM is asked of the lender before the host has it. -/
theorem wit_steps_wait :
    let d := hdmD.setPte 0 (setBits (hdmD.pte 0) 0 3 4)
    (match exec (.hostHdmRead 70 false) ⟨[], d⟩ with
      | .next t => decide (t.dev.tiers.stalls ≠ d.tiers.stalls)
      | _ => false) = true := by decide +kernel
/-- DarkDeviceStaysDark: reset is dark, with a command waiting that only a working device takes. -/
theorem wit_dark : State.reset.dev.alive = false ∧ (∀ c ∈ [Instr.agerSweep, .jadmit .coachman 0], early c = false) := by
  decide +kernel

end Sys2Proof.Tests
end

section
/-! The statements about register accesses (00_scope.md). Each speaks of every agent, or of every state, and fails at the border:
the Guard's I3C port only reads, so that it does not acknowledge a write by the board management controller (R540), and a device
held in reset returns no data to the host. -/
namespace Sys2Proof.Machine

/-- A step that answers one device answers no other. -/
theorem dev_eq_of_next {q q' : List Instr} {s t : Dev}
    (h : (.next ⟨q, s⟩ : Host.Outcome State Fault Refusal) = .next ⟨q', t⟩) : s = t := by
  injection h with e; injection e

/-- A device that sends one thing more has other outputs. -/
theorem Dev.emit_outs_ne (s : Dev) (o : Out) : (s.emit o).outs ≠ s.outs := by simp [Dev.emit]

/-- The I3C port carries no register write: one at its address is not acknowledged, at whatever offset (R540). -/
theorem exec_registerWrite_bmc (q : List Instr) {d : Dev} (off width : Nat) (v : Word64) (h : d.grd.stage ≠ .off) :
    exec (.registerWrite (.bmc d.i3cAddr) 0 off width v) ⟨q, d⟩ = .next ⟨q, d.emit .i3cNack⟩ := by
  have hun : d.unserved (.bmc d.i3cAddr) off true = d.emit .i3cNack := by simp [Dev.unserved, h]
  rw [← hun]; rfl

/-- Such a write is seen outside, whatever it was to do. -/
theorem outs_ne_of_registerWrite_bmc {q q' : List Instr} {d t : Dev} {off width : Nat} {v : Word64} (h : d.grd.stage ≠ .off)
    (hexec : exec (.registerWrite (.bmc d.i3cAddr) 0 off width v) ⟨q, d⟩ = .next ⟨q', t⟩) : t.outs ≠ d.outs := by
  rw [exec_registerWrite_bmc q off width v h] at hexec
  obtain rfl : d.emit .i3cNack = t := dev_eq_of_next hexec
  exact Dev.emit_outs_ne d .i3cNack

/-- BAR0 is closed until the reset is released (R532). -/
theorem Dev.barOpen_of_not_run {d : Dev} (off : Nat) (h : d.grd.stage ≠ .run) : d.barOpen off = false := by
  simp [Dev.barOpen, h]

/-- A device whose reset is not released returns nothing to a read by the host, at whatever offset. -/
theorem exec_lowWordReadLatch_host_of_not_run (q : List Instr) {d : Dev} (off width : Nat) (h : d.grd.stage ≠ .run) :
    exec (.lowWordReadLatch .host off width) ⟨q, d⟩ = .next ⟨q, d⟩ := by
  have hread : d.readAt .host off width = d := by
    simp [Dev.readAt, Dev.reaches, Dev.barOpen_of_not_run off h, Dev.unserved, h]
  exact congrArg (fun t : Dev => Host.Outcome.next (State.mk q t)) hread

@[simp] theorem Dev.putReg_outs (s : Dev) (off v : Nat) : (s.putReg off v).outs = s.outs := by
  unfold Dev.putReg
  split
  · rfl
  · split <;> rfl

/-- The write of a register, field by field, sends nothing out (R15 to R19). -/
@[simp] theorem Dev.regWrite_outs (s : Dev) (ag : Agent) (off v : Nat) : (s.regWrite ag off v).outs = s.outs := by
  unfold Dev.regWrite
  split
  · rfl
  · dsimp only
    split
    · exact Dev.record_outs ..
    · split <;> split <;> simp

/-- No register of block GRD has a write with a row of its own. -/
theorem Dev.writeReg_of_grd (s : Dev) (ag : Agent) {off : Nat} (v : Nat) (h : off < 0x100000) :
    s.writeReg ag off v = s.regWrite ag off v := by
  unfold Dev.writeReg
  rw [Nat.div_eq_of_lt h]
  rfl

/-- A device that is READY with its memory zeroed: its I3C port is in full service (R540). -/
def i3cServing : Dev :=
  (Dev.reset.setReg Reg.GRD_BOOTSTAT 0x105).setGrd fun g => { g with stage := .run, sram := true, hbm := true }

/-- In full service every GRD register is read over I3C (R540): here GRD_BOOTSTAT, and GRD_NONCE by both its words. -/
theorem i3cServing_reaches : ∀ off ∈ [Reg.GRD_BOOTSTAT, Reg.GRD_NONCE, Reg.GRD_NONCE + 4],
    i3cServing.reaches (.bmc i3cServing.i3cAddr) off = true := by decide +kernel

/-- Refutes O54: the board management controller reaches GRD_NONCE, a 64-bit register, and its write of the low word is not
acknowledged, where the statement lets nothing change but the latch. -/
theorem not_halvesOf64BitRegisters : ¬ Obligations.HalvesOf64BitRegisters := by
  unfold Obligations.HalvesOf64BitRegisters
  intro h
  have hlow : i3cServing.reaches (.bmc i3cServing.i3cAddr) Reg.GRD_NONCE = true := i3cServing_reaches _ (by simp)
  have hhigh : i3cServing.reaches (.bmc i3cServing.i3cAddr) (Reg.GRD_NONCE + 4) = true := i3cServing_reaches _ (by simp)
  obtain ⟨⟨t, hexec, hframe, -⟩, -⟩ := h [] i3cServing i3cServing (.bmc i3cServing.i3cAddr) Reg.GRD_NONCE
    ⟨0x20, [], 64, 0x0, 0xffffffffffffffff, 0x0, 0x0, 0x0⟩ 0 0 (by decide) rfl (by decide) (by decide) hlow hhigh
  have houts : t.outs = i3cServing.outs := by rw [hframe]
  exact outs_ne_of_registerWrite_bmc (by decide) hexec houts

/-- Refutes O55: a device held in reset returns no data to the host's read of a hole of the map (0x300300, in block PWC), where the
statement has it return zero. The clause of the writes fails as well, for the board management controller:
`exec_registerWrite_bmc`. -/
theorem not_unassignedOffsets : ¬ Obligations.UnassignedOffsets := by
  unfold Obligations.UnassignedOffsets
  intro h
  obtain ⟨hword, -⟩ := h [] Dev.reset .host 0x300300 0 (by decide +kernel)
  obtain ⟨-, hread, -⟩ := hword (by decide)
  rw [exec_lowWordReadLatch_host_of_not_run [] 0x300300 32 (by decide)] at hread
  have hsame : Dev.reset = Dev.reset.emit (.readData 0x300300 0) := dev_eq_of_next hread
  exact Dev.emit_outs_ne _ _ (congrArg Dev.outs hsame).symm

/-- Refutes O53: the board management controller reaches GRD_BOOTSTAT, a 32-bit register, and its write is not acknowledged, where
the statement has it reach the register, which sends nothing out. The clause of the offsets that BAR0 does not serve fails as
well, for a device held in reset: `exec_lowWordReadLatch_host_of_not_run`. -/
theorem not_registerAccesses : ¬ Obligations.RegisterAccesses := by
  unfold Obligations.RegisterAccesses
  intro h
  obtain ⟨hwhole, -⟩ := h [] i3cServing 0
  have hreach : i3cServing.reaches (.bmc i3cServing.i3cAddr) Reg.GRD_BOOTSTAT = true := i3cServing_reaches _ (by simp)
  obtain ⟨hword, -⟩ := hwhole (.bmc i3cServing.i3cAddr) Reg.GRD_BOOTSTAT ⟨0x0, [], 32, 0x0, 0xfff070f, 0x0, 0x0, 0x0⟩ hreach
    (by decide)
  refine outs_ne_of_registerWrite_bmc (by decide) (hword rfl (by decide)) ?_
  rw [Dev.writeReg_of_grd _ _ _ (by decide), Dev.regWrite_outs]

end Sys2Proof.Machine
end

section
/-! An event of a unit is taken where no access in it has to wait (Dev.attempt), so that a statement about it on a calm device has to
show that nothing in it waits. Here that is a relation between two devices, `StaysCalm`, with one rule per operation of the model: the
proof that a step keeps calm has the shape of the step. Reads may correct or retire memory and so start moves (R298, R300); none of
that makes a page at home in lent HBM or gives the host a line. -/
namespace Sys2Proof.Machine

-- The short theorems below are elaborated one after another: side by side, their threads' stacks exceed the memory of the check.
set_option Elab.async false

/-- The experts of a routing pass at which picks are tied. -/
def CmdBody.ties : CmdBody → Option (List Nat)
  | .route r => some r.tiedEs
  | _ => none

/-- What a command keeps while its reductions run: its generation, its descriptor and the ties of its pass. -/
def Cmd.head (c : Cmd) : Nat × Line × Option (List Nat) := (c.gen, c.desc, c.body.ties)
def Dev.heads (s : Dev) : List (Nat × Line × Option (List Nat)) := s.cmds.map Cmd.head

/-- Where no access of `s` has to wait, none of `t` has to, and nothing waited on the way from `s` to `t`; where `same` holds, the
commands in hand are besides the same ones, with their heads as they were. -/
structure Dev.StaysCalm (same : Prop) (s t : Dev) : Prop where
  step : s.calm = true → t.calm = true ∧ t.tiers.stalls = s.tiers.stalls ∧ (same → t.heads = s.heads)

theorem Dev.calm_iff (s : Dev) :
    s.calm = true ↔ s.tiers.filter = [] ∧ s.mmf.lines = [] ∧ ∀ e ∈ s.pt, pteHome e.2.toNat ≠ 4 := by
  simp [Dev.calm, Dev.noLent]

/-- Of a device that has not to wait, no page is homed in lent HBM. -/
theorem Dev.pteHome_of_calm {s : Dev} (h : s.calm = true) (p : Nat) : pteHome (s.pte p) ≠ 4 := by
  obtain ⟨-, -, hpt⟩ := s.calm_iff.1 h
  unfold Dev.pte
  generalize s.pt = m at hpt
  induction m with
  | nil => exact (by decide : pteHome (ptDefault 0).toNat ≠ 4)
  | cons e m ih =>
    obtain ⟨j, v⟩ := e
    by_cases hp : p = j
    · simpa [Sparse.get, hp] using hpt (j, v) (by simp)
    · simpa [Sparse.get, hp] using ih fun e he => hpt e (by simp [he])

/-- Then no span of job addresses touches a line of lent HBM. -/
theorem Dev.lentLines_of_calm {s : Dev} (h : s.calm = true) (a n : Nat) : s.lentLines a n = [] := by
  obtain ⟨-, -, hpt⟩ := s.calm_iff.1 h
  have : s.pt.any (fun e => pteHome e.2.toNat == 4) = false := by simpa using hpt
  simp [Dev.lentLines, this]

section
variable {α : Type} {m : List (Nat × α)} {k : Nat} {v : α} {e : Nat × α}

theorem Sparse.mem_of_mem_erase (h : e ∈ Sparse.erase m k) : e ∈ m := by
  induction m with
  | nil => exact h
  | cons x m ih =>
    obtain ⟨j, w⟩ := x
    by_cases hj : k = j
    · simp only [Sparse.erase, hj, ↓reduceIte] at h
      exact .tail _ (ih (hj ▸ h))
    · simp only [Sparse.erase, hj, ↓reduceIte, List.mem_cons] at h ⊢
      exact h.imp_right ih

theorem Sparse.mem_insert (h : e ∈ Sparse.insert m k v) : e = (k, v) ∨ e ∈ m := by
  induction m with
  | nil => simpa [Sparse.insert] using h
  | cons x m ih =>
    obtain ⟨j, w⟩ := x
    by_cases hj : k < j
    · simpa [Sparse.insert, hj] using h
    · simp only [Sparse.insert, hj, ↓reduceIte, List.mem_cons] at h
      obtain h | h := h
      · exact .inr (h ▸ .head _)
      · exact (ih h).imp_right (.tail _)

/-- An entry of a table that was written is the one written, or an old one. -/
theorem Sparse.mem_put [DecidableEq α] {d : Nat → α} (h : e ∈ Sparse.put d m k v) : e = (k, v) ∨ e ∈ m := by
  unfold Sparse.put at h
  split at h
  · exact .inr (Sparse.mem_of_mem_erase h)
  · exact (Sparse.mem_insert h).imp_right Sparse.mem_of_mem_erase

end

theorem map_updFirst {α β : Type} {f : α → β} {p : α → Bool} {k : α → α} (h : ∀ x, f (k x) = f x) (l : List α) :
    (updFirst p k l).map f = l.map f := by
  induction l with
  | nil => rfl
  | cons x l ih => unfold updFirst; split <;> simp [h, ih]

namespace Dev.StaysCalm
variable {same : Prop} {s t u : Dev}

theorem refl (s : Dev) : s.StaysCalm same s := ⟨fun h => ⟨h, rfl, fun _ => rfl⟩⟩

/-- A step may use that the state it starts from has not to wait. -/
theorem andThen (h : s.StaysCalm same t) (k : t.calm = true → t.StaysCalm same u) : s.StaysCalm same u := by
  refine ⟨fun hs => ?_⟩
  obtain ⟨ht, hst, hh⟩ := h.step hs
  obtain ⟨hu, hsu, hk⟩ := (k ht).step ht
  exact ⟨hu, hsu.trans hst, fun e => (hk e).trans (hh e)⟩

theorem weaken (h : s.StaysCalm same t) : s.StaysCalm False t :=
  ⟨fun hs => ⟨(h.step hs).1, (h.step hs).2.1, False.elim⟩⟩

/-- What touches no table that decides whether an access waits. -/
theorem frameCmds (h : s.StaysCalm same t)
    (e : u.pt = t.pt ∧ u.tiers.filter = t.tiers.filter ∧ u.tiers.stalls = t.tiers.stalls ∧ u.mmf.lines = t.mmf.lines)
    (hh : same → u.heads = t.heads) : s.StaysCalm same u := by
  obtain ⟨hp, hf, hs, hl⟩ := e
  refine h.andThen fun hc => ⟨fun _ => ⟨?_, hs, hh⟩⟩
  rw [Dev.calm_iff] at hc ⊢
  rwa [hf, hl, hp]

/-- An operation whose definition shows that, and which leaves the commands in hand. -/
theorem frame (h : s.StaysCalm same t)
    (e : u.pt = t.pt ∧ u.tiers.filter = t.tiers.filter ∧ u.tiers.stalls = t.tiers.stalls ∧ u.mmf.lines = t.mmf.lines
      ∧ u.cmds = t.cmds := by exact ⟨rfl, rfl, rfl, rfl, rfl⟩) : s.StaysCalm same u := by
  obtain ⟨hp, hf, hs, hl, hc⟩ := e
  exact h.frameCmds ⟨hp, hf, hs, hl⟩ fun _ => by unfold Dev.heads; rw [hc]

theorem foldl {α : Type} {f : Dev → α → Dev} {l : List α} (h : s.StaysCalm same t)
    (hf : ∀ {u a}, s.StaysCalm same u → s.StaysCalm same (f u a)) : s.StaysCalm same (l.foldl f t) := by
  induction l generalizing t with
  | nil => exact h
  | cons a l ih => exact ih (hf h)

theorem each {α : Type} {f : Dev → α → Dev} {l : List α} (h : s.StaysCalm same t)
    (hf : ∀ {u a}, s.StaysCalm same u → s.StaysCalm same (f u a)) : s.StaysCalm same (t.each l f) := h.foldl hf

theorem ite {c : Prop} [Decidable c] (ht : s.StaysCalm same t) (hu : s.StaysCalm same u) :
    s.StaysCalm same (if c then t else u) := by
  split
  · exact ht
  · exact hu

theorem iteFst {α : Type} {c : Prop} [Decidable c] {p q : Dev × α} (hp : s.StaysCalm same p.1) (hq : s.StaysCalm same q.1) :
    s.StaysCalm same (if c then p else q).1 := by
  split
  · exact hp
  · exact hq

/-- The state in which an operation with an answer ends. -/
theorem of_fst {α : Type} {p : Dev × α} {a : α} (h : s.StaysCalm same p.1) (e : p = (u, a)) : s.StaysCalm same u := by
  rw [e] at h; exact h

/-- A command in hand that keeps its head. -/
theorem updCmd {g : Nat} {f : Cmd → Cmd} (h : s.StaysCalm same t)
    (hf : ∀ c, (f c).head = c.head := by exact fun _ => rfl) :
    s.StaysCalm same (t.updCmd g f) :=
  h.frameCmds ⟨rfl, rfl, rfl, rfl⟩ fun _ => map_updFirst hf _

/-! ### Registers, memory, errors -/

theorem setReg {off v : Nat} (h : s.StaysCalm same t) : s.StaysCalm same (t.setReg off v) := h.frame
theorem setFld {off lo w v : Nat} (h : s.StaysCalm same t) : s.StaysCalm same (t.setFld off lo w v) := h.frame
theorem bump {off n : Nat} (h : s.StaysCalm same t) : s.StaysCalm same (t.bump off n) := h.frame
theorem setLine {k : Nat} {l : LineState} (h : s.StaysCalm same t) : s.StaysCalm same (t.setLine k l) := h.frame
theorem setRing {r : Nat} {x : Ring} (h : s.StaysCalm same t) : s.StaysCalm same (t.setRing r x) := h.frame
theorem poisonAt {tier a : Nat} (h : s.StaysCalm same t) : s.StaysCalm same (t.poisonAt tier a) := h.frame
theorem wr {k : Nat} {v : Byte} (h : s.StaysCalm same t) : s.StaysCalm same (t.wr k v) := h.frame

theorem wrBytes {k : Nat} {bs : List Byte} (h : s.StaysCalm same t) : s.StaysCalm same (t.wrBytes k bs) :=
  (h.foldl (f := fun s p => s.wr (k + p.1) p.2) (l := (List.range bs.length).zip bs) fun h => h.wr).frame

theorem wrNum {k n v : Nat} (h : s.StaysCalm same t) : s.StaysCalm same (t.wrNum k n v) := h.wrBytes

theorem setPte {p e : Nat} (h : s.StaysCalm same t) (he : t.calm = true → pteHome (e % 2 ^ 128) ≠ 4) :
    s.StaysCalm same (t.setPte p e) := by
  refine h.andThen fun hc => ⟨fun _ => ⟨?_, rfl, fun _ => rfl⟩⟩
  obtain ⟨hf, hl, hp⟩ := t.calm_iff.1 hc
  refine (Dev.calm_iff _).2 ⟨hf, hl, fun x hx => ?_⟩
  obtain rfl | hx := Sparse.mem_put hx
  · simpa [BitVec.toNat_ofNat] using he hc
  · exact hp x hx

theorem record {cls code detail gen block inst : Nat} (h : s.StaysCalm same t) :
    s.StaysCalm same (t.record cls code detail gen block inst) := by
  have hh : ∀ (p : Cmd → Bool) (e : Option (Nat × Nat)), (updFirst p (fun c => { c with err := c.err <|> e }) t.cmds).map
      Cmd.head = t.heads := fun p e => map_updFirst (by exact fun _ => rfl) _
  unfold Dev.record
  dsimp only
  split <;> exact h.frameCmds ⟨rfl, rfl, rfl, rfl⟩ fun _ => hh _ _

theorem fenceEnter {kind index : Nat} (h : s.StaysCalm same t) : s.StaysCalm same (t.fenceEnter kind index) := by
  unfold Dev.fenceEnter
  split
  · exact h.record
  · exact h.frame

theorem ctrFault {a g : Nat} (h : s.StaysCalm same t) : s.StaysCalm same (t.ctrFault a g) := by
  unfold Dev.ctrFault
  split
  · exact h.bump.poisonAt.record
  · exact h.bump.setLine.poisonAt.record
  · exact h

theorem ctrAdd {a n : Nat} (h : s.StaysCalm same t) : s.StaysCalm same (t.ctrAdd a n) := by
  unfold Dev.ctrAdd
  split
  · exact h
  · dsimp only
    split
    · exact h.setLine.bump.wrNum
    · exact h.wrNum

theorem unitAdd {a n : Nat} (h : s.StaysCalm same t) : s.StaysCalm same (t.unitAdd a n) := by
  unfold Dev.unitAdd
  split
  · exact h.bump.poisonAt
  · exact h.ctrFault
  · exact h.ctrAdd

/-! ### Memory tiers -/

theorem noteLost {p : Nat} (h : s.StaysCalm same t) : s.StaysCalm same (t.noteLost p) := by
  unfold Dev.noteLost
  split
  · exact h.frame
  · exact h.frame
  · exact h

/-- A page keeps its home when its MSTATE changes. -/
theorem setMstate {p m : Nat} (h : s.StaysCalm same t) : s.StaysCalm same (t.setMstate p m) := by
  have hset : ∀ {t : Dev}, s.StaysCalm same t → s.StaysCalm same (t.setPte p (pteWith (t.pte p) 5 3 m)) := fun {t} h =>
    h.setPte fun hc => by
      have : pteHome (pteWith (t.pte p) 5 3 m % 2 ^ 128) = pteHome (t.pte p) := by
        unfold pteHome pteWith
        rw [bits_mod _ (by omega), bits_setBits_below _ _ _ _ (by omega)]
      rw [this]
      exact Dev.pteHome_of_calm hc p
  unfold Dev.setMstate
  dsimp only
  split
  · exact hset h.noteLost
  · exact hset h

theorem moveStart {m : PageMove} (h : s.StaysCalm same t) : s.StaysCalm same (t.moveStart m) := by
  unfold Dev.moveStart
  dsimp only
  split
  · exact h.bump.setMstate.frame
  · exact h.setMstate.frame

theorem updMove {g : Nat} {f : MoveRun → MoveRun} (h : s.StaysCalm same t) : s.StaysCalm same (t.updMove g f) :=
  h.updCmd fun c => by unfold Cmd.head; split <;> simp [*, CmdBody.ties]

theorem ttSettle (n : Nat) (h : s.StaysCalm same t) : s.StaysCalm same (t.ttSettle n) := by
  induction n generalizing t with
  | zero => exact h
  | succ n ih =>
    unfold Dev.ttSettle
    split
    · split
      · exact ih h.frame.unitAdd
      · exact h
    · exact h

theorem ttEndCheck (h : s.StaysCalm same t) : s.StaysCalm same t.ttEndCheck := by
  unfold Dev.ttEndCheck
  dsimp only
  split
  · exact h.frame
  · exact h

theorem settle {b : MoveBy} {what : Nat} (h : s.StaysCalm same t) : s.StaysCalm same (t.settle b what) := by
  unfold Dev.settle
  split
  · exact h.updMove
  · exact ttSettle _ h.frame
  · exact h

theorem notAdmitted {b : MoveBy} {p : Nat} (h : s.StaysCalm same t) : s.StaysCalm same (t.notAdmitted b p) := by
  unfold Dev.notAdmitted
  dsimp only
  split
  · exact h.bump.settle
  · exact h.bump.record.frame.settle

theorem tryPage {page target pool : Nat} {urgent : Bool} {b : MoveBy} (h : s.StaysCalm same t) :
    s.StaysCalm same (t.tryPage page target pool urgent b).1 := by
  unfold Dev.tryPage
  refine iteFst h (iteFst ?_ (iteFst h.bump.settle (iteFst h.bump.settle (iteFst h.notAdmitted (iteFst h (iteFst h
    (iteFst (iteFst ?_ (iteFst ?_ ?_)) ?_)))))))
  · split <;> dsimp only
    · exact h.settle
    · exact h.bump.settle
  · split
    · exact h.moveStart
    · exact h.notAdmitted
  · split
    · exact h.moveStart
    · exact h
  · split
    · exact h.notAdmitted
    · refine iteFst h ?_
      split
      · exact h.notAdmitted
      · refine frame (moveStart ?_)
        split
        · exact h.bump.updMove
        · exact h.bump
  · split
    · exact h.moveStart
    · exact h.notAdmitted

theorem pumpReq (n : Nat) {r : MoveReq} (h : s.StaysCalm same t) : s.StaysCalm same (t.pumpReq n r).1 := by
  induction n generalizing t r with
  | zero => exact h
  | succ n ih =>
    unfold Dev.pumpReq
    refine iteFst h ?_
    split
    next heq =>
      have h1 := h.tryPage.of_fst heq
      exact iteFst (ih h1) h

theorem pumpAll (rs : List MoveReq) {blocked : Bool} (h : s.StaysCalm same t) :
    s.StaysCalm same (Dev.pumpAll rs blocked t).1 := by
  induction rs generalizing t blocked with
  | nil => exact h
  | cons r rs ih =>
    unfold Dev.pumpAll
    refine iteFst (ih h) ?_
    have h1 := h.pumpReq (r.count + 1) (r := r)
    dsimp only
    split
    · exact ih h1
    · exact ih h1

theorem pump (h : s.StaysCalm same t) : s.StaysCalm same t.pump :=
  (frame (h.pumpAll t.tiers.reqs)).ttEndCheck

theorem afterVictim {v : Nat} (h : s.StaysCalm same t) : s.StaysCalm same (t.afterVictim v) := h.frame

theorem hostFault {a : Nat} (h : s.StaysCalm same t) : s.StaysCalm same (t.hostFault a) := by
  have h1 : s.StaysCalm same (((t.bump Reg.MEM_CNT_XLFAULT 1).bump Reg.HST_CNT_HDMFAULT 1).setTiers fun t =>
    { t with hdmRec := true }) := h.frame
  exact ite h1.record h1

theorem touchPage {p : Nat} (h : s.StaysCalm same t) : s.StaysCalm same (t.touchPage p) := by
  refine ite h (h.setPte fun hc => ?_)
  have : pteHome (setBit (t.pte p) 8 true % 2 ^ 128) = pteHome (t.pte p) := by
    unfold pteHome setBit
    rw [bits_mod _ (by omega), bits_setBits_below _ _ _ _ (by omega)]
  rw [this]
  exact Dev.pteHome_of_calm hc p

theorem touch {a n : Nat} (h : s.StaysCalm same t) : s.StaysCalm same (t.touch a n) := ite h (h.each touchPage)

theorem homeWrite {g e off : Nat} {bs : List Byte} (h : s.StaysCalm same t) (he : t.calm = true → pteHome e ≠ 4) :
    s.StaysCalm same (t.homeWrite g e off bs) :=
  h.andThen fun hc => by
    unfold Dev.homeWrite
    dsimp only
    rw [if_neg (he hc)]
    exact (refl t).wrBytes

theorem pageWrite {g p off : Nat} {bs : List Byte} (h : s.StaysCalm same t) : s.StaysCalm same (t.pageWrite g p off bs) :=
  ite h.frame (ite (h.frame.homeWrite fun hc => Dev.pteHome_of_calm hc p) (h.homeWrite fun hc => Dev.pteHome_of_calm hc p))

theorem snooped {wr : Bool} {a n : Nat} (h : s.StaysCalm same t) : s.StaysCalm same (t.snooped wr a n) :=
  h.andThen fun hc => by
    unfold Dev.snooped
    rw [if_pos (by simp [((Dev.calm_iff t).1 hc).1])]
    exact refl t

theorem lentParts {g a n : Nat} (h : s.StaysCalm same t) : s.StaysCalm same (t.lentParts g a n) :=
  h.andThen fun hc => by
    unfold Dev.lentParts
    rw [Dev.lentLines_of_calm hc]
    exact refl t

theorem jobWrite {g a : Nat} {bs : List Byte} (h : s.StaysCalm same t) : s.StaysCalm same (t.jobWrite g a bs) := by
  have h1 := (ite (c := g = hostWr) h (h.snooped (wr := true) (a := a) (n := bs.length))).lentParts
    (g := if g = hostWr then 0 else g) (a := a) (n := bs.length)
  exact ite h1 (ite h1.wrBytes (h1.touch.each fun h => ite h.wrBytes h.pageWrite))

theorem retireAsk {p : Nat} (h : s.StaysCalm same t) : s.StaysCalm same (t.retireAsk p) := ite h.frame h

theorem dropMove {p : Nat} (h : s.StaysCalm same t) : s.StaysCalm same (t.dropMove p) := h.frame

theorem heldLost {m : PageMove} (h : s.StaysCalm same t) : s.StaysCalm same (t.heldLost m) :=
  h.each fun h => ite h.hostFault (ite h.bump h.bump.record.frame)

theorem moveCancel {m : PageMove} {mst : Nat} (h : s.StaysCalm same t) : s.StaysCalm same (t.moveCancel m mst) := by
  have h1 : s.StaysCalm same (((t.dropMove m.page).setMstate m.page mst).bump Reg.DRY_CNT_CANCEL 1) := h.dropMove.setMstate.bump
  exact (ite (h1.each pageWrite) h1.heldLost).settle.afterVictim.retireAsk

theorem destFail {m : PageMove} (h : s.StaysCalm same t) : s.StaysCalm same (t.destFail m) := h.record.moveCancel.pump

theorem retireFrame {g f : Nat} (h : s.StaysCalm same t) : s.StaysCalm same (t.retireFrame g f) := by
  refine ite h ?_
  dsimp only
  have h1 : ∀ {t : Dev}, s.StaysCalm same t → s.StaysCalm same ((t.setTiers fun t => { t with
      retired := t.retired ++ [f] }).each (t.tiers.moves.filter fun m => m.home == 1 && m.frame == f) Dev.destFail) :=
    fun h => h.frame.each destFail
  split
  · exact (h1 (ite h.record h.record.fenceEnter)).retireAsk.pump
  · exact h1 (ite h.record h.record.fenceEnter)

theorem frameCe {g f : Nat} (h : s.StaysCalm same t) : s.StaysCalm same (t.frameCe g f) := ite h.frame.retireFrame h.frame

theorem lineRead {cmd : Bool} {g a k : Nat} (h : s.StaysCalm same t) : s.StaysCalm same (t.lineRead cmd g a k).1 := by
  unfold Dev.lineRead
  dsimp only
  split
  · exact h
  · exact ite h.setLine.bump.frameCe h.setLine.bump
  · exact iteFst h.setLine.poisonAt.bump.record.retireFrame h.setLine.poisonAt.bump.record
  · exact ite h.bump.poisonAt.record h.bump.poisonAt

theorem readLines (cmd : Bool) (g : Nat) (as : List Nat) (h : s.StaysCalm same t) :
    s.StaysCalm same (Dev.readLines cmd g as t).1 := by
  induction as generalizing t with
  | nil => exact h
  | cons a as ih =>
    unfold Dev.readLines
    split
    · exact ite h.bump.record h
    · exact iteFst (ih h.lineRead) h.lineRead

theorem spanRead {g a n : Nat} (h : s.StaysCalm same t) : s.StaysCalm same (t.spanRead g a n).1 :=
  h.andThen fun hc => by
    unfold Dev.spanRead
    rw [Dev.lentLines_of_calm hc]
    exact (refl t).touch.snooped

theorem cmdRead {g a n : Nat} (h : s.StaysCalm same t) : s.StaysCalm same (t.cmdRead g a n).1 :=
  iteFst (h.readLines true g (lineAddrs a n)).spanRead (h.readLines true g (lineAddrs a n))

theorem unitRead {a n : Nat} (h : s.StaysCalm same t) : s.StaysCalm same (t.unitRead a n).1 :=
  iteFst (h.readLines false 0 (lineAddrs a n)).spanRead (h.readLines false 0 (lineAddrs a n))

theorem cmdWrite {g a : Nat} {bs : List Byte} (h : s.StaysCalm same t) : s.StaysCalm same (t.cmdWrite g a bs).1 := by
  unfold Dev.cmdWrite
  split
  · exact h.bump.record
  · exact h.jobWrite

theorem outGate {c : Cmd} (h : s.StaysCalm same t) : s.StaysCalm same (t.outGate c).1 := by
  refine iteFst h (h.andThen fun hc => ?_)
  unfold Dev.snoopGate
  rw [((Dev.calm_iff t).1 hc).1]
  exact (refl t).frame

/-! ### The Livery -/

theorem livSettle (h : s.StaysCalm same t) : s.StaysCalm same t.livSettle := ite h.frame h.frame
theorem livRelease {i : Nat} (h : s.StaysCalm same t) : s.StaysCalm same (t.livRelease i) := h.frame
theorem livBad {code detail gen : Nat} (h : s.StaysCalm same t) : s.StaysCalm same (t.livBad code detail gen) := h.record.bump
theorem livRefuse {who i : Nat} (h : s.StaysCalm same t) : s.StaysCalm same (t.livRefuse who i) := h.livBad

theorem livFreeOp {who p : Nat} (h : s.StaysCalm same t) : s.StaysCalm same (t.livFreeOp who p) := by
  unfold Dev.livFreeOp Dev.livOp
  split
  · exact h.livBad.livSettle
  · split
    · exact h.livRefuse.livSettle
    · exact (ite h.livRefuse (ite h.livRelease h.frame)).livSettle

theorem freePlaces {who : Nat} {ps : List (Nat × Nat)} (h : s.StaysCalm same t) : s.StaysCalm same (t.freePlaces who ps) :=
  h.each livFreeOp

/-! ### Rings and commands -/

theorem writeRec {r : Nat} {c : CplRec} (h : s.StaysCalm same t) : s.StaysCalm same (t.writeRec r c) := h.frame

theorem drainRecs (r n : Nat) (h : s.StaysCalm same t) : s.StaysCalm same (t.drainRecs r n) := by
  induction n generalizing t with
  | zero => exact h
  | succ n ih =>
    unfold Dev.drainRecs
    split
    · exact h
    · exact ite h (ih h.setRing.writeRec)

theorem postRec {r : Nat} {c : CplRec} (h : s.StaysCalm same t) : s.StaysCalm same (t.postRec r c) := by
  have h1 := (h.setRing (r := r) (x := { t.ring r with held := (t.ring r).held ++ [c] })).drainRecs r ((t.ring r).held.length + 1)
  exact ite h1.setFld h1

theorem refuse {src : Source} {d : Line} {r : Refuse} (h : s.StaysCalm same t) : s.StaysCalm same (t.refuse src d r) := by
  unfold Dev.refuse
  dsimp only
  split
  · exact h.record.postRec
  · exact h.record

theorem arm {src : Source} {d : Line} {entry : Nat} {reads writes : List (Nat × Nat)} {body : CmdBody}
    (h : s.StaysCalm False t) : s.StaysCalm False (t.arm src d entry reads writes body).1 := by
  obtain ⟨-, -, -, heq⟩ := t.arm_eq src d entry reads writes body
  rw [heq]
  exact h.frameCmds ⟨rfl, rfl, rfl, rfl⟩ False.elim

theorem lentEnd {g : Nat} (h : s.StaysCalm same t) : s.StaysCalm same (t.lentEnd g) :=
  ite h (h.andThen fun hc => (refl t).frameCmds
    ⟨rfl, rfl, rfl, by obtain ⟨-, hl, -⟩ := (Dev.calm_iff t).1 hc; simp [hl]⟩ fun _ => rfl)

theorem complete {c : Cmd} {status result : Nat} (h : s.StaysCalm same t) : s.StaysCalm same (t.complete c status result) := by
  unfold Dev.complete
  split
  · exact h.setRing.postRec
  · exact h.frame
  · exact h

theorem finish {g status result : Nat} (h : s.StaysCalm False t) : s.StaysCalm False (t.finish g status result) := by
  unfold Dev.finish
  split
  · exact h
  · exact complete (h.lentEnd.frameCmds ⟨rfl, rfl, rfl, rfl⟩ False.elim)

theorem kill {g status : Nat} {rerun : Bool} (h : s.StaysCalm False t) : s.StaysCalm False (t.kill g status rerun) := by
  unfold Dev.kill
  split
  · exact h
  · exact h.lentEnd.frameCmds ⟨rfl, rfl, rfl, rfl⟩ False.elim

theorem commit {g result : Nat} (h : s.StaysCalm False t) : s.StaysCalm False (t.commit g result) := by
  unfold Dev.commit
  split
  · exact h
  · exact ite h.ctrFault.kill h.ctrAdd.finish

/-! ### Transfers in groups -/

theorem updGroup {gid : Nat} {f : Group → Group} (h : s.StaysCalm same t) : s.StaysCalm same (t.updGroup gid f) := h.frame
theorem takeSeq {gid stream : Nat} (h : s.StaysCalm same t) : s.StaysCalm same (t.takeSeq gid stream) := h.frame
theorem formed {ep : Nat} {c : Carriage} {x : Option Nat} (h : s.StaysCalm same t) : s.StaysCalm same (t.formed ep c x) := h.frame
theorem sendCtl {gr : Group} {rank type stream xid gen : Nat} {fs : List (Nat × Nat × Nat × Nat)} (h : s.StaysCalm same t) :
    s.StaysCalm same (t.sendCtl gr rank type stream xid gen fs) := h.frame
theorem sendAborts {gr : Group} {stream xid cause : Nat} (h : s.StaysCalm same t) :
    s.StaysCalm same (t.sendAborts gr stream xid cause) := h.each sendCtl
theorem sendOffer {gr : Group} {x : Xfer} {y : SendStep} {g : Nat} (h : s.StaysCalm same t) :
    s.StaysCalm same (t.sendOffer gr x y g) := h.sendCtl
theorem updX {g : Nat} {f : Xfer → Xfer} (h : s.StaysCalm same t) : s.StaysCalm same (t.updX g f) :=
  (h.updCmd (g := g) (f := fun c => { c with body := c.body.mapXfer f }) fun c => by
    unfold Cmd.head CmdBody.mapXfer
    cases c.body <;> rfl).frame

theorem chunkCar {g : Nat} {gr : Group} {x : Xfer} {y : SendStep} {c : Nat} (h : s.StaysCalm same t) :
    s.StaysCalm same (t.chunkCar g gr x y c).1 := by
  unfold Dev.chunkCar
  dsimp only
  split
  · exact h
  · refine iteFst h ?_
    split <;> exact h.cmdRead.of_fst ‹_›
  · split
    · exact h.cmdRead.of_fst ‹_›
    · refine iteFst (h.cmdRead.of_fst ‹_›) ?_
      split <;> exact (h.cmdRead.of_fst ‹_›).cmdRead.of_fst ‹_›

theorem putChunk {g step phase c : Nat} {retx eager : Bool} {excl : Option Nat} (h : s.StaysCalm same t) :
    s.StaysCalm same (t.putChunk g step phase c retx eager excl).1 := by
  unfold Dev.putChunk
  split
  · exact h
  · split
    · dsimp only
      split
      · exact h.chunkCar
      · exact (ite h.chunkCar.updGroup.formed.bump h.chunkCar.updGroup.formed.bump).updX
    · exact h

theorem putChunks {g step phase : Nat} {retx eager : Bool} (cs : List (Nat × Option Nat)) (h : s.StaysCalm same t) :
    s.StaysCalm same (Dev.putChunks g step phase retx eager cs t).1 := by
  induction cs generalizing t with
  | nil => exact h
  | cons c cs ih => exact iteFst (ih h.putChunk) h.putChunk

theorem landChunk {g step phase c : Nat} {bs : List Byte} (h : s.StaysCalm same t) :
    s.StaysCalm same (t.landChunk g step phase c bs).1 := by
  unfold Dev.landChunk
  split
  · exact h
  · split
    · exact h
    · refine iteFst ?placed (updX (ite (ite (bump ?placed) (bump ?placed)) (updX (ite (bump ?placed) (bump ?placed)))))
      split
      · exact iteFst h h.cmdWrite
      · split
        · exact h.wrBytes
        · exact h
      · exact h

theorem sendMap {gr : Group} {type stream xid gen step phase ord rank : Nat} (n : Nat) {cs : List Nat} (h : s.StaysCalm same t) :
    s.StaysCalm same (Dev.sendMap gr type stream xid gen step phase ord rank n cs t) := by
  induction n generalizing t cs with
  | zero => exact h
  | succ n ih =>
    unfold Dev.sendMap
    split
    · exact h
    · exact ih (ite h.sendCtl.bump h.sendCtl)

theorem flushCompl {g step phase : Nat} (h : s.StaysCalm same t) : s.StaysCalm same (t.flushCompl g step phase) := by
  unfold Dev.flushCompl
  split
  · exact h
  · split
    · exact (h.sendMap _).updX
    · exact h

theorem closeX {g : Nat} (h : s.StaysCalm same t) : s.StaysCalm same (t.closeX g) := by
  unfold Dev.closeX
  split
  · exact h
  · exact (h.each flushCompl).updGroup

theorem selfChunks {g step phase : Nat} (cs : List Nat) (h : s.StaysCalm same t) :
    s.StaysCalm same (Dev.selfChunks g step phase cs t).1 := by
  induction cs generalizing t with
  | nil => exact h
  | cons c cs ih =>
    unfold Dev.selfChunks
    split
    · exact h
    · split
      · split
        · exact h.chunkCar.of_fst ‹_›
        · next heq =>
            have h1 := h.chunkCar.of_fst heq
            exact iteFst h1.landChunk (ih h1.landChunk.updX)
      · exact h

theorem beginStep {g step phase : Nat} (h : s.StaysCalm same t) : s.StaysCalm same (t.beginStep g step phase).1 := by
  unfold Dev.beginStep
  split
  · exact h
  · split
    · refine iteFst h (iteFst ?_ (putChunks _ h.updX.sendOffer.updGroup))
      split
      · split
        · exact h.updX.updX.selfChunks _
        · exact iteFst (h.updX.updX.selfChunks _) h.updX.updX
        · exact h.updX.updX
      · exact h.updX.updX
    · exact h

theorem beginSteps {g phase : Nat} (ys : List SendStep) (h : s.StaysCalm same t) :
    s.StaysCalm same (Dev.beginSteps g phase ys t).1 := by
  induction ys generalizing t with
  | nil => exact h
  | cons y ys ih =>
    unfold Dev.beginSteps
    split
    · exact h
    · exact iteFst (iteFst (ih h.beginStep) h.beginStep) (ih h)

theorem stale (h : s.StaysCalm same t) : s.StaysCalm same t.stale := h.bump

theorem acceptOffer {g rank : Nat} {c : Carriage} (h : s.StaysCalm same t) : s.StaysCalm same (t.acceptOffer g rank c) := by
  unfold Dev.acceptOffer
  split
  · exact h.stale
  · refine ite h.stale ?_
    split
    · exact h.updX
    · exact ite h.stale h

/-! ### Kills in groups -/

theorem killQueued {g status : Nat} {rerun : Bool} (h : s.StaysCalm False t) : s.StaysCalm False (t.killQueued g status rerun) :=
  h.kill.frame

theorem killReturns {gid xid : Nat} (h : s.StaysCalm False t) : s.StaysCalm False (t.killReturns gid xid) := h.each killQueued

theorem killForward {pass : Nat} (h : s.StaysCalm False t) : s.StaysCalm False (t.killForward pass) :=
  h.each fun h => by
    split
    · exact h.killQueued.killReturns
    · exact h

theorem setBody {g : Nat} {b : CmdBody} (h : s.StaysCalm False t) : s.StaysCalm False (t.setBody g b) :=
  h.frameCmds ⟨rfl, rfl, rfl, rfl⟩ False.elim

theorem dropReturns {pass : Nat} (h : s.StaysCalm False t) : s.StaysCalm False (t.dropReturns pass) :=
  h.each fun h => by
    split
    · exact h.freePlaces.setBody
    · exact h

theorem groupKill {g status : Nat} {rerun : Bool} (h : s.StaysCalm False t) : s.StaysCalm False (t.groupKill g status rerun) := by
  unfold Dev.groupKill
  split
  · exact h
  · dsimp only
    split
    · exact ite (ite h.killQueued h.killQueued.bump).dropReturns (ite h.killQueued h.killQueued.bump).killForward
    · exact ite h.killQueued h.killQueued.killReturns
    · exact h.killQueued

theorem groupFault {g cause status : Nat} (h : s.StaysCalm False t) : s.StaysCalm False (t.groupFault g cause status) := by
  unfold Dev.groupFault
  split
  · exact h
  · split
    · exact h.groupKill.sendAborts
    · exact h.groupKill

/-! ### Routing passes -/

theorem ungate {dm : Domain} (h : s.StaysCalm same t) : s.StaysCalm same (t.ungate dm) := ite h.frame h
theorem postsWake (h : s.StaysCalm same t) : s.StaysCalm same t.postsWake := h.each ungate

theorem readBlk {a : Nat} (h : s.StaysCalm same t) : s.StaysCalm same (t.readBlk a).1 := by
  refine iteFst h ?_
  split <;> exact h.unitRead.of_fst ‹_›

theorem routeBad {d : Line} (h : s.StaysCalm same t) : s.StaysCalm same (t.routeBad d).1 := by
  unfold Dev.routeBad
  dsimp only
  split
  · exact h
  · split
    · exact h
    · split
      · exact h.readBlk
      · refine iteFst h.readBlk ?_
        split
        · exact h.readBlk
        · exact iteFst h.readBlk h.readBlk

theorem setRoute {g : Nat} {f : RouteRun → RouteRun} (h : s.StaysCalm same t)
    (hf : ∀ r, (f r).tiedEs = r.tiedEs := by exact fun _ => rfl) : s.StaysCalm same (t.setRoute g f) :=
  h.updCmd fun c => by unfold Cmd.head; split <;> simp [*, CmdBody.ties]

theorem stageTo {g : Nat} {st : RStage} (h : s.StaysCalm same t) : s.StaysCalm same (t.stageTo g st) := by
  unfold Dev.stageTo
  split
  · exact h
  · exact h.setRoute

theorem readSpans {g : Nat} (xs : List (Nat × Nat)) (h : s.StaysCalm same t) : s.StaysCalm same (Dev.readSpans g xs t).1 := by
  induction xs generalizing t with
  | nil => exact h
  | cons x xs ih =>
    unfold Dev.readSpans
    have h1 := iteFst (c := x.2 = 0) (p := (t, some [])) (q := t.cmdRead g x.1 x.2) h h.cmdRead
    split
    · exact h1.of_fst ‹_›
    · next heq =>
        have h2 := ih (h1.of_fst heq)
        split <;> exact h2.of_fst ‹_›

theorem writeSpans {g : Nat} {xs : List (Nat × List Byte)} (h : s.StaysCalm same t) :
    s.StaysCalm same (Dev.writeSpans g xs t).1 := by
  unfold Dev.writeSpans
  dsimp only
  split
  · exact h.cmdWrite
  · exact h.each fun h => h.cmdWrite

theorem scoreShare {g : Nat} {d : Line} {r : RouteRun} {es : List Nat} (h : s.StaysCalm same t) :
    s.StaysCalm same (t.scoreShare g d r es).1 := by
  unfold Dev.scoreShare
  dsimp only
  split
  · exact h.readSpans _
  · split
    · exact iteFst (h.readSpans _) ((h.readSpans _).readSpans _)
    · refine writeSpans (setRoute ?_)
      split
      · refine ite (record ?read) ?read
        exact iteFst (h.readSpans _) ((h.readSpans _).readSpans _)
      · exact iteFst (h.readSpans _) ((h.readSpans _).readSpans _)

theorem routeKeys {g : Nat} {d : Line} {r : RouteRun} (h : s.StaysCalm same t) : s.StaysCalm same (t.routeKeys g d r).1 :=
  h.readSpans _

theorem closeRed {g : Nat} {m : RedRun} {gr : Group} (h : s.StaysCalm same t) : s.StaysCalm same (t.closeRed g m gr).1 :=
  iteFst h.freePlaces.setRoute h.freePlaces.setRoute.cmdWrite

theorem redProgress {g : Nat} (h : s.StaysCalm False t) : s.StaysCalm False (t.redProgress g) := by
  unfold Dev.redProgress
  dsimp only
  split
  · split
    · exact h
    · refine ite (h.beginSteps _).groupFault ?_
      split
      · exact h.beginSteps _
      · refine ite (groupFault ?closed) ?_
        · exact iteFst (h.beginSteps _).closeRed (h.beginSteps _)
        split
        · exact ?closed
        · split
          · exact ?closed
          · refine ite ?begun (groupFault ?begun)
            exact iteFst (iteFst (h.beginSteps _).closeRed (h.beginSteps _))
              (beginSteps _ (iteFst (h.beginSteps _).closeRed (h.beginSteps _)))
  · exact h

theorem contribute {g digest : Nat} {refused : Bool} {wintok : Nat} {body : List Nat} {st : RStage} {kind : RedKind} {dst : Nat}
    (h : s.StaysCalm False t) : s.StaysCalm False (t.contribute g digest refused wintok body st kind dst) := by
  unfold Dev.contribute
  split
  · exact h
  · split
    · exact h
    · exact (h.setRoute.updGroup.each acceptOffer).redProgress

theorem refusalProgress {k : Nat} (h : s.StaysCalm same t) : s.StaysCalm same (t.refusalProgress k) := by
  unfold Dev.refusalProgress
  split
  · exact h
  · exact ite h.closeX.frame (h.beginSteps _)

theorem setCol {x : Collective} (h : s.StaysCalm same t) : s.StaysCalm same { t with col := x } := h.frame

theorem refusePass {gr : Group} {digest tokens : Nat} (h : s.StaysCalm same t) :
    s.StaysCalm same (t.refusePass gr digest tokens) :=
  ite h.takeSeq.updGroup (h.takeSeq.updGroup.setCol.each acceptOffer).refusalProgress

theorem selContribute {g : Nat} {d : Line} {r : RouteRun} (h : s.StaysCalm False t) :
    s.StaysCalm False (t.selContribute g d r) := by
  unfold Dev.selContribute
  split
  · exact (h.routeKeys.of_fst ‹_›).groupFault
  · next heq =>
      have h1 := h.routeKeys.of_fst heq
      dsimp only
      split
      · exact h1.contribute
      · exact h1.contribute
      · exact h1.setRoute.contribute

theorem accStart {g : Nat} {r : RouteRun} {k : Nat} (h : s.StaysCalm same t) : s.StaysCalm same (t.accStart g r k).1 := by
  refine iteFst ?_ h
  split <;> exact h.cmdRead.of_fst ‹_›

theorem tokenSum {g n : Nat} {r : RouteRun} {k : Nat} (h : s.StaysCalm same t) : s.StaysCalm same (t.tokenSum g n r k).1 := by
  refine iteFst ?_ ?_
  · split <;> exact h.cmdRead.of_fst ‹_›
  · dsimp only
    split
    · exact h.accStart
    · split <;> exact h.accStart.readSpans _

theorem tokenSums {g n : Nat} {r : RouteRun} (ks : List Nat) (h : s.StaysCalm same t) :
    s.StaysCalm same (Dev.tokenSums g n r ks t).1 := by
  induction ks generalizing t with
  | nil => exact h
  | cons k ks ih =>
    unfold Dev.tokenSums
    split
    · exact h.tokenSum.of_fst ‹_›
    · next heq =>
        have h1 := ih (h.tokenSum.of_fst heq)
        split <;> exact h1.of_fst ‹_›

theorem combineProgress {g : Nat} (h : s.StaysCalm False t) : s.StaysCalm False (t.combineProgress g) := by
  unfold Dev.combineProgress
  split
  · refine ite ?gate ?_
    · exact iteFst h h.outGate
    split
    · next heq => exact ((tokenSums _ ?gate).of_fst heq).groupFault
    · next heq =>
        have h1 := (tokenSums _ ?gate).of_fst heq
        exact ite h1.ctrFault.groupFault (ite h1.writeSpans.commit h1.writeSpans.groupFault)
  · exact h

theorem redResult {g : Nat} {m : RedRun} (h : s.StaysCalm same t) : s.StaysCalm same (t.redResult g m).1 := by
  unfold Dev.redResult
  split
  · exact h
  · refine iteFst h ?_
    split <;> exact h.cmdRead.of_fst ‹_›

theorem routeDie {g code detail : Nat} (h : s.StaysCalm False t) : s.StaysCalm False (t.routeDie g code detail) := h.record.groupKill

end Dev.StaysCalm
end Sys2Proof.Machine
end

section
/-! The statement about routing passes (01_architecture.md): the rules of the commands and groups in hand that it needs, then each of
its events. That a device of which no access has to wait is not held up by what an event does is the part above. -/
namespace Sys2Proof.Machine

-- The short theorems below are elaborated one after another: side by side, their threads' stacks exceed the memory of the check.
set_option Elab.async false

/-- On a working device of which no access has to wait, an event of a unit is what its effect is, where that leaves none to wait. -/
theorem State.unit_of_staysCalm {d t : Dev} {f : Dev → Dev} (q : List Instr) (ha : d.alive = true) (hc : d.calm = true)
    (hf : f d = t) (ht : d.StaysCalm False t) : (State.mk q d).unit f = .next ⟨q, t⟩ := by
  obtain ⟨hcalm, hst, -⟩ := ht.step hc
  obtain ⟨-, hl, -⟩ := t.calm_iff.1 hcalm
  have hend : (f d).unitEnd = t := by rw [hf, t.unitEnd_nil hl]
  have hatt : d.attempt (fun d => (f d).unitEnd) = t := by
    rw [Dev.attempt_done _ _ (by rw [hend]; exact hst), hend]
  unfold State.unit
  rw [State.upd_alive ha]
  exact congrArg (fun x => Host.Outcome.next (State.mk q x)) hatt

section
variable {s d : Dev}

/-! ### A command and a group after an update -/

theorem find?_updFirst {α : Type} {p : α → Bool} {f : α → α} {x : α} {l : List α} (hp : p (f x) = true)
    (h : l.find? p = some x) : (updFirst p f l).find? p = some (f x) := by
  induction l with
  | nil => simp at h
  | cons y l ih =>
    unfold updFirst
    by_cases hy : p y = true
    · obtain rfl : y = x := by simpa [hy] using h
      simp [hy, hp]
    · simp only [List.find?_cons, hy] at h
      simp [hy, ih h]

/-- An update is what it makes of the element that it finds. -/
theorem updFirst_congr {α : Type} {p : α → Bool} {f f' : α → α} {l : List α} (h : ∀ x, l.find? p = some x → f x = f' x) :
    updFirst p f l = updFirst p f' l := by
  induction l with
  | nil => rfl
  | cons y l ih =>
    unfold updFirst
    by_cases hy : p y = true
    · simp [hy, h y (by simp [hy])]
    · simp only [hy, Bool.false_eq_true, ↓reduceIte]
      rw [ih fun x hx => h x (by simpa [hy] using hx)]

theorem Dev.cmd_gen {g : Nat} {c : Cmd} (h : s.cmd g = some c) : c.gen = g := by
  simpa using List.find?_some h

theorem Dev.group_gid {gid : Nat} {gr : Group} (h : s.group gid = some gr) : gr.gid = gid := by
  simpa using List.find?_some h

/-- The command of a generation has the head that the commands in hand show for it. -/
theorem Dev.cmd_map_head (s : Dev) (g : Nat) : (s.cmd g).map Cmd.head = s.heads.find? fun x => x.1 == g := by
  simp [Dev.cmd, Dev.heads, List.find?_map, Function.comp_def, Cmd.head]

theorem Dev.StaysCalm.cmd_head {g : Nat} {c : Cmd} (h : d.StaysCalm True s) (hc : d.calm = true) (hcmd : d.cmd g = some c) :
    ∃ c', s.cmd g = some c' ∧ c'.head = c.head := by
  obtain ⟨-, -, hheads⟩ := h.step hc
  have hmap : (s.cmd g).map Cmd.head = some c.head := by
    rw [Dev.cmd_map_head, hheads trivial, ← Dev.cmd_map_head, hcmd]; rfl
  exact Option.map_eq_some_iff.1 hmap

theorem Dev.cmd_updCmd {g : Nat} {c : Cmd} {f : Cmd → Cmd} (h : s.cmd g = some c) (hf : (f c).gen = c.gen) :
    (s.updCmd g f).cmd g = some (f c) :=
  find?_updFirst (by simp [hf, Dev.cmd_gen h]) h

theorem Dev.routeOf_eq_some {g : Nat} {r : RouteRun} :
    s.routeOf g = some r ↔ ∃ c, s.cmd g = some c ∧ c.body = .route r := by
  unfold Dev.routeOf
  constructor
  · intro h
    split at h
    · next c hc =>
        split at h
        · next r' hb => exact ⟨c, hc, by rw [hb, Option.some.inj h]⟩
        · exact absurd h (by simp)
    · exact absurd h (by simp)
  · rintro ⟨c, hc, hb⟩
    simp only [hc, hb]

/-- The pass of generation `g` when its run changes: the command stays, with the new run. -/
theorem Dev.cmd_setRoute {g : Nat} {c : Cmd} {r : RouteRun} {f : RouteRun → RouteRun} (h : s.cmd g = some c)
    (hb : c.body = .route r) : (s.setRoute g f).cmd g = some { c with body := .route (f r) } := by
  unfold Dev.setRoute
  rw [Dev.cmd_updCmd h (by rw [hb])]
  simp only [hb]

theorem Dev.setRoute_congr {g : Nat} {f f' : RouteRun → RouteRun} (h : ∀ r, s.routeOf g = some r → f r = f' r) :
    s.setRoute g f = s.setRoute g f' := by
  unfold Dev.setRoute Dev.updCmd
  rw [updFirst_congr fun c hc => ?_]
  cases hb : c.body with
  | route r => simp only [h r (Dev.routeOf_eq_some.2 ⟨c, hc, hb⟩)]
  | _ => rfl

theorem Dev.group_updGroup {gid : Nat} {gr : Group} {f : Group → Group} (h : s.group gid = some gr)
    (hf : (f gr).gid = gr.gid) : (s.updGroup gid f).group gid = some (f gr) :=
  find?_updFirst (by simp [hf, Dev.group_gid h]) h

end

/-! ### The arm of a routing pass -/

/-- What a step of a run leaves alone, the run leaves alone. -/
theorem Dev.each_same {α β : Type} (v : Dev → β) {f : Dev → α → Dev} (hf : ∀ s a, v (f s a) = v s) (l : List α)
    (s : Dev) : v (s.each l f) = v s := by
  induction l generalizing s with
  | nil => rfl
  | cons a l ih => exact (ih _).trans (hf s a)

section
variable (s : Dev)

@[simp] theorem Dev.postsWake_cmds : s.postsWake.cmds = s.cmds := Dev.each_same Dev.cmds (fun s _ => s.ungate_cmds _) _ s
@[simp] theorem Dev.postsWake_genNext : s.postsWake.genNext = s.genNext :=
  Dev.each_same Dev.genNext (fun s _ => s.ungate_genNext _) _ s
@[simp] theorem Dev.postsWake_col : s.postsWake.col = s.col := Dev.each_same Dev.col (fun s _ => s.ungate_col _) _ s

@[simp] theorem Dev.stageTo_genNext (g : Nat) (st : RStage) : (s.stageTo g st).genNext = s.genNext := by
  unfold Dev.stageTo; split <;> rfl
@[simp] theorem Dev.stageTo_col (g : Nat) (st : RStage) : (s.stageTo g st).col = s.col := by
  unfold Dev.stageTo; split <;> rfl

/-- The device right after the arm of a pass that holds the regions `outs`: its number is taken, its Postilions are awake. -/
def Dev.passArmed (src : Source) (l : Line) (gid : Nat) (outs : List (Nat × Nat)) (r : RouteRun) : Dev :=
  ((s.takeSeq gid 1).arm src l 0 [] outs (.route r)).1.postsWake

variable {s} {d : Dev} {src : Source} {l : Line} {gid : Nat} {outs : List (Nat × Nat)} {r : RouteRun}

theorem Dev.passArmed_genNext : (s.passArmed src l gid outs r).genNext = s.nextGen + 1 := by
  obtain ⟨-, -, hgen, -⟩ := (s.takeSeq gid 1).arm_eq src l 0 [] outs (.route r)
  exact (Dev.postsWake_genNext _).trans hgen

theorem Dev.passArmed_cmd (h : s.cmd s.nextGen = none) :
    (s.passArmed src l gid outs r).cmd s.nextGen = some ⟨s.nextGen, src, l, 0, [], outs, none, .route r⟩ := by
  obtain ⟨-, hcmds, -, -⟩ := (s.takeSeq gid 1).arm_eq src l 0 [] outs (.route r)
  have hn : s.cmds.find? (fun c => c.gen == s.nextGen) = none := h
  have hg : (s.takeSeq gid 1).nextGen = s.nextGen := rfl
  have hc : (s.takeSeq gid 1).cmds = s.cmds := rfl
  unfold Dev.cmd Dev.passArmed
  rw [Dev.postsWake_cmds, hcmds, hg, hc, List.find?_append, hn]
  simp

theorem Dev.passArmed_group {gr : Group} (h : s.group gid = some gr) :
    (s.passArmed src l gid outs r).group gid = some { gr with seqs := gr.seqs.set 1 (nth gr.seqs 1 0 + 1) } := by
  obtain ⟨-, -, -, heq⟩ := (s.takeSeq gid 1).arm_eq src l 0 [] outs (.route r)
  have hcol : (s.passArmed src l gid outs r).col = (s.takeSeq gid 1).col := by
    unfold Dev.passArmed
    rw [Dev.postsWake_col, heq]
  unfold Dev.group
  rw [hcol]
  exact Dev.group_updGroup h rfl

/-- A pass whose stage begins keeps its run but for the stage and its shares. -/
theorem Dev.stageTo_cmd {g : Nat} {c : Cmd} {st : RStage} (h : s.cmd g = some c) (hb : c.body = .route r) :
    ∃ left, (s.stageTo g st).cmd g = some { c with body := .route { r with stage := st, left := left } } := by
  unfold Dev.stageTo
  simp only [h]
  exact ⟨_, Dev.cmd_setRoute h hb⟩

/-- A pass that no check refuses is armed, and stands in scoring or in WAIT (R46, R86). -/
theorem Dev.routeArm_eq {s1 s2 : Dev} {gr : Group} {blk : Nat} (stalls : Nat) (hgid : gid = d.fld (Reg.PST_GROUP (rpProfile l)) 0 16)
    (hbad : d.routeBad l = (s1, none)) (hgr : s1.group gid = some gr) (hblk : s1.readBlk (rpBlk l) = (s2, some blk))
    (hab : heldAbort gr 1 (nth gr.seqs 1 0) = none) :
    ∃ outs, d.routeArm src l stalls = if blkF blk 64 8 = 0
      then (s2.passArmed src l gid outs (s2.routeRun l gr blk stalls)).stageTo s2.nextGen .score
      else s2.passArmed src l gid outs (s2.routeRun l gr blk stalls) := by
  have hg : ∀ outs, ((s2.takeSeq gid 1).arm src l 0 [] outs (.route (s2.routeRun l gr blk stalls))).2 = s2.nextGen := fun outs =>
    ((s2.takeSeq gid 1).arm_eq src l 0 [] outs _).1
  unfold Dev.routeArm
  rw [hbad]
  dsimp only
  rw [← hgid, hgr, hblk]
  dsimp only
  rw [hg]
  have hseq : (s2.routeRun l gr blk stalls).seq = nth gr.seqs 1 0 := rfl
  unfold Dev.abortArmed
  rw [hseq, hab]
  exact ⟨_, rfl⟩

end

/-! ### Routing passes, event by event -/

/-- A pass goes on with the result `x` of its reduction, by the stage that the reduction ends (R58, R61, R64, R67, R97). -/
def Dev.redNext (s : Dev) (g : Nat) (l : Line) (r : RouteRun) (x : Reduced) : Dev :=
  match r.stage with
  | .histR => s.histDone g r x
  | .tieR => (s.setRoute g fun r => { r with ord := r.ord + 1, scanQ := r.tiedEs.zip x.scan }).stageTo g .cap
  | .capR => s.capDone g r x
  | .countR => s.countDone g l r x
  | _ => s

section
variable {s : Dev} {g : Nat} {l : Line} {r : RouteRun} {x : Reduced}

theorem Dev.redNext_histR (h : r.stage = .histR) : s.redNext g l r x = s.histDone g r x := by unfold Dev.redNext; rw [h]
theorem Dev.redNext_countR (h : r.stage = .countR) : s.redNext g l r x = s.countDone g l r x := by unfold Dev.redNext; rw [h]
theorem Dev.redNext_tieR (h : r.stage = .tieR) : s.redNext g l r x
    = (s.setRoute g fun r => { r with ord := r.ord + 1, scanQ := r.tiedEs.zip x.scan }).stageTo g .cap := by
  unfold Dev.redNext; rw [h]

end

section
variable {q : List Instr} {d : Dev} (ha : d.alive = true) (hc : d.calm = true)

section
variable {src : Source} {l : Line} {gid : Nat} {s1 s2 : Dev} (hop : dOp l = 0x0200)
  (hgid : gid = d.fld (Reg.PST_GROUP (rpProfile l)) 0 16)
include ha hc hop

theorem exec_routepass {t : Dev} (h : d.routeArm src l 0 = t) (ht : d.StaysCalm False t) :
    exec (.routepass src l) ⟨q, d⟩ = .next ⟨q, t⟩ :=
  State.unit_of_staysCalm q ha hc ((if_pos hop).trans h) ht

include hgid

theorem exec_routepass_armed {gr : Group} {blk : Nat} (hbad : d.routeBad l = (s1, none)) (hgr : s1.group gid = some gr)
    (hblk : s1.readBlk (rpBlk l) = (s2, some blk)) (hab : heldAbort gr 1 (nth gr.seqs 1 0) = none)
    (hnew : s2.cmd s2.nextGen = none) (hgr2 : s2.group gid = some gr) :
    ∃ t r, exec (.routepass src l) ⟨q, d⟩ = .next ⟨q, t⟩ ∧ t.routeOf s2.nextGen = some r
      ∧ (t.cmd s2.nextGen).map (fun c => (c.desc, c.src)) = some (l, src) ∧ t.genNext = s2.nextGen + 1
      ∧ r.group = gr.gid ∧ r.seq = nth gr.seqs 1 0 ∧ r.blk = blk ∧ r.selcfg = s2.reg (Reg.PST_SELCFG (rpProfile l))
      ∧ r.stage = (if blkF blk 64 8 = 0 then .score else .wait)
      ∧ t.group gid = some { gr with seqs := gr.seqs.set 1 (nth gr.seqs 1 0 + 1) } := by
  obtain ⟨outs, harm⟩ := Dev.routeArm_eq (src := src) 0 hgid hbad hgr hblk hab
  have hcalm : d.StaysCalm False (s2.passArmed src l gid outs (s2.routeRun l gr blk 0)) :=
    (((Dev.StaysCalm.refl d).routeBad.of_fst hbad).readBlk.of_fst hblk).takeSeq.arm.postsWake
  have hcmd := Dev.passArmed_cmd (src := src) (l := l) (gid := gid) (outs := outs) (r := s2.routeRun l gr blk 0) hnew
  by_cases hw : blkF blk 64 8 = 0
  · obtain ⟨left, hcmd'⟩ := Dev.stageTo_cmd (st := .score) hcmd rfl
    rw [if_pos hw] at harm
    refine ⟨_, _, exec_routepass ha hc hop harm hcalm.stageTo, Dev.routeOf_eq_some.2 ⟨_, hcmd', rfl⟩, by rw [hcmd']; rfl, ?_,
      rfl, rfl, rfl, rfl, (if_pos hw).symm, ?_⟩
    · rw [Dev.stageTo_genNext, Dev.passArmed_genNext]
    · rw [← Dev.passArmed_group (src := src) (l := l) (outs := outs) (r := s2.routeRun l gr blk 0) hgr2]
      unfold Dev.group
      rw [Dev.stageTo_col]
  · rw [if_neg hw] at harm
    exact ⟨_, _, exec_routepass ha hc hop harm hcalm, Dev.routeOf_eq_some.2 ⟨_, hcmd, rfl⟩, by rw [hcmd]; rfl,
      Dev.passArmed_genNext, rfl, rfl, rfl, rfl, (if_neg hw).symm, Dev.passArmed_group hgr2⟩

theorem exec_routepass_refused_noGroup {r : Refuse} (hbad : d.routeBad l = (s1, some r)) (hs2 : s2 = s1.refuse src l r)
    (hgr : s2.group gid = none) : exec (.routepass src l) ⟨q, d⟩ = .next ⟨q, s2⟩ := by
  subst hs2
  refine exec_routepass ha hc hop ?_ ((Dev.StaysCalm.refl d).routeBad.of_fst hbad).refuse
  unfold Dev.routeArm
  rw [hbad]
  dsimp only
  rw [← hgid, hgr]

theorem exec_routepass_refused_formed {r : Refuse} {gr : Group} (hbad : d.routeBad l = (s1, some r))
    (hs2 : s2 = s1.refuse src l r) (hgr : s2.group gid = some gr) (hf : gr.state = gFORMED) :
    exec (.routepass src l) ⟨q, d⟩ = .next ⟨q, s2.refusePass gr
      (paramDigest (rpLayer l) (s2.reg (Reg.PST_SELCFG (rpProfile l))) (s2.fld (Reg.PST_CAP (rpProfile l)) 0 24)
        (s2.reg (Reg.PST_FALLBACK (rpProfile l))) (nth gr.seqs 1 0)) (rpTokens l)⟩ := by
  subst hs2
  refine exec_routepass ha hc hop ?_ ((Dev.StaysCalm.refl d).routeBad.of_fst hbad).refuse.refusePass
  unfold Dev.routeArm
  rw [hbad]
  dsimp only
  rw [← hgid, hgr]
  exact if_neg (not_not.2 hf)

end

section
include ha hc

theorem exec_routepassWaitSatisfied_reached {g : Nat} {r : RouteRun} (hr : d.routeOf g = some r) (hst : r.stage = .wait)
    (hadr : blkF r.blk 64 8 ≠ 0) (hok : d.ctrBad (blkF r.blk 64 8) = none) (hle : blkF r.blk 72 8 ≤ d.ctr (blkF r.blk 64 8)) :
    exec (.routepassWaitSatisfied g) ⟨q, d⟩ = .next ⟨q, d.stageTo g .score⟩ := by
  refine State.unit_of_staysCalm q ha hc ?_ (Dev.StaysCalm.refl d).stageTo
  simp [hr, hst, hadr, hok, hle]

end

section
variable {p i : Nat} {c : Cmd} {r : RouteRun}
  (hsh : d.cmds.findSome? (fun c => d.readyShare c p) = some (.stage c.gen)) (hcmd : d.cmd c.gen = some c)
  (hr : d.routeOf c.gen = some r) (hi : (r.left.find? fun x => x.2 == p) = some (i, p))
include ha hc hsh hcmd hr

theorem exec_postilionShareDispatch_stage {t : Dev} (h : d.stageShare c r p = t) (ht : d.StaysCalm False t) :
    exec (.postilionShareDispatch p) ⟨q, d⟩ = .next ⟨q, t⟩ := by
  refine State.unit_of_staysCalm q ha hc ?_ ht
  rw [hsh]
  dsimp only [Dev.doShare]
  rw [hcmd, hr]
  exact h

include hi

theorem exec_postilionShareDispatch_more (hst : r.stage ≠ .score) (hmore : r.left.filter (fun x => x.1 != i) ≠ []) :
    exec (.postilionShareDispatch p) ⟨q, d⟩
      = .next ⟨q, d.setRoute c.gen fun z => { z with left := r.left.filter fun x => x.1 != i }⟩ := by
  refine exec_postilionShareDispatch_stage ha hc hsh hcmd hr ?_ (Dev.StaysCalm.refl d).setRoute
  unfold Dev.stageShare
  simp [hst, hi, hmore]

omit hi
variable (hlast : r.left = [(i, p)])
include hlast

theorem exec_postilionShareDispatch_scored {s1 : Dev} (hst : r.stage = .score)
    (hscore : d.scoreShare c.gen c.desc r (shareExperts r.experts (routeShares c.desc).length i) = (s1, true)) :
    exec (.postilionShareDispatch p) ⟨q, d⟩
      = .next ⟨q, (s1.setRoute c.gen fun r => { r with left := [] }).stageTo c.gen .hist⟩ := by
  refine exec_postilionShareDispatch_stage ha hc hsh hcmd hr ?_
    ((Dev.StaysCalm.refl d).scoreShare.of_fst hscore).setRoute.stageTo
  unfold Dev.stageShare
  simp [hst, hlast, hscore]

theorem exec_postilionShareDispatch_counted (hst : r.stage = .hist ∨ r.stage = .tie ∨ r.stage = .cap) :
    exec (.postilionShareDispatch p) ⟨q, d⟩
      = .next ⟨q, (d.setRoute c.gen fun r => { r with left := [] }).selContribute c.gen c.desc r⟩ := by
  refine exec_postilionShareDispatch_stage ha hc hsh hcmd hr ?_ (Dev.StaysCalm.refl d).setRoute.selContribute
  unfold Dev.stageShare
  obtain hst | hst | hst := hst <;> simp [hst, hlast]

theorem exec_postilionShareDispatch_scattered (hst : r.stage = .scatter) :
    exec (.postilionShareDispatch p) ⟨q, d⟩ = .next ⟨q, (d.setRoute c.gen fun r => { r with left := [] }).setRoute c.gen fun r =>
      { r with stage := .scattered }⟩ := by
  refine exec_postilionShareDispatch_stage ha hc hsh hcmd hr ?_ (Dev.StaysCalm.refl d).setRoute.setRoute
  unfold Dev.stageShare
  simp [hst, hlast]

end

section
variable {g : Nat} {c : Cmd} {r : RouteRun} (hcmd : d.cmd g = some c) (hr : d.routeOf g = some r)

section
variable {m : RedRun} (hred : r.red = some m)
include ha hc hcmd hr hred

theorem exec_routeReductionComplete_early {ord : Nat} (h : m.ready = false ∨ m.x.ord ≠ ord) :
    exec (.routeReductionComplete g ord) ⟨q, d⟩ = .next ⟨q, d⟩ := by
  refine State.unit_of_staysCalm q ha hc ?_ (.refl d)
  simp only [hcmd, hr, hred]
  exact if_pos (by obtain h | h := h <;> simp [h])

variable {s1 s2 : Dev} {x : Reduced} (hready : m.ready = true) (hres : d.redResult g m = (s1, some x))
  (hs2 : s2 = ((s1.closeX g).setRoute g fun r => { r with red := none }))
omit ha hc hcmd hr hred
include hres hs2

/-- The device with the result of a reduction taken has the same commands as before. -/
theorem staysCalm_redTaken : d.StaysCalm True s2 := by
  subst hs2
  exact ((Dev.StaysCalm.refl d).redResult.of_fst hres).closeX.setRoute

include hcmd hc in
/-- A pass that its reduction kills is recorded with the lowest Postilion of its POSTMASK: its command is still in hand (R592). -/
theorem routeDie_redTaken {code detail : Nat} :
    s2.routeDie g code detail = (s2.record clsROUTE code detail g blkPST (maskInst c.desc)).groupKill g 2 false := by
  obtain ⟨c', hc', hhead⟩ := (staysCalm_redTaken hres hs2).cmd_head hc hcmd
  have hdesc : c'.desc = c.desc := congrArg (fun x => x.2.1) hhead
  unfold Dev.routeDie
  simp only [hc', hdesc]

include hcmd hr hc in
/-- The scan is handed over for the ties of the run in hand, which are those of the run that the event found. -/
theorem tiedEs_redTaken {r' : RouteRun} (hr' : s2.routeOf g = some r') : r'.tiedEs = r.tiedEs := by
  obtain ⟨c', hc', hhead⟩ := (staysCalm_redTaken hres hs2).cmd_head hc hcmd
  obtain ⟨c1, hc1, hb⟩ := Dev.routeOf_eq_some.1 hr
  obtain ⟨c2, hc2, hb'⟩ := Dev.routeOf_eq_some.1 hr'
  obtain rfl : c = c1 := Option.some.inj (hcmd.symm.trans hc1)
  obtain rfl : c' = c2 := Option.some.inj (hc'.symm.trans hc2)
  have hties : c'.body.ties = c.body.ties := congrArg (fun x => x.2.2) hhead
  rw [hb, hb'] at hties
  exact Option.some.inj hties

include ha hc hcmd hr hred hready

theorem exec_routeReductionComplete_taken {t : Dev} (h : s2.redNext g c.desc { r with red := none } x = t)
    (ht : s2.StaysCalm False t) : exec (.routeReductionComplete g m.x.ord) ⟨q, d⟩ = .next ⟨q, t⟩ := by
  refine State.unit_of_staysCalm q ha hc ?_ ((staysCalm_redTaken hres hs2).weaken.andThen fun _ => ht)
  subst hs2 h
  simp only [hcmd, hr, hred]
  refine (if_neg (by simp [hready])).trans ?_
  rw [hres]
  rfl

theorem exec_routeReductionComplete_digest (hst : r.stage = .histR) (hord : r.ord = 0)
    (hx : x.digestBad ≠ none ∨ x.refused ≠ 0) : exec (.routeReductionComplete g m.x.ord) ⟨q, d⟩
      = .next ⟨q, (s2.record clsROUTE 4 (x.digestBad.getD 0xFFFF) g blkPST (maskInst c.desc)).groupKill g 2 false⟩ := by
  refine exec_routeReductionComplete_taken ha hc hcmd hr hred hready hres hs2 ?_ (Dev.StaysCalm.refl s2).record.groupKill
  rw [← routeDie_redTaken hc hcmd hres hs2, Dev.redNext_histR (r := { r with red := none }) hst]
  exact if_pos (by simpa [hord, Option.isSome_iff_ne_none] using hx)

theorem exec_routeReductionComplete_window (hst : r.stage = .histR) (hord : r.ord = 0) (hd : x.digestBad = none)
    (hf : x.refused = 0) (hw : 4294967295 < x.wintok) : exec (.routeReductionComplete g m.x.ord) ⟨q, d⟩
      = .next ⟨q, (s2.record clsROUTE 5 x.wintok g blkPST (maskInst c.desc)).groupKill g 2 false⟩ := by
  refine exec_routeReductionComplete_taken ha hc hcmd hr hred hready hres hs2 ?_ (Dev.StaysCalm.refl s2).record.groupKill
  rw [← routeDie_redTaken hc hcmd hres hs2, Dev.redNext_histR (r := { r with red := none }) hst]
  exact (if_neg (by simp [hd, hf])).trans (if_pos (by simp [hord, hw]))

theorem exec_routeReductionComplete_count (hst : r.stage = .countR) (hx : x.digestBad ≠ none ∨ x.refused ≠ 0) :
    exec (.routeReductionComplete g m.x.ord) ⟨q, d⟩
      = .next ⟨q, (s2.record clsROUTE 0x00B (x.digestBad.getD 0xFFFF) g blkPST (maskInst c.desc)).groupKill g 2 false⟩ := by
  refine exec_routeReductionComplete_taken ha hc hcmd hr hred hready hres hs2 ?_ (Dev.StaysCalm.refl s2).record.groupKill
  rw [← routeDie_redTaken hc hcmd hres hs2, Dev.redNext_countR (r := { r with red := none }) hst]
  exact if_pos (by simpa [Option.isSome_iff_ne_none] using hx)

theorem exec_routeReductionComplete_tie (hst : r.stage = .tieR) : exec (.routeReductionComplete g m.x.ord) ⟨q, d⟩
    = .next ⟨q, (s2.setRoute g fun z => { z with ord := z.ord + 1, scanQ := r.tiedEs.zip x.scan }).stageTo g .cap⟩ := by
  refine exec_routeReductionComplete_taken ha hc hcmd hr hred hready hres hs2 ?_ (Dev.StaysCalm.refl s2).setRoute.stageTo
  rw [Dev.redNext_tieR (r := { r with red := none }) hst]
  exact congrArg (Dev.stageTo · g .cap) (Dev.setRoute_congr fun r' hr' => by rw [tiedEs_redTaken hc hcmd hr hres hs2 hr'])

end

include ha hc hcmd hr

theorem exec_scatterCommit {gr : Group} {s1 s2 : Dev} {rows : List (List Byte)} (hgr : d.group r.group = some gr)
    (hst : r.stage = .scattered) (hok : d.ctrBad (blkF r.blk 40 8) = none)
    (hread : Dev.readSpans g ((List.range (rpTokens c.desc)).map r.actRow) d = (s1, some rows))
    (hwrite : Dev.writeSpans g (r.scatterSpans s1.coord g gr (rpTokens c.desc) rows) s1 = (s2, true)) :
    exec (.scatterCommit g) ⟨q, d⟩ = .next ⟨q, ((((s2.ctrAdd (blkF r.blk 40 8) 1).bump Reg.PST_CNT_ROWSENT
      (r.list.filter fun y => r.sent y.1).length).setRoute g fun r => { r with stage := .combine }).combineProgress g)⟩ := by
  have h2 : d.StaysCalm False s2 := (((Dev.StaysCalm.refl d).readSpans _).of_fst hread).writeSpans.of_fst hwrite
  refine State.unit_of_staysCalm q ha hc ?_ h2.ctrAdd.bump.setRoute.combineProgress
  simp [hcmd, hr, hgr, hst, hok, hread, hwrite]

end
end

/-- Settles O24, an event at a time: each takes the branch that its hypotheses name, and on a device of which no access has to wait
that branch is not held up. -/
theorem routingPassStages : Obligations.RoutingPassStages := by
  unfold Obligations.RoutingPassStages
  intro q d ha hc
  refine ⟨?_, ?_, ?_, ?_, ?_, ?_⟩
  · intro src l gid s1 s2 gr blk hop hgid hbad hgr hblk hab hnew hgr2
    exact exec_routepass_armed ha hc hop hgid hbad hgr hblk hab hnew hgr2
  · intro src l gid s1 s2 r hop hgid hbad hs2
    exact ⟨exec_routepass_refused_noGroup ha hc hop hgid hbad hs2,
      fun gr => exec_routepass_refused_formed ha hc hop hgid hbad hs2⟩
  · intro g r hr hst hadr hok hle
    exact exec_routepassWaitSatisfied_reached ha hc hr hst hadr hok hle
  · intro p c r i hsh hcmd hr hi
    exact ⟨exec_postilionShareDispatch_more ha hc hsh hcmd hr hi,
      fun s1 hst hlast => exec_postilionShareDispatch_scored ha hc hsh hcmd hr hlast hst,
      fun hst hlast => exec_postilionShareDispatch_counted ha hc hsh hcmd hr hlast hst,
      fun hst hlast => exec_postilionShareDispatch_scattered ha hc hsh hcmd hr hlast hst⟩
  · intro g c r m hcmd hr hred
    refine ⟨fun ord => exec_routeReductionComplete_early ha hc hcmd hr hred, fun s1 x s2 hready hres hs2 => ⟨?_, ?_, ?_, ?_⟩⟩
    · exact exec_routeReductionComplete_digest ha hc hcmd hr hred hready hres hs2
    · exact exec_routeReductionComplete_window ha hc hcmd hr hred hready hres hs2
    · exact exec_routeReductionComplete_count ha hc hcmd hr hred hready hres hs2
    · exact exec_routeReductionComplete_tie ha hc hcmd hr hred hready hres hs2
  · intro g c r gr s1 rows s2 hcmd hr hgr hst hok hread hwrite
    exact exec_scatterCommit ha hc hcmd hr hgr hst hok hread hwrite

end Sys2Proof.Machine
end

section
/-! The statement about updates of the Waybill (03_dispatch_and_combine.md): the write of a register whose bits from 0 up to a
width are all RW, then each command of the block. -/
namespace Sys2Proof.Machine

-- The short theorems below are elaborated one after another: side by side, their threads' stacks exceed the memory of the check.
set_option Elab.async false

/-! ### A register whose low bits are RW -/

section
variable {d : Dev}

theorem Dev.OnlyRegs.refl (d : Dev) (ks : List Nat) : d.OnlyRegs d ks := ⟨rfl, fun _ _ => rfl⟩

theorem Dev.OnlyRegs.setReg (d : Dev) (off v : Nat) : d.OnlyRegs (d.setReg off v) [off] :=
  ⟨rfl, fun _ hk => Dev.reg_setReg_ne d v (by simpa using hk)⟩

/-- The RW bits of a register take the bits of the value written. -/
theorem mergeWrite_mod {r : RegRow} {w : Nat} (hrw : r.rw = 2 ^ w - 1) (old v : Nat) :
    mergeWrite r .host old v % 2 ^ w = v % 2 ^ w := by
  refine Nat.eq_of_testBit_eq fun i => ?_
  by_cases hi : i < w <;> simp [mergeWrite, hrw, Nat.testBit_mod_two_pow, hi]

/-- The host writes a register that has no GW field, and leaves no reserved encoding in it: its bits become those of the value
where they are RW, and nothing else changes (R15). -/
theorem Dev.regWrite_rw {off w v : Nat} {r : RegRow} (hoff : 0x100000 ≤ off) (hrow : findRow off = some r)
    (hrw : r.rw = 2 ^ w - 1) (hw : w ≤ 64) (hgw : r.gw = 0) (hok : ∀ x, regReserved d.express off x = false) :
    d.OnlyRegs (d.regWrite .host off v) [off] ∧ (d.regWrite .host off v).fld off 0 w = v % 2 ^ w := by
  have hold : d.gwShown off = d.reg off := if_neg (by omega)
  have hput : ∀ x, d.putReg off x = d.setReg off x := fun x => by
    have h1 : off ≠ Reg.GRD_FENCECNT := by unfold Reg.GRD_FENCECNT; omega
    have h2 : ¬ off < 0x100000 := by omega
    simp [Dev.putReg, h1, h2]
  have hnew : ∀ x, bits (mergeWrite r .host x v) 0 w = v % 2 ^ w := fun x => by
    simpa [bits] using mergeWrite_mod hrw x v
  have heq : d.regWrite .host off v = if mergeWrite r .host (d.reg off) v = d.reg off then d
      else d.setReg off (mergeWrite r .host (d.reg off) v) := by
    simp [Dev.regWrite, hrow, hold, hok, hgw, hput]
  rw [heq]
  split
  · next hsame => exact ⟨.refl d _, (congrArg (bits · 0 w) hsame.symm).trans (hnew _)⟩
  · exact ⟨.setReg d _ _, (Dev.fld_setReg_same d _ _ (by omega)).trans (hnew _)⟩

end

/-! ### The commands of the block -/

/-- On a working device a command is what its effect is. -/
theorem State.upd_of_alive {d t : Dev} {f : Dev → Dev} (q : List Instr) (ha : d.alive = true) (hf : f d = t) :
    (State.mk q d).upd f = .next ⟨q, t⟩ := by
  rw [State.upd_alive ha, hf]

section
variable {q : List Instr} {d : Dev} (ha : d.alive = true)
include ha

section
variable (hgo : d.flag Reg.WYB_UPDGO 0 = false)
include hgo

theorem exec_waybillUpdateDone_idle : exec .waybillUpdateDone ⟨q, d⟩ = .next ⟨q, d⟩ := by
  refine (State.upd_of_alive q ha ?_ : execWaybillUpdateDone ⟨q, d⟩ = _)
  simp [hgo]

/-- WYB_UPDIDX and WYB_UPDDATA take a write by the access tags of their fields while no update runs (R126). -/
theorem exec_waybillRegWrite_idle {off : Nat} (v : Word32)
    (hoff : off = Reg.WYB_UPDIDX ∨ ∃ k < 4, off = Reg.WYB_UPDDATA k) :
    exec (.waybillRegWrite off v) ⟨q, d⟩ = .next ⟨q, d.regWrite .host off v.toNat⟩ := by
  have hmine : (off = Reg.WYB_UPDIDX || (List.range 4).any fun k => off == Reg.WYB_UPDDATA k) = true := by
    simpa using hoff
  refine (State.upd_of_alive q ha ?_ : execWaybillRegWrite off v ⟨q, d⟩ = _)
  simp only [hgo, hmine, Bool.false_eq_true, ↓reduceIte]

theorem exec_waybillRegWrite_index (v : Word32) : ∃ t, exec (.waybillRegWrite Reg.WYB_UPDIDX v) ⟨q, d⟩ = .next ⟨q, t⟩
    ∧ d.OnlyRegs t [Reg.WYB_UPDIDX] ∧ t.fld Reg.WYB_UPDIDX 0 20 = v.toNat % 2 ^ 20 :=
  ⟨_, exec_waybillRegWrite_idle ha hgo v (.inl rfl), Dev.regWrite_rw (by decide) rfl (by decide) (by decide) rfl fun _ => rfl⟩

theorem exec_waybillRegWrite_data (v : Word32) {k : Nat} (hk : k < 4) :
    ∃ t, exec (.waybillRegWrite (Reg.WYB_UPDDATA k) v) ⟨q, d⟩ = .next ⟨q, t⟩
      ∧ d.OnlyRegs t [Reg.WYB_UPDDATA k] ∧ t.fld (Reg.WYB_UPDDATA k) 0 32 = v.toNat := by
  have hrow : ∀ k < 4, findRow (Reg.WYB_UPDDATA k)
      = some ⟨0x600020, [(4, 0x4)], 32, 0xffffffff, 0x0, 0x0, 0x0, 0x0⟩ := by decide
  have hok : ∀ k < 4, ∀ x, regReserved d.express (Reg.WYB_UPDDATA k) x = false := fun k hk x => by
    interval_cases k <;> rfl
  have hoff : 0x100000 ≤ Reg.WYB_UPDDATA k := by unfold Reg.WYB_UPDDATA; omega
  obtain ⟨honly, hfld⟩ := Dev.regWrite_rw (v := v.toNat) (w := 32) hoff (hrow k hk) rfl (by decide) rfl (hok k hk)
  exact ⟨_, exec_waybillRegWrite_idle ha hgo v (.inr ⟨k, hk, rfl⟩), honly, hfld.trans (Nat.mod_eq_of_lt v.isLt)⟩

end

section
variable (hgo : d.flag Reg.WYB_UPDGO 0 = true)
include hgo

theorem exec_waybillRegWrite_busy (off : Nat) (v : Word32) : exec (.waybillRegWrite off v) ⟨q, d⟩ = .next ⟨q, d⟩ := by
  refine (State.upd_of_alive q ha ?_ : execWaybillRegWrite off v ⟨q, d⟩ = _)
  simp [hgo]

variable {i e : Nat} (hi : i = d.fld Reg.WYB_UPDIDX 0 20)
  (he : e = ((List.range 4).map fun k => d.fld (Reg.WYB_UPDDATA k) 0 32 * 2 ^ (32 * k)).sum)
include hi he

/-- The end of an update that runs, by its test (R92). -/
theorem exec_waybillUpdateDone_go : exec .waybillUpdateDone ⟨q, d⟩ = .next ⟨q,
    if bits e 115 2 = 3 || !inCH (d.reg Reg.WYB_BASE + 16 * i) 16 then
      (d.setFlag Reg.WYB_UPDGO 0 false).record clsROUTE 0x012 i 0 blkWYB 0
    else ((d.setFlag Reg.WYB_UPDGO 0 false).wrNum (chAddr (d.reg Reg.WYB_BASE + 16 * i)) 16 e).bump Reg.WYB_CNT_UPD 1⟩ := by
  refine (State.upd_of_alive q ha ?_ : execWaybillUpdateDone ⟨q, d⟩ = _)
  subst hi he
  simp only [hgo, Bool.not_true, Bool.false_eq_true, ↓reduceIte]

theorem exec_waybillUpdateDone_valid (hst : bits e 115 2 ≠ 3) (hch : inCH (d.reg Reg.WYB_BASE + 16 * i) 16 = true) :
    exec .waybillUpdateDone ⟨q, d⟩ = .next ⟨q,
      ((d.setFlag Reg.WYB_UPDGO 0 false).wrNum (chAddr (d.reg Reg.WYB_BASE + 16 * i)) 16 e).bump Reg.WYB_CNT_UPD 1⟩ := by
  rw [exec_waybillUpdateDone_go ha hgo hi he, if_neg (by simp [hst, hch])]

theorem exec_waybillUpdateDone_refused (h : bits e 115 2 = 3 ∨ inCH (d.reg Reg.WYB_BASE + 16 * i) 16 = false) :
    exec .waybillUpdateDone ⟨q, d⟩ = .next ⟨q, (d.setFlag Reg.WYB_UPDGO 0 false).record clsROUTE 0x012 i 0 blkWYB 0⟩ := by
  rw [exec_waybillUpdateDone_go ha hgo hi he, if_pos (by simpa using h)]

end
end

/-- Settles O25, a command at a time: while no update runs the two registers are plain RW ones, and the end of one that runs is
decided by the test of its entry. -/
theorem waybillRows : Obligations.WaybillRows := by
  unfold Obligations.WaybillRows
  intro q d i e ha hi he
  refine ⟨(State.upd_of_alive q ha rfl : execWaybillUpdate ⟨q, d⟩ = _),
    (State.upd_of_alive q ha rfl : execCqhwmClear ⟨q, d⟩ = _), fun hgo => ⟨?_, ?_, ?_⟩, fun hgo => ⟨?_, ?_, ?_⟩⟩
  · exact exec_waybillUpdateDone_idle ha hgo
  · exact exec_waybillRegWrite_index ha hgo
  · exact fun v k hk => exec_waybillRegWrite_data ha hgo v hk
  · exact exec_waybillRegWrite_busy ha hgo
  · exact exec_waybillUpdateDone_valid ha hgo hi he
  · exact exec_waybillUpdateDone_refused ha hgo hi he

end Sys2Proof.Machine
end

section
/-! Exchanges of rows (03_dispatch_and_combine.md): what each of their operations does on a device of which no access has to wait,
one rule per operation of the model, as `Dev.StaysCalm` has them for the rest. -/
namespace Sys2Proof.Machine

-- The short theorems below are elaborated one after another: side by side, their threads' stacks exceed the memory of the check.
set_option Elab.async false

namespace Dev.StaysCalm
variable {same : Prop} {s t u : Dev}

theorem foldlFst {α β : Type} {f : Dev × β → α → Dev × β} {l : List α} {p : Dev × β} (h : s.StaysCalm same p.1)
    (hf : ∀ {p a}, s.StaysCalm same p.1 → s.StaysCalm same (f p a).1) : s.StaysCalm same (l.foldl f p).1 := by
  induction l generalizing p with
  | nil => exact h
  | cons a l ih => exact ih (hf h)

theorem setExch {g : Nat} {f : ExchRun → ExchRun} (h : s.StaysCalm same t) : s.StaysCalm same (t.setExch g f) :=
  h.updCmd fun c => by unfold Cmd.head; split <;> simp [*, CmdBody.ties]

theorem updLanded {g : Nat} {f : Landed → Landed} (h : s.StaysCalm same t) : s.StaysCalm same (t.updLanded g f) := h.frame

/-! ### Slots -/

theorem slotEntry {r : ExchRun} {phys : Nat} (h : s.StaysCalm same t) : s.StaysCalm same (t.slotEntry r phys).1 := by
  unfold Dev.slotEntry
  split <;> exact h.unitRead.of_fst ‹_›

theorem fixSlots {g : Nat} {r : ExchRun} {named : List (Nat × Nat)} (h : s.StaysCalm same t) :
    s.StaysCalm same (t.fixSlots g r named).1 := by
  refine foldlFst (β := List LSlot × List (Nat × Nat)) h fun h => ?_
  dsimp only
  refine iteFst h ?_
  split
  · exact h.slotEntry.of_fst ‹_›
  · exact iteFst (h.slotEntry.of_fst ‹_›) (h.slotEntry.of_fst ‹_›)

theorem slotCommit {g : Nat} {r : ExchRun} {x : LSlot} (h : s.StaysCalm same t) : s.StaysCalm same (t.slotCommit g r x).1 :=
  iteFst h.ctrFault h.wrNum.ctrAdd.updLanded

theorem slotsCommit {g : Nat} {r : ExchRun} (xs : List LSlot) (h : s.StaysCalm same t) :
    s.StaysCalm same (Dev.slotsCommit g r xs t).1 := by
  induction xs generalizing t with
  | nil => exact h
  | cons x xs ih => exact iteFst (iteFst (ih h.slotCommit) h.slotCommit) (ih h)

theorem settleSlots {g : Nat} {r : ExchRun} (h : s.StaysCalm same t) : s.StaysCalm same (t.settleSlots g r).1 := by
  unfold Dev.settleSlots
  split
  · exact h.slotsCommit _
  · exact h

/-! ### Progress -/

theorem exchProgress {g : Nat} (h : s.StaysCalm False t) : s.StaysCalm False (t.exchProgress g) := by
  unfold Dev.exchProgress
  split
  · refine ite ?gate (ite (ctrFault ?gate).groupFault (ite (ctrFault ?gate).groupFault ?_))
    · exact iteFst h h.outGate
    exact ite (frame (commit (ctrAdd (freePlaces (closeX ?gate))))) (updLanded (commit (ctrAdd (freePlaces (closeX ?gate)))))
  · exact h

theorem fwdSegment {g send rank : Nat} (h : s.StaysCalm same t) : s.StaysCalm same (t.fwdSegment g send rank).1 := by
  unfold Dev.fwdSegment
  split
  · exact h.cmdRead.of_fst ‹_›
  · next heq =>
      have h1 := h.cmdRead.of_fst heq
      refine iteFst h1 ?_
      split <;> exact h1.cmdRead.of_fst ‹_›

theorem sendGranted {g step phase : Nat} (h : s.StaysCalm same t) : s.StaysCalm same (t.sendGranted g step phase).1 := by
  unfold Dev.sendGranted
  split
  · exact h
  · split
    · exact h
    · refine iteFst (h.putChunks _) (putChunks _ (updX (h.each fun h => ?_)))
      split
      · exact h.wrBytes
      · exact h

theorem sendWaiting {g : Nat} (ys : List SendStep) (h : s.StaysCalm same t) : s.StaysCalm same (Dev.sendWaiting g ys t).1 := by
  induction ys generalizing t with
  | nil => exact h
  | cons y ys ih => exact iteFst (iteFst (ih h.sendGranted) h.sendGranted) (ih h)

/-! ### Rows -/

theorem rowReason {g : Nat} {r : ExchRun} {l : Landed} {phys version row : Nat} (h : s.StaysCalm same t) :
    s.StaysCalm same (t.rowReason g r l phys version row).1 := by
  unfold Dev.rowReason
  refine iteFst h ?_
  split
  · exact h
  · refine iteFst h ?_
    split <;> exact h.slotEntry.of_fst ‹_›

theorem unpackRow {g coord : Nat} {r : ExchRun} {rec : List Byte} (h : s.StaysCalm same t) :
    s.StaysCalm same (t.unpackRow g coord r rec).1 := by
  unfold Dev.unpackRow
  split
  · exact h
  · have h1 {l : Landed} {phys version row : Nat} : s.StaysCalm same (t.rowReason g r l phys version row).1 := h.rowReason
    dsimp only
    split
    · exact h1.writeSpans.bump.updLanded
    · refine updLanded (updLanded (ite (setExch (record ?rejected)) ?rejected))
      refine bump (bump ?_)
      split
      · exact iteFst h1.cmdWrite h1
      · exact h1

theorem unpackRows {g coord : Nat} {r : ExchRun} (xs : List (List Byte)) (h : s.StaysCalm same t) :
    s.StaysCalm same (Dev.unpackRows g coord r xs t).1 := by
  induction xs generalizing t with
  | nil => exact h
  | cons x xs ih => exact iteFst (ih h.unpackRow) h.unpackRow

theorem combineRecord {comb : Nat} {rec : List Byte} (h : s.StaysCalm False t) : s.StaysCalm False (t.combineRecord comb rec) := by
  unfold Dev.combineRecord
  split
  · exact h.bump
  · refine ite h.bump ?_
    dsimp only
    split
    · exact ite h.bump h.bump.record.setRoute
    · refine ite (ite h.bump h.bump.record.setRoute) (ite (groupFault ?row) (combineProgress (setRoute (bump ?row))))
      refine iteFst h (iteFst h.cmdWrite ?_)
      split
      · exact iteFst (by split <;> exact h.cmdRead.of_fst ‹_›) h.accStart
      · exact cmdWrite (iteFst (by split <;> exact h.cmdRead.of_fst ‹_›) h.accStart)

end Dev.StaysCalm
end Sys2Proof.Machine
end

section
/-! The statement about exchanges of rows (03_dispatch_and_combine.md), an event at a time. -/
namespace Sys2Proof.Machine

-- The short theorems below are elaborated one after another: side by side, their threads' stacks exceed the memory of the check.
set_option Elab.async false

theorem updFirst_same {α : Type} {p : α → Bool} {f : α → α} (h : ∀ x, f x = x) (l : List α) : updFirst p f l = l := by
  simpa using map_updFirst (f := id) (p := p) h l

section
variable {d : Dev}

theorem Dev.updGroup_same {gid : Nat} {f : Group → Group} (h : ∀ x, f x = x) : d.updGroup gid f = d := by
  unfold Dev.updGroup
  rw [updFirst_same h]

/-- No combine area of a pass in hand is `comb`. -/
theorem Dev.combPass_eq_none {comb : Nat} (h : ∀ c r, c ∈ d.cmds → c.body = .route r → blkF r.blk 16 8 ≠ comb) :
    d.combPass comb = none := by
  refine List.findSome?_eq_none_iff.2 fun c hc => ?_
  split
  · next r hr => exact if_neg (h c r hc hr)
  · rfl

/-- A record of no armed pass only counts. -/
theorem Dev.combineRecord_stale {comb : Nat} {rec : List Byte}
    (h : ∀ c r, c ∈ d.cmds → c.body = .route r → blkF r.blk 16 8 ≠ comb) :
    d.combineRecord comb rec = d.bump Reg.PST_CNT_STALEGEN 1 := by
  unfold Dev.combineRecord
  rw [Dev.combPass_eq_none h]

end

/-! ### The arm of an exchange -/

/-- The device right after the arm of an exchange: its number is taken, its Postilions are awake. -/
def Dev.exchArmed (s : Dev) (src : Source) (l : Line) (r : ExchRun) : Dev :=
  ((s.takeSeq r.x.gid r.x.stream).arm src l 0 [] [] (.exch r)).1.postsWake

section
variable {d : Dev} {src : Source} {l : Line} {r : ExchRun}

theorem Dev.exchArmed_genNext : (d.exchArmed src l r).genNext = d.nextGen + 1 := by
  obtain ⟨-, -, hgen, -⟩ := (d.takeSeq r.x.gid r.x.stream).arm_eq src l 0 [] [] (.exch r)
  exact (Dev.postsWake_genNext _).trans hgen

theorem Dev.exchArmed_cmds : (d.exchArmed src l r).cmds = d.cmds ++ [⟨d.nextGen, src, l, 0, [], [], none, .exch r⟩] := by
  obtain ⟨-, hcmds, -, -⟩ := (d.takeSeq r.x.gid r.x.stream).arm_eq src l 0 [] [] (.exch r)
  exact (Dev.postsWake_cmds _).trans hcmds

theorem Dev.exchArmed_group {gr : Group} (h : d.group r.x.gid = some gr) : (d.exchArmed src l r).group r.x.gid
    = some { gr with seqs := gr.seqs.set r.x.stream (nth gr.seqs r.x.stream 0 + 1) } := by
  obtain ⟨-, -, -, heq⟩ := (d.takeSeq r.x.gid r.x.stream).arm_eq src l 0 [] [] (.exch r)
  have hcol : (d.exchArmed src l r).col = (d.takeSeq r.x.gid r.x.stream).col := by
    unfold Dev.exchArmed
    rw [Dev.postsWake_col, heq]
  unfold Dev.group
  rw [hcol]
  exact Dev.group_updGroup h rfl

/-- An exchange for whose group nothing is held in advance takes its number and its place, and nothing more. -/
theorem Dev.exchTake_of_slots_nil {gr : Group} {stalls : Nat} (hs : gr.slots = []) (hr : r = d.exchRun l gr stalls) :
    d.exchTake src l gr stalls = d.exchArmed src l r := by
  have hgid : r.x.gid = gr.gid := by rw [hr]; rfl
  unfold Dev.exchTake Dev.abortArmed heldAbort Dev.exchArmed
  simp only [← hr, hgid, hs, List.find?_nil, List.filter_nil, Option.map_none, Bool.false_eq_true, ↓reduceIte]
  exact Dev.updGroup_same fun x => by simp

end

section
variable {q : List Instr} {d : Dev} (ha : d.alive = true) (hc : d.calm = true)
include ha hc

section
variable {src : Source} {l : Line} (hop : dOp l = 0x0201) (hhead : d.headCheck l = none)
include hop

theorem exec_exchange {t : Dev} (h : d.exchArm src l 0 = t) (ht : d.StaysCalm False t) :
    exec (.exchange src l) ⟨q, d⟩ = .next ⟨q, t⟩ :=
  State.unit_of_staysCalm q ha hc ((if_pos hop).trans h) ht

include hhead

theorem exec_exchange_armed {gr : Group} {r : ExchRun} {st : Nat} (hbad : d.exchBad l = none)
    (hgr : d.group (xpGroup l) = some gr) (hf : gr.state = gFORMED) (hheld : d.groupHeld gr.gid < 64) (hs : gr.slots = [])
    (hr : r = d.exchRun l gr 0) (hst : st = if xpBack l then 3 else 2) :
    ∃ t c, exec (.exchange src l) ⟨q, d⟩ = .next ⟨q, t⟩ ∧ c ∈ t.cmds ∧ c.gen = d.nextGen ∧ c.desc = l ∧ c.src = src
      ∧ c.body = .exch r ∧ r.x.gid = gr.gid ∧ r.x.stream = st ∧ r.x.xid = xpXid l ∧ r.x.active = false ∧ r.back = xpBack l
      ∧ t.group gr.gid = some { gr with seqs := gr.seqs.set st (nth gr.seqs st 0 + 1) } ∧ t.genNext = d.nextGen + 1 := by
  obtain ⟨hxg, hxs, hxx, hxa, hxb⟩ : r.x.gid = gr.gid ∧ r.x.stream = st ∧ r.x.xid = xpXid l ∧ r.x.active = false
      ∧ r.back = xpBack l := by subst hr hst; exact ⟨rfl, rfl, rfl, rfl, rfl⟩
  have hgid : gr.gid = xpGroup l := Dev.group_gid hgr
  have harm : d.exchArm src l 0 = d.exchArmed src l r := by
    unfold Dev.exchArm
    simp only [hhead, hbad, hgr, hf, Nat.not_le.2 (hgid ▸ hheld), ne_eq, not_true_eq_false, ↓reduceIte]
    exact Dev.exchTake_of_slots_nil hs hr
  have hgroup : (d.exchArmed src l r).group gr.gid = some { gr with seqs := gr.seqs.set st (nth gr.seqs st 0 + 1) } := by
    have h := Dev.exchArmed_group (src := src) (l := l) (r := r) (gr := gr) (by rw [hxg, hgid, hgr])
    rwa [hxg, hxs] at h
  exact ⟨_, ⟨d.nextGen, src, l, 0, [], [], none, .exch r⟩,
    exec_exchange ha hc hop harm (Dev.StaysCalm.refl d).takeSeq.arm.postsWake, by simp [Dev.exchArmed_cmds], rfl, rfl, rfl, rfl,
    hxg, hxs, hxx, hxa, hxb, hgroup, Dev.exchArmed_genNext⟩

section
variable {k : Nat} {s1 : Dev} (hbad : d.exchBad l = some k) (hs1 : s1 = d.refuse src l ⟨clsROUTE, 0x00E, k⟩)
include hbad hs1

theorem exec_exchange_refused {t : Dev} (h : d.groupRefuse src l (xpGroup l) (if xpBack l then 3 else 2) (xpXid l)
    ⟨clsROUTE, 0x00E, k⟩ = t) (ht : s1.StaysCalm False t) : exec (.exchange src l) ⟨q, d⟩ = .next ⟨q, t⟩ := by
  subst hs1
  refine exec_exchange ha hc hop ?_ ((Dev.StaysCalm.refl d).refuse.andThen fun _ => ht)
  unfold Dev.exchArm
  simp only [hhead, hbad, h]

theorem exec_exchange_refused_noGroup (hgr : s1.group (xpGroup l) = none) :
    exec (.exchange src l) ⟨q, d⟩ = .next ⟨q, s1⟩ := by
  refine exec_exchange_refused ha hc hop hhead hbad hs1 ?_ (.refl s1)
  unfold Dev.groupRefuse
  rw [← hs1]
  simp only [hgr]

theorem exec_exchange_refused_formed {gr : Group} {st : Nat} (hgr : s1.group (xpGroup l) = some gr) (hf : gr.state = gFORMED)
    (hst : st = if xpBack l then 3 else 2) : exec (.exchange src l) ⟨q, d⟩
      = .next ⟨q, (s1.takeSeq (xpGroup l) st).sendAborts gr st (xpXid l) 1⟩ := by
  have hst2 : ¬ st < 2 := by rw [hst]; split <;> omega
  refine exec_exchange_refused ha hc hop hhead hbad hs1 ?_ (Dev.StaysCalm.refl s1).takeSeq.sendAborts
  unfold Dev.groupRefuse
  rw [← hs1, ← hst]
  simp only [hgr, hf, hst2, ↓reduceIte]

end
end

/-! ### Steps of an exchange -/

section
variable {g : Nat} {r : ExchRun} (hr : d.exchOf g = some r)
include hr

theorem exec_exchangeFixSlots_named {c : Cmd} {e sc : Nat} {s1 s2 s3 : Dev} {sn ct : List Byte} {slots : List LSlot}
    {failed : List (Nat × Nat)} (hfirst : d.cmds.head? = some c) (hg : c.gen = g) (htab : r.table = some (e, sc))
    (hb : r.back = false) (hact : r.x.active = false)
    (hread : Dev.readSpans g [(sc + 4 * e, 16 * (e + 1)), (sc + 20 * e + 16, 32 * (e + 1))] d = (s1, some [sn, ct]))
    (hfix : s1.fixSlots g r (namedSlots s1.coord r.sbias ((List.range (e + 1)).map (elemAt sn 16))
      ((List.range (4 * (e + 1))).map fun i => elemAt ct 4 (2 * i + 1))) = (s2, slots, failed))
    (hset : ((Dev.updX { s2 with landed := s2.landed ++ [⟨g, r.x.gid, r.x.xid, r.pass, r.comb, slots, failed, [], false⟩] } g
      fun x => { x with active := true }).updCmd g fun c => { c with writes := c.writes ++ (slots.flatMap fun x =>
        [(jobKey x.inA, x.rowsMax * up64 r.xbytes), (jobKey x.tagA, x.rowsMax * 32)]).filter fun y => y.2 != 0 }).settleSlots g r
      = (s3, true)) : exec (.exchangeFixSlots g) ⟨q, d⟩ = .next ⟨q, s3.exchProgress g⟩ := by
  have hearlier : d.cmds.takeWhile (fun c => c.gen != g) = [] := by
    obtain ⟨cs, hcs⟩ := List.head?_eq_some_iff.1 hfirst
    simp [hcs, hg]
  have h2 : d.StaysCalm False s2 := ((Dev.StaysCalm.refl d).readSpans _).of_fst hread |>.fixSlots.of_fst hfix
  have h3 : d.StaysCalm False s3 := (h2.frame (u := { s2 with landed := _ })).updX.updCmd.settleSlots.of_fst hset
  refine State.unit_of_staysCalm q ha hc ?_ h3.exchProgress
  simp [hr, htab, hb, hact, hearlier, hread, hfix, hset]

theorem exec_returnExchangeStart_committed (hb : r.back = true) (hact : r.x.active = false)
    (hl : d.landed.any (fun l => l.gid == r.x.gid && l.xid == r.fwd && l.done) = true) :
    exec (.returnExchangeStart g) ⟨q, d⟩ = .next ⟨q, d.updX g fun x => { x with active := true }⟩ := by
  refine State.unit_of_staysCalm q ha hc ?_ (Dev.StaysCalm.refl d).updX
  simp only [hr, hb, hact, hl, Bool.not_false, Bool.and_true, ↓reduceIte]

theorem exec_exchangeStepStart_next {c : Cmd} {a at_ n : Nat} {s1 s2 s3 : Dev} {y : SendStep} (hcmd : d.cmd g = some c)
    (hb : r.back = false) (hact : r.x.active = true) (hadr : a = xpWait c.desc)
    (hwait : r.x.sends.any (·.begun) = true ∨ d.ctrBad a = none ∧ (a = 0 ∨ xpTarget c.desc ≤ d.ctr a))
    (hsend : Dev.sendWaiting g r.x.sends d = (s1, true)) (hy : (r.x.sends.find? fun y => !y.begun) = some y)
    (hlim : y.step < r.x.limit 0) (hseg : s1.fwdSegment g r.send y.peer = (s2, some (at_, n)))
    (hbegin : (s2.updX g fun x => x.updSend y.step 0 fun z => { z with src := .slots at_, len := n }).beginStep g y.step 0
      = (s3, true)) : exec (.exchangeStepStart g) ⟨q, d⟩ = .next ⟨q, s3.exchProgress g⟩ := by
  have h2 : d.StaysCalm False s2 := (((Dev.StaysCalm.refl d).sendWaiting _).of_fst hsend).fwdSegment.of_fst hseg
  have h3 : d.StaysCalm False s3 := h2.updX.beginStep.of_fst hbegin
  have hctr : (!r.x.sends.any (·.begun) && (d.ctrBad a).isSome) = false := by
    obtain h | ⟨h, -⟩ := hwait <;> simp [h]
  have htarget : ((!r.x.sends.any (·.begun)) && decide (a ≠ 0) && decide (d.ctr a < xpTarget c.desc)) = false := by
    obtain h | ⟨-, h | h⟩ := hwait <;> simp [h]
  refine State.unit_of_staysCalm q ha hc ?_ h3.exchProgress
  subst hadr
  simp only [hcmd, hr, hact, hctr, htarget, hsend, hy, Nat.not_le.2 hlim, hb, hseg, hbegin, Bool.not_true, Bool.false_eq_true,
    ↓reduceIte]

theorem exec_unpackSegment_landed {rank : Nat} {y : RecvStep} {gr : Group} {s1 s2 : Dev}
    (hy : (r.x.recvs.find? fun y => y.peer == rank) = some y) (hgr : d.group r.x.gid = some gr) (hb : r.back = false)
    (hact : r.x.active = true) (hdone : y.done = true) (hnew : rank ∉ r.unpacked)
    (hturn : d.mayWork g (d.unpackPost r.x rank) = true)
    (hrows : Dev.unpackRows g (gr.coordOf rank) r (recordsOf r.recSize (d.segBytes y)) d = (s1, true))
    (hset : ((s1.freePlaces 1 y.places).setExch g fun r => { r with
      unpacked := r.unpacked ++ [rank]
      x := r.x.updRecv y.step 0 fun z => { z with places := [] } }).settleSlots g r = (s2, true)) :
    exec (.unpackSegment g rank) ⟨q, d⟩ = .next ⟨q, s2.exchProgress g⟩ := by
  have h1 : d.StaysCalm False s1 := ((Dev.StaysCalm.refl d).unpackRows _).of_fst hrows
  have h2 : d.StaysCalm False s2 := h1.freePlaces.setExch.settleSlots.of_fst hset
  refine State.unit_of_staysCalm q ha hc ?_ h2.exchProgress
  simp [hr, hturn, Dev.unpackSegment, hy, hgr, hb, hact, hdone, hnew, hrows, hset]

end

theorem exec_combineReturnRecord_last {x rank i g p : Nat} {r : ExchRun} {y : RecvStep} {recs : List (List Byte)}
    {z : Nat × ExchRun × Nat × Nat × List Byte}
    (hz : d.unread.find? (fun z => z.1 == x && z.2.2.1 == rank && z.2.2.2.1 == i) = some z)
    (hpost : d.recordPost x z.2.1 rank z.2.2.2.2 = (g, p)) (hturn : d.mayWork g p = true) (hr : d.exchOf x = some r)
    (hy : (r.x.recvs.find? fun y => y.peer == rank) = some y) (hb : r.back = true) (hdone : y.done = true)
    (hseg : rank ∉ r.unpacked) (hrecs : recs = recordsOf r.recSize (d.segBytes y)) (hi : i < recs.length)
    (hnew : (rank, i) ∉ r.read) (hall : ∀ j, j < recs.length → (rank, j) ∈ r.read ++ [(rank, i)]) :
    exec (.combineReturnRecord x rank i) ⟨q, d⟩
      = .next ⟨q, (((d.combineRecord r.comb (nth recs i [])).freePlaces 1 y.places).setExch x fun z => { z with
          read := r.read ++ [(rank, i)]
          unpacked := z.unpacked ++ [rank]
          x := z.x.updRecv y.step 0 fun z => { z with places := [] } }).exchProgress x⟩ := by
  have hskip : (!r.back || !y.done || r.unpacked.contains rank || decide (recs.length ≤ i)
      || r.read.contains (rank, i)) = false := by
    simp [hb, hdone, hseg, hi, hnew]
  have hlast : (List.range recs.length).all (fun j => (r.read ++ [(rank, i)]).contains (rank, j)) = true := by
    simpa using hall
  refine State.unit_of_staysCalm q ha hc ?_ (Dev.StaysCalm.refl d).combineRecord.freePlaces.setExch.exchProgress
  rw [hz]
  dsimp only
  rw [hpost]
  simp only [hturn, Dev.combineAt, hr, hy, ← hrecs, hskip, hlast, Bool.false_eq_true, ↓reduceIte]

end

/-- Settles O26, an event at a time: each takes the branch that its hypotheses name, and on a device of which no access has to wait
that branch is not held up. -/
theorem exchanges : Obligations.Exchanges := by
  unfold Obligations.Exchanges
  intro q d ha hc
  refine ⟨?_, ?_, ?_, ?_, ?_, ?_, ?_, ?_⟩
  · intro src l gr r st hop hhead hbad hgr hf hheld hs hr hst
    exact exec_exchange_armed ha hc hop hhead hbad hgr hf hheld hs hr hst
  · intro src l k s1 hop hhead hbad hs1
    exact ⟨exec_exchange_refused_noGroup ha hc hop hhead hbad hs1,
      fun gr st => exec_exchange_refused_formed ha hc hop hhead hbad hs1⟩
  · intro g r c e sc s1 sn ct s2 slots failed s3 hr hfirst hg htab hb hact hread hfix hset
    exact exec_exchangeFixSlots_named ha hc hr hfirst hg htab hb hact hread hfix hset
  · intro g r hr hb hact hl
    exact exec_returnExchangeStart_committed ha hc hr hb hact hl
  · intro g c r a s1 y s2 at_ n s3 hcmd hr hb hact hadr hwait hsend hy hlim hseg hbegin
    exact exec_exchangeStepStart_next ha hc hr hcmd hb hact hadr hwait hsend hy hlim hseg hbegin
  · intro g r rank y gr s1 s2 hr hy hgr hb hact hdone hnew hturn hrows hset
    exact exec_unpackSegment_landed ha hc hr hy hgr hb hact hdone hnew hturn hrows hset
  · intro x r rank y recs i z g p hz hpost hturn hr hy hb hdone hseg hrecs hi hnew hall
    exact exec_combineReturnRecord_last ha hc hz hpost hturn hr hy hb hdone hseg hrecs hi hnew hall
  · intro comb rec h
    exact Dev.combineRecord_stale h

end Sys2Proof.Machine
end

section
/-! The statement about idle fill (04_coach_arithmetic.md): the registers after the two steps of which its events are made, the fill
that follows the duty and the end of a gap in clock gating, then each event. -/
namespace Sys2Proof.Machine

-- The short theorems below are elaborated one after another: side by side, their threads' stacks exceed the memory of the check.
set_option Elab.async false

/-- The registers of block CCH as a whole, and of the blocks below it, stand below those of its Coaches. -/
theorem ne_cstat {k : Nat} (n : Nat) (h : k < 0x401000) : k ≠ Reg.CCH_CSTAT n := by
  have : Reg.CCH_CSTAT n = 0x401000 + 0x40 * n := rfl
  omega

theorem Dev.cState_setCState (s : Dev) (n : Nat) {x : Nat} (h : x < 8) : (s.setCState n x).cState n = x :=
  (Dev.fld_setFld_same s _ x (by omega)).trans (Nat.mod_eq_of_lt h)

section
variable {d s : Dev} {ks : List Nat}

theorem Dev.RegsBut.refl (d : Dev) (ks : List Nat) : d.RegsBut d ks := fun _ _ => rfl

theorem Dev.RegsBut.of_regs {t : Dev} (h : d.RegsBut s ks) (e : t.regs = s.regs) : d.RegsBut t ks :=
  fun k hk => (Dev.reg_congr e k).trans (h k hk)

theorem Dev.RegsBut.setReg {off : Nat} (h : d.RegsBut s ks) (v : Nat) (hoff : off ∈ ks) : d.RegsBut (s.setReg off v) ks :=
  fun k hk => (Dev.reg_setReg_ne s v fun e : k = off => hk (e ▸ hoff)).trans (h k hk)

theorem Dev.RegsBut.setFld {off : Nat} (h : d.RegsBut s ks) (lo w v : Nat) (hoff : off ∈ ks) :
    d.RegsBut (s.setFld off lo w v) ks := h.setReg _ hoff

theorem Dev.RegsBut.setFlag {off : Nat} (h : d.RegsBut s ks) (i : Nat) (b : Bool) (hoff : off ∈ ks) :
    d.RegsBut (s.setFlag off i b) ks := h.setReg _ hoff

theorem Dev.coachOn_lt {n : Nat} (h : d.coachOn n = true) : n < 64 := by
  simp only [Dev.coachOn, Bool.and_eq_true, decide_eq_true_eq] at h
  exact h.1

end

/-! ### Fill by the duty (R519) -/

section
variable (s : Dev) (n : Nat)

/-- Fill writes the arrays that run it, and enters its passes among those whose verdicts are due. -/
theorem Dev.fillDuty_eq : s.fillDuty n = (s.setFld (Reg.CCH_CSTAT n) 4 4 (if s.duty = 8 then 15 else 0)).setCch
    fun c => { c with out := (s.fillDuty n).cch.out } := by
  unfold Dev.fillDuty
  split
  · dsimp only
    split <;> rfl
  · rfl

variable {s n}

/-- At full duty the fill passes of a gap are entered, unless those of the gap before are still the Coach's last. -/
theorem Dev.fillDuty_out_full (hd : s.duty = 8)
    (h : ∀ p, (s.cch.out.filter fun p => p.coach == n).getLast? = some p → p.fill = false) :
    (s.fillDuty n).cch.out = s.cch.out ++ [⟨n, true, 0, 0, []⟩] := by
  unfold Dev.fillDuty
  rw [if_pos hd]
  dsimp only
  split
  · next heq => exact absurd (h _ heq) (by simp)
  · rfl

/-- Below full duty fill starts no pass. -/
theorem Dev.fillDuty_out_below (hd : s.duty ≠ 8) : (s.fillDuty n).cch.out = s.cch.out := by
  unfold Dev.fillDuty
  rw [if_neg hd]
  rfl

theorem Dev.fillDuty_regsBut : s.RegsBut (s.fillDuty n) [Reg.CCH_CSTAT n] := by
  rw [Dev.fillDuty_eq]
  exact (Dev.RegsBut.refl s _).setFld 4 4 _ (by simp)

theorem Dev.fillDuty_cState : (s.fillDuty n).cState n = s.cState n := by
  rw [Dev.fillDuty_eq]
  exact Dev.fld_setFld_below s _ _ (by omega) (by omega)

theorem Dev.fillDuty_arrays : (s.fillDuty n).fld (Reg.CCH_CSTAT n) 4 4 = if s.duty = 8 then 15 else 0 := by
  rw [Dev.fillDuty_eq]
  refine (Dev.fld_setFld_same s _ _ (by omega)).trans ?_
  split <;> rfl

end

/-! ### A gap begins in fill (R177) -/

/-- The device in which a gap of Coach n has begun in fill, before the duty decides what its arrays run. -/
def Dev.gapFilled (s : Dev) (n : Nat) : Dev :=
  (((s.setFlag Reg.CCH_BUSY n false).setFlag Reg.CCH_FILLMAP n true).setCState n csFILL).setCch fun c => { c with
    gaps := c.gaps ++ [(n, s.reg Reg.CCH_IDLEFILL, false)] }

section
variable {d : Dev} {n : Nat}

theorem Dev.gapBegin_of_fill (hen : d.flag Reg.CCH_IDLEFILL 0 = true) (hlen : d.fld Reg.CCH_IDLEFILL 4 12 ≠ 0) :
    d.gapBegin n = (d.gapFilled n).fillDuty n := by
  unfold Dev.gapBegin
  unfold Dev.flag at hen
  unfold Dev.fld at hlen
  simp only [hen, hlen, Bool.true_and, bne_iff_ne, ne_eq, not_false_eq_true, ↓reduceIte]
  rfl

theorem Dev.gapFilled_regsBut : d.RegsBut (d.gapFilled n) [Reg.CCH_FILLMAP, Reg.CCH_BUSY, Reg.CCH_CSTAT n] :=
  (((Dev.RegsBut.refl d _).setFlag n false (by simp)).setFlag n true (by simp)).setFld 0 3 csFILL (by simp)

theorem Dev.gapFilled_duty : (d.gapFilled n).duty = d.duty :=
  Dev.fld_congr (Dev.gapFilled_regsBut Reg.PWC_STAT (by simp [ne_cstat n (k := Reg.PWC_STAT) (by decide)])) 0 4

theorem Dev.gapFilled_cState : (d.gapFilled n).cState n = csFILL :=
  Dev.cState_setCState _ n (by decide : csFILL < 8)

section
variable (hn : n < 64)
include hn

theorem Dev.gapFilled_fillmap : (d.gapFilled n).flag Reg.CCH_FILLMAP n = true :=
  (Dev.flag_setFld_ne _ _ _ _ _ (ne_cstat n (by decide))).trans (Dev.flag_setFlag_same _ _ _ hn)

theorem Dev.gapFilled_busy : (d.gapFilled n).flag Reg.CCH_BUSY n = false :=
  (Dev.flag_setFld_ne _ _ _ _ _ (ne_cstat n (by decide))).trans
    ((Dev.flag_setFlag_ne _ _ _ _ (by decide)).trans (Dev.flag_setFlag_same _ _ _ hn))

end
end

/-! ### A gap ends in clock gating (R179) -/

/-- What the end of a gap does to the state of its Coach, its FILLMAP bit and the gaps, and to no other register. -/
theorem Dev.fillEnd_gated (d : Dev) {n : Nat} (hn : n < 64) : (d.fillEnd n).cState n = csCGATED
    ∧ (d.fillEnd n).flag Reg.CCH_FILLMAP n = false ∧ (d.fillEnd n).cch.gaps = d.cch.gaps.filter (fun x => x.1 != n)
    ∧ d.RegsBut (d.fillEnd n) [Reg.CCH_FILLMAP, Reg.CCH_CSTAT n] := by
  have hregs : (d.fillEnd n).regs
      = (((d.setFlag Reg.CCH_FILLMAP n false).setCState n csCGATED).setFld (Reg.CCH_CSTAT n) 4 4 0).regs := rfl
  refine ⟨?_, ?_, rfl, .of_regs (((Dev.RegsBut.refl d _).setFlag n false ?_ |>.setFld 0 3 csCGATED ?_).setFld 4 4 0 ?_) hregs⟩
  · exact (Dev.fld_congr (Dev.reg_congr hregs _) 0 3).trans
      ((Dev.fld_setFld_below _ _ _ (by omega) (by omega)).trans (Dev.cState_setCState _ n (by decide : csCGATED < 8)))
  · exact (Dev.flag_congr (Dev.reg_congr hregs _) n).trans ((Dev.flag_setFld_ne _ _ _ _ _ (ne_cstat n (by decide))).trans
      ((Dev.flag_setFld_ne _ _ _ _ _ (ne_cstat n (by decide))).trans (Dev.flag_setFlag_same _ _ _ hn)))
  all_goals simp

/-! ### The events -/

section
variable {q : List Instr} {d : Dev} {n : Nat} (ha : d.alive = true)
include ha

theorem exec_idleFillStart_fill (hon : d.coachOn n = true) (hrun : d.cState n = csRUN) (hready : d.readyPass n = none)
    (hen : d.flag Reg.CCH_IDLEFILL 0 = true) (hlen : d.fld Reg.CCH_IDLEFILL 4 12 ≠ 0) :
    exec (.idleFillStart n) ⟨q, d⟩ = .next ⟨q, (d.gapFilled n).fillDuty n⟩ := by
  refine (State.upd_of_alive q ha ?_ : execIdleFillStart n ⟨q, d⟩ = _)
  rw [← Dev.gapBegin_of_fill hen hlen]
  simp [hon, hrun, hready, hen, hlen]

theorem exec_fillRampDown_gap {v : Nat} (hgap : d.cch.gaps.find? (fun x => x.1 == n && !x.2.2) = some (n, v, false))
    (hready : d.readyPass n = none) : exec (.fillRampDown n) ⟨q, d⟩ = .next ⟨q, if bits v 16 8 = 0 then d.fillEnd n
      else d.setCch fun c => { c with gaps := updFirst (fun x => x.1 == n) (fun x => (x.1, x.2.1, true)) c.gaps }⟩ := by
  refine (State.upd_of_alive q ha ?_ : execFillRampDown n ⟨q, d⟩ = _)
  simp only [hgap, hready, Option.isSome_none, Bool.false_eq_true, ↓reduceIte]

theorem exec_fillRampEnd_ramp (hramp : (d.cch.gaps.any fun x => x.1 == n && x.2.2) = true) (hready : d.readyPass n = none) :
    exec (.fillRampEnd n) ⟨q, d⟩ = .next ⟨q, d.fillEnd n⟩ := by
  refine (State.upd_of_alive q ha ?_ : execFillRampEnd n ⟨q, d⟩ = _)
  simp only [hramp, hready, Option.isNone_none, Bool.and_self, ↓reduceIte]

end

/-- Settles O33, an event at a time: a gap begins in fill, and the duty decides what its arrays run; its end is that of the fill, at
once or after the ramp. -/
theorem idleFill : Obligations.IdleFill := by
  unfold Obligations.IdleFill
  intro q d n ha
  refine ⟨fun hon hrun hready hen hlen => ?_, fun v hgap hready hn => ⟨fun hv => ?_, fun hv => ?_⟩,
    fun hramp hready hn => ⟨_, exec_fillRampEnd_ramp ha hramp hready, d.fillEnd_gated hn⟩,
    fun v => (State.upd_of_alive q ha rfl : execCchIdlefillWrite v ⟨q, d⟩ = _)⟩
  · have hn := Dev.coachOn_lt hon
    have hkeep : ∀ k, k ≠ Reg.CCH_CSTAT n → ((d.gapFilled n).fillDuty n).reg k = (d.gapFilled n).reg k :=
      fun k hk => Dev.fillDuty_regsBut k (by simpa using hk)
    have hgaps : ((d.gapFilled n).fillDuty n).cch.gaps = d.cch.gaps ++ [(n, d.reg Reg.CCH_IDLEFILL, false)] := by
      rw [Dev.fillDuty_eq]
      rfl
    refine ⟨_, exec_idleFillStart_fill ha hon hrun hready hen hlen, ?_, ?_, ?_, hgaps, ?_, ?_, ?_, ?_, ?_⟩
    · rw [Dev.fillDuty_cState, Dev.gapFilled_cState]
    · exact (Dev.flag_congr (hkeep Reg.CCH_FILLMAP (ne_cstat n (by decide))) n).trans (Dev.gapFilled_fillmap hn)
    · exact (Dev.flag_congr (hkeep Reg.CCH_BUSY (ne_cstat n (by decide))) n).trans (Dev.gapFilled_busy hn)
    · intro k hk
      exact (hkeep k fun e => hk (by simp [e])).trans (Dev.gapFilled_regsBut k hk)
    · rw [Dev.fillDuty_arrays, Dev.gapFilled_duty]
    · exact fun hd hlast => Dev.fillDuty_out_full (Dev.gapFilled_duty.trans hd) hlast
    · exact fun hd => Dev.fillDuty_out_below (Dev.gapFilled_duty.trans_ne hd)
    · rw [hgaps, Dev.fillDuty_eq]
      rfl
  · exact ⟨_, (exec_fillRampDown_gap ha hgap hready).trans (by rw [if_pos hv]), d.fillEnd_gated hn⟩
  · exact (exec_fillRampDown_gap ha hgap hready).trans (by rw [if_neg hv]; rfl)

end Sys2Proof.Machine
end

section
/-! Passes and verdicts (04_coach_arithmetic.md): what each of their operations does on a device of which no access has to wait, one
rule per operation of the model, as `Dev.StaysCalm` has them for the rest. A Coach reads its own store, which is no memory of the
job: only the kill of a command and the fence of a Coach, with which a read or a verdict may end, touch what else may have to
wait. -/
namespace Sys2Proof.Machine

-- The short theorems below are elaborated one after another: side by side, their threads' stacks exceed the memory of the check.
set_option Elab.async false

namespace Dev.StaysCalm
variable {same : Prop} {s t u : Dev}

theorem setCch {f : Coaches → Coaches} (h : s.StaysCalm same t) : s.StaysCalm same (t.setCch f) := h.frame

theorem setDbg {f : Harness → Harness} (h : s.StaysCalm same t) : s.StaysCalm same (t.setDbg f) := h.frame

theorem setTeam {g : Nat} {f : ProgRun → ProgRun} (h : s.StaysCalm same t) : s.StaysCalm same (t.setTeam g f) :=
  h.updCmd fun c => by unfold Cmd.head; split <;> simp [*, CmdBody.ties]

theorem setInst {g n : Nat} {f : ProgInst → ProgInst} (h : s.StaysCalm same t) : s.StaysCalm same (t.setInst g n f) := h.setTeam

theorem setCoach {g : Nat} {f : CoachRun → CoachRun} (h : s.StaysCalm same t) : s.StaysCalm same (t.setCoach g f) :=
  h.updCmd fun c => by unfold Cmd.head; split <;> simp [*, CmdBody.ties]

/-! ### Gaps -/

theorem fillDuty {n : Nat} (h : s.StaysCalm same t) : s.StaysCalm same (t.fillDuty n) := by
  rw [Dev.fillDuty_eq]
  exact h.setFld.setCch

theorem gapBegin {n : Nat} (h : s.StaysCalm same t) : s.StaysCalm same (t.gapBegin n) :=
  ite h.frame.fillDuty h.frame

theorem passGap {n : Nat} (h : s.StaysCalm same t) : s.StaysCalm same (t.passGap n) := ite h h.gapBegin

/-! ### Teams, kills and fences -/

theorem teamFinish {g : Nat} (h : s.StaysCalm False t) : s.StaysCalm False (t.teamFinish g) := by
  unfold Dev.teamFinish
  split
  · refine ite h ?_
    split
    · exact h.wrBytes.finish
    · exact ite h.record.wrBytes.finish (ite h.commit h.wrBytes.commit)
  · exact h

theorem instCheck {g n : Nat} (h : s.StaysCalm False t) : s.StaysCalm False (t.instCheck g n) := by
  unfold Dev.instCheck
  split
  · exact h
  · exact ite h.setInst.teamFinish h

theorem dropCtl {g n ctl : Nat} (h : s.StaysCalm False t) : s.StaysCalm False (t.dropCtl g n ctl) :=
  ite h (h.frameCmds ⟨rfl, rfl, rfl, rfl⟩ False.elim)

theorem teamStop {g n entry status : Nat} {err : Option (Nat × Nat)} (h : s.StaysCalm False t) :
    s.StaysCalm False (t.teamStop g n entry status err) := by
  unfold Dev.teamStop
  split
  · exact h
  · refine ite h (teamFinish (each (each (setTeam ?_) dropCtl) instCheck))
    split
    · exact h.record
    · exact h

theorem entryMark {rec n on : Nat} {off : List Nat} (h : s.StaysCalm same t) : s.StaysCalm same (t.entryMark rec n on off) := by
  refine ite h ?_
  split <;> rename_i heq
  · exact h.unitRead.of_fst heq
  · exact ite (h.unitRead.of_fst heq).wrNum (h.unitRead.of_fst heq)

theorem livKill {gen : Nat} (h : s.StaysCalm same t) : s.StaysCalm same (t.livKill gen) :=
  ite h (frame (h.each fun h => h.livRelease.bump)).livSettle

theorem killSettle {g : Nat} (h : s.StaysCalm same t) : s.StaysCalm same (t.killSettle g) := h.frame.livKill

theorem coachKilled {x : Dying} {r : CoachRun} (h : s.StaysCalm False t) : s.StaysCalm False (t.coachKilled x r) :=
  instCheck (ite (ite h.teamStop h).setInst (ite h.teamStop h))

theorem coachKills {n : Nat} (h : s.StaysCalm False t) : s.StaysCalm False (t.coachKills n) :=
  h.each fun h => by
    split
    · exact h.killSettle.coachKilled
    · exact h

theorem instKill {g : Nat} {r : CoachRun} {status : Nat} {rerun : Bool} (h : s.StaysCalm False t) :
    s.StaysCalm False (t.instKill g r status rerun) :=
  (h.each fun h => h.kill).setTeam.setInst.passGap

theorem fenceInsts {n : Nat} {ts : List Nat} (h : s.StaysCalm False t) : s.StaysCalm False (t.fenceInsts n ts) :=
  h.each fun {u g} h => by
    have hmine : ∀ {v : Dev} (i : ProgInst), s.StaysCalm False v → s.StaysCalm False (v.each (v.instCmds g n) fun s c =>
        if c.gen = i.ctl then { s with cmds := s.cmds.filter fun x => x.gen != c.gen } else s.kill c.gen 2 true) := fun i h =>
      h.each fun h => ite (h.frameCmds ⟨rfl, rfl, rfl, rfl⟩ False.elim) h.kill
    split
    · exact h
    · split
      · exact h
      · dsimp only
        split
        · exact (hmine _ h.entryMark).setTeam.setInst
        · exact (hmine _ h).setTeam.setInst

theorem sizChange {f : Dev → Dev} (h : s.StaysCalm same t) (hf : ∀ {u}, s.StaysCalm same u → s.StaysCalm same (f u)) :
    s.StaysCalm same (t.sizChange f) := (hf h.setReg).setReg

theorem fenceCoach {n : Nat} {note : Dev → Dev} (h : s.StaysCalm False t)
    (hnote : ∀ {u}, s.StaysCalm False u → s.StaysCalm False (note u)) : s.StaysCalm False (t.fenceCoach n note) := by
  unfold Dev.fenceCoach
  refine ite (hnote h) (each ?_ teamFinish)
  refine setDbg (setCch (setFld (setFld (setFld ?_))))
  exact sizChange (hnote h.fenceInsts.coachKills).fenceEnter fun h => h.setFld.setFld.setFld

/-! ### Reads and writes of the Coach store -/

theorem csWrite {n off : Nat} {bs : List Byte} (h : s.StaysCalm same t) : s.StaysCalm same (t.csWrite n off bs) :=
  h.wrBytes.frame

theorem csUE {n g gran : Nat} (h : s.StaysCalm False t) : s.StaysCalm False (t.csUE n g gran) := by
  unfold Dev.csUE
  exact fenceCoach (bump (frame h)) record

theorem csCheck {n g : Nat} {spans : List (Nat × Nat)} (h : s.StaysCalm False t) :
    s.StaysCalm False (t.csCheck n g spans).1 := by
  unfold Dev.csCheck
  split
  · exact h.csUE
  · exact h.frame.bump

theorem coachRead {n g : Nat} {r : CoachRun} {spans : List (Nat × Nat)} {ws as : List Nat} (h : s.StaysCalm False t) :
    s.StaysCalm False (t.coachRead n g r spans ws as).1 := by
  unfold Dev.coachRead
  split <;> rename_i heq
  · exact h.csCheck.of_fst heq
  · exact ite (h.csCheck.of_fst heq).record (h.csCheck.of_fst heq)

theorem coachFail {g : Nat} (h : s.StaysCalm False t) : s.StaysCalm False (t.coachFail g) := by
  unfold Dev.coachFail
  split
  · exact h.instKill
  · exact h

theorem wEnter {n g : Nat} {r : CoachRun} {w : WOpnd} {wty n0 : Nat} (h : s.StaysCalm False t) :
    s.StaysCalm False (t.wEnter n g r w wty n0).1 := by
  unfold Dev.wEnter
  dsimp only
  split <;> rename_i heq
  · exact h.coachRead.of_fst heq
  · split
    · exact (h.coachRead.of_fst heq).record.coachFail
    · exact iteFst (h.coachRead.of_fst heq) (h.coachRead.of_fst heq)

/-! ### Passes -/

theorem passOn {n g mask : Nat} {bad : List (Nat × Bool)} (h : s.StaysCalm same t) :
    s.StaysCalm same (t.passOn n g mask bad) := h.frame

theorem matEnter {n : Nat} {c : Cmd} {r : CoachRun} (h : s.StaysCalm False t) : s.StaysCalm False (t.matEnter n c r).1 := by
  unfold Dev.matEnter
  dsimp only
  split <;> rename_i heq
  · exact h.wEnter.of_fst heq
  · split <;> rename_i heq'
    · exact (h.wEnter.of_fst heq).coachRead.of_fst heq'
    · exact (h.wEnter.of_fst heq).coachRead.of_fst heq'

theorem matPass {n : Nat} {c : Cmd} {r : CoachRun} {fs : List PassFault} (h : s.StaysCalm False t) :
    s.StaysCalm False (t.matPass n c r fs).1 := by
  unfold Dev.matPass
  dsimp only
  split
  · exact h
  · split <;> rename_i heq
    · exact h.coachRead.of_fst heq
    · exact (h.coachRead.of_fst heq).passOn

theorem matWrite {n : Nat} {r : CoachRun} {m : MatIn} {row0 rows n0 cols : Nat} {accs : List (List Acc)}
    (h : s.StaysCalm same t) : s.StaysCalm same (t.matWrite n r m row0 rows n0 cols accs).1 :=
  foldlFst (β := ConvFlags) h fun h => h.csWrite

theorem matFinish {n : Nat} {c : Cmd} {r : CoachRun} (h : s.StaysCalm same t) : s.StaysCalm same (t.matFinish n c r).1 :=
  h.matWrite

theorem expEnter {n : Nat} {c : Cmd} {r : CoachRun} (h : s.StaysCalm False t) : s.StaysCalm False (t.expEnter n c r).1 := by
  unfold Dev.expEnter
  dsimp only
  split <;> rename_i heq <;>
    have h1 := of_fst (iteFst (by split; exacts [h.coachRead.of_fst ‹_›, h.coachRead]) h) heq
  · exact h1
  · refine iteFst h1 ?_
    split <;> exact h1.wEnter.of_fst ‹_›

theorem expPass {n : Nat} {c : Cmd} {r : CoachRun} {fs : List PassFault} (h : s.StaysCalm False t) :
    s.StaysCalm False (t.expPass n c r fs).1 := by
  unfold Dev.expPass
  dsimp only
  split
  · exact h
  · split <;> rename_i heq
    · exact h.coachRead.of_fst heq
    · exact (h.coachRead.of_fst heq).passOn

theorem expTake {n : Nat} {e : ExpertCmd} {pr : Pred} {ph k row : Nat} {x : ExpRow} {as : List Acc} (h : s.StaysCalm same t) :
    s.StaysCalm same (t.expTake n e pr ph k row x as).1 := by
  unfold Dev.expTake
  dsimp only
  split
  · exact h
  · exact h
  · exact h
  · dsimp only
    split
    · exact h.csWrite.csWrite
    · exact h.csWrite
  · exact h.csWrite
  · exact h

theorem scratch {n g : Nat} {o : Opnd} (h : s.StaysCalm same t) : s.StaysCalm same (t.scratch n g o) := h.each csWrite

theorem expFinish {n : Nat} {c : Cmd} {r : CoachRun} (h : s.StaysCalm same t) : s.StaysCalm same (t.expFinish n c r).1 := by
  refine iteFst (iteFst h (ite h.scratch h)) (iteFst h ?_)
  refine foldlFst (β := List ExpRow × ConvFlags) h fun h => ?_
  dsimp only
  exact iteFst h.expTake h

theorem tileEnter {n : Nat} {c : Cmd} {r : CoachRun} (h : s.StaysCalm False t) : s.StaysCalm False (t.tileEnter n c r).1 :=
  iteFst h.matEnter h.expEnter

theorem tilePass {n : Nat} {c : Cmd} {r : CoachRun} {fs : List PassFault} (h : s.StaysCalm False t) :
    s.StaysCalm False (t.tilePass n c r fs).1 :=
  iteFst h.matPass h.expPass

theorem tileFinish {n : Nat} {c : Cmd} {r : CoachRun} (h : s.StaysCalm same t) : s.StaysCalm same (t.tileFinish n c r).1 :=
  iteFst h.matFinish h.expFinish

theorem tileNext {n : Nat} {c : Cmd} {r : CoachRun} (fuel : Nat) (h : s.StaysCalm False t) :
    s.StaysCalm False (Dev.tileNext n c fuel t r).1 := by
  induction fuel generalizing t r with
  | zero => exact h
  | succ fuel ih =>
    refine iteFst h ?_
    split <;> rename_i heq
    · exact h.tileEnter.of_fst heq
    · exact iteFst (ih (h.tileEnter.of_fst heq).tileFinish) (h.tileEnter.of_fst heq)

/-! ### Verdicts -/

theorem arrClean {n a : Nat} (h : s.StaysCalm same t) : s.StaysCalm same (t.arrClean n a) := h.setFld.setFld
theorem arrMiss {n a : Nat} (h : s.StaysCalm same t) : s.StaysCalm same (t.arrMiss n a) := h.setFld.setFld

theorem arrNotes {n : Nat} (as : List Nat) {win : List Nat} (h : s.StaysCalm same t) :
    s.StaysCalm same (as.foldl (Dev.arrNote n) (t, win)).1 := foldlFst (β := List Nat) h arrMiss

theorem resFence {n a : Nat} (h : s.StaysCalm False t) : s.StaysCalm False (t.resFence n a) :=
  ite h (h.fenceCoach fun h => h.bump.record)

theorem missCount {r : CoachRun} (h : s.StaysCalm same t) : s.StaysCalm same (t.missCount r).1 := by
  unfold Dev.missCount
  dsimp only
  split
  · exact h
  · exact h.setTeam

theorem missKill {g : Nat} (h : s.StaysCalm False t) : s.StaysCalm False (t.missKill g) := by
  unfold Dev.missKill
  split
  · exact ite h.missCount.setCoach.record.instKill h.missCount.setCoach.instKill
  · split
    · split
      · exact ite h h.missCount.frame
      · exact h
    · exact h

end Dev.StaysCalm
end Sys2Proof.Machine
end

section
/-! The statement about passes and verdicts (04_coach_arithmetic.md): a pass, a verdict of a command and one of fill, each first as
what the operation of the model is in its cases, then as an event, which a calm device takes whole. -/
namespace Sys2Proof.Machine

-- The short theorems below are elaborated one after another: side by side, their threads' stacks exceed the memory of the check.
set_option Elab.async false

/-! ### The three operations keep a device calm -/

namespace Dev.StaysCalm
variable {s t : Dev} {n : Nat} (h : s.StaysCalm False t)
include h

theorem coachPass {c : Cmd} {r : CoachRun} {fs : List PassFault} : s.StaysCalm False (t.coachPass n c r fs) := by
  unfold Dev.coachPass
  dsimp only
  split <;> rename_i hstart <;> have h1 := of_fst (iteFst (h.tileNext _) h) hstart
  · exact h1
  · refine ite h1.setCoach ?_
    split <;> rename_i hpass <;> have h2 := h1.tilePass.of_fst hpass
    · exact h2
    · refine ite h2.setCoach ?_
      split <;> rename_i hnext <;> have h3 := (h2.tileFinish.tileNext _).of_fst hnext
      · exact h3.setCoach
      · exact h3

theorem cmdVerdict : s.StaysCalm False (t.cmdVerdict n) := by
  unfold Dev.cmdVerdict
  split
  · exact h
  · refine ite (passGap (each ?counted arrClean))
      (passGap (each (missKill (arrNotes _ (each (each ?counted arrClean) fun h => h.record.bump))) resFence))
    exact h.setCch.bump

theorem fillVerdict {fs : List FillFault} : s.StaysCalm False (t.fillVerdict n fs) := by
  unfold Dev.fillVerdict
  split
  · exact h
  · exact ite h ((((h.bump.each arrClean).each fun h => h.record.bump).arrNotes _).each resFence)

end Dev.StaysCalm

/-! ### A pass (R131 to R134) -/

section
variable {d d0 s1 : Dev} {n : Nat} {c : Cmd} {r r0 r1 : CoachRun} {fs : List PassFault}
  (hstart : (r.accs ≠ [] ∧ d0 = d ∧ r0 = r)
    ∨ (r.accs = [] ∧ Dev.tileNext n c (d.tileCount n c.desc + 1) d r = (d0, some r0)))
include hstart

/-- The column tile that the pass belongs to has begun, or begins with it. -/
theorem Dev.coachPass_start : (if r.accs.isEmpty then Dev.tileNext n c (d.tileCount n c.desc + 1) d r else (d, some r))
    = (d0, some r0) := by
  obtain ⟨hacc, rfl, rfl⟩ | ⟨hacc, hnext⟩ := hstart
  · simp [hacc]
  · simp [hacc, hnext]

theorem Dev.coachPass_ended (hdone : r0.done = true) : d.coachPass n c r fs = d0.setCoach c.gen fun _ => r0 := by
  unfold Dev.coachPass
  simp only [Dev.coachPass_start hstart, hdone, ↓reduceIte]

section
variable (hdone : r0.done = false) (hpass : d0.tilePass n c r0 fs = (s1, some r1))
include hdone hpass

/-- A pass that is not the last of its column tile leaves the sums in the arrays. -/
theorem Dev.coachPass_within (hkp : r1.kp < s1.tileLen n c r1) :
    d.coachPass n c r fs = s1.setCoach c.gen fun _ => r1 := by
  unfold Dev.coachPass
  simp only [Dev.coachPass_start hstart, hdone, hpass, hkp, Bool.false_eq_true, ↓reduceIte]

/-- After the last, the results are written and the next tile with a pass begins. -/
theorem Dev.coachPass_last {s2 s3 : Dev} {r2 r3 : CoachRun} (hkp : s1.tileLen n c r1 ≤ r1.kp)
    (hfinish : s1.tileFinish n c r1 = (s2, r2))
    (hnext : Dev.tileNext n c (s2.tileCount n c.desc + 1) s2 r2 = (s3, some r3)) :
    d.coachPass n c r fs = s3.setCoach c.gen fun _ => r3 := by
  unfold Dev.coachPass
  simp only [Dev.coachPass_start hstart, hdone, hpass, Nat.not_lt.2 hkp, hfinish, hnext, Bool.false_eq_true, ↓reduceIte]

end
end

/-! ### Verdicts (R171 to R176) -/

section
variable {d s1 s2 s3 : Dev} {n : Nat}

/-- The kill of a command in hand by a mismatch: for good once its kills reach KILLMAX, to run again before. -/
theorem Dev.missKill_inHand {g k : Nat} {c : Cmd} {r : CoachRun} (hr : d.coachOf g = some (c, r))
    (hcount : d.missCount r = (s1, k)) (hs2 : s2 = s1.setCoach g fun r => { r with counted := true }) :
    d.missKill g = if s2.fld Reg.CCH_RESWIN 24 4 ≤ k
      then (s2.record clsARITH 0x007 g g blkCCH r.coach).instKill g r 2 false else s2.instKill g r 2 true := by
  unfold Dev.missKill
  simp only [hr, hcount, ← hs2]

section
variable {p : PassOut} {arrs : List Nat} (hdue : d.passDue n = some p) (harrs : arrs = bitsSet 4 p.mask)
  (hs1 : s1 = (((d.setCch fun c => { c with out := dropPass n c.out }).bump Reg.CCH_CNT_PASS arrs.length).each
    (arrs.filter fun a => !p.bad.any fun b => b.1 == a) fun s a => s.arrClean n a))
include hdue harrs hs1

theorem Dev.cmdVerdict_clean (hbad : p.bad = []) : d.cmdVerdict n = s1.passGap n := by
  unfold Dev.cmdVerdict
  simp only [hdue, ← harrs, ← hs1]
  rw [if_pos (by simp [hbad])]

theorem Dev.cmdVerdict_mismatch {win : List Nat} (hbad : p.bad ≠ [])
    (hs2 : s2 = (s1.each p.bad fun s b =>
      (s.record clsARITH 0x001 (n + b.1 * 256 + b.2.toNat * 4096) p.gen blkCCH n).bump Reg.CCH_CNT_RESIDUE 1))
    (hnote : (p.bad.map (·.1)).foldl (Dev.arrNote n) (s2, []) = (s3, win)) :
    d.cmdVerdict n = ((s3.missKill p.gen).each win fun s a => s.resFence n a).passGap n := by
  unfold Dev.cmdVerdict
  simp only [hdue, ← harrs, ← hs1, ← hs2, hnote]
  rw [if_neg (by simp [hbad])]

end

theorem Dev.fillVerdict_due {p : PassOut} {fs : List FillFault} {bad win : List Nat}
    (hp : d.cch.out.find? (fun p => p.coach == n) = some p) (hfill : p.fill = true)
    (hbad : bad = (List.range 4).filter (fun a => fs.any fun f => f.array == a && faultFound f.at_))
    (hs1 : s1 = ((d.bump Reg.CCH_CNT_FILL 4).each ((List.range 4).filter fun a => !bad.contains a) fun s a => s.arrClean n a))
    (hs2 : s2 = (s1.each bad fun s a => (s.record clsARITH 0x003 (n + a * 256) 0 blkCCH n).bump Reg.CCH_CNT_FILLRES 1))
    (hnote : bad.foldl (Dev.arrNote n) (s2, []) = (s3, win)) :
    d.fillVerdict n fs = s3.each win fun s a => s.resFence n a := by
  unfold Dev.fillVerdict
  simp only [hp, hfill, ← hbad, ← hs1, ← hs2, hnote, Bool.not_true, Bool.false_eq_true, ↓reduceIte]

end

/-! ### The events -/

section
variable {q : List Instr} {d t : Dev} {n : Nat} (ha : d.alive = true) (hc : d.calm = true)
include ha hc

theorem exec_arrayPassStart_ready {c : Cmd} {r : CoachRun} {fs : List PassFault} (hready : d.readyPass n = some (c, r))
    (hstate : d.cState n = csRUN ∨ d.cState n = csFILL) (ht : d.coachPass n c r fs = t) :
    exec (.arrayPassStart ⟨n, fs⟩) ⟨q, d⟩ = .next ⟨q, t.passGap n⟩ := by
  subst ht
  have hcalm : d.StaysCalm False ((d.coachPass n c r fs).passGap n) := (Dev.StaysCalm.refl d).coachPass.passGap
  refine (State.unit_of_staysCalm q ha hc ?_ hcalm : execArrayPassStart ⟨n, fs⟩ ⟨q, d⟩ = _)
  have hruns : (decide (d.cState n ≠ csRUN) && decide (d.cState n ≠ csFILL)) = false := by
    obtain h | h := hstate <;> simp [h]
  simp only [hready, hruns, Bool.false_eq_true, ↓reduceIte]

theorem exec_residueVerdict_cmd (ht : d.cmdVerdict n = t) : exec (.residueVerdict n none) ⟨q, d⟩ = .next ⟨q, t⟩ :=
  (State.unit_of_staysCalm q ha hc ht (ht ▸ (Dev.StaysCalm.refl d).cmdVerdict) : execResidueVerdict n none ⟨q, d⟩ = _)

theorem exec_residueVerdict_fill {fs : List FillFault} (ht : d.fillVerdict n fs = t) :
    exec (.residueVerdict n (some fs)) ⟨q, d⟩ = .next ⟨q, t⟩ :=
  (State.unit_of_staysCalm q ha hc ht (ht ▸ (Dev.StaysCalm.refl d).fillVerdict) : execResidueVerdict n (some fs) ⟨q, d⟩ = _)

end

/-- Settles O32, an event at a time: each is what its operation is in the case that its hypotheses name, and on a device of which no
access has to wait nothing holds it up. -/
theorem passesAndVerdicts : Obligations.PassesAndVerdicts := by
  unfold Obligations.PassesAndVerdicts
  intro q d n ha hc
  refine ⟨fun c r fs d0 r0 s1 r1 hready hstate hstart hdone hpass => ⟨fun hkp => ?_, fun s2 r2 s3 r3 hkp hfinish hnext => ?_⟩,
    fun c r fs d0 r0 hready hstate hacc hnext hdone => ?_,
    fun p arrs s1 hdue harrs hs1 => ⟨fun hbad => ?_, fun s2 s3 win c r s4 k s5 s6 hbad hs2 hnote hr hcount hs5 hs6 => ?_⟩,
    fun p fs bad s1 s2 s3 win hp hfill hbad hs1 hs2 hnote => ?_⟩
  · exact exec_arrayPassStart_ready ha hc hready hstate (Dev.coachPass_within hstart hdone hpass hkp)
  · exact exec_arrayPassStart_ready ha hc hready hstate (Dev.coachPass_last hstart hdone hpass hkp hfinish hnext)
  · exact exec_arrayPassStart_ready ha hc hready hstate (Dev.coachPass_ended (.inr ⟨hacc, hnext⟩) hdone)
  · exact exec_residueVerdict_cmd ha hc (Dev.cmdVerdict_clean hdue harrs hs1 hbad)
  · rw [hs6, ← Dev.missKill_inHand hr hcount hs5]
    exact exec_residueVerdict_cmd ha hc (Dev.cmdVerdict_mismatch hdue harrs hs1 hbad hs2 hnote)
  · exact exec_residueVerdict_fill ha hc (Dev.fillVerdict_due hp hfill hbad hs1 hs2 hnote)

end Sys2Proof.Machine
end

section
/-! The statement about the checks at arm (06_tile_programs_and_commit.md): a descriptor whose header check fails is refused with what
the check answers, whichever command it is, and the check goes through class, job state and header in this order. -/
namespace Sys2Proof.Machine

-- The short theorems below are elaborated one after another: side by side, their threads' stacks exceed the memory of the check.
set_option Elab.async false

/-! ### The order of the checks (R594) -/

section
variable {d : Dev} {l : Line}

theorem Dev.headCheck_class (h : dClass l ≠ classOf (dOp l)) : d.headCheck l = some ⟨clsJOB, 0x042, dClass l⟩ :=
  if_pos h

section
variable (hclass : dClass l = classOf (dOp l))
include hclass

/-- No command is accepted in SCRUBBING, and none but a job command in IDLE (Table 16-3). -/
theorem Dev.headCheck_state (h : d.jobState = jSCRUBBING ∨ (d.jobState = jIDLE ∧ dOp l < 0x0700)) :
    d.headCheck l = some ⟨clsJOB, 0x001, dOp l + d.jobState * 2 ^ 16⟩ := by
  have hrefuses : ∀ resize, jobAccepts d.jobState (dOp l) resize = false := by
    intro resize
    obtain hst | ⟨hst, hop⟩ := h
    · rw [hst]; rfl
    · have h0 : dOp l ≠ 0x0700 ∧ dOp l ≠ 0x0701 ∧ dOp l ≠ 0x0703 := by omega
      simp [hst, jIDLE, jobAccepts, h0]
  unfold Dev.headCheck
  simp [hclass, hrefuses]

/-- In RUNNING, where every command but a new JLAUNCH is accepted, the header decides. -/
theorem Dev.headCheck_running (hst : d.jobState = jRUNNING) (hop : dOp l ≠ 0x0701) {n : Nat} (h : headBad l = some n) :
    d.headCheck l = some ⟨clsJOB, 0x041, n⟩ := by
  have haccepts : ∀ resize, jobAccepts d.jobState (dOp l) resize = true := by
    intro resize
    simp [hst, jRUNNING, jobAccepts, hop]
  unfold Dev.headCheck
  simp [hclass, haccepts, h]

end

theorem headBad_low (h : lfield l 2 2 6 ≠ 0) : headBad l = some 2 := if_pos h

theorem headBad_high (hlow : lfield l 2 2 6 = 0) (h : lfield l 3 4 4 ≠ 0) : headBad l = some 3 := by
  simp [headBad, hlow, h]

theorem headBad_hand (hlow : lfield l 2 2 6 = 0) (hhigh : lfield l 3 4 4 = 0) (h : ctrOk (dHand l) = false) :
    headBad l = some 8 := by
  simp [headBad, hlow, hhigh, h]

end

/-! ### The refusal of each command -/

/-- Instruction `i` arms descriptor `l` of source `src` with opcode `op` on device `d`, and nothing makes it wait. -/
def ArmsAtOnce (d : Dev) (src : Source) (l : Line) (i : Instr) (op : Nat) : Prop :=
  (i, op) ∈ [(Instr.gform src l, 0x0300), (.gdissolve src l, 0x0301), (.move src l, 0x0400), (.mfx src l, 0x0500),
      (.matomic src l, 0x0501), (.sloop src l, 0x0600), (.sstop src l, 0x0601), (.jadmit src l, 0x0700)]
    ∨ (i = .runprog src l ∧ op = 0x0105 ∧ d.teams < 16) ∨ (i = .jlaunch src l ∧ op = 0x0701 ∧ d.job.launch = none)
    ∨ (i = .jorderEnd src l ∧ op = 0x0702 ∧ d.job.ownReq = none ∧ lnum l 16 1 = 3)
    ∨ (i = .junitParkPostilion src l ∧ op = 0x0703 ∧ juAction l = 2)

/-- A descriptor that the header check refuses is refused, whichever command it is, and its body is not looked at. -/
theorem exec_refused_of_headCheck {d : Dev} {q : List Instr} {src : Source} {l : Line} {i : Instr} {r : Refuse} (ha : d.alive = true)
    (hc : d.calm = true) (harm : ArmsAtOnce d src l i (dOp l)) (hbad : d.headCheck l = some r) :
    exec i ⟨q, d⟩ = .next ⟨q, d.refuse src l r⟩ := by
  have hunit : ∀ f : Dev → Dev, f d = d.refuse src l r → (State.mk q d).unit f = .next ⟨q, d.refuse src l r⟩ :=
    fun f hf => State.unit_of_staysCalm q ha hc hf (Dev.StaysCalm.refl d).refuse
  have hupd : ∀ f : Dev → Dev, f d = d.refuse src l r → (State.mk q d).upd f = .next ⟨q, d.refuse src l r⟩ :=
    fun f hf => State.upd_of_alive q ha hf
  obtain hmem | ⟨rfl, hop, hteams⟩ | ⟨rfl, hop, -⟩ | ⟨rfl, hop, -, hact⟩ | ⟨rfl, hop, hact⟩ := harm
  · simp only [List.mem_cons, Prod.mk.injEq, List.not_mem_nil, or_false] at hmem
    obtain ⟨rfl, hop⟩ | ⟨rfl, hop⟩ | ⟨rfl, hop⟩ | ⟨rfl, hop⟩ | ⟨rfl, hop⟩ | ⟨rfl, hop⟩ | ⟨rfl, hop⟩ | ⟨rfl, hop⟩ := hmem
    · exact (hunit _ (by simp [hop, hbad]) : execGform src l ⟨q, d⟩ = _)
    · exact (hupd _ (by simp [hop, hbad]) : execGdissolve src l ⟨q, d⟩ = _)
    · exact (hupd _ (by simp [hop, hbad]) : execMove src l ⟨q, d⟩ = _)
    · exact (hupd _ (by simp [hop, hbad]) : execMfx src l ⟨q, d⟩ = _)
    · exact (hupd _ (by simp [hop, hbad]) : execMatomic src l ⟨q, d⟩ = _)
    · exact (hunit _ (by simp [hop, hbad]) : execSloop src l ⟨q, d⟩ = _)
    · exact (hunit _ (by simp [hop, hbad]) : execSstop src l ⟨q, d⟩ = _)
    · exact (hupd _ (by simp [hop, hbad]) : execJadmit src l ⟨q, d⟩ = _)
  · exact (hunit _ (by simp [hop, hteams, hbad]) : execRunprog src l ⟨q, d⟩ = _)
  · exact (hunit _ (by simp [hop, hbad]) : execJlaunch src l ⟨q, d⟩ = _)
  · exact (hupd _ (by simp [Dev.jorder, hop, hact, hbad]) : execJorderEnd src l ⟨q, d⟩ = _)
  · exact (hupd _ (by simp [Dev.junit, hop, hact, hbad]) : execJunitParkPostilion src l ⟨q, d⟩ = _)

/-- Settles O58: each command answers what the header check answers, and that goes by class, state and header. -/
theorem headerChecksAtArm : Obligations.HeaderChecksAtArm := by
  unfold Obligations.HeaderChecksAtArm
  rintro q d src l i op ha hc harm rfl
  have hrefused : ∀ {r}, d.headCheck l = some r → exec i ⟨q, d⟩ = .next ⟨q, d.refuse src l r⟩ := exec_refused_of_headCheck ha hc harm
  refine ⟨fun hclass => hrefused (Dev.headCheck_class hclass), fun hclass => ⟨fun hst => ?_, fun hst hop => ⟨fun hlow => ?_,
    fun hlow hhigh => ?_, fun hlow hhigh hhand => ?_⟩⟩⟩
  · exact hrefused (Dev.headCheck_state hclass hst)
  · exact hrefused (Dev.headCheck_running hclass hst hop (headBad_low hlow))
  · exact hrefused (Dev.headCheck_running hclass hst hop (headBad_high hlow hhigh))
  · exact hrefused (Dev.headCheck_running hclass hst hop (headBad_hand hlow hhigh hhand))

end Sys2Proof.Machine
end

section
/-! Tile programs and commits (06_tile_programs_and_commit.md): what each of their operations does on a device of which no access has
to wait, one rule per operation of the model, as `Dev.StaysCalm` has them for the rest. -/
namespace Sys2Proof.Machine

-- The short theorems below are elaborated one after another: side by side, their threads' stacks exceed the memory of the check.
set_option Elab.async false

namespace Dev.StaysCalm
variable {same : Prop} {s t u : Dev}

/-! ### Entries of a program -/

theorem seqPassed {n : Nat} (h : s.StaysCalm same t) : s.StaysCalm same (t.seqPassed n) := h.setDbg

theorem seqRefuse {p : SeqAt} {l : Line} {r : Refuse} (h : s.StaysCalm False t) : s.StaysCalm False (t.seqRefuse p l r) :=
  h.refuse.teamStop

theorem coachEntry {p : SeqAt} {n : Nat} {l : Line} {rw : List (Nat × Nat) × List (Nat × Nat)} (h : s.StaysCalm False t) :
    s.StaysCalm False (t.coachEntry p n l rw).1 := h.arm.setInst.seqPassed

theorem ctlEntry {p : SeqAt} {n : Nat} {l : Line} (h : s.StaysCalm False t) : s.StaysCalm False (t.ctlEntry p n l).1 :=
  h.arm.setInst.seqPassed

theorem dropCmds {p : Cmd → Bool} (h : s.StaysCalm False t) : s.StaysCalm False { t with cmds := t.cmds.filter p } :=
  h.frameCmds ⟨rfl, rfl, rfl, rfl⟩ False.elim

theorem ctlCommit {g n ctl : Nat} (h : s.StaysCalm False t) : s.StaysCalm False (t.ctlCommit g n ctl) :=
  h.dropCmds.setTeam.setInst

/-! ### Takes -/

theorem takeSend {g n rec owner : Nat} {left : List Nat} (h : s.StaysCalm same t) :
    s.StaysCalm same (t.takeSend g n rec owner left) := h.setCch.setInst

theorem workDone {n : Nat} {w : WorkRun} (h : s.StaysCalm same t) : s.StaysCalm same (t.workDone n w) := h.entryMark

theorem bankTake {queue : Bool} {rec n seq : Nat} (h : s.StaysCalm same t) :
    s.StaysCalm same (t.bankTake queue rec n seq).1 := by
  unfold Dev.bankTake
  dsimp only
  split
  · exact h
  · split
    · exact h.wrNum.wrNum
    · split
      · exact h
      · exact h.wrNum.wrNum

/-! ### Copies -/

theorem copyRows {n g : Nat} {c : CopyIn} (is : List Nat) (h : s.StaysCalm False t) :
    s.StaysCalm False (Machine.copyRows n g c is t).1 := by
  induction is generalizing t with
  | nil => exact h
  | cons i is ih =>
    unfold Machine.copyRows
    dsimp only
    split <;> rename_i heq <;>
      have h1 := of_fst (iteFst (by split <;> exact h.csCheck.of_fst ‹_›) h.cmdRead) heq
    · exact h1
    · exact iteFst (ih (iteFst h1.csWrite h1.cmdWrite)) (iteFst h1.csWrite h1.cmdWrite)

/-! ### Collectives -/

theorem setColl {g : Nat} {f : CollRun → CollRun} (h : s.StaysCalm same t) : s.StaysCalm same (t.setColl g f) :=
  h.updCmd fun c => by unfold Cmd.head; split <;> simp [*, CmdBody.ties]

theorem signalTo {l : Line} {p : Nat} (h : s.StaysCalm same t) : s.StaysCalm same (t.signalTo l p) := ite h h.wrNum

theorem closePhase0 {g : Nat} {r : CollRun} {gr : Group} (h : s.StaysCalm same t) :
    s.StaysCalm same (t.closePhase0 g r gr).1 :=
  iteFst (iteFst h h.cmdWrite) (setColl (each (iteFst h h.cmdWrite) livFreeOp))

theorem collProgress {g : Nat} (h : s.StaysCalm False t) : s.StaysCalm False (t.collProgress g) := by
  unfold Dev.collProgress
  split
  · exact h
  · split
    · split
      · exact h
      · refine ite h (ite (h.beginSteps _).groupFault ?_)
        split
        · refine ite (groupFault ?closed) (ite (groupFault ?begun) ?_)
          · exact iteFst (h.beginSteps _).closePhase0 (h.beginSteps _)
          · exact iteFst (beginSteps _ ?closed) ?closed
          split
          · refine ite ?out (ite (ctrFault ?out).groupFault (ite (ctrFault ?out).groupFault
              (commit (bump (closeX (signalTo ?out))))))
            exact iteFst (outGate (ite ?begun (setColl (signalTo ?begun)))) (ite ?begun (setColl (signalTo ?begun)))
          · exact ?begun
        · exact h.beginSteps _
    · exact h

end Dev.StaysCalm
end Sys2Proof.Machine
end

section
/-! The statement about Coach commands at their entries (06_tile_programs_and_commit.md): the entry that is read, the command that is
armed or refused there, and then what each command does at once. -/
namespace Sys2Proof.Machine

-- The short theorems below are elaborated one after another: side by side, their threads' stacks exceed the memory of the check.
set_option Elab.async false

/-! ### The entry (R227) -/

/-- The instance of Coach n stands at entry `p`, which is read on the way to `s1` and holds `l`. -/
structure Dev.AtEntry (d s1 : Dev) (n : Nat) (p : SeqAt) (l : Line) : Prop where
  seqAt : d.seqAt n = some p
  read : ∃ bs, d.cmdRead p.g p.addr 64 = (s1, some bs) ∧ l = BitVec.ofNat 512 (leNat bs)

section
variable {d s1 : Dev} {n op : Nat} {p : SeqAt} {l : Line} (hat : d.AtEntry s1 n p l)
include hat

theorem Dev.AtEntry.staysCalm : d.StaysCalm False s1 := by
  obtain ⟨-, bs, hread, -⟩ := hat
  exact (Dev.StaysCalm.refl d).cmdRead.of_fst hread

variable (hop : dOp l = op)
include hop

/-- An entry that can be read holds a command that may stand there, which is taken up. -/
theorem Dev.AtEntry.seqEntry_eq {f : Dev → SeqAt → Line → Dev}
    (hmay : (0x0100 ≤ op ∧ op ≤ 0x0104) ∨ (1 ≤ op ∧ op ≤ 5 ∧ p.table = false)) : d.seqEntry n op f = f s1 p l := by
  obtain ⟨hseq, bs, hread, hl⟩ := hat
  have hknown : ((decide (0x0100 ≤ op) && decide (op ≤ 0x0104)) || ((decide (1 ≤ op) && decide (op ≤ 5)) && !p.table)) = true := by
    simpa [and_assoc] using hmay
  unfold Dev.seqEntry
  simp only [hseq, hread, ← hl, hop, hknown, Bool.not_true, Bool.false_eq_true, ne_eq, not_true_eq_false, ↓reduceIte]

/-! ### The arm of a Coach command (R228, R238, R241) -/

variable {bad : (Nat → Byte) → Line → Option Refuse} {regs : (Nat → Byte) → Line → List (Nat × Nat) × List (Nat × Nat)}
  {act : Dev → Nat → Line → Dev} (hcoach : 0x0100 ≤ op ∧ op ≤ 0x0104) (hfew : (s1.instCmds p.g n).length < 8)
  (hhead : s1.headCheck l = none)
include hcoach hfew hhead

theorem Dev.AtEntry.coachArm_armed {rw : List (Nat × Nat) × List (Nat × Nat)} (hbad : bad (s1.csRd n) l = none)
    (hrw : regs (s1.csRd n) l = rw) (hfree : (s1.instCmds p.g n).any (fun c => regConflict c rw.1 rw.2) = false) :
    d.coachArm n op bad regs act = act (s1.coachEntry p n l rw).1 (s1.coachEntry p n l rw).2 l := by
  unfold Dev.coachArm
  rw [hat.seqEntry_eq hop (.inl hcoach)]
  simp only [Nat.not_le.2 hfew, hhead, hbad, hrw, hfree, Option.orElse_eq_orElse, Option.orElse, Bool.false_eq_true, ↓reduceIte]

theorem Dev.AtEntry.coachArm_refused {r : Refuse} (hbad : bad (s1.csRd n) l = some r) :
    d.coachArm n op bad regs act = s1.seqRefuse p l r := by
  unfold Dev.coachArm
  rw [hat.seqEntry_eq hop (.inl hcoach)]
  simp only [Nat.not_le.2 hfew, hhead, hbad, Option.orElse_eq_orElse, Option.orElse, ↓reduceIte]

end

/-! ### What the commands that run no pass do (R223 to R225) -/

section
variable {d s : Dev} {n g : Nat} {l : Line}

section
variable {c : Cmd} {r r1 : CoachRun} (hr : d.coachOf g = some (c, r))
include hr

theorem Dev.compressAct_eq {out : List Byte} {pruned fell : Nat}
    (hread : d.coachRead n g r (opndRows (compressSrc l) false) [] (opndScales (compressSrc l)) = (s, some r1))
    (hout : compressArray (s.csRd n) (compressSrc l) (lnum l 16 1) = (out, pruned, fell)) :
    d.compressAct n g l
      = (s.csWrite n (lnum l 40 4) out).setCoach g fun _ => { r1 with done := true, pruned := pruned, fell := fell } := by
  unfold Dev.compressAct
  simp only [hr, hread, hout]

theorem Dev.vectorAct_eq {es scs : List Nat} {fl : ConvFlags}
    (hread : d.coachRead n g r (opndRows (flatRun (vecIn l).ity (vecIn l).a (vecIn l).cnt) false ++ (vecReads (vecIn l)).drop 1) []
      (opndScales (flatRun (vecIn l).ity (vecIn l).a (vecIn l).cnt)) = (s, some r1))
    (hout : vecOut (s.csRd n) l (s.srWord r1.team (vecIn l).key 2) = (es, scs, fl)) :
    d.vectorAct n g l = Dev.setCoach
      ((s.csWrite n (vecIn l).o (packCodes (dtypeBits (vecIn l).oty) (rowBytes (vecIn l).oty (vecIn l).outCnt) es)).each
        (if scs = [] then [] else [scs]) fun s x =>
          s.csWrite n ((vecIn l).o + (flatRun (vecIn l).oty (vecIn l).o (vecIn l).outCnt).stride) (x.map (BitVec.ofNat 8))) g
      fun _ => { r1 with done := true, flags := r1.flags.add fl } := by
  unfold Dev.vectorAct
  simp only [hr, hread, hout, List.isEmpty_iff]
  split <;> rfl

end

theorem Dev.copyAct_eq (hrows : copyRows n g (copyIn l) (List.range (copyIn l).rows) d = (s, true)) :
    d.copyAct n g l = s.setCoach g fun r => { r with done := true } := by
  unfold Dev.copyAct
  rw [hrows]

/-- On a device of which the host holds no line, no access has a snoop to wait for (R446). -/
theorem Dev.snoopGate_of_calm (hc : d.calm = true) (any : Bool) (lines : Nat → Bool) : d.snoopGate any lines = (d, true) := by
  obtain ⟨hf, -, -⟩ := d.calm_iff.1 hc
  unfold Dev.snoopGate Dev.snoopSend
  rw [hf]
  exact congrArg (·, true) (by simp [Dev.each, Dev.setTiers])

end

/-! ### The commands -/

section
variable {q : List Instr} {d s1 : Dev} {n op : Nat} {p : SeqAt} {l : Line} (ha : d.alive = true) (hc : d.calm = true)
  (hat : d.AtEntry s1 n p l) (hop : dOp l = op) (hcoach : 0x0100 ≤ op ∧ op ≤ 0x0104) (hfew : (s1.instCmds p.g n).length < 8)
  (hhead : s1.headCheck l = none) {bad : (Nat → Byte) → Line → Option Refuse}
  {regs : (Nat → Byte) → Line → List (Nat × Nat) × List (Nat × Nat)} {act : Dev → Nat → Line → Dev}
include ha hc hat hop hcoach hfew hhead

/-- A Coach command that no check refuses and nothing holds is armed at its entry, and then acts. -/
theorem State.unit_coachArm_armed {rw : List (Nat × Nat) × List (Nat × Nat)} {s2 t : Dev} {g : Nat}
    (hbad : bad (s1.csRd n) l = none) (hrw : regs (s1.csRd n) l = rw)
    (hfree : (s1.instCmds p.g n).any (fun c => regConflict c rw.1 rw.2) = false) (hentry : s1.coachEntry p n l rw = (s2, g))
    (hact : act s2 g l = t) (ht : s2.StaysCalm False t) :
    (State.mk q d).unit (fun s => s.coachArm n op bad regs act) = .next ⟨q, t⟩ := by
  have h2 : d.StaysCalm False s2 := hat.staysCalm.coachEntry.of_fst hentry
  refine State.unit_of_staysCalm q ha hc ?_ (h2.andThen fun _ => ht)
  rw [hat.coachArm_armed hop hcoach hfew hhead hbad hrw hfree, hentry]
  exact hact

/-- One that a check refuses stops its team at the entry (R244). -/
theorem State.unit_coachArm_refused {r : Refuse} (hbad : bad (s1.csRd n) l = some r) :
    (State.mk q d).unit (fun s => s.coachArm n op bad regs act) = .next ⟨q, s1.seqRefuse p l r⟩ :=
  State.unit_of_staysCalm q ha hc (hat.coachArm_refused hop hcoach hfew hhead hbad) hat.staysCalm.seqRefuse

end

/-- A COPY on a calm device is armed as the others are: it has no snoop to wait for. -/
theorem exec_copy_eq {q : List Instr} {d : Dev} (n : Nat) (ha : d.alive = true) (hc : d.calm = true) :
    exec (.copy n) ⟨q, d⟩ = (State.mk q d).unit fun s => s.coachArm n 0x0104 copyBad (fun _ d =>
      ([(if (copyIn d).sloc then csKey n (copyIn d).src else jobKey (copyIn d).src, (copyIn d).srcSpan)],
        [(if (copyIn d).dloc then csKey n (copyIn d).dst else jobKey (copyIn d).dst, (copyIn d).dstSpan)])) fun s g d =>
          s.copyAct n g d := by
  refine (?_ : execCopy n ⟨q, d⟩ = _)
  unfold execCopy State.unit
  rw [State.upd_alive ha, State.upd_alive ha]
  unfold Dev.attempt
  simp only [Dev.snoopGate_of_calm hc, ite_self]
  cases d.seqAt n <;> rfl

/-- Settles O31, a command at a time: each is armed at its entry or refused there, and one that runs no pass then does what it
computes. -/
theorem coachCommandsAtTheirEntries : Obligations.CoachCommandsAtTheirEntries := by
  unfold Obligations.CoachCommandsAtTheirEntries
  intro q d d1 n p s1 bs l ha hc hseq hread hl hfew
  have hat : d1.AtEntry s1 n p l := ⟨hseq, bs, hread, hl⟩
  refine ⟨?_, ?_⟩
  · rintro rfl
    refine ⟨fun rw hop hhead hbad hrw hfree => ⟨?_, ?_⟩, fun rw hop hhead hbad hrw hfree => ⟨?_, ?_⟩, ?_, ?_,
      fun r hhead => ⟨fun hop hbad => ?_, fun hop hbad => ?_, fun hop hbad => ?_, fun hop hbad => ?_⟩⟩
    · exact (State.unit_coachArm_armed ha hc hat hop (by decide) hfew hhead hbad hrw.symm hfree rfl rfl (.refl _) :
        execMatmul n ⟨q, d1⟩ = _)
    · exact (s1.arm_eq _ _ _ _ _ _).1
    · exact (State.unit_coachArm_armed ha hc hat hop (by decide) hfew hhead hbad hrw.symm hfree rfl rfl (.refl _) :
        execGexpert n ⟨q, d1⟩ = _)
    · exact (s1.arm_eq _ _ _ _ _ _).1
    · rintro rw s2 g s3 o c0 r0 r1 hop hhead hbad rfl hrw hfree hentry hr hreads out pruned fell hout
      exact (State.unit_coachArm_armed ha hc hat hop (by decide) hfew hhead hbad hrw.symm hfree hentry
        (Dev.compressAct_eq hr hreads hout) ((Dev.StaysCalm.refl s2).coachRead.of_fst hreads).csWrite.setCoach :
        execCompress n ⟨q, d1⟩ = _)
    · intro rw s2 g s3 hop hhead hbad hrw hfree hentry c0 r0 r1 es scs fl hr hreads hout
      exact (State.unit_coachArm_armed ha hc hat hop (by decide) hfew hhead hbad hrw.symm hfree hentry
        (Dev.vectorAct_eq hr hreads hout)
        (((Dev.StaysCalm.refl s2).coachRead.of_fst hreads).csWrite.each Dev.StaysCalm.csWrite).setCoach :
        execVector n ⟨q, d1⟩ = _)
    · exact (State.unit_coachArm_refused ha hc hat hop (by decide) hfew hhead hbad : execMatmul n ⟨q, d1⟩ = _)
    · exact (State.unit_coachArm_refused ha hc hat hop (by decide) hfew hhead hbad : execGexpert n ⟨q, d1⟩ = _)
    · exact (State.unit_coachArm_refused ha hc hat hop (by decide) hfew hhead hbad : execCompress n ⟨q, d1⟩ = _)
    · exact (State.unit_coachArm_refused ha hc hat hop (by decide) hfew hhead hbad : execVector n ⟨q, d1⟩ = _)
  · rintro c rw s2 g s3 p0 hop hhead hbad rfl - - hgate hrw hfree hentry hrows
    have hpass : ∀ {any lines}, d.snoopGate any lines = (d1, true) → d1 = d := fun h =>
      (congrArg Prod.fst ((Dev.snoopGate_of_calm hc _ _).symm.trans h)).symm
    have hsame : d1 = d := by
      obtain ⟨-, -, h⟩ | ⟨-, h⟩ | ⟨-, -, h⟩ := hgate
      · exact h
      · exact hpass h
      · exact hpass h
    subst hsame
    rw [exec_copy_eq n ha hc]
    exact State.unit_coachArm_armed ha hc hat hop (by decide) hfew hhead hbad hrw.symm hfree hentry
      (Dev.copyAct_eq hrows) (((Dev.StaysCalm.refl s2).copyRows _).of_fst hrows).setCoach

end Sys2Proof.Machine
end

section
/-! The statement about control operations (06_tile_programs_and_commit.md): the arm of one at its entry, then what ends its wait, and
the answer of the bank. -/
namespace Sys2Proof.Machine

-- The short theorems below are elaborated one after another: side by side, their threads' stacks exceed the memory of the check.
set_option Elab.async false

/-! ### The arm of a control operation (R227) -/

section
variable {q : List Instr} {d s1 : Dev} {n op : Nat} {p : SeqAt} {l : Line} (ha : d.alive = true) (hc : d.calm = true)
  (hat : d.AtEntry s1 n p l) (hop : dOp l = op) (hctl : 1 ≤ op ∧ op ≤ 5) (htable : p.table = false)
  (hearlier : (s1.instCmds p.g n).filter (fun c => c.gen != p.inst.ctl) = []) (hhead : s1.headCheck l = none)
  {f : Dev → SeqAt → Line → Nat → Dev}
include hat hop hctl htable hearlier hhead

theorem Dev.AtEntry.ctlArm_armed {s2 : Dev} {g : Nat} (hbad : ctlBad l op = none) (hentry : s1.ctlEntry p n l = (s2, g)) :
    d.ctlArm n op f = f s2 p l g := by
  unfold Dev.ctlArm
  rw [hat.seqEntry_eq hop (.inr ⟨hctl.1, hctl.2, htable⟩)]
  simp only [hearlier, hhead, hbad, hentry, List.isEmpty_nil, Option.map_none, Bool.not_true, Bool.false_eq_true, ↓reduceIte]

theorem Dev.AtEntry.ctlArm_refused {b : Nat} (hbad : ctlBad l op = some b) :
    d.ctlArm n op f = s1.seqRefuse p l ⟨clsJOB, 0x041, b⟩ := by
  unfold Dev.ctlArm
  rw [hat.seqEntry_eq hop (.inr ⟨hctl.1, hctl.2, htable⟩)]
  simp only [hearlier, hhead, hbad, List.isEmpty_nil, Option.map_none, Bool.not_true, Bool.false_eq_true, ↓reduceIte]

include ha hc

/-- A control operation without a bad field is armed at its entry, and then acts. -/
theorem State.unit_ctlArm_armed {s2 t : Dev} {g : Nat} (hbad : ctlBad l op = none) (hentry : s1.ctlEntry p n l = (s2, g))
    (hact : f s2 p l g = t) (ht : s2.StaysCalm False t) :
    (State.mk q d).unit (fun s => s.ctlArm n op f) = .next ⟨q, t⟩ := by
  refine State.unit_of_staysCalm q ha hc ?_ ((hat.staysCalm.ctlEntry.of_fst hentry).andThen fun _ => ht)
  rw [hat.ctlArm_armed hop hctl htable hearlier hhead hbad hentry, hact]

/-- One with a bad field stops its team at the entry (R244). -/
theorem State.unit_ctlArm_refused {b : Nat} (hbad : ctlBad l op = some b) :
    (State.mk q d).unit (fun s => s.ctlArm n op f) = .next ⟨q, s1.seqRefuse p l ⟨clsJOB, 0x041, b⟩⟩ :=
  State.unit_of_staysCalm q ha hc (hat.ctlArm_refused hop hctl htable hearlier hhead hbad) hat.staysCalm.seqRefuse

omit hop hctl
variable {s2 : Dev} {g : Nat} (hentry : s1.ctlEntry p n l = (s2, g))
include hentry

/-- A TAKE at its entry asks its record (R232). -/
theorem exec_take_entry (hop : dOp l = 3) (hbad : ctlBad l 3 = none) (hagain : d.takeAgain n 3 = none) :
    exec (.take n) ⟨q, d⟩ = .next ⟨q, s2.takeSend p.g n (lnum l 16 8) n []⟩ := by
  refine (State.unit_of_staysCalm q ha hc ?_ (hat.staysCalm.ctlEntry.of_fst hentry).takeSend : execTake n ⟨q, d⟩ = _)
  simp only [hagain]
  rw [hat.ctlArm_armed hop (by decide) htable hearlier hhead hbad hentry]

/-- A TAKEQ at its entry asks the queue of its own Coach, with those of the team to follow where it may steal (R235). -/
theorem exec_takeq_entry {r : ProgRun} (hop : dOp l = 4) (hbad : ctlBad l 4 = none) (hagain : d.takeAgain n 4 = none)
    (hr : s2.team p.g = some r) :
    exec (.takeq n) ⟨q, d⟩ = .next ⟨q, s2.takeSend p.g n (lnum l 16 8 + n * lnum l 24 4) n
      (if lfield l 42 0 1 = 1 then stealOrder r.team n else [])⟩ := by
  refine (State.unit_of_staysCalm q ha hc ?_ (hat.staysCalm.ctlEntry.of_fst hentry).takeSend : execTakeq n ⟨q, d⟩ = _)
  simp only [hagain]
  rw [hat.ctlArm_armed hop (by decide) htable hearlier hhead hbad hentry]
  simp only [hr]

end

/-! ### What ends a control operation that waits -/

section
variable {q : List Instr} {d : Dev} {n g : Nat} {r : ProgRun} {i : ProgInst} (ha : d.alive = true) (hc : d.calm = true)
include ha hc

/-- An index that has been run through is done, and the next one is asked for (R232, R234). -/
theorem exec_take_again {w : WorkRun} {l : Line} (h : d.takeAgain n 3 = some (g, i, w, l)) : exec (.take n) ⟨q, d⟩
    = .next ⟨q, ((d.workDone n w).setInst g n fun i => { i with work := none }).takeSend g n (lnum l 16 8) n []⟩ := by
  refine (State.unit_of_staysCalm q ha hc ?_ (Dev.StaysCalm.refl d).workDone.setInst.takeSend : execTake n ⟨q, d⟩ = _)
  simp only [h]

/-- A SIGNAL of SCOPE 1 of a team of one live instance fires once that has reached it (R236). -/
theorem exec_signalTeamFire_single {a v : Nat} (hr : d.team g = some r) (hstopped : r.stopped = none) (hi : r.insts = [i])
    (hphase : i.phase = .run) (hdoing : i.doing = .signal a v) (hok : d.ctrBad a = none) :
    exec (.signalTeamFire g) ⟨q, d⟩ = .next ⟨q, (d.ctlCommit g i.coach i.ctl).ctrAdd a v⟩ := by
  refine (State.unit_of_staysCalm q ha hc ?_ (Dev.StaysCalm.refl d).ctlCommit.ctrAdd : execSignalTeamFire g ⟨q, d⟩ = _)
  have hlive : r.insts.filter (fun i => i.phase == .queued || i.phase == .run) = [i] := by simp [hi, hphase]
  simp [hr, hlive, hdoing, hstopped, hphase, hok, Dev.each]

variable (hon : d.instOn n = some (g, r, i))
include hon

section
variable {a v : Nat} {s1 : Dev} {bs : List Byte} (hdoing : i.doing = .waiting a v) (hread : d.cmdRead i.ctl a 8 = (s1, some bs))
include hdoing hread

theorem exec_waitSatisfied_eq : exec (.waitSatisfied n) ⟨q, d⟩
    = .next ⟨q, if v ≤ leNat bs then s1.ctlCommit g n i.ctl else s1⟩ := by
  have h1 : d.StaysCalm False s1 := (Dev.StaysCalm.refl d).cmdRead.of_fst hread
  refine (State.unit_of_staysCalm q ha hc ?_ ?_ : execWaitSatisfied n ⟨q, d⟩ = _)
  · simp only [hon, hdoing, hread]
  · exact .ite h1.ctlCommit h1

end

variable {k : TakeRun} (hdoing : i.doing = .taking k)
include hdoing

/-- A take without an answer is repeated, and the eighth stops the team (R233). -/
theorem exec_takeTimeout_eq : exec (.takeTimeout n) ⟨q, d⟩ = .next ⟨q, if 8 ≤ k.tries + 1
    then d.teamStop g n (r.entryAddr { i with work := none }) 2 (some (0x045, k.wrec))
    else (d.setInst g n fun i => { i with doing := .taking { k with tries := k.tries + 1 } }).setTeam g fun r =>
      { r with retries := r.retries + 1 }⟩ := by
  refine (State.unit_of_staysCalm q ha hc ?_ ?_ : execTakeTimeout n ⟨q, d⟩ = _)
  · simp only [hon, hdoing]
  · exact .ite (Dev.StaysCalm.refl d).teamStop (Dev.StaysCalm.refl d).setInst.setTeam

section
variable {c : Cmd} {s1 s2 s3 : Dev} {bs b : List Byte} {how : Nat} (hcmd : d.cmd i.ctl = some c) (hrec : inCH k.wrec 576 = true)
  (hread : d.cmdRead i.ctl k.wrec 576 = (s1, some bs)) (hgood : recBad (dOp c.desc == 4) k.wrec bs = false)
  (hfits : inCH k.wrec (recLen (dOp c.desc == 4) (leNat ((bs.drop 16).take 1))) = true)
  (hitem : ((if (dOp c.desc == 4) = true then s1.takeItem k.wrec n k.seq else none).elim (s1, some []) fun a =>
    s1.cmdRead i.ctl a 8) = (s3, some b))
include hcmd hrec hread hgood hfits hitem

omit ha hc hon hdoing hcmd hrec hgood hfits in
/-- A device on which a record and the item of a take have been read has not to wait either. -/
theorem staysCalm_takeRead : d.StaysCalm False s3 := by
  have h1 : d.StaysCalm False s1 := (Dev.StaysCalm.refl d).cmdRead.of_fst hread
  refine Dev.StaysCalm.of_fst ?_ hitem
  cases (if (dOp c.desc == 4) = true then s1.takeItem k.wrec n k.seq else none) with
  | none => exact h1
  | some a => exact h1.cmdRead

/-- An index granted is what the instance goes on with (R232). -/
theorem exec_takeAnswer_index {x : Nat} (hbank : s3.bankTake (dOp c.desc == 4) k.wrec n k.seq = (s2, some x, how)) (hhow : how ≠ 0) :
    exec (.takeAnswer n false) ⟨q, d⟩ = .next ⟨q, (s2.setTeam g fun r => { r with
      takes := r.takes + 1
      retaken := r.retaken + (how == 2).toNat
      steals := r.steals + (dOp c.desc == 4 && k.owner != n).toNat }).setInst g n fun i => { i with
        doing := .entry
        work := some ⟨k.wrec, x, 0, lnum c.desc 32 8, lnum c.desc 40 2⟩ }⟩ := by
  refine (State.unit_of_staysCalm q ha hc ?_ ((staysCalm_takeRead hread hitem).bankTake.of_fst hbank).setTeam.setInst :
    execTakeAnswer n false ⟨q, d⟩ = _)
  simp only [hon, hdoing, hcmd, hrec, hread, hgood, hfits, hitem, hbank, hhow, Bool.not_true, Bool.or_self, Bool.false_eq_true,
    ↓reduceIte]

/-- Where no queue is left that has an index, the take ends (R235). -/
theorem exec_takeAnswer_none (hleft : k.left = []) (hbank : s3.bankTake (dOp c.desc == 4) k.wrec n k.seq = (s2, none, how)) :
    exec (.takeAnswer n false) ⟨q, d⟩ = .next ⟨q, s2.ctlCommit g n i.ctl⟩ := by
  refine (State.unit_of_staysCalm q ha hc ?_ ((staysCalm_takeRead hread hitem).bankTake.of_fst hbank).ctlCommit :
    execTakeAnswer n false ⟨q, d⟩ = _)
  simp only [hon, hdoing, hcmd, hrec, hread, hgood, hfits, hitem, hbank, hleft, Bool.not_true, Bool.or_self, Bool.false_eq_true,
    ↓reduceIte]

end
end

/-- Settles O35, an operation at a time: each is armed at its entry or refused there; its wait ends with the counter, the bank, the
time limit or the last instance. -/
theorem controlOperations : Obligations.ControlOperations := by
  unfold Obligations.ControlOperations
  intro q d n ha hc
  refine ⟨?_, fun g i w l h => exec_take_again ha hc h, fun g r i hon => ⟨?_, fun k hdoing => ⟨?_, ?_, ?_⟩⟩, ?_⟩
  · intro p s1 bs l hseq hread hl htable hearlier hhead
    have hat : d.AtEntry s1 n p l := ⟨hseq, bs, hread, hl⟩
    refine ⟨fun s2 g hentry => ⟨fun hop hbad => ?_, fun hop hbad hscope => ?_, fun hop hbad hscope hok => ?_,
      fun hop hbad hagain => ?_, fun hop hbad hagain r hr => ?_⟩, fun b => ⟨fun hop hbad => ?_, fun hop hbad => ?_⟩⟩
    · exact (State.unit_ctlArm_armed ha hc hat hop (by decide) htable hearlier hhead hbad hentry rfl
        (Dev.StaysCalm.refl s2).setInst : execWait n ⟨q, d⟩ = _)
    · exact (State.unit_ctlArm_armed ha hc hat hop (by decide) htable hearlier hhead hbad hentry (if_pos hscope)
        (Dev.StaysCalm.refl s2).setInst : execSignal n ⟨q, d⟩ = _)
    · refine (State.unit_ctlArm_armed ha hc hat hop (by decide) htable hearlier hhead hbad hentry ?_
        (Dev.StaysCalm.refl s2).ctrAdd.ctlCommit : execSignal n ⟨q, d⟩ = _)
      simp [hscope, hok]
    · exact exec_take_entry ha hc hat htable hearlier hhead hentry hop hbad hagain
    · exact exec_takeq_entry ha hc hat htable hearlier hhead hentry hop hbad hagain hr
    · exact (State.unit_ctlArm_refused ha hc hat hop (by decide) htable hearlier hhead hbad : execWait n ⟨q, d⟩ = _)
    · exact (State.unit_ctlArm_refused ha hc hat hop (by decide) htable hearlier hhead hbad : execSignal n ⟨q, d⟩ = _)
  · intro a v s1 bs hdoing hread
    rw [exec_waitSatisfied_eq ha hc hon hdoing hread]
    exact ⟨fun h => by rw [if_pos h], fun h => by rw [if_neg (Nat.not_le.2 h)]⟩
  · intro h
    rw [exec_takeTimeout_eq ha hc hon hdoing, if_neg (Nat.not_le.2 h)]
  · intro h
    rw [exec_takeTimeout_eq ha hc hon hdoing, if_pos h]
  · intro c s1 bs s2 how hcmd hrec hread hgood hfits s3 b hitem
    exact ⟨fun x hbank hhow => exec_takeAnswer_index ha hc hon hdoing hcmd hrec hread hgood hfits hitem hbank hhow,
      fun hleft hbank => exec_takeAnswer_none ha hc hon hdoing hcmd hrec hread hgood hfits hitem hleft hbank⟩
  · intro g r i a v hr hstopped hi hphase hdoing hok
    exact exec_signalTeamFire_single ha hc hr hstopped hi hphase hdoing hok

end Sys2Proof.Machine
end

section
/-! The statement about tile programs (06_tile_programs_and_commit.md): the arm of a RUNPROG, the start and the end of an instance, and
the registers that a program captures. -/
namespace Sys2Proof.Machine

-- The short theorems below are elaborated one after another: side by side, their threads' stacks exceed the memory of the check.
set_option Elab.async false

/-! ### A team after an update -/

section
variable {s : Dev} {g n : Nat} {r : ProgRun}

theorem Dev.team_eq_some : s.team g = some r ↔ ∃ c, s.cmd g = some c ∧ c.body = .prog r := by
  unfold Dev.team
  rw [Option.bind_eq_some_iff]
  refine exists_congr fun c => and_congr_right fun _ => ?_
  cases c.body <;> simp

/-- The team of generation `g` when its run changes. -/
theorem Dev.team_setTeam {f : ProgRun → ProgRun} (h : s.team g = some r) : (s.setTeam g f).team g = some (f r) := by
  obtain ⟨c, hc, hb⟩ := Dev.team_eq_some.1 h
  refine Dev.team_eq_some.2 ⟨_, Dev.cmd_updCmd hc (by rw [hb]), by simp only [hb]⟩

theorem Dev.team_setInst {f : ProgInst → ProgInst} (h : s.team g = some r) :
    (s.setInst g n f).team g = some { r with insts := updFirst (fun i => i.coach == n) f r.insts } := Dev.team_setTeam h

end

/-! ### RUNPROG (R226, R228) -/

/-- The run of a RUNPROG as it is armed: CCH_STEP captured, one instance queued on each enabled Coach that it names. -/
def Dev.progRun (s : Dev) (l : Line) : ProgRun :=
  { prog := lnum l 16 8, len := lnum l 40 4, status := lnum l 32 8
    team := bitsSet 64 (lnum l 24 8 &&& s.reg Reg.SIZ_COACHMAP)
    insts := (bitsSet 64 (lnum l 24 8 &&& s.reg Reg.SIZ_COACHMAP)).map fun n => ⟨n, .queued, 0, none, .entry, 0⟩
    step := s.reg Reg.CCH_STEP, stopped := none, commits := 0, kills := 0, takes := 0, retries := 0, steals := 0, retaken := 0
    misses := [] }

section
variable {q : List Instr} {d : Dev} {src : Source} {l : Line} (ha : d.alive = true) (hc : d.calm = true) (hop : dOp l = 0x0105)
  (hteams : d.teams < 16) (hhead : d.headCheck l = none)
include ha hc hop hteams hhead

theorem exec_runprog_armed (hbad : d.runprogBad l = none) : exec (.runprog src l) ⟨q, d⟩ = .next ⟨q, (d.arm src l 0
    [(jobKey (lnum l 16 8), 64 * lnum l 40 4)] [(jobKey (lnum l 32 8), 64)] (.prog (d.progRun l))).1⟩ := by
  refine (State.unit_of_staysCalm q ha hc ?_ (Dev.StaysCalm.refl d).arm : execRunprog src l ⟨q, d⟩ = _)
  simp only [hop, Nat.not_le.2 hteams, hhead, hbad, ne_eq, not_true_eq_false, decide_false, Bool.or_self, Bool.false_eq_true,
    ↓reduceIte]
  rfl

theorem exec_runprog_refused {k : Nat} (hbad : d.runprogBad l = some k) :
    exec (.runprog src l) ⟨q, d⟩ = .next ⟨q, d.refuse src l ⟨clsJOB, 0x046, k⟩⟩ := by
  refine (State.unit_of_staysCalm q ha hc ?_ (Dev.StaysCalm.refl d).refuse : execRunprog src l ⟨q, d⟩ = _)
  simp only [hop, Nat.not_le.2 hteams, hhead, hbad, ne_eq, not_true_eq_false, decide_false, Bool.or_self, Bool.false_eq_true,
    ↓reduceIte]

end

/-! ### Instances (R226, R259) -/

/-- The Harness follows the start of an instance of team `g` on Coach n: a halt that the Coach had is one of this team (R567, R570). -/
def Dev.haltsFollow (s : Dev) (n g : Nat) : Dev :=
  s.setDbg fun h => { h with
    halts := (h.halts.filter fun x => x.1 != n || x.2.isNone).map fun x => if x.1 = n then (n, some g) else x
    passes := h.passes.filter (· != n) }

/-- The instance on Coach n ends, and its team with the last one. -/
def Dev.instEnd (s : Dev) (g n : Nat) : Dev := (s.setInst g n fun i => { i with phase := .ended, ctl := 0 }).teamFinish g

theorem Dev.StaysCalm.instEnd {s t : Dev} {g n : Nat} (h : s.StaysCalm False t) : s.StaysCalm False (t.instEnd g n) :=
  h.setInst.teamFinish

section
variable {q : List Instr} {d : Dev} {n g : Nat} {r : ProgRun} (ha : d.alive = true) (hc : d.calm = true)
include ha hc

/-- A free enabled Coach starts the instance of the first RUNPROG that has one queued there. -/
theorem exec_instStart_first (hfree : d.instOn n = none) (hon : d.coachOn n = true) (hjob : d.jobState = jRUNNING)
    (hfirst : d.cmds.findSome? (fun c => match c.body with
      | .prog r => if r.insts.any fun i => i.coach == n && i.phase == .queued then some c.gen else none
      | _ => none) = some g) :
    exec (.instStart n) ⟨q, d⟩ = .next ⟨q, (d.haltsFollow n g).setInst g n fun i => { i with phase := .run }⟩ := by
  refine (State.unit_of_staysCalm q ha hc ?_ (Dev.StaysCalm.refl d).setDbg.setInst : execInstStart n ⟨q, d⟩ = _)
  refine (if_neg (by simp [hfree, hon, hjob])).trans ?_
  dsimp only
  split
  next g' heq =>
    obtain rfl : g = g' := Option.some.inj (hfirst.symm.trans heq)
    rfl
  next heq => exact absurd (hfirst.symm.trans heq) (by simp)

variable {i : ProgInst} (hon : d.instOn n = some (g, r, i))
include hon

/-- An instance that has run through a program without END ends there. -/
theorem exec_progEnd_length (hstopped : r.stopped = none) (hdoing : i.doing = .entry) (hwork : i.work = none) (hpc : r.len ≤ i.pc)
    (hcmds : d.instCmds g n = []) (hdying : d.instDying g n = []) :
    exec (.progEnd n) ⟨q, d⟩ = .next ⟨q, d.instEnd g n⟩ := by
  refine (State.unit_of_staysCalm q ha hc ?_ (Dev.StaysCalm.refl d).instEnd : execProgEnd n ⟨q, d⟩ = _)
  simp only [hon, hstopped, hdoing, hwork, hpc, hcmds, hdying, Option.isNone_none, beq_self_eq_true, decide_true, List.isEmpty_nil,
    Bool.and_self, ↓reduceIte]
  rfl

/-- END commits at its entry, and the instance ends. -/
theorem exec_progEnd_entry {p : SeqAt} {s1 s2 : Dev} {l : Line} {c : Nat} (hpc : i.pc < r.len) (hat : d.AtEntry s1 n p l)
    (hop : dOp l = 5) (htable : p.table = false) (hcmds : s1.instCmds p.g n = []) (hhead : s1.headCheck l = none)
    (hbad : ctlBad l 5 = none) (hentry : s1.ctlEntry p n l = (s2, c)) :
    exec (.progEnd n) ⟨q, d⟩ = .next ⟨q, (s2.ctlCommit p.g n c).instEnd p.g n⟩ := by
  refine (State.unit_of_staysCalm q ha hc ?_ (hat.staysCalm.ctlEntry.of_fst hentry).ctlCommit.instEnd : execProgEnd n ⟨q, d⟩ = _)
  simp only [hon, Nat.not_le.2 hpc, decide_false, Bool.and_false, Bool.false_eq_true, ↓reduceIte]
  rw [hat.ctlArm_armed hop (by decide) htable (by simp [hcmds]) hhead hbad hentry]
  rfl

end

/-- Settles O34: a RUNPROG is armed or refused, an instance starts and ends, and the two registers stand still while a team is in
flight. -/
theorem tileProgramsRun : Obligations.TileProgramsRun := by
  unfold Obligations.TileProgramsRun
  intro q d ha hc
  refine ⟨fun src l hop hteams hhead => ⟨fun hbad => ?_, fun k hbad => exec_runprog_refused ha hc hop hteams hhead hbad⟩,
    fun n g r hfree hon hjob hfirst hr => ?_,
    fun n g r i hon hstopped hdoing hwork hpc hcmds hdying => exec_progEnd_length ha hc hon hstopped hdoing hwork hpc hcmds hdying,
    fun n p s1 bs l s2 c g r i hseq hon hpc hread hl hop htable hcmds hhead hbad hentry =>
      exec_progEnd_entry ha hc hon hpc ⟨hseq, bs, hread, hl⟩ hop htable hcmds hhead hbad hentry,
    fun v w => ⟨fun hteams => ⟨?_, ?_⟩, fun hteams => ?_⟩⟩
  · obtain ⟨-, hcmds, hgen, heq⟩ := d.arm_eq src l 0 [(jobKey (lnum l 16 8), 64 * lnum l 40 4)] [(jobKey (lnum l 32 8), 64)]
      (.prog (d.progRun l))
    exact ⟨_, _, d.progRun l, exec_runprog_armed ha hc hop hteams hhead hbad, hcmds, rfl, rfl, rfl, rfl, rfl, rfl, rfl, rfl, rfl,
      hgen, by rw [heq]⟩
  · exact ⟨_, exec_instStart_first ha hc hfree hon hjob hfirst, Dev.team_setInst (s := d.haltsFollow n g) hr, rfl, rfl⟩
  · exact (State.upd_of_alive q ha (if_neg (by simp [hteams])) : execCchStepWrite v ⟨q, d⟩ = _)
  · exact (State.upd_of_alive q ha (if_neg (by simp [hteams])) : execCchSeedWrite w ⟨q, d⟩ = _)
  · simp only [List.mem_cons, List.not_mem_nil, or_false, forall_eq_or_imp, forall_eq]
    exact ⟨(State.upd_of_alive q ha (if_pos hteams) : execCchStepWrite v ⟨q, d⟩ = _),
      (State.upd_of_alive q ha (if_pos hteams) : execCchSeedWrite w ⟨q, d⟩ = _)⟩

end Sys2Proof.Machine
end

section
/-! The statement about commits and kills (06_tile_programs_and_commit.md): a command whose outputs have left commits as its body says,
a kill takes what its cause says, and the completion of a kill ends the command. -/
namespace Sys2Proof.Machine

-- The short theorems below are elaborated one after another: side by side, their threads' stacks exceed the memory of the check.
set_option Elab.async false

/-! ### The commit of a Coach command, a part at a time (R202, R237, R238) -/

/-- The record of an offence, where a command met one (R202). -/
def Dev.noteOffence (s : Dev) (g n code : Nat) (o : Offence) : Dev :=
  match o.first with
  | some a => s.record clsSPARSE code a g blkCCH n
  | none => s

/-- The records of a Coach command's offences. -/
def Dev.noteOffences (s : Dev) (g : Nat) (r : CoachRun) : Dev :=
  ((s.noteOffence g r.coach 0x002 r.offs.dup).noteOffence g r.coach 0x003 r.offs.rng).noteOffence g r.coach 0x004 r.offs.blk

/-- The counters of a Coach command's floating-point events. -/
def Dev.countEvents (s : Dev) (r : CoachRun) : Dev :=
  (((s.bump Reg.CCH_CNT_NAN r.flags.nan).bump Reg.CCH_CNT_OVF r.flags.ovf).bump Reg.CCH_CNT_SAT r.flags.sat).bump
    Reg.CCH_CNT_MXNAN r.mxSeen.length

/-- The sparsity report of a Coach command that has one. -/
def Dev.writeReport (s : Dev) (g : Nat) (c : Cmd) (r : CoachRun) : Dev :=
  match s.reportAt r.coach c.desc with
  | some (a, mode) => s.csWrite r.coach a (r.report g mode)
  | none => s

/-- The commit counted in the team, which forgets the kills of the command by mismatch (R174). -/
def Dev.teamCommits (s : Dev) (r : CoachRun) : Dev :=
  s.setTeam r.team fun t => { t with
    commits := t.commits + 1
    misses := t.misses.filter fun (y : Nat × Nat × Nat) => !(y.1 == (missKey r).1 && y.2.1 == (missKey r).2) }

/-- A Coach command with all that its commit comes with but HAND. -/
def Dev.coachWritten (s : Dev) (g : Nat) (c : Cmd) (r : CoachRun) : Dev :=
  (((s.noteOffences g r).countEvents r).writeReport g c r).teamCommits r

namespace Dev.StaysCalm
variable {same : Prop} {s t : Dev} {g : Nat} {r : CoachRun}

theorem noteOffence {n code : Nat} {o : Offence} (h : s.StaysCalm same t) : s.StaysCalm same (t.noteOffence g n code o) := by
  unfold Dev.noteOffence
  split
  · exact h.record
  · exact h

theorem writeReport {c : Cmd} (h : s.StaysCalm same t) : s.StaysCalm same (t.writeReport g c r) := by
  unfold Dev.writeReport
  split
  · exact h.csWrite
  · exact h

theorem coachWritten {c : Cmd} (h : s.StaysCalm same t) : s.StaysCalm same (t.coachWritten g c r) :=
  h.noteOffence.noteOffence.noteOffence.bump.bump.bump.bump.writeReport.setTeam

end Dev.StaysCalm

section
variable {s : Dev} {g : Nat} {c : Cmd} {r : CoachRun}

/-- A Coach command that has nothing left to wait for commits, the first of its instance that has not, with HAND last. -/
theorem Dev.coachCommit_eq (hdone : r.done = true) (hctl : r.ctl = false) (hverdict : s.verdictDue g = false)
    (hfirst : ((s.instCmds r.team r.coach).find? fun x => match x.body with | .coach y => !y.ctl | _ => false).map (·.gen) = some g)
    (hhand : s.ctrBad (dHand c.desc) = none) :
    s.coachCommit g c r = ((s.coachWritten g c r).commit g 0).instCheck r.team r.coach := by
  unfold Dev.coachCommit
  refine (if_neg ?_).trans ((if_neg (by simp [hhand])).trans rfl)
  simp only [hdone, hctl, hverdict, Bool.not_true, Bool.or_self, Bool.false_or, decide_eq_true_eq]
  exact not_not.2 hfirst

/-- Without offences and without a report, the events are counted and no more. -/
theorem Dev.coachWritten_plain (hdup : r.offs.dup.first = none) (hrng : r.offs.rng.first = none) (hblk : r.offs.blk.first = none)
    (hrep : s.reportAt r.coach c.desc = none) : s.coachWritten g c r = (s.countEvents r).teamCommits r := by
  have hnotes : s.noteOffences g r = s := by
    unfold Dev.noteOffences Dev.noteOffence
    simp only [hdup, hrng, hblk]
  have hnone : (s.countEvents r).writeReport g c r = s.countEvents r := by
    have h : (s.countEvents r).reportAt r.coach c.desc = none := hrep
    unfold Dev.writeReport
    simp only [h]
  unfold Dev.coachWritten
  rw [hnotes, hnone]

end

/-! ### COMMAND_COMMIT (R237) -/

/-- What the commit of a command does once its outputs have left. -/
def Dev.commitOut (s : Dev) (g : Nat) (c : Cmd) : Dev :=
  match c.body with
  | .coach r => s.coachCommit g c r
  | .move r => s.moveCommit g c r
  | .mfx r => s.mfxCommit g c r
  | .matomic r => s.matomicCommit g c r
  | .port r => s.portCommit g r
  | _ => s

section
variable {q : List Instr} {d : Dev} {g : Nat} {c : Cmd} (ha : d.alive = true) (hc : d.calm = true) (hcmd : d.cmd g = some c)
include ha hc hcmd

/-- A commit lets a collective go on (R411). -/
theorem exec_commandCommit_coll {r : CollRun} (hb : c.body = .coll r) :
    exec (.commandCommit g) ⟨q, d⟩ = .next ⟨q, d.collProgress g⟩ := by
  refine (State.unit_of_staysCalm q ha hc ?_ (Dev.StaysCalm.refl d).collProgress : execCommandCommit g ⟨q, d⟩ = _)
  simp only [hcmd, hb]

theorem exec_commandCommit_exch {r : ExchRun} (hb : c.body = .exch r) :
    exec (.commandCommit g) ⟨q, d⟩ = .next ⟨q, d.exchProgress g⟩ := by
  refine (State.unit_of_staysCalm q ha hc ?_ (Dev.StaysCalm.refl d).exchProgress : execCommandCommit g ⟨q, d⟩ = _)
  simp only [hcmd, hb]

theorem exec_commandCommit_route {r : RouteRun} (hb : c.body = .route r) :
    exec (.commandCommit g) ⟨q, d⟩ = .next ⟨q, d.combineProgress g⟩ := by
  refine (State.unit_of_staysCalm q ha hc ?_ (Dev.StaysCalm.refl d).combineProgress : execCommandCommit g ⟨q, d⟩ = _)
  simp only [hcmd, hb]

/-- Any other command that has done what its commit waits for, and whose outputs have left, commits. -/
theorem exec_commandCommit_out {s t : Dev} (hready : d.commitReady g c = true) (hgate : d.outGate c = (s, true))
    (ht : s.commitOut g c = t) (hcalm : s.StaysCalm False t) : exec (.commandCommit g) ⟨q, d⟩ = .next ⟨q, t⟩ := by
  have h1 : d.StaysCalm False s := (Dev.StaysCalm.refl d).outGate.of_fst hgate
  refine (State.unit_of_staysCalm q ha hc ?_ (h1.andThen fun _ => hcalm) : execCommandCommit g ⟨q, d⟩ = _)
  subst ht
  unfold Dev.commitOut
  have hbody := hready
  unfold Dev.commitReady at hbody
  cases hb : c.body <;> simp only [hcmd, hb, hready, hgate, Bool.not_true, Bool.false_eq_true, ↓reduceIte] at hbody ⊢

section
variable {s : Dev} (hgate : d.outGate c = (s, true)) (hhand : s.ctrBad (dHand c.desc) = none)
include hgate hhand

theorem exec_commandCommit_coach {r : CoachRun} (hb : c.body = .coach r) (hdone : r.done = true) (hctl : r.ctl = false)
    (hverdict : d.verdictDue g = false) (hclean : s.verdictDue g = false)
    (hfirst : ((s.instCmds r.team r.coach).find? fun x => match x.body with | .coach y => !y.ctl | _ => false).map (·.gen) = some g) :
    exec (.commandCommit g) ⟨q, d⟩ = .next ⟨q, ((s.coachWritten g c r).commit g 0).instCheck r.team r.coach⟩ := by
  refine exec_commandCommit_out ha hc hcmd ?_ hgate ?_ (Dev.StaysCalm.refl s).coachWritten.commit.instCheck
  · simp [Dev.commitReady, hb, hdone, hctl, hverdict]
  · rw [← Dev.coachCommit_eq hdone hctl hclean hfirst hhand]
    simp only [Dev.commitOut, hb]

theorem exec_commandCommit_mfx {r : MfxRun} (hb : c.body = .mfx r) (hsettled : d.mfxSettled g r = true)
    (hstill : s.mfxSettled g r = true) :
    exec (.commandCommit g) ⟨q, d⟩ = .next ⟨q, (s.wrBytes (chAddr r.rpt) (r.report g)).commit g 0⟩ := by
  refine exec_commandCommit_out ha hc hcmd ?_ hgate ?_ (Dev.StaysCalm.refl s).wrBytes.commit
  · simp [Dev.commitReady, hb, hsettled]
  · simp [Dev.commitOut, hb, Dev.mfxCommit, hstill, hhand]

theorem exec_commandCommit_matomic {s2 : Dev} {r : MatomicRun} {old : Nat} (hb : c.body = .matomic r) (hgot : r.got = some old)
    (hwrote : r.wrote = false) (hwrite : s.cmdWrite g r.result (leBytes 8 old) = (s2, true)) (hheld : s2.writeHeld g = false) :
    exec (.commandCommit g) ⟨q, d⟩ = .next ⟨q, s2.commit g 0⟩ := by
  refine exec_commandCommit_out ha hc hcmd ?_ hgate ?_ ((Dev.StaysCalm.refl s).cmdWrite.of_fst hwrite).commit
  · simp [Dev.commitReady, hb, hgot]
  · simp [Dev.commitOut, hb, Dev.matomicCommit, hgot, hwrote, hhand, hwrite, hheld]

end
end

/-! ### COMMAND_KILL (R243) -/

/-- A command that holds no write, on a device without lines of lent HBM, had asked nothing of a lender. -/
theorem Dev.lentEnd_of_calm {d : Dev} {g : Nat} (hc : d.calm = true) (hheld : d.writeHeld g = false) : d.lentEnd g = d := by
  obtain ⟨-, hlines, -⟩ := d.calm_iff.1 hc
  have hreqs : (d.mmf.reqs ++ d.mmf.queue).any (fun q => q.use == .lent g) = false := by
    unfold Dev.writeHeld at hheld
    simp only [Bool.or_eq_false_iff] at hheld
    exact hheld.1.2
  unfold Dev.lentEnd
  exact if_pos (by rw [hlines, hreqs]; rfl)

section
variable {q : List Instr} {d : Dev} {g : Nat} {c : Cmd} (ha : d.alive = true) (hcmd : d.cmd g = some c)
include ha hcmd

section
variable {r : CoachRun} (hb : c.body = .coach r) (hctl : r.ctl = false)
include hb hctl

theorem exec_commandKill_residue : exec (.commandKill g .residue) ⟨q, d⟩ = .next ⟨q, d.missKill g⟩ := by
  refine (State.upd_of_alive q ha ?_ : execCommandKill g .residue ⟨q, d⟩ = _)
  simp only [hcmd, hb, hctl, Bool.false_eq_true, ↓reduceIte]

theorem exec_commandKill_failed_coach : exec (.commandKill g .failed) ⟨q, d⟩ = .next ⟨q, d.instKill g r 2 false⟩ := by
  refine (State.upd_of_alive q ha ?_ : execCommandKill g .failed ⟨q, d⟩ = _)
  simp only [hcmd, Dev.cmdFail, hb, hctl, Bool.false_eq_true, ↓reduceIte]

end

section
variable {r : CollRun} {gr : Group} (hb : c.body = .coll r) (hgr : d.group r.x.gid = some gr)
include hb

omit ha hcmd in
theorem cmdInst_coll : cmdInst c = some (r.x.gid, r.x.stream, r.x.xid) := by
  simp [cmdInst, hb, CmdBody.xfer]

omit ha hcmd in
theorem cmdStalls_coll : cmdStalls c = r.x.stalls := by
  simp [cmdStalls, hb, CmdBody.xfer]

include hgr

theorem exec_commandKill_failed_coll : exec (.commandKill g .failed) ⟨q, d⟩
    = .next ⟨q, (d.groupKill g 2 false).sendAborts gr r.x.stream r.x.xid 7⟩ := by
  refine (State.upd_of_alive q ha ?_ : execCommandKill g .failed ⟨q, d⟩ = _)
  simp only [hcmd, Dev.cmdFail, hb, Dev.groupFault, Option.bind_some, cmdInst_coll hb, hgr]

theorem exec_commandKill_fabric_coll : exec (.commandKill g .fabric) ⟨q, d⟩
    = .next ⟨q, (d.groupKill g 2 (r.x.stalls == 0)).sendAborts gr r.x.stream r.x.xid 4⟩ := by
  refine (State.upd_of_alive q ha ?_ : execCommandKill g .fabric ⟨q, d⟩ = _)
  simp only [hcmd, cmdInst_coll hb, cmdStalls_coll hb, hgr]

end

theorem exec_commandKill_aborted (hc : d.calm = true) (hb : (∃ gid, c.body = .gdissolve gid) ∨ c.body = .sstop ∨ c.body = .control)
    (hheld : d.writeHeld g = false) : exec (.commandKill g .aborted) ⟨q, d⟩
      = .next ⟨q, { d with cmds := d.cmds.filter fun x => x.gen != g, dying := d.dying ++ [⟨c, 3, false⟩] }⟩ := by
  refine (State.upd_of_alive q ha ?_ : execCommandKill g .aborted ⟨q, d⟩ = _)
  have hkill : d.cmdAbort g = d.kill g 3 false := by
    obtain ⟨gid, hb⟩ | hb | hb := hb <;> simp only [Dev.cmdAbort, hcmd, hb]
  simp only [hcmd, hkill]
  rw [Dev.kill_eq d 3 false hcmd, Dev.lentEnd_of_calm hc hheld]

end

/-! ### KILL_COMPLETE (R243) -/

/-- The command of a completed kill that neither belongs to a team nor runs again. -/
def Dying.ends (x : Dying) : Prop :=
  (∃ gid, x.cmd.body = .gdissolve gid) ∨ x.cmd.body = .sstop ∨ x.cmd.body = .control ∨ (∃ r, x.cmd.body = .mfx r)
    ∨ (∃ r, x.cmd.body = .move r) ∨ (∃ r, x.cmd.body = .coll r ∧ x.rerun = false)

section
variable {d : Dev} {g : Nat} {x : Dying} (hends : x.ends)
include hends

theorem Dev.killed_of_ends : d.killed x = d.complete x.cmd x.status 0 := by
  unfold Dev.killed
  obtain ⟨gid, hb⟩ | hb | hb | ⟨r, hb⟩ | ⟨r, hb⟩ | ⟨r, hb, hrerun⟩ := hends
  case inr.inr.inr.inr.inr => simp only [hb, hrerun, Bool.false_eq_true, ↓reduceIte]
  all_goals simp only [hb]

theorem Dev.killDone_of_ends (hx : d.dying.find? (fun x => x.cmd.gen == g) = some x) :
    d.killDone g = (d.killSettle g).complete x.cmd x.status 0 := by
  unfold Dev.killDone
  simp only [hx, Dev.killed_of_ends hends]
  obtain ⟨gid, hb⟩ | hb | hb | ⟨r, hb⟩ | ⟨r, hb⟩ | ⟨r, hb, -⟩ := hends <;> simp only [hb]

theorem exec_killComplete_ends {q : List Instr} (ha : d.alive = true) (hc : d.calm = true)
    (hx : d.dying.find? (fun x => x.cmd.gen == g) = some x) :
    exec (.killComplete g) ⟨q, d⟩ = .next ⟨q, (d.killSettle g).complete x.cmd x.status 0⟩ :=
  (State.unit_of_staysCalm q ha hc (Dev.killDone_of_ends hends hx) (Dev.StaysCalm.refl d).killSettle.complete :
    execKillComplete g ⟨q, d⟩ = _)

end

/-- Settles O36, a kind of command at a time: what it does on its commit, on each cause of a kill, and when its kill completes. -/
theorem commitAndKill : Obligations.CommitAndKill := by
  unfold Obligations.CommitAndKill
  intro q d g ha hc
  refine ⟨fun c hcmd => ⟨fun r hb => ?_, fun r hb => ?_, fun r hb => ?_, ?_, ?_, ?_, fun r hb hctl => ⟨?_, ?_⟩,
    fun r gr hb hgr => ⟨?_, ?_⟩, fun gid hb hheld => ?_⟩, fun x hx hends => ?_⟩
  · exact exec_commandCommit_coll ha hc hcmd hb
  · exact exec_commandCommit_exch ha hc hcmd hb
  · exact exec_commandCommit_route ha hc hcmd hb
  · rintro s1 r k hb hdone hctl hverdict hgate hclean rfl hfirst hhand hdup hrng hblk hrep
    rw [exec_commandCommit_coach ha hc hcmd hgate hhand hb hdone hctl hverdict hclean hfirst,
      Dev.coachWritten_plain hdup hrng hblk hrep]
    rfl
  · intro s1 r hb hsettled hgate hstill hhand
    exact exec_commandCommit_mfx ha hc hcmd hgate hhand hb hsettled hstill
  · intro s1 s2 r old hb hgate hgot hwrote hhand hwrite hheld
    exact exec_commandCommit_matomic ha hc hcmd hgate hhand hb hgot hwrote hwrite hheld
  · exact exec_commandKill_residue ha hcmd hb hctl
  · exact exec_commandKill_failed_coach ha hcmd hb hctl
  · exact exec_commandKill_failed_coll ha hcmd hb hgr
  · exact exec_commandKill_fabric_coll ha hcmd hb hgr
  · exact exec_commandKill_aborted ha hcmd hc (hb.imp_left fun h => ⟨gid, h⟩) hheld
  · exact exec_killComplete_ends hends ha hc hx

end Sys2Proof.Machine
end

section
/-! The statement about the hand-over at a commit (06_tile_programs_and_commit.md): what a write of bytes, the end of a command and the
records of a Coach command leave alone, then each kind of commit as one that writes its report and, last, HAND. -/
namespace Sys2Proof.Machine

-- The short theorems below are elaborated one after another: side by side, their threads' stacks exceed the memory of the check.
set_option Elab.async false

/-! ### Numbers as bytes (R10) -/

@[simp] theorem leBytes_length (n x : Nat) : (leBytes n x).length = n := by
  induction n generalizing x with
  | zero => rfl
  | succ n ih => simp [leBytes, ih]

/-- The number that `n` bytes of a number spell. -/
theorem leNat_leBytes (n x : Nat) : leNat (leBytes n x) = x % 256 ^ n := by
  induction n generalizing x with
  | zero => simp [leBytes, leNat, Nat.mod_one]
  | succ n ih =>
    have h : (BitVec.ofNat 8 x).toNat = x % 256 := BitVec.toNat_ofNat x 8
    rw [leBytes, leNat, ih, h, pow_succ', Nat.mod_mul]

/-! ### Bytes written -/

section
variable (s : Dev) (k : Nat) (bs : List Byte)

/-- What memory holds after a write rests on what it held, and on nothing else. -/
theorem Dev.wrBytes_mem : (s.wrBytes k bs).mem
    = ((List.range bs.length).zip bs).foldl (fun m p => Sparse.put memDefault m (k + p.1) p.2) s.mem :=
  (List.foldl_hom Dev.mem fun _ _ => rfl).symm

@[simp] theorem Dev.wrBytes_cmds : (s.wrBytes k bs).cmds = s.cmds :=
  Dev.each_same (f := fun s (p : Nat × Byte) => s.wr (k + p.1) p.2) Dev.cmds (fun _ _ => rfl) _ s

theorem Dev.wrBytes_mem_congr {s t : Dev} (h : s.mem = t.mem) (k : Nat) (bs : List Byte) :
    (s.wrBytes k bs).mem = (t.wrBytes k bs).mem := by
  rw [Dev.wrBytes_mem, Dev.wrBytes_mem, h]

/-- The bytes written read back. -/
theorem Dev.rdBytes_wrBytes_same : (s.wrBytes k bs).rdBytes k bs.length = bs := by
  refine List.ext_getElem (by simp [Dev.rdBytes]) fun i _ hi => ?_
  simp [Dev.rdBytes, Dev.rd_wrBytes_in s k i bs hi]

/-- Bytes apart from those written read as before. -/
theorem Dev.rdBytes_wrBytes_apart {a n : Nat} (h : a + n ≤ k ∨ k + bs.length ≤ a) :
    (s.wrBytes k bs).rdBytes a n = s.rdBytes a n := by
  refine List.map_congr_left fun i hi => Dev.rd_wrBytes_out s bs ?_
  have : i < n := List.mem_range.1 hi
  omega

/-- A line that is good stays good when the condition of lines is forgotten, as a write that covers them does (R299). -/
theorem Dev.lineOf_forget {s t : Dev} {a : Nat} (p : Nat → Bool) (h : s.lineOf a = .good)
    (hbad : t.bad = s.bad.filter fun l => p l.1) : t.lineOf a = .good := by
  unfold Dev.lineOf at h ⊢
  rw [hbad, Sparse.get_filter_key badDefault p]
  split
  · exact h
  · rfl

theorem Dev.lineOf_congr {s t : Dev} {a : Nat} (h : s.lineOf a = .good) (hbad : t.bad = s.bad) : t.lineOf a = .good := by
  unfold Dev.lineOf at h ⊢
  rwa [hbad]

variable {s}

theorem Dev.lineOf_wrBytes {a : Nat} (h : s.lineOf a = .good) : (s.wrBytes k bs).lineOf a = .good := by
  have hfold : (((List.range bs.length).zip bs).foldl (fun s p => s.wr (k + p.1) p.2) s).bad = s.bad :=
    Dev.each_same (f := fun s (p : Nat × Byte) => s.wr (k + p.1) p.2) Dev.bad (fun _ _ => rfl) _ s
  refine Dev.lineOf_forget (fun l => !(decide ((k + 63) / 64 ≤ l) && decide (l < (k + bs.length) / 64))) h ?_
  rw [← hfold]
  rfl

theorem Dev.lineOf_csWrite {a n : Nat} (h : s.lineOf a = .good) : (s.csWrite n k bs).lineOf a = .good :=
  Dev.lineOf_forget (fun l => !(decide (csGran n (k + 7) ≤ l) && decide (l < csGran n (k + bs.length))))
    (Dev.lineOf_wrBytes (csKey n k) bs h) rfl

end

/-! ### The end of a command (R453) -/

section
variable (s : Dev)

/-- The commands in hand and memory, of which the end of a command changes only the first. -/
def Dev.cmdsMem (s : Dev) : List Cmd × List Host.Cell := (s.cmds, s.mem)

theorem Dev.setRing_cmdsMem (r : Nat) (x : Ring) : (s.setRing r x).cmdsMem = s.cmdsMem := rfl
theorem Dev.bump_cmdsMem (off n : Nat) : (s.bump off n).cmdsMem = s.cmdsMem := rfl
theorem Dev.setFld_cmdsMem (off lsb n v : Nat) : (s.setFld off lsb n v).cmdsMem = s.cmdsMem := rfl
theorem Dev.emit_cmdsMem (o : Out) : (s.emit o).cmdsMem = s.cmdsMem := rfl

theorem Dev.writeRec_cmdsMem (r : Nat) (c : CplRec) : (s.writeRec r c).cmdsMem = s.cmdsMem := by
  unfold Dev.writeRec
  rw [Dev.bump_cmdsMem, Dev.setFld_cmdsMem, Dev.setRing_cmdsMem, Dev.emit_cmdsMem]

theorem Dev.drainRecs_cmdsMem (r n : Nat) : (s.drainRecs r n).cmdsMem = s.cmdsMem := by
  induction n generalizing s with
  | zero => rfl
  | succ n ih =>
    unfold Dev.drainRecs
    split
    · rfl
    · split
      · rfl
      · rw [ih, Dev.writeRec_cmdsMem, Dev.setRing_cmdsMem]

theorem Dev.postRec_cmdsMem (r : Nat) (c : CplRec) : (s.postRec r c).cmdsMem = s.cmdsMem := by
  unfold Dev.postRec Dev.ringSettle
  dsimp only
  split
  · exact (Dev.drainRecs_cmdsMem _ _ _).trans rfl
  · exact (Dev.drainRecs_cmdsMem _ _ _).trans rfl

theorem Dev.complete_cmdsMem (c : Cmd) (status result : Nat) : (s.complete c status result).cmdsMem = s.cmdsMem := by
  unfold Dev.complete
  split
  · exact (Dev.postRec_cmdsMem _ _ _).trans rfl
  · rfl
  · rfl

theorem Dev.finish_cmdsMem {g : Nat} {c : Cmd} (hcmd : s.cmd g = some c) (status result : Nat) :
    (s.finish g status result).cmdsMem = (s.cmds.filter fun x => x.gen != g, s.mem) := by
  unfold Dev.finish
  simp only [hcmd]
  exact (Dev.complete_cmdsMem _ c status result).trans (congrArg (Prod.mk _) (Dev.lentEnd_mem s g))

theorem Dev.cmd_congr {s t : Dev} (h : t.cmds = s.cmds) (g : Nat) : t.cmd g = s.cmd g := by
  unfold Dev.cmd
  rw [h]

@[simp] theorem Dev.ctrAdd_cmds (a n : Nat) : (s.ctrAdd a n).cmds = s.cmds := by
  unfold Dev.ctrAdd
  split
  · rfl
  · dsimp only
    split
    · exact Dev.wrBytes_cmds _ _ _
    · exact Dev.wrBytes_cmds _ _ _

/-- A commit that HAND lets through ends the command; of memory it changes what the counter's advance does (R237). -/
theorem Dev.commit_cmdsMem {g : Nat} {c : Cmd} (hcmd : s.cmd g = some c) (hhand : s.ctrBad (dHand c.desc) = none) (result : Nat) :
    (s.commit g result).cmdsMem = (s.cmds.filter fun x => x.gen != g, (s.ctrAdd (dHand c.desc) 1).mem) := by
  have hcmd' : (s.ctrAdd (dHand c.desc) 1).cmd g = some c := (Dev.cmd_congr (s.ctrAdd_cmds _ _) g).trans hcmd
  unfold Dev.commit
  simp only [hcmd, hhand, Option.isSome_none, Bool.false_eq_true, ↓reduceIte]
  rw [Dev.finish_cmdsMem _ hcmd', Dev.ctrAdd_cmds]

end

/-! ### Teams that have not stopped -/

/-- How a command's team has stopped, if it is a team that has. -/
def Cmd.stop (c : Cmd) : Nat × Option (Nat × Nat) :=
  (c.gen, match c.body with | .prog r => r.stopped | _ => none)

/-- The team of generation `g`, if there is one, has not stopped. -/
def Dev.teamRuns (s : Dev) (g : Nat) : Prop := ∀ r, s.team g = some r → r.stopped = none

section
variable {s t : Dev} {g h : Nat}

theorem Dev.teamRuns_iff : s.teamRuns g ↔ ∀ x ∈ (s.cmds.map Cmd.stop).find? (fun x => x.1 == g), x.2 = none := by
  have hfind : (s.cmds.map Cmd.stop).find? (fun x => x.1 == g) = (s.cmd g).map Cmd.stop := by
    simp [Dev.cmd, List.find?_map, Function.comp_def, Cmd.stop]
  rw [hfind]
  constructor
  · intro hruns x hx
    obtain ⟨c, hc, rfl⟩ := Option.map_eq_some_iff.1 hx
    cases hb : c.body with
    | prog r => simpa [Cmd.stop, hb] using hruns r (Dev.team_eq_some.2 ⟨c, hc, hb⟩)
    | _ => simp [Cmd.stop, hb]
  · intro hnone r hr
    obtain ⟨c, hc, hb⟩ := Dev.team_eq_some.1 hr
    simpa [Cmd.stop, hb] using hnone c.stop (by simp [hc])

theorem Dev.teamRuns_congr (hstops : t.cmds.map Cmd.stop = s.cmds.map Cmd.stop) (hruns : s.teamRuns g) : t.teamRuns g := by
  rw [Dev.teamRuns_iff] at hruns ⊢
  rwa [hstops]

/-- A command that ends stops no team. -/
theorem Dev.teamRuns_filter (hcmds : t.cmds = s.cmds.filter fun x => x.gen != h) (hruns : s.teamRuns g) : t.teamRuns g := by
  intro r hr
  obtain ⟨c, hc, hb⟩ := Dev.team_eq_some.1 hr
  refine hruns r (Dev.team_eq_some.2 ⟨c, ?_, hb⟩)
  have hgen : c.gen = g := Dev.cmd_gen hc
  have hne : g ≠ h := by
    have hmem := List.mem_of_find?_eq_some hc
    rw [hcmds, List.mem_filter, hgen] at hmem
    simpa using hmem.2
  unfold Dev.cmd at hc ⊢
  rw [hcmds, List.find?_filter] at hc
  rw [← hc]
  refine congrArg (List.find? · s.cmds) (funext fun x => ?_)
  by_cases hx : x.gen = g <;> simp [hx, hne]

/-- Nothing of an instance is to be ended while its team runs. -/
theorem Dev.instCheck_of_teamRuns (n : Nat) (hruns : s.teamRuns g) : s.instCheck g n = s := by
  unfold Dev.instCheck
  split
  · rfl
  next r hr => exact if_neg (by simp [hruns r hr])

end

/-! ### What precedes HAND -/

section
variable (s : Dev) (g : Nat) (c : Cmd) (r : CoachRun)

theorem Dev.record_stops (cls code detail gen block inst : Nat) :
    (s.record cls code detail gen block inst).cmds.map Cmd.stop = s.cmds.map Cmd.stop := by
  unfold Dev.record
  dsimp only
  split <;> exact map_updFirst (by exact fun _ => rfl) _

theorem Dev.noteOffence_frame (n code : Nat) (o : Offence) : (s.noteOffence g n code o).mem = s.mem
    ∧ (s.noteOffence g n code o).bad = s.bad ∧ (s.noteOffence g n code o).cmds.map Cmd.stop = s.cmds.map Cmd.stop := by
  unfold Dev.noteOffence
  split
  · exact ⟨Dev.record_mem .., Dev.record_bad .., Dev.record_stops ..⟩
  · exact ⟨rfl, rfl, rfl⟩

theorem Dev.noteOffences_frame : (s.noteOffences g r).mem = s.mem ∧ (s.noteOffences g r).bad = s.bad
    ∧ (s.noteOffences g r).cmds.map Cmd.stop = s.cmds.map Cmd.stop := by
  unfold Dev.noteOffences
  simp only [Dev.noteOffence_frame, and_self]

@[simp] theorem Dev.countEvents_mem : (s.countEvents r).mem = s.mem := rfl
@[simp] theorem Dev.countEvents_bad : (s.countEvents r).bad = s.bad := rfl
@[simp] theorem Dev.countEvents_cmds : (s.countEvents r).cmds = s.cmds := rfl
@[simp] theorem Dev.csWrite_mem (n off : Nat) (bs : List Byte) : (s.csWrite n off bs).mem = (s.wrBytes (csKey n off) bs).mem := rfl
@[simp] theorem Dev.csWrite_cmds (n off : Nat) (bs : List Byte) : (s.csWrite n off bs).cmds = s.cmds := Dev.wrBytes_cmds s _ _
@[simp] theorem Dev.teamCommits_mem : (s.teamCommits r).mem = s.mem := rfl
@[simp] theorem Dev.teamCommits_bad : (s.teamCommits r).bad = s.bad := rfl

theorem Dev.teamCommits_stops : (s.teamCommits r).cmds.map Cmd.stop = s.cmds.map Cmd.stop :=
  map_updFirst (fun c => by unfold Cmd.stop; split <;> simp [*]) _

@[simp] theorem Dev.writeReport_cmds : (s.writeReport g c r).cmds = s.cmds := by
  unfold Dev.writeReport
  split
  · exact Dev.csWrite_cmds ..
  · rfl

theorem Dev.lineOf_writeReport {s : Dev} {a : Nat} (h : s.lineOf a = .good) : (s.writeReport g c r).lineOf a = .good := by
  unfold Dev.writeReport
  split
  · exact Dev.lineOf_csWrite _ _ h
  · exact h

end

/-- Memory with the report of a command written. -/
def Dev.withReport (s : Dev) (rep : Option (Nat × List Byte)) : Dev :=
  match rep with
  | some x => s.wrBytes x.1 x.2
  | none => s

/-- The report of a Coach command: the key at which it stands in its Coach's store, and its bytes (R202). -/
def Dev.coachReport (s : Dev) (g : Nat) (c : Cmd) (r : CoachRun) : Option (Nat × List Byte) :=
  (s.reportAt r.coach c.desc).map fun x => (csKey r.coach x.1, r.report g x.2)

/-- The report of a Coach command rests on memory alone, and so does what its write makes of memory. -/
theorem Dev.writeReport_mem {s d : Dev} (h : s.mem = d.mem) (g : Nat) (c : Cmd) (r : CoachRun) :
    (s.writeReport g c r).mem = (d.withReport (d.coachReport g c r)).mem := by
  have hrep : s.reportAt r.coach c.desc = d.reportAt r.coach c.desc := by
    have hrd : s.csRd r.coach = d.csRd r.coach := funext fun _ => Dev.rd_congr h _
    unfold Dev.reportAt
    rw [hrd]
  unfold Dev.writeReport Dev.coachReport
  rw [hrep]
  cases d.reportAt r.coach c.desc with
  | none => exact h
  | some x => exact (Dev.csWrite_mem ..).trans (Dev.wrBytes_mem_congr h _ _)

/-- In `v`, which was `d`, the report of command `g` is written and its HAND can be advanced. -/
structure Dev.ReadyToHand (d v : Dev) (g hand : Nat) (rep : Option (Nat × List Byte)) : Prop where
  mem : v.mem = (d.withReport rep).mem
  cmd : ∃ c, v.cmd g = some c ∧ dHand c.desc = hand
  good : hand ≠ 0 → v.lineOf (chAddr hand) = .good

/-- From `d` to `t` command `g` has ended, with its report and HAND written and no other byte (R237). -/
def Dev.HandedOver (d t : Dev) (g hand : Nat) (rep : Option (Nat × List Byte)) : Prop :=
  t.cmd g = none
    ∧ (∀ k, (∀ x, rep = some x → ¬ (x.1 ≤ k ∧ k < x.1 + x.2.length)) →
        (hand ≠ 0 → ¬ (chAddr hand ≤ k ∧ k < chAddr hand + 8)) → t.rd k = d.rd k)
    ∧ ((∀ x, rep = some x → hand ≠ 0 → x.1 + x.2.length ≤ chAddr hand ∨ chAddr hand + 8 ≤ x.1) →
        (∀ x, rep = some x → t.rdBytes x.1 x.2.length = x.2)
        ∧ (hand ≠ 0 → t.ctr hand = (d.ctr hand + 1) % 2 ^ 64))

section
variable {d v t : Dev} {g hand : Nat} {rep : Option (Nat × List Byte)}

theorem Dev.ctrBad_of_good (h : hand ≠ 0 → v.lineOf (chAddr hand) = .good) : v.ctrBad hand = none := by
  unfold Dev.ctrBad
  split
  · rfl
  next hne => rw [h hne]

/-- The advance of a counter in a good line is a write of its eight bytes. -/
theorem Dev.ctrAdd_of_good (hne : hand ≠ 0) (h : v.lineOf (chAddr hand) = .good) (n : Nat) :
    v.ctrAdd hand n = v.wrBytes (chAddr hand) (leBytes 8 ((v.ctr hand + n) % 2 ^ 64)) := by
  unfold Dev.ctrAdd
  simp only [hne, h, ↓reduceIte, reduceCtorEq]
  rfl

theorem Dev.rdBytes_congr (h : t.mem = v.mem) (k n : Nat) : t.rdBytes k n = v.rdBytes k n :=
  List.map_congr_left fun _ _ => Dev.rd_congr h _

theorem Dev.ctr_wrBytes_same (s : Dev) (hand x : Nat) : (s.wrBytes (chAddr hand) (leBytes 8 x)).ctr hand = x % 2 ^ 64 := by
  have h := s.rdBytes_wrBytes_same (chAddr hand) (leBytes 8 x)
  rw [leBytes_length] at h
  unfold Dev.ctr Dev.rdNum
  rw [h, leNat_leBytes]
  norm_num

theorem Dev.withReport_rd_out {k : Nat} (h : ∀ x, rep = some x → ¬ (x.1 ≤ k ∧ k < x.1 + x.2.length)) :
    (d.withReport rep).rd k = d.rd k := by
  cases rep with
  | none => rfl
  | some x => exact Dev.rd_wrBytes_out d x.2 (h x rfl)

theorem Dev.withReport_ctr (h : ∀ x, rep = some x → x.1 + x.2.length ≤ chAddr hand ∨ chAddr hand + 8 ≤ x.1) :
    (d.withReport rep).ctr hand = d.ctr hand := by
  cases rep with
  | none => rfl
  | some x => exact congrArg leNat (Dev.rdBytes_wrBytes_apart d x.1 x.2 (h x rfl).symm)

/-- A commit from there hands over: its report and HAND are written, and nothing else. -/
theorem Dev.ReadyToHand.handedOver (h : d.ReadyToHand v g hand rep) (ht : t.cmdsMem = (v.commit g 0).cmdsMem) :
    d.HandedOver t g hand rep := by
  obtain ⟨hmem, ⟨c, hcmd, rfl⟩, hgood⟩ := h
  have hend := ht.trans (v.commit_cmdsMem hcmd (Dev.ctrBad_of_good hgood) 0)
  have hcmds : t.cmds = v.cmds.filter fun x => x.gen != g := congrArg Prod.fst hend
  have htmem : t.mem = (v.ctrAdd (dHand c.desc) 1).mem := congrArg Prod.snd hend
  refine ⟨?_, fun k hrep hhand => ?_, fun hapart => ⟨?_, fun hne => ?_⟩⟩
  · unfold Dev.cmd
    rw [hcmds, List.find?_filter, List.find?_eq_none]
    simp
  · have hv : (v.ctrAdd (dHand c.desc) 1).rd k = v.rd k := by
      by_cases hne : dHand c.desc = 0
      · simp [Dev.ctrAdd, hne]
      · rw [Dev.ctrAdd_of_good hne (hgood hne)]
        exact Dev.rd_wrBytes_out v _ (by simpa using hhand hne)
    rw [Dev.rd_congr htmem, hv, Dev.rd_congr hmem, Dev.withReport_rd_out hrep]
  · rintro x rfl
    have hv : (v.ctrAdd (dHand c.desc) 1).rdBytes x.1 x.2.length = v.rdBytes x.1 x.2.length := by
      by_cases hne : dHand c.desc = 0
      · simp [Dev.ctrAdd, hne]
      · rw [Dev.ctrAdd_of_good hne (hgood hne)]
        exact Dev.rdBytes_wrBytes_apart v _ _ (by simpa using hapart x rfl hne)
    rw [Dev.rdBytes_congr htmem, hv, Dev.rdBytes_congr hmem]
    exact Dev.rdBytes_wrBytes_same d x.1 x.2
  · have hv : v.ctr (dHand c.desc) = d.ctr (dHand c.desc) :=
      (congrArg leNat (Dev.rdBytes_congr hmem _ _)).trans (Dev.withReport_ctr fun x hx => hapart x hx hne)
    have hread : t.ctr (dHand c.desc) = (v.ctrAdd (dHand c.desc) 1).ctr (dHand c.desc) :=
      congrArg leNat (Dev.rdBytes_congr htmem _ _)
    rw [hread, Dev.ctrAdd_of_good hne (hgood hne), Dev.ctr_wrBytes_same, Nat.mod_mod, hv]

end

/-! ### Each kind of commit -/

section
variable {d : Dev} {g : Nat} {c : Cmd} {rep : Option (Nat × List Byte)}

/-- With nothing of a command waiting to be written and no line at the host, its outputs may leave. -/
theorem Dev.outGate_of_calm (hc : d.calm = true) (hheld : d.writeHeld c.gen = false) : d.outGate c = (d, true) :=
  (if_neg (by simp [hheld])).trans (Dev.snoopGate_of_calm hc _ _)

section
variable (hcmd : d.cmd g = some c) (hgood : dHand c.desc ≠ 0 → d.lineOf (chAddr (dHand c.desc)) = .good)
include hcmd hgood

/-- A command whose report is a span of bytes, or that has none, once that is written. -/
theorem Dev.readyToHand_withReport (rep : Option (Nat × List Byte)) : d.ReadyToHand (d.withReport rep) g (dHand c.desc) rep := by
  cases rep with
  | none => exact ⟨rfl, ⟨c, hcmd, rfl⟩, hgood⟩
  | some x => exact ⟨rfl, ⟨c, (Dev.cmd_congr (d.wrBytes_cmds x.1 x.2) g).trans hcmd, rfl⟩,
      fun hne => Dev.lineOf_wrBytes x.1 x.2 (hgood hne)⟩

/-- A Coach command with all but HAND written. -/
theorem Dev.readyToHand_coachWritten (hc : d.calm = true) (r : CoachRun) :
    d.ReadyToHand (d.coachWritten g c r) g (dHand c.desc) (d.coachReport g c r) := by
  obtain ⟨c', hcmd', hhead⟩ := Dev.StaysCalm.cmd_head ((Dev.StaysCalm.refl d).coachWritten (g := g) (c := c) (r := r)) hc hcmd
  have hdesc : c'.desc = c.desc := congrArg (fun x => x.2.1) hhead
  obtain ⟨hmem, hbad, -⟩ := d.noteOffences_frame g r
  refine ⟨?_, ⟨c', hcmd', by rw [hdesc]⟩, fun hne => ?_⟩
  · unfold Dev.coachWritten
    rw [Dev.teamCommits_mem]
    exact Dev.writeReport_mem ((Dev.countEvents_mem _ r).trans hmem) g c r
  · unfold Dev.coachWritten
    refine Dev.lineOf_congr (Dev.lineOf_writeReport g c r ?_) (Dev.teamCommits_bad _ r)
    exact Dev.lineOf_congr (hgood hne) ((Dev.countEvents_bad _ r).trans hbad)

end

/-- The team of a Coach command that commits runs on. -/
theorem Dev.teamRuns_coachWritten {r : CoachRun} {n : Nat} (hruns : d.teamRuns n) : (d.coachWritten g c r).teamRuns n := by
  obtain ⟨-, -, hstops⟩ := d.noteOffences_frame g r
  refine Dev.teamRuns_congr ?_ hruns
  unfold Dev.coachWritten
  rw [Dev.teamCommits_stops, Dev.writeReport_cmds, Dev.countEvents_cmds, hstops]

/-- A MOVE that has ended is no longer waited for. -/
def Dev.moveForgotten (s : Dev) (g : Nat) : Dev := s.setTiers fun t => { t with noted := t.noted.filter (· != .cmd g) }

theorem Dev.moveForgotten_cmdsMem (s : Dev) (g : Nat) : (s.moveForgotten g).cmdsMem = s.cmdsMem := rfl

theorem Dev.StaysCalm.moveForgotten {same : Prop} {s t : Dev} (h : s.StaysCalm same t) : s.StaysCalm same (t.moveForgotten g) := h.frame

section
variable {q : List Instr} (ha : d.alive = true) (hc : d.calm = true) (hcmd : d.cmd g = some c)
  (hheld : d.writeHeld g = false)
include ha hc hcmd hheld

theorem exec_commandCommit_move {r : MoveRun} (hhand : d.ctrBad (dHand c.desc) = none) (hb : c.body = .move r)
    (hsettled : d.moveSettled g r = true) :
    exec (.commandCommit g) ⟨q, d⟩ = .next ⟨q, ((d.wrBytes (chAddr r.rpt) (r.report g)).commit g 0).moveForgotten g⟩ := by
  refine exec_commandCommit_out ha hc hcmd ?_ (Dev.outGate_of_calm hc (Dev.cmd_gen hcmd ▸ hheld)) ?_
    (Dev.StaysCalm.refl d).wrBytes.commit.moveForgotten
  · simp [Dev.commitReady, hb, hsettled]
  · simp [Dev.commitOut, hb, Dev.moveCommit, hsettled, hhand, Dev.moveForgotten]

theorem exec_commandCommit_matomic_wrote {r : MatomicRun} {old : Nat} (hb : c.body = .matomic r) (hgot : r.got = some old)
    (hwrote : r.wrote = true) : exec (.commandCommit g) ⟨q, d⟩ = .next ⟨q, d.commit g 0⟩ := by
  refine exec_commandCommit_out ha hc hcmd ?_ (Dev.outGate_of_calm hc (Dev.cmd_gen hcmd ▸ hheld)) ?_ (Dev.StaysCalm.refl d).commit
  · simp [Dev.commitReady, hb, hgot]
  · simp [Dev.commitOut, hb, Dev.matomicCommit, hgot, hwrote, hheld]

/-- Each kind of commit writes its report and then, last, HAND (R237, R238). -/
theorem exec_commandCommit_handsOver (hgood : dHand c.desc ≠ 0 → d.lineOf (chAddr (dHand c.desc)) = .good)
    (hrep : CommitReport d g c rep) : ∃ t, exec (.commandCommit g) ⟨q, d⟩ = .next ⟨q, t⟩ ∧ d.HandedOver t g (dHand c.desc) rep := by
  have hhand : d.ctrBad (dHand c.desc) = none := Dev.ctrBad_of_good hgood
  have hgate : d.outGate c = (d, true) := Dev.outGate_of_calm hc (Dev.cmd_gen hcmd ▸ hheld)
  have hready := Dev.readyToHand_withReport hcmd hgood rep
  obtain ⟨r, old, hb, hgot, hwrote, rfl⟩ | ⟨r, hb, hsettled, rfl⟩ | ⟨r, hb, hsettled, rfl⟩
    | ⟨r, hb, hdone, hctl, hverdict, hfirst, hruns, rfl⟩ := hrep
  · exact ⟨_, exec_commandCommit_matomic_wrote ha hc hcmd hheld hb hgot hwrote, hready.handedOver rfl⟩
  · exact ⟨_, exec_commandCommit_move ha hc hcmd hheld hhand hb hsettled, hready.handedOver (Dev.moveForgotten_cmdsMem _ g)⟩
  · exact ⟨_, exec_commandCommit_mfx ha hc hcmd hgate hhand hb hsettled hsettled, hready.handedOver rfl⟩
  · have hwritten := Dev.readyToHand_coachWritten hcmd hgood hc r
    obtain ⟨c', hcmd', hhand'⟩ := hwritten.cmd
    have hcommit := Dev.commit_cmdsMem _ hcmd' (Dev.ctrBad_of_good (hhand' ▸ hwritten.good)) 0
    have hon : ((d.coachWritten g c r).commit g 0).teamRuns r.team :=
      Dev.teamRuns_filter (congrArg Prod.fst hcommit) (Dev.teamRuns_coachWritten hruns)
    refine ⟨_, exec_commandCommit_coach ha hc hcmd hgate hhand hb hdone hctl hverdict hverdict hfirst, ?_⟩
    rw [Dev.instCheck_of_teamRuns _ hon]
    exact hwritten.handedOver rfl

end
end

/-- Settles O37, kind by kind: the report is written before HAND, and HAND, whose counter is good, is all that the end of the command
changes of memory. -/
theorem commitIncrementsHand : Obligations.CommitIncrementsHand := by
  unfold Obligations.CommitIncrementsHand
  intro q d g c rep ha _ hc hcmd hrep hheld _ hgood
  exact exec_commandCommit_handsOver ha hc hcmd hheld hgood hrep

end Sys2Proof.Machine
end

section
/-! The memory tiers (08_memory_tiers.md): the fields of a page-table entry, the keys of a page's home, and what the Dray does where
nothing waits for it. Then the statement about page-table operations. -/
namespace Sys2Proof.Machine

-- The short theorems below are elaborated one after another: side by side, their threads' stacks exceed the memory of the check.
set_option Elab.async false

/-! ### Fields of a page-table entry (Table 08-3) -/

/-- A field of a field is a field. -/
theorem bits_bits (x lo : Nat) {w k n : Nat} (h : k + n ≤ w) : bits (bits x lo w) k n = bits x (lo + k) n := by
  have hmod : bits x lo w = x / 2 ^ lo % 2 ^ w := rfl
  rw [hmod, bits_mod _ h]
  unfold bits
  rw [Nat.div_div_eq_div_mul, pow_add]

section
variable (e : Nat) {lo w v lo' w' : Nat}

theorem bits_pteWith_same : bits (pteWith e lo w v) lo w = v % 2 ^ w := bits_setBits_same _ _ _ _

theorem bits_pteWith_ne (h : lo' + w' ≤ lo ∨ lo + w ≤ lo') : bits (pteWith e lo w v) lo' w' = bits e lo' w' :=
  h.elim (fun h => bits_setBits_below _ _ _ _ h) fun h => bits_setBits_above _ _ _ _ h

/-- A part of a field written is that part of what was written. -/
theorem bits_pteWith_within {k : Nat} (h : k + w' ≤ w) : bits (pteWith e lo w v) (lo + k) w' = bits v k w' := by
  rw [← bits_bits _ _ h, bits_pteWith_same, bits_mod _ h]

theorem bit_pteWith_ne {i : Nat} (h : i + 1 ≤ lo ∨ lo + w ≤ i) : bit (pteWith e lo w v) i = bit e i := by
  rw [bit_eq_bits, bits_pteWith_ne e h, bit_eq_bits]

end

section
variable (s : Dev)

@[simp] theorem Dev.pte_setPte_same (p e : Nat) : (s.setPte p e).pte p = e % 2 ^ 128 := by
  simp [Dev.pte, Dev.setPte]

theorem Dev.pte_setPte_ne {p r : Nat} (e : Nat) (h : r ≠ p) : (s.setPte p e).pte r = s.pte r := by
  simp [Dev.pte, Dev.setPte, Sparse.get_put_ne _ _ _ h]

theorem Dev.pte_congr {s t : Dev} (h : t.pt = s.pt) (p : Nat) : t.pte p = s.pte p := by unfold Dev.pte; rw [h]

/-- A field of the entry that a page was given. -/
theorem Dev.bits_pte_setPte (p e : Nat) {lo w : Nat} (h : lo + w ≤ 128) : bits ((s.setPte p e).pte p) lo w = bits e lo w := by
  rw [Dev.pte_setPte_same, bits_mod _ h]

theorem Dev.bit_pte_setPte (p e : Nat) {i : Nat} (h : i + 1 ≤ 128) : bit ((s.setPte p e).pte p) i = bit e i := by
  rw [bit_eq_bits, Dev.bits_pte_setPte s p e h, ← bit_eq_bits]

/-- A state other than UNREACHABLE is set by a write of the entry, and of nothing else. -/
theorem Dev.setMstate_of_reachable (p : Nat) {m : Nat} (h : m ≠ mstUnreachable) :
    s.setMstate p m = s.setPte p (pteWith (s.pte p) 5 3 m) := by
  unfold Dev.setMstate
  simp only [h, ↓reduceIte]

end

/-! ### Where nothing waits for the Dray -/

section
variable {s : Dev}

/-- Where the host holds no line, no snoop is sent, and the access goes on (R446). -/
theorem Dev.snoopGate_of_filter_nil (h : s.tiers.filter = []) (any : Bool) (lines : Nat → Bool) :
    s.snoopGate any lines = (s, true) := by
  unfold Dev.snoopGate Dev.snoopSend
  rw [h]
  simp [Dev.each, Dev.setTiers]

theorem Dev.pump_of_reqs_nil (h : s.tiers.reqs = []) : s.pump = s.ttEndCheck := by
  unfold Dev.pump
  rw [h]
  exact congrArg Dev.ttEndCheck (by simp only [Dev.setTiers]; rw [← h])

theorem Dev.ttEndCheck_of_stopped (h : s.ttRun = false) : s.ttEndCheck = s := by
  have : s.flag Reg.DRY_STAT 12 = false := h
  simp [Dev.ttEndCheck, this]

theorem Dev.ttEndCheck_of_going (h : s.tiers.ttEnd = false) : s.ttEndCheck = s := by
  simp [Dev.ttEndCheck, h]

theorem Dev.afterVictim_of_waits_nil (h : s.tiers.waits = []) (page : Nat) : s.afterVictim page = s := by
  unfold Dev.afterVictim Dev.setTiers
  simp only [h, List.filter_nil, List.map_nil, List.nil_append]
  rw [← h]

end

/-! ### Page-table operations (R275, R276) -/

/-- The entry that an accepted write leaves: ACC, AGE and MSTATE 0, but for the state of a page whose home cannot be reached, and
the next SEQ (R276). -/
def Dev.ptWritten (s : Dev) (p e : Nat) : Nat :=
  let new := pteWith (pteWith (pteWith e 5 4 0) 16 8 0) 80 16 (bits (s.pte p) 80 16 + 1)
  if s.homeLost e then pteWith new 5 3 mstUnreachable else new

section
variable (s : Dev) (p e : Nat)

/-- Whether a home can be reached rests on the home's fields. -/
theorem Dev.homeLost_congr {e e' : Nat} (hhome : pteHome e' = pteHome e) (hframe : pteFrame e' = pteFrame e)
    (hlender : pteLender e' = pteLender e) : s.homeLost e' = s.homeLost e := by
  unfold Dev.homeLost
  rw [hhome, hframe, hlender]

/-- The fields that a write takes from the entry as they are. -/
theorem Dev.bits_ptWritten {lo w : Nat} (h : lo + w ≤ 5 ∨ 9 ≤ lo ∧ lo + w ≤ 16 ∨ 24 ≤ lo ∧ lo + w ≤ 80) :
    bits (s.ptWritten p e) lo w = bits e lo w := by
  unfold Dev.ptWritten
  dsimp only
  split
  · rw [bits_pteWith_ne _ (by omega), bits_pteWith_ne _ (by omega), bits_pteWith_ne _ (by omega), bits_pteWith_ne _ (by omega)]
  · rw [bits_pteWith_ne _ (by omega), bits_pteWith_ne _ (by omega), bits_pteWith_ne _ (by omega)]

theorem Dev.bit_ptWritten {i : Nat} (h : i + 1 ≤ 5) : bit (s.ptWritten p e) i = bit e i := by
  rw [bit_eq_bits, Dev.bits_ptWritten s p e (.inl h), bit_eq_bits]

theorem Dev.pteMstate_ptWritten : pteMstate (s.ptWritten p e) = if s.homeLost e then mstUnreachable else 0 := by
  unfold Dev.ptWritten pteMstate
  dsimp only
  split
  · exact bits_pteWith_same _
  · rw [bits_pteWith_ne _ (by omega), bits_pteWith_ne _ (by omega)]
    exact bits_pteWith_within e (k := 0) (by omega)

theorem Dev.acc_ptWritten : bit (s.ptWritten p e) 8 = false := by
  have hacc : bits (pteWith e 5 4 0) 8 1 = 0 := bits_pteWith_within e (k := 3) (by omega)
  rw [bit_eq_bits]
  unfold Dev.ptWritten
  dsimp only
  split
  · rw [bits_pteWith_ne _ (by omega), bits_pteWith_ne _ (by omega), bits_pteWith_ne _ (by omega), hacc]; rfl
  · rw [bits_pteWith_ne _ (by omega), bits_pteWith_ne _ (by omega), hacc]; rfl

theorem Dev.age_ptWritten : bits (s.ptWritten p e) 16 8 = 0 := by
  unfold Dev.ptWritten
  dsimp only
  split
  · rw [bits_pteWith_ne _ (by omega), bits_pteWith_ne _ (by omega), bits_pteWith_same, Nat.zero_mod]
  · rw [bits_pteWith_ne _ (by omega), bits_pteWith_same, Nat.zero_mod]

theorem Dev.seq_ptWritten : bits (s.ptWritten p e) 80 16 = (bits (s.pte p) 80 16 + 1) % 2 ^ 16 := by
  unfold Dev.ptWritten
  dsimp only
  split
  · rw [bits_pteWith_ne _ (by omega), bits_pteWith_same]
  · rw [bits_pteWith_same]

/-- A page homed below a port is noted as lost with its port; nothing else changes. -/
theorem Dev.noteLost_eq : s.noteLost p = { s with tiers := { s.tiers with lostBy := (s.noteLost p).tiers.lostBy } } := by
  unfold Dev.noteLost
  split <;> rfl

/-- The state that an accepted write leaves, the Dray's requests aside. -/
def Dev.ptUpdated (s : Dev) (p e : Nat) : Dev :=
  let s1 := (s.setPte p (s.ptWritten p e)).bump Reg.MEM_CNT_PTUPD 1
  (if s1.homeLost (s.ptWritten p e) then s1.noteLost p else s1).setFlag Reg.MEM_PTUPDGO 0 false

theorem Dev.ptUpdated_eq : s.ptUpdated p e
    = { ((s.setPte p (s.ptWritten p e)).bump Reg.MEM_CNT_PTUPD 1).setFlag Reg.MEM_PTUPDGO 0 false with
        tiers := { s.tiers with lostBy := (s.ptUpdated p e).tiers.lostBy } } := by
  unfold Dev.ptUpdated
  dsimp only
  split
  · rw [Dev.noteLost_eq]
    rfl
  · rfl

theorem Dev.pte_ptUpdated : (s.ptUpdated p e).pte p = s.ptWritten p e % 2 ^ 128 := by
  rw [Dev.ptUpdated_eq]
  exact Dev.pte_setPte_same _ _ _

theorem Dev.bits_pte_ptUpdated {lo w : Nat} (h : lo + w ≤ 128) : bits ((s.ptUpdated p e).pte p) lo w = bits (s.ptWritten p e) lo w := by
  rw [Dev.pte_ptUpdated, bits_mod _ h]

theorem Dev.bit_pte_ptUpdated {i : Nat} (h : i + 1 ≤ 128) : bit ((s.ptUpdated p e).pte p) i = bit (s.ptWritten p e) i := by
  rw [bit_eq_bits, Dev.bits_pte_ptUpdated s p e h, ← bit_eq_bits]

theorem Dev.pte_ptUpdated_ne {r : Nat} (h : r ≠ p) : (s.ptUpdated p e).pte r = s.pte r := by
  rw [Dev.ptUpdated_eq]
  exact Dev.pte_setPte_ne _ _ h

theorem Dev.reg_ptUpdated (k : Nat) : (s.ptUpdated p e).reg k
    = (((s.setPte p (s.ptWritten p e)).bump Reg.MEM_CNT_PTUPD 1).setFlag Reg.MEM_PTUPDGO 0 false).reg k := by
  rw [Dev.ptUpdated_eq]
  rfl

theorem Dev.regsBut_ptUpdated : s.RegsBut (s.ptUpdated p e) [Reg.MEM_PTUPDGO, Reg.MEM_CNT_PTUPD] := fun k hk => by
  simp only [List.mem_cons, List.not_mem_nil, or_false, not_or] at hk
  obtain ⟨hgo, hcnt⟩ := hk
  rw [Dev.reg_ptUpdated, Dev.reg_setFlag_ne _ _ _ hgo, Dev.reg_bump_ne _ _ hcnt, Dev.reg_setPte]

theorem Dev.reg_cnt_ptUpdated : (s.ptUpdated p e).reg Reg.MEM_CNT_PTUPD = (s.reg Reg.MEM_CNT_PTUPD + 1) % 2 ^ 64 := by
  rw [Dev.reg_ptUpdated, Dev.reg_setFlag_ne _ _ _ (by decide), Dev.reg_bump_same, Dev.reg_setPte]

theorem Dev.ptGo_ptUpdated : (s.ptUpdated p e).ptGo = false :=
  (Dev.flag_congr (Dev.reg_ptUpdated s p e _) 0).trans (Dev.flag_setFlag_same _ _ _ (by decide))

end

section
variable {s : Dev} {f : Nat → Nat} (v : Nat → Nat) {is : List Nat}

/-- Registers written one after the other leave every other register. -/
theorem Dev.reg_each_setReg_ne {k : Nat} (h : ∀ i ∈ is, k ≠ f i) : (s.each is fun s i => s.setReg (f i) (v i)).reg k = s.reg k := by
  induction is generalizing s with
  | nil => rfl
  | cons i is ih =>
    refine (ih fun j hj => h j (.tail _ hj)).trans ?_
    exact Dev.reg_setReg_ne _ _ (h i (.head _))

theorem Dev.reg_each_setReg_same (hf : Function.Injective f) {i : Nat} (hi : i ∈ is) :
    (s.each is fun s i => s.setReg (f i) (v i)).reg (f i) = v i % 2 ^ 64 := by
  induction is generalizing s with
  | nil => exact absurd hi (List.not_mem_nil)
  | cons j is ih =>
    by_cases hmem : i ∈ is
    · exact ih hmem
    · obtain rfl : i = j := (List.mem_cons.1 hi).resolve_right hmem
      have hne : ∀ k ∈ is, f i ≠ f k := fun k hk h => hmem (by rwa [hf h])
      refine (Dev.reg_each_setReg_ne v hne : ((s.setReg (f i) (v i)).each is _).reg (f i) = _).trans ?_
      exact Dev.reg_setReg_same _ _ _

end

section
variable {q : List Instr} {d : Dev} (ha : d.alive = true)
include ha

section
variable (hgo : d.ptGo = false)
include hgo

theorem exec_ptEntryWrite_starts {v : Word32} (hv : bits v.toNat 0 1 = 1) :
    exec (.ptEntryWrite v) ⟨q, d⟩ = .next ⟨q, d.setReg Reg.MEM_PTUPDGO 1⟩ := by
  refine (State.upd_of_alive q ha ?_ : execPtEntryWrite v ⟨q, d⟩ = _)
  simp [hv, Dev.ptStart, hgo]

theorem exec_ptEntryRead_starts {v : Word32} (hv : bits v.toNat 0 1 = 1) :
    exec (.ptEntryRead v) ⟨q, d⟩ = .next ⟨q, d.setReg Reg.MEM_PTUPDGO 3⟩ := by
  refine (State.upd_of_alive q ha ?_ : execPtEntryRead v ⟨q, d⟩ = _)
  simp [hv, Dev.ptStart, hgo]

/-- MEM_PTUPDIDX and the data registers take a write by the access tags of their fields while no operation runs (R275). -/
theorem exec_ptRegWrite_idle {off : Nat} (v : Word32)
    (hoff : off ∈ [Reg.MEM_PTUPDIDX, Reg.MEM_PTUPDDATA 0, Reg.MEM_PTUPDDATA 3]) :
    exec (.ptRegWrite off v) ⟨q, d⟩ = .next ⟨q, d.regWrite .host off v.toNat⟩ := by
  have hmine : (off = Reg.MEM_PTUPDIDX || off = Reg.MEM_PTUPDGO || (List.range 4).any fun i => off == Reg.MEM_PTUPDDATA i) = true := by
    simp only [List.mem_cons, List.not_mem_nil, or_false] at hoff
    rcases hoff with rfl | rfl | rfl <;> decide
  refine (State.upd_of_alive q ha ?_ : execPtRegWrite off v ⟨q, d⟩ = _)
  simp only [hgo, hmine, Bool.false_eq_true, ↓reduceIte]

end

section
variable (hgo : d.ptGo = true)
include hgo

theorem exec_ptRegWrite_busy (off : Nat) (v : Word32) : exec (.ptRegWrite off v) ⟨q, d⟩ = .next ⟨q, d⟩ := by
  refine (State.upd_of_alive q ha ?_ : execPtRegWrite off v ⟨q, d⟩ = _)
  simp [hgo]

variable {p : Nat} (hp : p = d.fld Reg.MEM_PTUPDIDX 0 22)
include hp

/-- A read that completes (R275). -/
theorem exec_ptUpdateDone_read (hop : d.flag Reg.MEM_PTUPDGO 1 = true) : ∃ t, exec .ptUpdateDone ⟨q, d⟩ = .next ⟨q, t⟩
    ∧ (∀ i, i < 4 → t.reg (Reg.MEM_PTUPDDATA i) = bits (d.pte p) (32 * i) 32) ∧ t.ptGo = false
    ∧ d.OnlyRegs t ((List.range 4).map Reg.MEM_PTUPDDATA ++ [Reg.MEM_PTUPDGO]) := by
  have hinj : Function.Injective Reg.MEM_PTUPDDATA := fun i j h => by unfold Reg.MEM_PTUPDDATA at h; omega
  have hgoNe : ∀ i, Reg.MEM_PTUPDDATA i ≠ Reg.MEM_PTUPDGO := fun i => by unfold Reg.MEM_PTUPDDATA Reg.MEM_PTUPDGO; omega
  refine ⟨(d.each (List.range 4) fun s i => s.setReg (Reg.MEM_PTUPDDATA i) (bits (d.pte p) (32 * i) 32)).setFlag
      Reg.MEM_PTUPDGO 0 false, (State.upd_of_alive q ha ?_ : execPtUpdateDone ⟨q, d⟩ = _), fun i hi => ?_,
    Dev.flag_setFlag_same _ _ _ (by decide), rfl, fun k hk => ?_⟩
  · subst hp
    simp only [hgo, hop, Bool.not_true, Bool.false_eq_true, ↓reduceIte]
  · rw [Dev.reg_setFlag_ne _ _ _ (hgoNe i), Dev.reg_each_setReg_same _ hinj (List.mem_range.2 hi)]
    exact Nat.mod_eq_of_lt ((bits_lt _ _ _).trans (by norm_num))
  · simp only [List.mem_append, List.mem_map, List.mem_cons, List.not_mem_nil, or_false, not_or, not_exists, not_and] at hk
    obtain ⟨hdata, hgoReg⟩ := hk
    rw [Dev.reg_setFlag_ne _ _ _ hgoReg, Dev.reg_each_setReg_ne _ fun i hi h => hdata i hi h.symm]

variable (hop : d.flag Reg.MEM_PTUPDGO 1 = false) {e : Nat}
  (he : e = ((List.range 4).map fun i => d.fld (Reg.MEM_PTUPDDATA i) 0 32 * 2 ^ (32 * i)).sum)
include hop he

/-- A write that R276 refuses. -/
theorem exec_ptUpdateDone_refused (href : d.ptRefused p e = true) : ∃ t, exec .ptUpdateDone ⟨q, d⟩ = .next ⟨q, t⟩
    ∧ t.ptGo = false ∧ t.flag Reg.MEM_PTUPDGO 2 = true ∧ d.Recorded t clsMEM 0x007 p 0 blkMEM 0 ∧ t.pt = d.pt := by
  have hrec : ∀ s : Dev, (s.record clsMEM 0x007 p 0 blkMEM 0).reg Reg.MEM_PTUPDGO = s.reg Reg.MEM_PTUPDGO := fun s =>
    Dev.reg_record_lt s _ _ _ _ _ _ (by decide)
  refine ⟨((d.setFlag Reg.MEM_PTUPDGO 0 false).setFlag Reg.MEM_PTUPDGO 2 true).record clsMEM 0x007 p 0 blkMEM 0,
    (State.upd_of_alive q ha ?_ : execPtUpdateDone ⟨q, d⟩ = _), ?_, ?_, ?_, ?_⟩
  · subst hp he
    simp [hgo, hop, href]
  · refine (Dev.flag_congr (hrec _) 0).trans ?_
    rw [Dev.flag_setFlag_bit _ _ _ (by decide) (by decide), Dev.flag_setFlag_same _ _ _ (by decide)]
  · exact (Dev.flag_congr (hrec _) 2).trans (Dev.flag_setFlag_same _ _ _ (by decide))
  · refine (Dev.recorded_record _ _ _ _ _ _ _).from_congr rfl (fun k hk _ => ?_) (by decide)
    have hne : k ≠ Reg.MEM_PTUPDGO := by show k ≠ 0x900004; omega
    rw [Dev.reg_setFlag_ne _ _ _ hne, Dev.reg_setFlag_ne _ _ _ hne]
  · exact Dev.record_pt ..

/-- A write that is accepted, with no host copy of the page outstanding and no request of the Dray waiting (R276). -/
theorem exec_ptUpdateDone_accepted (href : d.ptRefused p e = false) (hfilter : d.tiers.filter = []) (hreqs : d.tiers.reqs = [])
    (hrun : d.ttRun = false) : exec .ptUpdateDone ⟨q, d⟩ = .next ⟨q, d.ptUpdated p e⟩ := by
  have hpump : (d.ptUpdated p e).pump = d.ptUpdated p e := by
    rw [Dev.pump_of_reqs_nil (by rw [Dev.ptUpdated_eq]; exact hreqs), Dev.ttEndCheck_of_stopped]
    exact (Dev.flag_congr (Dev.regsBut_ptUpdated d p e _ (by decide)) 12).trans hrun
  have hlost : d.homeLost (pteWith (pteWith (pteWith e 5 4 0) 16 8 0) 80 16 (bits (d.pte p) 80 16 + 1)) = d.homeLost e := by
    refine Dev.homeLost_congr d ?_ ?_ ?_ <;>
      simp only [pteHome, pteFrame, pteLender, bits_pteWith_ne, Nat.reduceAdd, Nat.reduceLeDiff, or_true, true_or]
  refine (State.upd_of_alive q ha ?_ : execPtUpdateDone ⟨q, d⟩ = _)
  rw [← hpump]
  subst hp he
  simp only [hgo, hop, href, Bool.not_true, Bool.false_eq_true, ↓reduceIte, Dev.snoopGate_of_filter_nil hfilter, hlost]
  rfl

end
end

/-- Settles O16, an operation at a time: what starts one, what is discarded while one runs, and the ends of a read, of a write that is
refused and of one that is accepted. -/
theorem pageTableOperations : Obligations.PageTableOperations := by
  unfold Obligations.PageTableOperations
  intro q d p ha hp
  refine ⟨fun v hgo hv => ⟨exec_ptEntryWrite_starts ha hgo hv, exec_ptEntryRead_starts ha hgo hv⟩,
    fun off v hgo => exec_ptRegWrite_busy ha hgo off v, fun off v hgo hoff => exec_ptRegWrite_idle ha hgo v hoff,
    fun hgo hop => exec_ptUpdateDone_read ha hgo hp hop,
    fun e hgo hop he => ⟨exec_ptUpdateDone_refused ha hgo hp hop he, fun href hfilter hreqs hrun => ⟨d.ptUpdated p e,
      exec_ptUpdateDone_accepted ha hgo hp hop he href hfilter hreqs hrun, Dev.ptGo_ptUpdated d p e, ?_⟩⟩⟩
  refine ⟨?_, ?_, ?_, ?_, ?_, ?_, ?_, ?_, ?_, ?_, fun r hr => Dev.pte_ptUpdated_ne d p e hr, Dev.reg_cnt_ptUpdated d p e, ?_, ?_,
    Dev.regsBut_ptUpdated d p e⟩
  · exact (Dev.bits_pte_ptUpdated d p e (by omega)).trans (Dev.bits_ptWritten d p e (by omega))
  · exact (Dev.bit_pte_ptUpdated d p e (by omega)).trans (Dev.bit_ptWritten d p e (by omega))
  · exact (Dev.bit_pte_ptUpdated d p e (by omega)).trans (Dev.bit_ptWritten d p e (by omega))
  · exact (Dev.bits_pte_ptUpdated d p e (by omega)).trans (Dev.bits_ptWritten d p e (by omega))
  · exact (Dev.bits_pte_ptUpdated d p e (by omega)).trans (Dev.bits_ptWritten d p e (by omega))
  · exact (Dev.bits_pte_ptUpdated d p e (by omega)).trans (Dev.bits_ptWritten d p e (by omega))
  · exact (Dev.bits_pte_ptUpdated d p e (by omega)).trans (Dev.pteMstate_ptWritten d p e)
  · exact (Dev.bit_pte_ptUpdated d p e (by omega)).trans (Dev.acc_ptWritten d p e)
  · exact (Dev.bits_pte_ptUpdated d p e (by omega)).trans (Dev.age_ptWritten d p e)
  · exact (Dev.bits_pte_ptUpdated d p e (by omega)).trans (Dev.seq_ptWritten d p e)
  · rw [Dev.ptUpdated_eq]; rfl
  · rw [Dev.ptUpdated_eq]; rfl

end Sys2Proof.Machine
end

section
/-! The copy of a page's sectors (R278, R299): what it changes, byte by byte, where no line but poisoned ones is bad and no access has
to wait for the host. -/
namespace Sys2Proof.Machine

-- The short theorems below are elaborated one after another: side by side, their threads' stacks exceed the memory of the check.
set_option Elab.async false

/-! ### The keys of a page's home -/

section
variable (e e' off : Nat)

theorem homeKey_add : homeKey e off = homeKey e 0 + off := by
  unfold homeKey hbmKey cxlKey lentKey keyTier
  split <;> omega

/-- A home lies above the Coach House and the Coach stores. -/
theorem le_homeKey : 2 ^ 61 ≤ homeKey e off := by
  unfold homeKey hbmKey cxlKey lentKey keyTier
  split <;> omega

theorem dvd_homeKey : 2 ^ 21 ∣ homeKey e 0 := by
  unfold homeKey hbmKey cxlKey lentKey keyTier
  split <;> omega

theorem homeKey_mod : homeKey (e % 2 ^ 128) off = homeKey e off := by
  unfold homeKey pteHome pteFrame pteLender
  simp only [bits_mod, Nat.reduceAdd, Nat.reduceLeDiff]

/-- Two homes are one place or have no byte in common. -/
theorem homeKey_apart : homeKey e 0 = homeKey e' 0 ∨ homeKey e 0 + 2 ^ 21 ≤ homeKey e' 0 ∨ homeKey e' 0 + 2 ^ 21 ≤ homeKey e 0 := by
  have h := dvd_homeKey e
  have h' := dvd_homeKey e'
  omega

end

/-! ### Tables whose keys are distinct -/

section
variable {α : Type} [DecidableEq α] {d : Nat → α} {m : List (Nat × α)} {k : Nat}

omit [DecidableEq α] in
theorem Sparse.get_of_notMem (h : k ∉ m.map Prod.fst) : Sparse.get d m k = d k := by
  induction m with
  | nil => rfl
  | cons x m ih =>
    obtain ⟨j, v⟩ := x
    obtain ⟨hj, hm⟩ := not_or.1 (fun hk => h (List.mem_cons.2 hk))
    simpa [Sparse.get, show k ≠ j from hj] using ih hm

omit [DecidableEq α] in
/-- Where every entry has one value, a key that is listed reads it. -/
theorem Sparse.get_of_forall {v : α} (h : ∀ x ∈ m, x.2 = v) (hk : k ∈ m.map Prod.fst) : Sparse.get d m k = v := by
  induction m with
  | nil => exact absurd hk List.not_mem_nil
  | cons x m ih =>
    obtain ⟨j, w⟩ := x
    by_cases hj : k = j
    · simpa [Sparse.get, hj] using h _ (.head _)
    · simpa [Sparse.get, hj] using ih (fun y hy => h y (.tail _ hy)) ((List.mem_cons.1 hk).resolve_left hj)

theorem Sparse.lt_of_wfFrom {lo : Nat} (h : Sparse.wfFrom d lo m = true) : ∀ j ∈ m.map Prod.fst, lo ≤ j := by
  induction m generalizing lo with
  | nil => exact fun _ hj => absurd hj List.not_mem_nil
  | cons x m ih =>
    simp only [Sparse.wfFrom, Bool.and_eq_true, decide_eq_true_eq] at h
    obtain ⟨⟨hlo, -⟩, hm⟩ := h
    intro j hj
    rcases List.mem_cons.1 hj with rfl | hj
    · exact hlo
    · exact hlo.trans ((Nat.le_succ _).trans (ih hm j hj))

/-- The keys of a canonical table are distinct. -/
theorem Sparse.nodup_of_wfFrom {lo : Nat} (h : Sparse.wfFrom d lo m = true) : (m.map Prod.fst).Nodup := by
  induction m generalizing lo with
  | nil => exact List.nodup_nil
  | cons x m ih =>
    simp only [Sparse.wfFrom, Bool.and_eq_true, decide_eq_true_eq] at h
    obtain ⟨-, hm⟩ := h
    exact List.nodup_cons.2 ⟨fun hj => absurd (Sparse.lt_of_wfFrom hm _ hj) (by simp), ih hm⟩

end

/-! ### Registers alone changed -/

section
variable {s t u : Dev} {ks : List Nat}

theorem Dev.OnlyRegs.trans (h : s.OnlyRegs t ks) (h' : t.OnlyRegs u ks) : s.OnlyRegs u ks := by
  obtain ⟨ht, hregs⟩ := h
  obtain ⟨hu, hregs'⟩ := h'
  refine ⟨?_, fun k hk => (hregs' k hk).trans (hregs k hk)⟩
  rw [ht] at hu
  exact hu

/-- The registers in which an access outside a command shows the poisoned line that it met (R299, R593). -/
def poisonRegs : List Nat := [Reg.MEM_CNT_POISON, Reg.MEM_POISONADDR]

theorem Dev.onlyRegs_poisonAt (s : Dev) (tier a : Nat) : s.OnlyRegs ((s.bump Reg.MEM_CNT_POISON 1).poisonAt tier a) poisonRegs := by
  refine ⟨rfl, fun k hk => ?_⟩
  obtain ⟨hcnt, haddr⟩ : k ≠ Reg.MEM_CNT_POISON ∧ k ≠ Reg.MEM_POISONADDR := by simpa [poisonRegs] using hk
  exact (Dev.reg_setReg_ne _ _ haddr).trans (Dev.reg_bump_ne _ _ hcnt)

theorem Dev.lineRead_of_poison {k : Nat} (h : s.lineOf k = .poison) (g a : Nat) :
    (s.lineRead false g a k).1 = (s.bump Reg.MEM_CNT_POISON 1).poisonAt (keyHome k) a := by
  unfold Dev.lineRead
  simp [h]

/-- Poisoned lines read by a unit outside a command. -/
theorem Dev.onlyRegs_readPoison (addr : Nat → Nat) (ls : List Nat) (h : ∀ l ∈ ls, s.lineOf (l * 64) = .poison) :
    s.OnlyRegs (s.each ls fun s l => (s.lineRead false 0 (addr l) (l * 64)).1) poisonRegs := by
  induction ls generalizing s with
  | nil => exact .refl s _
  | cons l ls ih =>
    have hstep := Dev.lineRead_of_poison (h l (.head _)) 0 (addr l)
    have hone : s.OnlyRegs (s.lineRead false 0 (addr l) (l * 64)).1 poisonRegs := hstep ▸ Dev.onlyRegs_poisonAt s _ _
    exact hone.trans (ih fun x hx => hstep ▸ h x (.tail _ hx))

end

/-! ### One sector -/

/-- A key lies in the 64 KiB from `base` on. -/
def inSector (base k : Nat) : Bool := decide (base ≤ k) && decide (k < base + 65536)

theorem inSector_iff {base k : Nat} : inSector base k = true ↔ base ≤ k ∧ k < base + 65536 := by simp [inSector]

/-- The bytes of a sector put in place of those of another, and its poisoned lines with them. -/
def Dev.copyCells (s : Dev) (src dst : Nat) : Dev :=
  let es := s.mem.filter fun c => inSector src c.1
  let ls := s.bad.filter fun l => inSector src (l.1 * 64) && l.2 == .poison
  let s := { s with mem := s.mem.filter (fun c => !inSector dst c.1), bad := s.bad.filter fun l => !inSector dst (l.1 * 64) }
  let s := s.each es fun s c => s.wr (dst + (c.1 - src)) c.2
  s.each ls fun s l => s.setLine (dst + (l.1 * 64 - src)) .poison

/-- A read sends snoops and waits for their answers (R446); beside that it leaves the device as it is. -/
theorem Dev.snooped_read_eq (s : Dev) (a n : Nat) : ∃ regs outs snoops stalls, s.snooped false a n
    = { s with regs := regs, outs := outs, tiers := { s.tiers with snoops := snoops, stalls := stalls } } := by
  have hsend : ∀ ls : List Nat, ∃ regs outs, (s.each ls fun s l => (s.emit (.bisnp l)).bump Reg.HST_CNT_BISNP 1)
      = { s with regs := regs, outs := outs } := fun ls =>
    List.foldlRecOn (motive := fun t : Dev => ∃ regs outs, t = { s with regs := regs, outs := outs }) ls _ ⟨_, _, rfl⟩
      fun t ⟨_, _, ht⟩ l _ => by rw [ht]; exact ⟨_, _, rfl⟩
  unfold Dev.snooped Dev.snoopGate Dev.snoopSend
  dsimp only
  split
  · exact ⟨_, _, _, _, rfl⟩
  · obtain ⟨regs, outs, h⟩ := hsend ((List.map (fun x => x.1) (s.tiers.filter.filter fun x => spanLine a n x.1 && (false || x.2))).filter
      fun l => !s.tiers.snoops.contains l)
    rw [h]
    split
    · exact ⟨_, _, _, _, rfl⟩
    · exact ⟨_, _, _, _, rfl⟩

theorem Dev.snooped_of_filter_nil {s : Dev} (h : s.tiers.filter = []) (wr : Bool) (a n : Nat) : s.snooped wr a n = s := by
  simp [Dev.snooped, h]

section
variable {s : Dev} {a src dst : Nat}

/-- A sector's copy is what the host is asked for, the reading of its poisoned lines, and then that of its cells. -/
theorem Dev.copySector_eq (hbad : ∀ l ∈ (s.snooped false a 65536).bad, l.2 = .poison) (src dst : Nat) :
    ∃ u, (s.snooped false a 65536).OnlyRegs u poisonRegs ∧ s.copySector a src dst = u.copyCells src dst := by
  refine ⟨_, Dev.onlyRegs_readPoison (fun l => a + (l * 64 - src))
    (((s.snooped false a 65536).bad.filter fun l => inSector src (l.1 * 64)).map (·.1)) fun l hl => ?_, rfl⟩
  have hmem : l ∈ (s.snooped false a 65536).bad.map Prod.fst := List.map_subset _ (List.filter_subset_self _) hl
  unfold Dev.lineOf
  rw [Nat.mul_div_cancel l (by norm_num)]
  exact Sparse.get_of_forall hbad hmem

theorem Dev.copyCells_eq : s.copyCells src dst = { s with mem := (s.copyCells src dst).mem, bad := (s.copyCells src dst).bad } := by
  unfold Dev.copyCells
  refine List.foldlRecOn _ _ (motive := fun t : Dev => t = { s with mem := t.mem, bad := t.bad }) ?_ fun t ht l _ => by rw [ht]; rfl
  exact List.foldlRecOn _ _ (motive := fun t : Dev => t = { s with mem := t.mem, bad := t.bad }) rfl fun t ht c _ => by rw [ht]; rfl

theorem Dev.copyCells_wf (h : Memory.wf s.mem = true) : Memory.wf (s.copyCells src dst).mem = true := by
  unfold Dev.copyCells
  refine List.foldlRecOn _ _ (motive := fun t : Dev => Memory.wf t.mem = true) ?_ fun t ht l _ => ht
  exact List.foldlRecOn _ _ (motive := fun t : Dev => Memory.wf t.mem = true) (Memory.wf_filter _ h) fun t ht c _ => t.wr_wf _ _ ht

theorem Dev.copyCells_poison (h : ∀ l ∈ s.bad, l.2 = .poison) : ∀ l ∈ (s.copyCells src dst).bad, l.2 = .poison := by
  unfold Dev.copyCells
  refine List.foldlRecOn _ _ (motive := fun t : Dev => ∀ l ∈ t.bad, l.2 = .poison) ?_ fun t ht l _ x hx => ?_
  · exact List.foldlRecOn _ _ (motive := fun t : Dev => ∀ l ∈ t.bad, l.2 = .poison)
      (fun l hl => h l (List.mem_of_mem_filter hl)) fun t ht c _ => ht
  · have hput : x ∈ Sparse.put badDefault t.bad ((dst + (l.1 * 64 - src)) / 64) .poison := hx
    obtain rfl | hx := Sparse.mem_put hput
    · rfl
    · exact ht x hx

/-- A line below the sector written keeps its condition. -/
theorem Dev.copyCells_lineOf {k : Nat} (h : k + 64 ≤ dst) : (s.copyCells src dst).lineOf k = s.lineOf k := by
  unfold Dev.copyCells
  refine List.foldlRecOn _ _ (motive := fun t : Dev => t.lineOf k = s.lineOf k) ?_ fun t ht l _ => ?_
  · refine List.foldlRecOn _ _ (motive := fun t : Dev => t.lineOf k = s.lineOf k) ?_ fun t ht c _ => ht
    have hout : inSector dst (k / 64 * 64) = false := by
      rw [← Bool.not_eq_true, inSector_iff]
      omega
    unfold Dev.lineOf
    refine (Sparse.get_filter_key badDefault (fun l => !inSector dst (l * 64)) s.bad (k / 64)).trans ?_
    simp [hout]
  · have hne : k / 64 ≠ (dst + (l.1 * 64 - src)) / 64 := by omega
    exact (Sparse.get_put_ne badDefault t.bad LineState.poison hne).trans ht

/-- Cells written one after the other, each shifted from `src` to `dst`: a byte reads what was listed for it, or as before. -/
theorem Dev.rd_each_wr (es : List Host.Cell) (hnodup : (es.map Prod.fst).Nodup) (hsrc : ∀ c ∈ es, src ≤ c.1) (s : Dev) (j : Nat) :
    (s.each es fun s c => s.wr (dst + (c.1 - src)) c.2).rd (dst + j) = Sparse.get (fun _ => s.rd (dst + j)) es (src + j) := by
  induction es generalizing s with
  | nil => rfl
  | cons c es ih =>
    obtain ⟨a, v⟩ := c
    obtain ⟨hnew, hnodup⟩ := List.nodup_cons.1 hnodup
    have ha : src ≤ a := hsrc (a, v) (.head _)
    refine (ih hnodup (fun c hc => hsrc c (.tail _ hc)) (s.wr (dst + (a - src)) v)).trans ?_
    by_cases hj : src + j = a
    · subst hj
      rw [Sparse.get_of_notMem hnew]
      simp [Sparse.get]
    · rw [Dev.rd_wr_ne _ _ (by omega)]
      simp [Sparse.get, hj]

theorem Dev.rd_each_wr_out (es : List Host.Cell) (s : Dev) {k : Nat} (h : ∀ c ∈ es, k ≠ dst + (c.1 - src)) :
    (s.each es fun s c => s.wr (dst + (c.1 - src)) c.2).rd k = s.rd k :=
  List.foldlRecOn _ _ (motive := fun t : Dev => t.rd k = s.rd k) rfl fun t ht c hc => (Dev.rd_wr_ne t _ (h c hc)).trans ht

/-- Every byte of the sector written reads as its source did, every other byte as before. -/
theorem Dev.rd_copyCells (hwf : Memory.wf s.mem = true) (k : Nat) :
    (s.copyCells src dst).rd k = s.rd (if inSector dst k then src + (k - dst) else k) := by
  have hes : ∀ c ∈ s.mem.filter fun c => inSector src c.1, src ≤ c.1 ∧ c.1 < src + 65536 := fun c hc =>
    inSector_iff.1 (List.mem_filter.1 hc).2
  have hlines : ∀ (ls : List (Nat × LineState)) (f : Nat × LineState → Nat) (t : Dev),
      (t.each ls fun s l => s.setLine (f l) .poison).mem = t.mem := fun ls f t =>
    Dev.each_same (f := fun s l => s.setLine (f l) .poison) Dev.mem (fun _ _ => rfl) ls t
  unfold Dev.copyCells
  refine (Dev.rd_congr (hlines _ _ _) k).trans ?_
  have hcleared := Sparse.get_filter_key memDefault (fun a => !inSector dst a) s.mem k
  by_cases hk : inSector dst k = true
  · obtain ⟨hlo, hhi⟩ := inSector_iff.1 hk
    obtain ⟨j, rfl⟩ := Nat.exists_eq_add_of_le hlo
    have hin : inSector src (src + j) = true := inSector_iff.2 (by omega)
    simp only [hk, Bool.not_true, Bool.false_eq_true, ↓reduceIte] at hcleared
    rw [Dev.rd_each_wr _ (Sparse.nodup_of_wfFrom (Sparse.wf_filter memDefault _ hwf)) (fun c hc => (hes c hc).1) _ j]
    refine Eq.trans (b := Sparse.get memDefault (s.mem.filter fun c => inSector src c.1) (src + j)) ?_ ?_
    · exact congrArg (fun v => Sparse.get (fun _ => v) _ _) hcleared
    · rw [Sparse.get_filter_key memDefault (inSector src)]
      simp [hin, hk, Dev.rd]
  · refine (Dev.rd_each_wr_out _ _ fun c hc => ?_).trans (hcleared.trans ?_)
    · rw [inSector_iff] at hk
      have := hes c hc
      omega
    · simp [hk, Dev.rd]

end
end Sys2Proof.Machine
end

section
/-! The sectors of a move (R278, R279): the copies one after the other, between tiers of this device and to lent HBM, and the sweep. -/
namespace Sys2Proof.Machine

-- The short theorems below are elaborated one after another: side by side, their threads' stacks exceed the memory of the check.
set_option Elab.async false

/-! ### Copies within this device -/

/-- Between `s` and `t` sectors of homes were copied: nothing but memory, the lines that are bad and two registers changed, and
below the homes neither bytes nor lines. -/
structure Dev.CopyOnly (s t : Dev) : Prop where
  eq : t = { s with regs := t.regs, mem := t.mem, bad := t.bad }
  regs : s.RegsBut t poisonRegs
  poison : (∀ l ∈ s.bad, l.2 = .poison) → ∀ l ∈ t.bad, l.2 = .poison
  wf : Memory.wf s.mem = true → Memory.wf t.mem = true
  lines : ∀ k, k + 64 ≤ 2 ^ 61 → t.lineOf k = s.lineOf k
  low : Memory.wf s.mem = true → ∀ k, k < 2 ^ 61 → t.rd k = s.rd k

namespace Dev.CopyOnly
variable {s t u : Dev}

theorem refl (s : Dev) : s.CopyOnly s := ⟨rfl, fun _ _ => rfl, id, id, fun _ _ => rfl, fun _ _ _ => rfl⟩

theorem trans (h : s.CopyOnly t) (h' : t.CopyOnly u) : s.CopyOnly u where
  eq := by
    have hu := h'.eq
    rw [h.eq] at hu
    exact hu
  regs k hk := (h'.regs k hk).trans (h.regs k hk)
  poison hp := h'.poison (h.poison hp)
  wf hw := h'.wf (h.wf hw)
  lines k hk := (h'.lines k hk).trans (h.lines k hk)
  low hw k hk := (h'.low (h.wf hw) k hk).trans (h.low hw k hk)

section
variable (h : s.CopyOnly t)
include h

theorem tiers : t.tiers = s.tiers := by rw [h.eq]
theorem mmf : t.mmf = s.mmf := by rw [h.eq]
theorem pt : t.pt = s.pt := by rw [h.eq]
theorem cmds : t.cmds = s.cmds := by rw [h.eq]
theorem pte (p : Nat) : t.pte p = s.pte p := Dev.pte_congr h.pt p

end
end Dev.CopyOnly

/-- The reading of poisoned lines. -/
theorem Dev.OnlyRegs.copyOnly {s t : Dev} (h : s.OnlyRegs t poisonRegs) : s.CopyOnly t := by
  obtain ⟨ht, hregs⟩ := h
  have hmem : t.mem = s.mem := by rw [ht]
  have hbad : t.bad = s.bad := by rw [ht]
  refine ⟨?_, hregs, hbad ▸ id, hmem ▸ id, fun k _ => ?_, fun _ k _ => Dev.rd_congr hmem k⟩
  · rw [hmem, hbad]
    exact ht
  · unfold Dev.lineOf
    rw [hbad]

theorem Dev.copyOnly_copyCells {s : Dev} {src dst : Nat} (hdst : 2 ^ 61 ≤ dst) : s.CopyOnly (s.copyCells src dst) := by
  have heq := Dev.copyCells_eq (s := s) (src := src) (dst := dst)
  have hregs : (s.copyCells src dst).regs = s.regs := by rw [heq]
  refine ⟨?_, fun k _ => Dev.reg_congr hregs k, Dev.copyCells_poison, Dev.copyCells_wf,
    fun k hk => Dev.copyCells_lineOf (hk.trans hdst), fun hw k hk => ?_⟩
  · rw [hregs]
    exact heq
  · have hout : inSector dst k = false := by
      rw [← Bool.not_eq_true, inSector_iff]
      omega
    rw [Dev.rd_copyCells hw, hout]
    rfl

section
variable {s : Dev} {src dst : Nat} (hfilter : s.tiers.filter = []) (hbad : ∀ l ∈ s.bad, l.2 = .poison)
include hfilter hbad

theorem Dev.copyOnly_copySector (a : Nat) (hdst : 2 ^ 61 ≤ dst) : s.CopyOnly (s.copySector a src dst) := by
  have hask := Dev.snooped_of_filter_nil hfilter false a 65536
  obtain ⟨u, hu, hcopy⟩ := Dev.copySector_eq (by rwa [hask]) src dst
  rw [hask] at hu
  rw [hcopy]
  exact hu.copyOnly.trans (Dev.copyOnly_copyCells hdst)

theorem Dev.rd_copySector (hwf : Memory.wf s.mem = true) (a k : Nat) :
    (s.copySector a src dst).rd k = s.rd (if inSector dst k then src + (k - dst) else k) := by
  have hask := Dev.snooped_of_filter_nil hfilter false a 65536
  obtain ⟨u, ⟨hu, -⟩, hcopy⟩ := Dev.copySector_eq (by rwa [hask]) src dst
  rw [hask] at hu
  have hmem : u.mem = s.mem := by rw [hu]
  rw [hcopy, Dev.rd_copyCells (hmem ▸ hwf)]
  exact Dev.rd_congr hmem _

end

/-- Sector `i` copied from its home to its destination. -/
def Dev.copyOne (s : Dev) (m : PageMove) (i : Nat) : Dev :=
  s.copySector (m.page * 2 ^ 21 + 65536 * i) (homeKey (s.pte m.page) (65536 * i)) (homeKey (m.entry (s.pte m.page)) (65536 * i))

theorem Dev.copyOnly_copyOne {s : Dev} (hfilter : s.tiers.filter = []) (hbad : ∀ l ∈ s.bad, l.2 = .poison) (m : PageMove) (i : Nat) :
    s.CopyOnly (s.copyOne m i) := by
  unfold Dev.copyOne
  exact Dev.copyOnly_copySector hfilter hbad _ (le_homeKey _ _)

section
variable {s : Dev} {m : PageMove} {e : Nat}
variable (hmove : (s.tiers.moves.any fun x => x.page == m.page) = true) (hsrc : pteHome (s.pte m.page) ≠ 4)
include hmove hsrc

theorem Dev.copySectors_cons (hdst : m.home ≠ 4) (i : Nat) (is : List Nat) :
    s.copySectors m (i :: is) = (s.copyOne m i).copySectors m is := by
  have hstep : s.copySectors m [i] = s.copyOne m i := by
    simp only [Dev.copySectors, Dev.each, List.foldl_cons, List.foldl_nil, hmove, hsrc, hdst, decide_false, Bool.false_and,
      Bool.false_eq_true, ↓reduceIte, Dev.copyOne]
  rw [← hstep]
  rfl

/-- To lent HBM a sector goes on to its lender (R432). -/
theorem Dev.copySectors_cons_lent (hdst : m.home = 4) (i : Nat) (hcopied : s.CopyOnly (s.copyOne m i)) (is : List Nat) :
    s.copySectors m (i :: is) = ((s.copyOne m i).sectorMove m.page i (homeKey (m.entry (s.pte m.page)) (65536 * i))
      (homeKey (s.pte m.page) (65536 * i)) true).copySectors m is := by
  have hmove' : ((s.copyOne m i).tiers.moves.any fun x => x.page == m.page) = true := by
    rw [hcopied.tiers]
    exact hmove
  have hstep : s.copySectors m [i] = (s.copyOne m i).sectorMove m.page i (homeKey (m.entry (s.pte m.page)) (65536 * i))
      (homeKey (s.pte m.page) (65536 * i)) true := by
    unfold Dev.copyOne at hmove' ⊢
    simp only [Dev.copySectors, Dev.each, List.foldl_cons, List.foldl_nil, hmove, hmove', hsrc, hdst, decide_true, Bool.true_and,
      ↓reduceIte]
  rw [← hstep]
  rfl

end

section
variable {s : Dev} {m : PageMove} {e : Nat} (hfilter : s.tiers.filter = []) (hbad : ∀ l ∈ s.bad, l.2 = .poison)
  (hmove : (s.tiers.moves.any fun x => x.page == m.page) = true) (he : e = s.pte m.page) (hsrc : pteHome e ≠ 4) (hdst : m.home ≠ 4)
include hfilter hbad hmove he hsrc hdst

theorem Dev.copyOnly_copySectors (is : List Nat) : s.CopyOnly (s.copySectors m is) := by
  induction is generalizing s with
  | nil => exact .refl s
  | cons i is ih =>
    subst he
    have hone := Dev.copyOnly_copyOne hfilter hbad m i
    rw [Dev.copySectors_cons hmove hsrc hdst]
    exact hone.trans (ih (by rw [hone.tiers]; exact hfilter) (hone.poison hbad) (by rw [hone.tiers]; exact hmove)
      (hone.pte _).symm)

end

section
variable {s : Dev} {m : PageMove} {e : Nat} (hfilter : s.tiers.filter = []) (hbad : ∀ l ∈ s.bad, l.2 = .poison)
  (he : e = s.pte m.page) (hwf : Memory.wf s.mem = true)
include hfilter hbad he hwf

theorem Dev.rd_copyOne (i k : Nat) : (s.copyOne m i).rd k
    = s.rd (if inSector (homeKey (m.entry e) (65536 * i)) k then homeKey e (65536 * i) + (k - homeKey (m.entry e) (65536 * i)) else k) := by
  unfold Dev.copyOne
  rw [← he]
  exact Dev.rd_copySector hfilter hbad hwf _ k

variable {off : Nat}

theorem Dev.rd_copyOne_dst (i : Nat) : (s.copyOne m i).rd (homeKey (m.entry e) off)
    = s.rd (if off / 65536 = i then homeKey e off else homeKey (m.entry e) off) := by
  rw [Dev.rd_copyOne hfilter hbad he hwf]
  congr 1
  have hsrcOff := homeKey_add e off
  have hdstOff := homeKey_add (m.entry e) off
  have hsrcKey := homeKey_add e (65536 * i)
  have hdstKey := homeKey_add (m.entry e) (65536 * i)
  by_cases hin : inSector (homeKey (m.entry e) (65536 * i)) (homeKey (m.entry e) off) = true
  · rw [if_pos hin]
    rw [inSector_iff] at hin
    rw [if_pos (by omega)]
    omega
  · rw [if_neg hin, if_neg]
    rw [inSector_iff] at hin
    omega

variable (hoff : off < 2 ^ 21)
include hoff

/-- The copy of a sector leaves the page's home as it was, where the destination is another place, and where it is not. -/
theorem Dev.rd_copyOne_src {i : Nat} (hi : i < 32) : (s.copyOne m i).rd (homeKey e off) = s.rd (homeKey e off) := by
  rw [Dev.rd_copyOne hfilter hbad he hwf]
  congr 1
  have hoffKey := homeKey_add e off
  have hsrcKey := homeKey_add e (65536 * i)
  have hdstKey := homeKey_add (m.entry e) (65536 * i)
  have hapart := homeKey_apart e (m.entry e)
  by_cases hin : inSector (homeKey (m.entry e) (65536 * i)) (homeKey e off) = true
  · rw [if_pos hin]
    rw [inSector_iff] at hin
    omega
  · rw [if_neg hin]

variable (hmove : (s.tiers.moves.any fun x => x.page == m.page) = true) (hsrc : pteHome e ≠ 4) (hdst : m.home ≠ 4)
include hmove hsrc hdst

/-- At the destination every byte of the sectors copied reads as it read at the source, every other byte of the page as before; the
source, where it is another place, is not written. -/
theorem Dev.rd_copySectors (is : List Nat) (his : ∀ i ∈ is, i < 32) :
    (s.copySectors m is).rd (homeKey e off) = s.rd (homeKey e off)
      ∧ (s.copySectors m is).rd (homeKey (m.entry e) off)
        = s.rd (if off / 65536 ∈ is then homeKey e off else homeKey (m.entry e) off) := by
  induction is generalizing s with
  | nil => exact ⟨rfl, by simp [Dev.copySectors, Dev.each]⟩
  | cons i is ih =>
    have hone := Dev.copyOnly_copyOne hfilter hbad m i
    have hkept := Dev.rd_copyOne_src hfilter hbad he hwf hoff (his i (.head _))
    obtain ⟨hrest, hrest'⟩ := ih (by rw [hone.tiers]; exact hfilter) (hone.poison hbad) (he.trans (hone.pte _).symm) (hone.wf hwf)
      (by rw [hone.tiers]; exact hmove) fun j hj => his j (.tail _ hj)
    rw [Dev.copySectors_cons hmove (he ▸ hsrc) hdst]
    refine ⟨hrest.trans hkept, hrest'.trans ?_⟩
    by_cases hmem : off / 65536 ∈ is
    · simp only [hmem, ↓reduceIte, List.mem_cons, or_true, hkept]
    · simp only [hmem, ↓reduceIte, List.mem_cons, or_false, Dev.rd_copyOne_dst hfilter hbad he hwf i]

end
end Sys2Proof.Machine
end

section
/-! The end of a sweep and a switch that sends its dirty sectors to a lender (R278, R432, Table 08-6). -/
namespace Sys2Proof.Machine

-- The short theorems below are elaborated one after another: side by side, their threads' stacks exceed the memory of the check.
set_option Elab.async false

/-! ### What every copy leaves -/

/-- The copy of sectors from `s` to `t` leaves the moves, the page table and what lenders are asked for, and makes no other line bad
than by poison. -/
structure Dev.SweepStays (s t : Dev) : Prop where
  moves : t.tiers.moves = s.tiers.moves
  pt : t.pt = s.pt
  mmf : t.mmf = s.mmf
  poison : (∀ l ∈ s.bad, l.2 = .poison) → ∀ l ∈ t.bad, l.2 = .poison

theorem Dev.SweepStays.trans {s t u : Dev} (h : s.SweepStays t) (h' : t.SweepStays u) : s.SweepStays u :=
  ⟨h'.moves.trans h.moves, h'.pt.trans h.pt, h'.mmf.trans h.mmf, fun hp => h'.poison (h.poison hp)⟩

theorem Dev.CopyOnly.sweepStays {s t : Dev} (h : s.CopyOnly t) : s.SweepStays t :=
  ⟨congrArg Tiers.moves h.tiers, h.pt, h.mmf, h.poison⟩

theorem Dev.sweepStays_snooped (s : Dev) (a n : Nat) : s.SweepStays (s.snooped false a n) := by
  obtain ⟨regs, outs, snoops, stalls, h⟩ := s.snooped_read_eq a n
  rw [h]
  exact ⟨rfl, rfl, rfl, id⟩

theorem Dev.sweepStays_copyOne {s : Dev} (hbad : ∀ l ∈ s.bad, l.2 = .poison) (m : PageMove) (i : Nat) :
    s.SweepStays (s.copyOne m i) := by
  have hasked := s.sweepStays_snooped (m.page * 2 ^ 21 + 65536 * i) 65536
  obtain ⟨u, hu, hcopy⟩ := Dev.copySector_eq (hasked.poison hbad) (homeKey (s.pte m.page) (65536 * i))
    (homeKey (m.entry (s.pte m.page)) (65536 * i))
  unfold Dev.copyOne
  rw [hcopy]
  exact hasked.trans (hu.copyOnly.trans (Dev.copyOnly_copyCells (le_homeKey _ _))).sweepStays

theorem Dev.sweepStays_copySectors {s : Dev} {m : PageMove} {e : Nat} (hbad : ∀ l ∈ s.bad, l.2 = .poison)
    (hmove : (s.tiers.moves.any fun x => x.page == m.page) = true) (he : e = s.pte m.page) (hsrc : pteHome e ≠ 4)
    (hdst : m.home ≠ 4) (is : List Nat) : s.SweepStays (s.copySectors m is) := by
  induction is generalizing s with
  | nil => exact (Dev.CopyOnly.refl s).sweepStays
  | cons i is ih =>
    have hone := Dev.sweepStays_copyOne hbad m i
    rw [Dev.copySectors_cons hmove (he ▸ hsrc) hdst]
    exact hone.trans (ih (hone.poison hbad) (by rw [hone.moves]; exact hmove) (he.trans (Dev.pte_congr hone.pt _).symm))

/-! ### The move of a page -/

section
variable {s : Dev} {page : Nat} {m : PageMove}

/-- The move of a page changed. -/
def Dev.updMoveOf (s : Dev) (page : Nat) (f : PageMove → PageMove) : Dev :=
  s.setTiers fun t => { t with moves := updFirst (fun x => x.page == page) f t.moves }

theorem Dev.moveOf_page (h : s.moveOf page = some m) : m.page = page := by simpa using List.find?_some h

theorem Dev.moveOf_congr {s t : Dev} (h : t.tiers.moves = s.tiers.moves) (page : Nat) : t.moveOf page = s.moveOf page := by
  unfold Dev.moveOf
  rw [h]

theorem Dev.sectorsOn_congr {s t : Dev} (h : t.mmf = s.mmf) (page : Nat) : t.sectorsOn page = s.sectorsOn page := by
  unfold Dev.sectorsOn
  rw [h]

theorem Dev.any_of_moveOf (h : s.moveOf page = some m) : (s.tiers.moves.any fun x => x.page == page) = true :=
  List.any_eq_true.2 ⟨m, List.mem_of_find?_eq_some h, by simp [Dev.moveOf_page h]⟩

theorem Dev.moveOf_updMoveOf {f : PageMove → PageMove} (h : s.moveOf page = some m) (hf : (f m).page = m.page) :
    (s.updMoveOf page f).moveOf page = some (f m) :=
  find?_updFirst (by simp [hf, Dev.moveOf_page h]) h

/-- The move once the rest of its sweep has begun. -/
def PageMove.allBegun (m x : PageMove) : PageMove := { x with begun := m.begun + min 32 (32 - m.begun) }

/-- The sectors that the rest of a sweep begins. -/
def PageMove.toSweep (m : PageMove) : List Nat := (List.range (min 32 (32 - m.begun))).map (m.begun + ·)

theorem PageMove.mem_toSweep {i : Nat} : i ∈ m.toSweep ↔ m.begun ≤ i ∧ i < 32 := by
  simp only [PageMove.toSweep, List.mem_map, List.mem_range]
  constructor
  · rintro ⟨j, hj, rfl⟩
    omega
  · exact fun ⟨hlo, hhi⟩ => ⟨i - m.begun, by omega, by omega⟩

theorem Dev.sweep_eq (h : s.moveOf page = some m) : s.sweep m 32
    = (s.updMoveOf page m.allBegun).copySectors m m.toSweep := by
  rw [← Dev.moveOf_page h]
  rfl

variable (hm : s.moveOf page = some m) (hbad : ∀ l ∈ s.bad, l.2 = .poison) (hsrc : pteHome (s.pte page) ≠ 4) (hdst : m.home ≠ 4)
include hm hbad hsrc hdst

/-- After the rest of a sweep the move stands, and its page's entry is as before. -/
theorem Dev.sweep_stays : ((s.sweep m 32).moveOf page).isSome = true ∧ (s.sweep m 32).pt = s.pt ∧ (s.sweep m 32).mmf = s.mmf := by
  have hm' := Dev.moveOf_updMoveOf (f := m.allBegun) hm rfl
  have hpage := Dev.moveOf_page hm
  have hstays := Dev.sweepStays_copySectors (s := s.updMoveOf page m.allBegun) (m := m) hbad
    (by rw [hpage]; exact Dev.any_of_moveOf hm') rfl (by rw [hpage]; exact hsrc) hdst m.toSweep
  rw [Dev.sweep_eq hm, Dev.moveOf_congr hstays.moves, hm']
  exact ⟨rfl, hstays.pt, hstays.mmf⟩

/-- The end of a sweep between tiers of this device: the sectors that it had not begun are copied, and the page drains. -/
theorem exec_moveSweepDone {q : List Instr} (ha : s.alive = true) (hst : pteMstate (s.pte page) = 1) (hon : s.sectorsOn page = false) :
    exec (.moveSweepDone page) ⟨q, s⟩ = .next ⟨q, (s.sweep m 32).setMstate page 2⟩ := by
  obtain ⟨hsome, -, hmmf⟩ := Dev.sweep_stays hm hbad hsrc hdst
  have hon' := (Dev.sectorsOn_congr hmmf page).trans hon
  refine (State.upd_of_alive q ha ?_ : execMoveSweepDone page ⟨q, s⟩ = _)
  simp only [hm, hst, hsome, hon', ne_eq, not_true_eq_false, Bool.not_false, Bool.and_self, ↓reduceIte]

/-- Its bytes at the destination: those of the sectors not begun before come from the source. -/
theorem Dev.rd_sweep (hfilter : s.tiers.filter = []) (hwf : Memory.wf s.mem = true) {off : Nat} (hoff : off < 2 ^ 21) :
    (s.sweep m 32).rd (homeKey (m.entry (s.pte page)) off)
      = s.rd (if m.begun ≤ off / 65536 then homeKey (s.pte page) off else homeKey (m.entry (s.pte page)) off) := by
  have hm' := Dev.moveOf_updMoveOf (f := m.allBegun) hm rfl
  have hpage := Dev.moveOf_page hm
  obtain ⟨-, hrd⟩ := Dev.rd_copySectors (m := m) (e := s.pte page)
    (s := s.updMoveOf page m.allBegun) hfilter hbad
    (by rw [hpage]; rfl) hwf hoff (by rw [hpage]; exact Dev.any_of_moveOf hm') hsrc hdst m.toSweep fun i hi => (PageMove.mem_toSweep.1 hi).2
  have hin : off / 65536 ∈ m.toSweep ↔ m.begun ≤ off / 65536 := by
    rw [PageMove.mem_toSweep]
    omega
  rw [Dev.sweep_eq hm, hrd]
  simp only [hin]
  rfl

end
end Sys2Proof.Machine
end

section
/-! A page that has its outcome settles (R286, R289): what that changes, for a command and for an entry of the Timetable. -/
namespace Sys2Proof.Machine

-- The short theorems below are elaborated one after another: side by side, their threads' stacks exceed the memory of the check.
set_option Elab.async false

/-! ### A counter advanced outside a command (R593) -/

/-- A write of less than a line covers none. -/
theorem Dev.wrBytes_eq_of_short (s : Dev) (k : Nat) {bs : List Byte} (h : bs.length < 64) :
    s.wrBytes k bs = { s with mem := (s.wrBytes k bs).mem } := by
  have hcells : ∀ ps : List (Nat × Byte), ps.foldl (fun s p => s.wr (k + p.1) p.2) s
      = { s with mem := (ps.foldl (fun s p => s.wr (k + p.1) p.2) s).mem } := fun ps =>
    List.foldlRecOn (motive := fun t : Dev => t = { s with mem := t.mem }) ps _ rfl fun t ht p _ => by rw [ht]; rfl
  have hnone : ∀ ls : List (Nat × LineState),
      ls.filter (fun l => !(decide ((k + 63) / 64 ≤ l.1) && decide (l.1 < (k + bs.length) / 64))) = ls := fun ls => by
    refine List.filter_eq_self.2 fun l _ => ?_
    have hout : l.1 < (k + 63) / 64 ∨ (k + bs.length) / 64 ≤ l.1 := by omega
    simpa using hout
  unfold Dev.wrBytes
  dsimp only
  rw [hnone, hcells]

/-- The key of a counter lies below every home. -/
theorem chAddr_lt {a : Nat} (h : ctrOk a = true) (hne : a ≠ 0) : chAddr a + 8 ≤ 2 ^ 61 := by
  have hin : inCH a 8 = true := by
    unfold ctrOk at h
    simp only [Bool.or_eq_true, beq_iff_eq, hne, false_or, Bool.and_eq_true] at h
    exact h.2
  have hbounds : chBase ≤ a ∧ a + 8 ≤ chBase + chSize := by simpa [inCH] using hin
  have hsize : chSize < 2 ^ 60 := by decide
  unfold chAddr chKey keyTier
  omega

section
variable {s : Dev} (hbad : ∀ l ∈ s.bad, l.2 = .poison)
include hbad

theorem Dev.lineOf_of_poison (k : Nat) : s.lineOf k = .good ∨ s.lineOf k = .poison := by
  unfold Dev.lineOf
  by_cases h : k / 64 ∈ s.bad.map Prod.fst
  · exact .inr (Sparse.get_of_forall hbad h)
  · exact .inl (Sparse.get_of_notMem h)

/-- Where no line but poisoned ones is bad, a unit's advance of a counter is noted as poison, or is a write of the counter. -/
theorem Dev.unitAdd_cases (a n : Nat) : s.OnlyRegs (s.unitAdd a n) poisonRegs
    ∨ a ≠ 0 ∧ s.unitAdd a n = s.wrBytes (chAddr a) (leBytes 8 ((s.ctr a + n) % 2 ^ 64)) := by
  by_cases ha : a = 0
  · left
    have hsame : s.unitAdd a n = s := by simp [Dev.unitAdd, Dev.ctrBad, Dev.ctrAdd, ha]
    rw [hsame]
    exact .refl s _
  · obtain hgood | hpoison := Dev.lineOf_of_poison hbad (chAddr a)
    · right
      have hnone := Dev.ctrBad_of_good (hand := a) fun _ => hgood
      refine ⟨ha, ?_⟩
      unfold Dev.unitAdd
      rw [hnone]
      exact Dev.ctrAdd_of_good ha hgood n
    · left
      have hsome : s.ctrBad a = some 6 := by simp [Dev.ctrBad, ha, hpoison]
      unfold Dev.unitAdd
      rw [hsome]
      exact Dev.onlyRegs_poisonAt s 5 a

theorem Dev.unitAdd_tiers (a n : Nat) : (s.unitAdd a n).tiers = s.tiers := by
  obtain ⟨heq, -⟩ | ⟨-, heq⟩ := Dev.unitAdd_cases hbad a n
  · rw [heq]
  · have hlen := leBytes_length 8 ((s.ctr a + n) % 2 ^ 64)
    rw [heq, Dev.wrBytes_eq_of_short s _ (by omega)]

end

/-! ### What a settlement changes -/

/-- From `s` to `t` pages settled: of commands and entries what is left, the registers of poison and, in memory, counters of the Coach
House; nothing else changed. -/
structure Dev.SettleOnly (s t : Dev) : Prop where
  eq : t = { s with regs := t.regs, mem := t.mem, cmds := t.cmds, tiers := { s.tiers with opens := t.tiers.opens } }
  regs : s.RegsBut t poisonRegs
  high : ctrOk (s.reg Reg.DRY_TTDONE) = true → ∀ k, 2 ^ 61 ≤ k → t.rd k = s.rd k

namespace Dev.SettleOnly
variable {s t u : Dev}

theorem refl (s : Dev) : s.SettleOnly s := ⟨rfl, fun _ _ => rfl, fun _ _ _ => rfl⟩

theorem trans (h : s.SettleOnly t) (h' : t.SettleOnly u) : s.SettleOnly u where
  eq := by
    have hu := h'.eq
    rw [h.eq] at hu
    exact hu
  regs k hk := (h'.regs k hk).trans (h.regs k hk)
  high hc k hk := (h'.high (by rwa [h.regs _ (by decide)]) k hk).trans (h.high hc k hk)

theorem bad (h : s.SettleOnly t) : t.bad = s.bad := by rw [h.eq]
theorem pt (h : s.SettleOnly t) : t.pt = s.pt := by rw [h.eq]
theorem log (h : s.SettleOnly t) : t.log = s.log := by rw [h.eq]
theorem moves (h : s.SettleOnly t) : t.tiers.moves = s.tiers.moves := by rw [h.eq]
theorem reqs (h : s.SettleOnly t) : t.tiers.reqs = s.tiers.reqs := by rw [h.eq]
theorem waits (h : s.SettleOnly t) : t.tiers.waits = s.tiers.waits := by rw [h.eq]
theorem retired (h : s.SettleOnly t) : t.tiers.retired = s.tiers.retired := by rw [h.eq]
theorem ttEnd (h : s.SettleOnly t) : t.tiers.ttEnd = s.tiers.ttEnd := by rw [h.eq]

theorem setOpens (s : Dev) (os : List OpenEntry) : s.SettleOnly (s.setTiers fun t => { t with opens := os }) :=
  ⟨rfl, fun _ _ => rfl, fun _ _ _ => rfl⟩

theorem updMove (s : Dev) (g : Nat) (f : MoveRun → MoveRun) : s.SettleOnly (s.updMove g f) :=
  ⟨rfl, fun _ _ => rfl, fun _ _ _ => rfl⟩

theorem unitAdd (hbad : ∀ l ∈ s.bad, l.2 = .poison) (n : Nat) : s.SettleOnly (s.unitAdd (s.reg Reg.DRY_TTDONE) n) := by
  obtain ⟨heq, hregs⟩ | ⟨hne, heq⟩ := Dev.unitAdd_cases hbad (s.reg Reg.DRY_TTDONE) n
  · have hmem : (s.unitAdd (s.reg Reg.DRY_TTDONE) n).mem = s.mem := by rw [heq]
    refine ⟨?_, hregs, fun _ k _ => Dev.rd_congr hmem k⟩
    rw [heq]
  · have hlen := leBytes_length 8 ((s.ctr (s.reg Reg.DRY_TTDONE) + n) % 2 ^ 64)
    rw [heq]
    refine ⟨?_, fun k _ => Dev.reg_congr (Dev.wrBytes_regs s _ _) k, fun hc k hk => Dev.rd_wrBytes_out s _ ?_⟩
    · rw [Dev.wrBytes_eq_of_short s _ (by omega)]
    · have := chAddr_lt hc hne
      omega

theorem ttSettle (fuel : Nat) (hbad : ∀ l ∈ s.bad, l.2 = .poison) : s.SettleOnly (s.ttSettle fuel) := by
  induction fuel generalizing s with
  | zero => exact .refl s
  | succ fuel ih =>
    unfold Dev.ttSettle
    split
    · next e es _ =>
      split
      · have hadd := unitAdd (s := s.setTiers fun t => { t with opens := es }) hbad 1
        exact ((setOpens s es).trans hadd).trans (ih (by rw [hadd.bad]; exact hbad))
      · exact .refl s
    · exact .refl s

theorem settle (hbad : ∀ l ∈ s.bad, l.2 = .poison) (b : MoveBy) (what : Nat) : s.SettleOnly (s.settle b what) := by
  unfold Dev.settle
  split
  · exact .updMove s _ _
  · exact (setOpens s _).trans (ttSettle _ hbad)
  · exact .refl s

end Dev.SettleOnly

/-! ### What each kind of move has of it -/

section
variable {s : Dev}

/-- A move of no entry of the Timetable settles without a write of memory. -/
theorem Dev.settle_mem {b : MoveBy} (h : ∀ lap k, b ≠ .entry lap k) (what : Nat) : (s.settle b what).mem = s.mem := by
  cases b with
  | entry lap k => exact absurd rfl (h lap k)
  | _ => rfl

theorem Dev.cmd_updMove {g : Nat} {c : Cmd} {r : MoveRun} {f : MoveRun → MoveRun} (h : s.cmd g = some c) (hb : c.body = .move r) :
    (s.updMove g f).cmd g = some { c with body := .move (f r) } := by
  unfold Dev.updMove
  rw [Dev.cmd_updCmd h (by simp only [hb])]
  simp only [hb]

/-- The open entry of the page is the first, with more pages to come. -/
theorem Dev.settle_entry_more {o : OpenEntry} {os : List OpenEntry} (hopens : s.tiers.opens = o :: os) (hleft : 2 ≤ o.left)
    (what : Nat) : (s.settle (.entry o.lap o.n) what).tiers.opens = { o with left := o.left - 1 } :: os := by
  have hne : ¬ o.left - 1 = 0 := by omega
  simp [Dev.settle, hopens, updFirst, Dev.ttSettle, hne]

/-- With its last page, and no entry open behind it, the entry has settled, and the counter of DRY_TTDONE is advanced. -/
theorem Dev.settle_entry_last (hbad : ∀ l ∈ s.bad, l.2 = .poison) {o : OpenEntry} (hopens : s.tiers.opens = [o]) (hleft : o.left = 1)
    (what : Nat) :
    s.settle (.entry o.lap o.n) what = (s.setTiers fun t => { t with opens := [] }).unitAdd (s.reg Reg.DRY_TTDONE) 1 := by
  have htiers := Dev.unitAdd_tiers (s := s.setTiers fun t => { t with opens := [] }) hbad (s.reg Reg.DRY_TTDONE) 1
  have hdone : ((s.setTiers fun t => { t with opens := [] }).unitAdd (s.reg Reg.DRY_TTDONE) 1).ttSettle 1
      = (s.setTiers fun t => { t with opens := [] }).unitAdd (s.reg Reg.DRY_TTDONE) 1 := by
    unfold Dev.ttSettle
    rw [htiers]
    rfl
  rw [← hdone]
  simp only [Dev.settle, Dev.setTiers, hopens, updFirst, beq_self_eq_true, Bool.and_self, ↓reduceIte, hleft, List.length_cons,
    List.length_nil]
  rfl

end
end Sys2Proof.Machine
end

section
/-! The statement about the sweep and the switch of a move (08_memory_tiers.md, Table 08-6): the dirty sectors copied again, here or to
a lender, then the switch itself. -/
namespace Sys2Proof.Machine

-- The short theorems below are elaborated one after another: side by side, their threads' stacks exceed the memory of the check.
set_option Elab.async false

/-! ### The dirty sectors, for the second time -/

/-- The move once its dirty sectors have been taken for the second time. -/
def PageMove.retaken (m : PageMove) : PageMove := { m with again := true }

/-- The dirty sectors of a page. -/
def PageMove.dirtySectors (m : PageMove) : List Nat := (List.range 32).filter m.dirty.contains

theorem PageMove.mem_dirtySectors {m : PageMove} {i : Nat} : i ∈ m.dirtySectors ↔ i < 32 ∧ i ∈ m.dirty := by
  simp [PageMove.dirtySectors]

/-- What an update makes of the elements that a filter drops, the filter drops. -/
theorem filter_updFirst {α : Type} {p q : α → Bool} {f : α → α} (hold : ∀ x, p x = true → q x = false)
    (hnew : ∀ x, p x = true → q (f x) = false) (l : List α) : (updFirst p f l).filter q = l.filter q := by
  induction l with
  | nil => rfl
  | cons x l ih =>
    unfold updFirst
    split
    · next hx => simp [hold x hx, hnew x hx]
    · simp [List.filter_cons, ih]

/-- The device once the dirty sectors of the page's move `m` have been taken for the second time. -/
def Dev.retaken (s : Dev) (page : Nat) (m : PageMove) : Dev :=
  if m.again then s else (s.updMoveOf page PageMove.retaken).copySectors m m.dirtySectors

section
variable {s : Dev} {page : Nat} {m : PageMove} (hm : s.moveOf page = some m) (hfilter : s.tiers.filter = [])
include hm hfilter

omit hfilter in
theorem Dev.updMoveOf_retaken_of_again (hagain : m.again = true) : s.updMoveOf page PageMove.retaken = s := by
  have hsame : updFirst (fun x : PageMove => x.page == page) PageMove.retaken s.tiers.moves = s.tiers.moves := by
    refine (updFirst_congr (f' := id) fun x hx => ?_).trans (updFirst_same (fun _ => rfl) _)
    obtain rfl : m = x := Option.some.inj (hm.symm.trans hx)
    unfold PageMove.retaken
    rw [← hagain]
    rfl
  unfold Dev.updMoveOf Dev.setTiers
  dsimp only
  rw [hsame]

theorem exec_moveSwitch_eq {q : List Instr} (ha : s.alive = true) (hst : pteMstate (s.pte page) = 2) :
    exec (.moveSwitch page) ⟨q, s⟩ = .next ⟨q, match (s.retaken page m).moveOf page with
      | some m' => if (s.retaken page m).sectorsOn page then s.retaken page m else (s.retaken page m).moveDone m'
      | none => s.retaken page m⟩ := by
  refine (State.upd_of_alive q ha ?_ : execMoveSwitch page ⟨q, s⟩ = _)
  simp only [hm, hst, ne_eq, not_true_eq_false, ↓reduceIte, Dev.snoopGate_of_filter_nil hfilter, Bool.not_true, Bool.false_eq_true]
  rfl

/-- While chunks of the page are under way, the switch waits. -/
theorem exec_moveSwitch_waits {q : List Instr} (ha : s.alive = true) (hst : pteMstate (s.pte page) = 2) (hagain : m.again = true)
    (hon : s.sectorsOn page = true) : exec (.moveSwitch page) ⟨q, s⟩ = .next ⟨q, s⟩ := by
  have hsame : s.retaken page m = s := by simp [Dev.retaken, hagain]
  rw [exec_moveSwitch_eq hm hfilter ha hst, hsame]
  simp only [hm, hon, ↓reduceIte]

variable (hbad : ∀ l ∈ s.bad, l.2 = .poison) (hlocal : m.again = false → m.home ≠ 4 ∧ pteHome (s.pte page) ≠ 4)
include hbad hlocal

/-- The second copy leaves everything but the move's mark and what a copy changes. -/
theorem Dev.copyOnly_retaken : (s.updMoveOf page PageMove.retaken).CopyOnly (s.retaken page m) := by
  unfold Dev.retaken
  by_cases hagain : m.again = true
  · rw [if_pos hagain, Dev.updMoveOf_retaken_of_again hm hagain]
    exact .refl s
  · obtain ⟨hdst, hsrc⟩ := hlocal (by simpa using hagain)
    have hpage := Dev.moveOf_page hm
    have hany := Dev.any_of_moveOf (Dev.moveOf_updMoveOf (f := PageMove.retaken) hm rfl)
    rw [if_neg hagain]
    exact Dev.copyOnly_copySectors (s := s.updMoveOf page PageMove.retaken) hfilter hbad (by rwa [hpage]) rfl
      (by rw [hpage]; exact hsrc) hdst _

theorem Dev.moveOf_retaken : (s.retaken page m).moveOf page = some m.retaken := by
  rw [Dev.moveOf_congr (congrArg Tiers.moves (Dev.copyOnly_retaken hm hfilter hbad hlocal).tiers)]
  exact Dev.moveOf_updMoveOf hm rfl

/-- At the destination the dirty sectors read as at the source; every other byte there is as the sweep left it. -/
theorem Dev.rd_retaken (hwf : Memory.wf s.mem = true) {off : Nat} (hoff : off < 2 ^ 21) :
    (s.retaken page m).rd (homeKey (m.entry (s.pte page)) off) = s.rd (if !m.again && m.dirty.contains (off / 65536)
      then homeKey (s.pte page) off else homeKey (m.entry (s.pte page)) off) := by
  unfold Dev.retaken
  by_cases hagain : m.again = true
  · simp only [hagain, Bool.not_true, Bool.false_and, Bool.false_eq_true, ↓reduceIte]
  · obtain ⟨hdst, hsrc⟩ := hlocal (by simpa using hagain)
    have hpage := Dev.moveOf_page hm
    have hany := Dev.any_of_moveOf (Dev.moveOf_updMoveOf (f := PageMove.retaken) hm rfl)
    have hin : off / 65536 ∈ m.dirtySectors ↔ m.dirty.contains (off / 65536) = true := by
      rw [PageMove.mem_dirtySectors, List.contains_iff_mem]
      exact and_iff_right (by omega)
    obtain ⟨-, hrd⟩ := Dev.rd_copySectors (s := s.updMoveOf page PageMove.retaken) (m := m) (e := s.pte page) hfilter hbad
      (by rw [hpage]; rfl) hwf hoff (by rwa [hpage]) hsrc hdst m.dirtySectors fun i hi => (PageMove.mem_dirtySectors.1 hi).1
    rw [if_neg hagain, hrd]
    simp only [hin, hagain, Bool.not_false, Bool.true_and]
    rfl

end

/-! ### The switch -/

/-- The bytes that a move carries: the page's, and its dirty sectors' for the second time (R286). -/
def PageMove.bytes (m : PageMove) : Nat := 2 ^ 21 + 65536 * m.dirty.length

/-- Lines of a lender that hold a page's old home are forgotten (R434). -/
def Dev.forgetHome (s : Dev) (e : Nat) : Dev :=
  if pteHome e ≠ 4 then s
  else s.setMmf fun x => { x with lines := x.lines.filter fun l => l.2 / 2 ^ 15 != homeKey e 0 / 2 ^ 21 }

/-- Promotions to HBM and demotions from it are counted. -/
def Dev.countSwitch (s : Dev) (home src : Nat) : Dev :=
  if home = 1 && src ≠ 1 then s.bump Reg.DRY_CNT_PROMO 1
  else if home ≠ 1 && src = 1 then s.bump Reg.DRY_CNT_DEMO 1 else s

/-- The page has switched and its move is off the list; nothing has settled yet. -/
def Dev.switched (s : Dev) (m : PageMove) : Dev :=
  ((((s.setPte m.page (m.entry (s.pte m.page))).bump Reg.DRY_CNT_BYTES m.bytes).dropMove m.page).forgetHome
    (s.pte m.page)).countSwitch m.home (pteHome (s.pte m.page))

/-- The bytes of a move counted for the command that it is of (R293). -/
def Dev.credited (s : Dev) (b : MoveBy) (n : Nat) : Dev :=
  match b with
  | .cmd g => s.updMove g fun r => { r with bytes := r.bytes + n }
  | _ => s

/-- The tables that a switch is about: the page table, the moves and requests, memory with its bad lines, and the commands. -/
structure Tables where
  pt : List (Nat × BitVec 128)
  tiers : Tiers
  mem : List Host.Cell
  bad : List (Nat × LineState)
  cmds : List Cmd

def Dev.tables (s : Dev) : Tables := ⟨s.pt, s.tiers, s.mem, s.bad, s.cmds⟩

section
variable (s : Dev) (m : PageMove)

theorem Dev.bump_tables (off n : Nat) : (s.bump off n).tables = s.tables := rfl

theorem Dev.setPte_tables (p e : Nat) : (s.setPte p e).tables = { s.tables with pt := (s.setPte p e).pt } := rfl

theorem Dev.dropMove_tables (page : Nat) : (s.dropMove page).tables
    = { s.tables with tiers := { s.tiers with moves := s.tiers.moves.filter fun x => x.page != page } } := rfl

theorem Dev.forgetHome_tables (e : Nat) : (s.forgetHome e).tables = s.tables := by
  unfold Dev.forgetHome
  split <;> rfl

theorem Dev.countSwitch_tables (home src : Nat) : (s.countSwitch home src).tables = s.tables := by
  unfold Dev.countSwitch
  split
  · exact Dev.bump_tables ..
  · split
    · exact Dev.bump_tables ..
    · rfl

theorem Dev.credited_tables (b : MoveBy) (n : Nat) : (s.credited b n).tables = { s.tables with cmds := (s.credited b n).cmds } := by
  cases b <;> rfl

/-- Of its tables a switch changes the entry of its page and the list of moves. -/
theorem Dev.switched_tables : (s.switched m).tables = { s.tables with
    pt := (s.setPte m.page (m.entry (s.pte m.page))).pt
    tiers := { s.tiers with moves := s.tiers.moves.filter fun x => x.page != m.page } } := by
  unfold Dev.switched
  rw [Dev.countSwitch_tables, Dev.forgetHome_tables, Dev.dropMove_tables, Dev.bump_tables, Dev.setPte_tables, Dev.bump_tiers,
    Dev.setPte_tiers]

theorem Dev.reg_dropMove {page k : Nat} (h : k ≠ Reg.DRY_STAT) : (s.dropMove page).reg k = s.reg k :=
  Dev.reg_setFld_ne _ _ _ _ h

theorem Dev.reg_forgetHome (e k : Nat) : (s.forgetHome e).reg k = s.reg k := by
  unfold Dev.forgetHome
  split <;> rfl

theorem Dev.reg_countSwitch (home src : Nat) {k : Nat} (hpromo : k ≠ Reg.DRY_CNT_PROMO) (hdemo : k ≠ Reg.DRY_CNT_DEMO) :
    (s.countSwitch home src).reg k = s.reg k := by
  unfold Dev.countSwitch
  split
  · exact Dev.reg_bump_ne _ _ hpromo
  · split
    · exact Dev.reg_bump_ne _ _ hdemo
    · rfl

theorem Dev.reg_credited (b : MoveBy) (n k : Nat) : (s.credited b n).reg k = s.reg k := by
  cases b <;> rfl

/-- A switch counts its page and the dirty sectors (R286). -/
theorem Dev.reg_bytes_switched : (s.switched m).reg Reg.DRY_CNT_BYTES = (s.reg Reg.DRY_CNT_BYTES + m.bytes) % 2 ^ 64 := by
  unfold Dev.switched
  rw [Dev.reg_countSwitch _ _ _ (by decide) (by decide), Dev.reg_forgetHome, Dev.reg_dropMove _ (by decide), Dev.reg_bump_same,
    Dev.reg_setPte]

theorem Dev.reg_done_switched : (s.switched m).reg Reg.DRY_TTDONE = s.reg Reg.DRY_TTDONE := by
  unfold Dev.switched
  rw [Dev.reg_countSwitch _ _ _ (by decide) (by decide), Dev.reg_forgetHome, Dev.reg_dropMove _ (by decide),
    Dev.reg_bump_ne _ _ (by decide), Dev.reg_setPte]

end

/-- A counter in a good line advances. -/
theorem Dev.ctr_unitAdd {s : Dev} {a : Nat} (hne : a ≠ 0) (hgood : s.lineOf (chAddr a) = .good) (n : Nat) :
    (s.unitAdd a n).ctr a = (s.ctr a + n) % 2 ^ 64 := by
  have hnone := Dev.ctrBad_of_good (hand := a) fun _ => hgood
  unfold Dev.unitAdd
  rw [hnone]
  refine (congrArg (Dev.ctr · a) (Dev.ctrAdd_of_good hne hgood n)).trans ?_
  rw [Dev.ctr_wrBytes_same, Nat.mod_mod]

section
variable {s : Dev} {m : PageMove} (hheld : m.held = []) (hreqs : s.tiers.reqs = []) (hwaits : s.tiers.waits = [])
  (hend : s.tiers.ttEnd = false) (hbad : ∀ l ∈ s.bad, l.2 = .poison)

/-- What a page's switch has before it settles. -/
theorem Dev.creditedSwitch_tables (s : Dev) (m : PageMove) : ((s.switched m).credited m.by_ m.bytes).tables = { s.tables with
    pt := (s.setPte m.page (m.entry (s.pte m.page))).pt
    tiers := { s.tiers with moves := s.tiers.moves.filter fun x => x.page != m.page }
    cmds := ((s.switched m).credited m.by_ m.bytes).cmds } := by
  rw [Dev.credited_tables, Dev.switched_tables]

include hheld hreqs hwaits hend hbad

/-- A switch with no write held, and nothing else to start, is the switch, the credit of its bytes and the settlement. -/
theorem Dev.moveDone_eq : s.moveDone m = ((s.switched m).credited m.by_ m.bytes).settle m.by_ 1 := by
  have hform : s.moveDone m = ((((s.switched m).credited m.by_ m.bytes).settle m.by_ 1).afterVictim m.page).pump := by
    unfold Dev.moveDone
    rw [hheld]
    rfl
  have htables := Dev.creditedSwitch_tables s m
  have htiers := congrArg Tables.tiers htables
  have hset := Dev.SettleOnly.settle (s := (s.switched m).credited m.by_ m.bytes)
    (by rw [show ((s.switched m).credited m.by_ m.bytes).bad = s.bad from congrArg Tables.bad htables]; exact hbad) m.by_ 1
  rw [hform, Dev.afterVictim_of_waits_nil (hset.waits.trans ((congrArg Tiers.waits htiers).trans hwaits)),
    Dev.pump_of_reqs_nil (hset.reqs.trans ((congrArg Tiers.reqs htiers).trans hreqs)),
    Dev.ttEndCheck_of_going (hset.ttEnd.trans ((congrArg Tiers.ttEnd htiers).trans hend))]

theorem Dev.settleOnly_moveDone : ((s.switched m).credited m.by_ m.bytes).SettleOnly (s.moveDone m) := by
  rw [Dev.moveDone_eq hheld hreqs hwaits hend hbad]
  refine .settle ?_ _ _
  rw [show ((s.switched m).credited m.by_ m.bytes).bad = s.bad from congrArg Tables.bad (Dev.creditedSwitch_tables s m)]
  exact hbad

theorem Dev.moveDone_pt : (s.moveDone m).pt = (s.setPte m.page (m.entry (s.pte m.page))).pt :=
  (Dev.settleOnly_moveDone hheld hreqs hwaits hend hbad).pt.trans (congrArg Tables.pt (Dev.creditedSwitch_tables s m))

theorem Dev.moveDone_moves : (s.moveDone m).tiers.moves = s.tiers.moves.filter fun x => x.page != m.page :=
  (Dev.settleOnly_moveDone hheld hreqs hwaits hend hbad).moves.trans
    (congrArg (fun t : Tables => t.tiers.moves) (Dev.creditedSwitch_tables s m))

theorem Dev.moveDone_bytes : (s.moveDone m).reg Reg.DRY_CNT_BYTES = (s.reg Reg.DRY_CNT_BYTES + m.bytes) % 2 ^ 64 := by
  rw [(Dev.settleOnly_moveDone hheld hreqs hwaits hend hbad).regs _ (by decide), Dev.reg_credited, Dev.reg_bytes_switched]

/-- No byte of a home changes at the switch itself. -/
theorem Dev.moveDone_rd (hctr : ∀ lap k, m.by_ = .entry lap k → ctrOk (s.reg Reg.DRY_TTDONE) = true) {k : Nat} (hk : 2 ^ 61 ≤ k) :
    (s.moveDone m).rd k = s.rd k := by
  have hmem : ((s.switched m).credited m.by_ m.bytes).mem = s.mem := congrArg Tables.mem (Dev.creditedSwitch_tables s m)
  have hdone : ((s.switched m).credited m.by_ m.bytes).reg Reg.DRY_TTDONE = s.reg Reg.DRY_TTDONE :=
    (Dev.reg_credited _ _ _ _).trans (Dev.reg_done_switched s m)
  by_cases hentry : ∃ lap k, m.by_ = .entry lap k
  · obtain ⟨lap, k, hby⟩ := hentry
    exact ((Dev.settleOnly_moveDone hheld hreqs hwaits hend hbad).high (by rw [hdone]; exact hctr lap k hby) _ hk).trans
      (Dev.rd_congr hmem _)
  · rw [Dev.moveDone_eq hheld hreqs hwaits hend hbad]
    exact Dev.rd_congr ((Dev.settle_mem (fun lap k hby => hentry ⟨lap, k, hby⟩) 1).trans hmem) _

/-- The MOVE that the page is of has one page more moved, and one less to settle (R293). -/
theorem Dev.moveDone_cmd {g : Nat} {c : Cmd} {r : MoveRun} (hby : m.by_ = .cmd g) (hcmd : s.cmd g = some c) (hbody : c.body = .move r) :
    (s.moveDone m).cmd g
      = some { c with body := .move { r with moved := r.moved + 1, left := r.left - 1, bytes := r.bytes + m.bytes } } := by
  have hcmd' : (s.switched m).cmd g = some c :=
    (Dev.cmd_congr (congrArg Tables.cmds (Dev.switched_tables s m)) g).trans hcmd
  rw [Dev.moveDone_eq hheld hreqs hwaits hend hbad, hby]
  exact Dev.cmd_updMove (Dev.cmd_updMove hcmd' hbody) rfl

theorem Dev.moveDone_entry_more {o : OpenEntry} {os : List OpenEntry} (hopens : s.tiers.opens = o :: os)
    (hby : m.by_ = .entry o.lap o.n) (hleft : 2 ≤ o.left) : (s.moveDone m).tiers.opens = { o with left := o.left - 1 } :: os := by
  have hopens' : ((s.switched m).credited m.by_ m.bytes).tiers.opens = o :: os :=
    (congrArg (fun t : Tables => t.tiers.opens) (Dev.creditedSwitch_tables s m)).trans hopens
  rw [Dev.moveDone_eq hheld hreqs hwaits hend hbad]
  rw [hby] at hopens' ⊢
  exact Dev.settle_entry_more hopens' hleft 1

theorem Dev.moveDone_entry_last {o : OpenEntry} (hopens : s.tiers.opens = [o]) (hby : m.by_ = .entry o.lap o.n) (hleft : o.left = 1)
    (hne : s.reg Reg.DRY_TTDONE ≠ 0) (hgood : s.lineOf (chAddr (s.reg Reg.DRY_TTDONE)) = .good) :
    (s.moveDone m).tiers.opens = []
      ∧ (s.moveDone m).ctr (s.reg Reg.DRY_TTDONE) = (s.ctr (s.reg Reg.DRY_TTDONE) + 1) % 2 ^ 64 := by
  have htables := Dev.creditedSwitch_tables s m
  have hopens' : ((s.switched m).credited m.by_ m.bytes).tiers.opens = [o] :=
    (congrArg (fun t : Tables => t.tiers.opens) htables).trans hopens
  have hbad' : ((s.switched m).credited m.by_ m.bytes).bad = s.bad := congrArg Tables.bad htables
  have hmem : ((s.switched m).credited m.by_ m.bytes).mem = s.mem := congrArg Tables.mem htables
  have hdone : ((s.switched m).credited m.by_ m.bytes).reg Reg.DRY_TTDONE = s.reg Reg.DRY_TTDONE :=
    (Dev.reg_credited _ _ _ _).trans (Dev.reg_done_switched s m)
  rw [Dev.moveDone_eq hheld hreqs hwaits hend hbad]
  rw [hby] at hopens' hbad' hmem hdone ⊢
  have hpoison : ∀ l ∈ ((s.switched m).credited (.entry o.lap o.n) m.bytes).bad, l.2 = .poison := by
    rw [hbad']
    exact hbad
  rw [Dev.settle_entry_last hpoison hopens' hleft, hdone]
  refine ⟨by rw [Dev.unitAdd_tiers (by exact hpoison)]; rfl, (Dev.ctr_unitAdd hne ?_ 1).trans ?_⟩
  · exact Dev.lineOf_congr hgood hbad'
  · exact congrArg (fun x => (x + 1) % 2 ^ 64) (congrArg leNat (Dev.rdBytes_congr hmem _ _))

end

/-! ### The dirty sectors sent to a lender (R432) -/

/-- A dirty sector of move `m`, whose page has entry `e`, is on its way to the lender. -/
def Dev.SectorSent (s : Dev) (m : PageMove) (e i : Nat) : Prop :=
  ∃ x ∈ s.mmf.sectors, x.page = m.page ∧ x.sec = i ∧ x.store = true
    ∧ x.lender = keyLender (homeKey (m.entry e) (65536 * i)) ∧ x.off = keyLentOff (homeKey (m.entry e) (65536 * i))

section
variable {s : Dev} {m : PageMove} {e : Nat}

/-- The chunks of a sector leave the tables and the transfers alone. -/
theorem Dev.sectorChunk_tables (s : Dev) (x : SectorXfer) (c : Nat) (excl : Option Nat) :
    ((s.sectorChunk x c excl).tables, (s.sectorChunk x c excl).mmf.sectors) = (s.tables, s.mmf.sectors) := by
  unfold Dev.sectorChunk Dev.putBulk
  rw [Dev.bump_tables]
  rfl

/-- A sector sent takes the place of an earlier transfer of it; the tables are as before. -/
theorem Dev.sectorMove_store (s : Dev) (page i lent key : Nat) : (s.sectorMove page i lent key true).tables = s.tables
    ∧ (s.sectorMove page i lent key true).mmf.sectors = (s.mmf.sectors.filter fun y => !(y.page == page && y.sec == i))
      ++ [⟨page, i, keyLender lent, keyLentOff lent, key, 0, true, true, [], []⟩] := by
  have hchunks (x : SectorXfer) (cs : List Nat) (t : Dev) := Prod.ext_iff.1
    (Dev.each_same (fun t : Dev => (t.tables, t.mmf.sectors)) (fun t c => t.sectorChunk_tables x c none) cs t)
  unfold Dev.sectorMove
  simp only [↓reduceIte]
  generalize List.range 16 = cs
  exact ⟨(hchunks _ cs _).1, (hchunks _ cs _).2⟩

theorem Dev.sectorSent_sectorMove {i j : Nat} (key : Nat) (h : i = j ∨ s.SectorSent m e i) :
    (s.sectorMove m.page j (homeKey (m.entry e) (65536 * j)) key true).SectorSent m e i := by
  obtain ⟨-, hsectors⟩ := s.sectorMove_store m.page j (homeKey (m.entry e) (65536 * j)) key
  unfold Dev.SectorSent
  rw [hsectors]
  by_cases hij : i = j
  · subst hij
    exact ⟨_, List.mem_append_right _ (.head _), rfl, rfl, rfl, rfl, rfl⟩
  · obtain ⟨x, hx, hpage, hsec, hrest⟩ := h.resolve_left hij
    refine ⟨x, List.mem_append_left _ (List.mem_filter.2 ⟨hx, ?_⟩), hpage, hsec, hrest⟩
    simp [hsec, hij]

/-- Every sector of the list is sent; the page, its move and what the host holds are as before. -/
theorem Dev.copySectors_lent (hfilter : s.tiers.filter = []) (hbad : ∀ l ∈ s.bad, l.2 = .poison)
    (hmove : (s.tiers.moves.any fun x => x.page == m.page) = true) (he : e = s.pte m.page) (hsrc : pteHome e ≠ 4) (hdst : m.home = 4)
    (is : List Nat) : (s.copySectors m is).pt = s.pt ∧ (s.copySectors m is).tiers = s.tiers
      ∧ ∀ i, i ∈ is ∨ s.SectorSent m e i → (s.copySectors m is).SectorSent m e i := by
  induction is generalizing s with
  | nil => exact ⟨rfl, rfl, fun i h => h.resolve_left List.not_mem_nil⟩
  | cons j is ih =>
    have hone := Dev.copyOnly_copyOne hfilter hbad m j
    rw [Dev.copySectors_cons_lent hmove (he ▸ hsrc) hdst j hone, ← he]
    obtain ⟨htables, -⟩ := (s.copyOne m j).sectorMove_store m.page j (homeKey (m.entry e) (65536 * j)) (homeKey e (65536 * j))
    have hsend (i : Nat) (h : i = j ∨ (s.copyOne m j).SectorSent m e i) :=
      Dev.sectorSent_sectorMove (s := s.copyOne m j) (homeKey e (65536 * j)) h
    generalize (s.copyOne m j).sectorMove m.page j _ _ true = t at htables hsend ⊢
    have hpt : t.pt = s.pt := (congrArg Tables.pt htables).trans hone.pt
    have htiers : t.tiers = s.tiers := (congrArg Tables.tiers htables).trans hone.tiers
    have hbad' : t.bad = (s.copyOne m j).bad := congrArg Tables.bad htables
    obtain ⟨hpt', htiers', hsent⟩ := ih (by rw [htiers]; exact hfilter) (by rw [hbad']; exact hone.poison hbad)
      (by rw [htiers]; exact hmove) (he.trans (Dev.pte_congr hpt _).symm)
    refine ⟨hpt'.trans hpt, htiers'.trans htiers, fun i hi => hsent i ?_⟩
    rcases hi with hi | hi
    · rcases List.mem_cons.1 hi with hi | hi
      · exact .inr (hsend i (.inl hi))
      · exact .inl hi
    · refine .inr (hsend i (.inr ?_))
      unfold Dev.SectorSent
      rwa [hone.mmf]

end

/-- A move to lent HBM sends each dirty sector to the lender, and then waits for it. -/
theorem exec_moveSwitch_sends {q : List Instr} {d : Dev} {page : Nat} {m : PageMove} (ha : d.alive = true)
    (hm : d.moveOf page = some m) (hfilter : d.tiers.filter = []) (hbad : ∀ l ∈ d.bad, l.2 = .poison)
    (hst : pteMstate (d.pte page) = 2) (hagain : m.again = false) (hdst : m.home = 4) (hsrc : pteHome (d.pte page) ≠ 4)
    (hdirty : m.dirty ≠ []) (hlt : ∀ i ∈ m.dirty, i < 32) :
    ∃ t, exec (.moveSwitch page) ⟨q, d⟩ = .next ⟨q, t⟩ ∧ t.pte page = d.pte page ∧ t.moveOf page = some m.retaken
      ∧ ∀ i ∈ m.dirty, t.SectorSent m (d.pte page) i := by
  have hpage := Dev.moveOf_page hm
  have hm' := Dev.moveOf_updMoveOf (f := PageMove.retaken) hm rfl
  obtain ⟨hpt, htiers, hsent⟩ := Dev.copySectors_lent (s := d.updMoveOf page PageMove.retaken) (m := m) (e := d.pte page) hfilter hbad
    (by rw [hpage]; exact Dev.any_of_moveOf hm') (by rw [hpage]; rfl) hsrc hdst m.dirtySectors
  have hdef : d.retaken page m = (d.updMoveOf page PageMove.retaken).copySectors m m.dirtySectors := if_neg (by simp [hagain])
  rw [← hdef] at hpt htiers hsent
  have hall : ∀ i ∈ m.dirty, (d.retaken page m).SectorSent m (d.pte page) i := fun i hi =>
    hsent i (.inl (PageMove.mem_dirtySectors.2 ⟨hlt i hi, hi⟩))
  have hmove : (d.retaken page m).moveOf page = some m.retaken := (Dev.moveOf_congr (congrArg Tiers.moves htiers) page).trans hm'
  have hon : (d.retaken page m).sectorsOn page = true := by
    obtain ⟨i, hi⟩ := List.exists_mem_of_ne_nil _ hdirty
    obtain ⟨x, hx, hxpage, -⟩ := hall i hi
    exact List.any_eq_true.2 ⟨x, hx, by simp [hxpage, hpage]⟩
  refine ⟨d.retaken page m, ?_, Dev.pte_congr hpt page, hmove, hall⟩
  rw [exec_moveSwitch_eq hm hfilter ha hst, hmove]
  simp only [hon, ↓reduceIte]

/-! ### The statement -/

section
variable {q : List Instr} {d : Dev} {page : Nat} {m : PageMove} (ha : d.alive = true) (hm : d.moveOf page = some m)
  (hfilter : d.tiers.filter = []) (hbad : ∀ l ∈ d.bad, l.2 = .poison)
include ha hm hfilter hbad

/-- The end of a sweep: the page drains, and its data are at the destination. -/
theorem exec_moveSweepDone_copies (hwf : Memory.wf d.mem = true) (hst : pteMstate (d.pte page) = 1) (hdst : m.home ≠ 4)
    (hsrc : pteHome (d.pte page) ≠ 4) (hon : d.sectorsOn page = false) :
    ∃ t, exec (.moveSweepDone page) ⟨q, d⟩ = .next ⟨q, t⟩
      ∧ t.pte page = (d.setMstate page 2).pte page ∧ (∀ r, r ≠ page → t.pte r = d.pte r)
      ∧ ∀ off, off < 2 ^ 21 → t.rd (homeKey (m.entry (d.pte page)) off)
          = d.rd (if m.begun ≤ off / 65536 then homeKey (d.pte page) off else homeKey (m.entry (d.pte page)) off) := by
  obtain ⟨-, hpt, -⟩ := Dev.sweep_stays hm hbad hsrc hdst
  have hset : ∀ s : Dev, s.setMstate page 2 = s.setPte page (pteWith (s.pte page) 5 3 2) := fun s =>
    s.setMstate_of_reachable page (by decide)
  refine ⟨_, exec_moveSweepDone hm hbad hsrc hdst ha hst hon, ?_, fun r hr => ?_, fun off hoff => ?_⟩
  · rw [hset, hset, Dev.pte_setPte_same, Dev.pte_setPte_same, Dev.pte_congr hpt]
  · rw [hset, Dev.pte_setPte_ne _ _ hr, Dev.pte_congr hpt]
  · rw [hset]
    exact Dev.rd_sweep hm hbad hsrc hdst hfilter hwf hoff

/-- A switch that does not wait is the switch of the move once its dirty sectors are copied. -/
theorem exec_moveSwitch_moveDone (hlocal : m.again = false → m.home ≠ 4 ∧ pteHome (d.pte page) ≠ 4) (hst : pteMstate (d.pte page) = 2)
    (hon : d.sectorsOn page = false) :
    exec (.moveSwitch page) ⟨q, d⟩ = .next ⟨q, (d.retaken page m).moveDone m.retaken⟩ := by
  have hon' : (d.retaken page m).sectorsOn page = false :=
    (Dev.sectorsOn_congr (Dev.copyOnly_retaken hm hfilter hbad hlocal).mmf page).trans hon
  rw [exec_moveSwitch_eq hm hfilter ha hst, Dev.moveOf_retaken hm hfilter hbad hlocal]
  simp only [hon', Bool.false_eq_true, ↓reduceIte]

end
end Sys2Proof.Machine
end

section
/-! The statement about the sweep and the switch of a move: what the switch leaves, and the statement itself. -/
namespace Sys2Proof.Machine

-- The short theorems below are elaborated one after another: side by side, their threads' stacks exceed the memory of the check.
set_option Elab.async false

/-- What the fields of a page's entry are once its move has switched. -/
structure PageMove.SwitchedFields (m : PageMove) (e e' : Nat) : Prop where
  home : pteHome e' = m.home
  frame : pteFrame e' = m.frame
  lender : pteLender e' = m.lender
  pool : ptePool e' = m.pool
  mstate : pteMstate e' = 0
  seq : bits e' 80 16 = (bits e 80 16 + 1) % 2 ^ 16

theorem PageMove.switchedFields_entry {m : PageMove} (hhome : m.home ≤ 4) (hframe : m.frame < 2 ^ 32) (hlender : m.lender < 2 ^ 16)
    (hpool : m.pool < 8) (e : Nat) : m.SwitchedFields e (m.entry e % 2 ^ 128) := by
  constructor <;> unfold PageMove.entry
  case mstate =>
    unfold pteMstate
    simp only [bits_mod, bits_pteWith_ne, Nat.reduceAdd, Nat.reduceLeDiff, or_true, true_or]
    exact bits_pteWith_within (lo := 5) (k := 0) _ (by decide)
  all_goals
    simp only [pteHome, pteFrame, pteLender, ptePool, bits_mod, bits_pteWith_ne, bits_pteWith_same, Nat.reduceAdd, Nat.reduceLeDiff,
      or_true, true_or]
  case home => exact Nat.mod_eq_of_lt (by omega)
  case frame => exact Nat.mod_eq_of_lt hframe
  case lender => exact Nat.mod_eq_of_lt hlender
  case pool => exact Nat.mod_eq_of_lt hpool

namespace Dev.CopyOnly
variable {s t : Dev} (h : s.CopyOnly t)
include h

/-- A line below the homes, by any byte of it. -/
theorem lineOf {k : Nat} (hk : k < 2 ^ 61) : t.lineOf k = s.lineOf k := by
  have hline : ∀ u : Dev, u.lineOf k = u.lineOf (k / 64 * 64) := fun u => by
    unfold Dev.lineOf
    rw [Nat.mul_div_cancel _ (by decide)]
  rw [hline t, hline s, h.lines _ (by omega)]

/-- A counter is no part of a home. -/
theorem ctr (hwf : Memory.wf s.mem = true) {a : Nat} (hok : ctrOk a = true) (hne : a ≠ 0) : t.ctr a = s.ctr a := by
  have hlt := chAddr_lt hok hne
  unfold Dev.ctr Dev.rdNum Dev.rdBytes
  congr 1
  refine List.map_congr_left fun i hi => h.low hwf _ ?_
  have := List.mem_range.1 hi
  omega

end Dev.CopyOnly

section
variable {d : Dev} {page : Nat} {m : PageMove} (hm : d.moveOf page = some m) (hfilter : d.tiers.filter = [])
  (hbad : ∀ l ∈ d.bad, l.2 = .poison) (hlocal : m.again = false → m.home ≠ 4 ∧ pteHome (d.pte page) ≠ 4)
include hm hfilter hbad hlocal

/-- The line of a counter that is not bad is good, and the dirty sectors' copy leaves it so. -/
theorem Dev.lineOf_retaken {a : Nat} (hok : ctrOk a = true) (hgood : d.ctrBad a = none) (hne : a ≠ 0) :
    (d.retaken page m).lineOf (chAddr a) = .good := by
  have hlt := chAddr_lt hok hne
  have hd : d.lineOf (chAddr a) = .good := (Dev.lineOf_of_poison hbad _).resolve_right fun hpoison => by
    simp [Dev.ctrBad, hne, hpoison] at hgood
  exact ((Dev.copyOnly_retaken hm hfilter hbad hlocal).lineOf (by omega)).trans hd

theorem Dev.moves_retaken : (d.retaken page m).tiers.moves.filter (fun x => x.page != page)
    = d.tiers.moves.filter (fun x => x.page != page) := by
  rw [(Dev.copyOnly_retaken hm hfilter hbad hlocal).tiers]
  exact filter_updFirst (fun x hx => by simp_all) (fun x hx => by simp_all [PageMove.retaken]) _

end

/-! ### A move that has drained -/

section
variable {d : Dev} {page : Nat} {m : PageMove} (hm : d.moveOf page = some m) (hfilter : d.tiers.filter = [])
  (hbad : ∀ l ∈ d.bad, l.2 = .poison) (hlocal : m.again = false → m.home ≠ 4 ∧ pteHome (d.pte page) ≠ 4)
  (hheld : m.held = []) (hreqs : d.tiers.reqs = []) (hwaits : d.tiers.waits = []) (hend : d.tiers.ttEnd = false)

/-- The device once the page's move has copied what it had to and switched. -/
def Dev.drained (s : Dev) (page : Nat) (m : PageMove) : Dev := (s.retaken page m).moveDone m.retaken

include hm hfilter hbad hlocal hheld hreqs hwaits hend

/-- What the switch of a move needs, after its dirty sectors were copied. -/
theorem Dev.retaken_ready : m.retaken.held = [] ∧ (d.retaken page m).tiers.reqs = [] ∧ (d.retaken page m).tiers.waits = []
    ∧ (d.retaken page m).tiers.ttEnd = false ∧ ∀ l ∈ (d.retaken page m).bad, l.2 = .poison := by
  have hcopy := Dev.copyOnly_retaken hm hfilter hbad hlocal
  exact ⟨hheld, (congrArg Tiers.reqs hcopy.tiers).trans hreqs, (congrArg Tiers.waits hcopy.tiers).trans hwaits,
    (congrArg Tiers.ttEnd hcopy.tiers).trans hend, hcopy.poison hbad⟩

theorem Dev.drained_pt : (d.drained page m).pt = (d.setPte page (m.entry (d.pte page))).pt := by
  obtain ⟨hheld', hreqs', hwaits', hend', hbad'⟩ := Dev.retaken_ready hm hfilter hbad hlocal hheld hreqs hwaits hend
  have hcopy := Dev.copyOnly_retaken hm hfilter hbad hlocal
  have hpage : m.retaken.page = page := (Dev.moveOf_page hm : m.page = page)
  unfold Dev.drained
  rw [Dev.moveDone_pt hheld' hreqs' hwaits' hend' hbad', hpage, hcopy.pte]
  unfold Dev.setPte
  simp only [hcopy.pt]
  rfl

theorem Dev.drained_pte_same : (d.drained page m).pte page = m.entry (d.pte page) % 2 ^ 128 := by
  rw [Dev.pte_congr (Dev.drained_pt hm hfilter hbad hlocal hheld hreqs hwaits hend), Dev.pte_setPte_same]

theorem Dev.drained_pte_ne {r : Nat} (hr : r ≠ page) : (d.drained page m).pte r = d.pte r := by
  rw [Dev.pte_congr (Dev.drained_pt hm hfilter hbad hlocal hheld hreqs hwaits hend), Dev.pte_setPte_ne _ _ hr]

/-- The page's new home holds what the move carried there. -/
theorem Dev.drained_rd (hwf : Memory.wf d.mem = true) (hctr : ∀ lap k, m.by_ = .entry lap k → ctrOk (d.reg Reg.DRY_TTDONE) = true)
    {off : Nat} (hoff : off < 2 ^ 21) : (d.drained page m).rd (homeKey ((d.drained page m).pte page) off)
      = d.rd (if !m.again && m.dirty.contains (off / 65536) then homeKey (d.pte page) off
          else homeKey ((d.drained page m).pte page) off) := by
  obtain ⟨hheld', hreqs', hwaits', hend', hbad'⟩ := Dev.retaken_ready hm hfilter hbad hlocal hheld hreqs hwaits hend
  have hdone : (d.retaken page m).reg Reg.DRY_TTDONE = d.reg Reg.DRY_TTDONE :=
    (Dev.copyOnly_retaken hm hfilter hbad hlocal).regs _ (by decide)
  rw [Dev.drained_pte_same hm hfilter hbad hlocal hheld hreqs hwaits hend, homeKey_mod]
  unfold Dev.drained
  rw [Dev.moveDone_rd hheld' hreqs' hwaits' hend' hbad' (by rw [hdone]; exact hctr) (le_homeKey _ _),
    Dev.rd_retaken hm hfilter hbad hlocal hwf hoff]

theorem Dev.drained_moves : (d.drained page m).tiers.moves = d.tiers.moves.filter fun x => x.page != page := by
  obtain ⟨hheld', hreqs', hwaits', hend', hbad'⟩ := Dev.retaken_ready hm hfilter hbad hlocal hheld hreqs hwaits hend
  have hpage : m.retaken.page = page := (Dev.moveOf_page hm : m.page = page)
  unfold Dev.drained
  rw [Dev.moveDone_moves hheld' hreqs' hwaits' hend' hbad', hpage, Dev.moves_retaken hm hfilter hbad hlocal]

theorem Dev.drained_bytes : (d.drained page m).reg Reg.DRY_CNT_BYTES = (d.reg Reg.DRY_CNT_BYTES + m.bytes) % 2 ^ 64 := by
  obtain ⟨hheld', hreqs', hwaits', hend', hbad'⟩ := Dev.retaken_ready hm hfilter hbad hlocal hheld hreqs hwaits hend
  have hreg : (d.retaken page m).reg Reg.DRY_CNT_BYTES = d.reg Reg.DRY_CNT_BYTES :=
    (Dev.copyOnly_retaken hm hfilter hbad hlocal).regs _ (by decide)
  unfold Dev.drained
  rw [Dev.moveDone_bytes hheld' hreqs' hwaits' hend' hbad', hreg]
  rfl

theorem Dev.drained_cmd {g : Nat} {c : Cmd} {r : MoveRun} (hby : m.by_ = .cmd g) (hcmd : d.cmd g = some c) (hbody : c.body = .move r) :
    (d.drained page m).cmd g
      = some { c with body := .move { r with moved := r.moved + 1, left := r.left - 1, bytes := r.bytes + m.bytes } } := by
  obtain ⟨hheld', hreqs', hwaits', hend', hbad'⟩ := Dev.retaken_ready hm hfilter hbad hlocal hheld hreqs hwaits hend
  exact Dev.moveDone_cmd hheld' hreqs' hwaits' hend' hbad' hby
    ((Dev.cmd_congr (Dev.copyOnly_retaken hm hfilter hbad hlocal).cmds g).trans hcmd) hbody

theorem Dev.drained_entry_more {o : OpenEntry} {os : List OpenEntry} (hopens : d.tiers.opens = o :: os)
    (hby : m.by_ = .entry o.lap o.n) (hleft : 2 ≤ o.left) : (d.drained page m).tiers.opens = { o with left := o.left - 1 } :: os := by
  obtain ⟨hheld', hreqs', hwaits', hend', hbad'⟩ := Dev.retaken_ready hm hfilter hbad hlocal hheld hreqs hwaits hend
  exact Dev.moveDone_entry_more hheld' hreqs' hwaits' hend' hbad'
    ((congrArg Tiers.opens (Dev.copyOnly_retaken hm hfilter hbad hlocal).tiers).trans hopens) hby hleft

theorem Dev.drained_entry_last (hwf : Memory.wf d.mem = true) {o : OpenEntry} (hopens : d.tiers.opens = [o])
    (hby : m.by_ = .entry o.lap o.n) (hleft : o.left = 1) (hne : d.reg Reg.DRY_TTDONE ≠ 0)
    (hok : ctrOk (d.reg Reg.DRY_TTDONE) = true) (hgood : d.ctrBad (d.reg Reg.DRY_TTDONE) = none) :
    (d.drained page m).tiers.opens = []
      ∧ (d.drained page m).ctr (d.reg Reg.DRY_TTDONE) = (d.ctr (d.reg Reg.DRY_TTDONE) + 1) % 2 ^ 64 := by
  obtain ⟨hheld', hreqs', hwaits', hend', hbad'⟩ := Dev.retaken_ready hm hfilter hbad hlocal hheld hreqs hwaits hend
  have hcopy := Dev.copyOnly_retaken hm hfilter hbad hlocal
  have hdone : (d.retaken page m).reg Reg.DRY_TTDONE = d.reg Reg.DRY_TTDONE := hcopy.regs _ (by decide)
  have hline := Dev.lineOf_retaken hm hfilter hbad hlocal hok hgood hne
  have hctr : (d.retaken page m).ctr (d.reg Reg.DRY_TTDONE) = d.ctr (d.reg Reg.DRY_TTDONE) := hcopy.ctr hwf hok hne
  obtain ⟨hopens', hcount⟩ := Dev.moveDone_entry_last hheld' hreqs' hwaits' hend' hbad'
    ((congrArg Tiers.opens hcopy.tiers).trans hopens) hby hleft (by rwa [hdone]) (by rwa [hdone])
  rw [hdone, hctr] at hcount
  exact ⟨hopens', hcount⟩

end

/-- Settles O17: the sweep copies what it had not begun, the switch copies the dirty sectors and makes the destination the home. -/
theorem moveSwitchCopiesThePage : Obligations.MoveSwitchCopiesThePage := by
  unfold Obligations.MoveSwitchCopiesThePage
  intro q d page m e n ha hwf hbad hm he _ hhome hframe hlender hpool hfilter hn
  subst he
  refine ⟨fun hst hdst hsrc hon => exec_moveSweepDone_copies ha hm hfilter hbad hwf hst hdst hsrc hon, ?_, ?_, ?_⟩
  · intro hst hheld hreqs hwaits hend hon hlocal hdone
    have hbytes : m.bytes = n := hn.symm
    have hfields := PageMove.switchedFields_entry hhome hframe hlender hpool (d.pte page)
    rw [← Dev.drained_pte_same hm hfilter hbad hlocal hheld hreqs hwaits hend] at hfields
    rw [← hbytes]
    exact ⟨d.drained page m, exec_moveSwitch_moveDone ha hm hfilter hbad hlocal hst hon, hfields.home, hfields.frame, hfields.lender,
      hfields.pool, hfields.mstate, hfields.seq,
      fun off hoff => Dev.drained_rd hm hfilter hbad hlocal hheld hreqs hwaits hend hwf (fun lap k hby => (hdone lap k hby).1) hoff,
      Dev.drained_moves hm hfilter hbad hlocal hheld hreqs hwaits hend,
      Dev.drained_bytes hm hfilter hbad hlocal hheld hreqs hwaits hend,
      fun r hr => Dev.drained_pte_ne hm hfilter hbad hlocal hheld hreqs hwaits hend hr,
      fun g c r hby hcmd hbody => Dev.drained_cmd hm hfilter hbad hlocal hheld hreqs hwaits hend hby hcmd hbody,
      fun o os hopens hby => ⟨fun hleft => Dev.drained_entry_more hm hfilter hbad hlocal hheld hreqs hwaits hend hopens hby hleft,
        fun hleft hos hne => Dev.drained_entry_last hm hfilter hbad hlocal hheld hreqs hwaits hend hwf (hos ▸ hopens) hby hleft hne
          (hdone _ _ hby).1 (hdone _ _ hby).2⟩⟩
  · exact fun hst hagain hon => exec_moveSwitch_waits hm hfilter ha hst hagain hon
  · intro hst hagain hdst hsrc hdirty hlt
    obtain ⟨t, hexec, hpte, hmove, hsent⟩ := exec_moveSwitch_sends (q := q) ha hm hfilter hbad hst hagain hdst hsrc hdirty hlt
    refine ⟨t, hexec, hpte, hmove, fun i hi => ?_⟩
    obtain ⟨x, hx, hpage, hrest⟩ := hsent i hi
    exact ⟨x, hx, hpage.trans (Dev.moveOf_page hm), hrest⟩

end Sys2Proof.Machine
end

section
/-! The statement about the command MOVE, the failure of a move's destination and the ager (R278 to R286, R292, R293). -/
namespace Sys2Proof.Machine

-- The short theorems below are elaborated one after another: side by side, their threads' stacks exceed the memory of the check.
set_option Elab.async false

/-! ### MOVE -/

section
variable (q : List Instr) {d : Dev} (ha : d.alive = true) {src : Source} {l : Line} (hop : dOp l = 0x0400) (hhead : d.headCheck l = none)
include ha hop hhead

theorem exec_move_of_good (hgood : d.moveBad l = none) :
    exec (.move src l) ⟨q, d⟩ = .next ⟨q, Dev.pump (((d.arm src l 0 [] [(jobKey (lnum l 32 8), 64)]
      (.move ⟨lnum l 32 8, lfield l 20 0 23, 0, 0, 0, 0, 0, 0, 0⟩)).1).setTiers fun t => { t with
        reqs := t.reqs
          ++ [⟨lfield l 16 0 22, lfield l 20 0 23, lfield l 24 0 3, lfield l 24 3 3, lfield l 24 6 1 == 1, .cmd d.nextGen⟩] })⟩ := by
  have harm (w : List (Nat × Nat)) (body : CmdBody) : (d.arm src l 0 [] w body).2 = d.nextGen := (d.arm_eq src l 0 [] w body).1
  refine (State.upd_of_alive q ha ?_ : execMove src l ⟨q, d⟩ = _)
  simp only [hop, ne_eq, not_true_eq_false, ↓reduceIte, hhead, hgood, harm]

theorem exec_move_of_bad {n : Nat} (hbad : d.moveBad l = some n) :
    exec (.move src l) ⟨q, d⟩ = .next ⟨q, d.refuse src l ⟨clsMEM, 0x00A, n⟩⟩ := by
  refine (State.upd_of_alive q ha ?_ : execMove src l ⟨q, d⟩ = _)
  simp only [hop, ne_eq, not_true_eq_false, ↓reduceIte, hhead, hbad]

end

/-! ### A destination that fails -/

/-- The page of a move is back at its source, and the cancellation is counted; the command or the entry has not settled yet. -/
def Dev.cancelled (s : Dev) (page : Nat) : Dev := ((s.dropMove page).setMstate page 0).bump Reg.DRY_CNT_CANCEL 1

/-- The end of the Timetable changes two registers, and of the tables what is the Timetable's own. -/
theorem Dev.ttEndCheck_keeps (s : Dev) : s.ttEndCheck.log = s.log ∧ s.ttEndCheck.pt = s.pt ∧ s.ttEndCheck.tiers.moves = s.tiers.moves
    ∧ s.RegsBut s.ttEndCheck [Reg.DRY_STAT, Reg.DRY_TTCTL] := by
  unfold Dev.ttEndCheck
  dsimp only
  split
  · refine ⟨rfl, rfl, rfl, fun k hk => ?_⟩
    simp only [List.mem_cons, List.not_mem_nil, or_false, not_or] at hk
    change ((s.setFld Reg.DRY_STAT 12 1 false.toNat).setReg Reg.DRY_TTCTL 0).reg k = s.reg k
    rw [Dev.reg_setReg_ne _ _ hk.2, Dev.reg_setFld_ne _ _ _ _ hk.1]
  · exact ⟨rfl, rfl, rfl, fun _ _ => rfl⟩

/-- A page whose frame is not retired has no retirement move to ask for. -/
theorem Dev.retireAsk_of_kept {s : Dev} {page : Nat} (h : s.tiers.retired.contains (pteFrame (s.pte page)) = false) :
    s.retireAsk page = s := by
  unfold Dev.retireAsk
  simp only [h, Bool.and_false, Bool.false_and, Bool.false_eq_true, ↓reduceIte]

section
variable (s : Dev) (page : Nat)

theorem Dev.cancelled_eq : s.cancelled page
    = ((s.dropMove page).setPte page (pteWith ((s.dropMove page).pte page) 5 3 0)).bump Reg.DRY_CNT_CANCEL 1 := by
  unfold Dev.cancelled
  rw [Dev.setMstate_of_reachable _ _ (by decide)]

theorem Dev.cancelled_tables : (s.cancelled page).tables = { s.tables with
    pt := (s.setPte page (pteWith (s.pte page) 5 3 0)).pt
    tiers := { s.tiers with moves := s.tiers.moves.filter fun x => x.page != page } } := by
  rw [Dev.cancelled_eq, Dev.bump_tables, Dev.setPte_tables, Dev.dropMove_tables]
  rfl

theorem Dev.cancelled_log : (s.cancelled page).log = s.log := by
  rw [Dev.cancelled_eq]
  rfl

theorem Dev.regsBut_cancelled : s.RegsBut (s.cancelled page) [Reg.DRY_STAT, Reg.DRY_CNT_CANCEL] := fun k hk => by
  simp only [List.mem_cons, List.not_mem_nil, or_false, not_or] at hk
  rw [Dev.cancelled_eq, Dev.reg_bump_ne _ _ hk.2, Dev.reg_setPte, Dev.reg_dropMove _ hk.1]

theorem Dev.reg_cancelled : (s.cancelled page).reg Reg.DRY_CNT_CANCEL = (s.reg Reg.DRY_CNT_CANCEL + 1) % 2 ^ 64 := by
  rw [Dev.cancelled_eq, Dev.reg_bump_same, Dev.reg_setPte, Dev.reg_dropMove _ (by decide)]

end

section
variable {s : Dev} {m : PageMove} (hheld : m.held = []) (hreqs : s.tiers.reqs = []) (hwaits : s.tiers.waits = [])
  (hbad : ∀ l ∈ s.bad, l.2 = .poison) (hkept : s.tiers.retired.contains (pteFrame (s.pte m.page)) = false)
include hbad

theorem Dev.settleOnly_cancelled : (s.cancelled m.page).SettleOnly ((s.cancelled m.page).settle m.by_ 0) := by
  refine .settle ?_ _ _
  rw [show (s.cancelled m.page).bad = s.bad from congrArg Tables.bad (Dev.cancelled_tables s m.page)]
  exact hbad

include hheld hreqs hwaits hkept

/-- A cancellation with no write held, nothing waiting, and the page's frame in use, is the cancellation and the settlement. -/
theorem Dev.moveCancel_pump_eq : (s.moveCancel m 0).pump = ((s.cancelled m.page).settle m.by_ 0).ttEndCheck := by
  have htables := Dev.cancelled_tables s m.page
  have htiers := congrArg Tables.tiers htables
  have hset := Dev.settleOnly_cancelled (m := m) hbad
  have hform : s.moveCancel m 0 = (((s.cancelled m.page).settle m.by_ 0).afterVictim m.page).retireAsk m.page := by
    unfold Dev.moveCancel
    rw [hheld]
    rfl
  have hpte : ((s.cancelled m.page).settle m.by_ 0).pte m.page = pteWith (s.pte m.page) 5 3 0 % 2 ^ 128 := by
    rw [Dev.pte_congr (hset.pt.trans (congrArg Tables.pt htables)), Dev.pte_setPte_same]
  have hframe : pteFrame (pteWith (s.pte m.page) 5 3 0 % 2 ^ 128) = pteFrame (s.pte m.page) := by
    unfold pteFrame
    rw [bits_mod _ (by decide), bits_pteWith_ne _ (by decide)]
  have hretired : ((s.cancelled m.page).settle m.by_ 0).tiers.retired = s.tiers.retired :=
    hset.retired.trans (congrArg (fun t : Tables => t.tiers.retired) htables)
  rw [hform, Dev.afterVictim_of_waits_nil (hset.waits.trans ((congrArg Tiers.waits htiers).trans hwaits)),
    Dev.retireAsk_of_kept (by rw [hpte, hframe, hretired]; exact hkept),
    Dev.pump_of_reqs_nil (hset.reqs.trans ((congrArg Tiers.reqs htiers).trans hreqs))]

theorem Dev.moveCancel_pump_log : (s.moveCancel m 0).pump.log = s.log := by
  rw [Dev.moveCancel_pump_eq hheld hreqs hwaits hbad hkept]
  exact (Dev.ttEndCheck_keeps _).1.trans ((Dev.settleOnly_cancelled hbad).log.trans (Dev.cancelled_log s m.page))

theorem Dev.moveCancel_pump_pt : (s.moveCancel m 0).pump.pt = (s.setPte m.page (pteWith (s.pte m.page) 5 3 0)).pt := by
  rw [Dev.moveCancel_pump_eq hheld hreqs hwaits hbad hkept]
  exact (Dev.ttEndCheck_keeps _).2.1.trans ((Dev.settleOnly_cancelled hbad).pt.trans (congrArg Tables.pt (Dev.cancelled_tables s m.page)))

theorem Dev.moveCancel_pump_moves : (s.moveCancel m 0).pump.tiers.moves = s.tiers.moves.filter fun x => x.page != m.page := by
  rw [Dev.moveCancel_pump_eq hheld hreqs hwaits hbad hkept]
  exact (Dev.ttEndCheck_keeps _).2.2.1.trans ((Dev.settleOnly_cancelled hbad).moves.trans
    (congrArg (fun t : Tables => t.tiers.moves) (Dev.cancelled_tables s m.page)))

theorem Dev.regsBut_moveCancel_pump : (s.cancelled m.page).RegsBut (s.moveCancel m 0).pump
    (poisonRegs ++ [Reg.DRY_STAT, Reg.DRY_TTCTL]) := fun k hk => by
  rw [List.mem_append, not_or] at hk
  rw [Dev.moveCancel_pump_eq hheld hreqs hwaits hbad hkept, (Dev.ttEndCheck_keeps _).2.2.2 k hk.2,
    (Dev.settleOnly_cancelled hbad).regs k hk.1]

end

/-- The generation that a failed move's record names, where no promotion waits: that of its command. -/
theorem Dev.moveGenOf_of_waits_nil {s : Dev} (h : s.tiers.waits = []) (m : PageMove) : s.moveGenOf m = moveGen m.by_ := by
  unfold Dev.moveGenOf
  rw [h]
  cases m.by_ <;> rfl

section
variable (q : List Instr) {d : Dev} {page : Nat} {m : PageMove} (ha : d.alive = true) (hm : d.moveOf page = some m)
  (hheld : m.held = []) (hreqs : d.tiers.reqs = []) (hwaits : d.tiers.waits = []) (hbad : ∀ l ∈ d.bad, l.2 = .poison)
  (hkept : d.tiers.retired.contains (pteFrame (d.pte page)) = false)
include ha hm hheld hreqs hwaits hbad hkept

theorem exec_moveDestFail : ∃ t, exec (.moveDestFail page) ⟨q, d⟩ = .next ⟨q, t⟩
    ∧ d.Recorded t clsMEM 0x00B page (moveGen m.by_) blkDRY 0 ∧ pteMstate (t.pte page) = 0
    ∧ t.reg Reg.DRY_CNT_CANCEL = (d.reg Reg.DRY_CNT_CANCEL + 1) % 2 ^ 64
    ∧ t.tiers.moves = d.tiers.moves.filter (fun x => x.page != page) := by
  obtain rfl := Dev.moveOf_page hm
  let r := d.record clsMEM 0x00B m.page (moveGen m.by_) blkDRY 0
  have htiers : r.tiers = d.tiers := Dev.record_tiers ..
  have hreqs' : r.tiers.reqs = [] := (congrArg Tiers.reqs htiers).trans hreqs
  have hwaits' : r.tiers.waits = [] := (congrArg Tiers.waits htiers).trans hwaits
  have hbad' : ∀ l ∈ r.bad, l.2 = .poison := by
    rw [show r.bad = d.bad from Dev.record_bad ..]
    exact hbad
  have hpte : r.pte m.page = d.pte m.page := Dev.pte_congr (Dev.record_pt ..) _
  have hkept' : r.tiers.retired.contains (pteFrame (r.pte m.page)) = false := by
    rw [htiers, hpte]
    exact hkept
  have hregs := Dev.regsBut_moveCancel_pump hheld hreqs' hwaits' hbad' hkept'
  refine ⟨(r.moveCancel m 0).pump, (State.upd_of_alive q ha ?_ : execMoveDestFail m.page ⟨q, d⟩ = _), ?_, ?_, ?_, ?_⟩
  · simp only [hm, Dev.destFail, Dev.moveGenOf_of_waits_nil hwaits]
    rfl
  · refine (Dev.recorded_record d ..).congr (Dev.moveCancel_pump_log hheld hreqs' hwaits' hbad' hkept') ?_
    rw [hregs _ (by decide), Dev.regsBut_cancelled r m.page _ (by decide)]
  · rw [Dev.pte_congr (Dev.moveCancel_pump_pt hheld hreqs' hwaits' hbad' hkept')]
    exact (Dev.bits_pte_setPte r m.page _ (by decide)).trans (bits_pteWith_same ..)
  · rw [hregs _ (by decide), Dev.reg_cancelled, Dev.reg_record_lt d _ _ _ _ _ _ (by decide)]
  · rw [Dev.moveCancel_pump_moves hheld hreqs' hwaits' hbad' hkept', htiers]

end

/-! ### The ager (R284) -/

/-- The entry of a page once the ager has passed it. -/
def agedEntry (x : Nat) : Nat :=
  if pteHome x ≠ 1 then x
  else if bit x 8 then pteWith (setBit x 8 false) 16 8 0 % 2 ^ 128 else pteWith x 16 8 (min 255 (bits x 16 8 + 1)) % 2 ^ 128

/-- The ager passes one page. -/
def Dev.agePage (s : Dev) (p : Nat) : Dev :=
  let x := s.pte p
  if pteHome x ≠ 1 then s
  else if bit x 8 then s.setPte p (pteWith (setBit x 8 false) 16 8 0)
  else s.setPte p (pteWith x 16 8 (min 255 (bits x 16 8 + 1)))

/-- Of what stands in a page's entry the ager changes ACC and AGE, of pages in HBM. -/
theorem agedEntry_of_elsewhere {x : Nat} (h : pteHome x ≠ 1) : agedEntry x = x := if_pos h

theorem agedEntry_of_hbm {x : Nat} (h : pteHome x = 1) : pteHome (agedEntry x) = 1 ∧ pteFrame (agedEntry x) = pteFrame x
    ∧ bit (agedEntry x) 8 = false ∧ bits (agedEntry x) 16 8 = if bit x 8 then 0 else min 255 (bits x 16 8 + 1) := by
  have hx : bits x 0 3 = 1 := h
  unfold agedEntry
  rw [if_neg (not_not.2 h)]
  cases hacc : bit x 8
  · rw [bit_eq_bits] at hacc
    refine ⟨?_, ?_, ?_, ?_⟩ <;>
      simp only [pteHome, pteFrame, bit_eq_bits, Bool.false_eq_true, ↓reduceIte, bits_mod, bits_pteWith_ne, bits_pteWith_same, hx, hacc,
        Nat.reduceAdd, Nat.reduceLeDiff, or_true, true_or]
    exact Nat.mod_eq_of_lt (by omega)
  · have hset {lo w : Nat} (hw : lo + w ≤ 8 ∨ 9 ≤ lo) : bits (setBit x 8 false) lo w = bits x lo w := bits_pteWith_ne x hw
    have hclear : bits (setBit x 8 false) 8 1 = 0 := bits_setBits_same ..
    refine ⟨?_, ?_, ?_, ?_⟩ <;>
      simp only [pteHome, pteFrame, bit_eq_bits, ↓reduceIte, bits_mod, bits_pteWith_ne, bits_pteWith_same, hset, hclear, hx,
        Nat.reduceAdd, Nat.reduceLeDiff, Nat.zero_mod, Nat.reduceBEq, or_true, true_or]

section
variable (s : Dev)

theorem Dev.agePage_eq (p : Nat) : s.agePage p = { s with pt := (s.agePage p).pt } := by
  unfold Dev.agePage
  dsimp only
  split
  · rfl
  · split <;> rfl

theorem Dev.pte_agePage_same (p : Nat) : (s.agePage p).pte p = agedEntry (s.pte p) := by
  unfold Dev.agePage agedEntry
  dsimp only
  split
  · rfl
  · split <;> exact Dev.pte_setPte_same ..

theorem Dev.pte_agePage_ne {p r : Nat} (h : r ≠ p) : (s.agePage p).pte r = s.pte r := by
  unfold Dev.agePage
  dsimp only
  split
  · rfl
  · split <;> exact Dev.pte_setPte_ne _ _ h

/-- The ager passes each page of a list once. -/
theorem Dev.pte_each_agePage {l : List (Nat × BitVec 128)} (hnodup : (l.map Prod.fst).Nodup) (p : Nat) :
    (s.each l fun s e => s.agePage e.1).pte p = if p ∈ l.map Prod.fst then agedEntry (s.pte p) else s.pte p := by
  induction l generalizing s with
  | nil => rfl
  | cons e l ih =>
    obtain ⟨hnew, hnodup⟩ := List.nodup_cons.1 hnodup
    have hstep : (s.each (e :: l) fun s e => s.agePage e.1) = (s.agePage e.1).each l fun s e => s.agePage e.1 := rfl
    rw [hstep, ih _ hnodup]
    by_cases hp : p = e.1
    · subst hp
      simp only [hnew, ↓reduceIte, List.map_cons, List.mem_cons, true_or, Dev.pte_agePage_same]
    · simp only [List.map_cons, List.mem_cons, hp, false_or, Dev.pte_agePage_ne s hp]

/-- A page that the table does not list is in no tier. -/
theorem Dev.pte_of_notMem {p : Nat} (h : p ∉ s.pt.map Prod.fst) : s.pte p = 0 := by
  unfold Dev.pte
  rw [Sparse.get_of_notMem h]
  rfl

theorem Dev.ptOnly_trans {s t u : Dev} (h : t = { s with pt := t.pt }) (h' : u = { t with pt := u.pt }) : u = { s with pt := u.pt } := by
  rw [h] at h'
  exact h'

theorem Dev.each_agePage_eq (l : List (Nat × BitVec 128)) :
    (s.each l fun s e => s.agePage e.1) = { s with pt := (s.each l fun s e => s.agePage e.1).pt } := by
  induction l generalizing s with
  | nil => rfl
  | cons e l ih =>
    exact Dev.ptOnly_trans (s.agePage_eq e.1) (ih (s.agePage e.1))

end

theorem exec_agerSweep (q : List Instr) {d : Dev} (ha : d.alive = true) (hwf : Sparse.wf ptDefault d.pt = true) :
    ∃ t, exec .agerSweep ⟨q, d⟩ = .next ⟨q, t⟩ ∧ t = { d with pt := t.pt } ∧ ∀ p, t.pte p = agedEntry (d.pte p) := by
  refine ⟨_, (State.upd_of_alive q ha rfl : execAgerSweep ⟨q, d⟩ = _), Dev.each_agePage_eq d d.pt, fun p => ?_⟩
  refine (Dev.pte_each_agePage d (Sparse.nodup_of_wfFrom hwf) p).trans ?_
  split
  · rfl
  · next hp =>
    have hzero := Dev.pte_of_notMem d hp
    rw [hzero, agedEntry_of_elsewhere (by decide)]

/-- Settles O18: MOVE, the sweep's end, a destination that fails, and the ager, each by what it does. -/
theorem moveCommandAndAger : Obligations.MoveCommandAndAger := by
  unfold Obligations.MoveCommandAndAger
  intro q d ha
  refine ⟨?_, fun src l n hop hhead hbad => exec_move_of_bad q ha hop hhead hbad, ?_, ?_, ?_⟩
  · rintro src l g hop hhead hgood rfl
    exact exec_move_of_good q ha hop hhead hgood
  · intro page m hm hst hbad hdst hsrc hon
    exact exec_moveSweepDone hm (by simp [hbad]) hsrc hdst ha hst hon
  · exact fun page m hm hheld hreqs hwaits hbad hkept => exec_moveDestFail q ha hm hheld hreqs hwaits hbad hkept
  · intro hwf
    obtain ⟨t, hexec, heq, hpte⟩ := exec_agerSweep q ha hwf
    refine ⟨t, hexec, heq, fun p => ⟨fun h => ?_, fun h => ?_⟩⟩
    · rw [hpte, agedEntry_of_elsewhere h]
    · rw [hpte]
      exact agedEntry_of_hbm h

end Sys2Proof.Machine
end

section
/-! The statement about the Timetable, the saturation holds, the retraining slots and the patrol scrubber (R288 to R291, R295 to R298). -/
namespace Sys2Proof.Machine

-- The short theorems below are elaborated one after another: side by side, their threads' stacks exceed the memory of the check.
set_option Elab.async false

/-! ### The Timetable: start, and the entry reached -/

theorem Dev.StaysCalm.setTiers {same : Prop} {s t : Dev} {f : Tiers → Tiers} (h : s.StaysCalm same t)
    (hfilter : (f t.tiers).filter = t.tiers.filter) (hstalls : (f t.tiers).stalls = t.tiers.stalls) :
    s.StaysCalm same (t.setTiers f) :=
  h.frame ⟨rfl, hfilter, hstalls, rfl, rfl⟩

theorem Dev.StaysCalm.ttHalt {same : Prop} {s t : Dev} (h : s.StaysCalm same t) : s.StaysCalm same t.ttHalt :=
  Dev.StaysCalm.ttEndCheck h.frame

section
variable {s s1 : Dev} {n : Nat} (hn : n = s.fld Reg.DRY_TTPOS 0 17)
include hn

/-- An entry that cannot be read stops the Timetable (R288). -/
theorem Dev.ttReach_of_unread (h : s.unitRead (s.reg Reg.DRY_TTBASE + 32 * n) 32 = (s1, none)) :
    s.ttReach = (s1.record clsMEM 0x00C n 0 blkDRY 0).ttHalt := by
  subst hn
  unfold Dev.ttReach
  dsimp only
  rw [h]

theorem Dev.ttReach_of_read {e : List Byte} (h : s.unitRead (s.reg Reg.DRY_TTBASE + 32 * n) 32 = (s1, some e)) :
    s.ttReach = if entryBad e then (s1.record clsMEM 0x00C n 0 blkDRY 0).ttHalt else s1.setTiers fun t => { t with ttNow := e } := by
  subst hn
  unfold Dev.ttReach
  dsimp only
  rw [h]

end

theorem Dev.StaysCalm.ttReach {same : Prop} {s t : Dev} (h : s.StaysCalm same t) : s.StaysCalm same t.ttReach := by
  have hread : s.StaysCalm same (t.unitRead (t.reg Reg.DRY_TTBASE + 32 * t.fld Reg.DRY_TTPOS 0 17) 32).1 := h.unitRead
  cases hr : t.unitRead (t.reg Reg.DRY_TTBASE + 32 * t.fld Reg.DRY_TTPOS 0 17) 32 with
  | mk u r =>
    rw [hr] at hread
    cases r with
    | none =>
      rw [Dev.ttReach_of_unread rfl hr]
      exact hread.record.ttHalt
    | some e =>
      rw [Dev.ttReach_of_read rfl hr]
      exact .ite hread.record.ttHalt hread.frame

section
variable (q : List Instr) {d : Dev} (ha : d.alive = true)
include ha

theorem exec_timetableStart_of_good (hcalm : d.calm = true) (hrun : d.ttRun = false) (hlen : d.ttLen ≠ 0) (hahead : d.ttAhead ≠ 0)
    (hbase : d.reg Reg.DRY_TTBASE % 64 = 0) :
    exec .timetableStart ⟨q, d⟩ = .next ⟨q, (((d.setFlag Reg.DRY_STAT 12 true).setReg Reg.DRY_TTPOS 0).setTiers fun t => { t with
      ttEnd := false, ttHalted := false, opens := [], noted := t.noted.filter fun b => !isEntry b }).ttReach⟩ := by
  refine (State.unit_of_staysCalm q ha hcalm ?_ ?_ : execTimetableStart ⟨q, d⟩ = _)
  · simp [hrun, hlen, hahead, hbase]
  · have hset : d.StaysCalm False ((d.setFlag Reg.DRY_STAT 12 true).setReg Reg.DRY_TTPOS 0) :=
      Dev.StaysCalm.setReg (Dev.StaysCalm.setFld (Dev.StaysCalm.refl d))
    exact Dev.StaysCalm.ttReach (hset.setTiers rfl rfl)

theorem exec_timetableStart_of_bad (hcalm : d.calm = true) (hrun : d.ttRun = false)
    (hbad : d.ttLen = 0 ∨ d.ttAhead = 0 ∨ d.reg Reg.DRY_TTBASE % 64 ≠ 0) :
    exec .timetableStart ⟨q, d⟩ = .next ⟨q, d.record clsMEM 0x00C 0xFFFFFFFF 0 blkDRY 0⟩ := by
  refine (State.unit_of_staysCalm q ha hcalm ?_ (Dev.StaysCalm.refl d).record : execTimetableStart ⟨q, d⟩ = _)
  have hcond : (decide (d.ttLen = 0) || decide (d.ttAhead = 0) || decide (d.reg Reg.DRY_TTBASE % 64 ≠ 0)) = true := by
    simpa [or_assoc] using hbad
  simp only [hrun, Bool.false_eq_true, ↓reduceIte, hcond]

end

/-! ### The Timetable: stop and configuration -/

/-- A move or a promotion of the Timetable is left. -/
def Dev.ttBusy (s : Dev) : Bool := (s.tiers.moves.any fun m => isEntry m.by_) || s.tiers.waits.any fun w => isEntry w.by_

/-- The requests of the Timetable are dropped, and it has been told to end. -/
def Dev.ttHalting (s : Dev) : Dev :=
  s.setTiers fun t => { t with ttEnd := true, ttHalted := true, reqs := t.reqs.filter fun r => !isEntry r.by_ }

section
variable {s : Dev} {b : Bool}

/-- Of its requests none counts any more. -/
theorem Dev.ttHalting_busy (h : s.ttBusy = b) : (s.ttHalting.tiers.moves.any (fun m => isEntry m.by_)
    || s.ttHalting.tiers.reqs.any (fun m => isEntry m.by_) || s.ttHalting.tiers.waits.any fun m => isEntry m.by_) = b := by
  have hnone : s.ttHalting.tiers.reqs.any (fun m => isEntry m.by_) = false := by simp [Dev.ttHalting, Dev.setTiers]
  rw [hnone, Bool.or_false]
  exact h

/-- While moves of the Timetable are left, a halt waits for them. -/
theorem Dev.ttHalt_of_busy (h : s.ttBusy = true) : s.ttHalt = s.ttHalting := by
  change s.ttHalting.ttEndCheck = s.ttHalting
  unfold Dev.ttEndCheck
  simp only [Dev.ttHalting_busy h, Bool.not_true, Bool.and_false, Bool.false_eq_true, ↓reduceIte]

theorem Dev.ttHalt_of_idle (hrun : s.ttRun = true) (h : s.ttBusy = false) :
    s.ttHalt = ((s.ttHalting.setFlag Reg.DRY_STAT 12 false).setReg Reg.DRY_TTCTL 0).setTiers
      fun t => { t with opens := [], ttEnd := false, ttHalted := false, ttNow := [] } := by
  have hflag : s.ttHalting.flag Reg.DRY_STAT 12 = true := hrun
  have hend : s.ttHalting.tiers.ttEnd = true := rfl
  change s.ttHalting.ttEndCheck = _
  unfold Dev.ttEndCheck
  simp only [Dev.ttHalting_busy h, hflag, hend, Bool.not_false, Bool.and_true, ↓reduceIte]

/-- A halt drops the Timetable's requests, keeps its moves, and ends it where none is left. -/
theorem Dev.ttHalt_keeps (hrun : s.ttRun = true) : s.ttHalt.tiers.moves = s.tiers.moves
    ∧ s.ttHalt.tiers.reqs = s.tiers.reqs.filter (fun r => !isEntry r.by_) ∧ (s.ttHalt.ttRun = true → s.ttHalt.tiers.ttHalted = true)
    ∧ s.ttHalt.ttRun = s.ttBusy := by
  cases h : s.ttBusy
  · rw [Dev.ttHalt_of_idle hrun h]
    have hstop : Dev.ttRun (((s.ttHalting.setFlag Reg.DRY_STAT 12 false).setReg Reg.DRY_TTCTL 0).setTiers
        fun t => { t with opens := [], ttEnd := false, ttHalted := false, ttNow := [] }) = false := by
      unfold Dev.ttRun
      rw [Dev.flag_congr (Dev.reg_setTiers _ _ _), Dev.flag_setReg_ne _ _ _ (by decide), Dev.flag_setFlag_same _ _ _ (by decide)]
    exact ⟨rfl, rfl, fun hon => absurd (hstop.symm.trans hon) (by decide), hstop⟩
  · rw [Dev.ttHalt_of_busy h]
    exact ⟨rfl, rfl, fun _ => rfl, hrun⟩

end

section
variable (q : List Instr) {d : Dev} (ha : d.alive = true)
include ha

theorem exec_timetableStop (hrun : d.ttRun = true) : ∃ t, exec .timetableStop ⟨q, d⟩ = .next ⟨q, t⟩ ∧ t.tiers.moves = d.tiers.moves
    ∧ t.tiers.reqs = d.tiers.reqs.filter (fun r => !isEntry r.by_) ∧ (t.ttRun = true → t.tiers.ttHalted = true)
    ∧ t.ttRun = d.ttBusy :=
  ⟨_, (State.upd_of_alive q ha (if_pos hrun) : execTimetableStop ⟨q, d⟩ = _),
    Dev.ttHalt_keeps ((Dev.flag_setFlag_ne d 1 12 true (by decide)).trans hrun)⟩

theorem exec_timetableConfigWrite (v : Word64) : exec (.timetableConfigWrite Reg.DRY_TTBASE v) ⟨q, d⟩
    = .next ⟨q, if d.ttRun then d.discard clsMEM 0x00D Reg.DRY_TTBASE 0 else d.regWrite .host Reg.DRY_TTBASE v.toNat⟩ :=
  (State.upd_of_alive q ha rfl : execTimetableConfigWrite Reg.DRY_TTBASE v ⟨q, d⟩ = _)

end

/-! ### The Timetable: the trigger -/

section
variable (q : List Instr) {d : Dev} (ha : d.alive = true) (hcalm : d.calm = true) (hrun : d.ttRun = true)
  (hstate : d.jobState ≠ jPREEMPTED) (hend : d.tiers.ttEnd = false) {e : List Byte} (hnow : d.tiers.ttNow = e) (hne : e ≠ [])
  (htrig : bits (leNat e) 0 64 = 0)
include ha hcalm hrun hstate hend hnow hne htrig

/-- With AHEAD entries unsettled the entry reached waits (R289). -/
theorem exec_timetableEntryTrigger_waits (hfull : d.ttAhead ≤ d.tiers.opens.length) :
    exec .timetableEntryTrigger ⟨q, d⟩ = .next ⟨q, d⟩ := by
  refine (State.unit_of_staysCalm q ha hcalm ?_ (.refl d) : execTimetableEntryTrigger ⟨q, d⟩ = _)
  simp [hrun, hstate, hend, hnow, hne, htrig, hfull]

/-- An entry that is due opens, its moves start, and the next entry of the lap is reached. -/
theorem exec_timetableEntryTrigger_opens {n k : Nat} {r : MoveReq} (hn : n = d.fld Reg.DRY_TTPOS 0 17)
    (hroom : d.tiers.opens.length < d.ttAhead) (hnext : n + 1 ≠ d.ttLen) (hk : k = d.fld Reg.DRY_TTPOS 17 47)
    (hr : r = MoveReq.mk (bits (leNat e) 128 22) (bits (leNat e) 160 23) (bits (leNat e) 192 3) (bits (leNat e) 195 3) false
      (.entry k n)) :
    exec .timetableEntryTrigger ⟨q, d⟩ = .next ⟨q, (((d.setTiers fun t => { t with
      opens := t.opens ++ [⟨k, n, r.count, r.first, r.count, r.target, r.pool⟩], reqs := t.reqs ++ [r],
      ttNow := [] }).setFld Reg.DRY_TTPOS 0 17 (n + 1)).pump).ttReach⟩ := by
  subst hn hk hr
  refine (State.unit_of_staysCalm q ha hcalm ?_ ?_ : execTimetableEntryTrigger ⟨q, d⟩ = _)
  · have hlen : ∀ f : Tiers → Tiers, (d.setTiers f).ttLen = d.ttLen := fun _ => rfl
    simp [hrun, hstate, hend, hnow, hne, htrig, Nat.not_le.2 hroom, hlen, hnext]
  · exact Dev.StaysCalm.ttReach (Dev.StaysCalm.pump (Dev.StaysCalm.setFld ((Dev.StaysCalm.refl d).setTiers rfl rfl)))

end

/-! ### Holds, retraining slots, the scrubber -/

/-- A register's flags one after another: what a sample of the saturation leaves in DRY_STAT. -/
def Dev.heldAt (s : Dev) (x y z : Bool) : Dev :=
  ((s.setFlag Reg.DRY_STAT 8 x).setFlag Reg.DRY_STAT 9 y).setFlag Reg.DRY_STAT 10 z

section
variable (s : Dev) (x y z : Bool)

theorem Dev.onlyRegs_heldAt : s.OnlyRegs (s.heldAt x y z) [Reg.DRY_STAT] := by
  refine ⟨rfl, fun k hk => ?_⟩
  have hne : k ≠ Reg.DRY_STAT := by simpa using hk
  unfold Dev.heldAt
  rw [Dev.reg_setFlag_ne _ _ _ hne, Dev.reg_setFlag_ne _ _ _ hne, Dev.reg_setFlag_ne _ _ _ hne]

theorem Dev.flag_heldAt : (s.heldAt x y z).flag Reg.DRY_STAT 8 = x ∧ (s.heldAt x y z).flag Reg.DRY_STAT 9 = y
    ∧ (s.heldAt x y z).flag Reg.DRY_STAT 10 = z := by
  unfold Dev.heldAt
  refine ⟨?_, ?_, Dev.flag_setFlag_same _ _ _ (by decide)⟩
  · rw [Dev.flag_setFlag_bit _ _ _ (by decide) (by decide), Dev.flag_setFlag_bit _ _ _ (by decide) (by decide),
      Dev.flag_setFlag_same _ _ _ (by decide)]
  · rw [Dev.flag_setFlag_bit _ _ _ (by decide) (by decide), Dev.flag_setFlag_same _ _ _ (by decide)]

theorem Dev.ttRun_heldAt : (s.heldAt x y z).ttRun = s.ttRun := by
  unfold Dev.heldAt Dev.ttRun
  rw [Dev.flag_setFlag_bit _ _ _ (by decide) (by decide), Dev.flag_setFlag_bit _ _ _ (by decide) (by decide),
    Dev.flag_setFlag_bit _ _ _ (by decide) (by decide)]

end

section
variable (q : List Instr) {d : Dev} (ha : d.alive = true)
include ha

theorem exec_saturationSample (hbm p0 p1 : Nat) (hreqs : d.tiers.reqs = []) (hrun : d.ttRun = false) :
    exec (.saturationSample hbm p0 p1) ⟨q, d⟩ = .next ⟨q, d.heldAt
      (holdOf (d.flag Reg.DRY_STAT 8) hbm (d.fld Reg.DRY_SATCFG 0 8) (d.fld Reg.DRY_SATCFG 8 8))
      (holdOf (d.flag Reg.DRY_STAT 9) p0 (d.fld Reg.DRY_SATCFG 16 8) (d.fld Reg.DRY_SATCFG 24 8))
      (holdOf (d.flag Reg.DRY_STAT 10) p1 (d.fld Reg.DRY_SATCFG 16 8) (d.fld Reg.DRY_SATCFG 24 8))⟩ := by
  refine (State.upd_of_alive q ha ?_ : execSaturationSample hbm p0 p1 ⟨q, d⟩ = _)
  dsimp only
  rw [Dev.flag_setFlag_bit (i := 9) (j := 10) _ _ _ (by decide) (by decide),
    Dev.flag_setFlag_bit (i := 8) (j := 10) _ _ _ (by decide) (by decide),
    Dev.flag_setFlag_bit (i := 8) (j := 9) _ _ _ (by decide) (by decide)]
  refine (Dev.pump_of_reqs_nil (s := d.heldAt _ _ _) hreqs).trans (Dev.ttEndCheck_of_stopped ?_)
  rw [Dev.ttRun_heldAt, hrun]

section
variable {st occ : Nat} (hst : st < 8)
include hst

/-- On a free device with the occupancy below the mark a slot that falls due starts (R297). -/
theorem exec_retrainSlotDue_starts (hsteps : d.rtSteps st = 0) (hfree : d.flag Reg.MEM_RTSTAT 3 = false)
    (hocc : occ < d.fld Reg.DRY_SATCFG 0 8) : exec (.retrainSlotDue st occ) ⟨q, d⟩ = .next ⟨q, d.rtStart st⟩ := by
  refine (State.upd_of_alive q ha ?_ : execRetrainSlotDue st occ ⟨q, d⟩ = _)
  simp [hsteps, hfree, Nat.not_le.2 hst, Nat.not_le.2 hocc]

theorem exec_retrainSlotDue_waits (hsteps : d.rtSteps st = 0) (hbusy : d.flag Reg.MEM_RTSTAT 3 = true) :
    exec (.retrainSlotDue st occ) ⟨q, d⟩ = .next ⟨q, (d.setRtSteps st 1).bump Reg.MEM_CNT_RTDEFER 1⟩ := by
  refine (State.upd_of_alive q ha ?_ : execRetrainSlotDue st occ ⟨q, d⟩ = _)
  simp [hsteps, hbusy, Nat.not_le.2 hst]

theorem exec_retrainSlotDefer_starts (hsteps : d.rtSteps st ≠ 0) (hfree : d.flag Reg.MEM_RTSTAT 3 = false)
    (hocc : occ < d.fld Reg.DRY_SATCFG 0 8) : exec (.retrainSlotDefer st occ) ⟨q, d⟩ = .next ⟨q, d.rtStart st⟩ := by
  refine (State.upd_of_alive q ha ?_ : execRetrainSlotDefer st occ ⟨q, d⟩ = _)
  simp [hsteps, hfree, Nat.not_le.2 hst, hocc]

end

theorem exec_retrainSlotEnd (hbusy : d.flag Reg.MEM_RTSTAT 3 = true) :
    exec .retrainSlotEnd ⟨q, d⟩ = .next ⟨q, (d.setFlag Reg.MEM_RTSTAT 3 false).bump Reg.MEM_CNT_RTSLOT 1⟩ :=
  (State.upd_of_alive q ha (if_pos hbusy) : execRetrainSlotEnd ⟨q, d⟩ = _)

/-- Where the scrubber is off, a line is not read (R298). -/
theorem exec_scrubRead_off (frame line : Nat) (f : LineState) (hoff : d.flag Reg.MEM_ECCCFG 8 = false) :
    exec (.scrubRead frame line f) ⟨q, d⟩ = .next ⟨q, d⟩ := by
  refine (State.upd_of_alive q ha ?_ : execScrubRead frame line f ⟨q, d⟩ = _)
  simp [hoff]

end

theorem keyHome_hbmKey {frame off : Nat} (h : frame * 2 ^ 21 + off < 2 ^ 60) : keyHome (hbmKey frame off) = 1 := by
  have hdiv : hbmKey frame off / 2 ^ 60 = 2 := by
    unfold hbmKey keyTier
    omega
  unfold keyHome
  simp only [hdiv]

theorem Dev.lineOf_setLine_same (s : Dev) (k : Nat) (l : LineState) : (s.setLine k l).lineOf k = l := Sparse.get_put_same ..

/-- Without a limit a frame's correctable errors are counted, and the frame stays in use (R300). -/
theorem Dev.frameCe_of_unlimited {s : Dev} (h : s.fld Reg.MEM_ECCCFG 0 8 = 0) (g f : Nat) :
    s.frameCe g f = s.setTiers fun t => { t with ce := Sparse.put (fun _ => 0) t.ce f (Sparse.get (fun _ => 0) s.tiers.ce f + 1) } := by
  have hlim : ∀ u : Tiers → Tiers, (s.setTiers u).fld Reg.MEM_ECCCFG 0 8 = 0 := fun _ => h
  unfold Dev.frameCe
  simp only [hlim, ne_eq, not_true_eq_false, decide_false, Bool.false_and, Bool.false_eq_true, ↓reduceIte]

/-- A correctable error found by a read of an HBM line is corrected and counted (R298). -/
theorem Dev.lineRead_ce {s : Dev} {k : Nat} (hline : s.lineOf k = .ce) (hhome : keyHome k = 1) (hlim : s.fld Reg.MEM_ECCCFG 0 8 = 0)
    (g a : Nat) : ∃ f : Tiers → Tiers,
      (s.lineRead false g a k).1 = ((s.setLine k .good).bump Reg.MEM_CNT_CE_HBM 1).setTiers f := by
  have hlim' : ((s.setLine k .good).bump Reg.MEM_CNT_CE_HBM 1).fld Reg.MEM_ECCCFG 0 8 = 0 := by
    rw [Dev.fld_bump_ne _ _ _ _ (by decide)]
    exact hlim
  unfold Dev.lineRead
  simp only [hline, hhome, BEq.rfl, ↓reduceIte, Dev.frameCe_of_unlimited hlim']
  exact ⟨_, rfl⟩

/-- The scrubber corrects what it finds correctable, and counts it. -/
theorem exec_scrubRead_ce (q : List Instr) {d : Dev} (ha : d.alive = true) {frame line : Nat} (hon : d.flag Reg.MEM_ECCCFG 8 = true)
    (hframe : frame < hbmFrames) (hline : line < 32768) (hlim : d.fld Reg.MEM_ECCCFG 0 8 = 0)
    (hgood : d.lineOf (hbmKey frame (64 * line)) = .good) : ∃ t, exec (.scrubRead frame line .ce) ⟨q, d⟩ = .next ⟨q, t⟩
      ∧ t.reg Reg.MEM_CNT_CE_HBM = (d.reg Reg.MEM_CNT_CE_HBM + 1) % 2 ^ 64
      ∧ t.lineOf (hbmKey frame (64 * line)) = .good ∧ t.mem = d.mem ∧ t.log = d.log := by
  have hhome : keyHome (hbmKey frame (64 * line)) = 1 := keyHome_hbmKey (by unfold hbmFrames at hframe; omega)
  obtain ⟨f, hread⟩ := Dev.lineRead_ce (d.lineOf_setLine_same (hbmKey frame (64 * line)) .ce) hhome hlim 0
    ((d.setLine (hbmKey frame (64 * line)) .ce).jobOf 1 frame (64 * line))
  refine ⟨(((d.setLine (hbmKey frame (64 * line)) .ce).setLine (hbmKey frame (64 * line)) .good).bump Reg.MEM_CNT_CE_HBM 1).setTiers f,
    (State.upd_of_alive q ha ?_ : execScrubRead frame line .ce ⟨q, d⟩ = _), ?_, ?_, ?_, ?_⟩
  · rw [← hread]
    simp [hon, Nat.not_le.2 hframe, Nat.not_le.2 hline, hgood]
  · rw [Dev.reg_setTiers, Dev.reg_bump_same, Dev.reg_setLine, Dev.reg_setLine]
  · exact Dev.lineOf_congr (Dev.lineOf_setLine_same ..) ((Dev.setTiers_bad _ _).trans (Dev.bump_bad _ _ _))
  · rw [Dev.setTiers_mem, Dev.bump_mem, Dev.setLine_mem, Dev.setLine_mem]
  · rw [Dev.setTiers_log, Dev.bump_log, Dev.setLine_log, Dev.setLine_log]

/-- Settles O19: the Timetable's operations, the holds, the slots and the scrubber, each by what it does. -/
theorem timetableHoldsAndSlots : Obligations.TimetableHoldsAndSlots := by
  unfold Obligations.TimetableHoldsAndSlots
  intro q d ha
  refine ⟨fun hcalm hrun hlen hahead hbase => exec_timetableStart_of_good q ha hcalm hrun hlen hahead hbase,
    fun n hn => ⟨fun s1 hread => Dev.ttReach_of_unread hn hread, fun s1 e hread => Dev.ttReach_of_read hn hread⟩,
    fun hcalm hrun hbad => exec_timetableStart_of_bad q ha hcalm hrun hbad, fun hrun => exec_timetableStop q ha hrun,
    fun v hrun => ?_, fun v hrun => ?_, fun n e hcalm hrun hstate hend hnow hne htrig hn =>
      ⟨fun hfull => exec_timetableEntryTrigger_waits q ha hcalm hrun hstate hend hnow hne htrig hfull,
        fun k r hroom hnext hk hr => exec_timetableEntryTrigger_opens q ha hcalm hrun hstate hend hnow hne htrig hn hroom hnext hk hr⟩,
    fun hbm p0 p1 hreqs hrun => ⟨_, exec_saturationSample q ha hbm p0 p1 hreqs hrun, Dev.onlyRegs_heldAt .., Dev.flag_heldAt ..⟩,
    fun st occ hst hsteps hfree hocc => exec_retrainSlotDue_starts q ha hst hsteps hfree hocc,
    fun st occ hst hsteps hbusy => exec_retrainSlotDue_waits q ha hst hsteps hbusy,
    fun st occ hst hsteps hfree hocc => exec_retrainSlotDefer_starts q ha hst hsteps hfree hocc,
    fun hbusy => exec_retrainSlotEnd q ha hbusy,
    fun frame line hon hframe hline hlim hgood => exec_scrubRead_ce q ha hon hframe hline hlim hgood,
    fun frame line f hoff => exec_scrubRead_off q ha frame line f hoff⟩
  · rw [exec_timetableConfigWrite q ha, if_pos hrun]
  · rw [exec_timetableConfigWrite q ha, hrun]
    rfl

end Sys2Proof.Machine
end

section
/-! The statement about an allocation served (R312, R313, R321): what a settling keeps, the lowest free barrow, and the head of a
queue that takes it. -/
namespace Sys2Proof.Machine

-- The short theorems below are elaborated one after another: side by side, their threads' stacks exceed the memory of the check.
set_option Elab.async false

/-! ### The same requests -/

theorem SameRequests.refl (a : List AllocReq) : SameRequests a a := rfl

/-- To note that requests have waited leaves them the same requests (R321). -/
theorem sameRequests_waited (may : Bool) (a : List AllocReq) :
    SameRequests (if may then a else a.map fun r => { r with waited := true }) a := by
  cases may
  · simp [SameRequests, Function.comp_def]
  · exact .refl a

/-! ### What a settling keeps -/

section
variable (s : Dev)

/-- The requests of a queue whose head may not take a barrow have waited (R321). -/
def Dev.livNoted (s : Dev) : Dev := { s with liv := { s.liv with
  retq := if s.retMay then s.liv.retq else s.liv.retq.map fun r => { r with waited := true }
  norq := if s.norMay then s.liv.norq else s.liv.norq.map fun r => { r with waited := true } } }

/-- A settling notes who waits, and forgets the record of a dry spell that has ended (R316, R321). -/
theorem Dev.livSettle_eq_ite : s.livSettle = if s.livNoted.livDry then s.livNoted
    else { s.livNoted with liv := { s.livNoted.liv with dryRec := false } } := rfl

/-- A settling changes the two queues and the note of the dry spell, and nothing else. -/
theorem Dev.livSettle_eq : s.livSettle = { s with liv := { s.liv with
    retq := s.livNoted.liv.retq, norq := s.livNoted.liv.norq, dryRec := s.livSettle.liv.dryRec } } := by
  rw [Dev.livSettle_eq_ite]; split <;> rfl

@[simp] theorem Dev.livSettle_regs : s.livSettle.regs = s.regs := by rw [Dev.livSettle_eq]
@[simp] theorem Dev.livSettle_log : s.livSettle.log = s.log := by rw [Dev.livSettle_eq]
@[simp] theorem Dev.livSettle_outs : s.livSettle.outs = s.outs := by rw [Dev.livSettle_eq]
@[simp] theorem Dev.livSettle_barrows : s.livSettle.liv.barrows = s.liv.barrows := by rw [Dev.livSettle_eq]
@[simp] theorem Dev.reg_livSettle (k : Nat) : s.livSettle.reg k = s.reg k := Dev.reg_congr s.livSettle_regs k
@[simp] theorem Dev.barrow_livSettle (i : Nat) : s.livSettle.barrow i = s.barrow i := by
  unfold Dev.barrow; rw [Dev.livSettle_barrows]
@[simp] theorem Dev.livEn_livSettle : s.livSettle.livEn = s.livEn := Dev.flag_congr (s.reg_livSettle _) _

theorem Dev.sameRequests_livSettle_retq : SameRequests s.livSettle.liv.retq s.liv.retq := by
  rw [Dev.livSettle_eq]; exact sameRequests_waited s.retMay s.liv.retq

theorem Dev.sameRequests_livSettle_norq : SameRequests s.livSettle.liv.norq s.liv.norq := by
  rw [Dev.livSettle_eq]; exact sameRequests_waited s.norMay s.liv.norq

/-! ### Barrow records -/

@[simp] theorem Dev.barrow_setBarrow_same (i : Nat) (b : Option Barrow) : (s.setBarrow i b).barrow i = b := Sparse.get_put_same ..
theorem Dev.barrow_setBarrow_ne {i j : Nat} (b : Option Barrow) (h : j ≠ i) : (s.setBarrow i b).barrow j = s.barrow j :=
  Sparse.get_put_ne _ _ _ h
@[simp] theorem Dev.reg_setBarrow (i : Nat) (b : Option Barrow) (k : Nat) : (s.setBarrow i b).reg k = s.reg k := rfl
@[simp] theorem Dev.setBarrow_outs (i : Nat) (b : Option Barrow) : (s.setBarrow i b).outs = s.outs := rfl

end

/-! ### The lowest free barrow (R313) -/

/-- A key that does not read as an unlisted one is listed. -/
theorem Sparse.mem_keys_of_get_ne {α : Type} {f : Nat → α} {m : List (Nat × α)} {k : Nat} (h : Sparse.get f m k ≠ f k) :
    k ∈ m.map Prod.fst := by
  induction m with
  | nil => exact absurd rfl h
  | cons e m ih =>
    obtain ⟨j, v⟩ := e
    by_cases hk : k = j
    · simp [hk]
    · simp only [Sparse.get, if_neg hk] at h
      exact List.mem_cons_of_mem _ (ih h)

section
variable (bs : List (Nat × Option Barrow))

theorem lowestFree_succ (n : Nat) : lowestFree bs (n + 1)
    = if (Sparse.get barrowDefault bs (lowestFree bs n)).isSome then lowestFree bs n + 1 else lowestFree bs n := rfl

theorem lowestFree_le (n : Nat) : lowestFree bs n ≤ n := by
  induction n with
  | zero => exact Nat.le_refl 0
  | succ n ih => rw [lowestFree_succ]; split <;> omega

/-- Every barrow below the lowest free one is in use. -/
theorem used_below_lowestFree {n j : Nat} (h : j < lowestFree bs n) : Sparse.get barrowDefault bs j ≠ none := by
  induction n with
  | zero => exact absurd h (Nat.not_lt_zero j)
  | succ n ih =>
    rw [lowestFree_succ] at h
    split at h
    · next hused =>
      rcases Nat.lt_succ_iff_lt_or_eq.1 h with hlt | rfl
      · exact ih hlt
      · exact Option.isSome_iff_ne_none.1 hused
    · exact ih h

/-- The search stops before its bound at a free barrow only. -/
theorem free_lowestFree_of_lt {n : Nat} (h : lowestFree bs n < n) : Sparse.get barrowDefault bs (lowestFree bs n) = none := by
  induction n with
  | zero => exact absurd h (Nat.not_lt_zero _)
  | succ n ih =>
    rw [lowestFree_succ] at h ⊢
    split
    · next hused =>
      rw [if_pos hused] at h
      rw [ih (by omega)] at hused
      exact absurd hused (by decide)
    · next hfree => exact Option.not_isSome_iff_eq_none.1 hfree

/-- As many barrows as the table lists are searched, and one more cannot all be listed: the search finds a free one. -/
theorem free_lowestFree : Sparse.get barrowDefault bs (lowestFree bs bs.length) = none := by
  by_contra hused
  have hend : lowestFree bs bs.length = bs.length :=
    (lowestFree_le bs _).antisymm (Nat.le_of_not_lt fun h => hused (free_lowestFree_of_lt bs h))
  have hlisted : List.range (bs.length + 1) ⊆ bs.map Prod.fst := fun j hj => by
    refine Sparse.mem_keys_of_get_ne (f := barrowDefault) ?_
    rcases Nat.lt_succ_iff_lt_or_eq.1 (List.mem_range.1 hj) with hlt | rfl
    · exact used_below_lowestFree bs (hend.symm ▸ hlt)
    · rwa [hend] at hused
  have hcard := (List.subperm_of_subset List.nodup_range hlisted).length_le
  simp at hcard

end

/-! ### A barrow given -/

section
variable (s : Dev)

/-- The barrow that the next allocation takes (R313). -/
def Dev.livNext (s : Dev) : Nat := lowestFree s.liv.barrows s.liv.barrows.length

theorem Dev.barrow_livNext : s.barrow s.livNext = none := free_lowestFree _
theorem Dev.barrow_below_livNext {j : Nat} (h : j < s.livNext) : s.barrow j ≠ none := used_below_lowestFree _ h

/-- A window with a free barrow holds the barrow that is taken. -/
theorem Dev.livNext_lt (h : 0 < s.livFree) : s.livNext < s.livCount := by
  have hle : s.livNext ≤ s.liv.barrows.length := lowestFree_le _ _
  unfold Dev.livFree at h
  omega

section
variable (owner gen : Nat)

/-- Of the Livery itself, an allocation changes the record of the barrow taken alone. -/
theorem Dev.livTake_liv : (s.livTake owner gen).1.liv = (s.setBarrow s.livNext (some ⟨owner, 0, false, gen⟩)).liv := by
  unfold Dev.livTake; dsimp only; split <;> rfl

theorem Dev.livTake_outs : (s.livTake owner gen).1.outs = s.outs := by
  unfold Dev.livTake; dsimp only; split <;> rfl

theorem Dev.livTake_ptr : (s.livTake owner gen).2 = s.barrowPtr s.livNext := by
  unfold Dev.livTake; dsimp only; split <;> rfl

/-- An allocation writes its counter and the low-water mark, and no other register. -/
theorem Dev.reg_livTake {k : Nat} (hcount : k ≠ Reg.LVY_CNT_ALLOC) (hlow : k ≠ Reg.LVY_LOWWM) :
    (s.livTake owner gen).1.reg k = s.reg k := by
  unfold Dev.livTake; dsimp only
  split
  · rw [Dev.reg_setFld_ne _ _ _ _ hlow, Dev.reg_bump_ne _ _ hcount, Dev.reg_setBarrow]
  · rw [Dev.reg_bump_ne _ _ hcount, Dev.reg_setBarrow]

end

/-- The count of the requests that waited, after one more request was served (R321). -/
def Dev.countWaited (s : Dev) (waited : Bool) : Dev := if waited then s.bump Reg.LVY_CNT_WAIT 1 else s

theorem Dev.countWaited_liv (w : Bool) : (s.countWaited w).liv = s.liv := by cases w <;> rfl
theorem Dev.countWaited_outs (w : Bool) : (s.countWaited w).outs = s.outs := by cases w <;> rfl
theorem Dev.reg_countWaited (w : Bool) : (s.countWaited w).reg Reg.LVY_CNT_WAIT = (s.reg Reg.LVY_CNT_WAIT + w.toNat) % 2 ^ 64 := by
  cases w
  · exact (Nat.mod_eq_of_lt (s.reg_lt _)).symm
  · exact s.reg_bump_same _ _

/-- The lowest free barrow is the request's own, its wait is counted, and the pointer goes to the requester (R309, R313). -/
def Dev.livHanded (s : Dev) (r : AllocReq) : Dev :=
  ((s.livTake r.owner r.gen).1.countWaited r.waited).emit (.barrow r.owner (s.livTake r.owner r.gen).2 r.gen)

/-- A request served. -/
def Dev.livGive (s : Dev) (r : AllocReq) : Dev := (s.livHanded r).livSettle

section
variable (r : AllocReq)

theorem Dev.livHanded_liv : (s.livHanded r).liv = (s.setBarrow s.livNext (some ⟨r.owner, 0, false, r.gen⟩)).liv := by
  rw [Dev.livHanded, Dev.emit_liv, Dev.countWaited_liv, Dev.livTake_liv]

theorem Dev.barrow_livGive (j : Nat) :
    (s.livGive r).barrow j = (s.setBarrow s.livNext (some ⟨r.owner, 0, false, r.gen⟩)).barrow j := by
  unfold Dev.livGive Dev.barrow
  rw [Dev.livSettle_barrows, Dev.livHanded_liv]

theorem Dev.barrow_livGive_next : (s.livGive r).barrow s.livNext = some ⟨r.owner, 0, false, r.gen⟩ := by
  rw [Dev.barrow_livGive, Dev.barrow_setBarrow_same]

theorem Dev.barrow_livGive_ne {j : Nat} (h : j ≠ s.livNext) : (s.livGive r).barrow j = s.barrow j := by
  rw [Dev.barrow_livGive, Dev.barrow_setBarrow_ne _ _ h]

theorem Dev.sameRequests_livGive_retq : SameRequests (s.livGive r).liv.retq s.liv.retq := by
  have h := (s.livHanded r).sameRequests_livSettle_retq
  rwa [Dev.livHanded_liv] at h

theorem Dev.sameRequests_livGive_norq : SameRequests (s.livGive r).liv.norq s.liv.norq := by
  have h := (s.livHanded r).sameRequests_livSettle_norq
  rwa [Dev.livHanded_liv] at h

theorem Dev.livGive_outs : (s.livGive r).outs = s.outs ++ [.barrow r.owner (s.barrowPtr s.livNext) r.gen] := by
  unfold Dev.livGive Dev.livHanded Dev.emit
  rw [Dev.livSettle_outs, Dev.countWaited_outs, Dev.livTake_outs, Dev.livTake_ptr]

theorem Dev.reg_wait_livGive : (s.livGive r).reg Reg.LVY_CNT_WAIT = (s.reg Reg.LVY_CNT_WAIT + r.waited.toNat) % 2 ^ 64 := by
  unfold Dev.livGive Dev.livHanded
  rw [Dev.reg_livSettle, Dev.reg_emit, Dev.reg_countWaited, Dev.reg_livTake _ _ _ (by decide) (by decide)]

end

end

/-! ### An allocation served (R312) -/

section
variable (q : List Instr) {d : Dev} (ha : d.alive = true) {r : AllocReq} {rs : List AllocReq}
include ha

theorem exec_liveryAllocServe_retq (hen : d.livEn = true) (hq : d.liv.retq = r :: rs) (hfree : 0 < d.livFree) :
    exec .liveryAllocServe ⟨q, d⟩ = .next ⟨q, Dev.livGive { d with liv := { d.liv with retq := rs } } r⟩ := by
  have hmay : d.retMay = true := by simp [Dev.retMay, hen, hq, hfree]
  refine (State.upd_of_alive q ha ?_ : execLiveryAllocServe ⟨q, d⟩ = _)
  simp only [hmay, ↓reduceIte, hq]
  rfl

theorem exec_liveryAllocServe_norq (hret : d.retMay = false) (hen : d.livEn = true) (hq : d.liv.norq = r :: rs)
    (hfree : d.livReserve < d.livFree) :
    exec .liveryAllocServe ⟨q, d⟩ = .next ⟨q, Dev.livGive { d with liv := { d.liv with norq := rs } } r⟩ := by
  have hmay : d.norMay = true := by simp [Dev.norMay, hen, hq, hfree]
  refine (State.upd_of_alive q ha ?_ : execLiveryAllocServe ⟨q, d⟩ = _)
  simp only [hret, Bool.false_eq_true, hmay, ↓reduceIte, hq]
  rfl

end

/-- Settles O3: each queue's head is served by `Dev.livGive`, whose barrow is the first that the table does not list. -/
theorem allocationGivesLowestFreeBarrow : Obligations.AllocationGivesLowestFreeBarrow := by
  unfold Obligations.AllocationGivesLowestFreeBarrow
  intro q d ha _ _
  refine ⟨fun r rs hen hq hfree => ?_, fun r rs hret hen hq hfree => ?_⟩
  · exact ⟨_, d.livNext, exec_liveryAllocServe_retq q ha hen hq hfree, d.barrow_livNext, fun _ => d.barrow_below_livNext,
      d.livNext_lt hfree, Dev.barrow_livGive_next _ r, fun _ hj => Dev.barrow_livGive_ne _ r hj,
      Dev.sameRequests_livGive_retq _ r, Dev.sameRequests_livGive_norq _ r, Dev.livGive_outs _ r, Dev.reg_wait_livGive _ r⟩
  · exact ⟨_, d.livNext, exec_liveryAllocServe_norq q ha hret hen hq hfree, d.barrow_livNext, fun _ => d.barrow_below_livNext,
      d.livNext_lt (Nat.zero_lt_of_lt hfree), Dev.barrow_livGive_next _ r, fun _ hj => Dev.barrow_livGive_ne _ r hj,
      Dev.sameRequests_livGive_norq _ r, Dev.sameRequests_livGive_retq _ r, Dev.livGive_outs _ r, Dev.reg_wait_livGive _ r⟩

end Sys2Proof.Machine
end

section
/-! The statements about the operations on a barrow and their refusals, and about the Livery's requests and registers (R304, R305,
R308 to R312, R316, R320 to R322). -/
namespace Sys2Proof.Machine

-- The short theorems below are elaborated one after another: side by side, their threads' stacks exceed the memory of the check.
set_option Elab.async false

/-! ### FREE, SHARE and DROP (Table 09-2) -/

/-- The codes of Table 09-1 that name an owner. -/
theorem ownerOk_iff {c : Nat} : ownerOk c = true ↔ c = 0x01 ∨ 0x08 ≤ c ∧ c ≤ 0x11 := by simp [ownerOk]

section
variable {s : Dev} {who p dst i : Nat} {b : Barrow}

/-- A pointer that names no barrow is refused (R311). -/
theorem Dev.livOp_of_outside (hp : s.barrowOf p = none) (f : Dev → Nat → Barrow → Dev) :
    s.livOp who p f = (s.livBad 0x010 p 0).livSettle := by
  unfold Dev.livOp; rw [hp]

section
variable (hp : s.barrowOf p = some i)
include hp

/-- An operation on a free barrow is refused (R311). -/
theorem Dev.livOp_of_free (hb : s.barrow i = none) (f : Dev → Nat → Barrow → Dev) :
    s.livOp who p f = (s.livRefuse who i).livSettle := by
  unfold Dev.livOp; rw [hp]; dsimp only; rw [hb]

variable (hb : s.barrow i = some b)
include hb

theorem Dev.livOp_of_used (f : Dev → Nat → Barrow → Dev) : s.livOp who p f = (f s i b).livSettle := by
  unfold Dev.livOp; rw [hp]; dsimp only; rw [hb]

theorem Dev.livFreeOp_of_used : s.livFreeOp who p = Dev.livSettle (if b.owner ≠ who then s.livRefuse who i
    else if b.holders = 0 then s.livRelease i else s.setBarrow i (some { b with pend := true })) := Dev.livOp_of_used hp hb _

theorem Dev.livShareOp_of_used : s.livShareOp who p dst = Dev.livSettle (
    if b.owner ≠ who ∨ 15 ≤ b.holders ∨ ¬ (dst = 0x01 ∨ 0x08 ≤ dst ∧ dst ≤ 0x11) then s.livRefuse who i
    else s.setBarrow i (some { b with holders := b.holders + 1, owner := dst })) := by
  refine (Dev.livOp_of_used hp hb _).trans ?_
  simp only [← ownerOk_iff, Bool.or_eq_true, decide_eq_true_eq, Bool.not_eq_true', Bool.not_eq_true, or_assoc]

theorem Dev.livDropOp_of_used : s.livDropOp who p = Dev.livSettle (if b.holders = 0 then s.livRefuse who i
    else if b.holders = 1 ∧ b.pend = true then s.livRelease i
    else s.setBarrow i (some { b with holders := b.holders - 1 })) := by
  refine (Dev.livOp_of_used hp hb _).trans ?_
  simp only [Bool.and_eq_true, decide_eq_true_eq]

end

/-! ### The refusals (R311, R322) -/

theorem Dev.livRefuse_of_free (hb : s.barrow i = none) : s.livRefuse who i = s.livBad 0x011 (i + who * 2 ^ 24) 0 := by
  simp [Dev.livRefuse, hb]

/-- A hardware unit's refusal names the barrow's generation; firmware's and the host's carry 0 (R322). -/
theorem Dev.livRefuse_of_used (hb : s.barrow i = some b) :
    s.livRefuse who i = s.livBad 0x011 (i + who * 2 ^ 24) (if who = 0x10 ∨ who = 0x11 then 0 else b.gen) := by
  simp [Dev.livRefuse, hb]

/-- A refusal is recorded and counted, and every barrow record is as before. -/
theorem Dev.livBad_spec (s : Dev) (code detail gen : Nat) :
    s.Recorded (s.livBad code detail gen).livSettle clsMEM code detail gen blkLVY 0
    ∧ (s.livBad code detail gen).livSettle.liv.barrows = s.liv.barrows
    ∧ (s.livBad code detail gen).livSettle.reg Reg.LVY_CNT_BADOP = (s.reg Reg.LVY_CNT_BADOP + 1) % 2 ^ 64 := by
  have hrec : s.Recorded (s.livBad code detail gen) clsMEM code detail gen blkLVY 0 :=
    (s.recorded_record ..).bump 1 (by decide)
  refine ⟨hrec.congr (Dev.livSettle_log _) (Dev.reg_livSettle _ _), ?_, ?_⟩
  · rw [Dev.livSettle_barrows, Dev.livBad, Dev.bump_liv, Dev.record_liv]
  · rw [Dev.reg_livSettle, Dev.livBad, Dev.reg_bump_same, Dev.reg_record_lt _ _ _ _ _ _ _ (by decide)]

end

section
variable (q : List Instr) {d : Dev} (ha : d.alive = true)
include ha

theorem exec_free (who p : Nat) : exec (.free who p) ⟨q, d⟩ = .next ⟨q, d.livFreeOp who p⟩ :=
  (State.upd_of_alive q ha rfl : execFree who p ⟨q, d⟩ = _)
theorem exec_share (who p dst : Nat) : exec (.share who p dst) ⟨q, d⟩ = .next ⟨q, d.livShareOp who p dst⟩ :=
  (State.upd_of_alive q ha rfl : execShare who p dst ⟨q, d⟩ = _)
theorem exec_drop (who p : Nat) : exec (.drop who p) ⟨q, d⟩ = .next ⟨q, d.livDropOp who p⟩ :=
  (State.upd_of_alive q ha rfl : execDrop who p ⟨q, d⟩ = _)

/-- The host frees as owner 0x11 (R320). -/
theorem exec_lvyFreeWrite (v : Word64) : exec (.lvyFreeWrite v) ⟨q, d⟩ = .next ⟨q, d.livFreeOp 0x11 v.toNat⟩ :=
  (State.upd_of_alive q ha rfl : execLvyFreeWrite v ⟨q, d⟩ = _)

/-- The three operations share their checks (R311). -/
theorem exec_eq_livOp {who p dst : Nat} {c : Instr} (hc : c ∈ [Instr.free who p, .share who p dst, .drop who p]) :
    ∃ f, exec c ⟨q, d⟩ = .next ⟨q, d.livOp who p f⟩ := by
  simp only [List.mem_cons, List.not_mem_nil, or_false] at hc
  rcases hc with rfl | rfl | rfl
  · exact ⟨_, exec_free q ha who p⟩
  · exact ⟨_, exec_share q ha who p dst⟩
  · exact ⟨_, exec_drop q ha who p⟩

end

/-- Settles O1: each operation is the branch of Table 09-2 that its premises pick. -/
theorem barrowOperations : Obligations.BarrowOperations := by
  unfold Obligations.BarrowOperations
  intro q d p i b ha hp hb
  have hfree : b.holders = 0 → d.livFreeOp b.owner p = ((d.setBarrow i none).bump Reg.LVY_CNT_FREE 1).livSettle := fun h0 => by
    rw [Dev.livFreeOp_of_used hp hb, if_neg (not_not.2 rfl), if_pos h0, Dev.livRelease]
  refine ⟨fun h0 => ?_, fun h0 => ?_, fun dst h15 hdst => ?_, fun who h1 hlast => ?_, fun who h1 hpend => ?_,
    fun v hv howner h0 => ?_⟩
  · rw [exec_free q ha, hfree h0]
  · rw [exec_free q ha, Dev.livFreeOp_of_used hp hb, if_neg (not_not.2 rfl), if_neg h0]
  · have hok : ¬ (b.owner ≠ b.owner ∨ 15 ≤ b.holders ∨ ¬ (dst = 0x01 ∨ 0x08 ≤ dst ∧ dst ≤ 0x11)) := by omega
    rw [exec_share q ha, Dev.livShareOp_of_used hp hb, if_neg hok]
  · rw [exec_drop q ha, Dev.livDropOp_of_used hp hb, if_neg (Nat.one_le_iff_ne_zero.1 h1), if_neg hlast]
  · rw [exec_drop q ha, Dev.livDropOp_of_used hp hb, if_neg (by omega), if_pos ⟨h1, hpend⟩, Dev.livRelease]
  · rw [exec_lvyFreeWrite q ha, hv, ← howner, hfree h0]

/-- Settles O2: each refusal is `Dev.livBad` with its code, its detail and its generation. -/
theorem barrowOperationRefused : Obligations.BarrowOperationRefused := by
  unfold Obligations.BarrowOperationRefused
  intro q d who p dst ha
  refine ⟨fun hp c hc => ?_, fun i hp hb c hc => ?_, fun i b c hp hb hc => ?_⟩
  · obtain ⟨f, hexec⟩ := exec_eq_livOp q ha hc
    rw [Dev.livOp_of_outside hp] at hexec
    exact ⟨_, hexec, d.livBad_spec 0x010 p 0⟩
  · obtain ⟨f, hexec⟩ := exec_eq_livOp q ha hc
    rw [Dev.livOp_of_free hp hb, Dev.livRefuse_of_free hb] at hexec
    exact ⟨_, hexec, d.livBad_spec 0x011 _ 0⟩
  · have hexec : exec c ⟨q, d⟩ = .next ⟨q, (d.livRefuse who i).livSettle⟩ := by
      rcases hc with ⟨rfl, hne⟩ | ⟨rfl, h0⟩ | ⟨rfl, hbad⟩
      · rw [exec_free q ha, Dev.livFreeOp_of_used hp hb, if_pos hne]
      · rw [exec_drop q ha, Dev.livDropOp_of_used hp hb, if_pos h0]
      · rw [exec_share q ha, Dev.livShareOp_of_used hp hb, if_pos hbad]
    rw [Dev.livRefuse_of_used hb] at hexec
    exact ⟨_, hexec, d.livBad_spec 0x011 _ _⟩

/-! ### ALLOC (R309, R312) -/

section
variable (q : List Instr) {d : Dev} (ha : d.alive = true)
include ha

section
variable {owner : Nat} (gen : Nat) (hunit : owner = 0x01 ∨ 0x08 ≤ owner ∧ owner ≤ 0x10)
  (hroom : ((d.liv.retq ++ d.liv.norq).filter fun r => r.owner == owner).length < 4)
include hunit hroom

theorem exec_alloc_eq (ret : Bool) : exec (.alloc owner ret gen) ⟨q, d⟩ = .next ⟨q, if ret
    then Dev.livSettle { d with liv := { d.liv with retq := d.liv.retq ++ [⟨owner, gen, !d.liv.retq.isEmpty⟩] } }
    else Dev.livSettle { d with liv := { d.liv with norq := d.liv.norq ++ [⟨owner, gen, !d.liv.norq.isEmpty⟩] } }⟩ := by
  have hok : ownerOk owner = true := ownerOk_iff.2 (by omega)
  have hhost : owner ≠ 0x11 := by omega
  refine (State.upd_of_alive q ha ?_ : execAlloc owner ret gen ⟨q, d⟩ = _)
  simp only [hok, hhost, Nat.not_le.2 hroom, decide_false, Bool.not_true, Bool.or_false, Bool.false_eq_true, ↓reduceIte]

theorem exec_alloc_return : exec (.alloc owner true gen) ⟨q, d⟩ = .next ⟨q,
    Dev.livSettle { d with liv := { d.liv with retq := d.liv.retq ++ [⟨owner, gen, !d.liv.retq.isEmpty⟩] } }⟩ :=
  exec_alloc_eq q ha gen hunit hroom true
theorem exec_alloc_normal : exec (.alloc owner false gen) ⟨q, d⟩ = .next ⟨q,
    Dev.livSettle { d with liv := { d.liv with norq := d.liv.norq ++ [⟨owner, gen, !d.liv.norq.isEmpty⟩] } }⟩ :=
  exec_alloc_eq q ha gen hunit hroom false

end

/-! ### The Livery's enable (R305) -/

/-- A valid window is taken, with every barrow of it free. -/
theorem exec_liveryEnable_valid (hen : d.livEn = false) (hwin : winOk (d.reg Reg.LVY_WIN) d.livReserve = true) :
    ∃ t, exec .liveryEnable ⟨q, d⟩ = .next ⟨q, t⟩ ∧ t.livEn = true ∧ t.liv.barrows = [] ∧ t.livCount = d.fld Reg.LVY_WIN 32 18
      ∧ t.fld Reg.LVY_LOWWM 0 18 = d.fld Reg.LVY_WIN 32 18 ∧ d.RegsBut t [Reg.LVY_CTL, Reg.LVY_LOWWM] := by
  have hregs : d.RegsBut { d with liv := { d.liv with barrows := [], win := d.reg Reg.LVY_WIN } } [Reg.LVY_CTL, Reg.LVY_LOWWM] :=
    (Dev.RegsBut.refl d _).of_regs rfl
  refine ⟨_, (State.upd_of_alive q ha ?_ : execLiveryEnable ⟨q, d⟩ = _), ?_, rfl, rfl, ?_,
    (hregs.setFlag (off := Reg.LVY_CTL) 0 true (by simp)).setFld (off := Reg.LVY_LOWWM) 0 18 (bits (d.reg Reg.LVY_WIN) 32 18)
      (by simp)⟩
  · simp only [hen, Bool.false_eq_true, hwin, ↓reduceIte]
  · exact (Dev.flag_setFld_ne _ _ _ _ _ (by decide)).trans (Dev.flag_setFlag_same _ _ true (by decide))
  · exact (Dev.fld_setFld_same _ _ _ (by decide)).trans (Nat.mod_eq_of_lt (bits_lt _ 32 18))

/-- An invalid window leaves the Livery disabled, and is recorded. -/
theorem exec_liveryEnable_invalid (hen : d.livEn = false) (hwin : winOk (d.reg Reg.LVY_WIN) d.livReserve = false) :
    ∃ t, exec .liveryEnable ⟨q, d⟩ = .next ⟨q, t⟩ ∧ t.livEn = false ∧ d.Recorded t clsMEM 0x013 0xFFFFFFFF 0 blkLVY 0 := by
  refine ⟨_, (State.upd_of_alive q ha ?_ : execLiveryEnable ⟨q, d⟩ = _), ?_, d.recorded_record ..⟩
  · simp only [hen, hwin, Bool.false_eq_true, ↓reduceIte]
  · exact (Dev.flag_congr (d.reg_record_lt _ _ _ _ _ _ (by decide)) 0).trans hen

/-- The records and the queues are kept when the Livery is disabled. -/
theorem exec_liveryDisable : ∃ t, exec .liveryDisable ⟨q, d⟩ = .next ⟨q, t⟩ ∧ t.livEn = false ∧ t.liv.barrows = d.liv.barrows
    ∧ SameRequests t.liv.retq d.liv.retq ∧ SameRequests t.liv.norq d.liv.norq ∧ d.RegsBut t [Reg.LVY_CTL] := by
  refine ⟨_, (State.upd_of_alive q ha rfl : execLiveryDisable ⟨q, d⟩ = _), ?_, Dev.livSettle_barrows _,
    Dev.sameRequests_livSettle_retq _, Dev.sameRequests_livSettle_norq _,
    ((Dev.RegsBut.refl d _).setFlag 0 false (by simp)).of_regs (Dev.livSettle_regs _)⟩
  exact (Dev.livEn_livSettle _).trans (Dev.flag_setFlag_same _ _ false (by decide))

end

/-! ### LVY_CFG (R305) -/

/-- A field whose bits are all RW takes the value that the host writes to its register (R15). -/
theorem bits_mergeWrite {r : RegRow} {lo w : Nat} (hrw : bits r.rw lo w = 2 ^ w - 1) (old v : Nat) :
    bits (mergeWrite r .host old v) lo w = bits v lo w := by
  refine Nat.eq_of_testBit_eq fun i => ?_
  have hmask := congrArg (Nat.testBit · i) hrw
  by_cases hi : i < w
  · have hset : r.rw.testBit (i + lo) = true := by simpa [bits, Nat.testBit_mod_two_pow, Nat.testBit_div_two_pow, hi] using hmask
    simp [bits, mergeWrite, Nat.testBit_mod_two_pow, Nat.testBit_div_two_pow, hset]
  · simp [bits, Nat.testBit_mod_two_pow, hi]

/-- The host writes a register of a block above GRD that has no GW field: where the bits merged hold no reserved encoding they
stand in it, and nothing else changes (R15, R18). -/
theorem Dev.regWrite_host {d : Dev} {off : Nat} {r : RegRow} {v : Nat} (hoff : 0x100000 ≤ off) (hrow : findRow off = some r)
    (hgw : r.gw = 0) (hok : regReserved d.express off (mergeWrite r .host (d.reg off) v) = false) :
    d.OnlyRegs (d.regWrite .host off v) [off]
      ∧ (d.regWrite .host off v).reg off = mergeWrite r .host (d.reg off) v % 2 ^ 64 := by
  have hold : d.gwShown off = d.reg off := if_neg (by omega)
  have hput (x : Nat) : d.putReg off x = d.setReg off x := by
    have hcnt : off ≠ Reg.GRD_FENCECNT := by unfold Reg.GRD_FENCECNT; omega
    simp [Dev.putReg, hcnt, Nat.not_lt.2 hoff]
  have heq : d.regWrite .host off v = if mergeWrite r .host (d.reg off) v = d.reg off then d
      else d.setReg off (mergeWrite r .host (d.reg off) v) := by
    simp [Dev.regWrite, hrow, hold, hok, hgw, hput]
  rw [heq]
  split
  · next hsame => exact ⟨.refl d _, by rw [hsame, Nat.mod_eq_of_lt (d.reg_lt off)]⟩
  · exact ⟨.setReg d _ _, d.reg_setReg_same _ _⟩

/-- In LVY_CFG only a DRYLIM of 0 is reserved (Table 09-5). -/
theorem regReserved_lvyCfg (express x : Nat) : regReserved express Reg.LVY_CFG x = (bits x 24 8 == 0) := rfl

section
variable (q : List Instr) {d : Dev} (ha : d.alive = true) (v : Word64)
include ha

/-- LVY_CFG takes a value whose DRYLIM is not reserved while the Livery is disabled. -/
theorem exec_liveryConfigWrite_cfg (hen : d.livEn = false) (hlim : bits v.toNat 24 8 ≠ 0) :
    ∃ t, exec (.liveryConfigWrite Reg.LVY_CFG v) ⟨q, d⟩ = .next ⟨q, t⟩ ∧ t.fld Reg.LVY_CFG 0 18 = bits v.toNat 0 18
      ∧ t.fld Reg.LVY_CFG 24 8 = bits v.toNat 24 8 ∧ d.OnlyRegs t [Reg.LVY_CFG] := by
  obtain ⟨r, hrow, hreserve, hdrylim, hgw⟩ : ∃ r, findRow Reg.LVY_CFG = some r ∧ bits r.rw 0 18 = 2 ^ 18 - 1
      ∧ bits r.rw 24 8 = 2 ^ 8 - 1 ∧ r.gw = 0 := ⟨_, rfl, by decide, by decide, rfl⟩
  have hok : regReserved d.express Reg.LVY_CFG (mergeWrite r .host (d.reg Reg.LVY_CFG) v.toNat) = false := by
    rw [regReserved_lvyCfg, bits_mergeWrite hdrylim]
    exact beq_false_of_ne hlim
  obtain ⟨honly, hreg⟩ := Dev.regWrite_host (by decide) hrow hgw hok
  refine ⟨_, (State.upd_of_alive q ha ?_ : execLiveryConfigWrite Reg.LVY_CFG v ⟨q, d⟩ = _), ?_, ?_, honly⟩
  · simp [hen]
  · unfold Dev.fld
    rw [hreg, bits_mod _ (by decide), bits_mergeWrite hreserve]
  · unfold Dev.fld
    rw [hreg, bits_mod _ (by decide), bits_mergeWrite hdrylim]

/-- A write of LVY_CFG is discarded and recorded while the Livery is enabled. -/
theorem exec_liveryConfigWrite_enabled (hen : d.livEn = true) :
    ∃ t, exec (.liveryConfigWrite Reg.LVY_CFG v) ⟨q, d⟩ = .next ⟨q, t⟩
      ∧ d.Recorded t clsMEM 0x013 (Reg.LVY_CFG % 2 ^ 20) 0 blkLVY 0 ∧ t.reg Reg.LVY_CFG = d.reg Reg.LVY_CFG := by
  refine ⟨_, (State.upd_of_alive q ha ?_ : execLiveryConfigWrite Reg.LVY_CFG v ⟨q, d⟩ = _),
    d.recorded_discard clsMEM 0x013 Reg.LVY_CFG 0, d.reg_record_lt _ _ _ _ _ _ (by decide)⟩
  simp [hen]

end

/-! ### The dry spell, the host's allocation and the low-water mark (R316, R320, R321) -/

section
variable (q : List Instr) {d : Dev} (ha : d.alive = true)
include ha

/-- A dry spell past its limit is recorded once. -/
theorem exec_liveryDryLimit (hdry : d.livDry = true) (hrec : d.liv.dryRec = false) :
    ∃ t, exec .liveryDryLimit ⟨q, d⟩ = .next ⟨q, t⟩ ∧ d.Recorded t clsMEM 0x012 d.livWaiting 0 blkLVY 0 ∧ t.liv.dryRec = true
      ∧ t.liv.retq = d.liv.retq ∧ t.liv.norq = d.liv.norq := by
  refine ⟨{ d.record clsMEM 0x012 d.livWaiting 0 blkLVY 0 with liv := { d.liv with dryRec := true } },
    (State.upd_of_alive q ha ?_ : execLiveryDryLimit ⟨q, d⟩ = _), (d.recorded_record ..).congr rfl rfl, rfl, rfl, rfl⟩
  simp only [hdry, hrec, Bool.not_false, Bool.and_true, ↓reduceIte, Dev.record_liv]

/-- The host takes the lowest free barrow where no normal request waits and more than RESERVE are free. -/
theorem exec_hostBarrowAlloc_takes (hen : d.livEn = true) (hq : d.liv.norq = []) (hfree : d.livReserve < d.livFree) :
    ∃ t, exec .hostBarrowAlloc ⟨q, d⟩ = .next ⟨q, t⟩ ∧ t.reg Reg.LVY_ALLOC = 0
      ∧ t.reg Reg.LVY_ALLOCPTR = d.barrowPtr d.livNext % 2 ^ 64 ∧ t.barrow d.livNext = some ⟨0x11, 0, false, 0⟩ := by
  refine ⟨_, (State.upd_of_alive q ha ?_ : execHostBarrowAlloc ⟨q, d⟩ = .next ⟨q,
    Dev.livSettle (((d.livTake 0x11 0).1.setReg Reg.LVY_ALLOCPTR (d.livTake 0x11 0).2).setReg Reg.LVY_ALLOC 0)⟩), ?_, ?_, ?_⟩
  · simp only [hen, hq, hfree, List.isEmpty_nil, decide_true, Bool.and_true, ↓reduceIte]
  · rw [Dev.reg_livSettle, Dev.reg_setReg_same]
    rfl
  · rw [Dev.reg_livSettle, Dev.reg_setReg_ne _ _ (by decide), Dev.reg_setReg_same, Dev.livTake_ptr]
  · rw [Dev.barrow_livSettle]
    unfold Dev.barrow
    rw [Dev.setReg_liv, Dev.setReg_liv, Dev.livTake_liv]
    exact Dev.barrow_setBarrow_same _ _ _

/-- The host is answered EMPTY where no more than RESERVE are free. -/
theorem exec_hostBarrowAlloc_empty (hfree : d.livFree ≤ d.livReserve) :
    exec .hostBarrowAlloc ⟨q, d⟩ = .next ⟨q, (d.setReg Reg.LVY_ALLOC 2).bump Reg.LVY_CNT_EMPTY 1⟩ := by
  refine (State.upd_of_alive q ha ?_ : execHostBarrowAlloc ⟨q, d⟩ = _)
  simp only [Nat.not_lt.2 hfree, decide_false, Bool.and_false, Bool.false_eq_true, ↓reduceIte]

theorem exec_lowwmClear : exec .lowwmClear ⟨q, d⟩ = .next ⟨q, d.setReg Reg.LVY_LOWWM d.livFree⟩ :=
  (State.upd_of_alive q ha rfl : execLowwmClear ⟨q, d⟩ = _)

end

/-- Settles O4: the requests, the enable, the registers and the host's allocation, each by what it does. -/
theorem liveryRequestsAndControl : Obligations.LiveryRequestsAndControl := by
  unfold Obligations.LiveryRequestsAndControl
  intro q d ha
  exact ⟨fun owner gen hunit hroom =>
      ⟨⟨_, exec_alloc_return q ha gen hunit hroom⟩, ⟨_, exec_alloc_normal q ha gen hunit hroom⟩⟩,
    exec_liveryEnable_valid q ha, exec_liveryEnable_invalid q ha, exec_liveryDisable q ha,
    fun v hen _ hlim => exec_liveryConfigWrite_cfg q ha v hen hlim, exec_liveryConfigWrite_enabled q ha,
    exec_liveryDryLimit q ha, exec_hostBarrowAlloc_takes q ha, exec_hostBarrowAlloc_empty q ha, exec_lowwmClear q ha⟩

end Sys2Proof.Machine
end

section
/-! Hitches (10_hitches.md): their fields read back after an update, and the relation between two devices that one Hitch is as it was,
with one rule per operation of the model. What goes on at one Hitch reaches another through the plane that they share alone (R343,
R359): carriages are given a new plane, and a retrain that waited comes next. -/
namespace Sys2Proof.Machine

-- The short theorems below are elaborated one after another: side by side, their threads' stacks exceed the memory of the check.
set_option Elab.async false

/-! ### The record of a Hitch -/

section
variable (s : Dev) (h : Nat)

theorem Dev.hitch_congr {s t : Dev} (e : t.hitches = s.hitches) (g : Nat) : t.hitch g = s.hitch g := by unfold Dev.hitch; rw [e]

@[simp] theorem Dev.hitch_setHitch_same (x : Hitch) : (s.setHitch h x).hitch h = x := by simp [Dev.hitch, Dev.setHitch]

theorem Dev.hitch_setHitch_ne {g h : Nat} (x : Hitch) (hne : g ≠ h) : (s.setHitch h x).hitch g = s.hitch g := by
  simp [Dev.hitch, Dev.setHitch, Sparse.get_put_ne _ _ _ hne]

@[simp] theorem Dev.hitch_setFld (off lo w v : Nat) : (s.setFld off lo w v).hitch h = s.hitch h := rfl
@[simp] theorem Dev.hitch_setFlag (off i : Nat) (b : Bool) : (s.setFlag off i b).hitch h = s.hitch h := rfl
@[simp] theorem Dev.hitch_bump (off n : Nat) : (s.bump off n).hitch h = s.hitch h := rfl
@[simp] theorem Dev.hitch_record (cls code detail gen block inst : Nat) :
    (s.record cls code detail gen block inst).hitch h = s.hitch h := Dev.hitch_congr (s.record_hitches ..) h
@[simp] theorem Dev.hitch_ungate (dm : Domain) : (s.ungate dm).hitch h = s.hitch h := Dev.hitch_congr (s.ungate_hitches dm) h

end

section
variable (s : Dev) (h : Nat) (x : Hitch) (g : Nat)

@[simp] theorem Dev.hState_setHitch : (s.setHitch h x).hState g = s.hState g := Dev.fld_congr (s.reg_setHitch h x _) _ _
@[simp] theorem Dev.hWidth_setHitch : (s.setHitch h x).hWidth g = s.hWidth g := Dev.fld_congr (s.reg_setHitch h x _) _ _
@[simp] theorem Dev.hPairs_setHitch : (s.setHitch h x).hPairs g = s.hPairs g := Dev.fld_congr (s.reg_setHitch h x _) _ _
@[simp] theorem Dev.hLfail_setHitch : (s.setHitch h x).hLfail g = s.hLfail g := Dev.fld_congr (s.reg_setHitch h x _) _ _

end

/-! ### Registers alone written -/

section
variable {s t : Dev} {ks : List Nat}

/-- What a device has and every step of a run keeps, it has after the run. -/
theorem Dev.each_keeps {α : Type} {P : Dev → Prop} {f : Dev → α → Dev} {l : List α} (h : P t) (hf : ∀ {u a}, P u → P (f u a)) :
    P (t.each l f) := by
  induction l generalizing t with
  | nil => exact h
  | cons a l ih => exact ih (hf h)

theorem Dev.OnlyRegs.write {off : Nat} (h : s.OnlyRegs t ks) (v : Nat) (hoff : off ∈ ks) : s.OnlyRegs (t.setReg off v) ks :=
  h.trans ⟨rfl, fun _ hk => Dev.reg_setReg_ne t v fun e => hk (e ▸ hoff)⟩

theorem Dev.OnlyRegs.each {α : Type} {f : Dev → α → Dev} {l : List α} (h : s.OnlyRegs t ks)
    (hf : ∀ {u a}, s.OnlyRegs u ks → s.OnlyRegs (f u a) ks) : s.OnlyRegs (t.each l f) ks :=
  Dev.each_keeps (P := fun u => s.OnlyRegs u ks) h hf

theorem Dev.OnlyRegs.hitch (h : s.OnlyRegs t ks) (g : Nat) : t.hitch g = s.hitch g := by rw [h.1]; rfl
theorem Dev.OnlyRegs.log (h : s.OnlyRegs t ks) : t.log = s.log := by rw [h.1]
theorem Dev.OnlyRegs.outs (h : s.OnlyRegs t ks) : t.outs = s.outs := by rw [h.1]
theorem Dev.OnlyRegs.stg (h : s.OnlyRegs t ks) : t.stg = s.stg := by rw [h.1]

end

/-! ### A state entered (Table 10-4) -/

/-- The registers that show the state of a Hitch. -/
def hitchShown (h : Nat) : List Nat := [Reg.HCH_PSTAT h, Reg.HCH_LSTAT h, Reg.HCH_UPMAP, Reg.HCH_HALFMAP]

theorem not_mem_hitchShown {h k : Nat} (hown : k ≠ Reg.HCH_PSTAT h ∧ k ≠ Reg.HCH_LSTAT h)
    (hmaps : k ≠ Reg.HCH_UPMAP ∧ k ≠ Reg.HCH_HALFMAP) : k ∉ hitchShown h := by
  simp [hitchShown, hown, hmaps]

section
variable (s : Dev) (h st pairs : Nat)

/-- The states of the lanes and the maps of Hitches follow HCH_PSTAT, which stays. -/
theorem Dev.onlyRegs_hShow : s.OnlyRegs (s.hShow h) [Reg.HCH_LSTAT h, Reg.HCH_UPMAP, Reg.HCH_HALFMAP] := by
  have hlanes : s.OnlyRegs (s.each (List.range 4) fun s l => s.setFld (Reg.HCH_LSTAT h) (8 * l) 3 (s.laneState h l))
      [Reg.HCH_LSTAT h, Reg.HCH_UPMAP, Reg.HCH_HALFMAP] := (Dev.OnlyRegs.refl s _).each fun h => h.write _ (by simp)
  exact (hlanes.write _ (by simp)).write _ (by simp)

theorem Dev.onlyRegs_hEnter : s.OnlyRegs (s.hEnter h st pairs) (hitchShown h) := by
  have hshow : ∀ {t : Dev}, s.OnlyRegs t (hitchShown h) → s.OnlyRegs (t.hShow h) (hitchShown h) := fun {t} ht => by
    obtain ⟨heq, hregs⟩ := t.onlyRegs_hShow h
    exact ht.trans ⟨heq, fun k hk => hregs k fun hmem => hk (List.mem_cons_of_mem _ hmem)⟩
  have hstate := (Dev.OnlyRegs.refl s (hitchShown h)).write (off := Reg.HCH_PSTAT h) (setBits (s.reg (Reg.HCH_PSTAT h)) 0 3 st)
    (by simp [hitchShown])
  unfold Dev.hEnter
  dsimp only
  refine hshow ?_
  split
  · exact (hstate.write _ (by simp [hitchShown])).write _ (by simp [hitchShown])
  · exact ((hstate.write _ (by simp [hitchShown])).write _ (by simp [hitchShown])).write _ (by simp [hitchShown])

@[simp] theorem Dev.hitch_hEnter (g : Nat) : (s.hEnter h st pairs).hitch g = s.hitch g := (s.onlyRegs_hEnter h st pairs).hitch g
@[simp] theorem Dev.hEnter_log : (s.hEnter h st pairs).log = s.log := (s.onlyRegs_hEnter h st pairs).log
@[simp] theorem Dev.hEnter_outs : (s.hEnter h st pairs).outs = s.outs := (s.onlyRegs_hEnter h st pairs).outs
@[simp] theorem Dev.hEnter_stg : (s.hEnter h st pairs).stg = s.stg := (s.onlyRegs_hEnter h st pairs).stg

theorem Dev.reg_hEnter {k : Nat} (hk : k ∉ hitchShown h) : (s.hEnter h st pairs).reg k = s.reg k :=
  (s.onlyRegs_hEnter h st pairs).2 k hk

/-- HCH_PSTAT once the state, the pairs and the width are written, before RATE is cleared where the Hitch is not up. -/
theorem Dev.fld_pstat_hEnter {lo w : Nat} (hlow : lo + w ≤ 8 ∨ 16 ≤ lo ∧ lo + w ≤ 64) :
    (s.hEnter h st pairs).fld (Reg.HCH_PSTAT h) lo w
      = (((s.setFld (Reg.HCH_PSTAT h) 0 3 st).setFld (Reg.HCH_PSTAT h) 6 2 pairs).setFld (Reg.HCH_PSTAT h) 3 3
          (pairsWidth pairs)).fld (Reg.HCH_PSTAT h) lo w := by
  have hpstat : Reg.HCH_PSTAT h ∉ [Reg.HCH_LSTAT h, Reg.HCH_UPMAP, Reg.HCH_HALFMAP] := by
    simp only [List.mem_cons, List.not_mem_nil, or_false]
    unfold Reg.HCH_PSTAT Reg.HCH_LSTAT Reg.HCH_UPMAP Reg.HCH_HALFMAP
    omega
  have hshow : ∀ t : Dev, (t.hShow h).fld (Reg.HCH_PSTAT h) lo w = t.fld (Reg.HCH_PSTAT h) lo w := fun t =>
    Dev.fld_congr ((t.onlyRegs_hShow h).2 _ hpstat) _ _
  unfold Dev.hEnter
  dsimp only
  rw [hshow]
  split
  · rfl
  · obtain hlow | ⟨hlo, hhi⟩ := hlow
    · exact Dev.fld_setFld_below _ _ _ hlow (by omega)
    · exact Dev.fld_setFld_above _ _ _ hlo hhi

theorem pairsWidth_lt : pairsWidth pairs < 2 ^ 3 := by unfold pairsWidth; split <;> split <;> decide

theorem Dev.hState_hEnter : (s.hEnter h st pairs).hState h = st % 2 ^ 3 := by
  unfold Dev.hState
  rw [Dev.fld_pstat_hEnter _ _ _ _ (by omega), Dev.fld_setFld_below _ _ _ (by omega) (by omega),
    Dev.fld_setFld_below _ _ _ (by omega) (by omega), Dev.fld_setFld_same _ _ _ (by omega)]

theorem Dev.hWidth_hEnter : (s.hEnter h st pairs).hWidth h = pairsWidth pairs := by
  unfold Dev.hWidth
  rw [Dev.fld_pstat_hEnter _ _ _ _ (by omega), Dev.fld_setFld_same _ _ _ (by omega), Nat.mod_eq_of_lt (pairsWidth_lt pairs)]

theorem Dev.hPairs_hEnter : (s.hEnter h st pairs).hPairs h = pairs % 2 ^ 2 := by
  unfold Dev.hPairs
  rw [Dev.fld_pstat_hEnter _ _ _ _ (by omega), Dev.fld_setFld_above _ _ _ (by omega) (by omega),
    Dev.fld_setFld_same _ _ _ (by omega)]

@[simp] theorem Dev.hLfail_hEnter : (s.hEnter h st pairs).hLfail h = s.hLfail h := by
  unfold Dev.hLfail
  rw [Dev.fld_pstat_hEnter _ _ _ _ (by omega), Dev.fld_setFld_above _ _ _ (by omega) (by omega),
    Dev.fld_setFld_above _ _ _ (by omega) (by omega), Dev.fld_setFld_above _ _ _ (by omega) (by omega)]

end

/-! ### One Hitch left alone -/

/-- A register of Hitch g alone (HCH_PCTL to HCH_CNT_HALFUS). -/
def HitchReg (g k : Nat) : Prop := g < 32 ∧ 0xa01000 + 0x100 * g ≤ k ∧ k < 0xa01100 + 0x100 * g

/-- `t` has of Hitch g what `s` has: its record and its registers. -/
structure Dev.LeavesHitch (g : Nat) (s t : Dev) : Prop where
  hitch : t.hitch g = s.hitch g
  reg : ∀ k, HitchReg g k → t.reg k = s.reg k

theorem not_hitchReg_of_out {g k : Nat} (h : k < 0xa01000 ∨ 0xa03000 ≤ k) : ¬ HitchReg g k := by unfold HitchReg; omega

theorem not_hitchReg_of_ne {g h k : Nat} (hne : g ≠ h) (hk : 0xa01000 + 0x100 * h ≤ k ∧ k < 0xa01100 + 0x100 * h) :
    ¬ HitchReg g k := by
  unfold HitchReg
  rintro ⟨-, hlo, hhi⟩
  exact hne (by omega)

theorem hitchReg_pstat {g : Nat} (hg : g < 32) : HitchReg g (Reg.HCH_PSTAT g) := by
  unfold HitchReg Reg.HCH_PSTAT
  omega

/-- A line in the Coach House window is not of HBM (Table 08-1). -/
theorem keyHome_chAddr {a n : Nat} (h : inCH a n = true) : keyHome (chAddr a) = 5 := by
  have hdiv : chAddr a / 2 ^ 60 = 1 := by
    simp only [inCH, Bool.and_eq_true, decide_eq_true_eq] at h
    unfold chAddr chKey keyTier
    unfold chBase chSize at *
    omega
  unfold keyHome
  rw [hdiv]
  rfl

namespace Dev.LeavesHitch
variable {g h : Nat} {s t u : Dev}

theorem refl (s : Dev) : s.LeavesHitch g s := ⟨rfl, fun _ _ => rfl⟩

theorem trans (h : s.LeavesHitch g t) (h' : t.LeavesHitch g u) : s.LeavesHitch g u :=
  ⟨h'.hitch.trans h.hitch, fun k hk => (h'.reg k hk).trans (h.reg k hk)⟩

theorem hState (h : s.LeavesHitch g t) (hg : g < 32) : t.hState g = s.hState g := Dev.fld_congr (h.reg _ (hitchReg_pstat hg)) _ _
theorem hWidth (h : s.LeavesHitch g t) (hg : g < 32) : t.hWidth g = s.hWidth g := Dev.fld_congr (h.reg _ (hitchReg_pstat hg)) _ _
theorem hPairs (h : s.LeavesHitch g t) (hg : g < 32) : t.hPairs g = s.hPairs g := Dev.fld_congr (h.reg _ (hitchReg_pstat hg)) _ _
theorem hLfail (h : s.LeavesHitch g t) (hg : g < 32) : t.hLfail g = s.hLfail g := Dev.fld_congr (h.reg _ (hitchReg_pstat hg)) _ _

/-- What touches neither the records of the Hitches nor a register. -/
theorem frame (h : s.LeavesHitch g t) (e : u.hitches = t.hitches ∧ u.regs = t.regs := by exact ⟨rfl, rfl⟩) :
    s.LeavesHitch g u :=
  h.trans ⟨Dev.hitch_congr e.1 g, fun k _ => Dev.reg_congr e.2 k⟩

theorem each {α : Type} {f : Dev → α → Dev} {l : List α} (h : s.LeavesHitch g t)
    (hf : ∀ {u a}, s.LeavesHitch g u → s.LeavesHitch g (f u a)) : s.LeavesHitch g (t.each l f) :=
  Dev.each_keeps (P := fun u => s.LeavesHitch g u) h hf

theorem ite {c : Prop} [Decidable c] (ht : s.LeavesHitch g t) (hu : s.LeavesHitch g u) : s.LeavesHitch g (if c then t else u) := by
  split
  · exact ht
  · exact hu

/-! Registers, errors, the records of Hitches -/

theorem setReg_of_not_own {off v : Nat} (h : s.LeavesHitch g t) (hoff : ¬ HitchReg g off) : s.LeavesHitch g (t.setReg off v) :=
  h.trans ⟨rfl, fun _ hk => Dev.reg_setReg_ne t v fun e => hoff (e ▸ hk)⟩

theorem setReg {off v : Nat} (h : s.LeavesHitch g t) (hoff : off < 0xa01000 ∨ 0xa03000 ≤ off := by decide) :
    s.LeavesHitch g (t.setReg off v) := h.setReg_of_not_own (not_hitchReg_of_out hoff)
theorem setFld {off lo w v : Nat} (h : s.LeavesHitch g t) (hoff : off < 0xa01000 ∨ 0xa03000 ≤ off := by decide) :
    s.LeavesHitch g (t.setFld off lo w v) := h.setReg hoff
theorem setFlag {off i : Nat} {b : Bool} (h : s.LeavesHitch g t) (hoff : off < 0xa01000 ∨ 0xa03000 ≤ off := by decide) :
    s.LeavesHitch g (t.setFlag off i b) := h.setReg hoff
theorem bump {off n : Nat} (h : s.LeavesHitch g t) (hoff : off < 0xa01000 ∨ 0xa03000 ≤ off := by decide) :
    s.LeavesHitch g (t.bump off n) := h.setReg hoff

theorem onlyRegs {ks : List Nat} (h : s.LeavesHitch g t) (e : t.OnlyRegs u ks) (hks : ∀ k ∈ ks, ¬ HitchReg g k) :
    s.LeavesHitch g u :=
  h.trans ⟨e.hitch g, fun k hk => e.2 k fun hmem => hks k hmem hk⟩

theorem record {cls code detail gen block inst : Nat} (h : s.LeavesHitch g t) :
    s.LeavesHitch g (t.record cls code detail gen block inst) :=
  h.trans ⟨Dev.hitch_record .., fun k hk => Dev.reg_record_lt t _ _ _ _ _ _ (by unfold HitchReg at hk; omega)⟩

theorem ungate {dm : Domain} (h : s.LeavesHitch g t) : s.LeavesHitch g (t.ungate dm) :=
  Dev.LeavesHitch.ite (frame (t := t.bump Reg.PWC_CNT_PGWAKE 1) h.bump) h

theorem setHitch {x : Hitch} (hs : s.LeavesHitch g t) (hne : g ≠ h) : s.LeavesHitch g (t.setHitch h x) :=
  hs.trans ⟨Dev.hitch_setHitch_ne t x hne, fun _ _ => rfl⟩

/-! The Staging switch and the memory that it reads -/

/-- A line of the Coach House, which is not HBM, is read by the plane selector (R355, R593). -/
theorem lineRead {a k : Nat} (h : s.LeavesHitch g t) (hhome : keyHome k ≠ 1) : s.LeavesHitch g (t.lineRead false 0 a k).1 := by
  have hout : (keyHome k == 1) = false := by simpa using hhome
  unfold Dev.lineRead
  simp only [hout, Bool.false_eq_true, ↓reduceIte]
  split
  · exact h
  · exact h.frame.bump
  · exact h.frame.setReg.bump.record
  · exact h.bump.setReg

theorem snooped {a n : Nat} (h : s.LeavesHitch g t) : s.LeavesHitch g (t.snooped false a n) := by
  have hsend : ∀ ls, s.LeavesHitch g (t.snoopSend ls) := fun ls =>
    frame (t := t.each ls fun s l => (s.emit (.bisnp l)).bump Reg.HST_CNT_BISNP 1)
      (h.each fun {u l} h => bump (t := u.emit (.bisnp l)) h.frame)
  unfold Dev.snooped
  split
  · exact h
  · split
    next heq =>
      obtain rfl := congrArg Prod.fst heq
      split
      · exact hsend _
      · exact (hsend _).frame

theorem reachRead {dst : Nat} (h : s.LeavesHitch g t) : s.LeavesHitch g (t.reachRead dst) := by
  unfold Dev.reachRead
  dsimp only
  split
  next hread =>
    have hin := (Bool.and_eq_true_iff.1 hread).2
    exact (h.lineRead (by rw [keyHome_chAddr hin]; decide)).snooped
  · exact h

theorem selPlane {sel vc dst : Nat} {relay : Bool} {bar : Option Nat} (h : s.LeavesHitch g t) :
    s.LeavesHitch g (t.selPlane sel vc dst relay bar).1 := by
  have hset : ∀ {t : Dev} {p : Nat} {x : Int}, s.LeavesHitch g t → s.LeavesHitch g (t.setAcc sel p x) := fun h => h.frame
  unfold Dev.selPlane
  dsimp only
  split
  · exact h
  · exact hset (h.each hset)

theorem planeReport {c : Carriage} {q : Nat} (h : s.LeavesHitch g t) : s.LeavesHitch g (t.planeReport c q) := by
  unfold Dev.planeReport
  dsimp only
  exact h.frame.ite ((h.frame.ite h.frame).ite (h.ite h.frame))

theorem stgSettle (h : s.LeavesHitch g t) : s.LeavesHitch g t.stgSettle := by
  unfold Dev.stgSettle
  dsimp only
  exact (h.setFld.setFld.ite h.setFld).setFld

theorem stgEnter {x : Staged} (h : s.LeavesHitch g t) : s.LeavesHitch g (t.stgEnter x) := h.frame.stgSettle
theorem stgLeave {x : Staged} (h : s.LeavesHitch g t) : s.LeavesHitch g (t.stgLeave x) := h.frame.stgSettle

theorem noteCrc {ep : Nat} {c : Carriage} (h : s.LeavesHitch g t) : s.LeavesHitch g (t.noteCrc ep c) :=
  frame (t := (t.bump Reg.STG_CNT_CRC 1).once t.stg.onceCrc 0x010 (ep + c.src * 2 ^ 16) ep) (h.bump.ite h.bump.record)

theorem rePlane {x : Staged} (h : s.LeavesHitch g t) : s.LeavesHitch g (t.rePlane x) := by
  have hsel := h.reachRead (dst := x.car.dst) |>.selPlane (sel := x.sel) (vc := x.car.vc) (dst := x.car.dst)
    (relay := x.arr.isSome) (bar := x.arr)
  unfold Dev.rePlane
  dsimp only
  split
  · exact h.reachRead.frame
  · exact hsel.frame.ite hsel.frame.bump.planeReport

theorem replane {p : Nat} (h : s.LeavesHitch g t) : s.LeavesHitch g (t.replane p) :=
  h.ite (h.frame.each fun h => (h.noteCrc.stgLeave).ite h.rePlane)

theorem unstart {h : Nat} {x : TxCar} (ht : s.LeavesHitch g t) : s.LeavesHitch g (t.unstart h x) := by
  have hcredit : ∀ {t : Dev} {y : Int}, s.LeavesHitch g t → s.LeavesHitch g (t.setCredit h x.x.car.tc y) := fun h =>
    h.setReg (.inr (by unfold Reg.TPK_CREDIT; omega))
  unfold Dev.unstart
  dsimp only
  exact ((hcredit (ht.frame.ite ht)).ite (ht.frame.ite ht)).stgEnter

/-! Another Hitch -/

section
variable (hne : g ≠ h)
include hne

theorem hEnter {st pairs : Nat} (hs : s.LeavesHitch g t) : s.LeavesHitch g (t.hEnter h st pairs) :=
  hs.onlyRegs (t.onlyRegs_hEnter h st pairs) fun k hk => by
    simp only [hitchShown, List.mem_cons, List.not_mem_nil, or_false] at hk
    obtain rfl | rfl | rfl | rfl := hk
    · exact not_hitchReg_of_ne hne (by unfold Reg.HCH_PSTAT; omega)
    · exact not_hitchReg_of_ne hne (by unfold Reg.HCH_LSTAT; omega)
    · exact not_hitchReg_of_out (by decide)
    · exact not_hitchReg_of_out (by decide)

theorem retrainEnd (hs : s.LeavesHitch g t) : s.LeavesHitch g (t.retrainEnd h) := hs.setFlag.setHitch hne

theorem mgmtAsk {msg pairs : Nat} (hs : s.LeavesHitch g t) : s.LeavesHitch g (t.mgmtAsk h msg pairs) :=
  (hs.setHitch hne).setHitch hne

theorem hTrain (hs : s.LeavesHitch g t) : s.LeavesHitch g (t.hTrain h) :=
  (((hs.ungate.setReg_of_not_own (not_hitchReg_of_ne hne (by unfold Reg.HCH_PSTAT; omega))).setHitch hne).hEnter hne).mgmtAsk hne

theorem quietSettle (hs : s.LeavesHitch g t) : s.LeavesHitch g (t.quietSettle h) := by
  unfold Dev.quietSettle
  split
  · dsimp only
    exact ((((hs.each fun h => h.unstart).setHitch hne).hEnter hne).replane).ite hs
  · exact hs

theorem retrainStart (hs : s.LeavesHitch g t) : s.LeavesHitch g (t.retrainStart h) := by
  unfold Dev.retrainStart
  dsimp only
  refine ite (mgmtAsk hne (setHitch ?_ hne)) (quietSettle hne (setHitch ?_ hne)) <;>
    exact (hs.setFlag.setFlag.setHitch hne).hEnter hne

theorem retrainTry (hs : s.LeavesHitch g t) : s.LeavesHitch g (t.retrainTry h) := by
  unfold Dev.retrainTry
  dsimp only
  exact (hs.setHitch hne).ite ((hs.setHitch hne).ite (((hs.bump.record.retrainStart hne).ite
    (hs.setFlag.bump.setHitch hne)).ite (hs.retrainStart hne)))

theorem hDrop (hs : s.LeavesHitch g t) : s.LeavesHitch g (t.hDrop h) := by
  unfold Dev.hDrop Dev.retrainEnd
  dsimp only
  have hcount : s.LeavesHitch g (t.bump (Reg.HCH_CNT_LOSTFR h) (t.hitch h).stored.length) :=
    hs.setReg_of_not_own (not_hitchReg_of_ne hne (by unfold Reg.HCH_CNT_LOSTFR; omega))
  exact ((hcount.setHitch hne).setFlag.setHitch hne).setFlag.each fun h => h.unstart

end

/-- A retrain that comes next is that of a Hitch that waited for it. -/
theorem retrainNext {p : Nat} (hs : s.LeavesHitch g t) (hwait : t.retrainWaits g = false) : s.LeavesHitch g (t.retrainNext p) := by
  unfold Dev.retrainNext
  refine hs.ite ?_
  split
  next h hfind =>
    have hne : g ≠ h := fun e => by
      rw [e, List.find?_some hfind] at hwait
      exact absurd hwait (by decide)
    exact hs.retrainTry hne
  · exact hs

end Dev.LeavesHitch

end Sys2Proof.Machine
end

section
/-! The statement about links that go down (10_hitches.md, R337, R338): what the Hitch itself is left with, what its training starts
from, and the record that is made where nothing waits behind it. -/
namespace Sys2Proof.Machine

set_option Elab.async false

/-! ### Management messages and training -/

section
variable (s : Dev) (h : Nat)

theorem Dev.hitch_mgmtPut (msg pairs : Nat) : (s.mgmtPut h msg pairs).hitch h
    = { s.hitch h with mgmtOut := (s.hitch h).mgmtOut ++ [(msg, s.mgmtOf h pairs)] } := Dev.hitch_setHitch_same _ _ _

/-- A message asked for is sent, and waits for its answer (R327). -/
theorem Dev.hitch_mgmtAsk (msg pairs : Nat) : (s.mgmtAsk h msg pairs).hitch h = { s.hitch h with
    mgmtOut := (s.hitch h).mgmtOut ++ [(msg, s.mgmtOf h pairs)], mgmtWait := some (msg, s.mgmtOf h pairs) } := by
  unfold Dev.mgmtAsk
  rw [Dev.hitch_setHitch_same, Dev.hitch_mgmtPut]
  rfl

@[simp] theorem Dev.reg_mgmtAsk (msg pairs k : Nat) : (s.mgmtAsk h msg pairs).reg k = s.reg k := rfl
@[simp] theorem Dev.hState_mgmtAsk (msg pairs g : Nat) : (s.mgmtAsk h msg pairs).hState g = s.hState g :=
  Dev.fld_congr (s.reg_mgmtAsk h msg pairs _) _ _
@[simp] theorem Dev.hWidth_mgmtAsk (msg pairs g : Nat) : (s.mgmtAsk h msg pairs).hWidth g = s.hWidth g :=
  Dev.fld_congr (s.reg_mgmtAsk h msg pairs _) _ _
@[simp] theorem Dev.mgmtAsk_log (msg pairs : Nat) : (s.mgmtAsk h msg pairs).log = s.log := rfl
@[simp] theorem Dev.mgmtAsk_stg (msg pairs : Nat) : (s.mgmtAsk h msg pairs).stg = s.stg := rfl

theorem Dev.reg_ungate (dm : Domain) {k : Nat} (hwake : k ≠ Reg.PWC_CNT_PGWAKE) : (s.ungate dm).reg k = s.reg k := by
  unfold Dev.ungate
  split
  · exact Dev.reg_bump_ne _ _ hwake
  · rfl

/-- A Hitch at the start of its training, before the state is shown and TS is sent (R336). -/
def Dev.trainReady (s : Dev) (h : Nat) : Dev :=
  let t := (s.ungate (.hitchPair (h / 2))).setFld (Reg.HCH_PSTAT h) 16 4 0
  t.setHitch h { t.hitch h with partner := none, reachAnd := 3, missAnd := 15, mgmtOut := [], mgmtWait := none }

theorem Dev.hTrain_eq : s.hTrain h = ((s.trainReady h).hEnter h hsTRAINING 0).mgmtAsk h mTS 0 := rfl

theorem Dev.hitch_trainReady : (s.trainReady h).hitch h
    = { s.hitch h with partner := none, reachAnd := 3, missAnd := 15, mgmtOut := [], mgmtWait := none } := by
  unfold Dev.trainReady
  rw [Dev.hitch_setHitch_same, Dev.hitch_setFld, Dev.hitch_ungate]

@[simp] theorem Dev.trainReady_log : (s.trainReady h).log = s.log := by
  unfold Dev.trainReady
  rw [Dev.setHitch_log, Dev.setFld_log, Dev.ungate_log]
@[simp] theorem Dev.trainReady_stg : (s.trainReady h).stg = s.stg := by
  unfold Dev.trainReady
  rw [Dev.setHitch_stg, Dev.setFld_stg, Dev.ungate_stg]

theorem Dev.reg_trainReady {k : Nat} (hpstat : k ≠ Reg.HCH_PSTAT h) (hwake : k ≠ Reg.PWC_CNT_PGWAKE) :
    (s.trainReady h).reg k = s.reg k := by
  unfold Dev.trainReady
  rw [Dev.reg_setHitch, Dev.reg_setFld_ne _ _ _ _ hpstat, Dev.reg_ungate _ _ hwake]

/-- Training goes on with the partner unheard and TS under way; the rest of the record stays. -/
theorem Dev.hitch_hTrain : ∃ m, (s.hTrain h).hitch h = { s.hitch h with
    partner := none, reachAnd := 3, missAnd := 15, mgmtOut := [(mTS, m)], mgmtWait := some (mTS, m) } := by
  refine ⟨((s.trainReady h).hEnter h hsTRAINING 0).mgmtOf h 0, ?_⟩
  rw [Dev.hTrain_eq, Dev.hitch_mgmtAsk, Dev.hitch_hEnter, Dev.hitch_trainReady]
  rfl

theorem Dev.hState_hTrain : (s.hTrain h).hState h = hsTRAINING := by
  rw [Dev.hTrain_eq, Dev.hState_mgmtAsk, Dev.hState_hEnter]
  exact Nat.mod_eq_of_lt (by decide)

theorem Dev.hWidth_hTrain : (s.hTrain h).hWidth h = 0 := by
  rw [Dev.hTrain_eq, Dev.hWidth_mgmtAsk, Dev.hWidth_hEnter]
  decide

theorem Dev.reg_hTrain {k : Nat} (hshown : k ∉ hitchShown h) (hwake : k ≠ Reg.PWC_CNT_PGWAKE) : (s.hTrain h).reg k = s.reg k := by
  rw [Dev.hTrain_eq, Dev.reg_mgmtAsk, Dev.reg_hEnter _ _ _ _ hshown,
    Dev.reg_trainReady _ _ (fun e => hshown (by simp [hitchShown, e])) hwake]

@[simp] theorem Dev.hTrain_stg : (s.hTrain h).stg = s.stg := by
  rw [Dev.hTrain_eq, Dev.mgmtAsk_stg, Dev.hEnter_stg, Dev.trainReady_stg]

/-! ### What a Hitch loses (R338) -/

/-- The record of a Hitch whose link has gone down. -/
def Hitch.dropped (x : Hitch) : Hitch := { x with
  stored := [], replay := [], txCars := [], rxPart := [], xoffIn := 0, rxExp := 0, rxLast := 0, txSeq := 0, rxBad := false,
  retries := 0, wantRetry := false, mgmtOut := [], mgmtWait := none, deferred := 0, due := false, rxPairs := 0, retrain := .none }

/-- The device once the Hitch has lost what it held, before the carriages not begun go back to their queues. -/
def Dev.linkLost (s : Dev) (h : Nat) : Dev :=
  (((s.bump (Reg.HCH_CNT_LOSTFR h) (s.hitch h).stored.length).setHitch h { (s.hitch h).dropped with
    retrain := (s.hitch h).retrain }).retrainEnd h).setFlag Reg.WHL_HDEFER h false

theorem Dev.hitch_retrainEnd : (s.retrainEnd h).hitch h = { s.hitch h with retrain := .none } := Dev.hitch_setHitch_same _ _ _

theorem Dev.reg_retrainEnd {k : Nat} (hbusy : k ≠ Reg.WHL_HBUSY) : (s.retrainEnd h).reg k = s.reg k :=
  (Dev.reg_setHitch ..).trans (Dev.reg_setFlag_ne _ _ _ hbusy)

theorem Dev.reg_linkLost {k : Nat} (hbusy : k ≠ Reg.WHL_HBUSY) (hdefer : k ≠ Reg.WHL_HDEFER) :
    (s.linkLost h).reg k = (s.bump (Reg.HCH_CNT_LOSTFR h) (s.hitch h).stored.length).reg k := by
  unfold Dev.linkLost
  rw [Dev.reg_setFlag_ne _ _ _ hdefer, Dev.reg_retrainEnd _ _ hbusy, Dev.reg_setHitch]

@[simp] theorem Dev.linkLost_stg : (s.linkLost h).stg = s.stg := rfl

theorem Dev.hDrop_eq : s.hDrop h
    = (s.linkLost h).each ((s.hitch h).txCars.filter fun t => !t.begun) fun s t => s.unstart h t := rfl

theorem Dev.hDrop_of_txCars_nil (hcars : (s.hitch h).txCars = []) : s.hDrop h = s.linkLost h := by
  rw [Dev.hDrop_eq, hcars]
  rfl

theorem Dev.leavesHitch_unstarts (g : Nat) : (s.linkLost h).LeavesHitch g (s.hDrop h) :=
  (Dev.LeavesHitch.refl _).each fun h => h.unstart

theorem Dev.hitch_hDrop : (s.hDrop h).hitch h = (s.hitch h).dropped := by
  rw [(Dev.leavesHitch_unstarts s h h).hitch]
  unfold Dev.linkLost
  rw [Dev.hitch_setFlag, Dev.hitch_retrainEnd, Dev.hitch_setHitch_same]
  rfl

section
variable {h} (hh : h < 32)
include hh

/-- Of its registers it changes the counter of lost frames alone. -/
theorem Dev.reg_hDrop {k : Nat} (hk : HitchReg h k) (hne : k ≠ Reg.HCH_CNT_LOSTFR h) : (s.hDrop h).reg k = s.reg k := by
  have hk' := hk
  unfold HitchReg at hk
  rw [(Dev.leavesHitch_unstarts s h h).reg k hk', Dev.reg_linkLost _ _ (by unfold Reg.WHL_HBUSY; omega)
    (by unfold Reg.WHL_HDEFER; omega), Dev.reg_bump_ne _ _ hne]

theorem Dev.reg_lostfr_hDrop : (s.hDrop h).reg (Reg.HCH_CNT_LOSTFR h)
    = (s.reg (Reg.HCH_CNT_LOSTFR h) + (s.hitch h).stored.length) % 2 ^ 64 := by
  rw [(Dev.leavesHitch_unstarts s h h).reg _ (by unfold HitchReg Reg.HCH_CNT_LOSTFR; omega),
    Dev.reg_linkLost _ _ (by unfold Reg.HCH_CNT_LOSTFR Reg.WHL_HBUSY; omega)
      (by unfold Reg.HCH_CNT_LOSTFR Reg.WHL_HDEFER; omega), Dev.reg_bump_same]

end
end

/-! ### Where nothing waits for a plane -/

section
variable {s t : Dev} {h : Nat}

theorem Dev.noRetrainWaits_iff (s : Dev) :
    s.noRetrainWaits = true ↔ ∀ g, g < 32 → (s.hitch g).due = false ∧ (s.hitch g).yielded = false := by
  simp [Dev.noRetrainWaits]

theorem Dev.retrainNext_of_noRetrainWaits {p : Nat} (hp : p < 8) (hs : s.noRetrainWaits = true) : s.retrainNext p = s := by
  have hnone : (planeHitches p).find? s.retrainWaits = none := by
    refine List.find?_eq_none.2 fun g hg => ?_
    obtain ⟨i, hi, rfl⟩ := List.mem_map.1 hg
    obtain ⟨hdue, hyield⟩ := s.noRetrainWaits_iff.1 hs (4 * p + i) (by have := List.mem_range.1 hi; omega)
    simp [Dev.retrainWaits, hdue, hyield]
  unfold Dev.retrainNext
  rw [hnone]
  exact ite_self _

/-- A change at one Hitch, with no retrain left waiting there, leaves none waiting. -/
theorem Dev.noRetrainWaits_of_leaves (hs : s.noRetrainWaits = true) (hother : ∀ g, g ≠ h → s.LeavesHitch g t)
    (hdue : (t.hitch h).due = false) (hyield : (t.hitch h).yielded = false) : t.noRetrainWaits = true := by
  refine t.noRetrainWaits_iff.2 fun g hg => ?_
  by_cases hgh : g = h
  · exact hgh ▸ ⟨hdue, hyield⟩
  · rw [(hother g hgh).hitch]
    exact s.noRetrainWaits_iff.1 hs g hg

/-- With no carriage queued, none needs a new plane (R359). -/
theorem Dev.replane_of_queue_nil (p : Nat) (hqueue : s.stg.queue = []) :
    (s.replane p).log = s.log ∧ (s.replane p).regs = s.regs := by
  unfold Dev.replane
  rw [hqueue]
  split <;> exact ⟨rfl, rfl⟩

variable {cls code detail gen block inst : Nat}

/-- Registers of other blocks than the log's written after a record leave it made. -/
theorem Dev.Recorded.onlyRegs {u : Dev} {ks : List Nat} (hr : s.Recorded t cls code detail gen block inst) (e : t.OnlyRegs u ks)
    (hks : ∀ k ∈ ks, k < 0x1000000) : s.Recorded u cls code detail gen block inst :=
  hr.congr e.log (e.2 _ fun hmem => absurd (hks _ hmem) (by unfold Reg.ERR_CNT; omega))

theorem Dev.Recorded.hEnter {st pairs : Nat} (hh : h < 32) (hr : s.Recorded t cls code detail gen block inst) :
    s.Recorded (t.hEnter h st pairs) cls code detail gen block inst :=
  hr.onlyRegs (t.onlyRegs_hEnter h st pairs) fun k hk => by
    simp only [hitchShown, List.mem_cons, List.not_mem_nil, or_false] at hk
    unfold Reg.HCH_PSTAT Reg.HCH_LSTAT Reg.HCH_UPMAP Reg.HCH_HALFMAP at hk
    omega

theorem Dev.Recorded.linkLost (hh : h < 32) (hr : s.Recorded t cls code detail gen block inst) :
    s.Recorded (t.linkLost h) cls code detail gen block inst := by
  refine hr.congr rfl ?_
  rw [Dev.reg_linkLost _ _ (by unfold Reg.ERR_CNT Reg.WHL_HBUSY; omega) (by unfold Reg.ERR_CNT Reg.WHL_HDEFER; omega),
    Dev.reg_bump_ne _ _ (by unfold Reg.ERR_CNT Reg.HCH_CNT_LOSTFR; omega)]

theorem Dev.Recorded.hTrain (hh : h < 32) (hr : s.Recorded t cls code detail gen block inst) :
    s.Recorded (t.hTrain h) cls code detail gen block inst := by
  have hready : s.Recorded (t.trainReady h) cls code detail gen block inst :=
    hr.congr (Dev.trainReady_log ..) (Dev.reg_trainReady _ _ (by unfold Reg.HCH_PSTAT Reg.ERR_CNT; omega)
      (by unfold Reg.PWC_CNT_PGWAKE Reg.ERR_CNT; omega))
  rw [Dev.hTrain_eq]
  exact (hready.hEnter hh).congr (Dev.mgmtAsk_log ..) (Dev.reg_mgmtAsk ..)

end

/-! ### The link goes down into training -/

/-- A Hitch whose link has gone down, in training, before its plane is looked at (R337, R338). -/
def Dev.linkTrains (s : Dev) (h cause : Nat) : Dev :=
  (((s.bump (Reg.HCH_CNT_LINKDOWN h) 1).record clsFAB 0x001 (h + cause * 2 ^ 8) 0 blkHCH h).hDrop h).hTrain h

section
variable (s : Dev) {h : Nat} (cause : Nat)

theorem Dev.linkDown_training : s.linkDown h cause hsTRAINING
    = ((s.linkTrains h cause).replane (h / 4)).retrainNext (h / 4) := rfl

theorem Dev.hitch_linkTrains : ∃ m, (s.linkTrains h cause).hitch h = { (s.hitch h).dropped with
    partner := none, reachAnd := 3, missAnd := 15, mgmtOut := [(mTS, m)], mgmtWait := some (mTS, m) } := by
  obtain ⟨m, hm⟩ := Dev.hitch_hTrain
    (((s.bump (Reg.HCH_CNT_LINKDOWN h) 1).record clsFAB 0x001 (h + cause * 2 ^ 8) 0 blkHCH h).hDrop h) h
  refine ⟨m, hm.trans ?_⟩
  rw [Dev.hitch_hDrop, Dev.hitch_record, Dev.hitch_bump]

theorem Dev.leavesHitch_linkTrains {g : Nat} (hne : g ≠ h) : s.LeavesHitch g (s.linkTrains h cause) :=
  have hcount : s.LeavesHitch g (s.bump (Reg.HCH_CNT_LINKDOWN h) 1) :=
    (Dev.LeavesHitch.refl s).setReg_of_not_own (not_hitchReg_of_ne hne (by unfold Reg.HCH_CNT_LINKDOWN; omega))
  (hcount.record.hDrop hne).hTrain hne

section
variable (hh : h < 32)
include hh

theorem Dev.reg_linkTrains {k : Nat} (hk : HitchReg h k) (hpstat : k ≠ Reg.HCH_PSTAT h) (hlstat : k ≠ Reg.HCH_LSTAT h) :
    (s.linkTrains h cause).reg k
      = (((s.bump (Reg.HCH_CNT_LINKDOWN h) 1).record clsFAB 0x001 (h + cause * 2 ^ 8) 0 blkHCH h).hDrop h).reg k := by
  unfold HitchReg at hk
  exact Dev.reg_hTrain _ _ (not_mem_hitchShown ⟨hpstat, hlstat⟩ (by unfold Reg.HCH_UPMAP Reg.HCH_HALFMAP; omega))
    (by unfold Reg.PWC_CNT_PGWAKE; omega)

theorem Dev.reg_linkdown_linkTrains : (s.linkTrains h cause).reg (Reg.HCH_CNT_LINKDOWN h)
    = (s.reg (Reg.HCH_CNT_LINKDOWN h) + 1) % 2 ^ 64 := by
  have hown : HitchReg h (Reg.HCH_CNT_LINKDOWN h) := by unfold HitchReg Reg.HCH_CNT_LINKDOWN; omega
  rw [Dev.reg_linkTrains s cause hh hown (by unfold Reg.HCH_CNT_LINKDOWN Reg.HCH_PSTAT; omega)
      (by unfold Reg.HCH_CNT_LINKDOWN Reg.HCH_LSTAT; omega),
    Dev.reg_hDrop _ hh hown (by unfold Reg.HCH_CNT_LINKDOWN Reg.HCH_CNT_LOSTFR; omega),
    Dev.reg_record_lt _ _ _ _ _ _ _ (by unfold Reg.HCH_CNT_LINKDOWN; omega), Dev.reg_bump_same]

theorem Dev.reg_lostfr_linkTrains : (s.linkTrains h cause).reg (Reg.HCH_CNT_LOSTFR h)
    = (s.reg (Reg.HCH_CNT_LOSTFR h) + (s.hitch h).stored.length) % 2 ^ 64 := by
  have hown : HitchReg h (Reg.HCH_CNT_LOSTFR h) := by unfold HitchReg Reg.HCH_CNT_LOSTFR; omega
  rw [Dev.reg_linkTrains s cause hh hown (by unfold Reg.HCH_CNT_LOSTFR Reg.HCH_PSTAT; omega)
      (by unfold Reg.HCH_CNT_LOSTFR Reg.HCH_LSTAT; omega),
    Dev.reg_lostfr_hDrop _ hh, Dev.hitch_record, Dev.hitch_bump,
    Dev.reg_record_lt _ _ _ _ _ _ _ (by unfold Reg.HCH_CNT_LOSTFR; omega),
    Dev.reg_bump_ne _ _ (by unfold Reg.HCH_CNT_LOSTFR Reg.HCH_CNT_LINKDOWN; omega)]

/-- What the plane does next is not done at this Hitch: its own retrain is over, and it is not UP (R343, R359). -/
theorem Dev.leavesHitch_linkDown : (s.linkTrains h cause).LeavesHitch h (s.linkDown h cause hsTRAINING) := by
  have hplane : (s.linkTrains h cause).LeavesHitch h ((s.linkTrains h cause).replane (h / 4)) :=
    (Dev.LeavesHitch.refl _).replane
  have hstate : ((s.linkTrains h cause).replane (h / 4)).hState h = hsTRAINING := (hplane.hState hh).trans (Dev.hState_hTrain _ _)
  obtain ⟨m, hm⟩ := s.hitch_linkTrains (h := h) cause
  rw [Dev.linkDown_training]
  refine hplane.retrainNext ?_
  unfold Dev.retrainWaits
  rw [hplane.hitch, hm, hstate]
  simp [Hitch.dropped, hsTRAINING, hsUP]

section
variable (hwait : s.noRetrainWaits = true)
include hwait

/-- With no retrain waiting, nothing comes next on the plane. -/
theorem Dev.linkDown_of_noRetrainWaits : s.linkDown h cause hsTRAINING = (s.linkTrains h cause).replane (h / 4) := by
  obtain ⟨m, hm⟩ := s.hitch_linkTrains (h := h) cause
  have hown : ((s.linkTrains h cause).replane (h / 4)).hitch h = (s.linkTrains h cause).hitch h :=
    ((Dev.LeavesHitch.refl _).replane).hitch
  rw [Dev.linkDown_training]
  refine Dev.retrainNext_of_noRetrainWaits (by omega) (Dev.noRetrainWaits_of_leaves (h := h) hwait
    (fun g hg => (s.leavesHitch_linkTrains cause hg).replane) ?_ ?_)
  · rw [hown, hm]
    rfl
  · rw [hown, hm]
    exact (s.noRetrainWaits_iff.1 hwait h hh).2

theorem Dev.leavesHitch_linkDown_ne {g : Nat} (hne : g ≠ h) : s.LeavesHitch g (s.linkDown h cause hsTRAINING) := by
  rw [Dev.linkDown_of_noRetrainWaits s cause hh hwait]
  exact (s.leavesHitch_linkTrains cause hne).replane

/-- With no carriage waiting besides, the record of the cause is the one that is made (R337). -/
theorem Dev.recorded_linkDown (hqueue : s.stg.queue = []) (hcars : (s.hitch h).txCars = []) :
    s.Recorded (s.linkDown h cause hsTRAINING) clsFAB 0x001 (h + cause * 2 ^ 8) 0 blkHCH h := by
  have hrec := (Dev.recorded_record (s.bump (Reg.HCH_CNT_LINKDOWN h) 1) clsFAB 0x001 (h + cause * 2 ^ 8) 0 blkHCH h).from_congr
    (s := s) rfl (fun k hk _ => Dev.reg_bump_ne _ _ (by unfold Reg.HCH_CNT_LINKDOWN; omega)) (by decide)
  have hdrop := Dev.hDrop_of_txCars_nil ((s.bump (Reg.HCH_CNT_LINKDOWN h) 1).record clsFAB 0x001 (h + cause * 2 ^ 8) 0 blkHCH h) h
    (by rw [Dev.hitch_record, Dev.hitch_bump, hcars])
  have htrain : s.Recorded (s.linkTrains h cause) clsFAB 0x001 (h + cause * 2 ^ 8) 0 blkHCH h := by
    unfold Dev.linkTrains
    rw [hdrop]
    exact Dev.Recorded.hTrain hh (Dev.Recorded.linkLost hh hrec)
  have hempty : (s.linkTrains h cause).stg.queue = [] := by
    unfold Dev.linkTrains
    rw [Dev.hTrain_stg, hdrop, Dev.linkLost_stg, Dev.record_stg, Dev.bump_stg, hqueue]
  obtain ⟨hlog, hregs⟩ := Dev.replane_of_queue_nil (h / 4) hempty
  rw [Dev.linkDown_of_noRetrainWaits s cause hh hwait]
  exact htrain.congr hlog (Dev.reg_congr hregs _)

end
end
end

/-! ### The causes (R337) -/

section
variable {q : List Instr} {d : Dev} (ha : d.alive = true) {h : Nat} (hup : d.hUp h = true)
include ha hup

omit ha in
theorem Dev.linkFails_of_up (cause : Nat) : d.linkFails h cause = d.linkDown h cause hsTRAINING := if_pos hup

theorem exec_laneSignalLoss_down {lane : Nat} (hlane : bit (pairsLanes (d.hPairs h ||| (d.hitch h).rxPairs)) lane = true) :
    exec (.laneSignalLoss h lane) ⟨q, d⟩ = .next ⟨q, d.linkDown h 1 hsTRAINING⟩ :=
  (State.upd_of_alive q ha ((if_pos hlane).trans (Dev.linkFails_of_up hup 1)) : execLaneSignalLoss h lane ⟨q, d⟩ = _)

theorem exec_retryRequestTimeout_down (hbad : (d.hitch h).rxBad = true) (hlim : d.fld Reg.HCH_RTO 8 4 ≤ (d.hitch h).retries) :
    exec (.retryRequestTimeout h) ⟨q, d⟩ = .next ⟨q, d.linkDown h 2 hsTRAINING⟩ := by
  refine (State.upd_of_alive q ha ?_ : execRetryRequestTimeout h ⟨q, d⟩ = _)
  simp [hup, hbad, hlim, Dev.linkFails_of_up hup]

theorem exec_ackTimeout_down (hstored : (d.hitch h).stored ≠ []) (hdrain : (d.hitch h).drain = false) :
    exec (.ackTimeout h) ⟨q, d⟩ = .next ⟨q, d.linkDown h 3 hsTRAINING⟩ := by
  refine (State.upd_of_alive q ha ?_ : execAckTimeout h ⟨q, d⟩ = _)
  simp [hstored, hdrain, Dev.linkFails_of_up hup]

theorem exec_linkIdleTimeout_down (hwidth : d.hWidth h ≠ 0) :
    exec (.linkIdleTimeout h) ⟨q, d⟩ = .next ⟨q, d.linkDown h 4 hsTRAINING⟩ :=
  (State.upd_of_alive q ha ((if_neg hwidth).trans (Dev.linkFails_of_up hup 4)) : execLinkIdleTimeout h ⟨q, d⟩ = _)

theorem exec_down_down : exec (.down h) ⟨q, d⟩ = .next ⟨q, d.linkDown h 5 hsTRAINING⟩ :=
  (State.upd_of_alive q ha (Dev.linkFails_of_up hup 5) : execDown h ⟨q, d⟩ = _)

end

/-- Settles O13: each cause takes the link down into training, whose effect on the Hitch, on the log and on the other Hitches is said
once for all of them. -/
theorem linkDown : Obligations.LinkDown := by
  unfold Obligations.LinkDown
  intro q d h lane cause c ha hh hup hcause
  have hexec : exec c ⟨q, d⟩ = .next ⟨q, d.linkDown h cause hsTRAINING⟩ := by
    rcases hcause with ⟨rfl, rfl, hlane⟩ | ⟨rfl, rfl, hbad, hlim⟩ | ⟨rfl, rfl, hstored, hdrain⟩ | ⟨rfl, rfl, hwidth⟩ | ⟨rfl, rfl⟩
    · exact exec_laneSignalLoss_down ha hup hlane
    · exact exec_retryRequestTimeout_down ha hup hbad hlim
    · exact exec_ackTimeout_down ha hup hstored hdrain
    · exact exec_linkIdleTimeout_down ha hup hwidth
    · exact exec_down_down ha hup
  have hown := d.leavesHitch_linkDown cause hh
  obtain ⟨m, hm⟩ := d.hitch_linkTrains (h := h) cause
  refine ⟨_, hexec, (hown.hState hh).trans (Dev.hState_hTrain _ _), (hown.hWidth hh).trans (Dev.hWidth_hTrain _ _),
    (hown.reg _ (by unfold HitchReg Reg.HCH_CNT_LINKDOWN; omega)).trans (d.reg_linkdown_linkTrains cause hh),
    (hown.reg _ (by unfold HitchReg Reg.HCH_CNT_LOSTFR; omega)).trans (d.reg_lostfr_linkTrains cause hh), ?_, ?_, ⟨m, ?_⟩,
    fun hwait hqueue hcars => d.recorded_linkDown cause hh hwait hqueue hcars, fun hwait g hg hne => ?_⟩
  · rw [hown.hitch, hm]; rfl
  · rw [hown.hitch, hm]; rfl
  · rw [hown.hitch, hm]
  · have hother := d.leavesHitch_linkDown_ne cause hh hwait hne
    exact ⟨hother.hState hg, hother.hWidth hg⟩

end Sys2Proof.Machine
end

section
/-! The statement about link frames (10_hitches.md, R325 to R330): what a frame does besides its refill of the Turnpike, and each
frame that a Hitch sends by what it has to send first. -/
namespace Sys2Proof.Machine

set_option Elab.async false

/-! ### The eighth frame's refill (R374) -/

/-- From `s` to `t` nothing changed but the Turnpike and registers from its block on. -/
structure Dev.TurnpikeOnly (s t : Dev) : Prop where
  eq : t = { s with regs := t.regs, tpk := t.tpk }
  reg : ∀ k, k < 0xc00000 → t.reg k = s.reg k

namespace Dev.TurnpikeOnly
variable {s t u : Dev}

theorem refl (s : Dev) : s.TurnpikeOnly s := ⟨rfl, fun _ _ => rfl⟩

theorem trans (h : s.TurnpikeOnly t) (h' : t.TurnpikeOnly u) : s.TurnpikeOnly u := by
  refine ⟨?_, fun k hk => (h'.reg k hk).trans (h.reg k hk)⟩
  have e := h'.eq
  rw [h.eq] at e
  exact e

theorem tpk (h : s.TurnpikeOnly t) (x : Turnpike) : s.TurnpikeOnly { t with tpk := x } := h.trans ⟨rfl, fun _ _ => rfl⟩

theorem setReg {off v : Nat} (h : s.TurnpikeOnly t) (hoff : 0xc00000 ≤ off) : s.TurnpikeOnly (t.setReg off v) :=
  h.trans ⟨rfl, fun _ hk => Dev.reg_setReg_ne t v (by omega)⟩

theorem each {α : Type} {f : Dev → α → Dev} {l : List α} (h : s.TurnpikeOnly t)
    (hf : ∀ {u a}, s.TurnpikeOnly u → s.TurnpikeOnly (f u a)) : s.TurnpikeOnly (t.each l f) :=
  Dev.each_keeps (P := fun u => s.TurnpikeOnly u) h hf

theorem hitch (h : s.TurnpikeOnly t) (g : Nat) : t.hitch g = s.hitch g := by rw [h.eq]; rfl
theorem log (h : s.TurnpikeOnly t) : t.log = s.log := by rw [h.eq]
theorem mem (h : s.TurnpikeOnly t) : t.mem = s.mem := by rw [h.eq]
theorem outs (h : s.TurnpikeOnly t) : t.outs = s.outs := by rw [h.eq]

theorem leavesHitch {g : Nat} (h : s.TurnpikeOnly t) : s.LeavesHitch g t :=
  ⟨h.hitch g, fun k hk => h.reg k (by unfold HitchReg at hk; omega)⟩

end Dev.TurnpikeOnly

theorem Dev.turnpikeOnly_frameReceived (s : Dev) (h : Nat) : s.TurnpikeOnly (s.frameReceived h) := by
  have hcount : s.TurnpikeOnly (s.setRxCount h (s.rxCount h % 8 + 1)) := (Dev.TurnpikeOnly.refl s).tpk _
  have hpause : ∀ {t : Dev} {c : Nat}, s.TurnpikeOnly t → s.TurnpikeOnly (t.pauseSettle h c) := fun {t c} ht => by
    unfold Dev.pauseSettle
    split
    · exact ht
    · exact (ht.setReg (off := Reg.TPK_PSTAT h) (v := setBits (t.reg (Reg.TPK_PSTAT h)) c 1 0)
        (by unfold Reg.TPK_PSTAT; omega)).tpk _
  unfold Dev.frameReceived
  dsimp only
  split
  · exact hcount.each fun h => hpause ((h.tpk _).tpk _)
  · exact hcount

theorem Dev.turnpikeOnly_frameSent (s : Dev) (h : Nat) : s.TurnpikeOnly (s.frameSent h) := by
  have hcount : s.TurnpikeOnly (s.setTxCount h (s.txCount h % 8 + 1)) := (Dev.TurnpikeOnly.refl s).tpk _
  unfold Dev.frameSent
  dsimp only
  split
  · exact hcount.each fun h => (h.tpk _).setReg (by unfold Reg.TPK_CREDIT; omega)
  · exact hcount

/-! ### Frames received -/

/-- A frame is counted with its corrections, whatever it holds (R374). -/
def Dev.frameCounted (s : Dev) (h : Nat) (f : RxFrame) : Dev :=
  (((s.frameReceived h).bump (Reg.HCH_CNT_CW h) 2).bump (Reg.HCH_CNT_CWCORR h) f.cwCorr).bump (Reg.HCH_CNT_SYMCORR h) f.symCorr

section
variable (s : Dev) (h : Nat) (f : RxFrame)

@[simp] theorem Dev.hitch_frameCounted (g : Nat) : (s.frameCounted h f).hitch g = s.hitch g :=
  (s.turnpikeOnly_frameReceived h).hitch g
theorem Dev.frameCounted_log : (s.frameCounted h f).log = s.log := (s.turnpikeOnly_frameReceived h).log
theorem Dev.frameCounted_mem : (s.frameCounted h f).mem = s.mem := (s.turnpikeOnly_frameReceived h).mem
theorem Dev.frameCounted_outs : (s.frameCounted h f).outs = s.outs := (s.turnpikeOnly_frameReceived h).outs

/-- The registers of the Hitch behind those three counters, and others below the Turnpike's. -/
theorem Dev.reg_frameCounted {k : Nat} (hlow : k < 0xc00000) (hk : 0xa01028 + 0x100 * h ≤ k) : (s.frameCounted h f).reg k = s.reg k := by
  unfold Dev.frameCounted
  rw [Dev.reg_bump_ne _ _ (by unfold Reg.HCH_CNT_SYMCORR; omega), Dev.reg_bump_ne _ _ (by unfold Reg.HCH_CNT_CWCORR; omega),
    Dev.reg_bump_ne _ _ (by unfold Reg.HCH_CNT_CW; omega)]
  exact (s.turnpikeOnly_frameReceived h).reg k hlow

theorem Dev.reg_cw_frameCounted (hh : h < 32) :
    (s.frameCounted h f).reg (Reg.HCH_CNT_CW h) = (s.reg (Reg.HCH_CNT_CW h) + 2) % 2 ^ 64 := by
  unfold Dev.frameCounted
  rw [Dev.reg_bump_ne _ _ (by unfold Reg.HCH_CNT_CW Reg.HCH_CNT_SYMCORR; omega),
    Dev.reg_bump_ne _ _ (by unfold Reg.HCH_CNT_CW Reg.HCH_CNT_CWCORR; omega), Dev.reg_bump_same,
    (s.turnpikeOnly_frameReceived h).reg _ (by unfold Reg.HCH_CNT_CW; omega)]

end

/-- The record of a Hitch after a good data frame with the expected SEQ (R326, R328, R331). -/
def Hitch.takes (x : Hitch) (f : RxFrame) : Hitch :=
  let cars := parseCars 21 (x.rxPart ++ f.flits.take f.nflit)
  { x with
    symMs := x.symMs + f.symCorr, xoffIn := f.xoff % 256, stored := afterAck f.ackseq x.stored,
    replay := afterAck f.ackseq x.replay, rxExp := (x.rxExp + 1) % 4096, rxLast := f.seq, rxBad := false, retries := 0,
    wantRetry := false, rxPart := cars.2, rxDone := x.rxDone ++ cars.1 }

theorem Dev.quietSettle_of_retrain_none {s : Dev} {h : Nat} (hnone : (s.hitch h).retrain = .none) : s.quietSettle h = s := by
  unfold Dev.quietSettle
  rw [hnone]

theorem askRetry_rxBad (x : Hitch) : (askRetry x).rxBad = true := by
  unfold askRetry
  split
  · assumption
  · rfl

/-- A frame asked for again leaves what was received and what is stored. -/
theorem askRetry_frame (x : Hitch) : (askRetry x).rxDone = x.rxDone ∧ (askRetry x).rxExp = x.rxExp ∧ (askRetry x).stored = x.stored := by
  unfold askRetry
  split <;> exact ⟨rfl, rfl, rfl⟩

theorem askRetry_wantRetry {x : Hitch} (hgood : x.rxBad = false) : (askRetry x).wantRetry = true := by
  simp [askRetry, hgood]

theorem frameType_beq {t : FrameType} (hdata : t = .data) :
    (t == .data) = true ∧ (t == .reserved) = false ∧ (t == .retry) = false := by
  rw [hdata]
  decide

theorem Dev.not_training_of_up {d : Dev} {h : Nat} (hup : d.hUp h = true) : d.hState h ≠ hsTRAINING := fun e => by
  unfold Dev.hUp at hup
  rw [e] at hup
  exact absurd hup (by decide)

section
variable {q : List Instr} {d : Dev} (ha : d.alive = true) {h : Nat} (hup : d.hUp h = true) {x : Hitch} (hx : d.hitch h = x)
include ha hup hx

section
variable {lanes : List (List Nat)} {f : RxFrame} (hf : frameOf (d.heard h lanes) = f) (hdata : f.type = .data)
include hf hdata

theorem exec_linkFrameReceive_inSequence (hnone : x.retrain = .none) (hgood : f.good = true) (hlo : 1 ≤ f.nflit)
    (hhi : f.nflit ≤ 20) (hseq : f.seq = x.rxExp) :
    exec (.linkFrameReceive h lanes) ⟨q, d⟩ = .next ⟨q, (d.frameCounted h f).setHitch h (x.takes f)⟩ := by
  have hquiet : ((d.frameCounted h f).setHitch h (x.takes f)).quietSettle h = (d.frameCounted h f).setHitch h (x.takes f) :=
    Dev.quietSettle_of_retrain_none (by rw [Dev.hitch_setHitch_same]; exact hnone)
  have hflits : (f.nflit != 0) = true := by simpa using Nat.one_le_iff_ne_zero.1 hlo
  have hfew : ¬ 20 < f.nflit := Nat.not_lt.2 hhi
  have hcounted := d.hitch_frameCounted h f h
  refine (State.upd_of_alive q ha ?_ : execLinkFrameReceive h lanes ⟨q, d⟩ = _)
  rw [← hquiet, if_neg (Dev.not_training_of_up hup)]
  unfold Dev.frameCounted at hcounted ⊢
  simp only [hup, hf, hgood, hx, hcounted, frameType_beq hdata, hflits, hfew, hseq, Hitch.takes, Bool.not_true, Bool.false_eq_true,
    Bool.and_self, ↓reduceIte, decide_false, Bool.or_false]

theorem exec_linkFrameReceive_uncorrectable (hbad : f.good = false) (hnflit : f.nflit ≠ 0) :
    exec (.linkFrameReceive h lanes) ⟨q, d⟩ = .next ⟨q, (((d.frameCounted h f).bump (Reg.HCH_CNT_UNCORR h) 1).bump
      (Reg.HCH_CNT_DISCARD h) 1).setHitch h (askRetry { x with symMs := x.symMs + f.symCorr })⟩ := by
  have hflits : (f.nflit != 0) = true := by simpa using hnflit
  have hcounted := d.hitch_frameCounted h f h
  refine (State.upd_of_alive q ha ?_ : execLinkFrameReceive h lanes ⟨q, d⟩ = _)
  rw [if_neg (Dev.not_training_of_up hup)]
  unfold Dev.frameCounted at hcounted ⊢
  simp only [hup, hf, hbad, hx, hcounted, frameType_beq hdata, hflits, Bool.not_true, Bool.not_false, Bool.false_eq_true, Bool.and_self,
    ↓reduceIte]

end

end

/-! ### Frames sent -/

/-- XOFF rests on the buffer, its limits and the pauses (R330, R365, R387). -/
theorem Dev.xoffOut_congr {s t : Dev} (hstg : t.stg = s.stg) (htpk : t.tpk = s.tpk) (halpha : t.reg Reg.STG_ALPHA = s.reg Reg.STG_ALPHA)
    (h : Nat) : t.xoffOut h = s.xoffOut h := by
  have hlimit : ∀ v n, t.withinLimit v n = s.withinLimit v n := fun v n => by
    unfold Dev.withinLimit Dev.stgFree Dev.stgResv
    rw [hstg, Dev.fld_congr halpha]
  have hingress : ∀ v, t.ingress h v = s.ingress h v := fun v => by
    unfold Dev.ingress
    rw [hstg]
  have hpaused : t.pausedVCs h = s.pausedVCs h := by
    unfold Dev.pausedVCs
    rw [htpk]
  unfold Dev.xoffOut
  simp only [hlimit, hingress, hpaused]

@[simp] theorem Dev.xoffOut_setHitch (s : Dev) (h g : Nat) (x : Hitch) : (s.setHitch h x).xoffOut g = s.xoffOut g :=
  Dev.xoffOut_congr rfl rfl rfl g

theorem Dev.xoffOut_bump (s : Dev) {off : Nat} (n g : Nat) (hoff : Reg.STG_ALPHA ≠ off) : (s.bump off n).xoffOut g = s.xoffOut g :=
  Dev.xoffOut_congr (Dev.bump_stg ..) (Dev.bump_tpk ..) (Dev.reg_bump_ne s n hoff) g

/-- The counters that a carriage that leaves advances (R361, R371, Table 16-10). -/
def departRegs (h : Nat) : List Nat :=
  [Reg.STG_CNT_FWD, Reg.STG_CNT_PBYTES (h / 4), Reg.STG_CNT_RELAYED, Reg.GRD_MTR_RELAYB, Reg.GRD_MTR_TXBYTES, Reg.STG_CNT_VIARELAY]

theorem Dev.onlyRegs_departs (s : Dev) (h : Nat) (c : TxCar) : s.OnlyRegs (s.departs h c) (departRegs h) := by
  have hbump : ∀ {t : Dev} {off n : Nat}, off ∈ departRegs h → s.OnlyRegs t (departRegs h) → s.OnlyRegs (t.bump off n) (departRegs h) :=
    fun hoff ht => ht.write _ hoff
  have hmeter : ∀ {t : Dev} {off n : Nat}, off ∈ departRegs h → s.OnlyRegs t (departRegs h) → s.OnlyRegs (t.meter off n) (departRegs h) :=
    fun {t off n} hoff ht => by
      unfold Dev.meter
      split
      · exact hbump hoff ht
      · exact ht
  have hforward := hbump (n := 256 * c.x.car.plen) (by simp [departRegs] : Reg.STG_CNT_PBYTES (h / 4) ∈ departRegs h)
    (hbump (n := 1) (by simp [departRegs] : Reg.STG_CNT_FWD ∈ departRegs h) (.refl s _))
  unfold Dev.departs
  dsimp only
  split <;> split
  · exact hbump (by simp [departRegs]) (hmeter (by simp [departRegs]) (hbump (by simp [departRegs]) hforward))
  · exact hbump (by simp [departRegs]) (hmeter (by simp [departRegs]) hforward)
  · exact hmeter (by simp [departRegs]) (hbump (by simp [departRegs]) hforward)
  · exact hmeter (by simp [departRegs]) hforward

theorem Dev.xoffOut_departs (s : Dev) (h g : Nat) (c : TxCar) : (s.departs h c).xoffOut g = s.xoffOut g := by
  have honly := s.onlyRegs_departs h c
  refine Dev.xoffOut_congr honly.stg (by rw [honly.1]) (honly.2 _ ?_) g
  simp only [departRegs, List.mem_cons, List.not_mem_nil, or_false]
  unfold Reg.STG_ALPHA Reg.STG_CNT_FWD Reg.STG_CNT_PBYTES Reg.STG_CNT_RELAYED Reg.GRD_MTR_RELAYB Reg.GRD_MTR_TXBYTES Reg.STG_CNT_VIARELAY
  omega

/-- A carriage that fits into one frame is framed whole. -/
theorem gather_fits {off : Nat} {c : TxCar} (hfits : c.flits.length ≤ 20) (hoff : bit off c.x.evc = false)
    (hbegun : c.begun = false) : gather off 20 [c] = (c.flits, [c], []) := by
  simp [gather, hoff, hbegun, List.take_of_length_le hfits, List.drop_of_length_le hfits]

/-- One whose VC the partner holds off stays whole (R332). -/
theorem gather_held {off : Nat} {c : TxCar} (hoff : (!c.begun && bit off c.x.evc) = true) : gather off 20 [c] = ([], [], [c]) := by
  simp [gather, hoff]

section
variable {q : List Instr} {d : Dev} (ha : d.alive = true) {h : Nat} (hup : d.hUp h = true) (hwidth : d.hWidth h ≠ 0) {x : Hitch}
  (hx : d.hitch h = x)
include ha hup hwidth hx

theorem exec_linkFrameTransmit_retry (hwant : x.wantRetry = true) :
    exec (.linkFrameTransmit h) ⟨q, d⟩ = .next ⟨q, ((d.setHitch h { x with wantRetry := false, retries := x.retries + 1 }).bump
      (Reg.HCH_CNT_RETRYREQ h) 1).sendFrame h ⟨x.txSeq, x.rxLast, d.xoffOut h, .retry, 0, []⟩⟩ := by
  refine (State.upd_of_alive q ha ?_ : execLinkFrameTransmit h ⟨q, d⟩ = _)
  rw [if_neg (Dev.not_training_of_up hup)]
  simp only [hup, hwidth, hx, hwant, Bool.not_true, decide_false, Bool.or_self, Bool.false_eq_true, ↓reduceIte, Dev.hitch_bump,
    Dev.hitch_setHitch_same, Dev.xoffOut_bump _ _ _ (by unfold Reg.STG_ALPHA Reg.HCH_CNT_RETRYREQ; omega :
      Reg.STG_ALPHA ≠ Reg.HCH_CNT_RETRYREQ h), Dev.xoffOut_setHitch, List.length_nil]

section
variable (hwant : x.wantRetry = false)
include hwant

theorem exec_linkFrameTransmit_mgmt {m : Nat × Mgmt} {ms : List (Nat × Mgmt)} (hmgmt : x.mgmtOut = m :: ms) :
    ∃ t, t = (d.setHitch h { x with mgmtOut := ms }).sendFrame h ⟨x.txSeq, x.rxLast, d.xoffOut h, .mgmt, 1, [mgmtFlit m.1 m.2]⟩
      ∧ exec (.linkFrameTransmit h) ⟨q, d⟩ = .next ⟨q, if m.1 = mSWITCH then t.widthSent h m.2.pairs else t⟩ := by
  refine ⟨_, rfl, (State.upd_of_alive q ha ?_ : execLinkFrameTransmit h ⟨q, d⟩ = _)⟩
  rw [if_neg (Dev.not_training_of_up hup)]
  simp only [hup, hwidth, hx, hwant, hmgmt, Bool.not_true, decide_false, Bool.or_self, Bool.false_eq_true, ↓reduceIte,
    Dev.hitch_setHitch_same, Dev.xoffOut_setHitch, List.length_singleton]

section
variable (hmgmt : x.mgmtOut = [])
include hmgmt

theorem exec_linkFrameTransmit_replay {f : Stored} {fs : List Stored} (hreplay : x.replay = f :: fs) :
    exec (.linkFrameTransmit h) ⟨q, d⟩ = .next ⟨q, ((d.setHitch h { x with replay := fs }).bump (Reg.HCH_CNT_REPLAY h) 1).sendFrame h
      ⟨f.seq, x.rxLast, d.xoffOut h, .data, f.flits.length, f.flits⟩⟩ := by
  refine (State.upd_of_alive q ha ?_ : execLinkFrameTransmit h ⟨q, d⟩ = _)
  rw [if_neg (Dev.not_training_of_up hup)]
  simp only [hup, hwidth, hx, hwant, hmgmt, hreplay, Bool.not_true, decide_false, Bool.or_self, Bool.false_eq_true, ↓reduceIte,
    Dev.hitch_bump, Dev.hitch_setHitch_same, Dev.xoffOut_bump _ _ _ (by unfold Reg.STG_ALPHA Reg.HCH_CNT_REPLAY; omega :
      Reg.STG_ALPHA ≠ Reg.HCH_CNT_REPLAY h), Dev.xoffOut_setHitch]

section
variable (hreplay : x.replay = [])
include hreplay

/-- Nothing to frame: an idle frame. -/
theorem exec_linkFrameTransmit_idle (hnone : (gather x.xoffIn 20 x.txCars).1 = []) :
    exec (.linkFrameTransmit h) ⟨q, d⟩ = .next ⟨q, d.sendFrame h ⟨x.txSeq, x.rxLast, d.xoffOut h, .data, 0, []⟩⟩ := by
  refine (State.upd_of_alive q ha ?_ : execLinkFrameTransmit h ⟨q, d⟩ = _)
  rw [if_neg (Dev.not_training_of_up hup)]
  simp only [hup, hwidth, hx, hwant, hmgmt, hreplay, hnone, Bool.not_true, decide_false, Bool.or_self, Bool.false_eq_true, ↓reduceIte,
    List.isEmpty_nil, Bool.true_or, List.length_nil]

/-- A carriage that fits into one frame leaves in it, and the frame is stored (R326, R328). -/
theorem exec_linkFrameTransmit_carriage {c : TxCar} (hcars : x.txCars = [c]) (hflits : c.flits ≠ []) (hfits : c.flits.length ≤ 20)
    (hroom : x.stored.length < 409) (hbegun : c.begun = false) (hoff : bit x.xoffIn c.x.evc = false) :
    exec (.linkFrameTransmit h) ⟨q, d⟩ = .next ⟨q, ((d.setHitch h { x with
        txCars := [], stored := x.stored ++ [⟨x.txSeq, c.flits⟩], txSeq := (x.txSeq + 1) % 4096 }).departs h c).sendFrame h
      ⟨x.txSeq, x.rxLast, d.xoffOut h, .data, c.flits.length, c.flits⟩⟩ := by
  have hgather : gather x.xoffIn 20 [c] = (c.flits, [c], []) := gather_fits hfits hoff hbegun
  have hempty : c.flits.isEmpty = false := by simpa using hflits
  refine (State.upd_of_alive q ha ?_ : execLinkFrameTransmit h ⟨q, d⟩ = _)
  rw [if_neg (Dev.not_training_of_up hup)]
  simp only [hup, hwidth, hx, hwant, hmgmt, hreplay, hcars, hgather, hempty, Nat.not_le.2 hroom, Bool.not_true, decide_false,
    Bool.or_self, Bool.false_eq_true, ↓reduceIte, Dev.each, List.foldl_cons, List.foldl_nil,
    (Dev.onlyRegs_departs _ h c).hitch, Dev.hitch_setHitch_same, Dev.xoffOut_departs, Dev.xoffOut_setHitch]

end
end
end
end

section
variable {q : List Instr} {d : Dev} (ha : d.alive = true) {h : Nat} {x : Hitch} (hx : d.hitch h = x)
include ha hx

theorem exec_retryRequestTimeout_asks (hup : d.hUp h = true) (hbad : x.rxBad = true) (hlim : x.retries < d.fld Reg.HCH_RTO 8 4) :
    exec (.retryRequestTimeout h) ⟨q, d⟩ = .next ⟨q, d.setHitch h { x with wantRetry := true }⟩ := by
  refine (State.upd_of_alive q ha ?_ : execRetryRequestTimeout h ⟨q, d⟩ = _)
  simp only [hup, hx, hbad, Nat.not_le.2 hlim, Bool.not_true, Bool.or_self, Bool.false_eq_true, ↓reduceIte]

theorem exec_mgmtMessageResend {m : Nat × Mgmt} (hm : x.mgmtWait = some m) :
    exec (.mgmtMessageResend h) ⟨q, d⟩ = .next ⟨q, d.setHitch h { x with mgmtOut := x.mgmtOut ++ [m] }⟩ := by
  refine (State.upd_of_alive q ha ?_ : execMgmtMessageResend h ⟨q, d⟩ = _)
  simp only [hx, hm]

end

/-- Settles O12: a frame received, by its decode; a frame sent, by the first thing that the Hitch has to send; and the two time
limits. -/
theorem linkFrames : Obligations.LinkFrames := by
  unfold Obligations.LinkFrames
  intro q d h x ha hh hup hx hnone
  refine ⟨fun lanes f hf hgood hdata hlo hhi hseq => ⟨_, _, exec_linkFrameReceive_inSequence ha hup hx hf hdata hnone hgood hlo hhi hseq,
      Dev.hitch_setHitch_same _ _ _, rfl, rfl, rfl, rfl, rfl, rfl, ?_, ?_, ?_, ?_⟩,
    fun lanes f hf hbad hdata hflits =>
      have hkept := askRetry_frame { x with symMs := x.symMs + f.symCorr }
      ⟨_, _, exec_linkFrameReceive_uncorrectable ha hup hx hf hdata hbad hflits,
      Dev.hitch_setHitch_same _ _ _, askRetry_rxBad _, hkept.1, hkept.2.1, hkept.2.2, fun hgood => askRetry_wantRetry hgood, ?_, ?_⟩,
    fun hwidth hwant hmgmt hreplay hcars => exec_linkFrameTransmit_idle ha hup hwidth hx hwant hmgmt hreplay (by rw [hcars]; rfl),
    fun c hwidth hwant hmgmt hreplay hcars hflits hfits hroom hbegun =>
      ⟨fun hoff => exec_linkFrameTransmit_carriage ha hup hwidth hx hwant hmgmt hreplay hcars hflits hfits hroom hbegun hoff,
        fun hoff => exec_linkFrameTransmit_idle ha hup hwidth hx hwant hmgmt hreplay
          (by rw [hcars, gather_held (by simp [hoff, hbegun])])⟩,
    fun hwidth hwant => exec_linkFrameTransmit_retry ha hup hwidth hx hwant,
    fun m ms hwidth hwant hmgmt => exec_linkFrameTransmit_mgmt ha hup hwidth hx hwant hmgmt,
    fun f fs hwidth hwant hmgmt hreplay => exec_linkFrameTransmit_replay ha hup hwidth hx hwant hmgmt hreplay,
    fun hbad hlim => exec_retryRequestTimeout_asks ha hx hup hbad hlim, fun m hm => exec_mgmtMessageResend ha hx hm⟩
  · rw [Dev.reg_setHitch, Dev.reg_cw_frameCounted d h f hh]
  · rw [Dev.setHitch_log, Dev.frameCounted_log]
  · rw [Dev.setHitch_mem, Dev.frameCounted_mem]
  · rw [Dev.setHitch_outs, Dev.frameCounted_outs]
  · rw [Dev.reg_setHitch, Dev.reg_bump_ne _ _ (by unfold Reg.HCH_CNT_UNCORR Reg.HCH_CNT_DISCARD; omega), Dev.reg_bump_same,
      Dev.reg_frameCounted d h f (by unfold Reg.HCH_CNT_UNCORR; omega) (by unfold Reg.HCH_CNT_UNCORR; omega)]
  · rw [Dev.reg_setHitch, Dev.reg_bump_same, Dev.reg_bump_ne _ _ (by unfold Reg.HCH_CNT_UNCORR Reg.HCH_CNT_DISCARD; omega),
      Dev.reg_frameCounted d h f (by unfold Reg.HCH_CNT_DISCARD; omega) (by unfold Reg.HCH_CNT_DISCARD; omega)]

end Sys2Proof.Machine
end

section
/-! The statement about width changes and retraining (10_hitches.md, R343 to R347): the answers to the messages, the width that changes
behind WIDTH_SWITCH, and a retrain that starts. -/
namespace Sys2Proof.Machine

set_option Elab.async false

/-! ### A frame that is sent, and what changes behind it -/

section
variable (s : Dev) (h : Nat) (f : TxFrame)

theorem Dev.turnpikeOnly_sendFrame : (s.emit (.frame h (frameLine
    (if s.hWidth h = 0 then pairsWidth (soundPairs (s.hLfail h)) else s.hWidth h) f))).TurnpikeOnly (s.sendFrame h f) :=
  Dev.turnpikeOnly_frameSent _ _

theorem Dev.leavesHitch_sendFrame (g : Nat) : s.LeavesHitch g (s.sendFrame h f) :=
  Dev.LeavesHitch.trans (t := s.emit _) ⟨rfl, fun _ _ => rfl⟩ (s.turnpikeOnly_sendFrame h f).leavesHitch

theorem Dev.sendFrame_log : (s.sendFrame h f).log = s.log := (s.turnpikeOnly_sendFrame h f).log

theorem Dev.sendFrame_outs (hwidth : s.hWidth h ≠ 0) : (s.sendFrame h f).outs = s.outs ++ [.frame h (frameLine (s.hWidth h) f)] := by
  refine (s.turnpikeOnly_sendFrame h f).outs.trans ?_
  rw [if_neg hwidth]
  rfl

end

/-- The pairs on which a Hitch receives from now on, where they are not those on which it transmits (R343). -/
def receives (old rx ps : Nat) : Nat := if (if rx = 0 then old else rx) = ps then 0 else if rx = 0 then old else rx

/-- The width that was asked for comes behind the frame: the pair left out retrains (R343, Table 10-7). -/
theorem Dev.widthSent_asking {s : Dev} {h ps p : Nat} (hask : (s.hitch h).retrain = .asking ps p) (pairs : Nat) :
    ∃ t : Dev, s.widthSent h pairs = t.hEnter h hsRETRAIN ps ∧ t.log = s.log ∧ t.outs = s.outs
      ∧ t.hitch h = { s.hitch h with
          rxPairs := receives (s.hPairs h) (s.hitch h).rxPairs (pairs &&& soundPairs (s.hLfail h)), retrain := .pair p false } := by
  unfold Dev.widthSent
  simp only [Dev.hitch_setHitch_same, hask]
  exact ⟨_, rfl, rfl, rfl, Dev.hitch_setHitch_same _ _ _⟩

/-! ### A retrain starts -/

section
variable {s t : Dev} {h : Nat}

theorem Dev.mgmtOf_congr (hcfg : t.reg Reg.HCH_CFG = s.reg Reg.HCH_CFG) (hlfail : t.hLfail h = s.hLfail h) (pairs : Nat) :
    t.mgmtOf h pairs = s.mgmtOf h pairs := by
  unfold Dev.mgmtOf
  rw [Dev.fld_congr hcfg, hlfail]

theorem Dev.planeBusy_congr (hbusy : t.reg Reg.WHL_HBUSY = s.reg Reg.WHL_HBUSY) (p : Nat) : t.planeBusy p = s.planeBusy p := by
  unfold Dev.planeBusy
  simp only [Dev.flag_congr hbusy]

theorem Dev.flag_hbusy_of_not_planeBusy (hbusy : s.planeBusy (h / 4) = false) : s.flag Reg.WHL_HBUSY h = false := by
  have hmem : h ∈ planeHitches (h / 4) := List.mem_map.2 ⟨h % 4, List.mem_range.2 (Nat.mod_lt _ (by decide)), Nat.div_add_mod h 4⟩
  by_contra hset
  have hany : s.planeBusy (h / 4) = true := List.any_eq_true.2 ⟨h, hmem, by simpa using hset⟩
  rw [hbusy] at hany
  exact absurd hany (by decide)

/-- On a quiet plane a retrain that is due starts at once (R345). -/
theorem Dev.retrainTry_of_quiet (hstate : s.hState h = hsUP) (hbusy : s.planeBusy (h / 4) = false)
    (hphase : s.phaseOn (h / 4) = false) : s.retrainTry h = s.retrainStart h := by
  simp [Dev.retrainTry, hstate, hbusy, hphase]

/-- The plane is taken for the retrain of the Hitch, and nothing of it is due or deferred any more. -/
def Dev.retrainReady (s : Dev) (h : Nat) : Dev :=
  ((s.setFlag Reg.WHL_HBUSY h true).setFlag Reg.WHL_HDEFER h false).setHitch h { s.hitch h with
    due := false, yielded := false, deferred := 0 }

theorem Dev.reg_retrainReady {k : Nat} (hbusy : k ≠ Reg.WHL_HBUSY) (hdefer : k ≠ Reg.WHL_HDEFER) :
    (s.retrainReady h).reg k = s.reg k := by
  unfold Dev.retrainReady
  rw [Dev.reg_setHitch, Dev.reg_setFlag_ne _ _ _ hdefer, Dev.reg_setFlag_ne _ _ _ hbusy]

theorem Dev.fld_pstat_retrainReady (hh : h < 32) (lo w : Nat) :
    (s.retrainReady h).fld (Reg.HCH_PSTAT h) lo w = s.fld (Reg.HCH_PSTAT h) lo w :=
  Dev.fld_congr (Dev.reg_retrainReady (by unfold Reg.HCH_PSTAT Reg.WHL_HBUSY; omega)
    (by unfold Reg.HCH_PSTAT Reg.WHL_HDEFER; omega)) _ _

/-- The Hitch in RETRAIN, at the width that it has. -/
def Dev.retrainEntered (s : Dev) (h : Nat) : Dev := (s.retrainReady h).hEnter h hsRETRAIN ((s.retrainReady h).hPairs h)

theorem Dev.reg_retrainEntered {k : Nat} (hshown : k ∉ hitchShown h) : (s.retrainEntered h).reg k = (s.retrainReady h).reg k :=
  Dev.reg_hEnter _ _ _ _ hshown

theorem Dev.hLfail_retrainEntered (hh : h < 32) : (s.retrainEntered h).hLfail h = s.hLfail h :=
  (Dev.hLfail_hEnter _ _ _ _).trans (Dev.fld_pstat_retrainReady hh 20 4)

theorem Dev.flag_hbusy_retrainEntered (hh : h < 32) : (s.retrainEntered h).flag Reg.WHL_HBUSY h = true := by
  have hshown : Reg.WHL_HBUSY ∉ hitchShown h :=
    not_mem_hitchShown (by unfold Reg.WHL_HBUSY Reg.HCH_PSTAT Reg.HCH_LSTAT; omega) (by decide)
  rw [Dev.flag_congr (Dev.reg_retrainEntered hshown)]
  unfold Dev.retrainReady
  exact (Dev.flag_setFlag_ne _ _ _ _ (by decide)).trans (Dev.flag_setFlag_same _ _ _ (by omega))

theorem Dev.mgmtOf_retrainEntered (hh : h < 32) (pairs : Nat) : (s.retrainEntered h).mgmtOf h pairs = s.mgmtOf h pairs := by
  have hshown : Reg.HCH_CFG ∉ hitchShown h := not_mem_hitchShown (by unfold Reg.HCH_CFG Reg.HCH_PSTAT Reg.HCH_LSTAT; omega) (by decide)
  exact Dev.mgmtOf_congr ((Dev.reg_retrainEntered hshown).trans (Dev.reg_retrainReady (by decide) (by decide)))
    (Dev.hLfail_retrainEntered hh) pairs

theorem Dev.hState_retrainEntered : (s.retrainEntered h).hState h = hsRETRAIN := by
  unfold Dev.retrainEntered
  rw [Dev.hState_hEnter]
  exact Nat.mod_eq_of_lt (by decide)

theorem Dev.retrainEntered_log : (s.retrainEntered h).log = s.log := by
  unfold Dev.retrainEntered
  rw [Dev.hEnter_log]
  rfl

theorem Dev.hitch_retrainEntered :
    (s.retrainEntered h).hitch h = { s.hitch h with due := false, yielded := false, deferred := 0 } :=
  (Dev.hitch_hEnter _ _ _ _ _).trans (Dev.hitch_setHitch_same _ _ _)

/-- The Hitch asks for pair set 1, to retrain pair 1, or, with a failed lane, waits to retrain quietly (Table 10-7). -/
theorem Dev.retrainStart_eq (s : Dev) (h : Nat) : s.retrainStart h = if (s.retrainEntered h).hLfail h = 0
    then ((s.retrainEntered h).setHitch h { (s.retrainEntered h).hitch h with retrain := .asking 1 1 }).mgmtAsk h mREQ 1
    else ((s.retrainEntered h).setHitch h { (s.retrainEntered h).hitch h with retrain := .quiet false }).quietSettle h := rfl

theorem Dev.retrainStart_of_sound (hh : h < 32) (hlfail : s.hLfail h = 0) :
    (s.retrainStart h).hState h = hsRETRAIN ∧ (s.retrainStart h).flag Reg.WHL_HBUSY h = true
      ∧ (s.retrainStart h).hitch h = { s.hitch h with
          due := false, yielded := false, deferred := 0, retrain := .asking 1 1,
          mgmtOut := (s.hitch h).mgmtOut ++ [(mREQ, s.mgmtOf h 1)], mgmtWait := some (mREQ, s.mgmtOf h 1) }
      ∧ (s.retrainStart h).log = s.log := by
  rw [Dev.retrainStart_eq, if_pos ((Dev.hLfail_retrainEntered hh).trans hlfail)]
  refine ⟨?_, ?_, ?_, ?_⟩
  · rw [Dev.hState_mgmtAsk, Dev.hState_setHitch, Dev.hState_retrainEntered]
  · exact (Dev.flag_congr ((Dev.reg_mgmtAsk ..).trans (Dev.reg_setHitch ..)) h).trans (Dev.flag_hbusy_retrainEntered hh)
  · rw [Dev.hitch_mgmtAsk, Dev.mgmtOf_congr (Dev.reg_setHitch ..) (Dev.hLfail_setHitch ..), Dev.mgmtOf_retrainEntered hh,
      Dev.hitch_setHitch_same, Dev.hitch_retrainEntered]
  · rw [Dev.mgmtAsk_log, Dev.setHitch_log, Dev.retrainEntered_log]

end

/-! ### A change refused -/

/-- The Hitch back in UP at the width that it has, with nothing asked for and no retrain (R347). -/
def Dev.retrainRefused (s : Dev) (h : Nat) : Dev :=
  ((s.setHitch h { s.hitch h with mgmtWait := none }).hEnter h hsUP (s.hPairs h)).retrainEnd h

theorem Dev.hitch_retrainRefused (s : Dev) (h : Nat) :
    (s.retrainRefused h).hitch h = { s.hitch h with mgmtWait := none, retrain := .none } := by
  unfold Dev.retrainRefused
  rw [Dev.hitch_retrainEnd, Dev.hitch_hEnter, Dev.hitch_setHitch_same]

theorem Dev.noRetrainWaits_retrainRefused {s : Dev} {h : Nat} (hh : h < 32) (hquiet : s.noRetrainWaits = true) :
    (s.retrainRefused h).noRetrainWaits = true := by
  obtain ⟨hdue, hyield⟩ := s.noRetrainWaits_iff.1 hquiet h hh
  refine Dev.noRetrainWaits_of_leaves hquiet
    (fun g hg => (((Dev.LeavesHitch.refl s).setHitch hg).hEnter hg).retrainEnd hg) ?_ ?_
  · rw [Dev.hitch_retrainRefused]
    exact hdue
  · rw [Dev.hitch_retrainRefused]
    exact hyield

/-! ### The commands -/

section
variable {q : List Instr} {d : Dev} (ha : d.alive = true) {h : Nat} {x : Hitch} (hx : d.hitch h = x)
include ha hx

section
variable (hup : d.hUp h = true)
include hup

section
variable {m : Mgmt} (hnone : x.mgmtWait = none)
include hnone

/-- A request for sound pairs is granted: the answer, and the change behind it (R347). -/
theorem exec_widthReq_granted (hretrain : x.retrain = .none) (hpairs : m.pairs % 4 ≠ 0)
    (hsound : m.pairs % 4 &&& soundPairs (d.hLfail h) = m.pairs % 4) : exec (.widthReq h m) ⟨q, d⟩
      = .next ⟨q, (d.mgmtPut h mACK (m.pairs % 4)).mgmtPut h mSWITCH (m.pairs % 4)⟩ := by
  refine (State.upd_of_alive q ha ?_ : execWidthReq h m ⟨q, d⟩ = _)
  simp only [hup, hx, hnone, hretrain, hpairs, hsound, Bool.not_true, Bool.false_eq_true, ↓reduceIte, decide_false, bne_self_eq_false,
    Bool.or_self, Bool.false_and]

theorem exec_widthReq_refused (hbad : m.pairs % 4 = 0 ∨ m.pairs % 4 &&& soundPairs (d.hLfail h) ≠ m.pairs % 4) :
    exec (.widthReq h m) ⟨q, d⟩ = .next ⟨q, d.mgmtPut h mNAK (m.pairs % 4)⟩ := by
  have hrefuse : (decide (m.pairs % 4 = 0) || m.pairs % 4 &&& soundPairs (d.hLfail h) != m.pairs % 4) = true := by simpa using hbad
  refine (State.upd_of_alive q ha ?_ : execWidthReq h m ⟨q, d⟩ = _)
  simp only [hup, hx, hnone, hrefuse, Bool.not_true, Bool.false_eq_true, ↓reduceIte, Bool.true_or]

end

section
variable {m mq : Mgmt} (hwait : x.mgmtWait = some (mREQ, mq))
include hwait

theorem exec_widthAck_switches : exec (.widthAck h m) ⟨q, d⟩
    = .next ⟨q, (d.setHitch h { x with mgmtWait := none }).mgmtPut h mSWITCH mq.pairs⟩ := by
  refine (State.upd_of_alive q ha ?_ : execWidthAck h m ⟨q, d⟩ = _)
  simp only [hx, hwait, hup, Bool.not_true, ne_eq, not_true_eq_false, decide_false, Bool.or_self, Bool.false_eq_true, ↓reduceIte]

/-- A refusal ends the retrain at the width that is (R347), where none waits for its plane. -/
theorem exec_widthNak_up (hh : h < 32) (hquiet : d.noRetrainWaits = true) :
    ∃ t, exec (.widthNak h m) ⟨q, d⟩ = .next ⟨q, t⟩ ∧ t.hState h = hsUP ∧ t.hPairs h = d.hPairs h
      ∧ t.flag Reg.WHL_HBUSY h = false ∧ (t.hitch h).retrain = .none ∧ (t.hitch h).mgmtWait = none := by
  have hpstat : Reg.HCH_PSTAT h ≠ Reg.WHL_HBUSY := by unfold Reg.HCH_PSTAT Reg.WHL_HBUSY; omega
  have hown := d.hitch_retrainRefused h
  refine ⟨d.retrainRefused h, (State.upd_of_alive q ha ?_ : execWidthNak h m ⟨q, d⟩ = _), ?_, ?_, ?_, by rw [hown], by rw [hown]⟩
  · rw [← Dev.retrainNext_of_noRetrainWaits (p := h / 4) (by omega) (Dev.noRetrainWaits_retrainRefused hh hquiet)]
    unfold Dev.retrainRefused
    simp only [hx, hwait, hup, Bool.not_true, ne_eq, not_true_eq_false, decide_false, Bool.or_self, Bool.false_eq_true, ↓reduceIte,
      Dev.hPairs_setHitch, Dev.retrainOver]
  · refine (Dev.fld_congr (Dev.reg_retrainEnd _ _ hpstat) 0 3).trans ?_
    exact (Dev.hState_hEnter _ _ _ _).trans (Nat.mod_eq_of_lt (by decide))
  · refine (Dev.fld_congr (Dev.reg_retrainEnd _ _ hpstat) 6 2).trans ?_
    exact (Dev.hPairs_hEnter _ _ _ _).trans (Nat.mod_eq_of_lt (bits_lt _ _ _))
  · exact (Dev.flag_congr (Dev.reg_setHitch ..) h).trans (Dev.flag_setFlag_same _ _ _ (by omega))

end

/-- WIDTH_SWITCH leaves at the old width, and the Hitch transmits on the pairs asked, in RETRAIN (R343, Table 10-7). -/
theorem exec_linkFrameTransmit_switch {m : Mgmt} {ms : List (Nat × Mgmt)} {ps p : Nat} (hh : h < 32) (hwidth : d.hWidth h ≠ 0)
    (hwant : x.wantRetry = false) (hmgmt : x.mgmtOut = (mSWITCH, m) :: ms) (hask : x.retrain = .asking ps p) (hps : ps < 4) :
    ∃ t, exec (.linkFrameTransmit h) ⟨q, d⟩ = .next ⟨q, t⟩ ∧ t.hState h = hsRETRAIN ∧ t.hPairs h = ps
      ∧ t.hWidth h = pairsWidth ps ∧ (t.hitch h).retrain = .pair p false ∧ (t.hitch h).mgmtOut = ms ∧ t.log = d.log
      ∧ (t.hitch h).rxPairs = receives (d.hPairs h) x.rxPairs (m.pairs &&& soundPairs (d.hLfail h))
      ∧ t.outs = d.outs ++ [.frame h (frameLine (d.hWidth h)
          ⟨x.txSeq, x.rxLast, d.xoffOut h, .mgmt, 1, [mgmtFlit mSWITCH m]⟩)] := by
  obtain ⟨s, hs, hexec⟩ := exec_linkFrameTransmit_mgmt (q := q) ha hup hwidth hx hwant hmgmt
  have hsent := (d.setHitch h { x with mgmtOut := ms }).leavesHitch_sendFrame h
    ⟨x.txSeq, x.rxLast, d.xoffOut h, .mgmt, 1, [mgmtFlit mSWITCH m]⟩ h
  rw [← hs] at hsent
  have hrec : s.hitch h = { x with mgmtOut := ms } := hsent.hitch.trans (Dev.hitch_setHitch_same _ _ _)
  obtain ⟨t, ht, hlog, houts, hhitch⟩ := Dev.widthSent_asking (s := s) (h := h) (ps := ps) (p := p) (by rw [hrec]; exact hask) m.pairs
  rw [if_pos rfl, ht] at hexec
  rw [hrec, hsent.hPairs hh, hsent.hLfail hh, Dev.hPairs_setHitch, Dev.hLfail_setHitch] at hhitch
  refine ⟨_, hexec, ?_, ?_, Dev.hWidth_hEnter _ _ _ _, ?_, ?_, ?_, ?_, ?_⟩
  · exact (Dev.hState_hEnter _ _ _ _).trans (Nat.mod_eq_of_lt (by decide))
  · exact (Dev.hPairs_hEnter _ _ _ _).trans (Nat.mod_eq_of_lt hps)
  · rw [Dev.hitch_hEnter, hhitch]
  · rw [Dev.hitch_hEnter, hhitch]
  · rw [Dev.hEnter_log, hlog, hs, Dev.sendFrame_log, Dev.setHitch_log]
  · rw [Dev.hitch_hEnter, hhitch]
  · rw [Dev.hEnter_outs, houts, hs, Dev.sendFrame_outs _ _ _ (by rwa [Dev.hWidth_setHitch]), Dev.setHitch_outs, Dev.hWidth_setHitch]

/-- The partner's WIDTH_SWITCH moves the reception alone (R343). -/
theorem exec_widthSwitch_receives {m : Mgmt} {rx : Nat} (hrx : rx = m.pairs % 4 &&& soundPairs (d.hLfail h)) (hne : rx ≠ 0) :
    exec (.widthSwitch h m) ⟨q, d⟩ = .next ⟨q, d.setHitch h { x with rxPairs := if rx = d.hPairs h then 0 else rx }⟩ := by
  refine (State.upd_of_alive q ha ?_ : execWidthSwitch h m ⟨q, d⟩ = _)
  simp only [hup, hx, ← hrx, hne, Bool.not_true, decide_false, Bool.or_self, Bool.false_eq_true, ↓reduceIte]

end

theorem exec_symbolRateCheck_low (hlow : x.symMs ≤ d.fld Reg.WHL_HTHR 0 16 * 256) :
    exec (.symbolRateCheck h) ⟨q, d⟩ = .next ⟨q, d.setHitch h { x with symMs := 0 }⟩ := by
  refine (State.upd_of_alive q ha ?_ : execSymbolRateCheck h ⟨q, d⟩ = _)
  simp only [hx, Nat.not_lt.2 hlow, decide_false, Bool.and_false, Bool.false_and, Bool.false_eq_true, ↓reduceIte]

theorem exec_retrainPairTrained_restores {p : Nat} {b : Bool} (hpair : x.retrain = .pair p b) : exec (.retrainPairTrained h) ⟨q, d⟩
    = .next ⟨q, (d.setHitch h { x with retrain := .restoring p }).mgmtAsk h mREQ 3⟩ := by
  refine (State.upd_of_alive q ha ?_ : execRetrainPairTrained h ⟨q, d⟩ = _)
  simp only [hx, hpair]

theorem exec_retrainPairTimeout_again {p missed : Nat} (hpair : x.retrain = .pair p false) : exec (.retrainPairTimeout h missed) ⟨q, d⟩
    = .next ⟨q, (d.bump Reg.WHL_CNT_PAIRFAIL 1).setHitch h { x with retrain := .pair p true }⟩ := by
  refine (State.upd_of_alive q ha ?_ : execRetrainPairTimeout h missed ⟨q, d⟩ = _)
  simp only [hx, hpair]

section
variable (hh : h < 32) (hstate : d.hState h = hsUP) (hbusy : d.planeBusy (h / 4) = false) (hphase : d.phaseOn (h / 4) = false)
include hh hstate hbusy hphase

/-- Each event that makes a retrain due on a quiet plane, with schedules on, starts it from a device that has of the Hitch's messages,
of its failed lanes and of the log what there was. -/
theorem exec_retrain_starts {c : Instr} (hcfg : d.flag Reg.WHL_HCFG 0 = true)
    (hc : c = .hitchRetrainDue h ∧ x.deferred = 0
      ∨ c = .symbolRateCheck h ∧ x.deferred = 0 ∧ x.due = false ∧ d.fld Reg.WHL_HTHR 0 16 ≠ 0
          ∧ d.fld Reg.WHL_HTHR 0 16 * 256 < x.symMs
      ∨ c = .hitchRetrainDefer h ∧ x.deferred ≠ 0) :
    ∃ s : Dev, exec c ⟨q, d⟩ = .next ⟨q, s.retrainStart h⟩ ∧ s.reg Reg.HCH_CFG = d.reg Reg.HCH_CFG ∧ s.hLfail h = d.hLfail h
      ∧ (s.hitch h).mgmtOut = x.mgmtOut ∧ s.log = d.log := by
  rcases hc with ⟨rfl, hdefer⟩ | ⟨rfl, hdefer, hdue, hlim, hover⟩ | ⟨rfl, hdefer⟩
  · refine ⟨d, (State.upd_of_alive q ha ?_ : execHitchRetrainDue h ⟨q, d⟩ = _), rfl, rfl, by rw [hx], rfl⟩
    simp only [hx, hcfg, hdefer, Dev.flag_hbusy_of_not_planeBusy hbusy, decide_true, Bool.not_false, Bool.and_self, ↓reduceIte,
      Dev.retrainTry_of_quiet hstate hbusy hphase]
  · have hpstat : Reg.HCH_PSTAT h ≠ Reg.WHL_CNT_EARLY := by unfold Reg.HCH_PSTAT Reg.WHL_CNT_EARLY; omega
    have hstart := Dev.retrainTry_of_quiet (s := (d.setHitch h { x with symMs := 0 }).bump Reg.WHL_CNT_EARLY 1) (h := h)
      ((Dev.fld_bump_ne _ _ _ _ hpstat).trans ((Dev.hState_setHitch ..).trans hstate))
      ((Dev.planeBusy_congr ((Dev.reg_bump_ne _ _ (by decide)).trans (Dev.reg_setHitch ..)) _).trans hbusy) hphase
    refine ⟨(d.setHitch h { x with symMs := 0 }).bump Reg.WHL_CNT_EARLY 1,
      (State.upd_of_alive q ha ?_ : execSymbolRateCheck h ⟨q, d⟩ = _),
      (Dev.reg_bump_ne _ _ (by decide)).trans (Dev.reg_setHitch ..), (Dev.fld_bump_ne _ _ _ _ hpstat).trans (Dev.hLfail_setHitch ..),
      by rw [Dev.hitch_bump, Dev.hitch_setHitch_same], rfl⟩
    have hset : ∀ y, (d.setHitch h y).flag Reg.WHL_HCFG 0 = true := fun y => (Dev.flag_congr (Dev.reg_setHitch ..) 0).trans hcfg
    have hlimit : (d.fld Reg.WHL_HTHR 0 16 != 0) = true := by simpa using hlim
    rw [← hstart]
    simp only [hx, hset, hlimit, hover, Dev.hState_setHitch, hstate, hdefer, hdue, decide_true, beq_self_eq_true, Bool.not_false,
      Bool.and_self, ↓reduceIte]
  · have hpstat : Reg.HCH_PSTAT h ≠ Reg.WHL_HDEFER := by unfold Reg.HCH_PSTAT Reg.WHL_HDEFER; omega
    have hstart := Dev.retrainTry_of_quiet (s := (d.setFlag Reg.WHL_HDEFER h false).setHitch h { x with deferred := 0 }) (h := h)
      ((Dev.hState_setHitch ..).trans ((Dev.fld_setFld_ne _ _ _ _ _ _ hpstat).trans hstate))
      ((Dev.planeBusy_congr ((Dev.reg_setHitch ..).trans (Dev.reg_setFlag_ne _ _ _ (by decide))) _).trans hbusy) hphase
    refine ⟨(d.setFlag Reg.WHL_HDEFER h false).setHitch h { x with deferred := 0 },
      (State.upd_of_alive q ha ?_ : execHitchRetrainDefer h ⟨q, d⟩ = _),
      (Dev.reg_setHitch ..).trans (Dev.reg_setFlag_ne _ _ _ (by decide)),
      (Dev.hLfail_setHitch ..).trans (Dev.fld_setFld_ne _ _ _ _ _ _ hpstat), by rw [Dev.hitch_setHitch_same], rfl⟩
    simp only [hx, hdefer, hstate, hbusy, hphase, ne_eq, not_true_eq_false, Bool.not_false, Bool.or_true, ↓reduceIte,
      hstart]

end

end

/-- Settles O15, a message or an event of a retrain at a time; the frame of WIDTH_SWITCH is that of a management message, and what
changes behind it is said once for a width that was asked for. -/
theorem widthChangesAndRetraining : Obligations.WidthChangesAndRetraining := by
  unfold Obligations.WidthChangesAndRetraining
  intro q d h x ha hh hup hx
  refine ⟨fun m hnone hretrain hpairs hsound => exec_widthReq_granted ha hx hup hnone hretrain hpairs hsound,
    fun m hnone hbad => exec_widthReq_refused ha hx hup hnone hbad,
    fun m mq hwait => exec_widthAck_switches ha hx hup hwait, ?_,
    fun m mq hwait hquiet => exec_widthNak_up ha hx hup hwait hh hquiet,
    fun m rx hrx hne => exec_widthSwitch_receives ha hx hup hrx hne, ?_,
    exec_symbolRateCheck_low ha hx, fun p b hpair => exec_retrainPairTrained_restores ha hx hpair,
    fun p missed hpair => exec_retrainPairTimeout_again ha hx hpair⟩
  · intro m ms ps p old rx hwidth hwant hmgmt hask hps hold hrx
    subst hold hrx
    exact exec_linkFrameTransmit_switch ha hx hup hh hwidth hwant hmgmt hask hps
  · intro c hstate hbusy hphase hlfail hcfg hc
    obtain ⟨s, hexec, hsame, hsound, hmgmt, hlog⟩ := exec_retrain_starts (q := q) ha hx hh hstate hbusy hphase hcfg hc
    obtain ⟨hretrain, hflag, hhitch, hstartLog⟩ := Dev.retrainStart_of_sound hh (hsound.trans hlfail)
    refine ⟨_, hexec, hretrain, hflag, by rw [hhitch], by rw [hhitch], ?_, hstartLog.trans hlog⟩
    rw [hhitch, ← Dev.mgmtOf_congr hsame hsound, hmgmt]

end Sys2Proof.Machine
end

section
/-! The statement about training and the control of a Hitch (10_hitches.md): it fails at the end of a drain, where a retrain of another
Hitch of the plane waits. -/
namespace Sys2Proof.Machine

set_option Elab.async false

/-- A relayed carriage that Hitch 6 has taken and not begun; it waits on plane 1. -/
def takenRelay : TxCar := ⟨⟨⟨0, []⟩, 0, 0, false, 0, some 1, 0, some 2, false⟩, [0], false⟩

/-- A working device: Hitch 5, up at four lanes, drains; Hitch 6 of the same plane is up on pair 1 with a failed lane in pair 0, and a
retrain of it is due. The reachability table lies at the start of the Coach House, in a poisoned line that the host holds modified. -/
def drainBesideRetrain : Dev :=
  let s := (Dev.reset.setReg Reg.GRD_BOOTSTAT 0x105).setGrd fun g => { g with stage := .run }
  let s := s.setReg (Reg.HCH_PSTAT 5) (hsUP + 4 * 2 ^ 3 + 3 * 2 ^ 6)
  let s := s.setReg (Reg.HCH_PSTAT 6) (hsUP + 2 * 2 ^ 3 + 2 * 2 ^ 6 + 2 ^ 20)
  let s := ((s.setFlag Reg.STG_CFG 1 true).setReg Reg.STG_REACHBASE chBase).setLine (chAddr chBase) .poison
  let s := (s.setHitch 5 { Hitch.zero with drain := true }).setHitch 6 { Hitch.zero with due := true, txCars := [takenRelay] }
  s.setTiers fun t => { t with filter := [(chBase / 64, true)] }

/-- How many things the device has sent when a command has been answered. -/
def sentCount : Host.Outcome State Fault Refusal → Nat
  | .next s => s.dev.outs.length
  | _ => 0

theorem drainBesideRetrain_meets : drainBesideRetrain.alive = true ∧ drainBesideRetrain.hUp 5 = true
    ∧ (drainBesideRetrain.hitch 5).drain = true ∧ drainBesideRetrain.stg.queue = [] ∧ (drainBesideRetrain.hitch 5).txCars = []
    ∧ drainBesideRetrain.outs = [] := by decide +kernel

/-- Besides DOWN a snoop is sent. With Hitch 5 DISABLED the retrain of Hitch 6 starts, as a quiet one (R343): its carriage goes back to
its queue, no Hitch of plane 1 has a lane, and for the new plane of the carriage (R359) the selector reads the reachability entry,
which it first asks back from the host (R355, R446). -/
theorem sentCount_drainDone : sentCount (exec (.hitchDisableDrainDone 5) ⟨[], drainBesideRetrain⟩) = 2 := by decide +kernel

/-- Refutes O14: with no carriage in the buffer or on the draining Hitch, the end of its drain is to send DOWN alone; the retrain that
waited for the plane makes the device send a snoop too. -/
theorem not_trainingAndHitchControl : ¬ Obligations.TrainingAndHitchControl := by
  unfold Obligations.TrainingAndHitchControl
  intro h
  obtain ⟨halive, hup, hdrain, hqueue, hcars, houts⟩ := drainBesideRetrain_meets
  obtain ⟨-, -, -, -, -, -, -, hdone, -⟩ := h [] drainBesideRetrain 5 _ halive (by decide) rfl
  obtain ⟨t, hexec, -, hsent, -⟩ := hdone hup hdrain
  have htwo := sentCount_drainDone
  rw [hexec, sentCount, hsent hqueue hcars, houts] at htwo
  exact absurd htwo (by decide)

end Sys2Proof.Machine
end
section
/-! The Staging switch (11_staging_switch.md): what the operations of its buffer, of its selector and of its once-only records leave,
each said once. -/
namespace Sys2Proof.Machine

-- The short theorems below are elaborated one after another: side by side, their threads' stacks exceed the memory of the check.
set_option Elab.async false

/-- On a working device an event in which nothing has to wait is what its effect is. -/
theorem State.attempt_of_alive {d t : Dev} {f : Dev → Dev} (q : List Instr) (ha : d.alive = true) (hf : f d = t)
    (hstalls : t.tiers.stalls = d.tiers.stalls) : ((State.mk q d).upd fun s => s.attempt f) = .next ⟨q, t⟩ :=
  State.upd_of_alive q ha ((Dev.attempt_done d f (by rw [hf, hstalls])).trans hf)

/-! ### The buffer and the registers that follow it (R363, R366) -/

/-- The registers that follow the buffer. -/
def bufferShown : List Nat := [Reg.STG_BUFSTAT, Reg.STG_BUFLOW, Reg.STG_RESV]

theorem not_mem_bufferShown {k : Nat} (h : k < Reg.STG_BUFSTAT ∨ Reg.STG_RESV < k) : k ∉ bufferShown := by
  simp only [bufferShown, List.mem_cons, List.not_mem_nil, or_false]
  unfold Reg.STG_BUFSTAT Reg.STG_RESV at *
  unfold Reg.STG_BUFLOW
  omega

section
variable (s : Dev) (x : Staged)

theorem Dev.onlyRegs_stgSettle : s.OnlyRegs s.stgSettle bufferShown := by
  have hfree := (Dev.OnlyRegs.refl s bufferShown).write (off := Reg.STG_BUFSTAT)
    (setBits (s.reg Reg.STG_BUFSTAT) 0 17 (s.stgFree / 1024)) (by simp [bufferShown])
  unfold Dev.stgSettle
  dsimp only
  split
  · exact (hfree.write _ (by simp [bufferShown])).write _ (by simp [bufferShown])
  · exact hfree.write _ (by simp [bufferShown])

@[simp] theorem Dev.stgSettle_stg : s.stgSettle.stg = s.stg := s.onlyRegs_stgSettle.stg
@[simp] theorem Dev.stgSettle_log : s.stgSettle.log = s.log := s.onlyRegs_stgSettle.log
@[simp] theorem Dev.stgSettle_tiers : s.stgSettle.tiers = s.tiers := by rw [s.onlyRegs_stgSettle.1]
@[simp] theorem Dev.stgSettle_bad : s.stgSettle.bad = s.bad := by rw [s.onlyRegs_stgSettle.1]
@[simp] theorem Dev.hitch_stgSettle (g : Nat) : s.stgSettle.hitch g = s.hitch g := s.onlyRegs_stgSettle.hitch g

@[simp] theorem Dev.stgEnter_stg : (s.stgEnter x).stg = { s.stg with queue := s.stg.queue ++ [x] } := Dev.stgSettle_stg _
@[simp] theorem Dev.stgEnter_log : (s.stgEnter x).log = s.log := Dev.stgSettle_log _
@[simp] theorem Dev.stgEnter_tiers : (s.stgEnter x).tiers = s.tiers := Dev.stgSettle_tiers _
@[simp] theorem Dev.hitch_stgEnter (g : Nat) : (s.stgEnter x).hitch g = s.hitch g := Dev.hitch_stgSettle _ g
theorem Dev.reg_stgEnter {k : Nat} (hk : k ∉ bufferShown) : (s.stgEnter x).reg k = s.reg k := (Dev.onlyRegs_stgSettle _).2 k hk

@[simp] theorem Dev.stgLeave_stg : (s.stgLeave x).stg = { s.stg with queue := s.stg.queue.erase x } := Dev.stgSettle_stg _
@[simp] theorem Dev.stgLeave_log : (s.stgLeave x).log = s.log := Dev.stgSettle_log _
@[simp] theorem Dev.stgLeave_tiers : (s.stgLeave x).tiers = s.tiers := Dev.stgSettle_tiers _
@[simp] theorem Dev.hitch_stgLeave (g : Nat) : (s.stgLeave x).hitch g = s.hitch g := Dev.hitch_stgSettle _ g
theorem Dev.reg_stgLeave {k : Nat} (hk : k ∉ bufferShown) : (s.stgLeave x).reg k = s.reg k := (Dev.onlyRegs_stgSettle _).2 k hk

/-- A carriage delivered leaves the buffer for the inbox of its endpoint. -/
theorem Dev.deliver_stg : (s.deliver x).stg
    = { s.stg with inbox := s.stg.inbox ++ [(deliverTo x.car, x.car)], queue := s.stg.queue.erase x } := Dev.stgLeave_stg _ _
@[simp] theorem Dev.deliver_log : (s.deliver x).log = s.log := Dev.stgLeave_log _ _
@[simp] theorem Dev.deliver_tiers : (s.deliver x).tiers = s.tiers := Dev.stgLeave_tiers _ _
@[simp] theorem Dev.hitch_deliver (g : Nat) : (s.deliver x).hitch g = s.hitch g := Dev.hitch_stgLeave _ _ g
theorem Dev.reg_local_deliver : (s.deliver x).reg Reg.STG_CNT_LOCAL = (s.reg Reg.STG_CNT_LOCAL + 1) % 2 ^ 64 :=
  (Dev.reg_stgLeave _ _ (by decide)).trans (s.reg_bump_same _ _)

end

/-- A carriage that enters and leaves again leaves as many as there were. -/
theorem length_erase_append_self {α : Type} [BEq α] [LawfulBEq α] (l : List α) (x : α) : ((l ++ [x]).erase x).length = l.length := by
  rw [List.length_erase_of_mem (by simp)]
  simp

/-! ### Once-only records (Table 11-5) -/

/-- A carriage was counted in `cnt`, for endpoint `ep`, and recorded unless `seen` holds the endpoint; nothing of the buffer, of the
endpoints or of the Hitches changed. -/
structure Dev.Noted (s t : Dev) (cnt code detail ep : Nat) (seen : List Nat) : Prop where
  inbox : t.stg.inbox = s.stg.inbox
  queue : t.stg.queue = s.stg.queue
  waiting : t.stg.waiting = s.stg.waiting
  hitches : t.hitches = s.hitches
  tiers : t.tiers = s.tiers
  reg : ∀ k, k ≠ cnt → k < 0x1000000 → t.reg k = s.reg k
  count : t.reg cnt = (s.reg cnt + 1) % 2 ^ 64
  recorded : seen.contains ep = false → s.Recorded t clsFAB code detail 0 blkSTG 0
  silent : seen.contains ep = true → t.log = s.log

section
variable (s : Dev) (seen : List Nat) (code detail ep : Nat)

theorem Dev.once_of_seen (h : seen.contains ep = true) : s.once seen code detail ep = s := if_pos h

theorem Dev.once_of_new (h : seen.contains ep = false) : s.once seen code detail ep = s.record clsFAB code detail 0 blkSTG 0 :=
  if_neg (by rw [h]; decide)

@[simp] theorem Dev.once_stg : (s.once seen code detail ep).stg = s.stg := by
  unfold Dev.once
  split
  · rfl
  · exact Dev.record_stg ..

variable {s seen code detail ep}

theorem Dev.noted_once {cnt : Nat} (hcnt : cnt < 0x1000000) {u : Staging}
    (hu : u.inbox = s.stg.inbox ∧ u.queue = s.stg.queue ∧ u.waiting = s.stg.waiting) :
    s.Noted { (s.bump cnt 1).once seen code detail ep with stg := u } cnt code detail ep seen := by
  obtain ⟨hinbox, hqueue, hwaiting⟩ := hu
  cases hseen : seen.contains ep with
  | true =>
    rw [Dev.once_of_seen _ _ _ _ _ hseen]
    exact ⟨hinbox, hqueue, hwaiting, rfl, rfl, fun k hk _ => s.reg_bump_ne 1 hk, s.reg_bump_same cnt 1,
      fun h => absurd (hseen.symm.trans h) (by decide), fun _ => rfl⟩
  | false =>
    rw [Dev.once_of_new _ _ _ _ _ hseen]
    have hrec : s.Recorded ((s.bump cnt 1).record clsFAB code detail 0 blkSTG 0) clsFAB code detail 0 blkSTG 0 :=
      (Dev.recorded_record ..).from_congr rfl (fun k hk _ => s.reg_bump_ne 1 (by omega)) (by decide)
    exact ⟨hinbox, hqueue, hwaiting, Dev.record_hitches .., Dev.record_tiers ..,
      fun k hk hlow => (Dev.reg_record_lt _ _ _ _ _ _ _ hlow).trans (s.reg_bump_ne 1 hk),
      (Dev.reg_record_lt _ _ _ _ _ _ _ hcnt).trans (s.reg_bump_same cnt 1), fun _ => hrec.congr rfl rfl,
      fun h => absurd (hseen.symm.trans h) (by decide)⟩

variable (s ep) (c : Carriage)

theorem Dev.noted_noteCrc : s.Noted (s.noteCrc ep c) Reg.STG_CNT_CRC 0x010 (ep + c.src * 2 ^ 16) ep s.stg.onceCrc :=
  Dev.noted_once (by decide) (by simp)

theorem Dev.noted_noteMal : s.Noted (s.noteMal ep c) Reg.STG_CNT_MALFORMED 0x011 (ep + c.f 4 0 16 * 2 ^ 16) ep s.stg.onceMal :=
  Dev.noted_once (by decide) (by simp)

theorem Dev.noted_noteMis : s.Noted (s.noteMis ep c) Reg.STG_CNT_MISDELIV 0x012 (ep + c.relayed.toNat * 2 ^ 8 + c.dst * 2 ^ 16) ep
    s.stg.onceMis :=
  Dev.noted_once (by decide) (by simp)

theorem Dev.noted_noteNor (vc : Nat) : s.Noted (s.noteNor ep vc c) Reg.STG_CNT_NOROUTE 0x013 (ep + vc * 2 ^ 8 + c.dst * 2 ^ 16) ep
    s.stg.onceNor :=
  Dev.noted_once (by decide) (by simp)

end

/-! ### The plane selector (R354 to R357) -/

section
variable {s : Dev} {dst : Nat}

/-- An entry in a good line, of which the host holds none, is read with no more effect (R355, R446, R593). -/
theorem Dev.reachRead_of_reachGood (h : s.reachGood dst = true) : s.reachRead dst = s := by
  unfold Dev.reachGood at h
  unfold Dev.reachRead
  dsimp only at h ⊢
  split
  next hread =>
    simp only [Bool.and_eq_true] at hread
    simp only [hread.1, hread.2, Bool.not_true, Bool.false_or, Bool.and_eq_true, beq_iff_eq, List.isEmpty_iff] at h
    have hline : ∀ a, s.lineOf (chAddr a) = .good → (s.lineRead false 0 a (chAddr a)).1 = s := fun a ha => by
      unfold Dev.lineRead
      rw [ha]
    rw [hline _ h.1, Dev.snooped_of_filter_nil h.2]
  · rfl

theorem Dev.reachGood_congr {t : Dev} (hbase : t.reg Reg.STG_REACHBASE = s.reg Reg.STG_REACHBASE)
    (hcfg : t.reg Reg.STG_CFG = s.reg Reg.STG_CFG) (hbad : t.bad = s.bad) (htiers : t.tiers = s.tiers) :
    t.reachGood dst = s.reachGood dst := by
  unfold Dev.reachGood Dev.lineOf
  rw [hbase, Dev.flag_congr hcfg, hbad, htiers]

variable (s) (sel vc : Nat) (relay : Bool) (bar : Option Nat)

/-- The selector changes its counters alone. -/
theorem Dev.selPlane_fst : ∃ acc, (s.selPlane sel vc dst relay bar).1 = { s with stg := { s.stg with acc := acc } } := by
  have hkeep : ∀ {t : Dev} {p : Nat} {n : Int}, (∃ acc, t = { s with stg := { s.stg with acc := acc } }) →
      ∃ acc, t.setAcc sel p n = { s with stg := { s.stg with acc := acc } } := by
    rintro t p n ⟨acc, rfl⟩
    exact ⟨_, rfl⟩
  unfold Dev.selPlane
  dsimp only
  split
  · exact ⟨_, rfl⟩
  · exact hkeep (Dev.each_keeps (P := fun t => ∃ acc, t = { s with stg := { s.stg with acc := acc } }) ⟨_, rfl⟩ hkeep)

variable {s sel vc relay bar}

/-- Where it finds no plane it changes nothing. -/
theorem Dev.selPlane_fst_of_none (h : (s.selPlane sel vc dst relay bar).2 = none) : (s.selPlane sel vc dst relay bar).1 = s := by
  unfold Dev.selPlane at h ⊢
  dsimp only at h ⊢
  split at h
  next => rfl
  next => exact absurd h (by simp)

end

end Sys2Proof.Machine
end

section
/-! The statement about carriages that arrive (11_staging_switch.md, R361, R362, R365, Table 11-5): each outcome of one that has room in
the buffer, then the one that has none. -/
namespace Sys2Proof.Machine

set_option Elab.async false

/-! ### The carriage in the buffer -/

/-- The device with a carriage taken from the receive side of Hitch `h` into its buffer; `cs` are still to come. -/
def Dev.received (s : Dev) (h : Nat) (cs : List Carriage) (x : Staged) : Dev :=
  (s.setHitch h { s.hitch h with rxDone := cs }).stgEnter x

/-- What becomes of a carriage from Hitch `h` that is in the buffer (R361, R362). -/
def Dev.sorted (s : Dev) (h : Nat) (x : Staged) : Dev :=
  if !x.car.crcOk then (s.noteCrc h x.car).stgLeave x
  else if x.car.malformed then (s.noteMal h x.car).stgLeave x
  else
    let s := s.police h x.car.tc x.car.size x.vc
    if s.coordValid && x.car.dst = s.coord then s.deliver x
    else if s.coordValid && !x.car.relayed && s.flag Reg.STG_CFG 0 then s.rePlane x
    else (s.noteMis h x.car).stgLeave x

section
variable (d : Dev) (h : Nat) (cs : List Carriage) (x : Staged)

@[simp] theorem Dev.received_stg : (d.received h cs x).stg = { d.stg with queue := d.stg.queue ++ [x] } := Dev.stgEnter_stg _ _
@[simp] theorem Dev.received_log : (d.received h cs x).log = d.log := Dev.stgEnter_log _ _
@[simp] theorem Dev.received_tiers : (d.received h cs x).tiers = d.tiers := Dev.stgEnter_tiers _ _
@[simp] theorem Dev.received_bad : (d.received h cs x).bad = d.bad := by
  unfold Dev.received Dev.stgEnter
  rw [Dev.stgSettle_bad]
  rfl
@[simp] theorem Dev.rxDone_received : ((d.received h cs x).hitch h).rxDone = cs := by
  unfold Dev.received
  rw [Dev.hitch_stgEnter, Dev.hitch_setHitch_same]
theorem Dev.reg_received {k : Nat} (hk : k ∉ bufferShown) : (d.received h cs x).reg k = d.reg k := Dev.reg_stgEnter _ _ hk

theorem Dev.coordValid_received : (d.received h cs x).coordValid = d.coordValid := Dev.flag_congr (d.reg_received h cs x (by decide)) _
theorem Dev.coord_received : (d.received h cs x).coord = d.coord := Dev.fld_congr (d.reg_received h cs x (by decide)) _ _

variable {d h cs x}

/-- A carriage that was counted and dropped has left the device as it was but for the count and the record. -/
theorem Dev.Noted.dropped {t : Dev} {cnt code detail : Nat} {seen : List Nat}
    (hn : (d.received h cs x).Noted t cnt code detail h seen) (hout : cnt ∉ bufferShown) :
    (t.stgLeave x).stg.inbox = d.stg.inbox ∧ (t.stgLeave x).reg cnt = (d.reg cnt + 1) % 2 ^ 64
      ∧ (seen.contains h = false → d.Recorded (t.stgLeave x) clsFAB code detail 0 blkSTG 0)
      ∧ (seen.contains h = true → (t.stgLeave x).log = d.log)
      ∧ ((t.stgLeave x).hitch h).rxDone = cs ∧ (t.stgLeave x).stg.queue.length = d.stg.queue.length := by
  refine ⟨?_, ?_, fun hnew => ?_, fun hseen => ?_, ?_, ?_⟩
  · rw [Dev.stgLeave_stg, hn.inbox, Dev.received_stg]
  · rw [Dev.reg_stgLeave _ _ hout, hn.count, Dev.reg_received _ _ _ _ hout]
  · have hrec : d.Recorded t clsFAB code detail 0 blkSTG 0 := (hn.recorded hnew).from_congr (d.received_log h cs x)
      (fun k hk _ => d.reg_received h cs x (not_mem_bufferShown (.inr (by unfold Reg.STG_RESV; omega)))) (by decide)
    exact hrec.congr (Dev.stgLeave_log _ _) (Dev.reg_stgLeave _ _ (by decide))
  · rw [Dev.stgLeave_log, hn.silent hseen, Dev.received_log]
  · rw [Dev.hitch_stgLeave, Dev.hitch_congr hn.hitches, Dev.rxDone_received]
  · rw [Dev.stgLeave_stg, hn.queue, Dev.received_stg]
    exact length_erase_append_self _ _

end

/-! ### Its outcomes (R361, R362) -/

section
variable {s : Dev} {h : Nat} {x : Staged}

theorem Dev.police_of_disabled (hoff : s.policeEn = false) (h c b vc : Nat) : s.police h c b vc = s := by
  unfold Dev.police
  rw [hoff]
  rfl

theorem Dev.sorted_crc (hcrc : x.car.crcOk = false) : s.sorted h x = (s.noteCrc h x.car).stgLeave x := by
  unfold Dev.sorted
  simp [hcrc]

variable (hcrc : x.car.crcOk = true)
include hcrc

theorem Dev.sorted_malformed (hmal : x.car.malformed = true) : s.sorted h x = (s.noteMal h x.car).stgLeave x := by
  unfold Dev.sorted
  simp [hcrc, hmal]

variable (hmal : x.car.malformed = false) (hoff : s.policeEn = false)
include hmal hoff

theorem Dev.sorted_here (hvalid : s.coordValid = true) (hdst : x.car.dst = s.coord) : s.sorted h x = s.deliver x := by
  unfold Dev.sorted
  simp [hcrc, hmal, Dev.police_of_disabled hoff, hvalid, hdst]

theorem Dev.sorted_relay (hvalid : s.coordValid = true) (hdst : x.car.dst ≠ s.coord) (hrelayed : x.car.relayed = false)
    (hcfg : s.flag Reg.STG_CFG 0 = true) : s.sorted h x = s.rePlane x := by
  unfold Dev.sorted
  simp [hcrc, hmal, Dev.police_of_disabled hoff, hvalid, hdst, hrelayed, hcfg]

theorem Dev.sorted_misdelivered
    (hmis : s.coordValid = false ∨ x.car.dst ≠ s.coord ∧ (x.car.relayed = true ∨ s.flag Reg.STG_CFG 0 = false)) :
    s.sorted h x = (s.noteMis h x.car).stgLeave x := by
  unfold Dev.sorted
  obtain hvalid | ⟨hdst, hrelayed | hcfg⟩ := hmis
  · simp [hcrc, hmal, Dev.police_of_disabled hoff, hvalid]
  · simp [hcrc, hmal, Dev.police_of_disabled hoff, hdst, hrelayed]
  · simp [hcrc, hmal, Dev.police_of_disabled hoff, hdst, hcfg]

end

/-- The first element replaced is the last where no other is it. -/
theorem updFirst_append_self {α : Type} [DecidableEq α] {x : α} (f : α → α) : ∀ {l : List α}, x ∉ l →
    updFirst (fun z => decide (z = x)) f (l ++ [x]) = l ++ [f x]
  | [], _ => by simp [updFirst]
  | y :: l, hx => by
    have hne : y ≠ x := fun e => hx (by simp [e])
    have hl : x ∉ l := fun hmem => hx (by simp [hmem])
    simp [updFirst, hne, updFirst_append_self f hl]

/-- A relay in the buffer is given the plane that the selector finds for it, or none (R358, R361). -/
theorem Dev.rePlane_relay {s : Dev} {x : Staged} {a : Nat} (harr : x.arr = some a) (hvia : x.via = false)
    (hgood : s.reachGood x.car.dst = true) : ∃ acc, s.rePlane x = { s with stg := { s.stg with
      acc := acc
      queue := updFirst (fun z => decide (z = x))
        (fun _ => { x with plane := (s.selPlane x.sel x.car.vc x.car.dst true x.arr).2.map (·.1) }) s.stg.queue } } := by
  obtain ⟨acc, hacc⟩ := s.selPlane_fst (dst := x.car.dst) x.sel x.car.vc true x.arr
  unfold Dev.rePlane
  dsimp only
  rw [Dev.reachRead_of_reachGood hgood, harr] at *
  simp only [Option.isSome_some, ↓reduceIte]
  cases hsel : (s.selPlane x.sel x.car.vc x.car.dst true (some a)).2 with
  | none => exact ⟨s.stg.acc, by simp [hvia]⟩
  | some r => exact ⟨acc, by rw [hacc]; simp⟩

/-! ### No room (R365, Table 11-6) -/

/-- A record made from a state that differs from `s` neither in the log nor in the pointers and the counter of the class. -/
theorem Dev.Recorded.from_log_congr {s s' t : Dev} {cls code detail gen block inst : Nat}
    (h : s'.Recorded t cls code detail gen block inst) (hl : s'.log = s.log)
    (hr : ∀ k, k = Reg.ERR_TAIL ∨ k = Reg.ERR_HEAD ∨ k = Reg.ERR_CNT cls → s'.reg k = s.reg k) :
    s.Recorded t cls code detail gen block inst := by
  obtain ⟨hseq, hcount, hslot⟩ := h
  have htail := Dev.fld_congr (hr Reg.ERR_TAIL (.inl rfl)) 0 12
  have hhead := Dev.fld_congr (hr Reg.ERR_HEAD (.inr (.inl rfl))) 0 12
  unfold Dev.logFull at hslot
  rw [hl] at hseq hslot
  rw [htail, hhead] at hslot
  exact ⟨hseq, by rw [hcount, hr _ (.inr (.inr rfl))], hslot⟩

/-- A carriage of VC `vc` dropped for want of room: counted, and recorded the first time (R365). -/
def Dev.overrun (s : Dev) (h vc : Nat) : Dev :=
  let s1 := s.bump (Reg.HCH_CNT_OVERRUN h) 1
  if bit (s.hitch h).ovrRec vc then s1
  else (s1.setHitch h { s.hitch h with ovrRec := (s.hitch h).ovrRec + 2 ^ vc }).record clsFAB 0x005 (h + vc * 2 ^ 8) 0 blkHCH h

/-- The counter of a Hitch is no register of the log, whatever the number of the Hitch. -/
theorem ne_overrun_of_log {h k : Nat}
    (hk : k = Reg.ERR_TAIL ∨ k = Reg.ERR_HEAD ∨ k = Reg.ERR_CNT_DROP ∨ k = Reg.ERR_CNT clsFAB) : k ≠ Reg.HCH_CNT_OVERRUN h := by
  unfold Reg.ERR_TAIL Reg.ERR_HEAD Reg.ERR_CNT_DROP Reg.ERR_CNT clsFAB at hk
  unfold Reg.HCH_CNT_OVERRUN
  omega

section
variable (s : Dev) (h vc : Nat)

theorem Dev.overrun_of_new (hnew : bit (s.hitch h).ovrRec vc = false) :
    s.overrun h vc = ((s.bump (Reg.HCH_CNT_OVERRUN h) 1).setHitch h { s.hitch h with ovrRec := (s.hitch h).ovrRec + 2 ^ vc }).record
      clsFAB 0x005 (h + vc * 2 ^ 8) 0 blkHCH h :=
  if_neg (by rw [hnew]; decide)

@[simp] theorem Dev.overrun_tiers : (s.overrun h vc).tiers = s.tiers := by
  unfold Dev.overrun
  dsimp only
  split
  · rfl
  · exact Dev.record_tiers ..

@[simp] theorem Dev.overrun_stg : (s.overrun h vc).stg = s.stg := by
  unfold Dev.overrun
  dsimp only
  split
  · rfl
  · exact Dev.record_stg ..

theorem Dev.rxDone_overrun : ((s.overrun h vc).hitch h).rxDone = (s.hitch h).rxDone := by
  unfold Dev.overrun
  dsimp only
  split
  · rfl
  · rw [Dev.hitch_record, Dev.hitch_setHitch_same]

theorem Dev.reg_overrun : (s.overrun h vc).reg (Reg.HCH_CNT_OVERRUN h) = (s.reg (Reg.HCH_CNT_OVERRUN h) + 1) % 2 ^ 64 := by
  unfold Dev.overrun
  dsimp only
  split
  · exact Dev.reg_bump_same ..
  · rw [Dev.reg_record _ _ _ _ _ _ _ (ne_overrun_of_log (by simp)).symm (ne_overrun_of_log (by simp)).symm
      (ne_overrun_of_log (by simp)).symm, Dev.reg_setHitch, Dev.reg_bump_same]

theorem Dev.recorded_overrun (hnew : bit (s.hitch h).ovrRec vc = false) :
    s.Recorded (s.overrun h vc) clsFAB 0x005 (h + vc * 2 ^ 8) 0 blkHCH h := by
  rw [Dev.overrun_of_new _ _ _ hnew]
  exact (Dev.recorded_record ..).from_log_congr rfl fun k hk => Dev.reg_bump_ne s 1 (ne_overrun_of_log (by tauto))

end

/-! ### The commands -/

section
variable {q : List Instr} {d : Dev} {h vc : Nat} {c : Carriage} {cs : List Carriage} (ha : d.alive = true)
  (hrx : (d.hitch h).rxDone = c :: cs) (hvc : vc = if c.relayed then 5 else c.vc)
include ha hrx hvc

theorem exec_carriageArrival_room {t : Dev} {x : Staged} (hx : x = ⟨c, h, vc, !d.fits h vc c.size, 5, none, 5, some (h / 4), false⟩)
    (hroom : d.fits h vc c.size = true ∨ d.headUsed h vc + c.size ≤ d.stg.headKiB * 1024)
    (ht : (d.received h cs x).sorted h x = t) (hstalls : t.tiers.stalls = d.tiers.stalls) :
    exec (.carriageArrival h) ⟨q, d⟩ = .next ⟨q, t⟩ := by
  have hfull : ((!d.fits h vc c.size) && decide (d.stg.headKiB * 1024 < d.headUsed h vc + c.size)) = false := by
    obtain hfits | hhead := hroom
    · simp [hfits]
    · simp [Nat.not_lt.2 hhead]
  subst hvc hx
  refine (State.attempt_of_alive q ha (Eq.trans ?_ ht) hstalls : execCarriageArrival h ⟨q, d⟩ = _)
  dsimp only
  rw [hrx]
  exact if_neg (by rw [Bool.not_eq_true]; exact hfull)

/-- A carriage that is counted and dropped: of the statement's clauses on the CRC, the form and the destination, the common part. -/
theorem exec_carriageArrival_dropped {t : Dev} {x : Staged} {cnt code detail : Nat} {seen : List Nat}
    (hx : x = ⟨c, h, vc, !d.fits h vc c.size, 5, none, 5, some (h / 4), false⟩)
    (hroom : d.fits h vc c.size = true ∨ d.headUsed h vc + c.size ≤ d.stg.headKiB * 1024)
    (ht : (d.received h cs x).sorted h x = t.stgLeave x) (hn : (d.received h cs x).Noted t cnt code detail h seen)
    (hout : cnt ∉ bufferShown) :
    ∃ u, exec (.carriageArrival h) ⟨q, d⟩ = .next ⟨q, u⟩ ∧ u.stg.inbox = d.stg.inbox ∧ u.reg cnt = (d.reg cnt + 1) % 2 ^ 64
      ∧ (seen.contains h = false → d.Recorded u clsFAB code detail 0 blkSTG 0) ∧ (seen.contains h = true → u.log = d.log)
      ∧ (u.hitch h).rxDone = cs ∧ u.stg.queue.length = d.stg.queue.length :=
  ⟨t.stgLeave x, exec_carriageArrival_room ha hrx hvc hx hroom ht
    (by rw [Dev.stgLeave_tiers, hn.tiers, Dev.received_tiers]), hn.dropped hout⟩

theorem exec_carriageArrival_full (hfits : d.fits h vc c.size = false) (hhead : d.stg.headKiB * 1024 < d.headUsed h vc + c.size) :
    exec (.carriageArrival h) ⟨q, d⟩ = .next ⟨q, (d.setHitch h { d.hitch h with rxDone := cs }).overrun h vc⟩ := by
  have hstalls : ((d.setHitch h { d.hitch h with rxDone := cs }).overrun h vc).tiers.stalls = d.tiers.stalls := by
    rw [Dev.overrun_tiers, Dev.setHitch_tiers]
  have hfull : ((!d.fits h vc c.size) && decide (d.stg.headKiB * 1024 < d.headUsed h vc + c.size)) = true := by simp [hfits, hhead]
  refine (State.attempt_of_alive q ha ?_ hstalls : execCarriageArrival h ⟨q, d⟩ = _)
  subst hvc
  dsimp only
  rw [hrx]
  exact if_pos hfull

theorem exec_carriageArrival_relay {x : Staged} (hx : x = ⟨c, h, vc, !d.fits h vc c.size, 5, none, 5, some (h / 4), false⟩)
    (hroom : d.fits h vc c.size = true ∨ d.headUsed h vc + c.size ≤ d.stg.headKiB * 1024)
    (ht : (d.received h cs x).sorted h x = (d.received h cs x).rePlane x) (hgood : d.reachGood c.dst = true) (hnew : x ∉ d.stg.queue) :
    ∃ t, exec (.carriageArrival h) ⟨q, d⟩ = .next ⟨q, t⟩ ∧ t.stg.inbox = d.stg.inbox ∧ t.log = d.log
      ∧ t.stg.queue = d.stg.queue
          ++ [{ x with plane := ((d.received h cs x).selPlane 5 c.vc c.dst true (some (h / 4))).2.map (·.1) }]
      ∧ (t.hitch h).rxDone = cs := by
  have hgood' : (d.received h cs x).reachGood x.car.dst = true := by
    rw [Dev.reachGood_congr (d.reg_received h cs x (by decide)) (d.reg_received h cs x (by decide)) (Dev.received_bad ..)
      (Dev.received_tiers ..), hx]
    exact hgood
  obtain ⟨acc, hrelay⟩ := Dev.rePlane_relay (a := h / 4) (by rw [hx]) (by rw [hx]) hgood'
  refine ⟨_, exec_carriageArrival_room ha hrx hvc hx hroom (ht.trans hrelay) (by rw [Dev.received_tiers]), ?_, ?_, ?_, ?_⟩
  · rw [Dev.received_stg]
  · exact Dev.received_log ..
  · dsimp only
    rw [Dev.received_stg]
    dsimp only
    rw [updFirst_append_self _ hnew, hx]
  · exact Dev.rxDone_received ..

end

/-- Settles O9: each outcome is what the carriage in the buffer comes to; the headroom's overrun is the case that does not enter it. -/
theorem arrivingCarriages : Obligations.ArrivingCarriages := by
  unfold Obligations.ArrivingCarriages
  intro q d h vc c cs ha hrx hvc
  refine ⟨fun hroom hpolice => ?_, fun hfits hhead =>
    ⟨_, exec_carriageArrival_full ha hrx hvc hfits hhead, Dev.overrun_stg .., ?_, Dev.reg_overrun .., fun hnew => ?_⟩⟩
  rotate_left
  · rw [Dev.rxDone_overrun, Dev.hitch_setHitch_same]
  · refine Dev.Recorded.from_log_congr (Dev.recorded_overrun _ h vc ?_) rfl fun _ _ => rfl
    rw [Dev.hitch_setHitch_same]
    exact hnew
  obtain ⟨x, hx⟩ : ∃ x : Staged, x = ⟨c, h, vc, !d.fits h vc c.size, 5, none, 5, some (h / 4), false⟩ := ⟨_, rfl⟩
  have hcar : x.car = c := by rw [hx]
  have hoff : (d.received h cs x).policeEn = false := (Dev.flag_congr (d.reg_received h cs x (by decide)) _).trans hpolice
  have hvalid : (d.received h cs x).coordValid = d.coordValid := Dev.coordValid_received ..
  have hcoord : (d.received h cs x).coord = d.coord := Dev.coord_received ..
  have hcfg : (d.received h cs x).flag Reg.STG_CFG 0 = d.flag Reg.STG_CFG 0 :=
    Dev.flag_congr (d.reg_received h cs x (by decide)) _
  have hdropped {t : Dev} {cnt code detail : Nat} {seen : List Nat} :=
    exec_carriageArrival_dropped (q := q) (t := t) (cnt := cnt) (code := code) (detail := detail) (seen := seen) ha hrx hvc hx hroom
  subst hcar
  refine ⟨fun hcrc hmal hv hdst => ?_, fun hcrc => ?_, fun hcrc hmal => ?_, fun hcrc hmal hmis => ?_,
    fun y pick hcrc hmal hv hdst hrelayed hrelay hgood hy hnew hpick => ?_⟩
  · refine ⟨_, exec_carriageArrival_room ha hrx hvc hx hroom
      (Dev.sorted_here hcrc hmal hoff (hvalid.trans hv) (hdst.trans hcoord.symm)) (by simp), ?_, ?_, ?_, ?_, ?_⟩
    · rw [Dev.deliver_stg, Dev.received_stg]
    · rw [Dev.reg_local_deliver, Dev.reg_received _ _ _ _ (by decide)]
    · rw [Dev.deliver_log, Dev.received_log]
    · rw [Dev.hitch_deliver, Dev.rxDone_received]
    · rw [Dev.deliver_stg, Dev.received_stg]
      exact length_erase_append_self _ _
  · have hn := Dev.noted_noteCrc (d.received h cs x) h x.car
    rw [Dev.received_stg] at hn
    exact hdropped (Dev.sorted_crc hcrc) hn (by decide)
  · have hn := Dev.noted_noteMal (d.received h cs x) h x.car
    rw [Dev.received_stg] at hn
    obtain ⟨t, hexec, hinbox, hcount, hnew, -, hleft, hlength⟩ := hdropped (Dev.sorted_malformed hcrc hmal) hn (by decide)
    exact ⟨t, hexec, hinbox, hcount, hnew, hleft, hlength⟩
  · have hn := Dev.noted_noteMis (d.received h cs x) h x.car
    rw [Dev.received_stg] at hn
    obtain ⟨t, hexec, hinbox, hcount, hnew, -, hleft, hlength⟩ :=
      hdropped (Dev.sorted_misdelivered hcrc hmal hoff (by rw [hvalid, hcoord, hcfg]; exact hmis)) hn (by decide)
    exact ⟨t, hexec, hinbox, hcount, hnew, hleft, hlength⟩
  · obtain rfl : y = x := hy.trans hx.symm
    subst hpick
    exact exec_carriageArrival_relay ha hrx hvc hx hroom (Dev.sorted_relay hcrc hmal hoff (hvalid.trans hv)
      (by rw [hcoord]; exact hdst) hrelayed (hcfg.trans hrelay)) hgood hnew

end Sys2Proof.Machine
end

section
/-! The statement about local carriages (11_staging_switch.md, R351, R353, R357, R360, R365): what a carriage that is presented comes
to, then each command that presents one, and the one that gives it up. -/
namespace Sys2Proof.Machine

set_option Elab.async false

/-! ### PLANE written (R357) -/

/-- A field of a number in a word that holds the field. -/
theorem bits_toNat_ofNat (m x : Nat) {lo w : Nat} (h : lo + w ≤ m) : bits (BitVec.ofNat m x).toNat lo w = bits x lo w := by
  rw [BitVec.toNat_ofNat, bits_mod _ h]

/-- A write of a field of a header leaves a field beside it. -/
theorem lfield_hdrSet_ne (l : Line) {n lo w : Nat} (v : Nat) {n' lo' w' : Nat} (hin : 8 * n' + lo' + w' ≤ 512)
    (hne : 8 * n' + lo' + w' ≤ 8 * n + lo ∨ 8 * n + lo + w ≤ 8 * n' + lo') :
    lfield (hdrSet l n lo w v) n' lo' w' = lfield l n' lo' w' := by
  refine (bits_toNat_ofNat _ _ hin).trans ?_
  obtain hbelow | habove := hne
  · exact bits_setBits_below _ _ _ _ hbelow
  · exact bits_setBits_above _ _ _ _ habove

theorem vc_setPlane (c : Carriage) (p : Nat) : (c.setPlane p).vc = c.vc :=
  (lfield_hdrSet_ne _ _ (by omega) (by omega)).trans (lfield_hdrSet_ne _ _ (by omega) (by omega))

/-! ### The lists of the local endpoints -/

/-- The device with the carriages that its endpoints have formed, and those that wait, replaced. -/
def Dev.withLocal (s : Dev) (o : List Formed) (ws : List Waiting) : Dev := { s with stg := { s.stg with outbox := o, waiting := ws } }

section
variable (s : Dev) (o : List Formed) (ws : List Waiting)

/-- The selector does not look at them. -/
theorem Dev.selPlane_withLocal (sel vc dst : Nat) (relay : Bool) (bar : Option Nat) :
    ((s.withLocal o ws).selPlane sel vc dst relay bar).2 = (s.selPlane sel vc dst relay bar).2 := by
  have hcands : (s.withLocal o ws).planeCands sel vc dst relay bar = s.planeCands sel vc dst relay bar := rfl
  have hraised : ∀ ps : List Nat,
      ((s.withLocal o ws).each ps fun t p => t.setAcc sel p (t.accOf sel p + (t.planeWeight sel p : Nat)))
        = (s.each ps fun t p => t.setAcc sel p (t.accOf sel p + (t.planeWeight sel p : Nat))).withLocal o ws := fun ps =>
    List.foldl_hom (fun t : Dev => t.withLocal o ws) fun _ _ => rfl
  have hacc : ∀ t : Dev, (t.withLocal o ws).accOf sel = t.accOf sel := fun _ => rfl
  unfold Dev.selPlane
  rw [hcands]
  dsimp only
  rw [hraised, hacc]
  generalize bestPlane _ _ = best
  cases best <;> rfl

end

section
variable (s : Dev) (c : Carriage) (p : Nat)

/-- What the source learns of its plane is no matter of the switch. -/
theorem Dev.planeReport_switch : (s.planeReport c p).stg = s.stg ∧ (s.planeReport c p).tiers = s.tiers := by
  unfold Dev.planeReport
  dsimp only
  split_ifs <;> exact ⟨rfl, rfl⟩

end

/-! ### A carriage presented (R351, R353, R357, R360, R365) -/

section
variable {s : Dev} {w : Waiting}

theorem Dev.present_of_no_room (hroom : s.fits w.ep w.car.vc w.car.size = false) :
    s.present w = s.stgWait { w with noRoute := false } := by
  unfold Dev.present
  simp [hroom]

variable (hvalid : s.coordValid = true) (hroom : s.fits w.ep w.car.vc w.car.size = true)
include hvalid hroom

theorem Dev.present_here (hdst : w.car.dst = s.coord) :
    ∃ x : Staged, x.car = w.car.setPlane 0 ∧ s.present w = (s.stgEnter x).deliver x := by
  refine ⟨⟨w.car.setPlane 0, w.ep, w.car.vc, false, w.car.vc, none, w.car.vc, none, false⟩, rfl, ?_⟩
  unfold Dev.present
  simp [hvalid, hroom, hdst]

variable (hdst : w.car.dst ≠ s.coord) (hgood : s.reachGood w.car.dst = true)
include hdst hgood

/-- One that the selector finds a plane for enters the queue of that plane with it. -/
theorem Dev.present_routed {p : Nat} {via : Bool}
    (hsel : (s.selPlane w.car.vc w.car.vc w.car.dst false w.excl).2 = some (p, via)) :
    (s.present w).tiers = s.tiers ∧ ∃ acc, (s.present w).stg = { s.stg with
      acc := acc
      queue := s.stg.queue ++ [⟨w.car.setPlane p, w.ep, w.car.vc, false, w.car.vc, some p, w.car.vc, none, via⟩] } := by
  obtain ⟨acc, hacc⟩ := s.selPlane_fst (dst := w.car.dst) w.car.vc w.car.vc false w.excl
  have hpair : s.selPlane w.car.vc w.car.vc w.car.dst false w.excl
      = ({ s with stg := { s.stg with acc := acc } }, some (p, via)) := Prod.ext hacc hsel
  unfold Dev.present
  simp only [hvalid, hroom, hdst, Dev.reachRead_of_reachGood hgood, hpair, vc_setPlane, Bool.not_true, Bool.or_self,
    Bool.false_eq_true, ↓reduceIte]
  rw [(Dev.planeReport_switch ..).1, (Dev.planeReport_switch ..).2, Dev.stgEnter_stg, Dev.stgEnter_tiers]
  exact ⟨rfl, acc, rfl⟩

/-- One that it finds none for waits (R360). -/
theorem Dev.present_noRoute (hsel : (s.selPlane w.car.vc w.car.vc w.car.dst false w.excl).2 = none)
    (hany : (s.selPlane w.car.vc w.car.vc w.car.dst false none).2 = none) : s.present w = s.stgWait { w with noRoute := true } := by
  have hsame : (s.selPlane w.car.vc w.car.vc w.car.dst false none).1 = s := Dev.selPlane_fst_of_none hany
  have hpair : s.selPlane w.car.vc w.car.vc w.car.dst false none = (s, none) := Prod.ext hsame hany
  have hfirst : s.selPlane w.car.vc w.car.vc w.car.dst false w.excl = (s, none) := Prod.ext (Dev.selPlane_fst_of_none hsel) hsel
  unfold Dev.present
  simp only [hvalid, hroom, hdst, Dev.reachRead_of_reachGood hgood, hfirst, hpair, Bool.not_true, Bool.or_self,
    Bool.false_eq_true, ↓reduceIte]

end

/-! ### The commands that present one -/

section
variable {q : List Instr} {d : Dev} {e : Nat} (ha : d.alive = true)
include ha

section
variable {x : Formed} (hfind : d.stg.outbox.find? (fun x => x.ep == e) = some x)
include hfind

theorem exec_carriageSubmit_presents (hvalid : d.coordValid = true) {t : Dev}
    (ht : (d.withLocal (d.stg.outbox.erase x) d.stg.waiting).present ⟨x.car, e, x.excl, false⟩ = t) (htiers : t.tiers = d.tiers) :
    exec (.carriageSubmit e) ⟨q, d⟩ = .next ⟨q, t⟩ := by
  refine (State.attempt_of_alive q ha (Eq.trans ?_ ht) (by rw [htiers]) : execCarriageSubmit e ⟨q, d⟩ = _)
  dsimp only
  rw [hfind]
  exact if_neg (by rw [hvalid]; decide)

end

theorem exec_carriageSubmit_unplaced (hvalid : d.coordValid = false) : exec (.carriageSubmit e) ⟨q, d⟩ = .next ⟨q, d⟩ := by
  refine (State.attempt_of_alive q ha ?_ rfl : execCarriageSubmit e ⟨q, d⟩ = _)
  dsimp only
  split
  · rfl
  · exact if_pos (by rw [hvalid]; rfl)

section
variable {w : Waiting} (hvalid : d.coordValid = true)
include hvalid

theorem exec_localEntryRetry_presents
    (hfind : d.stg.waiting.find? (fun w => w.ep == e && !w.noRoute && d.fits e w.car.vc w.car.size) = some w) {t : Dev}
    (ht : (d.withLocal d.stg.outbox (d.stg.waiting.erase w)).present w = t) (htiers : t.tiers = d.tiers) :
    exec (.localEntryRetry e) ⟨q, d⟩ = .next ⟨q, t⟩ := by
  refine (State.attempt_of_alive q ha (Eq.trans ?_ ht) (by rw [htiers]) : execLocalEntryRetry e ⟨q, d⟩ = _)
  dsimp only
  rw [hfind]
  exact if_pos hvalid

/-- Where every carriage of the buffer has a plane, the one that waits for a plane alone asks again. -/
theorem exec_noRouteRetry_presents (hwaiting : d.stg.waiting = [w]) (hep : w.ep = e) (hnone : w.noRoute = true) {t : Dev}
    (ht : (d.withLocal d.stg.outbox []).present w = t) (htiers : t.tiers = d.tiers)
    (hplanes : ∀ x ∈ t.stg.queue, x.plane.isSome = true) : exec (.noRouteRetry e) ⟨q, d⟩ = .next ⟨q, t⟩ := by
  have hagain : ∀ u : Dev, u = t → (u.each (u.stg.queue.filter fun x => x.ep == e && x.plane == none) fun s x => s.rePlane x) = t := by
    rintro u rfl
    have hqueue : (u.stg.queue.filter fun x => x.ep == e && x.plane == none) = [] := by
      rw [List.filter_eq_nil_iff]
      intro x hx hmine
      have hsome := hplanes x hx
      simp only [Bool.and_eq_true, beq_iff_eq] at hmine
      rw [hmine.2] at hsome
      exact absurd hsome (by decide)
    rw [hqueue]
    rfl
  have hmine : (w.ep == e && w.noRoute) = true := by simp [hep, hnone]
  refine (State.attempt_of_alive q ha ?_ (by rw [htiers]) : execNoRouteRetry e ⟨q, d⟩ = _)
  simp only [hvalid, hwaiting, List.filter_cons, List.filter_nil, hmine, Bool.not_true, Bool.false_eq_true, ↓reduceIte]
  exact hagain _ ht

end

end

/-- What a carriage that is found to wait for space has. -/
theorem waiting_fits {d : Dev} {e : Nat} {w : Waiting} {ws : List Waiting}
    (hfind : ws.find? (fun w => w.ep == e && !w.noRoute && d.fits e w.car.vc w.car.size) = some w) :
    w.ep = e ∧ d.fits w.ep w.car.vc w.car.size = true := by
  have hw := List.find?_some hfind
  simp only [Bool.and_eq_true, beq_iff_eq] at hw
  obtain ⟨⟨rfl, -⟩, hfits⟩ := hw
  exact ⟨rfl, hfits⟩

/-! ### A carriage given up (R360) -/

section
variable {s : Dev}

/-- No lender of an entry that holds is `l`, where none of an entry at all is. -/
theorem Dev.lenderLost_of_no_entry {l : Nat} (h : ∀ k, k < 16 → s.fld (Reg.MMF_BORROW k) 0 16 ≠ l) (g : Nat) :
    s.lenderLost g (fun _ x => x == l) = s := by
  have hhit : ((List.range 16).filter fun k =>
      bit (s.reg (Reg.MMF_BORROW k)) 48 && !bit (s.reg (Reg.MMF_BORROW k)) 49 && bits (s.reg (Reg.MMF_BORROW k)) 0 16 == l) = [] := by
    rw [List.filter_eq_nil_iff]
    intro k hk hcontra
    simp only [Bool.and_eq_true, beq_iff_eq] at hcontra
    exact h k (List.mem_range.1 hk) hcontra.2
  unfold Dev.lenderLost
  dsimp only
  rw [hhit]
  rfl

theorem Dev.granted_any_of_no_entry {l : Nat} (h : ∀ k, k < 16 → s.fld (Reg.MMF_BORROW k) 0 16 ≠ l) (lost : Bool) :
    ((s.granted lost).any fun x => x.1 == l) = false := by
  rw [List.any_eq_false]
  intro x hx hcontra
  unfold Dev.granted at hx
  simp only [List.mem_filterMap, List.mem_map, List.mem_range] at hx
  obtain ⟨w, ⟨k, hk, rfl⟩, hw⟩ := hx
  split at hw
  · simp only [Option.some.injEq] at hw
    subst hw
    exact h k hk (eq_of_beq hcontra)
  · exact absurd hw (by simp)

/-- A carriage to no lender of this device is given up with its count and its record alone. -/
theorem Dev.norouteTimeout_of_no_lender {e : Nat} {c : Carriage} {t : Dev} (hgive : s.giveUp e = (t, some c))
    (h : ∀ k, k < 16 → t.fld (Reg.MMF_BORROW k) 0 16 ≠ c.dst) : s.norouteTimeout e = t := by
  unfold Dev.norouteTimeout
  rw [hgive]
  dsimp only
  rw [Dev.lenderLost_of_no_entry h, Dev.granted_any_of_no_entry h]
  split
  · split <;> rfl
  · rfl

end

section
variable {q : List Instr} {d : Dev} {e : Nat} {w : Waiting}

theorem exec_norouteTimeout_once (ha : d.alive = true) (hfind : d.stg.waiting.find? (fun w => w.ep == e && w.noRoute) = some w)
    (honce : d.stg.onceNor.contains e = false) (hlost : d.tiers.lost = [])
    (hborrow : ∀ k, k < 16 → d.fld (Reg.MMF_BORROW k) 0 16 ≠ w.car.dst) :
    ∃ t, exec (.norouteTimeout e) ⟨q, d⟩ = .next ⟨q, t⟩ ∧ t.stg.waiting = d.stg.waiting.erase w
      ∧ d.Recorded t clsFAB 0x013 (e + w.car.vc * 2 ^ 8 + w.car.dst * 2 ^ 16) 0 blkSTG 0
      ∧ t.reg Reg.STG_CNT_NOROUTE = (d.reg Reg.STG_CNT_NOROUTE + 1) % 2 ^ 64 := by
  have hn := Dev.noted_noteNor (d.withLocal d.stg.outbox (d.stg.waiting.erase w)) e w.car w.car.vc
  have hgive : d.giveUp e = ((d.withLocal d.stg.outbox (d.stg.waiting.erase w)).noteNor e w.car.vc w.car, some w.car) := by
    unfold Dev.giveUp
    rw [hfind]
    rfl
  have hkept : ∀ k, k < 16 → ((d.withLocal d.stg.outbox (d.stg.waiting.erase w)).noteNor e w.car.vc w.car).fld (Reg.MMF_BORROW k) 0 16
      ≠ w.car.dst := fun k hk => by
    rw [Dev.fld_congr (hn.reg _ (by unfold Reg.MMF_BORROW Reg.STG_CNT_NOROUTE; omega) (by unfold Reg.MMF_BORROW; omega))]
    exact hborrow k hk
  refine ⟨Dev.failLost _, (State.upd_of_alive q ha (congrArg Dev.failLost (Dev.norouteTimeout_of_no_lender hgive hkept)) :
    execNorouteTimeout e ⟨q, d⟩ = _), ?_⟩
  have hfail : ∀ t : Dev, t.tiers = d.tiers → t.failLost = t.setTiers fun x => { x with lost := [] } := fun t ht => by
    unfold Dev.failLost
    rw [ht, hlost]
    rfl
  rw [hfail _ hn.tiers]
  exact ⟨hn.waiting, (hn.recorded honce).congr rfl rfl, hn.count⟩

end

/-- Settles O10: a carriage presented is delivered, routed or made to wait, from the outbox as from the list of those that wait. -/
theorem localCarriagesEnterTheSwitch : Obligations.LocalCarriagesEnterTheSwitch := by
  unfold Obligations.LocalCarriagesEnterTheSwitch
  intro q d e ha
  refine ⟨fun x hvalid hfind => ⟨fun hfits hdst => ?_, fun p via hfits hdst hgood hsel => ?_, fun hfits hdst hgood hsel hany => ?_,
    fun hfits => ?_⟩, fun hvalid => exec_carriageSubmit_unplaced ha hvalid,
    fun w hvalid hfind => ⟨fun hdst => ?_, fun p via hdst hgood hsel => ?_⟩,
    fun w p via hvalid hwaiting hep hnone hplanes hfits hdst hgood hsel => ?_, fun w hfind honce hlost hborrow => ?_⟩
  · obtain ⟨y, hcar, hy⟩ := Dev.present_here (s := d.withLocal (d.stg.outbox.erase x) d.stg.waiting)
      (w := ⟨x.car, e, x.excl, false⟩) hvalid hfits hdst
    refine ⟨_, exec_carriageSubmit_presents ha hfind hvalid hy (by rw [Dev.deliver_tiers, Dev.stgEnter_tiers]; rfl), ?_, ?_, ?_⟩ <;>
      rw [Dev.deliver_stg, Dev.stgEnter_stg]
    · rw [hcar]
      rfl
    · rfl
    · rfl
  · obtain ⟨htiers, acc, hstg⟩ := Dev.present_routed (s := d.withLocal (d.stg.outbox.erase x) d.stg.waiting)
      (w := ⟨x.car, e, x.excl, false⟩) hvalid hfits hdst hgood ((Dev.selPlane_withLocal ..).trans hsel)
    refine ⟨_, exec_carriageSubmit_presents ha hfind hvalid rfl htiers, ?_, ?_, ?_⟩ <;> rw [hstg] <;> rfl
  · refine ⟨_, exec_carriageSubmit_presents ha hfind hvalid (Dev.present_noRoute hvalid hfits hdst hgood
      ((Dev.selPlane_withLocal ..).trans hsel) ((Dev.selPlane_withLocal ..).trans hany)) rfl, rfl, rfl, rfl⟩
  · exact exec_carriageSubmit_presents ha hfind hvalid (Dev.present_of_no_room hfits) rfl
  · obtain ⟨y, hcar, hy⟩ := Dev.present_here (s := d.withLocal d.stg.outbox (d.stg.waiting.erase w)) (w := w)
      hvalid (waiting_fits hfind).2 hdst
    refine ⟨_, exec_localEntryRetry_presents ha hvalid hfind hy (by rw [Dev.deliver_tiers, Dev.stgEnter_tiers]; rfl), ?_, ?_⟩ <;>
      rw [Dev.deliver_stg, Dev.stgEnter_stg]
    · rw [hcar]
      rfl
    · rfl
  · obtain ⟨hep, hfits⟩ := waiting_fits hfind
    obtain ⟨htiers, acc, hstg⟩ := Dev.present_routed (s := d.withLocal d.stg.outbox (d.stg.waiting.erase w)) (w := w)
      hvalid hfits hdst hgood ((Dev.selPlane_withLocal ..).trans hsel)
    refine ⟨_, exec_localEntryRetry_presents ha hvalid hfind rfl htiers, ?_, ?_⟩ <;> rw [hstg]
    · rfl
    · rw [hep]
      rfl
  · obtain ⟨htiers, acc, hstg⟩ := Dev.present_routed (s := d.withLocal d.stg.outbox []) (w := w)
      hvalid (hep ▸ hfits) hdst hgood ((Dev.selPlane_withLocal ..).trans hsel)
    refine ⟨_, exec_noRouteRetry_presents ha hvalid hwaiting hep hnone rfl htiers ?_, ?_, ?_⟩ <;> rw [hstg]
    · intro y hy
      obtain hold | hnew := List.mem_append.1 hy
      · exact List.all_eq_true.1 hplanes y hold
      · rw [List.mem_singleton.1 hnew]
        rfl
    · rfl
    · rw [hep]
      rfl
  · exact exec_norouteTimeout_once ha hfind honce hlost hborrow

end Sys2Proof.Machine
end

section
/-! The statement about the control of the Staging switch (11_staging_switch.md): it fails where the turn of a plane's round robin is on
a VC beyond the eight, a state that it does not rule out. -/
namespace Sys2Proof.Machine

set_option Elab.async false

/-- A carriage of 64 bytes that waits on plane 0 in the queue of VC8, which no carriage of the switch's own can. -/
def strayStaged : Staged := ⟨⟨0, []⟩, 42, 8, false, 8, some 0, 8, none, false⟩

/-- A working device: Hitch 0 is up at four lanes, the turn of plane 0 is on VC8, and the deficit of VC8 covers its head. -/
def strayTurn : Dev :=
  let s := (Dev.reset.setReg Reg.GRD_BOOTSTAT 0x105).setGrd fun g => { g with stage := .run }
  let s := s.setReg (Reg.HCH_PSTAT 0) (hsUP + 4 * 2 ^ 3)
  let s : Dev := { s with stg := { s.stg with queue := [strayStaged] } }
  (s.setTurn 0 8).setDeficit 0 8 64

/-- The deficit of VC8 of plane 0 when a command has been answered. -/
def strayDeficit : Host.Outcome State Fault Refusal → Option Int
  | .next s => some (s.dev.deficitOf 0 8)
  | _ => none

theorem strayTurn_up : strayTurn.alive = true ∧ strayTurn.hUp 0 = true ∧ strayTurn.hWidth 0 ≠ 0 ∧ (strayTurn.hitch 0).drain = false
    ∧ (strayTurn.hitch 0).retrain = .none ∧ ((strayTurn.hitch 0).txCars.map (·.flits.length)).sum < 20 := by decide +kernel

theorem strayTurn_may_start : strayTurn.headOf (0 / 4) 8 = some strayStaged ∧ strayTurn.eligible 0 8 = true
    ∧ strayTurn.eligible 0 6 = false ∧ strayTurn.eligible 0 7 = false ∧ strayTurn.turnOf (0 / 4) = 8
    ∧ strayTurn.deficitOf (0 / 4) 8 = 64 ∧ strayStaged.car.size = 64 := by decide +kernel

/-- The round robin serves VC8, whose deficit falls by the size of the carriage (R368). -/
theorem strayDeficit_start : strayDeficit (exec (.hitchCarriageStart 0) ⟨[], strayTurn⟩) = some 0 := by decide +kernel

/-- Refutes O11: for a VC from 6 on the statement has every deficit stay, meaning VC6 and VC7, which the round robin does not serve; but
it lets the turn be on any VC, and one beyond VC7 is served in its turn and pays for it. -/
theorem not_stagingSwitchControl : ¬ Obligations.StagingSwitchControl := by
  unfold Obligations.StagingSwitchControl
  intro h
  obtain ⟨halive, hup, hwidth, hdrain, hretrain, hflits⟩ := strayTurn_up
  obtain ⟨hhead, helig, hno6, hno7, hturn, hdeficit, hsize⟩ := strayTurn_may_start
  obtain ⟨hstart, -⟩ := h [] strayTurn halive
  have hcovers : ((strayStaged.car.size : Nat) : Int) ≤ strayTurn.deficitOf (0 / 4) 8 := by rw [hsize, hdeficit]; decide
  obtain ⟨t, hexec, -, -, hstays, -⟩ := hstart 0 strayStaged 8 8 _ hup hwidth hdrain hretrain hflits hhead helig hturn.symm rfl
    (.inr (.inr ⟨hno6, hno7, .inl ⟨rfl, hcovers⟩⟩))
  have hpaid := strayDeficit_start
  rw [hexec, strayDeficit, Option.some.injEq] at hpaid
  have hsame := hstays (by decide) 8
  rw [hdeficit] at hsame
  exact absurd (hpaid.symm.trans hsame) (by decide)

end Sys2Proof.Machine
end

section
/-! The Turnpike's shapers and policers (12_turnpike.md): what a refill does to the classes of its Hitch, when the writes of the
registers take effect (R374 to R376, R386 to R388). -/
namespace Sys2Proof.Machine

set_option Elab.async false

/-! ### A step for every element of a list -/

section
variable {α : Type} {s : Dev} {f : Dev → α → Dev} {l : List α}

/-- What a device has and the step of every element of the list keeps, it has after the run. -/
theorem Dev.each_keeps_of_mem {P : Dev → Prop} (h : P s) (hf : ∀ u, ∀ a ∈ l, P u → P (f u a)) : P (s.each l f) := by
  induction l generalizing s with
  | nil => exact h
  | cons a l ih => exact ih (hf s a (.head l) h) fun u b hb => hf u b (.tail a hb)

/-- What only the step of one element changes is, after the run, as that step leaves it. -/
theorem Dev.each_own {β : Type} {v : Dev → β} {g : β → β} {a : α} (hnodup : l.Nodup) (ha : a ∈ l)
    (hown : ∀ u, v (f u a) = g (v u)) (hother : ∀ u, ∀ b ∈ l, b ≠ a → v (f u b) = v u) : v (s.each l f) = g (v s) := by
  induction l generalizing s with
  | nil => exact absurd ha List.not_mem_nil
  | cons b l ih =>
    obtain ⟨hb, hl⟩ := List.nodup_cons.1 hnodup
    obtain rfl | hmem := List.mem_cons.1 ha
    · have hrest : v ((f s a).each l f) = v (f s a) :=
        Dev.each_keeps_of_mem (P := fun u => v u = v (f s a)) rfl fun u c hc hu =>
          (hother u c (.tail a hc) fun e => hb (e ▸ hc)).trans hu
      exact hrest.trans (hown s)
    · have hstep : v (f s b) = v s := hother s b (.head l) fun e => hb (e ▸ hmem)
      exact (ih hl hmem fun u c hc => hother u c (.tail b hc)).trans (congrArg g hstep)

end

/-! ### Two's complement -/

theorem toSigned_ofSigned_32 {x : Int} (hlo : -2 ^ 31 ≤ x) (hhi : x < 2 ^ 31) : toSigned 32 (ofSigned 32 x % 2 ^ 64) = x := by
  unfold toSigned ofSigned
  split <;> omega

theorem le_toSigned_32 (x : Nat) : -2 ^ 31 ≤ toSigned 32 x := by
  unfold toSigned
  split <;> omega

/-- A capacity is at most 255 KiB, so that a credit below it fits its register (R375). -/
theorem refillCredit_range (shape : Nat) {x : Int} (hx : -2 ^ 31 ≤ x) :
    -2 ^ 31 ≤ refillCredit shape x ∧ refillCredit shape x < 2 ^ 31 := by
  have hcap := bits_lt shape 16 8
  unfold refillCredit
  dsimp only
  split <;> omega

/-! ### The shaper of a class (R375, R376) -/

/-- What the shaper of a class of a Hitch holds: its register, the value in effect, and its credit. -/
structure Shaper where
  reg    : Nat
  eff    : Nat
  credit : Int

def Dev.shaper (s : Dev) (h c : Nat) : Shaper := ⟨s.reg (Reg.TPK_SHAPE h c), s.shapeEff h c, s.credit h c⟩

section
variable {s t : Dev} {h c : Nat}

theorem Dev.shapeEff_congr (hreg : t.reg (Reg.TPK_SHAPE h c) = s.reg (Reg.TPK_SHAPE h c))
    (hget : Sparse.get optDefault t.tpk.shape (8 * h + c) = Sparse.get optDefault s.tpk.shape (8 * h + c)) :
    t.shapeEff h c = s.shapeEff h c := by
  unfold Dev.shapeEff
  rw [hget, hreg]

theorem Dev.shaper_congr (hreg : t.reg (Reg.TPK_SHAPE h c) = s.reg (Reg.TPK_SHAPE h c))
    (hget : Sparse.get optDefault t.tpk.shape (8 * h + c) = Sparse.get optDefault s.tpk.shape (8 * h + c))
    (hcredit : t.reg (Reg.TPK_CREDIT h c) = s.reg (Reg.TPK_CREDIT h c)) : t.shaper h c = s.shaper h c := by
  have heff := Dev.shapeEff_congr hreg hget
  unfold Dev.shaper Dev.credit
  rw [heff, hreg, hcredit]

/-- The register of another class is written: the places of two classes are apart. -/
theorem Dev.shaper_setCredit_ne {h' c' : Nat} (x : Int) (hc : c < 8) (hc' : c' < 8) (hne : 8 * h + c ≠ 8 * h' + c') :
    (s.setCredit h' c' x).shaper h c = s.shaper h c :=
  Dev.shaper_congr (Dev.reg_setReg_ne _ _ (by unfold Reg.TPK_SHAPE Reg.TPK_CREDIT; omega)) rfl
    (Dev.reg_setReg_ne _ _ (by unfold Reg.TPK_CREDIT; omega))

theorem Dev.shaper_setCredit_same {x : Int} (hlo : -2 ^ 31 ≤ x) (hhi : x < 2 ^ 31) :
    (s.setCredit h c x).shaper h c = ⟨s.reg (Reg.TPK_SHAPE h c), s.shapeEff h c, x⟩ := by
  have hreg : (s.setCredit h c x).reg (Reg.TPK_SHAPE h c) = s.reg (Reg.TPK_SHAPE h c) :=
    Dev.reg_setReg_ne _ _ (by unfold Reg.TPK_SHAPE Reg.TPK_CREDIT; omega)
  have hcredit : (s.setCredit h c x).credit h c = x := by
    unfold Dev.credit Dev.setCredit
    rw [Dev.reg_setReg_same]
    exact toSigned_ofSigned_32 hlo hhi
  have heff : (s.setCredit h c x).shapeEff h c = s.shapeEff h c := Dev.shapeEff_congr hreg rfl
  unfold Dev.shaper
  rw [hreg, heff, hcredit]

end

/-- The shaper after a refill (R375, R376). -/
def Shaper.refilled (x : Shaper) : Shaper := ⟨x.reg, x.reg, refillCredit x.reg x.credit⟩

section
variable (s : Dev) {h c : Nat}

theorem Dev.shaper_shaperRefill (hc : c < 8) : (s.shaperRefill h).shaper h c = (s.shaper h c).refilled := by
  refine Dev.each_own (v := fun u => u.shaper h c) List.nodup_range (List.mem_range.2 hc) (fun u => ?_) fun u b hb hne => ?_
  · have hrange := refillCredit_range (u.reg (Reg.TPK_SHAPE h c)) (le_toSigned_32 (u.reg (Reg.TPK_CREDIT h c)))
    refine (Dev.shaper_setCredit_same hrange.1 hrange.2).trans ?_
    unfold Dev.shapeEff
    rw [Sparse.get_put_same]
    rfl
  · have hb := List.mem_range.1 hb
    exact (Dev.shaper_setCredit_ne _ hc hb (by omega)).trans
      (Dev.shaper_congr rfl (Sparse.get_put_ne optDefault _ none (by omega)) rfl)

theorem Dev.txFrames_shaperRefill : (s.shaperRefill h).tpk.txFrames = s.tpk.txFrames :=
  Dev.each_keeps (P := fun u => u.tpk.txFrames = s.tpk.txFrames) rfl fun hu => hu

theorem Dev.turnpikeOnly_shaperRefill : s.TurnpikeOnly (s.shaperRefill h) :=
  (Dev.TurnpikeOnly.refl s).each fun hu => (hu.tpk _).setReg (by unfold Reg.TPK_CREDIT; omega)

theorem Dev.regsBut_shaperRefill : s.RegsBut (s.shaperRefill h) ((List.range 8).map (Reg.TPK_CREDIT h)) :=
  Dev.each_keeps_of_mem (P := fun u => s.RegsBut u _) (Dev.RegsBut.refl s _) fun _ _ hc hu =>
    (hu.of_regs rfl).setReg _ (List.mem_map_of_mem hc)

end

/-! ### The policer of a class (R386 to R388) -/

/-- What the policer of a class of a Hitch holds: its register, the value in effect, its buckets, and whether a pause is in force. -/
structure Policer where
  reg    : Nat
  eff    : Nat
  tc     : Nat
  tp     : Nat
  paused : Bool

def Dev.policer (s : Dev) (h c : Nat) : Policer :=
  ⟨s.reg (Reg.TPK_POLICE h c), s.polEff h c, s.bucketC h c, s.bucketP h c, s.flag (Reg.TPK_PSTAT h) c⟩

/-- The buckets of a class set, and its pause judged by them: what a refill and the setting of POLICE_EN do. -/
def Dev.bucketsSettled (s : Dev) (h c x y : Nat) : Dev := (s.setBuckets h c x y).pauseSettle h c

section
variable (s : Dev) (h c : Nat)

theorem Dev.pauseSettle_frame :
    ∃ ps, (s.pauseSettle h c).tpk = { s.tpk with paused := ps } ∧ s.RegsBut (s.pauseSettle h c) [Reg.TPK_PSTAT h] := by
  unfold Dev.pauseSettle
  split
  · exact ⟨s.tpk.paused, rfl, Dev.RegsBut.refl s _⟩
  · exact ⟨_, rfl, ((Dev.RegsBut.refl s _).setFlag c false (by simp)).of_regs rfl⟩

/-- A pause stays in force while the peak bucket holds less than a full carriage (R387). -/
theorem Dev.paused_pauseSettle (hc : c < 64) :
    (s.pauseSettle h c).flag (Reg.TPK_PSTAT h) c = (s.flag (Reg.TPK_PSTAT h) c && decide (s.bucketP h c < 4160)) := by
  unfold Dev.pauseSettle
  split
  · next hlow => rw [decide_eq_true hlow, Bool.and_true]
  · next hfull =>
    rw [decide_eq_false hfull, Bool.and_false]
    exact Dev.flag_setFlag_same s _ false hc

theorem Dev.paused_pauseSettle_ne {h' c' : Nat} (hc' : c' < 8) (hne : 8 * h' + c' ≠ 8 * h + c) :
    (s.pauseSettle h c).flag (Reg.TPK_PSTAT h') c' = s.flag (Reg.TPK_PSTAT h') c' := by
  unfold Dev.pauseSettle
  split
  · rfl
  · by_cases hh : h' = h
    · subst hh
      exact Dev.flag_setFlag_bit s _ false (by omega) (by omega)
    · exact Dev.flag_setFlag_ne s _ _ false (by unfold Reg.TPK_PSTAT; omega)

variable (x y : Nat)

theorem Dev.bucketsSettled_tpk : ∃ ps, (s.bucketsSettled h c x y).tpk = { s.tpk with
    tc := Sparse.put natDefault s.tpk.tc (8 * h + c) x, tp := Sparse.put natDefault s.tpk.tp (8 * h + c) y, paused := ps } := by
  obtain ⟨ps, htpk, -⟩ := (s.setBuckets h c x y).pauseSettle_frame h c
  exact ⟨ps, htpk⟩

theorem Dev.regsBut_bucketsSettled : s.RegsBut (s.bucketsSettled h c x y) [Reg.TPK_PSTAT h] := by
  obtain ⟨-, -, hregs⟩ := (s.setBuckets h c x y).pauseSettle_frame h c
  exact hregs

theorem Dev.turnpikeOnly_bucketsSettled : s.TurnpikeOnly (s.bucketsSettled h c x y) := by
  have hset : s.TurnpikeOnly (s.setBuckets h c x y) := (Dev.TurnpikeOnly.refl s).tpk _
  unfold Dev.bucketsSettled Dev.pauseSettle
  split
  · exact hset
  · exact (hset.setReg (by unfold Reg.TPK_PSTAT; omega)).tpk _

end

section
variable {s t : Dev} {h c h' c' : Nat} {x y : Nat}

theorem Dev.polEff_congr (hreg : t.reg (Reg.TPK_POLICE h c) = s.reg (Reg.TPK_POLICE h c))
    (hget : Sparse.get optDefault t.tpk.police (8 * h + c) = Sparse.get optDefault s.tpk.police (8 * h + c)) :
    t.polEff h c = s.polEff h c := by
  unfold Dev.polEff
  rw [hget, hreg]

theorem Dev.police_bucketsSettled (hc : c < 8) :
    (s.bucketsSettled h' c' x y).reg (Reg.TPK_POLICE h c) = s.reg (Reg.TPK_POLICE h c)
      ∧ (s.bucketsSettled h' c' x y).polEff h c = s.polEff h c := by
  obtain ⟨ps, htpk⟩ := s.bucketsSettled_tpk h' c' x y
  have hreg := s.regsBut_bucketsSettled h' c' x y (Reg.TPK_POLICE h c)
    (by rw [List.mem_singleton]; unfold Reg.TPK_POLICE Reg.TPK_PSTAT; omega)
  exact ⟨hreg, Dev.polEff_congr hreg (by rw [htpk])⟩

theorem Dev.policer_bucketsSettled_same (hc : c < 8) : (s.bucketsSettled h c x y).policer h c
    = ⟨s.reg (Reg.TPK_POLICE h c), s.polEff h c, x, y, s.flag (Reg.TPK_PSTAT h) c && decide (y < 4160)⟩ := by
  obtain ⟨ps, htpk⟩ := s.bucketsSettled_tpk h c x y
  obtain ⟨hreg, heff⟩ := Dev.police_bucketsSettled (s := s) (h' := h) (c' := c) (x := x) (y := y) (h := h) hc
  have htc : (s.bucketsSettled h c x y).bucketC h c = x := by simp [Dev.bucketC, htpk]
  have htp : (s.bucketsSettled h c x y).bucketP h c = y := by simp [Dev.bucketP, htpk]
  have hset : (s.setBuckets h c x y).bucketP h c = y := Sparse.get_put_same ..
  have hpaused := (s.setBuckets h c x y).paused_pauseSettle h c (by omega)
  rw [hset] at hpaused
  unfold Dev.policer
  rw [hreg, heff, htc, htp]
  exact congrArg (Policer.mk _ _ _ _) hpaused

theorem Dev.policer_bucketsSettled_ne (hc : c < 8) (hne : 8 * h + c ≠ 8 * h' + c') :
    (s.bucketsSettled h' c' x y).policer h c = s.policer h c := by
  obtain ⟨ps, htpk⟩ := s.bucketsSettled_tpk h' c' x y
  obtain ⟨hreg, heff⟩ := Dev.police_bucketsSettled (s := s) (h' := h') (c' := c') (x := x) (y := y) (h := h) hc
  have htc : (s.bucketsSettled h' c' x y).bucketC h c = s.bucketC h c := by simp [Dev.bucketC, htpk, Sparse.get_put_ne _ _ _ hne]
  have htp : (s.bucketsSettled h' c' x y).bucketP h c = s.bucketP h c := by simp [Dev.bucketP, htpk, Sparse.get_put_ne _ _ _ hne]
  have hpaused := (s.setBuckets h' c' x y).paused_pauseSettle_ne h' c' hc hne
  unfold Dev.policer
  rw [hreg, heff, htc, htp]
  exact congrArg (Policer.mk _ _ _ _) hpaused

/-- The shapers do not look at the policers' buckets and pauses. -/
theorem Dev.shaper_bucketsSettled (hc : c < 8) : (s.bucketsSettled h' c' x y).shaper h c = s.shaper h c := by
  obtain ⟨ps, htpk⟩ := s.bucketsSettled_tpk h' c' x y
  have hregs := s.regsBut_bucketsSettled h' c' x y
  exact Dev.shaper_congr (hregs _ (by rw [List.mem_singleton]; unfold Reg.TPK_SHAPE Reg.TPK_PSTAT; omega)) (by rw [htpk])
    (hregs _ (by rw [List.mem_singleton]; unfold Reg.TPK_CREDIT Reg.TPK_PSTAT; omega))

end

/-- What was last written to the register of class `c` is in effect (R388). -/
def Dev.policeLatest (s : Dev) (h c : Nat) : Dev :=
  { s with tpk := { s.tpk with police := Sparse.put optDefault s.tpk.police (8 * h + c) none } }

section
variable (s : Dev) (h c : Nat)

theorem Dev.polEff_policeLatest : (s.policeLatest h c).polEff h c = s.reg (Reg.TPK_POLICE h c) := by
  unfold Dev.polEff Dev.policeLatest
  rw [Sparse.get_put_same]
  rfl

theorem Dev.policer_policeLatest_ne {h' c' : Nat} (hne : 8 * h' + c' ≠ 8 * h + c) :
    (s.policeLatest h c).policer h' c' = s.policer h' c' := by
  have heff : (s.policeLatest h c).polEff h' c' = s.polEff h' c' := Dev.polEff_congr rfl (Sparse.get_put_ne optDefault _ none hne)
  unfold Dev.policer
  rw [heff]
  rfl

end

/-- The policer after a refill (R386 to R388). -/
def Policer.refilled (x : Policer) : Policer :=
  ⟨x.reg, x.reg, min (bits x.reg 16 8 * 1024) (x.tc + 10 * bits x.reg 0 10),
    min (bits x.reg 48 8 * 1024) (x.tp + 10 * bits x.reg 32 10),
    x.paused && decide (min (bits x.reg 48 8 * 1024) (x.tp + 10 * bits x.reg 32 10) < 4160)⟩

section
variable (s : Dev) {h c : Nat}

theorem Dev.policer_policerRefill (hc : c < 8) : (s.policerRefill h).policer h c = (s.policer h c).refilled := by
  refine Dev.each_own (v := fun u => u.policer h c) List.nodup_range (List.mem_range.2 hc) (fun u => ?_) fun u b hb hne => ?_
  · exact (Dev.policer_bucketsSettled_same hc).trans (congrArg (fun e => Policer.mk _ e _ _ _) (u.polEff_policeLatest h c))
  · have hne : 8 * h + c ≠ 8 * h + b := by omega
    exact (Dev.policer_bucketsSettled_ne hc hne).trans (u.policer_policeLatest_ne h b hne)

theorem Dev.rxFrames_policerRefill : (s.policerRefill h).tpk.rxFrames = s.tpk.rxFrames :=
  Dev.each_keeps (P := fun u => u.tpk.rxFrames = s.tpk.rxFrames) rfl fun {u a} hu => by
    obtain ⟨ps, htpk⟩ := (u.policeLatest h a).bucketsSettled_tpk h a _ _
    exact (congrArg Turnpike.rxFrames htpk).trans hu

theorem Dev.turnpikeOnly_policerRefill : s.TurnpikeOnly (s.policerRefill h) :=
  (Dev.TurnpikeOnly.refl s).each fun hu => (hu.tpk _).trans (Dev.turnpikeOnly_bucketsSettled ..)

theorem Dev.regsBut_policerRefill : s.RegsBut (s.policerRefill h) [Reg.TPK_PSTAT h] :=
  Dev.each_keeps (P := fun u => s.RegsBut u _) (Dev.RegsBut.refl s _) fun hu k hk =>
    (Dev.regsBut_bucketsSettled _ _ _ _ _ k hk).trans (hu k hk)

end

/-! ### The rows of the two refills (R374) -/

section
variable (s : Dev) (h n : Nat)

theorem Dev.txCount_setTxCount : (s.setTxCount h n).txCount h = n := Sparse.get_put_same natDefault _ h n
theorem Dev.rxCount_setRxCount : (s.setRxCount h n).rxCount h = n := Sparse.get_put_same natDefault _ h n

end

section
variable {q : List Instr} {d : Dev} {h : Nat} (ha : d.alive = true)
include ha

theorem exec_shaperRefill_quiet (hquiet : d.hState h = hsRETRAIN ∧ d.hWidth h = 0) :
    exec (.shaperRefill h) ⟨q, d⟩ = .next ⟨q, d⟩ := by
  refine (State.upd_of_alive q ha ?_ : execShaperRefill h ⟨q, d⟩ = _)
  simp [Dev.shaperRow, hquiet]

variable (hh : h < 32)
include hh

theorem exec_shaperRefill_counted (hquiet : ¬ (d.hState h = hsRETRAIN ∧ d.hWidth h = 0)) : exec (.shaperRefill h) ⟨q, d⟩
    = .next ⟨q, if d.txCount h = 8 then d.setTxCount h 0 else (d.setTxCount h 0).shaperRefill h⟩ := by
  refine (State.upd_of_alive q ha ?_ : execShaperRefill h ⟨q, d⟩ = _)
  have hframes : (d.hState h == hsRETRAIN && d.hWidth h == 0) = false := by simpa using hquiet
  unfold Dev.shaperRow
  rw [hframes, if_neg (by simpa using hh)]

theorem exec_policerRefill_counted : exec (.policerRefill h) ⟨q, d⟩
    = .next ⟨q, if d.rxCount h = 8 then d.setRxCount h 0 else (d.setRxCount h 0).policerRefill h⟩ := by
  refine (State.upd_of_alive q ha ?_ : execPolicerRefill h ⟨q, d⟩ = _)
  rw [if_neg (Nat.not_le.2 hh)]

end

/-- Settles O5: the row does what the frames counted leave to it, and a refill does to the shaper and the policer of each class what
`Shaper.refilled` and `Policer.refilled` say. -/
theorem shaperAndPolicerRefill : Obligations.ShaperAndPolicerRefill := by
  unfold Obligations.ShaperAndPolicerRefill
  intro q d h ha hh
  refine ⟨exec_shaperRefill_quiet ha, fun hquiet hcount => ?_, fun hcount => ?_, fun hquiet hcount => ?_, fun hcount => ?_⟩
  · rw [exec_shaperRefill_counted ha hh hquiet, if_pos hcount]
  · rw [exec_policerRefill_counted ha hh, if_pos hcount]
  · have hexec := exec_shaperRefill_counted (q := q) ha hh hquiet
    rw [if_neg hcount] at hexec
    have honly := (d.setTxCount h 0).turnpikeOnly_shaperRefill (h := h)
    refine ⟨_, hexec, ?_, fun c hc => ?_, fun k hk => (d.setTxCount h 0).regsBut_shaperRefill k hk, honly.log, honly.mem, honly.outs⟩
    · exact (congrArg (Sparse.get natDefault · h) (Dev.txFrames_shaperRefill _)).trans (d.txCount_setTxCount h 0)
    · have hshaper := (d.setTxCount h 0).shaper_shaperRefill (h := h) hc
      have hcredit : ((d.setTxCount h 0).shaperRefill h).credit h c = refillCredit (d.reg (Reg.TPK_SHAPE h c)) (d.credit h c) :=
        congrArg Shaper.credit hshaper
      exact ⟨congrArg Shaper.eff hshaper, fun hrate => hcredit.trans (if_pos hrate), fun hrate => hcredit.trans (if_neg hrate)⟩
  · have hexec := exec_policerRefill_counted (q := q) ha hh
    rw [if_neg hcount] at hexec
    have honly := (d.setRxCount h 0).turnpikeOnly_policerRefill (h := h)
    refine ⟨_, hexec, ?_, fun c hc => ?_, fun k hk => (d.setRxCount h 0).regsBut_policerRefill k hk, honly.log, honly.mem, honly.outs⟩
    · exact (congrArg (Sparse.get natDefault · h) (Dev.rxFrames_policerRefill _)).trans (d.rxCount_setRxCount h 0)
    · have hpolicer := (d.setRxCount h 0).policer_policerRefill (h := h) hc
      have htp := congrArg Policer.tp hpolicer
      refine ⟨congrArg Policer.eff hpolicer, congrArg Policer.tc hpolicer, htp, (congrArg Policer.paused hpolicer).trans ?_⟩
      exact congrArg (fun n => d.flag (Reg.TPK_PSTAT h) c && decide (n < 4160)) htp.symm

end Sys2Proof.Machine
end

section
/-! The writes of TPK_SHAPE, TPK_POLICE and TPK_CFG (12_turnpike.md). -/
namespace Sys2Proof.Machine

set_option Elab.async false

/-! ### The write of a register leaves the Turnpike's own tables -/

@[simp] theorem Dev.putReg_tpk (s : Dev) (off v : Nat) : (s.putReg off v).tpk = s.tpk := by
  unfold Dev.putReg
  split
  · rfl
  · split <;> rfl

@[simp] theorem Dev.regWrite_tpk (s : Dev) (ag : Agent) (off v : Nat) : (s.regWrite ag off v).tpk = s.tpk := by
  unfold Dev.regWrite
  split
  · rfl
  · dsimp only
    split
    · exact Dev.record_tpk ..
    · split <;> split <;> simp

/-! ### TPK_SHAPE and TPK_POLICE (R376, R388) -/

section
variable {q : List Instr} {d : Dev} (ha : d.alive = true) {h c : Nat} (hh : h < 32) (hc : c < 8)
include ha hh hc

theorem exec_tpkShapeWrite (v : Word32) : ∃ t, exec (.tpkShapeWrite h c v) ⟨q, d⟩ = .next ⟨q, t⟩
    ∧ t = { d.regWrite .host (Reg.TPK_SHAPE h c) v.toNat with tpk := t.tpk } ∧ t.shapeEff h c = d.shapeEff h c
    ∧ t.tpk = { d.tpk with shape := t.tpk.shape } := by
  refine ⟨_, (State.upd_of_alive q ha (if_neg (by simp [hh, hc])) : execTpkShapeWrite h c v ⟨q, d⟩ = _), rfl, ?_, ?_⟩
  · unfold Dev.shapeEff
    dsimp only
    rw [Sparse.get_put_same]
  · dsimp only
    rw [Dev.regWrite_tpk]

theorem exec_tpkPoliceWrite (v : Word64) : ∃ t, exec (.tpkPoliceWrite h c v) ⟨q, d⟩ = .next ⟨q, t⟩
    ∧ t = { d.regWrite .host (Reg.TPK_POLICE h c) v.toNat with tpk := t.tpk } ∧ t.polEff h c = d.polEff h c
    ∧ t.tpk = { d.tpk with police := t.tpk.police } := by
  refine ⟨_, (State.upd_of_alive q ha (if_neg (by simp [hh, hc])) : execTpkPoliceWrite h c v ⟨q, d⟩ = _), rfl, ?_, ?_⟩
  · unfold Dev.polEff
    dsimp only
    rw [Sparse.get_put_same]
  · dsimp only
    rw [Dev.regWrite_tpk]

end

/-! ### TPK_CFG (R375, R386) -/

/-- Every class of every Hitch, as TPK_CFG_WRITE runs through them. -/
def tpkClasses : List (Nat × Nat) := (List.range 32).flatMap fun h => (List.range 8).map fun c => (h, c)

theorem mem_tpkClasses {p : Nat × Nat} : p ∈ tpkClasses ↔ p.1 < 32 ∧ p.2 < 8 := by
  obtain ⟨h, c⟩ := p
  simp [tpkClasses]

theorem nodup_tpkClasses : tpkClasses.Nodup :=
  List.Nodup.product (l₁ := List.range 32) (l₂ := List.range 8) List.nodup_range List.nodup_range

/-- Two classes that are not the same lie apart in the tables of the Turnpike. -/
theorem tpkClasses_apart {p r : Nat × Nat} (hp : p ∈ tpkClasses) (hr : r ∈ tpkClasses) (hne : r ≠ p) :
    8 * p.1 + p.2 ≠ 8 * r.1 + r.2 := by
  obtain ⟨-, hp⟩ := mem_tpkClasses.1 hp
  obtain ⟨-, hr⟩ := mem_tpkClasses.1 hr
  exact fun e => hne (Prod.ext (by omega) (by omega))

/-- Every credit at its capacity, as the setting of SHAPE_EN leaves them. -/
def Dev.creditsFilled (s : Dev) : Dev :=
  s.each tpkClasses fun t p => t.setCredit p.1 p.2 ((bits (t.shapeEff p.1 p.2) 16 8 * 1024 : Nat) : Int)

/-- Every bucket at its capacity, as the setting of POLICE_EN leaves them. -/
def Dev.bucketsFilled (s : Dev) : Dev :=
  s.each tpkClasses fun t p =>
    t.bucketsSettled p.1 p.2 (bits (t.polEff p.1 p.2) 16 8 * 1024) (bits (t.polEff p.1 p.2) 48 8 * 1024)

def Shaper.filled (x : Shaper) : Shaper := ⟨x.reg, x.eff, (bits x.eff 16 8 * 1024 : Nat)⟩

def Policer.filled (x : Policer) : Policer :=
  ⟨x.reg, x.eff, bits x.eff 16 8 * 1024, bits x.eff 48 8 * 1024, x.paused && decide (bits x.eff 48 8 * 1024 < 4160)⟩

section
variable (s : Dev) {h c : Nat}

theorem Dev.shaper_creditsFilled (hh : h < 32) (hc : c < 8) : s.creditsFilled.shaper h c = (s.shaper h c).filled := by
  have hmem : (h, c) ∈ tpkClasses := mem_tpkClasses.2 ⟨hh, hc⟩
  refine Dev.each_own (v := fun u => u.shaper h c) nodup_tpkClasses hmem (fun u => ?_) fun u p hp hne => ?_
  · have hcap := bits_lt (u.shapeEff h c) 16 8
    have hrange : (-2 ^ 31 : Int) ≤ (bits (u.shapeEff h c) 16 8 * 1024 : Nat)
        ∧ ((bits (u.shapeEff h c) 16 8 * 1024 : Nat) : Int) < 2 ^ 31 := by omega
    exact Dev.shaper_setCredit_same hrange.1 hrange.2
  · exact Dev.shaper_setCredit_ne _ hc (mem_tpkClasses.1 hp).2 (tpkClasses_apart hmem hp hne)

theorem Dev.policer_bucketsFilled (hh : h < 32) (hc : c < 8) : s.bucketsFilled.policer h c = (s.policer h c).filled := by
  have hmem : (h, c) ∈ tpkClasses := mem_tpkClasses.2 ⟨hh, hc⟩
  exact Dev.each_own (v := fun u => u.policer h c) nodup_tpkClasses hmem (fun u => Dev.policer_bucketsSettled_same hc)
    fun u p hp hne => Dev.policer_bucketsSettled_ne hc (tpkClasses_apart hmem hp hne)

/-- The buckets do not touch the credits. -/
theorem Dev.shaper_bucketsFilled (hc : c < 8) : s.bucketsFilled.shaper h c = s.shaper h c :=
  Dev.each_same (fun u => u.shaper h c) (fun _ _ => Dev.shaper_bucketsSettled hc) _ s

/-- The credits do not touch the policers' registers. -/
theorem Dev.polEff_creditsFilled (hc : c < 8) : s.creditsFilled.polEff h c = s.polEff h c :=
  Dev.each_keeps_of_mem (P := fun u => u.polEff h c = s.polEff h c) rfl fun u p hp hu => by
    obtain ⟨-, hp⟩ := mem_tpkClasses.1 hp
    have hreg : ∀ x, (u.setCredit p.1 p.2 x).reg (Reg.TPK_POLICE h c) = u.reg (Reg.TPK_POLICE h c) := fun x =>
      Dev.reg_setReg_ne _ _ (by unfold Reg.TPK_POLICE Reg.TPK_CREDIT; omega)
    exact (Dev.polEff_congr (hreg _) rfl).trans hu

theorem Dev.cfg_creditsFilled : s.creditsFilled.reg Reg.TPK_CFG = s.reg Reg.TPK_CFG :=
  Dev.each_same (fun u => u.reg Reg.TPK_CFG) (fun _ _ => Dev.reg_setReg_ne _ _ (by unfold Reg.TPK_CFG Reg.TPK_CREDIT; omega)) _ s

theorem Dev.cfg_bucketsFilled : s.bucketsFilled.reg Reg.TPK_CFG = s.reg Reg.TPK_CFG :=
  Dev.each_same (fun u => u.reg Reg.TPK_CFG) (fun u _ => u.regsBut_bucketsSettled _ _ _ _ _
    (by rw [List.mem_singleton]; unfold Reg.TPK_CFG Reg.TPK_PSTAT; omega)) _ s

end

section
variable (q : List Instr) {d : Dev} (v : Word32)

/-- TPK_CFG has no reserved encoding and no field of the Guard: its enables take the bits written, and nothing else changes (R15). -/
theorem Dev.regWrite_tpkCfg : d.OnlyRegs (d.regWrite .host Reg.TPK_CFG v.toNat) [Reg.TPK_CFG]
    ∧ (d.regWrite .host Reg.TPK_CFG v.toNat).shapeEn = bit v.toNat 0
    ∧ (d.regWrite .host Reg.TPK_CFG v.toNat).policeEn = bit v.toNat 1 := by
  obtain ⟨r, hrow, hshape, hpolice, hgw⟩ : ∃ r, findRow Reg.TPK_CFG = some r ∧ bits r.rw 0 1 = 2 ^ 1 - 1 ∧ bits r.rw 1 1 = 2 ^ 1 - 1
      ∧ r.gw = 0 := ⟨_, rfl, rfl, rfl, rfl⟩
  obtain ⟨honly, hreg⟩ := Dev.regWrite_host (v := v.toNat) (by decide) hrow hgw (rfl : regReserved d.express Reg.TPK_CFG _ = false)
  have hflag : ∀ i, i < 64 → bits r.rw i 1 = 2 ^ 1 - 1 →
      (d.regWrite .host Reg.TPK_CFG v.toNat).flag Reg.TPK_CFG i = bit v.toNat i := fun i hi hrw => by
    unfold Dev.flag
    rw [hreg, bit_eq_bits, bit_eq_bits, bits_mod _ (by omega), bits_mergeWrite hrw]
  exact ⟨honly, hflag 0 (by decide) hshape, hflag 1 (by decide) hpolice⟩

/-- The write itself leaves what the shapers and the policers have in effect. -/
theorem Dev.inEffect_regWrite_tpkCfg (h c : Nat) : (d.regWrite .host Reg.TPK_CFG v.toNat).shapeEff h c = d.shapeEff h c
    ∧ (d.regWrite .host Reg.TPK_CFG v.toNat).polEff h c = d.polEff h c := by
  obtain ⟨⟨-, hregs⟩, -, -⟩ := Dev.regWrite_tpkCfg (d := d) v
  have htpk := d.regWrite_tpk .host Reg.TPK_CFG v.toNat
  have hshape := hregs (Reg.TPK_SHAPE h c) (by rw [List.mem_singleton]; unfold Reg.TPK_SHAPE Reg.TPK_CFG; omega)
  have hpolice := hregs (Reg.TPK_POLICE h c) (by rw [List.mem_singleton]; unfold Reg.TPK_POLICE Reg.TPK_CFG; omega)
  exact ⟨Dev.shapeEff_congr hshape (by rw [htpk]), Dev.polEff_congr hpolice (by rw [htpk])⟩

/-- The credits fill where the write sets SHAPE_EN, the buckets where it sets POLICE_EN. -/
theorem exec_tpkCfgWrite (ha : d.alive = true) {t u : Dev}
    (ht : t = if (bit v.toNat 0 && !d.shapeEn) = true then (d.regWrite .host Reg.TPK_CFG v.toNat).creditsFilled
      else d.regWrite .host Reg.TPK_CFG v.toNat)
    (hu : u = if (bit v.toNat 1 && !d.policeEn) = true then t.bucketsFilled else t) :
    exec (.tpkCfgWrite v) ⟨q, d⟩ = .next ⟨q, u⟩ := by
  obtain ⟨-, hshape, hpolice⟩ := Dev.regWrite_tpkCfg (d := d) v
  refine (State.upd_of_alive q ha ?_ : execTpkCfgWrite v ⟨q, d⟩ = _)
  dsimp only
  rw [hshape, hpolice, hu, ht]
  rfl

variable (ha : d.alive = true)
include ha

/-- SHAPE_EN set from 0, whether POLICE_EN is set with it or not. -/
theorem exec_tpkCfgWrite_shape (hbit : bit v.toNat 0 = true) (hen : d.shapeEn = false) :
    ∃ u, exec (.tpkCfgWrite v) ⟨q, d⟩ = .next ⟨q, u⟩ ∧ u.shapeEn = true
      ∧ ∀ h c, h < 32 → c < 8 → u.credit h c = (bits (d.shapeEff h c) 16 8 * 1024 : Nat) := by
  obtain ⟨-, hshape, -⟩ := Dev.regWrite_tpkCfg (d := d) v
  have hset : (bit v.toNat 0 && !d.shapeEn) = true := by rw [hbit, hen]; rfl
  refine ⟨_, exec_tpkCfgWrite q v ha (if_pos hset).symm rfl, ?_, fun h c hh hc => ?_⟩
  · have hcfg := Dev.cfg_creditsFilled (d.regWrite .host Reg.TPK_CFG v.toNat)
    refine Eq.trans ?_ (hshape.trans hbit)
    split
    · exact Dev.flag_congr ((Dev.cfg_bucketsFilled _).trans hcfg) 0
    · exact Dev.flag_congr hcfg 0
  · have hfilled := congrArg Shaper.credit (Dev.shaper_creditsFilled (d.regWrite .host Reg.TPK_CFG v.toNat) hh hc)
    have hcap := congrArg (fun e => ((bits e 16 8 * 1024 : Nat) : Int)) (Dev.inEffect_regWrite_tpkCfg (d := d) v h c).1
    refine Eq.trans ?_ (hfilled.trans hcap)
    split
    · exact congrArg Shaper.credit (Dev.shaper_bucketsFilled _ hc)
    · rfl

/-- POLICE_EN set from 0, whether SHAPE_EN is set with it or not. -/
theorem exec_tpkCfgWrite_police (hbit : bit v.toNat 1 = true) (hen : d.policeEn = false) :
    ∃ u, exec (.tpkCfgWrite v) ⟨q, d⟩ = .next ⟨q, u⟩ ∧ u.policeEn = true
      ∧ ∀ h c, h < 32 → c < 8 → u.bucketC h c = bits (d.polEff h c) 16 8 * 1024
        ∧ u.bucketP h c = bits (d.polEff h c) 48 8 * 1024 := by
  obtain ⟨-, -, hpolice⟩ := Dev.regWrite_tpkCfg (d := d) v
  have hset : (bit v.toNat 1 && !d.policeEn) = true := by rw [hbit, hen]; rfl
  refine ⟨_, exec_tpkCfgWrite q v ha rfl (if_pos hset).symm, ?_, fun h c hh hc => ?_⟩
  · refine Eq.trans (Dev.flag_congr ((Dev.cfg_bucketsFilled _).trans ?_) 1) (hpolice.trans hbit)
    split
    · exact Dev.cfg_creditsFilled _
    · rfl
  · have hfilled := fun s : Dev => Dev.policer_bucketsFilled s hh hc
    have heff : Dev.polEff (if (bit v.toNat 0 && !d.shapeEn) = true then (d.regWrite .host Reg.TPK_CFG v.toNat).creditsFilled
        else d.regWrite .host Reg.TPK_CFG v.toNat) h c = d.polEff h c := by
      refine Eq.trans ?_ (Dev.inEffect_regWrite_tpkCfg v h c).2
      split
      · exact Dev.polEff_creditsFilled _ hc
      · rfl
    exact ⟨(congrArg Policer.tc (hfilled _)).trans (congrArg (fun e => bits e 16 8 * 1024) heff),
      (congrArg Policer.tp (hfilled _)).trans (congrArg (fun e => bits e 48 8 * 1024) heff)⟩

end

/-- Settles O6: the two registers keep the value in effect beside the one written, and TPK_CFG fills what it enables. -/
theorem turnpikeWritesTakeEffectAtRefill : Obligations.TurnpikeWritesTakeEffectAtRefill := by
  unfold Obligations.TurnpikeWritesTakeEffectAtRefill
  intro q d ha
  refine ⟨fun h c v hh hc => exec_tpkShapeWrite ha hh hc v, fun h c v hh hc => exec_tpkPoliceWrite ha hh hc v,
    fun v hshape hpolice => ?_, fun v hbit hen => exec_tpkCfgWrite_shape q v ha hbit hen,
    fun v hbit hen => exec_tpkCfgWrite_police q v ha hbit hen⟩
  exact exec_tpkCfgWrite q v ha (if_neg (by simpa using hshape)).symm (if_neg (by simpa using hpolice)).symm

end Sys2Proof.Machine
end

section
/-! Gate lists and fabric time (12_turnpike.md), and the step of a queue. -/
namespace Sys2Proof.Machine

set_option Elab.async false

/-! ### An entry shown, and a bank switched in (R381, R382) -/

section
variable (s : Dev) (p i : Nat)

/-- The registers in which plane `p` shows its gates and a switch-over. -/
def gateShown (p : Nat) : List Nat := [Reg.TPK_GCTL p, Reg.TPK_GSTAT p, Reg.TPK_CNT_GSWITCH p]

theorem Dev.RegsBut.showEntry {d : Dev} {ks : List Nat} (h : d.RegsBut s ks) (hks : Reg.TPK_GSTAT p ∈ ks) :
    d.RegsBut (s.showEntry p i) ks := (h.setFld 8 6 i hks).setFld 16 8 _ hks

theorem Dev.showEntry_tpk : (s.showEntry p i).tpk = s.tpk :=
  (Dev.setFld_tpk (s.setFld (Reg.TPK_GSTAT p) 8 6 i) _ _ _ _).trans (Dev.setFld_tpk s _ _ _ _)

theorem Dev.gateBank_showEntry : (s.showEntry p i).gateBank p = s.gateBank p :=
  (Dev.fld_setFld_below _ _ _ (by decide) (by decide)).trans (Dev.fld_setFld_below _ _ _ (by decide) (by decide))

theorem Dev.entry_showEntry : (s.showEntry p i).fld (Reg.TPK_GSTAT p) 8 6 = i % 2 ^ 6 :=
  (Dev.fld_setFld_below _ _ _ (by decide) (by decide)).trans (Dev.fld_setFld_same _ _ _ (by decide))

theorem Dev.open_showEntry : (s.showEntry p i).fld (Reg.TPK_GSTAT p) 16 8 = entryOpen (s.gateEntry p (s.gateBank p) i) :=
  (Dev.fld_setFld_same _ _ _ (by decide)).trans (Nat.mod_eq_of_lt (bits_lt _ 0 8))

/-- Plane `p` with its other bank active from its base time on, before it shows the bank's entry 0. -/
def Dev.bankSwitched : Dev :=
  let t := (s.setFld (Reg.TPK_GSTAT p) 0 1 (1 - s.gateBank p)).setFlag (Reg.TPK_GCTL p) 1 false
  { t with tpk := { t.tpk with base := Sparse.put optDefault t.tpk.base p (some (t.reg (Reg.TPK_GBASE p))) } }

theorem Dev.gateSwitch_eq : s.gateSwitch p = ((s.bankSwitched p).showEntry p 0).bump (Reg.TPK_CNT_GSWITCH p) 1 := rfl

theorem Dev.regsBut_bankSwitched : s.RegsBut (s.bankSwitched p) [Reg.TPK_GCTL p, Reg.TPK_GSTAT p] :=
  (((Dev.RegsBut.refl s _).setFld 0 1 _ (by simp)).setFlag 1 false (by simp)).of_regs rfl

theorem Dev.regsBut_gateSwitch : s.RegsBut (s.gateSwitch p) (gateShown p) := by
  have hswitched : s.RegsBut (s.bankSwitched p) (gateShown p) := fun k hk =>
    s.regsBut_bankSwitched p k fun hmem => hk (List.mem_append_left [Reg.TPK_CNT_GSWITCH p] hmem)
  exact (Dev.RegsBut.showEntry _ p 0 hswitched (by simp [gateShown])).setReg _ (by simp [gateShown])

/-- A switch-over is counted. -/
theorem Dev.count_gateSwitch :
    (s.gateSwitch p).reg (Reg.TPK_CNT_GSWITCH p) = (s.reg (Reg.TPK_CNT_GSWITCH p) + 1) % 2 ^ 64 := by
  have hbefore : ((s.bankSwitched p).showEntry p 0).reg (Reg.TPK_CNT_GSWITCH p) = s.reg (Reg.TPK_CNT_GSWITCH p) :=
    Dev.RegsBut.showEntry _ p 0 (s.regsBut_bankSwitched p) (by simp) _ (by
      rw [List.mem_pair]
      unfold Reg.TPK_CNT_GSWITCH Reg.TPK_GCTL Reg.TPK_GSTAT
      omega)
  rw [Dev.gateSwitch_eq, Dev.reg_bump_same, hbefore]

theorem Dev.gstat_gateSwitch : (s.gateSwitch p).reg (Reg.TPK_GSTAT p) = ((s.bankSwitched p).showEntry p 0).reg (Reg.TPK_GSTAT p) :=
  Dev.reg_bump_ne _ _ (by unfold Reg.TPK_GSTAT Reg.TPK_CNT_GSWITCH; omega)

theorem Dev.gctl_gateSwitch : (s.gateSwitch p).reg (Reg.TPK_GCTL p) = (s.bankSwitched p).reg (Reg.TPK_GCTL p) :=
  (Dev.reg_bump_ne _ _ (by unfold Reg.TPK_GCTL Reg.TPK_CNT_GSWITCH; omega)).trans
    (Dev.RegsBut.showEntry _ p 0 (Dev.RegsBut.refl _ [Reg.TPK_GSTAT p]) (by simp) _
      (by rw [List.mem_singleton]; unfold Reg.TPK_GCTL Reg.TPK_GSTAT; omega))

theorem Dev.gateBank_bankSwitched : (s.bankSwitched p).gateBank p = 1 - s.gateBank p := by
  have hbank : (s.bankSwitched p).gateBank p = (1 - s.gateBank p) % 2 ^ 1 :=
    (Dev.fld_setFld_ne _ _ _ _ _ _ (by unfold Reg.TPK_GSTAT Reg.TPK_GCTL; omega)).trans (Dev.fld_setFld_same s _ _ (by decide))
  rw [hbank]
  omega

theorem Dev.gateArmed_bankSwitched : (s.bankSwitched p).gateArmed p = false := Dev.flag_setFlag_same _ _ false (by decide)

theorem Dev.gateEntry_bankSwitched (b : Nat) (hp : p < 8) : (s.bankSwitched p).gateEntry p b i = s.gateEntry p b i :=
  s.regsBut_bankSwitched p _ (by
    rw [List.mem_pair]
    unfold Reg.TPK_GENTRY Reg.TPK_GCTL Reg.TPK_GSTAT
    omega)

end

section
variable {q : List Instr} {d : Dev} (ha : d.alive = true) {p : Nat} (hp : p < 8)
include ha hp

/-- An idle bank that R383 does not refuse is armed. -/
theorem exec_gateArm_valid (harmed : d.gateArmed p = false) (hbase : d.now < d.reg (Reg.TPK_GBASE p))
    (hpos : 1 ≤ d.bankLen p (1 - d.gateBank p)) (hlen : d.bankLen p (1 - d.gateBank p) ≤ 64)
    (hentries : ∀ i, i < d.bankLen p (1 - d.gateBank p) → bits (d.gateEntry p (1 - d.gateBank p) i) 8 24 = 0
      ∧ 100 ≤ entryDur (d.gateEntry p (1 - d.gateBank p) i)) :
    exec (.gateArm p) ⟨q, d⟩ = .next ⟨q, d.setFlag (Reg.TPK_GCTL p) 1 true⟩ := by
  refine (State.upd_of_alive q ha ?_ : execGateArm p ⟨q, d⟩ = _)
  have hgood : ((List.range (d.bankLen p (1 - d.gateBank p))).find? fun i =>
      bits (d.gateEntry p (1 - d.gateBank p) i) 8 24 != 0 || decide (entryDur (d.gateEntry p (1 - d.gateBank p) i) < 100)) = none := by
    rw [List.find?_eq_none]
    intro i hi
    obtain ⟨hres, hdur⟩ := hentries i (List.mem_range.1 hi)
    simp [hres, hdur]
  dsimp only
  rw [hgood, if_neg (by simp [hp, harmed]), if_neg (by simp; omega)]

/-- A base time that is not in the future refuses it. -/
theorem exec_gateArm_late (harmed : d.gateArmed p = false) (hbase : d.reg (Reg.TPK_GBASE p) ≤ d.now) : exec (.gateArm p) ⟨q, d⟩
    = .next ⟨q, d.record clsFAB 0x020 (p + 0x3F * 2 ^ 8) 0 blkTPK 0⟩ := by
  refine (State.upd_of_alive q ha ?_ : execGateArm p ⟨q, d⟩ = _)
  dsimp only
  rw [if_neg (by simp [hp, harmed]), if_pos (by simp [hbase])]

theorem exec_gateCancel : exec (.gateCancel p) ⟨q, d⟩ = .next ⟨q, d.setFlag (Reg.TPK_GCTL p) 1 false⟩ :=
  (State.upd_of_alive q ha (if_neg (Nat.not_le.2 hp)) : execGateCancel p ⟨q, d⟩ = _)

theorem exec_gateSwitchover_armed (harmed : d.gateArmed p = true) : exec (.gateSwitchover p) ⟨q, d⟩ = .next ⟨q, d.gateSwitch p⟩ :=
  (State.upd_of_alive q ha (if_neg (by simp [hp, harmed])) : execGateSwitchover p ⟨q, d⟩ = _)

theorem exec_gateEntryAdvance_running {x : Nat} (hlen : d.bankLen p (d.gateBank p) ≠ 0)
    (hbase : Sparse.get optDefault d.tpk.base p = some x) : exec (.gateEntryAdvance p) ⟨q, d⟩
    = .next ⟨q, d.showEntry p ((d.fld (Reg.TPK_GSTAT p) 8 6 + 1) % d.bankLen p (d.gateBank p))⟩ :=
  (State.upd_of_alive q ha (if_neg (by simp [hp, hlen, hbase])) : execGateEntryAdvance p ⟨q, d⟩ = _)

/-- A write of an entry of a gate list: that of the active bank, or while a bank is armed, is discarded (R383). -/
theorem exec_gateListWrite_entry {b i : Nat} (v : Word64) (hb : b < 2) (hi : i < 64) :
    exec (.gateListWrite (Reg.TPK_GENTRY p b i) v) ⟨q, d⟩ = .next ⟨q, if b = d.gateBank p ∨ d.gateArmed p = true
      then d.discard clsFAB 0x022 (Reg.TPK_GENTRY p b i) 0 else d.regWrite .host (Reg.TPK_GENTRY p b i) v.toNat⟩ := by
  refine (State.upd_of_alive q ha ?_ : execGateListWrite (Reg.TPK_GENTRY p b i) v ⟨q, d⟩ = _)
  have hrange : 0x4000 ≤ Reg.TPK_GENTRY p b i - 0xC00000 ∧ Reg.TPK_GENTRY p b i - 0xC00000 < 0x6000 := by
    unfold Reg.TPK_GENTRY
    omega
  have hplane : (Reg.TPK_GENTRY p b i - 0xC00000 - 0x4000) / 0x400 = p := by
    unfold Reg.TPK_GENTRY
    omega
  have hbank : (Reg.TPK_GENTRY p b i - 0xC00000 - 0x4000) / 0x200 % 2 = b := by
    unfold Reg.TPK_GENTRY
    omega
  dsimp only
  rw [if_pos (by simp [hrange]), hplane, hbank]
  simp only [Bool.or_eq_true, decide_eq_true_eq]

end

/-- The other bank of an armed plane becomes active at its entry 0, and the switch is counted (R382). -/
theorem Dev.gateSwitch_shows (d : Dev) {p : Nat} (hp : p < 8) : (d.gateSwitch p).gateBank p = 1 - d.gateBank p
    ∧ (d.gateSwitch p).gateArmed p = false ∧ (d.gateSwitch p).fld (Reg.TPK_GSTAT p) 8 6 = 0
    ∧ (d.gateSwitch p).fld (Reg.TPK_GSTAT p) 16 8 = entryOpen (d.gateEntry p (1 - d.gateBank p) 0) := by
  have hstat := fun lo w => Dev.fld_congr (d.gstat_gateSwitch p) lo w
  refine ⟨(hstat 0 1).trans ((Dev.gateBank_showEntry ..).trans (d.gateBank_bankSwitched p)),
    (Dev.flag_congr (d.gctl_gateSwitch p) 1).trans (d.gateArmed_bankSwitched p), (hstat 8 6).trans (Dev.entry_showEntry ..), ?_⟩
  rw [hstat, Dev.open_showEntry, d.gateBank_bankSwitched, d.gateEntry_bankSwitched _ _ _ hp]

/-- Settles O8, a command at a time: each takes the branch that its hypotheses name. -/
theorem gateLists : Obligations.GateLists := by
  unfold Obligations.GateLists
  intro q d p ha hp
  refine ⟨fun b hb harmed hbase hpos hlen hentries => ?_, fun harmed hbase => ?_, exec_gateCancel ha hp, fun harmed => ?_,
    fun x hlen hbase => exec_gateEntryAdvance_running ha hp hlen hbase, fun b i v hb hi hbad => ?_, fun b i v hb hi hbank harmed => ?_⟩
  · subst hb
    exact exec_gateArm_valid ha hp harmed hbase hpos hlen hentries
  · exact ⟨_, exec_gateArm_late ha hp harmed hbase, d.recorded_record ..,
      (Dev.flag_congr (d.reg_record_lt _ _ _ _ _ _ (by unfold Reg.TPK_GCTL; omega)) 1).trans harmed⟩
  · obtain ⟨hbank, hdisarmed, hentry, hopen⟩ := d.gateSwitch_shows hp
    exact ⟨_, exec_gateSwitchover_armed ha hp harmed, hbank, hdisarmed, hentry, hopen, d.count_gateSwitch p, d.regsBut_gateSwitch p⟩
  · refine ⟨_, (exec_gateListWrite_entry ha hp v hb hi).trans (by rw [if_pos hbad]), ?_, ?_⟩
    · have hblock : blockAt (Reg.TPK_GENTRY p b i) = blkTPK := by
        have hdiv : Reg.TPK_GENTRY p b i / 0x100000 = 12 := by
          unfold Reg.TPK_GENTRY
          omega
        unfold blockAt
        rw [hdiv]
        rfl
      exact hblock ▸ d.recorded_discard clsFAB 0x022 (Reg.TPK_GENTRY p b i) 0
    · exact d.reg_record_lt _ _ _ _ _ _ (by unfold Reg.TPK_GENTRY; omega)
  · exact (exec_gateListWrite_entry ha hp v hb hi).trans (by rw [if_neg (by simp [hbank, harmed])])

/-! ### Fabric time (R377, R378) -/

section
variable (s : Dev)

theorem time_not_mem_gateShown (p : Nat) : Reg.TPK_TIME ∉ gateShown p := by
  unfold gateShown Reg.TPK_TIME Reg.TPK_GCTL Reg.TPK_GSTAT Reg.TPK_CNT_GSWITCH
  simp only [List.mem_cons, List.not_mem_nil, or_false]
  omega

/-- An entry shown and a bank switched in leave the time and the slew. -/
theorem Dev.showEntry_keeps (p i : Nat) : (s.showEntry p i).now = s.now ∧ (s.showEntry p i).tpk.slew = s.tpk.slew :=
  ⟨Dev.RegsBut.showEntry s p i (Dev.RegsBut.refl s (gateShown p)) (by simp [gateShown]) _ (time_not_mem_gateShown p),
    congrArg Turnpike.slew (s.showEntry_tpk p i)⟩

theorem Dev.gateSwitch_keeps (p : Nat) : (s.gateSwitch p).now = s.now ∧ (s.gateSwitch p).tpk.slew = s.tpk.slew :=
  ⟨s.regsBut_gateSwitch p _ (time_not_mem_gateShown p), by
    rw [Dev.gateSwitch_eq, Dev.bump_tpk, Dev.showEntry_tpk]
    unfold Dev.bankSwitched
    simp only [Dev.setFlag_tpk, Dev.setFld_tpk]⟩

/-- So do the gates that follow a step of fabric time. -/
theorem Dev.gateFollow_keeps : s.gateFollow.now = s.now ∧ s.gateFollow.tpk.slew = s.tpk.slew := by
  unfold Dev.gateFollow
  refine Dev.each_keeps (P := fun u => u.now = s.now ∧ u.tpk.slew = s.tpk.slew) ⟨rfl, rfl⟩ fun {u p} hu => ?_
  have hdue : ∀ c : Bool, (if c = true then u.gateSwitch p else u).now = s.now
      ∧ (if c = true then u.gateSwitch p else u).tpk.slew = s.tpk.slew := fun c => by
    split
    · exact ⟨(u.gateSwitch_keeps p).1.trans hu.1, (u.gateSwitch_keeps p).2.trans hu.2⟩
    · exact hu
  dsimp only
  split
  · exact ⟨(Dev.showEntry_keeps ..).1.trans (hdue _).1, (Dev.showEntry_keeps ..).2.trans (hdue _).2⟩
  · exact hdue _

variable {x : Int}

theorem Dev.timeOffset_slews (hx : x.natAbs ≤ 1000000) : s.timeOffset x = { s with tpk := { s.tpk with slew := x, slewPh := 0 } } :=
  if_pos hx

theorem Dev.timeOffset_steps (hx : 1000000 < x.natAbs) :
    (s.timeOffset x).now = ofSigned 64 ((s.now : Int) + x) ∧ (s.timeOffset x).tpk.slew = 0 := by
  unfold Dev.timeOffset
  rw [if_neg (Nat.not_le.2 hx)]
  dsimp only
  obtain ⟨hnow, hslew⟩ := Dev.gateFollow_keeps
    (({ s with tpk := { s.tpk with slew := 0, slewPh := 0 } } : Dev).setReg Reg.TPK_TIME (ofSigned 64 ((s.now : Int) + x)))
  refine ⟨hnow.trans ((Dev.reg_setReg_same ..).trans (Nat.mod_eq_of_lt ?_)), hslew⟩
  unfold ofSigned
  omega

end

/-- What a member keeps of an answer whose offset is within the bound (R379): the exchange is good, and the offset is shown. -/
def Dev.exchangeGood (s : Dev) (off : Int) : Dev :=
  ({ s with tpk := { s.tpk with t1 := none, missed := 0, good := s.tpk.good + 1 } } : Dev).setFld Reg.TPK_TSTAT 8 24 (ofSigned 24 off)

/-- The fourth in a row locks. -/
def Dev.exchangeLocked (s : Dev) (off : Int) : Dev :=
  if 4 ≤ s.tpk.good + 1 then (s.exchangeGood off).setFlag Reg.TPK_TSTAT 0 true else s.exchangeGood off

section
variable (s : Dev) {off : Int}

/-- An offset within the bound is neither saturated nor stepped (R378, R379). -/
theorem Dev.tsyncAnswer_good {t1 t2 t3 : Word64}
    (hoff : off = Int.tdiv (toSigned 64 (t2 - t1).toNat + toSigned 64 (t3 - BitVec.ofNat 64 s.now).toNat) 2) (hbound : off.natAbs ≤ 50) :
    s.tsyncAnswer t1 t2 t3 = (s.exchangeLocked off).timeOffset off := by
  have hsat : sat24 off = off := by
    unfold sat24
    omega
  unfold Dev.tsyncAnswer
  rw [← hoff]
  simp only [hbound, hsat, Nat.not_lt.2 hbound, if_true, if_false]
  rfl

theorem Dev.exchangeLocked_tpk : (s.exchangeLocked off).tpk = { s.tpk with t1 := none, missed := 0, good := s.tpk.good + 1 } := by
  unfold Dev.exchangeLocked
  split <;> rfl

theorem Dev.regsBut_exchangeLocked : s.RegsBut (s.exchangeLocked off) [Reg.TPK_TSTAT] := by
  have hgood : s.RegsBut (s.exchangeGood off) [Reg.TPK_TSTAT] := ((Dev.RegsBut.refl s _).of_regs rfl).setFld 8 24 _ (by simp)
  unfold Dev.exchangeLocked
  split
  · exact hgood.setFlag 0 true (by simp)
  · exact hgood

theorem Dev.offset_exchangeLocked : (s.exchangeLocked off).fld Reg.TPK_TSTAT 8 24 = ofSigned 24 off := by
  have hgood : (s.exchangeGood off).fld Reg.TPK_TSTAT 8 24 = ofSigned 24 off := by
    refine (Dev.fld_setFld_same _ _ _ (by decide)).trans (Nat.mod_eq_of_lt ?_)
    unfold ofSigned
    omega
  unfold Dev.exchangeLocked
  split
  · exact (Dev.fld_setFld_above _ _ _ (by decide) (by decide)).trans hgood
  · exact hgood

theorem Dev.locked_exchangeLocked :
    (s.exchangeLocked off).flag Reg.TPK_TSTAT 0 = (s.flag Reg.TPK_TSTAT 0 || decide (3 ≤ s.tpk.good)) := by
  unfold Dev.exchangeLocked
  split
  · next hfour =>
    rw [Dev.flag_setFlag_same _ _ _ (by decide), decide_eq_true (by omega : 3 ≤ s.tpk.good), Bool.or_true]
  · next hfewer =>
    rw [decide_eq_false (by omega : ¬ 3 ≤ s.tpk.good), Bool.or_false, Dev.flag_eq_fld, Dev.flag_eq_fld]
    exact congrArg (· == 1) (Dev.fld_setFld_below _ _ _ (by decide) (by decide))

end

/-! ### The exchange (R379, R380) -/

section
variable (s : Dev) (c : Carriage)

/-- A carriage taken from the inbox leaves the registers and the groups. -/
@[simp] theorem Dev.tsyncEn_taken : (s.taken c).tsyncEn = s.tsyncEn := rfl
@[simp] theorem Dev.tsyncRef_taken : (s.taken c).tsyncRef = s.tsyncRef := rfl
@[simp] theorem Dev.tsyncGroup_taken : (s.taken c).tsyncGroup = s.tsyncGroup := rfl
@[simp] theorem Dev.tpk_taken : (s.taken c).tpk = s.tpk := rfl

end

section
variable {q : List Instr} {d : Dev} (ha : d.alive = true)
include ha

/-- A member that follows a reference takes no adjustment of the host (R380). -/
theorem exec_timeAdjust_refused (v : Word64) (hen : d.tsyncEn = true) (href : d.tsyncRef = false) :
    exec (.timeAdjust v) ⟨q, d⟩ = .next ⟨q, d.record clsFAB 0x023 d.tsyncGroup 0 blkTPK 0⟩ :=
  (State.upd_of_alive q ha (if_pos (by simp [hen, href])) : execTimeAdjust v ⟨q, d⟩ = _)

theorem exec_timeAdjust_taken (v : Word64) (hfree : (d.tsyncEn && !d.tsyncRef) = false) :
    exec (.timeAdjust v) ⟨q, d⟩ = .next ⟨q, d.timeOffset (toSigned 64 v.toNat)⟩ :=
  (State.upd_of_alive q ha (if_neg (by simp [hfree])) : execTimeAdjust v ⟨q, d⟩ = _)

/-- A member that waits for no answer sends its request. -/
theorem exec_tsyncExchange_idle {gr : Group} (hgroup : d.group d.tsyncGroup = some gr) (hen : d.tsyncEn = true) (href : d.tsyncRef = false)
    (hidle : d.tpk.t1 = none) : exec .tsyncExchange ⟨q, d⟩
    = .next ⟨q, (Dev.sendCtl { d with tpk := { d.tpk with t1 := some (BitVec.ofNat 64 d.now) } }
        gr 0 cTSREQ 0 (d.now % 2 ^ 32) 0 []).bump Reg.TPK_CNT_TSYNC 1⟩ := by
  refine (State.upd_of_alive q ha ?_ : execTsyncExchange ⟨q, d⟩ = _)
  rw [hgroup]
  dsimp only
  rw [hen, href, hidle]
  rfl

/-- The reference answers the member that asks. -/
theorem exec_tsyncRequest_reference {c : Carriage} {gr : Group} {rank : Nat} (hen : d.tsyncEn = true) (href : d.tsyncRef = true)
    (hgate : (d.taken c).gate (ctlGroup c) c = .pass gr rank) (hgroup : gr.gid = d.tsyncGroup) : exec (.tsyncRequest rank c) ⟨q, d⟩
    = .next ⟨q, (d.taken c).sendCtl gr rank cTSANS 0 c.xid 0 [(40, 0, 64, d.now), (48, 0, 64, d.now)]⟩ := by
  refine (State.upd_of_alive q ha ?_ : execTsyncRequest rank c ⟨q, d⟩ = _)
  dsimp only
  rw [hgate]
  exact if_pos (by simp [hen, href, hgroup])

/-- A member takes the reference's answer to the request that waits. -/
theorem exec_tsyncResponse_member {c : Carriage} {gr : Group} {t1 : Word64} (hwaits : d.tpk.t1 = some t1) (hen : d.tsyncEn = true)
    (href : d.tsyncRef = false) (hxid : c.xid = t1.toNat % 2 ^ 32) (hgate : (d.taken c).gate (ctlGroup c) c = .pass gr 0)
    (hgroup : gr.gid = d.tsyncGroup) : exec (.tsyncResponse 0 c) ⟨q, d⟩
    = .next ⟨q, (d.taken c).tsyncAnswer t1 (BitVec.ofNat 64 (c.f 40 0 64)) (BitVec.ofNat 64 (c.f 48 0 64))⟩ := by
  refine (State.upd_of_alive q ha ?_ : execTsyncResponse 0 c ⟨q, d⟩ = _)
  dsimp only
  rw [hgate, Dev.tpk_taken, hwaits]
  exact if_pos (by simp [hen, href, hgroup, hxid])

end

/-- Settles O7, an event at a time: each takes the branch that its hypotheses name. -/
theorem fabricTime : Obligations.FabricTime := by
  unfold Obligations.FabricTime
  intro q d ha
  refine ⟨fun v hen href => ⟨_, exec_timeAdjust_refused ha v hen href, d.recorded_record .., Dev.record_tpk ..,
      d.reg_record_lt _ _ _ _ _ _ (by decide)⟩,
    fun v hfree hsmall => (exec_timeAdjust_taken ha v hfree).trans (by rw [Dev.timeOffset_slews _ hsmall]),
    fun v hfree hlarge => ⟨_, exec_timeAdjust_taken ha v hfree, Dev.timeOffset_steps _ hlarge⟩,
    fun gr hgroup hen href hidle => exec_tsyncExchange_idle ha hgroup hen href hidle,
    fun c gr rank hen href hgate hgroup => exec_tsyncRequest_reference ha hen href hgate hgroup,
    fun c gr t1 t2 t3 off hwaits hen href hxid hgate hgroup ht2 ht3 hoff hbound => ?_⟩
  subst ht2 ht3
  have hexec := exec_tsyncResponse_member (q := q) ha hwaits hen href hxid hgate hgroup
  rw [(d.taken c).tsyncAnswer_good hoff hbound, Dev.timeOffset_slews _ (by omega)] at hexec
  have htpk := (d.taken c).exchangeLocked_tpk (off := off)
  exact ⟨_, hexec, congrArg Turnpike.t1 htpk, congrArg Turnpike.good htpk, rfl, (d.taken c).offset_exchangeLocked,
    (d.taken c).locked_exchangeLocked, (d.taken c).regsBut_exchangeLocked⟩

/-- Settles O56: a step is by cases on the queue. -/
theorem stepTakesTheFront : Obligations.StepTakesTheFront := by
  unfold Obligations.StepTakesTheFront
  exact fun _ _ _ => ⟨rfl, rfl⟩

end Sys2Proof.Machine
end

section
/-! The transfers of groups (13_collectives.md): what each of their operations does on a device of which no access has to wait, one
rule per operation of the model, as `Dev.StaysCalm` has them for the rest. -/
namespace Sys2Proof.Machine

-- The short theorems below are elaborated one after another: side by side, their threads' stacks exceed the memory of the check.
set_option Elab.async false

namespace Dev.StaysCalm
variable {same : Prop} {s t u : Dev}

theorem taken {c : Carriage} (h : s.StaysCalm same t) : s.StaysCalm same (t.taken c) := h.frame
theorem noteFlow {gid rank n : Nat} (h : s.StaysCalm same t) : s.StaysCalm same (t.noteFlow gid rank n) := h.updGroup

/-! ### Progress -/

theorem xferProgress {g : Nat} (h : s.StaysCalm False t) : s.StaysCalm False (t.xferProgress g) := by
  unfold Dev.xferProgress
  split
  · split
    · exact h.collProgress
    · exact h.exchProgress
    · exact h.redProgress
    · exact h
  · exact h.refusalProgress

theorem orFault {p : Dev × Bool} {g : Nat} (h : s.StaysCalm False p.1) : s.StaysCalm False (Dev.orFault p g) :=
  ite h.xferProgress h.groupFault

theorem digestKill {g rank : Nat} (h : s.StaysCalm False t) : s.StaysCalm False (t.digestKill g rank) := by
  unfold Dev.digestKill
  split
  · exact h
  · split
    · exact h.record.groupFault
    · exact h

/-! ### Chunks that come -/

theorem complDue {g step phase : Nat} (h : s.StaysCalm same t) : s.StaysCalm same (t.complDue g step phase) := by
  unfold Dev.complDue
  split
  · exact h
  · split
    · exact ite h.flushCompl h
    · exact h

theorem bindBarrow {g c : Nat} {x : Xfer} {r : RecvStep} {bs : List Byte} (h : s.StaysCalm same t) :
    s.StaysCalm same (t.bindBarrow g x r c bs).1 := by
  unfold Dev.bindBarrow
  refine iteFst h ?_
  split
  · exact h.updX
  · exact h

theorem acceptChunk {gr : Group} {g : Nat} {c : Carriage} (h : s.StaysCalm same t) :
    s.StaysCalm same (t.acceptChunk gr g c).1 := by
  unfold Dev.acceptChunk
  split
  · exact h.stale
  · dsimp only
    split
    · exact h.stale
    · refine iteFst h.stale ?_
      split
      · exact (h.bindBarrow.of_fst ‹_›).updGroup
      · exact (h.bindBarrow.of_fst ‹_›).landChunk.complDue

theorem acceptChunks {gr : Group} {g : Nat} (cs : List Carriage) (h : s.StaysCalm same t) :
    s.StaysCalm same (Dev.acceptChunks gr g cs t).1 := by
  induction cs generalizing t with
  | nil => exact h
  | cons c cs ih => exact iteFst (ih h.acceptChunk) h.acceptChunk

theorem takeEarly {g step phase : Nat} (h : s.StaysCalm same t) : s.StaysCalm same (t.takeEarly g step phase).1 := by
  unfold Dev.takeEarly
  split
  · exact h
  · split
    · exact h
    · exact h.updGroup.acceptChunks _

/-! ### Chunks granted, chunks that leave again, and reports -/

theorem grant {g step phase : Nat} (h : s.StaysCalm same t) : s.StaysCalm same (t.grant g step phase).1 := by
  unfold Dev.grant
  split
  · exact h
  · split
    · split
      · exact h
      · exact iteFst h (iteFst (h.updX.selfChunks _) h.updX.sendCtl)
    · exact h

theorem chunkAgain {g step phase : Nat} {z : SentChunk} (h : s.StaysCalm same t) :
    s.StaysCalm same (t.chunkAgain g step phase z).1 := h.putChunk

theorem chunksAgain {g step phase : Nat} (zs : List SentChunk) (h : s.StaysCalm same t) :
    s.StaysCalm same (Dev.chunksAgain g step phase zs t).1 := by
  induction zs generalizing t with
  | nil => exact h
  | cons z zs ih => exact iteFst (ih h.chunkAgain) h.chunkAgain

theorem countChunks {k gid : Nat} {y : SendStep} {cs : List Nat} (h : s.StaysCalm same t) :
    s.StaysCalm same (t.countChunks k gid y cs) := (h.updGroup.each freePlaces).updX

/-! ### Groups that break -/

theorem failRecord {g code detail slot gid : Nat} (h : s.StaysCalm same t) :
    s.StaysCalm same (t.failRecord g code detail slot gid) := by
  unfold Dev.failRecord
  split
  · exact h
  · split <;> exact h.record

theorem groupBroken {gid : Nat} (h : s.StaysCalm same t) : s.StaysCalm same (t.groupBroken gid) := h.frame

theorem peerFail {gid rank code : Nat} (h : s.StaysCalm False t) : s.StaysCalm False (t.peerFail gid rank code) := by
  unfold Dev.peerFail
  split
  · exact h
  · refine sendAborts (groupBroken (bump (each ?_ fun h => h.failRecord.groupKill)))
    exact ite h.record h

end Dev.StaysCalm
end Sys2Proof.Machine
end

section
/-! The statement about the carriages of transfers (13_collectives.md): what the gate of a group lets through, then each carriage. -/
namespace Sys2Proof.Machine

-- The short theorems below are elaborated one after another: side by side, their threads' stacks exceed the memory of the check.
set_option Elab.async false

/-! ### The gate of a group (R397, R407, R417) -/

section
variable {s d : Dev} {gid rank : Nat} {c : Carriage} {g : Group}

theorem Dev.gate_of_no_group (h : d.group gid = none) : (d.taken c).gate gid c = .out ((d.taken c).bump Reg.COL_CNT_NOGROUP 1) := by
  have hgroup : (d.taken c).group gid = none := h
  unfold Dev.gate
  rw [hgroup]
  rfl

/-- A carriage that a group lets through comes from the member whose rank the gate gives. -/
theorem Dev.rankOf_of_gate_pass (h : s.gate gid c = .pass g rank) : g.rankOf c.src = some rank := by
  unfold Dev.gate at h
  split at h
  · exact absurd h (by simp)
  · split at h
    · exact absurd h (by simp)
    · next hrank =>
        split at h
        · exact absurd h (by simp)
        · split at h
          · exact absurd h (by simp)
          · split at h
            · exact absurd h (by simp)
            · obtain ⟨rfl, rfl⟩ : _ = g ∧ _ = rank := by simpa using h
              exact hrank

end

section
variable {q : List Instr} {d : Dev} {c : Carriage} (ha : d.alive = true)

/-! ### Carriages for a group that is not held (R397, R398) -/

section
variable (hgr : d.group (ctlGroup c) = none)
include ha hgr

theorem exec_upd_noGroup {i : Instr} (hi : i ∈ [Instr.abort c, .probe c, .probeack c]) :
    exec i ⟨q, d⟩ = .next ⟨q, (d.taken c).bump Reg.COL_CNT_NOGROUP 1⟩ := by
  have hout := Dev.gate_of_no_group (c := c) hgr
  simp only [List.mem_cons, List.not_mem_nil, or_false] at hi
  obtain rfl | rfl | rfl := hi
  · refine (State.upd_of_alive q ha ?_ : execAbort c ⟨q, d⟩ = _)
    dsimp only
    rw [hout]
  · refine (State.upd_of_alive q ha ?_ : execProbe c ⟨q, d⟩ = _)
    dsimp only
    rw [hout]
  · refine (State.upd_of_alive q ha ?_ : execProbeack c ⟨q, d⟩ = _)
    dsimp only
    rw [hout]

theorem exec_unit_noGroup (hc : d.calm = true) {i : Instr} (hi : i ∈ [Instr.offer c, .ticket c, .compl c, .missing c]) :
    exec i ⟨q, d⟩ = .next ⟨q, (d.taken c).bump Reg.COL_CNT_NOGROUP 1⟩ := by
  have hout := Dev.gate_of_no_group (c := c) hgr
  simp only [List.mem_cons, List.not_mem_nil, or_false] at hi
  obtain rfl | rfl | rfl | rfl := hi <;>
    exact State.unit_of_staysCalm q ha hc (by dsimp only; rw [hout]) (Dev.StaysCalm.refl d).taken.bump

end

/-! ### Chunks (R407 to R409) -/

section
variable (hc : d.calm = true)
include ha hc

theorem exec_chunkReceive_noGroup (hgr : d.group c.group = none) :
    exec (.chunkReceive c) ⟨q, d⟩ = .next ⟨q, (d.taken c).bump Reg.COL_CNT_NOGROUP 1⟩ :=
  State.unit_of_staysCalm q ha hc (by dsimp only; rw [Dev.gate_of_no_group hgr]) (Dev.StaysCalm.refl d).taken.bump

variable {s s1 : Dev} {g : Group} {rank : Nat} (hs : s = d.taken c) (hpass : s.gate c.group c = .pass g rank)
  (hsrank : c.srank = rank) (hdrank : c.drank = g.rank) (hstream : c.stream = 0) (hs1 : s1 = s.noteFlow g.gid rank c.flowseq)
include hs hpass hsrank hdrank hstream hs1

theorem exec_chunkReceive_granted {k : Nat} {x : Xfer} {y : RecvStep} {s2 : Dev} {ok : Bool}
    (hinst : s1.instOf g.gid 0 c.xid c.ord = some (k, x)) (hx : s1.xf k = some x) (hrecv : x.recv c.step c.phase = some y)
    (hpeer : y.peer = rank) (hoffer : y.offer.map (·.2) = some c.gen) (hlt : c.chunk < y.chunks) (hgrant : c.chunk ∈ y.grants)
    (hdst : y.dst ≠ .barrows) (hland : s1.landChunk k c.step c.phase c.chunk c.payload = (s2, ok)) :
    exec (.chunkReceive c) ⟨q, d⟩ = .next ⟨q, Dev.orFault (s2.complDue k c.step c.phase, ok) k⟩ := by
  have hrank := Dev.rankOf_of_gate_pass hpass
  obtain ⟨⟨n, gen⟩, hoff, rfl⟩ := Option.map_eq_some_iff.1 hoffer
  have haccept : s1.acceptChunk g k c = (s2.complDue k c.step c.phase, ok) := by
    unfold Dev.acceptChunk Dev.bindBarrow
    simp [hx, hrecv, hoff, hrank, hsrank, hpeer, hdrank, hlt, hgrant, hdst, hland]
  have hcalm : d.StaysCalm False s2 := by
    subst hs hs1
    exact (Dev.StaysCalm.refl d).taken.noteFlow.landChunk.of_fst hland
  refine State.unit_of_staysCalm q ha hc ?_ (Dev.StaysCalm.orFault (p := (_, ok)) hcalm.complDue)
  subst hs hs1
  dsimp only
  rw [hpass]
  dsimp only
  rw [if_neg (by simp [hsrank, hdrank]), hstream, hinst, ← haccept]

theorem exec_chunkReceive_late {e : EndedRecv} (hinst : s1.instOf g.gid 0 c.xid c.ord = none)
    (hended : g.endedOf rank 0 c.xid c.ord c.step c.phase c.gen = some e) (hlt : c.chunk < e.chunks) :
    exec (.chunkReceive c) ⟨q, d⟩ = .next ⟨q, Dev.sendMap g cCOMPL e.stream e.xid e.gen e.step e.phase e.ord e.peer 1 [c.chunk]
      (s1.bump Reg.COL_CNT_DUP 1)⟩ := by
  subst hs hs1
  refine State.unit_of_staysCalm q ha hc ?_ ((Dev.StaysCalm.refl d).taken.noteFlow.bump.sendMap 1)
  dsimp only
  rw [hpass]
  dsimp only
  rw [if_neg (by simp [hsrank, hdrank]), hstream, hinst]
  dsimp only
  rw [hended]
  exact if_pos hlt

end

/-! ### Carriages of the fabric's control (R407, R408, R413 to R415) -/

section
variable {s : Dev} {g : Group} {rank : Nat} (hs : s = d.taken c) (hpass : s.gate (ctlGroup c) c = .pass g rank)

section
variable (hc : d.calm = true) {k : Nat} {x : Xfer} (hinst : s.instOf g.gid (ctlStream c) c.xid (ctlOrd c) = some (k, x))
include ha hc hs hpass

include hinst in
theorem exec_offer_first {y : RecvStep} (hx : s.xf k = some x) (hdigest : c.f 44 0 32 = x.pdigest)
    (hrecv : x.recv (ctlStep c 48) (ctlPhase c) = some y) (hpeer : y.peer = rank) (hfirst : y.offer = none) :
    exec (.offer c) ⟨q, d⟩ = .next ⟨q, s.updX k fun x => x.updRecv y.step y.phase fun z =>
      { z with offer := some (c.f 40 0 32, c.gen) }⟩ := by
  have hkept : s.acceptOffer k rank c = s.updX k fun x => x.updRecv y.step y.phase fun z =>
      { z with offer := some (c.f 40 0 32, c.gen) } := by
    have hstep : x.recv (c.f 48 0 32) (c.f 56 0 8) = some y := hrecv
    simp [Dev.acceptOffer, hx, hstep, hpeer, hfirst]
  subst hs
  refine State.unit_of_staysCalm q ha hc ?_ (Dev.StaysCalm.refl d).taken.updX
  dsimp only
  rw [hpass]
  dsimp only
  rw [hinst]
  simp [hdigest, hrecv, hfirst, hkept]

/-- A carriage of a stream-0 command that is neither in hand nor to come, nor has committed here, is late (R407, R408). -/
theorem exec_stale (hstream : ctlStream c = 0) (hnone : s.instOf g.gid 0 c.xid (ctlOrd c) = none)
    (hahead : g.ahead 0 c.xid = false)
    (hended : g.endedOf rank 0 c.xid (ctlOrd c) (ctlStep c 48) (ctlPhase c) c.gen = none) {i : Instr}
    (hi : i ∈ [Instr.offer c, .ticket c, .compl c, .missing c]) : exec i ⟨q, d⟩ = .next ⟨q, s.bump Reg.COL_CNT_STALE 1⟩ := by
  have hpassAhead : s.passAhead g.gid 0 c.xid (ctlOrd c) = false := rfl
  have htarget : s.mapTarget g rank c = none := by
    unfold Dev.mapTarget
    rw [hstream, hnone]
  subst hs
  simp only [List.mem_cons, List.not_mem_nil, or_false] at hi
  obtain rfl | rfl | rfl | rfl := hi <;>
    refine State.unit_of_staysCalm q ha hc ?_ (Dev.StaysCalm.refl d).taken.bump <;> dsimp only <;> rw [hpass] <;> dsimp only
  · rw [hstream, hnone]
    simp [hended, hahead, hpassAhead, Dev.stale]
  · rw [hstream, hnone]
    rfl
  · rw [htarget]
    rfl
  · rw [htarget]
    rfl

include hinst in
theorem exec_ticket_granted {y : SendStep} {new : List Nat} (hsend : x.send (ctlStep c 52) (ctlPhase c) = some y)
    (hpeer : y.peer = rank) (hbegun : y.begun = true) (hgen : c.f 48 0 32 = k % 2 ^ 32)
    (hnew : new = ((List.range (min (c.f 44 0 32) (stepChunks y.len - c.f 40 0 32))).map (c.f 40 0 32 + ·)).filter
      fun i => !y.grants.contains i) :
    exec (.ticket c) ⟨q, d⟩ = .next ⟨q, Dev.orFault ((s.updX k fun x => x.updSend (ctlStep c 52) (ctlPhase c) fun z =>
      { z with grants := z.grants ++ new, answered := true }).sendGranted k (ctlStep c 52) (ctlPhase c)) k⟩ := by
  subst hs hnew
  refine State.unit_of_staysCalm q ha hc ?_ (Dev.StaysCalm.refl d).taken.updX.sendGranted.orFault
  dsimp only
  rw [hpass]
  dsimp only
  rw [hinst]
  dsimp only
  rw [hsend]
  exact if_neg (by simp [hpeer, hbegun, hgen])

variable {y : SendStep} (htarget : s.mapTarget g rank c = some (k, y))
include htarget

theorem exec_compl_counts : exec (.compl c) ⟨q, d⟩ = .next ⟨q, (s.countChunks k g.gid y (mapChunks c)).xferProgress k⟩ := by
  subst hs
  refine State.unit_of_staysCalm q ha hc ?_ (Dev.StaysCalm.refl d).taken.countChunks.xferProgress
  dsimp only
  rw [hpass]
  dsimp only
  rw [htarget]

theorem exec_missing_sends {cs new : List Nat} {again : List SentChunk} {s2 : Dev}
    (hcs : cs = (mapChunks c).filter fun i => decide (i < stepChunks y.len))
    (hagain : again = y.sent.filter fun z =>
      cs.contains z.chunk && !z.counted && decide (z.sentAt + d.fld Reg.COL_TMR1 8 8 * 1000 ≤ d.ns))
    (hnew : new = cs.filter fun i => !y.grants.contains i && !y.sent.any fun z => z.chunk == i)
    (hsent : Dev.chunksAgain k y.step y.phase again (s.updX k fun x => x.updSend y.step y.phase fun z =>
      { z with grants := z.grants ++ new }) = (s2, true)) :
    exec (.missing c) ⟨q, d⟩ = .next ⟨q, Dev.orFault (s2.sendGranted k y.step y.phase) k⟩ := by
  subst hs hcs hagain hnew
  refine State.unit_of_staysCalm q ha hc ?_
    (((Dev.StaysCalm.refl d).taken.updX.chunksAgain _).of_fst hsent).sendGranted.orFault
  dsimp only
  rw [hpass]
  dsimp only
  rw [htarget]
  dsimp only
  have hfld : (d.taken c).fld Reg.COL_TMR1 8 8 = d.fld Reg.COL_TMR1 8 8 := rfl
  have hns : (d.taken c).ns = d.ns := rfl
  rw [hfld, hns, hsent]
  rfl

end

/-! ### Aborts and probes (R414, R415) -/

/-- Whether a carriage that names a group, a stream and an XID names this command (R406). -/
def Cmd.named (k : Cmd) (gid stream xid : Nat) : Bool :=
  match cmdInst k with
  | some (a, st, x) => a == gid && st == stream && x % 2 ^ 32 == xid
  | none => false

/-- A record leaves every command in hand but for its first error. -/
theorem Dev.cmd_record {s : Dev} {g : Nat} {c : Cmd} (cls code detail gen block inst : Nat) (h : s.cmd g = some c) :
    ∃ c', (s.record cls code detail gen block inst).cmd g = some c' ∧ c'.body = c.body := by
  have hmap : ((s.record cls code detail gen block inst).cmds.map fun c => (c.gen, c.body)) = s.cmds.map fun c => (c.gen, c.body) := by
    unfold Dev.record
    dsimp only
    split <;> exact map_updFirst (by exact fun _ => rfl) _
  have hfind (l : List Cmd) : (l.find? fun c => c.gen == g).map (fun c => (c.gen, c.body))
      = (l.map fun c => (c.gen, c.body)).find? fun x => x.1 == g := by simp [List.find?_map]
  have hkeeps : ((s.record cls code detail gen block inst).cmd g).map (fun c => (c.gen, c.body)) = some (c.gen, c.body) := by
    unfold Dev.cmd at h ⊢
    rw [hfind, hmap, ← hfind, h]
    rfl
  obtain ⟨c', hcmd', heq⟩ := Option.map_eq_some_iff.1 hkeeps
  exact ⟨c', hcmd', congrArg Prod.snd heq⟩

/-- A collective that is killed leaves the commands in hand, and what the log holds stays. -/
theorem Dev.groupKill_coll {s : Dev} {g : Nat} {c : Cmd} {r : CollRun} (status : Nat) (rerun : Bool) (hcmd : s.cmd g = some c)
    (hbody : c.body = .coll r) :
    (s.groupKill g status rerun).cmd g = none ∧ (s.groupKill g status rerun).log = s.log
      ∧ (s.groupKill g status rerun).regs = s.regs := by
  unfold Dev.groupKill Dev.killQueued Dev.kill
  simp only [hcmd, hbody]
  refine ⟨?_, s.lentEnd_log g, s.lentEnd_regs g⟩
  simp [Dev.cmd]

include ha hs hpass

/-- An ABORT of a collective that runs records its cause and its sender, and kills the collective (R415). -/
theorem exec_abort_kills {k : Cmd} {r : CollRun} (hcause : c.f 40 0 8 ≠ 3) (hbody : k.body = .coll r)
    (hlast : (s.cmds.filter fun k => k.named g.gid (ctlStream c) c.xid).getLast? = some k) (hcmd : s.cmd k.gen = some k) :
    ∃ t, exec (.abort c) ⟨q, d⟩ = .next ⟨q, t⟩ ∧ t.cmd k.gen = none
      ∧ d.Recorded t clsFAB 0x035 (c.f 40 0 8 + rank * 2 ^ 16) k.gen blkCOL g.slot := by
  have hone : s.abortOne k g (c.f 40 0 8) rank
      = (s.record clsFAB 0x035 (c.f 40 0 8 + rank * 2 ^ 16) k.gen blkCOL g.slot).groupKill k.gen 2
        (c.f 40 0 8 == 4 && cmdStalls k == 0) := by
    unfold Dev.abortOne Dev.abortRecord
    rw [hbody]
  obtain ⟨k', hcmd', hbody'⟩ := Dev.cmd_record clsFAB 0x035 (c.f 40 0 8 + rank * 2 ^ 16) k.gen blkCOL g.slot hcmd
  obtain ⟨hgone, hlog, hregs⟩ := Dev.groupKill_coll 2 (c.f 40 0 8 == 4 && cmdStalls k == 0) hcmd' (hbody'.trans hbody)
  refine ⟨_, (State.upd_of_alive q ha ?_ : execAbort c ⟨q, d⟩ = .next ⟨q, s.abortOne k g (c.f 40 0 8) rank⟩), ?_, ?_⟩
  · subst hs
    dsimp only
    rw [hpass]
    dsimp only
    rw [if_neg hcause]
    split
    · next heq => rw [Option.some.inj (heq.symm.trans hlast)]
    · next heq => exact absurd (heq.symm.trans hlast) (by simp)
  · rw [hone]
    exact hgone
  · rw [hone]
    subst hs
    exact ((d.taken c).recorded_record clsFAB 0x035 _ k.gen blkCOL g.slot).congr hlog (Dev.reg_congr hregs _)

theorem exec_probe_answers : exec (.probe c) ⟨q, d⟩
    = .next ⟨q, s.sendCtl g rank cPROBEACK 0 0 0 [(40, 0, 32, nth g.seqs 0 0 + 2 ^ 32 - 1)]⟩ := by
  subst hs
  refine (State.upd_of_alive q ha ?_ : execProbe c ⟨q, d⟩ = _)
  dsimp only
  rw [hpass]

theorem exec_probeack_counts (hprobed : rank ∈ g.probed) : exec (.probeack c) ⟨q, d⟩
    = .next ⟨q, (s.updGroup g.gid fun x => { x with probed := x.probed.erase rank }).bump Reg.COL_CNT_SLOW 1⟩ := by
  subst hs
  refine (State.upd_of_alive q ha ?_ : execProbeack c ⟨q, d⟩ = _)
  dsimp only
  rw [hpass]
  exact if_pos (by simpa using hprobed)

end
end

/-- Settles O22, a carriage at a time: each takes the branch that its hypotheses name, and on a device of which no access has to wait
that branch is not held up. -/
theorem transferCarriages : Obligations.TransferCarriages := by
  unfold Obligations.TransferCarriages
  intro q d c ha
  refine ⟨fun hgr i hi => ?_, fun hc hgr => exec_chunkReceive_noGroup ha hc hgr, ?_, ?_, ?_⟩
  · obtain hi | ⟨hc, hi⟩ := hi
    · exact exec_upd_noGroup ha hgr hi
    · exact exec_unit_noGroup ha hgr hc hi
  · intro s g rank k x y s1 s2 ok hc hs hpass hsrank hdrank hstream hs1 hinst hx hrecv hpeer hoffer hlt hgrant hdst hland
    exact exec_chunkReceive_granted ha hc hs hpass hsrank hdrank hstream hs1 hinst hx hrecv hpeer hoffer hlt hgrant hdst hland
  · intro s g rank e s1 hc hs hpass hsrank hdrank hstream hs1 hinst hended hlt
    exact exec_chunkReceive_late ha hc hs hpass hsrank hdrank hstream hs1 hinst hended hlt
  · intro s g rank hs hpass hstream
    refine ⟨fun k x y hc hinst hx _ hdigest hrecv hpeer hfirst => ?_, fun hc hnone hahead hended i hi => ?_,
      fun k x y new hc hinst hsend hpeer hbegun hgen hnew => ?_, fun k y hc htarget => ⟨?_, fun cs again new s2 hcs hagain hnew hsent => ?_⟩,
      fun k r hcause hbody hlast hcmd => ?_, exec_probe_answers ha hs hpass, exec_probeack_counts ha hs hpass⟩
    · exact exec_offer_first ha hs hpass hc (hstream ▸ hinst) hx hdigest hrecv hpeer hfirst
    · exact exec_stale ha hs hpass hc hstream hnone hahead hended hi
    · exact exec_ticket_granted ha hs hpass hc (hstream ▸ hinst) hsend hpeer hbegun hgen hnew
    · exact exec_compl_counts ha hs hpass hc htarget
    · exact exec_missing_sends ha hs hpass hc htarget hcs hagain hnew hsent
    · exact exec_abort_kills ha hs hpass hcause hbody (by rw [hstream]; exact hlast) hcmd

end Sys2Proof.Machine
end

section
/-! Kills in groups (13_collectives.md): which commands they leave in hand, and that they leave the groups in the table and the registers
of the fabric as they are, one rule per operation of the model. -/
namespace Sys2Proof.Machine

-- The short theorems below are elaborated one after another: side by side, their threads' stacks exceed the memory of the check.
set_option Elab.async false

/-- The generation of a command and the group in which it works. -/
def Cmd.ofGroup (c : Cmd) : Nat × Option Nat := (c.gen, cmdGid c)

/-- From `s` to `t` commands of groups were killed: those in hand were in hand before, in the same groups; the table has the same
groups; and no register between the blocks of the Livery and of the errors changed. -/
structure Dev.KillsOnly (s t : Dev) : Prop where
  cmds : t.cmds.map Cmd.ofGroup ⊆ s.cmds.map Cmd.ofGroup
  groups : t.col.groups.map Group.gid = s.col.groups.map Group.gid
  reg : ∀ k, 0x800000 ≤ k → k < 0x1000000 → t.reg k = s.reg k

/-- The commands of a group that are in hand are those with its identifier. -/
theorem Dev.mem_groupCmds {s : Dev} {gid g : Nat} : g ∈ s.groupCmds gid ↔ (g, some gid) ∈ s.cmds.map Cmd.ofGroup := by
  simp [Dev.groupCmds, Cmd.ofGroup, and_comm, and_left_comm]

/-- A group is held whose identifier the table shows. -/
theorem Dev.group_isSome_iff {s : Dev} {gid : Nat} : (s.group gid).isSome = true ↔ gid ∈ s.col.groups.map Group.gid := by
  simp [Dev.group]

theorem updFirst_map_subset {α β : Type} {f : α → β} {p : α → Bool} {k : α → α} {l : List α} {b : β}
    (h : ∀ x, p x = true → f (k x) = b ∨ f (k x) = f x) : (updFirst p k l).map f ⊆ b :: l.map f := by
  induction l with
  | nil => exact fun _ hx => nomatch hx
  | cons x l ih =>
    unfold updFirst
    split
    · next hp =>
        obtain he | he := h x hp
        · simp [he]
        · simp [he]
    · rw [List.map_cons, List.map_cons]
      refine List.cons_subset.2 ⟨by simp, fun y hy => ?_⟩
      obtain rfl | hy := List.mem_cons.1 (ih hy)
      · exact .head _
      · exact .tail _ (.tail _ hy)

namespace Dev.KillsOnly
variable {s t u : Dev}

theorem refl (s : Dev) : s.KillsOnly s := ⟨fun _ h => h, rfl, fun _ _ _ => rfl⟩

theorem trans (h : s.KillsOnly t) (h' : t.KillsOnly u) : s.KillsOnly u :=
  ⟨fun _ hx => h.cmds (h'.cmds hx), h'.groups.trans h.groups, fun k lo hi => (h'.reg k lo hi).trans (h.reg k lo hi)⟩

/-- What touches neither the commands in hand nor the groups nor a register. -/
theorem frame (h : s.KillsOnly t) (e : u.cmds = t.cmds ∧ u.col = t.col ∧ u.regs = t.regs) : s.KillsOnly u := by
  obtain ⟨hcmds, hcol, hregs⟩ := e
  exact h.trans ⟨by rw [hcmds]; exact fun _ hx => hx, by rw [hcol], fun k _ _ => Dev.reg_congr hregs k⟩

theorem ite {c : Prop} [Decidable c] (ht : s.KillsOnly t) (hu : s.KillsOnly u) : s.KillsOnly (if c then t else u) := by
  split
  · exact ht
  · exact hu

theorem each {α : Type} {f : Dev → α → Dev} {l : List α} (h : s.KillsOnly t)
    (hf : ∀ {u a}, s.KillsOnly u → s.KillsOnly (f u a)) : s.KillsOnly (t.each l f) :=
  Dev.each_keeps_of_mem h fun _ _ _ => hf

theorem bump {off n : Nat} (h : s.KillsOnly t) (ho : off < 0x800000 := by decide) : s.KillsOnly (t.bump off n) :=
  h.trans ⟨fun _ hx => hx, rfl, fun _ lo _ => Dev.reg_bump_ne _ _ (by omega)⟩

theorem record {cls code detail gen block inst : Nat} (h : s.KillsOnly t) :
    s.KillsOnly (t.record cls code detail gen block inst) := by
  refine h.trans ⟨?_, by rw [Dev.record_col], fun k _ hi => Dev.reg_record_lt _ _ _ _ _ _ _ hi⟩
  have hsame : (t.record cls code detail gen block inst).cmds.map Cmd.ofGroup = t.cmds.map Cmd.ofGroup := by
    unfold Dev.record
    dsimp only
    split <;> exact map_updFirst (by exact fun _ => rfl) _
  rw [hsame]
  exact fun _ hx => hx

/-! ### Barrows given back -/

theorem livSettle (h : s.KillsOnly t) : s.KillsOnly t.livSettle := h.frame (by rw [Dev.livSettle_eq]; exact ⟨rfl, rfl, rfl⟩)
theorem livBad {code detail gen : Nat} (h : s.KillsOnly t) : s.KillsOnly (t.livBad code detail gen) := h.record.bump
theorem livRefuse {who i : Nat} (h : s.KillsOnly t) : s.KillsOnly (t.livRefuse who i) := h.livBad
theorem setBarrow {i : Nat} {b : Option Barrow} (h : s.KillsOnly t) : s.KillsOnly (t.setBarrow i b) := h.frame ⟨rfl, rfl, rfl⟩
theorem livRelease {i : Nat} (h : s.KillsOnly t) : s.KillsOnly (t.livRelease i) := h.setBarrow.bump

theorem livFreeOp {who p : Nat} (h : s.KillsOnly t) : s.KillsOnly (t.livFreeOp who p) := by
  unfold Dev.livFreeOp Dev.livOp
  split
  · exact h.livBad.livSettle
  · split
    · exact h.livRefuse.livSettle
    · exact (ite h.livRefuse (ite h.livRelease h.setBarrow)).livSettle

theorem freePlaces {who : Nat} {ps : List (Nat × Nat)} (h : s.KillsOnly t) : s.KillsOnly (t.freePlaces who ps) :=
  h.each livFreeOp

/-! ### Kills -/

/-- An exchange whose transfers change works in the same group. -/
theorem setBody {c : Cmd} {b : CmdBody} (h : s.KillsOnly t) (hc : c ∈ s.cmds) (hb : Cmd.ofGroup { c with body := b } = c.ofGroup) :
    s.KillsOnly (t.setBody c.gen b) := by
  refine ⟨fun x hx => ?_, h.groups, h.reg⟩
  have hsub := updFirst_map_subset (f := Cmd.ofGroup) (p := fun y => y.gen == c.gen) (k := fun y => { y with body := b })
    (l := t.cmds) (b := c.ofGroup) fun y hy => .inl (by
      have hgen : y.gen = c.gen := by simpa using hy
      rw [← hb]
      exact congrArg (fun n => (n, cmdGid { c with body := b })) hgen)
  obtain rfl | hx := List.mem_cons.1 (hsub hx)
  · exact List.mem_map_of_mem hc
  · exact h.cmds hx

theorem killQueued {g status : Nat} {rerun : Bool} (h : s.KillsOnly t) : s.KillsOnly (t.killQueued g status rerun) := by
  have hqueues : ∀ gs : List Group, (gs.map fun x => { x with queue := x.queue.filter (· != g) }).map Group.gid
      = gs.map Group.gid := fun gs => by simp
  unfold Dev.killQueued Dev.kill
  split
  · exact h.trans ⟨fun _ hx => hx, hqueues _, fun _ _ _ => rfl⟩
  · refine h.trans ⟨fun x hx => ?_, by simp, fun k _ _ => Dev.reg_congr (t.lentEnd_regs g) k⟩
    obtain ⟨c, hc, rfl⟩ := List.mem_map.1 hx
    exact List.mem_map_of_mem (List.mem_of_mem_filter hc)

theorem killReturns {gid xid : Nat} (h : s.KillsOnly t) : s.KillsOnly (t.killReturns gid xid) := h.each killQueued

theorem killForward {pass : Nat} (h : s.KillsOnly t) : s.KillsOnly (t.killForward pass) :=
  h.each fun h => by
    split
    · exact h.killQueued.killReturns
    · exact h

theorem dropReturns {pass : Nat} (h : s.KillsOnly t) : s.KillsOnly (t.dropReturns pass) :=
  h.trans (Dev.each_keeps_of_mem (refl t) fun u c hc hu => by
    split
    · next r hbody =>
        refine hu.freePlaces.setBody (List.mem_of_mem_filter hc) ?_
        simp [Cmd.ofGroup, cmdGid, hbody, CmdBody.xfer]
    · exact hu)

theorem groupKill {g status : Nat} {rerun : Bool} (h : s.KillsOnly t) : s.KillsOnly (t.groupKill g status rerun) := by
  unfold Dev.groupKill
  split
  · exact h
  · dsimp only
    split
    · exact ite (dropReturns (ite h.killQueued h.killQueued.bump)) (killForward (ite h.killQueued h.killQueued.bump))
    · exact ite h.killQueued h.killQueued.killReturns
    · exact h.killQueued

theorem failRecord {g code detail slot gid : Nat} (h : s.KillsOnly t) : s.KillsOnly (t.failRecord g code detail slot gid) := by
  unfold Dev.failRecord
  split
  · exact h
  · split <;> exact h.record

end Dev.KillsOnly

/-! ### What is no longer in hand -/

section
variable {s : Dev} {g status : Nat} {rerun : Bool}

/-- A command that is not in hand. -/
theorem Dev.cmd_eq_none_iff : s.cmd g = none ↔ ∀ p ∈ s.cmds.map Cmd.ofGroup, p.1 ≠ g := by
  simp [Dev.cmd, Cmd.ofGroup]

theorem Dev.KillsOnly.cmd_none {t : Dev} (h : s.KillsOnly t) (hg : s.cmd g = none) : t.cmd g = none :=
  Dev.cmd_eq_none_iff.2 fun p hp => Dev.cmd_eq_none_iff.1 hg p (h.cmds hp)

theorem Dev.cmd_killQueued_same : (s.killQueued g status rerun).cmd g = none := by
  unfold Dev.killQueued Dev.kill
  split
  · assumption
  · simp [Dev.cmd]

theorem Dev.cmd_groupKill_same : (s.groupKill g status rerun).cmd g = none := by
  have hq := Dev.KillsOnly.refl (s.killQueued g status rerun)
  have hgone := s.cmd_killQueued_same (g := g) (status := status) (rerun := rerun)
  unfold Dev.groupKill
  split
  · assumption
  · dsimp only
    split
    · exact Dev.KillsOnly.cmd_none (.ite (.dropReturns (.ite hq hq.bump)) (.killForward (.ite hq hq.bump))) hgone
    · exact Dev.KillsOnly.cmd_none (.ite hq hq.killReturns) hgone
    · exact hgone

end

/-! ### A peer that has failed (R414) -/

section
variable {s : Dev} {gid rank code : Nat} {gr : Group}

/-- What ABORTs change is what leaves the device. -/
theorem Dev.sendAborts_eq (gr : Group) (stream xid cause : Nat) :
    s.sendAborts gr stream xid cause = { s with stg := (s.sendAborts gr stream xid cause).stg } :=
  Dev.each_keeps_of_mem (P := fun u => u = { s with stg := u.stg }) rfl fun u r _ hu => by
    rw [hu]
    rfl

/-- Killed one after the other, the commands of a list are all gone. -/
theorem Dev.groupKills_done {status : Nat} {rerun : Bool} (f : Dev → Nat → Dev) (hf : ∀ (u : Dev) (g : Nat), u.KillsOnly (f u g))
    (gens : List Nat) (s : Dev) :
    s.KillsOnly (s.each gens fun u g => (f u g).groupKill g status rerun)
      ∧ ∀ g ∈ gens, (s.each gens fun u g => (f u g).groupKill g status rerun).cmd g = none := by
  induction gens generalizing s with
  | nil => exact ⟨.refl s, fun _ hg => nomatch hg⟩
  | cons g gens ih =>
    obtain ⟨hkills, hgone⟩ := ih ((f s g).groupKill g status rerun)
    refine ⟨((hf s g).groupKill).trans hkills, fun k hk => ?_⟩
    obtain rfl | hk := List.mem_cons.1 hk
    · exact hkills.cmd_none Dev.cmd_groupKill_same
    · exact hgone k hk

/-- The device with every command of a group recorded and killed, as a peer that has failed ends them; without a command the failure
itself is recorded. -/
def Dev.commandsFailed (s : Dev) (gid rank code slot : Nat) : Dev :=
  (if (s.groupCmds gid).isEmpty then s.record clsFAB code (rank + gid * 2 ^ 16) 0 blkCOL slot else s).each (s.groupCmds gid)
    fun u g => (u.failRecord g code (rank + gid * 2 ^ 16) slot gid).groupKill g 2 false

theorem Dev.peerFail_eq (hgr : s.group gid = some gr) : s.peerFail gid rank code
    = (((s.commandsFailed gid rank code gr.slot).bump Reg.COL_CNT_PEERFAIL 1).groupBroken gid).sendAborts gr 0 0 3 := by
  unfold Dev.peerFail
  rw [hgr]
  rfl

theorem Dev.commandsFailed_spec (s : Dev) (gid rank code slot : Nat) : s.KillsOnly (s.commandsFailed gid rank code slot)
    ∧ (s.commandsFailed gid rank code slot).groupCmds gid = [] := by
  have hrecord : s.KillsOnly (if (s.groupCmds gid).isEmpty then s.record clsFAB code (rank + gid * 2 ^ 16) 0 blkCOL slot else s) :=
    .ite (.record (.refl s)) (.refl s)
  obtain ⟨hkills, hgone⟩ := Dev.groupKills_done (status := 2) (rerun := false)
    (fun u g => u.failRecord g code (rank + gid * 2 ^ 16) slot gid) (fun u g => (Dev.KillsOnly.refl u).failRecord) (s.groupCmds gid)
    (if (s.groupCmds gid).isEmpty then s.record clsFAB code (rank + gid * 2 ^ 16) 0 blkCOL slot else s)
  have hall := hrecord.trans hkills
  refine ⟨hall, List.eq_nil_iff_forall_not_mem.2 fun k hk => ?_⟩
  have hbefore : k ∈ s.groupCmds gid := Dev.mem_groupCmds.2 (hall.cmds (Dev.mem_groupCmds.1 hk))
  exact Dev.cmd_eq_none_iff.1 (hgone k hbefore) _ (Dev.mem_groupCmds.1 hk) rfl

/-- The group of a peer that has failed is BROKEN and has no command left; the failure is counted. -/
theorem Dev.peerFail_breaks (hgr : s.group gid = some gr) : ∃ g, (s.peerFail gid rank code).group gid = some g ∧ g.state = gBROKEN
    ∧ (s.peerFail gid rank code).groupCmds gid = []
    ∧ (s.peerFail gid rank code).reg Reg.COL_CNT_PEERFAIL = (s.reg Reg.COL_CNT_PEERFAIL + 1) % 2 ^ 64 := by
  obtain ⟨hkills, hnone⟩ := s.commandsFailed_spec gid rank code gr.slot
  have hheld : ((s.commandsFailed gid rank code gr.slot).group gid).isSome = true := by
    rw [Dev.group_isSome_iff, hkills.groups, ← Dev.group_isSome_iff, hgr]
    rfl
  obtain ⟨g, hg⟩ := Option.isSome_iff_exists.1 hheld
  rw [Dev.peerFail_eq hgr, Dev.sendAborts_eq]
  refine ⟨{ g with state := gBROKEN }, ?_, rfl, hnone, ?_⟩
  · exact Dev.group_updGroup (f := fun g => { g with state := gBROKEN }) hg rfl
  · exact (Dev.reg_bump_same _ _ 1).trans (by rw [hkills.reg _ (by decide) (by decide)])

end
end Sys2Proof.Machine
end

section
/-! The statement about the time limits of transfers (13_collectives.md): the transfers of a command after an update, then each limit. -/
namespace Sys2Proof.Machine

-- The short theorems below are elaborated one after another: side by side, their threads' stacks exceed the memory of the check.
set_option Elab.async false

/-! ### The transfers of a command -/

section
variable {s : Dev} {k step phase : Nat} {x : Xfer} {r : RecvStep}

theorem CmdBody.xfer_mapXfer (f : Xfer → Xfer) (b : CmdBody) : (b.mapXfer f).xfer = b.xfer.map f := by
  cases b <;> simp [CmdBody.mapXfer, CmdBody.xfer, Function.comp_def]

theorem Dev.xf_of_cmd {c : Cmd} (h : s.cmd k = some c) : s.xf k = c.body.xfer := by
  unfold Dev.xf
  rw [h]

theorem Dev.xf_congr {s t : Dev} (hcmds : t.cmds = s.cmds) (hcol : t.col = s.col) (k : Nat) : t.xf k = s.xf k := by
  unfold Dev.xf
  rw [Dev.cmd_congr hcmds, hcol]

theorem find?_updFirst_of_none {α : Type} {p : α → Bool} {f : α → α} {l : List α} (h : l.find? p = none) : updFirst p f l = l := by
  induction l with
  | nil => rfl
  | cons y l ih =>
    rw [List.find?_cons] at h
    unfold updFirst
    split at h
    · exact absurd h (by simp)
    · next hy => simp [hy, ih h]

theorem Dev.xf_updX {f : Xfer → Xfer} (h : s.xf k = some x) : (s.updX k f).xf k = some (f x) := by
  cases hc : s.cmd k with
  | some c =>
    have hcmd : (s.updX k f).cmd k = some { c with body := c.body.mapXfer f } :=
      Dev.cmd_updCmd (f := fun c => { c with body := c.body.mapXfer f }) hc rfl
    rw [Dev.xf_of_cmd hcmd, CmdBody.xfer_mapXfer, ← Dev.xf_of_cmd hc, h]
    rfl
  | none =>
    unfold Dev.xf at h
    rw [hc] at h
    obtain ⟨z, hz, rfl⟩ := Option.map_eq_some_iff.1 h
    have hkey : z.key = k := by simpa using List.find?_some hz
    have hcmd : (s.updX k f).cmd k = none := by
      show (updFirst _ _ s.cmds).find? _ = none
      rw [find?_updFirst_of_none hc]
      exact hc
    have hrefusal : (s.updX k f).col.refusals.find? (fun z => z.key == k) = some { z with x := f z.x } :=
      find?_updFirst (f := fun z : RefusedPass => { z with x := f z.x }) (by simp [hkey]) hz
    unfold Dev.xf
    rw [hcmd]
    dsimp only
    rw [hrefusal]
    rfl

/-- A receive step that changes in place. -/
theorem Xfer.recv_updRecv {f : RecvStep → RecvStep} (h : x.recv step phase = some r) (hf : (f r).step = r.step ∧ (f r).phase = r.phase) :
    (x.updRecv step phase f).recv step phase = some (f r) := by
  have hr : (r.step == step && r.phase == phase) = true := List.find?_some (p := fun y : RecvStep => y.step == step && y.phase == phase) h
  exact find?_updFirst (by rw [hf.1, hf.2]; exact hr) h

end

/-! ### Reports (R407) -/

section
variable {s d : Dev} {q : List Instr} {gr : Group} {type stream xid gen step phase ord rank : Nat}

/-- Map messages change registers and join what is to leave; a set that is not empty is sent. -/
theorem Dev.sendMap_eq (fuel : Nat) (cs : List Nat) (s : Dev) : ∃ regs more,
    Dev.sendMap gr type stream xid gen step phase ord rank fuel cs s
      = { s with regs := regs, stg := { s.stg with outbox := s.stg.outbox ++ more } }
      ∧ (fuel ≠ 0 → cs ≠ [] → more ≠ []) := by
  induction fuel generalizing s cs with
  | zero => exact ⟨s.regs, [], by rw [List.append_nil]; rfl, fun h => absurd rfl h⟩
  | succ fuel ih =>
    unfold Dev.sendMap
    split
    · next hmin => exact ⟨s.regs, [], by rw [List.append_nil], fun _ hcs => absurd (List.min?_eq_none_iff.1 hmin) hcs⟩
    · next b _ =>
        dsimp only
        split
        · obtain ⟨regs, more, heq, -⟩ := ih (cs.filter (b + 64 ≤ ·))
            (Dev.bump (s.sendCtl gr rank type stream xid gen _) Reg.COL_CNT_MISSING 1)
          rw [heq]
          exact ⟨regs, _ :: more, by simp [Dev.sendCtl, Dev.formed, Dev.bump, Dev.setReg]; rfl, by simp⟩
        · obtain ⟨regs, more, heq, -⟩ := ih (cs.filter (b + 64 ≤ ·)) (s.sendCtl gr rank type stream xid gen _)
          rw [heq]
          exact ⟨regs, _ :: more, by simp [Dev.sendCtl, Dev.formed]; rfl, by simp⟩

variable {k : Nat} {x : Xfer} (ha : d.alive = true) (hx : d.xf k = some x) (hgr : d.group x.gid = some gr)
include ha hx hgr

theorem exec_complCoalesceFlush_sends {r : RecvStep} (hrecv : x.recv step phase = some r) (hreport : r.report ≠ []) :
    ∃ t y, exec (.complCoalesceFlush k step phase) ⟨q, d⟩ = .next ⟨q, t⟩ ∧ d.stg.outbox.length < t.stg.outbox.length
      ∧ t.xf k = some y ∧ (y.recv step phase).map (·.report) = some [] := by
  obtain ⟨regs, more, heq, hmore⟩ := Dev.sendMap_eq (gr := gr) (type := cCOMPL) (stream := x.stream) (xid := x.xid) (gen := k)
    (step := step) (phase := phase) (ord := x.ord) (rank := r.peer) r.report.length r.report.dedup d
  have hflush : d.flushCompl k step phase = (Dev.sendMap gr cCOMPL x.stream x.xid k step phase x.ord r.peer r.report.length
      r.report.dedup d).updX k fun x => x.updRecv step phase fun r => { r with report := [] } := by
    unfold Dev.flushCompl
    rw [hx]
    dsimp only
    rw [hgr, hrecv]
  rw [heq] at hflush
  refine ⟨_, x.updRecv step phase fun r => { r with report := [] },
    (State.upd_of_alive q ha hflush : execComplCoalesceFlush k step phase ⟨q, d⟩ = _), ?_, Dev.xf_updX hx, ?_⟩
  · have hpos : 0 < more.length := List.length_pos_iff.2 (hmore (by simpa using hreport) (by simpa using hreport))
    show d.stg.outbox.length < (d.stg.outbox ++ more).length
    rw [List.length_append]
    omega
  · rw [Xfer.recv_updRecv hrecv ⟨rfl, rfl⟩]
    rfl

end

/-! ### Time limits (R407, R408, R413 to R415) -/

/-- What a group notes of a rank once MISSING has been sent for a gap: the numbers up to the highest received are passed over (R413). -/
def Group.passOver (g : Group) (rank lo : Nat) (more : List Nat) : Group :=
  let ahead := (more.map fun n => (n + 2 ^ 32 - lo) % 2 ^ 32).foldl max 0
  { g with rxFlow := Sparse.put (fun _ => (0, [])) g.rxFlow rank ((lo + ahead + 1) % 2 ^ 32, []) }

section
variable {q : List Instr} {d : Dev} {k step phase : Nat} {x : Xfer} {gr : Group} (ha : d.alive = true)

section
variable (hc : d.calm = true)
include ha hc

theorem exec_gapTimeout {r : RecvStep} {lo : Nat} {more : List Nat} (hgr : d.group x.gid = some gr)
    (hxfers : d.xfers = [(k, x)]) (hrecvs : x.recvs = [r]) (hpeer : r.peer ≠ gr.rank)
    (hflow : Sparse.get (fun _ => (0, [])) gr.rxFlow r.peer = (lo, more)) :
    exec (.gapTimeout x.gid r.peer) ⟨q, d⟩ = .next ⟨q, if more = [] then d else
      Dev.sendMap gr cMISSING x.stream x.xid k r.step r.phase x.ord r.peer (r.grants.filter fun c => !r.placed.contains c).length
        (r.grants.filter fun c => !r.placed.contains c) (d.updGroup x.gid fun g => g.passOver r.peer lo more)⟩ := by
  refine State.unit_of_staysCalm q ha hc ?_ (.ite (.refl d) ((Dev.StaysCalm.refl d).updGroup.sendMap _))
  dsimp only
  rw [hgr]
  dsimp only
  rw [hflow]
  dsimp only
  by_cases hmore : more = []
  · rw [if_pos hmore, hmore]
    rfl
  · rw [if_neg hmore, if_neg (by simpa using hmore)]
    have hsame : ∀ f, (d.updGroup x.gid f).xfers = [(k, x)] := fun _ => hxfers
    rw [hsame]
    simp [Dev.each, hrecvs, hpeer, Group.passOver]

variable (hx : d.xf k = some x)
include hx

theorem exec_ticketGrant_grants {s0 s1 : Dev} (hearly : d.takeEarly k step phase = (s0, true))
    (hgrant : s0.grant k step phase = (s1, true)) : exec (.ticketGrant k step phase) ⟨q, d⟩ = .next ⟨q, s1.xferProgress k⟩ := by
  refine State.unit_of_staysCalm q ha hc ?_ (((Dev.StaysCalm.refl d).takeEarly.of_fst hearly).grant.of_fst hgrant).xferProgress
  dsimp only
  rw [hx]
  dsimp only
  rw [hearly]
  dsimp only
  rw [hgrant]
  rfl

theorem exec_offerRepeat_unanswered {y : SendStep} (hgr : d.group x.gid = some gr) (hsends : x.sends = [y]) (hbegun : y.begun = true)
    (hpeer : y.peer ≠ gr.rank) (hanswer : y.answered = false) (hgrants : y.grants = []) (hsent : y.sent = []) :
    exec (.offerRepeat k) ⟨q, d⟩ = .next ⟨q, (d.sendOffer gr x y k).updX k fun x =>
      x.updSend y.step y.phase fun z => { z with answered := false }⟩ := by
  refine State.unit_of_staysCalm q ha hc ?_ (Dev.StaysCalm.refl d).sendOffer.updX
  dsimp only
  rw [hx]
  dsimp only
  rw [hgr]
  simp [Dev.each, hsends, hbegun, hpeer, hanswer, hgrants, hsent, stepChunks]

theorem exec_linkDownRetransmit_again {y : SendStep} {p : Nat} {s1 : Dev} (hxfers : d.xfers = [(k, x)]) (hsends : x.sends = [y])
    (hsent : Dev.chunksAgain k y.step y.phase (y.sent.filter fun z => z.plane == some p && !z.counted) d = (s1, true)) :
    exec (.linkDownRetransmit p) ⟨q, d⟩ = .next ⟨q, s1⟩ := by
  refine State.unit_of_staysCalm q ha hc ?_ (((Dev.StaysCalm.refl d).chunksAgain _).of_fst hsent)
  rw [hxfers]
  simp [Dev.each, hsends, Dev.planeAgain, hx, hsent]

section
variable {y : SendStep} {z : SentChunk} {chunk : Nat} (hsend : x.send step phase = some y)
  (hfind : y.sent.find? (fun z => z.chunk == chunk && !z.counted) = some z)
include hsend hfind

theorem exec_chunkCompletionTimeout_again {s1 : Dev} (hbelow : z.retx < d.fld Reg.COL_TMR1 16 4)
    (hsent : d.chunkAgain k step phase z = (s1, true)) :
    exec (.chunkCompletionTimeout k step phase chunk) ⟨q, d⟩ = .next ⟨q, s1⟩ := by
  refine State.unit_of_staysCalm q ha hc ?_ ((Dev.StaysCalm.refl d).chunkAgain.of_fst hsent)
  dsimp only
  rw [hx]
  dsimp only
  rw [hsend]
  dsimp only
  rw [hfind]
  dsimp only
  rw [if_pos hbelow, hsent]
  rfl

theorem exec_chunkCompletionTimeout_fails (hlimit : d.fld Reg.COL_TMR1 16 4 ≤ z.retx) :
    exec (.chunkCompletionTimeout k step phase chunk) ⟨q, d⟩ = .next ⟨q, d.peerFail x.gid y.peer 0x034⟩ := by
  refine State.unit_of_staysCalm q ha hc ?_ (Dev.StaysCalm.refl d).peerFail
  dsimp only
  rw [hx]
  dsimp only
  rw [hsend]
  dsimp only
  rw [hfind]
  exact if_neg (Nat.not_lt.2 hlimit)

end
end

section
variable {rank : Nat} (hgr : d.group x.gid = some gr) (hformed : gr.state = gFORMED) (hrank : rank ∈ gr.others)
  (hwaits : d.waitsOn x.gid rank = true)
include ha hgr hformed hrank hwaits

theorem exec_probeTimeout_probes : exec (.probeTimeout x.gid rank) ⟨q, d⟩ = .next ⟨q, (d.updGroup x.gid fun y =>
    { y with probed := y.probed ++ [rank] }).sendCtl gr rank cPROBE 0 0 0 []⟩ := by
  refine (State.upd_of_alive q ha ?_ : execProbeTimeout x.gid rank ⟨q, d⟩ = _)
  rw [hgr]
  exact if_pos (by simp [hformed, hrank, hwaits])

theorem exec_peerFailTimeout_fails : exec (.peerFailTimeout x.gid rank) ⟨q, d⟩ = .next ⟨q, d.peerFail x.gid rank 0x033⟩ := by
  refine (State.upd_of_alive q ha ?_ : execPeerFailTimeout x.gid rank ⟨q, d⟩ = _)
  rw [hgr]
  exact if_pos (by simp [hformed, hrank, hwaits])

end

include ha in
/-- A collective that stalls is recorded, counted and killed (R415). -/
theorem exec_stallTimeout_kills {c : Cmd} {r : CollRun} (hx : d.xf k = some x) (hgr : d.group x.gid = some gr) (hcmd : d.cmd k = some c)
    (hbody : c.body = .coll r) (hlimit : d.fld Reg.COL_TMR0 24 8 ≠ 0) (hactive : x.active = true) :
    ∃ t, exec (.stallTimeout k) ⟨q, d⟩ = .next ⟨q, t⟩ ∧ t.cmd k = none ∧ d.Recorded t clsFAB 0x039 x.gid k blkCOL gr.slot
      ∧ t.reg Reg.COL_CNT_STALL = (d.reg Reg.COL_CNT_STALL + 1) % 2 ^ 64 := by
  obtain rfl : r.x = x := by
    rw [Dev.xf_of_cmd hcmd, hbody] at hx
    exact Option.some.inj hx
  obtain ⟨c', hcmd', hbody'⟩ := Dev.cmd_record clsFAB 0x039 r.x.gid k blkCOL gr.slot hcmd
  obtain ⟨hgone, hlog, hregs⟩ := Dev.groupKill_coll
    (s := (d.record clsFAB 0x039 r.x.gid k blkCOL gr.slot).bump Reg.COL_CNT_STALL 1) 2 (cmdStalls c == 0)
    ((Dev.cmd_congr (Dev.bump_cmds ..) k).trans hcmd') (hbody'.trans hbody)
  have hexec : exec (.stallTimeout k) ⟨q, d⟩ = .next ⟨q, (((d.record clsFAB 0x039 r.x.gid k blkCOL gr.slot).bump Reg.COL_CNT_STALL
      1).groupKill k 2 (cmdStalls c == 0)).sendAborts gr r.x.stream r.x.xid 4⟩ := by
    refine (State.upd_of_alive q ha ?_ : execStallTimeout k ⟨q, d⟩ = _)
    have hinst : cmdInst c = some (r.x.gid, r.x.stream, r.x.xid) := by
      unfold cmdInst
      rw [hbody]
      rfl
    rw [hcmd]
    dsimp only
    rw [hinst]
    dsimp only
    rw [hgr]
    exact if_neg (by simp [hlimit, hbody, CmdBody.xfer, hactive])
  rw [Dev.sendAborts_eq] at hexec
  refine ⟨_, hexec, hgone, ?_, ?_⟩
  · exact ((d.recorded_record clsFAB 0x039 r.x.gid k blkCOL gr.slot).bump 1 (by decide)).congr hlog (Dev.reg_congr hregs _)
  · refine (Dev.reg_congr hregs _).trans ((Dev.reg_bump_same _ _ 1).trans ?_)
    rw [Dev.reg_record_lt _ _ _ _ _ _ _ (by decide)]

end

/-- Settles O23, a limit at a time: each takes the branch that its hypotheses name, and on a device of which no access has to wait that
branch is not held up. -/
theorem transferTimeLimits : Obligations.TransferTimeLimits := by
  unfold Obligations.TransferTimeLimits
  intro q d k step phase x gr ha hx hgr
  have hone : ∀ c, d.cmds = [c] → d.col.refusals = [] → c.gen = k → d.xfers = [(k, x)] := fun c hcmds hrefusals hgen => by
    have hcmd : d.cmd k = some c := by simp [Dev.cmd, hcmds, hgen]
    have hbody : c.body.xfer = some x := (Dev.xf_of_cmd hcmd).symm.trans hx
    simp [Dev.xfers, hcmds, hrefusals, hbody, hgen]
  refine ⟨fun s0 s1 hc hearly hgrant => exec_ticketGrant_grants ha hc hx hearly hgrant,
    fun r hrecv hreport => exec_complCoalesceFlush_sends ha hx hgr hrecv hreport,
    fun y hc hsends hbegun hpeer hanswer hgrants hsent =>
      exec_offerRepeat_unanswered ha hc hx hgr hsends hbegun hpeer hanswer hgrants hsent,
    fun c y p s1 hc hcmds hrefusals hgen hsends hsent =>
      exec_linkDownRetransmit_again ha hc hx (hone c hcmds hrefusals hgen) hsends hsent,
    fun y z chunk s1 hc hsend hfind hbelow hsent => exec_chunkCompletionTimeout_again ha hc hx hsend hfind hbelow hsent,
    fun c r lo more hc hcmds hrefusals hgen hrecvs hpeer hflow =>
      exec_gapTimeout ha hc hgr (hone c hcmds hrefusals hgen) hrecvs hpeer hflow,
    fun rank hformed hrank hwaits => ⟨exec_probeTimeout_probes ha hgr hformed hrank hwaits, ?_⟩,
    fun y z chunk hc hsend hfind hlimit => ?_,
    fun c r hcmd hbody hlimit hactive => exec_stallTimeout_kills ha hx hgr hcmd hbody hlimit hactive⟩
  · obtain ⟨g, hg, hbroken, hnone, hcount⟩ := Dev.peerFail_breaks (rank := rank) (code := 0x033) hgr
    exact ⟨_, g, exec_peerFailTimeout_fails ha hgr hformed hrank hwaits, hg, hbroken, hnone, hcount⟩
  · obtain ⟨g, hg, hbroken, -, hcount⟩ := Dev.peerFail_breaks (rank := y.peer) (code := 0x034) hgr
    exact ⟨_, g, exec_chunkCompletionTimeout_fails ha hc hx hsend hfind hlimit, hg, hbroken, hcount⟩

end Sys2Proof.Machine
end

section
/-! The statement about forming groups (13_collectives.md): it fails where the GFORM came by a ring beyond the 256 of the device, which
it does not rule out. -/
namespace Sys2Proof.Machine

set_option Elab.async false

/-- A ring that the device does not have: its registers would lie among those of the error log (R450). -/
def strayRing : Nat := 0x6FF81

theorem strayRing_registers :
    Reg.HST_RHEAD strayRing = Reg.ERR_CNT clsFAB ∧ Reg.HST_RCFG strayRing = Reg.ERR_CNT clsMEM := by decide

/-- Group 5 in formation, with this device as rank 0 of two. -/
def strayGroup : Group :=
  { slot := 0, gid := 5, state := gFORMING, members := [9, 8], rank := 0, eager := 0, epoch := 0, digest := 0xAB, level := 0,
    reserve := chBase, seqs := [0, 0, 0, 0], acked := [], levels := [], formGen := 7, queue := [], slots := [], early := [],
    txFlow := [], rxFlow := [], used := [], probed := [], ended := [] }

/-- A working device whose upstream link is up; the GFORM of group 5 is armed and came by the stray ring, the size of whose
completion queue would be read from the counter of memory errors, here 2^16. -/
def strayForming : Dev :=
  let s := (Dev.reset.setReg Reg.GRD_BOOTSTAT 0x105).setGrd fun g => { g with stage := .run }
  let s := (s.setReg Reg.HST_STAT 0x100).setReg (Reg.ERR_CNT clsMEM) (2 ^ 16)
  { s with
    col := { s.col with groups := [strayGroup] }
    cmds := [⟨7, .ring strayRing, 0, 0, [], [], none, .gform 5⟩] }

/-- The count of fabric errors when a command has been answered. -/
def fabricErrors : Host.Outcome State Fault Refusal → Nat
  | .next s => s.dev.reg (Reg.ERR_CNT clsFAB)
  | _ => 0

theorem strayForming_meets : strayForming.alive = true ∧ strayForming.group 5 = some strayGroup ∧ strayGroup.state = gFORMING
    ∧ strayForming.reg (Reg.ERR_CNT clsFAB) = 0 := by decide +kernel

/-- The time limit counts one error; then the completion record of the GFORM advances the tail of the stray ring, which is in the
upper half of that count (R453). -/
theorem fabricErrors_formTimeout : fabricErrors (exec (.formTimeout 5) ⟨[], strayForming⟩) = 2 ^ 16 + 1 := by decide +kernel

/-- Refutes O20: the statement has the end of a formation make one error record, with its class counted once; but it lets the GFORM
have come by any ring, and where that ring is none of the 256 its completion record changes the count. -/
theorem not_groupFormation : ¬ Obligations.GroupFormation := by
  unfold Obligations.GroupFormation
  intro h
  obtain ⟨halive, hgroup, hforming, hzero⟩ := strayForming_meets
  obtain ⟨-, -, hform, -⟩ := h [] strayForming 5 halive
  obtain ⟨-, -, -, -, -, t, hexec, -, -, rank, -, hcount, -⟩ := hform strayGroup hgroup hforming
  have htwo := fabricErrors_formTimeout
  rw [hexec, fabricErrors, hcount, hzero] at htwo
  exact absurd htwo (by decide)

end Sys2Proof.Machine
end

section
/-! What an access to memory leaves of collectives (13_collectives.md): the groups, the passes that were refused, and the run of every
collective in hand, whatever the access corrects, retires, moves or asks a lender for. One rule per operation of the model. -/
namespace Sys2Proof.Machine

-- The short theorems below are elaborated one after another: side by side, their threads' stacks exceed the memory of the check.
set_option Elab.async false

/-- The run of a collective. -/
def CmdBody.collRun : CmdBody → Option CollRun
  | .coll r => some r
  | _ => none

/-- A command as collectives see it: its generation and its run. -/
def Cmd.collPart (c : Cmd) : Nat × Option CollRun := (c.gen, c.body.collRun)

/-- Between `s` and `t` no group, no refused pass and no run of a collective changed, and the commands in hand are the same. -/
structure Dev.KeepsColls (s t : Dev) : Prop where
  col : t.col = s.col
  cmds : t.cmds.map Cmd.collPart = s.cmds.map Cmd.collPart

namespace Dev.KeepsColls
variable {s t u : Dev}

theorem refl (s : Dev) : s.KeepsColls s := ⟨rfl, rfl⟩

theorem trans (h : s.KeepsColls t) (h' : t.KeepsColls u) : s.KeepsColls u := ⟨h'.col.trans h.col, h'.cmds.trans h.cmds⟩

/-- What touches neither the groups nor the commands in hand. -/
theorem frame (h : s.KeepsColls t) (e : u.col = t.col ∧ u.cmds = t.cmds := by exact ⟨rfl, rfl⟩) : s.KeepsColls u :=
  h.trans ⟨e.1, by rw [e.2]⟩

theorem asksOnly (h : s.KeepsColls t) (e : t.AsksOnly u) : s.KeepsColls u := h.frame (by rw [e.eq]; exact ⟨rfl, rfl⟩)

theorem each {α : Type} {f : Dev → α → Dev} {l : List α} (h : s.KeepsColls t)
    (hf : ∀ {u a}, s.KeepsColls u → s.KeepsColls (f u a)) : s.KeepsColls (t.each l f) :=
  Dev.each_keeps_of_mem h fun _ _ _ => hf

theorem ite {c : Prop} [Decidable c] (ht : s.KeepsColls t) (hu : s.KeepsColls u) : s.KeepsColls (if c then t else u) := by
  split
  · exact ht
  · exact hu

theorem iteFst {α : Type} {c : Prop} [Decidable c] {p q : Dev × α} (hp : s.KeepsColls p.1) (hq : s.KeepsColls q.1) :
    s.KeepsColls (if c then p else q).1 := by
  split
  · exact hp
  · exact hq

theorem of_fst {α : Type} {p : Dev × α} {a : α} (h : s.KeepsColls p.1) (e : p = (u, a)) : s.KeepsColls u := by
  rw [e] at h; exact h

/-! ### Registers, memory, errors -/

theorem setReg {off v : Nat} (h : s.KeepsColls t) : s.KeepsColls (t.setReg off v) := h.frame
theorem setFld {off lo w v : Nat} (h : s.KeepsColls t) : s.KeepsColls (t.setFld off lo w v) := h.frame
theorem bump {off n : Nat} (h : s.KeepsColls t) : s.KeepsColls (t.bump off n) := h.frame
theorem setLine {k : Nat} {l : LineState} (h : s.KeepsColls t) : s.KeepsColls (t.setLine k l) := h.frame
theorem setRing {r : Nat} {x : Ring} (h : s.KeepsColls t) : s.KeepsColls (t.setRing r x) := h.frame
theorem poisonAt {tier a : Nat} (h : s.KeepsColls t) : s.KeepsColls (t.poisonAt tier a) := h.frame
theorem setPte {p e : Nat} (h : s.KeepsColls t) : s.KeepsColls (t.setPte p e) := h.frame
theorem setTiers {f : Tiers → Tiers} (h : s.KeepsColls t) : s.KeepsColls (t.setTiers f) := h.frame

theorem wrBytes {k : Nat} {bs : List Byte} (h : s.KeepsColls t) : s.KeepsColls (t.wrBytes k bs) :=
  (h.each (f := fun s p => s.wr (k + p.1) p.2) (l := (List.range bs.length).zip bs) fun h => h.frame).frame

theorem wrNum {k n v : Nat} (h : s.KeepsColls t) : s.KeepsColls (t.wrNum k n v) := h.wrBytes

theorem record {cls code detail gen block inst : Nat} (h : s.KeepsColls t) :
    s.KeepsColls (t.record cls code detail gen block inst) := by
  refine h.trans ⟨t.record_col _ _ _ _ _ _, ?_⟩
  unfold Dev.record
  dsimp only
  split <;> exact map_updFirst (by exact fun _ => rfl) _

theorem fenceEnter {kind index : Nat} (h : s.KeepsColls t) : s.KeepsColls (t.fenceEnter kind index) := ite h.record h.frame

theorem ctrFault {a g : Nat} (h : s.KeepsColls t) : s.KeepsColls (t.ctrFault a g) := by
  unfold Dev.ctrFault
  split
  · exact h.bump.poisonAt.record
  · exact h.bump.setLine.poisonAt.record
  · exact h

theorem ctrAdd {a n : Nat} (h : s.KeepsColls t) : s.KeepsColls (t.ctrAdd a n) :=
  ite h (wrNum (ite h.setLine.bump h))

theorem unitAdd {a n : Nat} (h : s.KeepsColls t) : s.KeepsColls (t.unitAdd a n) := by
  unfold Dev.unitAdd
  split
  · exact h.bump.poisonAt
  · exact h.ctrFault
  · exact h.ctrAdd

/-! ### Moves of pages -/

theorem noteLost {p : Nat} (h : s.KeepsColls t) : s.KeepsColls (t.noteLost p) := by
  unfold Dev.noteLost
  split
  · exact h.setTiers
  · exact h.setTiers
  · exact h

theorem setMstate {p m : Nat} (h : s.KeepsColls t) : s.KeepsColls (t.setMstate p m) := by
  unfold Dev.setMstate
  dsimp only
  split
  · exact h.noteLost.setPte
  · exact h.setPte

theorem moveStart {m : PageMove} (h : s.KeepsColls t) : s.KeepsColls (t.moveStart m) := by
  unfold Dev.moveStart
  dsimp only
  split
  · exact h.bump.setMstate.frame
  · exact h.setMstate.frame

/-- A MOVE that counts a page is no collective. -/
theorem updMove {g : Nat} {f : MoveRun → MoveRun} (h : s.KeepsColls t) : s.KeepsColls (t.updMove g f) :=
  h.trans ⟨rfl, map_updFirst (fun c => by unfold Cmd.collPart; split <;> simp [*, CmdBody.collRun]) _⟩

theorem ttSettle (n : Nat) (h : s.KeepsColls t) : s.KeepsColls (t.ttSettle n) := by
  induction n generalizing t with
  | zero => exact h
  | succ n ih =>
    unfold Dev.ttSettle
    split
    · split
      · exact ih h.setTiers.unitAdd
      · exact h
    · exact h

theorem ttEndCheck (h : s.KeepsColls t) : s.KeepsColls t.ttEndCheck := ite h.frame h

theorem settle {b : MoveBy} {what : Nat} (h : s.KeepsColls t) : s.KeepsColls (t.settle b what) := by
  unfold Dev.settle
  split
  · exact h.updMove
  · exact ttSettle _ h.setTiers
  · exact h

theorem notAdmitted {b : MoveBy} {p : Nat} (h : s.KeepsColls t) : s.KeepsColls (t.notAdmitted b p) :=
  settle (ite h.bump h.bump.record.setTiers)

theorem tryPage {page target pool : Nat} {urgent : Bool} {b : MoveBy} (h : s.KeepsColls t) :
    s.KeepsColls (t.tryPage page target pool urgent b).1 := by
  unfold Dev.tryPage
  refine iteFst h (iteFst ?unmapped (iteFst h.bump.settle (iteFst h.bump.settle (iteFst h.notAdmitted (iteFst h (iteFst h
    (iteFst (iteFst ?take (iteFst ?retire ?evict)) ?out)))))))
  case unmapped =>
    split <;> dsimp only
    · exact h.settle
    · exact h.bump.settle
  case take =>
    split
    · exact h.moveStart
    · exact h.notAdmitted
  case retire =>
    split
    · exact h.moveStart
    · exact h
  case evict =>
    split
    · exact h.notAdmitted
    · refine iteFst h ?_
      split
      · exact h.notAdmitted
      · refine frame (moveStart ?_)
        split
        · exact h.bump.updMove
        · exact h.bump
  case out =>
    split
    · exact h.moveStart
    · exact h.notAdmitted

theorem pumpReq (n : Nat) {r : MoveReq} (h : s.KeepsColls t) : s.KeepsColls (t.pumpReq n r).1 := by
  induction n generalizing t r with
  | zero => exact h
  | succ n ih =>
    unfold Dev.pumpReq
    refine iteFst h ?_
    split
    next heq => exact iteFst (ih (h.tryPage.of_fst heq)) h

theorem pumpAll (rs : List MoveReq) {blocked : Bool} (h : s.KeepsColls t) : s.KeepsColls (Dev.pumpAll rs blocked t).1 := by
  induction rs generalizing t blocked with
  | nil => exact h
  | cons r rs ih =>
    unfold Dev.pumpAll
    refine iteFst (ih h) ?_
    have h1 := h.pumpReq (r.count + 1) (r := r)
    dsimp only
    split
    · exact ih h1
    · exact ih h1

theorem pump (h : s.KeepsColls t) : s.KeepsColls t.pump := (setTiers (h.pumpAll t.tiers.reqs)).ttEndCheck

theorem hostFault {a : Nat} (h : s.KeepsColls t) : s.KeepsColls (t.hostFault a) := ite h.bump.bump.setTiers.record h.bump.bump.setTiers

/-! ### Writes -/

theorem touch {a n : Nat} (h : s.KeepsColls t) : s.KeepsColls (t.touch a n) := ite h (h.each fun h => ite h h.setPte)

theorem lentStore {g k n : Nat} (h : s.KeepsColls t) : s.KeepsColls (t.lentStore g k n) :=
  h.each fun h => ite (h.asksOnly (.askReq _ _)) (h.asksOnly (.askReq _ _)).frame

theorem homeWrite {g e off : Nat} {bs : List Byte} (h : s.KeepsColls t) : s.KeepsColls (t.homeWrite g e off bs) :=
  ite h.wrBytes.lentStore h.wrBytes

theorem pageWrite {g p off : Nat} {bs : List Byte} (h : s.KeepsColls t) : s.KeepsColls (t.pageWrite g p off bs) :=
  ite h.setTiers (ite h.setTiers.homeWrite h.homeWrite)

theorem snoopGate {any : Bool} {p : Nat → Bool} (h : s.KeepsColls t) : s.KeepsColls (t.snoopGate any p).1 :=
  h.asksOnly (.snoopSend _ _)

theorem snooped {wr : Bool} {a n : Nat} (h : s.KeepsColls t) : s.KeepsColls (t.snooped wr a n) :=
  ite h (ite h.snoopGate (ite h.snoopGate.setTiers (h.snoopGate.each setTiers)))

theorem lentNeed {g : Nat} {ks : List Nat} (h : s.KeepsColls t) : s.KeepsColls (t.lentNeed g ks) :=
  ite h (h.asksOnly (.lentLoad _ _ _)).setTiers

theorem jobWrite {g a : Nat} {bs : List Byte} (h : s.KeepsColls t) : s.KeepsColls (t.jobWrite g a bs) := by
  have h1 : s.KeepsColls ((if g = hostWr then t else t.snooped true a bs.length).lentParts (if g = hostWr then 0 else g) a bs.length) :=
    (ite h h.snooped).lentNeed
  exact ite h1 (ite h1.wrBytes (h1.touch.each fun h => ite h.wrBytes h.pageWrite))

/-! ### Frames that are retired, and reads -/

theorem retireAsk {p : Nat} (h : s.KeepsColls t) : s.KeepsColls (t.retireAsk p) := ite h.setTiers h

theorem heldLost {m : PageMove} (h : s.KeepsColls t) : s.KeepsColls (t.heldLost m) :=
  h.each fun h => ite h.hostFault (ite h.bump h.bump.record.setTiers)

theorem moveCancel {m : PageMove} {mst : Nat} (h : s.KeepsColls t) : s.KeepsColls (t.moveCancel m mst) := by
  have hdrop : s.KeepsColls (t.dropMove m.page) := h.frame
  exact (settle (ite (hdrop.setMstate.bump.each pageWrite) hdrop.setMstate.bump.heldLost)).setTiers.retireAsk

theorem destFail {m : PageMove} (h : s.KeepsColls t) : s.KeepsColls (t.destFail m) := h.record.moveCancel.pump

theorem retireFrame {g f : Nat} (h : s.KeepsColls t) : s.KeepsColls (t.retireFrame g f) := by
  refine ite h ?_
  dsimp only
  split
  · exact (each (setTiers (ite h.record h.record.fenceEnter)) destFail).retireAsk.pump
  · exact each (setTiers (ite h.record h.record.fenceEnter)) destFail

theorem frameCe {g f : Nat} (h : s.KeepsColls t) : s.KeepsColls (t.frameCe g f) := ite h.setTiers.retireFrame h.setTiers

theorem lineRead {cmd : Bool} {g a k : Nat} (h : s.KeepsColls t) : s.KeepsColls (t.lineRead cmd g a k).1 := by
  unfold Dev.lineRead
  dsimp only
  split
  · exact h
  · exact ite h.setLine.bump.frameCe h.setLine.bump
  · exact iteFst h.setLine.poisonAt.bump.record.retireFrame h.setLine.poisonAt.bump.record
  · exact ite h.bump.poisonAt.record h.bump.poisonAt

theorem readLines (cmd : Bool) (g : Nat) (as : List Nat) (h : s.KeepsColls t) : s.KeepsColls (Dev.readLines cmd g as t).1 := by
  induction as generalizing t with
  | nil => exact h
  | cons a as ih =>
    unfold Dev.readLines
    split
    · exact ite h.bump.record h
    · exact iteFst (ih h.lineRead) h.lineRead

theorem spanRead {g a n : Nat} (h : s.KeepsColls t) : s.KeepsColls (t.spanRead g a n).1 := h.touch.snooped.lentNeed

theorem cmdRead {g a n : Nat} (h : s.KeepsColls t) : s.KeepsColls (t.cmdRead g a n).1 :=
  iteFst (h.readLines true g (lineAddrs a n)).spanRead (h.readLines true g (lineAddrs a n))

theorem unitRead {a n : Nat} (h : s.KeepsColls t) : s.KeepsColls (t.unitRead a n).1 :=
  iteFst (h.readLines false 0 (lineAddrs a n)).spanRead (h.readLines false 0 (lineAddrs a n))

theorem cmdWrite {g a : Nat} {bs : List Byte} (h : s.KeepsColls t) : s.KeepsColls (t.cmdWrite g a bs).1 := by
  unfold Dev.cmdWrite
  split
  · exact h.bump.record
  · exact h.jobWrite

theorem outGate {c : Cmd} (h : s.KeepsColls t) : s.KeepsColls (t.outGate c).1 := iteFst h h.snoopGate

/-! ### Barrows, rings, and what leaves the device -/

theorem livSettle (h : s.KeepsColls t) : s.KeepsColls t.livSettle := ite h.frame h.frame
theorem livRefuse {who i : Nat} (h : s.KeepsColls t) : s.KeepsColls (t.livRefuse who i) := h.record.bump

theorem livFreeOp {who p : Nat} (h : s.KeepsColls t) : s.KeepsColls (t.livFreeOp who p) := by
  unfold Dev.livFreeOp Dev.livOp
  split
  · exact livSettle (bump h.record)
  · split
    · exact h.livRefuse.livSettle
    · exact livSettle (ite h.livRefuse (ite h.frame h.frame))

theorem drainRecs (r n : Nat) (h : s.KeepsColls t) : s.KeepsColls (t.drainRecs r n) := by
  induction n generalizing t with
  | zero => exact h
  | succ n ih =>
    unfold Dev.drainRecs
    split
    · exact h
    · exact ite h (ih h.frame)

theorem postRec {r : Nat} {c : CplRec} (h : s.KeepsColls t) : s.KeepsColls (t.postRec r c) := by
  have h1 := (h.setRing (r := r) (x := { t.ring r with held := (t.ring r).held ++ [c] })).drainRecs r ((t.ring r).held.length + 1)
  exact ite h1.setFld h1

theorem refuse {src : Source} {d : Line} {r : Refuse} (h : s.KeepsColls t) : s.KeepsColls (t.refuse src d r) := by
  unfold Dev.refuse
  dsimp only
  split
  · exact h.record.postRec
  · exact h.record

theorem complete {c : Cmd} {status result : Nat} (h : s.KeepsColls t) : s.KeepsColls (t.complete c status result) := by
  unfold Dev.complete
  split
  · exact h.setRing.postRec
  · exact h.frame
  · exact h

theorem sendCtl {gr : Group} {rank type stream xid gen : Nat} {fs : List (Nat × Nat × Nat × Nat)} (h : s.KeepsColls t) :
    s.KeepsColls (t.sendCtl gr rank type stream xid gen fs) := h.frame
theorem sendAborts {gr : Group} {stream xid cause : Nat} (h : s.KeepsColls t) :
    s.KeepsColls (t.sendAborts gr stream xid cause) := h.each sendCtl

theorem sendMap {gr : Group} {type stream xid gen step phase ord rank : Nat} (n : Nat) {cs : List Nat} (h : s.KeepsColls t) :
    s.KeepsColls (Dev.sendMap gr type stream xid gen step phase ord rank n cs t) := by
  obtain ⟨regs, more, heq, -⟩ := Dev.sendMap_eq n cs t
  rw [heq]
  exact h.frame

theorem signalTo {l : Line} {p : Nat} (h : s.KeepsColls t) : s.KeepsColls (t.signalTo l p) := ite h h.wrNum

theorem chunkCar {g : Nat} {gr : Group} {x : Xfer} {y : SendStep} {c : Nat} (h : s.KeepsColls t) :
    s.KeepsColls (t.chunkCar g gr x y c).1 := by
  unfold Dev.chunkCar
  dsimp only
  split
  · exact h
  · refine iteFst h ?_
    split <;> exact h.cmdRead.of_fst ‹_›
  · split
    · exact h.cmdRead.of_fst ‹_›
    · refine iteFst (h.cmdRead.of_fst ‹_›) ?_
      split <;> exact (h.cmdRead.of_fst ‹_›).cmdRead.of_fst ‹_›

/-! ### What is kept -/

theorem group (h : s.KeepsColls t) (gid : Nat) : t.group gid = s.group gid := by
  unfold Dev.group
  rw [h.col]

end Dev.KeepsColls
end Sys2Proof.Machine
end

section
/-! A collective that was taken out of its group's queue and started (R400): whatever its steps do, it stays out of the queue, and it runs
until it ends. One rule per operation of the model. -/
namespace Sys2Proof.Machine

-- The short theorems below are elaborated one after another: side by side, their threads' stacks exceed the memory of the check.
set_option Elab.async false

/-- The command `k`, while it is in hand, is a collective that runs, and the group has a queue in which it does not stand. -/
structure Dev.Started (k gid : Nat) (ns : List Nat) (s : Dev) : Prop where
  /-- The group has this queue. -/
  queue : (s.group gid).map Group.queue = some ns
  /-- While the command `k` is in hand it is a collective that runs. -/
  command : ∀ c, s.cmd k = some c → ∃ r, c.body = .coll r ∧ r.x.active = true
  /-- So do the transfers that a refused pass holds under the same key. -/
  refusal : ∀ z, (s.col.refusals.find? fun z => z.key == k) = some z → z.x.active = true
  /-- It does not stand in the queue. -/
  out : k ∉ ns

section
variable {s : Dev} {k gid : Nat} {ns : List Nat}

theorem CmdBody.collRun_eq_some {b : CmdBody} {r : CollRun} : b.collRun = some r ↔ b = .coll r := by
  cases b <;> simp [CmdBody.collRun]

/-- The collective of a generation among those in hand. -/
theorem Dev.cmd_map_collPart (s : Dev) (k : Nat) :
    (s.cmd k).map Cmd.collPart = (s.cmds.map Cmd.collPart).find? fun x => x.1 == k := by
  simp [Dev.cmd, List.find?_map, Function.comp_def, Cmd.collPart]

theorem Dev.group_map_queue (s : Dev) (gid : Nat) : (s.group gid).map Group.queue
    = ((s.col.groups.map fun g => (g.gid, g.queue)).find? fun x => x.1 == gid).map (·.2) := by
  simp [Dev.group, List.find?_map, Function.comp_def]

/-- An update that keeps the queues. -/
theorem Dev.group_updGroup_queue {n : Nat} {f : Group → Group} (hf : ∀ g, (f g).gid = g.gid ∧ (f g).queue = g.queue) :
    ((s.updGroup n f).group gid).map Group.queue = (s.group gid).map Group.queue := by
  rw [Dev.group_map_queue, Dev.group_map_queue]
  exact congrArg (fun l : List (Nat × List Nat) => (l.find? fun x => x.1 == gid).map (·.2))
    (map_updFirst (f := fun g : Group => (g.gid, g.queue)) (fun g => Prod.ext (hf g).1 (hf g).2) s.col.groups)

/-- What is found after an update, which leaves what `p` finds to be found. -/
theorem find?_updFirst_eq {α : Type} {p : α → Bool} {f : α → α} (hp : ∀ x, p x = true → p (f x) = true) (l : List α) :
    (updFirst p f l).find? p = (l.find? p).map f := by
  cases h : l.find? p with
  | none => rw [find?_updFirst_of_none h, h]; rfl
  | some x => exact find?_updFirst (hp x (List.find?_some h)) h

theorem Dev.cmd_updCmd_eq {f : Cmd → Cmd} (hf : ∀ c, (f c).gen = c.gen) : (s.updCmd k f).cmd k = (s.cmd k).map f :=
  find?_updFirst_eq (p := fun c : Cmd => c.gen == k) (fun c hc => by rw [hf]; exact hc) s.cmds

/-- The transfers under the key of a collective that was started run. -/
theorem Dev.Started.xf_active (h : s.Started k gid ns) {x : Xfer} (hx : s.xf k = some x) : x.active = true := by
  unfold Dev.xf at hx
  split at hx
  · next c hc =>
      obtain ⟨r, hbody, hactive⟩ := h.command c hc
      rw [hbody] at hx
      obtain rfl : r.x = x := Option.some.inj hx
      exact hactive
  · obtain ⟨z, hz, rfl⟩ := Option.map_eq_some_iff.1 hx
    exact h.refusal z hz

end

namespace Dev.Started
variable {s t : Dev} {k gid : Nat} {ns : List Nat}

theorem keepsColls (h : s.Started k gid ns) (e : s.KeepsColls t) : t.Started k gid ns where
  queue := by rw [e.group]; exact h.queue
  command c hc := by
    have hmap : (s.cmd k).map Cmd.collPart = some c.collPart := by
      rw [Dev.cmd_map_collPart, ← e.cmds, ← Dev.cmd_map_collPart, hc]
      rfl
    obtain ⟨c', hc', hpart⟩ := Option.map_eq_some_iff.1 hmap
    obtain ⟨r, hbody, hactive⟩ := h.command c' hc'
    have hrun : c.body.collRun = some r := by
      rw [← show c'.body.collRun = c.body.collRun from congrArg Prod.snd hpart, hbody]
      rfl
    exact ⟨r, CmdBody.collRun_eq_some.1 hrun, hactive⟩
  refusal := by rw [e.col]; exact h.refusal
  out := h.out

theorem each {α : Type} {f : Dev → α → Dev} {l : List α} (h : s.Started k gid ns)
    (hf : ∀ {u a}, u.Started k gid ns → (f u a).Started k gid ns) : (s.each l f).Started k gid ns :=
  Dev.each_keeps_of_mem h fun _ _ _ => hf

theorem ite {c : Prop} [Decidable c] (hs : s.Started k gid ns) (ht : t.Started k gid ns) :
    (if c then s else t).Started k gid ns := by
  split
  · exact hs
  · exact ht

theorem iteFst {α : Type} {c : Prop} [Decidable c] {p q : Dev × α} (hp : p.1.Started k gid ns) (hq : q.1.Started k gid ns) :
    (if c then p else q).1.Started k gid ns := by
  split
  · exact hp
  · exact hq

theorem of_fst {α : Type} {p : Dev × α} {a : α} (h : p.1.Started k gid ns) (e : p = (s, a)) : s.Started k gid ns := by
  rw [e] at h; exact h

/-! ### The group and the command -/

theorem updGroup {n : Nat} {f : Group → Group} (h : s.Started k gid ns)
    (hf : ∀ g, (f g).gid = g.gid ∧ (f g).queue = g.queue := by exact fun _ => ⟨rfl, rfl⟩) :
    (s.updGroup n f).Started k gid ns where
  queue := by rw [Dev.group_updGroup_queue hf]; exact h.queue
  command := h.command
  refusal := h.refusal
  out := h.out

/-- The transfers of the command change, and it goes on. -/
theorem updX {f : Xfer → Xfer} (h : s.Started k gid ns) (hf : ∀ x, (f x).active = x.active := by exact fun _ => rfl) :
    (s.updX k f).Started k gid ns where
  queue := h.queue
  command c hc := by
    have hmap : (s.cmd k).map (fun c => { c with body := c.body.mapXfer f }) = some c :=
      (Dev.cmd_updCmd_eq (f := fun c => { c with body := c.body.mapXfer f }) fun _ => rfl).symm.trans hc
    obtain ⟨c', hc', rfl⟩ := Option.map_eq_some_iff.1 hmap
    obtain ⟨r, hbody, hactive⟩ := h.command c' hc'
    exact ⟨{ r with x := f r.x }, by rw [hbody]; rfl, (hf r.x).trans hactive⟩
  refusal z hz := by
    have hmap : (s.col.refusals.find? fun z => z.key == k).map (fun z => { z with x := f z.x }) = some z :=
      (find?_updFirst_eq (f := fun z : RefusedPass => { z with x := f z.x }) (fun _ => id) _).symm.trans hz
    obtain ⟨z', hz', rfl⟩ := Option.map_eq_some_iff.1 hmap
    exact (hf z'.x).trans (h.refusal z' hz')
  out := h.out

/-- The run of the command changes, and it goes on. -/
theorem setColl {f : CollRun → CollRun} (h : s.Started k gid ns)
    (hf : ∀ r, (f r).x.active = r.x.active := by exact fun _ => rfl) : (s.setColl k f).Started k gid ns where
  queue := h.queue
  command c hc := by
    unfold Dev.setColl at hc
    rw [Dev.cmd_updCmd_eq fun c => by split <;> rfl] at hc
    obtain ⟨c', hc', rfl⟩ := Option.map_eq_some_iff.1 hc
    obtain ⟨r, hbody, hactive⟩ := h.command c' hc'
    exact ⟨f r, by simp only [hbody], (hf r).trans hactive⟩
  refusal := h.refusal
  out := h.out

/-! ### The end of the command -/

/-- The command is no longer in hand, and the groups and refused passes are the same. -/
theorem gone (h : s.Started k gid ns) (hcol : t.col = s.col) (hcmd : t.cmd k = none) : t.Started k gid ns where
  queue := by unfold Dev.group; rw [hcol]; exact h.queue
  command c hc := absurd (hcmd.symm.trans hc) (by simp)
  refusal := by rw [hcol]; exact h.refusal
  out := h.out

theorem kill {status : Nat} {rerun : Bool} (h : s.Started k gid ns) : (s.kill k status rerun).Started k gid ns := by
  unfold Dev.kill
  split
  · exact h
  · exact h.gone (s.lentEnd_col k) (by simp [Dev.cmd])

theorem finish {status result : Nat} (h : s.Started k gid ns) : (s.finish k status result).Started k gid ns := by
  unfold Dev.finish
  split
  · exact h
  · exact (h.gone (t := { s.lentEnd k with cmds := s.cmds.filter fun x => x.gen != k }) (s.lentEnd_col k)
      (by simp [Dev.cmd])).keepsColls (.complete (.refl _))

theorem commit {result : Nat} (h : s.Started k gid ns) : (s.commit k result).Started k gid ns := by
  unfold Dev.commit
  split
  · exact h
  · exact ite (h.keepsColls (.ctrFault (.refl s))).kill (h.keepsColls (.ctrAdd (.refl s))).finish

/-- A kill takes the command from queues in which it does not stand. -/
theorem killQueued {status : Nat} {rerun : Bool} (h : s.Started k gid ns) :
    (s.killQueued k status rerun).Started k gid ns := by
  have hkill := h.kill (status := status) (rerun := rerun)
  refine ⟨?_, hkill.command, hkill.refusal, h.out⟩
  obtain ⟨g, hg, hqueue⟩ := Option.map_eq_some_iff.1 hkill.queue
  have hgroup : (s.killQueued k status rerun).group gid = some { g with queue := g.queue.filter (· != k) } := by
    unfold Dev.killQueued Dev.group
    rw [List.find?_map]
    exact congrArg (Option.map fun x : Group => { x with queue := x.queue.filter (· != k) }) hg
  rw [hgroup, Option.map_some, hqueue]
  refine congrArg some (List.filter_eq_self.2 fun n hn => ?_)
  simp only [bne_iff_ne, ne_eq]
  exact fun e => h.out (e ▸ hn)

theorem groupKill {status : Nat} {rerun : Bool} (h : s.Started k gid ns) :
    (s.groupKill k status rerun).Started k gid ns := by
  unfold Dev.groupKill
  split
  · exact h
  · next c hc =>
      obtain ⟨r, hbody, -⟩ := h.command c hc
      rw [hbody]
      exact h.killQueued

theorem groupFault {cause status : Nat} (h : s.Started k gid ns) : (s.groupFault k cause status).Started k gid ns := by
  unfold Dev.groupFault
  split
  · exact h
  · split
    · exact h.groupKill.keepsColls (.sendAborts (.refl _))
    · exact h.groupKill

/-! ### Chunks and reports -/

theorem bump {off n : Nat} (h : s.Started k gid ns) : (s.bump off n).Started k gid ns := h.keepsColls (.bump (.refl s))
theorem formed {ep : Nat} {c : Carriage} {x : Option Nat} (h : s.Started k gid ns) : (s.formed ep c x).Started k gid ns :=
  h.keepsColls (.frame (.refl s))

theorem putChunk {step phase c : Nat} {retx eager : Bool} {excl : Option Nat} (h : s.Started k gid ns) :
    (s.putChunk k step phase c retx eager excl).1.Started k gid ns := by
  unfold Dev.putChunk
  split
  · exact h
  · split
    · dsimp only
      have hcar := fun gr x y => h.keepsColls (.chunkCar (g := k) (gr := gr) (x := x) (y := y) (c := c) (.refl s))
      split
      · exact hcar _ _ _
      · exact updX (ite (hcar _ _ _).updGroup.formed.bump (hcar _ _ _).updGroup.formed.bump)
    · exact h

theorem putChunks {step phase : Nat} {retx eager : Bool} (cs : List (Nat × Option Nat)) (h : s.Started k gid ns) :
    (Dev.putChunks k step phase retx eager cs s).1.Started k gid ns := by
  induction cs generalizing s with
  | nil => exact h
  | cons c cs ih => exact iteFst (ih h.putChunk) h.putChunk

theorem landChunk {step phase c : Nat} {bs : List Byte} (h : s.Started k gid ns) :
    (s.landChunk k step phase c bs).1.Started k gid ns := by
  unfold Dev.landChunk
  split
  · exact h
  · split
    · exact h
    · refine iteFst ?placed (updX (ite (ite (bump ?placed) (bump ?placed)) (updX (ite (bump ?placed) (bump ?placed)))))
      split
      · exact iteFst h (h.keepsColls (.cmdWrite (.refl s)))
      · split
        · exact h.keepsColls (.wrBytes (.refl s))
        · exact h
      · exact h

theorem flushCompl {step phase : Nat} (h : s.Started k gid ns) : (s.flushCompl k step phase).Started k gid ns := by
  unfold Dev.flushCompl
  split
  · exact h
  · split
    · exact (h.keepsColls (.sendMap _ (.refl s))).updX
    · exact h

theorem closeX (h : s.Started k gid ns) : (s.closeX k).Started k gid ns := by
  unfold Dev.closeX
  split
  · exact h
  · exact (h.each flushCompl).updGroup

/-! ### Steps -/

theorem selfChunks {step phase : Nat} (cs : List Nat) (h : s.Started k gid ns) :
    (Dev.selfChunks k step phase cs s).1.Started k gid ns := by
  induction cs generalizing s with
  | nil => exact h
  | cons c cs ih =>
    unfold Dev.selfChunks
    split
    · exact h
    · split
      · split
        · next heq => exact (h.keepsColls (.chunkCar (.refl s))).of_fst heq
        · next heq =>
            have h1 := (h.keepsColls (.chunkCar (.refl s))).of_fst heq
            exact iteFst h1.landChunk (ih h1.landChunk.updX)
      · exact h

theorem beginStep {step phase : Nat} (h : s.Started k gid ns) : (s.beginStep k step phase).1.Started k gid ns := by
  unfold Dev.beginStep
  split
  · exact h
  · split
    · refine iteFst h (iteFst ?_ (putChunks _ (h.updX.keepsColls (.sendCtl (.refl _))).updGroup))
      split
      · split
        · exact h.updX.updX.selfChunks _
        · exact iteFst (h.updX.updX.selfChunks _) h.updX.updX
        · exact h.updX.updX
      · exact h.updX.updX
    · exact h

theorem beginSteps {phase : Nat} (ys : List SendStep) (h : s.Started k gid ns) :
    (Dev.beginSteps k phase ys s).1.Started k gid ns := by
  induction ys generalizing s with
  | nil => exact h
  | cons y ys ih =>
    unfold Dev.beginSteps
    split
    · exact h
    · exact iteFst (iteFst (ih h.beginStep) h.beginStep) (ih h)

/-! ### Progress -/

theorem closePhase0 {r : CollRun} {gr : Group} (h : s.Started k gid ns) : (s.closePhase0 k r gr).1.Started k gid ns := by
  have hwrite : ∀ a (bs : List Byte), (if bs.isEmpty then (s, true) else s.cmdWrite k a bs).1.Started k gid ns :=
    fun _ _ => iteFst h (h.keepsColls (.cmdWrite (.refl s)))
  exact iteFst (hwrite _ _) (setColl (each (hwrite _ _) fun h => h.keepsColls (.livFreeOp (.refl _))))

theorem signalTo {l : Line} {p : Nat} (h : s.Started k gid ns) : (s.signalTo l p).Started k gid ns :=
  h.keepsColls (.signalTo (.refl s))

theorem outGate {c : Cmd} (h : s.Started k gid ns) : (s.outGate c).1.Started k gid ns := h.keepsColls (.outGate (.refl s))

theorem ctrFault {a g : Nat} (h : s.Started k gid ns) : (s.ctrFault a g).Started k gid ns := h.keepsColls (.ctrFault (.refl s))

theorem collProgress (h : s.Started k gid ns) : (s.collProgress k).Started k gid ns := by
  have hbegun := fun ys => h.beginSteps (phase := 0) ys
  unfold Dev.collProgress
  split
  · exact h
  · split
    · split
      · exact h
      · refine ite h (ite (hbegun _).groupFault ?_)
        split
        · refine ite (groupFault ?closed) (ite (groupFault ?both) ?_)
          · exact iteFst (hbegun _).closePhase0 (hbegun _)
          · exact iteFst (beginSteps _ ?closed) ?closed
          split
          · refine ite ?out (ite (ctrFault ?out).groupFault (ite (ctrFault ?out).groupFault
              (commit (bump (closeX (signalTo ?out))))))
            exact iteFst (outGate (ite ?both (setColl (signalTo ?both)))) (ite ?both (setColl (signalTo ?both)))
          · exact ?both
        · exact hbegun _
    · exact h

end Dev.Started
end Sys2Proof.Machine
end

section
/-! The statement about collectives at their arm and their admission (13_collectives.md): what the reads of an arm leave, then each
clause. -/
namespace Sys2Proof.Machine

-- The short theorems below are elaborated one after another: side by side, their threads' stacks exceed the memory of the check.
set_option Elab.async false

/-! ### Reads -/

section
variable {P : Dev → Prop} {s u : Dev}

/-- What holds of the state in which an operation ends. -/
theorem Dev.of_fst {α : Type} {p : Dev × α} {a : α} (h : P p.1) (e : p = (u, a)) : P u := by
  rw [e] at h; exact h

theorem Dev.iteFst {α : Type} {c : Prop} [Decidable c] {p q : Dev × α} (hp : P p.1) (hq : P q.1) : P (if c then p else q).1 := by
  split
  · exact hp
  · exact hq

theorem Dev.foldlFst {α β : Type} {f : Dev × β → α → Dev × β} (hf : ∀ {p a}, P p.1 → P (f p a).1) {l : List α} {p : Dev × β}
    (h : P p.1) : P (l.foldl f p).1 := by
  induction l generalizing p with
  | nil => exact h
  | cons a l ih => exact ih (hf h)

/-- What the read of a permutation table keeps, the checks of a collective keep (R392, R403). -/
theorem Dev.collBad_keeps (hread : ∀ {u : Dev} {a n : Nat}, inCH a n = true → P u → P (u.unitRead a n).1) (h : P s) (d : Line)
    (n : Nat) : P (s.collBad d n).1 := by
  have htable : P (s.permTable d n).1 := by
    unfold Dev.permTable
    dsimp only
    split
    · exact h
    · next hin =>
        have h1 := hread (by simpa using hin) h
        split <;> next heq => exact Dev.of_fst h1 heq
  unfold Dev.collBad
  dsimp only
  refine iteFst h (iteFst h (iteFst h (iteFst h (iteFst h (iteFst h (iteFst ?_ (iteFst ?_ ?_)))))))
  all_goals
    split
    · refine iteFst h (iteFst h ?_)
      split <;> next heq => exact Dev.of_fst htable heq
    · exact h
    · exact h

/-- What the reads of a command keep, the reading of its contribution keeps (R404). -/
theorem Dev.contribution_keeps {g : Nat} (hread : ∀ {u : Dev} {a n : Nat}, P u → P (u.cmdRead g a n).1) (h : P s) (d : Line)
    (coaches : Nat) : P (s.contribution g d coaches).1 := by
  unfold Dev.contribution
  dsimp only
  refine iteFst ?whole ?slots
  case whole =>
    have hone : P (s.cmdRead g (cpSrc d) (cpLen d * rtypeSize (lfield d 20 2 5))).1 := hread h
    split <;> next heq =>
      refine Dev.of_fst (iteFst h ?_) heq
      split <;> next heq => exact Dev.of_fst hone heq
  case slots =>
    split <;>
    · refine Dev.foldlFst (fun {z k} hz => ?_) h
      split
      · exact hz
      · split <;> next heq =>
          refine Dev.of_fst (iteFst (p := (z.1, some [])) hz ?_) heq
          split <;> next heq => exact Dev.of_fst (hread hz) heq

end

theorem Dev.StaysCalm.collBad {same : Prop} {s t : Dev} {l : Line} {n : Nat} (h : s.StaysCalm same t) :
    s.StaysCalm same (t.collBad l n).1 :=
  Dev.collBad_keeps (P := s.StaysCalm same) (fun _ h => h.unitRead) h l n

theorem Dev.KeepsColls.collBad {s t : Dev} {l : Line} {n : Nat} (h : s.KeepsColls t) : s.KeepsColls (t.collBad l n).1 :=
  Dev.collBad_keeps (P := s.KeepsColls) (fun _ h => h.unitRead) h l n

theorem Dev.StaysCalm.contribution {same : Prop} {s t : Dev} {g coaches : Nat} {l : Line} (h : s.StaysCalm same t) :
    s.StaysCalm same (t.contribution g l coaches).1 :=
  Dev.contribution_keeps (P := s.StaysCalm same) (fun h => h.cmdRead) h l coaches

theorem Dev.KeepsColls.contribution {s t : Dev} {g coaches : Nat} {l : Line} (h : s.KeepsColls t) :
    s.KeepsColls (t.contribution g l coaches).1 :=
  Dev.contribution_keeps (P := s.KeepsColls) (fun h => h.cmdRead) h l coaches

/-! ### Reads of the Coach House -/

/-- For what is armed in a group, `t` is as `s`: the groups, the generation that comes next, and how many collectives run. -/
structure Dev.KeepsArms (s t : Dev) : Prop where
  col : t.col = s.col
  gen : t.nextGen = s.nextGen
  active : ∀ gid, t.active0 gid = s.active0 gid

namespace Dev.KeepsArms
variable {s t u : Dev}

theorem refl (s : Dev) : s.KeepsArms s := ⟨rfl, rfl, fun _ => rfl⟩

theorem trans (h : s.KeepsArms t) (h' : t.KeepsArms u) : s.KeepsArms u :=
  ⟨h'.col.trans h.col, h'.gen.trans h.gen, fun gid => (h'.active gid).trans (h.active gid)⟩

theorem bump {off n : Nat} (h : s.KeepsArms t) : s.KeepsArms (t.bump off n) := h.trans ⟨rfl, rfl, fun _ => rfl⟩
theorem setLine {k : Nat} {l : LineState} (h : s.KeepsArms t) : s.KeepsArms (t.setLine k l) := h.trans ⟨rfl, rfl, fun _ => rfl⟩
theorem poisonAt {tier a : Nat} (h : s.KeepsArms t) : s.KeepsArms (t.poisonAt tier a) := h.trans ⟨rfl, rfl, fun _ => rfl⟩

/-- A record that names no command. -/
theorem record {cls code detail block inst : Nat} (h : s.KeepsArms t) : s.KeepsArms (t.record cls code detail 0 block inst) := by
  refine h.trans ⟨t.record_col _ _ _ _ _ _, ?_, fun gid => ?_⟩ <;>
  · unfold Dev.record
    simp only [bne_self_eq_false, Bool.false_and, updFirst_none _ fun _ => rfl]
    split <;> rfl

/-- A line of the Coach House is read outside a command (R593): no frame is retired. -/
theorem lineRead {a k : Nat} (h : s.KeepsArms t) (hhome : keyHome k ≠ 1) : s.KeepsArms (t.lineRead false 0 a k).1 := by
  have hout : (keyHome k == 1) = false := by simpa using hhome
  unfold Dev.lineRead
  simp only [hout, Bool.false_eq_true, ↓reduceIte]
  split
  · exact h
  · exact h.setLine.bump
  · exact h.setLine.poisonAt.bump.record
  · exact h.bump.poisonAt

theorem readLines {as : List Nat} (has : ∀ a ∈ as, chBase ≤ a) (h : s.KeepsArms t) : s.KeepsArms (Dev.readLines false 0 as t).1 := by
  induction as generalizing t with
  | nil => exact h
  | cons a as ih =>
    have ha := has a (.head _)
    unfold Dev.readLines Dev.xlate
    rw [if_pos ha]
    by_cases hend : a < chBase + chSize
    · rw [if_pos hend]
      have hhome : keyHome (chKey (a - chBase)) ≠ 1 := by
        rw [show chKey (a - chBase) = chAddr a from rfl, keyHome_chAddr (a := a) (n := 0) (by simp [inCH, ha]; omega)]
        decide
      exact Dev.iteFst (ih (fun a ha => has a (.tail _ ha)) (h.lineRead hhome)) (h.lineRead hhome)
    · rw [if_neg hend]
      exact h

/-- A span of the Coach House is read on a device of which no access has to wait. -/
theorem unitRead {a n : Nat} (h : s.KeepsArms t) (hc : t.calm = true) (hin : inCH a n = true) :
    s.KeepsArms (t.unitRead a n).1 := by
  have hbase : chBase ≤ a := by
    simp only [inCH, Bool.and_eq_true, decide_eq_true_eq] at hin
    exact hin.1
  have hlines : ∀ x ∈ lineAddrs a n, chBase ≤ x := fun x hx => by
    unfold lineAddrs at hx
    split at hx
    · exact nomatch hx
    · obtain ⟨y, -, rfl⟩ := List.mem_map.1 hx
      exact hbase.trans (Nat.le_max_left a y)
  have hread := h.readLines hlines
  have hcalm := ((StaysCalm.readLines false 0 (lineAddrs a n) (.refl (same := False) t)).step hc).1
  refine Dev.iteFst ?_ hread
  have hspan : ((Dev.readLines false 0 (lineAddrs a n) t).1.spanRead 0 a n).1 = (Dev.readLines false 0 (lineAddrs a n) t).1 := by
    obtain ⟨hfilter, -, -⟩ := (Dev.calm_iff _).1 hcalm
    unfold Dev.spanRead Dev.touch
    rw [Dev.lentLines_of_calm hcalm, if_pos (by simp [hin]), Dev.snooped_of_filter_nil hfilter]
    rfl
  show s.KeepsArms ((Dev.readLines false 0 (lineAddrs a n) t).1.spanRead 0 a n).1
  rw [hspan]
  exact hread

end Dev.KeepsArms

theorem Dev.KeepsArms.collBad {d : Dev} (hc : d.calm = true) (l : Line) (n : Nat) : d.KeepsArms (d.collBad l n).1 := by
  have hboth := Dev.collBad_keeps (P := fun u => d.StaysCalm False u ∧ d.KeepsArms u)
    (fun hin ⟨hcalm, harms⟩ => ⟨hcalm.unitRead, harms.unitRead (hcalm.step hc).1 hin⟩) ⟨.refl d, .refl d⟩ l n
  exact hboth.2

/-! ### The command -/

section
variable {d s s1 : Dev} {src : Source} {l : Line} {n gid : Nat} {r : Refuse} {gr : Group}

/-- A refusal in a group that takes no command (R401). -/
theorem Dev.groupRefuse_of_not_formed {stream xid : Nat} (h : ∀ g, s.group gid = some g → g.state ≠ gFORMED) :
    s.groupRefuse src l gid stream xid r = s.refuse src l r := by
  have hgroup : (s.refuse src l r).group gid = s.group gid := (KeepsColls.refuse (.refl s)).group gid
  unfold Dev.groupRefuse
  dsimp only
  rw [hgroup]
  split
  · next g hg => exact if_neg (h g hg)
  · rfl

/-- A refusal in a FORMED group takes its number and is aborted on the other members (R401). -/
theorem Dev.groupRefuse_of_formed {xid : Nat} (hgr : s.group gid = some gr) (hf : gr.state = gFORMED) :
    s.groupRefuse src l gid 0 xid r = ((s.refuse src l r).takeSeq gid 0).sendAborts gr 0 (nth gr.seqs 0 0) 1 := by
  unfold Dev.groupRefuse
  dsimp only
  rw [(KeepsColls.refuse (.refl s)).group gid, hgr]
  exact if_pos hf

/-- The members that the checks of a collective count, none without its group (log entry 174). -/
def Dev.collN (d : Dev) (l : Line) : Nat := ((d.group (cpGroup l)).map Group.n).getD 0

section
variable (hhead : d.headCheck l = none) (hdv : ¬ (dOp l = 0x0305 ∧ lfield l 20 7 1 = 1 ∧ dV l = false))
include hhead hdv

theorem Dev.collective_of_bad {k : Nat} (hbad : d.collBad l (d.collN l) = (s1, some k)) :
    d.collective src l = s1.groupRefuse src l (cpGroup l) 0 0 ⟨clsFAB, 0x030, k⟩ := by
  unfold Dev.collN at hbad
  unfold Dev.collective
  dsimp only
  rw [hhead]
  dsimp only
  rw [if_neg (by simpa using hdv)]
  cases hgr : d.group (cpGroup l) <;>
  · rw [hgr] at hbad
    simp only [Option.map_none, Option.map_some, Option.getD_none, Option.getD_some] at hbad
    simp only [hbad]

theorem Dev.collective_of_not_formed (hbad : d.collBad l (d.collN l) = (s1, none))
    (hgr : ∀ g, d.group (cpGroup l) = some g → g.state ≠ gFORMED) :
    d.collective src l = s1.groupRefuse src l (cpGroup l) 0 0 ⟨clsFAB, 0x03B, cpGroup l⟩ := by
  unfold Dev.collN at hbad
  unfold Dev.collective
  dsimp only
  rw [hhead]
  dsimp only
  rw [if_neg (by simpa using hdv)]
  cases hg : d.group (cpGroup l) with
  | none =>
    rw [hg] at hbad
    simp only [Option.map_none, Option.getD_none] at hbad
    simp only [hbad]
  | some g =>
    rw [hg] at hbad
    simp only [Option.map_some, Option.getD_some] at hbad
    simp only [hbad, if_pos (hgr g hg)]

theorem Dev.collective_of_formed (hbad : d.collBad l (d.collN l) = (s1, none)) (hgr : d.group (cpGroup l) = some gr)
    (hf : gr.state = gFORMED) (hroom : s1.groupHeld gr.gid < 64) :
    ∃ perm, d.collective src l = s1.collArm src l gr perm 0 false := by
  unfold Dev.collN at hbad
  rw [hgr] at hbad
  simp only [Option.map_some, Option.getD_some] at hbad
  refine ⟨if dOp l = 0x0303 then ((s1.permTable l gr.n).2).getD [] else [], ?_⟩
  unfold Dev.collective
  dsimp only
  rw [hhead]
  dsimp only
  rw [if_neg (by simpa using hdv), hgr]
  dsimp only
  rw [hbad]
  dsimp only
  rw [if_neg (not_not.2 hf), if_neg (by rw [← Dev.group_gid hgr]; omega)]

end

/-! ### The arm -/

/-- The body of a collective at its arm. -/
def Dev.collRunOf (s : Dev) (l : Line) (gr : Group) (perm : List Nat) : CollRun := collBody l gr perm 0 (s.reg Reg.SIZ_COACHMAP)

/-- A collective armed under the next generation with the next number of its group, and at the end of the group's queue. -/
def Dev.collQueued (s : Dev) (src : Source) (l : Line) (gr : Group) (perm : List Nat) : Dev :=
  ((s.takeSeq gr.gid 0).arm src l 0 [(jobKey (cpSrc l), (collSizes l gr.n).1)] [(jobKey (cpDst l), (collSizes l gr.n).2)]
    (.coll (s.collRunOf l gr perm))).1.updGroup gr.gid fun x => { x with queue := x.queue ++ [s.nextGen] }

theorem Dev.collQueued_eq (perm : List Nat) : ∃ rings k, s.collQueued src l gr perm
      = { (s.takeSeq gr.gid 0).updGroup gr.gid fun x => { x with queue := x.queue ++ [s.nextGen] } with
          genNext := s.nextGen + 1, cmds := s.cmds ++ [k], rings := rings }
    ∧ k.gen = s.nextGen ∧ k.desc = l ∧ k.src = src ∧ k.body = .coll (s.collRunOf l gr perm) := by
  obtain ⟨-, -, -, harm⟩ := (s.takeSeq gr.gid 0).arm_eq src l 0 [(jobKey (cpSrc l), (collSizes l gr.n).1)]
    [(jobKey (cpDst l), (collSizes l gr.n).2)] (.coll (s.collRunOf l gr perm))
  unfold Dev.collQueued
  rw [harm]
  exact ⟨_, _, rfl, rfl, rfl, rfl, rfl⟩

/-- With nothing held in advance, and while it has to wait, a collective is armed and does nothing more (R400). -/
theorem Dev.collArm_of_waits (hslots : gr.slots = []) (hearly : gr.early = []) (perm : List Nat)
    (hwait : ¬ ((s.collQueued src l gr perm).active0 gr.gid < 4
      ∧ ((s.collQueued src l gr perm).group gr.gid).map Group.queue = some [s.nextGen])) :
    s.collArm src l gr perm 0 false = s.collQueued src l gr perm := by
  have hgen : ∀ b reads writes, ((s.takeSeq gr.gid 0).arm src l 0 reads writes b).2 = s.nextGen := fun b reads writes =>
    ((s.takeSeq gr.gid 0).arm_eq src l 0 reads writes b).1
  have hfilter : ∀ {α : Type} [BEq α] (ys : List α), ys.filter (fun y => !([] : List α).contains y) = ys := fun ys =>
    List.filter_eq_self.2 fun _ _ => rfl
  unfold Dev.collArm
  simp only [hslots, hearly, List.filter_nil, hfilter, hgen, List.head?_nil, List.find?_nil, Dev.each, List.foldl_nil,
    Dev.acceptChunks, Bool.not_true, Bool.false_eq_true, ↓reduceIte]
  refine if_neg fun h => hwait ?_
  obtain ⟨hfew, hfirst⟩ := Bool.and_eq_true_iff.1 h
  exact ⟨of_decide_eq_true hfew, eq_of_beq hfirst⟩

/-- What is armed does not run yet. -/
theorem Dev.active0_collQueued (perm : List Nat) (n : Nat) : (s.collQueued src l gr perm).active0 n = s.active0 n := by
  obtain ⟨rings, k, heq, -, -, -, hbody⟩ := s.collQueued_eq (src := src) (l := l) (gr := gr) perm
  rw [heq]
  unfold Dev.active0
  simp only [List.filter_append, List.length_append, List.filter_cons, List.filter_nil, hbody, CmdBody.xfer]
  simp [Dev.collRunOf, collBody]
  rfl

theorem Dev.group_collQueued (perm : List Nat) (hgr : s.group gr.gid = some gr) :
    (s.collQueued src l gr perm).group gr.gid
      = some { gr with seqs := gr.seqs.set 0 (nth gr.seqs 0 0 + 1), queue := gr.queue ++ [s.nextGen] } := by
  obtain ⟨rings, k, heq, -⟩ := s.collQueued_eq (src := src) (l := l) (gr := gr) perm
  rw [heq]
  exact Dev.group_updGroup (f := fun x => { x with queue := x.queue ++ [s.nextGen] })
    (Dev.group_updGroup (f := fun g => { g with seqs := g.seqs.set 0 (nth g.seqs 0 0 + 1) }) hgr rfl) rfl

end

/-! ### The admission -/

theorem Dev.StaysCalm.collStart {s t : Dev} {g : Nat} (h : s.StaysCalm False t) : s.StaysCalm False (t.collStart g) := by
  unfold Dev.collStart
  split
  · exact h
  · split
    · split
      · exact h
      · refine ite h.updGroup.updX.collProgress ?_
        split
        · next heq => exact (h.updGroup.updX.contribution.of_fst heq).groupFault
        · next heq => exact (h.updGroup.updX.contribution.of_fst heq).setColl.collProgress
    · exact h

/-- A collective taken out of its group's queue, and running. -/
def Dev.admitted (s : Dev) (gid k : Nat) : Dev :=
  (s.updGroup gid fun x => { x with queue := x.queue.filter (· != k) }).updX k fun x => { x with active := true }

section
variable {s : Dev} {gid k : Nat} {c : Cmd} {r : CollRun} {gr : Group} (hcmd : s.cmd k = some c) (hbody : c.body = .coll r)
  (hgr : s.group gid = some gr)
include hcmd hbody hgr

theorem Dev.started_admitted : (s.admitted gid k).Started k gid (gr.queue.filter (· != k)) where
  queue := by
    have hgroup : (s.admitted gid k).group gid = some { gr with queue := gr.queue.filter (· != k) } :=
      Dev.group_updGroup (f := fun x => { x with queue := x.queue.filter (· != k) }) hgr rfl
    rw [hgroup]
    rfl
  command c' hc' := by
    have hmap : (s.cmd k).map (fun c => { c with body := c.body.mapXfer fun x => { x with active := true } }) = some c' :=
      (Dev.cmd_updCmd_eq (f := fun c => { c with body := c.body.mapXfer fun x => { x with active := true } }) fun _ => rfl).symm.trans
        hc'
    rw [hcmd, Option.map_some] at hmap
    obtain rfl := Option.some.inj hmap
    exact ⟨{ r with x := { r.x with active := true } }, by rw [hbody]; rfl, rfl⟩
  refusal z hz := by
    have hmap : (s.col.refusals.find? fun z => z.key == k).map (fun z => { z with x := { z.x with active := true } }) = some z :=
      (find?_updFirst_eq (f := fun z : RefusedPass => { z with x := { z.x with active := true } }) (fun _ => id) _).symm.trans hz
    obtain ⟨z', -, rfl⟩ := Option.map_eq_some_iff.1 hmap
    rfl
  out := by simp

/-- The head of a queue is taken out of it and started (R400). -/
theorem Dev.started_collStart (hgid : r.x.gid = gid) : (s.collStart k).Started k gid (gr.queue.filter (· != k)) := by
  have hstart := Dev.started_admitted hcmd hbody hgr
  unfold Dev.collStart
  rw [hcmd]
  dsimp only
  rw [hbody]
  dsimp only
  rw [hgid, hgr]
  dsimp only
  rw [Dev.group_gid hgr]
  refine .ite hstart.collProgress ?_
  split
  · next heq => exact ((hstart.keepsColls (.contribution (.refl _))).of_fst heq).groupFault
  · next heq => exact ((hstart.keepsColls (.contribution (.refl _))).of_fst heq).setColl.collProgress

end

/-! ### The clauses -/

section
variable {q : List Instr} {d s1 t : Dev} {src : Source} {l : Line} {c : Instr} {g : Group}
variable (ha : d.alive = true) (hc : d.calm = true)
include ha hc

section
variable (hop : c = .shift src l ∧ dOp l = 0x0302 ∨ c = .permute src l ∧ dOp l = 0x0303 ∨ c = .alltoall src l ∧ dOp l = 0x0304
  ∨ c = .allreduce src l ∧ dOp l = 0x0305)
include hop

theorem exec_collective (h : d.collective src l = t) (ht : d.StaysCalm False t) : exec c ⟨q, d⟩ = .next ⟨q, t⟩ := by
  obtain ⟨rfl, hop⟩ | ⟨rfl, hop⟩ | ⟨rfl, hop⟩ | ⟨rfl, hop⟩ := hop <;>
    exact State.unit_of_staysCalm q ha hc ((if_pos hop).trans h) ht

variable (hhead : d.headCheck l = none) (hdv : ¬ (dOp l = 0x0305 ∧ lfield l 20 7 1 = 1 ∧ dV l = false))
include hhead hdv

/-- A valid collective behind others is armed and waits (R399, R400). -/
theorem exec_collective_queued (hgr : d.group (cpGroup l) = some g) (hf : g.state = gFORMED) (hbad : d.collBad l g.n = (s1, none))
    (hroom : s1.groupHeld g.gid < 64) (hslots : g.slots = []) (hearly : g.early = []) (hwait : g.queue ≠ [] ∨ 4 ≤ d.active0 g.gid) :
    ∃ t k x, exec c ⟨q, d⟩ = .next ⟨q, t⟩ ∧ t.group g.gid = some { g with
        seqs := g.seqs.set 0 (nth g.seqs 0 0 + 1), queue := g.queue ++ [d.nextGen] }
      ∧ k ∈ t.cmds ∧ k.gen = d.nextGen ∧ k.desc = l ∧ k.src = src ∧ k.body.xfer = some x ∧ x.gid = g.gid ∧ x.stream = 0
      ∧ x.xid = nth g.seqs 0 0 ∧ x.active = false ∧ t.genNext = d.nextGen + 1 := by
  have hn : d.collN l = g.n := by unfold Dev.collN; rw [hgr]; rfl
  have hkeeps : d.KeepsArms s1 := Dev.of_fst (Dev.KeepsArms.collBad hc l g.n) hbad
  have hgr1 : s1.group g.gid = some g := by
    unfold Dev.group
    rw [hkeeps.col, Dev.group_gid hgr]
    exact hgr
  obtain ⟨perm, harm⟩ := Dev.collective_of_formed (src := src) hhead hdv (by rw [hn]; exact hbad) hgr hf hroom
  have hgroup := Dev.group_collQueued (src := src) (l := l) perm hgr1
  have hqueued : s1.collArm src l g perm 0 false = s1.collQueued src l g perm := by
    refine Dev.collArm_of_waits hslots hearly perm fun ⟨hfew, hfirst⟩ => ?_
    rw [Dev.active0_collQueued, hkeeps.active] at hfew
    rw [hgroup] at hfirst
    have hempty : g.queue = [] := by simpa using hfirst
    exact hwait.elim (fun h => h hempty) fun h => absurd hfew (by omega)
  have hcalm : d.StaysCalm False (s1.collQueued src l g perm) := ((Dev.StaysCalm.refl d).collBad.of_fst hbad).takeSeq.arm.updGroup
  obtain ⟨rings, k, heq, hgen, hdesc, hsrc, hbody⟩ := s1.collQueued_eq (src := src) (l := l) (gr := g) perm
  refine ⟨_, k, (s1.collRunOf l g perm).x, exec_collective ha hc hop (harm.trans hqueued) hcalm, ?_, ?_, hgen.trans hkeeps.gen, hdesc,
    hsrc, by rw [hbody]; rfl, rfl, rfl, rfl, rfl, ?_⟩
  · rw [hgroup, hkeeps.gen]
  · rw [heq]
    simp
  · rw [heq, ← hkeeps.gen]

/-- Without its group, or in a group that is not FORMED, a collective is refused (R391, R392). -/
theorem exec_collective_refused_not_formed {n : Nat} {bad : Option Nat}
    (hgr : ∀ g, d.group (cpGroup l) = some g → g.state ≠ gFORMED) (hn : d.collN l = n) (hbad : d.collBad l n = (s1, bad)) :
    (bad = none → exec c ⟨q, d⟩ = .next ⟨q, s1.refuse src l ⟨clsFAB, 0x03B, cpGroup l⟩⟩)
      ∧ ∀ k, bad = some k → exec c ⟨q, d⟩ = .next ⟨q, s1.refuse src l ⟨clsFAB, 0x030, k⟩⟩ := by
  subst hn
  have hgr1 : ∀ g, s1.group (cpGroup l) = some g → g.state ≠ gFORMED := fun g hg => by
    rw [((Dev.KeepsColls.refl d).collBad.of_fst hbad).group] at hg
    exact hgr g hg
  have hcalm : d.StaysCalm False s1 := (Dev.StaysCalm.refl d).collBad.of_fst hbad
  refine ⟨fun h => ?_, fun k h => ?_⟩ <;> subst h
  · exact exec_collective ha hc hop ((Dev.collective_of_not_formed hhead hdv hbad hgr).trans (Dev.groupRefuse_of_not_formed hgr1))
      hcalm.refuse
  · exact exec_collective ha hc hop ((Dev.collective_of_bad hhead hdv hbad).trans (Dev.groupRefuse_of_not_formed hgr1)) hcalm.refuse

/-- In a FORMED group a refusal takes the number and is aborted on the others (R401). -/
theorem exec_collective_refused_formed {k : Nat} (hgr : d.group (cpGroup l) = some g) (hf : g.state = gFORMED)
    (hbad : d.collBad l g.n = (s1, some k)) : exec c ⟨q, d⟩
      = .next ⟨q, ((s1.refuse src l ⟨clsFAB, 0x030, k⟩).takeSeq (cpGroup l) 0).sendAborts g 0 (nth g.seqs 0 0) 1⟩ := by
  have hn : d.collN l = g.n := by unfold Dev.collN; rw [hgr]; rfl
  have hgr1 : s1.group (cpGroup l) = some g := by
    rw [((Dev.KeepsColls.refl d).collBad.of_fst hbad).group]
    exact hgr
  exact exec_collective ha hc hop ((Dev.collective_of_bad hhead hdv (by rw [hn]; exact hbad)).trans (Dev.groupRefuse_of_formed hgr1 hf))
    ((Dev.StaysCalm.refl d).collBad.of_fst hbad).refuse.takeSeq.sendAborts

end

/-- With fewer than four that run, the head of the queue is taken out of it and started (R400). -/
theorem exec_collectiveAdmit {gid k : Nat} {r : List Nat} {x : Xfer} (hgr : d.group gid = some g) (hqueue : g.queue = k :: r)
    (hfew : d.active0 gid < 4) (hx : d.xf k = some x) (hgid : x.gid = gid) (hbody : ∃ b, (d.cmd k).map (·.body) = some (.coll b)) :
    ∃ t, exec (.collectiveAdmit gid) ⟨q, d⟩ = .next ⟨q, t⟩ ∧ (t.group gid).map (·.queue) = some (g.queue.filter (· != k))
      ∧ ∀ y, t.xf k = some y → y.active = true := by
  obtain ⟨b, hb⟩ := hbody
  obtain ⟨m, hcmd, hm⟩ := Option.map_eq_some_iff.1 hb
  have hrun : b.x = x := by
    rw [Dev.xf_of_cmd hcmd, hm] at hx
    exact Option.some.inj hx
  have hstarted := Dev.started_collStart hcmd hm hgr (hrun ▸ hgid)
  refine ⟨d.collStart k, State.unit_of_staysCalm q ha hc ?_ (Dev.StaysCalm.refl d).collStart, hstarted.queue, fun y hy =>
    hstarted.xf_active hy⟩
  rw [hgr]
  dsimp only
  rw [hqueue]
  exact if_pos hfew

end

/-- Settles O21, by the reads of an arm, which leave the group, its commands and the next generation, and by what every step of a
collective that was started keeps. -/
theorem collectivesTakeTheirNumberAndWait : Obligations.CollectivesTakeTheirNumberAndWait := by
  unfold Obligations.CollectivesTakeTheirNumberAndWait
  intro q d src l c ha hc hop hhead hdv
  refine ⟨fun g s1 hgr hf hbad hroom hslots hearly hwait =>
      exec_collective_queued ha hc hop hhead hdv hgr hf hbad hroom hslots hearly hwait,
    fun n s1 bad hgr hbad => ?_,
    fun g s1 k hgr _ hf hbad _ => exec_collective_refused_formed ha hc hop hhead hdv hgr hf hbad,
    fun gid g k r x hgr hqueue hfew hx hgid hbody => exec_collectiveAdmit ha hc hgr hqueue hfew hx hgid hbody⟩
  refine exec_collective_refused_not_formed ha hc hop hhead hdv ?_ ?_ hbad
  · obtain ⟨hnone, -⟩ | ⟨g, hg, hf, -⟩ := hgr
    · exact fun g hg => absurd (hnone.symm.trans hg) (by simp)
    · exact fun g' hg' => Option.some.inj (hg.symm.trans hg') ▸ hf
  · unfold Dev.collN
    obtain ⟨hnone, rfl⟩ | ⟨g, hg, -, rfl, -⟩ := hgr
    · rw [hnone]
      rfl
    · rw [hg]
      rfl

end Sys2Proof.Machine
end

section
/-! A device that does not work stays dark (R525, R532, R533): a command that only a working device takes leaves it as it is, and a
nanosecond of the always-on domain moves fabric time alone. -/
namespace Sys2Proof.Machine

/-- An event of the device's units has no effect on a device that does not work. -/
theorem State.unit_dead {s : State} (h : s.dev.alive = false) (f : Dev → Dev) : s.unit f = .next s := State.upd_dead h _

/-- Each command that only a working device takes is an update of it or an event of its units. -/
theorem exec_of_not_alive {c : Instr} (hc : early c = false) (q : List Instr) {d : Dev} (hd : d.alive = false) :
    exec c ⟨q, d⟩ = .next ⟨q, d⟩ := by
  cases c <;> cases hc <;> delta exec
  case allreduce | alltoall | arrayPassStart | atomic | bisnpResponse | bulkChunkTimeout | bulkrd | chunkCompletionTimeout
      | chunkReceive | collectiveAdmit | combineReturnRecord | commandCommit | compl | compress | copy | exchange | exchangeFixSlots
      | exchangeStepStart | frameQueuePoll | gapTimeout | gexpert | gform | hostHdmRead | hostHdmWrite | instStart | jlaunch
      | killComplete | linkDownRetransmit | load | loopEmptyStep | loopFrameStart | loopStepComplete | matmul | missing | offer
      | offerRepeat | permute | postilionShareDispatch | progEnd | requestTimeout | residueVerdict | returnExchangeStart
      | routeReductionComplete | routepass | routepassWaitSatisfied | runprog | scatterCommit | shift | signal | signalTeamFire
      | sloop | sstop | take | takeAnswer | takeTimeout | takeq | ticket | ticketGrant | timetableEntryTrigger | timetableStart
      | unpackSegment | vector | wait | waitSatisfied => exact State.unit_dead (s := ⟨q, d⟩) hd _
  all_goals exact State.upd_dead (s := ⟨q, d⟩) hd _

theorem Dev.reg_timeTick_ne (s : Dev) {k : Nat} (h : k ≠ Reg.TPK_TIME) : s.timeTick.reg k = s.reg k := Dev.reg_setReg_ne _ _ h

/-- A nanosecond of the always-on domain (R377). -/
def Dev.timePasses (d : Dev) : Dev := Dev.timeTick { d with ns := d.ns + 1 }

theorem Dev.reg_timePasses_ne (d : Dev) {k : Nat} (h : k ≠ Reg.TPK_TIME) : d.timePasses.reg k = d.reg k := Dev.reg_timeTick_ne _ h

theorem Dev.alive_timePasses (d : Dev) : d.timePasses.alive = d.alive :=
  Dev.alive_congr rfl (d.reg_timePasses_ne (k := Reg.GRD_BOOTSTAT) (by decide))

/-- Before the firmware is verified or after a trip, that nanosecond is all that passes, and none passes while reset is held. -/
theorem Dev.tick_of_not_alive {d : Dev} (hd : d.alive = false) : d.tick = if d.grd.stage = .run then d.timePasses else d := by
  have hdark := d.alive_timePasses.trans hd
  unfold Dev.timePasses at hdark
  simp [Dev.tick, Dev.timePasses, hdark]

/-- Settles O60: a step takes the front of the queue, and a command at the front that is not early finds the device dark. -/
theorem darkDeviceStaysDark : Obligations.DarkDeviceStaysDark := by
  rintro ⟨q, d⟩ (hd : d.alive = false) (hearly : ∀ c ∈ q, early c = false)
  cases q with
  | cons c cs =>
    have hstep := ((stepTakesTheFront c cs d).1).trans (exec_of_not_alive (hearly c (.head _)) cs hd)
    exact ⟨⟨cs, d⟩, hstep, hd, fun x hx => hearly x (.tail _ hx), fun _ => ⟨rfl, rfl⟩, nofun⟩
  | nil =>
    refine ⟨⟨[], d.tick⟩, rfl, ?_, hearly, fun h => absurd rfl h, fun _ => ?_⟩
    all_goals rw [Dev.tick_of_not_alive hd]; split
    · exact d.alive_timePasses.trans hd
    · exact hd
    · exact ⟨rfl, rfl, rfl, rfl, rfl, rfl, fun k hk => d.reg_timePasses_ne hk⟩
    · exact ⟨rfl, rfl, rfl, rfl, rfl, rfl, fun _ _ => rfl⟩

end Sys2Proof.Machine
end

section
/-! The steps that may have to wait for an access (R432, R434, R446): each is attempted, and one that has to wait only asks. -/
namespace Sys2Proof.Machine

/-- A step that is attempted, and has to wait, only asks; the queue is as it was. -/
theorem State.upd_attempt_waits {q q' : List Instr} {d t : Dev} {f : Dev → Dev}
    (h : State.upd ⟨q, d⟩ (fun d => d.attempt f) = .next ⟨q', t⟩) (hs : t.tiers.stalls ≠ d.tiers.stalls) :
    q' = q ∧ d.AsksOnly t := by
  refine ⟨State.upd_pending h, ?_⟩
  cases halive : d.alive with
  | true =>
    obtain rfl := dev_eq_of_next ((State.upd_alive (s := ⟨q, d⟩) halive _).symm.trans h)
    exact d.attempt_waits f hs
  | false =>
    obtain rfl := dev_eq_of_next ((State.upd_dead (s := ⟨q, d⟩) halive _).symm.trans h)
    exact absurd rfl hs

/-- Settles O59: each of the steps listed is attempted, as an event of the device's units or, for a carriage that arrives, as an
update. -/
theorem stepsThatWait : Obligations.StepsThatWait := by
  intro q q' d t g n x y z b src l c k p bs o i hi hexec hstall
  have hattempt : ∃ f, exec i ⟨q, d⟩ = State.upd ⟨q, d⟩ fun d => d.attempt f := by
    fin_cases hi <;> delta exec <;> exact ⟨_, rfl⟩
  obtain ⟨f, hf⟩ := hattempt
  obtain ⟨hq, hasks⟩ := State.upd_attempt_waits (hf.symm.trans hexec) hstall
  exact ⟨hq, hasks.eq, hasks.reg⟩

end Sys2Proof.Machine
end

section
/-! What each kind of reset keeps and clears (R528 to R531, R547, Table 18-1): the device as a reset clears it, the registers that
it keeps, and the size table and the fence record applied, which touch none of those. -/
namespace Sys2Proof.Machine

-- The short theorems below are elaborated one after another: side by side, their threads' stacks exceed the memory of the check.
set_option Elab.async false

/-- A register that the size table and the fence record may write: none of the Guard's, PWC_STAT or fabric time. -/
def sizedReg (k : Nat) : Bool := decide (0x100000 ≤ k) && k != Reg.PWC_STAT && k != Reg.TPK_TIME

theorem sizedReg_pstat (h : Nat) : sizedReg (Reg.HCH_PSTAT h) = true := by
  simp only [sizedReg, Reg.HCH_PSTAT, Reg.PWC_STAT, Reg.TPK_TIME, Bool.and_eq_true, decide_eq_true_eq, bne_iff_ne]; omega
theorem sizedReg_lstat {h : Nat} (hh : h < 32) : sizedReg (Reg.HCH_LSTAT h) = true := by
  simp only [sizedReg, Reg.HCH_LSTAT, Reg.PWC_STAT, Reg.TPK_TIME, Bool.and_eq_true, decide_eq_true_eq, bne_iff_ne]; omega
theorem sizedReg_cstat (n : Nat) : sizedReg (Reg.CCH_CSTAT n) = true := by
  simp only [sizedReg, Reg.CCH_CSTAT, Reg.PWC_STAT, Reg.TPK_TIME, Bool.and_eq_true, decide_eq_true_eq, bne_iff_ne]; omega

/-- From `s` to `t`, the size table and the fence record were applied. -/
structure Dev.Sized (s t : Dev) : Prop where
  eq : t = { s with regs := t.regs, tiers := t.tiers }
  reg : ∀ k, sizedReg k = false → t.reg k = s.reg k

namespace Dev.Sized
variable {s t u : Dev}

theorem refl (s : Dev) : s.Sized s := ⟨rfl, fun _ _ => rfl⟩

theorem trans (h : s.Sized t) (h' : t.Sized u) : s.Sized u := by
  refine ⟨?_, fun k hk => (h'.reg k hk).trans (h.reg k hk)⟩
  have e := h'.eq
  rw [h.eq] at e
  rw [e]

theorem each {α : Type} {f : Dev → α → Dev} {l : List α} (h : s.Sized t) (hf : ∀ (u : Dev) a, u.Sized (f u a)) :
    s.Sized (t.each l f) :=
  Dev.each_keeps (P := s.Sized) h fun {u a} hu => hu.trans (hf u a)

theorem write {off : Nat} (h : s.Sized t) (v : Nat) (hoff : sizedReg off = true) : s.Sized (t.setReg off v) :=
  h.trans ⟨rfl, fun _ hk => Dev.reg_setReg_ne _ _ fun e => absurd ((e ▸ hk).symm.trans hoff) (by decide)⟩

theorem onlyRegs {ks : List Nat} (h : s.Sized t) (ht : t.OnlyRegs u ks) (hks : ∀ k ∈ ks, sizedReg k = true) : s.Sized u :=
  h.trans ⟨by rw [ht.1], fun k hk => ht.2 k fun hmem => absurd (hk.symm.trans (hks k hmem)) (by decide)⟩

theorem hShow (h : s.Sized t) {n : Nat} (hn : n < 32) : s.Sized (t.hShow n) :=
  h.onlyRegs (Dev.onlyRegs_hShow t n) (List.forall_mem_cons.2 ⟨sizedReg_lstat hn, by decide⟩)

theorem hEnter (h : s.Sized t) {n : Nat} (hn : n < 32) (st pairs : Nat) : s.Sized (t.hEnter n st pairs) :=
  h.onlyRegs (Dev.onlyRegs_hEnter t n st pairs) (List.forall_mem_cons.2 ⟨sizedReg_pstat n, List.forall_mem_cons.2 ⟨sizedReg_lstat hn, by decide⟩⟩)

theorem hitchWidth (h : s.Sized t) (lo w v : Nat) : s.Sized (t.setFld Reg.SIZ_HITCHW lo w v) :=
  h.write _ rfl

theorem asShipped (h : s.Sized t) : s.Sized t.asShipped := by
  unfold Dev.asShipped
  exact ((((h.write (off := Reg.SIZ_IDENT) _ rfl).write (off := Reg.SIZ_COACH) _ rfl).write (off := Reg.SIZ_COACHMAP) _ rfl).each
    fun u n => (Sized.refl u).write _ (sizedReg_cstat n)).write _ rfl

/-- A unit that the fence record names leaves the size table, or a frame the frames in use. -/
theorem fenceApply (h : s.Sized t) (e : Nat) : s.Sized (t.fenceApply e) := by
  unfold Dev.fenceApply
  dsimp only
  split
  · split
    · exact h
    · exact (((h.write (off := Reg.SIZ_COACH) _ rfl).write (off := Reg.SIZ_COACH) _
        rfl).write (off := Reg.SIZ_COACHMAP) _ rfl).write _ (sizedReg_cstat _)
  · split
    · exact h
    · rename_i hn
      split
      · exact (h.write _ (sizedReg_pstat _)).hShow (by omega)
      · split
        · exact ((h.write _ (sizedReg_pstat _)).hitchWidth _ _ _).hEnter (by omega) _ _
        · exact ((h.write _ (sizedReg_pstat _)).hitchWidth _ _ _).hShow (by omega)
  · split
    · exact h
    · rename_i hn
      exact (h.hitchWidth _ _ _).hEnter (by omega) _ _
  · exact h.trans ⟨rfl, fun _ _ => rfl⟩
  · exact h

end Dev.Sized

section
variable (s : Dev) (stage : BootStage) (cause : Nat) (warm : Bool)

/-- A reset has sealed, or JOBSEALED shows what the loss of standby power sealed (R529). -/
def Dev.resetSeals : Bool := s.toSeal || (s.grd.stage == .off && s.flag Reg.GRD_RESETCAUSE 4)

/-- The Guard as a reset leaves it (Table 18-1). -/
def Guard.cleared (g : Guard) : Guard :=
  { g with
    stage := stage, sram := false, trained := false, hbm := false, served := false, image := [], coldWait := warm && g.coldWait
    spdmA := if warm then g.spdmA else [], spdmB := if warm then g.spdmB else [], spdmM := if warm then g.spdmM else []
    spdmLast := if warm then g.spdmLast else none, wiping := false
    fence := g.fence.filter fun e => warm || !bit g.clearing (e / 2 ^ 28 - 1)
    clearing := if warm then g.clearing else 0, opened := if warm then g.opened else none }

/-- What a reset keeps, and reset values for everything else. -/
def Dev.cleared : Dev :=
  { Dev.reset with
    regs := [], mem := s.mem, bad := s.bad, outs := s.outs, ns := s.ns, log := ⟨[], 1, s.log.psafe⟩
    grd := s.grd.cleared stage warm
    dbg := { Dev.reset.dbg with coreRuns := s.dbg.coreRuns, sel := s.dbg.sel }
    pwr := { Dev.reset.pwr with throttle := s.pwr.throttle, vid := if s.pwr.trip = 0 then s.pwr.vid else Dev.reset.pwr.vid } }

/-- The registers that outlast a reset of `s`, as `d` takes them (Table 18-1, R529). -/
def Dev.takeRegs (d s : Dev) (seals : Bool) : Dev :=
  let d := d.setReg Reg.GRD_LIFECYCLE (s.lifeState + s.fuseSvn * 2 ^ 8)
  let d := d.setReg Reg.GRD_RESETCAUSE (cause + seals.toNat * 2 ^ 4)
  let d := d.each (List.range 4) fun d i => d.setReg (Reg.GRD_UID i) (s.reg (Reg.GRD_UID i))
  let d := if warm then (d.setReg Reg.GRD_NONCE (s.reg Reg.GRD_NONCE)).setReg Reg.TPK_TIME s.now else d
  (d.setFlag Reg.GRD_BOOTSTAT 9 d.grd.lcTarget.isSome).rightsEnd

/-- The pins of a reset: downstream ports that ran are held, and THROTTLE_N shows. -/
def Dev.takePins (d s : Dev) : Dev :=
  let d := d.each ((List.range 2).filter fun q => !s.pwr.gated.contains (.dsPort q)) Dev.dsHold
  if s.pwr.throttle then d.throttled else d

/-- The device as a reset of `s` clears it, with the registers that it keeps. -/
def Dev.kept : Dev := ((s.sealIfJob 2).cleared stage warm).takeRegs cause warm (s.sealIfJob 2) s.resetSeals

theorem Dev.resetAll_eq : s.resetAll stage cause warm
    = ((s.kept stage cause warm).takePins (s.sealIfJob 2)).asShipped.each ((s.sealIfJob 2).grd.fence.filter fun e => warm || !bit (s.sealIfJob 2).grd.clearing (e / 2 ^ 28 - 1)) Dev.fenceApply := by
  cases warm <;> rfl

/-- Sealing writes the meter log and what goes with it. -/
theorem Dev.sealIfJob_eq (ended : Nat) : s.sealIfJob ended = { s with grd := { s.grd with
    meterLog := (s.sealIfJob ended).grd.meterLog, meterSeq := (s.sealIfJob ended).grd.meterSeq
    sealed := (s.sealIfJob ended).grd.sealed } } := by
  unfold Dev.sealIfJob; split <;> rfl

theorem Dev.sealIfJob_of_sealed {ended : Nat} (h : s.toSeal = false) : s.sealIfJob ended = s := by
  simp [Dev.sealIfJob, h]

/-- The entry of a job that is sealed is the last of the meter log (R548). -/
theorem Dev.meterLog_sealIfJob {ended : Nat} (h : s.toSeal = true) :
    ∃ e, (s.sealIfJob ended).grd.meterLog.getLast? = some e ∧ e.jobid = s.jobId ∧ e.ended = ended := by
  simp only [Dev.sealIfJob, h, ↓reduceIte, Dev.seal]
  rw [List.getLast?_drop, if_neg (by simp), List.getLast?_concat]
  exact ⟨_, rfl, rfl, rfl⟩

variable (d : Dev) (seals : Bool)

theorem Dev.takeRegs_eq : d.takeRegs cause warm s seals = { d with regs := (d.takeRegs cause warm s seals).regs } := by
  cases warm <;> rfl

/-- THROTTLE as its pin shows it. -/
def Dev.throttleShown (pin : Bool) : Dev :=
  if pin then (d.setFlag Reg.PWC_STAT 6 true).setFld Reg.PWC_STAT 0 4 1 else d

/-- A device in no gap lowers its duty without a fill. -/
theorem Dev.throttled_eq (h : d.cch.gaps = []) : d.throttled = (d.setFlag Reg.PWC_STAT 6 true).setFld Reg.PWC_STAT 0 4 1 := by
  unfold Dev.throttled Dev.setDuty
  dsimp only
  rw [Dev.setFld_cch, Dev.setFlag_cch, h]
  split <;> rfl

theorem Dev.takePins_eq (h : d.cch.gaps = []) : ∃ more pwr,
    d.takePins s = Dev.throttleShown { d with outs := d.outs ++ more, pwr := pwr } s.pwr.throttle := by
  obtain ⟨more, pwr, hports⟩ : ∃ more pwr, d.each ((List.range 2).filter fun q => !s.pwr.gated.contains (.dsPort q)) Dev.dsHold
      = { d with outs := d.outs ++ more, pwr := pwr } :=
    Dev.each_keeps (P := fun t => ∃ more pwr, t = { d with outs := d.outs ++ more, pwr := pwr }) ⟨[], d.pwr, by simp⟩
      fun {u q} hu => by
        obtain ⟨more, pwr, rfl⟩ := hu
        exact ⟨more ++ [.dsPerst q true, .dsRefclk q false], _, by rw [← List.append_assoc]; rfl⟩
  refine ⟨more, pwr, ?_⟩
  unfold Dev.takePins Dev.throttleShown
  dsimp only
  rw [hports]
  split
  · exact Dev.throttled_eq _ h
  · rfl

variable (pin : Bool)

theorem Dev.throttleShown_eq : d.throttleShown pin = { d with regs := (d.throttleShown pin).regs } := by cases pin <;> rfl

theorem Dev.reg_throttleShown {k : Nat} (hk : k ≠ Reg.PWC_STAT) : (d.throttleShown pin).reg k = d.reg k := by
  cases pin
  · rfl
  · exact (Dev.reg_setFld_ne _ _ _ _ hk).trans (Dev.reg_setFlag_ne _ _ _ hk)

theorem Dev.flag_throttleShown (hflag : d.flag Reg.PWC_STAT 6 = false) : (d.throttleShown pin).flag Reg.PWC_STAT 6 = pin := by
  cases pin
  · exact hflag
  · unfold Dev.throttleShown
    rw [if_pos rfl, Dev.flag_eq_fld, Dev.fld_setFld_above _ _ _ (by decide) (by decide), ← Dev.flag_eq_fld,
      Dev.flag_setFlag_same _ _ _ (by decide)]

/-! The registers that outlast a reset. -/

theorem Dev.reg_takeRegs_lifecycle : (d.takeRegs cause warm s seals).reg Reg.GRD_LIFECYCLE = s.lifeState + s.fuseSvn * 2 ^ 8 := by
  have hlife : s.lifeState < 2 ^ 3 := bits_lt _ _ _
  have hsvn : s.fuseSvn < 2 ^ 6 := bits_lt _ _ _
  cases warm <;>
    simp [Dev.takeRegs, Dev.rightsEnd, Dev.each, Dev.reg_setReg_ne, Dev.reg_setFlag_ne, List.range_succ, Reg.GRD_UID] <;> omega

theorem Dev.reg_takeRegs_cause (hcause : cause < 16) :
    (d.takeRegs cause warm s seals).reg Reg.GRD_RESETCAUSE = cause + seals.toNat * 2 ^ 4 := by
  have hseals := seals.toNat_le
  cases warm <;>
    simp [Dev.takeRegs, Dev.rightsEnd, Dev.each, Dev.reg_setReg_ne, Dev.reg_setFlag_ne, List.range_succ, Reg.GRD_UID] <;> omega

theorem Dev.reg_takeRegs_uid {i : Nat} (hi : i < 4) :
    (d.takeRegs cause warm s seals).reg (Reg.GRD_UID i) = s.reg (Reg.GRD_UID i) := by
  have hlt := s.reg_lt (Reg.GRD_UID i)
  interval_cases i <;> cases warm <;>
    simp_all [Dev.takeRegs, Dev.rightsEnd, Dev.each, Dev.reg_setReg_ne, Dev.reg_setFlag_ne, List.range_succ, Reg.GRD_UID,
      Nat.mod_eq_of_lt]

theorem Dev.reg_takeRegs_warm {k : Nat} (hk : k = Reg.GRD_NONCE ∨ k = Reg.TPK_TIME) :
    (d.takeRegs cause true s seals).reg k = s.reg k := by
  obtain rfl | rfl := hk
  · have hlt := s.reg_lt Reg.GRD_NONCE
    simp_all [Dev.takeRegs, Dev.rightsEnd, Dev.reg_setReg_ne, Dev.reg_setFlag_ne, Nat.mod_eq_of_lt]
  · have hlt := s.reg_lt Reg.TPK_TIME
    simp_all [Dev.takeRegs, Dev.rightsEnd, Dev.reg_setReg_ne, Dev.reg_setFlag_ne, Dev.now, Nat.mod_eq_of_lt]

/-- Every other register is as the device that takes them has it, but for the unlock rights. -/
theorem Dev.reg_takeRegs_ne {k : Nat} (hk : k ∉ [Reg.GRD_LIFECYCLE, Reg.GRD_RESETCAUSE, Reg.GRD_UID 0, Reg.GRD_UID 1, Reg.GRD_UID 2,
    Reg.GRD_UID 3, Reg.GRD_BOOTSTAT, Reg.DBG_UNLOCK]) (hwarm : warm = true → k ≠ Reg.GRD_NONCE ∧ k ≠ Reg.TPK_TIME) :
    (d.takeRegs cause warm s seals).reg k = d.reg k := by
  simp only [List.mem_cons, List.not_mem_nil, or_false, not_or] at hk
  cases warm <;> simp_all [Dev.takeRegs, Dev.rightsEnd, Dev.each, Dev.reg_setReg_ne, Dev.reg_setFlag_ne, List.range_succ]

/-- FWVERIFIED is not set by what is kept. -/
theorem Dev.flag_takeRegs : (d.takeRegs cause warm s seals).flag Reg.GRD_BOOTSTAT 8 = d.flag Reg.GRD_BOOTSTAT 8 := by
  have hother : ∀ u v : Dev, u.reg Reg.GRD_BOOTSTAT = v.reg Reg.GRD_BOOTSTAT → ∀ b,
      ((u.setFlag Reg.GRD_BOOTSTAT 9 b).rightsEnd).flag Reg.GRD_BOOTSTAT 8 = v.flag Reg.GRD_BOOTSTAT 8 := fun u v h b => by
    unfold Dev.rightsEnd
    rw [Dev.flag_setReg_ne _ _ _ (by decide), Dev.flag_setFlag_bit _ _ _ (by decide) (by decide), Dev.flag_congr h]
  refine hother _ _ ?_ _
  cases warm <;> simp [Dev.each, Dev.reg_setReg_ne, List.range_succ, Reg.GRD_UID]

theorem Dev.reg_cleared (k : Nat) : (s.cleared stage warm).reg k = regReset k % 2 ^ 64 := by
  simp [Dev.reg, Dev.cleared, Sparse.get, regDefault]

theorem Dev.kept_eq : s.kept stage cause warm
    = { (s.sealIfJob 2).cleared stage warm with regs := (s.kept stage cause warm).regs } := Dev.takeRegs_eq ..

/-- A reset of `s` is what it clears and keeps, with the pins, the size table and the fence record applied. -/
theorem Dev.resetAll_sized : ∃ more pwr, Dev.Sized
    (Dev.throttleShown { s.kept stage cause warm with outs := s.outs ++ more, pwr := pwr } s.pwr.throttle)
    (s.resetAll stage cause warm) := by
  obtain ⟨more, pwr, hpins⟩ := Dev.takePins_eq (s.sealIfJob 2) (s.kept stage cause warm) (by rw [Dev.kept_eq]; rfl)
  have houts : (s.kept stage cause warm).outs = s.outs := by rw [Dev.kept_eq, Dev.sealIfJob_eq]; rfl
  have hthrottle : (s.sealIfJob 2).pwr.throttle = s.pwr.throttle := by rw [Dev.sealIfJob_eq]
  rw [houts, hthrottle] at hpins
  refine ⟨more, pwr, ?_⟩
  rw [Dev.resetAll_eq, ← hpins]
  exact (Dev.Sized.refl _).asShipped.each fun u e => (Dev.Sized.refl u).fenceApply e

/-- Everything but registers, outputs, power and tiers is as cleared. -/
theorem Dev.resetAll_frame : ∃ more, s.resetAll stage cause warm = { (s.sealIfJob 2).cleared stage warm with
    regs := (s.resetAll stage cause warm).regs, outs := s.outs ++ more
    pwr := (s.resetAll stage cause warm).pwr, tiers := (s.resetAll stage cause warm).tiers } := by
  obtain ⟨more, pwr, hsized⟩ := s.resetAll_sized stage cause warm
  refine ⟨more, ?_⟩
  have h := hsized.eq
  rw [Dev.throttleShown_eq, Dev.kept_eq] at h
  rw [h]

theorem Dev.reg_resetAll {k : Nat} (hk : sizedReg k = false) (hstat : k ≠ Reg.PWC_STAT) :
    (s.resetAll stage cause warm).reg k = (s.kept stage cause warm).reg k := by
  obtain ⟨more, pwr, hsized⟩ := s.resetAll_sized stage cause warm
  exact (hsized.reg k hk).trans (Dev.reg_throttleShown _ _ hstat)

theorem Dev.flag_throttle_resetAll : (s.resetAll stage cause warm).flag Reg.PWC_STAT 6 = s.pwr.throttle := by
  obtain ⟨more, pwr, hsized⟩ := s.resetAll_sized stage cause warm
  have hstat : (s.kept stage cause warm).reg Reg.PWC_STAT = regReset Reg.PWC_STAT % 2 ^ 64 :=
    (Dev.reg_takeRegs_ne _ _ _ _ _ (by decide) fun _ => by decide).trans (Dev.reg_cleared ..)
  rw [Dev.flag_congr (hsized.reg _ rfl)]
  refine Dev.flag_throttleShown _ _ ?_
  have hbit : bit (regReset Reg.PWC_STAT % 2 ^ 64) 6 = false := by decide
  exact (congrArg (bit · 6) hstat).trans hbit

/-- No reset leaves the firmware verified. -/
theorem Dev.flag_verified_resetAll : (s.resetAll stage cause warm).flag Reg.GRD_BOOTSTAT 8 = false := by
  rw [Dev.flag_congr (s.reg_resetAll stage cause warm (k := Reg.GRD_BOOTSTAT) rfl (by decide))]
  unfold Dev.kept
  rw [Dev.flag_takeRegs]
  unfold Dev.flag
  rw [Dev.reg_cleared]
  decide

/-- What holds after a reset holds still where BOOTSTAT, what is sent and the power controller alone have changed since. -/
theorem Dev.AfterReset.later {t u : Dev} (h : s.AfterReset t cause warm)
    (heq : u = { t with regs := u.regs, outs := u.outs, pwr := u.pwr }) (hreg : ∀ k, k ≠ Reg.GRD_BOOTSTAT → u.reg k = t.reg k)
    (hdark : u.alive = false) : s.AfterReset u cause warm := by
  unfold Dev.AfterReset Dev.jobState Dev.lifeState Dev.fuseSvn Dev.now Dev.fld Dev.flag at h ⊢
  obtain ⟨hcmds, hdying, hlanded, hrings, hpt, hslots, hpsafe, hmem, hbad, hjob, -, hrest⟩ := h
  have hgrd : u.grd = t.grd := by rw [heq]
  refine ⟨?_, ?_, ?_, ?_, ?_, ?_, ?_, ?_, ?_, ?_, hdark, ?_⟩
  iterate 9 (rw [heq]; assumption)
  · rwa [hreg _ (by decide)]
  · have huid : ∀ i, i < 4 → u.reg (Reg.GRD_UID i) = t.reg (Reg.GRD_UID i) := fun i _ =>
      hreg _ (by unfold Reg.GRD_UID Reg.GRD_BOOTSTAT; omega)
    rw [hreg _ (by decide), hreg _ (by decide), hreg _ (by decide), hreg _ (by decide), hreg _ (by decide), hgrd]
    simpa +contextual only [huid] using hrest

/-- What every reset keeps and clears (Table 18-1). -/
theorem Dev.afterReset_resetAll (hcause : cause < 16) : s.AfterReset (s.resetAll stage cause warm) cause warm := by
  obtain ⟨more, hframe⟩ := s.resetAll_frame stage cause warm
  have hgrd : (s.resetAll stage cause warm).grd = (s.sealIfJob 2).grd.cleared stage warm := by rw [hframe]; rfl
  have hseal := s.sealIfJob_eq 2
  have hlog : (s.resetAll stage cause warm).log = ⟨[], 1, s.log.psafe⟩ := by rw [hframe, hseal]; rfl
  have hreset {k : Nat} (hk : sizedReg k = false) (hstat : k ≠ Reg.PWC_STAT) (hk' : k ∉ [Reg.GRD_LIFECYCLE, Reg.GRD_RESETCAUSE,
      Reg.GRD_UID 0, Reg.GRD_UID 1, Reg.GRD_UID 2, Reg.GRD_UID 3, Reg.GRD_BOOTSTAT, Reg.DBG_UNLOCK])
      (hwarm : warm = true → k ≠ Reg.GRD_NONCE ∧ k ≠ Reg.TPK_TIME) :
      (s.resetAll stage cause warm).reg k = regReset k % 2 ^ 64 :=
    ((s.reg_resetAll stage cause warm hk hstat).trans (Dev.reg_takeRegs_ne _ _ _ _ _ hk' hwarm)).trans (Dev.reg_cleared ..)
  have hregs : (s.sealIfJob 2).regs = s.regs := by rw [hseal]
  have hlife : (s.resetAll stage cause warm).reg Reg.GRD_LIFECYCLE = s.lifeState + s.fuseSvn * 2 ^ 8 :=
    ((s.reg_resetAll stage cause warm rfl (by decide)).trans (Dev.reg_takeRegs_lifecycle ..)).trans
      (by unfold Dev.lifeState Dev.fuseSvn Dev.fld; rw [Dev.reg_congr hregs])
  have hcauseReg : (s.resetAll stage cause warm).reg Reg.GRD_RESETCAUSE = cause + s.resetSeals.toNat * 2 ^ 4 :=
    (s.reg_resetAll stage cause warm rfl (by decide)).trans (Dev.reg_takeRegs_cause _ _ _ _ _ hcause)
  have hkept (hw : warm = true) {k : Nat} (hk : k = Reg.GRD_NONCE ∨ k = Reg.TPK_TIME) :
      (s.resetAll stage cause warm).reg k = s.reg k := by
    subst hw
    obtain hk' | hk' := hk <;> subst hk' <;>
      exact ((s.reg_resetAll stage cause true rfl (by decide)).trans (Dev.reg_takeRegs_warm _ _ _ _ (by simp))).trans
        (Dev.reg_congr hregs _)
  refine ⟨?_, ?_, ?_, ?_, ?_, by rw [hlog], by rw [hlog], by rw [hframe, hseal]; rfl, by rw [hframe, hseal]; rfl, ?_, ?_, ?_, ?_, ?_, ?_,
    fun i hi => ?_, fun h => ?_, fun h => ?_, ?_, fun hw => ⟨hkept hw (.inr rfl), hkept hw (.inl rfl), ?_⟩, fun hw => ⟨?_, ?_⟩⟩
  iterate 5 (rw [hframe]; rfl)
  · unfold Dev.jobState Dev.fld
    rw [hreset rfl (by decide) (by decide) fun _ => by decide]
    rfl
  · unfold Dev.alive
    rw [s.flag_verified_resetAll, Bool.and_false, Bool.false_and]
  · unfold Dev.fld bits
    rw [hcauseReg]
    omega
  · unfold Dev.flag
    rw [hcauseReg, bit_eq_bits]
    have hseals : (s.resetSeals = true ↔ s.toSeal = true ∨ s.grd.stage = .off ∧ s.flag Reg.GRD_RESETCAUSE 4 = true) := by
      simp [Dev.resetSeals]
    rw [← Dev.flag, ← hseals]
    cases s.resetSeals <;> simp [bits] <;> omega
  · have hlt : s.lifeState < 2 ^ 3 := bits_lt _ _ _
    change bits ((s.resetAll stage cause warm).reg Reg.GRD_LIFECYCLE) 0 3 = s.lifeState
    rw [hlife]
    unfold bits
    omega
  · have hlt : s.lifeState < 2 ^ 3 := bits_lt _ _ _
    have hlt' : s.fuseSvn < 2 ^ 6 := bits_lt _ _ _
    change bits ((s.resetAll stage cause warm).reg Reg.GRD_LIFECYCLE) 8 6 = s.fuseSvn
    rw [hlife]
    unfold bits
    omega
  · exact ((s.reg_resetAll stage cause warm (by simp [sizedReg, Reg.GRD_UID]; omega)
      (by unfold Reg.GRD_UID Reg.PWC_STAT; omega)).trans (Dev.reg_takeRegs_uid _ _ _ _ _ hi)).trans (Dev.reg_congr hregs _)
  · rw [hgrd]
    exact s.meterLog_sealIfJob h
  · rw [hgrd, s.sealIfJob_of_sealed h]
    rfl
  · rw [s.flag_throttle_resetAll]
  · rw [hgrd, hseal, hw]
    simp [Guard.cleared]
  · unfold Dev.now
    rw [hreset rfl (by decide) (by decide) fun h => absurd (hw ▸ h) (by decide)]
    rfl
  · rw [hgrd, hseal, hw]
    simp [Guard.cleared]
end

/-! ### The start of a boot (R531, R546) -/

section
variable (s : Dev)

/-- The set-points alone change with their return to the reset values, and what is sent. -/
theorem Dev.vidReset_eq : ∃ outs vid, s.vidReset = { s with outs := outs, pwr := { s.pwr with vid := vid } } :=
  Dev.each_keeps (P := fun t => ∃ outs vid, t = { s with outs := outs, pwr := { s.pwr with vid := vid } }) ⟨s.outs, s.pwr.vid, rfl⟩
    fun {u i} hu => by
      obtain ⟨outs, vid, rfl⟩ := hu
      exact ⟨_, _, rfl⟩

theorem Dev.lifeState_setBoot (st : Nat) : (s.setBoot st).lifeState = s.lifeState := Dev.fld_setFld_ne _ _ _ _ _ _ (by decide)

/-- A boot with no lifecycle change pending, of a device that is not decommissioned, only shows its state. -/
theorem Dev.bootBegin_of_idle {st : Nat} (htarget : s.grd.lcTarget = none) (hlife : s.lifeState ≠ lcDECOMMISSIONED) :
    s.bootBegin st = s.setBoot st := by
  unfold Dev.bootBegin
  dsimp only
  split
  · rfl
  · rw [show (s.setBoot st).grd.lcTarget = none from htarget]
    exact if_neg ((s.lifeState_setBoot st).trans_ne hlife)

/-- A pending lifecycle change is repeated first, and leaves a decommissioned device LOCKED. -/
theorem Dev.bootBegin_of_pending {st x : Nat} (hok : s.bootOk = true) (htarget : s.grd.lcTarget = some x) (hx : x < 8) :
    s.bootBegin st = if x = lcDECOMMISSIONED then (((s.setBoot st).lifecycleSteps x).record clsGUARD 0x00C x 0 blkGRD 0).setBoot bsLOCKED
      else ((s.setBoot st).lifecycleSteps x).record clsGUARD 0x00C x 0 blkGRD 0 := by
  have hlife : (((s.setBoot st).lifecycleSteps x).record clsGUARD 0x00C x 0 blkGRD 0).lifeState = x := by
    unfold Dev.lifeState
    rw [Dev.fld_congr (Dev.reg_record_lt _ _ _ _ _ _ _ (by decide))]
    exact (Dev.fld_setFld_same _ _ _ (by decide)).trans (Nat.mod_eq_of_lt hx)
  have hok' : (s.setBoot st).bootOk = true := hok
  unfold Dev.bootBegin
  dsimp only
  rw [hok', show (s.setBoot st).grd.lcTarget = some x from htarget]
  simp only [Bool.not_true, Bool.false_eq_true, ↓reduceIte, hlife]

variable (q : List Instr) (d : Dev)

theorem exec_coldResetPin_run (perst : Bool) (hrun : d.grd.stage = .run) :
    exec (.coldResetPin perst) ⟨q, d⟩ = .next ⟨q, d.coldReset (if perst then 3 else 2)⟩ := by
  have hexec : exec (.coldResetPin perst) ⟨q, d⟩
      = .next ⟨q, if d.grd.stage = .run then d.coldReset (if perst then 3 else 2) else d⟩ := rfl
  rw [hexec, if_pos hrun]

/-- A device that has not tripped takes a cold reset with its cause. -/
theorem Dev.coldReset_of_untripped {cause : Nat} (htrip : d.pwr.trip = 0) : d.coldReset cause = d.resetAll (.held cause) cause false := by
  simp [Dev.coldReset, htrip]

theorem Dev.stage_resetAll (stage : BootStage) (cause : Nat) (warm : Bool) : (d.resetAll stage cause warm).grd.stage = stage := by
  obtain ⟨more, h⟩ := d.resetAll_frame stage cause warm
  rw [h]
  rfl

/-- A cold reset by a cause from `d` on. -/
def Dev.ColdResets (t : Dev) (cause : Nat) : Prop := t.grd.stage = .held cause ∧ d.AfterReset t cause false

theorem Dev.coldResets_resetAll {cause : Nat} (hcause : cause < 16) : d.ColdResets (d.resetAll (.held cause) cause false) cause :=
  ⟨d.stage_resetAll _ _ _, d.afterReset_resetAll _ _ _ hcause⟩

/-- RESET_N and PERST_N reset a running device (R528). -/
theorem exec_coldResetPin_resets (perst : Bool) (hrun : d.grd.stage = .run) (htrip : d.pwr.trip = 0) :
    ∃ t, exec (.coldResetPin perst) ⟨q, d⟩ = .next ⟨q, t⟩ ∧ d.ColdResets t (if perst then 3 else 2) :=
  ⟨_, (exec_coldResetPin_run q d perst hrun).trans (by rw [d.coldReset_of_untripped htrip]),
    d.coldResets_resetAll (by cases perst <;> decide)⟩

/-- The command COLD_RESET resets it when its delay has passed. -/
theorem exec_coldResetDelayExpire_resets (htrip : d.pwr.trip = 0) (hwait : d.grd.coldWait = true) :
    ∃ t, exec .coldResetDelayExpire ⟨q, d⟩ = .next ⟨q, t⟩ ∧ d.ColdResets t 4 := by
  have hexec : exec .coldResetDelayExpire ⟨q, d⟩ = .next ⟨q, if d.grd.coldWait then
      Dev.coldReset (d.setGrd fun g => { g with coldWait := false }) 4 else d⟩ := rfl
  have hreset := Dev.coldReset_of_untripped (d.setGrd fun g => { g with coldWait := false }) (cause := 4) htrip
  rw [hexec, if_pos hwait, hreset]
  exact ⟨_, rfl, (d.setGrd fun g => { g with coldWait := false }).coldResets_resetAll (by decide)⟩

/-- A tripped device is reset once it is cool (R525). -/
theorem exec_coldResetPin_tripped (perst : Bool) (hrun : d.grd.stage = .run) (htrip : d.pwr.trip ≠ 0)
    (hcool : toSigned 16 (d.fld Reg.PWC_TEMP 0 16) < 1600) :
    ∃ t, exec (.coldResetPin perst) ⟨q, d⟩ = .next ⟨q, t⟩ ∧ d.ColdResets t 5 :=
  ⟨_, (exec_coldResetPin_run q d perst hrun).trans (by simp [Dev.coldReset, htrip, Dev.coolEnough, hcool]),
    d.coldResets_resetAll (by decide)⟩

theorem exec_coldResetPin_hot (perst : Bool) (hrun : d.grd.stage = .run) (htrip : d.pwr.trip ≠ 0)
    (hhot : 1600 ≤ toSigned 16 (d.fld Reg.PWC_TEMP 0 16)) : exec (.coldResetPin perst) ⟨q, d⟩ = .next ⟨q, d⟩ :=
  (exec_coldResetPin_run q d perst hrun).trans (by simp [Dev.coldReset, htrip, Dev.coolEnough, not_lt.2 hhot])

/-- A warm reset of a device that booted starts again at LOADING (R531). -/
theorem exec_warmReset_resets (hok : d.bootOk = true) (htarget : d.grd.lcTarget = none) (hlife : d.lifeState ≠ lcDECOMMISSIONED) :
    ∃ t, exec .warmReset ⟨q, d⟩ = .next ⟨q, t⟩ ∧ t.grd.stage = .run ∧ t.bootState = bsLOADING ∧ d.AfterReset t 6 true := by
  have hexec : exec .warmReset ⟨q, d⟩
      = .next ⟨q, if d.bootOk then (d.resetAll .run 6 true).vidReset.bootBegin bsLOADING else d⟩ := rfl
  have hreset := d.afterReset_resetAll .run 6 true (by decide)
  obtain ⟨outs, vid, hvid⟩ := (d.resetAll .run 6 true).vidReset_eq
  obtain ⟨more, hframe⟩ := d.resetAll_frame .run 6 true
  have hgrd : (d.resetAll .run 6 true).grd.lcTarget = none := by
    rw [hframe]
    exact (congrArg Guard.lcTarget (congrArg Dev.grd (d.sealIfJob_eq 2))).trans htarget
  have hsame : (d.resetAll .run 6 true).lifeState = d.lifeState := by
    obtain ⟨-, -, -, -, -, -, -, -, -, -, -, -, -, hsame, -⟩ := hreset
    exact hsame
  have hboot : (d.resetAll .run 6 true).vidReset.bootBegin bsLOADING = (d.resetAll .run 6 true).vidReset.setBoot bsLOADING :=
    Dev.bootBegin_of_idle _ (by rw [hvid]; exact hgrd) (by rw [hvid]; exact hsame.trans_ne hlife)
  have hregs : (d.resetAll .run 6 true).vidReset.regs = (d.resetAll .run 6 true).regs := by rw [hvid]
  rw [hexec, if_pos hok, hboot]
  refine ⟨_, rfl, ?_, Dev.fld_setFld_same _ _ _ (by decide), hreset.later _ _ _ ?_ (fun k hk => ?_) ?_⟩
  · exact (congrArg (fun u : Dev => u.grd.stage) hvid).trans (d.stage_resetAll _ _ _)
  · rw [hvid]
    rfl
  · exact (Dev.reg_setFld_ne _ _ _ _ hk).trans (Dev.reg_congr hregs k)
  · have hver : ((d.resetAll .run 6 true).vidReset.setBoot bsLOADING).flag Reg.GRD_BOOTSTAT 8 = false := by
      rw [Dev.setBoot, Dev.flag_eq_fld, Dev.fld_setFld_above _ _ _ (by decide) (by decide), ← Dev.flag_eq_fld,
        Dev.flag_congr (Dev.reg_congr hregs _), d.flag_verified_resetAll]
    rw [Dev.alive, hver, Bool.and_false, Bool.false_and]

/-! ### The release of reset -/

/-- The device as its reset is released: a fresh nonce, and the set-points at their reset values (R531, R542). -/
def Dev.released (st : Straps) : Dev := ((d.setGrd fun g => { g with stage := .run, straps := st }).drawNonce).vidReset

theorem Dev.released_eq (st : Straps) : ∃ outs vid regs, (∀ k, k ≠ Reg.GRD_NONCE → (Dev.released d st).reg k = d.reg k)
    ∧ d.released st = { d with
      regs := regs, outs := outs, pwr := { d.pwr with vid := vid }
      grd := { d.grd with stage := .run, straps := st, draws := d.grd.draws + 1 } } := by
  obtain ⟨outs, vid, h⟩ := ((d.setGrd fun g => { g with stage := .run, straps := st }).drawNonce).vidReset_eq
  refine ⟨outs, vid, _, fun k hk => ?_, h⟩
  exact (Dev.reg_congr (congrArg Dev.regs h) k).trans (Dev.reg_setReg_ne _ _ hk)

theorem exec_resetRelease_held (st : Straps) {c : Nat} (hheld : d.grd.stage = .held c) : exec (.resetRelease st) ⟨q, d⟩
    = .next ⟨q, (if c = 5 then (d.released st).emit (.thermtrip false) else d.released st).bootBegin bsROM⟩ := by
  have hexec : exec (.resetRelease st) ⟨q, d⟩ = .next ⟨q, match d.grd.stage with
    | .held c => (if c = 5 then (d.released st).emit (.thermtrip false) else d.released st).bootBegin bsROM
    | .run => if d.grd.straps.coreclk || !st.coreclk then d
        else (d.setGrd fun g => { g with straps := { g.straps with coreclk := true } }).bootBegin bsROM
    | .off => d⟩ := rfl
  rw [hexec, hheld]

theorem exec_resetRelease_run (st : Straps) (hrun : d.grd.stage = .run) : exec (.resetRelease st) ⟨q, d⟩
    = .next ⟨q, if d.grd.straps.coreclk || !st.coreclk then d
        else (d.setGrd fun g => { g with straps := { g.straps with coreclk := true } }).bootBegin bsROM⟩ := by
  have hexec : exec (.resetRelease st) ⟨q, d⟩ = .next ⟨q, match d.grd.stage with
    | .held c => (if c = 5 then (d.released st).emit (.thermtrip false) else d.released st).bootBegin bsROM
    | .run => if d.grd.straps.coreclk || !st.coreclk then d
        else (d.setGrd fun g => { g with straps := { g.straps with coreclk := true } }).bootBegin bsROM
    | .off => d⟩ := rfl
  rw [hexec, hrun]

variable {q d}

/-- A release of reset with no lifecycle change pending shows ROM; a trip that it leaves lets go of THERMTRIP_N (R584). -/
theorem exec_resetRelease_rom (st : Straps) {c : Nat} (hheld : d.grd.stage = .held c) (htarget : d.grd.lcTarget = none)
    (hlife : d.lifeState ≠ lcDECOMMISSIONED) : exec (.resetRelease st) ⟨q, d⟩
      = .next ⟨q, (if c = 5 then (d.released st).emit (.thermtrip false) else d.released st).setBoot bsROM⟩ := by
  obtain ⟨outs, vid, regs, hreg, heq⟩ := d.released_eq st
  have htarget' : (d.released st).grd.lcTarget = none := by rw [heq]; exact htarget
  have hlife' : (d.released st).lifeState ≠ lcDECOMMISSIONED := (Dev.fld_congr (hreg _ (by decide)) _ _).trans_ne hlife
  rw [exec_resetRelease_held q d st hheld, Dev.bootBegin_of_idle]
  · split <;> exact htarget'
  · split <;> exact hlife'

/-- A pending lifecycle change is repeated (R546). -/
theorem exec_resetRelease_pending {st : Straps} {c x : Nat} (hheld : d.grd.stage = .held c) (hc : c ≠ 5)
    (htarget : d.grd.lcTarget = some x) (hclk : st.coreclk = true) (htest : st.testen = false) (htrip : d.pwr.trip = 0) (hx : x < 8) :
    exec (.resetRelease st) ⟨q, d⟩ = .next ⟨q, if x = lcDECOMMISSIONED
      then ((((d.released st).setBoot bsROM).lifecycleSteps x).record clsGUARD 0x00C x 0 blkGRD 0).setBoot bsLOCKED
      else (((d.released st).setBoot bsROM).lifecycleSteps x).record clsGUARD 0x00C x 0 blkGRD 0⟩ := by
  obtain ⟨outs, vid, regs, hreg, heq⟩ := d.released_eq st
  have htarget' : (d.released st).grd.lcTarget = some x := by rw [heq]; exact htarget
  have hok : (d.released st).bootOk = true := by rw [heq]; simp [Dev.bootOk, hclk, htest, htrip]
  rw [exec_resetRelease_held q d st hheld, if_neg hc, Dev.bootBegin_of_pending _ hok htarget' hx]

/-- A device that waits for CORECLK begins when the clock has come. -/
theorem exec_resetRelease_clock {st : Straps} (hrun : d.grd.stage = .run) (hwait : d.grd.straps.coreclk = false)
    (hclk : st.coreclk = true) (htarget : d.grd.lcTarget = none) (hlife : d.lifeState ≠ lcDECOMMISSIONED) :
    exec (.resetRelease st) ⟨q, d⟩
      = .next ⟨q, (d.setGrd fun g => { g with straps := { g.straps with coreclk := true } }).setBoot bsROM⟩ := by
  rw [exec_resetRelease_run q d st hrun, if_neg (by simp [hwait, hclk])]
  exact congrArg (fun u : Dev => Host.Outcome.next (State.mk q u)) (Dev.bootBegin_of_idle _ htarget hlife)

theorem exec_resetRelease_nothing {st : Straps} (hrun : d.grd.stage = .run) (h : d.grd.straps.coreclk = true ∨ st.coreclk = false) :
    exec (.resetRelease st) ⟨q, d⟩ = .next ⟨q, d⟩ := by
  rw [exec_resetRelease_run q d st hrun, if_pos (by simpa using h)]

/-! ### The loss of standby power (R577) -/

/-- What the Coach stores, the Coach House and HBM hold is lost; the CXL tier keeps its own. -/
def Dev.memoryLost (d : Dev) : Dev :=
  { d with mem := d.mem.filter (fun c => decide (3 ≤ c.1 / 2 ^ 60)), bad := d.bad.filter fun l => decide (3 ≤ l.1 * 64 / 2 ^ 60) }

theorem Dev.rd_memoryLost (d : Dev) (k : Nat) : d.memoryLost.rd k = if 3 * 2 ^ 60 ≤ k then d.rd k else 0 := by
  have htier : (decide (3 ≤ k / 2 ^ 60) = true) = (3 * 2 ^ 60 ≤ k) := by rw [decide_eq_true_eq]; exact propext ⟨by omega, by omega⟩
  refine (Sparse.get_filter_key memDefault (fun k => decide (3 ≤ k / 2 ^ 60)) d.mem k).trans ?_
  simp only [htier]
  rfl

theorem Dev.toSeal_congr {s t : Dev} (hregs : t.regs = s.regs) (hgrd : t.grd = s.grd) : t.toSeal = s.toSeal := by
  unfold Dev.toSeal Dev.jobState
  rw [Dev.fld_congr (Dev.reg_congr hregs _), hgrd]

/-- THERMTRIP_N is let go of where a trip holds it (Table 20-7). -/
def Dev.tripReleased (d : Dev) : Dev := if d.tripHeld then d.emit (.thermtrip false) else d

theorem Dev.tripReleased_eq (d : Dev) : d.tripReleased = { d with outs := d.tripReleased.outs } := by
  unfold Dev.tripReleased; split <;> rfl

/-- The reset that the loss of standby power makes. -/
def Dev.lossReset (d : Dev) : Dev := d.tripReleased.memoryLost.resetAll .off 0 true

/-- The set-points return, and no image is being written any more. -/
def Dev.powerOff (s : Dev) : Dev :=
  Dev.setGrd (s.setPwr fun p => { p with vid := Dev.reset.pwr.vid }) fun g => { g with opened := none }

section
variable (s : Dev)
theorem Dev.powerOff_outs : s.powerOff.outs = s.outs := rfl
theorem Dev.powerOff_cmds : s.powerOff.cmds = s.cmds := rfl
theorem Dev.powerOff_grd : s.powerOff.grd = { s.grd with opened := none } := rfl
theorem Dev.rd_powerOff (k : Nat) : s.powerOff.rd k = s.rd k := rfl
theorem Dev.flag_powerOff (k i : Nat) : s.powerOff.flag k i = s.flag k i := rfl
theorem Dev.memoryLost_regs : s.memoryLost.regs = s.regs := rfl
theorem Dev.memoryLost_grd : s.memoryLost.grd = s.grd := rfl
theorem Dev.memoryLost_outs : s.memoryLost.outs = s.outs := rfl
end

/-- The device without standby power. -/
def Dev.powerLost (d : Dev) : Dev := d.lossReset.powerOff

theorem Dev.afterReset_lossReset (d : Dev) : d.tripReleased.memoryLost.AfterReset d.lossReset 0 true :=
  Dev.afterReset_resetAll _ _ _ _ (by decide)

theorem exec_standbyPowerLoss_on (hon : d.grd.stage ≠ .off) : exec .standbyPowerLoss ⟨q, d⟩ = .next ⟨q, d.powerLost⟩ := by
  have hexec : exec .standbyPowerLoss ⟨q, d⟩ = .next ⟨q, if d.grd.stage = .off then d else d.powerLost⟩ := rfl
  rw [hexec, if_neg hon]

theorem Dev.rd_powerLost (d : Dev) (k : Nat) : d.powerLost.rd k = if 3 * 2 ^ 60 ≤ k then d.rd k else 0 := by
  obtain ⟨-, -, -, -, -, -, -, hmem, -⟩ := d.afterReset_lossReset
  rw [Dev.powerLost, Dev.rd_powerOff, Dev.rd_congr hmem, Dev.rd_memoryLost, d.tripReleased_eq]
  rfl

theorem Dev.outs_powerLost (d : Dev) (htrip : d.tripHeld = true) : Out.thermtrip false ∈ d.powerLost.outs := by
  obtain ⟨more, hframe⟩ := d.tripReleased.memoryLost.resetAll_frame .off 0 true
  have houts : d.tripReleased.outs = d.outs ++ [.thermtrip false] := by rw [Dev.tripReleased, if_pos htrip]; rfl
  rw [Dev.powerLost, Dev.powerOff_outs, Dev.lossReset, hframe, Dev.memoryLost_outs, houts]
  simp

/-- A job that runs or is held is sealed (R529). -/
theorem Dev.sealed_powerLost (d : Dev) (hseal : d.toSeal = true) : d.powerLost.flag Reg.GRD_RESETCAUSE 4 = true
    ∧ ∃ e, d.powerLost.grd.meterLog.getLast? = some e ∧ e.jobid = d.jobId ∧ e.ended = 2 := by
  obtain ⟨-, -, -, -, -, -, -, -, -, -, -, -, hcause, -, -, -, hlog, -⟩ := d.afterReset_lossReset
  have hregs : d.tripReleased.memoryLost.regs = d.regs := by rw [Dev.memoryLost_regs, d.tripReleased_eq]
  have hgrd : d.tripReleased.memoryLost.grd = d.grd := by rw [Dev.memoryLost_grd, d.tripReleased_eq]
  have hseal' : d.tripReleased.memoryLost.toSeal = true := (Dev.toSeal_congr hregs hgrd).trans hseal
  obtain ⟨e, he, hjob, hended⟩ := hlog hseal'
  have hid : d.tripReleased.memoryLost.jobId = d.jobId := Dev.fld_congr (Dev.reg_congr hregs _) _ _
  rw [Dev.powerLost, Dev.flag_powerOff, Dev.powerOff_grd]
  exact ⟨hcause.2 (.inl hseal'), e, he, hjob.trans hid, hended⟩

theorem Dev.cmds_powerLost (d : Dev) : d.powerLost.cmds = [] := by
  obtain ⟨hcmds, -⟩ := d.afterReset_lossReset
  rw [Dev.powerLost, Dev.powerOff_cmds, hcmds]

theorem Dev.stage_powerLost (d : Dev) : d.powerLost.grd.stage = .off := by
  rw [Dev.powerLost, Dev.powerOff_grd]
  exact Dev.stage_resetAll _ _ _ _

theorem Dev.opened_powerLost (d : Dev) : d.powerLost.grd.opened = none := by rw [Dev.powerLost, Dev.powerOff_grd]

/-! ### The function-level reset (R530) -/

/-- A command off its ring. -/
def Cmd.muted (c : Cmd) : Cmd := match c.src with
  | .ring _ => { c with src := .coachman }
  | _ => c

/-- The device with every command off its ring and the rings reset. -/
def Dev.ringsReset (d : Dev) : Dev :=
  { d with
    cmds := d.cmds.map Cmd.muted, dying := d.dying.map (fun x => { x with cmd := x.cmd.muted }), rings := []
    regs := d.regs.filter fun r => !((decide (0x201000 ≤ r.1) && decide (r.1 < 0x203000)) || decide (2 ^ 32 ≤ r.1)) }

theorem Dev.jobState_ringsReset (d : Dev) : d.ringsReset.jobState = d.jobState := by
  refine Dev.fld_congr (congrArg BitVec.toNat ?_) _ _
  exact (Sparse.get_filter_key regDefault (fun k => !((decide (0x201000 ≤ k) && decide (k < 0x203000)) || decide (2 ^ 32 ≤ k)))
    d.regs Reg.GRD_JOBSTAT).trans (if_pos (by decide))

theorem exec_functionLevelReset_eq (halive : d.alive = true) : exec .functionLevelReset ⟨q, d⟩ = .next ⟨q,
    if d.ringsReset.jobState = jRUNNING || d.ringsReset.jobState = jPREEMPTED then d.ringsReset.endJob false 0
    else if d.ringsReset.jobState = jMANIFEST || d.ringsReset.jobState = jARMED then
      Dev.launchDrop { d.ringsReset with cmds := [], dying := [] }
    else d.ringsReset⟩ :=
  (State.upd_of_alive q halive rfl : execFunctionLevelReset ⟨q, d⟩ = _)

/-- The end of a job leaves it to be scrubbed (R496). -/
theorem Dev.jobState_endJob (s : Dev) (wipe : Bool) (u : Nat) : (s.endJob wipe u).jobState = jSCRUBBING :=
  Dev.fld_setFld_same _ _ _ (by decide)

/-- Settles O47, by the kinds of reset. -/
theorem resets : Obligations.Resets := by
  intro q d
  refine ⟨fun hoff => ⟨?_, ?_⟩, fun hrun htrip => ⟨exec_coldResetPin_resets q d false hrun htrip, exec_coldResetPin_resets q d true hrun htrip,
      exec_coldResetDelayExpire_resets q d htrip⟩,
    fun hrun htrip p => ⟨exec_coldResetPin_tripped q d p hrun htrip, exec_coldResetPin_hot q d p hrun htrip⟩,
    exec_warmReset_resets q d, ?_,
    fun hrun st => ⟨exec_resetRelease_nothing hrun, exec_resetRelease_clock hrun⟩, fun hon => ⟨_, exec_standbyPowerLoss_on hon, d.stage_powerLost, d.cmds_powerLost, d.opened_powerLost, d.outs_powerLost,
      d.sealed_powerLost, fun k hk => (d.rd_powerLost k).trans (if_neg (by omega)), fun k hk => (d.rd_powerLost k).trans (if_pos hk)⟩, ?_⟩
  · have hexec : exec (.standbyPowerUp true) ⟨q, d⟩
        = .next ⟨q, if d.grd.stage = .off && true then d.resetAll (.held 1) 1 false else d⟩ := rfl
    rw [hexec, if_pos (by simp [hoff])]
    exact ⟨_, rfl, d.coldResets_resetAll (by decide)⟩
  · have hexec : exec (.standbyPowerUp false) ⟨q, d⟩
        = .next ⟨q, if d.grd.stage = .off && false then d.resetAll (.held 1) 1 false else d⟩ := rfl
    rw [hexec, if_neg (by simp)]
  · rintro st c s hheld rfl
    refine ⟨fun hc htarget hlife => ?_, fun hc htarget hlife => ?_, fun x hc htarget => exec_resetRelease_pending hheld hc htarget⟩
    · rw [exec_resetRelease_rom st hheld htarget hlife, if_neg hc]
      rfl
    · rw [exec_resetRelease_rom st hheld htarget hlife, if_pos hc]
      rfl
  · rintro halive s m rfl rfl
    have hstate := d.jobState_ringsReset
    refine ⟨fun h => ⟨?_, Dev.jobState_endJob _ _ _⟩, fun h => ?_, fun h => ?_⟩
    · rw [exec_functionLevelReset_eq halive, hstate, if_pos (by simpa using h)]
      rfl
    · rw [exec_functionLevelReset_eq halive, hstate, if_neg (by rcases h with h | h <;> rw [h] <;> decide), if_pos (by simpa using h)]
      rfl
    · rw [exec_functionLevelReset_eq halive, hstate, if_neg (by rcases h with h | h <;> rw [h] <;> decide),
        if_neg (by rcases h with h | h <;> rw [h] <;> decide)]
      rfl

end

end Sys2Proof.Machine
end

section
/-! The state after reset (R274, R528, R531, R558): nothing is under way, and the registers hold the values of their tables. -/
namespace Sys2Proof.Machine

/-- After reset every register but the two that the log names holds its reset value. -/
theorem Dev.reg_reset_ne {k : Nat} (hlife : k ≠ Reg.GRD_LIFECYCLE) (hcause : k ≠ Reg.GRD_RESETCAUSE) :
    Dev.reset.reg k = regReset k % 2 ^ 64 := by
  simp [Dev.reg, Dev.reset, Sparse.get, hlife, hcause, regDefault]

/-- Settles O57: what is under way is written out, and the registers are by the one table of reset values. -/
theorem resetState : Obligations.ResetState := by
  rintro d rfl
  refine ⟨rfl, rfl, rfl, rfl, rfl, rfl, rfl, rfl, rfl, rfl, rfl, by decide, rfl, ?_⟩
  refine ⟨by decide, by decide, by decide, by decide, by decide, by decide, by decide, by decide, by decide, by decide, ?_⟩
  exact fun k hlife hcause => Dev.reg_reset_ne hlife hcause

end Sys2Proof.Machine
end

section
/-! The start-up of the device (R531 to R533, R536, R546): memory zeroed part by part, the checks of the firmware image in their
order, and the states that each event of the boot shows. -/
namespace Sys2Proof.Machine

-- The short theorems below are elaborated one after another: side by side, their threads' stacks exceed the memory of the check.
set_option Elab.async false

/-! ### Memory zeroed -/

section
variable (s : Dev)

/-- The bytes whose keys `p` does not name are zeroed, and their lines made good. -/
def Dev.zeroedBut (p : Nat → Bool) : Dev :=
  { s with mem := s.mem.filter fun c => p c.1, bad := s.bad.filter fun l => p (l.1 * 64) }

theorem Dev.rd_zeroedBut (p : Nat → Bool) (k : Nat) : (s.zeroedBut p).rd k = if p k = true then s.rd k else 0 :=
  Sparse.get_filter_key memDefault p s.mem k

theorem Dev.bootState_setFlag {i : Nat} (b : Bool) (hi : 4 ≤ i) : (s.setFlag Reg.GRD_BOOTSTAT i b).bootState = s.bootState :=
  Dev.fld_setFld_below _ _ _ hi (by decide)

theorem Dev.bootState_setBoot {st : Nat} (hst : st < 16) : (s.setBoot st).bootState = st :=
  (Dev.fld_setFld_same _ _ _ (by decide)).trans (Nat.mod_eq_of_lt hst)

theorem Dev.reg_dsRelease_ne {k : Nat} (p : Nat) (hk : k ≠ Reg.PWC_CNT_PGWAKE) : (s.dsRelease p).reg k = s.reg k := by
  unfold Dev.dsRelease Dev.ungate
  split
  · exact Dev.reg_bump_ne _ _ hk
  · rfl

theorem Dev.gated_dsRelease (p : Nat) : (s.dsRelease p).pwr.gated = s.pwr.gated.filter (· != .dsPort p) := by
  unfold Dev.dsRelease Dev.ungate
  split <;> rename_i hgated
  · rfl
  · refine (List.filter_eq_self.2 fun m hm => ?_).symm
    simp only [bne_iff_ne, ne_eq]
    rintro rfl
    exact hgated (List.contains_iff_mem.2 hm)

theorem Dev.dsRelease_frame (p : Nat) : s.dsRelease p = { s with
    regs := (s.dsRelease p).regs, outs := s.outs ++ [.dsRefclk p true, .dsPerst p false], pwr := (s.dsRelease p).pwr } := by
  unfold Dev.dsRelease Dev.ungate
  split <;> rfl

section
variable (ps : List Nat)

theorem Dev.mem_dsReleases : (s.each ps Dev.dsRelease).mem = s.mem :=
  Dev.each_same Dev.mem (fun u p => by rw [u.dsRelease_frame p]) ps s
theorem Dev.grd_dsReleases : (s.each ps Dev.dsRelease).grd = s.grd :=
  Dev.each_same Dev.grd (fun u p => by rw [u.dsRelease_frame p]) ps s
theorem Dev.reg_dsReleases {k : Nat} (hk : k ≠ Reg.PWC_CNT_PGWAKE) : (s.each ps Dev.dsRelease).reg k = s.reg k :=
  Dev.each_same (Dev.reg · k) (fun u p => u.reg_dsRelease_ne p hk) ps s

theorem Dev.outs_dsReleases :
    (s.each ps Dev.dsRelease).outs = s.outs ++ ps.flatMap fun p => [.dsRefclk p true, .dsPerst p false] := by
  induction ps generalizing s with
  | nil => simp [Dev.each]
  | cons p ps ih =>
    refine (ih (s.dsRelease p)).trans ?_
    rw [s.dsRelease_frame p]
    simp

/-- The ports listed are powered, and no other domain. -/
theorem Dev.gated_dsReleases (m : Domain) :
    m ∈ (s.each ps Dev.dsRelease).pwr.gated ↔ m ∈ s.pwr.gated ∧ ∀ p ∈ ps, m ≠ .dsPort p := by
  induction ps generalizing s with
  | nil => simp [Dev.each]
  | cons p ps ih =>
    refine (ih (s.dsRelease p)).trans ?_
    rw [s.gated_dsRelease p]
    simp [and_assoc]
end

/-- The wipe engine runs, and CXLWIPE shows it. -/
def Dev.wipeBegun : Dev := (s.setFlag Reg.GRD_BOOTSTAT 10 true).setGrd fun g => { g with wiping := true }

theorem Dev.wipeBegun_mem : s.wipeBegun.mem = s.mem := by rw [Dev.wipeBegun, Dev.setGrd_mem, Dev.setFlag_mem]
theorem Dev.wipeBegun_sram : s.wipeBegun.grd.sram = s.grd.sram := by rw [Dev.wipeBegun, Dev.setGrd, Dev.setFlag_grd]

theorem Dev.wipeBegun_bootState : s.wipeBegun.bootState = s.bootState := by
  rw [Dev.wipeBegun, Dev.bootState, Dev.fld_congr (Dev.reg_setGrd _ _ _)]
  exact s.bootState_setFlag true (by decide)

theorem Dev.wipeStart_eq : s.wipeStart = if s.grd.lcTarget.isNone || !s.grd.sram || !s.grd.hbm || s.flag Reg.GRD_BOOTSTAT 10 then s
    else s.wipeBegun.each ((List.range 2).filter fun q => s.pwr.gated.contains (.dsPort q)) Dev.dsRelease := rfl

/-- The wipe engine starts or not; memory and the state shown stay. -/
theorem Dev.wipeStart_keeps : s.wipeStart.mem = s.mem ∧ s.wipeStart.grd.sram = s.grd.sram ∧ s.wipeStart.bootState = s.bootState := by
  rw [Dev.wipeStart_eq]
  split
  · exact ⟨rfl, rfl, rfl⟩
  · refine ⟨(Dev.mem_dsReleases ..).trans s.wipeBegun_mem, (congrArg Guard.sram (Dev.grd_dsReleases ..)).trans s.wipeBegun_sram, ?_⟩
    exact (Dev.fld_congr (Dev.reg_dsReleases _ _ (by decide)) _ _).trans s.wipeBegun_bootState

/-- With no lifecycle change pending the wipe engine does not start. -/
theorem Dev.wipeStart_of_idle (h : s.grd.lcTarget = none) : s.wipeStart = s := by
  unfold Dev.wipeStart
  rw [if_pos (by rw [h]; rfl)]
end

/-- The on-chip SRAM zeroed, and HBM3E zeroed. -/
def Dev.sramZeroed (d : Dev) : Dev := (d.zeroedBut fun k => decide (2 ≤ k / 2 ^ 60)).setGrd fun g => { g with sram := true }
def Dev.hbmZeroed (d : Dev) : Dev := (d.zeroedBut fun k => !(k / 2 ^ 60 == 2)).setGrd fun g => { g with hbm := true }

theorem Dev.rd_sramZeroed (d : Dev) (k : Nat) : d.sramZeroed.rd k = if 2 * 2 ^ 60 ≤ k then d.rd k else 0 := by
  have htier : (decide (2 ≤ k / 2 ^ 60) = true) = (2 * 2 ^ 60 ≤ k) := by rw [decide_eq_true_eq]; exact propext ⟨by omega, by omega⟩
  have hrd := d.rd_zeroedBut (fun k => decide (2 ≤ k / 2 ^ 60)) k
  simp only [htier] at hrd
  exact hrd

theorem Dev.rd_hbmZeroed (d : Dev) (k : Nat) : d.hbmZeroed.rd k = if k / 2 ^ 60 = 2 then 0 else d.rd k := by
  have hrd := d.rd_zeroedBut (fun k => !(k / 2 ^ 60 == 2)) k
  simp only [Bool.not_eq_true', beq_eq_false_iff_ne, ne_eq, ite_not] at hrd
  exact hrd

section
variable {q : List Instr} {d : Dev} (hok : d.bootOk = true)
include hok

theorem exec_sramZeroDone_zeroes (hsram : d.grd.sram = false) : ∃ t, exec .sramZeroDone ⟨q, d⟩ = .next ⟨q, t⟩
    ∧ (∀ k, k < 2 * 2 ^ 60 → t.rd k = 0) ∧ (∀ k, 2 * 2 ^ 60 ≤ k → t.rd k = d.rd k) ∧ t.grd.sram = true
    ∧ t.bootState = (if d.bootState = bsROM then bsLOADING else d.bootState) := by
  obtain ⟨s, hs⟩ : ∃ s, s = d.sramZeroed.wipeStart := ⟨_, rfl⟩
  have hexec : exec .sramZeroDone ⟨q, d⟩ = .next ⟨q, if !d.bootOk || d.grd.sram then d else
      if s.bootState = bsROM then s.setBoot bsLOADING else s⟩ := by rw [hs]; rfl
  obtain ⟨hmem, hsram', hboot⟩ := d.sramZeroed.wipeStart_keeps
  rw [← hs] at hmem hsram' hboot
  have hboot' : s.bootState = d.bootState := hboot
  have hrd (k : Nat) : s.rd k = if 2 * 2 ^ 60 ≤ k then d.rd k else 0 := (Dev.rd_congr hmem k).trans (d.rd_sramZeroed k)
  rw [hexec, if_neg (by simp [hok, hsram]), hboot']
  split
  · exact ⟨_, rfl, fun k hk => (hrd k).trans (if_neg (by omega)), fun k hk => (hrd k).trans (if_pos hk), hsram',
      s.bootState_setBoot (by decide)⟩
  · exact ⟨_, rfl, fun k hk => (hrd k).trans (if_neg (by omega)), fun k hk => (hrd k).trans (if_pos hk), hsram', hboot'⟩

omit hok in
/-- What the checks of the image give: the failure recorded and shown, in RECOVERY, or the header kept (R533, R536). -/
def Dev.imageVerdict (d : Dev) : Option (Nat × Nat) → Dev
  | some (c, x) => ((d.record clsGUARD c x 0 blkGRD 0).setFld Reg.GRD_BOOTSTAT 16 12 c).setBoot bsRECOVERY
  | none => (d.setGrd fun g => { g with image := d.flashBytes 0 512 }).setBoot bsVERIFYING

theorem exec_imageVerifyDone_checked (hload : d.bootState = bsLOADING) (k : Option Nat) :
    exec (.imageVerifyDone k) ⟨q, d⟩ = .next ⟨q, d.imageVerdict (d.imageCheck k)⟩ := by
  have hexec : exec (.imageVerifyDone k) ⟨q, d⟩
      = .next ⟨q, if !d.bootOk || d.bootState ≠ bsLOADING then d else d.imageVerdict (d.imageCheck k)⟩ := rfl
  rw [hexec, if_neg (by simp [hok, hload])]

theorem exec_hbmTrainingDone_wipes (htrain : d.bootState = bsTRAINING) (hnew : d.grd.trained = false) :
    exec .hbmTrainingDone ⟨q, d⟩ = .next ⟨q, (d.setGrd fun g => { g with trained := true }).setBoot bsWIPING⟩ := by
  have hexec : exec .hbmTrainingDone ⟨q, d⟩ = .next ⟨q, if !d.bootOk || d.grd.trained || !(d.bootState == bsTRAINING
        || (d.bootState == bsRECOVERY || d.bootState == bsLOCKED) && d.grd.lcTarget.isSome) then d
      else if d.bootState = bsTRAINING then (d.setGrd fun g => { g with trained := true }).setBoot bsWIPING
      else d.setGrd fun g => { g with trained := true }⟩ := rfl
  rw [hexec, if_neg (by simp [hok, htrain, hnew]), if_pos htrain]

theorem exec_bootReady_ready (hwipe : d.bootState = bsWIPING) (hsram : d.grd.sram = true) (hhbm : d.grd.hbm = true) :
    exec .bootReady ⟨q, d⟩ = .next ⟨q, ((d.setGrd fun g => { g with served := true }).setBoot bsREADY).setFlag Reg.HST_STAT 0 true⟩ := by
  have hexec : exec .bootReady ⟨q, d⟩ = .next ⟨q, if !d.bootOk then d
      else if d.bootState = bsWIPING && d.grd.sram && d.grd.hbm then
        ((d.setGrd fun g => { g with served := true }).setBoot bsREADY).setFlag Reg.HST_STAT 0 true
      else if d.bootState = bsRECOVERY then d.setGrd fun g => { g with served := true } else d⟩ := rfl
  rw [hexec, if_neg (by simp [hok]), if_pos (by simp [hwipe, hsram, hhbm])]

theorem exec_bootReady_recovery (hrec : d.bootState = bsRECOVERY) :
    exec .bootReady ⟨q, d⟩ = .next ⟨q, d.setGrd fun g => { g with served := true }⟩ := by
  have hexec : exec .bootReady ⟨q, d⟩ = .next ⟨q, if !d.bootOk then d
      else if d.bootState = bsWIPING && d.grd.sram && d.grd.hbm then
        ((d.setGrd fun g => { g with served := true }).setBoot bsREADY).setFlag Reg.HST_STAT 0 true
      else if d.bootState = bsRECOVERY then d.setGrd fun g => { g with served := true } else d⟩ := rfl
  rw [hexec, if_neg (by simp [hok]), if_neg (by simp [hrec, bsRECOVERY, bsWIPING]), if_pos hrec]

/-- The ports that are enabled and gated. -/
def Dev.portsToPower (s : Dev) : List Nat := (List.range 2).filter fun p => s.flag (Reg.HST_DSCTL p) 0 && s.pwr.gated.contains (.dsPort p)

/-- HBM3E zeroed reads 0, and the ports that are enabled are powered (R580). -/
theorem exec_hbmZeroDone_zeroes (htrained : d.grd.trained = true) (hhbm : d.grd.hbm = false) (htarget : d.grd.lcTarget = none) :
    ∃ t, exec .hbmZeroDone ⟨q, d⟩ = .next ⟨q, t⟩ ∧ t.grd.hbm = true ∧ d.RegsBut t [Reg.PWC_CNT_PGWAKE]
      ∧ (∀ k, k / 2 ^ 60 = 2 → t.rd k = 0) ∧ (∀ k, k / 2 ^ 60 ≠ 2 → t.rd k = d.rd k)
      ∧ (∀ p, p < 2 → d.flag (Reg.HST_DSCTL p) 0 = true → Domain.dsPort p ∉ t.pwr.gated)
      ∧ t.outs = d.outs ++ d.portsToPower.flatMap fun p => [.dsRefclk p true, .dsPerst p false] := by
  have hexec : exec .hbmZeroDone ⟨q, d⟩ = .next ⟨q, if !d.bootOk || !d.grd.trained || d.grd.hbm then d else
      d.hbmZeroed.wipeStart.each d.hbmZeroed.wipeStart.portsToPower Dev.dsRelease⟩ := rfl
  rw [hexec, d.hbmZeroed.wipeStart_of_idle htarget, if_neg (by simp [hok, htrained, hhbm])]
  have hports : d.hbmZeroed.portsToPower = d.portsToPower := rfl
  rw [hports]
  refine ⟨_, rfl, congrArg Guard.hbm (Dev.grd_dsReleases ..), fun k hk => Dev.reg_dsReleases _ _ (by simpa using hk), fun k hk => ?_,
    fun k hk => ?_, fun p hp hen hmem => ?_, Dev.outs_dsReleases ..⟩
  · exact (Dev.rd_congr (Dev.mem_dsReleases ..) k).trans ((d.rd_hbmZeroed k).trans (if_pos hk))
  · exact (Dev.rd_congr (Dev.mem_dsReleases ..) k).trans ((d.rd_hbmZeroed k).trans (if_neg hk))
  · obtain ⟨hin, hnot⟩ := (Dev.gated_dsReleases ..).1 hmem
    have hin' : Domain.dsPort p ∈ d.pwr.gated := hin
    exact hnot p (List.mem_filter.2 ⟨List.mem_range.2 hp, by simp [hen, hin']⟩) rfl
/-! ### The firmware verified (R531, Table 10-4) -/

/-- What the header of the image says shows, and the device works from here on. -/
def Dev.verified (d : Dev) : Dev :=
  let im (n k : Nat) : Nat := leNat ((d.grd.image.drop n).take k)
  let s := (d.setReg Reg.GRD_FWVER (im 8 4)).setFld Reg.GRD_LIFECYCLE 16 6 (im 12 1)
  let s := s.setGrd fun g => { g with keys := g.keys || s.lifeState == lcMANUFACTURE }
  (s.setFlag Reg.GRD_BOOTSTAT 8 true).setBoot bsTRAINING

/-- A Hitch in HOLD goes to DISABLED. -/
def Dev.unhold (s : Dev) (h : Nat) : Dev := if s.hState h = hsHOLD then s.hEnter h hsDISABLED 0 else s

omit hok in
theorem Dev.unhold_onlyRegs (s : Dev) (h : Nat) : s.OnlyRegs (s.unhold h) (hitchShown h) := by
  unfold Dev.unhold
  split
  · exact s.onlyRegs_hEnter h hsDISABLED 0
  · exact Dev.OnlyRegs.refl _ _

omit hok in
/-- The Guard's registers stay while the Hitches leave HOLD. -/
theorem Dev.unholds_keeps (s : Dev) (hs : List Nat) : (s.each hs Dev.unhold).grd = s.grd
    ∧ ∀ k, k < 0x100000 → (s.each hs Dev.unhold).reg k = s.reg k := by
  refine ⟨Dev.each_same Dev.grd (fun u h => by rw [(u.unhold_onlyRegs h).1]) hs s, fun k hk =>
    Dev.each_same (Dev.reg · k) (fun u h => (u.unhold_onlyRegs h).2 k (not_mem_hitchShown ?_ ?_)) hs s⟩
  · unfold Reg.HCH_PSTAT Reg.HCH_LSTAT
    omega
  · unfold Reg.HCH_UPMAP Reg.HCH_HALFMAP
    omega

omit hok in
theorem Dev.hState_unholds (s : Dev) {h : Nat} (hh : h < 32) :
    (s.each (List.range 32) Dev.unhold).hState h = if s.hState h = hsHOLD then hsDISABLED else s.hState h := by
  refine Dev.each_own (v := fun u => u.hState h) (g := fun x => if x = hsHOLD then hsDISABLED else x) List.nodup_range (List.mem_range.2 hh)
    (fun u => ?_) (fun u g _ hne => ?_)
  · unfold Dev.unhold
    split
    · exact u.hState_hEnter h hsDISABLED 0
    · rfl
  · refine Dev.fld_congr ((u.unhold_onlyRegs g).2 _ (not_mem_hitchShown ?_ ?_)) _ _
    · unfold Reg.HCH_PSTAT Reg.HCH_LSTAT
      omega
    · unfold Reg.HCH_PSTAT Reg.HCH_UPMAP Reg.HCH_HALFMAP
      omega

omit hok in
theorem leNat_lt (bs : List Byte) : leNat bs < 256 ^ bs.length := by
  induction bs with
  | nil => simp [leNat]
  | cons b bs ih =>
    have hb : b.toNat < 256 := b.isLt
    simp only [leNat, List.length_cons, pow_succ]
    omega

theorem exec_firmwareVerified_trains (hverify : d.bootState = bsVERIFYING) : ∃ t, exec .firmwareVerified ⟨q, d⟩ = .next ⟨q, t⟩
    ∧ t.alive = true ∧ t.bootState = bsTRAINING ∧ t.reg Reg.GRD_FWVER = leNat ((d.grd.image.drop 8).take 4)
    ∧ t.fld Reg.GRD_LIFECYCLE 16 6 = leNat ((d.grd.image.drop 12).take 1) % 64
    ∧ (∀ h, h < 32 → t.hState h = (if d.hState h = hsHOLD then hsDISABLED else d.hState h)) := by
  have hexec : exec .firmwareVerified ⟨q, d⟩ = .next ⟨q, if !d.bootOk || d.bootState ≠ bsVERIFYING then d
      else d.verified.each (List.range 32) Dev.unhold⟩ := rfl
  rw [hexec, if_neg (by simp [hok, hverify])]
  obtain ⟨hgrd, hreg⟩ := d.verified.unholds_keeps (List.range 32)
  have hboot : (d.verified.each (List.range 32) Dev.unhold).bootState = bsTRAINING :=
    (Dev.fld_congr (hreg _ (by decide)) _ _).trans (Dev.bootState_setBoot _ (by decide))
  have hver : (d.verified.each (List.range 32) Dev.unhold).flag Reg.GRD_BOOTSTAT 8 = true := by
    rw [Dev.flag_congr (hreg _ (by decide)), Dev.verified, Dev.setBoot, Dev.flag_eq_fld,
      Dev.fld_setFld_above _ _ _ (by decide) (by decide), ← Dev.flag_eq_fld, Dev.flag_setFlag_same _ _ _ (by decide)]
  have hrun : d.grd.stage = .run := by
    simp only [Dev.bootOk, Bool.and_eq_true, beq_iff_eq] at hok
    exact hok.1.1.1
  have hstage : (d.verified.each (List.range 32) Dev.unhold).grd.stage = .run := (congrArg Guard.stage hgrd).trans hrun
  have hfw : (leNat ((d.grd.image.drop 8).take 4)) < 2 ^ 64 := lt_of_lt_of_le (leNat_lt _)
    ((Nat.pow_le_pow_right (by decide) (List.length_take_le 4 _)).trans (by decide))
  refine ⟨_, rfl, ?_, hboot, ?_, ?_, fun h hh => ?_⟩
  · unfold Dev.bootState at hboot
    simp [Dev.alive, hstage, hver, hboot, bsTRAINING]
  · rw [hreg _ (by decide), Dev.verified, Dev.setBoot, Dev.reg_setFld_ne _ _ _ _ (by decide), Dev.reg_setFlag_ne _ _ _ (by decide),
      Dev.reg_setGrd, Dev.reg_setFld_ne _ _ _ _ (by decide), Dev.reg_setReg_same, Nat.mod_eq_of_lt hfw]
  · rw [Dev.fld_congr (hreg _ (by decide)), Dev.verified, Dev.setBoot, Dev.fld_setFld_ne _ _ _ _ _ _ (by decide)]
    exact (Dev.fld_setFld_ne _ _ _ _ _ _ (by decide)).trans (Dev.fld_setFld_same _ _ _ (by decide))
  · rw [Dev.hState_unholds _ hh]
    have hstate : d.verified.hState h = d.hState h := by
      refine Dev.fld_congr ?_ _ _
      have h1 : Reg.HCH_PSTAT h ≠ Reg.GRD_BOOTSTAT := by unfold Reg.HCH_PSTAT Reg.GRD_BOOTSTAT; omega
      have h2 : Reg.HCH_PSTAT h ≠ Reg.GRD_LIFECYCLE := by unfold Reg.HCH_PSTAT Reg.GRD_LIFECYCLE; omega
      have h3 : Reg.HCH_PSTAT h ≠ Reg.GRD_FWVER := by unfold Reg.HCH_PSTAT Reg.GRD_FWVER; omega
      rw [Dev.verified, Dev.setBoot, Dev.reg_setFld_ne _ _ _ _ h1, Dev.reg_setFlag_ne _ _ _ h1, Dev.reg_setGrd,
        Dev.reg_setFld_ne _ _ _ _ h2, Dev.reg_setReg_ne _ _ h3]
    rw [hstate]
end

/-! ### The end of the lifecycle wipe (R546) -/

section
variable (s : Dev)

/-- The ports listed are held in reset, and their domains gated. -/
theorem Dev.dsHolds_keeps (ps : List Nat) : (s.each ps Dev.dsHold).regs = s.regs ∧ (s.each ps Dev.dsHold).mem = s.mem
    ∧ (s.each ps Dev.dsHold).log = s.log ∧ (s.each ps Dev.dsHold).grd = s.grd :=
  ⟨Dev.each_same (f := Dev.dsHold) Dev.regs (fun _ _ => rfl) ps s, Dev.each_same (f := Dev.dsHold) Dev.mem (fun _ _ => rfl) ps s,
    Dev.each_same (f := Dev.dsHold) Dev.log (fun _ _ => rfl) ps s, Dev.each_same (f := Dev.dsHold) Dev.grd (fun _ _ => rfl) ps s⟩

theorem Dev.gated_dsHolds {ps : List Nat} {p : Nat} (hp : p ∈ ps ∨ Domain.dsPort p ∈ s.pwr.gated) :
    Domain.dsPort p ∈ (s.each ps Dev.dsHold).pwr.gated := by
  induction ps generalizing s with
  | nil => simpa [Dev.each] using hp
  | cons a ps ih =>
    refine ih (s.dsHold a) ?_
    by_cases ha : p = a
    · exact .inr (List.mem_append_right _ (by rw [ha]; exact .head _))
    · refine hp.imp (fun h => (List.mem_cons.1 h).resolve_left ha) fun h => List.mem_append_left _ (List.mem_filter.2 ⟨h, ?_⟩)
      simpa using ha

/-- The ports that are not enabled. -/
def Dev.portsDown : List Nat := (List.range 2).filter fun p => !s.flag (Reg.HST_DSCTL p) 0

/-- The CXL tier wiped but for the ports that fail. -/
def Dev.cxlWiped (fails : List Nat) : Dev :=
  s.zeroedBut fun k => !((k / 2 ^ 60 == 3 && !fails.contains 0) || (k / 2 ^ 60 == 4 && !fails.contains 1))

/-- The wipe engine stands still. -/
def Dev.wipeStops : Dev := s.setGrd fun g => { g with wiping := false }

/-- The pending change has ended. -/
def Dev.changeEnds : Dev :=
  ((s.setGrd fun g => { g with lcTarget := none }).setFlag Reg.GRD_BOOTSTAT 9 false).setFlag Reg.GRD_BOOTSTAT 10 false

theorem Dev.reg_changeEnds {k : Nat} (hk : k ≠ Reg.GRD_BOOTSTAT) : s.changeEnds.reg k = s.reg k := by
  rw [Dev.changeEnds, Dev.reg_setFlag_ne _ _ _ hk, Dev.reg_setFlag_ne _ _ _ hk, Dev.reg_setGrd]
end

section
variable {q : List Instr} {d : Dev} (hwiping : d.grd.wiping = true)
include hwiping

/-- With every frame written, the change ends and the ports that are not enabled are gated again. -/
theorem exec_lifecycleCxlWipeDone_ends : ∃ t, exec (.lifecycleCxlWipeDone []) ⟨q, d⟩ = .next ⟨q, t⟩ ∧ t.grd.lcTarget = none
    ∧ t.flag Reg.GRD_BOOTSTAT 9 = false ∧ t.flag Reg.GRD_BOOTSTAT 10 = false
    ∧ (∀ k, k / 2 ^ 60 = 3 ∨ k / 2 ^ 60 = 4 → t.rd k = 0)
    ∧ ∀ p, p < 2 → d.flag (Reg.HST_DSCTL p) 0 = false → Domain.dsPort p ∈ t.pwr.gated := by
  have hexec : exec (.lifecycleCxlWipeDone []) ⟨q, d⟩ = .next ⟨q, if !d.grd.wiping then d else
      (d.cxlWiped []).wipeStops.changeEnds.each (d.cxlWiped []).wipeStops.changeEnds.portsDown Dev.dsHold⟩ := rfl
  rw [hexec, if_neg (by simp [hwiping])]
  obtain ⟨s, hs⟩ : ∃ s, s = (d.cxlWiped []).wipeStops := ⟨_, rfl⟩
  have hreg (k : Nat) : s.reg k = d.reg k := by rw [hs]; rfl
  have hrd (k : Nat) : s.changeEnds.rd k = (d.cxlWiped []).rd k := by rw [hs]; rfl
  rw [← hs]
  obtain ⟨hregs, hmem, -, hgrd⟩ := s.changeEnds.dsHolds_keeps s.changeEnds.portsDown
  refine ⟨_, rfl, congrArg Guard.lcTarget hgrd, ?_, ?_, fun k hk => ?_, fun p hp hdown => Dev.gated_dsHolds _ (.inl ?_)⟩
  · rw [Dev.flag_congr (Dev.reg_congr hregs _), Dev.changeEnds, Dev.flag_setFlag_bit _ _ _ (by decide) (by decide),
      Dev.flag_setFlag_same _ _ _ (by decide)]
  · rw [Dev.flag_congr (Dev.reg_congr hregs _), Dev.changeEnds, Dev.flag_setFlag_same _ _ _ (by decide)]
  · rw [Dev.rd_congr hmem, hrd, Dev.cxlWiped, Dev.rd_zeroedBut]
    exact if_neg (by obtain hk | hk := hk <;> rw [hk] <;> decide)
  · refine List.mem_filter.2 ⟨List.mem_range.2 hp, ?_⟩
    have hne : Reg.HST_DSCTL p ≠ Reg.GRD_BOOTSTAT := by unfold Reg.HST_DSCTL Reg.GRD_BOOTSTAT; omega
    rw [Dev.flag_congr ((s.reg_changeEnds hne).trans (hreg _)), hdown]
    rfl

/-- A port with a frame that could not be written is recorded, and the change stays pending (log entry 219). -/
theorem exec_lifecycleCxlWipeDone_fails : ∃ t, exec (.lifecycleCxlWipeDone [1]) ⟨q, d⟩ = .next ⟨q, t⟩
    ∧ t.grd.lcTarget = d.grd.lcTarget ∧ t.flag Reg.GRD_BOOTSTAT 10 = d.flag Reg.GRD_BOOTSTAT 10
    ∧ t.flag Reg.GRD_BOOTSTAT 9 = d.flag Reg.GRD_BOOTSTAT 9 ∧ d.Recorded t clsGUARD 0x00D 1 0 blkGRD 0
    ∧ (∀ k, k / 2 ^ 60 = 3 → t.rd k = 0) ∧ ∀ k, k / 2 ^ 60 = 4 → t.rd k = d.rd k := by
  have hexec : exec (.lifecycleCxlWipeDone [1]) ⟨q, d⟩ = .next ⟨q, if !d.grd.wiping then d else
      Dev.each ((d.cxlWiped [1]).record clsGUARD 0x00D 1 0 blkGRD 0).wipeStops
        ((d.cxlWiped [1]).record clsGUARD 0x00D 1 0 blkGRD 0).wipeStops.portsDown Dev.dsHold⟩ := rfl
  rw [hexec, if_neg (by simp [hwiping])]
  obtain ⟨s, hs⟩ : ∃ s, s = (d.cxlWiped [1]).record clsGUARD 0x00D 1 0 blkGRD 0 := ⟨_, rfl⟩
  have hgrd' : s.grd = d.grd := by rw [hs, Dev.record_grd]; rfl
  have hreg (k : Nat) (hk : k < 0x1000000) : s.reg k = d.reg k := by rw [hs, Dev.reg_record_lt _ _ _ _ _ _ _ hk]; rfl
  have hrd (k : Nat) : s.wipeStops.rd k = (d.cxlWiped [1]).rd k := (Dev.rd_congr (by rw [hs, Dev.record_mem]) k : s.rd k = _)
  have hrec : d.Recorded s clsGUARD 0x00D 1 0 blkGRD 0 := by
    rw [hs]
    exact (Dev.recorded_record ..).from_congr rfl (fun _ _ _ => rfl) (by decide)
  rw [← hs]
  obtain ⟨hregs, hmem, hlog, hgrd⟩ := s.wipeStops.dsHolds_keeps s.wipeStops.portsDown
  have hregs' : (s.wipeStops.each s.wipeStops.portsDown Dev.dsHold).regs = s.regs := hregs
  refine ⟨_, rfl, ?_, ?_, ?_, hrec.congr hlog (Dev.reg_congr hregs' _), fun k hk => ?_, fun k hk => ?_⟩
  · rw [hgrd, Dev.wipeStops, Dev.setGrd, hgrd']
  · exact Dev.flag_congr ((Dev.reg_congr hregs' _).trans (hreg _ (by decide))) _
  · exact Dev.flag_congr ((Dev.reg_congr hregs' _).trans (hreg _ (by decide))) _
  · rw [Dev.rd_congr hmem, hrd, Dev.cxlWiped, Dev.rd_zeroedBut]
    exact if_neg (by rw [hk]; decide)
  · rw [Dev.rd_congr hmem, hrd, Dev.cxlWiped, Dev.rd_zeroedBut]
    exact if_pos (by rw [hk]; decide)
end

/-- The checks of the image as the statement lists them. -/
theorem Dev.imageCheck_eq (d : Dev) (k : Option Nat) (ro so : Bool) (hro : ro = (sha384 (d.flashBytes 68 384) != d.grd.fwRsa))
    (hso : so = (sha384 (d.flashBytes 452 48) != d.grd.fwSlh)) : d.imageCheck k = match k, d.headerBad with
      | some a, _ => some (7, a)
      | none, some n => some (1, n)
      | none, none =>
        if ro = true ∨ so = true then some (2, ro.toNat + 2 * so.toNat)
        else if rsaVerify (d.flashBytes 68 384) (d.flashBytes 0 512) (d.flashBytes 512 384) = false then some (3, 0)
        else if slhVerify (d.flashBytes 452 48) (d.flashBytes 0 512) (d.flashBytes 896 16224) = false then some (4, 0)
        else if leNat (d.flashBytes 12 1) < d.fuseSvn then some (6, leNat (d.flashBytes 12 1) % 64 + d.fuseSvn * 2 ^ 8)
        else if sha384 (d.flashBytes 20480 (leNat (d.flashBytes 16 4))) = d.flashBytes 20 48 then none else some (5, 0) := by
  unfold Dev.imageCheck Dev.flashNum
  cases k with
  | some a => rfl
  | none =>
    cases d.headerBad with
    | some n => rfl
    | none =>
      dsimp only
      rw [← hro, ← hso]
      simp only [Bool.or_eq_true, Bool.not_eq_true', bne_iff_ne, ne_eq, ite_not]

/-- Settles O48, event by event of the boot. -/
theorem startUp : Obligations.StartUp := by
  intro q d hok
  refine ⟨exec_sramZeroDone_zeroes hok, ?_, exec_firmwareVerified_trains hok, exec_hbmTrainingDone_wipes hok, exec_hbmZeroDone_zeroes hok,
    exec_bootReady_ready hok, exec_bootReady_recovery hok,
    fun hwiping => ⟨exec_lifecycleCxlWipeDone_ends hwiping, exec_lifecycleCxlWipeDone_fails hwiping⟩⟩
  rintro hload k fl ro so first rfl hro hso rfl
  have hcheck := congrArg (fun x => (Host.Outcome.next ⟨q, d.imageVerdict x⟩ : Host.Outcome State Fault Refusal))
    (d.imageCheck_eq k ro so hro hso)
  exact (exec_imageVerifyDone_checked hok hload k).trans hcheck

end Sys2Proof.Machine
end

section
/-! Guard commands (R537 to R539, R542 to R545, R547, R548, R566): one lemma per outcome of `Dev.gCmd`, in the order of its
checks. -/
namespace Sys2Proof.Machine

section
variable {s : Dev} {r : GReq} {cmd : Nat} {signed ok bad : Bool} {states : List Nat} {f : Dev → Dev}

/-- The I3C port serves Guard commands: the reset is released, the clock runs, and the firmware phase is reached. -/
structure Dev.Guarded (s : Dev) : Prop where
  run : s.grd.stage = .run
  clocked : s.grd.straps.coreclk = true
  untested : s.grd.straps.testen = false
  booted : bsTRAINING ≤ s.bootState

/-- A command to another address than the device's own is not for it. -/
theorem Dev.gCmd_of_addr_ne (h : r.addr ≠ s.i3cAddr) : s.gCmd cmd r signed states ok bad f = s := by simp [Dev.gCmd, h]

/-- The nonce that a command leaves: a signed one always draws. -/
theorem Dev.gCmd_served (h : s.Guarded) (haddr : r.addr = s.i3cAddr) :
    s.gCmd cmd r signed states ok bad f =
      let drawn := if signed then s.drawNonce else s
      if signed && !r.sigOk then drawn.gRefuse cmd 1 0x008
      else if signed && r.nonce.toNat ≠ s.reg Reg.GRD_NONCE then drawn.gRefuse cmd 2 0x009
      else if !states.contains s.bootState || !ok then drawn.gRefuse cmd 3 0x00A
      else if r.len ≠ r.payload.length || !r.zeros || r.uid.toNat ≠ s.uid || bad then drawn.gRefuse cmd 4 0x00A
      else f drawn := by
  have hboot : ¬ s.bootState < bsTRAINING := Nat.not_lt.mpr h.booted
  simp [Dev.gCmd, h.run, h.clocked, h.untested, haddr, hboot]

theorem Dev.gCmd_badSignature (h : s.Guarded) (haddr : r.addr = s.i3cAddr) (hsig : r.sigOk = false) :
    s.gCmd cmd r true states ok bad f = s.drawNonce.gRefuse cmd 1 0x008 := by simp [Dev.gCmd_served h haddr, hsig]

theorem Dev.gCmd_wrongNonce (h : s.Guarded) (haddr : r.addr = s.i3cAddr) (hsig : r.sigOk = true)
    (hnonce : r.nonce.toNat ≠ s.reg Reg.GRD_NONCE) : s.gCmd cmd r true states ok bad f = s.drawNonce.gRefuse cmd 2 0x009 := by
  simp [Dev.gCmd_served h haddr, hsig, hnonce]

theorem Dev.gCmd_wrongState (h : s.Guarded) (haddr : r.addr = s.i3cAddr) (hsig : r.sigOk = true)
    (hnonce : r.nonce.toNat = s.reg Reg.GRD_NONCE) (hstate : states.contains s.bootState = false) :
    s.gCmd cmd r true states ok bad f = s.drawNonce.gRefuse cmd 3 0x00A := by
  have hmem : s.bootState ∉ states := by simpa using hstate
  simp [Dev.gCmd_served h haddr, hsig, hnonce, hmem]

/-- The request's fields are those that every command shares: its length, its reserved bytes and the UID. -/
structure Dev.FieldsFit (s : Dev) (r : GReq) : Prop where
  len : r.len = r.payload.length
  zeros : r.zeros = true
  uid : r.uid.toNat = s.uid

/-- A signed command whose checks all pass is done after the draw. -/
theorem Dev.gCmd_signed (h : s.Guarded) (haddr : r.addr = s.i3cAddr) (hfits : s.FieldsFit r) (hsig : r.sigOk = true)
    (hnonce : r.nonce.toNat = s.reg Reg.GRD_NONCE) (hstate : s.bootState ∈ states) (hok : ok = true) (hbad : bad = false) :
    s.gCmd cmd r true states ok bad f = f s.drawNonce := by
  simp [Dev.gCmd_served h haddr, hsig, hnonce, hstate, hok, hbad, hfits.len, hfits.zeros, hfits.uid]

theorem Dev.gCmd_unsigned (h : s.Guarded) (haddr : r.addr = s.i3cAddr) (hfits : s.FieldsFit r) (hstate : s.bootState ∈ states)
    (hok : ok = true) (hbad : bad = false) : s.gCmd cmd r false states ok bad f = f s := by
  simp [Dev.gCmd_served h haddr, hstate, hok, hbad, hfits.len, hfits.zeros, hfits.uid]

theorem Dev.gCmd_unsigned_wrongState (h : s.Guarded) (haddr : r.addr = s.i3cAddr) (hok : ok = false) :
    s.gCmd cmd r false states ok bad f = s.gRefuse cmd 3 0x00A := by simp [Dev.gCmd_served h haddr, hok]

end

section
variable {α : Type} [DecidableEq α]

/-- Writing a list at consecutive places leaves its elements there and every other place as it was. -/
theorem Sparse.get_foldl_put_zip (dflt : Nat → α) (n a : Nat) (xs : List α) (m : List (Nat × α)) (k : Nat) :
    Sparse.get dflt (((List.range' a xs.length).zip xs).foldl (fun m x => Sparse.put dflt m (n + x.1) x.2) m) k =
      if n + a ≤ k then (xs[k - (n + a)]?).getD (Sparse.get dflt m k) else Sparse.get dflt m k := by
  induction xs generalizing a m with
  | nil => simp
  | cons x xs ih =>
    simp only [List.length_cons, List.range'_succ, List.zip_cons_cons, List.foldl_cons, ih]
    rcases Nat.lt_trichotomy k (n + a) with hlt | heq | hgt
    · rw [if_neg (by omega), if_neg (by omega), Sparse.get_put_ne _ _ _ (by omega)]
    · subst heq
      simp
    · rw [if_pos (by omega), if_pos (by omega), Sparse.get_put_ne _ _ _ (by omega), show k - (n + a) = k - (n + (a + 1)) + 1 by omega,
        List.getElem?_cons_succ]

end

section
variable {q : List Instr} {d : Dev} {r : GReq}

/-- The flash after a block: its bytes stand at the next offset, and no other byte changes. -/
theorem flash_block {xs : List Byte} (n : Nat) (m : List Host.Cell) (hlen : xs.length = 4096) :
    let fl := ((List.range 4096).zip xs).foldl (fun m x => Sparse.put flashDefault m (n + x.1) x.2) m
    (∀ i, i < 4096 → some (Sparse.get flashDefault fl (n + i)) = xs[i]?) ∧
      ∀ a, a < n ∨ n + 4096 ≤ a → Sparse.get flashDefault fl a = Sparse.get flashDefault m a := by
  have hget := Sparse.get_foldl_put_zip flashDefault n 0 xs m
  rw [hlen, ← List.range_eq_range'] at hget
  refine ⟨fun i hi => ?_, fun a ha => ?_⟩
  · have hsome : xs[i]? = some xs[i] := List.getElem?_eq_getElem (by omega)
    simp [hget, hsome]
  · rw [hget]
    split
    · rw [List.getElem?_eq_none (by omega), Option.getD_none]
    · rfl

/-- Every row of a Guard command is one `Dev.gCmd`, so a request to another address changes nothing. -/
theorem exec_guard_of_addr_ne (h : r.addr ≠ d.i3cAddr) (k : Option Nat) : ∀ i ∈ [Instr.setLimits r, .lifecycle r, .svnCommit r,
    .imageBegin r, .imageBlock r, .imageEnd r k, .fenceClear r, .debugUnlock r, .coldReset r, .readMeters r, .readMeterlog r,
    .readFence r], exec i ⟨q, d⟩ = .next ⟨q, d⟩ := by
  have hkeep : ∀ {cmd signed states ok bad f}, (Host.Outcome.next ⟨q, d.gCmd cmd r signed states ok bad f⟩ :
      Host.Outcome State Fault Refusal) = .next ⟨q, d⟩ := fun {_ _ _ _ _ _} => by rw [Dev.gCmd_of_addr_ne h]
  simp only [List.forall_mem_cons]
  exact ⟨hkeep, hkeep, hkeep, hkeep, hkeep, hkeep, hkeep, hkeep, hkeep, hkeep, hkeep, hkeep, by simp⟩

/-- The refusals that every signed command shares: signature, nonce, and LOCKED, a state in which none is done. -/
def GRefused (q : List Instr) (d : Dev) (r : GReq) (i : Instr) (k : Nat) : Prop :=
  (r.sigOk = false → exec i ⟨q, d⟩ = .next ⟨q, d.drawNonce.gRefuse k 1 0x008⟩) ∧
  (r.sigOk = true → r.nonce.toNat ≠ d.reg Reg.GRD_NONCE → exec i ⟨q, d⟩ = .next ⟨q, d.drawNonce.gRefuse k 2 0x009⟩) ∧
  (r.sigOk = true → r.nonce.toNat = d.reg Reg.GRD_NONCE → d.bootState = bsLOCKED →
    exec i ⟨q, d⟩ = .next ⟨q, d.drawNonce.gRefuse k 3 0x00A⟩)

theorem gRefused_of_exec {i : Instr} {cmd : Nat} {states : List Nat} {ok bad : Bool} {f : Dev → Dev} (h : d.Guarded)
    (haddr : r.addr = d.i3cAddr) (hexec : exec i ⟨q, d⟩ = .next ⟨q, d.gCmd cmd r true states ok bad f⟩)
    (hlocked : states.contains bsLOCKED = false) : GRefused q d r i cmd := by
  refine ⟨fun hsig => ?_, fun hsig hnonce => ?_, fun hsig hnonce hstate => ?_⟩
  · rw [hexec, Dev.gCmd_badSignature h haddr hsig]
  · rw [hexec, Dev.gCmd_wrongNonce h haddr hsig hnonce]
  · rw [hexec, Dev.gCmd_wrongState h haddr hsig hnonce (by rw [hstate]; exact hlocked)]

theorem gRefused_of_mem (h : d.Guarded) (haddr : r.addr = d.i3cAddr) : ∀ x ∈ [(Instr.setLimits r, 1), (.lifecycle r, 2),
    (.svnCommit r, 3), (.imageBegin r, 4), (.fenceClear r, 7), (.debugUnlock r, 8), (.coldReset r, 9)], GRefused q d r x.1 x.2 := by
  simp only [List.forall_mem_cons]
  refine ⟨gRefused_of_exec h haddr rfl rfl, gRefused_of_exec h haddr rfl rfl, gRefused_of_exec h haddr rfl rfl,
    gRefused_of_exec h haddr rfl rfl, gRefused_of_exec h haddr rfl rfl, gRefused_of_exec h haddr rfl rfl,
    gRefused_of_exec h haddr rfl rfl, by simp⟩

section
variable (h : d.Guarded) (haddr : r.addr = d.i3cAddr) (hready : d.bootState = bsREADY) (hfits : d.FieldsFit r)
include h haddr hready hfits

section
variable (hsig : r.sigOk = true) (hnonce : r.nonce.toNat = d.reg Reg.GRD_NONCE)
include hsig hnonce

/-- A signed command in READY, from its row's form as one `Dev.gCmd`. -/
theorem exec_signed {i : Instr} {cmd : Nat} {states : List Nat} {ok bad : Bool} {f : Dev → Dev}
    {t : Dev} (hexec : exec i ⟨q, d⟩ = .next ⟨q, d.gCmd cmd r true states ok bad f⟩) (hstate : bsREADY ∈ states) (hok : ok = true)
    (hbad : bad = false) (ht : f d.drawNonce = t) : exec i ⟨q, d⟩ = .next ⟨q, t⟩ := by
  rw [hexec, Dev.gCmd_signed h haddr hfits hsig hnonce (hready ▸ hstate) hok hbad, ht]

theorem exec_setLimits_of_fits (hlen : r.payload.length = 7) (hsust : 600 ≤ gNum r 0 2) (hfast : gNum r 2 2 ≤ 1900)
    (hle : gNum r 0 2 ≤ gNum r 2 2) (hwin : 1 ≤ gNum r 4 2) (hwin' : gNum r 4 2 ≤ 1000) (htj : 80 ≤ gNum r 6 1)
    (htj' : gNum r 6 1 ≤ 105) : exec (.setLimits r) ⟨q, d⟩ = .next ⟨q, ((d.drawNonce.setReg Reg.PWC_LIMIT
      (gNum r 0 2 + gNum r 2 2 * 2 ^ 11 + gNum r 4 2 * 2 ^ 22)).setFld Reg.PWC_THR 8 7 (gNum r 6 1)).gDone 1⟩ := by
  refine exec_signed h haddr hready hfits hsig hnonce rfl (by simp) rfl ?_ rfl
  simp only [gLenNot, hlen, bne_self_eq_false, Bool.false_or, Bool.or_eq_false_iff, decide_eq_false_iff_not, beq_eq_false_iff_ne]
  omega

/-- LIFECYCLE from PRODUCTION into RMA without a job (R544): the answer, the steps, and the cold reset. -/
theorem exec_lifecycle_rma (hpay : r.payload = [3]) (hlife : d.lifeState = lcPRODUCTION) (hjob : d.jobState = jIDLE) :
    exec (.lifecycle r) ⟨q, d⟩ = .next ⟨q, ((((d.drawNonce.gDone 2).setGrd fun g => { g with lcTarget := some lcRMA }).setFlag
      Reg.GRD_BOOTSTAT 9 true).lifecycleSteps lcRMA).coldReset 4⟩ := by
  have htarget : gNum r 0 1 = lcRMA := by rw [gNum, hpay]; rfl
  have hidle : (d.drawNonce.gDone 2).jobState = jIDLE := by
    rw [← hjob]
    exact Dev.fld_congr (Dev.reg_setReg_ne _ _ (by decide)) _ _
  have hexec := exec_signed (q := q) h haddr hready hfits hsig hnonce (i := .lifecycle r) rfl (by simp)
    (by rw [htarget, hlife, hready]; rfl) (by rw [htarget, gLenNot, hpay]; rfl) rfl
  rw [hexec, htarget]
  dsimp only
  rw [if_neg (by rw [hidle]; decide)]
  rfl

theorem exec_svnCommit_of_fits (hlen : r.payload.length = 1) (hlo : d.fuseSvn ≤ gNum r 0 1)
    (hhi : gNum r 0 1 ≤ d.fld Reg.GRD_LIFECYCLE 16 6) :
    exec (.svnCommit r) ⟨q, d⟩ = .next ⟨q, (d.drawNonce.setFld Reg.GRD_LIFECYCLE 8 6 (gNum r 0 1)).gDone 3⟩ :=
  exec_signed h haddr hready hfits hsig hnonce rfl (by simp) rfl (by simp [gLenNot, hlen, hlo, hhi]) rfl

theorem exec_imageBegin_of_fits (hlen : r.payload.length = 4) (hbody : bodyLenOk (gNum r 0 4) = true) :
    exec (.imageBegin r) ⟨q, d⟩ = .next ⟨q, (d.drawNonce.setGrd fun g =>
      { g with flash := [], flashBad := true, opened := some (r.ctl, 0, 20480 + gNum r 0 4) }).gDone 4⟩ :=
  exec_signed h haddr hready hfits hsig hnonce rfl (by simp) rfl (by simp [gLenNot, hlen, hbody]) rfl

theorem exec_fenceClear_of_fits (hlen : r.payload.length = 1) (hkinds : gNum r 0 1 < 16) : exec (.fenceClear r) ⟨q, d⟩ =
    .next ⟨q, (d.drawNonce.setGrd fun g => { g with clearing := g.clearing ||| gNum r 0 1 }).gDone 7⟩ :=
  exec_signed h haddr hready hfits hsig hnonce rfl (by simp) rfl (by simp [gLenNot, hlen, hkinds]) rfl

/-- DEBUG_UNLOCK for job 0, which is for a device without a job (R566). -/
theorem exec_debugUnlock_of_fits (hlen : r.payload.length = 8) (hrights : gNum r 0 1 < 8) (hzero : gNum r 1 3 = 0)
    (hnojob : gNum r 4 4 = 0) (hjob : d.jobState = jIDLE) : exec (.debugUnlock r) ⟨q, d⟩ = .next ⟨q,
      ((d.drawNonce.setReg Reg.DBG_UNLOCK (gNum r 0 1)).record clsGUARD 0x041 (gNum r 0 1) 0 blkGRD 0).gDone 8⟩ := by
  have hexec := exec_signed (q := q) h haddr hready hfits hsig hnonce (i := .debugUnlock r) rfl (by simp)
    (by simp [hnojob, hjob]) (by simp [gLenNot, hlen, hrights, hzero]) rfl
  rw [hexec, hnojob, Nat.zero_mul, Nat.add_zero]

theorem exec_coldReset_of_fits (hpay : r.payload = []) :
    exec (.coldReset r) ⟨q, d⟩ = .next ⟨q, (d.drawNonce.setGrd fun g => { g with coldWait := true }).gDone 9⟩ :=
  exec_signed h haddr hready hfits hsig hnonce rfl (by simp) rfl (by simp [gLenNot, hpay]) rfl

end

/-- An unsigned command in READY, from its row's form as one `Dev.gCmd`. -/
theorem exec_unsigned {i : Instr} {cmd : Nat} {states : List Nat} {ok bad : Bool} {f : Dev → Dev}
    {t : Dev} (hexec : exec i ⟨q, d⟩ = .next ⟨q, d.gCmd cmd r false states ok bad f⟩) (hstate : bsREADY ∈ states) (hok : ok = true)
    (hbad : bad = false) (ht : f d = t) : exec i ⟨q, d⟩ = .next ⟨q, t⟩ := by
  rw [hexec, Dev.gCmd_unsigned h haddr hfits (hready ▸ hstate) hok hbad, ht]

section
variable {n len : Nat} (hopen : d.grd.opened = some (r.ctl, n, len))
include hopen

theorem exec_imageBlock_of_open (hroom : n < len) (hlen : r.payload.length = 4096) : ∃ t, exec (.imageBlock r) ⟨q, d⟩ = .next ⟨q, t⟩ ∧
    t.grd.opened = some (r.ctl, n + 4096, len) ∧
    (∀ i, i < 4096 → some (Sparse.get flashDefault t.grd.flash (n + i)) = r.payload[i]?) ∧
    (∀ a, a < n ∨ n + 4096 ≤ a → Sparse.get flashDefault t.grd.flash a = Sparse.get flashDefault d.grd.flash a) ∧
    t.regs = d.regs := by
  have hexec := exec_unsigned (q := q) h haddr hready hfits (i := .imageBlock r) rfl (by simp)
    (by simp [Dev.imgOpen, hopen, hroom]) (by simp [gLenNot, hlen]) rfl
  simp only [hopen] at hexec
  obtain ⟨hin, hout⟩ := flash_block n d.grd.flash hlen
  generalize (List.range 4096).zip r.payload = cells at hexec hin hout
  exact ⟨_, hexec, rfl, hin, hout, rfl⟩

theorem exec_imageEnd_of_open (k : Option Nat) (hpay : r.payload = []) : exec (.imageEnd r k) ⟨q, d⟩ = .next ⟨q,
    match (d.setGrd fun g => { g with flashBad := false }).imageCheck k with
    | none => (d.setGrd fun g => { g with flashBad := false, opened := none }).gDone 6
    | some (c, x) => (d.record clsGUARD c x 0 blkGRD 0).gAnswer 6 (1 + Config.imageEndStatus c % 5) c [] none⟩ := by
  have hexec := exec_unsigned (q := q) h haddr hready hfits (i := .imageEnd r k) rfl (by simp)
    (by simp [Dev.imgOpen, hopen]) (by simp [gLenNot, hpay]) rfl
  rw [hexec]
  cases (d.setGrd fun g => { g with flashBad := false }).imageCheck k <;> rfl

end

/-- The reads answer the meters, the meter log and the fence record, each under both signatures (R543). -/
theorem exec_reads (hpay : r.payload = []) (sg : List Byte → Option (List Byte))
    (hsg : sg = fun data => some (leBytes 8 r.nonce.toNat ++ leBytes 16 d.uid ++ data)) :
    (exec (.readMeters r) ⟨q, d⟩ = .next ⟨q, d.gAnswer 0x80 0 0
      (((List.range 8).flatMap fun i => leBytes 8 (d.reg (Reg.GRD_MTR_RUNNS + 8 * i))) ++ leBytes 8 (d.reg Reg.GRD_JOBID))
      (sg (((List.range 8).flatMap fun i => leBytes 8 (d.reg (Reg.GRD_MTR_RUNNS + 8 * i))) ++ leBytes 8 (d.reg Reg.GRD_JOBID)))⟩) ∧
    (exec (.readMeterlog r) ⟨q, d⟩ =
      .next ⟨q, d.gAnswer 0x81 0 0 (d.grd.meterLog.flatMap MeterEntry.bytes) (sg (d.grd.meterLog.flatMap MeterEntry.bytes))⟩) ∧
    exec (.readFence r) ⟨q, d⟩ =
      .next ⟨q, d.gAnswer 0x82 0 0 (d.grd.fence.flatMap (leBytes 4)) (sg (d.grd.fence.flatMap (leBytes 4)))⟩ := by
  subst hsg
  have hlen : gLenNot r 0 = false := by simp [gLenNot, hpay]
  exact ⟨exec_unsigned h haddr hready hfits rfl (by simp) rfl hlen rfl, exec_unsigned h haddr hready hfits rfl (by simp) rfl hlen rfl,
    exec_unsigned h haddr hready hfits rfl (by simp) rfl hlen rfl⟩

end

/-- A block with no open image is answered STATUS 3 (R539). -/
theorem exec_imageBlock_of_closed (h : d.Guarded) (haddr : r.addr = d.i3cAddr) (hclosed : d.grd.opened = none) :
    exec (.imageBlock r) ⟨q, d⟩ = .next ⟨q, d.gRefuse 5 3 0x00A⟩ := by
  have hexec : ∃ bad f, exec (.imageBlock r) ⟨q, d⟩ = .next ⟨q, d.gCmd 5 r false [bsREADY, bsRECOVERY] (d.imgOpen r.ctl &&
    match d.grd.opened with | some (_, n, len) => decide (n < len) | none => false) bad f⟩ := ⟨_, _, rfl⟩
  obtain ⟨bad, f, hexec⟩ := hexec
  rw [hexec, Dev.gCmd_unsigned_wrongState h haddr (by simp [Dev.imgOpen, hclosed])]

end

/-- Settles O49: the refusals are the branches of `Dev.gCmd`, and what each command does is its body after the draw. -/
theorem guardCommands : Obligations.GuardCommands := by
  intro q d r hrun hclk htest hboot
  have h : d.Guarded := ⟨hrun, hclk, htest, hboot⟩
  refine ⟨fun haddr => exec_guard_of_addr_ne haddr, fun haddr => ⟨?_, fun hready hlen hzeros huid => ?_⟩⟩
  · rintro _ x hx rfl
    exact gRefused_of_mem h haddr x hx
  have hfits : d.FieldsFit r := ⟨hlen, hzeros, huid⟩
  refine ⟨?_, ?_, fun hclosed => exec_imageBlock_of_closed h haddr hclosed, ?_⟩
  · rintro hsig hnonce _ rfl
    refine ⟨?_, exec_lifecycle_rma h haddr hready hfits hsig hnonce, ?_, exec_imageBegin_of_fits h haddr hready hfits hsig hnonce,
      exec_fenceClear_of_fits h haddr hready hfits hsig hnonce, exec_debugUnlock_of_fits h haddr hready hfits hsig hnonce,
      exec_coldReset_of_fits h haddr hready hfits hsig hnonce⟩
    · rintro _ _ _ _ rfl rfl rfl rfl
      exact exec_setLimits_of_fits h haddr hready hfits hsig hnonce
    · rintro _ rfl
      exact exec_svnCommit_of_fits h haddr hready hfits hsig hnonce
  · refine fun n len hopen => ⟨exec_imageBlock_of_open h haddr hready hfits hopen, ?_⟩
    rintro k _ hpay rfl
    exact exec_imageEnd_of_open h haddr hready hfits hopen k hpay
  · rintro hpay sg hsg _ rfl
    obtain ⟨hmeters, hlog, hfence⟩ := exec_reads (q := q) h haddr hready hfits hpay sg hsg
    exact ⟨hmeters, by rintro _ rfl; exact hlog, by rintro _ rfl; exact hfence⟩

end Sys2Proof.Machine
end

section
/-! The SPDM responder (R549): a request is answered with an error before READY, and by its own row in READY. -/
namespace Sys2Proof.Machine

section
variable {q : List Instr} {s : Dev}

/-- Before the firmware runs, in RECOVERY and in LOCKED the responder answers ERROR Unspecified. -/
theorem Dev.spdmReq_unspecified (hrun : s.grd.stage = .run) (htest : s.grd.straps.testen = false)
    (hstate : s.bootState ∈ [bsROM, bsLOADING, bsVERIFYING, bsRECOVERY, bsLOCKED]) (f : Dev → Dev) :
    s.spdmReq f = s.emit (.spdm 0x7F [0x05, 0] none) := by
  have hmem := List.contains_iff_mem.mpr hstate
  rw [Dev.spdmReq, hrun, htest, if_neg (by simp), if_pos hmem]

/-- In READY a request is answered by its row. -/
theorem Dev.spdmReq_ready (hrun : s.grd.stage = .run) (htest : s.grd.straps.testen = false) (hready : s.bootState = bsREADY)
    (f : Dev → Dev) : s.spdmReq f = f s := by
  rw [Dev.spdmReq, hrun, htest, hready, if_neg (by simp), if_neg (by decide)]

/-- Measurement block 5 is the SHA-384 of the fence record (Table 18-10). -/
theorem Dev.measure_five : s.measure 5 = sha384 (s.grd.fence.flatMap (leBytes 4)) := by simp only [Dev.measure, Dev.fenceBytes]

theorem exec_spdm_ready (hrun : s.grd.stage = .run) (htest : s.grd.straps.testen = false) (hready : s.bootState = bsREADY)
    {i : Instr} {f : Dev → Dev} {t : Dev} (hexec : exec i ⟨q, s⟩ = .next ⟨q, s.spdmReq f⟩) (ht : f s = t) :
    exec i ⟨q, s⟩ = .next ⟨q, t⟩ := by rw [hexec, Dev.spdmReq_ready hrun htest hready, ht]

end

/-- Settles O50: each row is one `Dev.spdmReq`, whose answer in READY is the row's body. -/
theorem attestation : Obligations.Attestation := by
  intro q d hrun htest
  refine ⟨fun hstate a h sl o n nn x g => ?_, fun hready => ?_⟩
  · have hsame : ∀ {f}, (Host.Outcome.next ⟨q, d.spdmReq f⟩ : Host.Outcome State Fault Refusal) =
        .next ⟨q, d.emit (.spdm 0x7F [0x05, 0] none)⟩ := fun {_} => by rw [Dev.spdmReq_unspecified hrun htest hstate]
    simp only [List.forall_mem_cons]
    exact ⟨hsame, hsame, hsame, hsame, hsame, hsame, hsame, hsame, by simp⟩
  · rintro _ rfl
    refine ⟨exec_spdm_ready hrun htest hready rfl rfl, exec_spdm_ready hrun htest hready rfl ?_, ?_, ?_, ?_, ?_, ?_, ?_, ?_⟩
    · rw [show leBytes 4 0x16 = [0x16, 0, 0, 0] from rfl]
      rfl
    · rintro a h _ rfl
      exact exec_spdm_ready hrun htest hready rfl rfl
    · rintro _ rfl
      exact exec_spdm_ready hrun htest hready rfl rfl
    · rintro sl o n _ hsl rfl
      exact exec_spdm_ready hrun htest hready rfl (if_neg (by omega))
    · rintro sl nn _ _ hsl rfl rfl
      exact exec_spdm_ready hrun htest hready rfl (if_neg (by omega))
    · rintro nn _ rfl
      exact exec_spdm_ready hrun htest hready rfl rfl
    · rintro nn _ _ rfl rfl
      refine exec_spdm_ready hrun htest hready rfl ?_
      simp only [Nat.reduceLeDiff, decide_true, Bool.true_or, Bool.not_true, Bool.false_eq_true, if_false, if_true,
        OfNat.ofNat_ne_zero, Nat.reduceEqDiff, Dev.measure_five]
      generalize sha384 (d.grd.fence.flatMap (leBytes 4)) = digest
      simp only [Dev.spdmSigned, Dev.setGrd, Dev.emit, Dev.spdmNonce, Bool.toNat_true]
    · rintro x hx
      exact exec_spdm_ready hrun htest hready rfl (by rw [hx])

end Sys2Proof.Machine
end

section
/-! The Harness port (R564 to R570): what `Dev.hTake`, `Dev.hRequest` and `Dev.hOn` do with a request, then each row. -/
namespace Sys2Proof.Machine

-- The short theorems below are elaborated one after another: side by side, their threads' stacks exceed the memory of the check.
set_option Elab.async false

/-- The device once a request drives HSEL_N low. -/
def Dev.selected (s : Dev) : Dev := s.setDbg fun h => { h with sel := true }

theorem Dev.selected_of_sel {s : Dev} (h : s.dbg.sel = true) : s.selected = s := by
  unfold Dev.selected Dev.setDbg
  rw [← h]

section
variable {c : Dev} {r : HReq} {op right : Nat} {f : Dev → Dev}

theorem Dev.hTake_closed (h : c.selected.hOpen = false) : c.hTake op r f = c.selected := if_pos (by rw [← Dev.selected, h]; rfl)

section
variable (hopen : c.selected.hOpen = true)
include hopen

theorem Dev.hTake_open : c.hTake op r f =
    if r.op % 256 = 0 || 0x0A < r.op % 256 then c.selected.hAnswer hsBADREQ 0
    else if r.op % 256 = op then f c.selected else c.selected := if_neg (by rw [← Dev.selected, hopen]; simp)

theorem Dev.hTake_reserved (hop : r.op % 256 = 0 ∨ 10 < r.op % 256) : c.hTake op r f = c.selected.hAnswer hsBADREQ 0 := by
  rw [Dev.hTake_open hopen, if_pos (by simpa using hop)]

theorem Dev.hTake_other (hpos : 0 < r.op % 256) (hle : r.op % 256 ≤ 10) (hne : r.op % 256 ≠ op) : c.hTake op r f = c.selected := by
  rw [Dev.hTake_open hopen, if_neg (by simp; omega), if_neg hne]

theorem Dev.hTake_own (hop : r.op % 256 = op) (hpos : 0 < op) (hle : op ≤ 10) : c.hTake op r f = f c.selected := by
  rw [Dev.hTake_open hopen, if_neg (by simp; omega), if_pos hop]

section
variable (hop : r.op % 256 = op) (hpos : 0 < op) (hle : op ≤ 10)
include hop hpos hle

theorem Dev.hRequest_locked (hright : c.selected.flag Reg.DBG_UNLOCK right = false) :
    c.hRequest op right r f = c.selected.hLocked op r := by
  rw [Dev.hRequest, Dev.hTake_own hopen hop hpos hle, hright, if_pos (by rfl)]

theorem Dev.hRequest_reservedBit (hright : c.selected.flag Reg.DBG_UNLOCK right = true) (hrsv : r.rsv % 2 ^ 7 ≠ 0) :
    c.hRequest op right r f = c.selected.hAnswer hsBADREQ 0 := by
  rw [Dev.hRequest, Dev.hTake_own hopen hop hpos hle, hright, if_neg (by simp), if_pos hrsv]

theorem Dev.hRequest_own (hright : c.selected.flag Reg.DBG_UNLOCK right = true) (hrsv : r.rsv % 2 ^ 7 = 0) :
    c.hRequest op right r f = f c.selected := by
  rw [Dev.hRequest, Dev.hTake_own hopen hop hpos hle, hright, if_neg (by simp), if_neg (not_not.mpr hrsv)]

end
end
end

section
variable {s : Dev} {r : HReq} {core seq : Nat → Dev → Dev} {n : Nat}

theorem hTarget_seq (hn : n < 64) : hTarget (0x40 + n) = .seq n := by
  rw [hTarget, if_neg (by omega), if_pos (by simp; omega), Nat.add_sub_cancel_left]

theorem hTarget_core (hn : n < 8) : hTarget n = .core n := if_pos hn

theorem Dev.hOn_none (ht : r.target = 0xFF) : s.hOn r core seq = s.hAnswer hsBADREQ 0 := by
  unfold Dev.hOn
  rw [ht]
  rfl

/-- A core that the device's reset and power leave there. -/
structure Dev.CoreThere (s : Dev) (n : Nat) : Prop where
  lt : n < 8
  alive : s.alive = true
  powered : s.pwr.gated.contains (.core n) = false

theorem Dev.CoreThere.not_absent (h : s.CoreThere n) : s.hAbsent (.core n) = false := by
  have hgated := h.powered
  simp only [Dev.hAbsent, h.alive, hgated, Bool.not_true, Bool.or_false]

theorem Dev.hOn_core (h : s.CoreThere r.target) : s.hOn r core seq = core r.target s := by
  unfold Dev.hOn
  rw [hTarget_core h.lt]
  dsimp only
  rw [h.not_absent, if_neg (by simp)]

/-- A sequencer in service whose control domain is awake. -/
structure Dev.SeqAwake (s : Dev) (n : Nat) : Prop where
  lt : n < 64
  alive : s.alive = true
  on : s.coachOn n = true
  awake : s.fld (Reg.CCH_CSTAT n) 0 3 ≠ csPGATED

theorem Dev.SeqAwake.hWake (h : s.SeqAwake n) : s.hWake n = s := if_neg (by simp [h.awake])

theorem Dev.hOn_seq (h : s.SeqAwake n) (ht : r.target = 0x40 + n) : s.hOn r core seq = seq n s := by
  unfold Dev.hOn
  rw [ht, hTarget_seq h.lt]
  have habs : s.hAbsent (.seq n) = false := by simp only [Dev.hAbsent, h.alive, h.on, Bool.not_true, Bool.or_false]
  dsimp only
  rw [habs, if_neg (by simp), h.hWake]

end

/-! ### A row as one request -/

section
variable {q : List Instr} {c : Dev} {r : HReq} {i : Instr} {op right : Nat}

/-- Row `i` takes operation `op`; the two that reach memory (9 and 10) are events of a unit, which here must not have to wait. -/
def HTaken (q : List Instr) (c : Dev) (r : HReq) (i : Instr) (op : Nat) : Prop :=
  ∃ f, ∀ t, c.hTake op r f = t → (9 ≤ op → c.calm = true ∧ c.StaysCalm False t) → exec i ⟨q, c⟩ = .next ⟨q, t⟩

/-- Row `i` is a request of operation `op` that needs right `right`. -/
def HRow (q : List Instr) (c : Dev) (r : HReq) (i : Instr) (op right : Nat) (f : Dev → Dev) : Prop :=
  ∀ t, c.hRequest op right r f = t → (9 ≤ op → c.calm = true ∧ c.StaysCalm False t) → exec i ⟨q, c⟩ = .next ⟨q, t⟩

theorem HRow.taken {f : Dev → Dev} (h : HRow q c r i op right f) : HTaken q c r i op := ⟨_, h⟩

theorem hRow_of_exec {f : Dev → Dev} (h : exec i ⟨q, c⟩ = .next ⟨q, c.hRequest op right r f⟩) : HRow q c r i op right f := by
  rintro _ rfl -
  exact h

theorem hTaken_of_exec {f : Dev → Dev} (h : exec i ⟨q, c⟩ = .next ⟨q, c.hTake op r f⟩) : HTaken q c r i op := by
  refine ⟨f, ?_⟩
  rintro _ rfl -
  exact h

/-- What a unit's step does on a device of which no access has to wait. -/
theorem Dev.attempt_of_staysCalm {d t : Dev} {f : Dev → Dev} (hc : d.calm = true) (hf : f d = t) (ht : d.StaysCalm False t) :
    d.attempt (fun d => (f d).unitEnd) = t := by
  obtain ⟨hcalm, hst, -⟩ := ht.step hc
  obtain ⟨-, hl, -⟩ := t.calm_iff.1 hcalm
  have hend : (f d).unitEnd = t := by rw [hf, t.unitEnd_nil hl]
  rw [Dev.attempt_done _ _ (by rw [hend]; exact hst), hend]

theorem hRow_of_unit {f : Dev → Dev} (h : exec i ⟨q, c⟩ = .next ⟨q, c.attempt fun d => (d.hRequest op right r f).unitEnd⟩)
    (hop : 9 ≤ op) : HRow q c r i op right f := by
  intro t ht hcalm
  obtain ⟨hc, hs⟩ := hcalm hop
  rw [h, Dev.attempt_of_staysCalm hc ht hs]

theorem Dev.StaysCalm.hAnswer {same : Prop} {s t : Dev} {st : Nat} {w : Word64} (h : s.StaysCalm same t) :
    s.StaysCalm same (t.hAnswer st w) := h.frame

theorem Dev.StaysCalm.selected (s : Dev) : s.StaysCalm False s.selected := (Dev.StaysCalm.refl s).frame

end

/-! ### What a request is granted on -/

section
variable {q : List Instr} {c : Dev} {r : HReq}

/-- A request of operation `op` that an open port takes, with its right and no reserved bit set. -/
structure Dev.Grants (c : Dev) (r : HReq) (op right : Nat) : Prop where
  hopen : c.selected.hOpen = true
  own : r.op % 256 = op
  pos : 0 < op
  le : op ≤ 10
  right : c.selected.flag Reg.DBG_UNLOCK right = true
  rsv : r.rsv % 2 ^ 7 = 0

section
variable {i : Instr} {op right n : Nat} {core seq : Nat → Dev → Dev} {t : Dev} (hg : c.Grants r op right)
  (hexec : exec i ⟨q, c⟩ = .next ⟨q, c.hRequest op right r fun s => s.hOn r core seq⟩)
include hg hexec

theorem exec_hOn : exec i ⟨q, c⟩ = .next ⟨q, c.selected.hOn r core seq⟩ := by
  rw [hexec, Dev.hRequest_own hg.hopen hg.own hg.pos hg.le hg.right hg.rsv]

theorem exec_hOn_core (hthere : c.selected.CoreThere r.target) (ht : core r.target c.selected = t) :
    exec i ⟨q, c⟩ = .next ⟨q, t⟩ := by rw [exec_hOn hg hexec, Dev.hOn_core hthere, ht]

theorem exec_hOn_seq (hawake : c.selected.SeqAwake n) (htarget : r.target = 0x40 + n) (ht : seq n c.selected = t) :
    exec i ⟨q, c⟩ = .next ⟨q, t⟩ := by rw [exec_hOn hg hexec, Dev.hOn_seq hawake htarget, ht]

end

/-- The port after an answer: only what the harness holds and the requests' count differ. -/
structure Dev.Answered (s t : Dev) : Prop where
  regs : ∀ k, k ≠ Reg.DBG_CNT_REQ → t.reg k = s.reg k
  grd : t.grd = s.grd
  pwr : t.pwr = s.pwr
  sel : t.dbg.sel = true

theorem Dev.answered_hAnswer {s : Dev} (f : Harness → Harness) (hsel : (f s.dbg).sel = true) (st : Nat) (w : Word64) :
    s.Answered ((s.setDbg f).hAnswer st w) := by
  refine ⟨fun k hk => ?_, rfl, rfl, hsel⟩
  rw [← show (s.setDbg f).reg k = s.reg k from rfl]
  exact Dev.reg_setReg_ne _ _ hk

namespace Dev.Answered
variable {s t : Dev} (h : s.Answered t)
include h

theorem selected : t.selected = t := Dev.selected_of_sel h.sel

theorem hOpen : t.hOpen = s.hOpen := by
  simp only [Dev.hOpen, Dev.lifeState, h.grd, h.pwr, Dev.fld_congr (h.regs Reg.GRD_LIFECYCLE (by decide))]

theorem flag {k : Nat} (hk : k ≠ Reg.DBG_CNT_REQ) (n : Nat) : t.flag k n = s.flag k n := Dev.flag_congr (h.regs k hk) n

theorem alive : t.alive = s.alive := by
  simp only [Dev.alive, h.grd, Dev.flag_congr (h.regs Reg.GRD_BOOTSTAT (by decide)),
    Dev.fld_congr (h.regs Reg.GRD_BOOTSTAT (by decide))]

theorem coreThere {n : Nat} (hn : s.CoreThere n) : t.CoreThere n :=
  ⟨hn.lt, h.alive.trans hn.alive, by rw [h.pwr]; exact hn.powered⟩

end Dev.Answered

/-- A second request of the same client is granted as the first one was. -/
theorem Dev.Grants.again {t : Dev} {r' : HReq} {op op' : Nat} (hg : c.Grants r op 0) (h : c.selected.Answered t)
    (hop : r'.op % 256 = op') (hpos : 0 < op') (hle : op' ≤ 10) (hrsv : r'.rsv = r.rsv) : t.Grants r' op' 0 := by
  refine ⟨?_, hop, hpos, hle, ?_, hrsv ▸ hg.rsv⟩
  · rw [h.selected, h.hOpen, hg.hopen]
  · rw [h.selected, h.flag (by decide), hg.right]

/-! ### Requests on a core -/

/-- The answers of BPSET, BPCLR and WRREG, for slots and registers that a core has. -/
def Dev.bpSet (s : Dev) (r : HReq) : Dev := (s.setDbg fun h => { h with
  bps := h.bps.filter (fun b => !(b.1 == r.target && b.2.1 == r.idx)) ++ [(r.target, r.idx, r.addr.toNat)] }).hAnswer hsOK 0
def Dev.bpDrop (s : Dev) (r : HReq) : Dev := (s.setDbg fun h => { h with
  bps := h.bps.filter fun b => !(b.1 == r.target && b.2.1 == r.idx) }).hAnswer hsOK 0
def Dev.coreWrite (s : Dev) (r : HReq) : Dev := (s.setDbg fun h => { h with
  coreRegs := h.coreRegs.filter (fun x => x.1 != 64 * r.target + r.idx) ++ [(64 * r.target + r.idx, r.data)] }).hAnswer hsOK 0

section
variable {op : Nat} (hg : ∀ op, 0 < op → op ≤ 10 → c.Grants { r with op := op } op 0) (hthere : c.selected.CoreThere r.target)
include hg hthere

theorem exec_onCore {i : Instr} {core seq : Nat → Dev → Dev} {t : Dev} (hpos : 0 < op) (hle : op ≤ 10)
    (hexec : exec i ⟨q, c⟩ = .next ⟨q, c.hRequest op 0 { r with op := op } fun s => s.hOn { r with op := op } core seq⟩)
    (ht : core r.target c.selected = t) : exec i ⟨q, c⟩ = .next ⟨q, t⟩ :=
  exec_hOn_core (hg op hpos hle) hexec hthere ht

theorem exec_requests_running (hrun : c.selected.coreHalted r.target = false) :
    exec (.harnessHalt { r with op := 2 }) ⟨q, c⟩ =
      .next ⟨q, ((c.selected.setFlag Reg.DBG_CORES r.target true).coreRan r.target).hAnswer hsOK 0⟩ ∧
    exec (.harnessStep { r with op := 4 }) ⟨q, c⟩ = .next ⟨q, c.selected.hAnswer hsNOTHALTED 0⟩ ∧
    (r.idx ≤ 33 → exec (.harnessRdreg { r with op := 7 }) ⟨q, c⟩ = .next ⟨q, c.selected.hAnswer hsNOTHALTED 0⟩) := by
  refine ⟨exec_onCore hg hthere (by decide) (by decide) rfl ?_, exec_onCore hg hthere (by decide) (by decide) rfl ?_,
    fun hidx => exec_onCore hg hthere (by decide) (by decide) rfl ?_⟩
  · simp only [hrun, Bool.false_eq_true, if_false]
  · simp only [hrun, Bool.false_eq_true, if_false]
  · simp only [hrun, Bool.not_false, if_true, if_neg (Nat.not_lt.mpr hidx)]

theorem exec_requests_halted (hhalt : c.selected.coreHalted r.target = true) :
    exec (.harnessResume { r with op := 3 }) ⟨q, c⟩ =
      .next ⟨q, ((c.selected.setFlag Reg.DBG_CORES r.target false).coreRan r.target).hAnswer hsOK 0⟩ ∧
    exec (.harnessStep { r with op := 4 }) ⟨q, c⟩ = .next ⟨q, (c.selected.coreRan r.target).hAnswer hsOK 0⟩ := by
  refine ⟨exec_onCore hg hthere (by decide) (by decide) rfl ?_, exec_onCore hg hthere (by decide) (by decide) rfl ?_⟩ <;>
    simp only [hhalt, if_true]

/-- A breakpoint set is in its slot, and cleared is out of it. -/
theorem exec_breakpoint (hidx : r.idx < 4) : ∃ t u, exec (.harnessBpset { r with op := 5 }) ⟨q, c⟩ = .next ⟨q, t⟩ ∧
    (r.target, r.idx, r.addr.toNat) ∈ t.dbg.bps ∧ t.mem = c.selected.mem ∧
    exec (.harnessBpclr { r with op := 6 }) ⟨q, t⟩ = .next ⟨q, u⟩ ∧ ∀ b ∈ u.dbg.bps, ¬ (b.1 = r.target ∧ b.2.1 = r.idx) := by
  have hans : c.selected.Answered (c.selected.bpSet r) := Dev.answered_hAnswer _ rfl _ _
  have hg' : (c.selected.bpSet r).Grants { r with op := 6 } 6 0 :=
    (hg 5 (by decide) (by decide)).again hans rfl (by decide) (by decide) rfl
  have hset : exec (.harnessBpset { r with op := 5 }) ⟨q, c⟩ = .next ⟨q, c.selected.bpSet r⟩ :=
    exec_onCore hg hthere (by decide) (by decide) rfl (if_neg (Nat.not_le.mpr hidx))
  have hthere' : (c.selected.bpSet r).selected.CoreThere r.target := by
    rw [hans.selected]
    exact hans.coreThere hthere
  have hclr : exec (.harnessBpclr { r with op := 6 }) ⟨q, c.selected.bpSet r⟩ =
      .next ⟨q, (c.selected.bpSet r).selected.bpDrop r⟩ :=
    exec_hOn_core (r := { r with op := 6 }) hg' rfl hthere' (if_neg (Nat.not_le.mpr hidx))
  refine ⟨_, _, hset, List.mem_append_right _ (.head _), rfl, hclr, ?_⟩
  rintro b hb ⟨htarget, hslot⟩
  have hkeep := (List.mem_filter.mp hb).2
  simp [htarget, hslot] at hkeep

theorem exec_breakpoint_badSlot (hidx : 4 ≤ r.idx) : ∀ i ∈ [Instr.harnessBpset { r with op := 5 }, .harnessBpclr { r with op := 6 }],
    exec i ⟨q, c⟩ = .next ⟨q, c.selected.hAnswer hsBADREQ 0⟩ := by
  simp only [List.forall_mem_cons]
  exact ⟨exec_onCore hg hthere (by decide) (by decide) rfl (if_pos hidx),
    exec_onCore hg hthere (by decide) (by decide) rfl (if_pos hidx), by simp⟩

theorem exec_register_badIndex (hidx : 33 < r.idx) :
    ∀ i ∈ [Instr.harnessRdreg { r with op := 7 }, .harnessWrreg { r with op := 8 }],
    exec i ⟨q, c⟩ = .next ⟨q, c.selected.hAnswer hsBADREQ 0⟩ := by
  simp only [List.forall_mem_cons]
  exact ⟨exec_onCore hg hthere (by decide) (by decide) rfl (if_pos hidx),
    exec_onCore hg hthere (by decide) (by decide) rfl (if_pos hidx), by simp⟩

omit hg hthere in
/-- A register reads what was written to it last. -/
theorem Dev.coreReg_written (s : Dev) (n idx : Nat) (w : Word64) (regs : List (Nat × Word64))
    (hregs : s.dbg.coreRegs = regs.filter (fun x => x.1 != 64 * n + idx) ++ [(64 * n + idx, w)]) : s.coreReg n idx = w := by
  have hnone : (regs.filter fun x => x.1 != 64 * n + idx).find? (fun x => x.1 == 64 * n + idx) = none := by
    simp [List.find?_eq_none]
  simp [Dev.coreReg, hregs, List.find?_append, hnone]

theorem exec_writeThenRead (hidx : r.idx ≤ 33) : ∃ t, exec (.harnessWrreg { r with op := 8 }) ⟨q, c⟩ = .next ⟨q, t⟩ ∧
    (c.selected.coreHalted r.target = true →
      exec (.harnessRdreg { r with op := 7 }) ⟨q, t⟩ = .next ⟨q, t.hAnswer hsOK r.data⟩) := by
  have hidx' : ¬ 33 < r.idx := Nat.not_lt.mpr hidx
  have hans : c.selected.Answered (c.selected.coreWrite r) := Dev.answered_hAnswer _ rfl _ _
  have hdata := Dev.coreReg_written (c.selected.coreWrite r) r.target r.idx r.data c.selected.dbg.coreRegs rfl
  refine ⟨c.selected.coreWrite r, exec_onCore hg hthere (by decide) (by decide) rfl (if_neg hidx'), fun hhalt => ?_⟩
  generalize c.selected.coreWrite r = t at hans hdata
  have hhalt' : t.coreHalted r.target = true := (hans.flag (by decide) _).trans hhalt
  have hthere' : t.selected.CoreThere r.target := by
    rw [hans.selected]
    exact hans.coreThere hthere
  have hg' : t.Grants { r with op := 7 } 7 0 := (hg 8 (by decide) (by decide)).again hans rfl (by decide) (by decide) rfl
  refine exec_hOn_core hg' rfl hthere' ?_
  dsimp only
  rw [if_neg hidx', hans.selected, hhalt', if_neg (by simp), hdata]

end

/-! ### Requests on a sequencer -/

section
variable {n : Nat} (hg : ∀ op, 0 < op → op ≤ 10 → c.Grants { r with op := op } op 0) (hawake : c.selected.SeqAwake n)
  (htarget : r.target = 0x40 + n)
include hg hawake htarget

theorem exec_onSeq {i : Instr} {op : Nat} {core seq : Nat → Dev → Dev} {t : Dev} (hpos : 0 < op) (hle : op ≤ 10)
    (hexec : exec i ⟨q, c⟩ = .next ⟨q, c.hRequest op 0 { r with op := op } fun s => s.hOn { r with op := op } core seq⟩)
    (ht : seq n c.selected = t) : exec i ⟨q, c⟩ = .next ⟨q, t⟩ :=
  exec_hOn_seq (hg op hpos hle) hexec hawake htarget ht

theorem exec_seqHalt_idle (hrun : c.selected.seqHalted n = false) (hidle : c.selected.seqBusy n = false) :
    exec (.harnessHalt { r with op := 2 }) ⟨q, c⟩ = .next ⟨q, (c.selected.seqHalt n).hAnswer hsOK 0⟩ :=
  exec_onSeq hg hawake htarget (by decide) (by decide) rfl (by simp only [hrun, hidle, Bool.false_eq_true, if_false])

theorem exec_seqHalt_busy (hrun : c.selected.seqHalted n = false) (hbusy : c.selected.seqBusy n = true) :
    exec (.harnessHalt { r with op := 2 }) ⟨q, c⟩ = .next ⟨q, c.selected.setDbg fun h => { h with
      halting := h.halting.filter (· != n) ++ [n], busy := some r.target }⟩ := by
  refine exec_onSeq hg hawake htarget (by decide) (by decide) rfl ?_
  simp only [hrun, hbusy, Bool.false_eq_true, if_false, if_true]
  rfl

theorem exec_seqResume (hpos : c.selected.seqPos n = none) :
    exec (.harnessResume { r with op := 3 }) ⟨q, c⟩ = .next ⟨q, (c.selected.setDbg fun h => { h with
      halts := h.halts.filter fun x => x.1 != n
      halting := h.halting.filter (· != n)
      steps := h.steps.filter fun x => x.1 != n }).hAnswer hsOK 0⟩ := by
  refine exec_onSeq hg hawake htarget (by decide) (by decide) rfl ?_
  simp only [hpos, Bool.false_eq_true, if_false]

theorem exec_seqStep_halted (hhalt : c.selected.seqHalted n = true) :
    exec (.harnessStep { r with op := 4 }) ⟨q, c⟩ = .next ⟨q, c.selected.setDbg fun h => { h with
      steps := h.steps.filter (fun x => x.1 != n) ++ [(n, false)], busy := some r.target }⟩ := by
  refine exec_onSeq hg hawake htarget (by decide) (by decide) rfl ?_
  simp only [Dev.seqGone, hhalt, Bool.not_true, Bool.false_and, Bool.false_eq_true, if_false]
  rfl

theorem exec_seqStep_running (hrun : c.selected.seqHalted n = false) (hgone : c.selected.seqGone n = false) :
    exec (.harnessStep { r with op := 4 }) ⟨q, c⟩ = .next ⟨q, c.selected.hAnswer hsNOTHALTED 0⟩ :=
  exec_onSeq hg hawake htarget (by decide) (by decide) rfl
    (by simp only [hgone, hrun, Bool.not_false, Bool.false_eq_true, if_false, if_true])

theorem exec_seqStep_gone (hgone : c.selected.seqGone n = true) :
    exec (.harnessStep { r with op := 4 }) ⟨q, c⟩ = .next ⟨q, c.selected.hAnswer hsGONE 0⟩ :=
  exec_onSeq hg hawake htarget (by decide) (by decide) rfl (if_pos hgone)

theorem exec_seqEntry {g : Nat} {x : ProgRun} {j : ProgInst} (hhalt : c.selected.seqHalted n = true) (hidx : r.idx = 0)
    (hinst : c.selected.instOn n = some (g, x, j)) : exec (.harnessRdreg { r with op := 7 }) ⟨q, c⟩ = .next ⟨q,
      (c.selected.setDbg fun h => { h with coreRuns := h.coreRuns + 1 }).hAnswer hsOK (BitVec.ofNat 64 (x.entryAddr j))⟩ := by
  refine exec_onSeq hg hawake htarget (by decide) (by decide) rfl ?_
  simp only [hidx, Dev.seqGone, hhalt, Bool.not_true, Bool.false_and, Bool.false_eq_true, if_false, Nat.not_lt_zero, Dev.seqReg, hinst]

theorem exec_seqWrite : exec (.harnessWrreg { r with op := 8 }) ⟨q, c⟩ = .next ⟨q, c.selected.hAnswer hsBADREQ 0⟩ :=
  exec_onSeq hg hawake htarget (by decide) (by decide) rfl rfl

end
end

/-! ### The rows -/

section
variable {q : List Instr} {c : Dev} {r : HReq}

/-- The two rows that reach memory, and the operations of those that do not. -/
theorem hTaken_rows : ∀ x ∈ [(Instr.harnessStatus r, 1), (Instr.harnessHalt r, 2), (.harnessResume r, 3), (.harnessStep r, 4),
    (.harnessBpset r, 5), (.harnessBpclr r, 6), (.harnessRdreg r, 7), (.harnessWrreg r, 8), (.harnessRdmem r, 9),
    (.harnessWrmem r, 10)], HTaken q c r x.1 x.2 := by
  simp only [List.forall_mem_cons]
  exact ⟨hTaken_of_exec rfl, hTaken_of_exec rfl, hTaken_of_exec rfl, hTaken_of_exec rfl, hTaken_of_exec rfl, hTaken_of_exec rfl,
    hTaken_of_exec rfl, hTaken_of_exec rfl, (hRow_of_unit rfl (by decide)).taken, (hRow_of_unit rfl (by decide)).taken, by simp⟩

/-- The rows that need a right, with the bit of the right. -/
theorem hRow_rows : ∀ x ∈ [(Instr.harnessHalt r, 2, 0), (.harnessResume r, 3, 0), (.harnessStep r, 4, 0), (.harnessBpset r, 5, 0),
    (.harnessBpclr r, 6, 0), (.harnessRdreg r, 7, 0), (.harnessWrreg r, 8, 0), (.harnessRdmem r, 9, 1), (.harnessWrmem r, 10, 2)],
    (0 < x.2.1 ∧ x.2.1 ≤ 10) ∧ ∃ f, HRow q c r x.1 x.2.1 x.2.2 f ∧
      (x.2.1 < 9 → r.target = 0xFF → f c.selected = c.selected.hAnswer hsBADREQ 0) := by
  simp only [List.forall_mem_cons]
  refine ⟨⟨by decide, _, hRow_of_exec rfl, fun _ ht => Dev.hOn_none ht⟩, ⟨by decide, _, hRow_of_exec rfl, fun _ ht => Dev.hOn_none ht⟩,
    ⟨by decide, _, hRow_of_exec rfl, fun _ ht => Dev.hOn_none ht⟩, ⟨by decide, _, hRow_of_exec rfl, fun _ ht => Dev.hOn_none ht⟩,
    ⟨by decide, _, hRow_of_exec rfl, fun _ ht => Dev.hOn_none ht⟩, ⟨by decide, _, hRow_of_exec rfl, fun _ ht => Dev.hOn_none ht⟩,
    ⟨by decide, _, hRow_of_exec rfl, fun _ ht => Dev.hOn_none ht⟩, ⟨by decide, _, hRow_of_unit rfl (by decide), ?_⟩,
    ⟨by decide, _, hRow_of_unit rfl (by decide), ?_⟩, by simp⟩ <;> exact fun h => absurd h (by decide)

/-- What a closed port does with each row's request: nothing but HSEL_N. -/
theorem hTaken_closed {i : Instr} {op : Nat} (h : HTaken q c r i op) (hclosed : c.selected.hOpen = false)
    (hcalm : 9 ≤ op → c.calm = true) : exec i ⟨q, c⟩ = .next ⟨q, c.selected⟩ := by
  obtain ⟨f, hf⟩ := h
  exact hf _ (Dev.hTake_closed hclosed) fun h9 => ⟨hcalm h9, .selected c⟩

theorem hTaken_reserved {i : Instr} {op : Nat} (h : HTaken q c r i op) (hopen : c.selected.hOpen = true)
    (hcalm : 9 ≤ op → c.calm = true) (hop : r.op % 2 ^ 8 = 0 ∨ 10 < r.op % 2 ^ 8) :
    exec i ⟨q, c⟩ = .next ⟨q, c.selected.hAnswer hsBADREQ 0⟩ := by
  obtain ⟨f, hf⟩ := h
  exact hf _ (Dev.hTake_reserved hopen hop) fun h9 => ⟨hcalm h9, (Dev.StaysCalm.selected c).hAnswer⟩

theorem hTaken_other {i : Instr} {op : Nat} (h : HTaken q c r i op) (hopen : c.selected.hOpen = true)
    (hcalm : 9 ≤ op → c.calm = true) (hpos : 0 < r.op % 2 ^ 8) (hle : r.op % 2 ^ 8 ≤ 10) (hne : r.op % 2 ^ 8 ≠ op) :
    exec i ⟨q, c⟩ = .next ⟨q, c.selected⟩ := by
  obtain ⟨f, hf⟩ := h
  exact hf _ (Dev.hTake_other hopen hpos hle hne) fun h9 => ⟨hcalm h9, .selected c⟩

section
variable {i : Instr} {op right : Nat} {f : Dev → Dev} (h : HRow q c r i op right f) (hopen : c.selected.hOpen = true)
  (hcalm : 9 ≤ op → c.calm = true) (hop : r.op % 256 = op) (hpos : 0 < op) (hle : op ≤ 10)
include h hopen hcalm hop hpos hle

/-- A request without its right is LOCKED and counted; the first one is recorded (R566). -/
theorem hRow_locked (hright : c.selected.flag Reg.DBG_UNLOCK right = false) (s : Dev)
    (hs : s = (c.selected.bump Reg.DBG_CNT_LOCKED 1).setDbg fun h => { h with lockRec := true }) :
    (c.selected.dbg.lockRec = false → exec i ⟨q, c⟩ =
      .next ⟨q, (s.record clsGUARD 0x040 (op + r.target % 2 ^ 8 * 2 ^ 8) 0 blkGRD 0).hAnswer hsLOCKED 0⟩) ∧
    (c.selected.dbg.lockRec = true → exec i ⟨q, c⟩ = .next ⟨q, s.hAnswer hsLOCKED 0⟩) := by
  have hmod : op % 2 ^ 8 = op := Nat.mod_eq_of_lt (by omega)
  have hcalmS : c.StaysCalm False s := hs ▸ (Dev.StaysCalm.refl c).frame
  have hreq := Dev.hRequest_locked (f := f) hopen hop hpos hle hright
  refine ⟨fun hfirst => h _ ?_ fun h9 => ⟨hcalm h9, ?_⟩, fun hlater => h _ ?_ fun h9 => ⟨hcalm h9, ?_⟩⟩
  · rw [hreq, Dev.hLocked, hfirst, hs, Bool.not_false, if_pos rfl, hmod]
  · exact hcalmS.record.hAnswer
  · rw [hreq, Dev.hLocked, hlater, hs, Bool.not_true, if_neg (by simp)]
  · exact hcalmS.hAnswer

theorem hRow_reservedBit (hright : c.selected.flag Reg.DBG_UNLOCK right = true) (hrsv : r.rsv % 2 ^ 7 ≠ 0) :
    exec i ⟨q, c⟩ = .next ⟨q, c.selected.hAnswer hsBADREQ 0⟩ :=
  h _ (Dev.hRequest_reservedBit hopen hop hpos hle hright hrsv) fun h9 => ⟨hcalm h9, (Dev.StaysCalm.selected c).hAnswer⟩

omit hcalm in
theorem hRow_own {t : Dev} (hright : c.selected.flag Reg.DBG_UNLOCK right = true) (hrsv : r.rsv % 2 ^ 7 = 0)
    (ht : f c.selected = t) (hlt : op < 9) : exec i ⟨q, c⟩ = .next ⟨q, t⟩ :=
  h _ ((Dev.hRequest_own hopen hop hpos hle hright hrsv).trans ht) fun h9 => absurd h9 (by omega)

end

theorem exec_harnessTimeout_closed (hclosed : c.hOpen = false) : exec .harnessTimeout ⟨q, c⟩ = .next ⟨q, c⟩ := by
  rw [show exec .harnessTimeout ⟨q, c⟩ = execHarnessTimeout ⟨q, c⟩ from rfl, execHarnessTimeout, State.guard, hclosed, if_neg (by simp)]

theorem exec_harnessTimeout_busy {b : Nat} (hopen : c.hOpen = true) (hb : c.dbg.busy = some b) :
    exec .harnessTimeout ⟨q, c⟩ = .next ⟨q, c.hAnswer hsTIMEOUT 0⟩ := by
  rw [show exec .harnessTimeout ⟨q, c⟩ = execHarnessTimeout ⟨q, c⟩ from rfl, execHarnessTimeout, State.guard, hopen, hb,
    if_pos (by rfl)]

theorem exec_taken {i : Instr} {op : Nat} {r' : HReq} {f : Dev → Dev} {t : Dev} (hopen : c.selected.hOpen = true)
    (hop : r'.op % 256 = op) (hpos : 0 < op) (hle : op ≤ 10) (hexec : exec i ⟨q, c⟩ = .next ⟨q, c.hTake op r' f⟩)
    (ht : f c.selected = t) : exec i ⟨q, c⟩ = .next ⟨q, t⟩ := by rw [hexec, Dev.hTake_own hopen hop hpos hle, ht]

/-- STATUS needs no right, and answers the state of its target. -/
theorem exec_harnessStatus (hopen : c.selected.hOpen = true) (hrsv : r.rsv % 2 ^ 7 = 0) :
    (r.target = 0xFF → exec (.harnessStatus { r with op := 1 }) ⟨q, c⟩ =
      .next ⟨q, c.selected.hAnswer hsOK (BitVec.ofNat 64 (2 + 4 * c.selected.fld Reg.DBG_UNLOCK 0 3))⟩) ∧
    (c.selected.CoreThere r.target → exec (.harnessStatus { r with op := 1 }) ⟨q, c⟩ = .next ⟨q, c.selected.hAnswer hsOK
      (BitVec.ofNat 64 ((c.selected.coreHalted r.target).toNat + 4 * c.selected.fld Reg.DBG_UNLOCK 0 3))⟩) := by
  refine ⟨fun ht => exec_taken (op := 1) (r' := { r with op := 1 }) hopen rfl (by decide) (by decide) rfl ?_,
    fun hthere => exec_taken (op := 1) (r' := { r with op := 1 }) hopen rfl (by decide) (by decide) rfl ?_⟩
  · dsimp only
    rw [ht, hrsv, if_neg (by decide), if_pos (by rfl)]
  · dsimp only
    rw [hTarget_core hthere.lt, hrsv, if_neg (by simp), hthere.not_absent, if_neg (by simp)]

end

/-- Settles O51: the shared checks are those of `Dev.hTake` and `Dev.hRequest`, and each operation is its body on its target. -/
theorem harnessRequests : Obligations.HarnessRequests := by
  rintro q c _ r rq rfl hrq
  simp only [hrq]
  refine ⟨rfl, fun hclosed => ⟨?_, ?_⟩, fun hclosed hcalm => ?_, fun hopen => ⟨fun b hb => ?_, fun x hx hcalm => ⟨?_, ?_⟩, ?_, ?_⟩⟩
  · exact exec_harnessTimeout_closed hclosed
  · have hrows := hTaken_rows (q := q) (c := c) (r := r)
    simp only [List.forall_mem_cons] at hrows ⊢
    have hlow : ∀ {op}, op < 9 → 9 ≤ op → c.calm = true := fun hlt h9 => absurd h9 (by omega)
    obtain ⟨h1, h2, h3, h4, h5, h6, h7, h8, -⟩ := hrows
    exact ⟨hTaken_closed h1 hclosed (hlow (by decide)), hTaken_closed h2 hclosed (hlow (by decide)), hTaken_closed h3 hclosed (hlow (by decide)),
      hTaken_closed h4 hclosed (hlow (by decide)), hTaken_closed h5 hclosed (hlow (by decide)), hTaken_closed h6 hclosed (hlow (by decide)),
      hTaken_closed h7 hclosed (hlow (by decide)), hTaken_closed h8 hclosed (hlow (by decide)), by simp⟩
  · simp only [List.forall_mem_cons]
    exact ⟨hTaken_closed (hTaken_rows (r := r) (.harnessRdmem r, 9) (by simp)) hclosed fun _ => hcalm,
      hTaken_closed (hTaken_rows (r := r) (.harnessWrmem r, 10) (by simp)) hclosed fun _ => hcalm, by simp⟩
  · exact exec_harnessTimeout_busy hopen hb
  · exact hTaken_reserved (hTaken_rows x hx) hopen hcalm
  · exact hTaken_other (hTaken_rows x hx) hopen hcalm
  · intro op right x hx hx2 hop hcalm
    obtain ⟨⟨hpos, hle⟩, f, hrow, hnone⟩ := hRow_rows (q := q) (c := c) x hx
    rw [hx2] at hpos hle hrow hnone
    exact ⟨fun hright s hs => hRow_locked hrow hopen hcalm hop hpos hle hright s hs,
      fun hright hrsv => hRow_reservedBit hrow hopen hcalm hop hpos hle hright hrsv,
      fun hright hrsv ht hlt => hRow_own hrow hopen hop hpos hle hright hrsv (hnone hlt ht) hlt⟩
  · intro hrsv
    obtain ⟨hnone, hcore⟩ := exec_harnessStatus (q := q) hopen hrsv
    refine ⟨hnone, fun hlt halive hpow => ⟨hcore ⟨hlt, halive, hpow⟩, fun hright => ?_⟩, fun n hn ht halive hon hawake hright => ?_⟩
    · have hg : ∀ op, 0 < op → op ≤ 10 → c.Grants { r with op := op } op 0 := fun op hpos hle =>
        ⟨hopen, Nat.mod_eq_of_lt (Nat.lt_of_le_of_lt hle (by decide)), hpos, hle, hright, hrsv⟩
      have hthere : c.selected.CoreThere r.target := ⟨hlt, halive, hpow⟩
      exact ⟨exec_requests_running hg hthere, exec_requests_halted hg hthere, exec_breakpoint hg hthere,
        exec_breakpoint_badSlot hg hthere, exec_writeThenRead hg hthere, exec_register_badIndex hg hthere⟩
    · have hg : ∀ op, 0 < op → op ≤ 10 → c.Grants { r with op := op } op 0 := fun op hpos hle =>
        ⟨hopen, Nat.mod_eq_of_lt (Nat.lt_of_le_of_lt hle (by decide)), hpos, hle, hright, hrsv⟩
      have haw : c.selected.SeqAwake n := ⟨hn, halive, hon, hawake⟩
      exact ⟨exec_seqHalt_idle hg haw ht, exec_seqHalt_busy hg haw ht, fun _ => exec_seqResume hg haw ht,
        exec_seqStep_halted hg haw ht, exec_seqStep_running hg haw ht, exec_seqStep_gone hg haw ht,
        fun g x i hhalt hidx hinst => exec_seqEntry hg haw ht hhalt hidx hinst, exec_seqWrite hg haw ht⟩

end Sys2Proof.Machine
end

section
/-! Memory through the Harness port, and the end of a halt, a step or a run up to a breakpoint (R567 to R569). -/
namespace Sys2Proof.Machine

-- The short theorems below are elaborated one after another: side by side, their threads' stacks exceed the memory of the check.
set_option Elab.async false

section
variable {s d : Dev} {r : HReq} {a k : Nat} {f : Dev → Dev}

/-! ### Accesses that have not to wait -/

theorem Dev.snooped_of_calm (h : s.calm = true) (wr : Bool) (a n : Nat) : s.snooped wr a n = s :=
  Dev.snooped_of_filter_nil (s.calm_iff.1 h).1 wr a n

theorem Dev.hostBytes_of_calm (h : s.calm = true) (a : Nat) (bs : List Byte) : s.hostBytes a bs = bs :=
  if_pos (by rw [(s.calm_iff.1 h).1]; rfl)

theorem Dev.lentBytes_of_calm (h : s.calm = true) (g a : Nat) (bs : List Byte) : s.lentBytes g a bs = bs :=
  if_pos (by rw [Dev.lentLines_of_calm h]; rfl)

theorem Dev.lentNeed_nil (s : Dev) (g : Nat) : s.lentNeed g [] = s := rfl

theorem Dev.touch_calm (h : s.calm = true) (a n : Nat) : (s.touch a n).calm = true :=
  (((Dev.StaysCalm.refl (same := False) s).touch (a := a) (n := n)).step h).1

/-- A touch writes the accessed marks of pages only, so what commands hold is as it was. -/
theorem Dev.heldRegion_touch (s : Dev) (a n k : Nat) : (s.touch a n).heldRegion k = s.heldRegion k := by
  unfold Dev.touch
  split
  · rfl
  · refine Dev.each_same (fun t => t.heldRegion k) (fun t p => ?_) _ s
    unfold Dev.touchPage
    dsimp only
    split <;> rfl

/-- Where no command holds the bytes read, they are answered as they stand. -/
theorem Dev.heldBytes_of_free {bs : List Byte} (h : ∀ i < bs.length, s.heldRegion (k + i) = false) : s.heldBytes k bs = bs := by
  unfold Dev.heldBytes
  refine List.ext_getElem (by simp) fun i hi hi' => ?_
  simp [h i hi']

/-! ### Job addresses -/

/-- The target is none that the coding reserves. -/
theorem hTarget_ne_reserved (ht : r.target = 0xFF) : hTarget r.target ≠ .reserved := by rw [ht]; decide

theorem Dev.hJob_closed (ht : r.target = 0xFF) (hmem : s.memOpen = false) (wr : Bool) : s.hJob r wr f = s.hAnswer hsFAULT 0 := by
  rw [Dev.hJob, if_neg (hTarget_ne_reserved ht), hmem, if_pos (by rfl)]

theorem Dev.hJob_untranslated (ht : r.target = 0xFF) (hmem : s.memOpen = true) {wr : Bool} {c : Nat}
    (hx : s.xlate r.addr.toNat wr = .bad c) : s.hJob r wr f = s.hAnswer hsFAULT 0 := by
  rw [Dev.hJob, if_neg (hTarget_ne_reserved ht), hmem, if_neg (by simp)]
  simp only [hx]

/-- An access to a good line of a mapped page is done after its touch. -/
theorem Dev.hJob_key (ht : r.target = 0xFF) (hmem : s.memOpen = true) {wr : Bool} (hx : s.xlate r.addr.toNat wr = .key k) :
    s.hJob r wr f =
      (let (s, ok) := if wr then (s, s.lineOf k != .poison) else s.lineRead false 0 r.addr.toNat k
      let s := (s.touch r.addr.toNat 8).snooped wr r.addr.toNat 8
      if ok then f (if wr then s else s.lentNeed 0 ((s.lentLines r.addr.toNat 8).map (·.1))) else s.hAnswer hsFAULT 0) := by
  rw [Dev.hJob, if_neg (hTarget_ne_reserved ht), hmem, if_neg (by simp)]
  simp only [hx]

theorem Dev.hJob_good (ht : r.target = 0xFF) (hmem : s.memOpen = true) (hcalm : s.calm = true) {wr : Bool}
    (hx : s.xlate r.addr.toNat wr = .key k) (hline : s.lineOf k = .good) : s.hJob r wr f = f (s.touch r.addr.toNat 8) := by
  have hread : s.lineRead false 0 r.addr.toNat k = (s, true) := by simp [Dev.lineRead, hline]
  have htouch := Dev.touch_calm hcalm r.addr.toNat 8
  rw [Dev.hJob_key ht hmem hx]
  cases wr with
  | false =>
    rw [if_neg (by simp), hread]
    dsimp only
    rw [Dev.snooped_of_calm htouch, Dev.lentLines_of_calm htouch, if_pos rfl, if_neg (by simp), List.map_nil, Dev.lentNeed_nil]
  | true =>
    rw [if_pos rfl, hline]
    dsimp only
    rw [Dev.snooped_of_calm htouch, if_pos (by decide), if_pos rfl]

/-! ### The two rows -/

section
variable {q : List Instr} {i : Instr} {op right : Nat} {t : Dev}

/-- A row that reaches memory, granted: what its body does, where that leaves no access to wait. -/
theorem exec_memory (hrow : HRow q d r i op right f) (hsel : d.dbg.sel = true) (hcalm : d.calm = true) (hg : d.Grants r op right)
    (ht : f d = t) (hs : d.StaysCalm False t) : exec i ⟨q, d⟩ = .next ⟨q, t⟩ := by
  refine hrow t ?_ fun _ => ⟨hcalm, hs⟩
  rw [Dev.hRequest_own hg.hopen hg.own hg.pos hg.le hg.right hg.rsv, Dev.selected_of_sel hsel, ht]

/-- The port is selected and open, the request's reserved bits are clear, and no access of the device has to wait. -/
structure Dev.MemoryPort (d : Dev) (r : HReq) : Prop where
  sel : d.dbg.sel = true
  calm : d.calm = true
  hopen : d.hOpen = true
  rsv : r.rsv % 2 ^ 7 = 0

variable (hport : d.MemoryPort r)
include hport

theorem Dev.MemoryPort.grants (hop : r.op % 256 = op) (hpos : 0 < op) (hle : op ≤ 10)
    (hright : d.flag Reg.DBG_UNLOCK right = true) : d.Grants r op right := by
  refine ⟨?_, hop, hpos, hle, ?_, hport.rsv⟩
  · rw [Dev.selected_of_sel hport.sel, hport.hopen]
  · rwa [Dev.selected_of_sel hport.sel]


section
variable {n : Nat}

theorem exec_rdmem_job (hright : d.flag Reg.DBG_UNLOCK 1 = true) (halign : r.addr.toNat % 8 = 0) (hspace : r.space = false)
    (ht : d.hJob r false (fun s => s.hRead (jobKey r.addr.toNat)
      (s.lentBytes 0 r.addr.toNat (s.hostBytes r.addr.toNat (s.rdJob r.addr.toNat 8)))) = t) (hs : d.StaysCalm False t) :
    exec (.harnessRdmem { r with op := 9 }) ⟨q, d⟩ = .next ⟨q, t⟩ := by
  refine exec_memory (r := { r with op := 9 }) (hRow_of_unit rfl (by decide)) hport.sel hport.calm
    (Dev.MemoryPort.grants ⟨hport.sel, hport.calm, hport.hopen, hport.rsv⟩ rfl (by decide) (by decide) hright) ?_ hs
  dsimp only
  rw [if_neg (not_not.mpr halign), hspace, if_neg (by simp), ← ht]
  rfl

theorem exec_wrmem_job (hright : d.flag Reg.DBG_UNLOCK 2 = true) (halign : r.addr.toNat % 8 = 0) (hspace : r.space = false)
    (ht : d.hJob r true (fun s => (s.jobWrite 0 r.addr.toNat (leBytes 8 r.data.toNat)).hAnswer hsOK 0) = t)
    (hs : d.StaysCalm False t) : exec (.harnessWrmem { r with op := 10 }) ⟨q, d⟩ = .next ⟨q, t⟩ := by
  refine exec_memory (r := { r with op := 10 }) (hRow_of_unit rfl (by decide)) hport.sel hport.calm
    (Dev.MemoryPort.grants ⟨hport.sel, hport.calm, hport.hopen, hport.rsv⟩ rfl (by decide) (by decide) hright) ?_ hs
  dsimp only
  rw [if_neg (not_not.mpr halign), hspace, if_neg (by simp), ← ht]
  rfl


/-- What is read of a good line that no command holds is answered as it stands after the touch. -/
theorem exec_rdmem_good (hright : d.flag Reg.DBG_UNLOCK 1 = true) (halign : r.addr.toNat % 8 = 0) (hspace : r.space = false)
    (htarget : r.target = 0xFF) (hmem : d.memOpen = true) (hx : d.xlate r.addr.toNat false = .key k) (hline : d.lineOf k = .good)
    (hfree : ∀ i < 8, d.heldRegion (jobKey r.addr.toNat + i) = false) :
    exec (.harnessRdmem { r with op := 9 }) ⟨q, d⟩ = .next ⟨q, ((d.touch r.addr.toNat 8).setDbg fun h =>
      { h with coreRuns := h.coreRuns + 1 }).hAnswer hsOK (BitVec.ofNat 64 (leNat ((d.touch r.addr.toNat 8).rdJob r.addr.toNat 8)))⟩ := by
  have htouch := Dev.touch_calm hport.calm r.addr.toNat 8
  have hheld : (d.touch r.addr.toNat 8).heldBytes (jobKey r.addr.toNat) ((d.touch r.addr.toNat 8).rdJob r.addr.toNat 8) =
      (d.touch r.addr.toNat 8).rdJob r.addr.toNat 8 := by
    refine Dev.heldBytes_of_free fun i hi => ?_
    rw [Dev.heldRegion_touch]
    exact hfree i (by simpa [Dev.rdJob] using hi)
  refine exec_rdmem_job hport hright halign hspace ?_ (((Dev.StaysCalm.refl d).touch).frame.hAnswer (t := (d.touch _ 8).readDone))
  rw [Dev.hJob_good htarget hmem hport.calm hx hline, Dev.hostBytes_of_calm htouch, Dev.lentBytes_of_calm htouch, Dev.hRead, hheld]
  rfl

theorem exec_wrmem_good (hright : d.flag Reg.DBG_UNLOCK 2 = true) (halign : r.addr.toNat % 8 = 0) (hspace : r.space = false)
    (htarget : r.target = 0xFF) (hmem : d.memOpen = true) (hx : d.xlate r.addr.toNat true = .key k) (hline : d.lineOf k = .good) :
    exec (.harnessWrmem { r with op := 10 }) ⟨q, d⟩ =
      .next ⟨q, ((d.touch r.addr.toNat 8).jobWrite 0 r.addr.toNat (leBytes 8 r.data.toNat)).hAnswer hsOK 0⟩ :=
  exec_wrmem_job hport hright halign hspace (Dev.hJob_good htarget hmem hport.calm hx hline)
    ((Dev.StaysCalm.refl d).touch.jobWrite).hAnswer

theorem exec_memory_misaligned (halign : r.addr.toNat % 8 ≠ 0) :
    (d.flag Reg.DBG_UNLOCK 1 = true → exec (.harnessRdmem { r with op := 9 }) ⟨q, d⟩ = .next ⟨q, d.hAnswer hsBADREQ 0⟩) ∧
    (d.flag Reg.DBG_UNLOCK 2 = true → exec (.harnessWrmem { r with op := 10 }) ⟨q, d⟩ = .next ⟨q, d.hAnswer hsBADREQ 0⟩) :=
  ⟨fun hright => exec_memory (r := { r with op := 9 }) (hRow_of_unit rfl (by decide)) hport.sel hport.calm
      (Dev.MemoryPort.grants ⟨hport.sel, hport.calm, hport.hopen, hport.rsv⟩ rfl (by decide) (by decide) hright) (if_pos halign)
      (Dev.StaysCalm.refl d).hAnswer,
    fun hright => exec_memory (r := { r with op := 10 }) (hRow_of_unit rfl (by decide)) hport.sel hport.calm
      (Dev.MemoryPort.grants ⟨hport.sel, hport.calm, hport.hopen, hport.rsv⟩ rfl (by decide) (by decide) hright) (if_pos halign)
      (Dev.StaysCalm.refl d).hAnswer⟩

/-! ### A Coach's store -/

section
variable {n : Nat} (haw : d.SeqAwake n) (htarget : r.target = 0x40 + n)
include haw htarget

omit hport in
theorem Dev.hStore_seq (f : Nat → Dev → Dev) : d.hStore r f = if d.memOpen then f n d else d.hAnswer hsFAULT 0 := by
  have hseq : hTarget r.target = .seq n := by rw [htarget, hTarget_seq haw.lt]
  unfold Dev.hStore
  rw [hseq]
  exact Dev.hOn_seq haw htarget

variable (halign : r.addr.toNat % 8 = 0) (hspace : r.space = true)
include halign hspace

theorem exec_wrmem_store (hright : d.flag Reg.DBG_UNLOCK 2 = true) (hs : d.StaysCalm False t)
    (ht : (if d.memOpen then if csSize < r.addr.toNat + 8 then d.hAnswer hsFAULT 0
      else (d.csWrite n r.addr.toNat (leBytes 8 r.data.toNat)).hAnswer hsOK 0 else d.hAnswer hsFAULT 0) = t) :
    exec (.harnessWrmem { r with op := 10 }) ⟨q, d⟩ = .next ⟨q, t⟩ := by
  refine exec_memory (r := { r with op := 10 }) (hRow_of_unit rfl (by decide)) hport.sel hport.calm
    (Dev.MemoryPort.grants ⟨hport.sel, hport.calm, hport.hopen, hport.rsv⟩ rfl (by decide) (by decide) hright) ?_ hs
  dsimp only
  rw [if_neg (not_not.mpr halign), if_pos hspace, ← ht]
  exact Dev.hStore_seq (r := { r with op := 10 }) haw htarget _

/-- An uncorrectable granule is answered FAULT, and nothing else comes of it. -/
theorem exec_rdmem_uncorrectable (hright : d.flag Reg.DBG_UNLOCK 1 = true) (hbad : d.csBad n [(r.addr.toNat, 8)] .ue ≠ []) :
    exec (.harnessRdmem { r with op := 9 }) ⟨q, d⟩ = .next ⟨q, d.hAnswer hsFAULT 0⟩ := by
  refine exec_memory (r := { r with op := 9 }) (hRow_of_unit rfl (by decide)) hport.sel hport.calm
    (Dev.MemoryPort.grants ⟨hport.sel, hport.calm, hport.hopen, hport.rsv⟩ rfl (by decide) (by decide) hright) ?_
    (Dev.StaysCalm.refl d).hAnswer
  dsimp only
  rw [if_neg (not_not.mpr halign), if_pos hspace, Dev.hStore_seq (r := { r with op := 9 }) haw htarget]
  have hne : ¬ (d.csBad n [(r.addr.toNat, 8)] .ue).isEmpty = true := by simpa using hbad
  rw [if_neg hne, ite_self, ite_self]

end
end
end
end

/-! ### The end of a halt or a step, and breakpoints -/

section
variable {q : List Instr} {d : Dev} (halive : d.alive = true)
include halive

/-- The armed work of a halting sequencer is done: it halts, and its HALT is answered. -/
theorem exec_haltComplete {n : Nat} (hidle : d.seqBusy n = false) (hstep : d.dbg.steps.contains (n, true) = false)
    (hhalting : d.dbg.halting.contains n = true) (hbusy : d.dbg.busy = some (0x40 + n)) :
    exec (.sequencerHaltComplete n) ⟨q, d⟩ = .next ⟨q, (d.seqHalt n).hAnswer hsOK 0⟩ := by
  rw [show exec (.sequencerHaltComplete n) ⟨q, d⟩ = execSequencerHaltComplete n ⟨q, d⟩ from rfl, execSequencerHaltComplete,
    State.upd_alive halive, hidle, if_neg (by simp), hstep, if_neg (by simp), hhalting, if_pos rfl]
  exact congrArg (fun t => (.next ⟨q, t⟩ : Host.Outcome State Fault Refusal)) (if_pos hbusy)

theorem exec_stepComplete {n : Nat} (hidle : d.seqBusy n = false) (hstep : d.dbg.steps.contains (n, true) = true)
    (hbusy : d.dbg.busy = some (0x40 + n)) : exec (.sequencerHaltComplete n) ⟨q, d⟩ =
      .next ⟨q, (d.setDbg fun h => { h with steps := h.steps.filter fun x => x.1 != n }).hAnswer
        (if d.seqHalted n then hsOK else hsGONE) 0⟩ := by
  rw [show exec (.sequencerHaltComplete n) ⟨q, d⟩ = execSequencerHaltComplete n ⟨q, d⟩ from rfl, execSequencerHaltComplete,
    State.upd_alive halive, hidle, if_neg (by simp), hstep, if_pos rfl]
  have hdone : ∀ st, (d.setDbg fun h => { h with steps := h.steps.filter fun x => x.1 != n }).hDone (0x40 + n) st =
      (d.setDbg fun h => { h with steps := h.steps.filter fun x => x.1 != n }).hAnswer st 0 := fun _ => if_pos hbusy
  rw [hdone]
  cases d.seqHalted n <;> rfl

/-- A breakpoint at the entry to be armed next halts the sequencer. -/
theorem exec_breakpoint_seq {n : Nat} {p : SeqAt} (hn : n < 64) (hpos : d.seqPos n = some p) (hbp : d.seqBp n p.addr = true)
    (hpass : d.dbg.passes = []) (hsteps : d.dbg.steps = []) (hrun : d.seqHalted n = false) :
    exec (.breakpointHit (0x40 + n)) ⟨q, d⟩ = .next ⟨q, d.seqHalt n⟩ := by
  rw [show exec (.breakpointHit (0x40 + n)) ⟨q, d⟩ = execBreakpointHit (0x40 + n) ⟨q, d⟩ from rfl, execBreakpointHit,
    State.upd_alive halive]
  simp only [hTarget_seq hn, hpos, hbp, hpass, hsteps, hrun]
  rfl

/-- The device after core `n` halts at the breakpoint `b`. -/
def Dev.coreStopped (d : Dev) (n : Nat) (b : Nat × Nat × Nat) : Dev :=
  ((d.setFlag Reg.DBG_CORES n true).coreRan n).setDbg fun h =>
    { h with coreRegs := h.coreRegs ++ [(64 * n + 32, BitVec.ofNat 64 b.2.2)] }

omit halive in
theorem Dev.coreReg_coreStopped (d : Dev) (n : Nat) (b : Nat × Nat × Nat) :
    (d.coreStopped n b).coreReg n 32 = BitVec.ofNat 64 b.2.2 := by
  have hnone : (d.dbg.coreRegs.filter fun x => x.1 / 64 != n).find? (fun x => x.1 == 64 * n + 32) = none := by
    rw [List.find?_eq_none]
    intro x hx
    have hcore : x.1 / 64 ≠ n := by simpa using (List.mem_filter.mp hx).2
    simp only [beq_iff_eq]
    omega
  have hregs : (d.coreStopped n b).dbg.coreRegs =
      (d.dbg.coreRegs.filter fun x => x.1 / 64 != n) ++ [(64 * n + 32, BitVec.ofNat 64 b.2.2)] := rfl
  simp [Dev.coreReg, hregs, List.find?_append, hnone]

omit halive in
theorem Dev.coreHalted_coreStopped (d : Dev) {n : Nat} (hn : n < 8) (b : Nat × Nat × Nat) :
    (d.coreStopped n b).coreHalted n = true := by
  have hset : (d.setFlag Reg.DBG_CORES n true).flag Reg.DBG_CORES n = true := Dev.flag_setFlag_same d _ _ (by omega)
  exact (Dev.flag_congr (s := d.setFlag Reg.DBG_CORES n true) (t := d.coreStopped n b) rfl n).trans hset

/-- A breakpoint on a core halts it, with the address of one of its breakpoints in the program counter. -/
theorem exec_breakpoint_core {n : Nat} (hn : n < 8) (hpow : d.pwr.gated.contains (.core n) = false) (hrun : d.coreHalted n = false)
    (hbp : d.dbg.bps.any (fun b => b.1 == n) = true) :
    ∃ b, exec (.breakpointHit n) ⟨q, d⟩ = .next ⟨q, d.coreStopped n b⟩ ∧ b ∈ d.dbg.bps ∧ b.1 = n := by
  have hexec : exec (.breakpointHit n) ⟨q, d⟩ = execBreakpointHit n ⟨q, d⟩ := rfl
  rw [hexec, execBreakpointHit, State.upd_alive halive]
  simp only [hTarget_core hn, (⟨hn, halive, hpow⟩ : d.CoreThere n).not_absent, hrun, Bool.or_self, Bool.false_eq_true, if_false]
  cases hbps : d.dbg.bps.filter fun b => b.1 == n with
  | nil =>
    obtain ⟨b, hb, hbn⟩ := List.any_eq_true.mp hbp
    exact absurd hbn ((List.filter_eq_nil_iff.mp hbps) b hb)
  | cons b bs =>
    refine ⟨_, rfl, ?_⟩
    have hmem : ∀ j : Nat, ((b :: bs)[j]?).getD b ∈ b :: bs := fun j => by
      cases hj : (b :: bs)[j]? with
      | none => exact .head _
      | some x => exact List.mem_of_getElem? hj
    generalize Config.breakpointHit n ((d.setFlag Reg.DBG_CORES n true).coreRan n).dbg.coreRuns % (bs.length + 1) = j
    have hsub : ∀ x ∈ b :: bs, x ∈ d.dbg.bps ∧ x.1 = n := fun x hx => by simpa [← hbps] using hx
    exact hsub _ (hmem j)

end

/-- Settles O52: each row is granted and reaches its body, and the two completions are branches of their rows. -/
theorem harnessMemoryAndHalts : Obligations.HarnessMemoryAndHalts := by
  intro q d
  refine ⟨fun r hsel hcalm hopen hmem hrsv ht hspace halign => ?_, fun r hsel hcalm hopen hrsv halign => ?_,
    fun r n hsel hcalm hopen hrsv halign hspace hn ht halive hon hawake hright => ?_,
    fun r hsel hcalm hopen hmem hrsv ht hspace halign => ?_, fun halive => ⟨fun n hidle => ⟨?_, ?_⟩, ?_, ?_⟩⟩
  · have hport : d.MemoryPort r := ⟨hsel, hcalm, hopen, hrsv⟩
    exact ⟨fun k hright hx hline => exec_rdmem_good hport hright halign hspace ht hmem hx hline,
      fun c hright hx => exec_rdmem_job hport hright halign hspace (Dev.hJob_untranslated ht hmem hx) (Dev.StaysCalm.refl d).hAnswer,
      fun k hright hx hline => exec_wrmem_good hport hright halign hspace ht hmem hx hline,
      fun c hright hx => exec_wrmem_job hport hright halign hspace (Dev.hJob_untranslated ht hmem hx) (Dev.StaysCalm.refl d).hAnswer⟩
  · exact exec_memory_misaligned ⟨hsel, hcalm, hopen, hrsv⟩ halign
  · have hport : d.MemoryPort r := ⟨hsel, hcalm, hopen, hrsv⟩
    have haw : d.SeqAwake n := ⟨hn, halive, hon, hawake⟩
    refine ⟨fun hfits hmem => ?_, fun hpast => ?_, fun hbad hright' => exec_rdmem_uncorrectable hport haw ht halign hspace hright' hbad⟩
    · refine exec_wrmem_store hport haw ht halign hspace hright (Dev.StaysCalm.refl d).csWrite.hAnswer ?_
      rw [hmem, if_pos rfl, if_neg (by omega)]
    · refine exec_wrmem_store hport haw ht halign hspace hright (Dev.StaysCalm.refl d).hAnswer ?_
      rw [if_pos hpast, ite_self]
  · have hport : d.MemoryPort r := ⟨hsel, hcalm, hopen, hrsv⟩
    exact ⟨fun hright => exec_rdmem_job hport hright halign hspace (Dev.hJob_closed ht hmem _) (Dev.StaysCalm.refl d).hAnswer,
      fun hright => exec_wrmem_job hport hright halign hspace (Dev.hJob_closed ht hmem _) (Dev.StaysCalm.refl d).hAnswer⟩
  · exact exec_haltComplete halive hidle
  · exact exec_stepComplete halive hidle
  · exact fun n p hn hpos hbp hpass hsteps hrun => exec_breakpoint_seq halive hn hpos hbp hpass hsteps hrun
  · intro n hn hpow hrun hbp
    obtain ⟨b, hexec, hmem, hbn⟩ := exec_breakpoint_core (q := q) halive hn hpow hrun hbp
    exact ⟨_, b, hexec, hmem, hbn, Dev.coreHalted_coreStopped d hn b, Dev.coreReg_coreStopped d n b, rfl⟩

end Sys2Proof.Machine
end

section
/-! Wakes, gates and the trip (R510 to R513, R517, R525): each row by the branch of its definition. -/
namespace Sys2Proof.Machine

-- The short theorems below are elaborated one after another: side by side, their threads' stacks exceed the memory of the check.
set_option Elab.async false

section
variable {q : List Instr} {d : Dev}

/-! ### The arrays and the control domain of a Coach -/

theorem csPGATED_ne_csCGATED : (csPGATED = csCGATED) = False := by decide

/-- With nothing deferred, a wake takes nothing off the list of those that wait. -/
theorem Dev.setPwr_deferred_nil {s : Dev} (hnone : s.pwr.deferred = []) (f : Nat → Bool) :
    (s.setPwr fun p => { p with deferred := p.deferred.filter f }) = s := by
  unfold Dev.setPwr
  dsimp only
  rw [hnone, List.filter_nil, ← hnone]

section
variable {n : Nat} (hnone : d.pwr.deferred = [])
include hnone

theorem Dev.wakeCoach_clockGated (hst : d.fld (Reg.CCH_CSTAT n) 0 3 = csCGATED) (hroom : d.pwr.woken < d.fld Reg.PWC_SLEW 0 7) :
    d.wakeCoach n true = (d.setFld (Reg.CCH_CSTAT n) 0 3 csRUN).setPwr fun p => { p with woken := p.woken + 1 } := by
  simp only [Dev.wakeCoach, hst, if_neg (Nat.not_le.mpr hroom), ne_eq, not_true_eq_false, decide_false, Bool.false_and,
    Bool.false_eq_true, if_false, if_true, Dev.setPwr, Dev.setFld, Dev.setReg, hnone, List.filter_nil]

/-- A wake beyond its limit is counted and waits. -/
theorem Dev.wakeCoach_clockGated_late (hst : d.fld (Reg.CCH_CSTAT n) 0 3 = csCGATED) (hfull : d.fld Reg.PWC_SLEW 0 7 ≤ d.pwr.woken) :
    d.wakeCoach n true = (d.bump Reg.PWC_CNT_WAKEDEFER 1).setPwr fun p => { p with deferred := [n] } := by
  simp only [Dev.wakeCoach, hst, if_pos hfull, ne_eq, not_true_eq_false, decide_false, Bool.false_and,
    Bool.false_eq_true, if_false, if_true, Dev.setPwr, Dev.bump, Dev.setReg, hnone, List.nil_append]

variable (hst : d.fld (Reg.CCH_CSTAT n) 0 3 = csPGATED)
include hst

theorem Dev.wakeCoach_powerGated (hfirst : d.pwr.wokenCl = none) : d.wakeCoach n true =
    ((d.setFld (Reg.CCH_CSTAT n) 0 3 csRUN).bump Reg.PWC_CNT_PGWAKE 1).setPwr fun p => { p with wokenCl := some (n / 4) } := by
  have hkeep := Dev.setPwr_deferred_nil (s := d.setFld (Reg.CCH_CSTAT n) 0 3 csRUN) hnone (· != n)
  simp only [Dev.wakeCoach, hst, csPGATED_ne_csCGATED, hfirst, ne_eq, not_true_eq_false, decide_false, Bool.and_false,
    Bool.false_eq_true, if_false, hkeep]

theorem Dev.wakeCoach_sameCluster (hsame : d.pwr.wokenCl = some (n / 4)) :
    d.wakeCoach n true = (d.setFld (Reg.CCH_CSTAT n) 0 3 csRUN).bump Reg.PWC_CNT_PGWAKE 1 := by
  have hkeep := Dev.setPwr_deferred_nil (s := d.setFld (Reg.CCH_CSTAT n) 0 3 csRUN) hnone (· != n)
  simp only [Dev.wakeCoach, hst, csPGATED_ne_csCGATED, hsame, ne_eq, not_true_eq_false, decide_false, Bool.and_false,
    Bool.false_eq_true, if_false, if_true, hkeep]

theorem Dev.wakeCoach_otherCluster {c : Nat} (hother : d.pwr.wokenCl = some c) (hne : c ≠ n / 4) :
    d.wakeCoach n true = (d.bump Reg.PWC_CNT_WAKEDEFER 1).setPwr fun p => { p with deferred := [n] } := by
  simp only [Dev.wakeCoach, hst, csPGATED_ne_csCGATED, hother, hne, ne_eq, not_true_eq_false, decide_false, Bool.and_false,
    Bool.false_eq_true, if_false, if_true, Dev.setPwr, Dev.bump, Dev.setReg, hnone, List.nil_append]

end

/-! ### The rows -/

section
variable (halive : d.alive = true)
include halive

theorem exec_domainWake_arrays {n : Nat} (hon : d.coachOn n = true) (hnone : d.pwr.deferred = []) :
    exec (.domainWake (.coachArrays n)) ⟨q, d⟩ = .next ⟨q, d.wakeCoach n true⟩ := by
  have hexec : exec (.domainWake (.coachArrays n)) ⟨q, d⟩ =
    .next ⟨q, if d.coachOn n && !d.pwr.deferred.contains n then d.wakeCoach n true else d⟩ := State.upd_of_alive q halive rfl
  rw [hexec, hon, hnone, if_pos (by rfl)]

theorem exec_domainWake_control {n : Nat} (hon : d.coachOn n = true) (hst : d.fld (Reg.CCH_CSTAT n) 0 3 = csPGATED)
    (hasleep : d.pwr.awake.contains n = false) : exec (.domainWake (.coachControl n)) ⟨q, d⟩ =
      .next ⟨q, (d.bump Reg.PWC_CNT_PGWAKE 1).setPwr fun p => { p with awake := p.awake ++ [n] }⟩ := by
  have hcond : (d.coachOn n && d.fld (Reg.CCH_CSTAT n) 0 3 == csPGATED && !d.pwr.awake.contains n) = true := by
    rw [hon, hst, hasleep]; rfl
  exact State.upd_of_alive q halive (if_pos hcond)

theorem exec_gateArrays {n : Nat} (hon : d.coachOn n = true) (hst : d.fld (Reg.CCH_CSTAT n) 0 3 = csCGATED)
    (hidle : d.fld Reg.PWC_GATECFG 0 16 ≠ 0) (hwaits : d.instWaits n = false) : exec (.powerGateIdle (.coachArrays n)) ⟨q, d⟩ =
      .next ⟨q, (d.setFld (Reg.CCH_CSTAT n) 0 3 csPGATED).setPwr fun p => { p with awake := p.awake.filter (· != n) }⟩ := by
  have hgated : d.condition (.coachArrays n) = .clockGated := by
    unfold Dev.condition Dev.cState
    dsimp only
    rw [hon, hst]
    rfl
  have hcond : (d.condition (.coachArrays n) == .clockGated && d.fld Reg.PWC_GATECFG 0 16 != 0 && !d.instWaits n) = true := by
    rw [hgated, hwaits]
    simpa using hidle
  exact State.upd_of_alive q halive (if_pos hcond)

theorem exec_domainWake_dsPort (p : Nat) : exec (.domainWake (.dsPort p)) ⟨q, d⟩ =
    .next ⟨q, if d.mayGate (.dsPort p) then d else d.ungate (.dsPort p)⟩ := by
  rw [show exec (.domainWake (.dsPort p)) ⟨q, d⟩ = execDomainWake (.dsPort p) ⟨q, d⟩ from rfl, execDomainWake, State.upd_alive halive]

theorem exec_domainWake_hitchPair (m : Nat) : exec (.domainWake (.hitchPair m)) ⟨q, d⟩ =
    .next ⟨q, if d.mayGate (.hitchPair m) then d else d.ungate (.hitchPair m)⟩ := by
  rw [show exec (.domainWake (.hitchPair m)) ⟨q, d⟩ = execDomainWake (.hitchPair m) ⟨q, d⟩ from rfl, execDomainWake,
    State.upd_alive halive]

/-- The domains other than those of a Coach that R510 gates one by one. -/
def pairDomains (k : Nat) : List Domain := [.postilion k, .hitchPair k, .dsPort k, .core k]

theorem exec_wakeDomain {k : Nat} : ∀ dm ∈ pairDomains k, d.pwr.gated.contains dm = true →
    ((∃ p, dm = .dsPort p ∨ dm = .hitchPair p) → d.mayGate dm = false) → exec (.domainWake dm) ⟨q, d⟩ =
      .next ⟨q, (d.bump Reg.PWC_CNT_PGWAKE 1).setPwr fun p => { p with gated := p.gated.filter (· != dm) }⟩ := by
  have hungate : ∀ dm, d.pwr.gated.contains dm = true → d.ungate dm =
      (d.bump Reg.PWC_CNT_PGWAKE 1).setPwr fun p => { p with gated := p.gated.filter (· != dm) } := fun dm hdm => if_pos hdm
  simp only [pairDomains, List.forall_mem_cons]
  refine ⟨fun hdm _ => State.upd_of_alive q halive (hungate _ hdm), fun hdm hmay => ?_, fun hdm hmay => ?_,
    fun hdm _ => State.upd_of_alive q halive (hungate _ hdm), by simp⟩
  · rw [exec_domainWake_hitchPair halive, if_neg (by rw [hmay ⟨k, .inr rfl⟩]; simp), hungate _ hdm]
  · rw [exec_domainWake_dsPort halive, if_neg (by rw [hmay ⟨k, .inl rfl⟩]; simp), hungate _ hdm]

theorem exec_gateDomain {k : Nat} : ∀ dm ∈ pairDomains k, d.pwr.gated.contains dm = false → d.mayGate dm = true →
    exec (.powerGateIdle dm) ⟨q, d⟩ = .next ⟨q, d.setPwr fun p => { p with gated := p.gated ++ [dm] }⟩ := by
  have hgate : ∀ dm, d.pwr.gated.contains dm = false → d.mayGate dm = true →
      (if d.mayGate dm && !d.pwr.gated.contains dm then d.setPwr fun p => { p with gated := p.gated ++ [dm] } else d) =
        d.setPwr fun p => { p with gated := p.gated ++ [dm] } := fun dm hdm hmay => if_pos (by rw [hdm, hmay]; rfl)
  simp only [pairDomains, List.forall_mem_cons]
  exact ⟨fun hdm hmay => State.upd_of_alive q halive (hgate _ hdm hmay), fun hdm hmay => State.upd_of_alive q halive (hgate _ hdm hmay),
    fun hdm hmay => State.upd_of_alive q halive (hgate _ hdm hmay), fun hdm hmay => State.upd_of_alive q halive (hgate _ hdm hmay),
    by simp⟩

/-- A port held in reset and a pair of Hitches out of use stay gated. -/
theorem exec_wakeHeld {p : Nat} : ∀ dm ∈ [Domain.dsPort p, .hitchPair p], d.mayGate dm = true →
    exec (.domainWake dm) ⟨q, d⟩ = .next ⟨q, d⟩ := by
  simp only [List.forall_mem_cons]
  exact ⟨fun hmay => by rw [exec_domainWake_dsPort halive, if_pos hmay],
    fun hmay => by rw [exec_domainWake_hitchPair halive, if_pos hmay], by simp⟩

theorem exec_wakeWindow (hnone : d.pwr.deferred = []) :
    exec (.wakeWindow true) ⟨q, d⟩ = .next ⟨q, d.setPwr fun p => { p with wokenCl := none }⟩ ∧
    exec (.wakeWindow false) ⟨q, d⟩ = .next ⟨q, d.setPwr fun p => { p with woken := 0 }⟩ := by
  have hopen : ∀ cluster, exec (.wakeWindow cluster) ⟨q, d⟩ =
      .next ⟨q, d.setPwr fun p => if cluster then { p with wokenCl := none } else { p with woken := 0 }⟩ := fun cluster => by
    have hdeferred : (d.setPwr fun p => if cluster then { p with wokenCl := none } else { p with woken := 0 }).pwr.deferred = [] := by
      cases cluster <;> exact hnone
    rw [show exec (.wakeWindow cluster) ⟨q, d⟩ = execWakeWindow cluster ⟨q, d⟩ from rfl, execWakeWindow, State.upd_alive halive]
    dsimp only
    rw [hdeferred]
    rfl
  exact ⟨hopen true, hopen false⟩

end

/-! ### The trip -/

/-- A rail out of range or a write of a voltage not acknowledged trips the device (R517, R578). -/
theorem exec_trips (hrun : d.grd.stage = .run) (htrip : d.pwr.trip = 0) (r : Nat) : ∀ i ∈ [Instr.railOutOfRange r, .vidWriteFail r],
    ∀ s, s = (d.emit (.thermtrip true)).record clsGUARD 0x030 (3 + r * 2 ^ 8) 0 blkGRD 0 → exec i ⟨q, d⟩ = .next ⟨q,
      ((((if d.toSeal = true then s.seal 3 else s).dropWork.setFld Reg.PWC_STAT 8 3 3).setFld Reg.GRD_BOOTSTAT 0 4 8).setPwr fun p =>
        { p with trip := 1 })⟩ := by
  have hdev : ∀ s, s = (d.emit (.thermtrip true)).record clsGUARD 0x030 (3 + r * 2 ^ 8) 0 blkGRD 0 → d.tripDev 3 r =
      ((((if d.toSeal = true then s.seal 3 else s).dropWork.setFld Reg.PWC_STAT 8 3 3).setFld Reg.GRD_BOOTSTAT 0 4 8).setPwr fun p =>
        { p with trip := 1 }) := by
    intro s hs
    have hseal : s.toSeal = d.toSeal := by
      rw [hs]
      unfold Dev.toSeal Dev.jobState
      rw [Dev.fld_congr (Dev.reg_record_lt _ _ _ _ _ _ _ (by decide)), Dev.record_grd]
      rfl
    unfold Dev.tripDev
    rw [if_neg (by simp [hrun, htrip]), ← hs]
    dsimp only
    rw [Dev.sealIfJob, hseal]
  intro i hi s hs
  have hexec : exec i ⟨q, d⟩ = .next ⟨q, d.tripDev 3 r⟩ := by
    rcases List.mem_cons.mp hi with rfl | hi
    · rfl
    · rw [List.mem_singleton.mp hi]; rfl
  rw [hexec, hdev s hs]

/-- The ports that ran are held in reset with their clock stopped. -/
theorem Dev.outs_dsHolds (ps : List Nat) (s : Dev) :
    (s.each ps Dev.dsHold).outs = s.outs ++ ps.flatMap fun p => [.dsPerst p true, .dsRefclk p false] := by
  induction ps generalizing s with
  | nil => simp [Dev.each]
  | cons p ps ih => exact (ih _).trans (by simp [Dev.dsHold])

/-- The arrays of the Coaches in service as the gating of a trip leaves them: power-gated, with no other register changed. -/
def Dev.arraysGated (s : Dev) (ns : List Nat) : Dev := s.each ns fun s n => s.setFld (Reg.CCH_CSTAT n) 0 8 csPGATED

theorem Dev.reg_arraysGated (s : Dev) (ns : List Nat) {k : Nat} (hk : ∀ n ∈ ns, k ≠ Reg.CCH_CSTAT n) :
    (s.arraysGated ns).reg k = s.reg k := by
  refine Dev.each_keeps_of_mem (P := fun t => t.reg k = s.reg k) rfl fun u n hn hu => ?_
  rw [Dev.reg_setFld_ne _ _ _ _ (hk n hn), hu]

theorem Dev.frame_arraysGated (s : Dev) (ns : List Nat) : (s.arraysGated ns).mem = s.mem ∧ (s.arraysGated ns).outs = s.outs :=
  ⟨Dev.each_same (f := fun s n => s.setFld (Reg.CCH_CSTAT n) 0 8 csPGATED) Dev.mem (fun _ _ => rfl) ns s,
    Dev.each_same (f := fun s n => s.setFld (Reg.CCH_CSTAT n) 0 8 csPGATED) Dev.outs (fun _ _ => rfl) ns s⟩

theorem Dev.fld_arraysGated (s : Dev) {ns : List Nat} {n : Nat} (hn : n ∈ ns) (hns : ns.Nodup) :
    (s.arraysGated ns).fld (Reg.CCH_CSTAT n) 0 8 = csPGATED := by
  refine Dev.each_own (v := fun t => t.fld (Reg.CCH_CSTAT n) 0 8) (g := fun _ => csPGATED) hns hn (fun u => ?_) fun u b hb hbn => ?_
  · exact Dev.fld_setFld_same u _ _ (by decide)
  · refine Dev.fld_setFld_ne u _ _ _ _ _ ?_
    unfold Reg.CCH_CSTAT
    omega

/-- The device of a trip with its memory lost and its ports held, and the Coaches of one that are in service. -/
def Dev.tripLost (s : Dev) : Dev :=
  (s.zeroMem false).each ((List.range 2).filter fun p => !s.pwr.gated.contains (.dsPort p)) Dev.dsHold
def Dev.coachesOn (s : Dev) : List Nat := (List.range 64).filter s.coachOn

/-- TRIP_DOMAINS_GATED: the memory is lost, every domain is gated, and only the state of the Coaches in service changes. -/
theorem exec_tripDomainsGated (htrip : d.pwr.trip = 1) : ∃ t, exec .tripDomainsGated ⟨q, d⟩ = .next ⟨q, t⟩ ∧ t.pwr.trip = 2 ∧
    t.pwr.gated = gateable ∧ t.pwr.awake = [] ∧ (∀ k, scrubbed false k = true → t.rd k = 0) ∧
    (∀ n, d.coachOn n = true → t.fld (Reg.CCH_CSTAT n) 0 8 = csPGATED) ∧
    (∀ k, (∀ n, n < 64 → k ≠ Reg.CCH_CSTAT n) → t.reg k = d.reg k) ∧
    t.outs = d.outs ++ ((List.range 2).filter fun p => !d.pwr.gated.contains (.dsPort p)).flatMap fun p =>
      [.dsPerst p true, .dsRefclk p false] := by
  have hexec : exec .tripDomainsGated ⟨q, d⟩ =
      .next ⟨q, (d.tripLost.arraysGated d.tripLost.coachesOn).setPwr fun p => { p with trip := 2, gated := gateable, awake := [] }⟩ :=
    congrArg (fun t => (.next ⟨q, t⟩ : Host.Outcome State Fault Refusal)) (if_neg (not_not.mpr htrip))
  have hregs : d.tripLost.regs = d.regs := Dev.each_same (f := Dev.dsHold) Dev.regs (fun _ _ => rfl) _ _
  have hmem : (d.tripLost.arraysGated d.tripLost.coachesOn).mem = (d.zeroMem false).mem :=
    (Dev.frame_arraysGated _ _).1.trans (Dev.each_same (f := Dev.dsHold) Dev.mem (fun _ _ => rfl) _ _)
  have hon : ∀ n, d.tripLost.coachOn n = d.coachOn n := fun n => by unfold Dev.coachOn; rw [Dev.reg_congr hregs]
  have hlt : ∀ n ∈ d.tripLost.coachesOn, n < 64 := fun n hn => List.mem_range.mp (List.mem_filter.mp hn).1
  refine ⟨_, hexec, rfl, rfl, rfl, fun k hk => ?_, fun n hn => ?_, fun k hk => ?_, ?_⟩
  · exact (Dev.rd_congr hmem k).trans (by rw [Dev.rd_zeroMem, if_pos hk])
  · have hbound : n < 64 := by
      unfold Dev.coachOn at hn
      simp only [Bool.and_eq_true, decide_eq_true_eq] at hn
      exact hn.1
    exact Dev.fld_arraysGated _ (List.mem_filter.mpr ⟨List.mem_range.mpr hbound, (hon n).trans hn⟩) (List.nodup_range.filter _)
  · exact (Dev.reg_arraysGated _ _ fun n hn => hk n (hlt n hn)).trans (Dev.reg_congr hregs k)
  · exact (Dev.frame_arraysGated _ _).2.trans (Dev.outs_dsHolds _ _)

theorem exec_tripRailsOff (htrip : d.pwr.trip = 2) : exec .tripRailsOff ⟨q, d⟩ = .next ⟨q,
    ((((d.setVid 0 0).setVid 1 0).setVid 2 0).setFlag Reg.PWC_STAT 7 true).setPwr fun p => { p with trip := 3 }⟩ :=
  congrArg (fun t => (.next ⟨q, t⟩ : Host.Outcome State Fault Refusal)) (if_neg (not_not.mpr htrip))

end

/-- Settles O45: each wake, gate and trip is a branch of its row. -/
theorem wakesGatesAndTrips : Obligations.WakesGatesAndTrips := by
  intro q d
  refine ⟨fun halive => ⟨fun n hon hnone late hlate => ⟨fun hst => ⟨fun hroom => ?_, fun hfull => ?_⟩,
      fun hst => ⟨fun hfirst => ?_, fun hsame => ?_, fun c hother hne => ?_⟩, exec_domainWake_control halive hon,
      exec_gateArrays halive hon⟩,
      fun k dm hdm => ⟨exec_wakeDomain halive dm hdm, exec_gateDomain halive dm hdm⟩, fun p => exec_wakeHeld halive,
      exec_wakeWindow halive⟩,
    fun hrun htrip => exec_trips hrun htrip, exec_tripDomainsGated, exec_tripRailsOff⟩
  · rw [exec_domainWake_arrays halive hon hnone, Dev.wakeCoach_clockGated hnone hst hroom]
  · rw [exec_domainWake_arrays halive hon hnone, Dev.wakeCoach_clockGated_late hnone hst hfull, hlate]
  · rw [exec_domainWake_arrays halive hon hnone, Dev.wakeCoach_powerGated hnone hst hfirst]
  · rw [exec_domainWake_arrays halive hon hnone, Dev.wakeCoach_sameCluster hnone hst hsame]
  · rw [exec_domainWake_arrays halive hon hnone, Dev.wakeCoach_otherCluster hnone hst hother hne, hlate]

end Sys2Proof.Machine
end

section
/-! The power loops, the telemetry and the temperature sensors (R507, R515 to R525): the duty and its fill first, then each row. -/
namespace Sys2Proof.Machine

-- The short theorems below are elaborated one after another: side by side, their threads' stacks exceed the memory of the check.
set_option Elab.async false

section
variable {q : List Instr} {s d : Dev}

/-! ### A field written with what it holds -/

theorem setBits_bits_self (x lo w : Nat) : setBits x lo w (bits x lo w) = x := by
  have hlow := Nat.div_add_mod x (2 ^ lo)
  have hhigh := Nat.div_add_mod (x / 2 ^ lo) (2 ^ w)
  have hsplit : x / 2 ^ (lo + w) = x / 2 ^ lo / 2 ^ w := by rw [Nat.pow_add, Nat.div_div_eq_div_mul]
  rw [setBits_eq, hsplit, bits, Nat.mod_mod, Nat.pow_add]
  calc x / 2 ^ lo / 2 ^ w * (2 ^ lo * 2 ^ w) + x / 2 ^ lo % 2 ^ w * 2 ^ lo + x % 2 ^ lo
      = 2 ^ lo * (2 ^ w * (x / 2 ^ lo / 2 ^ w) + x / 2 ^ lo % 2 ^ w) + x % 2 ^ lo := by ring
    _ = x := by rw [hhigh, hlow]

/-- A flag written with its own value leaves its register. -/
theorem Dev.reg_setFlag_self (s : Dev) (off i k : Nat) (b : Bool) (h : s.flag off i = b) : (s.setFlag off i b).reg k = s.reg k := by
  by_cases hk : k = off
  · subst hk
    have hbits : b.toNat = bits (s.reg k) i 1 := by
      have hlt := bits_lt (s.reg k) i 1
      rw [← h, Dev.flag_eq_fld, Dev.fld]
      rcases Nat.lt_or_ge (bits (s.reg k) i 1) 1 with h0 | h1
      · simp [show bits (s.reg k) i 1 = 0 by omega]
      · simp [show bits (s.reg k) i 1 = 1 by omega]
    unfold Dev.setFlag
    rw [Dev.reg_setFld_same, hbits, setBits_bits_self, Nat.mod_eq_of_lt (Dev.reg_lt s k)]
  · exact Dev.reg_setFlag_ne s _ _ hk

/-! ### The duty -/

/-- What a change of the duty may touch: PWC_STAT, the fill of the Coaches, and the verdicts that are due. -/
structure Dev.DutySet (s t : Dev) : Prop where
  frame : t = { s with regs := t.regs, cch := { s.cch with out := t.cch.out } }
  regs : ∀ k, k ≠ Reg.PWC_STAT → (∀ n, k ≠ Reg.CCH_CSTAT n) → t.reg k = s.reg k

theorem Dev.dutySet_fills (s : Dev) (ns : List Nat) : s.DutySet (s.each ns Dev.fillDuty) ∧
    (s.each ns Dev.fillDuty).reg Reg.PWC_STAT = s.reg Reg.PWC_STAT := by
  refine Dev.each_keeps (P := fun t => s.DutySet t ∧ t.reg Reg.PWC_STAT = s.reg Reg.PWC_STAT) ⟨⟨rfl, fun _ _ _ => rfl⟩, rfl⟩ ?_
  rintro u n ⟨⟨hframe, hregs⟩, hstat⟩
  have hfill : ∀ k, k ≠ Reg.CCH_CSTAT n → (u.fillDuty n).reg k = u.reg k := fun k hk => by
    rw [Dev.fillDuty_eq, Dev.reg_setCch]
    exact Dev.reg_setFld_ne u _ _ _ hk
  refine ⟨⟨?_, fun k hk hk' => (hfill k (hk' n)).trans (hregs k hk hk')⟩, (hfill _ ?_).trans hstat⟩
  · rw [Dev.fillDuty_eq, hframe]
    rfl
  · unfold Reg.PWC_STAT Reg.CCH_CSTAT
    omega

theorem Dev.dutySet_setDuty (s : Dev) (v : Nat) : s.DutySet (s.setDuty v) ∧
    (s.setDuty v).reg Reg.PWC_STAT = (s.setFld Reg.PWC_STAT 0 4 v).reg Reg.PWC_STAT := by
  have hset : ∀ k, k ≠ Reg.PWC_STAT → (s.setFld Reg.PWC_STAT 0 4 v).reg k = s.reg k := fun k hk => Dev.reg_setFld_ne s _ _ _ hk
  unfold Dev.setDuty
  dsimp only
  split
  · exact ⟨⟨rfl, fun k hk _ => hset k hk⟩, rfl⟩
  · obtain ⟨⟨hframe, hregs⟩, hstat⟩ :=
      Dev.dutySet_fills (s.setFld Reg.PWC_STAT 0 4 v) ((s.setFld Reg.PWC_STAT 0 4 v).cch.gaps.map (·.1))
    exact ⟨⟨hframe, fun k hk hk' => (hregs k hk hk').trans (hset k hk)⟩, hstat⟩

theorem Dev.duty_setDuty (s : Dev) {v : Nat} (hv : v < 16) : (s.setDuty v).duty = v := by
  obtain ⟨-, hstat⟩ := s.dutySet_setDuty v
  unfold Dev.duty
  rw [Dev.fld_congr hstat, Dev.fld_setFld_same _ _ _ (by decide)]
  exact Nat.mod_eq_of_lt hv

/-- With no Coach in a gap only the duty changes. -/
theorem Dev.setDuty_of_no_gap (h : s.cch.gaps = []) (v : Nat) : s.setDuty v = s.setFld Reg.PWC_STAT 0 4 v := by
  unfold Dev.setDuty
  dsimp only
  rw [show (s.setFld Reg.PWC_STAT 0 4 v).cch.gaps = [] from h]
  split <;> rfl

/-- Fill does not change where the duty stays below 8. -/
theorem Dev.setDuty_of_below (h : s.duty ≠ 8) {v : Nat} (hv : v ≠ 8) : s.setDuty v = s.setFld Reg.PWC_STAT 0 4 v :=
  if_pos (by simp [h, hv])

theorem csStat_ne_of_lt {k : Nat} (hk : k < 0x401000) (n : Nat) : k ≠ Reg.CCH_CSTAT n := by
  unfold Reg.CCH_CSTAT
  omega

theorem Dev.reg_setDuty (s : Dev) (v : Nat) {k : Nat} (hk : k ≠ Reg.PWC_STAT) (hlt : k < 0x401000) :
    (s.setDuty v).reg k = s.reg k := (s.dutySet_setDuty v).1.regs k hk (csStat_ne_of_lt hlt)

theorem Dev.fld_setDuty_stat (s : Dev) (v : Nat) {lo w : Nat} (hlo : 4 ≤ lo) (hw : lo + w ≤ 64) :
    (s.setDuty v).fld Reg.PWC_STAT lo w = s.fld Reg.PWC_STAT lo w := by
  rw [Dev.fld_congr (s.dutySet_setDuty v).2, Dev.fld_setFld_above _ _ _ (by omega) hw]

theorem Dev.frame_setDuty (s : Dev) (v : Nat) : (s.setDuty v).pwr = s.pwr ∧ (s.setDuty v).log = s.log ∧ (s.setDuty v).grd = s.grd ∧
    (s.setDuty v).ns = s.ns := by
  obtain ⟨⟨hframe, -⟩, -⟩ := s.dutySet_setDuty v
  rw [hframe]
  exact ⟨rfl, rfl, rfl, rfl⟩

/-! ### LIMITED -/

theorem Dev.limited_below (hfast : s.pwr.fastLim = false) (hslow : s.pwr.slowLim = false) :
    s.limited = s.setFlag Reg.PWC_STAT 4 false := by
  simp only [Dev.limited, hfast, hslow, Bool.or_self, Bool.false_and, Bool.false_eq_true, if_false]

/-- At the floor LIMITED is set, and recorded where it was not. -/
theorem Dev.limited_floor (hfast : s.pwr.fastLim = true) (hslow : s.pwr.slowLim = false) (hwas : s.flag Reg.PWC_STAT 4 = false) :
    s.limited = (s.setFlag Reg.PWC_STAT 4 true).record clsGUARD 0x035 1 0 blkGRD 0 := by
  have hpwr : (s.setFlag Reg.PWC_STAT 4 true).pwr = s.pwr := rfl
  simp only [Dev.limited, hfast, hslow, hwas, hpwr, Bool.or_false, Bool.true_and, Bool.not_false, if_true]
  rfl

theorem Dev.reg_limited (s : Dev) {k : Nat} (hk : k ≠ Reg.PWC_STAT) (hlt : k < 0x1000000) : s.limited.reg k = s.reg k := by
  have hset := fun b => Dev.reg_setFlag_ne s 4 b hk
  unfold Dev.limited
  dsimp only
  split
  · exact (Dev.reg_record_lt _ _ _ _ _ _ _ hlt).trans (hset _)
  · exact hset _

theorem Dev.pwr_limited (s : Dev) : s.limited.pwr = s.pwr := by
  unfold Dev.limited
  dsimp only
  split
  · rw [Dev.record_pwr]
    rfl
  · rfl

theorem Dev.fld_limited (s : Dev) {lo w : Nat} (hlo : lo + w ≤ 4) : s.limited.fld Reg.PWC_STAT lo w = s.fld Reg.PWC_STAT lo w := by
  have hset : ∀ b : Bool, (s.setFlag Reg.PWC_STAT 4 b).fld Reg.PWC_STAT lo w = s.fld Reg.PWC_STAT lo w := fun b =>
    Dev.fld_setFld_below s _ _ hlo (by omega)
  unfold Dev.limited
  dsimp only
  split
  · rw [Dev.fld_congr (Dev.reg_record_lt _ _ _ _ _ _ _ (by decide)), hset]
  · exact hset _

theorem Dev.flag_limited (s : Dev) : s.limited.flag Reg.PWC_STAT 4 = (s.pwr.fastLim || s.pwr.slowLim) := by
  have hset : ∀ b : Bool, (s.setFlag Reg.PWC_STAT 4 b).flag Reg.PWC_STAT 4 = b := fun b => Dev.flag_setFlag_same s _ _ (by decide)
  unfold Dev.limited
  dsimp only
  split
  · rw [Dev.flag_congr (Dev.reg_record_lt _ _ _ _ _ _ _ (by decide)), hset]
  · exact hset _

/-! ### The fast loop -/

/-- The fast loop raises the duty: nothing holds it, the estimate fits, and so does the prediction with its hysteresis. -/
def Dev.fastRises (d : Dev) (est pred : Nat) : Bool :=
  !(d.flag Reg.PWC_STAT 6 || d.pwr.forced) && decide (est ≤ d.plFast) && decide (d.duty < 8) &&
    decide (pred + d.fld Reg.PWC_THR 0 8 ≤ d.plFast) && decide (10 ≤ min (d.pwr.sinceUp + 1) 10)

/-- The duty that a fast tick leaves. -/
def Dev.fastDuty (d : Dev) (est pred : Nat) : Nat :=
  if d.flag Reg.PWC_STAT 6 || d.pwr.forced then 1 else if d.plFast < est then max 1 (d.duty - 1)
  else if d.fastRises est pred then d.duty + 1 else d.duty

/-- A fast tick with the duty `v`, the microseconds `up` since its last rise, and whether the loop is stuck at the floor. -/
def Dev.fastStepped (d : Dev) (v up : Nat) (stuck : Bool) : Dev :=
  let t := (d.setDuty v).setPwr fun p => { p with sinceUp := up, fastLim := stuck }
  (if v < 8 then t.bump Reg.PWC_CNT_FASTUS 1 else t).limited

theorem exec_fastLoopTick (hrun : d.grd.stage = .run) (est pred : Nat) : exec (.fastLoopTick est pred) ⟨q, d⟩ = .next ⟨q,
    d.fastStepped (d.fastDuty est pred) (if d.fastRises est pred then 0 else min (d.pwr.sinceUp + 1) 10)
      (d.atFloor && decide (d.plFast < est))⟩ := by
  rw [show exec (.fastLoopTick est pred) ⟨q, d⟩ = execFastLoopTick est pred ⟨q, d⟩ from rfl, execFastLoopTick, State.always, if_pos hrun]
  rfl

section
variable (d) (v up : Nat) (stuck : Bool)

theorem Dev.fastStepped_duty (hv : v < 16) : (d.fastStepped v up stuck).duty = v := by
  refine (Dev.fld_limited _ (by decide)).trans ?_
  split
  · exact (Dev.fld_bump_ne _ _ _ _ (by decide)).trans (Dev.duty_setDuty d hv)
  · exact Dev.duty_setDuty d hv

theorem Dev.fastStepped_fastus : (d.fastStepped v up stuck).reg Reg.PWC_CNT_FASTUS =
    (d.reg Reg.PWC_CNT_FASTUS + if v < 8 then 1 else 0) % 2 ^ 64 := by
  have hkeep := Dev.reg_setDuty d v (k := Reg.PWC_CNT_FASTUS) (by decide) (by decide)
  refine (Dev.reg_limited _ (by decide) (by decide)).trans ?_
  split
  · rw [Dev.reg_bump_same, Dev.reg_setPwr, hkeep]
  · rw [Dev.reg_setPwr, hkeep, Nat.add_zero, Nat.mod_eq_of_lt (Dev.reg_lt d _)]

theorem Dev.fastStepped_pwr : (d.fastStepped v up stuck).pwr = { d.pwr with sinceUp := up, fastLim := stuck } := by
  refine (Dev.pwr_limited _).trans ?_
  rw [← (d.frame_setDuty v).1]
  split <;> rfl

theorem Dev.fastStepped_limited : (d.fastStepped v up stuck).flag Reg.PWC_STAT 4 = (stuck || d.pwr.slowLim) := by
  refine (Dev.flag_limited _).trans ?_
  rw [← (d.frame_setDuty v).1]
  split <;> rfl

end

/-- What a fast tick touches where nothing is stuck and no Coach is in a gap. -/
theorem Dev.fastStepped_only (hgaps : d.cch.gaps = []) (hslow : d.pwr.slowLim = false) (v up : Nat) :
    d.OnlyRegs { d.fastStepped v up false with pwr := d.pwr } [Reg.PWC_STAT, Reg.PWC_CNT_FASTUS] := by
  have hstep : d.fastStepped v up false = ((if v < 8 then ((d.setFld Reg.PWC_STAT 0 4 v).setPwr fun p =>
      { p with sinceUp := up, fastLim := false }).bump Reg.PWC_CNT_FASTUS 1 else (d.setFld Reg.PWC_STAT 0 4 v).setPwr fun p =>
      { p with sinceUp := up, fastLim := false }).setFlag Reg.PWC_STAT 4 false) := by
    unfold Dev.fastStepped
    rw [Dev.setDuty_of_no_gap hgaps]
    dsimp only
    split <;> exact Dev.limited_below rfl hslow
  refine ⟨?_, fun k hk => ?_⟩
  · rw [hstep]
    split <;> rfl
  · simp only [List.mem_cons, List.not_mem_nil, or_false, not_or] at hk
    obtain ⟨hstat, hfast⟩ := hk
    have hset := Dev.reg_setFld_ne d 0 4 v hstat
    rw [show ({ d.fastStepped v up false with pwr := d.pwr } : Dev).reg k = (d.fastStepped v up false).reg k from rfl, hstep,
      Dev.reg_setFlag_ne _ _ _ hstat]
    split
    · rw [Dev.reg_bump_ne _ _ hfast, Dev.reg_setPwr, hset]
    · rw [Dev.reg_setPwr, hset]

/-- A tick above PL_FAST lowers the duty from 2 or more, and nothing is limited. -/
theorem exec_fastLoop_lowers (hrun : d.grd.stage = .run) {est pred : Nat} (hpin : d.flag Reg.PWC_STAT 6 = false)
    (hforced : d.pwr.forced = false) (hslow : d.pwr.slowLim = false) (hlo : 2 ≤ d.duty) (hhi : d.duty ≤ 8) (hover : d.plFast < est) :
    ∃ t, exec (.fastLoopTick est pred) ⟨q, d⟩ = .next ⟨q, t⟩ ∧ t.duty = d.duty - 1 ∧ t.flag Reg.PWC_STAT 4 = false ∧
      t.reg Reg.PWC_CNT_FASTUS = (d.reg Reg.PWC_CNT_FASTUS + 1) % 2 ^ 64 ∧
      (d.cch.gaps = [] → d.OnlyRegs { t with pwr := d.pwr } [Reg.PWC_STAT, Reg.PWC_CNT_FASTUS]) := by
  have hduty : d.fastDuty est pred = d.duty - 1 := by
    unfold Dev.fastDuty
    rw [hpin, hforced, if_neg (by simp), if_pos hover]
    omega
  have hfloor : (d.atFloor && decide (d.plFast < est)) = false := by
    have hne : (d.duty == 1) = false := by rw [beq_eq_false_iff_ne]; omega
    rw [Dev.atFloor, hne, Bool.false_and, Bool.false_and]
  refine ⟨_, exec_fastLoopTick hrun est pred, ?_⟩
  rw [hduty, hfloor]
  refine ⟨Dev.fastStepped_duty d _ _ _ (by omega), by rw [Dev.fastStepped_limited, hslow]; rfl, ?_,
    fun hgaps => Dev.fastStepped_only hgaps hslow _ _⟩
  rw [Dev.fastStepped_fastus, if_pos (by omega)]

/-- A tick at or below PL_FAST whose prediction leaves HYST, 10 µs after the last rise. -/
theorem exec_fastLoop_raises (hrun : d.grd.stage = .run) {est pred : Nat} (hpin : d.flag Reg.PWC_STAT 6 = false)
    (hforced : d.pwr.forced = false) (hfits : est ≤ d.plFast) (hduty : d.duty < 8) (hpred : pred + d.fld Reg.PWC_THR 0 8 ≤ d.plFast)
    (hsince : 9 ≤ d.pwr.sinceUp) : ∃ t, exec (.fastLoopTick est pred) ⟨q, d⟩ = .next ⟨q, t⟩ ∧ t.duty = d.duty + 1 ∧
      t.pwr.sinceUp = 0 := by
  have hrises : d.fastRises est pred = true := by
    have hten : 10 ≤ min (d.pwr.sinceUp + 1) 10 := by omega
    simp only [Dev.fastRises, hpin, hforced, hfits, hduty, hpred, hten, Bool.or_self, Bool.not_false, decide_true, Bool.and_self]
  have hnew : d.fastDuty est pred = d.duty + 1 := by
    unfold Dev.fastDuty
    rw [hpin, hforced, if_neg (by simp), if_neg (by omega), if_pos hrises]
  refine ⟨_, exec_fastLoopTick hrun est pred, ?_⟩
  rw [hnew, hrises]
  exact ⟨Dev.fastStepped_duty d _ _ _ (by omega), congrArg Power.sinceUp (Dev.fastStepped_pwr d _ _ _)⟩

/-- A tick at or below PL_FAST whose prediction does not leave HYST keeps the duty. -/
theorem exec_fastLoop_keeps (hrun : d.grd.stage = .run) {est pred : Nat} (hpin : d.flag Reg.PWC_STAT 6 = false)
    (hforced : d.pwr.forced = false) (hhi : d.duty ≤ 8) (hfits : est ≤ d.plFast) (hpred : d.plFast < pred + d.fld Reg.PWC_THR 0 8) :
    ∃ t, exec (.fastLoopTick est pred) ⟨q, d⟩ = .next ⟨q, t⟩ ∧ t.duty = d.duty ∧
      t.reg Reg.PWC_CNT_FASTUS = (d.reg Reg.PWC_CNT_FASTUS + if d.duty < 8 then 1 else 0) % 2 ^ 64 := by
  have hrises : d.fastRises est pred = false := by
    simp only [Dev.fastRises, decide_eq_false (Nat.not_le.mpr hpred), Bool.and_false, Bool.false_and]
  have hnew : d.fastDuty est pred = d.duty := by
    unfold Dev.fastDuty
    rw [hpin, hforced, if_neg (by simp), if_neg (by omega), hrises, if_neg (by simp)]
  refine ⟨_, exec_fastLoopTick hrun est pred, ?_⟩
  rw [hnew]
  exact ⟨Dev.fastStepped_duty d _ _ _ (by omega), Dev.fastStepped_fastus d _ _ _⟩

/-- At d = 1 a tick above PL_FAST stays there, and at the floor it is limited and recorded (R522). -/
theorem exec_fastLoop_floor (hrun : d.grd.stage = .run) {est pred : Nat} (hduty : d.duty = 1) (hover : d.plFast < est) :
    ∃ t, exec (.fastLoopTick est pred) ⟨q, d⟩ = .next ⟨q, t⟩ ∧ t.duty = 1 ∧
      ((∀ c, c < 16 → d.arrayStep c = 4) → d.flag Reg.PWC_STAT 4 = false → d.pwr.slowLim = false →
        t.flag Reg.PWC_STAT 4 = true ∧ d.Recorded t clsGUARD 0x035 1 0 blkGRD 0) := by
  have hnew : d.fastDuty est pred = 1 := by
    unfold Dev.fastDuty
    rw [hduty, if_pos hover]
    exact ite_self _
  refine ⟨_, exec_fastLoopTick hrun est pred, ?_⟩
  rw [hnew]
  refine ⟨Dev.fastStepped_duty d _ _ _ (by decide), fun hsteps hwas hslow => ?_⟩
  have hfloor : (d.atFloor && decide (d.plFast < est)) = true := by
    have hall : (List.range 16).all (fun c => d.arrayStep c == 4) = true := by
      simpa using hsteps
    rw [Dev.atFloor, hduty, hall, decide_eq_true hover]
    rfl
  rw [hfloor]
  refine ⟨by rw [Dev.fastStepped_limited]; rfl, ?_⟩
  generalize (if d.fastRises est pred then 0 else min (d.pwr.sinceUp + 1) 10) = up
  obtain ⟨s, hs⟩ : ∃ s, s = ((d.setFld Reg.PWC_STAT 0 4 1).setPwr fun p => { p with sinceUp := up, fastLim := true }).bump
    Reg.PWC_CNT_FASTUS 1 := ⟨_, rfl⟩
  have hstep : d.fastStepped 1 up true = s.limited := by
    unfold Dev.fastStepped
    rw [Dev.setDuty_of_below (by rw [hduty]; decide) (by decide), hs]
    rfl
  have hwas' : s.flag Reg.PWC_STAT 4 = false := by
    rw [hs, Dev.flag_bump_ne _ _ _ (by decide), Dev.flag_congr (Dev.reg_setPwr ..), ← hwas, Dev.flag_eq_fld, Dev.flag_eq_fld,
      Dev.fld_setFld_above _ _ _ (by decide) (by decide)]
  rw [hstep, Dev.limited_floor (by rw [hs]; rfl) (by rw [hs]; exact hslow) hwas']
  refine (Dev.recorded_record ..).from_congr (by rw [hs]; rfl) (fun k hk _ => ?_) (by decide)
  rw [Dev.reg_setFlag_ne _ _ _ (by unfold Reg.PWC_STAT; omega), hs, Dev.reg_bump_ne _ _ (by unfold Reg.PWC_CNT_FASTUS; omega),
    Dev.reg_setPwr, Dev.reg_setFld_ne _ _ _ _ (by unfold Reg.PWC_STAT; omega)]


/-! ### The slow loop -/

/-- The sample of a slow tick enters the energy meter and the history; the loops' own state stays. -/
structure Dev.Sampled (s t : Dev) : Prop where
  regs : ∀ k, k ≠ Reg.GRD_MTR_ENERGY → t.reg k = s.reg k
  target : t.pwr.target = s.pwr.target
  fast : t.pwr.fastLim = s.pwr.fastLim
  hot : t.pwr.hot = s.pwr.hot
  win : t.pwr.winUs = s.pwr.winUs
  low : t.pwr.lowTicks = s.pwr.lowTicks

theorem Dev.sampled_slowSample (s : Dev) (est : List Nat) : s.Sampled (s.slowSample est) := by
  unfold Dev.slowSample Dev.energy Dev.meter
  dsimp only
  split
  · exact ⟨fun _ _ => rfl, rfl, rfl, rfl, rfl, rfl⟩
  · split
    · exact ⟨fun k hk => Dev.reg_bump_ne s _ hk, rfl, rfl, rfl, rfl, rfl⟩
    · exact ⟨fun _ _ => rfl, rfl, rfl, rfl, rfl, rfl⟩

/-- The step that a cluster goes to from step `k`: slower or faster. -/
def stepTo (down : Bool) (k : Nat) : Nat := if down then min 4 (k + 1) else k - 1

theorem Dev.voltFit_frame (s : Dev) : ∃ outs vid, s.voltFit = { s with outs := outs, pwr := { s.pwr with vid := vid } } := by
  unfold Dev.voltFit
  dsimp only
  split
  · exact ⟨_, _, rfl⟩
  · exact ⟨_, _, rfl⟩

/-- The clusters that have a step to go. -/
def Dev.stepsLeft (s : Dev) (down : Bool) : List (Nat × Nat) :=
  ((List.range 16).map fun c => (c, stepTo down (s.stepGoal c))).filter fun x => x.2 != s.arrayStep x.1

theorem Dev.stepAll_frame (s : Dev) (down : Bool) : ∃ outs vid,
    s.stepAll down = { s with outs := outs, pwr := { s.pwr with target := s.stepsLeft down, vid := vid } } := by
  obtain ⟨outs, vid, h⟩ := (s.setPwr fun p => { p with target := s.stepsLeft down }).voltFit_frame
  exact ⟨outs, vid, h⟩

/-- In a list with one entry of a key, a search by the key finds it. -/
theorem find?_key {l : List (Nat × Nat)} {c v : Nat} (hmem : (c, v) ∈ l) (huniq : ∀ x ∈ l, x.1 = c → x.2 = v) :
    l.find? (fun x => x.1 == c) = some (c, v) := by
  cases hfind : l.find? fun x => x.1 == c with
  | none => exact absurd (by simp) ((List.find?_eq_none.mp hfind) (c, v) hmem)
  | some x =>
    have hkey : x.1 = c := by simpa using List.find?_some hfind
    rw [← huniq x (List.mem_of_find?_eq_some hfind) hkey, ← hkey]

theorem find?_stepsLeft {c : Nat} (hc : c < 16) (down : Bool) : (s.stepsLeft down).find? (fun x => x.1 == c) =
    if stepTo down (s.stepGoal c) = s.arrayStep c then none else some (c, stepTo down (s.stepGoal c)) := by
  have hval : ∀ x ∈ s.stepsLeft down, x.1 = c → x.2 = stepTo down (s.stepGoal c) ∧ x.2 ≠ s.arrayStep c := by
    intro x hx hkey
    obtain ⟨hmap, hne⟩ := List.mem_filter.mp hx
    obtain ⟨c', -, rfl⟩ := List.mem_map.mp hmap
    subst hkey
    exact ⟨rfl, by simpa using hne⟩
  split
  · next heq =>
    rw [List.find?_eq_none]
    intro x hx hkey
    obtain ⟨hv, hne⟩ := hval x hx (by simpa using hkey)
    exact hne (hv.trans heq)
  · next hne =>
    refine find?_key (List.mem_filter.mpr ⟨List.mem_map.mpr ⟨c, List.mem_range.mpr hc, rfl⟩, by simpa using hne⟩) fun x hx hkey =>
      (hval x hx hkey).1

/-- A slow tick that changes the steps, with what its counters become. -/
def Dev.slowStepped (s : Dev) (down : Bool) (lowTicks sinceDrop : Nat) : Dev :=
  (((s.setPwr fun p => { p with lowTicks := lowTicks }).stepAll down).setPwr fun p =>
    { p with winUs := 0, sinceDrop := sinceDrop, slowLim := false }).limited

section
variable (hfast : s.pwr.fastLim = false) (hstat : s.flag Reg.PWC_STAT 4 = false) (htarget : s.pwr.target = [])
include hfast hstat htarget

/-- After such a tick the window starts anew, every cluster goes to its next step, and no register has changed. -/
theorem Dev.slowStepped_spec (down : Bool) (lowTicks sinceDrop : Nat) :
    (s.slowStepped down lowTicks sinceDrop).pwr.winUs = 0 ∧
    (∀ c, c < 16 → (s.slowStepped down lowTicks sinceDrop).stepGoal c = stepTo down (s.arrayStep c)) ∧
    ∀ k, (s.slowStepped down lowTicks sinceDrop).reg k = s.reg k := by
  obtain ⟨outs, vid, hall⟩ := (s.setPwr fun p => { p with lowTicks := lowTicks }).stepAll_frame down
  have hregs : ∀ k, (s.slowStepped down lowTicks sinceDrop).reg k = s.reg k := by
    intro k
    unfold Dev.slowStepped
    rw [Dev.limited_below (by rw [hall]; exact hfast) rfl, hall]
    exact Dev.reg_setFlag_self _ _ _ _ _ hstat
  have hgoal : ∀ c, (s.setPwr fun p => { p with lowTicks := lowTicks }).stepGoal c = s.arrayStep c := fun c => by
    unfold Dev.stepGoal
    rw [show (s.setPwr fun p => { p with lowTicks := lowTicks }).pwr.target = [] from htarget]
    rfl
  have hpwr : (s.slowStepped down lowTicks sinceDrop).pwr.winUs = 0 ∧ (s.slowStepped down lowTicks sinceDrop).pwr.target =
      (s.setPwr fun p => { p with lowTicks := lowTicks }).stepsLeft down := by
    unfold Dev.slowStepped
    rw [Dev.pwr_limited, hall]
    exact ⟨rfl, rfl⟩
  refine ⟨hpwr.1, fun c hc => ?_, hregs⟩
  unfold Dev.stepGoal
  have hstep : (s.slowStepped down lowTicks sinceDrop).arrayStep c = s.arrayStep c := Dev.fld_congr (hregs _) _ _
  rw [hpwr.2, find?_stepsLeft hc, hgoal, hstep]
  split
  · next heq => exact heq.symm
  · rfl

end

theorem Dev.Sampled.stepGoal {t : Dev} (h : s.Sampled t) (htarget : s.pwr.target = []) (c : Nat) : t.stepGoal c = s.arrayStep c := by
  unfold Dev.stepGoal Dev.arrayStep
  rw [h.target, htarget, Dev.fld_congr (h.regs Reg.PWC_CLK (by decide))]
  rfl

/-- The end of a slow tick, from whether the limit was exceeded and which of the three steps it takes. -/
def Dev.slowEnd (s : Dev) (over_ down up cool : Bool) : Dev :=
  let t := if down then s.stepAll true else if up then s.stepAll false else s
  let t := if cool then t.stepAll true else t
  (t.setPwr fun p => { p with
    winUs := if down || up then 0 else min (s.pwr.winUs + 100) 1000000, sinceDrop := if cool then 0 else min (s.pwr.sinceDrop + 1) 100
    slowLim := t.atFloor && over_ }).limited

/-- A cluster has a step below (`down`) or above the one that it goes to. -/
def Dev.stepRoom (s : Dev) (down : Bool) : Bool := ((List.range 16).map s.stepGoal).any fun k => if down then k < 4 else 0 < k

theorem exec_slowLoopTick (hrun : d.grd.stage = .run) (arr lg sr : Nat) (s : Dev) (hs : s = (d.slowSample [arr, lg, sr]).setPwr fun p =>
    { p with lowTicks := if (d.slowSample [arr, lg, sr]).avgAbove 95 then 0 else min (p.lowTicks + 1) 10000 }) :
    exec (.slowLoopTick arr (lg, sr)) ⟨q, d⟩ = .next ⟨q, s.slowEnd ((d.slowSample [arr, lg, sr]).avgAbove 100)
      ((d.slowSample [arr, lg, sr]).avgAbove 100 && decide (1000 * s.plWindow ≤ s.pwr.winUs + 100) && s.stepRoom true)
      (!(d.slowSample [arr, lg, sr]).avgAbove 100 && decide (10 * s.plWindow ≤ s.pwr.lowTicks) &&
        decide (1000 * s.plWindow ≤ s.pwr.winUs + 100) && !s.pwr.hot && s.stepRoom false)
      (s.pwr.hot && decide (100 ≤ s.pwr.sinceDrop + 1) && s.stepRoom true)⟩ := by
  rw [show exec (.slowLoopTick arr (lg, sr)) ⟨q, d⟩ = execSlowLoopTick arr (lg, sr) ⟨q, d⟩ from rfl, execSlowLoopTick, State.always,
    if_pos hrun, hs]
  rfl

theorem Dev.atFloor_of_duty (h : s.duty ≠ 1) : s.atFloor = false := by
  rw [Dev.atFloor, beq_eq_false_iff_ne.mpr h, Bool.false_and]

/-- A tick that takes the one step of the power rule. -/
theorem Dev.slowEnd_step (hduty : s.duty ≠ 1) (over_ down up : Bool) (hstep : down = true ∨ up = true) :
    ∃ drop, s.slowEnd over_ down up false = ((s.stepAll down).setPwr fun p =>
      { p with winUs := 0, sinceDrop := drop, slowLim := false }).limited := by
  have hfloor : ∀ dir, (s.stepAll dir).atFloor = false := fun dir => by
    obtain ⟨outs, vid, hall⟩ := s.stepAll_frame dir
    rw [hall]
    exact Dev.atFloor_of_duty hduty
  refine ⟨min (s.pwr.sinceDrop + 1) 100, ?_⟩
  unfold Dev.slowEnd
  cases down with
  | true => simp only [if_true, Bool.true_or, Bool.false_eq_true, if_false, hfloor, Bool.false_and]
  | false =>
    have hup : up = true := by simpa using hstep
    simp only [hup, if_true, Bool.or_true, Bool.false_eq_true, if_false, hfloor, Bool.false_and]

section
variable (hrun : d.grd.stage = .run) {arr lg sr : Nat} (htarget : d.pwr.target = []) (hhot : d.pwr.hot = false) (hduty : d.duty ≠ 1)
  (hwin : 1000 * d.plWindow ≤ d.pwr.winUs + 100)
include hrun htarget hhot hduty hwin

/-- Above PL_SUST, a WINDOW after the last change, the slow loop steps every cluster down; at or below 95 % of it for a WINDOW,
up. -/
theorem exec_slowLoop_step (down : Bool) (hroom : ∃ c, c < 16 ∧ if down then d.arrayStep c < 4 else 0 < d.arrayStep c)
    (hover : (d.slowSample [arr, lg, sr]).avgAbove 100 = down)
    (hlow : down = false → (d.slowSample [arr, lg, sr]).avgAbove 95 = false ∧ 10 * d.plWindow ≤ min (d.pwr.lowTicks + 1) 10000) :
    ∃ low drop, exec (.slowLoopTick arr (lg, sr)) ⟨q, d⟩ = .next ⟨q, (d.slowSample [arr, lg, sr]).slowStepped down low drop⟩ := by
  have hs := d.sampled_slowSample [arr, lg, sr]
  obtain ⟨s, hs'⟩ : ∃ s, s = (d.slowSample [arr, lg, sr]).setPwr fun p =>
    { p with lowTicks := if (d.slowSample [arr, lg, sr]).avgAbove 95 then 0 else min (p.lowTicks + 1) 10000 } := ⟨_, rfl⟩
  have hexec := exec_slowLoopTick (q := q) hrun arr lg sr s hs'
  have hregs : ∀ k, k ≠ Reg.GRD_MTR_ENERGY → s.reg k = d.reg k := fun k hk => by rw [hs', Dev.reg_setPwr, hs.regs k hk]
  have hhot' : s.pwr.hot = false := by rw [hs', ← hhot, ← hs.hot]; rfl
  have hwin' : 1000 * s.plWindow ≤ s.pwr.winUs + 100 := by
    rw [show s.plWindow = d.plWindow from Dev.fld_congr (hregs _ (by decide)) _ _,
      show s.pwr.winUs = d.pwr.winUs by rw [hs', ← hs.win]; rfl]
    exact hwin
  have hduty' : s.duty ≠ 1 := by rwa [show s.duty = d.duty from Dev.fld_congr (hregs _ (by decide)) _ _]
  have hgoal : ∀ c, s.stepGoal c = d.arrayStep c := fun c => by rw [← hs.stepGoal htarget c, hs']; rfl
  have hroom' : s.stepRoom down = true := by
    obtain ⟨c, hc, hk⟩ := hroom
    refine List.any_eq_true.mpr ⟨_, List.mem_map.mpr ⟨c, List.mem_range.mpr hc, rfl⟩, ?_⟩
    rw [hgoal]
    cases down <;> simpa using hk
  have hlast : ∃ over_ dn up, (dn = true ∨ up = true) ∧ dn = down ∧
      exec (.slowLoopTick arr (lg, sr)) ⟨q, d⟩ = .next ⟨q, s.slowEnd over_ dn up false⟩ := by
    rw [hexec, hhot', hover, decide_eq_true hwin']
    cases down with
    | true => exact ⟨true, true, _, .inl rfl, rfl, by rw [hroom']; rfl⟩
    | false =>
      obtain ⟨hunder, hticks⟩ := hlow rfl
      have hlow' : 10 * s.plWindow ≤ s.pwr.lowTicks := by
        rw [show s.plWindow = d.plWindow from Dev.fld_congr (hregs _ (by decide)) _ _,
          show s.pwr.lowTicks = min (d.pwr.lowTicks + 1) 10000 by rw [hs', hunder, ← hs.low]; rfl]
        exact hticks
      exact ⟨false, false, true, .inr rfl, rfl, by rw [hroom', decide_eq_true hlow']; rfl⟩
  obtain ⟨over_, dn, up, hone, rfl, hexec'⟩ := hlast
  obtain ⟨drop, hend⟩ := Dev.slowEnd_step hduty' over_ dn up hone
  refine ⟨if (d.slowSample [arr, lg, sr]).avgAbove 95 then 0 else min ((d.slowSample [arr, lg, sr]).pwr.lowTicks + 1) 10000, drop, ?_⟩
  rw [hexec', hend, hs']
  rfl

end

/-- A history not above 95 % of PL_SUST is not above all of it. -/
theorem Dev.avgAbove_mono (h : s.avgAbove 95 = false) : s.avgAbove 100 = false := by
  unfold Dev.avgAbove at h ⊢
  rw [decide_eq_false_iff_not, Nat.not_lt] at h ⊢
  exact h.trans (Nat.mul_le_mul_right _ (Nat.mul_le_mul_left _ (by decide)))


/-! ### A step that settles -/

/-- A settled change moves the cluster one step toward its goal and counts; the voltage follows. -/
theorem exec_stepChangeSettled (hrun : d.grd.stage = .run) {c g k : Nat} (hc : c < 16)
    (hfind : d.pwr.target.find? (fun x => x.1 == c) = some (c, g))
    (hk : k = if d.arrayStep c < g then d.arrayStep c + 1 else d.arrayStep c - 1) (hk8 : k < 8) :
    ∃ t, exec (.stepChangeSettled c) ⟨q, d⟩ = .next ⟨q, t⟩ ∧ t.arrayStep c = k ∧
      t.reg Reg.PWC_CNT_STEP = (d.reg Reg.PWC_CNT_STEP + 1) % 2 ^ 64 ∧
      t.pwr.target = d.pwr.target.filter (fun e => !(e.1 == c && e.2 == k)) ∧
      d.OnlyRegsOuts { t with pwr := d.pwr } [Reg.PWC_CLK, Reg.PWC_CNT_STEP] := by
  obtain ⟨s, hs⟩ : ∃ s, s = (d.setFld Reg.PWC_CLK (4 * c) 3 k).bump Reg.PWC_CNT_STEP 1 := ⟨_, rfl⟩
  have hexec : exec (.stepChangeSettled c) ⟨q, d⟩ = .next ⟨q, (s.setPwr fun p =>
      { p with target := p.target.filter fun y => !(y.1 == c && y.2 == k) }).voltFit⟩ := by
    rw [show exec (.stepChangeSettled c) ⟨q, d⟩ = execStepChangeSettled c ⟨q, d⟩ from rfl, execStepChangeSettled, State.always,
      if_pos hrun]
    dsimp only
    rw [hfind]
    dsimp only
    rw [← hk, hs]
  have hclk : s.arrayStep c = k := by
    rw [hs]
    refine (Dev.fld_bump_ne _ _ _ _ (by decide)).trans ?_
    rw [Dev.fld_setFld_same _ _ _ (by omega)]
    exact Nat.mod_eq_of_lt hk8
  have hcount : s.reg Reg.PWC_CNT_STEP = (d.reg Reg.PWC_CNT_STEP + 1) % 2 ^ 64 := by
    rw [hs, Dev.reg_bump_same, Dev.reg_setFld_ne _ _ _ _ (by decide)]
  have hreg : d.RegsBut s [Reg.PWC_CLK, Reg.PWC_CNT_STEP] := by
    intro k' hk'
    simp only [List.mem_cons, List.not_mem_nil, or_false, not_or] at hk'
    rw [hs, Dev.reg_bump_ne _ _ hk'.2, Dev.reg_setFld_ne _ _ _ _ hk'.1]
  have hframe : s = { d with regs := s.regs } := by rw [hs]; rfl
  obtain ⟨outs, vid, hvolt⟩ := (s.setPwr fun p =>
    { p with target := p.target.filter fun y => !(y.1 == c && y.2 == k) }).voltFit_frame
  refine ⟨_, hexec, ?_⟩
  rw [hvolt]
  refine ⟨hclk, hcount, ?_, ?_, hreg⟩
  · rw [hframe]
    rfl
  · rw [hframe]
    rfl

/-! ### Telemetry -/

theorem Dev.energy_of_idle (hjob : s.jobState = jIDLE) (e : Nat) : s.energy e = s := by
  have hseal : s.toSeal = false := by rw [Dev.toSeal, hjob]; rfl
  rw [Dev.energy, hseal, if_pos (by rfl)]

/-- What a trip leaves: it shows its cause and STATE 8, and with no meters to seal everything else but the log, the work and the
outputs stays. -/
structure Dev.Tripped (s t : Dev) (cause : Nat) : Prop where
  trip : t.pwr = { s.pwr with trip := 1 }
  shown : t.fld Reg.PWC_STAT 8 3 = cause % 8
  state : t.fld Reg.GRD_BOOTSTAT 0 4 = 8
  cmds : t.cmds = []
  duty : t.duty = s.duty
  flags : ∀ i, i < 8 → t.flag Reg.PWC_STAT i = s.flag Reg.PWC_STAT i
  regs : ∀ k, k < 0x1000000 → k ≠ Reg.PWC_STAT → k ≠ Reg.GRD_BOOTSTAT → t.reg k = s.reg k

theorem Dev.sealIfJob_regs (s : Dev) (ended : Nat) : (s.sealIfJob ended).regs = s.regs ∧ (s.sealIfJob ended).pwr = s.pwr := by
  unfold Dev.sealIfJob
  split <;> exact ⟨rfl, rfl⟩

theorem Dev.tripped_tripDev (hrun : s.grd.stage = .run) (htrip : s.pwr.trip = 0) (cause who : Nat) :
    s.Tripped (s.tripDev cause who) cause := by
  obtain ⟨u, hu⟩ : ∃ u, u = ((s.emit (.thermtrip true)).record clsGUARD 0x030 (cause + who * 2 ^ 8) 0 blkGRD 0).sealIfJob 3 := ⟨_, rfl⟩
  have hdev : s.tripDev cause who = ((u.dropWork.setFld Reg.PWC_STAT 8 3 cause).setFld Reg.GRD_BOOTSTAT 0 4 8).setPwr fun p =>
      { p with trip := 1 } := by
    unfold Dev.tripDev
    rw [if_neg (by simp [hrun, htrip]), hu]
  obtain ⟨hsreg, hspwr⟩ := Dev.sealIfJob_regs
    ((s.emit (.thermtrip true)).record clsGUARD 0x030 (cause + who * 2 ^ 8) 0 blkGRD 0) 3
  have hureg : ∀ k, k < 0x1000000 → u.dropWork.reg k = s.reg k := fun k hk => by
    rw [show u.dropWork.reg k = u.reg k from rfl, hu, Dev.reg_congr hsreg, Dev.reg_record_lt _ _ _ _ _ _ _ hk, Dev.reg_emit]
  have hupwr : u.pwr = s.pwr := by rw [hu, hspwr, Dev.record_pwr]; rfl
  have hstat : ∀ lo w, (s.tripDev cause who).fld Reg.PWC_STAT lo w = (u.dropWork.setFld Reg.PWC_STAT 8 3 cause).fld Reg.PWC_STAT lo w :=
    fun lo w => by rw [hdev]; exact Dev.fld_setFld_ne _ _ _ _ _ _ (by decide)
  refine ⟨?_, ?_, ?_, ?_, ?_, fun i hi => ?_, fun k hk hstat' hboot => ?_⟩
  · rw [hdev, ← hupwr]
    rfl
  · rw [hstat, Dev.fld_setFld_same _ _ _ (by decide)]
    rfl
  · rw [hdev]
    exact Dev.fld_setFld_same (u.dropWork.setFld Reg.PWC_STAT 8 3 cause) Reg.GRD_BOOTSTAT 8 (by decide)
  · rw [hdev]
    rfl
  · rw [Dev.duty, hstat, Dev.fld_setFld_below _ _ _ (by decide) (by decide), Dev.fld_congr (hureg _ (by decide)), ← Dev.duty]
  · rw [Dev.flag_eq_fld, Dev.flag_eq_fld, hstat, Dev.fld_setFld_below _ _ _ (by omega) (by omega),
      Dev.fld_congr (hureg _ (by decide))]
  · rw [hdev, Dev.reg_setPwr, Dev.reg_setFld_ne _ _ _ _ hboot, Dev.reg_setFld_ne _ _ _ _ hstat', hureg k hk]

theorem bit_setBit_same (x i : Nat) (b : Bool) : bit (setBit x i b) i = b := by
  unfold setBit
  rw [bit_eq_bits, bits_setBits_same]
  cases b <;> rfl


/-- What a sample of a rail against its limit leaves: the mark of the sample, and where it was the second over the limit in a row,
a trip with cause 4 (R525). -/
structure Dev.LimitSampled (s t : Dev) (b : Nat) (over_ : Bool) : Prop where
  marked : t.pwr.overLim = setBit s.pwr.overLim b over_
  meters : t.pwr.meters = s.pwr.meters
  flags : ∀ i, i < 8 → t.flag Reg.PWC_STAT i = s.flag Reg.PWC_STAT i
  regs : ∀ k, k < 0x1000000 → k ≠ Reg.PWC_STAT → k ≠ Reg.GRD_BOOTSTAT → t.reg k = s.reg k
  first : bit s.pwr.overLim b = false → t.pwr.trip = s.pwr.trip
  second : bit s.pwr.overLim b = true → over_ = true → s.pwr.trip = 0 →
    t.pwr.trip = 1 ∧ t.fld Reg.PWC_STAT 8 3 = 4 ∧ t.fld Reg.GRD_BOOTSTAT 0 4 = 8

theorem Dev.limitSample_first {b who : Nat} {over_ : Bool} (h : bit s.pwr.overLim b = false) :
    s.limitSample b who over_ = s.setPwr fun p => { p with overLim := setBit p.overLim b over_ } := if_neg (by rw [h]; simp)

theorem Dev.limitSampled_limitSample (hrun : s.grd.stage = .run) (b who : Nat) (over_ : Bool) :
    s.LimitSampled (s.limitSample b who over_) b over_ := by
  obtain ⟨u, hu⟩ : ∃ u, u = s.setPwr fun p => { p with overLim := setBit p.overLim b over_ } := ⟨_, rfl⟩
  have hregs : ∀ k, u.reg k = s.reg k := fun k => by rw [hu, Dev.reg_setPwr]
  have hmark : u.pwr.overLim = setBit s.pwr.overLim b over_ ∧ u.pwr.meters = s.pwr.meters ∧ u.pwr.trip = s.pwr.trip := by
    rw [hu]
    exact ⟨rfl, rfl, rfl⟩
  have hstage : u.grd.stage = .run := by rw [hu]; exact hrun
  obtain ⟨hover, hmeters, htrip⟩ := hmark
  have hlimit : s.limitSample b who over_ = if over_ && bit s.pwr.overLim b then u.tripDev 4 who else u := by rw [hu]; rfl
  rw [hlimit]
  split
  · next htwice =>
    have hbit : bit s.pwr.overLim b = true := by
      rw [Bool.and_eq_true] at htwice
      exact htwice.2
    by_cases hzero : u.pwr.trip = 0
    · have ht := Dev.tripped_tripDev hstage hzero 4 who
      refine ⟨by rw [ht.trip]; exact hover, by rw [ht.trip]; exact hmeters,
        fun i hi => (ht.flags i hi).trans (Dev.flag_congr (hregs _) i), fun k hk h1 h2 => (ht.regs k hk h1 h2).trans (hregs k),
        fun hno => absurd (hno.symm.trans hbit) (by simp), fun _ _ _ => ⟨by rw [ht.trip], ht.shown, ht.state⟩⟩
    · have hsame : u.tripDev 4 who = u := if_pos (by simp [hzero])
      rw [hsame]
      exact ⟨hover, hmeters, fun i _ => Dev.flag_congr (hregs _) i, fun k _ _ _ => hregs k, fun _ => htrip,
        fun _ _ hno => absurd (htrip.trans hno) hzero⟩
  · next honce =>
    refine ⟨hover, hmeters, fun i _ => Dev.flag_congr (hregs _) i, fun k _ _ _ => hregs k, fun _ => htrip, fun hb ho _ => ?_⟩
    exact absurd (by rw [hb, ho]; rfl) honce

/-- The device with a reading of VDD rail `i` shown and entered in its average. -/
def Dev.railRead (d : Dev) (i mv ma : Nat) : Dev :=
  let s := (d.setReg (Reg.PWC_RAIL i) (mv + ma * 2 ^ 32)).setPwr fun p => { p with lost := setBit p.lost i false }
  (s.setFlag Reg.PWC_STAT 5 (s.pwr.lost != 0)).metered i (mv * ma)

theorem exec_railTelemetryRead (hrun : d.grd.stage = .run) {i mv ma : Nat} (hi : i < 3) (hmv : mv < 2 ^ 16) (hma : ma < 2 ^ 20)
    (hjob : d.jobState = jIDLE) : exec (.railTelemetryRead i mv ma) ⟨q, d⟩ =
      .next ⟨q, (d.railRead i mv ma).limitSample i i (decide (railLimit i < ma))⟩ := by
  obtain ⟨s, hs⟩ : ∃ s, s = (d.setReg (Reg.PWC_RAIL i) (mv + ma * 2 ^ 32)).setPwr fun p => { p with lost := setBit p.lost i false } :=
    ⟨_, rfl⟩
  have hidle : (s.setFlag Reg.PWC_STAT 5 (s.pwr.lost != 0)).jobState = jIDLE := by
    rw [← hjob]
    refine Dev.fld_congr ?_ _ _
    rw [Dev.reg_setFlag_ne _ _ _ (by decide), hs, Dev.reg_setPwr, Dev.reg_setReg_ne _ _ ?_]
    unfold Reg.GRD_JOBSTAT Reg.PWC_RAIL
    omega
  rw [show exec (.railTelemetryRead i mv ma) ⟨q, d⟩ = execRailTelemetryRead i mv ma ⟨q, d⟩ from rfl, execRailTelemetryRead, State.always,
    if_pos hrun]
  dsimp only
  rw [if_neg (by omega), Nat.mod_eq_of_lt hmv, Nat.mod_eq_of_lt hma, ← hs, Dev.energy_of_idle hidle, hs]
  rfl

section
variable {i mv ma : Nat} (hi : i < 3)
include hi

theorem Dev.reg_railRead (hmv : mv < 2 ^ 16) (hma : ma < 2 ^ 20) :
    (d.railRead i mv ma).reg (Reg.PWC_RAIL i) = mv + ma * 2 ^ 32 := by
  have hne : Reg.PWC_RAIL i ≠ Reg.PWC_STAT := by
    unfold Reg.PWC_RAIL Reg.PWC_STAT
    omega
  unfold Dev.railRead Dev.metered
  dsimp only
  rw [Dev.reg_setPwr, Dev.reg_setFlag_ne _ _ _ hne, Dev.reg_setPwr, Dev.reg_setReg_same]
  exact Nat.mod_eq_of_lt (by omega)

omit hi in
theorem setBit_pow_self : setBit (2 ^ i) i false = 0 := by
  unfold setBit
  rw [setBits_eq, Nat.div_eq_of_lt (Nat.pow_lt_pow_right (by decide) (Nat.lt_succ_self i)), Nat.mod_self]
  simp

omit hi in
/-- TELELOST as a reading of a rail leaves it: set while another rail is silent. -/
theorem Dev.flag_telelost (w : Nat) (f : Power → Power) :
    ((((d.setReg (Reg.PWC_RAIL i) w).setPwr fun p => { p with lost := setBit p.lost i false }).setFlag Reg.PWC_STAT 5
      (((d.setReg (Reg.PWC_RAIL i) w).setPwr fun p => { p with lost := setBit p.lost i false }).pwr.lost != 0)).setPwr f).flag
      Reg.PWC_STAT 5 = (setBit d.pwr.lost i false != 0) := by
  rw [Dev.flag_congr (Dev.reg_setPwr ..), Dev.flag_setFlag_same _ _ _ (by decide), Dev.setPwr_pwr, Dev.setReg_pwr]

omit hi in
theorem Dev.telelost_railRead (hlost : d.pwr.lost = 2 ^ i) : (d.railRead i mv ma).flag Reg.PWC_STAT 5 = false := by
  have hflag := Dev.flag_telelost (d := d) (i := i) (mv + ma * 2 ^ 32) fun w =>
    { w with meters := w.meters.modify i fun m => ⟨m.sum + mv * ma, m.n + 1, mv * ma⟩ }
  rw [hlost, setBit_pow_self] at hflag
  exact hflag

omit hi in
theorem Dev.frame_railRead : (d.railRead i mv ma).pwr = { d.pwr with
    lost := setBit d.pwr.lost i false, meters := d.pwr.meters.modify i (fun m => ⟨m.sum + mv * ma, m.n + 1, mv * ma⟩) } ∧
    (d.railRead i mv ma).grd = d.grd := by
  unfold Dev.railRead Dev.metered Dev.setPwr Dev.setFlag Dev.setFld Dev.setReg
  exact ⟨by dsimp only, by dsimp only⟩

/-- What a reading of a rail shows, and what it does with the limit (R516, R525). -/
theorem railTelemetry_spec (hrun : d.grd.stage = .run) (hmv : mv < 2 ^ 16) (hma : ma < 2 ^ 20) (hjob : d.jobState = jIDLE) :
    ∃ t, exec (.railTelemetryRead i mv ma) ⟨q, d⟩ = .next ⟨q, t⟩ ∧ t.reg (Reg.PWC_RAIL i) = mv + ma * 2 ^ 32 ∧
      bit t.pwr.overLim i = decide (railLimit i < ma) ∧ (d.pwr.lost = 2 ^ i → t.flag Reg.PWC_STAT 5 = false) ∧
      t.pwr.meters = d.pwr.meters.modify i (fun m => ⟨m.sum + mv * ma, m.n + 1, mv * ma⟩) ∧
      (bit d.pwr.overLim i = false → t.pwr.trip = d.pwr.trip) ∧
      (bit d.pwr.overLim i = true → railLimit i < ma → d.pwr.trip = 0 →
        t.pwr.trip = 1 ∧ t.fld Reg.PWC_STAT 8 3 = 4 ∧ t.fld Reg.GRD_BOOTSTAT 0 4 = 8) := by
  obtain ⟨hpwr, hgrd⟩ := Dev.frame_railRead (d := d) (i := i) (mv := mv) (ma := ma)
  have hreg := Dev.reg_railRead (d := d) hi hmv hma
  have hlost := Dev.telelost_railRead (d := d) (i := i) (mv := mv) (ma := ma)
  have hs := Dev.limitSampled_limitSample (s := d.railRead i mv ma) (by rw [hgrd]; exact hrun) i i (decide (railLimit i < ma))
  refine ⟨_, exec_railTelemetryRead hrun hi hmv hma hjob, ?_⟩
  generalize (d.railRead i mv ma).limitSample i i (decide (railLimit i < ma)) = t at hs
  generalize d.railRead i mv ma = s at hs hpwr hreg hlost
  obtain ⟨hmark, hmeters, hflags, hregs, hfirst, hsecond⟩ := hs
  rw [hpwr] at hmark hmeters hfirst hsecond
  refine ⟨(hregs _ ?_ ?_ ?_).trans hreg, by rw [hmark, bit_setBit_same], fun h => (hflags 5 (by decide)).trans (hlost h), hmeters,
    hfirst, fun hb ho => hsecond hb (by simpa using ho)⟩ <;>
  · simp only [Reg.PWC_RAIL, Reg.PWC_STAT, Reg.GRD_BOOTSTAT]
    omega

end

/-- A sample of a rail behind IMON enters its meter, and is marked (R579). -/
theorem exec_imonSample_first (hrun : d.grd.stage = .run) {x mv : Nat} (hx : x < 7) (hfirst : bit d.pwr.overLim (3 + x) = false)
    (hjob : d.jobState = jIDLE) : exec (.imonSample x mv) ⟨q, d⟩ = .next ⟨q,
      (d.metered (3 + x) (mv * (imonRail x).1 * (imonRail x).2 / 10)).setPwr fun p =>
        { p with overLim := setBit p.overLim (3 + x) (decide (1000 < mv)) }⟩ := by
  have hmark : ∀ p, bit (d.metered (3 + x) p).pwr.overLim (3 + x) = false := fun _ => hfirst
  rw [show exec (.imonSample x mv) ⟨q, d⟩ = execImonSample x mv ⟨q, d⟩ from rfl, execImonSample, State.always, if_pos hrun]
  dsimp only
  rw [if_neg (by omega), Dev.energy_of_idle hjob, Dev.limitSample_first (hmark _)]

theorem exec_telemetryTimeout (hrun : d.grd.stage = .run) {i : Nat} (hi : i < 3) : exec (.telemetryTimeout i) ⟨q, d⟩ =
    .next ⟨q, (d.setPwr fun p => { p with lost := setBit p.lost i true }).setFlag Reg.PWC_STAT 5 true⟩ := by
  rw [show exec (.telemetryTimeout i) ⟨q, d⟩ = execTelemetryTimeout i ⟨q, d⟩ from rfl, execTelemetryTimeout, State.always, if_pos hrun]
  dsimp only
  rw [if_neg (by omega)]

/-! ### THROTTLE_N -/

theorem exec_throttleAssert_inReset (hrun : d.grd.stage ≠ .run) :
    exec .throttleAssert ⟨q, d⟩ = .next ⟨q, d.setPwr fun p => { p with throttle := true }⟩ := by
  rw [show exec .throttleAssert ⟨q, d⟩ = execThrottleAssert ⟨q, d⟩ from rfl, execThrottleAssert, State.guard]
  dsimp only
  rw [if_pos (show (d.setPwr fun p => { p with throttle := true }).grd.stage ≠ .run from hrun)]

/-- THROTTLE_N going low forces the duty to 1, and is recorded once a second (R521). -/
theorem exec_throttleAssert (hrun : d.grd.stage = .run) (hup : d.pwr.throttle = false) (s : Dev)
    (hs : s = ((d.setPwr fun p => { p with throttle := true }).setFlag Reg.PWC_STAT 6 true).setDuty 1) :
    exec .throttleAssert ⟨q, d⟩ = .next ⟨q, if d.pwr.thr34 = some (d.ns / 10 ^ 9) then s
      else (s.setPwr fun p => { p with thr34 := some (d.ns / 10 ^ 9) }).record clsGUARD 0x034 0 0 blkGRD 0⟩ := by
  obtain ⟨hpwr, -, -, hns⟩ := Dev.frame_setDuty ((d.setPwr fun p => { p with throttle := true }).setFlag Reg.PWC_STAT 6 true) 1
  rw [← hs] at hpwr hns
  have hthr : s.pwr.thr34 = d.pwr.thr34 := by rw [hpwr]; rfl
  have hns' : s.ns = d.ns := hns
  rw [show exec .throttleAssert ⟨q, d⟩ = execThrottleAssert ⟨q, d⟩ from rfl, execThrottleAssert, State.guard]
  dsimp only
  rw [if_neg (not_not.mpr (show (d.setPwr fun p => { p with throttle := true }).grd.stage = .run from hrun)), Dev.throttled, ← hs, hup,
    hthr, hns']
  simp only [Bool.false_or, decide_eq_true_eq]


/-! ### Temperature -/

/-- The sensors' registers with their readings. -/
def Dev.sensorsRead (d : Dev) (ts : List Int) : Dev :=
  d.each ((List.range 40).zip ts) fun s x => s.setFld (Reg.PWC_SENSOR x.1) 0 16 (ofSigned 16 x.2)

/-- The hottest reading `x` shown, counted from the target on, and noted for the slow loop. -/
def Dev.tempShown (s : Dev) (x : Int) : Dev :=
  let target : Int := 16 * (s.fld Reg.PWC_THR 8 7 : Nat)
  let s := s.setFld Reg.PWC_TEMP 0 16 (ofSigned 16 x)
  let s := if target ≤ x then s.bump Reg.PWC_CNT_THERMUS 10 else s
  s.setPwr fun p => { p with hot := if target ≤ x then true else if x ≤ target - 48 then false else p.hot }

/-- The duty forced to 1 from 105 °C on, recorded once with the sensor `i`. -/
def Dev.tempForced (s : Dev) (i : Nat) (x : Int) : Dev :=
  if 16 * 105 ≤ x then
    (((if s.pwr.forced then s else s.record clsGUARD 0x031 i 0 blkGRD 0).setPwr fun p => { p with forced := true }).setDuty 1)
  else if x < 16 * 103 then s.setPwr fun p => { p with forced := false } else s

theorem Dev.reg_sensorsRead (ts : List Int) {k : Nat} (hk : ∀ i, i < 40 → k ≠ Reg.PWC_SENSOR i) : (d.sensorsRead ts).reg k = d.reg k := by
  refine Dev.each_keeps_of_mem (P := fun u => u.reg k = d.reg k) rfl fun u x hx hu => ?_
  have hlt : x.1 < 40 := List.mem_range.mp (List.of_mem_zip hx).1
  rw [Dev.reg_setFld_ne _ _ _ _ (hk _ hlt), hu]

theorem Dev.flag_sensorsRead (ts : List Int) (i : Nat) :
    (d.sensorsRead ts).flag (Reg.PWC_SENSOR i) 16 = d.flag (Reg.PWC_SENSOR i) 16 := by
  refine Dev.each_keeps (P := fun u => u.flag (Reg.PWC_SENSOR i) 16 = d.flag (Reg.PWC_SENSOR i) 16) rfl fun {u x} hu => ?_
  rw [← hu]
  by_cases hsame : Reg.PWC_SENSOR i = Reg.PWC_SENSOR x.1
  · rw [hsame, Dev.flag_eq_fld, Dev.flag_eq_fld, Dev.fld_setFld_above _ _ _ (by decide) (by decide)]
  · exact Dev.flag_setFld_ne _ _ _ _ _ hsame

theorem Dev.frame_sensorsRead (ts : List Int) : (d.sensorsRead ts).pwr = d.pwr ∧ (d.sensorsRead ts).log = d.log ∧
    (d.sensorsRead ts).grd = d.grd := by
  refine Dev.each_keeps (P := fun u => u.pwr = d.pwr ∧ u.log = d.log ∧ u.grd = d.grd) ⟨rfl, rfl, rfl⟩ fun {u x} hu => hu

/-- With no sensor excluded the hottest of all of them counts. -/
theorem exec_sensorRead (hrun : d.grd.stage = .run) {ts : List Int} {i : Nat} {x : Int}
    (huse : ∀ k, k < 40 → d.flag (Reg.PWC_SENSOR k) 16 = false) (hhot : hottest ((List.range 40).zip ts) = some (i, x)) :
    exec (.sensorRead ts) ⟨q, d⟩ = .next ⟨q, if 16 * 115 ≤ x then (((d.sensorsRead ts).tempShown x).tempForced i x).tripDev 1 i
      else ((d.sensorsRead ts).tempShown x).tempForced i x⟩ := by
  have hnone : ∀ k, k < 40 → (d.sensorsRead ts).flag (Reg.PWC_SENSOR k) 16 = false := fun k hk => by
    rw [Dev.flag_sensorsRead, huse k hk]
  have hfilter : (((List.range 40).zip ts).filter fun y => !(d.sensorsRead ts).flag (Reg.PWC_SENSOR y.1) 16) = (List.range 40).zip ts := by
    refine List.filter_eq_self.mpr fun y hy => ?_
    rw [hnone _ (List.mem_range.mp (List.of_mem_zip hy).1)]
    rfl
  have hany : ((List.range 40).any fun k => (d.sensorsRead ts).flag (Reg.PWC_SENSOR k) 16) = false := by
    rw [List.any_eq_false]
    intro k hk
    rw [hnone k (List.mem_range.mp hk)]
    simp
  rw [show exec (.sensorRead ts) ⟨q, d⟩ = execSensorRead ts ⟨q, d⟩ from rfl, execSensorRead, State.always, if_pos hrun]
  dsimp only
  rw [← Dev.sensorsRead, hfilter, hhot]
  dsimp only
  simp only [hany, Bool.false_eq_true, if_false]
  rfl


theorem ofSigned_lt (w : Nat) (x : Int) : ofSigned w x < 2 ^ w := by
  unfold ofSigned
  have hpos : (0 : Int) < 2 ^ w := by positivity
  have hlt := Int.emod_lt_of_pos x hpos
  have hnonneg := Int.emod_nonneg x hpos.ne'
  zify
  omega

section
variable (s) (x : Int)

theorem Dev.frame_tempShown : (∃ hot, (s.tempShown x).pwr = { s.pwr with hot := hot }) ∧ (s.tempShown x).log = s.log ∧
    (s.tempShown x).grd = s.grd := by
  unfold Dev.tempShown
  dsimp only
  by_cases h : (16 * (s.fld Reg.PWC_THR 8 7 : Nat) : Int) ≤ x
  · rw [if_pos h]
    exact ⟨⟨_, rfl⟩, rfl, rfl⟩
  · rw [if_neg h]
    exact ⟨⟨_, rfl⟩, rfl, rfl⟩

theorem Dev.regs_tempShown : s.RegsBut (s.tempShown x) [Reg.PWC_TEMP, Reg.PWC_CNT_THERMUS] := by
  intro k hk
  simp only [List.mem_cons, List.not_mem_nil, or_false, not_or] at hk
  unfold Dev.tempShown
  dsimp only
  rw [Dev.reg_setPwr]
  split
  · rw [Dev.reg_bump_ne _ _ hk.2, Dev.reg_setFld_ne _ _ _ _ hk.1]
  · exact Dev.reg_setFld_ne _ _ _ _ hk.1

theorem Dev.temp_tempShown : (s.tempShown x).fld Reg.PWC_TEMP 0 16 = ofSigned 16 x := by
  have hfld : (s.setFld Reg.PWC_TEMP 0 16 (ofSigned 16 x)).fld Reg.PWC_TEMP 0 16 = ofSigned 16 x := by
    rw [Dev.fld_setFld_same _ _ _ (by decide), Nat.mod_eq_of_lt (ofSigned_lt 16 x)]
  unfold Dev.tempShown
  dsimp only
  refine (Dev.fld_congr (Dev.reg_setPwr ..) _ _).trans ?_
  split
  · rw [Dev.fld_bump_ne _ _ _ _ (by decide), hfld]
  · exact hfld

theorem Dev.thermus_tempShown : (s.tempShown x).reg Reg.PWC_CNT_THERMUS = (s.reg Reg.PWC_CNT_THERMUS +
    if (16 * (s.fld Reg.PWC_THR 8 7 : Nat) : Int) ≤ x then 10 else 0) % 2 ^ 64 := by
  have hkeep := Dev.reg_setFld_ne s (off := Reg.PWC_TEMP) (k := Reg.PWC_CNT_THERMUS) 0 16 (ofSigned 16 x) (by decide)
  unfold Dev.tempShown
  dsimp only
  rw [Dev.reg_setPwr]
  split
  · rw [Dev.reg_bump_same, hkeep]
  · rw [hkeep, Nat.add_zero, Nat.mod_eq_of_lt (Dev.reg_lt s _)]

theorem Dev.tempForced_below (hx : x < 16 * 105) (i : Nat) : ∃ f, s.tempForced i x = s.setPwr f := by
  unfold Dev.tempForced
  rw [if_neg (by omega)]
  split
  · exact ⟨_, rfl⟩
  · exact ⟨id, rfl⟩

/-- From 105 °C on the duty is 1; where it was not forced yet this is recorded. -/
theorem Dev.tempForced_above (hx : 16 * 105 ≤ x) (i : Nat) : (s.tempForced i x).duty = 1 ∧
    (s.tempForced i x).pwr = { s.pwr with forced := true } ∧ (s.tempForced i x).grd = s.grd ∧
    (∀ k, k < 0x401000 → k ≠ Reg.PWC_STAT → (s.tempForced i x).reg k = s.reg k) ∧
    (s.pwr.forced = false → s.Recorded (s.tempForced i x) clsGUARD 0x031 i 0 blkGRD 0) := by
  obtain ⟨u, hu⟩ : ∃ u, u = if s.pwr.forced then s else s.record clsGUARD 0x031 i 0 blkGRD 0 := ⟨_, rfl⟩
  have hstep : s.tempForced i x = (u.setPwr fun p => { p with forced := true }).setDuty 1 := by
    unfold Dev.tempForced
    rw [if_pos hx, hu]
  have hupwr : u.pwr = s.pwr ∧ u.grd = s.grd := by
    rw [hu]
    split
    · exact ⟨rfl, rfl⟩
    · exact ⟨Dev.record_pwr .., Dev.record_grd ..⟩
  have hureg : ∀ k, k < 0x1000000 → u.reg k = s.reg k := fun k hk => by
    rw [hu]
    split
    · rfl
    · exact Dev.reg_record_lt _ _ _ _ _ _ _ hk
  obtain ⟨hpwr, hlog, hgrd, -⟩ := Dev.frame_setDuty (u.setPwr fun p => { p with forced := true }) 1
  rw [hstep]
  refine ⟨Dev.duty_setDuty _ (by decide), by rw [hpwr, ← hupwr.1]; rfl, by rw [hgrd, ← hupwr.2]; rfl, fun k hk hstat => ?_,
    fun hfirst => ?_⟩
  · rw [Dev.reg_setDuty _ _ hstat hk, Dev.reg_setPwr, hureg k (by omega)]
  · have hrec : u = s.record clsGUARD 0x031 i 0 blkGRD 0 := by rw [hu, hfirst, if_neg (by simp)]
    have hcount := (Dev.dutySet_setDuty (u.setPwr fun p => { p with forced := true }) 1).1.regs (Reg.ERR_CNT clsGUARD) (by decide)
      fun n => by
        unfold Reg.ERR_CNT Reg.CCH_CSTAT clsGUARD
        omega
    rw [Dev.reg_setPwr, hrec] at hcount
    rw [hrec] at hlog ⊢
    exact (Dev.recorded_record ..).congr hlog hcount

end

/-- What a reading of the array sensors shows and does, by its hottest sensor (R523 to R525). -/
theorem sensorRead_spec (hrun : d.grd.stage = .run) {ts : List Int} {i : Nat} {x : Int}
    (huse : ∀ k, k < 40 → d.flag (Reg.PWC_SENSOR k) 16 = false) (hhot : hottest ((List.range 40).zip ts) = some (i, x)) :
    ∃ t, exec (.sensorRead ts) ⟨q, d⟩ = .next ⟨q, t⟩ ∧ t.fld Reg.PWC_TEMP 0 16 = ofSigned 16 x ∧
      (x < 16 * 105 → t.log = d.log ∧ t.reg Reg.PWC_CNT_THERMUS =
        (d.reg Reg.PWC_CNT_THERMUS + (if (16 * (d.fld Reg.PWC_THR 8 7 : Nat) : Int) ≤ x then 10 else 0)) % 2 ^ 64) ∧
      (16 * 105 ≤ x → t.duty = 1 ∧ t.pwr.forced = true) ∧
      (16 * 105 ≤ x → x < 16 * 115 → d.pwr.forced = false → d.Recorded t clsGUARD 0x031 i 0 blkGRD 0) ∧
      (16 * 115 ≤ x → d.pwr.trip = 0 → t.fld Reg.GRD_BOOTSTAT 0 4 = 8 ∧ t.fld Reg.PWC_STAT 8 3 = 1 ∧ t.cmds = [] ∧ t.alive = false) := by
  have hexec := exec_sensorRead (q := q) hrun huse hhot
  obtain ⟨hpwr0, hlog0, hgrd0⟩ := d.frame_sensorsRead ts
  have hregs0 : ∀ k, (∀ i, i < 40 → k ≠ Reg.PWC_SENSOR i) → (d.sensorsRead ts).reg k = d.reg k := fun k hk => Dev.reg_sensorsRead ts hk
  have hsensor : ∀ k, k < 0x300040 ∨ 0x3000e0 ≤ k → ∀ i, i < 40 → k ≠ Reg.PWC_SENSOR i := fun k hk i hi => by
    unfold Reg.PWC_SENSOR
    omega
  generalize d.sensorsRead ts = s at *
  obtain ⟨⟨hot, hpwr⟩, hlog, hgrd⟩ := s.frame_tempShown x
  have hregs := s.regs_tempShown x
  have htemp := s.temp_tempShown x
  have hcount := s.thermus_tempShown x
  generalize s.tempShown x = u at *
  have hcount' : u.reg Reg.PWC_CNT_THERMUS =
      (d.reg Reg.PWC_CNT_THERMUS + (if (16 * (d.fld Reg.PWC_THR 8 7 : Nat) : Int) ≤ x then 10 else 0)) % 2 ^ 64 := by
    rw [hcount, hregs0 _ (hsensor _ (by decide)), Dev.fld_congr (hregs0 Reg.PWC_THR (hsensor _ (by decide)))]
  rcases Int.lt_or_le x (16 * 105) with hbelow | habove
  · obtain ⟨f, hforced⟩ := u.tempForced_below x hbelow i
    refine ⟨_, hexec, ?_⟩
    rw [if_neg (by omega), hforced]
    refine ⟨(Dev.fld_congr (Dev.reg_setPwr ..) _ _).trans htemp, fun _ => ⟨hlog.trans hlog0, (Dev.reg_setPwr ..).trans hcount'⟩,
      fun h => ?_, fun h => ?_, fun h => ?_⟩ <;> omega
  · obtain ⟨hduty, hpwr', hgrd', hreg', hrec⟩ := u.tempForced_above x habove i
    generalize u.tempForced i x = v at *
    have hforced : v.pwr.forced = true := by rw [hpwr']
    have htemp' : v.fld Reg.PWC_TEMP 0 16 = ofSigned 16 x := (Dev.fld_congr (hreg' _ (by decide) (by decide)) _ _).trans htemp
    have htrip : v.pwr.trip = d.pwr.trip := by rw [hpwr', hpwr, hpwr0]
    have hstage : v.grd.stage = .run := by rw [hgrd', hgrd, hgrd0, hrun]
    have hrecorded : d.pwr.forced = false → d.Recorded v clsGUARD 0x031 i 0 blkGRD 0 := fun hno => by
      refine (hrec (by rw [hpwr, hpwr0]; exact hno)).from_congr (hlog.trans hlog0) (fun k hk hk' => ?_) (by decide)
      rw [hregs k (by simp only [List.mem_cons, List.not_mem_nil, or_false, not_or]; unfold Reg.PWC_TEMP Reg.PWC_CNT_THERMUS; omega),
        hregs0 k (hsensor k (by omega))]
    refine ⟨_, hexec, ?_⟩
    rcases Int.lt_or_le x (16 * 115) with hcool | htoo
    · rw [if_neg (by omega)]
      exact ⟨htemp', fun h => absurd h (by omega), fun _ => ⟨hduty, hforced⟩, fun _ _ => hrecorded, fun h => absurd h (by omega)⟩
    · rw [if_pos htoo]
      by_cases hzero : v.pwr.trip = 0
      · have ht := Dev.tripped_tripDev hstage hzero 1 i
        refine ⟨(Dev.fld_congr (ht.regs _ (by decide) (by decide) (by decide)) _ _).trans htemp', fun h => absurd h (by omega),
          fun _ => ⟨ht.duty.trans hduty, by rw [ht.trip]; exact hforced⟩, fun _ h => absurd h (by omega),
          fun _ _ => ⟨ht.state, ht.shown, ht.cmds, ?_⟩⟩
        rw [Dev.alive, ht.state]
        simp
      · have hsame : v.tripDev 1 i = v := if_pos (by simp [hzero])
        rw [hsame]
        exact ⟨htemp', fun h => absurd h (by omega), fun _ => ⟨hduty, hforced⟩, fun _ h => absurd h (by omega),
          fun _ hno => absurd (htrip.trans hno) hzero⟩

/-- A stack of HBM3E shows its temperature, doubles its refresh and halves its commands, and trips the device from 105 °C. -/
theorem exec_hbmSensorRead (hrun : d.grd.stage = .run) {k : Nat} (hk : k < 8) (x : Int) (s : Dev)
    (hs : s = (d.setFld (Reg.PWC_SENSOR (40 + k)) 0 16 (ofSigned 16 x)).setPwr fun p => { p with
      refresh2 := setBit p.refresh2 k (decide (16 * 85 ≤ x)), half := setBit p.half k (decide (16 * 95 ≤ x)) }) :
    exec (.hbmSensorRead k x) ⟨q, d⟩ = .next ⟨q, if 16 * 105 ≤ x then s.tripDev 2 (40 + k) else s⟩ := by
  rw [show exec (.hbmSensorRead k x) ⟨q, d⟩ = execHbmSensorRead k x ⟨q, d⟩ from rfl, execHbmSensorRead, State.always, if_pos hrun]
  dsimp only
  rw [if_neg (by omega), ← hs]

theorem exec_sensorCalibrationCheck (hrun : d.grd.stage = .run) {k : Nat} (hk : k < 40)
    (huse : d.flag (Reg.PWC_SENSOR k) 16 = false) :
    exec (.sensorCalibrationCheck k false) ⟨q, d⟩ =
      .next ⟨q, (d.setFlag (Reg.PWC_SENSOR k) 16 true).record clsGUARD 0x033 k 0 blkGRD 0⟩ ∧
    exec (.sensorCalibrationCheck k true) ⟨q, d⟩ = .next ⟨q, d⟩ := by
  have hexec : ∀ good, exec (.sensorCalibrationCheck k good) ⟨q, d⟩ = .next ⟨q, if 40 ≤ k || good || d.flag (Reg.PWC_SENSOR k) 16 then d
      else (d.setFlag (Reg.PWC_SENSOR k) 16 true).record clsGUARD 0x033 k 0 blkGRD 0⟩ := fun good => by
    rw [show exec (.sensorCalibrationCheck k good) ⟨q, d⟩ = execSensorCalibrationCheck k good ⟨q, d⟩ from rfl,
      execSensorCalibrationCheck, State.always, if_pos hrun]
  rw [hexec, hexec, huse, decide_eq_false (Nat.not_le.mpr hk)]
  exact ⟨rfl, rfl⟩

end

/-- Settles O46: the fast and the slow loop by their steps, each reading by what it shows and whether it trips the device. -/
theorem loopsTelemetryAndTemperature : Obligations.LoopsTelemetryAndTemperature := by
  intro q d
  refine ⟨exec_throttleAssert_inReset, rfl, fun hrun => ⟨?_, ?_, ?_, ?_, ?_, ?_, ?_, ?_, ?_, ?_, ?_⟩⟩
  · exact fun est pred hpin hwas hforced hslow hlo hhi => ⟨exec_fastLoop_lowers hrun hpin hforced hslow hlo hhi,
      exec_fastLoop_raises hrun hpin hforced, exec_fastLoop_keeps hrun hpin hforced hhi⟩
  · exact fun est pred hduty hover => exec_fastLoop_floor hrun hduty hover
  · intro arr lg sr htarget hstat hfast hhot hduty hwin
    have hs := d.sampled_slowSample [arr, lg, sr]
    have hspec := fun down low drop => Dev.slowStepped_spec (s := d.slowSample [arr, lg, sr]) (hs.fast.trans hfast)
      ((Dev.flag_congr (hs.regs _ (by decide)) _).trans hstat) (hs.target.trans htarget) down low drop
    have hstep : ∀ c, (d.slowSample [arr, lg, sr]).arrayStep c = d.arrayStep c := fun c => Dev.fld_congr (hs.regs _ (by decide)) _ _
    refine ⟨fun hover hroom => ?_, fun hunder hlow hroom => ?_⟩
    · obtain ⟨low, drop, hexec⟩ := exec_slowLoop_step (q := q) hrun htarget hhot hduty hwin true hroom hover (fun h => absurd h (by simp))
      obtain ⟨hwin', hgoal, hregs⟩ := hspec true low drop
      exact ⟨_, hexec, hwin', fun c hc _ => by rw [hgoal c hc, hstep]; rfl, fun k hk => (hregs k).trans (hs.regs k hk)⟩
    · obtain ⟨low, drop, hexec⟩ := exec_slowLoop_step (q := q) hrun htarget hhot hduty hwin false hroom (Dev.avgAbove_mono hunder)
        (fun _ => ⟨hunder, hlow⟩)
      obtain ⟨hwin', hgoal, hregs⟩ := hspec false low drop
      exact ⟨_, hexec, hwin', fun c hc => by rw [hgoal c hc, hstep]; rfl, fun k hk => (hregs k).trans (hs.regs k hk)⟩
  · exact fun c g k hc hfind hk hk8 => exec_stepChangeSettled hrun hc hfind hk hk8
  · exact fun i mv ma hi hmv hma hjob => railTelemetry_spec hi hrun hmv hma hjob
  · exact fun x mv hx hfirst hjob => exec_imonSample_first hrun hx hfirst hjob
  · exact fun i hi => exec_telemetryTimeout hrun hi
  · rintro hup s hs
    have hexec := exec_throttleAssert (q := q) hrun hup s hs
    exact ⟨by rw [hs]; exact Dev.duty_setDuty _ (by decide), fun hnew => by rw [hexec, if_neg hnew],
      fun hsame => by rw [hexec, if_pos hsame]⟩
  · exact fun ts i x _ huse hhot => sensorRead_spec hrun huse hhot
  · intro k x s hk hs
    have hexec := exec_hbmSensorRead (q := q) hrun hk x s hs
    exact ⟨fun hcool => by rw [hexec, if_neg (by omega)], fun htoo => by rw [hexec, if_pos htoo]⟩
  · exact fun k hk huse => exec_sensorCalibrationCheck hrun hk huse

end Sys2Proof.Machine
end

section
/-! The memory-fabric agent keeps a device of which no access has to wait so (R429, R430, R434 to R436): what it issues, serves and
kills, each in the order of the definitions. -/
namespace Sys2Proof.Machine
namespace Dev.StaysCalm
variable {s t u : Dev}

-- The short theorems below are elaborated one after another: side by side, their threads' stacks exceed the memory of the check.
set_option Elab.async false

/-! ### Requests -/

theorem emit {o : Out} (h : s.StaysCalm False t) : s.StaysCalm False (t.emit o) := h.frame
theorem mmfSend {dst kind gen : Nat} {fs : List (Nat × Nat × Nat × Nat)} {pay : List Byte} {x : Option Nat}
    (h : s.StaysCalm False t) : s.StaysCalm False (t.mmfSend dst kind gen fs pay x) := h.formed
theorem putReq {r : LineReq} {retry : Bool} {pay : List Byte} {x : Option Nat} (h : s.StaysCalm False t) :
    s.StaysCalm False (t.putReq r retry pay x) := (ite h.bump.bump h.bump).mmfSend
theorem newReq {r : LineReq} {pay : List Byte} (h : s.StaysCalm False t) : s.StaysCalm False (t.newReq r pay) :=
  putReq (t := t.setMmf _) h.frame
theorem dropReq {n : Nat} (h : s.StaysCalm False t) : s.StaysCalm False (t.dropReq n) := h.frame

theorem reqPump (n : Nat) (h : s.StaysCalm False t) : s.StaysCalm False (Dev.reqPump n t) := by
  induction n generalizing t with
  | zero => exact h
  | succ n ih =>
    unfold Dev.reqPump
    refine ite h ?_
    split
    · exact h
    · exact ih (newReq (t := t.setMmf _) h.frame)

theorem askReq {q : LineReq} (h : s.StaysCalm False t) : s.StaysCalm False (t.askReq q) := ite h (reqPump _ h.frame)

theorem sectorPump (h : s.StaysCalm False t) : s.StaysCalm False t.sectorPump := h.each fun h => ite h (askReq (t := Dev.setMmf _ _) h.frame)

theorem putBulk {dst gen op space region off chunk total : Nat} {bs : List Byte} {x : Option Nat} (h : s.StaysCalm False t) :
    s.StaysCalm False (t.putBulk dst gen op space region off chunk total bs x) := h.mmfSend.bump

/-- Where an access might have stalled on a device of which none has to, it has not. -/
theorem unlessStalled {v w : Dev} (h : s.StaysCalm False t) (ht : t.StaysCalm False u) (hw : s.StaysCalm False w) :
    s.StaysCalm False (if u.tiers.stalls ≠ t.tiers.stalls then v else w) := by
  refine ⟨fun hs => ?_⟩
  obtain ⟨hc, -, -⟩ := h.step hs
  obtain ⟨-, hst, -⟩ := ht.step hc
  rw [if_neg (not_not.mpr hst)]
  exact hw.step hs

theorem unlessStalledFst {α : Type} {p p' : Dev × α} (h : s.StaysCalm False t) (ht : t.StaysCalm False u)
    (hp : s.StaysCalm False p'.1) : s.StaysCalm False (if u.tiers.stalls ≠ t.tiers.stalls then p else p').1 := by
  refine ⟨fun hs => ?_⟩
  obtain ⟨hc, -, -⟩ := h.step hs
  obtain ⟨-, hst, -⟩ := ht.step hc
  rw [if_neg (not_not.mpr hst)]
  exact hp.step hs

/-! ### The commands of the agent -/

theorem setMfx {g : Nat} {f : MfxRun → MfxRun} (h : s.StaysCalm False t) : s.StaysCalm False (t.setMfx g f) :=
  h.frameCmds ⟨rfl, rfl, rfl, rfl⟩ False.elim

theorem mmfStop {g : Nat} (h : s.StaysCalm False t) : s.StaysCalm False (t.mmfStop g) := h.frame

theorem mmfKill {g status : Nat} {rerun : Bool} (h : s.StaysCalm False t) : s.StaysCalm False (t.mmfKill g status rerun) := by
  unfold Dev.mmfKill
  split
  · split
    · exact ite h.mmfStop.record.kill h.mmfStop.kill
    · exact h.mmfStop.kill
  · exact h

theorem linePump (g n : Nat) (h : s.StaysCalm False t) : s.StaysCalm False (Dev.linePump g n t).1 := by
  induction n generalizing t with
  | zero => exact h
  | succ n ih =>
    unfold Dev.linePump
    split
    · split
      · refine iteFst h ?_
        dsimp only
        split
        · exact iteFst h.cmdRead h
        · refine unlessStalledFst h (iteFst (refl t).cmdRead (refl t)) (ih (newReq ?_).setMfx)
          exact iteFst h.cmdRead h
      · exact h
    · exact h

theorem storeChunk {g c : Nat} {r : MfxRun} {x : Option Nat} (h : s.StaysCalm False t) :
    s.StaysCalm False (t.storeChunk g r c x).1 := by
  unfold Dev.storeChunk
  dsimp only
  split
  · next heq => exact h.cmdRead.of_fst heq
  · next heq => exact (h.cmdRead.of_fst heq).putBulk

theorem storePump (g n : Nat) (h : s.StaysCalm False t) : s.StaysCalm False (Dev.storePump g n t).1 := by
  induction n generalizing t with
  | zero => exact h
  | succ n ih =>
    unfold Dev.storePump
    split
    · split
      · refine iteFst h ?_
        dsimp only
        refine iteFst h.storeChunk (unlessStalledFst h (refl t).storeChunk (ih h.storeChunk.setMfx))
      · exact h
    · exact h

theorem bulkrdPump {g : Nat} {r : MfxRun} (h : s.StaysCalm False t) : s.StaysCalm False (t.bulkrdPump g r) :=
  ite h h.setMfx.newReq

theorem atomicPump {g : Nat} {l : Line} {r : MatomicRun} (h : s.StaysCalm False t) : s.StaysCalm False (t.atomicPump g l r) :=
  ite h h.setBody.newReq

theorem mfxGo {g : Nat} (h : s.StaysCalm False t) : s.StaysCalm False (t.mfxGo g) := by
  unfold Dev.mfxGo
  split
  · split
    · dsimp only
      have hgo := fun r => iteFst (c := (!r.gateway) = true) (h.linePump g 1025)
        (iteFst (c := r.store = true) (h.storePump g 65) (q := (t.bulkrdPump g r, true)) h.bulkrdPump)
      exact ite (hgo _) (hgo _).mmfKill
    · exact h.atomicPump
    · exact h
  · exact h

/-! ### Transfers that the device serves -/

theorem placeLines (p : Place) (is : List Nat) (h : s.StaysCalm False t) : s.StaysCalm False (Dev.placeLines p is t).1 := by
  induction is generalizing t with
  | nil => exact h
  | cons i is ih =>
    unfold Dev.placeLines
    exact iteFst h.lineRead (ih h.lineRead)

theorem placeTouch {p : Place} {n : Nat} (h : s.StaysCalm False t) : s.StaysCalm False (t.placeTouch p n) := by
  unfold Dev.placeTouch
  split
  · exact h.touch.snooped
  · exact h

theorem placeWrite {p : Place} {bs : List Byte} (h : s.StaysCalm False t) : s.StaysCalm False (t.placeWrite p bs) := by
  unfold Dev.placeWrite
  split
  · exact h.jobWrite
  · exact h.wrBytes

theorem dropServe {b : BulkServe} (h : s.StaysCalm False t) : s.StaysCalm False (t.dropServe b) := h.frame

theorem serveChunk {b : BulkServe} {c : Nat} {x : Option Nat} (h : s.StaysCalm False t) :
    s.StaysCalm False (t.serveChunk b c x).1 := by
  unfold Dev.serveChunk
  dsimp only
  exact iteFst h.dropServe.bump.mmfSend (iteFst (placeLines _ _ h.placeTouch).dropServe.bump.mmfSend
    (placeLines _ _ h.placeTouch).putBulk)

theorem servePump (coord gen n : Nat) (h : s.StaysCalm False t) : s.StaysCalm False (Dev.servePump coord gen n t) := by
  induction n generalizing t with
  | zero => exact h
  | succ n ih =>
    unfold Dev.servePump
    split
    · exact h
    · refine ite h ?_
      dsimp only
      exact ite h.serveChunk (unlessStalled h (refl t).serveChunk (ih (t := Dev.setMmf _ _) h.serveChunk.frame))

theorem mfxGoAll (h : s.StaysCalm False t) : s.StaysCalm False t.mfxGoAll :=
  ((reqPump _ h).sectorPump.each mfxGo).each fun h => servePump _ _ _ h

/-! ### The loss of a lender, and the commands that it kills -/

theorem moveKill {g status : Nat} (h : s.StaysCalm False t) : s.StaysCalm False (t.moveKill g status) :=
  (each (t := t.setTiers _) h.frame moveCancel).kill.pump

theorem cmdFail {g : Nat} (h : s.StaysCalm False t) : s.StaysCalm False (t.cmdFail g) := by
  unfold Dev.cmdFail
  split
  · exact h
  · split
    · exact ite h h.instKill
    · exact h.groupFault
    · exact h.groupFault
    · exact h.groupFault
    · exact h.moveKill
    · exact h.mmfKill
    · exact h.mmfKill
    · exact h

theorem failLost (h : s.StaysCalm False t) : s.StaysCalm False t.failLost := (h.each cmdFail).frame

/-- With no page in lent HBM, the loss of a lender ends moves only. -/
theorem tierLost_lent {p : Nat → Bool} (h : s.StaysCalm False t) :
    s.StaysCalm False (t.tierLost fun home lender => home == 4 && p lender) := by
  refine StaysCalm.pump ((h.each moveCancel).each fun {u e} h => h.andThen fun hc => ?_)
  have hhome : (pteHome (u.pte e.1) == 4) = false := beq_eq_false_iff_ne.mpr (Dev.pteHome_of_calm hc e.1)
  simp only [hhome, Bool.false_and, Bool.not_false, if_true]
  exact refl u

theorem lenderLost {g : Nat} {who : Nat → Nat → Bool} (h : s.StaysCalm False t) : s.StaysCalm False (t.lenderLost g who) :=
  h.each fun h => (StaysCalm.record (setFld h)).tierLost_lent

end Dev.StaysCalm
end Sys2Proof.Machine
end

section
/-! The commands of the memory-fabric agent, the answers to their requests and REQ_TO (R428 to R430, R432, R434 to R436). -/
namespace Sys2Proof.Machine

-- The short theorems below are elaborated one after another: side by side, their threads' stacks exceed the memory of the check.
set_option Elab.async false

section
variable {q : List Instr} {d : Dev} (halive : d.alive = true)
include halive

/-! ### MFX and MATOMIC -/

section
variable {src : Source} {l : Line}

theorem exec_mfx (hop : dOp l = 0x0500) : exec (.mfx src l) ⟨q, d⟩ = .next ⟨q, match d.headCheck l with
    | some r => d.refuse src l r
    | none =>
      match d.mfxBad l with
      | some n => d.refuse src l ⟨clsMEM, 0x020, n⟩
      | none =>
        if (lfield l 16 0 1 == 1) && lnum l 24 8 < lnum l 48 8 + 64 && lnum l 48 8 < lnum l 24 8 + lnum l 40 8 then
          d.refuse src l ⟨clsJOB, 0x044, max (lnum l 24 8) (lnum l 48 8)⟩
        else
          let p := d.arm src l 0 (if lfield l 16 0 1 == 1 then [(jobKey (lnum l 24 8), lnum l 40 8)] else [])
            (if lfield l 16 0 1 == 1 then [(jobKey (lnum l 48 8), 64)]
              else [(jobKey (lnum l 24 8), lnum l 40 8), (jobKey (lnum l 48 8), 64)])
            (.mfx ⟨lfield l 16 0 1 == 1, !(sameStage d.coord (lnum l 18 2) && (d.fld Reg.MMF_CFG 8 8 == 0
              || decide (lnum l 40 8 < d.fld Reg.MMF_CFG 8 8 * 1024))), lnum l 18 2, lfield l 17 0 6, lnum l 24 8, lnum l 32 8,
              lnum l 40 8, lnum l 48 8, 0, [], [], 0⟩)
          p.1.mfxGo p.2⟩ := by
  rw [show exec (.mfx src l) ⟨q, d⟩ = execMfx src l ⟨q, d⟩ from rfl, execMfx, State.upd_alive halive]
  dsimp only
  refine congrArg (fun t => Host.Outcome.next (State.mk q t)) ((if_neg (not_not.mpr hop)).trans ?_)
  cases d.headCheck l <;> cases d.mfxBad l <;> rfl

theorem exec_matomic (hop : dOp l = 0x0501) : exec (.matomic src l) ⟨q, d⟩ = .next ⟨q, match d.headCheck l with
    | some r => d.refuse src l r
    | none =>
      match d.matomicBad l with
      | some n => d.refuse src l ⟨clsMEM, 0x020, n⟩
      | none =>
        let p := d.arm src l 0 [] [(jobKey (lnum l 48 8), 8)] (.matomic ⟨false, lnum l 18 2, lnum l 48 8, none, false⟩)
        p.1.mfxGo p.2⟩ := by
  rw [show exec (.matomic src l) ⟨q, d⟩ = execMatomic src l ⟨q, d⟩ from rfl, execMatomic, State.upd_alive halive]
  dsimp only
  refine congrArg (fun t => Host.Outcome.next (State.mk q t)) ((if_neg (not_not.mpr hop)).trans ?_)
  cases d.headCheck l <;> cases d.matomicBad l <;> rfl

omit halive in
theorem Dev.arm_gen {entry : Nat} {reads writes : List (Nat × Nat)} {body : CmdBody} :
    (d.arm src l entry reads writes body).2 = d.nextGen := by
  unfold Dev.arm
  dsimp only
  split <;> rfl

theorem exec_mfx_armed (hop : dOp l = 0x0500) (hhead : d.headCheck l = none) (hgood : d.mfxBad l = none)
    (happart : lfield l 16 0 1 = 1 → lnum l 24 8 + lnum l 40 8 ≤ lnum l 48 8 ∨ lnum l 48 8 + 64 ≤ lnum l 24 8) {run : MfxRun}
    (hrun : run = ⟨lfield l 16 0 1 == 1, !(sameStage d.coord (lnum l 18 2) && (d.fld Reg.MMF_CFG 8 8 == 0
      || decide (lnum l 40 8 < d.fld Reg.MMF_CFG 8 8 * 1024))), lnum l 18 2, lfield l 17 0 6, lnum l 24 8, lnum l 32 8,
      lnum l 40 8, lnum l 48 8, 0, [], [], 0⟩) {s : Dev} {g : Nat}
    (harm : d.arm src l 0 (if lfield l 16 0 1 == 1 then [(jobKey (lnum l 24 8), lnum l 40 8)] else [])
      (if lfield l 16 0 1 == 1 then [(jobKey (lnum l 48 8), 64)]
        else [(jobKey (lnum l 24 8), lnum l 40 8), (jobKey (lnum l 48 8), 64)]) (.mfx run) = (s, g)) :
    exec (.mfx src l) ⟨q, d⟩ = .next ⟨q, s.mfxGo g⟩ ∧ g = d.nextGen := by
  have hfree : ((lfield l 16 0 1 == 1) && lnum l 24 8 < lnum l 48 8 + 64 && lnum l 48 8 < lnum l 24 8 + lnum l 40 8) = false := by
    rcases Bool.eq_false_or_eq_true (lfield l 16 0 1 == 1) with hstore | hload
    · have := happart (by simpa using hstore)
      rw [hstore]
      simp only [Bool.true_and, Bool.and_eq_false_iff, decide_eq_false_iff_not]
      omega
    · rw [hload]
      rfl
  refine ⟨?_, by rw [← d.arm_gen, harm]⟩
  rw [exec_mfx halive hop, hhead, hgood]
  dsimp only
  rw [hfree, if_neg (by simp), ← hrun, harm]

theorem exec_matomic_armed (hop : dOp l = 0x0501) (hhead : d.headCheck l = none) (hgood : d.matomicBad l = none) {s : Dev} {g : Nat}
    (harm : d.arm src l 0 [] [(jobKey (lnum l 48 8), 8)] (.matomic ⟨false, lnum l 18 2, lnum l 48 8, none, false⟩) = (s, g)) :
    exec (.matomic src l) ⟨q, d⟩ = .next ⟨q, s.mfxGo g⟩ ∧ g = d.nextGen := by
  refine ⟨?_, by rw [← d.arm_gen, harm]⟩
  rw [exec_matomic halive hop, hhead, hgood]
  dsimp only
  rw [harm]

end

/-! ### Answers -/

section
variable {c : Carriage}

/-- A response that has left no line to the device's own units arms nothing. -/
theorem exec_lineResponse {t : Dev} (ht : (d.lineResponse c).failLost = t) : exec (.lineResponseReceive c) ⟨q, d⟩ =
    .next ⟨q, if t.mmf.lines.any (fun l => l.1 == 0) then t.armRings else t⟩ := by
  rw [show exec (.lineResponseReceive c) ⟨q, d⟩ = execLineResponseReceive c ⟨q, d⟩ from rfl, execLineResponseReceive,
    State.upd_alive halive, ← ht]

theorem exec_lineResponse_calm (hcalm : d.calm = true) {t : Dev} (ht : d.lineResponse c = t) (hs : d.StaysCalm False t) :
    exec (.lineResponseReceive c) ⟨q, d⟩ = .next ⟨q, t.failLost⟩ := by
  rw [exec_lineResponse halive rfl, ht]
  obtain ⟨hc, -, -⟩ := hs.failLost.step hcalm
  obtain ⟨-, hlines, -⟩ := t.failLost.calm_iff.1 hc
  rw [hlines, if_neg (by simp)]

/-- The request that a response answers. -/
def Dev.answered (s : Dev) (c : Carriage) : Option LineReq :=
  s.mmf.reqs.find? fun r => r.tag == mTag c && r.gen % 2 ^ 32 == c.gen && r.remote == c.src && r.op == mOp c

/-- What the answer to request `r` does, by what the request serves. -/
def Dev.lineAnswer (s : Dev) (c : Carriage) (r : LineReq) : Dev :=
  if mStatus c = stBUSY then
    s.setMmf fun m => { m with reqs := updFirst (fun x => x.tag == r.tag) (fun x => { x with busy := true }) m.reqs }
  else match r.use with
    | .recheck k => ((s.dropReq r.tag).recheckDone k (mStatus c)).mfxGoAll
    | .lent g => (s.lentAnswer r g (mStatus c) c.payload).mfxGoAll
    | .sector _ _ => s
    | .atomic g =>
      match s.cmd g with
      | some k => match k.body with
        | .matomic x =>
          if mStatus c = stOK then ((s.dropReq r.tag).setBody g (.matomic { x with
            got := some (mOperand c % 2 ^ (if r.w64 then 64 else 32)) })).mfxGoAll
          else (s.mmfRefused g (mStatus c) r.remote x.result).mfxGoAll
        | _ => s
      | none => s
    | .unit g =>
      match s.cmd g with
      | some k => match k.body with
        | .mfx x =>
          if mStatus c ≠ stOK then (s.mmfRefused g (mStatus c) r.remote (x.loc + (r.offset - x.offset))).mfxGoAll
          else
            let p := if x.store then (s, true) else s.cmdWrite g (x.loc + (r.offset - x.offset)) (c.payload.take (64 * r.nlines))
            if p.2 then (p.1.dropReq r.tag).mfxGoAll else (p.1.mmfKill g 2 false).mfxGoAll
        | _ => s
      | none => s

section
variable (hkind : c.kind = kMRSP) (hack : mOp c ≠ oBULKACK) (hrd : mOp c ≠ oBULKRD)
include hkind hack hrd

omit halive in
/-- A response to a line request goes to the request that it answers, or is stale. -/
theorem Dev.lineResponse_eq : d.lineResponse c = match (d.taken c).answered c with
    | none => (d.taken c).bump Reg.MMF_CNT_STALE 1
    | some r => (d.taken c).lineAnswer c r := by
  unfold Dev.lineResponse
  dsimp only
  rw [if_neg (by simp [hkind, hack]), if_neg hrd]
  rfl

end

section
variable {s : Dev} {r : LineReq} {g : Nat} {k : Cmd}

omit halive in
theorem Dev.lineAnswer_atomic {x : MatomicRun} (huse : r.use = .atomic g) (hcmd : s.cmd g = some k) (hbody : k.body = .matomic x)
    (hok : mStatus c = stOK) : s.lineAnswer c r = ((s.dropReq r.tag).setBody g (.matomic { x with
      got := some (mOperand c % 2 ^ (if r.w64 then 64 else 32)) })).mfxGoAll := by
  unfold Dev.lineAnswer
  rw [if_neg (by rw [hok]; decide), huse]
  dsimp only
  rw [hcmd]
  dsimp only
  rw [hbody]
  exact if_pos hok

section
variable {x : MfxRun} (huse : r.use = .unit g) (hcmd : s.cmd g = some k) (hbody : k.body = .mfx x)
include huse hcmd hbody

omit halive in
theorem Dev.lineAnswer_unit (hbusy : mStatus c ≠ stBUSY) : s.lineAnswer c r =
    if mStatus c ≠ stOK then (s.mmfRefused g (mStatus c) r.remote (x.loc + (r.offset - x.offset))).mfxGoAll
    else
      let p := if x.store then (s, true) else s.cmdWrite g (x.loc + (r.offset - x.offset)) (c.payload.take (64 * r.nlines))
      if p.2 then (p.1.dropReq r.tag).mfxGoAll else (p.1.mmfKill g 2 false).mfxGoAll := by
  unfold Dev.lineAnswer
  rw [if_neg hbusy, huse]
  dsimp only
  rw [hcmd]
  dsimp only
  rw [hbody]

omit halive in
/-- The lines that a load brings are written in the command's region, and its request is free. -/
theorem Dev.lineAnswer_load (hok : mStatus c = stOK) (hload : x.store = false) {t : Dev}
    (hwrite : s.cmdWrite g (x.loc + (r.offset - x.offset)) (c.payload.take (64 * r.nlines)) = (t, true)) :
    s.lineAnswer c r = (t.dropReq r.tag).mfxGoAll := by
  rw [Dev.lineAnswer_unit huse hcmd hbody (by rw [hok]; decide), if_neg (not_not.mpr hok), hload]
  dsimp only
  rw [if_neg Bool.false_ne_true, hwrite]
  exact if_pos rfl

omit halive in
/-- A refusal kills the command with MEM/0x021 and the status (R435). -/
theorem Dev.lineAnswer_refused (hok : mStatus c ≠ stOK) (hbusy : mStatus c ≠ stBUSY) (hpoison : mStatus c ≠ stPOISON) :
    s.lineAnswer c r =
      ((s.record clsMEM 0x021 (mStatus c + r.remote * 2 ^ 16) g blkMMF 0).mmfKill g 2 false).mfxGoAll := by
  rw [Dev.lineAnswer_unit huse hcmd hbody hbusy, if_pos hok, Dev.mmfRefused, if_neg hpoison]

end

/-! ### Lines of lent HBM -/

omit halive in
theorem Dev.lineAnswer_lent (huse : r.use = .lent g) (hbusy : mStatus c ≠ stBUSY) :
    s.lineAnswer c r = (s.lentAnswer r g (mStatus c) c.payload).mfxGoAll := by
  unfold Dev.lineAnswer
  rw [if_neg hbusy, huse]

omit halive in
/-- A line that a load brings is laid at its place where no store to it is under way, and given to its command. -/
theorem Dev.lentAnswer_laid (hload : r.op = oLOAD) (hfree : (s.mmf.reqs ++ s.mmf.queue).any (fun x => x.op == oSTORE && x.meets r) = false)
    (pay : List Byte) : s.lentAnswer r g stOK pay =
      ((s.dropReq r.tag).wrBytes r.key (pay.take 64 ++ List.replicate (64 - pay.length) 0)).lentGot g r.key := by
  have hfree' : ((s.dropReq r.tag).mmf.reqs ++ (s.dropReq r.tag).mmf.queue).any (fun x => x.op == oSTORE && x.meets r) = false := by
    rw [List.any_eq_false] at hfree ⊢
    intro x hx
    refine hfree x ?_
    rcases List.mem_append.mp hx with hreq | hqueue
    · exact List.mem_append_left _ (List.mem_filter.mp hreq).1
    · exact List.mem_append_right _ hqueue
  unfold Dev.lentAnswer
  dsimp only
  rw [if_pos rfl, hload, if_pos (by rfl), hfree', if_neg (by simp)]

omit halive in
/-- The answer NOLOAN marks the loan lost and fails the command. -/
theorem Dev.lentAnswer_noloan (pay : List Byte) : s.lentAnswer r g stNOLOAN pay = ((s.dropReq r.tag).lenderLost g fun k l =>
    l == r.remote && decide (s.fld (Reg.MMF_BORROW k) 16 9 * 512 ≤ keyLentOff r.key / 2 ^ 21) &&
      decide (keyLentOff r.key / 2 ^ 21 < (s.fld (Reg.MMF_BORROW k) 16 9 + s.fld (Reg.MMF_BORROW k) 32 9) * 512)).lentFail g r.key := by
  unfold Dev.lentAnswer
  dsimp only
  rw [if_neg (by decide), if_pos rfl]
  rfl

end

/-! ### REQ_TO -/

section
variable {tag : Nat} {r : LineReq} {g : Nat} {k : Cmd} {x : MfxRun} (hfind : d.mmf.reqs.find? (fun r => r.tag == tag) = some r)
  (huse : r.use = .unit g) (hidle : r.busy = false)
include hfind huse hidle

omit halive in
/-- At RETRY_MAX the command is killed with MEM/0x022, and the lender's loans are lost. -/
theorem Dev.requestTimeout_last (hlimit : d.fld Reg.MMF_TMR 8 4 ≤ r.tries) : d.requestTimeout tag =
    (Dev.lenderLost ((d.record clsMEM 0x022 (r.remote * 2 ^ 16) g blkMMF 0).mmfKill g 2 false) r.gen fun _ l => l == r.remote).mfxGoAll := by
  have hgen : d.reqGen r = r.gen := by
    unfold Dev.reqGen
    rw [huse]
  unfold Dev.requestTimeout
  rw [hfind]
  dsimp only
  rw [hidle, decide_eq_true hlimit, if_pos (by rfl), hgen, huse]

omit halive in
/-- Below RETRY_MAX a request without a payload is sent again with RETRY = 1. -/
theorem Dev.requestTimeout_again (hmore : r.tries < d.fld Reg.MMF_TMR 8 4) (hcmd : d.cmd g = some k) (hbody : k.body = .mfx x)
    (hstore : r.op ≠ oSTORE) : d.requestTimeout tag = ((d.setMmf fun m => { m with
      reqs := updFirst (fun r => r.tag == tag) (fun r => { r with tries := r.tries + 1, busy := false }) m.reqs }).setMfx g
      fun x => { x with repeats := x.repeats + 1 }).putReq r true [] r.plane := by
  have hagain : updFirst (fun r => r.tag == tag) (fun r : LineReq => { r with tries := if r.busy then r.tries else r.tries + 1, busy := false })
      d.mmf.reqs = updFirst (fun r => r.tag == tag) (fun r => { r with tries := r.tries + 1, busy := false }) d.mmf.reqs := by
    refine updFirst_congr fun y hy => ?_
    obtain rfl : r = y := Option.some.inj (hfind.symm.trans hy)
    rw [hidle, if_neg (by simp)]
  have hpay : ∀ s : Dev, s.cmd g = some k → s.reqPay r = (s, some []) := fun s hs => by
    unfold Dev.reqPay
    rw [huse]
    dsimp only
    rw [hs]
    dsimp only
    rw [hbody]
    exact if_neg hstore
  unfold Dev.requestTimeout
  rw [hfind]
  dsimp only
  rw [hidle, decide_eq_false (Nat.not_le.mpr hmore), if_neg (by simp), hpay _ (by exact hcmd)]
  dsimp only
  rw [huse]
  dsimp only
  unfold Dev.setMmf
  dsimp only
  rw [hagain]

end
end
end

/-- Settles O27: each answer is a branch of `Dev.lineAnswer`, and REQ_TO is its two cases. -/
theorem memoryFabricCommands : Obligations.MemoryFabricCommands := by
  intro q d halive
  refine ⟨fun src l s g run hop hhead hgood happart hrun harm => exec_mfx_armed halive hop hhead hgood happart hrun harm,
    fun src l s g hop hhead hgood harm => exec_matomic_armed halive hop hhead hgood harm,
    fun src l n hhead => ⟨fun hop hbad => by rw [exec_mfx halive hop, hhead, hbad],
      fun hop hbad => by rw [exec_matomic halive hop, hhead, hbad]⟩, ?_, ?_, ?_⟩
  · rintro c _ hkind hack hrd hcalm rfl
    have heq := Dev.lineResponse_eq (d := d) hkind hack hrd
    have htaken : d.StaysCalm False (d.taken c) := (Dev.StaysCalm.refl d).taken
    refine ⟨fun hnone => ?_, fun r hr => ?_⟩
    · rw [show (d.taken c).answered c = none from hnone] at heq
      exact exec_lineResponse_calm halive hcalm heq htaken.bump
    rw [show (d.taken c).answered c = some r from hr] at heq
    dsimp only at heq
    refine ⟨fun hbusy => ?_, fun g k x huse hcmd hbody hok => ?_, fun g k x huse hcmd hbody => ⟨fun s hok hload hwrite => ?_,
      fun hok hbusy hpoison => ?_⟩⟩
    · exact exec_lineResponse_calm halive hcalm (heq.trans (if_pos hbusy)) htaken.frame
    · exact exec_lineResponse_calm halive hcalm (heq.trans (Dev.lineAnswer_atomic huse hcmd hbody hok)) htaken.dropReq.setBody.mfxGoAll
    · exact exec_lineResponse_calm halive hcalm (heq.trans (Dev.lineAnswer_load (s := d.taken c) huse hcmd hbody hok hload hwrite))
        (htaken.cmdWrite.of_fst hwrite).dropReq.mfxGoAll
    · exact exec_lineResponse_calm halive hcalm (heq.trans (Dev.lineAnswer_refused huse hcmd hbody hok hbusy hpoison))
        htaken.record.mmfKill.mfxGoAll
  · intro c r g s hkind hop huse hload hr hcases
    have heq := Dev.lineResponse_eq (d := d) hkind (by rw [hop]; decide) (by rw [hop]; decide)
    rw [show (d.taken c).answered c = some r from hr] at heq
    dsimp only at heq
    refine exec_lineResponse halive ?_
    rcases hcases with ⟨hok, hfree, rfl⟩ | ⟨hno, rfl⟩
    · rw [heq, Dev.lineAnswer_lent huse (by rw [hok]; decide), hok,
        Dev.lentAnswer_laid (s := d.taken c) hload hfree]
    · rw [heq, Dev.lineAnswer_lent huse (by rw [hno]; decide), hno, Dev.lentAnswer_noloan]
      rfl
  · intro tag r g k x hcalm hfind huse hcmd hbody
    refine ⟨fun hidle hlimit => ?_, fun hidle hmore hstore => ?_⟩
    · exact State.unit_of_staysCalm q halive hcalm (congrArg Dev.failLost (Dev.requestTimeout_last hfind huse hidle hlimit))
        (Dev.StaysCalm.refl d).record.mmfKill.lenderLost.mfxGoAll.failLost
    · exact State.unit_of_staysCalm q halive hcalm
        (congrArg Dev.failLost (Dev.requestTimeout_again hfind huse hidle hmore hcmd hbody hstore))
        (Dev.StaysCalm.putReq (Dev.StaysCalm.setMfx (t := d.setMmf _) (Dev.StaysCalm.refl d).frame)).failLost

end Sys2Proof.Machine
end

section
/-! What the exporter answers to a LOAD, a STORE and an ATOMIC (R422, R423, R425 to R427). -/
namespace Sys2Proof.Machine

-- The short theorems below are elaborated one after another: side by side, their threads' stacks exceed the memory of the check.
set_option Elab.async false

theorem Dev.StaysCalm.mmfReply {s t : Dev} {c : Carriage} {status old : Nat} {pay : List Byte} (h : s.StaysCalm False t) :
    s.StaysCalm False (t.mmfReply c status old pay) := by
  refine mmfSend ?_
  split
  · exact h.bump
  · exact h.bump.bump

section
variable {q : List Instr} {d : Dev} {c : Carriage} (halive : d.alive = true) (hkind : c.kind = kMREQ)
include halive hkind

/-! ### LOAD and STORE -/

theorem exec_load_ok (hop : mOp c = oLOAD) (hcalm : d.calm = true) {p : Place} {t : Dev}
    (hok : (d.taken c).mmfCheck c.src (mSpace c) (mRegion c) (mOffset c / 64 * 64) (64 * mLines c) 64 false false = (stOK, p))
    (hlines : Dev.placeLines p (lineSteps (64 * mLines c)) ((d.taken c).placeTouch p (64 * mLines c)) = (t, stOK)) :
    exec (.load c) ⟨q, d⟩ = .next ⟨q, t.mmfReply c stOK 0 (t.placeRead p (64 * mLines c))⟩ := by
  have ht : d.StaysCalm False t := ((Dev.StaysCalm.refl d).taken.placeTouch.placeLines p _).of_fst hlines
  refine State.unit_of_staysCalm q halive hcalm ?_ ht.mmfReply
  dsimp only
  rw [hok, if_neg (by rw [hkind, hop]; decide), if_neg (not_not.mpr rfl), hlines]
  rfl

theorem exec_load_refused (hop : mOp c = oLOAD) (hcalm : d.calm = true) {st : Nat} {p : Place}
    (hcheck : (d.taken c).mmfCheck c.src (mSpace c) (mRegion c) (mOffset c / 64 * 64) (64 * mLines c) 64 false false = (st, p))
    (hst : st ≠ stOK) : exec (.load c) ⟨q, d⟩ = .next ⟨q, (d.taken c).mmfReply c st 0 []⟩ := by
  refine State.unit_of_staysCalm q halive hcalm ?_ (Dev.StaysCalm.refl d).taken.mmfReply
  dsimp only
  rw [hcheck, if_neg (by rw [hkind, hop]; decide), if_pos hst]

theorem exec_store_ok (hop : mOp c = oSTORE) {p : Place}
    (hok : (d.taken c).mmfCheck c.src (mSpace c) (mRegion c) (mOffset c / 64 * 64) (64 * mLines c) 64 true false = (stOK, p)) :
    exec (.store c) ⟨q, d⟩ = .next ⟨q, ((d.taken c).placeWrite p (c.payload.take (64 * mLines c))).mmfReply c stOK 0 []⟩ := by
  rw [show exec (.store c) ⟨q, d⟩ = execStore c ⟨q, d⟩ from rfl, execStore, State.upd_alive halive]
  dsimp only
  rw [hok, if_neg (by rw [hkind, hop]; decide), if_neg (not_not.mpr rfl)]

theorem exec_store_refused (hop : mOp c = oSTORE) {st : Nat} {p : Place}
    (hcheck : (d.taken c).mmfCheck c.src (mSpace c) (mRegion c) (mOffset c / 64 * 64) (64 * mLines c) 64 true false = (st, p))
    (hst : st ≠ stOK) : exec (.store c) ⟨q, d⟩ = .next ⟨q, (d.taken c).mmfReply c st 0 []⟩ := by
  rw [show exec (.store c) ⟨q, d⟩ = execStore c ⟨q, d⟩ from rfl, execStore, State.upd_alive halive]
  dsimp only
  rw [hcheck, if_neg (by rw [hkind, hop]; decide), if_pos hst]

/-! ### ATOMIC and its saved result -/

section
variable (hop : mOp c = oATOMIC) (hcalm : d.calm = true) (haop : aopOk (mAop c) = true)
include hop hcalm haop

theorem exec_atomic_done {b : Nat} (hb : b = if mW64 c then 8 else 4) (hfirst : mRetry c = false)
    (hroom : (d.taken c).mmf.atoms.length < 4096) {p : Place} {t : Dev} {old : Nat}
    (hok : (d.taken c).mmfCheck c.src (mSpace c) (mRegion c) (mOffset c) b b true true = (stOK, p))
    (hlines : Dev.placeLines p [0] ((d.taken c).placeTouch p b) = (t, stOK)) (hold : old = leNat (t.placeRead p b)) :
    exec (.atomic c) ⟨q, d⟩ = .next ⟨q, Dev.mmfReply ((t.placeWrite p (leBytes b (atomicOp (mAop c) (8 * b) old
      (mOperand c % 2 ^ (8 * b)) (mCompare c % 2 ^ (8 * b))))).setMmf fun m => { m with
        atoms := m.atoms.filter (fun e => !(e.coord == c.src && e.tag == mTag c)) ++ [⟨c.src, mTag c, BitVec.ofNat 64 old⟩] })
      c stOK old []⟩ := by
  have ht : d.StaysCalm False t := ((Dev.StaysCalm.refl d).taken.placeTouch.placeLines p _).of_fst hlines
  refine State.unit_of_staysCalm q halive hcalm ?_ (Dev.StaysCalm.mmfReply (t := Dev.setMmf _ _) ht.placeWrite.frame)
  dsimp only
  rw [if_neg (by rw [hkind, hop, haop]; decide), hfirst, if_neg (by decide)]
  dsimp only
  rw [if_neg (Nat.not_le.mpr hroom), ← hb, hok, if_neg (not_not.mpr rfl), hlines, ← hold]
  exact if_neg (not_not.mpr rfl)

theorem exec_atomic_again {e : AtomEntry} (hretry : mRetry c = true)
    (hsaved : (d.taken c).mmf.atoms.find? (fun e => e.coord == c.src && e.tag == mTag c) = some e) :
    exec (.atomic c) ⟨q, d⟩ = .next ⟨q, (d.taken c).mmfReply c stOK e.old.toNat []⟩ := by
  refine State.unit_of_staysCalm q halive hcalm ?_ (Dev.StaysCalm.refl d).taken.mmfReply
  dsimp only
  rw [if_neg (by rw [hkind, hop, haop]; decide), hretry, if_pos rfl, hsaved]

theorem exec_atomic_full (hfirst : mRetry c = false) (hfull : 4096 ≤ (d.taken c).mmf.atoms.length) :
    exec (.atomic c) ⟨q, d⟩ = .next ⟨q, ((d.taken c).mmfReply c stBUSY 0 []).bump Reg.MMF_CNT_ATOMBUSY 1⟩ := by
  refine State.unit_of_staysCalm q halive hcalm ?_ (Dev.StaysCalm.refl d).taken.mmfReply.bump
  dsimp only
  rw [if_neg (by rw [hkind, hop, haop]; decide), hfirst, if_neg (by decide)]
  dsimp only
  rw [if_pos hfull]

end
end

theorem exec_atomEntryExpire {q : List Instr} {d : Dev} (halive : d.alive = true) (coord tag : Nat) :
    exec (.atomEntryExpire coord tag) ⟨q, d⟩
      = .next ⟨q, d.setMmf fun m => { m with atoms := m.atoms.filter fun e => !(e.coord == coord && e.tag == tag) }⟩ := by
  rw [show exec (.atomEntryExpire coord tag) ⟨q, d⟩ = execAtomEntryExpire coord tag ⟨q, d⟩ from rfl, execAtomEntryExpire,
    State.upd_alive halive]

/-- Settles O28: each answer is one branch of LOAD, STORE or ATOMIC, and none of them stalls on a calm device. -/
theorem servedRequests : Obligations.ServedRequests := by
  rintro q d c _ halive rfl hkind
  refine ⟨fun hop hcalm => ⟨fun p t hok hlines => exec_load_ok halive hkind hop hcalm hok hlines,
      fun st p hcheck hst => exec_load_refused halive hkind hop hcalm hcheck hst⟩,
    fun hop => ⟨fun p hok => exec_store_ok halive hkind hop hok,
      fun st p hcheck hst => exec_store_refused halive hkind hop hcheck hst⟩,
    fun hop hcalm haop b hb => ⟨fun hfirst hroom p t old hok hlines hold =>
        exec_atomic_done halive hkind hop hcalm haop hb hfirst hroom hok hlines hold,
      fun e hretry hsaved => exec_atomic_again halive hkind hop hcalm haop hretry hsaved,
      fun hfirst hfull => exec_atomic_full halive hkind hop hcalm haop hfirst hfull⟩,
    fun coord tag => exec_atomEntryExpire halive coord tag⟩

end Sys2Proof.Machine
end

section
/-! The gateway's transfers: BULKRD, the chunks, their acknowledgements, the coalescing and BULK_TO (R429, R432). -/
namespace Sys2Proof.Machine

-- The short theorems below are elaborated one after another: side by side, their threads' stacks exceed the memory of the check.
set_option Elab.async false

theorem Dev.StaysCalm.sectorChunk {s t : Dev} {x : SectorXfer} {c : Nat} {excl : Option Nat} (h : s.StaysCalm False t) :
    s.StaysCalm False (t.sectorChunk x c excl) := h.putBulk

/-- Where a transfer starts that was checked against a place: a job address, or a key of lent HBM. -/
def Place.start (p : Place) : Nat := match p with | .job a => a | .lent k => k

/-! ### What no transfer of a sector takes -/

theorem Dev.sectorOf_nil {s : Dev} (h : s.mmf.sectors = []) (store : Bool) (c : Carriage) : s.sectorOf store c = none := by
  unfold Dev.sectorOf
  rw [h]
  rfl

section
variable {q : List Instr} {d : Dev} {c : Carriage}

/-! ### BULKRD -/

section
variable (halive : d.alive = true) (hkind : c.kind = kMREQ) (hop : mOp c = oBULKRD) (hlen : mCompare c ≠ 0) (hcalm : d.calm = true)
include halive hkind hop hlen hcalm

theorem exec_bulkrd_running (hrun : (d.taken c).mmf.serves.any (fun b => b.coord == c.src && b.gen == c.gen) = true) :
    exec (.bulkrd c) ⟨q, d⟩ = .next ⟨q, d.taken c⟩ := by
  refine State.unit_of_staysCalm q halive hcalm ?_ (Dev.StaysCalm.refl d).taken
  dsimp only
  rw [hkind, hop, decide_eq_false hlen, if_neg (by decide), if_pos hrun]

theorem exec_bulkrd_begins {p : Place} (hnew : (d.taken c).mmf.serves.any (fun b => b.coord == c.src && b.gen == c.gen) = false)
    (hok : (d.taken c).mmfCheck c.src (mSpace c) (mRegion c) (mOffset c / 64 * 64) (mCompare c) 64 false false = (stOK, p)) :
    exec (.bulkrd c) ⟨q, d⟩ = .next ⟨q, Dev.servePump c.src c.gen 65 (((d.taken c).setMmf fun m => { m with serves := m.serves
      ++ [⟨c.src, c.gen, mSpace c, mRegion c, mOffset c / 64 * 64, mCompare c, 0, [], [],
        p.start, false⟩] }).bump Reg.MMF_CNT_REQRX 1)⟩ := by
  refine State.unit_of_staysCalm q halive hcalm ?_
    (Dev.StaysCalm.servePump _ _ _ (Dev.StaysCalm.bump (t := Dev.setMmf _ _) (Dev.StaysCalm.refl d).taken.frame))
  dsimp only
  rw [hkind, hop, decide_eq_false hlen, if_neg (by decide), hnew, if_neg (by decide), hok, if_neg (not_not.mpr rfl)]
  rfl

end

/-! ### A chunk arrives -/

theorem exec_bulkChunk (halive : d.alive = true) {t : Dev} (h : d.bulkChunk c = t) :
    exec (.bulkChunkReceive c) ⟨q, d⟩ = .next ⟨q, t.failLost⟩ := by
  rw [show exec (.bulkChunkReceive c) ⟨q, d⟩ = execBulkChunkReceive c ⟨q, d⟩ from rfl, execBulkChunkReceive, State.upd_alive halive, h]

section
variable (hkind : c.kind = kBULK) (hpos : 0 < mCompare c) (hmax : mCompare c ≤ 4096)
include hkind hpos hmax

theorem Dev.bulkChunk_guard : ¬(decide (c.kind ≠ kBULK) || decide (mCompare c = 0) || decide (4096 < mCompare c)) = true := by
  rw [hkind, decide_eq_false (Nat.pos_iff_ne_zero.mp hpos), decide_eq_false (Nat.not_lt.mpr hmax)]
  decide

theorem Dev.bulkChunk_store {st : Nat} {p : Place} (hop : mOp c = oSTORE)
    (hcheck : (d.taken c).mmfCheck c.src (mSpace c) (mRegion c) (mOffset c / 64 * 64) (mCompare c) 64 true false = (st, p)) :
    d.bulkChunk c = if st ≠ stOK
      then (((d.taken c).bump Reg.MMF_CNT_REQRX 1).bump Reg.MMF_CNT_REFUSED 1).sendBulkAck c.src c.gen c.chunk 0 st
      else (((d.taken c).bump Reg.MMF_CNT_REQRX 1).placeWrite p (c.payload.take (mCompare c))).noteAck c.src c.gen c.chunk := by
  unfold Dev.bulkChunk
  dsimp only
  rw [if_neg (Dev.bulkChunk_guard hkind hpos hmax), if_pos hop, hcheck]

variable (hop : mOp c = oLOAD)
include hop

theorem Dev.bulkChunk_stale (hsec : (d.taken c).mmf.sectors = []) (hcmds : (d.taken c).cmds = []) :
    d.bulkChunk c = (d.taken c).bump Reg.MMF_CNT_STALE 1 := by
  unfold Dev.bulkChunk
  dsimp only
  rw [if_neg (Dev.bulkChunk_guard hkind hpos hmax), hop, if_neg (by decide), if_pos rfl, Dev.sectorOf_nil hsec, hcmds]
  rfl

/-- A chunk of a sector is laid at the other end of its move. -/
theorem Dev.bulkChunk_sector {x : SectorXfer} (hx : (d.taken c).sectorOf false c = some x) (hn : x.base + c.chunk < 16)
    (hnew : x.base + c.chunk ∉ x.done) :
    d.bulkChunk c = (((((d.taken c).setMmf fun m => { m with
      reqs := m.reqs.filter fun q => q.use != .sector x.page x.sec }).wrBytes (x.key + 4096 * (x.base + c.chunk))
        (c.payload.take 4096)).sectorDone x (x.base + c.chunk)).noteAck c.src c.gen c.chunk).mfxGoAll := by
  unfold Dev.bulkChunk
  dsimp only
  rw [if_neg (Dev.bulkChunk_guard hkind hpos hmax), hop, if_neg (by decide), if_pos rfl, hx]
  dsimp only
  rw [if_neg (Nat.not_le.mpr hn), if_neg (by rwa [List.contains_iff_mem])]

/-- A chunk of a gateway load is written at its place of the command that asked. -/
theorem Dev.bulkChunk_load {k : Cmd} {x : MfxRun} {t : Dev} (hsec : (d.taken c).mmf.sectors = []) (hcmds : (d.taken c).cmds = [k])
    (hbody : k.body = .mfx x) (hgate : x.gateway = true) (hload : x.store = false) (hfrom : x.remote = c.src)
    (hgen : k.gen % 2 ^ 32 = c.gen) (hchunk : c.chunk < x.chunks)
    (hwrite : ((d.taken c).setMmf fun m => { m with reqs := m.reqs.filter fun q => q.use != .unit k.gen }).cmdWrite k.gen
      (x.loc + 4096 * c.chunk) (c.payload.take (min 4096 (x.len - 4096 * c.chunk))) = (t, true)) :
    d.bulkChunk c = ((t.setMfx k.gen fun r => { r with
      done := if r.done.contains c.chunk then r.done else r.done ++ [c.chunk] }).noteAck c.src c.gen c.chunk).mfxGoAll := by
  unfold Dev.bulkChunk
  dsimp only
  rw [if_neg (Dev.bulkChunk_guard hkind hpos hmax), hop, if_neg (by decide), if_pos rfl, Dev.sectorOf_nil hsec, hcmds, List.find?_cons, hbody]
  dsimp only
  rw [hgate, hload, hfrom, hgen, beq_self_eq_true, beq_self_eq_true]
  simp only [Bool.not_false, Bool.and_self]
  rw [hbody]
  dsimp only
  rw [if_neg (Nat.not_le.mpr hchunk), hwrite]
  rfl

end

/-! ### BULKACK -/

theorem exec_bulkack (halive : d.alive = true) {t : Dev} (h : d.bulkack c = t) :
    exec (.bulkack c) ⟨q, d⟩ = .next ⟨q, t.failLost⟩ := by
  rw [show exec (.bulkack c) ⟨q, d⟩ = execBulkack c ⟨q, d⟩ from rfl, execBulkack, State.upd_alive halive, h]

section
variable (hkind : c.kind = kMRSP) (hop : mOp c = oBULKACK)
include hkind hop

/-- The acknowledgement of one chunk of a sector that a move stores. -/
theorem Dev.bulkack_sector {x : SectorXfer} {n : Nat} (hx : (d.taken c).sectorOf true c = some x) (hok : mStatus c = stOK)
    (hcs : ackChunks c = [n]) (hn : n < 16) : d.bulkack c = (d.taken c).sectorDone x n := by
  unfold Dev.bulkack
  dsimp only
  rw [if_neg (by rw [hkind, hop]; decide), hx]
  dsimp only
  rw [if_neg (not_not.mpr hok), hcs, List.filter_cons_of_pos (by exact decide_eq_true hn), List.filter_nil]
  unfold Dev.each
  rw [List.foldl_cons, List.foldl_nil, hx]

/-- The acknowledgement of chunks of a gateway store: the command goes on. -/
theorem Dev.bulkack_store {k : Cmd} {x : MfxRun} (hsec : (d.taken c).mmf.sectors = []) (hcmds : (d.taken c).cmds = [k])
    (hbody : k.body = .mfx x) (hgate : x.gateway = true) (hstore : x.store = true) (hfrom : x.remote = c.src)
    (hgen : k.gen % 2 ^ 32 = c.gen) (hok : mStatus c = stOK) :
    d.bulkack c = ((d.taken c).setMfx k.gen fun r => { r with
      done := r.done ++ (ackChunks c).filter fun z => decide (z < r.issued) && !r.done.contains z }).mfxGo k.gen := by
  unfold Dev.bulkack
  dsimp only
  rw [if_neg (by rw [hkind, hop]; decide), Dev.sectorOf_nil hsec, hcmds, List.find?_cons, hbody]
  dsimp only
  rw [hgate, hstore, hfrom, hgen, beq_self_eq_true, beq_self_eq_true]
  simp only [Bool.and_self]
  rw [hbody]
  dsimp only
  rw [if_neg (not_not.mpr hok)]

/-- The acknowledgement that covers the last chunk of a load ends its transfer. -/
theorem Dev.bulkack_last {b : BulkServe} (hsec : (d.taken c).mmf.sectors = []) (hcmds : (d.taken c).cmds = [])
    (hb : (d.taken c).mmf.serves.find? (fun b => b.coord == c.src && b.gen == c.gen) = some b)
    (hlast : b.chunks ≤ (b.acked ++ (ackChunks c).filter fun z => decide (z < b.next) && !b.acked.contains z).length) :
    d.bulkack c = (d.taken c).dropServe b := by
  unfold Dev.bulkack
  dsimp only
  rw [if_neg (by rw [hkind, hop]; decide), Dev.sectorOf_nil hsec, hcmds]
  dsimp only [List.find?_nil]
  rw [hb]
  exact if_pos hlast

end

/-! ### The coalescing interval and BULK_TO -/

theorem exec_bulkackCoalesceFlush (halive : d.alive = true) {a : AckPend}
    (ha : d.mmf.acks.find? (fun x => x.coord == a.coord && x.gen == a.gen) = some a) :
    exec (.bulkackCoalesceFlush a.coord a.gen) ⟨q, d⟩ = .next ⟨q, Dev.bulkAcks a.coord a.gen a.chunks.length a.chunks
      (d.setMmf fun m => { m with acks := m.acks.filter fun x => !(x.coord == a.coord && x.gen == a.gen) })⟩ := by
  rw [show exec (.bulkackCoalesceFlush a.coord a.gen) ⟨q, d⟩ = execBulkackCoalesceFlush a.coord a.gen ⟨q, d⟩ from rfl,
    execBulkackCoalesceFlush, State.upd_alive halive]
  dsimp only
  unfold Dev.flushAcks
  dsimp only
  rw [ha]

section
variable (halive : d.alive = true) (hcalm : d.calm = true)
include halive hcalm

theorem exec_bulkChunkTimeout_sector {x : SectorXfer} {chunk : Nat} (hsec : d.mmf.sectors = [x]) (hstore : x.store = true)
    (hchunk : chunk < 16) (hnew : chunk ∉ x.done) :
    exec (.bulkChunkTimeout x.lender x.gen chunk) ⟨q, d⟩
      = .next ⟨q, d.sectorChunk x chunk ((x.planes.find? fun y => y.1 == chunk).map (·.2))⟩ := by
  refine State.unit_of_staysCalm q halive hcalm ?_ (Dev.StaysCalm.refl d).sectorChunk
  dsimp only
  rw [hsec, List.find?_cons_of_pos (by rw [hstore, beq_self_eq_true, beq_self_eq_true]; rfl)]
  dsimp only
  exact if_neg (by rw [decide_eq_false (Nat.not_le.mpr hchunk), Bool.false_or, List.contains_iff_mem]; exact hnew)

theorem exec_bulkChunkTimeout_store {k : Cmd} {x : MfxRun} {chunk : Nat} {t : Dev} (hsec : d.mmf.sectors = []) (hcmds : d.cmds = [k])
    (hbody : k.body = .mfx x) (hgate : x.gateway = true) (hstore : x.store = true) (hchunk : chunk < x.issued) (hnew : chunk ∉ x.done)
    (hsent : d.storeChunk k.gen x chunk ((x.planes.find? fun y => y.1 == chunk).map (·.2)) = (t, true)) :
    exec (.bulkChunkTimeout x.remote k.gen chunk) ⟨q, d⟩
      = .next ⟨q, t.setMfx k.gen fun r => { r with repeats := r.repeats + 1 }⟩ := by
  refine State.unit_of_staysCalm q halive hcalm ?_ ((Dev.StaysCalm.refl d).storeChunk.of_fst hsent).setMfx
  dsimp only
  rw [hsec, List.find?_nil]
  dsimp only
  rw [hcmds, List.find?_cons, hbody]
  dsimp only
  rw [hgate, hstore, beq_self_eq_true, beq_self_eq_true]
  simp only [Bool.and_self]
  rw [hbody]
  dsimp only
  rw [if_neg (by rw [decide_eq_false (Nat.not_le.mpr hchunk), Bool.false_or, List.contains_iff_mem]; exact hnew), hsent, if_pos rfl]

end
end

/-- Settles O29: each clause is one branch of BULKRD, a chunk, BULKACK, the flush or BULK_TO. -/
theorem gatewayTransfers : Obligations.GatewayTransfers := by
  intro q d halive
  refine ⟨?_, fun a ha => exec_bulkackCoalesceFlush halive ha,
    fun x chunk hcalm hsec hstore hchunk hnew => exec_bulkChunkTimeout_sector halive hcalm hsec hstore hchunk hnew,
    fun k x chunk t hcalm hsec hcmds hbody hgate hstore hchunk hnew hsent =>
      exec_bulkChunkTimeout_store halive hcalm hsec hcmds hbody hgate hstore hchunk hnew hsent⟩
  rintro c _ rfl
  refine ⟨fun hkind hop hlen hcalm => ⟨fun hrun => exec_bulkrd_running halive hkind hop hlen hcalm hrun,
      fun p hnew hok => exec_bulkrd_begins halive hkind hop hlen hcalm hnew hok⟩, fun hkind hpos hmax => ⟨?_, ?_, ?_, ?_, ?_⟩,
    fun hkind hop => ⟨fun x n hx hok hcs hn => exec_bulkack halive (Dev.bulkack_sector hkind hop hx hok hcs hn),
      fun k x hsec hcmds hbody hgate hstore hfrom hgen hok =>
        exec_bulkack halive (Dev.bulkack_store hkind hop hsec hcmds hbody hgate hstore hfrom hgen hok),
      fun b hsec hcmds hb hlast => exec_bulkack halive (Dev.bulkack_last hkind hop hsec hcmds hb hlast)⟩⟩
  · rintro p _ hop rfl hok
    exact exec_bulkChunk halive ((Dev.bulkChunk_store hkind hpos hmax hop hok).trans (if_neg (not_not.mpr rfl)))
  · rintro st p _ hop rfl hcheck hst
    exact exec_bulkChunk halive ((Dev.bulkChunk_store hkind hpos hmax hop hcheck).trans (if_pos hst))
  · intro hop hsec hcmds
    exact exec_bulkChunk halive (Dev.bulkChunk_stale hkind hpos hmax hop hsec hcmds)
  · rintro x _ hop hx rfl hn hnew
    exact exec_bulkChunk halive (Dev.bulkChunk_sector hkind hpos hmax hop hx hn hnew)
  · intro k x t hop hsec hcmds hbody hgate hload hfrom hgen hchunk hwrite
    exact exec_bulkChunk halive
      (Dev.bulkChunk_load hkind hpos hmax hop hsec hcmds hbody hgate hload hfrom hgen hchunk hwrite)

end Sys2Proof.Machine
end

section
/-! Regions written and applied, loans that are written, end and are zeroed, and borrowed entries (R422, R424, R431, R433, R434). -/
namespace Sys2Proof.Machine

-- The short theorems below are elaborated one after another: side by side, their threads' stacks exceed the memory of the check.
set_option Elab.async false

section
variable {q : List Instr} {d : Dev} (halive : d.alive = true)

/-! ### Regions (R422, R424) -/

section
include halive

/-- A region register keeps the value written for the requests that arrive from then on. -/
theorem exec_regionWrite_taken {off i kind new : Nat} {v : Word64} {row : RegRow} (hreg : regionOf off = some (i, kind))
    (hrow : findRow off = some row) (hnew : new = mergeWrite row .host (d.mmfReg off) v.toNat)
    (hplaced : ¬(kind = 2 ∧ bit new 0 = true ∧ d.regionOk i = false))
    (hsize : ¬(kind = 1 ∧ bits new 0 28 = 0 ∧ bit (d.mmfReg (Reg.MMF_RCTL i)) 0 = true))
    (hgood : regReserved d.express off new = false) :
    exec (.regionWrite off v) ⟨q, d⟩ = .next ⟨q, (d.setMmf fun m => { m with
      pend := m.pend.filter (fun p => p.1 != off) ++ [(off, BitVec.ofNat 64 new)]
      serves := m.serves.map fun b => if b.space = 0 && b.region = i then { b with old := true } else b }).setFlag
        (Reg.MMF_RCTL i) 31 true⟩ := by
  rw [show exec (.regionWrite off v) ⟨q, d⟩ = execRegionWrite off v ⟨q, d⟩ from rfl, execRegionWrite, State.upd_alive halive]
  dsimp only
  rw [hreg, hrow]
  dsimp only
  rw [← hnew, if_neg (by have h := And.intro hplaced hsize; simpa using h), if_neg (by rw [hgood]; decide)]

/-- A value that would leave a VALID region of no bytes, or one that is not placed, is discarded. -/
theorem exec_regionWrite_discarded {off i kind new : Nat} {v : Word64} {row : RegRow} (hreg : regionOf off = some (i, kind))
    (hrow : findRow off = some row) (hnew : new = mergeWrite row .host (d.mmfReg off) v.toNat)
    (hbad : kind = 2 ∧ bit new 0 = true ∧ d.regionOk i = false
      ∨ kind = 1 ∧ bits new 0 28 = 0 ∧ bit (d.mmfReg (Reg.MMF_RCTL i)) 0 = true) :
    exec (.regionWrite off v) ⟨q, d⟩ = .next ⟨q, d.record clsMEM 0x025 (off % 0x100000) 0 (blockAt off) 0⟩ := by
  rw [show exec (.regionWrite off v) ⟨q, d⟩ = execRegionWrite off v ⟨q, d⟩ from rfl, execRegionWrite, State.upd_alive halive]
  dsimp only
  rw [hreg, hrow]
  dsimp only
  rw [← hnew, if_pos (by simpa [and_assoc] using hbad)]
  rfl

/-- The one value that waits for a region is applied once no older load of it runs. -/
theorem exec_regionChangeApply {i : Nat} {p : Nat × Word64} {x : Nat × Nat} (hi : i < 64) (hpend : d.mmf.pend = [p])
    (hx : regionOf p.1 = some x) (hmine : x.1 = i)
    (hnone : (d.mmf.serves.any fun b => b.space == 0 && b.region == i && b.old) = false) :
    exec (.regionChangeApply i) ⟨q, d⟩ = .next ⟨q, ((d.setReg p.1 p.2.toNat).setMmf fun m => { m with pend := [] }).setFlag
      (Reg.MMF_RCTL i) 31 false⟩ := by
  have hown : (match regionOf p.1 with | some x => x.1 == i | none => false) = true := by
    rw [hx]
    exact beq_iff_eq.mpr hmine
  rw [show exec (.regionChangeApply i) ⟨q, d⟩ = execRegionChangeApply i ⟨q, d⟩ from rfl, execRegionChangeApply, State.upd_alive halive]
  dsimp only
  rw [hnone, if_neg (by decide), hpend, List.filter_cons_of_pos (by exact hown), List.filter_nil, if_pos hi]
  unfold Dev.each Dev.setMmf
  rw [List.foldl_cons, List.foldl_nil]
  dsimp only [Dev.setReg]
  rw [hpend, List.filter_cons_of_neg (by exact fun h => Bool.false_ne_true ((congrArg (!·) hown).symm.trans h)), List.filter_nil]

end

/-! ### Loans (R431, R433) -/

section
variable {j : Nat} (hj : j < 16)
include hj

theorem blockAt_loan : blockAt (Reg.MMF_LOAN j) = blkMMF := by
  unfold blockAt Reg.MMF_LOAN
  rw [show (0xe02000 + 0x8 * j) / 0x100000 = 14 by omega]
  rfl

/-- The row of the loans: the device, the first unit, the units and VALID are RW. -/
theorem findRow_loan : ∃ r, findRow (Reg.MMF_LOAN j) = some r ∧ r.rw = 0x101ff01ffffff ∧ r.gw = 0 := by
  have hrow : ∀ j < 16, findRow (Reg.MMF_LOAN j) = some ⟨0xe02000, [(16, 0x8)], 64, 0x101ff01ffffff, 0x0, 0x0, 0x0, 0x0⟩ := by decide
  exact ⟨_, hrow j hj, rfl, rfl⟩

/-- What is reserved in an entry of the loans: no unit, or units past the last, where it is VALID. -/
theorem regReserved_loan (express x : Nat) : regReserved express (Reg.MMF_LOAN j) x = (bits x 48 1 == 1
    && (bits x 16 9 == 0 || decide (287 < bits x 16 9) || bits x 32 9 == 0 || decide (288 < bits x 16 9 + bits x 32 9))) := by
  interval_cases j <;> rfl

end

/-- An entry of the loans, given or taken, takes the host's value: its fields are those of the value. -/
theorem Dev.regWrite_lending {off : Nat} {v : Nat} {r : RegRow} (hoff : 0x100000 ≤ off) (hrow : findRow off = some r)
    (hrw : r.rw = 0x101ff01ffffff) (hgw : r.gw = 0)
    (hgood : regReserved d.express off (mergeWrite r .host (d.reg off) v) = false) :
    d.OnlyRegs (d.regWrite .host off v) [off] ∧ (d.regWrite .host off v).flag off 48 = bit v 48
      ∧ (d.regWrite .host off v).fld off 0 16 = bits v 0 16 ∧ (d.regWrite .host off v).fld off 16 9 = bits v 16 9
      ∧ (d.regWrite .host off v).fld off 32 9 = bits v 32 9 := by
  obtain ⟨hframe, hreg⟩ := Dev.regWrite_host hoff hrow hgw hgood
  have hfld (lo w : Nat) (h : lo + w ≤ 64) (hm : bits r.rw lo w = 2 ^ w - 1) : (d.regWrite .host off v).fld off lo w = bits v lo w := by
    unfold Dev.fld
    rw [hreg, bits_mod _ h, bits_mergeWrite hm]
  refine ⟨hframe, ?_, hfld 0 16 (by omega) (by rw [hrw]; decide), hfld 16 9 (by omega) (by rw [hrw]; decide),
    hfld 32 9 (by omega) (by rw [hrw]; decide)⟩
  rw [Dev.flag_eq_fld, hfld 48 1 (by omega) (by rw [hrw]; decide), bit_eq_bits]

section
variable {j : Nat} (hj : j < 16)
include halive hj

theorem exec_loanWrite_refused {v : Word64} (hbad : sameStage d.coord (bits v.toNat 0 16) = false
    ∨ bit v.toNat 48 = true ∧ d.flag (Reg.MMF_LOAN j) 49 = true) :
    exec (.loanWrite j v) ⟨q, d⟩ = .next ⟨q, d.record clsMEM 0x025 (Reg.MMF_LOAN j % 0x100000) 0 blkMMF 0⟩ := by
  rw [show exec (.loanWrite j v) ⟨q, d⟩ = execLoanWrite j v ⟨q, d⟩ from rfl, execLoanWrite, State.upd_alive halive]
  dsimp only
  unfold Dev.discard
  rw [if_neg (Nat.not_le.mpr hj), blockAt_loan hj]
  by_cases hstage : sameStage d.coord (bits v.toNat 0 16) = false
  · rw [if_pos (by rw [hstage]; rfl)]
  · obtain ⟨hvalid, hclearing⟩ := hbad.resolve_left hstage
    rw [if_neg (by rw [Bool.not_eq_false] at hstage; rw [hstage]; decide), if_neg (by rw [hvalid]; simp),
      if_pos (by rw [hclearing]; rfl)]

/-- A loan of free frames to a device of the stage is written with its fields. -/
theorem exec_loanWrite_lends {v : Word64} (hvalid : bit v.toNat 48 = true) (hstage : sameStage d.coord (bits v.toNat 0 16) = true)
    (hgood : regReserved d.express (Reg.MMF_LOAN j) v.toNat = false) (hclear : d.flag (Reg.MMF_LOAN j) 49 = false)
    (hlend : d.flag Reg.MMF_CFG 1 = true)
    (hfree : ((List.range (bits v.toNat 32 9 * 512)).map (bits v.toNat 16 9 * 512 + ·)).all d.hbmFree = true) :
    ∃ t, exec (.loanWrite j v) ⟨q, d⟩ = .next ⟨q, t⟩ ∧ d.OnlyRegs t [Reg.MMF_LOAN j] ∧ t.flag (Reg.MMF_LOAN j) 48 = true
      ∧ t.fld (Reg.MMF_LOAN j) 0 16 = bits v.toNat 0 16 ∧ t.fld (Reg.MMF_LOAN j) 16 9 = bits v.toNat 16 9
      ∧ t.fld (Reg.MMF_LOAN j) 32 9 = bits v.toNat 32 9 := by
  obtain ⟨r, hrow, hrw, hgw⟩ := findRow_loan hj
  have hmerged (lo w : Nat) (hm : bits r.rw lo w = 2 ^ w - 1) := bits_mergeWrite hm (d.reg (Reg.MMF_LOAN j)) v.toNat
  obtain ⟨hframe, hflag, hfields⟩ := Dev.regWrite_lending (d := d) (off := Reg.MMF_LOAN j) (v := v.toNat) (by unfold Reg.MMF_LOAN; omega)
    hrow hrw hgw (by
      rw [regReserved_loan hj, hmerged 48 1 (by rw [hrw]; decide), hmerged 16 9 (by rw [hrw]; decide),
        hmerged 32 9 (by rw [hrw]; decide), ← regReserved_loan hj d.express, hgood])
  refine ⟨_, ?_, hframe, hflag.trans hvalid, hfields⟩
  rw [show exec (.loanWrite j v) ⟨q, d⟩ = execLoanWrite j v ⟨q, d⟩ from rfl, execLoanWrite, State.upd_alive halive]
  dsimp only
  rw [if_neg (Nat.not_le.mpr hj), if_neg (by rw [hstage]; decide), if_neg (by rw [hvalid]; simp),
    if_neg (by rw [hclear, hvalid, hlend, hfree]; decide)]

/-- VALID written 0, by either row, ends a loan that is VALID. -/
theorem exec_loan_ends {v : Word64} (hoff : bit v.toNat 48 = false) (hon : d.flag (Reg.MMF_LOAN j) 48 = true) {i : Instr}
    (hi : i = Instr.loanWrite j v ∧ sameStage d.coord (bits v.toNat 0 16) = true ∨ i = .loanEnd j) :
    exec i ⟨q, d⟩ = .next ⟨q, (d.setFlag (Reg.MMF_LOAN j) 48 false).setFlag (Reg.MMF_LOAN j) 49 true⟩ := by
  have hstop : d.loanStop j = (d.setFlag (Reg.MMF_LOAN j) 48 false).setFlag (Reg.MMF_LOAN j) 49 true := if_pos hon
  rcases hi with ⟨rfl, hstage⟩ | rfl
  · rw [show exec (.loanWrite j v) ⟨q, d⟩ = execLoanWrite j v ⟨q, d⟩ from rfl, execLoanWrite, State.upd_alive halive]
    dsimp only
    rw [if_neg (Nat.not_le.mpr hj), if_neg (by rw [hstage]; decide), if_pos (by rw [hon, hoff]; rfl), hstop]
  · rw [show exec (.loanEnd j) ⟨q, d⟩ = execLoanEnd j ⟨q, d⟩ from rfl, execLoanEnd, State.upd_alive halive]
    dsimp only
    rw [if_neg (Nat.not_le.mpr hj), hstop]

theorem exec_loanClearDone (hclearing : d.flag (Reg.MMF_LOAN j) 49 = true) {lo hi : Nat}
    (hlo : lo = hbmKey (d.fld (Reg.MMF_LOAN j) 16 9 * 512) 0) (hhi : hi = lo + d.fld (Reg.MMF_LOAN j) 32 9 * 2 ^ 30) :
    exec (.loanClearDone j) ⟨q, d⟩
      = .next ⟨q, Dev.pump ((d.zeroedBut fun k => decide (k < lo) || decide (hi ≤ k)).setFlag (Reg.MMF_LOAN j) 49 false)⟩ := by
  rw [show exec (.loanClearDone j) ⟨q, d⟩ = execLoanClearDone j ⟨q, d⟩ from rfl, execLoanClearDone, State.upd_alive halive]
  dsimp only
  rw [if_neg (by rw [hclearing, decide_eq_false (Nat.not_le.mpr hj)]; decide), ← hlo, ← hhi]
  unfold Dev.zeroedBut
  rfl

end

theorem Dev.zeroedBut_setReg (p : Nat → Bool) (off v : Nat) :
    { (d.zeroedBut p).setReg off v with mem := d.mem, bad := d.bad } = d.setReg off v := rfl

/-- With the bytes of a span zeroed and CLEARING 0, the other bytes and registers stand. -/
theorem Dev.loanCleared (off lo hi : Nat) {t : Dev} (ht : t = (d.zeroedBut fun k => decide (k < lo) || decide (hi ≤ k)).setFlag off 49 false) :
    d.OnlyRegs { t with mem := d.mem, bad := d.bad } [off] ∧ t.flag off 49 = false
      ∧ ∀ k, t.rd k = if lo ≤ k ∧ k < hi then 0 else d.rd k := by
  subst ht
  have hregs : { (d.zeroedBut fun k => decide (k < lo) || decide (hi ≤ k)).setFlag off 49 false with mem := d.mem, bad := d.bad }
      = d.setFlag off 49 false := Dev.zeroedBut_setReg _ _ _
  refine ⟨hregs ▸ Dev.OnlyRegs.setReg d off _, Dev.flag_setFlag_same _ _ _ (by decide), fun k => ?_⟩
  rw [Dev.rd_congr (Dev.setFlag_mem _ _ _ _), Dev.rd_zeroedBut]
  by_cases h : lo ≤ k ∧ k < hi
  · rw [if_pos h, if_neg (by simpa using h)]
  · rw [if_neg h, if_pos (by simp; omega)]

/-! ### Borrowed entries (R431, R434) -/

section
variable {k : Nat} (hk : k < 16)
include hk

theorem findRow_borrow : ∃ r, findRow (Reg.MMF_BORROW k) = some r ∧ r.rw = 0x101ff01ffffff ∧ r.gw = 0 := by
  have hrow : ∀ k < 16, findRow (Reg.MMF_BORROW k)
      = some ⟨0xe02100, [(16, 0x8)], 64, 0x101ff01ffffff, 0x0, 0x4000000000000, 0x0, 0x0⟩ := by decide
  exact ⟨_, hrow k hk, rfl, rfl⟩

theorem regReserved_borrow (express x : Nat) : regReserved express (Reg.MMF_BORROW k) x = (bits x 48 1 == 1
    && (bits x 16 9 == 0 || decide (287 < bits x 16 9) || bits x 32 9 == 0 || decide (288 < bits x 16 9 + bits x 32 9))) := by
  interval_cases k <;> rfl

include halive

/-- An entry that is not VALID takes a borrowed loan of a device of the stage. -/
theorem exec_borrowWrite {v : Word64} (hgood : regReserved d.express (Reg.MMF_BORROW k) v.toNat = false)
    (hstage : sameStage d.coord (bits v.toNat 0 16) = true) (hfree : d.flag (Reg.MMF_BORROW k) 48 = false)
    (hno : bit v.toNat 50 = false) : ∃ t, exec (.borrowWrite k v) ⟨q, d⟩ = .next ⟨q, t⟩ ∧ d.OnlyRegs t [Reg.MMF_BORROW k]
      ∧ t.fld (Reg.MMF_BORROW k) 0 16 = bits v.toNat 0 16 ∧ t.flag (Reg.MMF_BORROW k) 48 = bit v.toNat 48 := by
  obtain ⟨r, hrow, hrw, hgw⟩ := findRow_borrow hk
  have hmerged (lo w : Nat) (hm : bits r.rw lo w = 2 ^ w - 1) := bits_mergeWrite hm (d.reg (Reg.MMF_BORROW k)) v.toNat
  obtain ⟨hframe, hflag, hdev, -⟩ := Dev.regWrite_lending (d := d) (off := Reg.MMF_BORROW k) (v := v.toNat)
    (by unfold Reg.MMF_BORROW; omega) hrow hrw hgw (by
      rw [regReserved_borrow hk, hmerged 48 1 (by rw [hrw]; decide), hmerged 16 9 (by rw [hrw]; decide),
        hmerged 32 9 (by rw [hrw]; decide), ← regReserved_borrow hk d.express, hgood])
  refine ⟨_, ?_, hframe, hdev, hflag⟩
  rw [show exec (.borrowWrite k v) ⟨q, d⟩ = execBorrowWrite k v ⟨q, d⟩ from rfl, execBorrowWrite, State.upd_alive halive]
  dsimp only
  rw [if_neg (Nat.not_le.mpr hk), if_neg (by rw [hstage, show bit (d.reg (Reg.MMF_BORROW k)) 48 = false from hfree]; simp),
    if_neg (by rw [hno]; simp)]

/-- RECHECK of a VALID entry sets the flag and asks for the loan's first line. -/
theorem exec_borrowRecheck (hvalid : d.flag (Reg.MMF_BORROW k) 48 = true) {w : Nat} {x : LineReq} (hw : w = d.reg (Reg.MMF_BORROW k))
    (hx : x = ⟨0, 0, bits w 0 16, oLOAD, 1, 0, bits w 16 9 * 512 * 2 ^ 21, 1, 0, false, 0, 0, 1, none, false, .recheck k⟩)
    (hnone : ((d.mmf.reqs ++ d.mmf.queue).any fun r => r.use == .recheck k) = false) :
    exec (.borrowRecheck k) ⟨q, d⟩ = .next ⟨q, (d.setFlag (Reg.MMF_BORROW k) 50 true).askReq x⟩ := by
  rw [show exec (.borrowRecheck k) ⟨q, d⟩ = execBorrowRecheck k ⟨q, d⟩ from rfl, execBorrowRecheck, State.upd_alive halive]
  dsimp only
  unfold Dev.recheck
  dsimp only
  rw [if_neg (Nat.not_le.mpr hk), if_neg (by rw [hnone, show bit (d.reg (Reg.MMF_BORROW k)) 48 = true from hvalid]; decide), ← hw, ← hx]

end

/-- Where there is room for a request that is not a store, and none of its line is outstanding, it is issued at once. -/
theorem Dev.askReq_room {x : LineReq} (hop : x.op ≠ oSTORE) (hqueue : d.mmf.queue = []) (hroom : d.mmf.reqs.length < 1024)
    (hapart : (d.mmf.reqs.any fun r => x.meets r) = false) : d.askReq x = d.newReq x [] := by
  have hback : (d.setMmf fun m => { m with queue := m.queue ++ [x] }).setMmf (fun m => { m with queue := m.queue.erase x }) = d := by
    unfold Dev.setMmf
    dsimp only
    rw [hqueue, List.nil_append, List.erase_cons_head, ← hqueue]
  unfold Dev.askReq
  rw [hqueue, if_neg (by simp)]
  dsimp only
  rw [show (d.setMmf fun m => { m with queue := m.queue ++ [x] }).mmf.queue = [x] from congrArg (· ++ [x]) hqueue]
  dsimp only [List.length_cons, List.length_nil]
  unfold Dev.reqPump
  rw [if_neg (by exact Nat.not_le.mpr hroom), show (d.setMmf fun m => { m with queue := m.queue ++ [x] }).mmf.queue = [x] from
    congrArg (· ++ [x]) hqueue, List.find?_cons_of_pos (by exact congrArg (!·) hapart)]
  dsimp only
  rw [hback]
  unfold Dev.reqPump Dev.lentPay
  rw [if_neg hop]

end

/-- Settles O30: each clause is one branch of the write, the change, the end or the recheck of an entry. -/
theorem regionsAndLoans : Obligations.RegionsAndLoans := by
  intro q d halive
  refine ⟨fun off v i kind row new hreg hrow hnew => ⟨fun hplaced hsize hgood =>
        exec_regionWrite_taken halive hreg hrow hnew hplaced hsize hgood,
      fun hbad => exec_regionWrite_discarded halive hreg hrow hnew hbad⟩,
    fun i p x hi hpend hx hmine hnone => exec_regionChangeApply halive hi hpend hx hmine hnone,
    fun j hj => ⟨fun v hvalid hstage => ⟨fun hgood hclear hlend hfree =>
          exec_loanWrite_lends halive hj hvalid hstage hgood hclear hlend hfree,
        fun hclearing => exec_loanWrite_refused halive hj (.inr ⟨hvalid, hclearing⟩)⟩,
      fun v hstage => exec_loanWrite_refused halive hj (.inl hstage),
      fun v hoff hon i hi => exec_loan_ends halive hj hoff hon hi, fun hclearing => ?_⟩,
    fun k hk => ⟨fun v hgood hstage hfree hno => exec_borrowWrite halive hk hgood hstage hfree hno, ?_⟩⟩
  · obtain ⟨lo, hlo⟩ : ∃ lo, lo = hbmKey (d.fld (Reg.MMF_LOAN j) 16 9 * 512) 0 := ⟨_, rfl⟩
    obtain ⟨hi, hhi⟩ : ∃ hi, hi = lo + d.fld (Reg.MMF_LOAN j) 32 9 * 2 ^ 30 := ⟨_, rfl⟩
    obtain ⟨t, ht⟩ : ∃ t, t = (d.zeroedBut fun k => decide (k < lo) || decide (hi ≤ k)).setFlag (Reg.MMF_LOAN j) 49 false := ⟨_, rfl⟩
    obtain ⟨hframe, hflag, hrd⟩ := Dev.loanCleared (Reg.MMF_LOAN j) lo hi ht
    refine ⟨t, ?_, hframe, hflag, fun k lo' _ hlo' => ?_⟩
    · rw [exec_loanClearDone halive hj hclearing hlo hhi, ht]
    · rw [hlo', ← hlo, ← hhi]
      exact hrd k
  · intro w x hvalid hw hx hnone
    have hexec := exec_borrowRecheck (q := q) halive hk hvalid hw hx hnone
    refine ⟨hexec, fun hqueue hroom hapart => ?_⟩
    have hop : x.op ≠ oSTORE := by rw [hx]; exact show oLOAD ≠ oSTORE by decide
    rw [hexec, Dev.askReq_room hop]
    · rwa [Dev.setFlag_mmf]
    · rwa [Dev.setFlag_mmf]
    · rwa [Dev.setFlag_mmf]

end Sys2Proof.Machine
end

section
/-! Doorbells, the configuration of the rings and their fetching (R449 to R452, R454 to R456). -/
namespace Sys2Proof.Machine

-- The short theorems below are elaborated one after another: side by side, their threads' stacks exceed the memory of the check.
set_option Elab.async false

/-! ### The rows of a ring's registers -/

/-- A row has a register at an offset. -/
def rowReaches (off : Nat) (r : RegRow) : Bool := decide (r.base ≤ off) && dimsReach r.dims (off - r.base)

section
variable {b w rw gw w1s wo reset n st off : Nat} {rows : List RegRow}

theorem find?_single_below (h : b < off) :
    (⟨b, [], w, rw, gw, w1s, wo, reset⟩ :: rows).find? (rowReaches off) = rows.find? (rowReaches off) := by
  refine List.find?_cons_of_neg ?_
  have hne : off - b ≠ 0 := by omega
  simp [rowReaches, dimsReach, hne]

theorem find?_array_below (h : b + n * st ≤ off) (hst : 0 < st) :
    (⟨b, [(n, st)], w, rw, gw, w1s, wo, reset⟩ :: rows).find? (rowReaches off) = rows.find? (rowReaches off) := by
  refine List.find?_cons_of_neg ?_
  have hpast : ¬(off - b) / st < n := Nat.not_lt.mpr ((Nat.le_div_iff_mul_le hst).mpr (by omega))
  simp [rowReaches, dimsReach, hpast]

theorem find?_array_between (h : (off - b) % st ≠ 0) :
    (⟨b, [(n, st)], w, rw, gw, w1s, wo, reset⟩ :: rows).find? (rowReaches off) = rows.find? (rowReaches off) := by
  refine List.find?_cons_of_neg ?_
  simp [rowReaches, dimsReach, h]

theorem find?_array_of (h : b ≤ off) (hmod : (off - b) % st = 0) (hlt : (off - b) / st < n) :
    (⟨b, [(n, st)], w, rw, gw, w1s, wo, reset⟩ :: rows).find? (rowReaches off) = some ⟨b, [(n, st)], w, rw, gw, w1s, wo, reset⟩ := by
  refine List.find?_cons_of_pos ?_
  simp [rowReaches, dimsReach, h, hmod, hlt]

theorem findRow_hst (h : off / 0x100000 = 2) : findRow off = regRowsHST.find? (rowReaches off) := by
  unfold findRow
  rw [h]
  rfl

end

section
variable {r : Nat} (hr : r < 256)
include hr

theorem findRow_rcfg : findRow (Reg.HST_RCFG r) = some ⟨0x201010, [(256, 0x20)], 32, 0x1f1f03, 0x0, 0x0, 0x0, 0x10100⟩ := by
  unfold Reg.HST_RCFG
  rw [findRow_hst (by omega)]
  unfold regRowsHST
  simp (disch := omega) only [find?_single_below, find?_array_below, find?_array_between, find?_array_of]

theorem findRow_sqbase : findRow (Reg.HST_SQBASE r) = some ⟨0x201000, [(256, 0x20)], 64, 0xfffffffffffff000, 0x0, 0x0, 0x0, 0x0⟩ := by
  unfold Reg.HST_SQBASE
  rw [findRow_hst (by omega)]
  unfold regRowsHST
  simp (disch := omega) only [find?_single_below, find?_array_below, find?_array_of]

theorem findRow_cqbase : findRow (Reg.HST_CQBASE r) = some ⟨0x201008, [(256, 0x20)], 64, 0xfffffffffffff000, 0x0, 0x0, 0x0, 0x0⟩ := by
  unfold Reg.HST_CQBASE
  rw [findRow_hst (by omega)]
  unfold regRowsHST
  simp (disch := omega) only [find?_single_below, find?_array_below, find?_array_between, find?_array_of]

/-- Where a ring's base registers lie. -/
theorem ringBase_range {b : Nat} (hb : b ∈ [Reg.HST_SQBASE r, Reg.HST_CQBASE r]) :
    0x201000 ≤ b ∧ b < 0x203000 ∧ (b - 0x201000) / 0x20 = r ∧ (b - 0x201000) % 0x20 < 0x10 := by
  simp only [List.mem_cons, List.not_mem_nil, or_false] at hb
  unfold Reg.HST_SQBASE Reg.HST_CQBASE at hb
  omega

/-- No encoding of a base is reserved. -/
theorem regReserved_ringBase {b : Nat} (hb : b ∈ [Reg.HST_SQBASE r, Reg.HST_CQBASE r]) (express v : Nat) :
    regReserved express b v = false := by
  obtain ⟨hlow, hhigh, -, hin⟩ := ringBase_range hr hb
  unfold regReserved
  rw [show b / 0x100000 = 2 by omega]
  refine (if_neg (by omega)).trans ((if_neg (by omega)).trans (if_neg ?_))
  simp
  omega

theorem blockAt_rcfg : blockAt (Reg.HST_RCFG r) = blkHST := by
  unfold blockAt Reg.HST_RCFG
  rw [show (0x201010 + 0x20 * r) / 0x100000 = 2 by omega]
  rfl

end

theorem bits_12_52 {n : Nat} (h : n < 2 ^ 64) : bits n 12 52 = n / 4096 := by
  unfold bits
  exact Nat.mod_eq_of_lt (by omega)

section
variable {q : List Instr} {d : Dev} {r : Nat}

/-! ### Doorbells (R450, R451) -/

section
variable (halive : d.alive = true) (hr : r < 256) (hopen : d.flag Reg.HST_STAT 0 = true)
include hr hopen

omit hr hopen in
theorem Dev.dbBad_past (v : Nat) : d.dbBad r v 0x010 = (d.bump Reg.HST_CNT_DBBAD 1).record clsHOST 0x010 (r + v * 2 ^ 16) 0 blkHST r := rfl

theorem Dev.dbOpen_of_open : d.dbOpen r = true := by
  unfold Dev.dbOpen
  rw [decide_eq_true hr, hopen]
  rfl

include halive

/-- A doorbell of a ring that is not enabled is counted and recorded. -/
theorem exec_doorbell_off (hoff : d.flag (Reg.HST_RCFG r) 0 = false) (v : Nat) {i : Instr}
    (hi : i ∈ [Instr.doorbellSqtail r v, .doorbellCqhead r v]) :
    exec i ⟨q, d⟩ = .next ⟨q, (d.bump Reg.HST_CNT_DBBAD 1).record clsHOST 0x014 r 0 blkHST r⟩ := by
  simp only [List.mem_cons, List.not_mem_nil, or_false] at hi
  have hbad : d.dbBad r (v % 2 ^ 16) 0x014 = (d.bump Reg.HST_CNT_DBBAD 1).record clsHOST 0x014 r 0 blkHST r := rfl
  rcases hi with rfl | rfl
  · rw [show exec (.doorbellSqtail r v) ⟨q, d⟩ = execDoorbellSqtail r v ⟨q, d⟩ from rfl, execDoorbellSqtail, State.upd_alive halive]
    dsimp only
    rw [Dev.dbOpen_of_open hr hopen, hoff, if_neg (by decide), if_pos (by rfl), hbad]
  · rw [show exec (.doorbellCqhead r v) ⟨q, d⟩ = execDoorbellCqhead r v ⟨q, d⟩ from rfl, execDoorbellCqhead, State.upd_alive halive]
    dsimp only
    rw [Dev.dbOpen_of_open hr hopen, hoff, if_neg (by decide), if_pos (by rfl), hbad]

variable (hon : d.flag (Reg.HST_RCFG r) 0 = true) {v : Nat} (hv : v < 2 ^ 16)
include hon hv

theorem exec_doorbellSqtail : exec (.doorbellSqtail r v) ⟨q, d⟩
    = .next ⟨q, if d.sqSize r ≤ v then d.dbBad r v 0x010 else d.setReg (dbSqTail r) v⟩ := by
  rw [show exec (.doorbellSqtail r v) ⟨q, d⟩ = execDoorbellSqtail r v ⟨q, d⟩ from rfl, execDoorbellSqtail, State.upd_alive halive]
  dsimp only
  rw [Dev.dbOpen_of_open hr hopen, hon, if_neg (by decide), if_neg (by decide), Nat.mod_eq_of_lt hv]

theorem exec_doorbellCqhead : exec (.doorbellCqhead r v) ⟨q, d⟩ = .next ⟨q,
    if d.cqSize r ≤ v then d.dbBad r v 0x010
    else if (d.fld (Reg.HST_RHEAD r) 16 16 + d.cqSize r - d.reg (dbCqHead r)) % d.cqSize r
      < (v + d.cqSize r - d.reg (dbCqHead r)) % d.cqSize r then d.dbBad r v 0x015
    else ((d.setReg (dbCqHead r) v).drainRecs r ((d.ring r).held.length)).ringSettle r⟩ := by
  rw [show exec (.doorbellCqhead r v) ⟨q, d⟩ = execDoorbellCqhead r v ⟨q, d⟩ from rfl, execDoorbellCqhead, State.upd_alive halive]
  dsimp only
  rw [Dev.dbOpen_of_open hr hopen, hon, if_neg (by decide), if_neg (by decide), Nat.mod_eq_of_lt hv]
  rfl

end

/-! ### The configuration of a ring (R449, R455, R456) -/

section
variable (hr : r < 256)
include hr

/-- The configuration takes the sizes and EN of the value written. -/
theorem Dev.regWrite_rcfg {v : Nat} (hgood : regReserved d.express (Reg.HST_RCFG r)
      (mergeWrite ⟨0, [], 32, 0x1F1F03, 0, 0, 0, 0⟩ .host (d.reg (Reg.HST_RCFG r)) v) = false) :
    d.OnlyRegs (d.regWrite .host (Reg.HST_RCFG r) v) [Reg.HST_RCFG r] ∧ (d.regWrite .host (Reg.HST_RCFG r) v).flag (Reg.HST_RCFG r) 0 = bit v 0
      ∧ (d.regWrite .host (Reg.HST_RCFG r) v).fld (Reg.HST_RCFG r) 8 5 = bits v 8 5
      ∧ (d.regWrite .host (Reg.HST_RCFG r) v).fld (Reg.HST_RCFG r) 16 5 = bits v 16 5 := by
  obtain ⟨hframe, hreg⟩ := Dev.regWrite_host (d := d) (v := v) (by unfold Reg.HST_RCFG; omega) (findRow_rcfg hr) rfl hgood
  have hfld (lo w : Nat) (h : lo + w ≤ 64) (hm : bits 0x1f1f03 lo w = 2 ^ w - 1) :
      (d.regWrite .host (Reg.HST_RCFG r) v).fld (Reg.HST_RCFG r) lo w = bits v lo w := by
    unfold Dev.fld
    rw [hreg, bits_mod _ h, bits_mergeWrite hm]
  refine ⟨hframe, ?_, hfld 8 5 (by omega) (by decide), hfld 16 5 (by omega) (by decide)⟩
  rw [Dev.flag_eq_fld, hfld 0 1 (by omega) (by decide), bit_eq_bits]

/-- A ring that starts has empty pointers, doorbells and queues, and runs. -/
theorem Dev.ringStarted : (d.ringStart r).rState r = rsRUN ∧ (d.ringStart r).reg (Reg.HST_RHEAD r) = 0 ∧ (d.ringStart r).reg (dbSqTail r) = 0
    ∧ (d.ringStart r).reg (dbCqHead r) = 0 ∧ (d.ringStart r).ring r = ⟨[], [], true, 0⟩
    ∧ d.RegsBut (d.ringStart r) [Reg.HST_RSTAT r, Reg.HST_RHEAD r, dbSqTail r, dbCqHead r] := by
  obtain ⟨hst, hhd⟩ : Reg.HST_RHEAD r ≠ Reg.HST_RSTAT r ∧ Reg.HST_RSTAT r < 2 ^ 32 := by
    unfold Reg.HST_RHEAD Reg.HST_RSTAT; omega
  have hhead : Reg.HST_RHEAD r < 2 ^ 32 := by unfold Reg.HST_RHEAD; omega
  have htail : 2 ^ 32 ≤ dbSqTail r ∧ 2 ^ 32 ≤ dbCqHead r ∧ dbSqTail r ≠ dbCqHead r := by unfold dbSqTail dbCqHead; omega
  obtain ⟨hsq, hcq, hdb⟩ := htail
  unfold Dev.ringStart
  dsimp only
  refine ⟨Dev.fld_setFld_same _ _ _ (by decide), ?_, ?_, ?_, ?_, ?_⟩
  · rw [Dev.reg_setFld_ne _ _ _ _ hst, Dev.reg_setReg_ne _ _ (by omega), Dev.reg_setReg_ne _ _ (by omega), Dev.reg_setReg_same, Nat.zero_mod]
  · rw [Dev.reg_setFld_ne _ _ _ _ (by omega), Dev.reg_setReg_ne _ _ hdb, Dev.reg_setReg_same, Nat.zero_mod]
  · rw [Dev.reg_setFld_ne _ _ _ _ (by omega), Dev.reg_setReg_same, Nat.zero_mod]
  · exact Sparse.get_put_same ringDefault d.rings r ⟨[], [], true, 0⟩
  · exact ((((Dev.RegsBut.refl d _).of_regs rfl).setReg 0 (by simp)).setReg 0 (by simp)).setReg 0 (by simp) |>.setFld 0 2 rsRUN (by simp)

omit hr in
/-- A ring that stops is idle at once where nothing of it is under way, and drains otherwise. -/
theorem Dev.ringStopped : d.OnlyRegs (d.ringStop r) [Reg.HST_RSTAT r] ∧ (d.ringStop r).rState r
    = if (d.ring r).inflight = 0 ∧ (d.ring r).held = [] ∧ (d.ring r).fetched = [] then rsIDLE else rsDRAIN := by
  have hdrain : (d.setFld (Reg.HST_RSTAT r) 0 2 rsDRAIN).fld (Reg.HST_RSTAT r) 0 2 = 2 := Dev.fld_setFld_same _ _ _ (by decide)
  unfold Dev.ringStop Dev.ringSettle
  rw [hdrain, show (d.setFld (Reg.HST_RSTAT r) 0 2 rsDRAIN).ring r = d.ring r from rfl]
  by_cases h : (d.ring r).inflight = 0 ∧ (d.ring r).held = [] ∧ (d.ring r).fetched = []
  · rw [if_pos (by simpa [List.isEmpty_iff, and_assoc] using h), if_pos h]
    exact ⟨(Dev.OnlyRegs.setReg d _ _).write _ (List.mem_singleton_self _), Dev.fld_setFld_same _ _ _ (by decide)⟩
  · rw [if_neg (by simpa [List.isEmpty_iff, and_assoc] using h), if_neg h]
    exact ⟨Dev.OnlyRegs.setReg d _ _, hdrain⟩

section
variable (halive : d.alive = true)
include halive

theorem exec_ringEnable {v : Word32} (hen : bit v.toNat 0 = true) (hidle : d.rState r = rsIDLE) (hoff : d.flag (Reg.HST_RCFG r) 0 = false)
    (hcache : d.flag Reg.HST_STAT 2 = true) (hgood : regReserved d.express (Reg.HST_RCFG r)
      (mergeWrite ⟨0, [], 32, 0x1F1F03, 0, 0, 0, 0⟩ .host (d.reg (Reg.HST_RCFG r)) v.toNat) = false) :
    exec (.ringEnable r v) ⟨q, d⟩ = .next ⟨q, (d.regWrite .host (Reg.HST_RCFG r) v.toNat).ringStart r⟩ := by
  obtain ⟨-, hflag, -⟩ := Dev.regWrite_rcfg hr hgood
  rw [show exec (.ringEnable r v) ⟨q, d⟩ = execRingEnable r v ⟨q, d⟩ from rfl, execRingEnable, State.upd_alive halive]
  dsimp only
  rw [if_pos (by rw [hen, decide_eq_true hr]; rfl)]
  unfold Dev.rcfgWrite
  dsimp only
  have hold : bit (d.reg (Reg.HST_RCFG r)) 0 = false := hoff
  rw [hidle, hold, hen, hcache, hflag, hen, if_neg (by simp), if_neg, if_pos (by rfl)]
  intro hsame
  have hbit : bit ((d.regWrite .host (Reg.HST_RCFG r) v.toNat).reg (Reg.HST_RCFG r)) 0 = true := hflag.trans hen
  rw [hsame, hold] at hbit
  exact Bool.false_ne_true hbit

theorem exec_ringDisable {v : Word32} (hen : bit v.toNat 0 = false) (hon : d.flag (Reg.HST_RCFG r) 0 = true)
    (hsq : bits v.toNat 8 5 = d.fld (Reg.HST_RCFG r) 8 5) (hcq : bits v.toNat 16 5 = d.fld (Reg.HST_RCFG r) 16 5)
    (hgood : regReserved d.express (Reg.HST_RCFG r)
      (mergeWrite ⟨0, [], 32, 0x1F1F03, 0, 0, 0, 0⟩ .host (d.reg (Reg.HST_RCFG r)) v.toNat) = false) :
    exec (.ringDisable r v) ⟨q, d⟩ = .next ⟨q, (d.regWrite .host (Reg.HST_RCFG r) v.toNat).ringStop r⟩ := by
  obtain ⟨-, hflag, -⟩ := Dev.regWrite_rcfg hr hgood
  rw [show exec (.ringDisable r v) ⟨q, d⟩ = execRingDisable r v ⟨q, d⟩ from rfl, execRingDisable, State.upd_alive halive]
  dsimp only
  rw [if_pos (by rw [hen, decide_eq_true hr]; rfl)]
  unfold Dev.rcfgWrite
  dsimp only
  have hold : bit (d.reg (Reg.HST_RCFG r)) 0 = true := hon
  have hsq' : bits (d.reg (Reg.HST_RCFG r)) 8 5 = bits v.toNat 8 5 := hsq.symm
  have hcq' : bits (d.reg (Reg.HST_RCFG r)) 16 5 = bits v.toNat 16 5 := hcq.symm
  rw [hold, hen, hflag, hen, hsq', hcq', if_neg (by simp), if_neg, if_neg (by decide), if_pos (by rfl)]
  intro hsame
  have hbit : bit ((d.regWrite .host (Reg.HST_RCFG r) v.toNat).reg (Reg.HST_RCFG r)) 0 = false := hflag.trans hen
  rw [hsame, hold] at hbit
  exact Bool.false_ne_true hbit.symm

/-- A base of a ring that is idle is written from its 4 KiB upward. -/
theorem exec_ringConfigWrite_base {b : Nat} (hb : b ∈ [Reg.HST_SQBASE r, Reg.HST_CQBASE r]) (v : Word64) :
    (d.rState r = rsIDLE → ∃ t, exec (.ringConfigWrite b v) ⟨q, d⟩ = .next ⟨q, t⟩ ∧ d.OnlyRegs t [b] ∧ t.reg b / 4096 = v.toNat / 4096)
      ∧ (d.rState r ≠ rsIDLE → exec (.ringConfigWrite b v) ⟨q, d⟩ = .next ⟨q, d.record clsHOST 0x012 (b % 0x100000) 0 blkHST r⟩) := by
  obtain ⟨hlow, hhigh, hring, hin⟩ := ringBase_range hr hb
  have hexec : exec (.ringConfigWrite b v) ⟨q, d⟩
      = .next ⟨q, if d.rState r ≠ rsIDLE then d.discard clsHOST 0x012 b r else d.regWrite .host b v.toNat⟩ := by
    rw [show exec (.ringConfigWrite b v) ⟨q, d⟩ = execRingConfigWrite b v ⟨q, d⟩ from rfl, execRingConfigWrite, State.upd_alive halive]
    dsimp only
    rw [hring, if_neg (by simp; omega), if_neg (by unfold Reg.HST_RCFG; omega), if_pos (by simpa using hb)]
  refine ⟨fun hidle => ?_, fun hbusy => ?_⟩
  · obtain ⟨row, hrow, hrw, hgw⟩ : ∃ row, findRow b = some row ∧ row.rw = 0xfffffffffffff000 ∧ row.gw = 0 := by
      simp only [List.mem_cons, List.not_mem_nil, or_false] at hb
      rcases hb with rfl | rfl
      · exact ⟨_, findRow_sqbase hr, rfl, rfl⟩
      · exact ⟨_, findRow_cqbase hr, rfl, rfl⟩
    obtain ⟨hframe, hreg⟩ := Dev.regWrite_host (d := d) (v := v.toNat) (by omega) hrow hgw (regReserved_ringBase hr hb _ _)
    refine ⟨_, hexec.trans (by rw [if_neg (not_not.mpr hidle)]), hframe, ?_⟩
    rw [← bits_12_52 (Dev.reg_lt _ _), hreg, bits_mod _ (by decide), bits_mergeWrite (by rw [hrw]; decide), bits_12_52 v.isLt]
  · rw [hexec, if_pos hbusy]
    unfold Dev.discard blockAt
    rw [show b / 0x100000 = 2 by omega]
    rfl

/-- The sizes of a ring that is not idle stay. -/
theorem exec_ringConfigWrite_sizes {v : Word64} (hbusy : d.rState r ≠ rsIDLE)
    (hsize : bits v.toNat 8 5 ≠ d.fld (Reg.HST_RCFG r) 8 5 ∨ bits v.toNat 16 5 ≠ d.fld (Reg.HST_RCFG r) 16 5) :
    exec (.ringConfigWrite (Reg.HST_RCFG r) v) ⟨q, d⟩
      = .next ⟨q, d.record clsHOST 0x012 (Reg.HST_RCFG r % 0x100000) 0 blkHST r⟩ := by
  have hring : (Reg.HST_RCFG r - 0x201000) / 0x20 = r := by unfold Reg.HST_RCFG; omega
  have hsize' : bits (d.reg (Reg.HST_RCFG r)) 8 5 ≠ bits v.toNat 8 5 ∨ bits (d.reg (Reg.HST_RCFG r)) 16 5 ≠ bits v.toNat 16 5 :=
    hsize.imp Ne.symm Ne.symm
  rw [show exec (.ringConfigWrite (Reg.HST_RCFG r) v) ⟨q, d⟩ = execRingConfigWrite (Reg.HST_RCFG r) v ⟨q, d⟩ from rfl,
    execRingConfigWrite, State.upd_alive halive]
  dsimp only
  rw [hring, if_neg (by simp; exact ⟨by unfold Reg.HST_RCFG; omega, hr⟩), if_pos rfl]
  unfold Dev.rcfgWrite
  dsimp only
  rw [bits_mod _ (by decide), bits_mod _ (by decide), if_pos, Dev.discard, blockAt_rcfg hr]
  simp only [ne_eq, hbusy, not_false_eq_true, decide_true, Bool.true_and, Bool.or_eq_true, bne_iff_ne]
  exact .inl (.inl hsize')

end
end

/-! ### Fetching (R452, R456) -/

/-- The ring whose turn it is: the first from the turn on that may be fetched from and is not empty. -/
theorem Dev.ringDue_eq (hr : r < 256) (hturn : d.ringTurn < 256) (hmay : d.mayFetch r = true) (hleft : d.sqLeft r ≠ 0)
    (hfirst : ∀ i, i < (r + 256 - d.ringTurn) % 256 → d.mayFetch ((d.ringTurn + i) % 256) = false ∨ d.sqLeft ((d.ringTurn + i) % 256) = 0) :
    d.ringDue = some r := by
  unfold Dev.ringDue
  rw [List.find?_eq_some_iff_getElem]
  refine ⟨by simp [hmay, hleft], (r + 256 - d.ringTurn) % 256, by simp; omega, ?_, fun j hj => ?_⟩
  · simp
    omega
  · simp only [List.getElem_map, List.getElem_range]
    rcases hfirst j hj with h | h <;> simp [h]

section
variable (halive : d.alive = true) (ds : List (Option Line))
include halive

theorem exec_ringFetch_due (hdue : d.ringDue = some r) {s t : Dev} (hs : s = { d with ringTurn := (r + 1) % 256 })
    (ht : t = Dev.ringBurst r ds (min (d.sqLeft r) (d.fld Reg.HST_CFG 0 4)) s) :
    exec (.ringFetch r ds) ⟨q, d⟩ = .next ⟨q, (Dev.ringArm r ((t.ring r).fetched.length) t).ringSettle r⟩ := by
  rw [show exec (.ringFetch r ds) ⟨q, d⟩ = execRingFetch r ds ⟨q, d⟩ from rfl, execRingFetch, State.upd_alive halive]
  dsimp only
  rw [if_pos hdue, ← hs, ← ht]

theorem exec_ringFetch_other (hother : d.ringDue ≠ some r) :
    exec (.ringFetch r ds) ⟨q, d⟩ = .next ⟨q, (Dev.ringArm r ((d.ring r).fetched.length) d).ringSettle r⟩ := by
  rw [show exec (.ringFetch r ds) ⟨q, d⟩ = execRingFetch r ds ⟨q, d⟩ from rfl, execRingFetch, State.upd_alive halive]
  dsimp only
  rw [if_neg hother]

end

/-- Poison stops the ring with a record, and its SQHEAD stays. -/
theorem Dev.ringBurst_poison (hr : r < 256) {n : Nat} (hn : 0 < n) (hempty : (d.ring r).fetched = []) {t : Dev}
    (ht : t = Dev.ringBurst r [none] n d) :
    (Dev.ringArm r ((t.ring r).fetched.length) t).ringSettle r = t ∧ t.rState r = rsSTOPPED ∧ t.ringTurn = d.ringTurn
      ∧ t.reg (Reg.HST_RHEAD r) = d.reg (Reg.HST_RHEAD r)
      ∧ d.Recorded t clsHOST 0x013 (bits (d.reg (Reg.HST_SQBASE r) + 64 * d.fld (Reg.HST_RHEAD r) 0 16) 6 32) 0 blkHST r := by
  obtain ⟨m, rfl⟩ : ∃ m, n = m + 1 := ⟨n - 1, by omega⟩
  have heq : t = (d.setFld (Reg.HST_RSTAT r) 0 2 rsSTOPPED).record clsHOST 0x013
      (bits (d.reg (Reg.HST_SQBASE r) + 64 * d.fld (Reg.HST_RHEAD r) 0 16) 6 32) 0 blkHST r := ht
  obtain ⟨hstat, hne⟩ : Reg.HST_RSTAT r < 0x1000000 ∧ Reg.HST_RHEAD r ≠ Reg.HST_RSTAT r := by
    unfold Reg.HST_RSTAT Reg.HST_RHEAD; omega
  have hhead : Reg.HST_RHEAD r < 0x1000000 := by unfold Reg.HST_RHEAD; omega
  have hstopped : t.rState r = rsSTOPPED := by
    unfold Dev.rState Dev.fld
    rw [heq, Dev.reg_record_lt _ _ _ _ _ _ _ hstat]
    exact Dev.fld_setFld_same _ _ _ (by decide)
  have hring : t.ring r = d.ring r := by
    unfold Dev.ring
    rw [heq, Dev.record_rings]
    rfl
  refine ⟨?_, hstopped, ?_, ?_, ?_⟩
  · rw [hring, hempty, show Dev.ringArm r ([] : List Line).length t = t from rfl]
    unfold Dev.ringSettle
    rw [show t.fld (Reg.HST_RSTAT r) 0 2 = 3 from hstopped, if_neg (by simp)]
  · rw [heq, Dev.record_ringTurn]
    rfl
  · rw [heq, Dev.reg_record_lt _ _ _ _ _ _ _ hhead, Dev.reg_setFld_ne _ _ _ _ hne]
  · rw [heq]
    refine (Dev.recorded_record _ _ _ _ _ _ _).from_congr rfl (fun k hk _ => ?_) (by decide)
    exact Dev.reg_setFld_ne _ _ _ _ (by omega)

end

/-- Settles O38: the order of a doorbell's checks, the start and the stop of a ring, and its turn. -/
theorem doorbellsAndRings : Obligations.DoorbellsAndRings := by
  intro q d r halive hr
  refine ⟨fun hopen => ⟨fun hon v hv => ⟨fun hin => ?_, fun hpast => ?_, fun hin hnot => ?_, fun hpast => ?_⟩,
      fun hoff v i hi => exec_doorbell_off halive hr hopen hoff v hi⟩,
    fun v hen hidle hoff hcache hgood => ?_, fun v hen hon hsq hcq hgood => ?_,
    fun v b hb => exec_ringConfigWrite_base hr halive hb v, fun v hbusy hsize => exec_ringConfigWrite_sizes hr halive hbusy hsize,
    fun ds s hturn hmay hleft hs hfirst => ?_, fun ds hother => exec_ringFetch_other halive ds hother⟩
  · rw [exec_doorbellSqtail halive hr hopen hon hv, if_neg (Nat.not_le.mpr hin)]
  · rw [exec_doorbellSqtail halive hr hopen hon hv, if_pos hpast, Dev.dbBad_past]
  · rw [exec_doorbellCqhead halive hr hopen hon hv, if_neg (Nat.not_le.mpr hin), if_neg (Nat.not_lt.mpr hnot)]
  · rw [exec_doorbellCqhead halive hr hopen hon hv, if_pos hpast, Dev.dbBad_past]
  · obtain ⟨hframe, hflag, hsq, hcq⟩ := Dev.regWrite_rcfg hr hgood
    obtain ⟨hstate, hhead, htail, hcqhead, hring, hregs⟩ := Dev.ringStarted (d := d.regWrite .host (Reg.HST_RCFG r) v.toNat) hr
    have hkept := hregs (Reg.HST_RCFG r) (by
      simp only [List.mem_cons, List.not_mem_nil, or_false, not_or]
      unfold Reg.HST_RCFG Reg.HST_RSTAT Reg.HST_RHEAD dbSqTail dbCqHead
      omega)
    refine ⟨_, exec_ringEnable hr halive hen hidle hoff hcache hgood, hstate, ?_, ?_, ?_, hhead, htail, hcqhead, hring, fun k hk => ?_⟩
    · exact (congrArg (bit · 0) hkept).trans (hflag.trans hen)
    · exact (congrArg (bits · 8 5) hkept).trans hsq
    · exact (congrArg (bits · 16 5) hkept).trans hcq
    · obtain ⟨hcfg, hrest⟩ := not_or.mp (List.mem_cons.not.mp hk)
      exact (hregs k hrest).trans (hframe.2 k (by simpa using hcfg))
  · obtain ⟨hframe, hflag, -⟩ := Dev.regWrite_rcfg hr hgood
    obtain ⟨honly, hstate⟩ := Dev.ringStopped (d := d.regWrite .host (Reg.HST_RCFG r) v.toNat) (r := r)
    have hring : (d.regWrite .host (Reg.HST_RCFG r) v.toNat).ring r = d.ring r := by rw [hframe.1]; rfl
    have hkept := honly.2 (Reg.HST_RCFG r) (by
      rw [List.mem_singleton]
      unfold Reg.HST_RCFG Reg.HST_RSTAT
      omega)
    refine ⟨_, exec_ringDisable hr halive hen hon hsq hcq hgood, (congrArg (bit · 0) hkept).trans (hflag.trans hen), ?_, ?_⟩
    · rw [hstate, hring]
    · exact Dev.OnlyRegs.trans (ks := [Reg.HST_RCFG r, Reg.HST_RSTAT r]) ⟨hframe.1, fun k hk => hframe.2 k (by simp_all)⟩
        ⟨honly.1, fun k hk => honly.2 k (by simp_all)⟩
  · have hdue := Dev.ringDue_eq hr hturn hmay hleft hfirst
    refine ⟨fun t ht => exec_ringFetch_due halive ds hdue hs ht, fun hds hmax hempty => ?_⟩
    subst hds hs
    obtain ⟨hsame, hstop, hnext, hhead, hrec⟩ := Dev.ringBurst_poison (d := { d with ringTurn := (r + 1) % 256 }) (n := min (d.sqLeft r) (d.fld Reg.HST_CFG 0 4)) hr
      (by omega) hempty rfl
    refine ⟨_, (exec_ringFetch_due halive _ hdue rfl rfl).trans (by rw [hsame]), hstop, hnext, hhead,
      hrec.from_congr rfl (fun _ _ _ => rfl) (by decide)⟩

end Sys2Proof.Machine
end

section
/-! The host's accesses to device memory, the snoops, the decoder, the upstream link and configuration requests (R440, R441,
R444 to R446, R457, R531, R532). -/
namespace Sys2Proof.Machine

-- The short theorems below are elaborated one after another: side by side, their threads' stacks exceed the memory of the check.
set_option Elab.async false

/-! ### A device that holds nothing in lent HBM -/

theorem Dev.noLent_iff (s : Dev) : s.noLent = true ↔ s.mmf.lines = [] ∧ ∀ e ∈ s.pt, pteHome e.2.toNat ≠ 4 := by
  simp [Dev.noLent]

theorem Dev.pteHome_of_noLent {s : Dev} (h : s.noLent = true) (p : Nat) : pteHome (s.pte p) ≠ 4 := by
  obtain ⟨hlines, hpt⟩ := s.noLent_iff.1 h
  exact Dev.pteHome_of_calm (s := s.setTiers fun t => { t with filter := [] }) ((Dev.calm_iff _).2 ⟨rfl, hlines, hpt⟩) p

theorem Dev.lentLines_of_noLent {s : Dev} (h : s.noLent = true) (a n : Nat) : s.lentLines a n = [] := by
  obtain ⟨-, hpt⟩ := s.noLent_iff.1 h
  have hnone : s.pt.any (fun e => pteHome e.2.toNat == 4) = false := by simpa using hpt
  simp [Dev.lentLines, hnone]

theorem Dev.lentBytes_of_noLent {s : Dev} (h : s.noLent = true) (g a : Nat) (bs : List Byte) : s.lentBytes g a bs = bs := by
  unfold Dev.lentBytes
  rw [Dev.lentLines_of_noLent h]
  rfl

/-- Where `s` holds nothing in lent HBM, neither does `t`, and nothing waited on the way from `s` to `t`. -/
structure Dev.StaysOwn (s t : Dev) : Prop where
  step : s.noLent = true → t.noLent = true ∧ t.tiers.stalls = s.tiers.stalls

namespace Dev.StaysOwn
variable {s t u : Dev}

theorem refl (s : Dev) : s.StaysOwn s := ⟨fun h => ⟨h, rfl⟩⟩

theorem andThen (h : s.StaysOwn t) (k : t.noLent = true → t.StaysOwn u) : s.StaysOwn u := by
  refine ⟨fun hs => ?_⟩
  obtain ⟨ht, hst⟩ := h.step hs
  obtain ⟨hu, hsu⟩ := (k ht).step ht
  exact ⟨hu, hsu.trans hst⟩

theorem frame (h : s.StaysOwn t) (e : u.pt = t.pt ∧ u.tiers.stalls = t.tiers.stalls ∧ u.mmf.lines = t.mmf.lines := by exact ⟨rfl, rfl, rfl⟩) :
    s.StaysOwn u := by
  obtain ⟨hpt, hstalls, hlines⟩ := e
  refine h.andThen fun ht => ⟨fun _ => ⟨?_, hstalls⟩⟩
  rw [Dev.noLent_iff] at ht ⊢
  rwa [hlines, hpt]

theorem ite {c : Prop} [Decidable c] (ht : s.StaysOwn t) (hu : s.StaysOwn u) : s.StaysOwn (if c then t else u) := by
  split
  · exact ht
  · exact hu

theorem each {α : Type} {f : Dev → α → Dev} {l : List α} (h : s.StaysOwn t) (hf : ∀ {u a}, s.StaysOwn u → s.StaysOwn (f u a)) :
    s.StaysOwn (t.each l f) := Dev.each_keeps (P := fun u => s.StaysOwn u) h hf

theorem wrBytes {k : Nat} {bs : List Byte} (h : s.StaysOwn t) : s.StaysOwn (t.wrBytes k bs) :=
  (h.each (f := fun s p => s.wr (k + p.1) p.2) (l := (List.range bs.length).zip bs) frame).frame

theorem emit {o : Out} (h : s.StaysOwn t) : s.StaysOwn (t.emit o) := h.frame
theorem readDone (h : s.StaysOwn t) : s.StaysOwn t.readDone := h.frame
theorem setTiers {f : Tiers → Tiers} (h : s.StaysOwn t) (hf : ∀ x, (f x).stalls = x.stalls) : s.StaysOwn (t.setTiers f) :=
  h.frame ⟨rfl, hf _, rfl⟩

theorem touchPage {p : Nat} (h : s.StaysOwn t) : s.StaysOwn (t.touchPage p) := by
  refine ite h (h.andThen fun ht => ⟨fun _ => ⟨?_, rfl⟩⟩)
  have hhome : pteHome (setBit (t.pte p) 8 true % 2 ^ 128) = pteHome (t.pte p) := by
    unfold pteHome setBit
    rw [bits_mod _ (by omega), bits_setBits_below _ _ _ _ (by omega)]
  obtain ⟨hlines, hpt⟩ := t.noLent_iff.1 ht
  refine (Dev.noLent_iff _).2 ⟨hlines, fun x hx => ?_⟩
  rcases Sparse.mem_put hx with rfl | hx
  · rw [BitVec.toNat_ofNat, hhome]
    exact Dev.pteHome_of_noLent ht p
  · exact hpt x hx

theorem touch {a n : Nat} (h : s.StaysOwn t) : s.StaysOwn (t.touch a n) := ite h (h.each touchPage)

theorem homeWrite {g p off : Nat} {bs : List Byte} (h : s.StaysOwn t) (hp : t.noLent = true → pteHome p ≠ 4) :
    s.StaysOwn (t.homeWrite g p off bs) := h.andThen fun ht => by
  unfold Dev.homeWrite
  dsimp only
  rw [if_neg (hp ht)]
  exact (refl t).wrBytes

theorem pageWrite {g p off : Nat} {bs : List Byte} (h : s.StaysOwn t) : s.StaysOwn (t.pageWrite g p off bs) :=
  ite h.frame (ite (h.frame.homeWrite fun ht => Dev.pteHome_of_noLent ht p) (h.homeWrite fun ht => Dev.pteHome_of_noLent ht p))

theorem lentParts {g a n : Nat} (h : s.StaysOwn t) : s.StaysOwn (t.lentParts g a n) := h.andThen fun ht => by
  unfold Dev.lentParts
  rw [Dev.lentLines_of_noLent ht]
  exact refl t

/-- A write of the host asks no line back. -/
theorem jobWrite {a : Nat} {bs : List Byte} (h : s.StaysOwn t) : s.StaysOwn (t.jobWrite hostWr a bs) := by
  unfold Dev.jobWrite
  dsimp only
  rw [if_pos rfl, if_pos rfl]
  exact ite h.lentParts (ite h.lentParts.wrBytes (h.lentParts.touch.each fun h => ite h.wrBytes h.pageWrite))

theorem record {cls code detail gen block inst : Nat} (h : s.StaysOwn t) : s.StaysOwn (t.record cls code detail gen block inst) :=
  h.frame ⟨Dev.record_pt .., by rw [Dev.record_tiers], by rw [Dev.record_mmf]⟩

theorem hostFault {a : Nat} (h : s.StaysOwn t) : s.StaysOwn (t.hostFault a) := by
  have hcount : s.StaysOwn (((t.bump Reg.MEM_CNT_XLFAULT 1).bump Reg.HST_CNT_HDMFAULT 1).setTiers fun t => { t with hdmRec := true }) :=
    h.frame
  exact ite hcount.record hcount

theorem snoopSend {ls : List Nat} (h : s.StaysOwn t) : s.StaysOwn (t.snoopSend ls) :=
  (h.each (f := fun s l => (s.emit (.bisnp l)).bump Reg.HST_CNT_BISNP 1) frame).frame

/-- The line evicted is only asked back: the line entered does not wait for it. -/
theorem filterAdd {l : Nat} {own : Bool} (h : s.StaysOwn t) : s.StaysOwn (t.filterAdd l own) := by
  refine ite h.frame ?_
  dsimp only
  refine frame (t := if t.tiers.filter.length < 262144 then t else match t.tiers.filter with
      | x :: _ => (t.snoopGate true fun k => k == x.1).1
      | [] => t) (ite h ?_)
  split
  · exact h.snoopSend
  · exact h

end Dev.StaysOwn

theorem Dev.attempt_eq {d t : Dev} {f : Dev → Dev} (hf : f d = t) (hstalls : t.tiers.stalls = d.tiers.stalls) : d.attempt f = t := by
  rw [Dev.attempt_done _ _ (by rw [hf, hstalls]), hf]

/-- On a working device that holds nothing in lent HBM, an event is what its effect is, where that makes nothing wait. -/
theorem State.unit_of_staysOwn {d t : Dev} {f : Dev → Dev} (q : List Instr) (halive : d.alive = true) (hown : d.noLent = true)
    (hf : f d = t) (ht : d.StaysOwn t) : (State.mk q d).unit f = .next ⟨q, t⟩ := by
  obtain ⟨hlent, hstalls⟩ := ht.step hown
  have hend : (f d).unitEnd = t := by rw [hf, t.unitEnd_nil (t.noLent_iff.1 hlent).1]
  unfold State.unit
  rw [State.upd_alive halive]
  exact congrArg (fun t => Host.Outcome.next (State.mk q t)) (Dev.attempt_eq hend hstalls)

/-! ### The bytes that a read gives -/

/-- A byte that no command holds is given as it is. -/
theorem Dev.heldBytes_free (d : Dev) (k : Nat) (bs : List Byte) {i : Nat} (hi : i < bs.length) (hfree : d.heldRegion (k + i) = false) :
    (d.heldBytes k bs)[i]? = bs[i]? := by
  unfold Dev.heldBytes
  rw [List.getElem?_map, List.getElem?_eq_getElem (by simpa using hi), List.getElem?_eq_getElem hi, Option.map_some, List.getElem_zip,
    List.getElem_range, hfree]
  rfl

section
variable {q : List Instr} {d : Dev}

section
variable (halive : d.alive = true)
include halive

/-! ### The decoder and the host's accesses (R444 to R446) -/

theorem exec_hdmDecoderCommit_closed (hopen : d.hdmOpen = false) (b : Word64) : exec (.hdmDecoderCommit b) ⟨q, d⟩ = .next ⟨q, d⟩ :=
  State.upd_of_alive q halive (by rw [hopen]; rfl)

omit halive in
/-- A base written that is set with HDMEN. -/
theorem Dev.hdmSet {base : Nat} (hfit : base < 2 ^ 64) {t : Dev} (ht : t = (d.setReg Reg.HST_HDMBASE base).setFlag Reg.HST_STAT 1 true) :
    t.flag Reg.HST_STAT 1 = true ∧ t.reg Reg.HST_HDMBASE = base ∧ d.OnlyRegs t [Reg.HST_HDMBASE, Reg.HST_STAT] := by
  rw [ht]
  refine ⟨Dev.flag_setFlag_same _ _ _ (by decide), ?_, ?_⟩
  · rw [Dev.reg_setFlag_ne _ _ _ (by decide), Dev.reg_setReg_same, Nat.mod_eq_of_lt hfit]
  · exact ⟨rfl, ((Dev.RegsBut.refl d _).setReg _ (by simp)).setFlag 1 true (by simp)⟩

theorem exec_hdmDecoderCommit (hopen : d.hdmOpen = true) (b : Word64) {base : Nat} (hbase : base = b.toNat / 2 ^ 28 * 2 ^ 28) :
    exec (.hdmDecoderCommit b) ⟨q, d⟩ = .next ⟨q, (d.setReg Reg.HST_HDMBASE base).setFlag Reg.HST_STAT 1 true⟩ := by
  rw [show exec (.hdmDecoderCommit b) ⟨q, d⟩ = execHdmDecoderCommit b ⟨q, d⟩ from rfl, execHdmDecoderCommit, ← hbase,
    State.upd_alive halive]
  dsimp only
  rw [if_pos hopen]

section
variable {hpa a : Nat} (hown : d.noLent = true) (hline : d.hdmLine hpa = some a)
include hown hline

/-- A read of a good line enters it in the snoop filter and gives its bytes. -/
theorem exec_hostHdmRead {own : Bool} {k : Nat} (hkey : d.xlate a false = .key k) (hgood : d.lineOf k = .good) :
    exec (.hostHdmRead hpa own) ⟨q, d⟩ = .next ⟨q, ((d.touch a 64).filterAdd (a / 64) own).readDone.emit
      (.hdm hpa ((d.touch a 64).heldBytes (jobKey a) ((d.touch a 64).rdJob a 64)) false)⟩ := by
  have htouch : d.StaysOwn (d.touch a 64) := (Dev.StaysOwn.refl d).touch
  have hlent : (d.touch a 64).noLent = true := (htouch.step hown).1
  have hread : d.lineRead false 0 a k = (d, true) := by
    unfold Dev.lineRead
    rw [hgood]
  refine State.unit_of_staysOwn q halive hown ?_ htouch.filterAdd.readDone.emit
  dsimp only
  rw [hline]
  dsimp only
  rw [hkey]
  dsimp only
  rw [hread]
  dsimp only
  rw [Dev.lentLines_of_noLent hown, List.map_nil, Dev.lentNeed_nil, Dev.lentBytes_of_noLent hlent, if_pos rfl]

theorem exec_hostHdmRead_fault {own : Bool} {c : Nat} (hbad : d.xlate a false = .bad c) :
    exec (.hostHdmRead hpa own) ⟨q, d⟩ = .next ⟨q, (d.hostFault a).emit (.hdm hpa [] true)⟩ := by
  refine State.unit_of_staysOwn q halive hown ?_ (Dev.StaysOwn.refl d).hostFault.emit
  simp only [hline, hbad]

/-- A write of a line that nothing waits to be laid over. -/
theorem exec_hostHdmWrite {data : List Byte} {k : Nat} (hlaid : Sparse.get (fun _ => 0) d.tiers.laid (a / 64) = 0)
    (hkey : d.xlate a true = .key k) : exec (.hostHdmWrite hpa data) ⟨q, d⟩ = .next ⟨q,
      (d.jobWrite hostWr a (data.take 64)).setTiers fun t => { t with
        filter := t.filter.map fun x => if x.1 = a / 64 then (x.1, false) else x }⟩ := by
  have hstart : a / 64 * 64 = a := by
    have hsome : ∃ b, a = b / 64 * 64 := by
      unfold Dev.hdmLine at hline
      dsimp only at hline
      split at hline
      · exact ⟨_, (Option.some.inj hline).symm⟩
      · cases hline
    obtain ⟨b, rfl⟩ := hsome
    rw [Nat.mul_div_cancel _ (by decide)]
  have hhost : d.hostLine (a / 64) (data.take 64) = d.jobWrite hostWr a (data.take 64) := by
    unfold Dev.hostLine
    rw [if_pos hlaid, hstart]
  refine State.unit_of_staysOwn q halive hown ?_ ((Dev.StaysOwn.refl d).jobWrite.setTiers fun _ => rfl)
  simp only [hline, hkey]
  rw [hhost]

theorem exec_hostHdmWrite_fault {data : List Byte} {c : Nat} (hbad : d.xlate a true = .bad c) :
    exec (.hostHdmWrite hpa data) ⟨q, d⟩ = .next ⟨q, d.hostFault a⟩ := by
  refine State.unit_of_staysOwn q halive hown ?_ (Dev.StaysOwn.refl d).hostFault
  simp only [hline, hbad]

end

/-! ### Snoops (R440, R446) -/

theorem exec_h2dSnoop (hpa : Nat) : exec (.h2dSnoop hpa) ⟨q, d⟩ = .next ⟨q, d.emit (.rspIHitI hpa)⟩ := by
  rw [show exec (.h2dSnoop hpa) ⟨q, d⟩ = execH2dSnoop hpa ⟨q, d⟩ from rfl, execH2dSnoop, State.upd_alive halive]

theorem exec_bisnpResponse {line : Nat} {data : Option Line} {s t : Dev} (hasked : line ∈ d.tiers.snoops)
    (hs : s = (match data with
      | none => d
      | some (l : Line) => if (d.spanFault (line * 64) 64 true).isSome then d else d.hostLine line (leBytes 64 l.toNat)))
    (ht : t = (s.setTiers fun t => { t with
      snoops := t.snoops.filter (· != line), filter := t.filter.filter fun x => x.1 != line
      laid := Sparse.put (fun _ => 0) t.laid line 0 }).armRings.mfxGoAll) (hstalls : t.tiers.stalls = d.tiers.stalls) :
    exec (.bisnpResponse line data) ⟨q, d⟩ = .next ⟨q, t.unitEnd⟩ := by
  have hend : t.unitEnd.tiers = t.tiers := by
    unfold Dev.unitEnd
    split <;> rfl
  rw [show exec (.bisnpResponse line data) ⟨q, d⟩ = execBisnpResponse line data ⟨q, d⟩ from rfl, execBisnpResponse]
  unfold State.unit
  rw [State.upd_alive halive]
  refine congrArg (fun t => Host.Outcome.next (State.mk q t)) (Dev.attempt_eq ?_ (by rw [hend, hstalls]))
  refine congrArg Dev.unitEnd ((if_neg (by simpa using hasked)).trans ?_)
  rw [ht, hs]
  cases data <;> rfl

theorem exec_bisnpResponse_unasked {line : Nat} (data : Option Line) (hnot : line ∉ d.tiers.snoops) (hown : d.noLent = true) :
    exec (.bisnpResponse line data) ⟨q, d⟩ = .next ⟨q, d⟩ := by
  refine State.unit_of_staysOwn q halive hown ?_ (.refl d)
  dsimp only
  rw [if_pos (by simpa using hnot)]

end

/-! ### The upstream link and configuration requests (R440, R441, R457, R532) -/

section
variable (hrun : d.grd.stage = .run) (hup : d.fld Reg.GRD_BOOTSTAT 0 4 ≠ 8)
include hrun hup

theorem exec_upstreamLinkUp {sp w : Nat} (hsp : 1 ≤ sp) (hsp' : sp ≤ 3) (hw : w ∈ [4, 8, 16]) :
    exec (.upstreamLinkUp sp w) ⟨q, d⟩ = .next ⟨q, ((d.setFld Reg.HST_STAT 8 3 sp).setFld Reg.HST_STAT 11 5 w).each (d.rings.map (·.1))
      fun s r => (s.drainRecs r ((s.ring r).held.length)).ringSettle r⟩ := by
  rw [show exec (.upstreamLinkUp sp w) ⟨q, d⟩ = execUpstreamLinkUp sp w ⟨q, d⟩ from rfl, execUpstreamLinkUp, State.guard]
  dsimp only
  rw [if_neg]
  · rfl
  · have hwidth : [4, 8, 16].contains w = true := List.contains_iff_mem.mpr hw
    rw [hrun, hwidth, decide_eq_false hup, decide_eq_false (show ¬sp = 0 by omega), decide_eq_false (Nat.not_lt.mpr hsp')]
    decide

theorem exec_configRequest_retry (hclosed : d.configOpen = false) (c : CfgReq) :
    exec (.configRequest c) ⟨q, d⟩ = .next ⟨q, d.emit (.config true)⟩ := by
  rw [show exec (.configRequest c) ⟨q, d⟩ = execConfigRequest c ⟨q, d⟩ from rfl, execConfigRequest, State.guard]
  dsimp only
  rw [hrun, decide_eq_false hup, if_neg (by decide), hclosed, if_pos (by rfl)]

/-- What a configuration request gets from a device that serves. -/
def Dev.configAnswer (s : Dev) : CfgReq → Dev
  | .plain => s
  | .cacheEnable on => if s.fld Reg.GRD_BOOTSTAT 0 4 = 5 then s.setFlag Reg.HST_STAT 2 on else s
  | .interruptPin => s.emit (.cfgValue 0)
  | .findCap id => s.emit (.cfgCap id (capHeld id))
  | .tableAccess => s.emit (.cdat 0 hdmLen)

theorem exec_configRequest (hopen : d.configOpen = true) (c : CfgReq) :
    exec (.configRequest c) ⟨q, d⟩ = .next ⟨q, (d.emit (.config false)).configAnswer c⟩ := by
  rw [show exec (.configRequest c) ⟨q, d⟩ = execConfigRequest c ⟨q, d⟩ from rfl, execConfigRequest, State.guard]
  dsimp only
  rw [hrun, decide_eq_false hup, if_neg (by decide), hopen, if_neg (by decide)]
  cases c <;> rfl

end
end

/-- Settles O39: accesses of the host ask nothing back and wait for no lender, and each request has one answer. -/
theorem hostMemoryAndLink : Obligations.HostMemoryAndLink := by
  intro q d
  refine ⟨fun halive => ⟨fun hopen b => exec_hdmDecoderCommit_closed halive hopen b, ?_,
      fun hpa own a k hown hline hkey hgood => ⟨exec_hostHdmRead halive hown hline hkey hgood,
        fun i hi hfree => Dev.heldBytes_free _ _ _ hi hfree⟩,
      fun hpa own a c hown hline hbad => exec_hostHdmRead_fault halive hown hline hbad,
      fun hpa data a k hown hlaid hline hkey => exec_hostHdmWrite halive hown hline hlaid hkey,
      fun hpa data a c hown hline hbad => exec_hostHdmWrite_fault halive hown hline hbad, fun hpa => exec_h2dSnoop halive hpa,
      fun line data s t hasked hs ht hstalls => exec_bisnpResponse halive hasked hs ht hstalls,
      fun line data hnot hown => exec_bisnpResponse_unasked halive data hnot hown, fun line l _ hlaid => if_pos hlaid⟩, rfl,
    fun hrun hup => ⟨fun sp w hsp hsp' hw => exec_upstreamLinkUp hrun hup hsp hsp' hw,
      fun hclosed c => exec_configRequest_retry hrun hup hclosed c, fun hopen => ?_⟩⟩
  · intro hopen b
    obtain ⟨base, hbase⟩ : ∃ base, base = b.toNat / 2 ^ 28 * 2 ^ 28 := ⟨_, rfl⟩
    have hset := Dev.hdmSet (d := d) (base := base) (by rw [hbase]; exact lt_of_le_of_lt (Nat.div_mul_le_self _ _) b.isLt) rfl
    rw [← hbase]
    exact ⟨_, exec_hdmDecoderCommit halive hopen b hbase, hset⟩
  have hexec := exec_configRequest (q := q) hrun hup hopen
  exact ⟨hexec .plain, hexec .interruptPin, hexec (.findCap 0x05), hexec (.findCap 0x11), hexec .tableAccess, fun on => hexec (.cacheEnable on)⟩

end Sys2Proof.Machine
end

section
/-! The downstream ports: their enabling, disabling, and their links (R279, R447, R448, R501). -/
namespace Sys2Proof.Machine

-- The short theorems below are elaborated one after another: side by side, their threads' stacks exceed the memory of the check.
set_option Elab.async false

/-! ### The size table -/

/-- A port enters the size table: its tier is one larger, between two steps of SIZ_GEN. -/
def Dev.tierMore (s : Dev) : Dev := s.sizChange fun s => s.setFld Reg.SIZ_TIER 0 2 (s.fld Reg.SIZ_TIER 0 2 + 1)

section
variable (d : Dev)

theorem Dev.reg_tierMore_gen : d.tierMore.reg Reg.SIZ_GEN = ((d.reg Reg.SIZ_GEN + 1) % 2 ^ 32 + 1) % 2 ^ 32 := by
  unfold Dev.tierMore Dev.sizChange
  dsimp only
  rw [Dev.reg_setReg_same, Dev.reg_setFld_ne _ _ _ _ (by decide), Dev.reg_setReg_same]
  omega

theorem Dev.fld_tierMore : d.tierMore.fld Reg.SIZ_TIER 0 2 = (d.fld Reg.SIZ_TIER 0 2 + 1) % 4 := by
  unfold Dev.tierMore Dev.sizChange
  dsimp only
  rw [Dev.fld_congr (Dev.reg_setReg_ne _ _ (by decide)), Dev.fld_setFld_same _ _ _ (by decide),
    Dev.fld_congr (Dev.reg_setReg_ne _ _ (by decide)), show 2 ^ 2 = 4 from rfl]

theorem Dev.reg_tierMore_ne {k : Nat} (hgen : k ≠ Reg.SIZ_GEN) (htier : k ≠ Reg.SIZ_TIER) : d.tierMore.reg k = d.reg k := by
  unfold Dev.tierMore Dev.sizChange
  dsimp only
  rw [Dev.reg_setReg_ne _ _ hgen, Dev.reg_setFld_ne _ _ _ _ htier, Dev.reg_setReg_ne _ _ hgen]

theorem Dev.tiers_dsRelease (p : Nat) : (d.dsRelease p).tiers = d.tiers := by
  unfold Dev.dsRelease Dev.ungate
  split <;> rfl

end

section
variable {q : List Instr} {d : Dev} {p : Nat} (hp : p < 2)

/-! ### Enabling (R447, R501) -/

section
variable (hlock : d.flag Reg.GRD_BOOTSTAT 10 = false)
include hp hlock

/-- A port that was taken out enters the size table again, is enabled and leaves reset where HBM is zeroed. -/
theorem Dev.portEnable_enters : (d.portEnable p).portOn p = true ∧ (d.portEnable p).reg (Reg.HST_DSCTL p) = 1
    ∧ (d.portEnable p).fld Reg.SIZ_TIER 0 2 = (d.fld Reg.SIZ_TIER 0 2 + 1) % 4
    ∧ (d.portEnable p).reg Reg.SIZ_GEN = ((d.reg Reg.SIZ_GEN + 1) % 2 ^ 32 + 1) % 2 ^ 32
    ∧ d.RegsBut (d.portEnable p) [Reg.HST_DSCTL p, Reg.SIZ_TIER, Reg.SIZ_GEN, Reg.PWC_CNT_PGWAKE] := by
  obtain ⟨hgen, htier, hwake⟩ : Reg.SIZ_GEN ≠ Reg.HST_DSCTL p ∧ Reg.SIZ_TIER ≠ Reg.HST_DSCTL p ∧ Reg.HST_DSCTL p ≠ Reg.PWC_CNT_PGWAKE := by
    unfold Reg.SIZ_GEN Reg.SIZ_TIER Reg.HST_DSCTL Reg.PWC_CNT_PGWAKE
    omega
  obtain ⟨s, hs⟩ : ∃ s, s = d.setTiers fun t => { t with portsOff := t.portsOff.filter (· != p) } := ⟨_, rfl⟩
  have hreg (k : Nat) : s.reg k = d.reg k := by rw [hs]; rfl
  obtain ⟨u, hu⟩ : ∃ u, u = s.tierMore.setReg (Reg.HST_DSCTL p) 1 := ⟨_, rfl⟩
  have heq : d.portEnable p = if u.grd.hbm then u.dsRelease p else u := by
    have hopen : ¬s.tierMore.flag Reg.GRD_BOOTSTAT 10 = true := by
      rw [Dev.flag_congr (Dev.reg_tierMore_ne s (by decide) (by decide)), Dev.flag_congr (hreg _), hlock]
      exact Bool.false_ne_true
    rw [hu]
    unfold Dev.portEnable
    rw [← hs]
    exact if_neg hopen
  have hkept {k : Nat} (hk : k ≠ Reg.PWC_CNT_PGWAKE) : (d.portEnable p).reg k = u.reg k := by
    rw [heq]
    split
    · exact Dev.reg_dsRelease_ne u p hk
    · rfl
  have htiers : (d.portEnable p).tiers = s.tiers := by
    have hu' : u.tiers = s.tiers := by rw [hu]; rfl
    rw [heq, ← hu']
    split
    · exact Dev.tiers_dsRelease u p
    · rfl
  refine ⟨?_, ?_, ?_, ?_, fun k hk => ?_⟩
  · unfold Dev.portOn
    rw [htiers, hs]
    simp [Dev.setTiers]
  · rw [hkept hwake, hu, Dev.reg_setReg_same, Nat.mod_eq_of_lt (by decide)]
  · rw [Dev.fld_congr (hkept (by decide)), hu, Dev.fld_congr (Dev.reg_setReg_ne _ _ htier), Dev.fld_tierMore, Dev.fld_congr (hreg _)]
  · rw [hkept (by decide), hu, Dev.reg_setReg_ne _ _ hgen, Dev.reg_tierMore_gen, hreg]
  · simp only [List.mem_cons, List.not_mem_nil, or_false, not_or] at hk
    obtain ⟨hctl, hkt, hkg, hkw⟩ := hk
    rw [hkept hkw, hu, Dev.reg_setReg_ne _ _ hctl, Dev.reg_tierMore_ne s hkg hkt, hreg]

variable (halive : d.alive = true) (hoff : d.flag (Reg.HST_DSCTL p) 0 = false)
include halive hoff

theorem exec_dsPortEnable : exec (.dsPortEnable p) ⟨q, d⟩ = .next ⟨q, if !d.portOn p then d.portEnable p
    else
      let s := (d.setReg (Reg.HST_DSCTL p) 1).setTiers fun t => { t with listed := t.listed.filter (· != p) }
      if s.grd.hbm then s.dsRelease p else s⟩ := by
  rw [show exec (.dsPortEnable p) ⟨q, d⟩ = execDsPortEnable p ⟨q, d⟩ from rfl, execDsPortEnable, State.upd_alive halive]
  dsimp only
  rw [hlock, hoff, decide_eq_false (Nat.not_le.mpr hp), if_neg (by decide)]

end

/-! ### Disabling and the links (R279, R448) -/

section
variable (halive : d.alive = true)
include hp halive

theorem exec_dsPortDisableWrite (hen : d.flag (Reg.HST_DSCTL p) 0 = true) (hon : d.portOn p = true) :
    exec (.dsPortDisableWrite p) ⟨q, d⟩ = .next ⟨q, ((d.portOff p).portDown p 0 0).1⟩ := by
  rw [show exec (.dsPortDisableWrite p) ⟨q, d⟩ = execDsPortDisableWrite p ⟨q, d⟩ from rfl, execDsPortDisableWrite, State.upd_alive halive]
  dsimp only
  rw [hen, hon, decide_eq_false (Nat.not_le.mpr hp), if_neg (by decide)]

theorem exec_dsPortLinkDown (hup : d.flag (Reg.HST_DSSTAT p) 0 = true) : exec (.dsPortLinkDown p) ⟨q, d⟩
    = .next ⟨q, Dev.failLost ((d.setFlag (Reg.HST_DSSTAT p) 0 false).tierLost fun home _ => home == 2 + p)⟩ := by
  rw [show exec (.dsPortLinkDown p) ⟨q, d⟩ = execDsPortLinkDown p ⟨q, d⟩ from rfl, execDsPortLinkDown, State.upd_alive halive]
  dsimp only
  rw [hup, decide_eq_false (Nat.not_le.mpr hp), if_neg (by decide)]

theorem exec_dsPortLinkUp (hen : d.flag (Reg.HST_DSCTL p) 0 = true) (hon : d.portOn p = true) (hhbm : d.grd.hbm = true)
    (hdown : d.flag (Reg.HST_DSSTAT p) 0 = false) (hlock : d.flag Reg.GRD_BOOTSTAT 10 = false) (devs : List DsDevice) :
    exec (.dsPortLinkUp p devs) ⟨q, d⟩ = .next ⟨q, if !d.tiers.listed.contains p then d.dsMap p devs
      else
        let s := d.setFlag (Reg.HST_DSSTAT p) 0 true
        (if (s.foundAt p).all fun x => devs.contains x then s.portBack p else s).pump⟩ := by
  rw [show exec (.dsPortLinkUp p devs) ⟨q, d⟩ = execDsPortLinkUp p devs ⟨q, d⟩ from rfl, execDsPortLinkUp, State.upd_alive halive]
  dsimp only
  rw [hen, hon, hhbm, hdown, hlock, decide_eq_false (Nat.not_le.mpr hp), if_neg (by decide)]

end

/-- Pages that come back change no register and ask for no move. -/
theorem Dev.portBack_frame (s : Dev) (p : Nat) : (s.portBack p).regs = s.regs ∧ (s.portBack p).tiers.reqs = s.tiers.reqs := by
  refine Dev.each_keeps (P := fun u : Dev => u.regs = s.regs ∧ u.tiers.reqs = s.tiers.reqs) ⟨rfl, rfl⟩ fun {u e} hu => ?_
  dsimp only
  split
  · rw [Dev.setMstate_of_reachable _ _ (by decide)]
    exact hu
  · exact hu

/-- A register that tells nothing of a timetable is kept by the end of one. -/
theorem Dev.reg_ttEndCheck_ne (s : Dev) {k : Nat} (hstat : k ≠ Reg.DRY_STAT) (hctl : k ≠ Reg.DRY_TTCTL) : s.ttEndCheck.reg k = s.reg k := by
  unfold Dev.ttEndCheck
  dsimp only
  split
  · exact (Dev.reg_setReg_ne (s.setFlag Reg.DRY_STAT 12 false) 0 hctl).trans (Dev.reg_setFlag_ne s 12 false hstat)
  · rfl

/-- With no move asked for, pages that come back leave the registers but those of a timetable that ends. -/
theorem Dev.reg_portBack_pump {s : Dev} (hreqs : s.tiers.reqs = []) {k : Nat} (hstat : k ≠ Reg.DRY_STAT) (hctl : k ≠ Reg.DRY_TTCTL) :
    (s.portBack p).pump.reg k = s.reg k := by
  obtain ⟨hregs, hkept⟩ := s.portBack_frame p
  rw [Dev.pump_of_reqs_nil (hkept.trans hreqs), Dev.reg_ttEndCheck_ne _ hstat hctl]
  unfold Dev.reg
  rw [hregs]

include hp in
/-- One device found that is used: the port shows UP, one device and its frames. -/
theorem Dev.dsMap_one {x : DsDevice} (hused : x.used = true) (hfit : x.bytes / 2 ^ 21 ≤ 2097152) (hreqs : d.tiers.reqs = []) :
    (d.dsMap p [x]).flag (Reg.HST_DSSTAT p) 0 = true ∧ (d.dsMap p [x]).fld (Reg.HST_DSSTAT p) 8 5 = 1
      ∧ (d.dsMap p [x]).reg (Reg.HST_DSFRAMES p) = x.bytes / 2 ^ 21 := by
  obtain ⟨s, hs⟩ : ∃ s, s = (((d.setReg (Reg.HST_DSSTAT p) (1 + 1 * 2 ^ 8)).setReg (Reg.HST_DSFRAMES p) (min (x.bytes / 2 ^ 21) 2097152)).setTiers
      fun t => { t with found := Sparse.put (fun _ => []) t.found p [x], listed := t.listed.filter (· != p) ++ [p] }) := ⟨_, rfl⟩
  have heq : d.dsMap p [x] = (s.portBack p).pump := by
    have hsum : (([x].take 16).map dsFrames).sum = x.bytes / 2 ^ 21 := Nat.add_zero _
    unfold Dev.dsMap
    dsimp only
    rw [show dsSort [x] = [x] from rfl, show [x].filter (fun d => !d.used) = [] by simp [hused],
      show [x].filter (fun d => d.used) = [x] by simp [hused], hsum, if_neg (Nat.not_lt.mpr hfit), hs]
    rfl
  have hstat : (d.dsMap p [x]).reg (Reg.HST_DSSTAT p) = 257 := by
    rw [heq, Dev.reg_portBack_pump (by rw [hs]; exact hreqs) (by unfold Reg.HST_DSSTAT Reg.DRY_STAT; omega)
      (by unfold Reg.HST_DSSTAT Reg.DRY_TTCTL; omega), hs]
    refine (Dev.reg_setReg_ne _ _ (by unfold Reg.HST_DSSTAT Reg.HST_DSFRAMES; omega)).trans ?_
    rw [Dev.reg_setReg_same, show (1 + 1 * 2 ^ 8) % 2 ^ 64 = 257 from rfl]
  refine ⟨?_, ?_, ?_⟩
  · unfold Dev.flag
    rw [hstat]
    decide
  · unfold Dev.fld
    rw [hstat]
    decide
  · rw [heq, Dev.reg_portBack_pump (by rw [hs]; exact hreqs) (by unfold Reg.HST_DSFRAMES Reg.DRY_STAT; omega)
      (by unfold Reg.HST_DSFRAMES Reg.DRY_TTCTL; omega), hs]
    refine (Dev.reg_setReg_same _ _ _).trans ?_
    rw [Nat.min_eq_left hfit]
    omega

end

/-- Settles O40: a port enters the size table by one step, and its first link maps what it finds. -/
theorem downstreamPorts : Obligations.DownstreamPorts := by
  intro q d p halive hp
  refine ⟨fun hlock hoff => ⟨?_, fun hout => ?_⟩, fun hen hon => ⟨exec_dsPortDisableWrite hp halive hen hon, fun hhbm hdown hlock devs => ⟨?_, ?_, ?_⟩⟩,
    fun hup => exec_dsPortLinkDown hp halive hup⟩
  · rintro hin _ rfl
    rw [exec_dsPortEnable hp hlock halive hoff, hin]
    rfl
  · refine ⟨_, (exec_dsPortEnable hp hlock halive hoff).trans (by rw [hout, if_pos (by rfl)]), Dev.portEnable_enters hp hlock⟩
  · rintro hlisted _ rfl
    rw [exec_dsPortLinkUp hp halive hen hon hhbm hdown hlock devs, List.contains_iff_mem.mpr hlisted]
    rfl
  · intro hnew
    rw [exec_dsPortLinkUp hp halive hen hon hhbm hdown hlock devs, if_pos (by simpa using hnew)]
  · rintro x _ rfl hused hfit hreqs - - - rfl
    exact Dev.dsMap_one hp hused hfit hreqs

end Sys2Proof.Machine
end

section
/-! Units taken out of service and returned to it by a JUNIT (R498 to R501). -/
namespace Sys2Proof.Machine

-- The short theorems below are elaborated one after another: side by side, their threads' stacks exceed the memory of the check.
set_option Elab.async false

section
variable {q : List Instr} {d : Dev} {src : Source} {l : Line} {n k : Nat} {ok : Bool} {body : CmdBody} {f : Dev → Nat → Dev}

theorem Dev.arm_gen_eq (entry : Nat) (reads writes : List (Nat × Nat)) : (d.arm src l entry reads writes body).2 = d.nextGen := by
  unfold Dev.arm
  split <;> rfl

section
variable (hop : dOp l = 0x0703) (hhead : d.headCheck l = none) (hgood : junitBad l = none) (haction : juAction l = k)
include hop hhead hgood haction

theorem Dev.junit_eq : d.junit src l k ok body f
    = if ok = false then d.refuse src l ⟨clsJOB, 0x00C, juIndex l⟩ else f (d.arm src l 0 [] [] body).1 d.nextGen := by
  have hguard : ¬(decide (dOp l ≠ 0x0703) || decide (juAction l ≠ k) && decide (1 ≤ juAction l) && decide (juAction l ≤ 5)) = true := by
    simp [hop, haction]
  unfold Dev.junit
  rw [if_neg hguard, hhead, hgood]
  cases ok with
  | false => rfl
  | true => rw [← d.arm_gen_eq (src := src) (l := l) (body := body) 0 [] []]; rfl

variable (halive : d.alive = true) (hn : n = juIndex l)
include halive hn

theorem exec_junitDeconfigureCoach (hk : k = 1) : exec (.junitDeconfigureCoach src l) ⟨q, d⟩
    = .next ⟨q, if d.coachOn n = false then d.refuse src l ⟨clsJOB, 0x00C, n⟩
      else ((d.arm src l 0 [] [] .control).1.fenceCoach n fun s => s.record clsJOB 0x009 n d.nextGen blkGRD 0).commit d.nextGen 0⟩ := by
  rw [show exec (.junitDeconfigureCoach src l) ⟨q, d⟩ = execJunitDeconfigureCoach src l ⟨q, d⟩ from rfl, execJunitDeconfigureCoach,
    State.upd_alive halive]
  dsimp only
  rw [Dev.junit_eq hop hhead hgood (haction.trans hk), hn]

theorem exec_junitParkPostilion (hk : k = 2) {s t : Dev} {moved : Nat} (hs : s = (d.arm src l 0 [] [] .control).1)
    (hmove : (s.sizChange fun s => s.setFlag Reg.SIZ_ROUTE (8 + n) false).moveShares n = (t, moved)) :
    exec (.junitParkPostilion src l) ⟨q, d⟩
      = .next ⟨q, if (decide (n < 8) && bit d.postmap n && decide (1 < (bitsSet 8 d.postmap).length)) = false
        then d.refuse src l ⟨clsJOB, 0x00C, n⟩
        else (t.postsWake.record clsJOB 0x00A (n + (s.loosePosts n + moved) % 2 ^ 24 * 2 ^ 8) d.nextGen blkGRD 0).commit d.nextGen
          (s.loosePosts n + moved)⟩ := by
  rw [show exec (.junitParkPostilion src l) ⟨q, d⟩ = execJunitParkPostilion src l ⟨q, d⟩ from rfl, execJunitParkPostilion,
    State.upd_alive halive]
  dsimp only
  rw [Dev.junit_eq hop hhead hgood (haction.trans hk), ← hn, ← hs, hmove]

theorem exec_junitUnparkPostilion (hk : k = 3) : exec (.junitUnparkPostilion src l) ⟨q, d⟩
    = .next ⟨q, if (decide (n < d.fld Reg.SIZ_ROUTE 0 4) && !bit d.postmap n) = false then d.refuse src l ⟨clsJOB, 0x00C, n⟩
      else ((d.arm src l 0 [] [] .control).1.sizChange fun s => s.setFlag Reg.SIZ_ROUTE (8 + n) true).commit d.nextGen 0⟩ := by
  rw [show exec (.junitUnparkPostilion src l) ⟨q, d⟩ = execJunitUnparkPostilion src l ⟨q, d⟩ from rfl, execJunitUnparkPostilion,
    State.upd_alive halive]
  dsimp only
  rw [Dev.junit_eq hop hhead hgood (haction.trans hk), hn]

/-- A port that leaves the size table runs on until DRAIN_TO where it has moves that must not fail. -/
theorem exec_junitDisablePort (hk : k = 4) {s t : Dev} {cancelled : Nat} (hs : s = (d.arm src l 0 [] [] (.port ⟨n, 0⟩)).1.portOff n)
    (hdown : s.portDown n 0 d.nextGen = (t, cancelled)) : exec (.junitDisablePort src l) ⟨q, d⟩
      = .next ⟨q, if (decide (n < 2) && d.portOn n) = false then d.refuse src l ⟨clsJOB, 0x00C, n⟩
        else if (juFail l || (s.portMoves n).isEmpty) = true then t.commit d.nextGen cancelled
        else s.setJob fun j => { j with drains := j.drains ++ [(n, d.nextGen)] }⟩ := by
  rw [show exec (.junitDisablePort src l) ⟨q, d⟩ = execJunitDisablePort src l ⟨q, d⟩ from rfl, execJunitDisablePort,
    State.upd_alive halive]
  dsimp only
  rw [Dev.junit_eq hop hhead hgood (haction.trans hk), ← hn, ← hs, hdown]

theorem exec_junitEnablePort (hk : k = 5) : exec (.junitEnablePort src l) ⟨q, d⟩
    = .next ⟨q, if (decide (n < 2) && !d.portOn n && !(d.job.drains.any fun x => x.1 == n)) = false
      then d.refuse src l ⟨clsJOB, 0x00C, n⟩ else ((d.arm src l 0 [] [] .control).1.portEnable n).commit d.nextGen 0⟩ := by
  rw [show exec (.junitEnablePort src l) ⟨q, d⟩ = execJunitEnablePort src l ⟨q, d⟩ from rfl, execJunitEnablePort, State.upd_alive halive]
  dsimp only
  rw [Dev.junit_eq hop hhead hgood (haction.trans hk), hn]

end

/-- Arming a command and taking a port out of the size table leave the moves of the port. -/
theorem Dev.portMoves_armed (entry : Nat) (reads writes : List (Nat × Nat)) (p : Nat) :
    ((d.arm src l entry reads writes body).1.portOff p).portMoves p = d.portMoves p := by
  unfold Dev.arm
  cases src <;> rfl

theorem exec_portDrainTimeout (halive : d.alive = true) {p x : Nat} {s : Dev} (hfind : d.job.drains.find? (fun x => x.1 == p) = some (p, x))
    (hdown : d.portDown p 0 x = (s, k)) : exec (.portDrainTimeout p) ⟨q, d⟩
      = .next ⟨q, (s.setJob fun j => { j with drains := j.drains.filter fun x => x.1 != p }).commit x k⟩ := by
  rw [show exec (.portDrainTimeout p) ⟨q, d⟩ = execPortDrainTimeout p ⟨q, d⟩ from rfl, execPortDrainTimeout, State.upd_alive halive]
  dsimp only
  rw [hfind]
  dsimp only
  rw [hdown]

end

/-- Settles O44: each ACTION is one use of `Dev.junit`, whose unit is there or is refused. -/
theorem unitsTakenOutOfService : Obligations.UnitsTakenOutOfService := by
  rintro q d src l n _ halive hn rfl
  refine ⟨?_, fun p x s k hfind hdown => exec_portDrainTimeout halive hfind hdown⟩
  rintro hop hhead hgood _ rfl
  refine ⟨fun hact => ?_, fun hact => ⟨fun hin hset hmore s1 k hmove j hj => ?_, fun hnot => ?_⟩, fun hact => ?_, fun hact => ⟨?_, fun hnot => ?_⟩,
    fun hact => ⟨fun hin hoff hdrains => ?_, fun hnot => ?_⟩⟩
  · have hexec := exec_junitDeconfigureCoach (q := q) (src := src) hop hhead hgood hact halive hn rfl
    exact ⟨fun hon => by rw [hexec, hon]; rfl, fun hoff => by rw [hexec, hoff]; rfl⟩
  · rw [exec_junitParkPostilion hop hhead hgood hact halive hn rfl rfl hmove, hj, if_neg (by simp [hin, hset, hmore])]
  · rw [exec_junitParkPostilion (t := (Dev.moveShares _ n).1) hop hhead hgood hact halive hn rfl rfl rfl, if_pos]
    rcases hnot with h | h | h <;> simp [h]
  · have hexec := exec_junitUnparkPostilion (q := q) (src := src) hop hhead hgood hact halive hn rfl
    refine ⟨fun hin hclear => by rw [hexec, if_neg (by simp [hin, hclear])], fun hnot => ?_⟩
    rw [hexec, if_pos]
    rcases hnot with h | h <;> simp [h]
  · rintro hin hon _ rfl
    have hmoves : ((d.arm src l 0 [] [] (.port ⟨n, 0⟩)).1.portOff n).portMoves n = d.portMoves n := Dev.portMoves_armed 0 [] [] n
    refine ⟨fun hgo s1 k hdown => ?_, fun hkeep hleft => ?_⟩
    · rw [exec_junitDisablePort hop hhead hgood hact halive hn rfl rfl hdown, if_neg (by simp [hin, hon]), hmoves, if_pos]
      rcases hgo with h | h <;> simp [h]
    · rw [exec_junitDisablePort (t := (Dev.portDown _ n 0 d.nextGen).1) hop hhead hgood hact halive hn rfl rfl rfl,
        if_neg (by simp [hin, hon]), hmoves, if_neg (by simp [hkeep, hleft])]
  · rw [exec_junitDisablePort (t := (Dev.portDown _ n 0 d.nextGen).1) hop hhead hgood hact halive hn rfl rfl rfl, if_pos]
    rcases hnot with h | h
    · rw [decide_eq_false (Nat.not_lt.mpr h)]
      rfl
    · simp [h]
  · rw [exec_junitEnablePort hop hhead hgood hact halive hn rfl, hdrains, if_neg (by simp [hin, hoff])]
  · rw [exec_junitEnablePort hop hhead hgood hact halive hn rfl, if_pos]
    rcases hnot with h | h
    · rw [decide_eq_false (Nat.not_lt.mpr h)]
      rfl
    · simp [h]

end Sys2Proof.Machine
end

section
/-! Messages of the launch tree: what sends them changes the outbox and the messages kept for repetition alone (R480, R481). -/
namespace Sys2Proof.Machine

-- The short theorems below are elaborated one after another: side by side, their threads' stacks exceed the memory of the check.
set_option Elab.async false

/-- From `s` to `t` messages of the tree were sent, or their repetition ended, and nothing else happened. -/
structure Dev.SendsOnly (s t : Dev) : Prop where
  eq : t = { s with stg := t.stg, job := { s.job with unacked := t.job.unacked } }

namespace Dev.SendsOnly
variable {s t u : Dev}

theorem refl (s : Dev) : s.SendsOnly s := ⟨rfl⟩

theorem trans (h : s.SendsOnly t) (h' : t.SendsOnly u) : s.SendsOnly u := ⟨by rw [h'.eq, h.eq]⟩

theorem regs (h : s.SendsOnly t) : t.regs = s.regs := by rw [h.eq]
theorem launch (h : s.SendsOnly t) : t.job.launch = s.job.launch := by rw [h.eq]
theorem job (h : s.SendsOnly t) : t.job = { s.job with unacked := t.job.unacked } := by rw [h.eq]
theorem reg (h : s.SendsOnly t) (k : Nat) : t.reg k = s.reg k := Dev.reg_congr h.regs k
theorem fld (h : s.SendsOnly t) (off lo w : Nat) : t.fld off lo w = s.fld off lo w := Dev.fld_congr (h.reg off) lo w
theorem flag (h : s.SendsOnly t) (off i : Nat) : t.flag off i = s.flag off i := Dev.flag_congr (h.reg off) i
theorem jobState (h : s.SendsOnly t) : t.jobState = s.jobState := h.fld _ _ _
theorem jobRuns (h : s.SendsOnly t) : t.jobRuns = s.jobRuns := by unfold Dev.jobRuns; rw [h.jobState]
theorem now (h : s.SendsOnly t) : t.now = s.now := h.reg _

theorem taken {c : Carriage} (h : s.SendsOnly t) : s.SendsOnly (t.taken c) := h.trans ⟨rfl⟩
theorem formed {ep : Nat} {c : Carriage} {x : Option Nat} (h : s.SendsOnly t) : s.SendsOnly (t.formed ep c x) := h.trans ⟨rfl⟩
theorem unsend {p : LMsg → Bool} (h : s.SendsOnly t) : s.SendsOnly (t.unsend p) := h.trans ⟨rfl⟩

theorem each {α : Type} {f : Dev → α → Dev} {l : List α} (h : s.SendsOnly t) (hf : ∀ {u a}, s.SendsOnly u → s.SendsOnly (f u a)) :
    s.SendsOnly (t.each l f) := Dev.each_keeps (P := fun u => s.SendsOnly u) h hf

theorem jobSend {type node coord : Nat} {cars : List Carriage} (h : s.SendsOnly t) : s.SendsOnly (t.jobSend type node coord cars) :=
  (h.each (f := fun s c => s.formed 42 c none) formed).trans ⟨rfl⟩

theorem tellKids {l : Launch} {type : Nat} {fs : List (Nat × Nat × Nat × Nat)} (h : s.SendsOnly t) : s.SendsOnly (t.tellKids l type fs) :=
  h.each jobSend
theorem manifestKids {l : Launch} (h : s.SendsOnly t) : s.SendsOnly (t.manifestKids l) := h.each jobSend
theorem orderKids {o n : Nat} {w : Bool} (h : s.SendsOnly t) : s.SendsOnly (t.orderKids o w n) := h.each jobSend

end Dev.SendsOnly

section
variable {s t : Dev}

/-- A carriage of the tree is made of its fields and of registers. -/
theorem Dev.jobCar_congr (h : t.regs = s.regs) : t.jobCar = s.jobCar := by
  have hcoord : t.coord = s.coord := Dev.fld_congr (Dev.reg_congr h _) _ _
  have hlevel : t.colLevel = s.colLevel := Dev.fld_congr (Dev.reg_congr h _) _ _
  unfold Dev.jobCar
  rw [hcoord, hlevel]

/-- A register other than the two that it is made of leaves it as it was. -/
theorem Dev.jobCar_setReg {off : Nat} (v : Nat) (hcoord : Reg.STG_COORD ≠ off) (hlevel : Reg.COL_CFG ≠ off) :
    (s.setReg off v).jobCar = s.jobCar := by
  have hc : (s.setReg off v).coord = s.coord := Dev.fld_setReg_ne _ _ _ _ hcoord
  have hl : (s.setReg off v).colLevel = s.colLevel := Dev.fld_setReg_ne _ _ _ _ hlevel
  unfold Dev.jobCar
  rw [hc, hl]

/-- Arming a command leaves registers, work of the job and the Dray. -/
theorem Dev.arm_keeps (src : Source) (l : Line) (entry : Nat) (reads writes : List (Nat × Nat)) (body : CmdBody) :
    (s.arm src l entry reads writes body).1.regs = s.regs ∧ (s.arm src l entry reads writes body).1.job = s.job
      ∧ (s.arm src l entry reads writes body).1.srv = s.srv := by
  obtain ⟨-, -, -, heq⟩ := s.arm_eq src l entry reads writes body
  rw [heq]
  exact ⟨rfl, rfl, rfl⟩

/-- The command armed is in hand. -/
theorem Dev.cmd_armed (src : Source) (l : Line) (entry : Nat) (reads writes : List (Nat × Nat)) (body : CmdBody) :
    ((s.arm src l entry reads writes body).1.cmd s.nextGen).isNone = false := by
  obtain ⟨-, hcmds, -⟩ := s.arm_eq src l entry reads writes body
  unfold Dev.cmd
  rw [hcmds, List.find?_append]
  cases s.cmds.find? fun c => c.gen == s.nextGen <;> simp

theorem Dev.armRings_idle (h : s.jobState ≠ jRUNNING) : s.armRings = s := if_pos h

end

end Sys2Proof.Machine
end

section
/-! Orders, their acknowledgement, and the end of the scrub (R489 to R492, R494, R495, R497, R504). -/
namespace Sys2Proof.Machine

-- The short theorems below are elaborated one after another: side by side, their threads' stacks exceed the memory of the check.
set_option Elab.async false

section
variable {q : List Instr} {d : Dev}

/-! ### JORDER and ORDREQ (R489, R491) -/

/-- A request reaches the root of a job that runs, and no resize is under way: it goes down the tree with the next ORDSEQ. -/
theorem Dev.orderAsked_issue {r : OrderReq} (hlaunch : d.job.launch = none) (hruns : d.jobRuns = true)
    (hlive : r.own.any (fun g => (d.cmd g).isNone) = false) : d.orderAsked r = Dev.orderApply (Dev.orderKids
      (match r.own with
      | some g => (d.setJob fun j => { j with nextOrd := d.nextOrdseq }).setJob fun j => { j with
          ownReq := j.ownReq.map fun (o : OwnOrder) => if o.gen = g then { o with ordseq := some d.nextOrdseq } else o }
      | none => (d.setJob fun j => { j with nextOrd := d.nextOrdseq }).formed 42
          (d.jobCar r.coord lACK d.jobId d.nextOrdseq [(40, 0, 8, lORDREQ)] []) none) r.order r.wipe d.nextOrdseq)
      r.order r.wipe d.nextOrdseq := by
  unfold Dev.orderAsked
  rw [hlaunch]
  refine (if_neg (by decide)).trans ?_
  unfold Dev.orderIssue
  refine (if_neg (by rw [hruns, hlive]; decide)).trans ?_
  obtain ⟨coord, order, wipe, own⟩ := r
  cases own <;> rfl

theorem Dev.orderAsked_held {r : OrderReq} (hlaunch : d.job.launch.isSome = true) :
    d.orderAsked r = d.setJob fun j => { j with heldReq := j.heldReq ++ [r] } := if_pos hlaunch

section
variable {src : Source} {l : Line} {o : Nat} {w : Bool} (hop : dOp l = 0x0702) (hown : d.job.ownReq = none) (hhead : d.headCheck l = none)
  (hgood : jorderBad l = none) (ho : lnum l 16 1 = o) (hw : w = (o == 3 && lfield l 17 0 1 == 1))
  {s : Dev} (hs : s = (d.arm src l 0 [] [] (.jorder o)).1.setJob fun j => { j with ownReq := some ⟨d.nextGen, o, none⟩ })
include hop hown hhead hgood ho hw hs

/-- A valid JORDER is armed, and asks the root or is the root's own. -/
theorem Dev.jorder_eq : d.jorder src l o = if d.jobIndex = 0 then s.orderAsked ⟨d.coord, o, w, some d.nextGen⟩
    else s.jobSend lORDREQ 0 (nth d.job.list 0 0) [d.jobCar (nth d.job.list 0 0) lORDREQ d.jobId 0
      [(40, 0, 8, o), (41, 0, 1, w.toNat), (42, 0, 16, d.jobIndex)] []] := by
  obtain ⟨hregs, hjob, -⟩ := d.arm_keeps src l 0 [] [] (.jorder o)
  have hregs' : s.regs = d.regs := by rw [hs]; exact hregs
  have hlist : s.job.list = d.job.list := by rw [hs, Dev.setJob_job, hjob]
  have hindex : s.jobIndex = d.jobIndex := Dev.fld_congr (Dev.reg_congr hregs' _) _ _
  have hid : s.jobId = d.jobId := Dev.fld_congr (Dev.reg_congr hregs' _) _ _
  have hcoord : s.coord = d.coord := Dev.fld_congr (Dev.reg_congr hregs' _) _ _
  obtain ⟨hgen, -⟩ := d.arm_eq src l 0 [] [] (.jorder o)
  unfold Dev.jorder
  dsimp only
  rw [ho, if_neg (by simp [hop]), hhead, hown, if_neg (by simp), hgood]
  dsimp only
  rw [hgen, ← hs, ← hw, hindex, hid, hcoord, hlist, Dev.jobCar_congr hregs']

/-- On the root of a job that runs it takes the next ORDSEQ and is applied. -/
theorem Dev.jorder_root (hroot : d.jobIndex = 0) (hlaunch : d.job.launch = none) (hruns : d.jobRuns = true) :
    d.jorder src l o = ((s.setJob fun j => { j with nextOrd := d.nextOrdseq, ownReq := some ⟨d.nextGen, o, some d.nextOrdseq⟩ }).orderKids o w
      d.nextOrdseq).orderApply o w d.nextOrdseq := by
  obtain ⟨hregs, hjob, -⟩ := d.arm_keeps src l 0 [] [] (.jorder o)
  have hregs' : s.regs = d.regs := by rw [hs]; exact hregs
  have hnext : s.nextOrdseq = d.nextOrdseq := by
    have hord : s.job.nextOrd = d.job.nextOrd := by rw [hs, Dev.setJob_job, hjob]
    unfold Dev.nextOrdseq
    rw [hord, Dev.fld_congr (Dev.reg_congr hregs' _)]
  have hstate : s.jobRuns = true := by
    have hsame : s.jobState = d.jobState := Dev.fld_congr (Dev.reg_congr hregs' _) _ _
    unfold Dev.jobRuns at hruns ⊢
    rwa [hsame]
  have hown' : s.job.ownReq = some ⟨d.nextGen, o, none⟩ := by rw [hs]; rfl
  have hlaunch' : s.job.launch = none := by rw [hs, Dev.setJob_job, hjob]; exact hlaunch
  have hlive : (s.cmd d.nextGen).isNone = false := by rw [hs]; exact d.cmd_armed src l 0 [] [] (.jorder o)
  rw [Dev.jorder_eq hop hown hhead hgood ho hw hs, if_pos hroot, Dev.orderAsked_issue (r := ⟨d.coord, o, w, some d.nextGen⟩) hlaunch' hstate hlive,
    hnext]
  dsimp only
  congr 2
  unfold Dev.setJob
  dsimp only
  rw [hown', Option.map_some, if_pos rfl]

end

section
variable {c : Carriage} {o : Nat} {w : Bool} (halive : d.alive = true) (htype : lType c = lORDREQ) (hjob : lJob c = d.jobId)
  (hroot : d.jobIndex = 0) (hruns : d.jobRuns = true) (ho : o = c.f 40 0 8) (hlow : 1 ≤ o) (hhigh : o ≤ 3) (hw : w = (o == 3 && c.f 41 0 1 == 1))
include halive htype hjob hroot hruns ho hlow hhigh hw

theorem exec_ordreq : exec (.ordreq c) ⟨q, d⟩ = .next ⟨q, ((d.taken c).orderAsked ⟨c.src, o, w, none⟩).armRings⟩ := by
  have hpass : ¬(decide (lType c ≠ lORDREQ) || decide (lJob c ≠ (d.taken c).jobId) || decide ((d.taken c).jobIndex ≠ 0) || !(d.taken c).jobRuns
      || decide (o = 0) || decide (3 < o)) = true := by
    have htaken := (Dev.SendsOnly.refl d).taken (c := c)
    rw [htaken.jobRuns, show (d.taken c).jobId = d.jobId from htaken.fld _ _ _, show (d.taken c).jobIndex = d.jobIndex from htaken.fld _ _ _]
    simp [htype, hjob, hroot, hruns]
    omega
  rw [show exec (.ordreq c) ⟨q, d⟩ = execOrdreq c ⟨q, d⟩ from rfl, execOrdreq, State.upd_alive halive]
  dsimp only
  unfold Dev.ordreq
  dsimp only
  rw [← ho, if_neg hpass, ← hw]

end

/-! ### ORDER (R490) -/

theorem Dev.orderSettle_none (h : d.job.ownReq = none) : d.orderSettle = d := by
  unfold Dev.orderSettle
  rw [h]

section
variable {c : Carriage} {n : Nat} (htype : lType c = lORDER) (hjob : lJob c = d.jobId) (hruns : d.jobRuns = true) (hindex : d.jobIndex ≠ 0)
  (hparent : c.src = nth d.job.list (parentOf d.job.fanout d.jobIndex) 0) (hn : n = lSeq c)
include htype hjob hruns hindex hparent hn

/-- An ORDER of the parent is forwarded where it is fresh, applied, and acknowledged. -/
theorem Dev.order_eq {w : Bool} (hw : w = (c.f 40 0 8 == 3 && c.f 41 0 1 == 1)) : ∃ t, d.order c
      = t.formed 42 (t.jobCar c.src lACK (lJob c) n [(40, 0, 8, lORDER)] []) none
    ∧ t = (if d.fld Reg.GRD_JOBORD 0 32 < n then (d.taken c).orderKids (c.f 40 0 8) w n else d.taken c).orderApply (c.f 40 0 8) w n := by
  refine ⟨_, ?_, rfl⟩
  have htaken := (Dev.SendsOnly.refl d).taken (c := c)
  have hid : (d.taken c).jobId = d.jobId := htaken.fld _ _ _
  have hidx : (d.taken c).jobIndex = d.jobIndex := htaken.fld _ _ _
  have hord : (d.taken c).fld Reg.GRD_JOBORD 0 32 = d.fld Reg.GRD_JOBORD 0 32 := htaken.fld _ _ _
  have hown : (d.jobIndex != 0 && c.src == nth d.job.list (parentOf d.job.fanout d.jobIndex) 0) = true := by simp [hindex, ← hparent]
  unfold Dev.order
  dsimp only
  rw [if_neg (by simp [htype, hid, hjob]), htaken.jobRuns, hruns, if_neg (by decide), hidx, hord,
    show (d.taken c).job = d.job from rfl, hown, if_neg (by simp), ← hn, ← hw]
  simp only [Bool.true_and, decide_eq_true_eq]

end

section
variable {n : Nat}

/-- What an order does, without its number's writing. -/
def Dev.orderDone (s : Dev) (o : Nat) (w : Bool) (n : Nat) : Dev :=
  match o with
  | 1 => if s.jobState = jRUNNING then s.preempt n else s
  | 2 => if s.jobState = jPREEMPTED then s.resume else s
  | 3 => s.endJob w n
  | _ => s

/-- A fresh order of a job that runs is written, done and settled. -/
theorem Dev.orderApply_fresh {s : Dev} {o : Nat} {w : Bool} (hruns : d.jobRuns = true) (hs : d.SendsOnly s) (hfresh : d.fld Reg.GRD_JOBORD 0 32 < n) :
    s.orderApply o w n = ((s.setReg Reg.GRD_JOBORD n).orderDone o w n).orderSettle := by
  unfold Dev.orderApply
  exact (if_neg (by rw [hs.jobRuns, hruns, hs.fld, decide_eq_false (Nat.not_le.mpr hfresh)]; decide)).trans rfl

theorem Dev.orderApply_stale {s : Dev} {o : Nat} {w : Bool} (hs : d.SendsOnly s) (hstale : n ≤ d.fld Reg.GRD_JOBORD 0 32) :
    s.orderApply o w n = s := by
  unfold Dev.orderApply
  exact if_pos (by rw [hs.fld, decide_eq_true hstale]; rfl)

/-- RESUME of a job that no move waits of: it runs again. -/
theorem Dev.resume_idle {s : Dev} (hopens : s.tiers.opens = []) (hreqs : s.tiers.reqs = []) (hend : s.tiers.ttEnd = false) :
    s.resume = s.setJobState jRUNNING := by
  obtain ⟨u, hu⟩ : ∃ u, u = s.setJobState jRUNNING := ⟨_, rfl⟩
  have htiers : u.tiers = s.tiers := by rw [hu]; rfl
  have hagain : u.tiers.opens.map (fun e => (⟨e.first, e.count, e.target, e.pool, false, .entry e.lap e.n⟩ : MoveReq)) = [] := by
    rw [htiers, hopens, List.map_nil]
  have hmore : u.setTiers (fun t => { t with reqs := t.reqs ++ [] }) = u := by
    unfold Dev.setTiers
    dsimp only
    rw [List.append_nil]
  unfold Dev.resume
  dsimp only
  rw [← hu, hagain, hmore, Dev.pump_of_reqs_nil (by rw [htiers, hreqs])]
  unfold Dev.ttEndCheck
  exact if_neg (by rw [htiers, hend, Bool.and_false, Bool.false_and]; exact Bool.false_ne_true)

/-! ### PREEMPT of a device without work (R492) -/

theorem Dev.abortAll_idle {s : Dev} (hcmds : s.cmds = []) (hdying : s.dying = []) : s.abortAll = s := by
  cases s
  dsimp only at hcmds hdying
  subst hcmds hdying
  rfl

theorem Dev.killAllDone_idle {s : Dev} (hdying : s.dying = []) : s.killAllDone = s := by
  unfold Dev.killAllDone
  dsimp only
  rw [hdying]
  rfl

/-- What PREEMPT leaves of a device without work is its Dray's requests and its frame. -/
theorem Dev.preemptWork_idle {s : Dev} {o : Nat} (hown : s.job.ownReq = none) (hcmds : s.cmds = []) (hdying : s.dying = [])
    (hmoves : s.tiers.moves = []) : (s.preemptWork o n).job = s.job ∧ (s.preemptWork o n).mem = s.mem ∧ (s.preemptWork o n).srv.frame = none := by
  obtain ⟨u, hu⟩ : ∃ u, u = s.setTiers fun t => { t with
    opens := [], ttEnd := false, reqs := t.reqs.filter (fun r => r.by_ == .retire), waits := t.waits.filter fun w => w.by_ == .retire } := ⟨_, rfl⟩
  have hkill : u.ownKill o n = u := by
    unfold Dev.ownKill
    rw [show u.job.ownReq = none by rw [hu]; exact hown]
  have habort : u.abortAll = u := Dev.abortAll_idle (by rw [hu]; exact hcmds) (by rw [hu]; exact hdying)
  have hall : u.killAllDone = u := Dev.killAllDone_idle (by rw [hu]; exact hdying)
  have hcancel : (u.each u.tiers.moves fun s m => s.moveCancel m 0) = u := by
    rw [show u.tiers.moves = [] by rw [hu]; exact hmoves]
    rfl
  have hend (v : Dev) : v.ttEndCheck.job = v.job ∧ v.ttEndCheck.mem = v.mem := by
    unfold Dev.ttEndCheck
    dsimp only
    split <;> exact ⟨rfl, rfl⟩
  unfold Dev.preemptWork
  dsimp only
  rw [← hu, hkill, habort, hcancel, hall]
  refine ⟨?_, ?_, rfl⟩
  · split
    · exact (hend _).1.trans (by rw [hu]; rfl)
    · rw [hu]
      rfl
  · split
    · exact (hend _).2.trans (by rw [hu]; rfl)
    · rw [hu]
      rfl

end

/-! ### ACK and ORDREQ_TO (R481, R489) -/

section
variable (halive : d.alive = true)
include halive

theorem exec_order {c : Carriage} {t : Dev} (h : d.order c = t) : exec (.order c) ⟨q, d⟩ = .next ⟨q, t.armRings⟩ := by
  rw [show exec (.order c) ⟨q, d⟩ = execOrder c ⟨q, d⟩ from rfl, execOrder, State.upd_alive halive, h]

theorem exec_ack {c : Carriage} (htype : lType c = lACK) {s : Dev}
    (hs : s = (d.taken c).unsend (fun m => m.type == c.f 40 0 8 && m.coord == c.src && m.cars.all fun x => lJob x == lJob c)) :
    exec (.ack c) ⟨q, d⟩ = .next ⟨q, if c.f 40 0 8 = lORDREQ ∧ lJob c = d.jobId then (s.setJob fun j => { j with
      ownReq := j.ownReq.map fun (o : OwnOrder) => if o.ordseq.isNone then { o with ordseq := some (lSeq c) } else o }).orderSettle
      else s⟩ := by
  have hid : s.jobId = d.jobId := by rw [hs]; exact ((Dev.SendsOnly.refl d).taken (c := c)).unsend.fld _ _ _
  rw [show exec (.ack c) ⟨q, d⟩ = execAck c ⟨q, d⟩ from rfl, execAck, State.upd_alive halive]
  dsimp only
  rw [if_neg (not_not.mpr htype), ← hs, hid]
  simp only [Bool.and_eq_true, decide_eq_true_eq]

theorem exec_ordreqTimeout {g o : Nat} (hown : d.job.ownReq = some ⟨g, o, none⟩) (hindex : d.jobIndex ≠ 0) :
    exec .ordreqTimeout ⟨q, d⟩ = .next ⟨q, (((d.record clsJOB 0x00F (nth d.job.list 0 0) g blkGRD 0).unsend fun m => m.type == lORDREQ).setJob
      fun j => { j with ownReq := none }).finish g 2 0⟩ := by
  rw [show exec .ordreqTimeout ⟨q, d⟩ = execOrdreqTimeout ⟨q, d⟩ from rfl, execOrdreqTimeout, State.upd_alive halive]
  dsimp only
  rw [hown]
  dsimp only
  rw [if_neg (by simp [hindex])]

end

/-- The JORDER of an order that the root has acknowledged: it waits, commits, or ends with the job. -/
theorem Dev.orderSettle_own {g o n : Nat} (hown : d.job.ownReq = some ⟨g, o, some n⟩) : d.orderSettle
    = if d.fld Reg.GRD_JOBORD 0 32 < n then (if d.jobRuns then d else (d.setJob fun j => { j with ownReq := none }).finish g 3 0)
      else if o = 3 ∧ d.jobState ≠ jIDLE then d else (d.setJob fun j => { j with ownReq := none }).commit g n := by
  unfold Dev.orderSettle
  rw [hown]
  simp only [Bool.and_eq_true, decide_eq_true_eq]

/-! ### The end of the scrub (R497, R504) -/

/-- From `s` to `t` the Guard's registers and what is not of the Dray, the Livery or the fabric were left. -/
structure Dev.KeepsGuard (s t : Dev) : Prop where
  reg : ∀ k < 0x100000, t.reg k = s.reg k
  mem : t.mem = s.mem
  pt : t.pt = s.pt
  grd : t.grd = s.grd
  job : t.job = s.job

namespace Dev.KeepsGuard
variable {s t u : Dev}

theorem refl (s : Dev) : s.KeepsGuard s := ⟨fun _ _ => rfl, rfl, rfl, rfl, rfl⟩

theorem frame (h : s.KeepsGuard t) (e : u.regs = t.regs ∧ u.mem = t.mem ∧ u.pt = t.pt ∧ u.grd = t.grd ∧ u.job = t.job := by
    exact ⟨rfl, rfl, rfl, rfl, rfl⟩) : s.KeepsGuard u := by
  obtain ⟨hregs, hmem, hpt, hgrd, hjob⟩ := e
  exact ⟨fun k hk => (Dev.reg_congr hregs k).trans (h.reg k hk), hmem.trans h.mem, hpt.trans h.pt, hgrd.trans h.grd, hjob.trans h.job⟩

theorem setReg {off v : Nat} (h : s.KeepsGuard t) (hoff : 0x100000 ≤ off := by decide) : s.KeepsGuard (t.setReg off v) :=
  ⟨fun k hk => (Dev.reg_setReg_ne _ _ (by omega)).trans (h.reg k hk), h.mem, h.pt, h.grd, h.job⟩
theorem setFld {off lo w v : Nat} (h : s.KeepsGuard t) (hoff : 0x100000 ≤ off := by decide) : s.KeepsGuard (t.setFld off lo w v) := h.setReg hoff
theorem setFlag {off i : Nat} {b : Bool} (h : s.KeepsGuard t) (hoff : 0x100000 ≤ off := by decide) : s.KeepsGuard (t.setFlag off i b) := h.setReg hoff

/-- Registers dropped that lie above the Guard's. -/
theorem filterRegs {p : Nat → Bool} (h : s.KeepsGuard t) (hp : ∀ k < 0x100000, p k = true) :
    s.KeepsGuard { t with regs := t.regs.filter fun r => p r.1 } := by
  refine ⟨fun k hk => ?_, h.mem, h.pt, h.grd, h.job⟩
  refine (congrArg BitVec.toNat ((Sparse.get_filter_key regDefault p t.regs k).trans (if_pos (hp k hk)))).trans (h.reg k hk)

theorem livClear (h : s.KeepsGuard t) : s.KeepsGuard t.livClear := by
  refine Dev.each_keeps_of_mem (P := fun u => s.KeepsGuard u) (frame (t := t.setReg Reg.LVY_CTL 0) h.setReg) fun u off hoff hu => hu.setReg ?_
  revert off
  decide

theorem stgSettle (h : s.KeepsGuard t) : s.KeepsGuard t.stgSettle := by
  unfold Dev.stgSettle
  dsimp only
  refine setFld ?_
  split
  · exact h.setFld.setFld
  · exact h.setFld

end Dev.KeepsGuard

/-- No register of the Guard is a counter. -/
theorem isCounter_guard {k : Nat} (hk : k < 0x100000) : isCounter k = false := by
  unfold isCounter
  rw [Nat.div_eq_of_lt hk]
  split <;> rfl

/-- The device with its memory zeroed, its host's lines asked back and no page: what the scrub does first. -/
def Dev.scrubBegun (s : Dev) : Dev :=
  { (s.zeroMem s.job.wipeCxl).each (s.zeroMem s.job.wipeCxl).tiers.filter fun s l => s.emit (.bisnp l.1) with pt := [] }

theorem Dev.scrubBegun_frame (s : Dev) : s.scrubBegun.regs = s.regs ∧ s.scrubBegun.mem = (s.zeroMem s.job.wipeCxl).mem
    ∧ s.scrubBegun.grd = s.grd ∧ s.scrubBegun.job = s.job :=
  Dev.each_keeps (P := fun u : Dev => u.regs = s.regs ∧ u.mem = (s.zeroMem s.job.wipeCxl).mem ∧ u.grd = s.grd ∧ u.job = s.job)
    ⟨rfl, rfl, rfl, rfl⟩ fun hu => hu

/-- The scrub ends with the counters at their reset values. -/
theorem Dev.scrub_eq (s : Dev) : ∃ t, s.scrub = { t with regs := t.regs.filter fun r => !isCounter r.1 } ∧ s.scrubBegun.KeepsGuard t := by
  obtain ⟨u, hu⟩ : ∃ u, u = ((s.scrubBegun.setTiers fun t => { t with
    moves := [], reqs := [], waits := [], opens := [], noted := [], filter := [], snoops := [] }).setFld Reg.DRY_STAT 0 5 0).livClear := ⟨_, rfl⟩
  obtain ⟨v, hv⟩ : ∃ v : Dev, v = { (u.setReg Reg.CCH_SEED 0).setReg Reg.CCH_STEP 0 with
    regs := ((u.setReg Reg.CCH_SEED 0).setReg Reg.CCH_STEP 0).regs.filter fun r => !(decide (0xE01000 ≤ r.1) && decide (r.1 < 0xE03000)) } :=
    ⟨_, rfl⟩
  obtain ⟨w, hw⟩ : ∃ w : Dev, w = { v.setMmf fun m => { m with
    reqs := [], queue := [], lines := [], sectors := [], atoms := [], acks := [], serves := [], pend := [] } with
    stg := { v.stg with queue := [], waiting := [], acc := [] } } := ⟨_, rfl⟩
  have hbegun : s.scrubBegun.KeepsGuard u := by
    rw [hu]
    exact (Dev.KeepsGuard.frame (t := s.scrubBegun) (u := s.scrubBegun.setTiers _) (.refl _)).setFld.livClear
  have hregs : s.scrubBegun.KeepsGuard v := by
    rw [hv]
    exact hbegun.setReg.setReg.filterRegs (p := fun k => !(decide (0xE01000 ≤ k) && decide (k < 0xE03000))) fun k hk => by
      rw [decide_eq_false (by omega)]
      rfl
  have hqueues : s.scrubBegun.KeepsGuard w := by
    rw [hw]
    exact hregs.frame
  refine ⟨{ w.stgSettle.setFlag Reg.STG_CFG 1 false with
    col := { w.stgSettle.col with groups := [] }, landed := [] }, ?_, (hqueues.stgSettle.setFlag (off := Reg.STG_CFG) (i := 1) (b := false)).frame⟩
  rw [hw, hv, hu]
  rfl

section
variable {k : Nat}

theorem Dev.reg_scrub_guard (hk : k < 0x100000) : d.scrub.reg k = d.reg k := by
  obtain ⟨t, heq, hkeeps⟩ := d.scrub_eq
  rw [heq, (Dev.KeepsGuard.filterRegs (p := fun k => !isCounter k) hkeeps fun k hk => by rw [isCounter_guard hk]; rfl).reg k hk]
  exact Dev.reg_congr d.scrubBegun_frame.1 k

theorem Dev.reg_scrub_counter (hk : isCounter k = true) : d.scrub.reg k = (regDefault k).toNat := by
  obtain ⟨t, heq, -⟩ := d.scrub_eq
  rw [heq]
  exact congrArg BitVec.toNat ((Sparse.get_filter_key regDefault (fun k => !isCounter k) t.regs k).trans (if_neg (by rw [hk]; decide)))

theorem Dev.rd_scrub (hk : scrubbed d.job.wipeCxl k = true) : d.scrub.rd k = 0 := by
  obtain ⟨t, heq, hkeeps⟩ := d.scrub_eq
  obtain ⟨-, hmem, -⟩ := d.scrubBegun_frame
  rw [heq]
  exact (Dev.rd_congr (t := { t with regs := t.regs.filter fun r => !isCounter r.1 }) (s := d.zeroMem d.job.wipeCxl) (hkeeps.mem.trans hmem) k).trans
    (by rw [Dev.rd_zeroMem, if_pos hk])

theorem Dev.scrub_kept : d.scrub.pt = [] ∧ d.scrub.grd = d.grd ∧ d.scrub.job = d.job := by
  obtain ⟨t, heq, hkeeps⟩ := d.scrub_eq
  obtain ⟨-, -, hgrd, hjob⟩ := d.scrubBegun_frame
  rw [heq]
  exact ⟨hkeeps.pt, hkeeps.grd.trans hgrd, hkeeps.job.trans hjob⟩

end

/-- The log of the error records empty. -/
def Dev.logEmptied (s : Dev) : Dev :=
  { (s.setReg Reg.ERR_HEAD 0).setReg Reg.ERR_TAIL 0 with log := { s.log with slots := [] } }

theorem Dev.reg_logEmptied (s : Dev) (k : Nat) : s.logEmptied.reg k = ((s.setReg Reg.ERR_HEAD 0).setReg Reg.ERR_TAIL 0).reg k :=
  Dev.reg_congr rfl k

/-- The rights of the debug port end where they were given for the job. -/
def Dev.rightsLeft (s : Dev) : Dev :=
  if s.fld Reg.DBG_UNLOCK 32 32 ≠ 0 && s.fld Reg.DBG_UNLOCK 32 32 = s.jobId then s.rightsEnd else s

theorem Dev.rightsLeft_keeps (s : Dev) : (∀ k, k ≠ Reg.DBG_UNLOCK → s.rightsLeft.reg k = s.reg k) ∧ s.rightsLeft.mem = s.mem ∧ s.rightsLeft.pt = s.pt
    ∧ s.rightsLeft.log = s.log ∧ s.rightsLeft.grd = s.grd ∧ s.rightsLeft.job = s.job := by
  unfold Dev.rightsLeft
  split
  · exact ⟨fun k hk => Dev.reg_setReg_ne _ _ hk, rfl, rfl, rfl, rfl, rfl⟩
  · exact ⟨fun _ _ => rfl, rfl, rfl, rfl, rfl, rfl⟩

/-- The job left, and the device IDLE. -/
def Dev.jobLeft (s : Dev) : Dev :=
  (s.setJob fun j => { j with launch := none, gather := none, list := [], heldReq := [], wipeCxl := false, drains := [] }).setJobState jIDLE

theorem exec_scrubComplete (halive : d.alive = true) (hstate : d.jobState = jSCRUBBING) : exec .scrubComplete ⟨q, d⟩
    = .next ⟨q, (d.scrub.seal 1).logEmptied.rightsLeft.jobLeft.orderSettle⟩ := by
  rw [show exec .scrubComplete ⟨q, d⟩ = execScrubComplete ⟨q, d⟩ from rfl, execScrubComplete, State.upd_alive halive]
  dsimp only
  rw [if_neg (not_not.mpr hstate)]
  rfl

/-- The entry that seals the meters is the last of the log. -/
theorem Dev.sealed_last (s : Dev) (n : Nat) : (s.seal n).grd.sealed = true ∧ ∃ e, (s.seal n).grd.meterLog.getLast? = some e
    ∧ e.jobid = s.jobId ∧ e.ended = n := by
  refine ⟨rfl, ?_⟩
  unfold Dev.seal
  dsimp only
  rw [List.getLast?_drop, if_neg (by simp), List.getLast?_concat]
  exact ⟨_, rfl, rfl, rfl⟩

/-- Sealing writes the meter log alone. -/
theorem Dev.seal_keeps (s : Dev) (n : Nat) : (s.seal n).regs = s.regs ∧ (s.seal n).mem = s.mem ∧ (s.seal n).pt = s.pt ∧ (s.seal n).job = s.job :=
  ⟨rfl, rfl, rfl, rfl⟩

/-- Of the registers the end of the job changes the log's pointers, the rights of the debug port and the state alone. -/
theorem Dev.reg_jobLeft (s : Dev) {k : Nat} (hhead : k ≠ Reg.ERR_HEAD) (htail : k ≠ Reg.ERR_TAIL) (hunlock : k ≠ Reg.DBG_UNLOCK)
    (hstate : k ≠ Reg.GRD_JOBSTAT) : s.logEmptied.rightsLeft.jobLeft.reg k = s.reg k := by
  calc s.logEmptied.rightsLeft.jobLeft.reg k
    _ = s.logEmptied.rightsLeft.reg k := Dev.reg_setFld_ne _ _ _ _ hstate
    _ = s.logEmptied.reg k := (s.logEmptied.rightsLeft_keeps).1 k hunlock
    _ = (s.setReg Reg.ERR_HEAD 0).reg k := (s.reg_logEmptied k).trans (Dev.reg_setReg_ne _ _ htail)
    _ = s.reg k := Dev.reg_setReg_ne _ _ hhead

theorem isCounter_others : ∀ k ∈ [Reg.ERR_HEAD, Reg.ERR_TAIL, Reg.DBG_UNLOCK, Reg.GRD_JOBSTAT], isCounter k = false := by decide

section
variable (halive : d.alive = true)
include halive

/-- The end of the scrub (R497). -/
theorem exec_scrubComplete_idle (hstate : d.jobState = jSCRUBBING) (hown : d.job.ownReq = none) :
    ∃ t e, exec .scrubComplete ⟨q, d⟩ = .next ⟨q, t⟩ ∧ t.jobState = jIDLE ∧ t.pt = []
      ∧ (∀ k, scrubbed d.job.wipeCxl k = true → t.rd k = 0) ∧ (∀ k, isCounter k = true → t.reg k = (regDefault k).toNat)
      ∧ t.log.slots = [] ∧ t.reg Reg.ERR_HEAD = 0 ∧ t.reg Reg.ERR_TAIL = 0 ∧ t.grd.sealed = true ∧ t.grd.meterLog.getLast? = some e
      ∧ e.jobid = d.jobId ∧ e.ended = 1 ∧ t.job.launch = none := by
  obtain ⟨s, hs⟩ : ∃ s, s = d.scrub.seal 1 := ⟨_, rfl⟩
  obtain ⟨t, ht⟩ : ∃ t, t = s.logEmptied.rightsLeft.jobLeft := ⟨_, rfl⟩
  obtain ⟨hpt, -, hjob⟩ := d.scrub_kept
  obtain ⟨hreg, hmem, hpt', hlog, hgrd, hjob'⟩ := s.logEmptied.rightsLeft_keeps
  have hown' : t.job.ownReq = none := by
    rw [ht, show s.logEmptied.rightsLeft.jobLeft.job.ownReq = s.logEmptied.rightsLeft.job.ownReq from rfl, hjob',
      show s.logEmptied.job = s.job from rfl, hs, (d.scrub.seal_keeps 1).2.2.2, hjob, hown]
  have hid : d.scrub.jobId = d.jobId := Dev.fld_congr (Dev.reg_scrub_guard (by decide)) _ _
  obtain ⟨hsealed, e, hlast, hjobid, hended⟩ := Dev.sealed_last d.scrub 1
  have hgrd' : t.grd = s.grd := by rw [ht]; exact hgrd
  refine ⟨t, e, ?_, ?_, ?_, fun k hk => ?_, fun k hk => ?_, ?_, ?_, ?_, ?_, ?_, hjobid.trans hid, hended, ?_⟩
  · rw [exec_scrubComplete halive hstate, ← hs, ← ht, Dev.orderSettle_none hown']
  · rw [ht]
    exact Dev.fld_setFld_same _ _ _ (by decide)
  · rw [ht, show s.logEmptied.rightsLeft.jobLeft.pt = s.logEmptied.rightsLeft.pt from rfl, hpt', hs]
    exact (d.scrub.seal_keeps 1).2.2.1.trans hpt
  · rw [ht, Dev.rd_congr (s := s) (t := s.logEmptied.rightsLeft.jobLeft) hmem k, hs]
    exact (Dev.rd_congr (d.scrub.seal_keeps 1).2.1 k).trans (Dev.rd_scrub hk)
  · have hother (k' : Nat) (hmem : k' ∈ [Reg.ERR_HEAD, Reg.ERR_TAIL, Reg.DBG_UNLOCK, Reg.GRD_JOBSTAT]) : k ≠ k' := fun heq => by
      rw [heq, isCounter_others k' hmem] at hk
      exact Bool.false_ne_true hk
    rw [ht, s.reg_jobLeft (hother _ (by simp)) (hother _ (by simp)) (hother _ (by simp)) (hother _ (by simp)), hs]
    exact (Dev.reg_congr (d.scrub.seal_keeps 1).1 k).trans (Dev.reg_scrub_counter hk)
  · rw [ht, show s.logEmptied.rightsLeft.jobLeft.log = s.logEmptied.rightsLeft.log from rfl, hlog]
    rfl
  · rw [ht]
    refine (Dev.reg_setFld_ne _ _ _ _ (by decide)).trans ((hreg _ (by decide)).trans ((s.reg_logEmptied _).trans ((Dev.reg_setReg_ne _ _ (by decide)).trans ?_)))
    exact Dev.reg_setReg_same _ _ 0
  · rw [ht]
    exact (Dev.reg_setFld_ne _ _ _ _ (by decide)).trans ((hreg _ (by decide)).trans ((s.reg_logEmptied _).trans (Dev.reg_setReg_same _ _ 0)))
  · rw [hgrd', hs]
    exact hsealed
  · rw [hgrd', hs]
    exact hlast
  · rw [ht]
    rfl

end

/-! ### ORDER's outcomes -/

/-- The ORDSEQ written: the state, this device's own order and what messages are made of are as they were. -/
theorem Dev.SendsOnly.ordered {s : Dev} {n : Nat} (h : d.SendsOnly s) (hown : d.job.ownReq = none) :
    (s.setReg Reg.GRD_JOBORD n).jobState = d.jobState ∧ (s.setReg Reg.GRD_JOBORD n).job.ownReq = none
      ∧ (s.setReg Reg.GRD_JOBORD n).jobCar = d.jobCar := by
  refine ⟨(Dev.fld_setReg_ne _ _ _ _ (by decide)).trans h.jobState, ?_, (Dev.jobCar_setReg _ (by decide) (by decide)).trans (Dev.jobCar_congr h.regs)⟩
  exact (congrArg Job.ownReq h.job).trans hown

section
variable (halive : d.alive = true) {c : Carriage} {n : Nat} {ack : Carriage} (htype : lType c = lORDER) (hjob : lJob c = d.jobId)
  (hruns : d.jobRuns = true) (hindex : d.jobIndex ≠ 0) (hparent : c.src = nth d.job.list (parentOf d.job.fanout d.jobIndex) 0)
  (hown : d.job.ownReq = none) (hn : n = lSeq c) (hack : ack = d.jobCar c.src lACK (lJob c) n [(40, 0, 8, lORDER)] [])
include halive htype hjob hruns hindex hparent hn

include hack in
/-- An ORDER that is not fresh is acknowledged and nothing else. -/
theorem exec_order_stale (hstale : n ≤ d.fld Reg.GRD_JOBORD 0 32) :
    exec (.order c) ⟨q, d⟩ = .next ⟨q, ((d.taken c).formed 42 ack none).armRings⟩ := by
  obtain ⟨t, heq, ht⟩ := Dev.order_eq htype hjob hruns hindex hparent hn rfl
  have htaken := (Dev.SendsOnly.refl d).taken (c := c)
  rw [if_neg (Nat.not_lt.mpr hstale), Dev.orderApply_stale htaken hstale] at ht
  rw [exec_order halive heq, ht, Dev.jobCar_congr htaken.regs, ← hack]

omit hown in
/-- A fresh ORDER is forwarded, written, done and acknowledged. -/
theorem exec_order_fresh (hfresh : d.fld Reg.GRD_JOBORD 0 32 < n) {o : Nat} {w : Bool} (ho : c.f 40 0 8 = o)
    (hw : w = (o == 3 && c.f 41 0 1 == 1)) {s t : Dev} (hs : s = ((d.taken c).orderKids o w n).setReg Reg.GRD_JOBORD n)
    (ht : t = (s.orderDone o w n).orderSettle) :
    exec (.order c) ⟨q, d⟩ = .next ⟨q, (t.formed 42 (t.jobCar c.src lACK (lJob c) n [(40, 0, 8, lORDER)] []) none).armRings⟩ := by
  subst ho
  obtain ⟨u, heq, hu⟩ := Dev.order_eq htype hjob hruns hindex hparent hn hw
  rw [if_pos hfresh, Dev.orderApply_fresh hruns (Dev.SendsOnly.refl d).taken.orderKids hfresh, ← hs] at hu
  rw [exec_order halive heq, hu, ht]

section
variable {s : Dev} (hfresh : d.fld Reg.GRD_JOBORD 0 32 < n)
include hown hfresh

/-- PREEMPT of a job that runs without work: PREEMPTED, with memory as it was and no frame. -/
theorem exec_order_preempt_idle (ho : c.f 40 0 8 = 1) (hs : s = ((d.taken c).orderKids 1 false n).setReg Reg.GRD_JOBORD n)
    (hrun : d.jobState = jRUNNING) (hcmds : d.cmds = []) (hdying : d.dying = []) (hmoves : d.tiers.moves = []) :
    ∃ t, exec (.order c) ⟨q, d⟩ = .next ⟨q, t⟩ ∧ t.jobState = jPREEMPTED ∧ t.mem = d.mem ∧ t.srv.frame = none := by
  have hsends := ((Dev.SendsOnly.refl d).taken (c := c)).orderKids (o := 1) (w := false) (n := n)
  obtain ⟨hstate, hown', -⟩ := hs ▸ hsends.ordered hown
  obtain ⟨hcmds', hdying', hmoves', hmem⟩ : s.cmds = [] ∧ s.dying = [] ∧ s.tiers.moves = [] ∧ s.mem = d.mem := by
    rw [hs, hsends.eq]
    exact ⟨hcmds, hdying, hmoves, rfl⟩
  obtain ⟨hkeptJob, hkeptMem, hframe⟩ := Dev.preemptWork_idle (o := 1) (n := n) hown' hcmds' hdying' hmoves'
  obtain ⟨p, hp⟩ : ∃ p, p = (s.preemptWork 1 n).setJobState jPREEMPTED := ⟨_, rfl⟩
  have hpre : p.jobState = jPREEMPTED := by
    rw [hp]
    exact Dev.fld_setFld_same _ _ _ (by decide)
  have hnone : p.job.ownReq = none := by
    rw [hp]
    exact (congrArg Job.ownReq hkeptJob).trans hown'
  have hdone : s.orderDone 1 false n = p := (if_pos (hstate.trans hrun)).trans hp.symm
  obtain ⟨t, ht⟩ : ∃ t, t = p.formed 42 (p.jobCar c.src lACK (lJob c) n [(40, 0, 8, lORDER)] []) none := ⟨_, rfl⟩
  have hstill : t.jobState = jPREEMPTED := by
    rw [ht]
    exact hpre
  refine ⟨t, ?_, hstill, ?_, ?_⟩
  · rw [exec_order_fresh halive htype hjob hruns hindex hparent hn hfresh ho (w := false) rfl hs (t := p) (by rw [hdone, Dev.orderSettle_none hnone]), ← ht,
      Dev.armRings_idle fun h => absurd (hstill.symm.trans h) (by decide)]
  · rw [ht, hp]
    exact hkeptMem.trans hmem
  · rw [ht, hp]
    exact hframe

include hack in
/-- An order that finds the job as it asks for writes its ORDSEQ alone. -/
theorem exec_order_already {o : Nat} (ho : c.f 40 0 8 = o) (hs : s = ((d.taken c).orderKids o false n).setReg Reg.GRD_JOBORD n)
    (halready : o = 1 ∧ d.jobState = jPREEMPTED ∨ o = 2 ∧ d.jobState = jRUNNING) :
    exec (.order c) ⟨q, d⟩ = .next ⟨q, (s.formed 42 ack none).armRings⟩ := by
  have hsends := ((Dev.SendsOnly.refl d).taken (c := c)).orderKids (o := o) (w := false) (n := n)
  obtain ⟨hstate, hown', hcar⟩ := hs ▸ hsends.ordered hown
  have hend : false = (o == 3 && c.f 41 0 1 == 1) := by
    rcases halready with ⟨rfl, -⟩ | ⟨rfl, -⟩ <;> rfl
  have hdone : s.orderDone o false n = s := by
    rcases halready with ⟨rfl, h⟩ | ⟨rfl, h⟩
    · exact if_neg (by rw [hstate, h]; decide)
    · exact if_neg (by rw [hstate, h]; decide)
  rw [exec_order_fresh halive htype hjob hruns hindex hparent hn hfresh ho hend hs (t := s) (by rw [hdone, Dev.orderSettle_none hown']), hcar, ← hack]

include hack in
/-- RESUME of a job that no move waits of. -/
theorem exec_order_resume (ho : c.f 40 0 8 = 2) (hs : s = ((d.taken c).orderKids 2 false n).setReg Reg.GRD_JOBORD n) (hpre : d.jobState = jPREEMPTED)
    (hopens : d.tiers.opens = []) (hreqs : d.tiers.reqs = []) (hend : d.tiers.ttEnd = false) :
    exec (.order c) ⟨q, d⟩ = .next ⟨q, ((s.setJobState jRUNNING).formed 42 ack none).armRings⟩ := by
  have hsends := ((Dev.SendsOnly.refl d).taken (c := c)).orderKids (o := 2) (w := false) (n := n)
  obtain ⟨hstate, hown', hcar⟩ := hs ▸ hsends.ordered hown
  have htiers : s.tiers = d.tiers := by
    rw [hs, hsends.eq]
    rfl
  have hdone : s.orderDone 2 false n = s.setJobState jRUNNING :=
    (if_pos (hstate.trans hpre)).trans (Dev.resume_idle (htiers ▸ hopens) (htiers ▸ hreqs) (htiers ▸ hend))
  have hcar' : (s.setJobState jRUNNING).jobCar = s.jobCar := Dev.jobCar_setReg _ (by decide) (by decide)
  rw [exec_order_fresh halive htype hjob hruns hindex hparent hn hfresh ho (w := false) rfl hs (t := s.setJobState jRUNNING)
    (by rw [hdone, Dev.orderSettle_none (d := s.setJobState jRUNNING) hown']), hcar', hcar, ← hack]

end

end

/-- The JORDER of another node asks the root; the root's own is applied or held. -/
theorem Dev.jorder_cases {src : Source} {l : Line} {o : Nat} {w : Bool} {s : Dev} (hop : dOp l = 0x0702) (hown : d.job.ownReq = none)
    (hhead : d.headCheck l = none) (hgood : jorderBad l = none) (ho : lnum l 16 1 = o) (hw : w = (o == 3 && lfield l 17 0 1 == 1))
    (hs : s = (d.arm src l 0 [] [] (.jorder o)).1.setJob fun j => { j with ownReq := some ⟨d.nextGen, o, none⟩ }) :
    (d.jobIndex ≠ 0 → d.jorder src l o = s.jobSend lORDREQ 0 (nth d.job.list 0 0) [d.jobCar (nth d.job.list 0 0) lORDREQ d.jobId 0
        [(40, 0, 8, o), (41, 0, 1, w.toNat), (42, 0, 16, d.jobIndex)] []])
    ∧ (d.jobIndex = 0 → d.job.launch = none → d.jobRuns = true → d.jorder src l o = ((s.setJob fun j => { j with
          nextOrd := d.nextOrdseq, ownReq := some ⟨d.nextGen, o, some d.nextOrdseq⟩ }).orderKids o w d.nextOrdseq).orderApply o w d.nextOrdseq)
    ∧ (d.jobIndex = 0 → d.job.launch.isSome = true → d.jorder src l o = s.setJob fun j => { j with
          heldReq := j.heldReq ++ [⟨d.coord, o, w, some d.nextGen⟩] }) := by
  have hjob : s.job.launch = d.job.launch := by
    obtain ⟨-, hjob, -⟩ := d.arm_keeps src l 0 [] [] (.jorder o)
    rw [hs, Dev.setJob_job, hjob]
  have heq := Dev.jorder_eq hop hown hhead hgood ho hw hs
  refine ⟨fun hindex => heq.trans (if_neg hindex), fun hroot hlaunch hruns => Dev.jorder_root hop hown hhead hgood ho hw hs hroot hlaunch hruns,
    fun hroot hlaunch => ?_⟩
  rw [heq, if_pos hroot, Dev.orderAsked_held (hjob ▸ hlaunch)]

theorem exec_jorder (halive : d.alive = true) (src : Source) (l : Line) : exec (.jorderPreempt src l) ⟨q, d⟩ = .next ⟨q, d.jorder src l 1⟩
    ∧ exec (.jorderResume src l) ⟨q, d⟩ = .next ⟨q, (d.jorder src l 2).armRings⟩ ∧ exec (.jorderEnd src l) ⟨q, d⟩ = .next ⟨q, d.jorder src l 3⟩ :=
  ⟨State.upd_alive halive fun s => s.jorder src l 1, State.upd_alive halive fun s => (s.jorder src l 2).armRings,
    State.upd_alive halive fun s => s.jorder src l 3⟩

/-- An ACK of ORDREQ brings the ORDSEQ of this device's order, which is then settled (R489). -/
theorem exec_ack_own (halive : d.alive = true) {c : Carriage} {s : Dev} {g o : Nat} (htype : lType c = lACK)
    (hs : s = (d.taken c).unsend (fun m => m.type == c.f 40 0 8 && m.coord == c.src && m.cars.all fun x => lJob x == lJob c))
    (hreq : c.f 40 0 8 = lORDREQ) (hjob : lJob c = d.jobId) (hown : d.job.ownReq = some ⟨g, o, none⟩) : exec (.ack c) ⟨q, d⟩ = .next ⟨q,
      if d.fld Reg.GRD_JOBORD 0 32 < lSeq c then
        (if d.jobRuns then s.setJob fun j => { j with ownReq := some ⟨g, o, some (lSeq c)⟩ }
          else (s.setJob fun j => { j with ownReq := none }).finish g 3 0)
      else if o = 3 ∧ d.jobState ≠ jIDLE then s.setJob fun j => { j with ownReq := some ⟨g, o, some (lSeq c)⟩ }
      else (s.setJob fun j => { j with ownReq := none }).commit g (lSeq c)⟩ := by
  have hsends : d.SendsOnly s := by
    rw [hs]
    exact (Dev.SendsOnly.refl d).taken.unsend
  have hown' : s.job.ownReq = some ⟨g, o, none⟩ := (congrArg Job.ownReq hsends.job).trans hown
  obtain ⟨t, ht⟩ : ∃ t, t = s.setJob fun j => { j with ownReq := some ⟨g, o, some (lSeq c)⟩ } := ⟨_, rfl⟩
  have hnumbered : (s.setJob fun j => { j with
      ownReq := j.ownReq.map fun (o : OwnOrder) => if o.ordseq.isNone then { o with ordseq := some (lSeq c) } else o }) = t := by
    rw [ht]
    unfold Dev.setJob
    dsimp only
    rw [hown']
    rfl
  have hdropped : (t.setJob fun j => { j with ownReq := none }) = s.setJob fun j => { j with ownReq := none } := by
    rw [ht]
    rfl
  have hord : t.fld Reg.GRD_JOBORD 0 32 = d.fld Reg.GRD_JOBORD 0 32 := by rw [ht]; exact hsends.fld _ _ _
  have hruns : t.jobRuns = d.jobRuns := by rw [ht]; exact hsends.jobRuns
  have hstate : t.jobState = d.jobState := by rw [ht]; exact hsends.jobState
  have hsettle := Dev.orderSettle_own (d := t) (g := g) (o := o) (n := lSeq c) (by rw [ht]; rfl)
  rw [hord, hruns, hstate, hdropped] at hsettle
  rw [exec_ack halive htype hs, if_pos (And.intro hreq hjob), hnumbered, hsettle, ht]

/-- Settles O43: each message by what it finds at the node, and the end of the scrub by what it keeps. -/
theorem ordersAndTheirEnd : Obligations.OrdersAndTheirEnd := by
  intro q d halive
  refine ⟨?_, ?_, ?_, ?_, fun g o hown hindex => exec_ordreqTimeout halive hown hindex, exec_scrubComplete_idle halive⟩
  · rintro src l s hop hown hhead hgood rfl i f hi w hw
    obtain ⟨hpreempt, hresume, hend⟩ := exec_jorder (q := q) halive src l
    obtain ⟨o, ho⟩ : ∃ o, lnum l 16 1 = o := ⟨_, rfl⟩
    rw [ho] at hi hw ⊢
    have hexec : exec i ⟨q, d⟩ = .next ⟨q, f (d.jorder src l o)⟩ := by
      rcases hi with ⟨rfl, rfl, rfl⟩ | ⟨rfl, rfl, rfl⟩ | ⟨rfl, rfl, rfl⟩
      · exact hpreempt
      · exact hresume
      · exact hend
    obtain ⟨hother, hroot, hheld⟩ := Dev.jorder_cases hop hown hhead hgood ho hw rfl
    exact ⟨fun h => by rw [hexec, hother h], fun h h' h'' => by rw [hexec, hroot h h' h''], fun h h' => by rw [hexec, hheld h h']⟩
  · intro c o w htype hjob hroot hruns ho hlow hhigh hw
    have hexec := exec_ordreq (q := q) halive htype hjob hroot hruns ho hlow hhigh hw
    have htaken := (Dev.SendsOnly.refl d).taken (c := c)
    refine ⟨fun hlaunch => ?_, fun hlaunch => ?_⟩
    · rw [hexec, Dev.orderAsked_held (htaken.launch ▸ hlaunch)]
    · rw [hexec, Dev.orderAsked_issue (htaken.launch ▸ hlaunch) (htaken.jobRuns.trans hruns) rfl]
      have hnext : (d.taken c).nextOrdseq = d.nextOrdseq := by
        unfold Dev.nextOrdseq
        rw [htaken.fld]
        rfl
      have hid : (d.taken c).jobId = d.jobId := htaken.fld _ _ _
      dsimp only
      rw [hnext, hid, Dev.jobCar_congr htaken.regs]
  · intro c n ack htype hjob hruns hindex hparent hown hn hack
    refine ⟨exec_order_stale halive htype hjob hruns hindex hparent hn hack, fun hfresh => ⟨fun ho s hs => ?_, fun ho s hs => ?_, fun ho w hw e he p hp => ?_⟩⟩
    · have hsends := ((Dev.SendsOnly.refl d).taken (c := c)).orderKids (o := 1) (w := false) (n := n)
      obtain ⟨hstate, -, -⟩ := hs ▸ hsends.ordered hown
      have hdone (hrun : d.jobState = jRUNNING) : s.orderDone 1 false n = (s.preemptWork 1 n).setJobState jPREEMPTED :=
        if_pos (hstate.trans hrun)
      exact ⟨fun hrun p hp => exec_order_fresh halive htype hjob hruns hindex hparent hn hfresh ho (w := false) rfl hs (hp.trans (by rw [hdone hrun])),
        fun hrun hcmds hdying hmoves =>
          exec_order_preempt_idle halive htype hjob hruns hindex hparent hown hn hfresh ho hs hrun hcmds hdying hmoves,
        fun hpre => exec_order_already halive htype hjob hruns hindex hparent hown hn hack hfresh ho hs (.inl ⟨rfl, hpre⟩)⟩
    · exact ⟨fun hrun => exec_order_already halive htype hjob hruns hindex hparent hown hn hack hfresh ho hs (.inr ⟨rfl, hrun⟩),
        fun hpre hopens hreqs _ hend => exec_order_resume halive htype hjob hruns hindex hparent hown hn hack hfresh ho hs hpre hopens hreqs hend⟩
    · subst he
      exact ⟨exec_order_fresh (q := q) halive htype hjob hruns hindex hparent hn hfresh ho hw rfl (hp.trans rfl), Dev.jobState_endJob _ _ _, rfl⟩
  · intro c s htype hs
    refine ⟨fun hother => (exec_ack halive htype hs).trans (by rw [if_neg fun h => hother h.1]), fun g o hreq hjob hown => ?_⟩
    rw [exec_ack_own halive htype hs hreq hjob hown]
    refine ⟨fun hwaits => ?_, fun hfresh hended => ?_, fun hdone hstale => ?_⟩
    · split at hwaits
      · next hfresh => rw [if_pos hfresh, if_pos hwaits]
      · next hstale => rw [if_neg hstale, if_pos hwaits]
    · rw [if_pos hfresh, if_neg (by rw [hended]; decide)]
    · rw [if_neg (Nat.not_lt.mpr hstale), if_neg fun ⟨hend, hnot⟩ => hdone.elim (fun h => h hend) fun h => hnot h]

end

end Sys2Proof.Machine
end

section
/-! The launch of a job: admission, the messages of the tree, T_GO and what ends a launch (R477 to R479, R481 to R488). -/
namespace Sys2Proof.Machine

-- The short theorems below are elaborated one after another: side by side, their threads' stacks exceed the memory of the check.
set_option Elab.async false

section
variable {q : List Instr} {d s t : Dev} {L : Launch}

/-! ### Admission (R478) -/

section
variable {src : Source} {l : Line} (halive : d.alive = true) (hop : dOp l = 0x0700) (hhead : d.headCheck l = none)
include halive hop hhead

theorem exec_jadmit_bad {n : Nat} (hbad : jadmitBad l = some n) :
    exec (.jadmit src l) ⟨q, d⟩ = .next ⟨q, d.refuse src l ⟨clsJOB, 0x003, n⟩⟩ := by
  rw [show exec (.jadmit src l) ⟨q, d⟩ = execJadmit src l ⟨q, d⟩ from rfl, execJadmit, State.upd_alive halive]
  dsimp only
  rw [if_neg (not_not.mpr hop), hhead]
  dsimp only
  rw [hbad]

theorem exec_jadmit_good (hgood : jadmitBad l = none) : exec (.jadmit src l) ⟨q, d⟩ = .next ⟨q,
    if d.jobState ≠ jIDLE then d.refuse src l ⟨clsJOB, 0x002, d.jobState⟩
    else ((d.arm src l 0 [] [] .control).1.setReg Reg.GRD_JOBADMIT (2 ^ 32 + lnum l 16 4)).commit d.nextGen 0⟩ := by
  obtain ⟨hgen, -⟩ := d.arm_eq src l 0 [] [] .control
  rw [show exec (.jadmit src l) ⟨q, d⟩ = execJadmit src l ⟨q, d⟩ from rfl, execJadmit, State.upd_alive halive]
  dsimp only
  rw [if_neg (not_not.mpr hop), hhead]
  dsimp only
  rw [hgood, hgen]

end

theorem exec_admitTimeout (halive : d.alive = true) (hstate : d.jobState = jIDLE) :
    exec .admitTimeout ⟨q, d⟩ = .next ⟨q, d.setFlag Reg.GRD_JOBADMIT 32 false⟩ := by
  rw [show exec .admitTimeout ⟨q, d⟩ = execAdmitTimeout ⟨q, d⟩ from rfl, execAdmitTimeout, State.upd_alive halive]
  dsimp only
  rw [if_pos hstate]

/-! ### The rounds of the root (R482, R484, R485) -/

theorem Dev.SendsOnly.staysCalm (h : s.SendsOnly t) : s.StaysCalm False t := by
  rw [h.eq]
  exact (Dev.StaysCalm.refl s).frame

/-- The root of a launch without children waits for nothing. -/
theorem Dev.rootGo_leaf (l : Launch) (hkids : l.kids = []) :
    s.rootGo l = s.setLaunch fun x => { x with tgo := some ((s.now + l.goLead * 1000) % 2 ^ 64) } := by
  unfold Dev.rootGo Dev.tellKids
  dsimp only
  rw [hkids]
  rfl

/-- GO of the root enters T_GO into the launch. -/
theorem Dev.launch_rootGo (hlaunch : s.job.launch = some L) (l : Launch) :
    (s.rootGo l).job.launch = some { L with tgo := some ((s.now + l.goLead * 1000) % 2 ^ 64) } := by
  unfold Dev.rootGo
  dsimp only
  rw [((Dev.SendsOnly.refl _).tellKids).launch, show (s.setLaunch _).job.launch = s.job.launch.map _ from rfl, hlaunch, Option.map_some]

/-- A round with children sends MANIFEST and ARM. -/
theorem Dev.roundStart_kids (l : Launch) (hkids : l.kids ≠ []) : s.roundStart l
    = (((s.unsend fun m => decide (m.type < lORDREQ)).setJob fun j => { j with launch := some l, lastLseq := l.lseq }).manifestKids l).tellKids l lARM [] := by
  unfold Dev.roundStart
  exact if_neg (by simpa using hkids)

theorem Dev.launch_roundStart (l : Launch) (hkids : l.kids ≠ []) : (s.roundStart l).job.launch = some l := by
  rw [Dev.roundStart_kids l hkids, ((Dev.SendsOnly.refl _).manifestKids.tellKids).launch]
  rfl

theorem Dev.roundStart_leaf (l : Launch) (hkids : l.kids = []) (ht : t = (((s.unsend fun m => decide (m.type < lORDREQ)).setJob fun j =>
      { j with launch := some l, lastLseq := l.lseq }).manifestKids l).tellKids l lARM []) :
    s.roundStart l = t.setLaunch fun x => { x with tgo := some ((t.now + l.goLead * 1000) % 2 ^ 64) } := by
  unfold Dev.roundStart
  dsimp only
  rw [if_pos (by simpa using hkids), ← ht, Dev.rootGo_leaf l hkids]

/-- The first node of a list of two or more has a child. -/
theorem Launch.kids_ne_nil {l : Launch} (hindex : l.index = 0) (hlist : 1 < l.list.length) (hfan : 1 ≤ l.fanout) : l.kids ≠ [] := by
  have hchild : 1 ∈ l.kids := by
    unfold Launch.kids kidsOf
    simp only [List.mem_filter, List.mem_map, List.mem_range, decide_eq_true_eq]
    exact ⟨⟨0, hfan, by simp [hindex]⟩, hlist⟩
  exact List.ne_nil_of_mem hchild

/-! ### JLAUNCH (R479) -/

section
variable {src : Source} {l : Line} {bs : List Byte} (halive : d.alive = true) (hcalm : d.calm = true) (hop : dOp l = 0x0701)
  (hnone : d.job.launch = none) (hhead : d.headCheck l = none) (hgood : jlaunchBad l = none)
  (hread : (d.arm src l 0 [(jobKey (lnum l 24 8), 2 * lfield l 32 0 17)] [] .jlaunch).1.cmdRead d.nextGen (lnum l 24 8)
    (2 * lfield l 32 0 17) = (s, some bs))
include halive hcalm hop hnone hhead hgood hread

omit halive hcalm hop hnone hhead hgood in
/-- Reading the list has not to wait. -/
theorem Dev.staysCalm_listRead : d.StaysCalm False s :=
  (Dev.StaysCalm.arm (Dev.StaysCalm.refl d)).cmdRead.of_fst hread

/-- A list that does not begin with the root, or names a member twice. -/
theorem exec_jlaunch_list (hlist : (listOf bs (lfield l 32 0 17)).head? ≠ some d.coord ∨ ¬(listOf bs (lfield l 32 0 17)).Nodup) :
    exec (.jlaunch src l) ⟨q, d⟩ = .next ⟨q, d.refuse src l ⟨clsJOB, 0x002, d.jobState⟩⟩ := by
  obtain ⟨hgen, -⟩ := d.arm_eq src l 0 [(jobKey (lnum l 24 8), 2 * lfield l 32 0 17)] [] .jlaunch
  refine State.unit_of_staysCalm q halive hcalm ?_ (Dev.StaysCalm.refl d).refuse
  dsimp only
  rw [if_neg (not_not.mpr hop), hhead, hnone, if_neg (by decide), hgood, hgen, hread]
  dsimp only
  rw [if_pos (by simpa using hlist)]

/-- A good list: the root is ARMED, and round 1 begins. -/
theorem exec_jlaunch_round (hfirst : (listOf bs (lfield l 32 0 17)).head? = some d.coord) (hdistinct : (listOf bs (lfield l 32 0 17)).Nodup)
    (hresize : lfield l 32 22 1 = 0)
    (hL : L = ⟨true, d.nextGen, lnum l 16 4, lnum l 20 4, (d.job.lastLseq + 1) % 2 ^ 32, listOf bs (lfield l 32 0 17), lfield l 32 17 5,
      false, lfield l 32 23 2, lfield l 36 0 17, lnum l 40 2, lnum l 42 1, lnum l 44 4, 0, 1, true, [], [], false, false, none⟩)
    (ht : t = (s.setJobState jARMED).roundStart L) (hround : s.StaysCalm False t) : exec (.jlaunch src l) ⟨q, d⟩ = .next ⟨q, t⟩ := by
  obtain ⟨hgen, -⟩ := d.arm_eq src l 0 [(jobKey (lnum l 24 8), 2 * lfield l 32 0 17)] [] .jlaunch
  have hcalmRead := Dev.staysCalm_listRead hread
  refine State.unit_of_staysCalm q halive hcalm ?_ (hcalmRead.andThen fun _ => hround)
  dsimp only
  rw [if_neg (not_not.mpr hop), hhead, hnone, if_neg (by decide), hgood, hgen, hread, hresize]
  dsimp only
  rw [if_neg (by simp [hfirst, hdistinct]), if_neg (by simp), if_neg (by decide), ht, hL]
  rfl

end

/-! ### What a node answers (R480, R483) -/

/-- An answer to the parent: it is noted, and the messages to the children are no longer repeated. -/
theorem Dev.nodeAnswer_sends (l : Launch) : (s.setLaunch fun x => { x with answered := true }).SendsOnly (s.nodeAnswer l) := by
  obtain ⟨u, hu⟩ : ∃ u, u = (s.setLaunch fun x => { x with answered := true }).unsend fun m => m.type == lMANIFEST || m.type == lARM := ⟨_, rfl⟩
  have hunsend : ((s.unsend fun m => m.type == lMANIFEST || m.type == lARM).setLaunch fun x => { x with answered := true }) = u := by
    rw [hu]
    rfl
  unfold Dev.nodeAnswer
  dsimp only
  rw [hunsend, hu]
  exact (Dev.SendsOnly.refl _).unsend.formed

theorem Dev.launch_nodeAnswer (hlaunch : s.job.launch = some L) (l : Launch) : (s.nodeAnswer l).job.launch = some { L with answered := true } := by
  rw [(Dev.nodeAnswer_sends l).launch, show (s.setLaunch _).job.launch = s.job.launch.map _ from rfl, hlaunch, Option.map_some]

theorem Dev.jobState_nodeAnswer (l : Launch) : (s.nodeAnswer l).jobState = s.jobState := (Dev.nodeAnswer_sends l).jobState

theorem Dev.armSettle_node (hlaunch : s.job.launch = some L) (hroot : L.root = false) : s.armSettle = s.nodeAnswer L := by
  unfold Dev.armSettle
  rw [hlaunch]
  exact if_neg (by rw [hroot]; decide)

theorem Dev.armSettle_root (hlaunch : s.job.launch = some L) (hroot : L.root = true) : s.armSettle = s.rootSettle L := by
  unfold Dev.armSettle
  rw [hlaunch]
  exact if_pos hroot

theorem Dev.armCheck_eq (hlaunch : s.job.launch = some L) : s.armCheck = if L.kids.all L.acked.contains then s.armSettle else s := by
  unfold Dev.armCheck
  rw [hlaunch]

/-- Nothing silent: the root sends GO. -/
theorem Dev.rootSettle_good (hsilent : L.silent = []) : s.rootSettle L = (s.unsend fun m => m.type == lMANIFEST || m.type == lARM).rootGo L := by
  unfold Dev.rootSettle
  dsimp only
  rw [hsilent]
  rfl

/-- REFORM with members enough and rounds left: the next round begins without the silent ones. -/
theorem Dev.rootSettle_reform {bad list : List Nat} (hbad : bad = L.silent.eraseDups) (hsome : bad ≠ [])
    (hlist : list = (((List.range L.list.length).zip L.list).filter fun x => !bad.contains x.1).map (·.2)) (hpolicy : L.policy = 1)
    (hover : L.overflow = false) (hran : L.ran < L.rounds) (hmin : L.minn ≤ list.length) : ∃ u, s.rootSettle L
      = Dev.roundStart u { L with list := list, lseq := (L.lseq + 1) % 2 ^ 32, ran := L.ran + 1, acked := [], silent := [], overflow := false } := by
  unfold Dev.rootSettle
  dsimp only
  rw [← hbad, ← hlist, if_neg (by simpa using hsome), if_pos (by simp [hpolicy, hover, hran, hmin])]
  exact ⟨_, rfl⟩

/-! ### The messages of a launch at a node -/

/-- Two bits that are 0. -/
theorem bits_two_zero {x lo : Nat} (h : bits x lo 2 = 0) : bits x lo 1 = 0 ∧ bits x (lo + 1) 1 = 0 := by
  unfold bits at h ⊢
  rw [show 2 ^ (lo + 1) = 2 ^ lo * 2 from rfl, ← Nat.div_div_eq_div_mul]
  generalize x / 2 ^ lo = y at h ⊢
  omega

section
variable (halive : d.alive = true) (hlaunch : d.job.launch = some L)
include halive hlaunch

section
variable {c : Carriage} (htype : lType c = lARM) (hjob : lJob c = L.jobid) (hseq : lSeq c = L.lseq) (hroot : L.root = false)
  (hanswered : L.answered = false) (harmed : L.armed = false) (hstate : d.jobState = jMANIFEST)
include htype hjob hseq hroot hanswered harmed hstate

theorem exec_arm : exec (.arm c) ⟨q, d⟩
    = .next ⟨q, ((((d.taken c).setLaunch fun l => { l with armed := true }).setJobState jARMED).tellKids L lARM []).armCheck⟩ := by
  have hmanifest : ((d.taken c).setLaunch fun l => { l with armed := true }).jobState = jMANIFEST := hstate
  rw [show exec (.arm c) ⟨q, d⟩ = execArm c ⟨q, d⟩ from rfl, execArm, State.upd_alive halive]
  dsimp only
  rw [show (d.taken c).job.launch = some L from hlaunch]
  dsimp only
  rw [if_neg (by simp [htype, hjob, hseq, hroot]), if_neg (by rw [hanswered]; decide), if_neg (by rw [harmed]; decide), if_pos hmanifest]

/-- A node with children waits for them. -/
theorem exec_arm_kids (hkids : L.kids ≠ []) (hacked : L.acked = []) : exec (.arm c) ⟨q, d⟩
    = .next ⟨q, (((d.taken c).setLaunch fun l => { l with armed := true }).setJobState jARMED).tellKids L lARM []⟩ := by
  obtain ⟨s, hs⟩ : ∃ s, s = (((d.taken c).setLaunch fun l => { l with armed := true }).setJobState jARMED).tellKids L lARM [] := ⟨_, rfl⟩
  have hlaunch' : s.job.launch = some { L with armed := true } := by
    rw [hs, ((Dev.SendsOnly.refl _).tellKids).launch, show (Dev.setJobState _ _).job.launch = d.job.launch.map _ from rfl, hlaunch, Option.map_some]
  have hwaits : (Launch.kids { L with armed := true }).all L.acked.contains = false := by
    obtain ⟨k, ks, hcons⟩ := List.exists_cons_of_ne_nil hkids
    rw [show Launch.kids { L with armed := true } = L.kids from rfl, hcons, hacked]
    rfl
  rw [exec_arm halive hlaunch htype hjob hseq hroot hanswered harmed hstate, ← hs, Dev.armCheck_eq hlaunch',
    if_neg (by rw [hwaits]; decide)]

/-- A node without children answers. -/
theorem exec_arm_leaf (hkids : L.kids = []) : ∃ t, exec (.arm c) ⟨q, d⟩ = .next ⟨q, t⟩ ∧ t.jobState = jARMED
    ∧ t.job.launch = some { L with armed := true, answered := true } := by
  obtain ⟨s, hs⟩ : ∃ s, s = (((d.taken c).setLaunch fun l => { l with armed := true }).setJobState jARMED).tellKids L lARM [] := ⟨_, rfl⟩
  have hsends : (((d.taken c).setLaunch fun l => { l with armed := true }).setJobState jARMED).SendsOnly s := by
    rw [hs]
    exact (Dev.SendsOnly.refl _).tellKids
  have hlaunch' : s.job.launch = some { L with armed := true } := by
    rw [hsends.launch, show (Dev.setJobState _ _).job.launch = d.job.launch.map _ from rfl, hlaunch, Option.map_some]
  have hstate' : s.jobState = jARMED := hsends.jobState.trans (Dev.fld_setFld_same _ _ _ (by decide))
  have hall : (Launch.kids { L with armed := true }).all L.acked.contains = true := by
    rw [show Launch.kids { L with armed := true } = L.kids from rfl, hkids]
    rfl
  refine ⟨s.nodeAnswer { L with armed := true }, ?_, (Dev.jobState_nodeAnswer _).trans hstate', Dev.launch_nodeAnswer hlaunch' _⟩
  rw [exec_arm halive hlaunch htype hjob hseq hroot hanswered harmed hstate, ← hs, Dev.armCheck_eq hlaunch', if_pos hall,
    Dev.armSettle_node hlaunch' hroot]

end

section
variable {c : Carriage} {k : Nat} (hkid : L.kids.find? (fun k => L.coordOf k == c.src) = some k) (htype : lType c = lARMACK) (hjob : lJob c = L.jobid)
  (hseq : lSeq c = L.lseq) (hfirst : L.acked.contains k = false) (hanswered : L.answered = false) (htgo : L.tgo = none) (harmed : L.armed = true)
  (hids : c.f 40 0 32 = 0) (hflags : c.f 44 0 2 = 0)
  (hs : s = ((d.taken c).setLaunch fun l => { l with acked := l.acked ++ [k] }).unsend (fun m => (m.type == lMANIFEST || m.type == lARM) && m.node == k))
include hkid htype hjob hseq hfirst hanswered htgo harmed hids hflags hs

theorem exec_armack : exec (.armack c) ⟨q, d⟩ = .next ⟨q, s.armCheck⟩ := by
  obtain ⟨hown, hovf⟩ : c.f 44 0 1 = 0 ∧ c.f 44 1 1 = 0 := bits_two_zero hflags
  have hnoted : ((d.taken c).setLaunch fun l => { l with acked := l.acked ++ [k], silent := l.silent ++ [] ++ [], overflow := l.overflow || (0 == 1) })
      = (d.taken c).setLaunch fun l => { l with acked := l.acked ++ [k] } := by
    simp
  rw [show exec (.armack c) ⟨q, d⟩ = execArmack c ⟨q, d⟩ from rfl, execArmack, State.upd_alive halive]
  dsimp only
  rw [show (d.taken c).job.launch = some L from hlaunch]
  dsimp only
  rw [hkid]
  dsimp only
  have hfirst' : k ∉ L.acked := by simpa using hfirst
  rw [if_neg (by simp [htype, hjob, hseq, hfirst', hanswered, htgo]), hids, hown, hovf]
  rw [if_pos harmed, hs, ← hnoted]
  rfl

omit halive hkid htype hjob hseq hfirst hanswered htgo harmed hids hflags in
/-- The launch as the answer leaves it. -/
theorem Dev.launch_acked : s.job.launch = some { L with acked := L.acked ++ [k] } ∧ s.now = d.now := by
  rw [hs]
  refine ⟨?_, rfl⟩
  rw [show (Dev.unsend _ _).job.launch = d.job.launch.map _ from rfl, hlaunch, Option.map_some]

/-- A child that is not the last to answer. -/
theorem exec_armack_more (hmore : L.kids.all (L.acked ++ [k]).contains = false) : exec (.armack c) ⟨q, d⟩ = .next ⟨q, s⟩ := by
  obtain ⟨hlaunch', -⟩ := Dev.launch_acked hlaunch hs
  have hmore' : (Launch.kids { L with acked := L.acked ++ [k] }).all (L.acked ++ [k]).contains = false := hmore
  rw [exec_armack halive hlaunch hkid htype hjob hseq hfirst hanswered htgo harmed hids hflags hs, Dev.armCheck_eq hlaunch',
    if_neg (by rw [hmore']; decide)]

/-- The last child of the root to answer, with nothing silent: GO. -/
theorem exec_armack_last (hlast : L.kids.all (L.acked ++ [k]).contains = true) (hroot : L.root = true) (hsilent : L.silent = []) :
    ∃ t, exec (.armack c) ⟨q, d⟩ = .next ⟨q, t⟩
      ∧ t.job.launch = some { L with acked := L.acked ++ [k], tgo := some ((d.now + L.goLead * 1000) % 2 ^ 64) } := by
  obtain ⟨hlaunch', hnow⟩ := Dev.launch_acked hlaunch hs
  have hlast' : (Launch.kids { L with acked := L.acked ++ [k] }).all (L.acked ++ [k]).contains = true := hlast
  refine ⟨_, (exec_armack halive hlaunch hkid htype hjob hseq hfirst hanswered htgo harmed hids hflags hs).trans (by
    rw [Dev.armCheck_eq hlaunch', if_pos hlast', Dev.armSettle_root hlaunch' hroot,
      Dev.rootSettle_good (L := { L with acked := L.acked ++ [k] }) hsilent]), ?_⟩
  have hgo := Dev.launch_rootGo (s := s.unsend fun m => m.type == lMANIFEST || m.type == lARM) (L := { L with acked := L.acked ++ [k] }) hlaunch'
    { L with acked := L.acked ++ [k] }
  rwa [show (s.unsend _).now = s.now from rfl, hnow] at hgo

end

/-! ### The end of the wait (R484) -/

section
variable (harmed : L.armed = true) (hanswered : L.answered = false) (htgo : L.tgo = none) {silent : List Nat}
  (hsilent : silent = L.kids.filter (fun k => !L.acked.contains k) ++ L.silent)
include harmed hanswered htgo hsilent

theorem exec_armWaitExpire : exec .armWaitExpire ⟨q, d⟩ = .next ⟨q, (d.setLaunch fun l => { l with silent := silent }).armSettle⟩ := by
  rw [show exec .armWaitExpire ⟨q, d⟩ = execArmWaitExpire ⟨q, d⟩ from rfl, execArmWaitExpire, State.upd_alive halive]
  dsimp only
  rw [hlaunch]
  dsimp only
  rw [if_neg (by simp [harmed, hanswered, htgo]), hsilent]
  unfold Dev.setLaunch Dev.setJob
  dsimp only
  rw [hlaunch, Option.map_some, Option.map_some]

omit halive harmed hanswered htgo hsilent in
theorem Dev.launch_silent : (d.setLaunch fun l => { l with silent := silent }).job.launch = some { L with silent := silent } := by
  rw [show (d.setLaunch _).job.launch = d.job.launch.map _ from rfl, hlaunch, Option.map_some]

theorem exec_armWaitExpire_node (hroot : L.root = false) : ∃ t, exec .armWaitExpire ⟨q, d⟩ = .next ⟨q, t⟩
    ∧ t.job.launch = some { L with silent := silent, answered := true } := by
  have hlaunch' := Dev.launch_silent (silent := silent) hlaunch
  exact ⟨_, (exec_armWaitExpire halive hlaunch harmed hanswered htgo hsilent).trans (by rw [Dev.armSettle_node hlaunch' hroot]),
    Dev.launch_nodeAnswer hlaunch' _⟩

theorem exec_armWaitExpire_root (hroot : L.root = true) (hindex : L.index = 0) {bad list : List Nat} (hbad : bad = silent.eraseDups) (hsome : bad ≠ [])
    (hpolicy : L.policy = 1) (hover : L.overflow = false) (hran : L.ran < L.rounds)
    (hlist : list = (((List.range L.list.length).zip L.list).filter fun x => !bad.contains x.1).map (·.2)) (hmin : L.minn ≤ list.length)
    (hmany : 1 < list.length) (hfan : 1 ≤ L.fanout) : ∃ t, exec .armWaitExpire ⟨q, d⟩ = .next ⟨q, t⟩ ∧ t.job.launch = some { L with
      list := list, lseq := (L.lseq + 1) % 2 ^ 32, ran := L.ran + 1, acked := [], silent := [], overflow := false } := by
  have hlaunch' := Dev.launch_silent (silent := silent) hlaunch
  obtain ⟨u, hu⟩ := Dev.rootSettle_reform (s := d.setLaunch fun l => { l with silent := silent }) (L := { L with silent := silent }) hbad hsome hlist
    hpolicy hover hran hmin
  exact ⟨_, (exec_armWaitExpire halive hlaunch harmed hanswered htgo hsilent).trans (by rw [Dev.armSettle_root hlaunch' hroot, hu]),
    Dev.launch_roundStart _ (Launch.kids_ne_nil hindex hmany hfan)⟩

end

end

/-! ### T_GO (R485, R486, R488) -/

/-- The registers of the job that begins on an armed device, and its meters (R486). -/
def Dev.jobWritten (s : Dev) (l : Launch) (late : Bool) : Dev :=
  let s := s.setReg Reg.GRD_JOBMEMB (l.index + l.list.length * 2 ^ 32 + l.fanout * 2 ^ 52)
  let s := s.each (List.range 8) fun s i => s.setReg (Reg.GRD_MTR_RUNNS + 8 * i) 0
  let s := s.setReg Reg.GRD_JOBID (l.jobid + (if l.root then l.acct else Config.nodeAcct l.jobid % 2 ^ 32) * 2 ^ 32)
  s.setReg Reg.GRD_JOBSTAT (jRUNNING + (if late then 16 else 0))

/-- The rights of the debug port set for a job that begins, and the meters open. -/
def Dev.jobOpened (s : Dev) : Dev :=
  let s := if s.fld Reg.DBG_UNLOCK 32 32 = 0 then s.rightsEnd else s
  { s with grd := { s.grd with sealed := false } }

/-- The record of a GO that came late. -/
def Dev.lateNoted (s : Dev) (late : Option Nat) : Dev :=
  match late with
  | some n => s.record clsJOB 0x00D (min n 0xFFFFFFFF) 0 blkGRD 0
  | none => s

/-- What a member that is not the root does at T_GO, when its registers are written. -/
def Dev.memberStarted (s : Dev) (l : Launch) (tgo : Nat → Nat) (late : Option Nat) : Dev :=
  ((s.lateNoted late).admitClear l.jobid).setJob fun j => { j with launch := none, list := l.list, fanout := l.fanout, tgoTime := tgo j.tgoTime }

section
variable {l : Launch} {late : Option Nat} (hmember : l.root = false)
include hmember

theorem Dev.jobStart_armed (hstate : s.jobState = jARMED) :
    s.jobStart l late = (s.jobWritten l late.isSome).jobOpened.memberStarted l (fun _ => l.tgo.getD 0) late := by
  unfold Dev.jobStart
  dsimp only
  rw [hmember, hstate]
  refine (if_pos rfl).trans ?_
  unfold Dev.memberStarted Dev.jobOpened Dev.jobWritten
  dsimp only
  rw [hmember]
  cases late <;> rfl

theorem Dev.jobStart_running (hstate : s.jobState = jRUNNING) : s.jobStart l late
    = Dev.memberStarted ((s.setReg Reg.GRD_JOBMEMB (l.index + l.list.length * 2 ^ 32 + l.fanout * 2 ^ 52)).setFld Reg.GRD_JOBSTAT 8 8
        (s.fld Reg.GRD_JOBSTAT 8 8 + 1)) l (fun t => t) late := by
  have hepoch : (s.setReg Reg.GRD_JOBMEMB (l.index + l.list.length * 2 ^ 32 + l.fanout * 2 ^ 52)).fld Reg.GRD_JOBSTAT 8 8
      = s.fld Reg.GRD_JOBSTAT 8 8 := Dev.fld_setReg_ne _ _ _ _ (by decide)
  unfold Dev.jobStart
  dsimp only
  rw [hmember, hstate, hepoch]
  refine (if_pos rfl).trans ?_
  cases late <;> rfl

end

/-- Starting leaves every register of the Guard but its admission. -/
theorem Dev.reg_memberStarted (l : Launch) (tgo : Nat → Nat) (late : Option Nat) {k : Nat} (hk : k < 0x1000000) (hadmit : k ≠ Reg.GRD_JOBADMIT) :
    (s.memberStarted l tgo late).reg k = s.reg k := by
  have hnoted : (s.lateNoted late).reg k = s.reg k := by
    cases late with
    | none => rfl
    | some n => exact Dev.reg_record_lt _ _ _ _ _ _ _ hk
  refine Eq.trans ?_ hnoted
  show ((s.lateNoted late).admitClear l.jobid).reg k = _
  unfold Dev.admitClear
  split
  · exact Dev.reg_setFlag_ne _ _ _ hadmit
  · rfl

/-- The meters of a job that begins in time are open. -/
theorem Dev.sealed_memberStarted (s : Dev) (l : Launch) (tgo : Nat → Nat) : (s.jobOpened.memberStarted l tgo none).grd.sealed = false := by
  unfold Dev.memberStarted Dev.lateNoted Dev.admitClear
  dsimp only
  split <;> rfl

/-- A row of registers set to 0. -/
theorem Dev.reg_each_zero (s : Dev) (off n k : Nat) : (s.each (List.range n) fun s i => s.setReg (off + 8 * i) 0).reg k
    = if ∃ i, i < n ∧ k = off + 8 * i then 0 else s.reg k := by
  induction n with
  | zero => simp [Dev.each]
  | succ n ih =>
    have hlast : (s.each (List.range (n + 1)) fun s i => s.setReg (off + 8 * i) 0)
        = (s.each (List.range n) fun s i => s.setReg (off + 8 * i) 0).setReg (off + 8 * n) 0 := by
      unfold Dev.each
      rw [List.range_succ, List.foldl_append]
      rfl
    rw [hlast]
    by_cases hk : k = off + 8 * n
    · rw [if_pos ⟨n, Nat.lt_succ_self n, hk⟩, hk, Dev.reg_setReg_same, Nat.zero_mod]
    · rw [Dev.reg_setReg_ne _ _ hk, ih]
      congr 1
      simp only [eq_iff_iff]
      exact ⟨fun ⟨i, hi, he⟩ => ⟨i, by omega, he⟩, fun ⟨i, hi, he⟩ => ⟨i, by
        have : i ≠ n := fun h => hk (h ▸ he)
        omega, he⟩⟩

section
variable (l : Launch) (late : Bool)

theorem Dev.reg_jobOpened {k : Nat} (hk : k ≠ Reg.DBG_UNLOCK) : s.jobOpened.reg k = s.reg k := by
  unfold Dev.jobOpened
  dsimp only
  split
  · exact (Dev.reg_congr rfl k).trans (Dev.reg_setReg_ne _ _ hk)
  · exact Dev.reg_congr rfl k

/-- The meters begin at 0, and the registers of the job are its own (Table 16-1). -/
theorem Dev.reg_jobWritten : (∀ i, i < 8 → (s.jobWritten l late).reg (Reg.GRD_MTR_RUNNS + 8 * i) = 0)
    ∧ (s.jobWritten l late).reg Reg.GRD_JOBMEMB = (l.index + l.list.length * 2 ^ 32 + l.fanout * 2 ^ 52) % 2 ^ 64
    ∧ (s.jobWritten l late).reg Reg.GRD_JOBID
      = (l.jobid + (if l.root then l.acct else Config.nodeAcct l.jobid % 2 ^ 32) * 2 ^ 32) % 2 ^ 64
    ∧ (s.jobWritten l late).reg Reg.GRD_JOBSTAT = jRUNNING + (if late then 16 else 0) := by
  obtain ⟨hruns, hid, hstat, hmemb⟩ : Reg.GRD_MTR_RUNNS = 0x240 ∧ Reg.GRD_JOBID = 0x208 ∧ Reg.GRD_JOBSTAT = 0x200 ∧ Reg.GRD_JOBMEMB = 0x210 := by
    decide
  unfold Dev.jobWritten
  dsimp only
  refine ⟨fun i hi => ?_, ?_, ?_, ?_⟩
  · rw [Dev.reg_setReg_ne _ _ (by omega), Dev.reg_setReg_ne _ _ (by omega), Dev.reg_each_zero, if_pos ⟨i, hi, rfl⟩]
  · rw [Dev.reg_setReg_ne _ _ (by decide), Dev.reg_setReg_ne _ _ (by decide), Dev.reg_each_zero, if_neg (by rintro ⟨i, hi, he⟩; omega),
      Dev.reg_setReg_same]
  · rw [Dev.reg_setReg_ne _ _ (by decide), Dev.reg_setReg_same]
  · rw [Dev.reg_setReg_same]
    cases late <;> rfl

end

/-- RUNNING, LATE and EPOCH of GRD_JOBSTAT as the job begins. -/
theorem jobstat_begun : ∀ late : Bool, bits (jRUNNING + if late then 16 else 0) 0 3 = jRUNNING ∧ bit (jRUNNING + if late then 16 else 0) 4 = late
    ∧ bits (jRUNNING + if late then 16 else 0) 8 8 = 0 := by decide

/-- A member that is armed enters the job: its state, its names, and its meters (R486). -/
theorem Dev.jobStart_entered {l : Launch} {late : Option Nat} (hmember : l.root = false) (hstate : s.jobState = jARMED) :
    (s.jobStart l late).jobState = jRUNNING ∧ (s.jobStart l late).flag Reg.GRD_JOBSTAT 4 = late.isSome
      ∧ (s.jobStart l late).job.launch = none ∧ (s.jobStart l late).job.list = l.list ∧ (s.jobStart l late).jobId = l.jobid % 2 ^ 32
      ∧ (s.jobStart l late).jobIndex = l.index % 2 ^ 16 ∧ (s.jobStart l late).fld Reg.GRD_JOBSTAT 8 8 = 0
      ∧ (l.index < 2 ^ 16 → l.list.length < 2 ^ 17 → (s.jobStart l late).fld Reg.GRD_JOBMEMB 32 17 = l.list.length)
      ∧ ∀ i, i < 8 → (s.jobStart l late).reg (Reg.GRD_MTR_RUNNS + 8 * i) = 0 := by
  obtain ⟨hmeters, hmemb, hid, hstat⟩ := s.reg_jobWritten l late.isSome
  have hreg {k : Nat} (hk : k < 0x1000000) (hadmit : k ≠ Reg.GRD_JOBADMIT) : (s.jobStart l late).reg k = (s.jobWritten l late.isSome).reg k := by
    rw [Dev.jobStart_armed hmember hstate, Dev.reg_memberStarted _ _ _ hk hadmit]
    have hunlock : Reg.DBG_UNLOCK = 0x1100000 := by decide
    exact Dev.reg_jobOpened (by omega)
  have hmemb' := (hreg (k := Reg.GRD_JOBMEMB) (by decide) (by decide)).trans hmemb
  have hid' := (hreg (k := Reg.GRD_JOBID) (by decide) (by decide)).trans hid
  have hstat' := (hreg (k := Reg.GRD_JOBSTAT) (by decide) (by decide)).trans hstat
  obtain ⟨hrunning, hlate, hepoch⟩ := jobstat_begun late.isSome
  refine ⟨?_, ?_, ?_, ?_, ?_, ?_, ?_, fun hindex hlen => ?_, fun i hi => ?_⟩
  · unfold Dev.jobState Dev.fld
    rw [hstat', hrunning]
  · unfold Dev.flag
    rw [hstat', hlate]
  · rw [Dev.jobStart_armed hmember hstate]
    rfl
  · rw [Dev.jobStart_armed hmember hstate]
    rfl
  · unfold Dev.jobId Dev.fld bits
    rw [hid']
    generalize (if l.root then l.acct else Config.nodeAcct l.jobid % 2 ^ 32) = a
    omega
  · unfold Dev.jobIndex Dev.fld bits
    rw [hmemb']
    omega
  · unfold Dev.fld
    rw [hstat', hepoch]
  · unfold Dev.fld bits
    rw [hmemb']
    omega
  · rw [hreg (by have : Reg.GRD_MTR_RUNNS = 0x240 := by decide
                 omega) (by have : Reg.GRD_MTR_RUNNS = 0x240 ∧ Reg.GRD_JOBADMIT = 0x218 := by decide
                            omega)]
    exact hmeters i hi

/-- A member that runs takes the new list, one epoch later (R488). -/
theorem Dev.jobStart_resized {l : Launch} {late : Option Nat} (hmember : l.root = false) (hstate : s.jobState = jRUNNING) :
    (s.jobStart l late).jobState = jRUNNING ∧ (s.jobStart l late).job.launch = none ∧ (s.jobStart l late).job.list = l.list
      ∧ (s.jobStart l late).fld Reg.GRD_JOBSTAT 8 8 = (s.fld Reg.GRD_JOBSTAT 8 8 + 1) % 256 ∧ (s.jobStart l late).jobId = s.jobId := by
  obtain ⟨u, hu⟩ : ∃ u, u = (s.setReg Reg.GRD_JOBMEMB (l.index + l.list.length * 2 ^ 32 + l.fanout * 2 ^ 52)).setFld Reg.GRD_JOBSTAT 8 8
    (s.fld Reg.GRD_JOBSTAT 8 8 + 1) := ⟨_, rfl⟩
  have heq := Dev.jobStart_running (late := late) hmember hstate
  rw [← hu] at heq
  have hreg {k : Nat} (hk : k < 0x1000000) (hadmit : k ≠ Reg.GRD_JOBADMIT) : (s.jobStart l late).reg k = u.reg k := by
    rw [heq]
    exact Dev.reg_memberStarted _ _ _ hk hadmit
  have hjobstat (lo w : Nat) : (s.jobStart l late).fld Reg.GRD_JOBSTAT lo w = u.fld Reg.GRD_JOBSTAT lo w :=
    Dev.fld_congr (hreg (by decide) (by decide)) lo w
  refine ⟨?_, by rw [heq]; rfl, by rw [heq]; rfl, ?_, ?_⟩
  · refine (hjobstat 0 3).trans (Eq.trans ?_ hstate)
    rw [hu, Dev.fld_setFld_below _ _ _ (by decide) (by decide)]
    exact Dev.fld_setReg_ne _ _ _ _ (by decide)
  · refine (hjobstat 8 8).trans ?_
    rw [hu]
    exact Dev.fld_setFld_same _ _ _ (by decide)
  · refine (Dev.fld_congr (hreg (by decide) (by decide)) 0 32).trans ?_
    rw [hu]
    exact (Dev.fld_setFld_ne _ _ _ _ _ _ (by decide)).trans (Dev.fld_setReg_ne _ _ _ _ (by decide))

section
variable (halive : d.alive = true) (hlaunch : d.job.launch = some L)
include halive hlaunch

theorem exec_tGoReached {g : Nat} (htgo : L.tgo = some g) : exec .tGoReached ⟨q, d⟩ = .next ⟨q, (d.jobStart L none).armRings⟩ := by
  rw [show exec .tGoReached ⟨q, d⟩ = execTGoReached ⟨q, d⟩ from rfl, execTGoReached, State.upd_alive halive]
  dsimp only
  unfold Dev.tGoReached
  rw [hlaunch]
  dsimp only
  rw [if_pos (by rw [htgo]; rfl)]

section
variable {c : Carriage} (htype : lType c = lGO) (hroot : L.root = false) (harmed : L.armed = true) (hjob : lJob c = L.jobid)
  (hseq : lSeq c = L.lseq) (hcrc : c.f 48 0 32 = listCrc L.list) (htgo : L.tgo = none) (hstate : d.jobState = jARMED)
include htype hroot harmed hjob hseq hcrc htgo hstate

/-- GO is acknowledged, entered and forwarded; where T_GO has passed, the node starts at once. -/
theorem exec_go : ∃ s, exec (.go c) ⟨q, d⟩
      = .next ⟨q, Dev.armRings (if c.f 40 0 64 < d.now then s.jobStart { L with tgo := some (c.f 40 0 64) } (some (d.now - c.f 40 0 64)) else s)⟩
    ∧ s.job.launch = some { L with tgo := some (c.f 40 0 64) } ∧ s.jobState = jARMED := by
  obtain ⟨u, hu⟩ : ∃ u, u = ((d.taken c).unsend fun m => m.type == lMANIFEST || m.type == lARM).formed 42
    (((d.taken c).unsend fun m => m.type == lMANIFEST || m.type == lARM).jobCar c.src lACK (lJob c) (lSeq c) [(40, 0, 8, lGO)] []) none := ⟨_, rfl⟩
  have hsends : d.SendsOnly u := by
    rw [hu]
    exact (Dev.SendsOnly.refl d).taken.unsend.formed
  obtain ⟨s, hs⟩ : ∃ s, s = (u.setLaunch fun l => { l with tgo := some (c.f 40 0 64) }).tellKids L lGO [(40, 0, 64, c.f 40 0 64), (48, 0, 32, c.f 48 0 32)] :=
    ⟨_, rfl⟩
  have htold : (u.setLaunch fun l => { l with tgo := some (c.f 40 0 64) }).SendsOnly s := by
    rw [hs]
    exact (Dev.SendsOnly.refl _).tellKids
  have hnow : s.now = d.now := htold.now.trans hsends.now
  have hstate' : s.jobState = jARMED := (htold.jobState.trans hsends.jobState).trans hstate
  have hlaunch' : s.job.launch = some { L with tgo := some (c.f 40 0 64) } := by
    rw [htold.launch, show (u.setLaunch _).job.launch = u.job.launch.map _ from rfl, hsends.launch, hlaunch, Option.map_some]
  refine ⟨s, ?_, hlaunch', hstate'⟩
  rw [show exec (.go c) ⟨q, d⟩ = execGo c ⟨q, d⟩ from rfl, execGo, State.upd_alive halive]
  dsimp only
  unfold Dev.go
  dsimp only
  rw [if_neg (not_not.mpr htype), show (d.taken c).job.launch = some L from hlaunch]
  dsimp only
  rw [if_neg (by simp [hroot, harmed, hjob, hseq, hcrc]), if_neg (by rw [htgo]; decide)]
  simp only [← hu, ← hs, hnow, if_pos hstate']

end

/-! ### A launch that ends without a start (R484, R487) -/

omit halive hlaunch in
/-- A completion record leaves the launch as it is. -/
theorem Dev.job_drainRecs (r fuel : Nat) : (Dev.drainRecs s r fuel).job = s.job := by
  induction fuel generalizing s with
  | zero => rfl
  | succ fuel ih =>
    unfold Dev.drainRecs
    split
    · rfl
    · split
      · rfl
      · exact ih.trans rfl

omit halive hlaunch in
theorem Dev.job_postRec (r : Nat) (c : CplRec) : (s.postRec r c).job = s.job := by
  have hsettle (u : Dev) : (u.ringSettle r).job = u.job := by
    unfold Dev.ringSettle
    split <;> rfl
  unfold Dev.postRec
  dsimp only
  exact (hsettle _).trans ((Dev.job_drainRecs _ _).trans rfl)

omit halive hlaunch in
theorem Dev.job_refuse (src : Source) (l : Line) (r : Refuse) : (s.refuse src l r).job = s.job := by
  unfold Dev.refuse
  dsimp only
  split
  · exact (Dev.job_postRec _ _).trans (Dev.record_job ..)
  · exact Dev.record_job ..

omit halive hlaunch in
theorem Dev.job_refuseHeld : s.refuseHeld.job = s.job :=
  Dev.each_keeps (P := fun u => u.job = s.job) rfl fun hu => Dev.each_keeps (P := fun u => u.job = s.job) hu fun hu =>
    (Dev.job_refuse _ _ _).trans hu

omit halive hlaunch in
/-- Requests held for a device that is IDLE are dropped. -/
theorem Dev.heldIssue_idle (hstate : s.jobState = jIDLE) : s.heldIssue = s.setJob fun j => { j with heldReq := [] } := by
  have hidle : (s.setJob fun j => { j with heldReq := [] }).jobRuns = false := by
    unfold Dev.jobRuns
    rw [show (s.setJob _).jobState = jIDLE from hstate]
    rfl
  unfold Dev.heldIssue
  refine Dev.each_keeps (P := fun u => u = s.setJob fun j => { j with heldReq := [] }) rfl fun {u r} hu => ?_
  unfold Dev.orderIssue
  rw [hu, hidle]
  rfl

omit halive hlaunch in
/-- The admission that lapses is no part of the state of the job. -/
theorem Dev.admitClear_keeps (jobid : Nat) : (s.admitClear jobid).jobState = s.jobState ∧ (s.admitClear jobid).job = s.job := by
  unfold Dev.admitClear
  split
  · exact ⟨Dev.fld_congr (Dev.reg_setFlag_ne s 32 false (by decide)) 0 3, Dev.setFlag_job ..⟩
  · exact ⟨rfl, rfl⟩

omit halive hlaunch in
theorem Dev.jobState_setJobState {x : Nat} (hx : x < 8) : (s.setJobState x).jobState = x :=
  (Dev.fld_setFld_same _ _ _ (by decide)).trans (Nat.mod_eq_of_lt hx)

omit halive hlaunch in
/-- A node outside the job returns to IDLE. -/
theorem Dev.launchDrop_idle (hlaunch : s.job.launch = some L) (hstate : s.jobState = jMANIFEST ∨ s.jobState = jARMED) :
    s.launchDrop.jobState = jIDLE ∧ s.launchDrop.job.launch = none := by
  obtain ⟨u, hu⟩ : ∃ u, u = (s.unsend fun m => decide (m.type < lGO)).setJob fun j => { j with launch := none, gather := none } := ⟨_, rfl⟩
  have hstate' : u.jobState = s.jobState := by rw [hu]; rfl
  have hnone : u.job.launch = none := by rw [hu]; rfl
  obtain ⟨v, hv⟩ : ∃ v, v = (u.refuseHeld.setJobState jIDLE).admitClear L.jobid := ⟨_, rfl⟩
  obtain ⟨hcleared, hkept⟩ := (u.refuseHeld.setJobState jIDLE).admitClear_keeps L.jobid
  rw [← hv] at hcleared hkept
  have hidle : v.jobState = jIDLE := hcleared.trans (Dev.jobState_setJobState (by decide))
  have hkept' : v.job = u.job := hkept.trans Dev.job_refuseHeld
  have hdrop : s.launchDrop = v.heldIssue := by
    unfold Dev.launchDrop
    rw [hlaunch]
    dsimp only
    rw [← hu, hstate', if_pos (by simpa using hstate), ← hv]
  rw [hdrop, Dev.heldIssue_idle hidle]
  exact ⟨hidle, (congrArg Job.launch hkept').trans hnone⟩

theorem exec_labort {c : Carriage} (htype : lType c = lLABORT) (hroot : L.root = false) (hjob : lJob c = L.jobid) (hseq : lSeq c = L.lseq)
    (hstate : d.jobState = jARMED) : ∃ t, exec (.labort c) ⟨q, d⟩ = .next ⟨q, t⟩ ∧ t.jobState = jIDLE ∧ t.job.launch = none := by
  obtain ⟨u, hu⟩ : ∃ u, u = (d.taken c).formed 42 ((d.taken c).jobCar c.src lACK (lJob c) (lSeq c) [(40, 0, 8, lLABORT)] []) none := ⟨_, rfl⟩
  have hsends : d.SendsOnly (u.tellKids L lLABORT []) := by
    rw [hu]
    exact (Dev.SendsOnly.refl d).taken.formed.tellKids
  have hu' : u.job.launch = some L := by
    rw [hu]
    exact hlaunch
  obtain ⟨s, hs⟩ : ∃ s, s = (u.tellKids L lLABORT []).record clsJOB 0x006 L.list.length 0 blkGRD 0 := ⟨_, rfl⟩
  have hlaunch' : s.job.launch = some L := by
    rw [hs, Dev.record_job, hsends.launch, hlaunch]
  have hstate' : s.jobState = jARMED := by
    rw [hs]
    exact (Dev.fld_congr (Dev.reg_record_lt _ _ _ _ _ _ _ (by decide)) _ _).trans (hsends.jobState.trans hstate)
  refine ⟨s.launchDrop, ?_, Dev.launchDrop_idle hlaunch' (.inr hstate')⟩
  rw [show exec (.labort c) ⟨q, d⟩ = execLabort c ⟨q, d⟩ from rfl, execLabort, State.upd_alive halive]
  dsimp only
  rw [if_neg (not_not.mpr htype), ← hu, hu']
  dsimp only
  rw [if_neg (by simp [hroot, hjob, hseq]), hsends.jobState, hstate, if_neg (by decide), ← hs]

theorem exec_launchHoldExpire (hroot : L.root = false) (htgo : L.tgo = none) (hstate : d.jobState = jMANIFEST ∨ d.jobState = jARMED) :
    ∃ t, exec .launchHoldExpire ⟨q, d⟩ = .next ⟨q, t⟩ ∧ t.jobState = jIDLE ∧ t.job.launch = none := by
  obtain ⟨s, hs⟩ : ∃ s, s = d.record clsJOB 0x007 L.jobid 0 blkGRD 0 := ⟨_, rfl⟩
  have hlaunch' : s.job.launch = some L := by
    rw [hs, Dev.record_job, hlaunch]
  have hstate' : s.jobState = d.jobState := by
    rw [hs]
    exact Dev.fld_congr (Dev.reg_record_lt _ _ _ _ _ _ _ (by decide)) _ _
  refine ⟨s.launchDrop, ?_, Dev.launchDrop_idle hlaunch' (hstate' ▸ hstate)⟩
  rw [show exec .launchHoldExpire ⟨q, d⟩ = execLaunchHoldExpire ⟨q, d⟩ from rfl, execLaunchHoldExpire, State.upd_alive halive]
  dsimp only
  rw [hlaunch]
  dsimp only
  rw [if_neg (by rcases hstate with h | h <;> simp [hroot, htgo, h]), ← hs]

end

/-! ### MANIFEST (R483) -/

/-- A member list is read from its first `2 * n` bytes. -/
theorem listOf_take (bs : List Byte) (n : Nat) : listOf (bs.take (2 * n)) n = listOf bs n := by
  unfold listOf
  refine List.map_congr_left fun i hi => ?_
  rw [List.mem_range] at hi
  rw [List.drop_take, List.take_take, Nat.min_eq_left (by omega)]

/-- The launch that a MANIFEST of `n` members in one chunk describes to the node `coord`. -/
def manifestLaunch (c : Carriage) (n coord : Nat) : Launch :=
  { root := false, cmd := 0, jobid := lJob c, acct := 0, lseq := lSeq c, list := listOf c.payload n, fanout := c.f 48 0 8
    resize := c.f 49 2 1 == 1, policy := c.f 49 0 2, minn := 0, armStep := c.f 50 0 16, rounds := c.f 52 0 8, goLead := c.f 54 0 32
    index := (listOf c.payload n).idxOf coord, ran := 0, armed := false, acked := [], silent := [], overflow := false, answered := false, tgo := none }

section
variable {c : Carriage} {n : Nat} (halive : d.alive = true) (htype : lType c = lMANIFEST) (hn : n = c.f 44 0 32) (hnone : d.job.launch = none)
  (hchunk : c.f 40 0 32 = 0) (hstate : d.jobState = jIDLE)
include halive htype hn hnone hchunk hstate

omit hn in
theorem exec_manifest_refused (hadmit : d.flag Reg.GRD_JOBADMIT 32 = false ∨ d.fld Reg.GRD_JOBADMIT 0 32 ≠ lJob c) :
    exec (.manifest c) ⟨q, d⟩ = .next ⟨q, ((d.taken c).record clsJOB 0x004 (lJob c) 0 blkGRD 0).formed 42
      (d.jobCar c.src lARMACK (lJob c) (lSeq c) [(44, 0, 1, 1)] []) none⟩ := by
  have hno : (d.taken c).manifestOk c = false := by
    unfold Dev.manifestOk
    rw [if_pos (show (d.taken c).jobState = jIDLE from hstate), show (d.taken c).flag Reg.GRD_JOBADMIT 32 = d.flag Reg.GRD_JOBADMIT 32 from rfl,
      show (d.taken c).fld Reg.GRD_JOBADMIT 0 32 = d.fld Reg.GRD_JOBADMIT 0 32 from rfl]
    rcases hadmit with h | h <;> simp [h]
  have hcar : ((d.taken c).record clsJOB 0x004 (lJob c) 0 blkGRD 0).jobCar = d.jobCar := by
    unfold Dev.jobCar
    rw [show ((d.taken c).record clsJOB 0x004 (lJob c) 0 blkGRD 0).coord = d.coord from
        Dev.fld_congr (Dev.reg_record_lt _ _ _ _ _ _ _ (by decide)) _ _,
      show ((d.taken c).record clsJOB 0x004 (lJob c) 0 blkGRD 0).colLevel = d.colLevel from
        Dev.fld_congr (Dev.reg_record_lt _ _ _ _ _ _ _ (by decide)) _ _]
  rw [show exec (.manifest c) ⟨q, d⟩ = execManifest c ⟨q, d⟩ from rfl, execManifest, State.upd_alive halive]
  dsimp only
  rw [show (d.taken c).job.launch = none from hnone, hno]
  dsimp only
  rw [if_neg (by simp [htype]), if_pos (by simp), if_pos hchunk]
  unfold Dev.manifestRefuse
  dsimp only
  rw [hcar]

theorem exec_manifest_good (hvalid : d.flag Reg.GRD_JOBADMIT 32 = true) (hid : d.fld Reg.GRD_JOBADMIT 0 32 = lJob c) (hgather : d.job.gather = none)
    (hlow : 0 < n) (hhigh : n ≤ 2048) (hfan : 2 ≤ c.f 48 0 8) (hfan' : c.f 48 0 8 ≤ 16) (hpayload : 2 * n ≤ c.payload.length)
    (honce : (listOf c.payload n).count d.coord = 1) : ∃ t L, exec (.manifest c) ⟨q, d⟩ = .next ⟨q, t⟩ ∧ t.jobState = jMANIFEST
      ∧ t.job.launch = some L ∧ L.list = listOf c.payload n ∧ L.index = L.list.idxOf d.coord ∧ L.jobid = lJob c ∧ L.lseq = lSeq c
      ∧ L.fanout = c.f 48 0 8 ∧ L.armed = false ∧ L.root = false := by
  have hok : (d.taken c).manifestOk c = true := by
    unfold Dev.manifestOk
    rw [if_pos (show (d.taken c).jobState = jIDLE from hstate), show (d.taken c).flag Reg.GRD_JOBADMIT 32 = true from hvalid,
      show (d.taken c).fld Reg.GRD_JOBADMIT 0 32 = lJob c from hid]
    simp
  have hone : ceilDiv (2 * n) 4096 = 1 := by
    unfold ceilDiv
    omega
  have hbytes : c.payload.take (min 4096 (2 * n - 4096 * 0)) ++ List.replicate (min 4096 (2 * n - 4096 * 0)
      - (c.payload.take (min 4096 (2 * n - 4096 * 0))).length) 0 = c.payload.take (2 * n) := by
    have hmin : min 4096 (2 * n - 4096 * 0) = 2 * n := by omega
    rw [hmin, List.length_take, Nat.min_eq_left hpayload, Nat.sub_self, List.replicate_zero, List.append_nil]
  rw [show exec (.manifest c) ⟨q, d⟩ = execManifest c ⟨q, d⟩ from rfl, execManifest, State.upd_alive halive]
  dsimp only
  rw [show (d.taken c).job.launch = none from hnone, show (d.taken c).job.gather = none from hgather, hok, ← hn, hchunk]
  dsimp only
  rw [if_neg (by simp [htype]), if_neg (by simp; omega), hone]
  simp only [List.filter_nil, List.nil_append, List.range_one, List.all_cons, List.find?_cons_of_pos, beq_self_eq_true, Option.map_some,
    Option.isSome_some, List.all_nil, Bool.and_self, Bool.not_true, Bool.false_eq_true, if_false, List.flatMap_cons, List.flatMap_nil, List.append_nil,
    Option.getD_some, hbytes, listOf_take]
  obtain ⟨u, hu⟩ : ∃ u, u = (d.taken c).setJob fun j => { j with gather := none } := ⟨_, rfl⟩
  have hcoord : u.coord = d.coord := by
    rw [hu]
    rfl
  obtain ⟨v, hv⟩ : ∃ v, v = (u.unsend fun m => decide (m.type < lORDREQ)).setJob fun j => { j with launch := some (manifestLaunch c n d.coord) } := ⟨_, rfl⟩
  have hidle : v.jobState = jIDLE := by
    rw [hv, hu]
    exact hstate
  have hlaunch : v.job.launch = some (manifestLaunch c n d.coord) := by
    rw [hv]
    rfl
  have hsends : (v.setJobState jMANIFEST).SendsOnly ((v.setJobState jMANIFEST).manifestKids (manifestLaunch c n d.coord)) :=
    (Dev.SendsOnly.refl _).manifestKids
  refine ⟨(v.setJobState jMANIFEST).manifestKids (manifestLaunch c n d.coord), manifestLaunch c n d.coord, ?_,
    hsends.jobState.trans (Dev.jobState_setJobState (by decide)), hsends.launch.trans hlaunch, rfl, rfl, rfl, rfl, rfl, rfl, rfl⟩
  simp only [← hu, hcoord]
  rw [if_neg (not_not.mpr honce)]
  unfold manifestLaunch at hv ⊢
  rw [← hv, if_neg (by rw [hidle]; decide)]

end

/-! ### Messages without an answer (R481, R485) -/

section
variable {node type : Nat} {m : LMsg} (halive : d.alive = true) (hmsg : d.job.unacked.find? (fun m => m.node == node && m.type == type) = some m)
include halive hmsg

theorem exec_launchMessageResend :
    exec (.launchMessageResend node type) ⟨q, d⟩ = .next ⟨q, m.cars.foldl (fun s c => s.formed 42 c none) d⟩ := by
  rw [show exec (.launchMessageResend node type) ⟨q, d⟩ = execLaunchMessageResend node type ⟨q, d⟩ from rfl, execLaunchMessageResend,
    State.upd_alive halive]
  dsimp only
  rw [hmsg]
  rfl

theorem exec_childAckTimeout_order (htype : type = lORDER) : exec (.childAckTimeout node type) ⟨q, d⟩
    = .next ⟨q, (d.record clsJOB 0x008 node 0 blkGRD 0).unsend fun x => decide (x = m)⟩ := by
  rw [show exec (.childAckTimeout node type) ⟨q, d⟩ = execChildAckTimeout node type ⟨q, d⟩ from rfl, execChildAckTimeout,
    State.upd_alive halive]
  dsimp only
  rw [hmsg]
  dsimp only
  rw [htype, if_neg (by decide)]
  cases d.job.launch <;> rfl

end

/-- Settles O42: the launch by its messages, each with what the node that receives it keeps. -/
theorem launchOfAJob : Obligations.LaunchOfAJob := by
  intro q d halive
  refine ⟨fun src l hop hhead => ⟨fun hgood hidle => ?_, fun hgood hbusy => ?_, fun n hbad => exec_jadmit_bad halive hop hhead hbad⟩,
    exec_admitTimeout halive, fun src l s bs hcalm hop hnone hhead hgood hread => ⟨fun L hfirst hdistinct hresize hL t ht => ?_,
      exec_jlaunch_list halive hcalm hop hnone hhead hgood hread⟩,
    fun c n htype hn hnone hchunk => ⟨fun hstate hvalid hid hgather hlow hhigh hfan hfan' hpayload honce =>
      exec_manifest_good halive htype hn hnone hchunk hstate hvalid hid hgather hlow hhigh hfan hfan' hpayload honce,
      fun hstate hadmit => exec_manifest_refused halive htype hnone hchunk hstate hadmit⟩,
    fun L hlaunch => ⟨fun c htype hjob hseq hroot hanswered harmed hstate =>
        ⟨exec_arm_kids halive hlaunch htype hjob hseq hroot hanswered harmed hstate,
          exec_arm_leaf halive hlaunch htype hjob hseq hroot hanswered harmed hstate⟩,
      fun c k hkid htype hjob hseq hfirst hanswered htgo harmed hids hflags s hs =>
        ⟨exec_armack_more halive hlaunch hkid htype hjob hseq hfirst hanswered htgo harmed hids hflags hs,
          exec_armack_last halive hlaunch hkid htype hjob hseq hfirst hanswered htgo harmed hids hflags hs⟩,
      fun harmed hanswered htgo bad hbad => ⟨exec_armWaitExpire_node halive hlaunch harmed hanswered htgo rfl,
        fun hroot hindex hsome hpolicy hover hran list hlist hmin hmany hfan =>
          exec_armWaitExpire_root halive hlaunch harmed hanswered htgo rfl hroot hindex hbad hsome hpolicy hover hran hlist hmin hmany hfan⟩,
      fun c htype hroot harmed hjob hseq hcrc htgo hstate => ?_,
      fun g htgo hroot => ⟨fun hstate => ?_, fun hstate => ?_⟩,
      fun c htype hroot hjob hseq hstate => exec_labort halive hlaunch htype hroot hjob hseq hstate,
      exec_launchHoldExpire halive hlaunch⟩,
    fun node type m hmsg => ⟨exec_launchMessageResend halive hmsg, exec_childAckTimeout_order halive hmsg⟩⟩
  · rw [exec_jadmit_good halive hop hhead hgood, if_neg (not_not.mpr hidle)]
  · rw [exec_jadmit_good halive hop hhead hgood, if_pos hbusy]
  · have hsends : s.StaysCalm False t := by
      rw [ht]
      exact (Dev.StaysCalm.frame (t := s.setJobState jARMED) (Dev.StaysCalm.refl s).setFld).andThen
        fun _ => ((Dev.SendsOnly.refl _).manifestKids.tellKids).staysCalm
    refine ⟨fun hkids => ?_, fun hkids => ?_⟩
    · exact exec_jlaunch_round halive hcalm hop hnone hhead hgood hread hfirst hdistinct hresize hL (ht.trans (Dev.roundStart_kids L hkids).symm) hsends
    · exact exec_jlaunch_round halive hcalm hop hnone hhead hgood hread hfirst hdistinct hresize hL (Dev.roundStart_leaf L hkids ht).symm hsends.frame
  · obtain ⟨s, hexec, hlaunch', hstate'⟩ := exec_go (q := q) halive hlaunch htype hroot harmed hjob hseq hcrc htgo hstate
    refine ⟨fun hearly => ⟨s, ?_, hlaunch', hstate'⟩, fun hlate => ?_⟩
    · rw [hexec, if_neg (Nat.not_lt.mpr hearly)]
    · obtain ⟨hruns, hnoted, hnone, -⟩ := Dev.jobStart_entered (l := { L with tgo := some (c.f 40 0 64) }) (late := some (d.now - c.f 40 0 64))
        hroot hstate'
      exact ⟨_, hexec.trans (by rw [if_pos hlate]), hnone, hruns, hnoted⟩
  · obtain ⟨hruns, -, hnone, hlist, hid, hindex, hepoch, hlen, hmeters⟩ := Dev.jobStart_entered (late := none) hroot hstate
    refine ⟨_, exec_tGoReached halive hlaunch htgo, hruns, hnone, hlist, hid, hindex, hepoch, hlen, hmeters, ?_⟩
    rw [Dev.jobStart_armed hroot hstate]
    exact Dev.sealed_memberStarted _ _ _
  · obtain ⟨hruns, hnone, hlist, hepoch, hid⟩ := Dev.jobStart_resized (late := none) hroot hstate
    exact ⟨_, exec_tGoReached halive hlaunch htgo, hruns, hnone, hlist, hepoch, hid⟩

end

end Sys2Proof.Machine
end

section
/-! A work descriptor armed on a device of which no access has to wait keeps it so, whatever it is (R433, R459): the lemmas for the
commands of the step program, in the order of their opcodes. -/
namespace Sys2Proof.Machine
namespace Dev.StaysCalm
variable {s t : Dev}

-- The short theorems below are elaborated one after another: side by side, their threads' stacks exceed the memory of the check.
set_option Elab.async false

/-! ### Groups: aborts, refusals, forming -/

theorem abortRecord {k : Cmd} {gr : Group} {cause rank : Nat} (h : s.StaysCalm False t) : s.StaysCalm False (t.abortRecord k gr cause rank) := by
  unfold Dev.abortRecord
  split
  · exact ite h.record h.record
  · exact h.record

theorem abortOne {k : Cmd} {gr : Group} {cause rank : Nat} (h : s.StaysCalm False t) : s.StaysCalm False (t.abortOne k gr cause rank) :=
  h.abortRecord.groupKill

theorem abortGroup {g : Group} {rank : Nat} (h : s.StaysCalm False t) : s.StaysCalm False (t.abortGroup g rank) :=
  ite h.groupBroken.record (h.groupBroken.each fun h => ite h.abortOne h)

theorem badLevel {gid : Nat} {c : Carriage} (h : s.StaysCalm False t) : s.StaysCalm False (t.badLevel gid c) :=
  ite h.bump (frame (t := Dev.record _ _ _ _ _ _ _) h.bump.record)

theorem groupFormed {gid : Nat} (h : s.StaysCalm False t) : s.StaysCalm False (t.groupFormed gid) := by
  unfold Dev.groupFormed
  split
  · exact h
  · dsimp only
    split
    · exact (h.each badLevel).updGroup.commit.abortGroup
    · exact (h.each badLevel).updGroup.commit

theorem groupRefuse {src : Source} {l : Line} {gid stream xid : Nat} {r : Refuse} (h : s.StaysCalm False t) :
    s.StaysCalm False (t.groupRefuse src l gid stream xid r) := by
  unfold Dev.groupRefuse
  dsimp only
  split
  · exact ite h.refuse.takeSeq.sendAborts h.refuse
  · exact h.refuse

theorem abortArmed {gr : Group} {stream xid g : Nat} (h : s.StaysCalm False t) : s.StaysCalm False (t.abortArmed gr stream xid g).1 := by
  unfold Dev.abortArmed
  split
  · exact h
  · dsimp only
    split
    · exact h.updGroup.abortRecord.groupKill
    · exact h.updGroup.groupKill

/-! ### Commands of the step program -/

/-- An instruction of a unit, run in a step. -/
theorem run_unit {f : Dev → Dev} (hf : ∀ u : Dev, u.StaysCalm False (f u)) (h : s.StaysCalm False t) :
    s.StaysCalm False (t.run fun x => x.unit f) := by
  refine h.andThen fun hcalm => ?_
  unfold Dev.run
  dsimp only
  cases halive : t.alive with
  | false =>
    unfold State.unit
    rw [State.upd_dead halive]
    exact refl t
  | true =>
    rw [State.unit_of_staysCalm [] halive hcalm rfl (hf t)]
    exact hf t

/-- An instruction whose access cannot have to wait, run in a step. -/
theorem run_upd {f : Dev → Dev} (hf : ∀ u : Dev, u.StaysCalm False (f u)) (h : s.StaysCalm False t) :
    s.StaysCalm False (t.run fun x => x.upd f) := by
  refine h.andThen fun _ => ?_
  unfold Dev.run
  dsimp only
  cases halive : t.alive with
  | false =>
    rw [State.upd_dead halive]
    exact refl t
  | true =>
    rw [State.upd_alive halive]
    exact hf t

section
variable {src : Source} {l : Line}

theorem runprog (h : s.StaysCalm False t) : s.StaysCalm False (t.run (execRunprog src l)) := by
  refine run_unit (fun u => ite (refl u) ?_) h
  split
  · exact (refl u).refuse
  · split
    · exact (refl u).refuse
    · exact (refl u).arm

theorem routeArm {stalls : Nat} (h : s.StaysCalm False t) : s.StaysCalm False (t.routeArm src l stalls) := by
  unfold Dev.routeArm
  dsimp only
  split
  · next heq =>
    have hbad := h.routeBad.of_fst heq
    split
    · exact ite hbad.refuse hbad.refuse.refusePass
    · exact hbad.refuse
  · next heq =>
    have hbad := h.routeBad.of_fst heq
    split
    · next hblk =>
      have hread := hbad.readBlk.of_fst hblk
      refine ite ?_ (ite (stageTo ?_) ?_) <;> exact (StaysCalm.arm hread.takeSeq).postsWake.abortArmed
    · next hread _ => exact hbad.readBlk.of_fst hread

theorem routepass (h : s.StaysCalm False t) : s.StaysCalm False (t.run (execRoutepass src l)) :=
  run_unit (fun u => ite (refl u).routeArm (refl u)) h

theorem exchTake {gr : Group} {stalls : Nat} (h : s.StaysCalm False t) : s.StaysCalm False (t.exchTake src l gr stalls) := by
  refine ite ?_ (each (updGroup ?_) acceptOffer) <;> exact (StaysCalm.arm h.takeSeq).postsWake.abortArmed

theorem exchArm {stalls : Nat} (h : s.StaysCalm False t) : s.StaysCalm False (t.exchArm src l stalls) := by
  unfold Dev.exchArm
  dsimp only
  split
  · exact h.groupRefuse
  · split
    · exact h.groupRefuse
    · split
      · exact h.groupRefuse
      · exact ite h.groupRefuse (ite h.groupRefuse h.exchTake)

theorem exchange (h : s.StaysCalm False t) : s.StaysCalm False (t.run (execExchange src l)) :=
  run_unit (fun u => ite (refl u).exchArm (refl u)) h

theorem gform (h : s.StaysCalm False t) : s.StaysCalm False (t.run (execGform src l)) := by
  refine run_unit (fun u => ite (refl u) ?_) h
  split
  · exact (refl u).refuse
  · split
    · exact (refl u).refuse
    · refine ite (refl u).refuse (ite (refl u).refuse ?_)
      split
      · exact (refl u).refuse
      · split
        · next heq => exact ((refl u).unitRead.of_fst heq).refuse
        · next heq =>
          have hread : u.StaysCalm False _ := (refl u).unitRead.of_fst heq
          refine ite hread.refuse ?_
          refine ite (groupFormed ?_) ?_ <;> exact each (frame (StaysCalm.arm hread)) sendCtl

theorem gdissolve (h : s.StaysCalm False t) : s.StaysCalm False (t.run (execGdissolve src l)) := by
  refine run_upd (fun u => ite (refl u) ?_) h
  split
  · exact (refl u).refuse
  · split
    · exact (refl u).refuse
    · dsimp only
      have harm (b : CmdBody) : u.StaysCalm False (u.arm src l 0 [] [] b).1 := (refl u).arm
      split
      · exact (harm _).commit
      · next gr hgroup =>
        have hnamed {v : Dev} {k : Cmd} {gid n : Nat} (hv : u.StaysCalm False v) : u.StaysCalm False (match k.body with
            | .route _ => v.record clsROUTE 0x006 gid k.gen blkPST n
            | _ => v) := by
          split
          · exact hv.record
          · exact hv
        have hrerun {v : Dev} {k : Dying} (hv : u.StaysCalm False v) : u.StaysCalm False (match cmdInst k.cmd with
            | some (_, stream, xid) => v.sendAborts gr stream xid 5
            | none => v) := by
          split
          · exact hv.sendAborts
          · exact hv
        refine commit (frame (t := if gr.state = gFORMING then Dev.finish _ _ _ _ else _) (ite (finish ?_) ?_)) <;>
          exact each (frame (t := Dev.each _ _ _) (each (harm _) fun hv => (hnamed hv).groupKill.sendAborts)) hrerun

/-- A collective is armed, and takes what of it came early. -/
theorem collArm {gr : Group} {perm : List Nat} {stalls : Nat} {front : Bool} (h : s.StaysCalm False t) :
    s.StaysCalm False (t.collArm src l gr perm stalls front) := by
  unfold Dev.collArm
  dsimp only
  have harm {rs ws : List (Nat × Nat)} {b : CmdBody} {f : Group → Group} :
      s.StaysCalm False (((t.takeSeq gr.gid 0).arm src l 0 rs ws b).1.updGroup gr.gid f) := (StaysCalm.arm h.takeSeq).updGroup
  split
  · exact harm.record.groupKill
  · split
    · exact harm.digestKill
    · refine ite (groupFault ?_) (ite (collStart ?_) ?_) <;> exact acceptChunks _ (harm.each acceptOffer)

theorem collective (h : s.StaysCalm False t) : s.StaysCalm False (t.collective src l) := by
  unfold Dev.collective
  dsimp only
  split
  · exact h.groupRefuse
  · refine ite h.groupRefuse ?_
    split
    · next heq => exact (h.collBad.of_fst heq).groupRefuse
    · next heq =>
      have hbad := h.collBad.of_fst heq
      split
      · exact ite hbad.groupRefuse (ite hbad.groupRefuse hbad.collArm)
      · exact hbad.groupRefuse

theorem move (h : s.StaysCalm False t) : s.StaysCalm False (t.run (execMove src l)) := by
  refine run_upd (fun u => ite (refl u) ?_) h
  split
  · exact (refl u).refuse
  · split
    · exact (refl u).refuse
    · exact pump (frame (t := (u.arm _ _ _ _ _ _).1) (refl u).arm)

theorem mfx (h : s.StaysCalm False t) : s.StaysCalm False (t.run (execMfx src l)) := by
  refine run_upd (fun u => ite (refl u) ?_) h
  split
  · exact (refl u).refuse
  · split
    · exact (refl u).refuse
    · exact ite (refl u).refuse (mfxGo (refl u).arm)

theorem matomic (h : s.StaysCalm False t) : s.StaysCalm False (t.run (execMatomic src l)) := by
  refine run_upd (fun u => ite (refl u) ?_) h
  split
  · exact (refl u).refuse
  · split
    · exact (refl u).refuse
    · exact mfxGo (refl u).arm

/-- A work command is armed, or refused, without a wait. -/
theorem armWork (h : s.StaysCalm False t) : s.StaysCalm False (t.armWork src l) := by
  have hcoll {f : State → Host.Outcome State Fault Refusal} {op : Nat}
      (hf : f = fun x => x.unit fun u => if dOp l = op then u.collective src l else u) : s.StaysCalm False (t.run f) := by
    rw [hf]
    exact run_unit (fun u => ite (refl u).collective (refl u)) h
  unfold Dev.armWork
  split
  · exact h.runprog
  · exact h.routepass
  · exact h.exchange
  · exact h.gform
  · exact h.gdissolve
  · exact hcoll rfl
  · exact hcoll rfl
  · exact hcoll rfl
  · exact hcoll rfl
  · exact h.move
  · exact h.mfx
  · exact h.matomic
  · exact h.refuse

end

end Dev.StaysCalm
end Sys2Proof.Machine
end

section
/-! The serving loop on a device of which no access has to wait (R458, R459, R464 to R466, R469 to R472): what it reads, writes and
arms keeps the device so. -/
namespace Sys2Proof.Machine
namespace Dev.StaysCalm
variable {s t : Dev}

-- The short theorems below are elaborated one after another: side by side, their threads' stacks exceed the memory of the check.
set_option Elab.async false

theorem setSrv {f : Serving → Serving} (h : s.StaysCalm False t) : s.StaysCalm False (t.setSrv f) := h.frame

theorem loopEnd (h : s.StaysCalm False t) : s.StaysCalm False t.loopEnd := each (setReg (setSrv h)) commit

/-! ### Sessions and slices -/

theorem loopWrite {a : Nat} {bs : List Byte} (h : s.StaysCalm False t) : s.StaysCalm False (t.loopWrite a bs) := ite h h.jobWrite
theorem setSess {i n k v : Nat} (h : s.StaysCalm False t) : s.StaysCalm False (t.setSess i n k v) := h.loopWrite
theorem setSessState {i x : Nat} (h : s.StaysCalm False t) : s.StaysCalm False (t.setSessState i x) := h.setSess

theorem sessLook {i : Nat} (h : s.StaysCalm False t) : s.StaysCalm False (t.sessLook i).1 := by
  unfold Dev.sessLook
  split <;> next heq => exact h.unitRead.of_fst heq

theorem sliceReason {x : List Byte} {seen : List Nat} {rows : Nat} {l : Line} (h : s.StaysCalm False t) :
    s.StaysCalm False (t.sliceReason x seen rows l).1 := by
  unfold Dev.sliceReason
  dsimp only
  refine iteFst h (iteFst h.sessLook ?_)
  split
  · split <;> next heq => exact h.sessLook.unitRead.of_fst heq
  · split <;> next heq => exact h.sessLook.unitRead.of_fst heq
  · exact h.sessLook

theorem sliceRefused {first : Bool} {i reason : Nat} (h : s.StaysCalm False t) : s.StaysCalm False (t.sliceRefused first i reason) :=
  ite h.bump.record h.bump

theorem sessOpen {i : Nat} {im : List Byte} (h : s.StaysCalm False t) : s.StaysCalm False (t.sessOpen i im) :=
  ite (setSess (frame (t := t.loopWrite _ _) h.loopWrite)) h.loopWrite

theorem passOpenSlices (l : Line) (xs : List (Nat × List Byte)) (clean : Bool) (h : s.StaysCalm False t) :
    s.StaysCalm False (Dev.passOpenSlices l xs clean t).1 := by
  induction xs generalizing t clean with
  | nil => exact h
  | cons x xs ih =>
    unfold Dev.passOpenSlices
    exact iteFst (ih _ h) (ih _ (ite h.sliceReason.sessOpen h.sliceReason.sliceRefused))

theorem passRowSlices (l : Line) (xs : List (Nat × List Byte)) (clean : Bool) (seen : List Nat) (rows : Nat) (h : s.StaysCalm False t) :
    s.StaysCalm False (Dev.passRowSlices l xs clean seen rows t).1 := by
  induction xs generalizing t clean seen rows with
  | nil => exact h
  | cons x xs ih =>
    unfold Dev.passRowSlices
    exact iteFst (ih _ _ _ h) (ih _ _ _ (ite h.sliceReason h.sliceReason.sliceRefused))

/-! ### The step program -/

theorem stepArm (l : Line) (n : Nat) (h : s.StaysCalm False t) : s.StaysCalm False (Dev.stepArm l n t) := by
  induction n generalizing t with
  | zero => exact h
  | succ n ih =>
    unfold Dev.stepArm
    split
    · exact h
    · refine ite h ?_
      dsimp only
      split
      · next heq => exact ih (setSrv (setSrv (h.unitRead.of_fst heq)))
      · next heq =>
        have hread := h.unitRead.of_fst heq
        refine ite hread (ih (ite ?_ (setSrv (setSrv ?_)))) <;> exact (setSrv (setSrv hread)).armWork

theorem stepStart {l : Line} {f : FrameRun} (h : s.StaysCalm False t) : s.StaysCalm False (t.stepStart l f) := stepArm _ _ h.setSrv.bump

theorem frameEnd {l : Line} {head done : Nat} (h : s.StaysCalm False t) : s.StaysCalm False (t.frameEnd l head done) := by
  have hcounted : s.StaysCalm False (if done ≠ 0 && ctrOk done then (t.loopWrite (slFq l + 8) (leBytes 8 (head + 1))).unitAdd done 1
      else t.loopWrite (slFq l + 8) (leBytes 8 (head + 1))) := ite h.loopWrite.unitAdd h.loopWrite
  exact ite (loopEnd (setSrv hcounted.bump)) (setSrv hcounted.bump)

theorem frameStart {l : Line} {head : Nat} (h : s.StaysCalm False t) : s.StaysCalm False (t.frameStart l head) := by
  unfold Dev.frameStart
  dsimp only
  split
  · next heq => exact frameEnd (record (h.unitRead.of_fst heq))
  · next heq =>
    have hread := h.unitRead.of_fst heq
    refine ite hread.record.frameEnd ?_
    split
    · next heq' => exact frameEnd (record (hread.unitRead.of_fst heq'))
    · next heq' => exact (passRowSlices _ _ _ _ _ (passOpenSlices _ _ _ (hread.unitRead.of_fst heq'))).loopWrite.stepStart

theorem emptyStart {l : Line} (h : s.StaysCalm False t) : s.StaysCalm False (t.emptyStart l) := h.bump.loopWrite.stepStart

/-! ### The end of a frame -/

theorem sliceEnd {l : Line} {step : Nat} {r : SliceRun} {smp : Nat} (h : s.StaysCalm False t) : s.StaysCalm False (t.sliceEnd l step r smp).1 := by
  unfold Dev.sliceEnd
  dsimp only
  have hlooked : s.StaysCalm False (if (t.sessLook r.session).2 = 7 then (t.sessLook r.session).1
      else (t.sessLook r.session).1.setSess r.session 4 4 (((t.sessLook r.session).1.sess r.session 4 4 + r.rows) % 2 ^ 32)) :=
    ite h.sessLook h.sessLook.setSess
  refine iteFst hlooked.setSessState (iteFst ?_ (ite hlooked.setSessState hlooked))
  split
  · next heq => exact (hlooked.unitRead.of_fst heq).setSessState
  · next heq =>
    have hread := hlooked.unitRead.of_fst heq
    split
    · exact hread.record.setSessState
    · exact hread.setSess.setSess.setSessState.bump

theorem slicesEnd (l : Line) (step : Nat) (ok : Bool) (rs : List SliceRun) (smp : Nat) (h : s.StaysCalm False t) :
    s.StaysCalm False (Dev.slicesEnd l step ok rs smp t).1 := by
  induction rs generalizing t smp with
  | nil => exact h
  | cons r rs ih =>
    unfold Dev.slicesEnd
    exact iteFst (ih _ h) (iteFst (ih _ h) (iteFst (ih _ h.sessLook.setSessState) (ih _ h.sliceEnd)))

theorem slicesClose (xs : List (SliceRun × SliceOut)) (i : Nat) (clean : Bool) (h : s.StaysCalm False t) :
    s.StaysCalm False (Dev.slicesClose xs i clean t).1 := by
  induction xs generalizing t i clean with
  | nil => exact h
  | cons x xs ih =>
    unfold Dev.slicesClose
    dsimp only
    refine iteFst (ih _ _ h) (ih _ _ (ite (setSessState ?_) (sliceRefused ?_))) <;> exact iteFst h h.sessLook

theorem outRec {a : Nat} {r : SliceRun} {o : SliceOut} (h : s.StaysCalm False t) : s.StaysCalm False (t.outRec a r o) := by
  unfold Dev.outRec
  dsimp only
  refine loopWrite (iteFst h ?_)
  split <;> next heq => exact h.unitRead.of_fst heq

theorem frameDone {l : Line} {f : FrameRun} (h : s.StaysCalm False t) : s.StaysCalm False (t.frameDone l f) := by
  unfold Dev.frameDone
  dsimp only
  refine frameEnd (each (slicesClose _ _ _ (slicesEnd _ _ _ _ _ ?_)) outRec)
  split
  · exact h.record
  · exact h

theorem emptyDone (h : s.StaysCalm False t) : s.StaysCalm False t.emptyDone := ite (loopEnd (setSrv h)) h.setSrv

end Dev.StaysCalm

section
variable {q : List Instr} {d : Dev}

/-! ### The registers of the sessions (R459) -/

theorem findRow_sessbase : findRow Reg.HST_SESSBASE = some ⟨0x200040, [], 64, 0xffffffffffffffc0, 0, 0, 0, 0⟩ := by decide
theorem findRow_sesscfg : findRow Reg.HST_SESSCFG = some ⟨0x200048, [], 32, 0x1ffff, 0, 0, 0, 0⟩ := by decide

theorem bits_6_58 {n : Nat} (h : n < 2 ^ 64) : bits n 6 58 = n / 64 := by
  unfold bits
  exact Nat.mod_eq_of_lt (by omega)

section
variable (halive : d.alive = true)
include halive

theorem exec_sessionConfigWrite {b : Nat} (hb : b ∈ [Reg.HST_SESSBASE, Reg.HST_SESSCFG]) (v : Word64) :
    exec (.sessionConfigWrite b v) ⟨q, d⟩ = .next ⟨q, if d.srv.desc.isSome then d.discard clsHOST 0x012 b 0
      else d.regWrite .host b (if b = Reg.HST_SESSCFG then v.toNat % 2 ^ 32 else v.toNat)⟩ := by
  rw [show exec (.sessionConfigWrite b v) ⟨q, d⟩ = execSessionConfigWrite b v ⟨q, d⟩ from rfl, execSessionConfigWrite, State.upd_alive halive]
  dsimp only
  rw [if_neg (by
    simp only [List.mem_cons, List.not_mem_nil, or_false] at hb
    rcases hb with rfl | rfl <;> simp)]

theorem exec_sessionConfigWrite_running {b : Nat} (hb : b ∈ [Reg.HST_SESSBASE, Reg.HST_SESSCFG]) (v : Word64) (hruns : d.srv.desc ≠ none) :
    exec (.sessionConfigWrite b v) ⟨q, d⟩ = .next ⟨q, d.record clsHOST 0x012 (b % 0x100000) 0 blkHST 0⟩ := by
  rw [exec_sessionConfigWrite halive hb, if_pos (Option.isSome_iff_ne_none.2 hruns)]
  simp only [List.mem_cons, List.not_mem_nil, or_false] at hb
  rcases hb with rfl | rfl <;> rfl

section
variable (v : Word64) (hidle : d.srv.desc = none)
include hidle

theorem exec_sessionConfigWrite_base : ∃ t, exec (.sessionConfigWrite Reg.HST_SESSBASE v) ⟨q, d⟩ = .next ⟨q, t⟩
    ∧ d.OnlyRegs t [Reg.HST_SESSBASE] ∧ t.reg Reg.HST_SESSBASE / 64 = v.toNat / 64 := by
  obtain ⟨hframe, hreg⟩ := Dev.regWrite_host (d := d) (v := v.toNat) (by decide) findRow_sessbase rfl rfl
  refine ⟨_, (exec_sessionConfigWrite halive (by simp) v).trans (by rw [hidle, if_neg (by decide), if_neg (by decide)]), hframe, ?_⟩
  rw [← bits_6_58 (Dev.reg_lt _ _), hreg, bits_mod _ (by decide), bits_mergeWrite (by decide), bits_6_58 v.isLt]

theorem exec_sessionConfigWrite_count (hcount : bits v.toNat 0 17 ≤ 65536) : ∃ t, exec (.sessionConfigWrite Reg.HST_SESSCFG v) ⟨q, d⟩ = .next ⟨q, t⟩
    ∧ d.OnlyRegs t [Reg.HST_SESSCFG] ∧ t.fld Reg.HST_SESSCFG 0 17 = bits v.toNat 0 17 := by
  have hcount' (old : Nat) : bits (mergeWrite ⟨0x200048, [], 32, 0x1ffff, 0, 0, 0, 0⟩ .host old (v.toNat % 2 ^ 32)) 0 17 = bits v.toNat 0 17 := by
    rw [bits_mergeWrite (by decide), bits_mod _ (by decide)]
  have hgood (old : Nat) : regReserved d.express Reg.HST_SESSCFG (mergeWrite ⟨0x200048, [], 32, 0x1ffff, 0, 0, 0, 0⟩ .host old (v.toNat % 2 ^ 32))
      = false := decide_eq_false (by rw [hcount']; omega)
  obtain ⟨hframe, hreg⟩ := Dev.regWrite_host (d := d) (by decide) findRow_sesscfg rfl (hgood _)
  refine ⟨_, (exec_sessionConfigWrite halive (by simp) v).trans (by rw [hidle, if_neg (by decide), if_pos rfl]), hframe, ?_⟩
  unfold Dev.fld
  rw [hreg, bits_mod _ (by decide), hcount']

end

end

/-! ### SLOOP and SSTOP (R458, R459, R472) -/

section
variable {src : Source} {l : Line} (halive : d.alive = true) (hcalm : d.calm = true) (hhead : d.headCheck l = none)
include halive hcalm hhead

section
variable (hop : dOp l = 0x0600) (hentropy : ¬(bit (slFlags l) 1 = true ∧ dV l = false))
include hop hentropy

theorem exec_sloop_bad {n : Nat} (hbad : d.sloopBad l = some n) : exec (.sloop src l) ⟨q, d⟩ = .next ⟨q, d.refuse src l ⟨clsHOST, 0x020, n⟩⟩ := by
  refine State.unit_of_staysCalm q halive hcalm ?_ (Dev.StaysCalm.refl d).refuse
  dsimp only
  rw [if_neg (not_not.mpr hop), hhead]
  dsimp only
  rw [if_neg (by simpa using hentropy), hbad]

theorem exec_sloop_refused (hgood : d.sloopBad l = none) (hno : d.fld Reg.HST_SESSCFG 0 17 = 0 ∨ d.srv.desc ≠ none) :
    exec (.sloop src l) ⟨q, d⟩ = .next ⟨q, d.refuse src l ⟨clsHOST, 0x020, 0⟩⟩ := by
  refine State.unit_of_staysCalm q halive hcalm ?_ (Dev.StaysCalm.refl d).refuse
  dsimp only
  rw [if_neg (not_not.mpr hop), hhead]
  dsimp only
  rw [if_neg (by simpa using hentropy), hgood]
  dsimp only
  exact if_pos (by simpa [Option.isSome_iff_ne_none] using hno)

theorem exec_sloop_starts {s1 : Dev} {g : Nat} (hgood : d.sloopBad l = none) (hsess : d.fld Reg.HST_SESSCFG 0 17 ≠ 0) (hidle : d.srv.desc = none)
    (harm : d.arm src l 0 [] [] .control = (s1, g)) : exec (.sloop src l) ⟨q, d⟩
      = .next ⟨q, ((s1.setSrv fun _ => ⟨some l, none, 0, none⟩).setReg Reg.HST_LOOPSTAT (1 + 2 * lfield l 16 0 1)).commit g 0⟩ := by
  have harmed : d.StaysCalm False s1 := (Dev.StaysCalm.arm (Dev.StaysCalm.refl d)).of_fst harm
  refine State.unit_of_staysCalm q halive hcalm ?_ harmed.setSrv.setReg.commit
  dsimp only
  rw [if_neg (not_not.mpr hop), hhead]
  dsimp only
  rw [if_neg (by simpa using hentropy), hgood]
  dsimp only
  rw [if_neg (by simp [hsess, hidle]), harm]

end

section
variable {s1 : Dev} {g : Nat} (hop : dOp l = 0x0601) (harm : d.arm src l 0 [] [] .sstop = (s1, g))
include hop harm

theorem exec_sstop : exec (.sstop src l) ⟨q, d⟩ = .next ⟨q, if d.srv.desc = none then s1.commit g 0
    else if d.srv.frame = none then s1.loopEnd else s1.setSrv fun v => { v with stop := some g }⟩ := by
  have harmed : d.StaysCalm False s1 := (Dev.StaysCalm.arm (Dev.StaysCalm.refl d)).of_fst harm
  have hsrv : s1.srv = d.srv := by
    obtain ⟨-, -, hsrv⟩ := d.arm_keeps src l 0 [] [] .sstop
    rwa [harm] at hsrv
  refine State.unit_of_staysCalm q halive hcalm ?_ (.ite harmed.commit (.ite harmed.loopEnd harmed.setSrv))
  dsimp only
  rw [if_neg (not_not.mpr hop), hhead]
  dsimp only
  rw [harm]
  simp only [hsrv, Option.isNone_iff_eq_none]

end

end

/-! ### The top of the loop and its steps (R464 to R466, R567) -/

/-- While the core that runs the loop is halted, its events wait. -/
theorem exec_loop_held (halive : d.alive = true) (hcalm : d.calm = true) (hheld : d.loopHeld = true) :
    ∀ i ∈ [Instr.frameQueuePoll, .loopFrameStart, .loopEmptyStep, .loopStepComplete], exec i ⟨q, d⟩ = .next ⟨q, d⟩ := by
  have htop (f : Line → Dev → Dev) : d.loopTop f = d := by
    unfold Dev.loopTop
    split
    · rfl
    · exact if_pos (by rw [hheld]; simp)
  have hrefl := Dev.StaysCalm.refl (same := False) d
  simp only [List.mem_cons, List.not_mem_nil, or_false, forall_eq_or_imp, forall_eq]
  refine ⟨State.unit_of_staysCalm q halive hcalm (htop _) hrefl, State.unit_of_staysCalm q halive hcalm (htop _) hrefl,
    State.unit_of_staysCalm q halive hcalm (htop _) hrefl, State.unit_of_staysCalm q halive hcalm ?_ hrefl⟩
  split
  · exact if_pos (by rw [hheld]; simp)
  · rfl

section
variable {l : Line} (halive : d.alive = true) (hcalm : d.calm = true) (hdesc : d.srv.desc = some l) (hruns : d.jobState = jRUNNING)
  (hfree : d.loopHeld = false)
include halive hcalm hdesc hruns hfree

section
variable {s : Dev} {bs : List Byte} (hframe : d.srv.frame = none) (hread : d.unitRead (slFq l) 16 = (s, some bs))
include hframe hread

omit halive hcalm in
theorem Dev.loopTop_read (f : Line → Dev → Dev) : d.loopTop f = f l s := by
  unfold Dev.loopTop
  rw [hdesc]
  dsimp only
  rw [if_neg (by simp [hframe, hruns, hfree]), hread]

/-- An event of the loop at its top does what its row says. -/
theorem exec_loopTop {i : Instr} {f : Line → Dev → Dev} {t : Dev} (hi : exec i ⟨q, d⟩ = State.unit ⟨q, d⟩ fun s => s.loopTop f) (ht : f l s = t)
    (hcalm' : s.StaysCalm False t) : exec i ⟨q, d⟩ = .next ⟨q, t⟩ := by
  have hs : d.StaysCalm False s := (Dev.StaysCalm.refl d).unitRead.of_fst hread
  rw [hi]
  exact State.unit_of_staysCalm q halive hcalm ((Dev.loopTop_read hdesc hruns hfree hframe hread f).trans ht) (hs.andThen fun _ => hcalm')

theorem exec_loop_overrun (hover : 2 ^ slLog2 l < s.frames l) : ∀ i ∈ [Instr.frameQueuePoll, .loopFrameStart],
    exec i ⟨q, d⟩ = .next ⟨q, (s.record clsHOST 0x024 0xFFFFFFFF 0 blkHST 0).loopEnd⟩ := by
  have hcalm' : s.StaysCalm False (s.record clsHOST 0x024 0xFFFFFFFF 0 blkHST 0).loopEnd := (Dev.StaysCalm.refl s).record.loopEnd
  simp only [List.mem_cons, List.not_mem_nil, or_false, forall_eq_or_imp, forall_eq]
  exact ⟨exec_loopTop halive hcalm hdesc hruns hfree hframe hread rfl (if_pos hover) hcalm',
    exec_loopTop halive hcalm hdesc hruns hfree hframe hread rfl (if_pos hover) hcalm'⟩

theorem exec_loop_frame (hroom : s.frames l ≤ 2 ^ slLog2 l) (hsome : s.frames l ≠ 0) : ∀ i ∈ [Instr.frameQueuePoll, .loopFrameStart],
    exec i ⟨q, d⟩ = .next ⟨q, s.frameStart l (s.rdNum (chAddr (slFq l + 8)) 8)⟩ := by
  have hcalm' : s.StaysCalm False (s.takeFrame l) := (Dev.StaysCalm.refl s).frameStart
  simp only [List.mem_cons, List.not_mem_nil, or_false, forall_eq_or_imp, forall_eq]
  exact ⟨exec_loopTop halive hcalm hdesc hruns hfree hframe hread rfl ((if_neg (Nat.not_lt.mpr hroom)).trans (if_pos hsome)) hcalm',
    exec_loopTop halive hcalm hdesc hruns hfree hframe hread rfl ((if_neg (Nat.not_lt.mpr hroom)).trans (if_pos hsome)) hcalm'⟩

theorem exec_loop_empty (hnone : s.frames l = 0) (hgroup : bit (slFlags l) 0 = true) (hoffer : s.offerWaits (slGroup l) = true) :
    ∀ i ∈ [Instr.frameQueuePoll, .loopEmptyStep], exec i ⟨q, d⟩ = .next ⟨q, s.emptyStart l⟩ := by
  have hcalm' : s.StaysCalm False (s.emptyStart l) := (Dev.StaysCalm.refl s).emptyStart
  have hroom : ¬2 ^ slLog2 l < s.frames l := by
    rw [hnone]
    exact Nat.not_lt_zero _
  simp only [List.mem_cons, List.not_mem_nil, or_false, forall_eq_or_imp, forall_eq]
  exact ⟨exec_loopTop halive hcalm hdesc hruns hfree hframe hread rfl
      ((if_neg hroom).trans ((if_neg (not_not.mpr hnone)).trans (if_pos (by rw [hgroup, hoffer]; rfl)))) hcalm',
    exec_loopTop halive hcalm hdesc hruns hfree hframe hread rfl (if_pos (by rw [hnone, hgroup, hoffer]; rfl)) hcalm'⟩

end

/-- A step goes on arming, or ends its frame once its commands have ended. -/
theorem exec_loopStepComplete {f : FrameRun} (hframe : d.srv.frame = some f) : exec .loopStepComplete ⟨q, d⟩
    = .next ⟨q, if f.next < slStepLen l then Dev.stepArm l (slStepLen l) d else if f.gens ≠ [] then d
      else if f.empty then d.emptyDone else d.frameDone l f⟩ := by
  have hrefl := Dev.StaysCalm.refl (same := False) d
  refine State.unit_of_staysCalm q halive hcalm ?_ (.ite (hrefl.stepArm _ _) (.ite hrefl (.ite hrefl.emptyDone hrefl.frameDone)))
  rw [hdesc, hframe]
  dsimp only
  rw [if_neg (by simp [hruns, hfree])]
  cases f.gens <;> rfl

end

/-- Settles O41: each clause of the loop by the branch of its row, on a device that has not to wait. -/
theorem servingLoop : Obligations.ServingLoop := by
  intro q d halive hcalm
  refine ⟨fun src l hop hhead hentropy => ⟨fun s1 g hgood hsess hidle harm => exec_sloop_starts halive hcalm hhead hop hentropy hgood hsess hidle harm,
      fun n hbad => exec_sloop_bad halive hcalm hhead hop hentropy hbad, exec_sloop_refused halive hcalm hhead hop hentropy⟩,
    fun src l s1 g hop hhead harm => ⟨fun hidle => ?_, fun hruns hframe => ?_, fun hruns hframe => ?_⟩,
    fun v => ⟨fun hidle => ⟨exec_sessionConfigWrite_base halive v hidle, exec_sessionConfigWrite_count halive v hidle⟩,
      fun hruns b hb => exec_sessionConfigWrite_running halive hb v hruns⟩,
    fun l s bs hdesc hframe hruns hfree hread => ⟨exec_loop_overrun halive hcalm hdesc hruns hfree hframe hread,
      exec_loop_frame halive hcalm hdesc hruns hfree hframe hread, exec_loop_empty halive hcalm hdesc hruns hfree hframe hread⟩,
    fun l f hdesc hframe hruns hfree => ⟨fun hmore => ?_, fun harmed hended => ?_, fun harmed hwaits => ?_⟩, exec_loop_held halive hcalm⟩
  · rw [exec_sstop halive hcalm hhead hop harm, if_pos hidle]
  · rw [exec_sstop halive hcalm hhead hop harm, if_neg hruns, if_pos hframe]
  · rw [exec_sstop halive hcalm hhead hop harm, if_neg hruns, if_neg hframe]
  · rw [exec_loopStepComplete halive hcalm hdesc hruns hfree hframe, if_pos hmore]
  · rw [exec_loopStepComplete halive hcalm hdesc hruns hfree hframe, if_neg (Nat.not_lt.mpr harmed), if_neg (not_not.mpr hended)]
  · rw [exec_loopStepComplete halive hcalm hdesc hruns hfree hframe, if_neg (Nat.not_lt.mpr harmed), if_pos hwaits]

end

end Sys2Proof.Machine
end
